-- ==== Sys2Proof/Word.lean ====
section
/-! DEFINITION. The word types of the Derterax module, the numbers of its units (R6, R7) and the plain
data that several files share: sparse tables are in Machine/Tab.lean, arithmetic on formats in Machine/Numbers.lean. -/

namespace Sys2Proof

/-- One byte (R3: little-endian everywhere). -/
abbrev Byte := BitVec 8
abbrev Word32 := BitVec 32
abbrev Word64 := BitVec 64
/-- A 64-byte descriptor or command: 512 bits, byte 0 at bits [7:0] (R74, R425). -/
abbrev Word512 := BitVec 512

/-- Core number, compute-die number × 8 + position (R7). -/
abbrev CoreId := Fin 256
/-- Die index (R6). -/
abbrev DieId := Fin 64
/-- Kolantax port Pj and its link die Lj (R7). -/
abbrev PortId := Fin 8
/-- Stack: 0 to 15 are N0 to N15, 16 to 23 are F0 to F7 (R502). -/
abbrev StackId := Fin 24
/-- Holding 0 to 7 (R12). -/
abbrev HoldId := Fin 8
/-- PCIe function: 0 is the PF, k is the VF of holding k - 1 (R419). -/
abbrev FnId := Fin 9
/-- Mailbox of a function (R421). -/
abbrev MbId := Fin 4

/-- The format codes of R22. -/
inductive Fmt where
  | fp64 | fp32 | fp16 | bf16 | e4m3 | e5m2 | e2m3 | e3m2 | e2m1 | int8 | int4
  deriving DecidableEq, Repr

/-- The four scaling modes of R25. -/
inductive Scaling where
  | none | tensor | row | block
  deriving DecidableEq, Repr

/-- An exact value: a finite number (-1)^neg × man × 2^exp (the sign of zero is kept, R41), an infinity or a NaN. -/
inductive Val where
  | fin (neg : Bool) (man : Nat) (exp : Int)
  | inf (neg : Bool)
  | nan (neg : Bool)
  deriving DecidableEq, Repr

/-- A byte with its poison mark. -/
structure PByte where
  val : Byte
  poison : Bool
  deriving DecidableEq, Repr

/-- A 32-bit element with its poison mark (R67). -/
structure PWord where
  val : Word32
  poison : Bool
  deriving DecidableEq, Repr

/-- A value read by a unit, with the poison it carries. -/
structure PVal where
  val : Val
  poison : Bool
  deriving DecidableEq, Repr

/-- The paths by which a register write or read reaches a die (R468). -/
inductive Path where
  | host | mgmt | gotre
  deriving DecidableEq, Repr

/-- The status codes of R427. -/
inductive Status where
  | ok | acceptedPending | busyConflict | noResource | badParameter | notPermitted | badSignature
  | wrongState | timeout | aborted | accCapacity | formatFault | poisoned | fenced | staleEpoch
  deriving DecidableEq, Repr

/-- The 16-bit value of a status code (R427). -/
def Status.code : Status → BitVec 16
  | .ok => 0x0000 | .acceptedPending => 0x0001 | .busyConflict => 0x0010 | .noResource => 0x0011
  | .badParameter => 0x0012 | .notPermitted => 0x0013 | .badSignature => 0x0014 | .wrongState => 0x0015
  | .timeout => 0x0016 | .aborted => 0x0017 | .accCapacity => 0x0018 | .formatFault => 0x0019
  | .poisoned => 0x001A | .fenced => 0x001B | .staleEpoch => 0x001C

/-- The owner of a request or block: a holding, the device, or nobody (R229). -/
inductive Owner where
  | holding (h : HoldId)
  | device
  | unassigned
  deriving DecidableEq, Repr

/-- Memory request classes (R225). -/
inductive MemClass where
  | latency | ordinary | bulk | background
  deriving DecidableEq, Repr

/-- The kinds of clearance (R383). -/
inductive Clearance where
  | pass | fail | withdraw
  deriving DecidableEq, Repr

/-- Fence causes (R414). -/
inductive FenceCause where
  | none | checker | array | unresolved | linkArith | dieArith | die | maintenance
  deriving DecidableEq, Repr

/-- The encoding of R414. -/
def FenceCause.code : FenceCause → BitVec 4
  | .none => 0 | .checker => 1 | .array => 2 | .unresolved => 3 | .linkArith => 4 | .dieArith => 5
  | .die => 6 | .maintenance => 7

/-- A flit of 256 bytes (R302): header, 224 payload bytes, extension and CRC. -/
structure Flit where
  hdr : BitVec 128
  payload : List Byte
  ext : Word64
  crc : Word64
  deriving DecidableEq, Repr

end Sys2Proof
end

