-- ==== Sys2Proof/Syntax.lean ====
section
/-! DEFINITION. The commands of the block: one constructor of Instr for each row of spec/opcode_table.json,
in the table's order, each with the operands the row takes. An operand that comes from outside the module
(a flit, a host's word, a temperature) is part of the command; everything else is read from the state. -/

namespace Sys2Proof

/-- The sector ECC outcome that the stack presents for one sector of a read (R235). A miscorrected sector is one
whose error lies beyond the bounds of R235: the controller takes it for corrected, and its data differs by the given
bits. -/
inductive EccOutcome where
  | clean | corrected | uncorrectable
  | miscorrected (error : BitVec 256)
  deriving DecidableEq, Repr

/-- What Gotre reads of a command slot (R421, R424): 64 bytes, or a read that is poisoned or fails. -/
inductive SlotRead where
  | data (w : Word512)
  | bad
  deriving DecidableEq, Repr

/-- What Gotre reads of a parameter block (R430, R432): its words, poison, or a failed read. -/
inductive BlockRead where
  | words (ws : List Word64)
  | poisoned
  | failed
  deriving DecidableEq, Repr

/-- Who sent a message: the source device, the holding that OWNER names and its EPOCH at the source (R303). -/
structure Sender where
  device : BitVec 16
  owner : HoldId := 0
  epoch : BitVec 16 := 0
  deriving DecidableEq, Repr

/-- A count message of a batch (R278, R289). -/
structure CountMsg where
  src : BitVec 16
  owner : HoldId
  epoch : BitVec 16 := 0
  group : Nat
  tag : Word32
  layer : Nat
  round : Fin 2
  deadline : Word64
  counts : List (BitVec 16 × Nat)
  deriving DecidableEq, Repr

/-- One expert's placement in a placement reply (R278, R282): base_d, and the capacity state of its home. -/
structure Placement where
  expert : BitVec 16
  base : Nat
  capacity : Nat
  spill : Nat
  near : Nat
  deriving DecidableEq, Repr

/-- A placement reply from one home device (R278). -/
structure PlacementMsg where
  home : BitVec 16
  owner : HoldId := 0
  epoch : BitVec 16 := 0
  tag : Word32
  round : Fin 2
  places : List Placement
  deriving DecidableEq, Repr

/-- A token row on its way into a slot (R278, R279). -/
structure TokenMsg where
  src : BitVec 16
  owner : HoldId := 0
  epoch : BitVec 16 := 0
  tag : Word32
  expert : BitVec 16
  slot : Nat
  token : BitVec 23
  choice : Fin 8
  round : Fin 2
  row : List PByte
  deriving DecidableEq, Repr

/-- An answer row on its way back to its origin (R285). -/
structure AnswerMsg where
  src : BitVec 16
  owner : HoldId := 0
  epoch : BitVec 16 := 0
  tag : Word32
  expert : BitVec 16
  token : BitVec 23
  choice : Fin 8
  row : List PByte
  deriving DecidableEq, Repr

/-- The causes with which a batch is cancelled (R288). -/
inductive CancelCause where
  | aborted | timeout | badParameter | noResource | fenced
  deriving DecidableEq, Repr

/-- A reduction and chunk as reduction traffic names them (R344). -/
structure ChunkRef where
  group : Fin 256
  reduction : Fin 256
  chunk : Nat
  deriving DecidableEq, Repr

/-- One layer record of a gather trailer (R376). -/
structure TrailerRec where
  layer : Fin 256
  wnf : Bool
  wsq : Nat
  gsq : Nat
  usq : Nat
  deriving DecidableEq, Repr

/-- The decision units of a core (R381). -/
inductive CoreUnit where
  | plough | vector | windrow | copy | sequencer
  deriving DecidableEq, Repr

/-- The neighbour's recomputation as the comparator of the failing core sees it (R386, R387). -/
inductive Recompute where
  | fails | equal | differs | neighbourFenced
  deriving DecidableEq, Repr

/-- One digest record of a member (R400): the step and each layer's digest with its poison mark. -/
structure DigestRec where
  src : BitVec 16
  step : Word32
  layers : List (Word64 × Bool)
  deriving DecidableEq, Repr

/-- A verdict of the vote (R400, R401). -/
inductive Verdict where
  | clean
  | expel (odd : List Nat)
  | rollback
  deriving DecidableEq, Repr

/-- A sideband message (R319, R523). -/
inductive SidebandMsg where
  | none
  | freeze (origin : BitVec 16) (full : Bool) (number : BitVec 16)
  | abortFence (origin : BitVec 16) (holding : HoldId) (epoch : BitVec 16)
  deriving DecidableEq, Repr

/-- A TIME flit that arrives (R323): the parent's answer, stamped at its arrival, or the question of a child, at whose port
the answer leaves. -/
inductive TimeFlit where
  | answer (t4 : Int)
  | question (child : PortId)
  deriving DecidableEq, Repr

/-- A MESSAGE flit's content as its unit takes it (R305). -/
inductive GotreMsg where
  | linkState (position : Fin 64) (bits : BitVec 6)
  | abortFence (origin : BitVec 16) (holding : HoldId) (epoch : BitVec 16)
  | mirrorComplete (src : BitVec 16) (step : Word32) (ranges : List Nat)
  | other (payload : List Byte)
  deriving DecidableEq, Repr

/-- How far one training attempt of a port gets (R325 to R327). -/
inductive TrainOutcome where
  /-- no signal: the cable leads to no powered peer (R298) -/
  | noPeer
  | failed (step : Fin 5)
  /-- step 3 found the given lanes failed on either end (none: bit vector 0), and step 4 the peer -/
  | lanes (failedLanes : BitVec 16) (peer : BitVec 16) (peerPort : Fin 8) (fabric : Bool)
  deriving DecidableEq, Repr

/-- The status of a PCIe completion (R551). -/
inductive CplStatus where
  | ok | unsupported | abort
  deriving DecidableEq, Repr

/-- A scan segment of a die (R527). -/
inductive ScanSegment where
  | registers | operandStore | accumulators | gradientBuffer | vectorRegisters | buffers
  deriving DecidableEq, Repr

/-- What raises a wake event (R483, R491). -/
inductive WakeSource where
  | pin | doorbell | command | abort
  deriving DecidableEq, Repr

/-- An SPDM request (R512). -/
inductive SpdmReq where
  | getVersion | getCapabilities | negotiateAlgorithms | getDigests | getCertificate | challenge (nonce : BitVec 256)
  | getMeasurements (index : Nat) (nonce : BitVec 256) | keyExchange (blob : List Byte) | finish (blob : List Byte)
  deriving DecidableEq, Repr

/-- The temperatures that one trip report gives (R553): hottest logic die, inlet and outlet in °C, and whether
the inlet has stayed above 45 °C for 1 s. -/
structure ThermalReport where
  die : Nat
  inlet : Nat
  outlet : Nat
  inletLong : Bool
  deriving DecidableEq, Repr

/-- A POWER_STATE_SET under way: its job, and the section of the saved image whose write to save memory failed its check as the
entry was committed, if one did (R491). -/
structure PowerCmd where
  job : Nat
  saveFails : Option Nat := none
  deriving DecidableEq, Repr

/-- A write that touches the 8 bytes of a doorbell (R443): its doorbell word, which a write of 4 bytes at the doorbell's address
gives with bits [63:32] zero, or a write of another size or at offset 4, which is none. -/
inductive DbWrite where
  | word (w : Word64)
  | misfit (offset bytes : Nat)
  deriving DecidableEq, Repr

/-- The commands of the block. Each constructor is the row of spec/opcode_table.json of its name. -/
inductive Instr where
  -- the sequencer (R98 to R105)
  | descriptorAccept (core : CoreId) (stream : Fin 2)
  | descriptorStart (core : CoreId) (slot : Fin 16)
  | descriptorRecordComplete (core : CoreId) (stream : Fin 2)
  -- the Plough
  | product (core : CoreId)
  | grouped (core : CoreId)
  -- the vector unit
  | fma (core : CoreId)
  | add (core : CoreId)
  | mul (core : CoreId)
  | max (core : CoreId)
  | min (core : CoreId)
  | select (core : CoreId)
  | div (core : CoreId)
  | sqrt (core : CoreId)
  | func (core : CoreId)
  | deriv (core : CoreId)
  | softmax (core : CoreId)
  | softmaxBwd (core : CoreId)
  | rsum (core : CoreId)
  | rmax (core : CoreId)
  | rmin (core : CoreId)
  | rsumsq (core : CoreId)
  | winnow (core : CoreId)
  | cast (core : CoreId)
  | lenSet (core : CoreId)
  | lenLoad (core : CoreId)
  -- the Windrow
  | gather (core : CoreId)
  | scatterAdd (core : CoreId)
  | segReduce (core : CoreId)
  | spmm (core : CoreId)
  | merge (core : CoreId)
  -- the copy path
  | load (core : CoreId)
  | gatherLoad (core : CoreId)
  | store (core : CoreId)
  | mcastRecv (core : CoreId)
  | ringRecv (core : CoreId)
  | coulterPrefetch (core : CoreId) (slot : Fin 16)
  | prefetchReturn (core : CoreId) (request : Nat)
  | mcastDelivery (core : CoreId)
  -- the transform path
  | copy (core : CoreId)
  | fill (core : CoreId)
  | transformBatchStart (core : CoreId)
  | transformValidPhase (core : CoreId)
  -- fences and events
  | step (core : CoreId) (stream : Fin 2)
  | rest (core : CoreId) (stream : Fin 2)
  | memfence (core : CoreId) (stream : Fin 2)
  | eventSignal (core : CoreId) (stream : Fin 2)
  | eventWait (core : CoreId) (stream : Fin 2)
  | tallyTake (core : CoreId) (stream : Fin 2)
  | tallyRetire (core : CoreId) (stream : Fin 2)
  | gradMap (core : CoreId) (stream : Fin 2)
  | tallyClaim (core : CoreId) (stream : Fin 2) (counter : Fin 256)
  -- the Drill
  | route (core : CoreId)
  | expertWait (core : CoreId)
  | ret (core : CoreId)
  | retWait (core : CoreId)
  | cancel (core : CoreId)
  | countMessage (h : HoldId) (msg : CountMsg)
  | placementReply (h : HoldId) (msg : PlacementMsg)
  | tokenRow (port : PortId) (h : HoldId) (msg : TokenMsg)
  | answer (port : PortId) (h : HoldId) (msg : AnswerMsg)
  | cancelNotice (h : HoldId) (tag : Word32) (cause : CancelCause)
  | drillDeadline (h : HoldId) (tag : Word32)
  | drillBufferRelease (h : HoldId) (queue : Fin 4096) (buffer : Fin 4)
  -- the reduction
  | reduce (core : CoreId)
  | gatherWait (core : CoreId)
  | scale (port : PortId) (h : HoldId) (c : ChunkRef) (src : Sender) (bytes : List Byte)
  | reply (port : PortId) (h : HoldId) (c : ChunkRef) (src : Sender) (admits : Bool) (sexp : List Byte)
  | dataMessage (port : PortId) (h : HoldId) (c : ChunkRef) (src : Sender) (msg : Nat) (bytes : List Byte)
  | scaleDeadline (port : PortId) (h : HoldId) (group reduction : Fin 256)
  | dataDeadline (port : PortId) (h : HoldId) (group reduction : Fin 256)
  | gatherFlit (port : PortId) (h : HoldId) (c : ChunkRef) (src : Sender) (index skip : Nat) (bytes : List PByte)
  | gatherWindowExpiry (core : CoreId)
  | normTrailer (port : PortId) (h : HoldId) (group reduction : Fin 256) (src : Sender) (recs : List TrailerRec)
  | harrowBlock (port : PortId) (h : HoldId) (c : ChunkRef) (block : Nat)
  | precondForward (port : PortId) (h : HoldId) (entry : Fin 4096) (block : Nat) (first : Nat)
    (values : List (Option PWord))
  | forwardDeadline (port : PortId) (h : HoldId) (entry : Fin 4096) (block : Nat)
  | stepBoundary (h : HoldId)
  -- the memory controllers
  | memRead (sector : Nat) (whole : Bool) (owner : Owner) (cls : MemClass) (wait : Bool) (ecc : List (Nat × EccOutcome))
    (parityFails : Bool)
  | memWrite (address : Nat) (owner : Owner) (epoch : BitVec 16) (cls : MemClass) (data : List (Option PByte))
    (pending parityFails : Bool)
  | clearance (block : Nat) (sectors : List Nat) (owner : Owner) (epoch : BitVec 16) (kind : Clearance)
  | scrubBlock (block : Nat) (ecc : List (Nat × EccOutcome)) (onDie : Nat)
  | parityReissue (stack : StackId) (channel : Fin 32) (passes : Bool)
  | stackOverTemperature (stack : StackId) (temp : BitVec 8)
  | throttleLift (stack : StackId)
  | stackCritical (stack : StackId) (temp : BitVec 8)
  | pageWalkDone (die : DieId) (h : HoldId) (va : BitVec 52) (write : Bool) (core : Option CoreId) (poisonedTable : Bool)
  -- integrity
  | checkerDisagreement (core : CoreId) (unit : CoreUnit) (replayPasses : Bool)
  | neighbourRecompute (core : CoreId) (result : Recompute)
  | linkCheckFail (die : DieId) (repeatClean : Bool)
  | tallyMirrorCopyDone (h : HoldId) (counter : Fin 256)
  | checkedNotice (port : PortId) (block : Nat)
  | digestRecord (h : HoldId) (rec : DigestRec)
  | digestWindow (h : HoldId)
  | digestVerdict (h : HoldId) (verdict : Verdict)
  | verdictTimeout (h : HoldId)
  -- the links
  | linkFlitReceive (port : PortId) (flit : Flit) (fecGood : Bool) (symbolsCorrected : Nat)
  | nak (port : PortId) (lack : BitVec 12)
  | endToEndDelivery (port : PortId) (flit : Flit)
  | write (port : PortId) (flit : Flit)
  | message (port : PortId) (src : Sender) (msg : GotreMsg)
  | e2eAck (dst : BitVec 16) (vc : Fin 4) (upto : Word32)
  | e2eNak (dst : BitVec 16) (vc : Fin 4) (fromSeq : Word32)
  | e2eAckTimer (src : BitVec 16) (vc : Fin 4)
  | e2eRetryTimeout (dst : BitVec 16) (vc : Fin 4)
  | unreachableResend (dst : BitVec 16) (vc : Fin 4)
  | linkStateTimer
  | sidebandSlot (port : PortId) (crc : Word32) (msg : SidebandMsg)
  | timeExchange
  | time (t1 t2 t3 : Int) (flit : TimeFlit)
  | portTraining (port : PortId) (outcome : TrainOutcome)
  | trainingRetry (port : PortId)
  | cablePresent (port : PortId) (present : Bool)
  | cableOvercurrent (port : PortId)
  | klxCtrlWrite (path : Path) (port : PortId) (value : Word32)
  | klxDeviceNumWrite (path : Path) (value : Word32)
  | podRouteWrite (path : Path) (word : Fin 64) (value : Word32)
  -- the host apertures
  | hostBar4Read (fn : FnId) (offset : BitVec 52) (length : Nat)
  | hostBar4Write (fn : FnId) (offset : BitVec 52) (data : List PByte)
  | hostReadCompletion (tag : Nat) (status : CplStatus) (data : List PByte)
  | hostReadTimeout (tag : Nat)
  -- Gotre: watchdog, mailboxes and commands
  | watchdogExpiry
  | gotreRestartComplete
  | gtrCmdTailWrite (fn : FnId) (mb : MbId) (value : Word32)
  | commandAccept (fn : FnId) (mb : MbId) (slot : SlotRead)
  | gtrCplHeadWrite (fn : FnId) (mb : MbId) (value : Word32)
  | completionPost (fn : FnId) (mb : MbId)
  | gtrMbCfgWrite (fn : FnId) (mb : MbId) (value : Word32)
  | deviceQuery (job : Nat)
  | capsQuery (job : Nat)
  | holdingOpen (job : Nat)
  | holdingClose (job : Nat)
  | functionEnable (job : Nat)
  | functionDisable (job : Nat)
  | shutdownComplete (h : HoldId)
  | drainTimeout (h : HoldId)
  | functionAbort (job : Nat)
  | gtrAbort (fn : FnId) (h : HoldId) (value : Word32)
  | abortComplete (h : HoldId)
  | epochSweepDone (h : HoldId)
  | vfFlr (h : HoldId)
  | pfFlr
  | queueCreate (job : Nat)
  | queueDestroy (job : Nat)
  | doorbellTail (fn : FnId) (queue : BitVec 16) (word : DbWrite)
  | doorbellSkip (fn : FnId) (queue : BitVec 16)
  | doorbellRetry (fn : FnId) (queue : BitVec 16)
  | tailPoll (queue : BitVec 16)
  | headReport (queue : BitVec 16)
  | mapMemory (job : Nat)
  | unmapMemory (job : Nat)
  | programLoad (job : Nat) (blk : BlockRead)
  | stageTableSet (job : Nat) (blk : BlockRead)
  | collectiveGroupCreate (job : Nat)
  | reductionPolicySet (job : Nat) (blk : BlockRead)
  | expertTableSet (job : Nat) (blk : BlockRead)
  | capacitySet (job : Nat)
  | maskLoad (job : Nat) (blk : BlockRead)
  | updateTableSet (job : Nat) (blk : BlockRead)
  | digestPolicySet (job : Nat) (blk : BlockRead)
  | mirrorServe (job : Nat) (blk : BlockRead)
  | mirrorSend (job : Nat) (blk : BlockRead) (slotBlocks : Nat)
  | mirrorRestore (job : Nat) (blk : BlockRead) (generation : Option (Word32 × List (Nat × List PByte × Word64)))
  | mirrorRelease (job : Nat) (blk : BlockRead)
  | attest (job : Nat)
  | identityGet (job : Nat)
  | telemetryRead (job : Nat)
  | surveyArm (job : Nat)
  | powerLimitSet (job : Nat)
  | powerStateSet (cmd : PowerCmd)
  | wake (source : WakeSource)
  | powerStateExit (imageGood : Bool)
  -- clocks and power
  | powerSample (watts : Nat) (mean : Nat)
  | limiterStep (mean : Nat)
  | droopThreshold (die : DieId) (sagMv : Nat)
  | droopRelease (die : DieId)
  | clkDroopCfgWrite (path : Path) (die : DieId) (value : Word32)
  | pllUnlock
  | pllRelock
  -- maintenance and images
  | maintStart (job : Nat)
  | maintStatus (job : Nat)
  | maintCancel (job : Nat)
  | maintWaitingStart (activity : Nat)
  | stackRetrain (stack : StackId)
  | laneRecal (port : PortId)
  | portReeq (port : PortId)
  | scrubPass (stack : StackId)
  | fence (activity : Nat)
  | readmit (activity : Nat) (passes : Bool) (hottest : Nat)
  | maintActivityEnd (activity : Nat) (status : Status)
  | imageStage (job : Nat) (blk : BlockRead)
  | imageActivate (job : Nat)
  | flashWriteDone (kind : Fin 8) (readBackGood : Bool)
  | activationUnitSwitch (kind : Fin 8) (unit : Nat)
  | dbgAuth (request : List Byte)
  | spdmRequest (request : SpdmReq)
  | pldmMonitor
  | pldmFwUpdate (kind : BitVec 8) (image : Option (List Word64))
  -- the Survey
  | surveyFull (path : Path) (value : Word32)
  | surveyDie (path : Path) (value : Word32)
  | surveyResume (path : Path) (value : Word32)
  | surveyIn
  | surveyEventTrigger
  | scanRead (die : DieId) (segment : ScanSegment) (index : Nat)
  -- registers
  | registerWrite (path : Path) (bar2 : Option FnId) (offset : BitVec 24) (value : Word32) (enables : BitVec 4)
  | guardUnlock (path : Path) (die : DieId) (value : Word32)
  | guardKeyTimeout (path : Path) (die : DieId)
  | bitAliasWrite (path : Path) (offset : BitVec 24) (value : Word32)
  | rcRead (path : Path) (bar2 : Option FnId) (offset : BitVec 24)
  | counterLowRead (path : Path) (offset : BitVec 24)
  | kprResetCore (path : Path) (core : CoreId)
  | kprResetDie (path : Path) (die : DieId)
  | kprResetWarm (path : Path)
  | kprResetCold (path : Path)
  -- resets, power-up and temperature
  | hotReset
  | warmReset
  | perstAssert
  | perstRelease
  | coldResetBoot (verified : List (Fin 8))
  | powerUp
  | inputPowerLoss
  | dieTempLimit (die : DieId) (temp : Nat)
  | dieLimitRelease
  | thermalTrip (report : ThermalReport)
  | thermalRelease (hottest inlet : Nat)
  | lossOfLock (port : PortId)
  | ringTransferDelivery (core : CoreId)
  | channelRetrainDone (stack : StackId)
  | authorisationExpiry
  | clkDtLoRead (path : Path)
  | badOffsetRead (path : Path) (bar2 : Option FnId) (offset : BitVec 24)
  | trst
  deriving DecidableEq, Repr

end Sys2Proof
end

