-- ==== Sys2Proof/Config.lean ====
section
/-! DEFINITION. What the spec leaves open: constants without a body, so that nothing in Lean can evaluate one or
prove a value of it, and the functions that other standards fix (SHA-512, Ed25519) or whose tables the spec names
and does not print (the function and derivative tables of the vector unit). -/

namespace Sys2Proof.Config

/-- A fresh free value of 64 bits for each number the step supplies from its counter (notes/assumptions/3). -/
opaque freeValue : Nat → BitVec 64

/-- The value of a byte that a controller or a landing returns poisoned without its stored value (R231 gives none;
notes/assumptions/3), by address. -/
opaque poisonByte : Nat → BitVec 8

/-- The sign of a NaN that an operation forms with no single NaN source to take it from (R24 gives only the
source's sign; notes/assumptions/5). -/
opaque formedNanNeg : Val → Val → Bool

/-- The sign of the NaN that scale byte 255 gives: the byte has none (R26; notes/assumptions/5). -/
opaque scaleNanNeg : Bool

/-- The slices of an element in excess, or of one whose row or column has no alignment exponent, by slice count and
exponent: R83 forms none and no rule states what such an element adds (notes/assumptions/100). -/
opaque openSlices : Nat → Option Int → Val → List Int

/-- A byte that a Windrow descriptor would read past the last line of its stage's window (R562 keeps its reads within;
notes/assumptions/105), by operand-store byte. -/
opaque beyondWindow : Nat → BitVec 8

/-- What the spec lays out nowhere of a flit that leaves (R305, R313, R323; notes/assumptions/144): the payload, ADDR and
SECTORS of a Gotre, Drill, digest or link-state message, by its channel, destination and end-to-end number; the ADDR of an
end-to-end acknowledgement or request, by its number; the payload of a TIME flit, by its stamps. -/
opaque messageByte : Nat → Nat → BitVec 8
opaque messageAddr : Nat → BitVec 52
opaque messageSectors : Nat → BitVec 4
opaque ackAddr : BitVec 32 → BitVec 52
opaque timeByte : List Int → Nat → BitVec 8
opaque timeSectors : BitVec 4

/-- The 60 bytes of a sideband slot that its CRC covers (R319 gives no places, notes/assumptions/144): type, origin, holding, epoch or
number. -/
opaque slotBytes : Nat → BitVec 16 → Nat → BitVec 16 → List (BitVec 8)

/-- Which of the FP32 results within the bound of R113 a vector function gives: a fixed function of its input bits
(notes/assumptions/6). The number is the FUNC value of R121. -/
opaque funcPick32 : Nat → Word32 → Nat

/-- The same in FP64. -/
opaque funcPick64 : Nat → Word64 → Nat

/-- A vector function in FP32 where the spec states no result: the logarithm of a number that is not positive, the
reciprocal of zero, and their like (notes/assumptions/6). -/
opaque func32 : Nat → Word32 → Word32

/-- The same in FP64. -/
opaque func64 : Nat → Word64 → Word64

/-- The Lanzate 3 results of the functions of R47, in emulation. -/
opaque funcEmu : Nat → Word32 → Word32

/-- The same for FP64 results in emulation. -/
opaque funcEmu64 : Nat → Word64 → Word64

/-- The derivative tables that the vector unit holds (R118): function, quarter, entry; value and slope. -/
opaque derivTable : Nat → Nat → Nat → Word32 × Word32

/-- The output whose entry a USER derivative table gives for -∞ (R118 speaks of the function's minimum and names none
for USER). -/
opaque userMinimum : Word32

/-- SHA-512 of a byte string (R497, R510, R511, R512), as its standard gives it. -/
opaque sha512 : List Byte → List Byte

/-- Ed25519 verification of a signature over a message under a 32-byte key (R497, R516). -/
opaque ed25519Verify : List Byte → List Byte → List Byte → Bool

/-- The Ed25519 signature of a message under a 32-byte secret (R511, R513), as its standard gives it. -/
opaque ed25519Sign : List Byte → List Byte → List Byte

/-- The fused identity seed (R510, R511). -/
opaque identitySeed : List Byte

/-- The DER-encoded certificates that Qorou installs at manufacture: 0 the device's, 1 the product's, 2 the root (R511). -/
opaque certificate : Nat → List Byte

/-- The 32-byte image-signing keys of the fuse slots, and whether a slot is programmed (R510). -/
opaque fuseKey : Nat → List Byte
opaque fuseKeyProgrammed : Nat → Bool

/-- The fused debug key (R510, R514). -/
opaque debugKey : List Byte

/-- The identity of the boot ROM: its SHA-512 (R510). -/
opaque bootRomMeasurement : List Byte

/-- The SVN floors that the fuses hold when the module ships (R510). -/
opaque shippedSvnFloor : Nat → Nat

/-- The header of each flash image that the module ships with (R559). -/
opaque shippedHeader : Nat → List Byte
opaque shippedBody : Nat → List Byte

/-- What PCIe configuration space holds and measurement 9 covers (R512, R550): the number of enabled VFs and the IDE
state. The host sets them through PCIe's own configuration requests. -/
opaque enabledVfs : Nat
opaque ideState : Nat

/-- The value that an RSVD-P bit reads, by BAR0 offset of its register (R5: unspecified; notes/assumptions/3). -/
opaque reservedBits : Nat → Word32

/-- SHA-512 over the security configuration: R512 names what it covers and gives no layout. -/
opaque securityDigest : List Nat → List Byte

/-- The answer of the SPDM responder where R512 names the protocol and leaves the bytes to its standard. -/
opaque spdmAnswer : Nat → List Byte → List Byte

/-- The answer of the PLDM terminus where R545 names the protocol and leaves the bytes to its standard. -/
opaque pldmAnswer : Nat → List Byte → List Byte

/-- The memory stacks' random challenge source for debug authorisations (R516). -/
opaque challenge : Nat → BitVec 256

/-- Cycles that a wait takes where the rules give no number for one step (notes/assumptions/7). -/
opaque waitCycles : Nat → Nat

end Sys2Proof.Config
end

