-- ==== Sys2Proof/Machine/Tab.lean ====
section
/-! DEFINITION. Sparse tables: the plain data in which the model keeps memories, register files and every other
store that is large and mostly at its reset value. A table is a list of (key, value) pairs with rising keys and no
value equal to the default, so that equal tables are equal lists. -/

namespace Sys2Proof.Machine

/-- A sparse table: keys strictly rising, no listed value equal to the table's default. -/
abbrev Tab (α : Type) := List (Nat × α)

/-- The value at a key: the listed one, or the default. -/
def Tab.get {α : Type} (d : α) : Tab α → Nat → α
  | [], _ => d
  | (j, v) :: t, k => if j = k then v else Tab.get d t k

/-- Puts a pair in front of a tail whose keys are larger, leaving out a default value: then the tail lists no such key. -/
def Tab.put {α : Type} [DecidableEq α] (d : α) (k : Nat) (v : α) (t : Tab α) : Tab α :=
  if v = d then t.filter fun p => p.1 != k else (k, v) :: t

/-- Writes one key, keeping the canonical form. -/
def Tab.set {α : Type} [DecidableEq α] (d : α) : Tab α → Nat → α → Tab α
  | [], k, v => Tab.put d k v []
  | (j, w) :: t, k, v =>
    if k < j then Tab.put d k v ((j, w) :: t)
    else if k = j then Tab.put d k v t
    else (j, w) :: Tab.set d t k v

/-- Changes the value at one key. -/
def Tab.modify {α : Type} [DecidableEq α] (d : α) (t : Tab α) (k : Nat) (f : α → α) : Tab α :=
  Tab.set d t k (f (Tab.get d t k))

/-- Writes consecutive keys from k on. -/
def Tab.setList {α : Type} [DecidableEq α] (d : α) (t : Tab α) (k : Nat) : List α → Tab α
  | [] => t
  | v :: vs => Tab.setList d (Tab.set d t k v) (k + 1) vs

/-- Writes those of consecutive keys from k on that a masked list names. -/
def Tab.setSome {α : Type} [DecidableEq α] (d : α) (t : Tab α) (k : Nat) : List (Option α) → Tab α
  | [] => t
  | none :: vs => Tab.setSome d t (k + 1) vs
  | some v :: vs => Tab.setSome d (Tab.set d t k v) (k + 1) vs

/-- Reads n consecutive keys from k on. -/
def Tab.getList {α : Type} (d : α) (t : Tab α) (k n : Nat) : List α :=
  (List.range n).map fun i => Tab.get d t (k + i)

/-- Drops every key of a range [lo, hi): those keys read as the default again. -/
def Tab.clearRange {α : Type} (t : Tab α) (lo hi : Nat) : Tab α :=
  t.filter fun p => p.1 < lo || hi ≤ p.1

/-- The canonical form: keys strictly rising, no listed default. -/
def Tab.wf {α : Type} [DecidableEq α] (d : α) : Tab α → Bool
  | [] => true
  | [(_, v)] => decide (v ≠ d)
  | (j, v) :: (k, w) :: t => decide (j < k) && decide (v ≠ d) && Tab.wf d ((k, w) :: t)

/-- Writes one position of a list; a position beyond its end changes nothing. -/
def listPut {α : Type} (l : List α) (i : Nat) (v : α) : List α := l.set i v

/-- The element at a position, or a default beyond the end. -/
def nthD {α : Type} (l : List α) (i : Nat) (d : α) : α := (l[i]?).getD d

/-- Removes repeats, keeping first occurrences. -/
def insertNew {α : Type} [DecidableEq α] (x : α) (l : List α) : List α := if x ∈ l then l else l ++ [x]

/-- Inserts into a rising list of numbers without repeats. -/
def insertSorted (x : Nat) : List Nat → List Nat
  | [] => [x]
  | y :: ys => if x < y then x :: y :: ys else if x = y then y :: ys else y :: insertSorted x ys

/-- Divides rounding up (R27). -/
def ceilDiv (a b : Nat) : Nat := (a + b - 1) / b

end Sys2Proof.Machine
end

