-- ==== Sys2Proof/Machine/Parts.lean ====
section
/-! DEFINITION. The parts of the module's state, unit by unit: cores, memory, ports, holdings, queues, mailboxes,
Gotre, clocks and power, Survey and service. Everything is plain data. Registers that software reads at a BAR0
offset are held in the register file of State (regs, ctrs), under their offsets; what stands here is the state
behind the RO status registers and the units' own state. -/

namespace Sys2Proof.Machine

open Sys2Proof

/-! ### Cores (chapters 03 to 09) -/

/-- The life of a descriptor in the issue window (R99, R102, R103). -/
inductive Phase where
  | accepted | started | completed
  deriving DecidableEq, Repr

/-- A descriptor in the issue window (R99): its ring index, its stream on the core, its words, and what it read at
its start (R105). -/
structure WEntry where
  index : Word32
  stream : Fin 2
  desc : Word512
  phase : Phase
  /-- the length registers as read at the start (R105) -/
  lens : Tab Nat
  /-- the tile of its TALLY field at the start: none for no counter, some none for exhausted (R199) -/
  tile : Option (Option Nat)
  /-- replayed silently (R195) -/
  replay : Bool
  /-- device time of the start -/
  startTime : Word64
  /-- rows whose speculative fetch has been issued, and the count predicted (R165, R170) -/
  pfRows : Nat
  /-- lines of the next row whose speculative fetch has been issued (R166) -/
  pfLines : Nat
  pfPredicted : Option Nat
  /-- how far its unit has come with an operation that several commands carry on -/
  mark : Nat
  deriving DecidableEq, Repr

/-- What a prefetch entry recorded in place of data for one sector (R175). -/
inductive Deferred where
  | transFault (kind : Nat) | protFault | badTag
  deriving DecidableEq, Repr

/-- One sector asked for ahead of its descriptor's start, with its epoch (R166, R172). The prefetch entry that it lands in
is a line of the prefetch area, which the two sectors of a line share. -/
structure PfSector where
  id : Nat
  /-- the entry: a logical line of the prefetch area, and the physical line behind it -/
  slot : Nat
  index : Word32
  stream : Fin 2
  row : Nat
  /-- operand-store byte at which the sector lands when it is committed -/
  osByte : Nat
  va : Nat
  epoch : BitVec 8
  landed : Option (List PByte)
  deferred : Option Deferred
  /-- landed from a block with CHECKED = 0 (R384) -/
  unchecked : Bool
  /-- translation generation of its fetch and the frame it found (R251) -/
  generation : Nat
  frame : Option Nat
  /-- freed by a squash while still in flight (R172) -/
  freed : Bool
  deriving DecidableEq, Repr

/-- Lines on their way from another core: a multicast or a ring transfer (R181, R183). -/
structure Transfer where
  ring : Bool
  group : Nat
  /-- its place in the order of the group's transfers, from PROGRAM_LOAD -/
  number : Nat
  sender : CoreId
  rows : Nat
  rowLines : Nat
  osAddr : Nat
  osStride : Nat
  /-- bytes by operand-store address -/
  lines : List (Nat × List PByte)
  delivered : Nat
  /-- the prefetch entries of the delivered lines at the receiver: operand-store line of the sender's, the entry, and the
  epoch of its allocation (R172, R181) -/
  entries : List (Nat × Nat × BitVec 8)
  /-- every line of the transfer is listed -/
  whole : Bool
  deriving DecidableEq, Repr

/-- A checker disagreement under decision (R386). -/
structure Decision where
  unit : CoreUnit
  neighbour : CoreId
  /-- the descriptor under decision -/
  stream : Fin 2
  index : Word32
  /-- its part under decision (R381); none: what it has not written to memory -/
  part : Option Nat
  deriving DecidableEq, Repr

/-- A write sent with the pending flag and not yet cleared (R383). -/
structure PendWrite where
  /-- the issuing core, or 256 + port for a Harrow -/
  agent : Nat
  /-- the descriptor that issued it: its stream and ring index -/
  stream : Fin 2
  index : Word32
  /-- its decision unit: the group of 128 destination rows of a transform (R381) -/
  part : Nat
  block : Nat
  sectors : List Nat
  owner : Owner
  epoch : BitVec 16
  /-- the unit's check has passed, so PASS is sent even through a fence (R385) -/
  passed : Bool
  deriving DecidableEq, Repr

/-- One core (R12, R99 to R124, R187, R207). -/
structure Core where
  fenced : Bool := false
  /-- operand store by byte: 131,072 lines of 64 bytes -/
  os : Tab PByte := []
  /-- accumulator memory by 32-bit word: tile × 16,384 + index -/
  acc : Tab PWord := []
  /-- the tag of each accumulator tile: true while it holds exact slots (R88) -/
  accExact : Tab Bool := []
  /-- gradient buffer by word: tile × 16,384 + index (R207) -/
  grad : Tab PWord := []
  /-- GRAD_MAP's mapping of the tile names (R207) -/
  gradMap : Tab (Option (Fin 64)) := []
  /-- gradient tiles written since the last rest point (R194) -/
  gradDirty : List Nat := []
  /-- vector registers by byte: register × 2,048 + byte (R111) -/
  vreg : Tab PByte := []
  /-- length registers 1 to 15 (R104) -/
  lregs : Tab Nat := []
  /-- the last value a started descriptor read from each length register (R170) -/
  lastLen : Tab Nat := []
  /-- the issue window (R99) -/
  window : List WEntry := []
  /-- the physical line behind an operand-store line that a commit has remapped; none for its own (R167) -/
  phys : Tab (Option Nat) := []
  /-- the speculation epoch (R172) -/
  epoch : BitVec 8 := 0
  /-- the epoch has come round to a value that requests in flight still carry (R172) -/
  epochHeld : Bool := false
  /-- speculative sectors, landed or in flight (R166) -/
  pf : List PfSector := []
  pfNext : Nat := 0
  /-- transfers from other cores not yet received (R181, R183) -/
  inbox : List Transfer := []
  /-- multicasts and ring transfers sent and received so far, by group (ring: key 64) (R181) -/
  sent : Tab Nat := []
  received : Tab Nat := []
  /-- operand-store lines retained for the ring transfers on their way, by transfer number: first line and count (R183) -/
  retained : List (Nat × Nat × Nat) := []
  decision : Option Decision := none
  /-- suspended while it recomputes for a neighbour (R387) -/
  helping : Bool := false
  /-- bytes of host pages that have come in for the running descriptors, by PCIe address (R253) -/
  hostBuf : Tab (Option PByte) := []
  /-- ring indices of the members of the running transform batch, and its phase (R260) -/
  batch : List Word32 := []
  batchPhase : Fin 3 := 0
  /-- re-admitted, and no STEP boundary of its holding has passed since: it is no successor yet (R503) -/
  away : Bool := false
  /-- re-admitted, and its holding has loaded no program since: it stands in no group (R503) -/
  outside : Bool := false
  deriving DecidableEq, Repr

/-! ### Memory (chapters 10 and 11) -/

/-- A block tag (R229). PENDING is 0 to 15. -/
structure Tag where
  owner : Owner := .unassigned
  epoch : BitVec 16 := 0
  poison : Bool := false
  checked : Bool := true
  pending : Fin 16 := 0
  zero : Bool := true
  crcOff : Bool := false
  crc : Word32 := 0
  deriving DecidableEq, Repr

/-- An entry of a region table (R219) that differs from its cold-reset value, or is marked degraded (R221). -/
structure Region where
  valid : Bool
  mask : BitVec 16
  localBase : BitVec 25
  degraded : Bool
  deriving DecidableEq, Repr

/-- A request at its controller, with its owner, epoch and class (R225, R231): a read of one sector or of a whole block,
which may ask for the wait of R232; a write from an address on, under a byte mask (R217); a clearance (R383), which goes in
the class of its write; a scrub of a block, in the BACKGROUND class (R236). -/
inductive MemReq where
  | read (sector : Nat) (whole : Bool) (owner : Owner) (cls : MemClass) (wait : Bool)
  | write (address : Nat) (owner : Owner) (epoch : BitVec 16) (cls : MemClass) (data : List (Option PByte)) (pending : Bool)
  | clear (block : Nat) (sectors : List Nat) (owner : Owner) (epoch : BitVec 16) (kind : Clearance)
  | scrub (block : Nat)
  deriving DecidableEq, Repr

/-- Why a request waits at its controller: behind an earlier one to a sector of its own (R228), for a check or for room
(R232), for a quiesced channel (R238), or for its reissue after parity failures (R237), with the reissues that failed. -/
inductive WaitFor where
  | behind | check | pendingFull | quiesced
  | parity (reissues : Nat)
  deriving DecidableEq, Repr

/-- A request that waits at its controller. -/
structure MemWait where
  req : MemReq
  why : WaitFor
  /-- its first attempt will fail its parity check, once it is issued (R237) -/
  fails : Bool := false
  deriving DecidableEq, Repr

/-- A write to a host page in the PCIe egress hold (R253, R395): who sent it, for which descriptor, under which epoch, and
whether it is held for its producer's check. The agent is a core, or 256 + port for a Harrow, or 512 for any other. -/
structure EgressItem where
  addr : Nat
  data : List PByte
  holding : HoldId
  epoch : BitVec 16
  agent : Nat
  stream : Fin 2
  index : Word32
  part : Nat
  /-- the CRC-32C that goes with a whole block (R392) -/
  crc : Option Word32
  held : Bool
  deriving DecidableEq, Repr

/-- A crossing read that its requester keeps until its data returns (R411): the number it carries at its receiving die,
and the core's prefetch request. -/
structure Crossing where
  requester : Nat
  die : Nat
  number : Word32
  core : CoreId
  request : Nat
  deriving DecidableEq, Repr

/-- The state of one stack behind NMC_STATUS and NMC_TEMP (R237 to R242). -/
structure Stack where
  fenced : Bool := false
  offline : Bool := false
  throttled : Bool := false
  retrainPending : Bool := false
  retraining : Bool := false
  channel : Fin 32 := 0
  /-- channels still to retrain, after the one being retrained -/
  channelsLeft : List (Fin 32) := []
  temp : BitVec 8 := 0
  /-- device times of recent parity failures on each channel's requests (R238) -/
  parityTimes : List (Fin 32 × Word64) := []
  /-- the channel found persistently faulty -/
  faulty : Option (Fin 32) := none
  deriving DecidableEq, Repr

/-! ### Holdings (chapters 07, 09, 11, 12, 14, 15, 16, 17) -/

/-- The states of a function (R436). -/
inductive FuncState where
  | closed | disabled | enabled | shuttingDown | aborting
  deriving DecidableEq, Repr

def FuncState.code : FuncState → BitVec 3
  | .closed => 0 | .disabled => 1 | .enabled => 2 | .shuttingDown => 3 | .aborting => 4

/-- A tile that a stream holds in one of its take slots (R198, R199). -/
structure TakeSlot where
  counter : Nat
  tile : Option Nat
  issue : Nat
  deriving DecidableEq, Repr

/-- One stage of the stage-to-core table (R190), as declared. -/
structure StageDef where
  stage : Nat
  queue : Nat
  core : Nat
  succ : List Nat
  osFirst : Nat
  osLines : Nat
  accFirst : Nat
  accCount : Nat
  vregFirst : Nat
  vregCount : Nat
  lregMask : Nat
  gradFirst : Nat
  gradCount : Nat
  gradHome : Nat
  logVa : Nat
  deriving DecidableEq, Repr

/-- A stage as it runs (R192 to R195, R198, R201). -/
structure Stage where
  dfn : StageDef
  /-- the core that carries it now; none while it is parked (R193) -/
  runsOn : Option CoreId
  inherited : Bool
  /-- ring index of the next descriptor to accept -/
  next : Word32
  /-- ring index after the last rest point recorded complete (R194) -/
  lastRest : Word32
  /-- the take slots as they stood at the last rest point (R195) -/
  restSlots : List TakeSlot
  /-- descriptors below this index are replayed silently (R195) -/
  replayEnd : Word32
  /-- the stream has reached its STEP fence (R201) -/
  atStep : Bool
  /-- take slots of the stream (R198) -/
  slots : List TakeSlot
  /-- takes of the step in order, for silent replay: ring index, counter, tile, issue (R195, R202) -/
  takeLog : List (Word32 × Nat × Option Nat × Nat)
  /-- logged length-register values of classes 0x5 and 0x6: ring index, register, value (R195) -/
  lenLog : List (Word32 × Nat × Nat)
  /-- ring indices of the step whose refused descriptors a RESUME has skipped (R443) -/
  skipped : List Word32 := []
  /-- its gradient home is still to be loaded into its core (R194) -/
  toLoad : Bool := false
  deriving DecidableEq, Repr

/-- An owner record of a take (R202). -/
structure TakeRec where
  tile : Nat
  issue : Nat
  core : CoreId
  retired : Bool
  deriving DecidableEq, Repr

/-- A claim on a tile's writes (R203). -/
structure Claim where
  tile : Nat
  issue : Nat
  core : CoreId
  /-- its core has been fenced since it was granted -/
  lost : Bool := false
  deriving DecidableEq, Repr

/-- A Tally counter (R197, R198, R202, R203). -/
structure Counter where
  number : Nat
  limit : Nat
  rowGroup : Option (Fin 4)
  next : Nat
  recs : List TakeRec
  reissue : List (Nat × Nat)
  claims : List Claim
  refused : List (Nat × Nat)
  die : Fin 32
  mirror : Option (Fin 32)
  copying : Bool
  /-- its die has taken it over from a fenced one (R197) -/
  taken : Bool
  deriving DecidableEq, Repr

/-- An entry of the group table (R180). -/
structure CoreGroup where
  number : Nat
  ring : Bool
  cores : List Nat
  deriving DecidableEq, Repr

/-- A mask-table entry (R156 to R158). -/
structure MaskEntry where
  kind : Nat
  rows : Nat
  cols : Nat
  /-- kept positions by row × cols + column -/
  kept : List Nat
  valVa : Nat
  rowPlaneVa : Nat
  colPlaneVa : Nat
  deriving DecidableEq, Repr

/-- An expert of a routed layer: its global number and home device (R269). -/
structure ExpertEntry where
  global : BitVec 16
  home : BitVec 16
  deriving DecidableEq, Repr

/-- A layer of the layer table (R269). -/
structure Layer where
  overflow : Nat
  rowSectors : Nat
  ansSectors : Nat
  experts : List ExpertEntry
  deriving DecidableEq, Repr

/-- A home queue of the holding (R269, R284, R293). -/
structure HomeQueue where
  queue : Nat
  layer : Nat
  global : BitVec 16
  nbuf : Nat
  queueVa : Nat
  queueRows : Nat
  spillVa : Nat
  spillRows : Nat
  originVa : Nat
  capacity : Nat
  spillCapacity : Nat
  routed : Nat
  accepted : Nat
  overflowed : Nat
  returned : Nat
  /-- the batch that holds each buffer (R280) -/
  held : List (Nat × Word32)
  deriving DecidableEq, Repr

/-- The final state of a choice (R275). -/
inductive Choice where
  | accepted | second | spilled | dropped | poisoned | cancelled
  deriving DecidableEq, Repr

def Choice.code : Choice → BitVec 3
  | .accepted => 0 | .second => 1 | .spilled => 2 | .dropped => 3 | .poisoned => 4 | .cancelled => 5

/-- One choice of one routed token at its source (R274, R286). -/
structure RoutedChoice where
  token : Nat
  choice : Nat
  expert : Nat
  score : Word32
  /-- ranked alternatives of the token for the second round: layer expert and score -/
  alternatives : List (Nat × Word32)
  state : Option Choice
  slot : Option Nat
  answered : Bool
  /-- its token row is still to be read and sent, in this round -/
  owed : Option (Fin 2) := none
  deriving DecidableEq, Repr

/-- A ROUTE descriptor of a batch at this device (R277, R278). -/
structure RouteRec where
  core : CoreId
  /-- the queue of its stream and its index in it -/
  queue : Nat
  index : Word32
  first : Nat
  rows : Nat
  topk : Nat
  recAddr : Nat
  tokVa : Nat
  tokStride : Nat
  /-- its return buffer (R285) -/
  retVa : Nat
  /-- it takes part in the exchange; one that found its tag retired does not -/
  entered : Bool
  deriving DecidableEq, Repr

/-- A filled slot at the home (R279, R281, R285). -/
structure SlotRec where
  queue : Nat
  slot : Nat
  origin : Word64
  returned : Bool
  deriving DecidableEq, Repr

/-- A live or retired tag of a batch (R276 to R291). -/
structure Batch where
  tag : Word32
  live : Bool
  /-- it takes an entry of the live-tag table, which a cancelled batch gives up last (R276, R288) -/
  entry : Bool
  cause : Option CancelCause
  group : Option Nat
  layer : Nat
  /-- NDESC of the tag's first ROUTE, 0 before one is accepted -/
  ndesc : Nat
  deadline : Option Word64
  homeDeadline : Option Word64
  dlUnits : Nat
  routes : List RouteRec
  choices : List RoutedChoice
  /-- count messages taken at the home: source, owner, round, counts -/
  counts : List CountMsg
  /-- placement replies taken at the source: home and round -/
  replies : List (BitVec 16 × Fin 2)
  /-- expected slots per queue, as placed: queue, near slots, spill slots -/
  placed : List (Nat × Nat × Nat)
  slots : List SlotRec
  /-- token rows that wait for their buffer (R280) -/
  waiting : List TokenMsg
  round : Fin 2
  deriving DecidableEq, Repr

/-- A collective group of the holding (R334, R336). -/
structure Collective where
  members : List (BitVec 16)
  dead : List Nat
  deriving DecidableEq, Repr

/-- A reduction policy (R337). -/
structure Policy where
  group : Nat
  values : Nat
  fp32Wire : Bool
  mean : Bool
  anchor : Bool
  anchors : List Nat
  scaleWindow : Nat
  dataWindow : Nat
  gatherWindow : Nat
  gatherFmt : Fmt
  sumVa : Nat
  stageVa : Nat
  absentVa : Nat
  deriving DecidableEq, Repr

/-- A block being summed at its owner (R341, R343, R346, R354). -/
structure RedBlock where
  sums : List Int := []
  count : Nat := 0
  poison : Bool := false
  nan : Bool := false
  pinf : Bool := false
  ninf : Bool := false
  clamp : Bool := false
  /-- FP32 wire: the slots that stand in the staging area (R354) -/
  slots : List Nat := []
  /-- its partial sums lie at SUM_VA (R346) -/
  spilled : Bool := false
  final : Bool := false
  /-- the Harrow has taken it -/
  taken : Bool := false
  deriving DecidableEq, Repr

/-- A chunk at its owner link die (R345, R346, R347, R348). -/
structure RedChunk where
  chunk : Nat
  /-- slots whose SCALE flit has been taken, in time or late -/
  seen : List Nat
  /-- slots whose SCALE flit was accepted in time, with the bytes -/
  scales : List (Nat × List Byte)
  sexp : List Byte
  replied : Bool
  admitted : List Nat
  /-- accepted DATA messages: slot, message number -/
  accepted : List (Nat × Nat)
  blocks : Tab RedBlock
  /-- what the Harrow has formed for the gather, by value of the chunk, and the flits sent -/
  out : Tab (List PByte)
  sent : List Nat
  deriving DecidableEq, Repr

/-- A reduction window at an owner link die (R348), with the policy and the group that serve it. -/
structure RedWindow where
  port : PortId
  group : Nat
  reduction : Nat
  openAt : Word64
  /-- the holding's step at its opening -/
  step : Word32
  policy : Policy
  members : Collective
  scaleClosed : Bool
  dataClosed : Bool
  chunks : List RedChunk
  /-- values that the adders have added under it, an FP32 value counted twice (R355) -/
  added : Nat := 0
  deriving DecidableEq, Repr

/-- A REDUCE that this device has accepted in the step (R347, R357). -/
structure ReduceRec where
  queue : Nat
  core : CoreId
  index : Word32
  group : Nat
  reduction : Nat
  first : Nat
  chunks : Nat
  srcVa : Nat
  dstVa : Nat
  started : Bool
  /-- it overlaps an earlier one and sends nothing -/
  bad : Bool
  /-- chunks that an owner has answered: admitted or not -/
  replied : List (Nat × Bool)
  /-- gathered parameters of chunks that are not whole yet: chunk, byte offset in the chunk, bytes -/
  pieces : List (Nat × Nat × List PByte)
  /-- chunks gathered and written -/
  gathered : List Nat := []
  /-- chunks whose source is still to be read and sent: for a SCALE, or for DATA at the agreed exponents -/
  owed : List (Nat × Option (List Byte)) := []
  /-- chunks that GATHER_WAIT has given up (R351) -/
  missed : List Nat
  /-- chunk ranges whose GATHER_WAIT has completed -/
  waited : List (Nat × Nat)
  /-- STEP fences of its stream that stood before it when it was accepted: it belongs to that many steps later -/
  ahead : Nat := 0
  deriving DecidableEq, Repr

/-- An entry of the update table (R361). -/
structure UpdateEntry where
  group : Nat
  reduction : Nat
  firstValue : Nat
  values : Nat
  layer : Nat
  rule : Nat
  hyper : Nat
  t0 : Nat
  frozen : Bool
  maskEn : Bool
  maskNum : Nat
  rows : Nat
  cols : Nat
  br : Nat
  bc : Nat
  paramVa : Nat
  stateVa : Nat
  freezeVa : Nat
  factorVa : Nat
  factorSlot : Nat
  /-- steps in which the entry has been in force (R363) -/
  steps : Nat
  /-- c1 and c2 of the step (R363) -/
  c1 : Word32
  c2 : Word32
  /-- treated as poisoned in this step for a mask of another shape (R369) -/
  bad : Bool
  deriving DecidableEq, Repr

/-- A hyperparameter set (R361). The defaults are those of cold reset and PROGRAM_LOAD: 0.9, 0.999 and 2^-20 in FP32. -/
structure Hyper where
  lr : Word32 := 0
  wd : Word32 := 0
  b1 : Word32 := 0x3F666666
  b2 : Word32 := 0x3F7FBE77
  eps : Word32 := 0x35800000
  mu : Word32 := 0
  gscale : Word32 := 0x3F800000
  deriving DecidableEq, Repr

/-- The exact norm accumulators of a layer (R375 to R377), in units of 2^-300. -/
structure NormAcc where
  wsq : Nat := 0
  gsq : Nat := 0
  usq : Nat := 0
  wnf : Bool := false
  trailers : Nat := 0
  incomplete : Bool := false
  deriving DecidableEq, Repr

/-- A preconditioner block waiting at its home for forwarded values (R371). -/
structure PrecondWait where
  port : PortId
  entry : Nat
  block : Nat
  values : List (Nat × Option PWord)
  done : Bool
  deriving DecidableEq, Repr

/-- The digest policy (R398). -/
structure DigestPolicy where
  group : Nat := 0
  every : Nat := 64
  window : Nat := 65536
  reportOnly : Bool := false
  ranges : List (Nat × Nat × Nat) := []
  deriving DecidableEq, Repr

/-- A vote in progress (R400, R401). -/
structure Vote where
  step : Word32
  own : List (Word64 × Bool)
  ownTime : Word64
  deriving DecidableEq, Repr

/-- What this holding mirrors to a buddy (R403, R404). -/
structure MirrorSend where
  buddy : BitVec 16
  every : Nat
  ranges : List (Nat × Nat)
  /-- a generation is on its way, with its step, into this slot of the buddy -/
  running : Bool
  step : Word32
  slot : Fin 2
  /-- the blocks of the running generation that are still to be read: place in the ranges, and block of memory -/
  toRead : List (Nat × Nat) := []
  /-- blocks that have been read and are still to be sent -/
  taken : List (Nat × List PByte) := []
  deriving DecidableEq, Repr

/-- A mirror region served for a buddy (R241, R403). -/
structure MirrorServe where
  buddy : BitVec 16
  firstRegion : Nat
  regions : Nat
  /-- the slot that holds the latest complete generation, and its source and step -/
  complete : Option (Fin 2 × Word32)
  /-- the CRC-64 of each range of that generation over its block CRCs (R404) -/
  crcs : List Word64 := []
  deriving DecidableEq, Repr

/-- A table write waiting for the holding's STEP boundary, in acceptance order (R190, R269, R284, R335, R337, R361, R398). -/
inductive TableWrite where
  | stages (defs : List StageDef) (rowGroups : List (Nat × List Nat))
  | experts (layer : Nat) (l : Layer) (queues : List HomeQueue) (counterVa : Nat)
  | capacity (queue : Nat) (c : Nat) (s : Nat)
  | collective (group : Nat) (members : List (BitVec 16))
  | policy (reduction : Nat) (p : Policy)
  | update (normVa : Option Nat) (entries : List (Nat × Option UpdateEntry)) (sets : List (Nat × Hyper))
  | mask (num : Nat) (m : MaskEntry)
  | digest (p : DigestPolicy)
  /-- slots of a collective group that a verdict has expelled (R336, R401) -/
  | dead (group : Nat) (slots : List Nat)
  deriving DecidableEq, Repr

/-- What a step record says of one reduction of the step (R350, R531): messages missing by slot with the slot's device,
blocks whose COUNT fell short, and the totals of RED_LATE, RED_SCALE_LATE and RED_GATHER_MISS. -/
structure ReduceSum where
  group : Nat
  reduction : Nat
  absent : List (BitVec 16 × Nat)
  short : Nat
  late : Nat
  scaleLate : Nat
  miss : Nat
  deriving DecidableEq, Repr

/-- The shadow totals of a holding for its step record (R529, R530): by counter offset within its unit's map. -/
structure StepTotals where
  totals : Tab Nat := []
  faults : List (Word32 × Nat) := []
  faultCount : Nat := 0
  fencedUnits : Nat := 0
  firstStart : Option Word64 := none
  reductions : List ReduceSum := []
  rollback : Bool := false
  restarted : Bool := false
  /-- samples of the input power and their sum, and the greatest limiter ratio (R479, R480) -/
  samples : Nat := 0
  sumW : Nat := 0
  peakRatio : Nat := 0
  /-- the device's shadow totals as they stood at the last boundary -/
  base : Tab Nat := []
  deriving DecidableEq, Repr

/-- One written step record (R530, R532). -/
structure StepRecord where
  step : Word32
  bytes : List Byte
  deriving DecidableEq, Repr

/-- One holding and its function (R436, R437). -/
structure Holding where
  state : FuncState := .closed
  epoch : BitVec 16 := 1
  abortDone : Bool := false
  pendingEnable : Bool := false
  sweep : Bool := false
  cores : List Nat := []
  nearRegions : List Nat := []
  farRegions : List Nat := []
  queueLimit : Nat := 0
  /-- jobs that wait on the shut-down or abort: disables, the pending enable -/
  disables : List Nat := []
  enableJobs : List Nat := []
  /-- jobs that complete at the end of the abort, with their status (R437, R440) -/
  settled : List (Nat × Status) := []
  /-- end of the drain of the shut-down in progress -/
  drainEnd : Option Word64 := none
  /-- the status with which the holding ends at the next boundary or has ended (R397) -/
  ending : Status := .ok
  poisonUsed : Bool := false
  /-- streams stop at their next STEP fence (R401) -/
  rollback : Bool := false
  /-- the verdict of the next vote has come before this member's own record (R400, R401) -/
  early : Bool := false
  /-- the first block of the level-3 table, as the translation units keep it (R246) -/
  root : Option Nat := none
  /-- the blocks of the page tables: first block and number (R246) -/
  tables : List (Nat × Nat) := []
  generation : Nat := 0
  step : Word32 := 0
  events : Tab Word32 := []
  stages : List Stage := []
  rowGroups : List (Nat × List Nat) := []
  counters : List Counter := []
  groups : List CoreGroup := []
  masks : Tab (Option MaskEntry) := []
  layers : Tab (Option Layer) := []
  queues : List HomeQueue := []
  counterVa : Nat := 0
  batches : List Batch := []
  collectives : Tab (Option Collective) := []
  policies : Tab (Option Policy) := []
  windows : List RedWindow := []
  reduces : List ReduceRec := []
  /-- gathered chunks that no REDUCE covers: reduction and chunk (R347) -/
  dropped : List (Nat × Nat) := []
  /-- trailers taken in the step: reduction and owner (R377) -/
  trailers : List (Nat × BitVec 16) := []
  /-- ports whose link dies were fenced at the last STEP boundary (R339) -/
  lostLinks : List Nat := []
  entries : Tab (Option UpdateEntry) := []
  hypers : Tab Hyper := []
  normVa : Nat := 0
  norms : Tab NormAcc := []
  /-- norm accumulators of this device's own Harrows, by reduction × 256 + layer (R375) -/
  ownNorms : Tab NormAcc := []
  precond : List PrecondWait := []
  digest : DigestPolicy := {}
  vote : Option Vote := none
  /-- digest records that have arrived and no vote has used (R400) -/
  digests : List DigestRec := []
  mirrorSend : Option MirrorSend := none
  waiting : List TableWrite := []
  ownerKey : List Word32 := [0, 0, 0, 0, 0, 0, 0, 0]
  /-- locked from FUNCTION_ENABLE to HOLDING_CLOSE (R515) -/
  keyLocked : Bool := false
  totals : StepTotals := {}
  records : List StepRecord := []
  recordSeq : Nat := 0
  deriving DecidableEq, Repr

/-! ### Ports and links (chapter 13) -/

/-- The states of a port (R329). -/
inductive PortState where
  | down | training | up | degraded | recal | surveyed | miscabled | failed | disabled
  deriving DecidableEq, Repr

def PortState.code : PortState → BitVec 4
  | .down => 0 | .training => 1 | .up => 2 | .degraded => 3 | .recal => 4 | .surveyed => 5 | .miscabled => 6
  | .failed => 7 | .disabled => 8

/-- A message of a unit to a unit of another device. -/
inductive OutMsg where
  | scale (h : HoldId) (c : ChunkRef) (bytes : List Byte)
  | reply (h : HoldId) (c : ChunkRef) (admits : Bool) (sexp : List Byte)
  | data (h : HoldId) (c : ChunkRef) (msg : Nat) (bytes : List Byte)
  | gatherFlit (h : HoldId) (c : ChunkRef) (index skip : Nat) (bytes : List PByte)
  | trailer (h : HoldId) (group reduction : Nat) (recs : List TrailerRec)
  | forward (h : HoldId) (entry block first : Nat) (values : List (Option PWord))
  | count (h : HoldId) (m : CountMsg)
  | placement (h : HoldId) (m : PlacementMsg)
  | token (h : HoldId) (m : TokenMsg)
  | answerRow (h : HoldId) (m : AnswerMsg)
  | cancel (h : HoldId) (tag : Word32) (cause : CancelCause)
  | linkState (bits : BitVec 6)
  | abortFence (h : HoldId) (epoch : BitVec 16)
  | digest (h : HoldId) (r : DigestRec)
  | verdict (h : HoldId) (v : Verdict)
  | mirrorBlock (h : HoldId) (slot : Nat) (block : Nat) (data : List PByte)
  | mirrorDone (h : HoldId) (step : Word32) (ranges : List Nat)
  deriving DecidableEq, Repr

/-- What one flit carries: a part of a numbered message, an end-to-end acknowledgement or request, a time request or its
answer with three stamps, or a flit that passes through to another device (R305, R323). -/
inductive Wire where
  | part (dst : BitVec 16) (vc : Fin 4) (owner : Owner) (epoch : BitVec 16) (eseq : Word32) (msg : OutMsg)
    (index count : Nat)
  | ack (dst : BitVec 16) (vc : Fin 4) (upto : Word32)
  | want (dst : BitVec 16) (vc : Fin 4) (fromSeq : Word32)
  | time
  | timeAnswer (t1 t2 t3 : Int)
  | pass (flit : Flit)
  deriving DecidableEq, Repr

/-- A flit at its port: its channel and class, the route that its header gives (FABRIC and the directions X, Y, Z), and what
it carries (R303, R306, R309, R317). -/
structure PortItem where
  vc : Fin 4
  cls : Fin 2
  fabric : Bool := false
  dirs : BitVec 3 := 0
  wire : Wire
  deriving DecidableEq, Repr

/-- The first hop of a new flit, and what its choice counts (R317). -/
structure Route where
  port : PortId
  fabric : Bool
  detour : Bool
  fabricDetour : Bool
  /-- the directions that the source writes into the header, X in bit 0 -/
  dirs : BitVec 3
  deriving DecidableEq, Repr

/-- One port (R306, R307, R309, R325, R542, R543). -/
structure Port where
  state : PortState := .down
  half : Bool := false
  cable : Bool := false
  powerCut : Bool := false
  failures : Nat := 0
  attempts : Nat := 0
  peer : BitVec 16 := 0
  peerPort : Fin 8 := 0
  fabric : Bool := false
  /-- next LSEQ to send, and the flits not yet covered by the peer's LACK, oldest first -/
  nextLseq : BitVec 12 := 0
  replay : List (BitVec 12 × PortItem) := []
  /-- replays of the oldest flit, and device times of recent replays (R307) -/
  oldestReplays : Nat := 0
  replayTimes : List Word64 := []
  /-- next LSEQ expected, and whether flits are discarded until the sequence resumes -/
  expect : BitVec 12 := 0
  discarding : Bool := false
  /-- credits held, and flits taken whose credits are still to return, by channel × 2 + class -/
  credits : Tab Nat := []
  owed : Tab Nat := []
  /-- flits that wait, in the order of their arrival, and the place in the shares of R309 -/
  queue : List PortItem := []
  /-- flits kept through a retraining, which are sent first (R307) -/
  kept : List PortItem := []
  turn : Nat := 0
  sinceCtl : Nat := 15
  /-- by channel: the next flit is one that passes through, not one of this device's own (R309) -/
  passNext : Tab Bool := []
  /-- the state to which a maintenance activity that holds the port in RECAL returns it (R328) -/
  back : PortState := .up
  /-- re-equalisation holds the port: a full training whose attempts count nothing (R328) -/
  reeq : Bool := false
  /-- in the low-power mode of SLEEP: only CONTROL is carried (R482) -/
  lowPower : Bool := false
  /-- the last sideband message taken, so that repeats are ignored (R319) -/
  lastSideband : SidebandMsg := .none
  deriving DecidableEq, Repr

/-- A flit at the sequence home: numbered and not yet acknowledged (R311, R312). -/
structure Held where
  eseq : Word32
  owner : Owner
  epoch : BitVec 16
  msg : OutMsg
  index : Nat
  count : Nat
  /-- the route chosen when the flit was numbered; none while there was none (R317, R333) -/
  route : Option Route := none
  /-- device time of its last sending (R313) -/
  sentAt : Word64 := 0
  deriving DecidableEq, Repr

/-- The sending side of one destination and channel (R311 to R314). -/
structure SeqTx where
  next : Word32 := 0
  held : List Held := []
  timeouts : Nat := 0
  unreachable : Bool := false
  deriving DecidableEq, Repr

/-- The receiving side of one source and channel (R311, R313). -/
structure SeqRx where
  expected : Word32 := 0
  unacked : Nat := 0
  firstUnacked : Option Word64 := none
  deriving DecidableEq, Repr

/-- A message held in a Headland gate (R393). -/
structure GateItem where
  port : PortId
  dst : BitVec 16
  vc : Fin 4
  owner : Owner
  msg : OutMsg
  /-- blocks still to be reported checked or poisoned: block, first byte that it gave the payload, and bytes -/
  blocks : List (Nat × Nat × Nat)
  deriving DecidableEq, Repr

/-- Device-time synchronisation (R322 to R324). -/
structure TimeSync where
  /-- 0 UNSYNCED, 1 SLEWING, 2 LOCKED -/
  state : Fin 3 := 0
  /-- last offset in 1/16 tick -/
  offset : Int := 0
  good : Nat := 0
  missed : Nat := 0
  /-- ticks still to add (positive) or withhold (negative) by slewing -/
  slew : Int := 0
  /-- ticks counted since the last slewed tick -/
  sinceSlew : Nat := 0
  exchanging : Bool := false
  deriving DecidableEq, Repr

/-! ### Gotre, queues and mailboxes (chapter 17) -/

/-- A mailbox of a function (R421). -/
structure Mailbox where
  cmdBase : Word64 := 0
  cplBase : Word64 := 0
  enable : Bool := false
  cplLog2 : BitVec 5 := 0
  cmdLog2 : BitVec 5 := 0
  cmdTail : Word32 := 0
  cplHead : Word32 := 0
  acceptSeq : Word32 := 0
  /-- index of the next completion the mailbox will post -/
  cplNext : Word32 := 0
  cfgBad : Bool := false
  ringFault : Bool := false
  cplFull : Bool := false
  /-- ENABLE was cleared and the indices reset once its accepted commands have completed -/
  closing : Bool := false
  deriving DecidableEq, Repr

/-- Where a command stands after its acceptance (R424, R428). -/
inductive JobPhase where
  | accepted | running | interim | done
  deriving DecidableEq, Repr

/-- A command in the acceptance journal (R424, R425). -/
structure Job where
  number : Nat
  fn : FnId
  mb : MbId
  seq : Word32
  words : Word512
  phase : JobPhase
  /-- a MAP_MEMORY or UNMAP_MEMORY that was accepted before an abort and finishes all the same (R440) -/
  exempt : Bool
  /-- its function was reset, so that its completions are discarded (R549) -/
  discard : Bool
  deriving DecidableEq, Repr

/-- A completion or event that waits to be posted (R426, R429). -/
structure Completion where
  fn : FnId
  mb : MbId
  async : Bool
  final : Bool
  status : Status
  tag : Word32
  seq : Word32
  opcode : BitVec 16
  result : BitVec 128
  /-- the subject of an event: a holding, or 8 for the device; and the job of a command's completion -/
  subject : Nat
  job : Option Nat
  /-- events merged into it (R429) -/
  merged : Nat
  deriving DecidableEq, Repr

/-- The states of a work queue (R442). -/
inductive QueueState where
  | free | ready | bound | halted | fenced
  deriving DecidableEq, Repr

def QueueState.code : QueueState → BitVec 3
  | .free => 0 | .ready => 1 | .bound => 2 | .halted => 3 | .fenced => 4

/-- A hardware work queue (R442 to R446). -/
structure Queue where
  state : QueueState := .free
  holding : Option HoldId := none
  ringVa : Nat := 0
  headVa : Nat := 0
  tailVa : Nat := 0
  log2 : Nat := 0
  tailSrc : Bool := false
  accepted : Word32 := 0
  recorded : Word32 := 0
  unreported : Nat := 0
  /-- the word last written at HEAD_VA (R445) -/
  reported : Word64 := 0
  /-- the refused descriptor's index while HALTED -/
  refused : Word32 := 0
  /-- the index that a SKIP passes over (R443) -/
  skip : Option Word32 := none
  deriving DecidableEq, Repr

/-- GTR_DEVICE_STATE (R421). -/
inductive DeviceState where
  | boot | training | ready | recovery | ended
  deriving DecidableEq, Repr

def DeviceState.code : DeviceState → BitVec 3
  | .boot => 0 | .training => 1 | .ready => 2 | .recovery => 3 | .ended => 4

/-- An image in a staging area, in flash or in its units (R496 to R499): its 256-byte header and its body, and whether it
was written whole. -/
structure Image where
  header : List Byte
  body : List Byte
  good : Bool
  deriving DecidableEq, Repr

/-- The control processor and the journal (R416 to R418, R424, R428, R429). -/
structure Gotre where
  up : Bool := false
  deviceState : DeviceState := .boot
  /-- device times of the watchdog's restarts (R418) -/
  restarts : List Word64 := []
  stopped : Bool := false
  jobs : List Job := []
  /-- the function whose command Gotre took last (R428) -/
  turn : FnId := 8
  nextJob : Nat := 0
  waiting : List Completion := []
  /-- GTR_JOURNAL copies in region 0 that hold (R408) -/
  journalCopies : List Bool := [true, true]
  /-- restarts since cold reset (R429) -/
  restartCount : Nat := 0
  /-- the verified copy of the Gotre image in near region 0 (R416, R448, R500; notes/assumptions/149) -/
  copy : Option Image := none
  deriving DecidableEq, Repr

/-! ### Clocks, power and Survey (chapters 19, 21, 22) -/

/-- The power states (R482). -/
inductive PowerState where
  | run | idle | sleep | fallow | off
  deriving DecidableEq, Repr

def PowerState.code : PowerState → BitVec 3
  | .run => 0 | .idle => 1 | .sleep => 2 | .fallow => 3 | .off => 4

/-- The droop state of a compute or link die (R473). -/
structure Droop where
  ratio : Fin 3 := 0
  deriving DecidableEq, Repr

/-- Clocks and power (R472, R478 to R494). -/
structure Power where
  pllLock : Bool := true
  holdover : Bool := false
  lastUnlock : Option Word64 := none
  state : PowerState := .run
  /-- the state being entered or left (R493) -/
  target : PowerState := .run
  transition : Bool := false
  /-- the job of the transition in progress (R484) -/
  job : Option Nat := none
  limit : Nat := 3000
  ratio : Nat := 0
  inputW : Nat := 0
  /-- the swallow of R481 is on; the samples below 3,200 W so far -/
  overdrawn : Bool := false
  underSamples : Nat := 0
  /-- the milliseconds for which the mean has stayed above the limit at n = 48 -/
  floorMs : Nat := 0
  dieLimit : Bool := false
  /-- save memory: the refused or aborted entries, and the slot written next (R494) -/
  log : List Word32 := []
  logNext : Fin 16 := 0
  deriving DecidableEq, Repr

/-- The image of R489 in save memory. -/
structure SavedImage where
  regions : Tab (Option Region)
  links : List (Nat × Word32)
  cores : List (Nat × Word32)
  controllers : List (Nat × Word32)
  droop : List (Nat × Word32)
  limit : Nat
  ratio : Nat
  state : PowerState
  dt : Word64
  /-- CHK_CAUSE of every core and die -/
  causes : List (Nat × Word32)
  /-- fenced cores, and the die states -/
  fenced : List Nat
  dieStates : List (Bool × Bool)
  mailboxes : Tab Mailbox
  functions : List (FuncState × BitVec 16)
  deriving DecidableEq, Repr

/-- The armed trigger of SURVEY_ARM (R520). -/
structure Trigger where
  once : Bool
  full : Bool
  bit : Nat
  offset : Nat
  die : DieId
  deriving DecidableEq, Repr

/-- Survey control (R519 to R526, R534). -/
structure Survey where
  frozen : Bool := false
  dieScope : Bool := false
  die : DieId := 0
  cause : Fin 8 := 0
  number : BitVec 16 := 0
  freezeDt : Word64 := 0
  armed : Option Trigger := none
  /-- aborts written during a FULL Survey (R524) -/
  latched : List HoldId := []
  /-- SVY_CMD words that wait for the end of a power-state transition (R521) -/
  waiting : List Word32 := []
  /-- FENCE activities that wait for the resume of the frozen die (R526) -/
  fences : List Nat := []
  deriving DecidableEq, Repr

/-- The states of a maintenance activity (R509). -/
inductive ActState where
  | waiting | running | done | cancelled | failed
  deriving DecidableEq, Repr

def ActState.code : ActState → BitVec 8
  | .waiting => 0 | .running => 1 | .done => 2 | .cancelled => 3 | .failed => 4

/-- A maintenance activity or activation (R501, R502, R509). -/
structure Activity where
  number : Nat
  activity : BitVec 16
  resource : BitVec 16
  arg : Word32
  state : ActState
  status : Status
  progress : Nat
  job : Option Nat
  /-- the MAINT_CANCELs that wait for its next boundary (R502) -/
  cancels : List Nat
  deriving DecidableEq, Repr

/-- A debug authorisation that has been granted (R514, R516). -/
structure Grant where
  device : Bool
  test : Bool
  holdings : List HoldId
  expiry : Word64
  deriving DecidableEq, Repr

/-- Firmware, keys, maintenance and debug (chapter 20). -/
structure Service where
  staged : Tab (Option Image) := []
  flash : Tab (Option Image) := []
  active : Tab (Option Image) := []
  writing : Option (Fin 8 × Nat) := none
  /-- flash writes that wait, in acceptance order (R498) -/
  writeQueue : List (Fin 8 × Nat) := []
  /-- units that have switched to the kind being activated (R500) -/
  switched : List (Nat × Nat) := []
  revoked : List Nat := []
  svnFloor : Tab Nat := []
  activationLog : List Byte := List.replicate 64 0
  activities : List Activity := []
  nextActivity : Nat := 1
  grants : List Grant := []
  challenges : Nat := 0
  recovery : Bool := false
  deriving DecidableEq, Repr

/-- The scopes of the grants in force. -/
def Service.dbgDevice (v : Service) : Bool := v.grants.any (·.device)
def Service.dbgTest (v : Service) : Bool := v.grants.any (·.test)
def Service.dbgHoldings (v : Service) : List HoldId := v.grants.flatMap (·.holdings)
/-- A holding's part of every grant ends (R516). -/
def Service.dropGrants (v : Service) (h : HoldId) : Service :=
  { v with grants := v.grants.map fun g => { g with holdings := g.holdings.filter fun k => k != h } }

/-- An outbound read of a host page that waits for its completion (R253, R551). -/
structure HostRead where
  tag : Nat
  core : CoreId
  addr : Nat
  bytes : Nat
  deriving DecidableEq, Repr

/-- The pins and what holds the module in reset (R544, R549, R553, R554). -/
structure Pins where
  inputPower : Bool := true
  perst : Bool := false
  pwrOk : Bool := true
  thermTrip : Bool := false
  /-- the keeper holds reset after a trip; a release of PERST# waits for it -/
  heldHot : Bool := false
  releaseWaits : Bool := false
  clkMode : Bool := false
  jtag : Nat := 0
  coolant : Nat × Nat × Nat := (0, 0, 0)
  /-- the reset in progress, by its depth: 0 none, 1 core, 2 die, 3 warm, 4 cold (R556) -/
  resetting : Fin 5 := 0
  /-- log2 of the BAR4 sizes of the PF and of the VFs, which configuration space sets: 64 GiB at cold reset (R451) -/
  bar4 : Nat × Nat := (36, 36)
  deriving DecidableEq, Repr

/-- What the module drives towards the host, its peers and the management interface, in order. -/
inductive Emit where
  /-- a flit on a port, its 256 bytes as R302 lays them out -/
  | flit (port : PortId) (flit : Flit)
  /-- a sideband slot with its CRC-32C (R319) -/
  | sideband (port : PortId) (m : SidebandMsg) (crc : Word32)
  | readData (data : List PByte) (checked : Bool)
  | bar4Data (fn : FnId) (data : List PByte)
  | bar4Status (fn : FnId) (s : CplStatus)
  | hostWrite (addr : Nat) (data : List PByte)
  | hostRead (tag : Nat) (addr : Nat) (bytes : Nat)
  | completion (addr : Word64) (entry : BitVec 256)
  | msix (fn : FnId) (vector : Nat)
  | output (addr : Word64) (bytes : List Byte)
  | register (path : Path) (value : Word64)
  | scan (bits : List Byte)
  | management (bytes : List Byte)
  deriving DecidableEq, Repr

end Sys2Proof.Machine
end

