-- ==== Sys2Proof/Machine/State.lean ====
section
/-! DEFINITION. The state of the module: the commands that wait, and the device (Dev) that holds everything the
spec gives the block. Also the reasons for which a command can stop. -/

namespace Sys2Proof.Machine

open Sys2Proof

/-- A die as its window shows it in REG_STATE (R456). -/
structure Die where
  fenced : Bool := false
  offline : Bool := false
  /-- frozen by a Survey -/
  survey : Bool := false
  testMode : Bool := false
  deriving DecidableEq, Repr

/-- The translation caches (R249): a core's of 128 entries, a die's shared one of 4,096, and its walker's of 256 level-2
and level-3 entries. -/
inductive CacheName where
  | core (c : CoreId) | shared (die : Nat) | walker (die : Nat)
  deriving DecidableEq, Repr

/-- An entry of a translation cache: its holding, level and key, and the page-table entry. -/
structure CachedLeaf where
  cache : CacheName
  holding : HoldId
  level : Nat
  key : Nat
  entry : Word64
  deriving DecidableEq, Repr

/-- The device. Registers are keyed by their BAR0 offset, die × 0x40000 + window offset (R455). -/
structure Dev where
  /-- device time in ticks (R476) -/
  dt : BitVec 64 := 0
  /-- 32-bit registers that hold a value of their own, event registers and numeric counters among them -/
  regs : Tab Word32 := []
  /-- 64-bit counters by the offset of their low word (R80) -/
  ctrs : Tab Word64 := []
  /-- latched high words by the offset of the low word (R80) -/
  ctrHi : Tab Word32 := []
  /-- pending slots of R464 -/
  slots : Tab (Option Word32) := []
  /-- key latches (R468): die × 4 + path -/
  guards : Tab Bool := []
  dies : Tab Die := []
  cores : Tab Core := []
  stackTab : Tab Stack := []
  /-- memory contents by device physical address; an unlisted byte reads as zero (R231) -/
  mem : List Host.Cell := []
  /-- sectors that hold the poison syndrome (R228) -/
  secPoison : Tab Bool := []
  /-- errors in stored sectors that no read has met yet (R235) -/
  ecc : Tab EccOutcome := []
  /-- block tags by block number (R229); none is the tag that Gotre writes at cold reset, poisoned on a re-admitted stack -/
  tags : Tab (Option Tag) := []
  /-- the stacks re-admitted since the tags were written, whose every tag has been written with POISON = 1 (R222) -/
  regained : List Nat := []
  /-- region tables: tier × 4,096 + region (R219); none is the cold-reset entry -/
  regions : Tab (Option Region) := []
  memWaits : List MemWait := []
  /-- units' requests whose parity check failed, by stack × 32 + channel: the reissues that failed, and 4 for one that is
  exhausted (R237) -/
  reissues : Tab Nat := []
  /-- the translation caches (R249) -/
  xlat : List CachedLeaf := []
  /-- the PCIe egress hold, oldest first (R395) -/
  egress : List EgressItem := []
  /-- crossing numbers by requester × 64 + receiving die: the last one sent and the highest one served (R411). A requester
  is a core, or 256 + die. -/
  crossTx : Tab Word32 := []
  crossRx : Tab Word32 := []
  crossing : List Crossing := []
  /-- pending writes without clearance (R383) -/
  pend : List PendWrite := []
  ports : Tab Port := []
  /-- the sequence home, by destination × 4 + channel and by source × 4 + channel (R311) -/
  seqTx : Tab SeqTx := []
  seqRx : Tab SeqRx := []
  /-- newest known epoch of a source's holding: source × 8 + holding (R315), and that of the last notice passed on (R320) -/
  epochs : Tab (BitVec 16) := []
  notices : Tab (BitVec 16) := []
  /-- payload of a WRITE message whose last flit has not come in, by source × 4 + channel (R305, R391) -/
  rxWrites : Tab (List PByte) := []
  /-- link state of the pod's devices by position (R316) -/
  linkState : Tab (BitVec 6) := []
  /-- the link state that this device sent last -/
  linkSent : BitVec 6 := 0
  gate : List GateItem := []
  time : TimeSync := {}
  holdings : Tab Holding := []
  queues : Tab Queue := []
  /-- mailboxes by function × 4 + mailbox (R421) -/
  boxes : Tab Mailbox := []
  gotre : Gotre := {}
  power : Power := {}
  droop : Tab Droop := []
  saved : Option SavedImage := none
  survey : Survey := {}
  service : Service := {}
  pins : Pins := {}
  serves : Tab (Option MirrorServe) := []
  hostReads : List HostRead := []
  /-- MSI-X tables (R548): function × 32 + word -/
  msix : Tab Word32 := []
  hostTag : Nat := 0
  /-- device shadows of the step records (R529), by counter offset -/
  shadow : Tab Nat := []
  /-- what has left the module, oldest first (the model's own) -/
  outbox : List Emit := []
  /-- the number of free values taken so far (the model's own) -/
  free : Nat := 0
  deriving DecidableEq, Repr

/-- The machine: the commands that wait, first in first out, and the device. -/
structure State where
  pending : List Instr
  dev : Dev
  deriving DecidableEq, Repr

/-- Why a command stops the machine. -/
inductive Fault where
  /-- Raised by MEM_READ, MEM_WRITE, CLEARANCE and SCRUB_BLOCK for a device physical address outside the near and
  the far tier (R219): the spec says that no such address exists. Safe: the model stops. -/
  | noSuchAddress (address : Nat)
  deriving DecidableEq, Repr

/-- Why the model has no next state for a command. -/
inductive Refusal where
  /-- Raised by exec alone, for a row of the table that has no meaning yet. Safe: the model stops. -/
  | notModelled (mnemonic : String)
  deriving DecidableEq, Repr

/-- Registers whose reset value is not zero: NMC_SCRUB_HOURS and its far-stack copies (R242), KLX_CTRL (R329),
KLX_TIME_PARENT (R331), the pod route table (R333), CLK_DROOP_CFG (R492), SVY_CTRL (R534) and
KPR_RESET_CAUSE (R557). -/
def resetRegs : List (Nat × Word32) :=
  (List.range 32).map (fun d => (d * 0x40000 + 0x19000, 0x3C1E#32)) ++
  (List.range 16).map (fun n => ((32 + n) * 0x40000 + 0x1000C, 24#32)) ++
  [(48 * 0x40000 + 0x13004, 1#32), (48 * 0x40000 + 0x13304, 0xF#32)] ++
  (List.range 64).map (fun i => (48 * 0x40000 + 0x13400 + 4 * i, 0xAAAAAAAA#32)) ++
  [(48 * 0x40000 + 0x19000, 0x3C1E#32)] ++
  (List.range 7).flatMap (fun j =>
    [((49 + j) * 0x40000 + 0x13004, 1#32), ((49 + j) * 0x40000 + 0x19000, 0x3C1E#32)]) ++
  (List.range 4).flatMap (fun m =>
    [((56 + m) * 0x40000 + 0x1000C, 24#32), ((56 + m) * 0x40000 + 0x1010C, 24#32)]) ++
  [(63 * 0x40000 + 0x1C000, 3#32), (63 * 0x40000 + 0x1D004, 0x14#32)]

/-- The module right after a cold reset at power-up, before the boot of R448 has run (COLD_RESET_BOOT). -/
def State.reset : State := { pending := [], dev := { regs := resetRegs, pins := { resetting := 4 } } }

end Sys2Proof.Machine
end

