-- ==== Sys2Proof/Machine/Flags.lean ====
section
/-! DEFINITION. The register map (R451 to R470 and the maps of the unit chapters), counters, event registers and
the units of which they speak. -/

namespace Sys2Proof.Machine

open Sys2Proof

/-! ### Dies and units (R6, R7) -/

/-- The kinds of die, as REG_ID.KIND numbers them (R456). -/
def dieKind (d : Nat) : Nat :=
  if d < 32 then 0 else if d < 48 then 1 else if d < 56 then 2 else if d < 60 then 3 else if d < 62 then 4
  else if d = 62 then 5 else 6

/-- The BAR0 offset of a register of a die (R455). -/
def regAt (d off : Nat) : Nat := d * 0x40000 + off

/-- A register of a core's block, whose blocks have the given first offset and stride (R79, R123, R147, R187). -/
def coreReg (base stride : Nat) (c : CoreId) (off : Nat) : Nat :=
  regAt (c.val / 8) (base + (c.val % 8) * stride + off)

def plgReg (c : CoreId) (off : Nat) : Nat := coreReg 0xA000 0x100 c off
def seqReg (c : CoreId) (off : Nat) : Nat := coreReg 0xB000 0x100 c off
def wdrReg (c : CoreId) (off : Nat) : Nat := coreReg 0xC000 0x100 c off
def ctrReg (c : CoreId) (off : Nat) : Nat := coreReg 0xD000 0x100 c off
def xfmReg (c : CoreId) (off : Nat) : Nat := coreReg 0xF000 0x100 c off
def chkReg (c : CoreId) (off : Nat) : Nat := coreReg 0x16000 0x80 c off
/-- A stall counter: unit u, cause c (R188). -/
def stallReg (c : CoreId) (u cause : Nat) : Nat := coreReg 0xE000 0x100 c (u * 0x40 + (cause - 1) * 8)
/-- A numeric counter: unit u, format code f; +4 for NONFIN (R43). -/
def numReg (c : CoreId) (u f : Nat) : Nat := coreReg 0x9000 0x200 c (u * 0x80 + f * 8)
def tlyReg (die off : Nat) : Nat := regAt die (0x10000 + off)
def xltReg (die off : Nat) : Nat := regAt die (0x11000 + off)
def drlReg (die off : Nat) : Nat := regAt die (0x12000 + off)
/-- The link die of a port (R7). -/
def linkDie (p : PortId) : Nat := 48 + p.val
def klxReg (p : PortId) (off : Nat) : Nat := regAt (linkDie p) (0x13000 + off)
def redReg (p : PortId) (off : Nat) : Nat := regAt (linkDie p) (0x14000 + off)
def hrwReg (p : PortId) (off : Nat) : Nat := regAt (linkDie p) (0x15000 + off)
def lchkReg (p : PortId) (off : Nat) : Nat := regAt (linkDie p) (0x16000 + off)
def hdlReg (p : PortId) (off : Nat) : Nat := regAt (linkDie p) (0x17000 + off)
def ctl : Nat := 62
def kpr : Nat := 63
/-- The die that holds a stack's controller, and the first offset of its registers (R242). -/
def stackDie (s : StackId) : Nat := if s.val < 16 then 32 + s.val else 56 + (s.val - 16) / 2
def stackReg (s : StackId) (off : Nat) : Nat :=
  regAt (stackDie s) (0x10000 + (if s.val < 16 then 0 else (s.val % 2) * 0x100) + off)

/-! ### The map -/

/-- When a written value takes effect (R463). -/
inductive Apply where
  | immediate | pass | step | flit
  deriving DecidableEq, Repr

/-- How a register is read. -/
inductive RegKind where
  /-- the value that regs holds -/
  | plain
  /-- formed from the state at each read -/
  | status
  /-- the low word of a 64-bit counter -/
  | low
  /-- its latched high word -/
  | high
  deriving DecidableEq, Repr

/-- A register: how it reads, its bits by access type, and its apply point. Bits in no mask are RSVD-P. -/
structure RegInfo where
  kind : RegKind
  ro : Word32 := 0
  rw : Word32 := 0
  rwk : Word32 := 0
  rc : Word32 := 0
  wo : Word32 := 0
  apply : Apply := .immediate
  deriving DecidableEq, Repr

def statusReg (mask : Word32) : Option RegInfo := some { kind := .status, ro := mask }
def heldReg (mask : Word32) : Option RegInfo := some { kind := .plain, ro := mask }
def eventReg (mask : Word32) : Option RegInfo := some { kind := .plain, rc := mask }
def allOnes32 : Word32 := 0xFFFFFFFF

/-- Counters at every 8 bytes from lo to hi of a block. -/
def counterIn (lo hi off : Nat) : Option RegInfo :=
  if lo ≤ off && off < hi + 8 then
    if off % 8 = 0 then some { kind := .low, rc := allOnes32 }
    else if off % 8 = 4 then some { kind := .high, ro := allOnes32 }
    else none
  else none

/-- A numeric counter at f × 8 for the format codes of R22, with its NONFIN at +4 (R43). -/
def numericIn (off : Nat) : Option RegInfo :=
  if off < 11 * 8 && off % 4 = 0 then eventReg allOnes32 else none

/-- The window header (R456). -/
def headerInfo (off : Nat) : Option RegInfo :=
  match off with
  | 0x00 => statusReg 0xFFFF073F
  | 0x04 => statusReg 0x1F
  | 0x08 => some { kind := .status, wo := allOnes32 }
  | 0x0C => statusReg 7
  | 0x10 => statusReg 0xFF
  | 0x14 => eventReg 0x1F
  | 0x18 => eventReg allOnes32
  | _ => none

/-- The translation registers (R268). -/
def xltInfo (off : Nat) : Option RegInfo :=
  match off with
  | 0x00 => eventReg allOnes32
  | 0x04 => heldReg allOnes32
  | 0x08 => heldReg 0xFFFFF
  | _ => counterIn 0x10 0x38 off

/-- A memory controller's block (R242). -/
def stackInfo (off : Nat) : Option RegInfo :=
  match off with
  | 0x00 => statusReg 0x1F1F
  | 0x04 => statusReg 0xFF
  | 0x08 => statusReg 0x1F
  | 0x0C => some { kind := .plain, rw := 0xFF }
  | _ => counterIn 0x10 0x98 off

/-- The droop registers (R492). -/
def droopInfo (off : Nat) : Option RegInfo :=
  match off with
  | 0x00 => some { kind := .plain, rwk := 0xFFFF }
  | _ => counterIn 0x08 0x18 off

/-- The unit registers of a compute die. -/
def computeInfo (o : Nat) : Option RegInfo :=
  if o < 0x9000 then
    if 0x100 ≤ o && o < 0x120 then (if o % 4 = 0 then eventReg 0x1FF else none)
    else if o = 0x120 then eventReg 0x3F
    else none
  else if o < 0xA000 then numericIn (o % 0x80)
  else if o < 0xB000 then
    (if 0xA800 ≤ o then none else if o % 0x100 = 0 then statusReg 0x1FB else counterIn 0x08 0x60 (o % 0x100))
  else if o < 0xC000 then
    if 0xB800 ≤ o then none else
    match o % 0x100 with
    | 0x00 => statusReg 0x1F0F
    | 0x04 => heldReg allOnes32
    | 0x08 => some { kind := .plain, rw := 0x1FFFF, apply := .step }
    | 0x0C => some { kind := .plain, rw := 0x1FFFF, apply := .step }
    | k => if 0x80 ≤ k && k < 0xBC && k % 4 = 0 then statusReg 0xFFFFFF else counterIn 0x10 0x58 k
  else if o < 0xD000 then
    (if 0xC800 ≤ o then none else if o % 0x100 = 0 then statusReg 0xFF07 else counterIn 0x08 0x50 (o % 0x100))
  else if o < 0xE000 then
    if 0xD800 ≤ o then none else
    match o % 0x100 with
    | 0x00 => statusReg 0x71F
    | 0x04 => some { kind := .plain, rw := 0x1FFFF, apply := .step }
    | 0x08 => some { kind := .plain, rw := 0x1FFFF, apply := .step }
    | 0x0C => statusReg 0xFF
    | k => counterIn 0x10 0x48 k
  else if o < 0xF000 then (if o < 0xE800 then counterIn 0 0xF8 (o % 0x100) else none)
  else if o < 0x10000 then
    (if 0xF800 ≤ o then none else if o % 0x100 = 0 then statusReg 0x7F3 else counterIn 0x08 0x20 (o % 0x100))
  else if o < 0x11000 then (if o = 0x10000 then statusReg 0xFFF else counterIn 0x08 0x30 (o - 0x10000))
  else if o < 0x12000 then xltInfo (o - 0x11000)
  else if o < 0x13000 then
    if o = 0x12000 then statusReg 0x1FFF
    else if o - 0x12000 < 0x60 then counterIn 0x08 0x58 (o - 0x12000)
    else counterIn 0x68 0x78 (o - 0x12000)
  else if 0x16000 ≤ o && o < 0x16400 then
    (if o % 0x80 = 0 then heldReg 0xF else counterIn 0x08 0x30 (o % 0x80))
  else if o = 0x16400 then heldReg 0xF
  else if 0x19000 ≤ o then droopInfo (o - 0x19000)
  else none

/-- The unit registers of a link die; those of R331 and R333 on L0 alone. -/
def linkInfo (l0 : Bool) (o : Nat) : Option RegInfo :=
  if o < 0x11000 then
    match o with
    | 0x100 => eventReg 0xFF
    | 0x104 => eventReg 0x7F
    | _ => none
  else if o < 0x12000 then xltInfo (o - 0x11000)
  else if o < 0x13000 then counterIn 0x68 0x78 (o - 0x12000)
  else if o < 0x13300 then
    match o - 0x13000 with
    | 0x00 => statusReg 0xFF
    | 0x04 => some { kind := .plain, rwk := 1 }
    | 0x90 => statusReg 0x1FFFFF
    | k => counterIn 0x08 0x88 k
  else if o < 0x13400 then
    if l0 then
      match o - 0x13300 with
      | 0x00 => some { kind := .plain, rwk := 0x1FFFF }
      | 0x04 => some { kind := .plain, rw := 0xF }
      | 0x08 => statusReg 3
      | 0x0C => statusReg allOnes32
      | k => counterIn 0x10 0x18 k
    else none
  else if o < 0x13500 then
    (if l0 && o % 4 = 0 then some { kind := .plain, rw := allOnes32, apply := .flit } else none)
  else if o < 0x13600 then (if l0 && o % 4 = 0 then statusReg 0x3F else none)
  else if o < 0x15000 then
    if o = 0x14000 then statusReg 0xFF0F
    else if 0x14100 ≤ o then numericIn (o - 0x14100)
    else counterIn 0x08 0x58 (o - 0x14000)
  else if o < 0x16000 then
    if o = 0x15000 then statusReg 0xFFD
    else if 0x15100 ≤ o then numericIn (o - 0x15100)
    else counterIn 0x08 0x60 (o - 0x15000)
  else if o < 0x17000 then (if o = 0x16000 then heldReg 0xF else counterIn 0x08 0x10 (o - 0x16000))
  else if o < 0x19000 then (if o = 0x17000 then statusReg 0x1FFFF else counterIn 0x08 0x28 (o - 0x17000))
  else droopInfo (o - 0x19000)

/-- The registers of the control die. -/
def controlInfo (o : Nat) : Option RegInfo :=
  match o with
  | 0x100 => eventReg 0x1F
  | 0x200 => statusReg allOnes32
  | 0x204 => statusReg allOnes32
  | 0x208 => statusReg allOnes32
  | 0x20C => statusReg allOnes32
  | 0x16000 => statusReg allOnes32
  | _ =>
    if o < 0x11000 then none
    else if o < 0x12000 then xltInfo (o - 0x11000)
    else if 0x16000 ≤ o && o < 0x17000 then counterIn 0x08 0x38 (o - 0x16000)
    else if 0x17000 ≤ o && o < 0x18000 then counterIn 0x00 0x10 (o - 0x17000)
    else if 0x18000 ≤ o then counterIn 0x00 0x38 (o - 0x18000)
    else none

/-- The registers of the keeper die. -/
def keeperInfo (o : Nat) : Option RegInfo :=
  match o with
  | 0x100 => eventReg 7
  | 0x19000 => statusReg 3
  | 0x19008 => statusReg allOnes32
  | 0x1900C => statusReg allOnes32
  | 0x1A000 => statusReg 0x3F7F
  | 0x1A004 => statusReg 0xFFFF
  | 0x1A038 => statusReg 0xF
  | 0x1B000 => statusReg 0x3FF
  | 0x1B004 => statusReg 0x1FF
  | 0x1C000 => some { kind := .plain, rwk := 3 }
  | 0x1C004 => some { kind := .status, rwk := 0x3F03 }
  | 0x1C008 => statusReg 0x7FF
  | 0x1C00C => statusReg 0xFFFF
  | 0x1C010 => statusReg allOnes32
  | 0x1C014 => statusReg allOnes32
  | 0x1D000 => some { kind := .status, rwk := 0xFF07 }
  | 0x1D004 => heldReg 0xFFF
  | 0x1D008 => statusReg 0xFFFFFF
  | _ =>
    if o < 0x19000 then none
    else if o < 0x1A000 then counterIn 0x10 0x10 (o - 0x19000)
    else if o < 0x1A038 then counterIn 0x08 0x30 (o - 0x1A000)
    else if 0x1A040 ≤ o && o < 0x1A080 then (if o % 4 = 0 then statusReg allOnes32 else none)
    else if 0x1A084 ≤ o && o < 0x1A0B0 then (if o % 4 = 0 then eventReg allOnes32 else none)
    else if 0x1B010 ≤ o && o < 0x1B030 then (if o % 4 = 0 then statusReg allOnes32 else none)
    else if 0x1B030 ≤ o && o < 0x1C000 then counterIn 0x30 0x38 (o - 0x1B000)
    else if 0x1C018 ≤ o && o < 0x1D000 then counterIn 0x18 0x18 (o - 0x1C000)
    else if 0x1D000 ≤ o then counterIn 0x10 0x18 (o - 0x1D000)
    else none

/-- The register at a window offset below 0x2_0000 of a die, none where the maps place none (R453). -/
def regInfo (die off : Nat) : Option RegInfo :=
  if off < 0x100 then headerInfo off
  else
    match dieKind die with
    | 0 => computeInfo off
    | 1 => if off = 0x100 then eventReg 0xFF else if 0x10000 ≤ off then stackInfo (off - 0x10000) else none
    | 2 => linkInfo (die == 48) off
    | 3 =>
      if off = 0x100 || off = 0x104 then eventReg 0xFF
      else if 0x10000 ≤ off && off < 0x10200 then stackInfo (off % 0x100) else none
    | 4 => if off = 0x100 then eventReg 1 else none
    | 5 => controlInfo off
    | _ => keeperInfo off

/-- A FULL Survey stops the clocks (R522). -/
def Dev.fullSurvey (s : Dev) : Bool := s.survey.frozen && !s.survey.dieScope

/-- The clocks beyond the keeper run: the module has power and its PLL, no FULL Survey stops them (R522), no power state has
powered the dies down (R482), no warm or cold reset is running (R555), recovery included (R499), and the device's service has
not ended (R418, R472). -/
def Dev.clocked (s : Dev) : Bool :=
  s.pins.inputPower && s.power.pllLock && !s.fullSurvey && s.power.state != .fallow && s.power.state != .off
    && decide (s.pins.resetting.val < 3) && s.gotre.deviceState != .recovery && s.gotre.deviceState != .ended

/-- Memory serves requests: in SLEEP it is active at refresh only (R482). -/
def Dev.memoryUp (s : Dev) : Bool := s.clocked && s.power.state != .sleep
/-- The Drill and Tally blocks run: AC stands on the compute dies but in RUN (R482). -/
def Dev.drillUp (s : Dev) : Bool := s.clocked && s.power.state == .run

/-- The host reaches the module: power, no cold reset, no OFF and no trip (R482, R549, R553). -/
def Dev.pcieUp (s : Dev) : Bool :=
  s.pins.inputPower && s.power.state != .off && decide (s.pins.resetting.val < 4) && !s.pins.heldHot
/-- The host's writes to BAR2 are discarded: in a FULL Survey (R524), and once the device's service has ended (R418). -/
def Dev.hostCut (s : Dev) : Bool := s.fullSurvey || !s.pcieUp || s.gotre.deviceState == .ended

/-! ### Events, counters and totals -/

/-- The value of a register of its own. -/
def Dev.reg (s : Dev) (a : Nat) : Word32 := Tab.get 0 s.regs a
def Dev.setReg (s : Dev) (a : Nat) (v : Word32) : Dev := { s with regs := Tab.set 0 s.regs a v }
/-- Sets bits of an event register (R457). -/
def Dev.event (s : Dev) (a : Nat) (bits : Word32) : Dev := s.setReg a (s.reg a ||| bits)
def Dev.ctr (s : Dev) (a : Nat) : Word64 := Tab.get 0 s.ctrs a

/-- A counter that stops at all ones (R80). -/
def addStop64 (v : Word64) (n : Nat) : Word64 := BitVec.ofNat 64 (min (v.toNat + n) 0xFFFFFFFFFFFFFFFF)
/-- A 32-bit counter that stops (R44). -/
def addStop32 (v : Word32) (n : Nat) : Word32 := BitVec.ofNat 32 (min (v.toNat + n) 0xFFFFFFFF)

/-- The key of a counter in a step record: its kind of die and its place in its unit's map (R529). -/
def totalKey (a : Nat) : Nat :=
  let d := a / 0x40000
  let o := a % 0x40000
  let k :=
    match dieKind d with
    | 0 =>
      if 0x9000 ≤ o && o < 0xA000 then 0x9000 + o % 0x200
      else if 0xA000 ≤ o && o < 0x10000 then o / 0x1000 * 0x1000 + o % 0x100
      else if 0x16000 ≤ o && o < 0x16400 then 0x16000 + o % 0x80
      else o
    | 3 => if 0x10000 ≤ o then 0x10000 + o % 0x100 else o
    | _ => o
  dieKind d * 0x40000 + k

/-- Adds to the shadow totals of a holding (R529); they are 32 bits and stop (R528). -/
def StepTotals.add (t : StepTotals) (a n : Nat) : StepTotals :=
  { t with totals := Tab.modify 0 t.totals (totalKey a) (fun v => min (v + n) 0xFFFFFFFF) }

def Dev.holding (s : Dev) (h : HoldId) : Holding := Tab.get {} s.holdings h.val
def Dev.setHolding (s : Dev) (h : HoldId) (v : Holding) : Dev := { s with holdings := Tab.set {} s.holdings h.val v }
def Dev.modHolding (s : Dev) (h : HoldId) (f : Holding → Holding) : Dev :=
  { s with holdings := Tab.modify {} s.holdings h.val f }

/-- Adds an event to a unit counter, to the shadow of the holding it worked for, and to the device's (R529). -/
def Dev.count (s : Dev) (h : Option HoldId) (a n : Nat) : Dev :=
  { s with
    ctrs := Tab.set 0 s.ctrs a (addStop64 (s.ctr a) n)
    shadow := Tab.modify 0 s.shadow (totalKey a) (· + n)
    holdings := match h with
      | none => s.holdings
      | some h => Tab.modify {} s.holdings h.val (fun x => { x with totals := x.totals.add a n }) }

/-- Adds to a 32-bit numeric counter in the same way (R43, R360, R380). -/
def Dev.countNum (s : Dev) (h : Option HoldId) (a n : Nat) : Dev :=
  { s with
    regs := Tab.set 0 s.regs a (addStop32 (s.reg a) n)
    shadow := Tab.modify 0 s.shadow (totalKey a) (· + n)
    holdings := match h with
      | none => s.holdings
      | some h => Tab.modify {} s.holdings h.val (fun x => { x with totals := x.totals.add a n }) }

/-- The total of poisoned sectors that a holding's requests met; it has no register (R243). -/
def poisonKey : Nat := 0x50008
def Dev.metPoison (s : Dev) (h : Option HoldId) (n : Nat) : Dev :=
  match h with
  | none => s
  | some h => s.modHolding h fun x =>
      { x with totals := { x.totals with totals := Tab.modify 0 x.totals.totals poisonKey (fun v => min (v + n) 0xFFFFFFFF) } }

/-- The event register of a core (R457). -/
def coreEvent (c : CoreId) : Nat := regAt (c.val / 8) (0x100 + (c.val % 8) * 4)

/-- The bits of CORE_EVENT (R457). -/
def evTakeover : Word32 := 0x001
def evHalted : Word32 := 0x002
def evRunFault : Word32 := 0x004
def evFenced : Word32 := 0x008
def evResEvent : Word32 := 0x010
def evPoisonUse : Word32 := 0x020
def evNumeric : Word32 := 0x040
def evDeferFault : Word32 := 0x080
def evSpill : Word32 := 0x100

/-- The events of REG_EVENT (R456). -/
def regEvent (d : Nat) : Nat := regAt d 0x14

/-- Adds saturations and non-finite conversions of a core's unit (R43, R457). -/
def Dev.countSat (s : Dev) (h : Option HoldId) (c : CoreId) (u f sat nonfin : Nat) : Dev :=
  let s1 := if sat = 0 then s else s.countNum h (numReg c u f) sat
  let s2 := if nonfin = 0 then s1 else s1.countNum h (numReg c u f + 4) nonfin
  if sat = 0 && nonfin = 0 then s2 else s2.event (coreEvent c) evNumeric

/-! ### Accessors -/

def Dev.core (s : Dev) (c : CoreId) : Core := Tab.get {} s.cores c.val
def Dev.setCore (s : Dev) (c : CoreId) (v : Core) : Dev := { s with cores := Tab.set {} s.cores c.val v }
def Dev.modCore (s : Dev) (c : CoreId) (f : Core → Core) : Dev := { s with cores := Tab.modify {} s.cores c.val f }
def Dev.die (s : Dev) (d : Nat) : Die := Tab.get {} s.dies d
def Dev.modDie (s : Dev) (d : Nat) (f : Die → Die) : Dev := { s with dies := Tab.modify {} s.dies d f }
def Dev.stack (s : Dev) (k : StackId) : Stack := Tab.get {} s.stackTab k.val
def Dev.modStack (s : Dev) (k : StackId) (f : Stack → Stack) : Dev :=
  { s with stackTab := Tab.modify {} s.stackTab k.val f }
def Dev.port (s : Dev) (p : PortId) : Port := Tab.get {} s.ports p.val
def Dev.modPort (s : Dev) (p : PortId) (f : Port → Port) : Dev := { s with ports := Tab.modify {} s.ports p.val f }
def Dev.queue (s : Dev) (q : Nat) : Queue := Tab.get {} s.queues q
def Dev.modQueue (s : Dev) (q : Nat) (f : Queue → Queue) : Dev := { s with queues := Tab.modify {} s.queues q f }
def boxKey (f : FnId) (m : MbId) : Nat := f.val * 4 + m.val
def Dev.box (s : Dev) (f : FnId) (m : MbId) : Mailbox := Tab.get {} s.boxes (boxKey f m)
def Dev.modBox (s : Dev) (f : FnId) (m : MbId) (g : Mailbox → Mailbox) : Dev :=
  { s with boxes := Tab.modify {} s.boxes (boxKey f m) g }
def Dev.emit (s : Dev) (e : Emit) : Dev := { s with outbox := s.outbox ++ [e] }
def Dev.emits (s : Dev) (es : List Emit) : Dev := { s with outbox := s.outbox ++ es }

/-- The numbers of the holdings. -/
def allHoldings : List HoldId := List.finRange 8
/-- The holding whose compute a core is, if any (R12, R437). -/
def Dev.holdingOfCore (s : Dev) (c : CoreId) : Option HoldId :=
  allHoldings.find? fun h => (s.holding h).state != .closed && (s.holding h).cores.contains c.val

/-- A fresh free value (notes/assumptions/3). -/
def Dev.takeFree (s : Dev) : Word64 × Dev := (Config.freeValue s.free, { s with free := s.free + 1 })

/-- Sets device time to a deadline's moment when it lies ahead (notes/assumptions/2). -/
def Dev.advanceTo (s : Dev) (t : Word64) : Dev :=
  if (t - s.dt).toNat < 0x8000000000000000 then { s with dt := t } else s

/-- Whether a moment t has come at time now, by the half-range rule (R311, R476). -/
def reached (now t : Word64) : Bool := decide ((now - t).toNat < 0x8000000000000000)

/-- Half-range order of 32-bit indices: a is at or before b (R311). -/
def seqLe (a b : Word32) : Bool := decide ((b - a).toNat < 0x80000000)
/-- a is before b. -/
def seqLt (a b : Word32) : Bool := a != b && seqLe a b

/-- Adds an amount of cycles that the rules do not fix (notes/assumptions/7). -/
def Dev.countFree (s : Dev) (h : Option HoldId) (a : Nat) : Dev :=
  let s1 := s.count h a (Config.waitCycles s.free)
  { s1 with free := s1.free + 1 }

end Sys2Proof.Machine
end

