-- ==== Sys2Proof/Machine/Ops.lean ====
section
/-! DEFINITION. The operations over memory: check values, placement, the access rules of the controllers (R216 to
R241), translation of holding addresses (R246 to R253) and the reads and writes that the units make through them. -/

namespace Sys2Proof.Machine

open Sys2Proof

/-! ### Check values (R230, R302) -/

/-- One bit of a reflected CRC. -/
def crcStep {w : Nat} (poly c : BitVec w) : BitVec w := if c.getLsbD 0 then (c >>> 1) ^^^ poly else c >>> 1

/-- One byte of a reflected CRC. -/
def crcByte {w : Nat} (poly c : BitVec w) (b : Byte) : BitVec w :=
  let f := crcStep poly
  f (f (f (f (f (f (f (f (c ^^^ b.setWidth w))))))))

/-- CRC-32C: the Castagnoli polynomial in its reflected form (R230). -/
def crc32c (bytes : List Byte) : Word32 :=
  (bytes.foldl (crcByte 0x82F63B78#32) 0xFFFFFFFF#32) ^^^ 0xFFFFFFFF#32

/-- CRC-64 with the ECMA-182 polynomial in its reflected form (R302). -/
def crc64 (bytes : List Byte) : Word64 :=
  (bytes.foldl (crcByte 0xC96C5795D7870F42#64) 0xFFFFFFFFFFFFFFFF#64) ^^^ 0xFFFFFFFFFFFFFFFF#64

/-- The bytes of a number in little-endian order (R3). -/
def leBytes (n v : Nat) : List Byte := (List.range n).map fun i => BitVec.ofNat 8 (v >>> (8 * i))

/-- The number that bytes hold in little-endian order. -/
def leNat : List Byte → Nat
  | [] => 0
  | b :: t => b.toNat + 256 * leNat t

/-! ### Placement (R219, R220) -/

def nearEnd : Nat := 0x18000000000
def farBase : Nat := 0x20000000000
def farEnd : Nat := 0x2C000000000

/-- Whether a device physical address lies in a tier (R219). -/
def memExists (pa : Nat) : Bool := pa < nearEnd || (farBase ≤ pa && pa < farEnd)
/-- The tier of an address: 0 near, 1 far. -/
def tierOf (pa : Nat) : Nat := if pa < nearEnd then 0 else 1
def tierBase (t : Nat) : Nat := if t = 0 then 0 else farBase
def tierRegions (t : Nat) : Nat := if t = 0 then 1536 else 768
def tierStacks (t : Nat) : Nat := if t = 0 then 16 else 8
def tierChannels (t : Nat) : Nat := if t = 0 then 32 else 8
def regionBlocks : Nat := 262144

/-- The cold-reset entry of a region (R219). -/
def bootRegion (t r : Nat) : Region :=
  { valid := true, mask := if t = 0 then 0xFFFF else 0x00FF
    localBase := BitVec.ofNat 25 (if t = 0 then 16384 * r else 32768 * r), degraded := false }

def regionKey (t r : Nat) : Nat := t * 4096 + r
def Dev.region (s : Dev) (t r : Nat) : Region := (Tab.get none s.regions (regionKey t r)).getD (bootRegion t r)

/-- The numbers of the set bits of a mask, lowest first. -/
def maskBits (m : Nat) (n : Nat) : List Nat := (List.range n).filter fun k => m.testBit k

/-- The region of an address in its tier and the block within it. -/
def regionOf (pa : Nat) : Nat × Nat :=
  let b := (pa - tierBase (tierOf pa)) / 4096
  (b / regionBlocks, b % regionBlocks)

/-- Where a block lies (R220). -/
structure Place where
  stack : StackId
  localBlock : Nat
  channel : Nat
  bank : Nat
  row : Nat
  deriving DecidableEq, Repr

/-- The placement of R220. -/
def Dev.place (s : Dev) (pa : Nat) : Place :=
  let t := tierOf pa
  let r := (regionOf pa).1
  let j := (regionOf pa).2
  let e := s.region t r
  let on := maskBits e.mask.toNat 16
  let n := max on.length 1
  let k := nthD on (j % n) 0
  let l := e.localBase.toNat + j / n
  let c := tierChannels t
  { stack := Fin.ofNat 24 (k + 16 * t), localBlock := l, channel := l % c, bank := l / c % 32, row := l / (32 * c) }

/-! ### Tags and stacks -/

/-- The tag that Gotre writes at cold reset (R229, R241). -/
def bootTag (block : Nat) : Tag :=
  if block < regionBlocks || (farBase / 4096 ≤ block && block < farBase / 4096 + regionBlocks) then
    { owner := .device }
  else {}

/-- The tag of a block that the table does not list: POISON has been written into every tag of a re-admitted stack (R222). -/
def Dev.plainTag (s : Dev) (block : Nat) : Tag :=
  if s.regained = [] then bootTag block
  else { bootTag block with poison := s.regained.contains (s.place (block * 4096)).stack.val }

def Dev.tag (s : Dev) (block : Nat) : Tag := (Tab.get none s.tags block).getD (s.plainTag block)
def Dev.setTag (s : Dev) (block : Nat) (t : Tag) : Dev :=
  { s with tags := Tab.set none s.tags block (if t = s.plainTag block then none else some t) }

/-- A stack that answers as offline: offline, fenced, or with its controller's die fenced (R231). -/
def Dev.stackLost (s : Dev) (k : StackId) : Bool :=
  (s.stack k).offline || (s.stack k).fenced || (s.die (stackDie k)).fenced

/-- A controller event in its register (R457). -/
def memEvent (k : StackId) : Nat :=
  regAt (stackDie k) (0x100 + (if k.val < 16 then 0 else (k.val % 2) * 4))

def ownerHolding : Owner → Option HoldId
  | .holding h => some h
  | _ => none

def Dev.countMem (s : Dev) (k : StackId) (o : Owner) (off n : Nat) : Dev := s.count (ownerHolding o) (stackReg k off) n

/-- Tag reads that a request costs: the tag cache's content is not stated (R223, notes/assumptions/7). -/
def Dev.tagRead (s : Dev) (k : StackId) (o : Owner) : Dev := s.countFree (ownerHolding o) (stackReg k 0x20)

/-- Slots of the LATENCY reserve that a request of the class takes: how many is timing (R226, notes/assumptions/7). -/
def Dev.lcSlots (s : Dev) (k : StackId) (cls : MemClass) : Dev :=
  if cls = .latency then s.countFree none (stackReg k 0x98) else s

/-- A journal entry is written to the near copy and then to the far copy, as LATENCY writes (R225, R226, R408). The blocks of
the journals, the sectors of an entry and the tag reads are not stated (notes/assumptions/147). -/
def Dev.journalWrite (s : Dev) : Dev :=
  [(0, 16), (16, 8)].foldl (fun (d : Dev) (t : Nat × Nat) =>
    let v := d.takeFree
    let k : StackId := Fin.ofNat 24 (t.1 + v.1.toNat % t.2)
    if s.stackLost k then v.2
    else ((v.2.countFree none (stackReg k 0x18)).countFree none (stackReg k 0x20)).countFree none (stackReg k 0x98)) s

/-- An access to a lost stack; a fenced controller die keeps no count (R231). -/
def Dev.offlineAccess (s : Dev) (k : StackId) (o : Owner) : Dev :=
  if (s.die (stackDie k)).fenced then s else s.countMem k o 0x80 1

/-- Whether a request's epoch is not its holding's current one; device requests are not checked (R231). -/
def Dev.staleEpoch (s : Dev) (o : Owner) (e : BitVec 16) : Bool :=
  match o with
  | .holding h => (s.holding h).epoch != e
  | _ => false

def Dev.epochOf (s : Dev) (o : Owner) : BitVec 16 :=
  match o with
  | .holding h => (s.holding h).epoch
  | _ => 0

/-! ### Reads (R229 to R231, R235) -/

/-- The answer to a sector read. -/
structure SecRead where
  data : List PByte
  checked : Bool
  /-- the stored data was read -/
  stored : Bool
  deriving DecidableEq, Repr

def poisonedBytes (a n : Nat) : List PByte := (List.range n).map fun i => ⟨Config.poisonByte (a + i), true⟩
def zeroBytes (n : Nat) : List PByte := List.replicate n ⟨0, false⟩
def PByte.flag (b : PByte) : PByte := { b with poison := true }

/-- The stored bytes of a range. -/
def Dev.stored (s : Dev) (pa n : Nat) : List Byte := Tab.getList 0 s.mem pa n

/-- Error correction of one stored sector at a read (R235). -/
def Dev.eccRead (s : Dev) (k : StackId) (o : Owner) (sec : Nat) (e : EccOutcome) : Dev :=
  match e with
  | .clean => s
  | .corrected => s.countMem k o 0x48 1
  | .miscorrected x =>
    let w := leNat (s.stored (sec * 32) 32) ^^^ x.toNat
    let s1 := { s with mem := Tab.setList 0 s.mem (sec * 32) (leBytes 32 w) }
    s1.countMem k o 0x48 1
  | .uncorrectable =>
    let b := sec / 128
    let s1 := (s.countMem k o 0x50 1).event (memEvent k) 1
    { s1.setTag b { s1.tag b with crcOff := true } with secPoison := Tab.set false s1.secPoison sec true }

/-- A read of a stored sector meets the error that stands in it, if one does; the write-back leaves none (R235). -/
def Dev.meetEcc (s : Dev) (k : StackId) (o : Owner) (sec : Nat) : Dev :=
  match Tab.get .clean s.ecc sec with
  | .clean => s
  | e => ({ s with ecc := Tab.set .clean s.ecc sec .clean } : Dev).eccRead k o sec e

def Dev.meetAll (s : Dev) (k : StackId) (o : Owner) (secs : List Nat) : Dev := secs.foldl (fun d x => d.meetEcc k o x) s

/-- Errors that a block's sectors are given, by sector of the block. -/
def Dev.giveErrors (s : Dev) (b : Nat) (ecc : List (Nat × EccOutcome)) : Dev :=
  { s with ecc := ecc.foldl (fun t p => Tab.set .clean t (b * 128 + p.1 % 128) p.2) s.ecc }

/-- A read of one sector by an owner (R231). -/
def Dev.readSector1 (s : Dev) (sec : Nat) (o : Owner) : SecRead × Dev :=
  let k := (s.place (sec * 32)).stack
  let b := sec / 128
  let t := s.tag b
  if s.stackLost k then (⟨poisonedBytes (sec * 32) 32, true, false⟩, s.offlineAccess k o)
  else
    let s1 := s.tagRead k o
    if t.owner != o then
      (⟨poisonedBytes (sec * 32) 32, true, false⟩, (s1.countMem k o 0x68 1).event (memEvent k) 0x40)
    else if t.zero then (⟨zeroBytes 32, true, false⟩, s1)
    else if s.staleEpoch o t.epoch then
      (⟨poisonedBytes (sec * 32) 32, true, false⟩, (s1.countMem k o 0x70 1).event (memEvent k) 0x80)
    else
      let s2 := (s1.meetEcc k o sec).countMem k o 0x10 1
      let p := (s2.tag b).poison || Tab.get false s2.secPoison sec
      (⟨(s2.stored (sec * 32) 32).map (fun v => ⟨v, p⟩), t.checked, true⟩, s2)

/-- The same, with the holding's count of poisoned sectors (R243). -/
def Dev.readSector (s : Dev) (sec : Nat) (o : Owner) : SecRead × Dev :=
  let r := s.readSector1 sec o
  if r.1.data.any (·.poison) then (r.1, r.2.metPoison (ownerHolding o) 1) else r

/-- Reads of consecutive sectors, in order. -/
def Dev.readSectors (s : Dev) (o : Owner) : List Nat → List SecRead × Dev
  | [] => ([], s)
  | sec :: rest =>
    let r := s.readSector sec o
    let rs := r.2.readSectors o rest
    (r.1 :: rs.1, rs.2)

/-- The verdict on the data of a whole block (R230): given with POISON and CRC_OFF both 0 and no sector poisoned; a mismatch
sets POISON and is counted. -/
def Dev.verdict (s : Dev) (b : Nat) (o : Owner) (data : List PByte) : Bool × Dev :=
  let t := s.tag b
  if !t.poison && !t.crcOff && data.all (fun p => !p.poison) && crc32c (data.map (·.val)) != t.crc then
    let k := (s.place (b * 4096)).stack
    (true, ((s.setTag b { t with poison := true }).countMem k o 0x60 1).event (memEvent k) 2)
  else (false, s)

/-- The sectors of a block. -/
def blockSectors (b : Nat) : List Nat := (List.range 128).map fun i => b * 128 + i

/-- A whole-block read with the verdict of R230; a block whose check fails is met poisoned (R243). -/
def Dev.readBlock (s : Dev) (b : Nat) (o : Owner) : List PByte × Bool × Dev :=
  let r := s.readSectors o (blockSectors b)
  let data := r.1.flatMap (·.data)
  let chk := r.1.all (·.checked)
  let v := r.2.verdict b o data
  if r.1.all (·.stored) && v.1 then (data.map PByte.flag, chk, v.2.metPoison (ownerHolding o) 128)
  else (data, chk, r.2)

/-- A read that asks for the wait of R232 must wait: the block is unchecked and not poisoned, and the read would
reach its data (R231, R440). -/
def Dev.mustWait (s : Dev) (b : Nat) (o : Owner) : Bool :=
  let t := s.tag b
  !s.stackLost (s.place (b * 4096)).stack && t.owner == o && !t.zero && !s.staleEpoch o t.epoch
    && !t.checked && !t.poison

/-- A request to a quiesced channel waits (R238). -/
def Dev.quiesced (s : Dev) (pa : Nat) : Bool :=
  let p := s.place pa
  let k := s.stack p.stack
  k.retraining && k.channel.val == p.channel

/-! ### Writes (R217, R229 to R232) -/

/-- The sectors that a span of bytes touches. -/
def sectorsOf (pa n : Nat) : List Nat :=
  if n = 0 then [] else (List.range ((pa + n - 1) / 32 + 1 - pa / 32)).map fun i => pa / 32 + i

/-- What a write from an address on carries for each byte of a sector: none outside it or under its mask. -/
def lanesOf (pa : Nat) (data : List (Option PByte)) (sec : Nat) : List (Option PByte) :=
  (List.range 32).map fun i => if pa ≤ sec * 32 + i then nthD data (sec * 32 + i - pa) none else none

/-- The sectors into which a write puts a byte. -/
def writtenSectors (pa : Nat) (data : List (Option PByte)) : List Nat :=
  (sectorsOf pa data.length).filter fun x => (lanesOf pa data x).any (·.isSome)

/-- Whether a write covers every byte of a sector. -/
def coversSector (pa : Nat) (data : List (Option PByte)) (sec : Nat) : Bool := (lanesOf pa data sec).all (·.isSome)

/-- Whether any byte that a write puts into a sector is poisoned. -/
def poisonInto (pa : Nat) (data : List (Option PByte)) (sec : Nat) : Bool :=
  (lanesOf pa data sec).any fun b => b.any (·.poison)

/-- A write of a whole block. -/
def wholeBlock (pa : Nat) (data : List (Option PByte)) : Bool :=
  pa % 4096 = 0 && data.length = 4096 && data.all (·.isSome)

/-- A block whose stored data no longer counts begins anew under its first write; but for a whole-block write, every
sector becomes +0 (R231). -/
def Dev.freshBlock (s : Dev) (b : Nat) (whole : Bool) : Dev :=
  let s1 : Dev := { s with ecc := Tab.clearRange s.ecc (b * 128) (b * 128 + 128) }
  let s2 : Dev := if whole then s1 else
    { s1 with mem := Tab.clearRange s.mem (b * 4096) (b * 4096 + 4096)
              secPoison := Tab.clearRange s.secPoison (b * 128) (b * 128 + 128) }
  s2.setTag b { s.tag b with zero := false, poison := false, crcOff := false, pending := 0, checked := true
                             crc := crc32c (List.replicate 4096 0) }

/-- The sectors that a partial write reads before it writes them: for the CRC, where one is maintained, and for a merge
(R217, R230). -/
def Dev.mergeReads (s : Dev) (pa : Nat) (data : List (Option PByte)) : List Nat :=
  let t := s.tag (pa / 4096)
  if wholeBlock pa data then []
  else (writtenSectors pa data).filter fun x => (!t.poison && !t.crcOff) || !coversSector pa data x

/-- The bytes, the poison and the CRC as a write leaves them in a block that holds data (R229, R230). -/
def Dev.putBytes (s : Dev) (pa : Nat) (data : List (Option PByte)) (epoch : BitVec 16) : Dev :=
  let b := pa / 4096
  let whole := wholeBlock pa data
  let t0 := s.tag b
  let t : Tag := if whole then { t0 with epoch := epoch, poison := false, crcOff := false } else { t0 with epoch := epoch }
  let secs := writtenSectors pa data
  let oldBad := !whole && secs.any fun x => Tab.get false s.secPoison x
  let mem : List Host.Cell := Tab.setSome 0 s.mem pa (data.map fun b => b.map (·.val))
  let bad := fun x => poisonInto pa data x || (Tab.get false s.secPoison x && !coversSector pa data x)
  let crcOff := t.crcOff || oldBad || secs.any bad
  let crcOf := fun (m : List Host.Cell) => crc32c (Tab.getList 0 m (b * 4096) 4096)
  let crc := if whole then crcOf mem
    else if !t.poison && !crcOff then t.crc ^^^ crcOf s.mem ^^^ crcOf mem else t.crc
  { s.setTag b { t with crcOff := crcOff, crc := crc } with
    mem := mem
    secPoison := secs.foldl (fun sp x => Tab.set false sp x (bad x)) s.secPoison
    ecc := secs.foldl (fun t x => Tab.set .clean t x .clean) s.ecc }

/-- One more write of a block awaits its clearance (R232). -/
def Tag.pend (t : Tag) : Tag := { t with pending := Fin.ofNat 16 (min (t.pending.val + 1) 15), checked := false }

/-- A block's data does not count for a write: it is zero, or another epoch of the holding wrote it; a device block's
epoch is 0 and is not compared (R229, R231). -/
def Tag.stale (t : Tag) (o : Owner) (e : BitVec 16) : Bool := t.zero || ((ownerHolding o).isSome && t.epoch != e)

/-- The tag and the contents as a write leaves them, once the write is accepted (R230, R231). -/
def Dev.storeBlock (s : Dev) (pa : Nat) (data : List (Option PByte)) (o : Owner) (e : BitVec 16) (pending : Bool) : Dev :=
  let b := pa / 4096
  let k := (s.place pa).stack
  let whole := wholeBlock pa data
  let fresh := (s.tag b).stale o e
  let s1 := if fresh then s.freshBlock b whole else s
  let rmw := s1.mergeReads pa data
  let s2 := (s1.meetAll k o rmw).putBytes pa data (if (ownerHolding o).isSome then e else 0)
  let s3 := if pending then s2.setTag b (s2.tag b).pend else s2
  let s4 := s3.countMem k o 0x18 (writtenSectors pa data).length
  let s5 := if rmw = [] then s4 else s4.countMem k o 0x28 rmw.length
  if fresh && !whole then s5.countMem k o 0x30 1 else s5

/-- Whether a pending write must wait for a clearance (R232). -/
def Dev.pendingFull (s : Dev) (pa : Nat) (o : Owner) (e : BitVec 16) : Bool :=
  let t := s.tag (pa / 4096)
  !s.stackLost (s.place pa).stack && !s.staleEpoch o e && t.owner == o && !t.stale o e && t.pending == 15

/-- A write within one block (R231). -/
def Dev.writeBlock (s : Dev) (pa : Nat) (data : List (Option PByte)) (o : Owner) (e : BitVec 16) (pending : Bool) : Dev :=
  let k := (s.place pa).stack
  if s.stackLost k then s.offlineAccess k o
  else if s.staleEpoch o e then s.countMem k o 0x78 1
  else
    let s1 := s.tagRead k o
    if (s.tag (pa / 4096)).owner != o then (s1.countMem k o 0x68 1).event (memEvent k) 0x40
    else if data.all (·.isNone) then s1
    else s1.storeBlock pa data o e pending

/-! ### Clearances and scrub (R232, R236, R383, R440) -/

/-- What a clearance does to its block (R232, R383). -/
def Dev.clearTag (s : Dev) (b : Nat) (secs : List Nat) (kind : Clearance) : Dev :=
  let t := s.tag b
  let p : Fin 16 := Fin.ofNat 16 (t.pending.val - 1)
  let t1 : Tag := { t with pending := p, checked := decide (p = 0) }
  match kind with
  | .pass => s.setTag b t1
  | .fail => s.setTag b { t1 with poison := true }
  | .withdraw =>
    { s.setTag b { t1 with crcOff := true } with
      secPoison := secs.foldl (fun sp x => Tab.set false sp x true) s.secPoison }

/-- The tag of a block after scrub's comparison. -/
def Dev.scrubTag (s : Dev) (b : Nat) (k : StackId) : Dev :=
  let t := s.tag b
  let marked := (blockSectors b).any fun x => Tab.get false s.secPoison x
  let crc := crc32c (s.stored (b * 4096) 4096)
  if t.zero then s
  else if !t.poison && !t.crcOff && !marked && crc != t.crc then
    ((s.setTag b { t with poison := true }).countMem k .device 0x60 1).event (memEvent k) 2
  else if t.crcOff && !marked then s.setTag b { t with crcOff := false, crc := crc }
  else s

/-- Scrub's read of one block: R235 for every sector, then the comparison (R236). -/
def Dev.scrubRead (s : Dev) (b : Nat) : Dev :=
  let k := (s.place (b * 4096)).stack
  if s.stackLost k then s
  else ((((s.tagRead k .device).meetAll k .device (blockSectors b)).countMem k .device 0x10 128).scrubTag b k)

/-! ### Requests and their order (R225, R228, R232, R237, R238) -/

def MemReq.address : MemReq → Nat
  | .read sec _ _ _ _ => sec * 32
  | .write pa _ _ _ _ _ => pa
  | .clear b _ _ _ _ => b * 4096
  | .scrub b => b * 4096

/-- The class of a request (R225); a clearance goes in its write's, which a core's and a Harrow's results fix. -/
def MemReq.cls : MemReq → MemClass
  | .read _ _ _ c _ => c
  | .write _ _ _ c _ _ => c
  | .clear _ _ _ _ _ => .ordinary
  | .scrub _ => .background

/-- The value of a class (R225). -/
def classRank : MemClass → Nat
  | .latency => 0 | .ordinary => 1 | .bulk => 2 | .background => 3

/-- The sectors of a request. -/
def MemReq.sectors : MemReq → List Nat
  | .read sec whole _ _ _ => if whole then blockSectors (sec / 128) else [sec]
  | .write pa _ _ _ data _ => sectorsOf pa data.length
  | .clear _ secs _ _ _ => secs
  | .scrub b => blockSectors b

def MemReq.isRead : MemReq → Bool
  | .read _ _ _ _ _ => true
  | .scrub _ => true
  | _ => false

def MemReq.isWrite : MemReq → Bool
  | .write _ _ _ _ _ _ => true
  | _ => false

def MemReq.isClear : MemReq → Bool
  | .clear _ _ _ _ _ => true
  | _ => false

/-- Two requests that take effect in the order of their arrival: they share a sector, and one of them writes it (R228). A
read and a clearance do not stand in each other's way, for a read may wait for the clearance. -/
def MemReq.ordered (a b : MemReq) : Bool :=
  (a.isWrite || b.isWrite || (!a.isRead && !b.isRead)) && a.sectors.any fun x => b.sectors.contains x

/-- Why a request that comes behind some waiting ones must wait, none when it is served now. A clearance does not stand behind
a write that itself waits for a clearance (R232). -/
def Dev.queuesFor (s : Dev) (ahead : List MemWait) (r : MemReq) : Option WaitFor :=
  if ahead.any fun w => w.req.ordered r && !(r.isClear && w.why == .pendingFull) then some .behind
  else if s.quiesced r.address && !s.stackLost (s.place r.address).stack then some .quiesced
  else
    match r with
    | .read sec _ o _ wait => if wait && s.mustWait (sec / 128) o then some .check else none
    | .write pa o e _ _ pending => if pending && s.pendingFull pa o e then some .pendingFull else none
    | _ => none

/-- A block of a running mirror generation that is still to be read is read before a write changes it: the write waits for
that read, which is raised to ORDINARY, so that the generation is the state at its boundary (R404). -/
def Dev.mirrorFirst (s : Dev) (b : Nat) : Dev :=
  allHoldings.foldl (fun d h =>
    match (d.holding h).mirrorSend with
    | none => d
    | some m =>
      let mine := m.toRead.filter fun q => q.2 == b
      if mine.isEmpty then d
      else
        let x := d.readBlock b (.holding h)
        (x.2.2.modHolding h fun y => { y with mirrorSend := some { m with
          toRead := m.toRead.filter (fun q => q.2 != b), taken := m.taken ++ mine.map fun q => (q.1, x.1) } }).countFree (some h)
            (regAt ctl 0x16028)) s

/-- Serves a request at its controller; a clearance of an earlier epoch is dropped (R440). -/
def Dev.perform (s : Dev) (r : MemReq) : Dev :=
  let k := (s.place r.address).stack
  let s1 := s.lcSlots k r.cls
  match r with
  | .read sec whole o _ _ =>
    if whole then
      let x := s1.readBlock (sec / 128) o
      x.2.2.emit (.readData x.1 x.2.1)
    else
      let x := s1.readSector sec o
      x.2.emit (.readData x.1.data x.1.checked)
  | .write pa o e _ data pending => (s1.mirrorFirst (pa / 4096)).writeBlock pa data o e pending
  | .clear b secs o e kind =>
    if s.staleEpoch o e || s.stackLost k then s else (s.tagRead k o).clearTag b secs kind
  | .scrub b => s.scrubRead b

/-- A pending write has found no room (R232). -/
def Dev.noteFullPending (s : Dev) (r : MemReq) (why : WaitFor) : Dev :=
  match r, why with
  | .write pa o _ _ _ _, .pendingFull => s.countMem (s.place pa).stack o 0x90 1
  | _, _ => s

/-- Whether a new request goes ahead of one that waits: in class order for a quiesced channel (R238), and never past one
that it must follow. -/
def MemReq.passes (r : MemReq) (w : MemWait) : Bool :=
  w.why == .quiesced && decide (classRank r.cls < classRank w.req.cls) && !w.req.ordered r

/-- The waiting requests with a new one in its place. -/
def placeWait (n : MemWait) : List MemWait → List MemWait
  | [] => [n]
  | w :: rest => if (w :: rest).all n.req.passes then n :: w :: rest else w :: placeWait n rest

/-- A request that must wait. -/
def Dev.addWait (s : Dev) (r : MemReq) (why : WaitFor) (fails : Bool := false) : Dev :=
  ({ s with memWaits := if why = .quiesced then placeWait ⟨r, why, fails⟩ s.memWaits else s.memWaits ++ [⟨r, why, fails⟩] } : Dev).noteFullPending
    r why

/-- A request comes to its controller. -/
def Dev.request (s : Dev) (r : MemReq) : Dev :=
  match s.queuesFor s.memWaits r with
  | some why => s.addWait r why
  | none => s.perform r

/-- One pass over the waiting requests, in order: those that nothing holds are served. -/
def Dev.releaseFrom (s : Dev) (kept : List MemWait) : List MemWait → Dev
  | [] => { s with memWaits := kept }
  | w :: rest =>
    match w.why with
    | .parity _ => s.releaseFrom (kept ++ [w]) rest
    | _ =>
      match s.queuesFor kept w.req with
      | none =>
        if w.fails then s.releaseFrom (kept ++ [{ w with why := .parity 0 }]) rest else (s.perform w.req).releaseFrom kept rest
      | some why =>
        (if w.why = why then s else s.noteFullPending w.req why).releaseFrom (kept ++ [{ w with why := why }]) rest

/-- Passes until one serves nothing. -/
def Dev.releaseTimes (s : Dev) : Nat → Dev
  | 0 => s
  | n + 1 =>
    let r := s.releaseFrom [] s.memWaits
    if r.memWaits.length = s.memWaits.length then r else r.releaseTimes n

/-- Serves the waiting requests that can proceed (R228, R232, R238). -/
def Dev.release (s : Dev) : Dev := s.releaseTimes s.memWaits.length

/-- A read held for its check goes on once POISON is set on its block (R232). -/
def Dev.releasePoisoned (s r : Dev) (b : Nat) : Dev :=
  if !(s.tag b).poison && (r.tag b).poison then r.release else r

/-- A clearance at its controller: it follows its write, and what waited for it goes on. -/
def Dev.clear (s : Dev) (b : Nat) (secs : List Nat) (o : Owner) (e : BitVec 16) (kind : Clearance) : Dev :=
  (s.request (.clear b secs o e kind)).release

/-- What memory holds for some sectors once the writes queued for them are done, from which a queued read is served
(R228). -/
def Dev.served (s : Dev) (secs : List Nat) : Dev :=
  (s.memWaits.filter fun w => w.req.isWrite && w.req.sectors.any secs.contains).foldl (fun d w => d.perform w.req) s

/-- A part of a descriptor is under decision at its core, which holds its clearances (R386). -/
def Dev.deciding (s : Dev) (agent : Nat) (stream : Fin 2) (index : Word32) (part : Nat) : Bool :=
  decide (agent < 256) && (s.core (Fin.ofNat 256 agent)).decision.any fun z =>
    z.stream == stream && z.index == index && z.part == some part

/-- A clearance for these sectors of a block may be a pending write's: no decision holds it (R386). -/
def Dev.clears (s : Dev) (b : Nat) (secs : List Nat) (p : PendWrite) : Bool :=
  p.block == b && p.sectors == secs && !s.deciding p.agent p.stream p.index p.part

end Sys2Proof.Machine
end

