-- ==== Sys2Proof/Machine/Events.lean ====
section
/-! DEFINITION. Asynchronous events and completions (R426 to R429) as Gotre queues them, and the changes of a
function's status that vector 4 signals (R421). -/

namespace Sys2Proof.Machine

open Sys2Proof

def vfOf (h : HoldId) : FnId := Fin.ofNat 9 (h.val + 1)
/-- The holding of a virtual function (R419). -/
def holdingOfFn (f : FnId) : Option HoldId := if f = 0 then none else some (Fin.ofNat 8 (f.val - 1))

/-- A RESULT from 32-bit words, the lowest first. -/
def resultOf (a b c d : Nat) : BitVec 128 :=
  BitVec.ofNat 128 (a % 2 ^ 32 + b % 2 ^ 32 * 2 ^ 32 + c % 2 ^ 32 * 2 ^ 64 + d % 2 ^ 32 * 2 ^ 96)

/-! ### Events (R429) -/

def eventOf (f : FnId) (code : BitVec 16) (subject : Nat) (result : BitVec 128) : Completion :=
  { fn := f, mb := 0, async := true, final := true, status := .ok, tag := 0, seq := 0, opcode := code, result := result
    subject := subject, job := none, merged := 0 }

def sameEvent (a b : Completion) : Bool := a.async && b.async && a.fn == b.fn && a.opcode == b.opcode && a.subject == b.subject

/-- Merges an event into the first waiting one of its code and subject. -/
def mergeEvent (e : Completion) : List Completion → List Completion
  | [] => []
  | w :: rest => if sameEvent w e then { w with merged := w.merged + 1 } :: rest else w :: mergeEvent e rest

/-- Queues an event; beyond 1,024 waiting events it merges into one of its code and subject. -/
def Gotre.post (g : Gotre) (e : Completion) : Gotre :=
  if 1024 < (g.waiting.filter (·.async)).length && g.waiting.any (fun w => sameEvent w e) then
    { g with waiting := mergeEvent e g.waiting }
  else { g with waiting := g.waiting ++ [e] }

def Dev.post (s : Dev) (e : Completion) : Dev := { s with gotre := s.gotre.post e }

/-- An event of a holding goes to its VF and to the PF; an event of the device to the PF. -/
def Dev.holdingEvent (s : Dev) (h : HoldId) (code : BitVec 16) (result : BitVec 128) : Dev :=
  (s.post (eventOf (vfOf h) code h.val result)).post (eventOf 0 code h.val result)
def Dev.deviceEvent (s : Dev) (code : BitVec 16) (result : BitVec 128) : Dev := s.post (eventOf 0 code 8 result)

def Dev.queueHalted (s : Dev) (h : HoldId) (q : Nat) (index : Word32) (st : Status) : Dev :=
  s.holdingEvent h 0x8001 (resultOf q index.toNat st.code.toNat 0)
def Dev.holdingEnded (s : Dev) (h : HoldId) (cause : Status) (epoch : BitVec 16) : Dev :=
  s.holdingEvent h 0x8002 (resultOf (cause.code.toNat + epoch.toNat * 0x10000) 0 0 0)
def Dev.rollbackEvent (s : Dev) (h : HoldId) (step : Word32) : Dev := s.holdingEvent h 0x8003 (resultOf step.toNat 0 0 0)
def Dev.stageParked (s : Dev) (h : HoldId) (stage : Nat) : Dev := s.holdingEvent h 0x8004 (resultOf stage 0 0 0)
/-- UNIT_FENCED; a unit that is no core has the number 0xFFFF. -/
def Dev.unitFenced (s : Dev) (die : Nat) (core : Option CoreId) (cause : FenceCause) : Dev :=
  let n := match core with | some c => c.val | none => 0xFFFF
  s.deviceEvent 0x8005 (resultOf (die + n * 0x100 + cause.code.toNat * 0x1000000) 0 0 0)
def Dev.unreachableEvent (s : Dev) (dst : BitVec 16) (vc : Fin 4) : Dev :=
  s.deviceEvent 0x8006 (resultOf (dst.toNat + vc.val * 0x10000) 0 0 0)
def Dev.gotreRestarted (s : Dev) (n : Nat) : Dev := s.deviceEvent 0x8007 (resultOf n 0 0 0)

/-- A tier's copy of the journal no longer holds (R408). -/
def Gotre.loseCopy (g : Gotre) (tier : Nat) : Gotre := { g with journalCopies := g.journalCopies.set tier false }

/-! ### Writes under way -/

/-- Some write of a holding has not reached its memory controller: it waits for room or for a quiesced channel. -/
def Dev.writesHeld (s : Dev) (h : HoldId) : Bool :=
  s.memWaits.any fun w =>
    match w.req with
    | .write _ o _ _ _ _ => o == .holding h
    | _ => false

/-! ### Commands and their completions (R424 to R428) -/

def Dev.job (s : Dev) (n : Nat) : Option Job := s.gotre.jobs.find? fun j => j.number == n

/-- The fields of a command (R425). -/
def Job.opcode (j : Job) : BitVec 16 := j.words.extractLsb' 0 16
def Job.tag (j : Job) : Word32 := j.words.extractLsb' 32 32
def Job.holdingField (j : Job) : Nat := (j.words.extractLsb' 16 8).toNat
def Job.blockWords (j : Job) : Nat := (j.words.extractLsb' 64 22).toNat
def Job.blockAddr (j : Job) : Word64 := j.words.extractLsb' 128 64
/-- PARAMS bits hi to lo. -/
def Job.param (j : Job) (hi lo : Nat) : Nat := (j.words.extractLsb' (192 + lo) (hi + 1 - lo)).toNat

def Job.completion (j : Job) (final : Bool) (st : Status) (result : BitVec 128) : Completion :=
  { fn := j.fn, mb := j.mb, async := false, final := final, status := st, tag := j.tag, seq := j.seq, opcode := j.opcode
    result := result, subject := 8, job := some j.number, merged := 0 }

def Gotre.setPhase (g : Gotre) (n : Nat) (p : JobPhase) : Gotre :=
  { g with jobs := g.jobs.map fun j => if j.number = n then { j with phase := p } else j }

/-- Queues a command's completion; one whose function was reset ends without any (R549). -/
def Dev.finishJob (s : Dev) (n : Nat) (st : Status) (result : BitVec 128) : Dev :=
  match s.job n with
  | some j =>
    if j.phase = .done then s
    else if j.discard then { s with gotre := { s.gotre with jobs := s.gotre.jobs.filter fun q => q.number != n } }
    else { s with gotre := { (s.gotre.setPhase n .done) with waiting := s.gotre.waiting ++ [j.completion true st result] } }
  | none => s

/-- Queues an interim completion; the mailbox goes on to its next command. -/
def Dev.interimJob (s : Dev) (n : Nat) (result : BitVec 128) : Dev :=
  match s.job n with
  | some j =>
    if j.phase = .interim || j.phase = .done then s
    else
      let c := if j.discard then [] else [j.completion false .acceptedPending result]
      { s with gotre := { (s.gotre.setPhase n .interim) with waiting := s.gotre.waiting ++ c } }
  | none => s

def Dev.finishJobs (s : Dev) (ns : List Nat) (st : Status) : Dev := ns.foldl (fun d n => d.finishJob n st 0) s

/-- A change of a function's status, which vector 4 of the function signals (R421). -/
def Dev.setFunc (s : Dev) (h : HoldId) (f : Holding → Holding) : Dev :=
  let x := s.holding h
  let y := f x
  let moved := x.state != y.state || x.epoch != y.epoch || x.abortDone != y.abortDone
    || x.pendingEnable != y.pendingEnable || x.sweep != y.sweep
  let s1 := s.setHolding h y
  if moved then s1.emit (.msix (vfOf h) 4) else s1

end Sys2Proof.Machine
end

