-- ==== Sys2Proof/Machine/Translate.lean ====
section
/-! DEFINITION. Translation of holding addresses (R246 to R251, R268): the page tables that Gotre builds in device blocks of
the near tier, the walk through them and the translation caches. -/

namespace Sys2Proof.Machine

open Sys2Proof

/-! ### Page-table entries (R246, R247) -/

/-- Fields of a page-table entry (R247). -/
def pteValid (e : Word64) : Bool := e.getLsbD 63
def pteLeaf (e : Word64) : Bool := e.getLsbD 62
def pteTarget (e : Word64) : Nat := (e.extractLsb' 60 2).toNat
def pteRead (e : Word64) : Bool := e.getLsbD 59
def pteWrite (e : Word64) : Bool := e.getLsbD 58
def pteNospec (e : Word64) : Bool := e.getLsbD 57
def pteFrame (e : Word64) : Nat := (e.extractLsb' 0 52).toNat

/-- A leaf entry (R247). -/
def pteOf (target : Nat) (read write nospec : Bool) (frame : Nat) : Word64 :=
  1#1 ++ (1#1 ++ (BitVec.ofNat 2 target ++ (BitVec.ofBool read ++ (BitVec.ofBool write ++
    (BitVec.ofBool nospec ++ (0#5 ++ BitVec.ofNat 52 frame))))))

/-- An entry that points to the next table (R247). -/
def ptePointer (frame : Nat) : Word64 := 1#1 ++ (0#11 ++ BitVec.ofNat 52 frame)

/-- Address bits below an entry of a level, and the entries of a table (R246). -/
def levelShift (level : Nat) : Nat := 12 + 9 * level
def tableEntries (level : Nat) : Nat := if level = 3 then 8192 else 512
/-- The blocks of a table. -/
def tableBlocks (level : Nat) : Nat := if level = 3 then 16 else 1

/-- The key of an entry: its level and the address bits that select it. -/
def pageKey (level va : Nat) : Nat := level * 0x10000000000000 + va >>> levelShift level

/-- The physical address of the entry that an address selects in a table. -/
def pteAddr (level table va : Nat) : Nat := table * 4096 + 8 * (va >>> levelShift level % tableEntries level)

/-- A malformed entry (R247): a leaf maps 512 times the page of the level below, a pointer names one block. -/
def pteMalformed (level : Nat) (e : Word64) : Bool :=
  let f := pteFrame e
  let size := if pteLeaf e then 2 ^ (9 * level) else 1
  (level == 3 && pteLeaf e) || (level == 0 && !pteLeaf e) || pteTarget e == 3 || f % size != 0
    || (pteTarget e == 0 && !(f + size ≤ nearEnd / 4096))
    || (pteTarget e == 1 && !(farBase / 4096 ≤ f && f + size ≤ farEnd / 4096))

/-- Where an address leads: a tier's physical address or a host address, and whether speculation is forbidden. -/
inductive Xlate where
  | mem (pa : Nat) (nospec : Bool)
  | host (addr : Nat)
  /-- the KIND of R268 -/
  | fault (kind : Nat)
  deriving DecidableEq, Repr

/-- The permission check, and the address that a leaf gives (R246, R250). -/
def leafXlate (level : Nat) (e : Word64) (va : Nat) (write : Bool) : Xlate :=
  if write && !pteWrite e then .fault 4
  else if !write && !pteRead e then .fault 3
  else
    let a := pteFrame e * 4096 + va % 2 ^ levelShift level
    if pteTarget e = 2 then .host a else .mem a (pteNospec e)

/-! ### The caches (R249, R251) -/

/-- The entries that a cache holds. -/
def CacheName.room : CacheName → Nat
  | .core _ => 128
  | .shared _ => 4096
  | .walker _ => 256

/-- The entry that a cache holds for an address at a level. -/
def Dev.cached (s : Dev) (n : CacheName) (h : HoldId) (level va : Nat) : Option Word64 :=
  (s.xlat.find? fun q => q.cache == n && q.holding == h && q.level == level && q.key == pageKey level va).map (·.entry)

/-- The leaf that a cache holds for an address. -/
def Dev.cachedLeaf (s : Dev) (n : CacheName) (h : HoldId) (va : Nat) : Option (Nat × Word64) :=
  [2, 1, 0].findSome? fun l => (s.cached n h l va).bind fun e => if pteLeaf e then some (l, e) else none

/-- Enters an entry into a cache; in a full one, an entry that no rule names gives way. -/
def Dev.cacheLeaf (s : Dev) (n : CacheName) (h : HoldId) (level va : Nat) (e : Word64) : Dev :=
  let new : CachedLeaf := ⟨n, h, level, pageKey level va, e⟩
  let mine := s.xlat.filter fun q => q.cache == n
  if (s.cached n h level va).isSome then s
  else if mine.length < n.room then { s with xlat := s.xlat ++ [new] }
  else
    let v := s.takeFree
    let kept := match mine[v.1.toNat % mine.length]? with
      | some q => s.xlat.filter fun z => z != q
      | none => s.xlat
    { v.2 with xlat := kept ++ [new] }

/-- Every translation cache drops a holding's entries (R251). -/
def Dev.dropCached (s : Dev) (h : HoldId) : Dev := { s with xlat := s.xlat.filter fun q => q.holding != h }

/-! ### The walk (R246 to R250) -/

/-- A table entry as a walk reads it, behind the writes queued for its sector (R228): a sector read of a device block in the class of the request that caused the walk
(R248); none when the read returns poison. -/
def Dev.readEntry (s : Dev) (cls : MemClass) (pa : Nat) : Option Word64 × Dev :=
  let r := (s.lcSlots (s.place pa).stack cls).readSector1 (pa / 32) .device
  let d := if s.memWaits.isEmpty then r.1.data else ((s.served [pa / 32]).readSector1 (pa / 32) .device).1.data
  let b := (d.drop (pa % 32)).take 8
  (if b.any (·.poison) then none else some (BitVec.ofNat 64 (leNat (b.map (·.val)))), r.2)

/-- What a walk comes to: a leaf and its level, or a fault of a KIND of R268. -/
inductive Walked where
  | leaf (level : Nat) (entry : Word64)
  | fault (kind : Nat)
  deriving DecidableEq, Repr

/-- What an entry says at its level; none goes on to the next level. -/
def entrySays (level : Nat) (e : Option Word64) : Option Walked :=
  match e with
  | none => some (.fault 2)
  | some e =>
    if !pteValid e then some (.fault 0)
    else if pteMalformed level e then some (.fault 1)
    else if pteLeaf e then some (.leaf level e) else none

/-- The entry of one level: from the walker's cache, which holds levels 2 and 3, or from memory, and then entered there. A
walk without a walker is Gotre's own reading of a table. -/
def Dev.walkEntry (s : Dev) (h : HoldId) (walker : Option Nat) (cls : MemClass) (level table va : Nat) :
    Option Word64 × Dev :=
  match if 2 ≤ level then walker.bind fun d => s.cached (.walker d) h level va else none with
  | some e => (some e, s)
  | none =>
    let r := s.readEntry cls (pteAddr level table va)
    match r.1, walker with
    | some e, some d =>
      (some e, if 2 ≤ level && pteValid e && !pteMalformed level e then r.2.cacheLeaf (.walker d) h level va e else r.2)
    | _, _ => r

/-- The walk from a table of a level on. -/
def Dev.walkFrom (s : Dev) (h : HoldId) (walker : Option Nat) (cls : MemClass) (va : Nat) : Nat → Nat → Walked × Dev
  | 0, table =>
    let x := s.walkEntry h walker cls 0 table va
    ((entrySays 0 x.1).getD (.fault 1), x.2)
  | level + 1, table =>
    let x := s.walkEntry h walker cls (level + 1) table va
    match entrySays (level + 1) x.1 with
    | some w => (w, x.2)
    | none => x.2.walkFrom h walker cls va level (pteFrame (x.1.getD 0))

def Dev.walk (s : Dev) (h : HoldId) (walker : Option Nat) (cls : MemClass) (va : Nat) : Walked × Dev :=
  match (s.holding h).root with
  | none => (.fault 0, s)
  | some table => s.walkFrom h walker cls va 3 table

/-- The leaf that maps an address, as the tables stand. -/
def Dev.leaf (s : Dev) (h : HoldId) (va : Nat) : Walked := (s.walk h none .ordinary va).1

/-- Where an address leads as the tables stand, for Gotre's checks of the addresses that a command names. -/
def Dev.translate (s : Dev) (h : HoldId) (va : Nat) (write : Bool) : Xlate :=
  if 0x10000000000000 ≤ va then .fault 0
  else match s.leaf h va with
    | .fault k => .fault k
    | .leaf l e => leafXlate l e va write

/-- Who makes a request: its die, its core if it is one, the holding, the descriptor, and the class (R225, R248). -/
structure Agent where
  die : Nat
  core : Option CoreId := none
  holding : HoldId
  stream : Fin 2 := 0
  index : Word32 := 0
  /-- the decision unit of what it writes (R381) -/
  part : Nat := 0
  cls : MemClass := .ordinary
  deriving DecidableEq, Repr

/-- A leaf goes into the cache of the agent's core. -/
def Dev.cacheCore (s : Dev) (a : Agent) (va level : Nat) (e : Word64) : Dev :=
  match a.core with
  | some c => s.cacheLeaf (.core c) a.holding level va e
  | none => s

/-- A hit in a shared cache: a core has one lookup of it for each miss of its own cache; how many the requests of another
agent make is not stated (notes/assumptions/7). -/
def Dev.sharedHit (s : Dev) (a : Agent) : Dev :=
  if a.core.isSome then s.count (some a.holding) (xltReg a.die 0x10) 1 else s.countFree (some a.holding) (xltReg a.die 0x10)

/-- The translation of an agent's request: the core's cache, the die's shared cache, then a walk (R246 to R250). -/
def Dev.xlate (s : Dev) (a : Agent) (va : Nat) (write : Bool) : Xlate × Dev :=
  if 0x10000000000000 ≤ va then (.fault 0, s)
  else
    match a.core.bind fun c => s.cachedLeaf (.core c) a.holding va with
    | some (l, e) => (leafXlate l e va write, s)
    | none =>
      match s.cachedLeaf (.shared a.die) a.holding va with
      | some (l, e) => (leafXlate l e va write, (s.sharedHit a).cacheCore a va l e)
      | none =>
        let x := (s.count (some a.holding) (xltReg a.die 0x18) 1).walk a.holding (some a.die) a.cls va
        match x.1 with
        | .fault k => (.fault k, x.2)
        | .leaf l e => (leafXlate l e va write, (x.2.cacheLeaf (.shared a.die) a.holding l va e).cacheCore a va l e)

/-- The entries that a walk would read from memory. -/
def Dev.walkReads (s : Dev) (h : HoldId) (walker va : Nat) : Nat → Nat → List Nat
  | level, table =>
    let at' := pteAddr level table va
    let held := if 2 ≤ level then s.cached (.walker walker) h level va else none
    let e := match held with | some e => some e | none => (s.readEntry .ordinary at').1
    let here := if held.isSome then [] else [at']
    match level with
    | 0 => here
    | l + 1 => if (entrySays (l + 1) e).isSome then here else here ++ s.walkReads h walker va l (pteFrame (e.getD 0))

/-- A request's walk would read a table on a quiesced channel, and the request waits with it (R238). -/
def Dev.xlateWaits (s : Dev) (a : Agent) (va : Nat) : Bool :=
  (a.core.bind fun c => s.cachedLeaf (.core c) a.holding va).isNone && (s.cachedLeaf (.shared a.die) a.holding va).isNone &&
    ((s.holding a.holding).root.any fun table => (s.walkReads a.holding a.die va 3 table).any s.quiesced)

/-! ### Faults of a generated address (R250, R268) -/

/-- A run-time fault of a core's stream (R123, R124, R457). -/
def Dev.runFault (s : Dev) (c : CoreId) (h : Option HoldId) (index : Word32) (st : Status) : Dev :=
  let v : Word32 := 0x80000000 ||| ((index &&& 0x7FFF) <<< 16) ||| st.code.setWidth 32
  let s1 := (s.setReg (seqReg c 4) v).event (coreEvent c) evRunFault
  match h with
  | none => s1
  | some h => s1.modHolding h fun x =>
      { x with totals := { x.totals with faults := x.totals.faults ++ [(v, c.val)]
                                         faultCount := x.totals.faultCount + 1 } }

/-- The fault record of a die and its counts (R250, R268). -/
def Dev.xltFault (s : Dev) (a : Agent) (va : Nat) (write : Bool) (kind : Nat) : Dev :=
  let s1 := s.count (some a.holding) (xltReg a.die (if 3 ≤ kind then 0x28 else 0x20)) 1
  let info := s1.reg (xltReg a.die 0)
  if info.getLsbD 31 then
    if info.extractLsb' 0 16 = 0xFFFF then s1 else s1.setReg (xltReg a.die 0) (info + 1)
  else
    let c : Nat := match a.core with | some c => c.val | none => 0xFF
    let v := 0x80000000 + kind * 0x10000000 + (if write then 0x8000000 else 0) + a.holding.val * 0x1000000 + c * 0x10000
    ((s1.setReg (xltReg a.die 0) (BitVec.ofNat 32 v)).setReg (xltReg a.die 4) (BitVec.ofNat 32 va)).setReg
      (xltReg a.die 8) (BitVec.ofNat 32 (va / 0x100000000 % 0x100000))

/-- A faulting access of a descriptor: the record, and NOT_PERMITTED in SEQ_FAULT (R250). -/
def Dev.accessFault (s : Dev) (a : Agent) (va : Nat) (write : Bool) (kind : Nat) : Dev :=
  let s1 := s.xltFault a va write kind
  match a.core with
  | some c => s1.runFault c (some a.holding) a.index .notPermitted
  | none => s1

/-! ### Building the tables (R246, R251) -/

/-- The first of n consecutive device blocks of near region 0 in which a table may stand, from a block on. -/
def tableRoom (used : List Nat) (ok : Nat → Bool) (n : Nat) : Nat → Nat → Option Nat
  | 0, _ => none
  | k + 1, b =>
    if b + n ≤ regionBlocks && (List.range n).all (fun i => !used.contains (b + i) && ok (b + i)) then some b
    else tableRoom used ok n k (b + 1)

/-- Blocks of every holding's tables. -/
def Dev.tableSpans (s : Dev) : List Nat :=
  s.holdings.flatMap fun x => x.2.tables.flatMap fun t => (List.range t.2).map fun i => t.1 + i

/-- Room for a new table of a level: the lowest device blocks of near region 0 on live stacks that no table takes. -/
def Dev.roomFor (s : Dev) (level : Nat) : Option Nat :=
  tableRoom s.tableSpans (fun b => (s.tag b).owner == .device && !s.stackLost (s.place (b * 4096)).stack) (tableBlocks level)
    regionBlocks 0

/-- A new, empty table of a level. -/
def Dev.newTable (s : Dev) (h : HoldId) (level : Nat) : Option (Nat × Dev) :=
  (s.roomFor level).map fun b =>
    let s1 := (List.range (tableBlocks level)).foldl (fun (d : Dev) i => d.setTag (b + i) { owner := .device }) s
    (b, s1.modHolding h fun x => { x with tables := x.tables ++ [(b, tableBlocks level)] })

/-- Gotre writes one entry of a table, in the ORDINARY class, for R225 names no other (notes/assumptions/147). -/
def Dev.putEntry (s : Dev) (pa : Nat) (e : Word64) : Dev :=
  s.request (.write pa .device 0 .ordinary ((leBytes 8 e.toNat).map fun b => some ⟨b, false⟩) false)

/-- The table of a level that an address leads to from a table above it, made where none is; none when a table cannot be
read or no room is left. -/
def Dev.reachTable (s : Dev) (h : HoldId) (va goal : Nat) : Nat → Nat → Option (Nat × Dev)
  | 0, table => if goal = 0 then some (table, s) else none
  | level + 1, table =>
    if goal = level + 1 then some (table, s)
    else
      let at' := pteAddr (level + 1) table va
      match (s.readEntry .ordinary at').1 with
      | none => none
      | some e =>
        if pteValid e then (if pteLeaf e then none else s.reachTable h va goal level (pteFrame e))
        else (s.newTable h level).bind fun t => (t.2.putEntry at' (ptePointer t.1)).reachTable h va goal level t.1

/-- The holding's root table, made where there is none. -/
def Dev.rootTable (s : Dev) (h : HoldId) : Option (Nat × Dev) :=
  match (s.holding h).root with
  | some t => some (t, s)
  | none => (s.newTable h 3).map fun t => (t.1, t.2.modHolding h fun x => { x with root := some t.1 })

/-- The entries of a table that are in use: index and entry. -/
def Dev.entriesOf (s : Dev) (level table : Nat) : List (Nat × Word64) :=
  let first := table * 4096
  let queued := (s.memWaits.filter fun w => w.req.isWrite).flatMap fun w => w.req.sectors
  let cells := (s.served queued).mem.filter fun p => decide (first ≤ p.1) && decide (p.1 < first + 8 * tableEntries level)
  ((cells.map fun p => (p.1 - first) / 8).foldl (fun l i => insertNew i l) []).filterMap fun i =>
    (s.readEntry .ordinary (first + 8 * i)).1.bind fun e => if pteValid e then some (i, e) else none

/-- The tables below an entry of a level. -/
def Dev.tablesBelow (s : Dev) : Nat → Word64 → List Nat
  | 0, _ => []
  | level + 1, e =>
    if !pteValid e || pteLeaf e then []
    else pteFrame e :: (s.entriesOf level (pteFrame e)).flatMap fun q => s.tablesBelow level q.2

/-- Tables that nothing reaches any more go back. -/
def Dev.freeTables (s : Dev) (h : HoldId) (ts : List Nat) : Dev :=
  s.modHolding h fun x => { x with tables := x.tables.filter fun t => !ts.contains t.1 }

/-- Enters a leaf. Tables below its place, which map nothing, go back. -/
def Dev.putLeaf (s : Dev) (h : HoldId) (level va : Nat) (e : Word64) : Option Dev :=
  (s.rootTable h).bind fun r => (r.2.reachTable h va level 3 r.1).map fun t =>
    let at' := pteAddr level t.1 va
    let old := (t.2.readEntry .ordinary at').1.getD 0
    (t.2.freeTables h (t.2.tablesBelow level old)).putEntry at' e

/-- Enters pages of a level from an address on, none when the tables find no room. -/
def Dev.addPages (s : Dev) (h : HoldId) (level target : Nat) (read write nospec : Bool) : Nat → List Nat → Option Dev
  | _, [] => some s
  | va, f :: rest =>
    (s.putLeaf h level va (pteOf target read write nospec f)).bind fun d =>
      d.addPages h level target read write nospec (va + 2 ^ levelShift level) rest

/-- A page of a holding: its first address, its level, its bytes and its entry. -/
structure Page where
  va : Nat
  level : Nat
  size : Nat
  entry : Word64
  deriving DecidableEq, Repr

def pageBytes (level : Nat) : Nat := 2 ^ levelShift level

/-- The pages that a table of a level maps, whose first entry stands for an address. -/
def Dev.pagesUnder (s : Dev) : Nat → Nat → Nat → List Page
  | 0, table, va =>
    (s.entriesOf 0 table).map fun q => { va := va + q.1 * pageBytes 0, level := 0, size := pageBytes 0, entry := q.2 }
  | level + 1, table, va =>
    (s.entriesOf (level + 1) table).flatMap fun q =>
      let at' := va + q.1 * pageBytes (level + 1)
      if pteLeaf q.2 then [{ va := at', level := level + 1, size := pageBytes (level + 1), entry := q.2 }]
      else s.pagesUnder level (pteFrame q.2) at'

/-- The pages that a holding maps. -/
def Dev.pageList (s : Dev) (h : HoldId) : List Page :=
  match (s.holding h).root with
  | none => []
  | some t => s.pagesUnder 3 t 0

/-- Clears the entry of a page. -/
def Dev.clearEntry (s : Dev) (h : HoldId) (p : Page) : Dev :=
  match (s.holding h).root.bind fun r => s.reachTable h p.va p.level 3 r with
  | some t => s.putEntry (pteAddr p.level t.1 p.va) 0
  | none => s

/-- A holding gives up its tables. -/
def Dev.dropTables (s : Dev) (h : HoldId) : Dev := s.modHolding h fun x => { x with root := none, tables := [] }

/-- The pieces of a span that lie in one block each: address and length. -/
def chunks (va n : Nat) : List (Nat × Nat) :=
  if n = 0 then []
  else (List.range ((va + n - 1) / 4096 + 1 - va / 4096)).map fun i =>
    let lo := if i = 0 then va else (va / 4096 + i) * 4096
    let hi := min (va + n) ((va / 4096 + i + 1) * 4096)
    (lo, hi - lo)

/-- Every byte of a span translates for an access. -/
def Dev.mapped (s : Dev) (h : HoldId) (va n : Nat) (write : Bool) : Bool :=
  (chunks va n).all fun c => match s.translate h c.1 write with | .fault _ => false | _ => true

end Sys2Proof.Machine
end

