-- ==== Sys2Proof/Machine/Access.lean ====
section
/-! DEFINITION. What the units read and write (R237, R248, R250, R253, R383, R384, R395, R411): requests that cross the halves
of the package, the egress hold of writes to host pages, and a unit's reads and writes of holding memory. -/

namespace Sys2Proof.Machine

open Sys2Proof

/-! ### Requests between the halves of the package (R9, R411) -/

/-- The half of a die: false for A, true for B, none for the dies that both spines join. -/
def dieHalf (d : Nat) : Option Bool :=
  match dieKind d with
  | 0 => some (decide (16 ≤ d))
  | 1 => some (decide (40 ≤ d))
  | 2 => some (decide (52 ≤ d))
  | 3 => some (decide (58 ≤ d))
  | _ => none

def halvesDiffer (a b : Nat) : Bool :=
  match dieHalf a, dieHalf b with
  | some x, some y => x != y
  | _, _ => false

/-- The number of a requester: a core, or 256 + die. -/
def Agent.requester (a : Agent) : Nat := match a.core with | some c => c.val | none => 256 + a.die

def crossKey (requester die : Nat) : Nat := requester * 64 + die

/-- A request of a requester on a die goes to a die: one that crosses takes the next crossing number, and the receiving die
serves it (R411). -/
def Dev.cross (s : Dev) (requester here goal : Nat) : Dev :=
  if halvesDiffer here goal then
    let k := crossKey requester goal
    let n := Tab.get 0 s.crossTx k + 1
    { s with crossTx := Tab.set 0 s.crossTx k n, crossRx := Tab.set 0 s.crossRx k n }
  else s

/-- A request to the controller of an address. -/
def Dev.crossTo (s : Dev) (a : Agent) (pa : Nat) : Dev := s.cross a.requester a.die (stackDie (s.place pa).stack)

/-- A core's read ahead of its descriptor is kept from its sending to its return. -/
def Dev.crossAhead (s : Dev) (a : Agent) (c : CoreId) (pa request : Nat) : Dev :=
  let goal := stackDie (s.place pa).stack
  let s1 := s.crossTo a pa
  if halvesDiffer a.die goal then
    { s1 with crossing := s1.crossing ++ [⟨a.requester, goal, Tab.get 0 s1.crossTx (crossKey a.requester goal), c, request⟩] }
  else s1

/-- The data of a kept read has come back. -/
def Dev.crossBack (s : Dev) (c : CoreId) (request : Nat) : Dev :=
  { s with crossing := s.crossing.filter fun q => !(q.core == c && q.request == request) }

/-- A copy of a kept request comes over the surviving spine. A die that has served its number discards it and serves the
read again from the current value, as its return will find it; else it is served now for the first time. -/
def Dev.crossAgain (s : Dev) (q : Crossing) : Dev :=
  let k := crossKey q.requester q.die
  if seqLe q.number (Tab.get 0 s.crossRx k) then s else { s with crossRx := Tab.set 0 s.crossRx k q.number }

/-- Every requester resends what it still keeps, in the order of the first sending. -/
def Dev.resendCrossing (s : Dev) : Dev := s.crossing.foldl Dev.crossAgain s

/-! ### The PCIe egress hold (R253, R395) -/

/-- The bytes of the hold, and those that stand in it. -/
def egressRoom : Nat := 4194304
def egressUse (l : List EgressItem) : Nat := (l.map fun i => i.data.length).sum

/-- The CRC of a write to a host page that is a whole block (R392). -/
def wholeCrc (addr : Nat) (data : List PByte) : Option Word32 :=
  if addr % 4096 = 0 && data.length == 4096 then some (crc32c (data.map (·.val))) else none

/-- What leaves of a write to a host page: a whole block that its CRC does not fit goes out poisoned (R392). -/
def EgressItem.sent (i : EgressItem) : List PByte :=
  if i.crc.any fun k => k != crc32c (i.data.map (·.val)) then i.data.map PByte.flag else i.data

/-- A write comes to the PCIe endpoint: one of an earlier epoch of its holding is discarded (R253). -/
def Dev.endEgress (s : Dev) (i : EgressItem) : Dev :=
  if (s.holding i.holding).epoch != i.epoch then s.count (some i.holding) (xltReg ctl 0x38) 1
  else s.emit (.hostWrite i.addr i.sent)

/-- Releases in arrival order, up to the first write that is held. -/
def Dev.drainEgress (s : Dev) : List EgressItem → Dev
  | [] => { s with egress := [] }
  | i :: rest => if i.held then { s with egress := i :: rest } else (s.endEgress i).drainEgress rest

def Dev.runEgress (s : Dev) : Dev := s.drainEgress s.egress

/-- The unit of a held write is under a decision (R386). -/
def Dev.underDecision (s : Dev) (i : EgressItem) : Bool := s.deciding i.agent i.stream i.index i.part

/-- What a full hold lets go until n more bytes fit: the checks of its oldest writes pass within their bound (R382), but for
those that a decision holds. -/
def Dev.makeRoom (s : Dev) (n : Nat) : List EgressItem → List EgressItem → List EgressItem × List EgressItem
  | out, [] => (out, [])
  | out, i :: rest =>
    if egressUse (i :: rest) + n ≤ egressRoom || s.underDecision i then (out, i :: rest) else s.makeRoom n (out ++ [i]) rest

/-- The hold is full of writes that a decision holds. -/
def Dev.egressStuck (s : Dev) (n : Nat) : Bool :=
  let x := s.makeRoom n [] s.egress
  !x.2.isEmpty && decide (egressRoom < egressUse x.2 + n)

/-- Cycles that a write has waited in the hold. -/
def Dev.heldCycles (s : Dev) (h : HoldId) : Dev := s.countFree (some h) (regAt ctl 0x17000)

/-- A write to a host page enters the hold; a full hold first makes room (R395). -/
def Dev.egressWrite (s : Dev) (i : EgressItem) : Dev :=
  if egressUse s.egress + i.data.length ≤ egressRoom then ({ s with egress := s.egress ++ [i] } : Dev).runEgress
  else
    let x := s.makeRoom i.data.length [] s.egress
    let s1 := x.1.foldl (fun d q => if q.held then (d.heldCycles q.holding).endEgress q else d.endEgress q)
      (s.countFree (some i.holding) (regAt ctl 0x17008))
    ({ s1 with egress := x.2 ++ [i] } : Dev).runEgress

/-- What a clearance does to a held write: PASS releases it, FAIL releases it poisoned, a withdrawal drops it
(R383, R385, R395). -/
def EgressItem.settle (i : EgressItem) : Clearance → Option EgressItem
  | .pass => some { i with held := false }
  | .fail => some { i with held := false, data := i.data.map PByte.flag }
  | .withdraw => none

/-- The check of some held writes is decided. -/
def Dev.settleEgress (s : Dev) (mine : EgressItem → Bool) (kind : Clearance) : Dev :=
  let hit := s.egress.filter fun i => i.held && mine i
  if hit.isEmpty then s
  else
    let s1 := hit.foldl (fun d i => d.heldCycles i.holding) s
    ({ s1 with egress := s1.egress.filterMap fun i => if i.held && mine i then i.settle kind else some i } : Dev).runEgress

/-! ### What the units read -/

/-- A unit's run so far: the device, whether a read must still wait for its check or its channel, the host sectors that
have not come in yet, and whether an address has faulted. A run that waits is discarded and made again. -/
structure Run where
  dev : Dev
  wait : Bool := false
  need : List Nat := []
  faulted : Bool := false
  deriving DecidableEq, Repr

/-- Free bytes: what a host page holds when a unit outside the cores reads it (notes/assumptions/3). -/
def Dev.freeBytes (s : Dev) : Nat → List PByte × Dev
  | 0 => ([], s)
  | n + 1 =>
    let v := s.takeFree
    let r := v.2.freeBytes n
    (⟨v.1.setWidth 8, false⟩ :: r.1, r.2)

/-- A read of a host page by a unit outside the cores. -/
def Dev.readHost (s : Dev) (addr n : Nat) : List PByte × Dev :=
  ({ s with hostTag := s.hostTag + 1, outbox := s.outbox ++ [.hostRead s.hostTag addr n] } : Dev).freeBytes n

/-- Bytes of a host page: those that have come in for the core, else the sectors still to read (R253). -/
def Run.hostBytes (r : Run) (a : Agent) (addr n : Nat) : List PByte × Run :=
  match a.core with
  | none =>
    let x := r.dev.readHost addr n
    (x.1, { r with dev := x.2 })
  | some c =>
    let buf := (r.dev.core c).hostBuf
    let got := Tab.getList none buf addr n
    let missing := (sectorsOf addr n).filter fun x => (Tab.get none buf (x * 32)).isNone
    (got.map fun b => b.getD ⟨0, true⟩, { r with need := r.need ++ missing.filter fun x => !r.need.contains x })

/-- The channel of an address, as parity failures of units' requests are kept by (R237). -/
def Dev.channelKey (s : Dev) (pa : Nat) : Nat := (s.place pa).stack.val * 32 + (s.place pa).channel

/-- The reissues of a unit's request on a channel that failed; a lost stack is not asked. -/
def Dev.reissued (s : Dev) (pa : Nat) : Nat :=
  if s.stackLost (s.place pa).stack then 0 else Tab.get 0 s.reissues (s.channelKey pa)

def Dev.dropReissue (s : Dev) (pa : Nat) : Dev := { s with reissues := Tab.set 0 s.reissues (s.channelKey pa) 0 }

/-- A unit's read within one block must wait: for a quiesced channel, behind a waiting write of its sectors, or for the
reissue of its request after a parity failure (R228, R237, R238). -/
def Dev.readHeld (s : Dev) (pa n : Nat) : Bool :=
  (s.quiesced pa && !s.stackLost (s.place pa).stack)
    || s.memWaits.any (fun w => w.req.isWrite && w.req.sectors.any fun x => (sectorsOf pa n).contains x)
    || (decide (1 ≤ s.reissued pa) && decide (s.reissued pa < 4))

/-- A unit's read within one block; the sector of a request whose reissues are exhausted comes poisoned (R237). -/
def Dev.unitRead (s : Dev) (a : Agent) (pa n : Nat) : List PByte × Dev :=
  let o := Owner.holding a.holding
  let s1 := (s.crossTo a pa).lcSlots (s.place pa).stack a.cls
  let x : List PByte × Dev :=
    if pa % 4096 = 0 ∧ n = 4096 then
      let x := s1.readBlock (pa / 4096) o
      (x.1, s1.releasePoisoned x.2.2 (pa / 4096))
    else
      let x := s1.readSectors o (sectorsOf pa n)
      (((x.1.flatMap (·.data)).drop (pa % 32)).take n, x.2)
  if s.reissued pa < 4 then x
  else
    let m := min n (32 - pa % 32)
    (poisonedBytes pa m ++ x.1.drop m, (x.2.dropReissue pa).metPoison (some a.holding) 1)

/-- A read within one block. -/
def Run.readChunk (r : Run) (a : Agent) (va n : Nat) : List PByte × Run :=
  if r.dev.xlateWaits a va then (zeroBytes n, { r with wait := true })
  else
    let x := r.dev.xlate a va false
    match x.1 with
    | .fault k => (poisonedBytes va n, { r with dev := x.2.accessFault a va false k, faulted := true })
    | .host addr => ({ r with dev := x.2 } : Run).hostBytes a addr n
    | .mem pa _ =>
      if x.2.mustWait (pa / 4096) (.holding a.holding) || x.2.readHeld pa n then (zeroBytes n, { r with wait := true })
      else
        let y := x.2.unitRead a pa n
        (y.1, { r with dev := y.2 })

/-- Reads of several pieces, in order. -/
def Run.readChunks (r : Run) (a : Agent) : List (Nat × Nat) → List PByte × Run
  | [] => ([], r)
  | (va, n) :: rest =>
    let x := r.readChunk a va n
    let y := x.2.readChunks a rest
    (x.1 ++ y.1, y.2)

/-- A read of n bytes of holding memory (R248, R384). -/
def Run.read (r : Run) (a : Agent) (va n : Nat) : List PByte × Run := r.readChunks a (chunks va n)

/-! ### What the units write -/

/-- A unit's write at its controller. One whose request failed its parity waits for the reissue; one whose reissues are
exhausted sets POISON on its block (R237). -/
def Dev.unitWrite (s : Dev) (r : MemReq) : Dev :=
  let n := s.reissued r.address
  if n = 0 then s.request r
  else
    let s1 := s.dropReissue r.address
    let b := r.address / 4096
    if n < 4 then s1.addWait r (.parity n)
    else s1.releasePoisoned (s1.setTag b { s1.tag b with poison := true }) b

/-- The number by which an agent's pending writes are known (R383). -/
def Agent.number (a : Agent) : Nat :=
  match a.core with
  | some c => c.val
  | none => if dieKind a.die = 2 then 256 + (a.die - 48) else 512

/-- A write within one block; pending writes are remembered until their clearance (R383). -/
def Dev.writeChunk (s : Dev) (a : Agent) (pending : Bool) (va : Nat) (data : List PByte) : Dev :=
  let x := s.xlate a va true
  let e := (s.holding a.holding).epoch
  match x.1 with
  | .fault k => x.2.accessFault a va true k
  | .host addr =>
    x.2.egressWrite { addr := addr, data := data, holding := a.holding, epoch := e, agent := a.number, stream := a.stream
                      index := a.index, part := a.part, crc := wholeCrc addr data, held := pending }
  | .mem pa _ =>
    let o := Owner.holding a.holding
    let s1 := (x.2.crossTo a pa).unitWrite (.write pa o e a.cls (data.map some) pending)
    if pending then
      { s1 with pend := s1.pend ++ [{ agent := a.number, stream := a.stream, index := a.index, part := a.part, block := pa / 4096
                                      sectors := sectorsOf pa data.length, owner := o, epoch := e, passed := false }] }
    else s1

/-- Writes of consecutive pieces. -/
def Dev.writeChunks (s : Dev) (a : Agent) (pending : Bool) (data : List PByte) : List (Nat × Nat) → Dev
  | [] => s
  | (va, n) :: rest => (s.writeChunk a pending va (data.take n)).writeChunks a pending (data.drop n) rest

/-- A write of bytes to holding memory. -/
def Dev.writeVa (s : Dev) (a : Agent) (pending : Bool) (va : Nat) (data : List PByte) : Dev :=
  s.writeChunks a pending data (chunks va data.length)

/-- A write must wait: its walk would read a quiesced channel, or the egress hold is full of undecided writes. -/
def Dev.writeWaits (s : Dev) (a : Agent) (va n : Nat) : Bool :=
  (chunks va n).any fun c => s.xlateWaits a c.1 ||
    (match (s.xlate a c.1 true).1 with | .host _ => s.egressStuck c.2 | _ => false)

/-- A run's write. -/
def Run.write (r : Run) (a : Agent) (pending : Bool) (va : Nat) (data : List PByte) : Run :=
  if r.dev.writeWaits a va data.length then { r with wait := true }
  else { r with dev := r.dev.writeVa a pending va data }

/-- Asks the host for the sectors that a run still needs (R253); a sector already asked for is not asked for again. -/
def Dev.askHost (s : Dev) (c : CoreId) : List Nat → Dev
  | [] => s
  | x :: rest =>
    if s.hostReads.any fun q => q.core == c && q.addr / 32 == x then s.askHost c rest
    else
      let s1 : Dev := { s with hostReads := s.hostReads ++ [⟨s.hostTag, c, x * 32, 32⟩]
                               hostTag := s.hostTag + 1
                               outbox := s.outbox ++ [.hostRead s.hostTag (x * 32) 32] }
      s1.askHost c rest

end Sys2Proof.Machine
end

