-- ==== Sys2Proof/Machine/Numbers.lean ====
section
/-! DEFINITION. The formats of "Number formats, scaling and saturation": what an encoding decodes to, exact
arithmetic on values, and the one rounding that turns an exact value into an encoding (R22 to R48). -/

namespace Sys2Proof

open Machine

/-! ### Formats (R22, R23) -/

/-- The format of a 4-bit code; the codes 0xB to 0xF are reserved (R22). -/
def fmtOfCode (c : Nat) : Option Fmt :=
  match c with
  | 0 => some .fp64 | 1 => some .fp32 | 2 => some .fp16 | 3 => some .bf16 | 4 => some .e4m3 | 5 => some .e5m2
  | 6 => some .e2m3 | 7 => some .e3m2 | 8 => some .e2m1 | 9 => some .int8 | 10 => some .int4
  | _ => none

/-- The code of a format (R22). -/
def fmtCode : Fmt → Nat
  | .fp64 => 0 | .fp32 => 1 | .fp16 => 2 | .bf16 => 3 | .e4m3 => 4 | .e5m2 => 5
  | .e2m3 => 6 | .e3m2 => 7 | .e2m1 => 8 | .int8 => 9 | .int4 => 10

/-- Bits of one element (R23). -/
def fmtBits : Fmt → Nat
  | .fp64 => 64 | .fp32 => 32 | .fp16 => 16 | .bf16 => 16 | .e4m3 => 8 | .e5m2 => 8
  | .e2m3 => 6 | .e3m2 => 6 | .e2m1 => 4 | .int8 => 8 | .int4 => 4

/-- The wide formats of R22. -/
def fmtWide : Fmt → Bool
  | .fp64 | .fp32 | .fp16 | .bf16 => true
  | _ => false

/-- The integer formats. -/
def fmtInt : Fmt → Bool
  | .int8 | .int4 => true
  | _ => false

/-- Significand bits with the hidden one (R23). -/
def fmtSig : Fmt → Nat
  | .fp64 => 53 | .fp32 => 24 | .fp16 => 11 | .bf16 => 8 | .e4m3 => 4 | .e5m2 => 3
  | .e2m3 => 4 | .e3m2 => 3 | .e2m1 => 2 | .int8 => 8 | .int4 => 4

/-- The weight of the lowest bit of the smallest subnormal, as a power of two (R23). -/
def fmtQmin : Fmt → Int
  | .fp64 => -1074 | .fp32 => -149 | .fp16 => -24 | .bf16 => -133 | .e4m3 => -9 | .e5m2 => -16
  | .e2m3 => -3 | .e3m2 => -4 | .e2m1 => -1 | .int8 => 0 | .int4 => 0

/-- The encoding of the largest finite magnitude (R23). -/
def fmtMaxBits : Fmt → Nat
  | .fp64 => 0x7FEFFFFFFFFFFFFF | .fp32 => 0x7F7FFFFF | .fp16 => 0x7BFF | .bf16 => 0x7F7F | .e4m3 => 0x7E
  | .e5m2 => 0x7B | .e2m3 => 0x1F | .e3m2 => 0x1F | .e2m1 => 0x7 | .int8 => 127 | .int4 => 7

/-- Formats with infinities in IEEE places: the exponent field all ones (R23). -/
def fmtIeee : Fmt → Bool
  | .fp64 | .fp32 | .fp16 | .bf16 | .e5m2 => true
  | _ => false

/-- The canonical positive NaN encoding of a format that has one (R24). -/
def fmtNan : Fmt → Nat
  | .fp64 => 0x7FF8000000000000 | .fp32 => 0x7FC00000 | .fp16 => 0x7E00 | .bf16 => 0x7FC0
  | .e4m3 => 0x7F | .e5m2 => 0x7E | _ => 0

/-- The positive infinity of a format that has one. -/
def fmtInfBits : Fmt → Nat
  | .fp64 => 0x7FF0000000000000 | .fp32 => 0x7F800000 | .fp16 => 0x7C00 | .bf16 => 0x7F80 | .e5m2 => 0x7C | _ => 0

/-- The value of an encoding (R23). -/
def decode (f : Fmt) (b : Nat) : Val :=
  let w := fmtBits f
  let neg := decide (b / 2 ^ (w - 1) % 2 = 1)
  let mag := b % 2 ^ (w - 1)
  if fmtInt f then
    if neg then .fin true (2 ^ (w - 1) - mag) 0 else .fin false mag 0
  else
    let p := fmtSig f
    let e := mag / 2 ^ (p - 1)
    let m := mag % 2 ^ (p - 1)
    if fmtIeee f && decide (e = 2 ^ (w - p) - 1) then
      if m = 0 then .inf neg else .nan neg
    else if decide (f = .e4m3) && decide (mag = 0x7F) then .nan neg
    else if e = 0 then .fin neg m (fmtQmin f)
    else .fin neg (m + 2 ^ (p - 1)) (fmtQmin f + (e : Int) - 1)

/-- Whether an encoding is subnormal in its own format (R46, R47). -/
def isSubnormal (f : Fmt) (b : Nat) : Bool :=
  let mag := b % 2 ^ (fmtBits f - 1)
  !fmtInt f && decide (mag ≠ 0) && decide (mag < 2 ^ (fmtSig f - 1))

/-! ### Exact arithmetic -/

/-- The sign of a value. -/
def Val.neg? : Val → Bool
  | .fin n _ _ => n
  | .inf n => n
  | .nan n => n

def Val.zero : Val := .fin false 0 0

/-- Whether a value is ±0. -/
def Val.isZero : Val → Bool
  | .fin _ m _ => m == 0
  | _ => false

def Val.isNan : Val → Bool
  | .nan _ => true
  | _ => false

def Val.isInf : Val → Bool
  | .inf _ => true
  | _ => false

def Val.isFinite : Val → Bool
  | .fin _ _ _ => true
  | _ => false

/-- The value with the opposite sign. -/
def Val.negate : Val → Val
  | .fin n m e => .fin (!n) m e
  | .inf n => .inf (!n)
  | .nan n => .nan (!n)

/-- The magnitude. -/
def Val.abs : Val → Val
  | .fin _ m e => .fin false m e
  | .inf _ => .inf false
  | .nan _ => .nan false

/-- An integer as an exact value with a binary exponent; zero is +0. -/
def Val.ofInt (z : Int) (e : Int) : Val := .fin (decide (z < 0)) z.natAbs e

/-- The signed integer of a finite value at the scale 2^e, for e not above its own exponent. -/
def Val.scaled (n : Bool) (m : Nat) (ex e : Int) : Int :=
  let k : Nat := m <<< (ex - e).toNat
  if n then -(k : Int) else (k : Int)

/-- The NaN that an operation on x and y writes (R24): its one source's sign; free where no single source fixes it. -/
def nanOf (x y : Val) : Val :=
  match x, y with
  | .nan a, .nan b => if a = b then .nan a else .nan (Config.formedNanNeg x y)
  | .nan a, _ => .nan a
  | _, .nan b => .nan b
  | _, _ => .nan (Config.formedNanNeg x y)

/-- The exact sum under IEEE 754; an exact zero of unlike signs is +0 (R39, R66). -/
def Val.add (x y : Val) : Val :=
  match x, y with
  | .fin n1 m1 e1, .fin n2 m2 e2 =>
    if m1 = 0 ∧ m2 = 0 then .fin (n1 && n2) 0 0
    else
      let e := if e1 ≤ e2 then e1 else e2
      Val.ofInt (Val.scaled n1 m1 e1 e + Val.scaled n2 m2 e2 e) e
  | .inf a, .inf b => if a = b then .inf a else nanOf x y
  | .inf a, .fin _ _ _ => .inf a
  | .fin _ _ _, .inf b => .inf b
  | _, _ => nanOf x y

/-- The exact product under IEEE 754. -/
def Val.mul (x y : Val) : Val :=
  match x, y with
  | .fin n1 m1 e1, .fin n2 m2 e2 => .fin (n1 != n2) (m1 * m2) (e1 + e2)
  | .inf a, .inf b => .inf (a != b)
  | .inf a, .fin b m _ => if m = 0 then nanOf x y else .inf (a != b)
  | .fin a m _, .inf b => if m = 0 then nanOf x y else .inf (a != b)
  | _, _ => nanOf x y

/-- A quotient with enough bits, and a lowest bit that says whether anything was left over: rounding it once to any
format of R22 gives the correctly rounded quotient (R39, R113). -/
def stickyQuot (a b : Nat) (e : Int) (neg : Bool) : Val :=
  let k := Nat.log2 b + 80 - Nat.log2 a
  let q := (a <<< k) / b
  let r := (a <<< k) % b
  .fin neg (2 * q + if r = 0 then 0 else 1) (e - (k : Int) - 1)

/-- The quotient under IEEE 754, exact up to one rounding. -/
def Val.div (x y : Val) : Val :=
  match x, y with
  | .fin n1 m1 e1, .fin n2 m2 e2 =>
    if m2 = 0 then (if m1 = 0 then nanOf x y else .inf (n1 != n2))
    else if m1 = 0 then .fin (n1 != n2) 0 0
    else stickyQuot m1 m2 (e1 - e2) (n1 != n2)
  | .inf _, .inf _ => nanOf x y
  | .inf a, .fin b _ _ => .inf (a != b)
  | .fin a _ _, .inf b => .fin (a != b) 0 0
  | _, _ => nanOf x y

/-- One binary digit at a time, the integer square root: after n digits the root of the top 2n bits. -/
def isqrtLoop : Nat → Nat → Nat → Nat
  | 0, _, r => r
  | n + 1, m, r =>
    let c := r + 2 ^ n
    isqrtLoop n m (if c * c ≤ m then c else r)

/-- The integer square root. -/
def isqrt (m : Nat) : Nat := isqrtLoop (Nat.log2 m / 2 + 1) m 0

/-- The square root under IEEE 754, exact up to one rounding. -/
def Val.sqrt (x : Val) : Val :=
  match x with
  | .fin n m e =>
    if m = 0 then .fin n 0 0
    else if n then nanOf x x
    else
      let k := 140 + (e - 140) % 2 |>.toNat
      let r := isqrt (m <<< k)
      .fin false (2 * r + if r * r = m <<< k then 0 else 1) ((e - (k : Int)) / 2 - 1)
  | .inf n => if n then nanOf x x else .inf false
  | .nan a => .nan a

/-- Comparison of finite or infinite values: x < y; false when either is NaN. Zeros are equal. -/
def Val.lt (x y : Val) : Bool :=
  match x, y with
  | .fin n1 m1 e1, .fin n2 m2 e2 =>
    let e := if e1 ≤ e2 then e1 else e2
    decide (Val.scaled n1 m1 e1 e < Val.scaled n2 m2 e2 e)
  | .inf a, .inf b => a && !b
  | .inf a, .fin _ _ _ => a
  | .fin _ _ _, .inf b => !b
  | _, _ => false

/-- Equality in the sense of IEEE 754. -/
def Val.eqv (x y : Val) : Bool := !x.isNan && !y.isNan && !x.lt y && !y.lt x

/-- The maximum operation of IEEE 754-2019: NaN if any input is NaN, -0 below +0 (R113). -/
def Val.maximum (x y : Val) : Val :=
  if x.isNan || y.isNan then nanOf x y
  else if x.lt y then y
  else if y.lt x then x
  else if x.neg? then y else x

/-- The minimum operation of IEEE 754-2019 (R113). -/
def Val.minimum (x y : Val) : Val :=
  if x.isNan || y.isNan then nanOf x y
  else if x.lt y then x
  else if y.lt x then y
  else if x.neg? then x else y

/-- floor(log2 |v|) of a finite value that is not zero. -/
def Val.floorLog2 : Val → Int
  | .fin _ m e => (Nat.log2 m : Int) + e
  | _ => 0

/-- An exact zero is +0. -/
def Val.posZero (v : Val) : Val := if v.isZero then Val.zero else v

/-- The integer multiple of 2^q that a finite value is, rounded towards -∞ where it is none. -/
def Val.unitsFloor (v : Val) (q : Int) : Int :=
  match v with
  | .fin n m e =>
    let z : Int := if n then -(m : Int) else (m : Int)
    if q ≤ e then z * 2 ^ (e - q).toNat else z / 2 ^ (q - e).toNat
  | _ => 0

/-- The same, truncated towards zero. -/
def Val.unitsTrunc (v : Val) (q : Int) : Int :=
  match v with
  | .fin n m e =>
    let k : Nat := if q ≤ e then m * 2 ^ (e - q).toNat else m / 2 ^ (q - e).toNat
    if n then -(k : Int) else (k : Int)
  | _ => 0

/-! ### Rounding (R39 to R41, R48) -/

/-- m × 2^-s rounded to nearest, ties to even. -/
def rneShift (m s : Nat) : Nat :=
  if s = 0 then m
  else
    let n := m >>> s
    let r := m % 2 ^ s
    let h := 2 ^ (s - 1)
    if h < r ∨ (r = h ∧ n % 2 = 1) then n + 1 else n

/-- The encoding number of the magnitude m × 2^e rounded to a significand of p bits above the weight qmin. A carry
out of the significand runs into the exponent field, so no case is needed for it. -/
def roundBits (p : Nat) (qmin : Int) (m : Nat) (e : Int) : Nat :=
  if m = 0 then 0
  else
    let q0 := e + (Nat.log2 m : Int) - ((p : Int) - 1)
    let q := if q0 ≤ qmin then qmin else q0
    let n := if q ≤ e then m <<< (e - q).toNat else rneShift m (q - e).toNat
    (q - qmin).toNat * 2 ^ (p - 1) + n

/-- As roundBits, rounding every remainder up (the FIT scales of R36). -/
def roundBitsUp (p : Nat) (qmin : Int) (m : Nat) (e : Int) : Nat :=
  if m = 0 then 0
  else
    let q0 := e + (Nat.log2 m : Int) - ((p : Int) - 1)
    let q := if q0 ≤ qmin then qmin else q0
    let n := if q ≤ e then m <<< (e - q).toNat
      else (m + 2 ^ (q - e).toNat - 1) >>> (q - e).toNat
    (q - qmin).toNat * 2 ^ (p - 1) + n

/-- What a conversion writes and what it counts (R40, R43). -/
structure Rounded where
  bits : Nat
  sat : Bool
  nonfin : Bool
  deriving DecidableEq, Repr

/-- The encoding with a sign bit set. -/
def withSign (f : Fmt) (neg : Bool) (mag : Nat) : Nat := if neg then mag + 2 ^ (fmtBits f - 1) else mag

/-- The encoding of an integer of either sign in two's complement. -/
def intBits (f : Fmt) (neg : Bool) (mag : Nat) : Nat :=
  if neg then (2 ^ fmtBits f - mag) % 2 ^ fmtBits f else mag

/-- Conversion of an exact value to a format in normal mode: one rounding, saturation, and the table of R40. -/
def convert (f : Fmt) (v : Val) : Rounded :=
  if fmtInt f then
    let top := fmtMaxBits f
    match v with
    | .fin n m e =>
      let k := if 0 ≤ e then m <<< e.toNat else rneShift m (-e).toNat
      let lim := if n then top + 1 else top
      if lim < k then ⟨intBits f n lim, true, false⟩ else ⟨intBits f n k, false, false⟩
    | .inf n => ⟨intBits f n (if n then top + 1 else top), false, true⟩
    | .nan n => ⟨intBits f n (if n then top + 1 else top), false, true⟩
  else
    match v with
    | .fin n m e =>
      let b := roundBits (fmtSig f) (fmtQmin f) m e
      if fmtMaxBits f < b then ⟨withSign f n (fmtMaxBits f), true, false⟩ else ⟨withSign f n b, false, false⟩
    | .inf n =>
      if fmtWide f then ⟨withSign f n (fmtInfBits f), false, false⟩
      else if decide (f = .e4m3) || decide (f = .e5m2) then ⟨withSign f n (fmtNan f), false, true⟩
      else ⟨withSign f n (fmtMaxBits f), false, true⟩
    | .nan n =>
      if fmtWide f then ⟨withSign f n (fmtNan f), false, false⟩
      else if decide (f = .e4m3) || decide (f = .e5m2) then ⟨withSign f n (fmtNan f), false, true⟩
      else ⟨withSign f n (fmtMaxBits f), false, true⟩

/-- The formats whose values emulation flushes when they are subnormal after rounding (R48). -/
def emuFlushes : Fmt → Bool
  | .e4m3 | .e5m2 | .fp16 | .fp32 | .fp64 => true
  | _ => false

/-- Conversion in Lanzate 3 emulation (R48). The NaN of a finite overflow of E4M3 has the sign of the value that overflows,
which R48 does not give (DESIGN CHOICE, notes/assumptions/132). -/
def convertEmu (f : Fmt) (v : Val) : Rounded :=
  let r := convert f v
  match v with
  | .fin n _ _ =>
    if r.sat then
      if f = .e4m3 then ⟨withSign f n (fmtNan f), true, false⟩
      else if f = .e5m2 ∨ f = .fp16 then ⟨withSign f n (fmtInfBits f), true, false⟩
      else r
    else if emuFlushes f && isSubnormal f r.bits then ⟨withSign f n 0, false, false⟩
    else r
  | _ => r

/-- The conversion that a descriptor's numeric mode selects (R45). -/
def convertMode (emu : Bool) (f : Fmt) (v : Val) : Rounded := if emu then convertEmu f v else convert f v

/-- Rounds a value to a format and reads it back, in normal mode. -/
def roundTo (f : Fmt) (v : Val) : Val := decode f (convert f v).bits

/-- An input in emulation: subnormal in its stored format reads as zero of its sign (R46, R47). -/
def decodeMode (emu : Bool) (f : Fmt) (b : Nat) : Val :=
  if emu && isSubnormal f b then
    match decode f b with
    | .fin n _ _ => .fin n 0 0
    | v => v
  else decode f b

def f32 (b : Word32) : Val := decode .fp32 b.toNat
def f64 (b : Word64) : Val := decode .fp64 b.toNat
def toF32 (v : Val) : Word32 := BitVec.ofNat 32 (convert .fp32 v).bits
def toF64 (v : Val) : Word64 := BitVec.ofNat 64 (convert .fp64 v).bits

/-! ### Scales (R26, R34 to R37) -/

/-- A UE8M0 scale byte: 255 is NaN (R26). -/
def ue8m0 (e : Nat) : Val := if e = 255 then .nan Config.scaleNanNeg else .fin false 1 ((e : Int) - 127)

/-- An element under a scaling mode before its scale is applied: MXINT8 elements carry 2^-6 (R26). -/
def decodeElem (f : Fmt) (m : Scaling) (b : Nat) : Val :=
  if f = .int8 ∧ m = .block then (decode f b).mul (.fin false 1 (-6)) else decode f b

/-- Conversion of a quotient under a scaling mode: MXINT8 holds the value times 2^6 (R26, R39). -/
def convertElem (f : Fmt) (m : Scaling) (v : Val) : Rounded :=
  if f = .int8 ∧ m = .block then convert f (v.mul (.fin false 1 6)) else convert f v

/-- The largest finite value to which an element decodes (R36). -/
def fmax (f : Fmt) (m : Scaling) : Val :=
  if f = .int8 ∧ m = .block then .fin false 127 (-6) else decode f (fmtMaxBits f)

/-- The exponent of the format's largest power of two (R36, rule 3). -/
def emaxOf : Fmt → Int
  | .e4m3 => 8 | .e5m2 => 15 | .e2m3 => 2 | .e3m2 => 4 | .e2m1 => 2 | _ => 0

/-- ceil(log2(x ÷ y)) of positive finite values, exactly: the least X with x ≤ y × 2^X. -/
def ceilLog2Quot (x y : Val) : Int :=
  let l := x.floorLog2 - y.floorLog2
  if (y.mul (.fin false 1 l)).lt x then l + 1 else l

/-- The clamp of a scale byte (R37). -/
def clampByte (x : Int) : Nat := if x < 0 then 0 else if 254 < x then 254 else x.toNat

/-- The FP32 scale of a group under rules 0 and 1, clamped and defaulted (R36, R37). -/
def scale32 (rule : Nat) (f : Fmt) (m : Scaling) (amax : Val) : Nat :=
  if amax.isZero then (toF32 (.fin false 1 0)).toNat
  else
    let b :=
      if rule = 1 then
        roundBits 24 (-149) 1 (ceilLog2Quot amax (fmax f m))
      else
        match amax.div (fmax f m) with
        | .fin _ mm e => roundBitsUp 24 (-149) mm e
        | _ => 0
    if b < 0x00800000 then 0x00800000 else if 0x7F7FFFFF < b then 0x7F7FFFFF else b

/-- The scale byte of a block under rules 2 and 3, clamped and defaulted (R36, R37). -/
def scaleByte (rule : Nat) (f : Fmt) (m : Scaling) (amax : Val) : Nat :=
  if amax.isZero then 0x7F
  else if rule = 3 then clampByte (amax.floorLog2 - emaxOf f + 127)
  else clampByte (ceilLog2Quot amax (fmax f m) + 127)

/-! ### The canonical order of reductions (R137) -/

/-- One level of the fixed tree: neighbours combine, an odd last node is carried up. -/
def pairUp {α : Type} (op : α → α → α) : List α → List α
  | a :: b :: t => op a b :: pairUp op t
  | l => l

/-- Levels of the tree until one node is left. -/
def treeLevels {α : Type} (op : α → α → α) : Nat → List α → List α
  | 0, l => l
  | n + 1, l => treeLevels op n (pairUp op l)

/-- The result of the tree of R137, none when there is no position. -/
def treeFold {α : Type} (op : α → α → α) (l : List α) : Option α :=
  (treeLevels op (Nat.log2 l.length + 1) l).head?

end Sys2Proof
end

