-- ==== Sys2Proof/Machine/Operands.lean ====
section
/-! DEFINITION. The operands of descriptors: fields, packed elements in their layouts (R28 to R33), scales (R26,
R30, R561), and the three stores of a core: operand store, accumulator names and vector registers. -/

namespace Sys2Proof.Machine

open Sys2Proof

/-! ### Fields -/

/-- A field of a 64-byte structure (R74). -/
def fld (d : Word512) (hi lo : Nat) : Nat := (d.extractLsb' lo (hi + 1 - lo)).toNat
def bit (d : Word512) (i : Nat) : Bool := d.getLsbD i
/-- A signed field. -/
def fldInt (d : Word512) (hi lo : Nat) : Int := (d.extractLsb' lo (hi + 1 - lo)).toInt

/-- A byte as an element with its poison. -/
structure PElem where
  bits : Nat
  poison : Bool
  deriving DecidableEq, Repr

/-! ### Packed elements (R28, R29, R31) -/

/-- The bytes that n elements of a packed row take (R28, R29). -/
def rowBytes (f : Fmt) (n : Nat) : Nat :=
  match fmtBits f with
  | 4 => (n + 1) / 2
  | 6 => (n + 3) / 4 * 3
  | w => n * (w / 8)

/-- The number and the poison of consecutive bytes. -/
def joinBytes : List PByte → PElem
  | [] => ⟨0, false⟩
  | b :: t => let r := joinBytes t; ⟨b.val.toNat + 256 * r.bits, b.poison || r.poison⟩

/-- Element n of a packed row that begins at a byte address. -/
def elemAt (rd : Nat → PByte) (base : Nat) (f : Fmt) (n : Nat) : PElem :=
  match fmtBits f with
  | 4 =>
    let b := rd (base + n / 2)
    ⟨b.val.toNat / 16 ^ (n % 2) % 16, b.poison⟩
  | 6 =>
    let g := base + n / 4 * 3
    let lo := 6 * (n % 4)
    let w := joinBytes [rd g, rd (g + 1), rd (g + 2)]
    let touched := (List.range 3).any fun i => lo < 8 * (i + 1) && 8 * i < lo + 6 && (rd (g + i)).poison
    ⟨w.bits / 2 ^ lo % 64, touched⟩
  | w => joinBytes ((List.range (w / 8)).map fun i => rd (base + n * (w / 8) + i))

/-- The place of block b of a Layout S tensor: its scale byte and its first data byte (R31). -/
def stookScale (base b : Nat) : Nat := base + b / 64 * 1088 + b % 64 / 4 * 68 + b % 4
def stookData (base b : Nat) : Nat := base + b / 64 * 1088 + b % 64 / 4 * 68 + 4 + b % 4 * 16

/-- Element k of row r of a Layout S tensor whose rows hold K elements. -/
def elemS (rd : Nat → PByte) (base K r k : Nat) : PElem :=
  elemAt rd (stookData base (r * ceilDiv K 32 + k / 32)) .e2m1 (k % 32)

/-- Two 4-bit elements to a byte. -/
def pack4 : List PElem → List PByte
  | a :: b :: t => ⟨BitVec.ofNat 8 (a.bits % 16 + 16 * (b.bits % 16)), a.poison || b.poison⟩ :: pack4 t
  | [a] => [⟨BitVec.ofNat 8 (a.bits % 16), a.poison⟩]
  | [] => []

/-- Four 6-bit elements to three bytes. -/
def pack6 : List PElem → List PByte
  | a :: b :: c :: d :: t =>
    let w := a.bits % 64 + b.bits % 64 * 64 + c.bits % 64 * 4096 + d.bits % 64 * 262144
    ⟨BitVec.ofNat 8 w, a.poison || b.poison⟩ :: ⟨BitVec.ofNat 8 (w / 256), b.poison || c.poison⟩
      :: ⟨BitVec.ofNat 8 (w / 65536), c.poison || d.poison⟩ :: pack6 t
  | [a, b, c] =>
    let w := a.bits % 64 + b.bits % 64 * 64 + c.bits % 64 * 4096
    [⟨BitVec.ofNat 8 w, a.poison || b.poison⟩, ⟨BitVec.ofNat 8 (w / 256), b.poison || c.poison⟩,
      ⟨BitVec.ofNat 8 (w / 65536), c.poison⟩]
  | [a, b] =>
    let w := a.bits % 64 + b.bits % 64 * 64
    [⟨BitVec.ofNat 8 w, a.poison || b.poison⟩, ⟨BitVec.ofNat 8 (w / 256), b.poison⟩, ⟨0, false⟩]
  | [a] => [⟨BitVec.ofNat 8 (a.bits % 64), a.poison⟩, ⟨0, false⟩, ⟨0, false⟩]
  | [] => []

/-- A packed row: bits beyond the last element are zero (R28, R29). -/
def packRow (f : Fmt) (els : List PElem) : List PByte :=
  match fmtBits f with
  | 4 => pack4 els
  | 6 => pack6 els
  | w => els.flatMap fun e => (leBytes (w / 8) e.bits).map fun b => ⟨b, e.poison⟩

/-- Elements that share their bytes: two for 4-bit, four for 6-bit formats. -/
def packGroup (f : Fmt) : Nat :=
  match fmtBits f with
  | 4 => 2
  | 6 => 4
  | _ => 1

/-- The bytes of the first elements of a row of `nominal` elements: elements of the row that share the last byte or
group keep their bits (R106, R28). -/
def rowPrefix (rd : Nat → PByte) (base : Nat) (f : Fmt) (nominal : Nat) (els : List PElem) : List PByte :=
  let n := els.length
  let top := min nominal (ceilDiv n (packGroup f) * packGroup f)
  packRow f (els ++ (List.range (top - n)).map fun i => elemAt rd base f (n + i))

/-! ### The stores of a core (R12, R51, R87, R111, R207) -/

/-- Bytes of a line of the operand store (R74). -/
def lineBytes : Nat := 64
def osLines : Nat := 131072

def Core.osByte (c : Core) (a : Nat) : PByte := Tab.get ⟨0, false⟩ c.os a
def Core.osRead (c : Core) (a n : Nat) : List PByte := Tab.getList ⟨0, false⟩ c.os a n
def Core.osWrite (c : Core) (a : Nat) (bytes : List PByte) : Core := { c with os := Tab.setList ⟨0, false⟩ c.os a bytes }

/-- The physical tile behind an accumulator tile name: 0 to 15 accumulator, 16 + g gradient tile g (R207). -/
def Core.tileOf (c : Core) (name : Nat) : Nat :=
  match Tab.get none c.gradMap name with
  | some g => 16 + g.val
  | none => name

def tileWords : Nat := 16384

/-- Word i of a physical tile. -/
def Core.word (c : Core) (p i : Nat) : PWord :=
  if p < 16 then Tab.get ⟨0, false⟩ c.acc (p * tileWords + i)
  else Tab.get ⟨0, false⟩ c.grad ((p - 16) * tileWords + i)

/-- Writes words of a physical tile from index i on; a gradient tile becomes one to write home (R194). -/
def Core.setWords (c : Core) (p i : Nat) (ws : List PWord) : Core :=
  if ws = [] then c
  else if p < 16 then { c with acc := Tab.setList ⟨0, false⟩ c.acc (p * tileWords + i) ws }
  else { c with grad := Tab.setList ⟨0, false⟩ c.grad ((p - 16) * tileWords + i) ws
                gradDirty := insertSorted (p - 16) c.gradDirty }

/-- Clears a physical tile to +0 without poison and without the exact-slot tag. -/
def Core.clearTile (c : Core) (p : Nat) : Core :=
  if p < 16 then { c with acc := Tab.clearRange c.acc (p * tileWords) ((p + 1) * tileWords) }
  else { c with grad := Tab.clearRange c.grad ((p - 16) * tileWords) ((p - 15) * tileWords)
                gradDirty := insertSorted (p - 16) c.gradDirty }

/-- Poisons every element of a physical tile. -/
def Core.poisonTile (c : Core) (p : Nat) : Core :=
  c.setWords p 0 ((List.range tileWords).map fun i => { c.word p i with poison := true })

def Core.tileExact (c : Core) (p : Nat) : Bool := Tab.get false c.accExact p
def Core.tagTile (c : Core) (p : Nat) (exact : Bool) : Core := { c with accExact := Tab.set false c.accExact p exact }

/-- An element number counted across consecutive tile names from a first one (R111). -/
def Core.nameWord (c : Core) (first n : Nat) : PWord := c.word (c.tileOf (first + n / tileWords)) (n % tileWords)
def Core.setNameWord (c : Core) (first n : Nat) (w : PWord) : Core :=
  c.setWords (c.tileOf (first + n / tileWords)) (n % tileWords) [w]

def Core.vregByte (c : Core) (a : Nat) : PByte := Tab.get ⟨0, false⟩ c.vreg a
def Core.vregWrite (c : Core) (a : Nat) (bytes : List PByte) : Core :=
  { c with vreg := Tab.setList ⟨0, false⟩ c.vreg a bytes }

/-- A length register (R104); number 0 is none. -/
def Core.lreg (c : Core) (n : Nat) : Nat := Tab.get 0 c.lregs n
def lenMax : Nat := 8388608

/-- A write of a length register, clamped and counted (R104). -/
def Dev.setLen (s : Dev) (h : Option HoldId) (c : CoreId) (n v : Nat) : Dev :=
  let s1 := s.modCore c fun x => { x with lregs := Tab.set 0 x.lregs n (min v lenMax) }
  if lenMax < v then s1.count h (seqReg c 0x28) 1 else s1

/-- The valid count of a nominal count at an offset, under the length a descriptor read (R76, R106). -/
def validCount (nominal off : Nat) (len : Option Nat) : Nat :=
  match len with
  | none => nominal
  | some l => min nominal (l - off)

/-- The length that a descriptor read at its start, none for register 0 (R105). -/
def WEntry.len (e : WEntry) (lreg : Nat) : Option Nat := if lreg = 0 then none else some (Tab.get 0 e.lens lreg)

/-! ### Scales (R25, R26, R30, R561) -/

def scalingOf (m : Nat) : Scaling :=
  match m with
  | 0 => .none | 1 => .tensor | 2 => .row | _ => .block

/-- The size of a scale tensor in bytes: `lines` rows of K elements (R30). -/
def scaleBytes (m : Scaling) (rows K : Nat) : Nat :=
  match m with
  | .none => 0
  | .tensor => 4
  | .row => 4 * rows
  | .block => rows * ceilDiv K 32

/-- The index of the scale of element k of line j. -/
def scaleIndex (m : Scaling) (K j k : Nat) : Nat :=
  match m with
  | .row => j
  | .block => j * ceilDiv K 32 + k / 32
  | _ => 0

/-- Scale number i of a scale tensor. -/
def scaleAt (rd : Nat → PByte) (base : Nat) (m : Scaling) (i : Nat) : PVal :=
  match m with
  | .none => ⟨.fin false 1 0, false⟩
  | .block => let b := rd (base + i); ⟨ue8m0 b.val.toNat, b.poison⟩
  | _ => let e := elemAt rd base .fp32 i; ⟨decode .fp32 e.bits, e.poison⟩

/-- An E2M1 BLOCK operand of 1 MiB of packed data or more is in Layout S (R32). -/
def layoutS (f : Fmt) (m : Scaling) (rows K : Nat) : Bool :=
  decide (f = .e2m1) && decide (m = .block) && decide (0x100000 ≤ rows * rowBytes .e2m1 K)

/-! ### What a unit counts -/

/-- Adds saturations and non-finite conversions of results in one format. -/
def Dev.countRounded (s : Dev) (h : Option HoldId) (c : CoreId) (u : Nat) (f : Fmt) (rs : List Rounded) : Dev :=
  s.countSat h c u (fmtCode f) (rs.filter (·.sat)).length (rs.filter (·.nonfin)).length

/-- A consumption of poison by a core's descriptor (R396, R457). -/
def Dev.poisonUse (s : Dev) (h : Option HoldId) (c : CoreId) : Dev :=
  let s1 := (s.count h (chkReg c 0x28) 1).event (coreEvent c) evPoisonUse
  match h with
  | none => s1
  | some h => s1.modHolding h fun x => { x with poisonUsed := true }

/-- Cycles, as many as timing gives, that one counter counts and a stall counter is charged with (R60, R179). -/
def Dev.frozenCycles (s : Dev) (h : Option HoldId) (a b : Nat) : Dev :=
  let n := Config.waitCycles s.free
  let s1 := (s.count h a n).count h b n
  { s1 with free := s1.free + 1 }

/-- Stall cycles of a consumer by cause (R177, R178, R188); how many is timing. Each of the Plough's is a cycle of one of
its freeze counters: a drain hold that is no spill is charged to BANK, a missing operand to any cause (R179). -/
def Dev.stalls (s : Dev) (h : Option HoldId) (c : CoreId) (u : Nat) : Dev :=
  if u = 0 then
    let s1 := s.frozenCycles h (plgReg c 0x18) (stallReg c 0 1)
    let s2 := (List.range 8).foldl (fun s i => s.frozenCycles h (plgReg c 0x20) (stallReg c 0 (i + 1))) s1
    (List.range 8).foldl (fun s i => s.frozenCycles h (plgReg c 0x28) (stallReg c 0 (i + 1))) s2
  else (List.range 8).foldl (fun s i => s.countFree h (stallReg c u (i + 1))) s

end Sys2Proof.Machine
end

