-- ==== Sys2Proof/Machine/Unit.lean ====
section
/-! DEFINITION. How a descriptor runs on its unit: which entry of the issue window a unit command runs, whether the
core can run, whether memory writes of a tile may be sent (R203), silent replay (R195), and completion (R103). -/

namespace Sys2Proof.Machine

open Sys2Proof

def classOf (d : Word512) : Nat := fld d 7 0
def opcodeOf (d : Word512) : Nat := fld d 15 8

/-- The TALLY field of a descriptor of each class (R74, R119, R144, R185, R263); 0 in the others (R200). -/
def tallyOf (d : Word512) : Nat :=
  match classOf d with
  | 1 => fld d 319 312
  | 2 => fld d 375 368
  | 3 => fld d 349 342
  | 4 => fld d 35 28
  | 8 => fld d 31 24
  | _ => 0

/-- A checker disagreement of an entry is under decision, and the entry is suspended (R72, R386). -/
def Core.suspends (c : Core) (e : WEntry) : Bool := c.decision.any fun z => z.stream == e.stream && z.index == e.index

/-- The earliest started entry of a class and operations. -/
def Core.started (c : Core) (cls : Nat) (ops : List Nat) : Option WEntry :=
  c.window.find? fun e => e.phase == .started && classOf e.desc == cls && ops.contains (opcodeOf e.desc)

/-- The entry that a unit runs: the earliest started one of its class and operations, unless that one is suspended. -/
def Core.running (c : Core) (cls : Nat) (ops : List Nat) : Option WEntry :=
  (c.started cls ops).bind fun e => if c.suspends e then none else some e

def sameEntry (a b : WEntry) : Bool := a.stream == b.stream && a.index == b.index

/-- Marks an entry of the window completed (R103). -/
def Core.completeEntry (c : Core) (e : WEntry) : Core :=
  { c with window := c.window.map fun x => if sameEntry x e then { x with phase := .completed } else x }

/-- Whether a die works: not fenced, not offline, not frozen by a Survey. -/
def Dev.dieWorks (s : Dev) (d : Nat) : Bool := !(s.die d).fenced && !(s.die d).offline && !(s.die d).survey

/-- Whether a core is live (R18): neither it nor its die is fenced. -/
def Dev.coreLive (s : Dev) (c : CoreId) : Bool := !(s.core c).fenced && !(s.die (c.val / 8)).fenced
/-- A core that the groups of its holding reach: a re-admitted one stands outside until the next PROGRAM_LOAD (R503). -/
def Dev.inGroups (s : Dev) (c : CoreId) : Bool := s.coreLive c && !(s.core c).outside

/-- Whether a core's units run: it is live and clocked, and does not recompute for a neighbour (R387, R482). -/
def Dev.coreRuns (s : Dev) (c : CoreId) : Bool :=
  !(s.core c).fenced && s.dieWorks (c.val / 8) && !(s.core c).helping
    && s.power.state == .run && s.clocked

/-- The stage that a stream of a core carries: stream 1 is the inherited one (R192). -/
def Holding.stageOf (x : Holding) (c : CoreId) (st : Fin 2) : Option Stage :=
  x.stages.find? fun g => g.runsOn == some c && g.inherited == (st == 1)

def Holding.modStage (x : Holding) (n : Nat) (f : Stage → Stage) : Holding :=
  { x with stages := x.stages.map fun g => if g.dfn.stage = n then f g else g }

def Holding.counter (x : Holding) (n : Nat) : Option Counter := x.counters.find? fun k => k.number == n
def Holding.modCounter (x : Holding) (n : Nat) (f : Counter → Counter) : Holding :=
  { x with counters := x.counters.map fun k => if k.number = n then f k else k }

/-- The slot that a stream holds for a counter (R198). -/
def Stage.slot (g : Stage) (counter : Nat) : Option TakeSlot := g.slots.find? fun t => t.counter == counter

/-- What becomes of the memory writes of a descriptor under TALLY (R203). -/
inductive SendWrites where
  | send | drop | waitClaim
  deriving DecidableEq, Repr

/-- Whether a descriptor's memory writes are sent: always without a counter; with one, once its tile is claimed for
this issue; never when the claim was refused (R203). -/
def Holding.mayWrite (x : Holding) (c : CoreId) (e : WEntry) : SendWrites :=
  let n := tallyOf e.desc
  if e.replay then .drop
  else if n = 0 then .send
  else
    match e.tile, (x.stageOf c e.stream).bind (·.slot n), x.counter n with
    | some (some t), some sl, some k =>
      if k.claims.any fun q => q.tile == t && q.issue == sl.issue && q.core == c && !q.lost then .send
      else if k.refused.contains (t, sl.issue) then .drop
      else .waitClaim
    | _, _, _ => .send

/-- The tile number of a descriptor under TALLY, none for one without valid rows (R199). -/
def WEntry.tileShift (e : WEntry) (nominal : Nat) : Option Nat :=
  match e.tile with
  | none => some 0
  | some none => none
  | some (some t) => some (t * nominal)

def Core.agent (_c : Core) (c : CoreId) (h : HoldId) (e : WEntry) : Agent :=
  { die := c.val / 8, core := some c, holding := h, stream := e.stream, index := e.index }

/-- The consumer of a class for the stall counters (R177, R188): the copy and transform path serves classes 4 and 8, and
the Drill, the link dies and the fences are no consumers. -/
def unitOf (cls : Nat) : Option Nat :=
  match cls with
  | 1 => some 0 | 2 => some 1 | 3 => some 2 | 4 => some 3 | 8 => some 3 | _ => none

/-- The cycle counters of a core's units, and the stall counter of its spill holds (R60, R123, R147, R179). -/
def cycleRegs (c : CoreId) : List Nat :=
  [plgReg c 0x08, plgReg c 0x10, plgReg c 0x18, plgReg c 0x20, plgReg c 0x28, seqReg c 0x30, wdrReg c 0x08, stallReg c 0 7]

/-- What a silent replay keeps of a run: the core's own state, and the cycle and stall counters (R195). -/
def Dev.replaying (s : Dev) (c : CoreId) (h : HoldId) (r : Dev) : Dev :=
  (cycleRegs c).foldl (fun d a =>
    let n := (r.ctr a).toNat - (s.ctr a).toNat
    if n = 0 then d else d.count (some h) a n) { s with cores := r.cores, free := r.free }

/-- The same as the run ends; SEQ_REPLAY takes the descriptor. -/
def Dev.replayed (s : Dev) (c : CoreId) (h : HoldId) (r : Dev) : Dev := (s.replaying c h r).count (some h) (seqReg c 0x48) 1

/-- A run that ends: its entry completes. -/
def Dev.finish (s : Dev) (c : CoreId) (h : HoldId) (e : WEntry) (r : Dev) : Dev :=
  let r1 := if e.replay then s.replayed c h r else r
  let r2 := match unitOf (classOf e.desc) with | some u => r1.stalls (some h) c u | none => r1
  r2.modCore c fun x => { x.completeEntry e with hostBuf := [] }

/-- Runs a descriptor of a unit. A body answers none while its descriptor must wait, and whether it ends with this
run; a run that lacks host data asks for it and is made again. -/
def Dev.runPhased (s : Dev) (c : CoreId) (cls : Nat) (ops : List Nat)
    (body : Agent → WEntry → Run → Option (Run × Bool)) : Dev :=
  match (s.core c).running cls ops, s.holdingOfCore c with
  | some e, some h =>
    if !s.coreRuns c then s
    else
      match body ((s.core c).agent c h e) e { dev := s } with
      | none => s
      | some (r, ends) =>
        if r.wait then s
        else if r.need ≠ [] then s.askHost c r.need
        else if ends then s.finish c h e r.dev
        else if e.replay then s.replaying c h r.dev
        else r.dev
  | _, _ => s

/-- Runs a descriptor of a unit that ends with its run. -/
def Dev.runUnit (s : Dev) (c : CoreId) (cls : Nat) (ops : List Nat) (body : Agent → WEntry → Run → Option Run) : Dev :=
  s.runPhased c cls ops fun a e r => (body a e r).map fun q => (q, true)

/-- The started entries of a class and operations that a disagreement does not suspend. -/
def Core.startedAll (c : Core) (cls : Nat) (ops : List Nat) : List WEntry :=
  c.window.filter fun e =>
    e.phase == .started && classOf e.desc == cls && ops.contains (opcodeOf e.desc) && !c.suspends e

/-- Runs the earliest of a core's started descriptors that need not wait: the Drill serves several at once (R277, R292). -/
def Dev.runAny (s : Dev) (c : CoreId) (cls : Nat) (ops : List Nat)
    (body : Agent → WEntry → Run → Option (Run × Bool)) : Dev :=
  match s.holdingOfCore c with
  | some h =>
    if !s.coreRuns c then s
    else
      match ((s.core c).startedAll cls ops).findSome? fun e =>
        (body ((s.core c).agent c h e) e { dev := s }).map fun r => (e, r) with
      | none => s
      | some (e, r, ends) =>
        if r.wait then s
        else if r.need ≠ [] then s.askHost c r.need
        else if ends then s.finish c h e r.dev
        else if e.replay then s.replaying c h r.dev
        else r.dev
  | none => s

/-- Changes the window entry of a descriptor. -/
def Dev.modEntry (s : Dev) (c : CoreId) (e : WEntry) (f : WEntry → WEntry) : Dev :=
  s.modCore c fun x => { x with window := x.window.map fun w => if sameEntry w e then f w else w }

/-- Changes the core of a run. -/
def Run.modCore (r : Run) (c : CoreId) (f : Core → Core) : Run := { r with dev := r.dev.modCore c f }
def Run.count (r : Run) (h : HoldId) (a n : Nat) : Run :=
  if n = 0 then r else { r with dev := r.dev.count (some h) a n }

end Sys2Proof.Machine
end

