-- ==== Sys2Proof/Machine/Plough.lean ====
section
/-! DEFINITION. The Plough: the dense pass-group descriptor (R74), what a stretch sums to (R61 to R66, R46), masked
operands (R149 to R160), slice products (R81 to R92), commits, spilled tiles and OUT actions (R65, R77, R89, R108 to
R110), PRODUCT and GROUPED. -/

namespace Sys2Proof.Machine

open Sys2Proof

/-! ### The descriptor (R74) -/

structure Dense where
  tally : Nat
  groupCount : Nat
  groupTable : Nat
  statStride : Nat
  moveStride : Nat
  accTile : Nat
  outAddr : Nat
  maskAddr : Nat
  statScale : Nat
  moveScale : Nat
  statAddr : Nat
  moveAddr : Nat
  kLreg : Nat
  mLreg : Nat
  kOff : Nat
  mOff : Nat
  kDepth : Nat
  mRows : Nat
  nCols : Nat
  rotate : Bool
  fmtOut : Nat
  out : Nat
  accInit : Bool
  slices : Nat
  scaleStat : Nat
  scaleMove : Nat
  fmtStat : Nat
  fmtMove : Nat
  transStat : Bool
  transMove : Bool
  mask : Nat
  emu : Bool
  feed : Bool
  form : Nat
  deriving DecidableEq, Repr

/-- The fields of a dense pass-group descriptor (R74). -/
def denseOf (d : Word512) : Dense :=
  { tally := fld d 319 312, groupCount := fld d 311 299, groupTable := fld d 298 282, statStride := fld d 281 266
    moveStride := fld d 265 250, accTile := fld d 249 246, outAddr := fld d 245 229, maskAddr := fld d 228 212
    statScale := fld d 211 195, moveScale := fld d 194 178, statAddr := fld d 177 161, moveAddr := fld d 160 144
    kLreg := fld d 142 139, mLreg := fld d 138 135, kOff := fld d 134 111, mOff := fld d 110 87
    kDepth := fld d 86 71, mRows := fld d 70 59, nCols := fld d 58 48, rotate := bit d 47, fmtOut := fld d 46 43
    out := fld d 42 41, accInit := bit d 40, slices := fld d 39 36, scaleStat := fld d 35 34
    scaleMove := fld d 33 32, fmtStat := fld d 31 28, fmtMove := fld d 27 24, transStat := bit d 23
    transMove := bit d 22, mask := fld d 21 20, emu := bit d 19, feed := bit d 18, form := fld d 17 16 }

/-- Furrows and columns of a form (R50). -/
def formF (form : Nat) : Nat := 128 / 2 ^ form
def formC (form : Nat) : Nat := 128 * 2 ^ form

/-- The format of a code that acceptance has checked. -/
def fmtD (c : Nat) : Fmt := (fmtOfCode c).getD .fp32

def isFp8 (f : Fmt) : Bool := f == .e4m3 || f == .e5m2
def isFp6 (f : Fmt) : Bool := f == .e2m3 || f == .e3m2

/-- Depth and issue cycles per row of an operand pair, none for a refused pair (R52, R53). -/
def pairOf (a b : Fmt) : Option (Nat × Nat) :=
  if isFp8 a && isFp8 b then (if a == .e5m2 && b == .e5m2 then none else some (1, 1))
  else if (isFp6 a && (isFp6 b || isFp8 b)) || (isFp8 a && isFp6 b) then some (1, 1)
  else if a == .e2m1 && b == .e2m1 then some (2, 1)
  else if (a == .e2m1 && (isFp8 b || isFp6 b)) || (b == .e2m1 && (isFp8 a || isFp6 a)) then some (1, 1)
  else if a == .int4 && b == .int4 then some (2, 1)
  else if fmtInt a && fmtInt b then some (1, 1)
  else if (a == .bf16 && b == .bf16) || (a == .fp16 && b == .fp16) then some (1, 2)
  else none

/-! ### Operands in product orientation (R51, R206, R561) -/

/-- One operand as the pass reads it: element data by line (output row or column) and reduction index. -/
structure Operand where
  fmt : Fmt
  scaling : Scaling
  /-- byte addresses of the element data and of the scales -/
  base : Nat
  stride : Nat
  scaleBase : Nat
  /-- lines of the operand: M_ROWS or N_COLS -/
  lines : Nat
  depth : Nat
  /-- whether one stored row runs along the reduction -/
  alongK : Bool
  emu : Bool
  deriving DecidableEq, Repr

/-- An element of a pass before its scale: in emulation a subnormal element reads as zero of its sign (R46). -/
def passElem (emu : Bool) (f : Fmt) (m : Scaling) (bits : Nat) : Val :=
  if emu && isSubnormal f bits then decodeMode true f bits else decodeElem f m bits

/-- The element at line j and reduction index k, before its scale (R46, R67). -/
def Operand.raw (o : Operand) (rd : Nat → PByte) (j k : Nat) : PVal :=
  let e :=
    if layoutS o.fmt o.scaling o.lines o.depth then elemS rd o.base o.depth j k
    else if o.alongK then elemAt rd (o.base + j * o.stride) o.fmt k
    else elemAt rd (o.base + k * o.stride) o.fmt j
  ⟨passElem o.emu o.fmt o.scaling e.bits, e.poison⟩

/-- The scale of the element at line j and reduction index k (R561). -/
def Operand.scale (o : Operand) (rd : Nat → PByte) (j k : Nat) : PVal :=
  if layoutS o.fmt o.scaling o.lines o.depth then
    let b := rd (stookScale o.base (j * ceilDiv o.depth 32 + k / 32))
    ⟨ue8m0 b.val.toNat, b.poison⟩
  else scaleAt rd o.scaleBase o.scaling (scaleIndex o.scaling o.depth j k)

/-- The smallest product weight's part of one operand, as a power of two (R62). -/
def Operand.ulp (o : Operand) : Int :=
  if fmtInt o.fmt then (if o.fmt == .int8 && o.scaling == .block then -6 else 0) else fmtQmin o.fmt

/-- A moving and a stationary element that meet, with their scales; none where the mask leaves the product out. -/
structure Meet where
  a : Val
  b : Val
  sa : Val
  sb : Val
  /-- block number within the stretch -/
  blk : Nat
  deriving DecidableEq, Repr

/-! ### Stretch values -/

/-- The value of a set of products that holds a non-finite one (R66). NaN products of both signs give a NaN whose sign
is free (R24 names the sign of one source; notes/assumptions/5). -/
def nonfinSum (ps : List Val) : Val :=
  match ps.filter (·.isNan) with
  | n :: rest => rest.foldl nanOf n
  | [] =>
    let pos := ps.any fun p => p.isInf && !p.neg?
    let neg := ps.any fun p => p.isInf && p.neg?
    if pos && neg then nanOf (.inf false) (.inf true) else .inf neg

/-- The exact sum of finite products. -/
def exactSum (ps : List Val) : Val := (ps.foldl Val.add Val.zero).posZero

/-- The exponent of a block scale (R63): that of its value, 0 for an operand without block scales. -/
def scaleExp (s : Scaling) (v : Val) : Int := if s = .block then v.floorLog2 else 0

/-- The alignment of block sums in the 130-bit adder (R63): the value and whether bits were dropped. -/
def alignBlocks (ulp : Int) (sums : List (Val × Int)) : Val × Bool :=
  let nz := sums.filter fun p => !p.1.isZero
  match nz with
  | [] => (Val.zero, false)
  | p :: rest =>
    let xm := rest.foldl (fun m q => if m < q.2 then q.2 else m) p.2
    let units := nz.map fun q =>
      let sh := xm - q.2
      let i := q.1.unitsFloor ulp
      if 64 < sh then i / 2 ^ (sh - 64).toNat else i * 2 ^ (64 - sh).toNat
    (Val.ofInt (units.foldl (· + ·) 0) (ulp + xm - 64), nz.any fun q => decide (64 < xm - q.2))

/-- One step of the running alignment (R64). -/
def runStep (g : Int) (st : Option (Int × Int)) (p : Val) : Option (Int × Int) :=
  if p.isZero then st
  else
    let e := p.floorLog2
    match st with
    | none => some (e, p.unitsFloor (e - g))
    | some (er, s) =>
      if er < e then some (e, s / 2 ^ (e - er).toNat + p.unitsFloor (e - g))
      else some (er, s + p.unitsFloor (er - g))

/-- The running alignment of BF16 and FP16 pairs (R64). -/
def runningSum (g : Int) (ps : List Val) : Val :=
  match ps.foldl (runStep g) none with
  | none => Val.zero
  | some (er, s) => Val.ofInt s (er - g)

/-- The value of one stretch in normal mode, and whether bits were dropped (R62 to R66). R66 states no result for a TENSOR
or ROW scale that is itself infinite or NaN: it multiplies each product, so that a zero product gives NaN (DESIGN CHOICE,
notes/assumptions/99). -/
def stretchValue (fa : Fmt) (ma mb : Scaling) (ulp : Int) (ms : List Meet) : Val × Bool :=
  let scaled := ms.map fun m => (m.a.mul m.sa).mul (m.b.mul m.sb)
  if scaled.any fun p => !p.isFinite then (nonfinSum scaled, false)
  else if fa == .bf16 then (runningSum 47 scaled, false)
  else if fa == .fp16 then (runningSum 53 scaled, false)
  else if ma == .block || mb == .block then
    let blocks := (List.range 4).filterMap fun b =>
      match ms.filter fun m => m.blk == b with
      | [] => none
      | m :: rest =>
        some (exactSum ((m :: rest).map fun x => x.a.mul x.b), scaleExp ma m.sa + scaleExp mb m.sb)
    let r := alignBlocks ulp blocks
    let fac := match ms with
      | [] => Val.fin false 1 0
      | m :: _ => (if ma == .block then .fin false 1 0 else m.sa).mul (if mb == .block then .fin false 1 0 else m.sb)
    ((r.1.mul fac).posZero, r.2)
  else (exactSum scaled, false)

/-- The value of a 32-index group in emulation (R46). -/
def groupValue (ms : List Meet) : Val :=
  let scaled := ms.map fun m => (m.a.mul m.sa).mul (m.b.mul m.sb)
  if scaled.any fun p => !p.isFinite then nonfinSum scaled else exactSum scaled

/-! ### Structured masks (R149 to R160) -/

/-- The patch size and the kept elements per line of a mask (R149). -/
def maskP (mask : Nat) : Nat := if mask = 1 then 4 else 8
def maskN (mask : Nat) : Nat := if mask = 1 then 2 else 4

/-- Positions of the kept elements of an entry whose runs are given (R152). -/
def runPositions : List Nat → Int → List Nat
  | [], _ => []
  | r :: rs, p => (p + 1 + r).toNat :: runPositions rs (p + 1 + r)

/-- The count and the positions of a group entry (R152). -/
def maskEntry (mask e : Nat) : Nat × List Nat :=
  if mask = 1 then
    let c := e / 16 % 4
    (c, runPositions ([e % 4, e / 4 % 4].take c) (-1))
  else
    let c := e / 4096 % 8
    (c, runPositions ([e % 8, e / 8 % 8, e / 64 % 8, e / 512 % 8].take c) (-1))

/-- Entry g of patch q of a plane, with the poison of its bytes (R152). -/
def planeEntry (rd : Nat → PByte) (base mask q g : Nat) : PElem :=
  if mask = 1 then
    let w := joinBytes [rd (base + 3 * q), rd (base + 3 * q + 1), rd (base + 3 * q + 2)]
    ⟨w.bits / 64 ^ g % 64, w.poison⟩
  else joinBytes [rd (base + 16 * q + 2 * g), rd (base + 16 * q + 2 * g + 1)]

/-- Whether an entry of either plane of a patch reads poisoned: its count and its places then decide with poison where the
values of the patch go (R154, R396). -/
def planesPoison (rd : Nat → PByte) (rowPlane colPlane mask q : Nat) : Bool :=
  (List.range (maskP mask)).any fun g => (planeEntry rd rowPlane mask q g).poison || (planeEntry rd colPlane mask q g).poison

/-- Positions (line, place) of a patch in one plane. -/
def planeSet (rd : Nat → PByte) (base mask q : Nat) : List (Nat × Nat) :=
  (List.range (maskP mask)).flatMap fun g => (maskEntry mask (planeEntry rd base mask q g).bits).2.map fun p => (g, p)

/-- A malformed plane entry: too many elements, or runs past the line (R159). -/
def entryBad (mask : Nat) (e : Nat) : Bool :=
  let r := maskEntry mask e
  decide (maskN mask < r.1) || r.2.any fun p => decide (maskP mask ≤ p)

/-- A malformed patch (R159). -/
def patchBad (rd : Nat → PByte) (rowPlane colPlane mask q : Nat) : Bool :=
  let lines := List.range (maskP mask)
  lines.any (fun g => entryBad mask (planeEntry rd rowPlane mask q g).bits || entryBad mask (planeEntry rd colPlane mask q g).bits)
    || (let cs := planeSet rd colPlane mask q
        let rs := (planeSet rd rowPlane mask q).map fun p => (p.2, p.1)
        cs.any (fun p => !rs.contains p) || rs.any fun p => !cs.contains p)

/-- A masked stationary operand in the operand store (R151, R153): stored rows and columns and its planes. -/
structure Masked where
  mask : Nat
  fmt : Fmt
  valBase : Nat
  stride : Nat
  cols : Nat
  rowPlane : Nat
  colPlane : Nat
  deriving DecidableEq, Repr

def Masked.patch (m : Masked) (i j : Nat) : Nat := i / maskP m.mask * ceilDiv m.cols (maskP m.mask) + j / maskP m.mask

/-- The value at stored row i and column j: none outside the mask. The column plane orders the values (R151); a
malformed patch holds none (R160). -/
def Masked.at? (m : Masked) (rd : Nat → PByte) (i j : Nat) : Option PElem :=
  let p := maskP m.mask
  let q := m.patch i j
  if patchBad rd m.rowPlane m.colPlane m.mask q then none
  else
    let e := planeEntry rd m.colPlane m.mask q (i % p)
    match (maskEntry m.mask e.bits).2.findIdx? (· == j % p) with
    | none => none
    | some k =>
      let n := maskN m.mask
      let v := elemAt rd (m.valBase + i / p * m.stride) m.fmt (j / p * (n * p) + n * (i % p) + k)
      some v

/-! ### Slice products (R81 to R92) -/

/-- The number of the lowest set bit, of a number that is not zero. -/
def lowBit : Nat → Nat → Nat
  | 0, _ => 0
  | n + 1, m => if m % 2 = 1 then 0 else 1 + lowBit n (m / 2)

/-- The signed slices of an aligned integer, most significant first (R83). -/
def sliceDigits : Nat → Int → List Int → List Int
  | 0, _, acc => acc
  | 1, r, acc => r :: acc
  | n + 1, r, acc =>
    let d0 := r % 256
    let d := if 128 ≤ d0 then d0 - 256 else d0
    sliceDigits n ((r - d) / 256) (d :: acc)

def slicesOf (s : Nat) (x : Int) : List Int := sliceDigits s x []

/-- The index of the last non-zero slice, 0 for zero (R83). -/
def lastSlice (ds : List Int) : Nat :=
  ((List.range ds.length).filter fun i => nthD ds i 0 ≠ 0).getLast?.getD 0

/-- An element as the slice unit sees it (R83, R90, R92). -/
structure Sliced where
  val : Val
  digits : List Int
  last : Nat
  loss : Bool
  excess : Bool
  poison : Bool
  deriving DecidableEq, Repr

/-- An exponent entry (R82): the alignment exponent, none for a line declared all zeros (zeros) and for an entry that is
not finite; bad marks the lines that the entry poisons (R92). -/
structure AlignExp where
  exp : Option Int
  zeros : Bool
  bad : Bool
  poison : Bool
  deriving DecidableEq, Repr

/-- A poisoned finite entry still aligns its line, which is computed and committed with the poison (R92, R67). -/
def alignOf (v : PVal) : AlignExp :=
  if !v.val.isFinite then ⟨none, false, true, v.poison⟩
  else if v.val.isZero then ⟨none, true, v.poison, v.poison⟩
  else ⟨some v.val.floorLog2, false, v.poison, v.poison⟩

/-- Alignment and slicing of one element (R83, R90, R92). The slices of an element in excess, and of one whose line has no
exponent, are stated nowhere: they are Config.openSlices, a free value from which T, l and product loss follow
(notes/assumptions/100). Operand loss is measured by the alignment exponent, so that an element of a line without one has
none (DESIGN CHOICE, notes/assumptions/134). -/
def sliceElem (s : Nat) (a : AlignExp) (v : PVal) : Sliced :=
  if !v.val.isFinite then ⟨v.val, [], 0, false, false, v.poison⟩
  else if v.val.isZero then ⟨v.val, slicesOf s 0, 0, false, false, v.poison⟩
  else
    let openDs := (Config.openSlices s a.exp v.val).take s
    match a.exp with
    | none => ⟨v.val, openDs, lastSlice openDs, false, a.zeros, v.poison⟩
    | some e =>
      let w := e - (8 * s - 3 : Int)
      let x := v.val.unitsTrunc w
      let lost := (Val.ofInt x w).lt v.val || v.val.lt (Val.ofInt x w)
      if e < v.val.floorLog2 then ⟨v.val, openDs, lastSlice openDs, lost, true, v.poison⟩
      else ⟨v.val, slicesOf s x, lastSlice (slicesOf s x), lost, false, v.poison⟩

/-- The kept slice products of one pair, in units of the last weight (R85). -/
def sliceProd (s : Nat) (a b : List Int) : Int :=
  ((List.range s).map fun t => ((List.range (s - t)).map fun u =>
    nthD a t 0 * nthD b u 0 * 256 ^ (s - 1 - t - u)).foldl (· + ·) 0).foldl (· + ·) 0

/-- An exact slot (R87). -/
structure Slot where
  sum : Int
  nf : Nat
  loss : Bool
  poison : Bool
  deriving DecidableEq, Repr

/-- The slot of an output element: four words from 4 × its index in four consecutive tiles. -/
def Core.slotAt (c : Core) (first n : Nat) : Slot :=
  let w := fun i => c.nameWord first (4 * n + i)
  let v : BitVec 128 := (w 3).val ++ ((w 2).val ++ ((w 1).val ++ (w 0).val))
  { sum := (v.extractLsb' 0 104).toInt, nf := (v.extractLsb' 104 2).toNat, loss := v.getLsbD 106
    poison := (w 0).poison }

def slotWords (s : Slot) : List PWord :=
  let v : BitVec 128 := 0#21 ++ (BitVec.ofBool s.loss ++ (BitVec.ofNat 2 s.nf ++ BitVec.ofInt 104 s.sum))
  (List.range 4).map fun i => ⟨v.extractLsb' (32 * i) 32, s.poison⟩

def Core.setSlot (c : Core) (first n : Nat) (s : Slot) : Core :=
  c.setWords (c.tileOf (first + 4 * n / tileWords)) (4 * n % tileWords) (slotWords s)

/-- NF after one more product that is not finite (R66, R92): 0 finite, 1 +∞, 2 -∞, 3 NaN. -/
def nfStep (nf : Nat) (p : Val) : Nat :=
  match p with
  | .nan _ => 3
  | .inf n => let k := if n then 2 else 1; if nf = 0 then k else if nf = k then k else 3
  | .fin _ _ _ => nf

/-- The final rounding of a slot (R89). -/
def slotValue (sl : Slot) (s : Nat) (er ec : Int) : Val :=
  if sl.nf = 3 then nanOf (.inf false) (.inf true)
  else if sl.nf = 1 then .inf false
  else if sl.nf = 2 then .inf true
  else Val.ofInt sl.sum (er + ec - 8 * s - 2)

/-! ### One product: a problem of a descriptor -/

/-- Where a tile of output rows lives: a name, a spill slot's first byte, or nowhere (R108 to R110). -/
inductive TilePlace where
  | name (n : Nat)
  | spill (byte : Nat)
  | none
  deriving DecidableEq, Repr

/-- What one problem of a dense descriptor computes. -/
structure Problem where
  move : Nat
  stat : Nat
  moveScale : Nat
  statScale : Nat
  out : Nat
  rows : Nat
  nominal : Nat
  places : List TilePlace
  deriving DecidableEq, Repr

/-- Word i of a tile in its place; of a spilled tile, from its slot, with each element's poison (R109). -/
def Core.placeWord (c : Core) (p : TilePlace) (i : Nat) : PWord :=
  match p with
  | .name n => c.word (c.tileOf n) i
  | .spill a =>
    let e := joinBytes (c.osRead (a + 4 * i) 4)
    ⟨BitVec.ofNat 32 e.bits, e.poison⟩
  | .none => ⟨0, true⟩

/-- Writes words of a tile from word i on; of a spilled tile, back into its slot (R109). -/
def Core.setPlaceWords (c : Core) (p : TilePlace) (i : Nat) (ws : List PWord) : Core :=
  match p with
  | .name n => c.setWords (c.tileOf n) i ws
  | .spill a => c.osWrite (a + 4 * i) (ws.flatMap fun w => (leBytes 4 w.val.toNat).map fun b => ⟨b, w.poison⟩)
  | .none => c

def Core.clearPlace (c : Core) (p : TilePlace) : Core :=
  match p with
  | .name n => (c.clearTile (c.tileOf n)).tagTile (c.tileOf n) false
  | .spill a => c.osWrite a (List.replicate 65536 ⟨0, false⟩)
  | .none => c

def Core.poisonPlace (c : Core) (p : TilePlace) : Core :=
  match p with
  | .name n => c.poisonTile (c.tileOf n)
  | .spill a => c.osWrite a ((c.osRead a 65536).map fun b => { b with poison := true })
  | .none => c

/-- The operands of a problem. -/
def Dense.moving (d : Dense) (p : Problem) : Operand :=
  { fmt := fmtD d.fmtMove, scaling := scalingOf d.scaleMove, base := p.move * lineBytes
    stride := d.moveStride * lineBytes, scaleBase := p.moveScale * lineBytes, lines := p.nominal, depth := d.kDepth
    alongK := !d.transMove, emu := d.emu }
def Dense.stationary (d : Dense) (p : Problem) : Operand :=
  { fmt := fmtD d.fmtStat, scaling := scalingOf d.scaleStat, base := p.stat * lineBytes
    stride := d.statStride * lineBytes, scaleBase := p.statScale * lineBytes, lines := d.nCols, depth := d.kDepth
    alongK := d.transStat, emu := d.emu }

/-- The masked stationary operand: the column plane begins at the line after the row plane (R153). -/
def Dense.masked (d : Dense) (p : Problem) : Masked :=
  let rows := if d.transStat then d.nCols else d.kDepth
  let cols := if d.transStat then d.kDepth else d.nCols
  let n := ceilDiv rows (maskP d.mask) * ceilDiv cols (maskP d.mask)
  let bytes := n * (if d.mask = 1 then 3 else 16)
  { mask := d.mask, fmt := fmtD d.fmtStat, valBase := p.stat * lineBytes, stride := d.statStride * lineBytes
    cols := cols, rowPlane := d.maskAddr * lineBytes
    colPlane := (d.maskAddr + ceilDiv bytes lineBytes) * lineBytes }

/-- The stationary element that meets reduction index k at column j: none where a mask leaves it out. -/
def Dense.statElem (d : Dense) (p : Problem) (rd : Nat → PByte) (j k : Nat) : Option PVal :=
  if d.mask = 0 then some ((d.stationary p).raw rd j k)
  else
    let i := if d.transStat then j else k
    let c := if d.transStat then k else j
    ((d.masked p).at? rd i c).map fun e => ⟨passElem d.emu (fmtD d.fmtStat) (scalingOf d.scaleStat) e.bits, e.poison⟩

/-- The products that meet in one range of reduction indices. -/
def Dense.meets (d : Dense) (p : Problem) (rd : Nat → PByte) (i j lo hi : Nat) : List Meet :=
  let a := d.moving p
  let b := d.stationary p
  (List.range (hi - lo)).filterMap fun x =>
    let k := lo + x
    (d.statElem p rd j k).map fun e =>
      { a := (a.raw rd i k).val, b := e.val, sa := (a.scale rd i k).val, sb := (b.scale rd j k).val, blk := x / 32 }

/-- The malformed patches that the descriptor's passes read (R159, R160): its problems share the planes at MASK_ADDR. -/
def Dense.badPatches (d : Dense) (p : Problem) (rd : Nat → PByte) (kv : Nat) : List Nat :=
  if d.mask = 0 then []
  else
    let m := d.masked p
    let pp := maskP d.mask
    let rows := if d.transStat then d.nCols else kv
    let cols := if d.transStat then kv else d.nCols
    ((List.range (ceilDiv rows pp)).flatMap fun r => (List.range (ceilDiv cols pp)).map fun c => m.patch (r * pp) (c * pp)).filter
      fun q => patchBad rd m.rowPlane m.colPlane d.mask q

/-- Whether a plane entry that reads poisoned decides what line j of the output takes: any entry of a patch that the line
crosses (R154, R396; DEDUCED, notes/assumptions/101). -/
def Dense.planePoison (d : Dense) (p : Problem) (rd : Nat → PByte) (kv j : Nat) : Bool :=
  d.mask != 0 &&
    (let m := d.masked p
     (List.range (ceilDiv kv (maskP d.mask))).any fun b =>
       let k := b * maskP d.mask
       planesPoison rd m.rowPlane m.colPlane d.mask (if d.transStat then m.patch j k else m.patch k j))

/-- What the passes of a problem count. -/
structure Tallies where
  sat : Nat := 0
  loss : Nat := 0
  outSat : Nat := 0
  outNonfin : Nat := 0
  operandLoss : Nat := 0
  outLoss : Nat := 0
  excess : Nat := 0
  maskBad : Nat := 0
  used : Bool := false
  deriving DecidableEq, Repr

def Tallies.add (a b : Tallies) : Tallies :=
  ⟨a.sat + b.sat, a.loss + b.loss, a.outSat + b.outSat, a.outNonfin + b.outNonfin, a.operandLoss + b.operandLoss,
    a.outLoss + b.outLoss, a.excess + b.excess, a.maskBad + b.maskBad, a.used || b.used⟩

/-- One accumulator commit (R65), or one group commit of emulation (R46, R48). -/
def commitStep (emu : Bool) (st : Val × Nat) (v : Val) : Val × Nat :=
  let r := convertMode emu .fp32 (st.1.add v)
  (decode .fp32 r.bits, if r.sat then st.2 + 1 else st.2)

/-- The stretch values of an output element in ascending order, and how many dropped bits (R61 to R66, R69). -/
def Dense.stretches (d : Dense) (p : Problem) (rd : Nat → PByte) (kv i j : Nat) : List Val × Nat :=
  let w := if d.emu then 32 else 128
  let a := d.moving p
  let b := d.stationary p
  let rs := (List.range (ceilDiv kv w)).map fun g =>
    let ms := d.meets p rd i j (g * w) (min kv (g * w + w))
    if d.emu then (groupValue ms, false)
    else stretchValue a.fmt a.scaling b.scaling (a.ulp + b.ulp) ms
  (rs.map (·.1), (rs.filter (·.2)).length)

/-- A moving line is poisoned when any of its valid elements or scales is (R67). -/
def Dense.rowPoison (d : Dense) (p : Problem) (rd : Nat → PByte) (kv i : Nat) : Bool :=
  (List.range kv).any fun k => ((d.moving p).raw rd i k).poison || ((d.moving p).scale rd i k).poison
def Dense.colPoison (d : Dense) (p : Problem) (rd : Nat → PByte) (kv j : Nat) : Bool :=
  d.planePoison p rd kv j || (List.range kv).any fun k =>
    ((d.statElem p rd j k).map (·.poison)).getD false || ((d.stationary p).scale rd j k).poison

/-- The committed word of one output element (R51, R65, R67). -/
def Dense.element (d : Dense) (p : Problem) (rd : Nat → PByte) (kv i j : Nat) (rowBad colBad : Bool) (old : PWord) :
    PWord × Tallies :=
  let start : PWord := if d.accInit then ⟨0, false⟩ else old
  let vs := d.stretches p rd kv i j
  let r := vs.1.foldl (commitStep d.emu) (f32 start.val, 0)
  let poison := start.poison || rowBad || colBad
  (⟨toF32 r.1, poison⟩, { sat := r.2, loss := vs.2, used := poison })

/-- The rows of a problem that tile t of it holds. -/
def tileRows (F rows t : Nat) : Nat := min F (rows - t * F)

/-- Commits every valid element of a problem into its tiles; a tile without a place computes nothing (R110). -/
def Dense.commit (d : Dense) (p : Problem) (kv : Nat) (c : Core) : Core × Tallies :=
  let F := formF d.form
  let C := formC d.form
  let rd := c.osByte
  let cols := (List.range d.nCols).map fun j => d.colPoison p rd kv j
  (List.range p.places.length).foldl (fun st t =>
    let place := nthD p.places t .none
    if place = .none then st
    else
      (List.range (tileRows F p.rows t)).foldl (fun st r =>
        let rowBad := d.rowPoison p rd kv (t * F + r)
        let els := (List.range d.nCols).map fun j =>
          d.element p rd kv (t * F + r) j rowBad (nthD cols j false) (c.placeWord place (r * C + j))
        (st.1.setPlaceWords place (r * C) (els.map (·.1)), els.foldl (fun a e => a.add e.2) st.2)) st)
    (c, {})

/-- The OUT action of a problem in FP32 tiles (R77): valid rows row-major from the output line, each row beginning
at a byte (R28). -/
def Dense.writeOut (d : Dense) (p : Problem) (c : Core) : Core × Tallies :=
  let f := fmtD d.fmtOut
  let F := formF d.form
  let C := formC d.form
  (List.range p.rows).foldl (fun st i =>
    let place := nthD p.places (i / F) .none
    let rs := (List.range d.nCols).map fun j =>
      let w := st.1.placeWord place (i % F * C + j)
      (convertMode d.emu f (f32 w.val), w.poison)
    let base := p.out * lineBytes + i * rowBytes f d.nCols
    let clean := rs.filter fun x => !x.2
    (st.1.osWrite base (packRow f (rs.map fun x => ⟨x.1.bits, x.2⟩)),
      { st.2 with outSat := st.2.outSat + (clean.filter (·.1.sat)).length
                  outNonfin := st.2.outNonfin + (clean.filter (·.1.nonfin)).length })) (c, {})

/-- After the OUT action of WRITE_CLEAR the tiles are +0 without poison (R77). -/
def clearPlaces (places : List TilePlace) (c : Core) : Core := places.foldl Core.clearPlace c

/-- The commits of a problem in FP32 tiles (R65, R88, R160). `bad` says that a patch of the descriptor is malformed, and
`tagBad` that the tiles held exact slots. -/
def Dense.commitProblem (d : Dense) (p : Problem) (kv : Nat) (bad tagBad : Bool) (c : Core) : Core × Tallies :=
  let runs := decide (p.rows ≠ 0) && decide (kv ≠ 0)
  let r1 := if runs then d.commit p kv c else (if d.accInit then clearPlaces p.places c else c, {})
  let c2 := if (runs && bad) || tagBad then p.places.foldl Core.poisonPlace r1.1 else r1.1
  (p.places.foldl (fun c q => match q with | .name n => c.tagTile (c.tileOf n) false | _ => c) c2, r1.2)

/-- The OUT action of a problem (R77), after the descriptor's last commit. With valid rows and a valid depth of 0 the
valid rows are written from the tiles, as R76 and R77 say; R106 speaks of an OUT action with nothing to write for a
descriptor with no valid element, which the model takes for one with no valid row or column (DESIGN CHOICE,
notes/assumptions/102). -/
def Dense.outProblem (d : Dense) (p : Problem) (c : Core) : Core × Tallies :=
  let r := if d.out = 1 || d.out = 2 then d.writeOut p c else (c, {})
  (if d.out = 2 then clearPlaces p.places r.1 else r.1, r.2)

/-! ### Slice products -/

/-- The exponent entry of an output row or column (R82). -/
def alignAt (c : Core) (f : Fmt) (line j : Nat) : AlignExp :=
  let e := elemAt c.osByte (line * lineBytes) f j
  alignOf ⟨decode f e.bits, e.poison⟩

/-- A slice product's update of one slot (R85, R88, R90, R92). -/
def sliceSlot (s : Nat) (row col : List Sliced) (bad : Bool) (old : Slot) : Slot :=
  let ps := row.zip col
  let sum := ps.foldl (fun a q => a + sliceProd s q.1.digits q.2.digits) old.sum
  let nf := ps.foldl (fun n q => nfStep n (if q.1.val.isFinite && q.2.val.isFinite then Val.zero else q.1.val.mul q.2.val)) old.nf
  let loss := old.loss || ps.any fun q =>
    q.1.loss || q.2.loss || (q.1.digits ≠ [] && q.2.digits ≠ [] && decide (s ≤ q.1.last + q.2.last)
      && !q.1.val.isZero && !q.2.val.isZero)
  { sum := sum, nf := nf, loss := loss, poison := old.poison || bad }

/-- The bytes of the workspace of R94, whose layout and content after the descriptor are stated nowhere: free values with
free poison, from number n on (notes/assumptions/3). -/
def workspaceBytes (n len : Nat) : List PByte :=
  (List.range len).map fun i => ⟨(Config.freeValue (n + i)).setWidth 8, (Config.freeValue (n + i)).getLsbD 8⟩

/-- Bytes of the workspace of a slice product (R94). -/
def Dense.workspace (d : Dense) : Nat := 256 * (d.mRows + d.nCols) * d.slices

/-- A slice product of a descriptor (R81 to R94): the slice unit's workspace, commits and OUT. Its workspace takes the free
values from number `free` on. The final rounding applies the exponent entries also where no pass has run, and with them
their poison (R89, R92). A line whose entry is zero or not finite has no exponent: its rounding takes 0 for it (DESIGN
CHOICE, notes/assumptions/133). -/
def Dense.runSlices (d : Dense) (p : Problem) (kv : Nat) (tagBad : Bool) (free : Nat) (c : Core) : Core × Tallies :=
  let s := d.slices
  let f := fmtD d.fmtMove
  let C := formC d.form
  let F := formF d.form
  let rd := c.osByte
  let names := (List.range (4 * ceilDiv p.nominal F)).map fun i => TilePlace.name (d.accTile + i)
  let aRow := fun i => alignAt c f p.moveScale i
  let aCol := fun j => alignAt c f p.statScale j
  let runs := decide (p.rows ≠ 0) && decide (kv ≠ 0)
  let rows := (List.range (if runs then p.rows else 0)).map fun i =>
    (List.range kv).map fun k => sliceElem s (aRow i) ((d.moving p).raw rd i k)
  let cols := (List.range (if runs then d.nCols else 0)).map fun j =>
    (List.range kv).map fun k => sliceElem s (aCol j) ((d.stationary p).raw rd j k)
  let lineBad := fun (a : AlignExp) (l : List Sliced) => a.bad || l.any fun x => x.poison || x.excess
  let slotNo := fun i j => i / F * tileWords + i % F * C + j
  let work := if runs then c.osWrite (d.maskAddr * lineBytes) (workspaceBytes free d.workspace) else c
  let c0 := if d.accInit then clearPlaces names work else work
  let c1 := (List.range rows.length).foldl (fun x i =>
    (List.range cols.length).foldl (fun x j =>
      let r := nthD rows i []
      let k := nthD cols j []
      x.setSlot d.accTile (slotNo i j)
        (sliceSlot s r k (lineBad (aRow i) r || lineBad (aCol j) k) (x.slotAt d.accTile (slotNo i j)))) x) c0
  let c2 := names.foldl (fun x q => match q with | .name n => x.tagTile (x.tileOf n) true | _ => x) c1
  let c3 := if tagBad then names.foldl Core.poisonPlace c2 else c2
  let fo := fmtD d.fmtOut
  let outRow := fun (x : Core) (i : Nat) => (List.range d.nCols).map fun j =>
    let sl := x.slotAt d.accTile (slotNo i j)
    let a := aRow i
    let b := aCol j
    (convert fo (slotValue sl s (a.exp.getD 0) (b.exp.getD 0)), { sl with poison := sl.poison || a.bad || b.bad })
  let writes := decide (d.out = 1) || decide (d.out = 2)
  let outs := if writes then (List.range p.rows).map (outRow c3) else []
  let c4 := (List.range outs.length).foldl (fun x i =>
    x.osWrite (p.out * lineBytes + i * rowBytes fo d.nCols)
      (packRow fo ((nthD outs i []).map fun q => ⟨q.1.bits, q.2.poison⟩))) c3
  let c5 := if d.out = 2 then names.foldl (fun x q => match q with
      | .name n => (x.clearTile (x.tileOf n)).tagTile (x.tileOf n) true | _ => x) c4 else c4
  let all := rows.flatten ++ cols.flatten
  let rounds := if runs || (writes && decide (p.rows ≠ 0)) then (List.range p.rows, List.range d.nCols) else ([], [])
  (c5, { outSat := (outs.flatten.filter fun q => q.1.sat && !q.2.poison).length
         outLoss := (outs.flatten.filter fun q => q.2.loss).length
         operandLoss := (all.filter (·.loss)).length
         excess := (all.filter (·.excess)).length
         used := all.any (·.poison) || rounds.1.any (fun i => (aRow i).poison) || rounds.2.any (fun j => (aCol j).poison)
           || (List.range rows.length).any fun i => (List.range cols.length).any fun j =>
             (c0.slotAt d.accTile (slotNo i j)).poison })

/-! ### Cycles and counts (R56, R60, R93, R106, R109) -/

/-- Segments of the valid depth (R54). -/
def Dense.segments (d : Dense) (kv : Nat) : Nat :=
  let depth := if d.mask ≠ 0 then 2 else ((pairOf (fmtD d.fmtMove) (fmtD d.fmtStat)).getD (1, 1)).1
  let w := formF d.form * depth
  if w ≤ 128 then ceilDiv kv 128 * (128 / w) else ceilDiv kv w

/-- Passes of the valid depth (R54): one for each stretch, or one for two where a segment covers 256; in slice mode each
slice product of a stretch runs as a pass of its own (R85). -/
def Dense.passes (d : Dense) (kv : Nat) : Nat :=
  let depth := if d.mask ≠ 0 then 2 else ((pairOf (fmtD d.fmtMove) (fmtD d.fmtStat)).getD (1, 1)).1
  if d.slices ≠ 0 then ceilDiv kv 128 * (d.slices * (d.slices + 1) / 2)
  else if formF d.form * depth ≤ 128 then ceilDiv kv 128 else ceilDiv kv 256

/-- Moving rows of one pass at most (R54, R87). -/
def Dense.passRows (d : Dense) : Nat :=
  if d.form = 0 then (if d.slices = 0 then 2048 else 512) else formF d.form

/-- The passes' shares of a problem's rows, in order: only a GROUPED problem needs more than one. -/
def Dense.splits (d : Dense) (rows : Nat) : List Nat :=
  (List.range (ceilDiv rows d.passRows)).map fun i => min d.passRows (rows - i * d.passRows)

/-- AC cycles that issue a moving row and stationary load cycles of the passes over some rows (R56, R49, R93). The eighth of
the rate that R49 gives emulation is taken as eight issue cycles for one; stationary loads take their own time (DESIGN
CHOICE, notes/assumptions/103). -/
def Dense.passCycles (d : Dense) (rows kv : Nat) : Nat × Nat :=
  if rows = 0 || kv = 0 then (0, 0)
  else if d.slices ≠ 0 then
    let n := ceilDiv kv 128 * (128 / formF d.form)
    (n * (d.slices * (d.slices + 1) / 2) * rows, n * d.slices * formF d.form)
  else
    let r := ((pairOf (fmtD d.fmtMove) (fmtD d.fmtStat)).getD (1, 1)).2
    (d.segments kv * rows * r * (if d.emu then 8 else 1), d.segments kv * formF d.form)

/-- Rows of a problem for which a pass runs: those of a tile without a place take none (R110). -/
def Dense.placedRows (d : Dense) (p : Problem) : Nat :=
  if d.slices ≠ 0 then p.rows else min p.rows ((p.places.filter (· != .none)).length * formF d.form)

/-- The cycles of a problem, and the passes that it commits. -/
def Dense.cycles (d : Dense) (p : Problem) (kv : Nat) : Nat × Nat × Nat :=
  let parts := d.splits (d.placedRows p)
  let cyc := parts.map fun n => d.passCycles n kv
  ((cyc.map (·.1)).foldl (· + ·) 0, (cyc.map (·.2)).foldl (· + ·) 0, parts.length * d.passes kv)

/-- The cycles for which a spilled tile's commits hold the drain: 256 for each stretch of the valid depth (R109). -/
def spillHold (spilled kv : Nat) : Nat := spilled * ceilDiv kv 128 * 256

/-- Adds the Plough's counts of a descriptor; the hold of spilled tiles counts in PLG_FRZ_DRAIN and is charged to SPILL
(R109, R177). -/
def Run.plough (r : Run) (c : CoreId) (h : HoldId) (d : Dense) (kv : Nat) (probs : List Problem) (t : Tallies)
    (skip : Nat) : Run :=
  let cyc := probs.map fun p => d.cycles p kv
  let issue := (cyc.map (·.1)).foldl (· + ·) 0
  let load := (cyc.map (·.2.1)).foldl (· + ·) 0
  let spilled := (probs.map fun p => (p.places.filter fun q => match q with | .spill _ => true | _ => false).length).foldl (· + ·) 0
  let hold := spillHold spilled kv
  let passes := (cyc.map (·.2.2)).foldl (· + ·) 0
  let r1 := ((((r.count h (plgReg c 0x08) issue).count h (plgReg c 0x10) load).count h (plgReg c 0x30) passes).count h
    (plgReg c 0x18) hold).count h (stallReg c 0 7) hold
  let r2 := ((((r1.count h (plgReg c 0x40) t.loss).count h (plgReg c 0x48) t.operandLoss).count h (plgReg c 0x50)
    t.outLoss).count h (plgReg c 0x58) t.excess).count h (plgReg c 0x60) t.maskBad
  let r3 := (r2.count h (seqReg c 0x18) skip).count h (seqReg c 0x20) spilled
  let s4 := r3.dev.countSat (some h) c 0 1 t.sat 0
  let s5 := s4.countSat (some h) c 0 d.fmtOut t.outSat t.outNonfin
  let s6 := if spilled = 0 then s5 else s5.event (coreEvent c) evSpill
  { r3 with dev := if t.used then s6.poisonUse (some h) c else s6 }

/-- Lines of the stationary operand of a descriptor's resource set (R183): operand, scales and planes. -/
def Dense.statLines (d : Dense) (p : Problem) : List (Nat × Nat) :=
  let f := fmtD d.fmtStat
  let op :=
    if d.mask ≠ 0 then
      let rows := if d.transStat then d.nCols else d.kDepth
      let cols := if d.transStat then d.kDepth else d.nCols
      let per := maskN d.mask * maskP d.mask
      (ceilDiv rows (maskP d.mask), rowBytes f (ceilDiv cols (maskP d.mask) * per))
    else if d.transStat then (d.nCols, rowBytes f d.kDepth) else (d.kDepth, rowBytes f d.nCols)
  let inS := layoutS f (scalingOf d.scaleStat) d.nCols d.kDepth
  let main := if inS then [(p.stat, ceilDiv (d.nCols * ceilDiv d.kDepth 32) 64 * 17)]
    else if op.1 = 0 then [] else [(p.stat, (op.1 - 1) * d.statStride + ceilDiv op.2 lineBytes)]
  let sc := if inS then 0 else scaleBytes (scalingOf d.scaleStat) d.nCols d.kDepth
  let scales := if d.slices ≠ 0 then [] else if sc = 0 then [] else [(p.statScale, ceilDiv sc lineBytes)]
  let m := d.masked p
  let n := ceilDiv (if d.transStat then d.nCols else d.kDepth) (maskP d.mask) * ceilDiv m.cols (maskP d.mask)
  let planes := if d.mask = 0 then [] else
    [(d.maskAddr, 2 * ceilDiv (n * (if d.mask = 1 then 3 else 16)) lineBytes)]
  main ++ scales ++ planes

/-! ### PRODUCT and GROUPED -/

/-- The ring successor of a core (R183), none when no transfer goes to it: the pair of a ROTATE and a RING_RECV is fixed
from PROGRAM_LOAD, and one whose receiving stream runs on a successor core is served from the home copy (R184), so that the
ring passes over a fenced member (R19; DEDUCED, notes/assumptions/104). -/
def Dev.ringNext (s : Dev) (h : HoldId) (c : CoreId) : Option CoreId :=
  match (s.holding h).groups.find? fun g => g.ring && g.cores.contains c.val with
  | none => none
  | some g =>
    let n := g.cores.length
    let i := (g.cores.findIdx? (· == c.val)).getD 0
    let x := Fin.ofNat 256 (nthD g.cores ((i + 1) % n) 0)
    if s.inGroups x then some x else none

/-- Passes stationary lines to the ring successor (R183): the sender retains them until the last has left; a transfer
whose receiver fetches from home is not sent (R184). -/
def Dev.rotateSend (s : Dev) (h : HoldId) (c : CoreId) (e : WEntry) (spans : List (Nat × Nat)) : Dev :=
  let me := s.core c
  let ls := (spans.flatMap fun q => (List.range q.2).map fun i => q.1 + i).eraseDups
  let k := Tab.get 0 me.sent 64
  let t : Transfer :=
    { ring := true, group := 64, number := k, sender := c, rows := 1, rowLines := ls.length, osAddr := 0, osStride := 0
      lines := ls.map fun l => (l, me.osRead (l * lineBytes) lineBytes), delivered := 0, entries := [], whole := true }
  if e.stream = 1 || e.replay then s
  else
    let s1 := s.modCore c fun x => { x with sent := Tab.set 0 x.sent 64 (k + 1) }
    match s.ringNext h c with
    | none => s1
    | some n =>
      if k < Tab.get 0 (s.core n).received 64 then s1
      else
        (s1.modCore c fun x => { x with retained := x.retained ++ spans.map fun p => (k, p) }).modCore n fun x =>
          { x with inbox := x.inbox ++ [t] }

/-- Whether tiles already hold what the descriptor would continue (R88). -/
def Dense.tagBad (d : Dense) (c : Core) (places : List TilePlace) : Bool :=
  !d.accInit && places.any fun q =>
    match q with
    | .name n => c.tileExact (c.tileOf n) != (d.slices != 0)
    | _ => false

/-- The valid depth of a descriptor and the valid rows of a PRODUCT (R76, R199). -/
def Dense.validDepth (d : Dense) (e : WEntry) : Nat := validCount d.kDepth d.kOff (e.len d.kLreg)
def Dense.validRows (d : Dense) (e : WEntry) : Nat :=
  match e.tileShift d.mRows with
  | none => 0
  | some sh => validCount d.mRows (d.mOff + sh) (e.len d.mLreg)

/-- A dense PRODUCT on its Plough. -/
def productBody (c : CoreId) (a : Agent) (e : WEntry) (r : Run) : Option Run :=
  let d := denseOf e.desc
  let F := formF d.form
  let kv := d.validDepth e
  let rows := d.validRows e
  let need := if F = 128 then ceilDiv d.mRows 128 else 1
  let places := (List.range (if d.slices = 0 then need else 4 * need)).map fun i => TilePlace.name (d.accTile + i)
  let p : Problem :=
    { move := d.moveAddr, stat := d.statAddr, moveScale := d.moveScale, statScale := d.statScale, out := d.outAddr
      rows := rows, nominal := d.mRows, places := places }
  let core := r.dev.core c
  let bad := d.tagBad core places
  let broken := if rows ≠ 0 ∧ kv ≠ 0 then d.badPatches p core.osByte kv else []
  let res :=
    if d.slices = 0 then
      let x := d.commitProblem p kv (broken ≠ []) bad core
      let y := d.outProblem p x.1
      (y.1, { x.2.add y.2 with maskBad := broken.length })
    else d.runSlices p kv bad r.dev.free core
  let used := if d.slices = 0 then 0 else d.workspace
  let r1 : Run := { r with dev := { r.dev.setCore c res.1 with free := r.dev.free + used } }
  let r2 : Run := if bad then { r1 with dev := r1.dev.runFault c (some a.holding) e.index .formatFault } else r1
  let skip := (need - ceilDiv rows F) + (ceilDiv d.kDepth 128 - ceilDiv kv 128)
  let r3 := r2.plough c a.holding d kv [p] res.2 skip
  if d.rotate then some { r3 with dev := r3.dev.rotateSend a.holding c e (d.statLines p) } else some r3

/-- An entry of a group table (R204). -/
structure GroupEntry where
  reserved : Bool
  rows : Nat
  countSrc : Bool
  countWord : Nat
  countLine : Nat
  statScale : Nat
  moveScale : Nat
  out : Nat
  stat : Nat
  move : Nat
  poison : Bool
  deriving DecidableEq, Repr

/-- Entry i of the group table. One that reads poisoned serves as addresses and counts by its bits, and everything that its
problem computes or writes is poisoned (R396; DEDUCED, notes/assumptions/143). -/
def Core.groupEntry (c : Core) (line i : Nat) : GroupEntry :=
  let e := joinBytes (c.osRead (line * lineBytes + 32 * i) 32)
  let w : Word512 := BitVec.ofNat 512 e.bits
  { reserved := fld w 255 131 ≠ 0, rows := fld w 130 107, countSrc := bit w 106, countWord := fld w 105 102
    countLine := fld w 101 85, statScale := fld w 84 68, moveScale := fld w 67 51, out := fld w 50 34
    stat := fld w 33 17, move := fld w 16 0, poison := e.poison }

/-- The rows of a problem as read at the start: its valid rows, whether its count was poisoned, and clamped (R205). -/
def Core.problemRows (c : Core) (g : GroupEntry) : Nat × Bool × Bool :=
  if g.reserved then (0, false, false)
  else if !g.countSrc then (g.rows, false, false)
  else
    let w := joinBytes (c.osRead (g.countLine * lineBytes + 4 * g.countWord) 4)
    if w.poison then (0, true, false) else (min g.rows (min w.bits lenMax), false, decide (lenMax < w.bits))

/-- Tile places in group-table order: names from ACC_TILE to 15, then spill slots, then nowhere (R108, R110). -/
def tilePlace (first base lines n : Nat) : TilePlace :=
  if first + n < 16 then .name (first + n)
  else
    let k := first + n - 16
    if k < lines / 1024 then .spill ((base + k * 1024) * lineBytes) else .none

/-- What a GROUPED product has done so far: its run, its counts, its problems with the element that poisons their rows
(a poisoned row count), and the tiles assigned. -/
structure GroupedRun where
  run : Run
  tallies : Tallies := {}
  probs : List (Problem × Bool) := []
  tiles : Nat := 0
  deriving DecidableEq, Repr

/-- The commits of one problem in group-table order (R108): its tiles are assigned, computed and stay live; each tile whose
turn finds no slot records ACC_CAPACITY (R110). -/
def Dense.groupStep (d : Dense) (c : CoreId) (a : Agent) (e : WEntry) (kv base lines : Nat) (broken : Bool) (st : GroupedRun)
    (entry : GroupEntry × Nat × Bool × Bool) : GroupedRun :=
  let F := formF d.form
  let dev0 := st.run.dev
  let g := entry.1
  let q := entry.2
  let n := ceilDiv q.1 F
  let places := (List.range n).map fun i => tilePlace d.accTile base lines (st.tiles + i)
  let p : Problem :=
    { move := g.move, stat := g.stat, moveScale := g.moveScale, statScale := g.statScale, out := g.out
      rows := if q.2.1 then g.rows else q.1, nominal := g.rows, places := places }
  let fault := fun (s : Dev) (k : Status) => s.runFault c (some a.holding) e.index k
  let dev1 := if g.reserved then fault dev0 .badParameter else dev0
  let dev2 := if q.2.2 then dev1.count (some a.holding) (seqReg c 0x28) 1 else dev1
  if q.2.1 then
    { st with run := { st.run with dev := fault dev2 .poisoned }, tallies := { st.tallies with used := true }
              probs := st.probs ++ [(p, true)] }
  else
    let me := dev2.core c
    let bad := d.tagBad me places
    let res := d.commitProblem p kv broken (bad || g.poison) me
    let dev3 := dev2.setCore c res.1
    let dev4 := if bad then fault dev3 .formatFault else dev3
    let dev5 := (places.filter (· == .none)).foldl (fun s _ => fault s .accCapacity) dev4
    { run := { st.run with dev := dev5 }, tallies := st.tallies.add { res.2 with used := res.2.used || g.poison }
      probs := st.probs ++ [(p, false)]
      tiles := st.tiles + n }

/-- The OUT action of one problem of a GROUPED product (R77, R108); rows whose count was poisoned are written poisoned
(R205). -/
def Dense.groupOut (d : Dense) (c : CoreId) (st : Run × Tallies) (q : Problem × Bool) : Run × Tallies :=
  let f := fmtD d.fmtOut
  if q.2 then
    let lost := fun (x : Core) => (List.range q.1.rows).foldl (fun (x : Core) i =>
      x.osWrite (q.1.out * lineBytes + i * rowBytes f d.nCols) (packRow f (List.replicate d.nCols ⟨0, true⟩))) x
    (if d.out = 1 || d.out = 2 then st.1.modCore c lost else st.1, st.2)
  else
    let res := d.outProblem q.1 (st.1.dev.core c)
    ({ st.1 with dev := st.1.dev.setCore c res.1 }, st.2.add res.2)

/-- A GROUPED product on its Plough (R204, R205): the commits of every problem, then every OUT action (R77). With ROTATE the
stationary lines of its problems leave in group-table order (R183). -/
def groupedBody (c : CoreId) (a : Agent) (e : WEntry) (r : Run) : Option Run :=
  let d := denseOf e.desc
  let kv := d.validDepth e
  let core := r.dev.core c
  let base := (r.dev.reg (seqReg c 8)).toNat
  let lines := (r.dev.reg (seqReg c 0xC)).toNat
  let entries := (List.range d.groupCount).map fun i =>
    (core.groupEntry d.groupTable i, core.problemRows (core.groupEntry d.groupTable i))
  let runs := decide (kv ≠ 0) && entries.any fun g => !g.2.2.1 && g.2.1 != 0
  let broken := if runs then d.badPatches ⟨0, 0, 0, 0, 0, 0, 0, []⟩ core.osByte kv else []
  let st := entries.foldl (d.groupStep c a e kv base lines (broken ≠ [])) { run := r }
  let out := st.probs.foldl (d.groupOut c) (st.run, { st.tallies with maskBad := broken.length })
  let ran := (st.probs.filter fun q => !q.2).map (·.1)
  let skip := (ran.map fun p => if p.rows = 0 then 1 else ceilDiv p.nominal (formF d.form) - ceilDiv p.rows (formF d.form)).foldl
    (· + ·) 0 + (st.probs.filter (·.2)).length + (ceilDiv d.kDepth 128 - ceilDiv kv 128)
  let r1 := out.1.plough c a.holding d kv ran out.2 skip
  if d.rotate then
    some { r1 with dev := r1.dev.rotateSend a.holding c e (st.probs.flatMap fun q => d.statLines q.1) }
  else some r1

/-- Whether a started dense descriptor has a pass to commit: one without a valid row or depth runs none (R76, R106). -/
def Core.passLeft (c : Core) (e : WEntry) : Bool :=
  let d := denseOf e.desc
  decide (d.validDepth e ≠ 0) &&
    if opcodeOf e.desc = 0 then decide (d.validRows e ≠ 0)
    else (List.range d.groupCount).any fun i =>
      let q := c.problemRows (c.groupEntry d.groupTable i)
      !q.2.1 && q.1 != 0

/-- What a core's own work may change: cores, registers, counters and their totals, holdings, free values. -/
def Dev.coreScope (s r : Dev) : Dev :=
  { s with cores := r.cores, regs := r.regs, ctrs := r.ctrs, shadow := r.shadow, holdings := r.holdings, free := r.free }

/-- The answer of a command that goes on in a device. -/
def done (s : State) (d : Dev) : Host.Outcome State Fault Refusal := .next { s with dev := d }

/-- The same of a command that a unit beyond the keeper carries out: nothing happens while its clock stands. -/
def work (s : State) (d : Dev) : Host.Outcome State Fault Refusal := .next { s with dev := if s.dev.clocked then d else s.dev }

/-- A command that the memory controllers serve, and one of the Drill and Tally blocks: nothing happens where the power state
stops them (R482). -/
def memWork (s : State) (d : Dev) : Host.Outcome State Fault Refusal := .next { s with dev := if s.dev.memoryUp then d else s.dev }
def drillWork (s : State) (d : Dev) : Host.Outcome State Fault Refusal := .next { s with dev := if s.dev.drillUp then d else s.dev }

/-- PRODUCT (R56). -/
def execProduct (c : CoreId) (s : State) : Host.Outcome State Fault Refusal :=
  done s (s.dev.coreScope (s.dev.runUnit c 1 [0] (productBody c)))

/-- GROUPED (R204). -/
def execGrouped (c : CoreId) (s : State) : Host.Outcome State Fault Refusal :=
  done s (s.dev.coreScope (s.dev.runUnit c 1 [1] (groupedBody c)))

end Sys2Proof.Machine
end

