-- ==== Sys2Proof/Machine/Series.lean ====
section
/-! DEFINITION. The values of the functions of R121 as exact numbers, near enough for the bounds of R113 to be
judged: fixed-point series with 320 fraction bits, and the results of a format that lie within a bound. -/

namespace Sys2Proof

open Machine

/-! ### Fixed point with 320 fraction bits -/

/-- One in fixed point. -/
def fixOne : Int := 2 ^ 320

/-- The product of two fixed-point numbers. -/
def fixMul (a b : Int) : Int := a * b / fixOne

/-- The quotient of two fixed-point numbers. -/
def fixDiv (a b : Int) : Int := a * fixOne / b

/-- A finite value in fixed point, rounded towards minus infinity. -/
def fixOf (v : Val) : Int := v.unitsFloor (-320)

/-- A fixed-point number times 2^k as a value. -/
def ofFix (z k : Int) : Val := Val.ofInt z (k - 320)

/-- The sum of n terms of a series: each term from the one before by a step, and a divisor for what is added. -/
def seriesSum (step : Nat → Int → Int) (part : Nat → Int → Int) : Nat → Nat → Int → Int → Int
  | 0, _, _, acc => acc
  | n + 1, i, t, acc => seriesSum step part n (i + 1) (step i t) (acc + part i t)

/-- The inverse hyperbolic tangent of a number of magnitude at most 1/3. -/
def fixAtanh (t : Int) : Int :=
  let q := fixMul t t
  seriesSum (fun _ u => fixMul u q) (fun i u => u / (2 * (i : Int) + 1)) 110 0 t 0

/-- The natural logarithm of 2. -/
def fixLn2 : Int := 2 * fixAtanh (fixOne / 3)

/-- The inverse tangent of 1/k. -/
def fixAtanInv (k : Int) : Int :=
  seriesSum (fun _ u => -(u / (k * k))) (fun i u => u / (2 * (i : Int) + 1)) 150 0 (fixOne / k) 0

/-- π, by Machin's formula. -/
def fixPi : Int := 4 * (4 * fixAtanInv 5 - fixAtanInv 239)

/-- The square root of a fixed-point number that is not negative. -/
def fixSqrt (z : Int) : Int := (isqrt (z.toNat * 2 ^ 320) : Int)

/-- e^x of a fixed-point number, as a fixed-point number and a power of two. -/
def fixExp (x : Int) : Int × Int :=
  let n := (2 * x + fixLn2) / (2 * fixLn2)
  let r := x - n * fixLn2
  (seriesSum (fun i u => fixMul u r / ((i : Int) + 1)) (fun _ u => u) 80 0 fixOne 0, n)

/-! ### The functions on finite values -/

/-- Whether a magnitude is below 2^k. -/
def Val.below (x : Val) (k : Int) : Bool := x.abs.lt (.fin false 1 k)

/-- The quotient of positive finite values with 300 bits. -/
def wideQuot (x y : Val) : Val :=
  match x, y with
  | .fin n1 m1 e1, .fin n2 m2 e2 =>
    let k := 300 + Nat.log2 m2
    .fin (n1 != n2) ((m1 <<< k) / m2) (e1 - e2 - (k : Int))
  | _, _ => x.div y

/-- e^x; a power of two far outside every format stands for what lies beyond ±2,048. -/
def expVal (x : Val) : Val :=
  if x.below 11 then
    let r := fixExp (fixOf x)
    ofFix r.1 r.2
  else .fin false 1 (if x.neg? then -2900 else 2900)

def oneVal : Val := .fin false 1 0

/-- The natural logarithm of a positive value. -/
def logVal (x : Val) : Val :=
  match x with
  | .fin _ m e =>
    let l := Nat.log2 m
    let z := fixOf (.fin false m (-(l : Int)))
    ofFix (((l : Int) + e) * fixLn2 + 2 * fixAtanh (fixDiv (z - fixOne) (z + fixOne))) 0
  | _ => x

/-- The hyperbolic tangent. -/
def tanhVal (x : Val) : Val :=
  if x.below (-120) then x
  else
    let e := expVal (Val.mul (.fin true 2 0) x.abs)
    let t := wideQuot (oneVal.add e.negate) (oneVal.add e)
    if x.neg? then t.negate else t

/-- 1 ÷ (1 + e^−x). -/
def sigmoidVal (x : Val) : Val :=
  if x.neg? then let e := expVal x; wideQuot e (oneVal.add e)
  else wideQuot oneVal (oneVal.add (expVal x.negate))

/-- The error function's series for a magnitude up to 4. -/
def fixErf (z : Int) : Int :=
  let q := fixMul z z
  let s := seriesSum (fun i u => -(fixMul u q / ((i : Int) + 1))) (fun i u => u / (2 * (i : Int) + 1)) 190 0 z 0
  2 * fixDiv s (fixSqrt fixPi)

/-- The continued fraction of the complementary error function from its n-th partial denominator outwards. -/
def erfcTail (z : Int) : Nat → Int → Int
  | 0, t => t
  | n + 1, t => erfcTail z n (z + fixDiv (((n : Int) + 1) * fixOne / 2) t)

/-- The standard normal distribution function: the error function within a magnitude of 4 of its argument over √2, the
continued fraction beyond it. -/
def phiVal (x : Val) : Val :=
  let z := fixDiv (fixOf x.abs) (fixSqrt (2 * fixOne))
  if z < 4 * fixOne then
    let h := fixErf z / 2
    ofFix (if x.neg? then fixOne / 2 - h else fixOne / 2 + h) 0
  else
    let e := fixExp (-(fixMul z z))
    let t := wideQuot (ofFix (fixDiv e.1 (2 * fixSqrt fixPi)) e.2) (ofFix (erfcTail z 400 z) 0)
    if x.neg? then t else oneVal.add t.negate

/-- GELU with the error function, x × Φ(x). -/
def geluErfVal (x : Val) : Val :=
  if x.below 6 then x.mul (phiVal x) else if x.neg? then .fin true 1 (-2900) else x

/-- GELU in its tanh form: 0.5 x (1 + tanh(√(2 ÷ π) (x + 0.044715 x³))). PRESUMED: the constants are the
customary ones of that form (notes/assumptions/6). -/
def geluTanhVal (x : Val) : Val :=
  if x.below 6 then
    let c : Val := wideQuot (.fin false 44715 0) (.fin false 1000000 0)
    let u := x.add ((x.mul (x.mul x)).mul c)
    let w := (ofFix (2 * fixSqrt (fixDiv (2 * fixOne) fixPi)) 0).mul u
    x.mul (sigmoidVal w)
  else if x.neg? then .fin true 1 (-2900) else x

/-- x × sigmoid(x). -/
def siluVal (x : Val) : Val := if x.isZero then x else x.mul (sigmoidVal x)

/-- The value of a FUNC operation of R121 at an input where the function has a real value; none elsewhere. At an
infinite input the function's limit, where it is no indeterminate product. DEDUCED (notes/assumptions/6). -/
def funcVal (n : Nat) (x : Val) : Option Val :=
  match x with
  | .nan a => some (.nan a)
  | .inf neg =>
    match n with
    | 0 => some (if neg then Val.zero else .inf false)
    | 2 => some (if neg then oneVal.negate else oneVal)
    | 3 => some (if neg then Val.zero else oneVal)
    | 9 => some (.fin neg 0 0)
    | 1 => if neg then none else some (.inf false)
    | 10 => if neg then none else some Val.zero
    | _ => if neg then none else some (.inf false)
  | .fin neg m _ =>
    match n with
    | 0 => some (expVal x)
    | 1 => if neg || m == 0 then none else some (logVal x)
    | 2 => some (if m = 0 then x else tanhVal x)
    | 3 => some (sigmoidVal x)
    | 6 => some (if m = 0 then x else geluErfVal x)
    | 7 => some (if m = 0 then x else geluTanhVal x)
    | 8 => some (siluVal x)
    | 9 => if m = 0 then none else some (wideQuot oneVal x)
    | 10 => if neg || m == 0 then none
      else some (wideQuot oneVal x.sqrt)
    | _ => none

/-! ### The results a bound leaves (R113) -/

/-- The largest error of a FUNC result, in units in the last place (R113). -/
def funcUlps (f : Fmt) (n : Nat) : Nat :=
  if f = .fp64 then 1 else if [2, 3, 6, 7, 8].contains n then 2 else 1

/-- One unit in the last place of a format at a value. -/
def ulpAt (f : Fmt) (v : Val) : Val :=
  let q := v.floorLog2 - ((fmtSig f : Int) - 1)
  .fin false 1 (if v.isZero || decide (q ≤ fmtQmin f) then fmtQmin f else q)

/-- The encoding j steps above the magnitude b of a sign, through zero to the other sign. -/
def stepBits (f : Fmt) (neg : Bool) (b : Nat) (j : Int) : Nat :=
  let k := (b : Int) + j
  if k < 0 then withSign f (!neg) k.natAbs else withSign f neg k.natAbs

/-- The finite encodings of a format within a number of units in the last place of a value, the nearest first. -/
def within (f : Fmt) (ulps : Nat) (v : Val) : List Nat :=
  let b := roundBits (fmtSig f) (fmtQmin f) (match v with | .fin _ m _ => m | _ => 0)
    (match v with | .fin _ _ e => e | _ => 0)
  let lim := (ulpAt f v).mul (.fin false ulps 0)
  ([0, -1, 1, -2, 2] : List Int).filterMap fun j =>
    let c := stepBits f v.neg? b j
    if decide (((b : Int) + j).natAbs ≤ fmtMaxBits f) && !lim.lt ((decode f c).add v.negate).abs then some c else none

/-- A FUNC result in a working format from the function's value: the infinities, NaN and saturation of R24 and R40,
else one of the encodings within the bound of R113, by a choice that nothing constrains. -/
def boundedResult (f : Fmt) (ulps pick : Nat) (v : Val) : Val × Bool :=
  let r := convert f v
  if !v.isFinite || r.sat then (decode f r.bits, r.sat)
  else
    let cs := within f ulps v
    (decode f (cs.getD (pick % Nat.max cs.length 1) r.bits), false)

/-! ### The derivatives of the tables of R118 -/

/-- The true derivative of GELU_ERF, GELU_TANH or SILU (by its FUNC number) at an input of magnitude below 64. -/
def derivVal (n : Nat) (x : Val) : Val :=
  if n = 6 then
    let z := fixOf x
    let e := fixExp (-(fixMul z z) / 2)
    (phiVal x).add (x.mul (ofFix (fixDiv e.1 (fixSqrt (2 * fixPi))) e.2))
  else if n = 7 then
    let c : Val := wideQuot (.fin false 44715 0) (.fin false 1000000 0)
    let k := ofFix (2 * fixSqrt (fixDiv (2 * fixOne) fixPi)) 0
    let x2 := (x.mul x).mul c
    let s := sigmoidVal (k.mul (x.mul (oneVal.add x2)))
    let w := k.mul (oneVal.add (x2.mul (.fin false 3 0)))
    s.add ((x.mul w).mul (s.mul (oneVal.add s.negate)))
  else
    let s := sigmoidVal x
    s.add (x.mul (s.mul (oneVal.add s.negate)))

/-- GELU_ERF, GELU_TANH or SILU at a finite input. -/
def branchVal (n : Nat) (x : Val) : Val := (funcVal n x).getD x

/-- Halving an interval of fixed-point inputs a number of times: the end on which a test holds moves up. -/
def bisect (below : Val → Bool) : Nat → Int → Int → Int
  | 0, lo, _ => lo
  | k + 1, lo, hi =>
    let mid := (lo + hi) / 2
    if below (ofFix mid 0) then bisect below k mid hi else bisect below k lo mid

/-- The input at which a function of R118 has its least output. -/
def leastPoint (n : Nat) : Val :=
  ofFix (bisect (fun x => (derivVal n x).lt Val.zero) 80 (-2 * fixOne) (-fixOne / 2)) 0

/-- The least outputs of GELU_ERF, GELU_TANH and SILU, to far more bits than FP32 has. -/
def leastGeluErf : Val := branchVal 6 (leastPoint 6)
def leastGeluTanh : Val := branchVal 7 (leastPoint 7)
def leastSilu : Val := branchVal 8 (leastPoint 8)
def leastOutput (n : Nat) : Val := if n = 6 then leastGeluErf else if n = 7 then leastGeluTanh else leastSilu

/-- The input that an output y and the branch mask resolve (R118): right of the minimum, or left of it for a negative y
whose mask bit is set. -/
def resolveInput (n : Nat) (y : Val) (mask : Bool) : Val :=
  let turn := fixOf (leastPoint n)
  if y.lt Val.zero && mask then ofFix (bisect (fun x => y.lt (branchVal n x)) 80 (-64 * fixOne) turn) 0
  else ofFix (bisect (fun x => (branchVal n x).lt y) 80 turn (64 * fixOne)) 0

/-- The true derivative at the input that y resolves; 0 at the minimum and 1 far to the right. -/
def trueDeriv (n : Nat) (y : Val) (mask : Bool) : Val :=
  if y.lt (leastOutput n) then Val.zero
  else if y.below 5 then derivVal n (resolveInput n y mask) else oneVal

/-- A table entry's value and slope held to the bound of R118: an entry whose value at the fraction f is further than
2^-16 from the true derivative d stands for no table that the spec allows, and d takes its place. -/
def boundedEntry (d f : Val) (e : Val × Val) : Val × Val :=
  let v := (e.2.mul f).add e.1
  if v.isFinite && !(Val.fin false 1 (-16)).lt (v.add d.negate).abs then e else (f32 (toF32 d), Val.zero)

end Sys2Proof
end

