-- ==== Sys2Proof/Machine/Vector.lean ====
section
/-! DEFINITION. The vector unit (R111 to R122): operands in the four spaces, element operations, functions and
derivatives, SOFTMAX, reductions, WINNOW, CAST and the length registers, in normal mode and in Lanzate 3 emulation
(R45, R47 to R49). -/

namespace Sys2Proof.Machine

open Sys2Proof

/-! ### The descriptor (R119) -/

/-- One operand of a vector descriptor. -/
structure VOp where
  space : Nat
  addr : Nat
  stride : Nat
  fmt : Nat
  bcast : Nat
  deriving DecidableEq, Repr

structure Vec where
  tally : Nat
  imm : Nat
  axis : Bool
  lregDst : Nat
  tableAddr : Nat
  maskAddr : Nat
  scaleAddr : Nat
  scaleRule : Nat
  scaleMode : Nat
  nOff : Nat
  mOff : Nat
  nLreg : Nat
  mLreg : Nat
  cols : Nat
  rows : Nat
  a : VOp
  b : VOp
  c : VOp
  out : VOp
  maskWr : Bool
  emu : Bool
  func : Nat
  opcode : Nat
  deriving DecidableEq, Repr

/-- The fields of a vector descriptor (R119). -/
def vecOf (d : Word512) : Vec :=
  { tally := fld d 375 368, imm := fld d 367 336, axis := bit d 329, lregDst := fld d 328 325
    tableAddr := fld d 324 308, maskAddr := fld d 307 291, scaleAddr := fld d 290 274, scaleRule := fld d 273 272
    scaleMode := fld d 271 270, nOff := fld d 265 242, mOff := fld d 241 218, nLreg := fld d 217 214
    mLreg := fld d 213 210, cols := fld d 209 193, rows := fld d 192 180
    a := ⟨fld d 41 40, fld d 64 48, fld d 131 116, fld d 27 24, 0⟩
    b := ⟨fld d 43 42, fld d 81 65, fld d 147 132, fld d 31 28, fld d 267 266⟩
    c := ⟨fld d 45 44, fld d 98 82, fld d 163 148, fld d 35 32, fld d 269 268⟩
    out := ⟨fld d 47 46, fld d 115 99, fld d 179 164, fld d 39 36, 0⟩
    maskWr := bit d 21, emu := bit d 20, func := fld d 19 16, opcode := fld d 15 8 }

/-- The operands that an opcode uses (R120). LEN_LOAD reads a line at ADDR_A and no operand, so that SPACE_A and FMT_A are
ignored with it (DESIGN CHOICE, notes/assumptions/138). -/
def Vec.used (v : Vec) : List VOp :=
  match v.opcode with
  | 0x00 | 0x05 => [v.a, v.b, v.c]
  | 0x01 | 0x02 | 0x03 | 0x04 | 0x06 | 0x11 | 0x13 => [v.a, v.b]
  | 0x40 | 0x41 => []
  | _ => [v.a]

/-- The working format of functions, derivatives and reductions (R113): FP64 when the output or any operand is. -/
def Vec.work (v : Vec) : Fmt :=
  if v.out.fmt = 0 || v.used.any (fun o => o.space != 3 && o.fmt == 0) then .fp64 else .fp32

/-- Rows and columns of an operand's own tensor under its broadcast (R119; notes/assumptions/12). -/
def VOp.shape (o : VOp) (rows cols : Nat) : Nat × Nat :=
  (if o.bcast = 2 ∨ o.bcast = 3 then 1 else rows, if o.bcast = 1 ∨ o.bcast = 3 then 1 else cols)

/-- Element (r, k) of an operand (R111). -/
def VOp.elem (o : VOp) (c : Core) (imm cols r k : Nat) : PElem :=
  let r1 := if o.bcast = 2 ∨ o.bcast = 3 then 0 else r
  let k1 := if o.bcast = 1 ∨ o.bcast = 3 then 0 else k
  let n := r1 * (o.shape 1 cols).2 + k1
  match o.space with
  | 0 => elemAt c.osByte ((o.addr + r1 * o.stride) * lineBytes) (fmtD o.fmt) k1
  | 1 => let w := c.nameWord (o.addr % 16) n; ⟨w.val.toNat, w.poison⟩
  | 2 => elemAt c.vregByte (o.addr % 128 * 2048) (fmtD o.fmt) n
  | _ => ⟨imm, false⟩

/-- The format in which an operand is stored. -/
def VOp.stored (o : VOp) : Fmt := if o.space = 3 ∨ o.space = 1 then .fp32 else fmtD o.fmt

/-- The value of an element of an operand, flushed in emulation (R47, R113). -/
def Vec.val (v : Vec) (c : Core) (o : VOp) (r k : Nat) : PVal :=
  let e := o.elem c v.imm v.cols r k
  ⟨decodeMode v.emu o.stored e.bits, e.poison⟩

/-- Whether a source names a tile that holds exact slots (R88). -/
def Vec.namesExact (v : Vec) (c : Core) : Bool :=
  v.used.any fun o =>
    o.space == 1 &&
      (let s := o.shape v.rows v.cols
       (List.range (ceilDiv (s.1 * s.2) tileWords)).any fun i => c.tileExact (c.tileOf (o.addr % 16 + i)))

/-! ### Rounding -/

/-- A result of an output element: its encoding in FMT_OUT, its poison and what it counts under FMT_OUT (R40, R43). -/
structure VElem where
  bits : Nat
  poison : Bool
  sat : Nat
  nonfin : Bool
  /-- saturations of its roundings in the working format, which are filed under that one -/
  inner : Nat := 0
  deriving DecidableEq, Repr

def poisonedElem : VElem := { bits := 0, poison := true, sat := 0, nonfin := false }

/-- A value rounded to a format, with its saturation count. -/
def rnd (emu : Bool) (f : Fmt) (v : Val) : Val × Nat :=
  let r := convertMode emu f v
  (decode f r.bits, r.sat.toNat)

def Vec.fo (v : Vec) : Fmt := fmtD v.out.fmt

/-- The one rounding of a formed value to FMT_OUT (R113), with the saturations of the roundings that formed it. -/
def Vec.toOut (v : Vec) (x : Val × Nat) : VElem :=
  let r := convertMode v.emu v.fo x.1
  { bits := r.bits, poison := false, sat := r.sat.toNat, nonfin := r.nonfin, inner := x.2 }

/-- A multiply-add in a format: fused, or rounded twice in emulation (R42, R47). -/
def fmaIn (emu : Bool) (f : Fmt) (a b c : Val) : Val × Nat :=
  if emu then
    let p := rnd true f (a.mul b)
    let s := rnd true f (p.1.add c)
    (s.1, p.2 + s.2)
  else rnd false f ((a.mul b).add c)

/-- A difference; a NaN keeps its sign (R24). -/
def minus (a b : Val) : Val := a.add (if b.isNan then b else b.negate)

/-! ### Element operations (R113, R120) -/

/-- FMA: in emulation the product and the sum each round to FMT_OUT, and nothing rounds again (R47, R48). -/
def Vec.fma (v : Vec) (a b c : Val) : VElem :=
  if v.emu then
    let p := convertEmu v.fo (a.mul b)
    let s := convertEmu v.fo ((decode v.fo p.bits).add c)
    { bits := s.bits, poison := false, sat := p.sat.toNat + s.sat.toNat, nonfin := (p.nonfin || s.nonfin) && !p.sat }
  else v.toOut ((a.mul b).add c, 0)
def Vec.add (v : Vec) (a b : Val) : VElem := v.toOut (a.add b, 0)
def Vec.mul (v : Vec) (a b : Val) : VElem := v.toOut (a.mul b, 0)
def Vec.max (v : Vec) (a b : Val) : VElem := v.toOut (a.maximum b, 0)
def Vec.min (v : Vec) (a b : Val) : VElem := v.toOut (a.minimum b, 0)
def Vec.div (v : Vec) (a b : Val) : VElem := v.toOut (a.div b, 0)
def Vec.sqrt (v : Vec) (a : Val) : VElem := v.toOut (a.sqrt, 0)

/-- Whether a value is greater than +0. -/
def positive (x : Val) : Bool := Val.zero.lt x

/-- EXP of a finite input whose result's rounded magnitude exceeds the format saturates (R113): the least inputs that do. -/
def expSaturates (f : Fmt) (x : Val) : Bool :=
  match x with
  | .fin _ _ _ =>
    if f = .fp64 then (decode .fp64 0x40862E42FEFA39EF).lt x else !x.lt (decode .fp32 0x42B17218)
  | _ => false

/-- The functions that emulation takes from the Lanzate 3 tables (R47). -/
def lanzate (n : Nat) : Bool := [0, 2, 3, 6, 7, 8, 10].contains n

/-- A function of the tables of R113 in a working format. -/
def tableFunc (emu : Bool) (wf : Fmt) (n : Nat) (x : Val) : Val × Nat :=
  if n = 0 && expSaturates wf x then (decode wf (fmtMaxBits wf), 1)
  else if wf = .fp64 then
    let b := toF64 x
    if emu && lanzate n then rnd emu .fp64 (f64 (Config.funcEmu64 n b))
    else match funcVal n (f64 b) with
      | some y =>
        let r := boundedResult .fp64 (funcUlps .fp64 n) (Config.funcPick64 n b) y
        ((rnd emu .fp64 r.1).1, r.2.toNat)
      | none => rnd emu .fp64 (f64 (Config.func64 n b))
  else
    let b := toF32 x
    if emu && lanzate n then rnd emu .fp32 (f32 (Config.funcEmu n b))
    else match funcVal n (f32 b) with
      | some y =>
        let r := boundedResult .fp32 (funcUlps .fp32 n) (Config.funcPick32 n b) y
        ((rnd emu .fp32 r.1).1, r.2.toNat)
      | none => rnd emu .fp32 (f32 (Config.func32 n b))

/-- FUNC (R121). -/
def Vec.evalFunc (v : Vec) (x : Val) : Val × Nat :=
  match v.func with
  | 4 => (x.maximum Val.zero, 0)
  | 5 => if positive x then (x, 0)
    else rnd v.emu v.work ((decodeMode v.emu .fp32 v.imm).mul x)
  | n => tableFunc v.emu v.work n x

/-- The minimum points of R118, as fractions of 10,000. -/
def minPoint (n : Nat) : Val :=
  let num := if n = 6 then 7518 else if n = 7 then 7524 else 12785
  stickyQuot num 10000 0 true

/-- The mask bit of an input (R118). -/
def maskBit (n : Nat) (x : Val) : Bool := x.lt (minPoint n)

/-- The entry of a derivative table: quarter q, index from y's FP32 encoding (R118). -/
def tableEntry (c : Core) (func tableAddr q : Nat) (y : Word32) : (Val × Val) × Bool :=
  let i := (y.extractLsb' 19 12).toNat
  if func = 11 then
    let base := tableAddr * lineBytes + 32768 * q + 8 * i
    let v := elemAt c.osByte base .fp32 0
    let t := elemAt c.osByte base .fp32 1
    ((decode .fp32 v.bits, decode .fp32 t.bits), v.poison || t.poison)
  else
    let e := Config.derivTable func q i
    ((f32 e.1, f32 e.2), false)

/-- What a derivative is formed to: its value with its saturations, whether a table entry was poisoned, and whether y lay
outside the function's range. -/
structure Deriv where
  val : Val
  sat : Nat := 0
  bad : Bool := false
  out : Bool := false
  deriving DecidableEq, Repr

/-- The derivative d from y (R117, R118). -/
def Vec.deriv (v : Vec) (c : Core) (y : Val) (mask : Bool) : Deriv :=
  let wf := v.work
  let one := Val.fin false 1 0
  let fused := fun (x : Val × Nat) => ({ val := x.1, sat := x.2 } : Deriv)
  match v.func with
  | 2 => fused (fmaIn v.emu wf y.negate y one)
  | 3 => fused (fmaIn v.emu wf y.negate y y)
  | 0 => { val := y }
  | 4 => { val := if positive y then one else Val.zero }
  | 5 => { val := if positive y then one else decodeMode v.emu .fp32 v.imm }
  | n =>
    if y = .inf false then { val := one }
    else
      let low := if n = 11 then f32 Config.userMinimum else leastOutput n
      let out := decide (y = .inf true) || y.lt low
      let at' := if out then low else y
      let bits : Word32 := toF32 at'
      let q := if at'.lt Val.zero then 2 + mask.toNat else 0
      let e := tableEntry c n v.tableAddr q bits
      let f := Val.fin false (bits.extractLsb' 0 19).toNat (-19)
      let t := if n = 11 || y.isNan then e.1 else boundedEntry (if out then Val.zero else trueDeriv n y mask) f e.1
      let d := fmaIn v.emu .fp32 t.2 f t.1
      { val := d.1, sat := d.2, bad := e.2, out := out }

/-! ### Reductions (R114, R137, R47) -/

/-- One addition of a reduction, with the saturations so far. -/
def addNode (emu : Bool) (f : Fmt) (x y : Val × Nat) : Val × Nat :=
  let r := rnd emu f (x.1.add y.1)
  (r.1, x.2 + y.2 + r.2)

/-- A sum in the canonical tree, or in ascending order in emulation; no element gives +0. -/
def sumOf (emu : Bool) (f : Fmt) (xs : List (Val × Nat)) : Val × Nat :=
  if emu then
    match xs with
    | [] => (Val.zero, 0)
    | x :: rest => rest.foldl (addNode true f) x
  else (treeFold (addNode false f) xs).getD (Val.zero, 0)

/-- The maximum or minimum of a list; no element gives +0. -/
def extremeOf (mx : Bool) (xs : List Val) : Val :=
  (treeFold (fun a b => if mx then a.maximum b else a.minimum b) xs).getD Val.zero

/-- A reduction over values (R120): the formed value and the saturations of its roundings. -/
def Vec.reduce (v : Vec) (xs : List Val) : Val × Nat :=
  let wf := v.work
  match v.opcode with
  | 0x21 => (extremeOf true xs, 0)
  | 0x22 => (extremeOf false xs, 0)
  | 0x23 => sumOf v.emu wf (xs.map fun x => rnd v.emu wf (x.mul x))
  | _ => sumOf v.emu wf (xs.map fun x => (x, 0))

/-! ### What a descriptor computes -/

/-- The results of a vector descriptor: output rows, branch-mask rows, and the counts beside those of its elements. -/
structure VecOut where
  rows : List (List VElem) := []
  mask : List (List PByte) := []
  /-- saturations of sums in the working format, and of y as it is decoded to FP32 (R117) -/
  inner : Nat := 0
  decoded : Nat := 0
  range : Nat := 0
  empty : Nat := 0
  used : Bool := false
  deriving DecidableEq, Repr

/-- A mask row from the bits and poisons of its valid elements (R118). -/
def maskRow (cols : Nat) (bits : List (Bool × Bool)) : List PByte :=
  (List.range (ceilDiv cols 8)).map fun i =>
    let b := (bits.drop (8 * i)).take 8
    let n := (List.range 8).foldl (fun n j => if (nthD b j (false, false)).1 then n + 2 ^ j else n) 0
    ⟨BitVec.ofNat 8 n, b.any (·.2)⟩

/-- An element operation over the valid elements: all its inputs are used. -/
def Vec.elementwise (v : Vec) (c : Core) (rows cols : Nat) (f : List Val → VElem) : VecOut :=
  let out := (List.range rows).map fun r => (List.range cols).map fun k =>
    let xs := v.used.map fun o => v.val c o r k
    if xs.any (·.poison) then poisonedElem else f (xs.map (·.val))
  { rows := out, used := out.any fun l => l.any (·.poison) }

def arg (xs : List Val) (i : Nat) : Val := nthD xs i Val.zero

def Vec.runFma (v : Vec) (c : Core) (rows cols : Nat) : VecOut :=
  v.elementwise c rows cols fun x => v.fma (arg x 0) (arg x 1) (arg x 2)
def Vec.runAdd (v : Vec) (c : Core) (rows cols : Nat) : VecOut :=
  v.elementwise c rows cols fun x => v.add (arg x 0) (arg x 1)
def Vec.runMul (v : Vec) (c : Core) (rows cols : Nat) : VecOut :=
  v.elementwise c rows cols fun x => v.mul (arg x 0) (arg x 1)
def Vec.runMax (v : Vec) (c : Core) (rows cols : Nat) : VecOut :=
  v.elementwise c rows cols fun x => v.max (arg x 0) (arg x 1)
def Vec.runMin (v : Vec) (c : Core) (rows cols : Nat) : VecOut :=
  v.elementwise c rows cols fun x => v.min (arg x 0) (arg x 1)
def Vec.runDiv (v : Vec) (c : Core) (rows cols : Nat) : VecOut :=
  v.elementwise c rows cols fun x => v.div (arg x 0) (arg x 1)
def Vec.runSqrt (v : Vec) (c : Core) (rows cols : Nat) : VecOut :=
  v.elementwise c rows cols fun x => v.sqrt (arg x 0)

/-- SELECT: B where A > +0, else C; the other operand's poison does not reach the result (R115). -/
def Vec.runSelect (v : Vec) (c : Core) (rows cols : Nat) : VecOut :=
  let out := (List.range rows).map fun r => (List.range cols).map fun k =>
    let a := v.val c v.a r k
    if a.poison then poisonedElem
    else
      let x := if positive a.val then v.val c v.b r k else v.val c v.c r k
      if x.poison then poisonedElem else v.toOut (x.val, 0)
  { rows := out, used := out.any fun l => l.any (·.poison) }

/-- FUNC, with its branch mask (R118). -/
def Vec.runFunc (v : Vec) (c : Core) (rows cols : Nat) : VecOut :=
  let o := v.elementwise c rows cols fun x => v.toOut (v.evalFunc (arg x 0))
  let mask := if v.maskWr && cols != 0 then
      (List.range rows).map fun r => maskRow v.cols ((List.range cols).map fun k =>
        let x := v.val c v.a r k
        (!x.poison && maskBit v.func x.val, x.poison))
    else []
  { o with mask := mask }

/-- DERIV (R117). -/
def Vec.runDeriv (v : Vec) (c : Core) (rows cols : Nat) : VecOut :=
  let table := [6, 7, 8, 11].contains v.func
  let els := (List.range rows).map fun r => (List.range cols).map fun k =>
    let g := v.val c v.a r k
    let y0 := v.val c v.b r k
    let z := rnd v.emu .fp32 y0.val
    let y := z.1
    let m := c.osByte (v.maskAddr * lineBytes + r * ceilDiv v.cols 8 + k / 8)
    let neg := y.lt Val.zero
    if g.poison || y0.poison || (table && neg && m.poison) then (poisonedElem, false, 0)
    else if y.isNan then (v.toOut (y, 0), false, 0)
    else
      let d := v.deriv c y (m.val.getLsbD (k % 8))
      if d.bad then (poisonedElem, d.out, z.2)
      else
        let p := rnd v.emu v.work (g.val.mul d.val)
        (v.toOut (p.1, p.2 + d.sat), d.out, z.2)
  { rows := els.map fun l => l.map (·.1), range := ((els.flatten).filter (·.2.1)).length
    decoded := (els.flatten.map (·.2.2)).foldl (· + ·) 0
    used := els.any fun l => l.any (·.1.poison) }

/-- One row of SOFTMAX (R116): its elements, the saturations of its sum, and whether it was empty. A row without a valid
element is written as +0 throughout (DEDUCED: notes/assumptions/107). -/
def Vec.softmaxRow (v : Vec) (xs : List Val) : List VElem × Nat × Bool :=
  let f := Fmt.fp32
  if xs = [] then (List.replicate v.cols (v.toOut (Val.zero, 0)), 0, true)
  else if xs.all (· == .inf true) then (xs.map fun _ => v.toOut (Val.zero, 0), 0, true)
  else if xs.any (fun x => x.isNan || x == .inf false) then
    let n := match xs.filter (·.isNan) with
      | [] => nanOf (.inf false) (.inf false)
      | x :: rest => rest.foldl nanOf x
    (xs.map fun _ => v.toOut (n, 0), 0, false)
  else
    let m := extremeOf true xs
    let es := xs.map fun x =>
      let t := rnd v.emu f (minus x m)
      let e := tableFunc v.emu f 0 t.1
      (e.1, t.2 + e.2)
    let s := sumOf v.emu f es
    (es.map fun e => v.toOut (rnd v.emu f (e.1.div s.1)), s.2, false)

def Vec.runSoftmax (v : Vec) (c : Core) (rows cols : Nat) : VecOut :=
  let rs := (List.range rows).map fun r =>
    let xs := (List.range cols).map fun k => v.val c v.a r k
    if xs.any (·.poison) then (xs.map fun _ => poisonedElem, 0, false) else v.softmaxRow (xs.map (·.val))
  { rows := rs.map (·.1), inner := (rs.map (·.2.1)).foldl (· + ·) 0, empty := (rs.filter (·.2.2)).length
    used := rs.any fun x => x.1.any (·.poison) }

/-- SOFTMAX_BWD (R117): s = Σ round(g y); y × round(g - s). -/
def Vec.runSoftmaxBwd (v : Vec) (c : Core) (rows cols : Nat) : VecOut :=
  let f := Fmt.fp32
  let rs := (List.range rows).map fun r =>
    let gs := (List.range cols).map fun k => v.val c v.a r k
    let ys := (List.range cols).map fun k => v.val c v.b r k
    if gs.any (·.poison) || ys.any (·.poison) then (gs.map fun _ => poisonedElem, 0)
    else
      let s := sumOf v.emu f ((gs.zip ys).map fun p => rnd v.emu f (p.1.val.mul p.2.val))
      ((gs.zip ys).map fun p =>
        let t := rnd v.emu f (minus p.1.val s.1)
        let q := rnd v.emu f (p.2.val.mul t.1)
        v.toOut (q.1, q.2 + t.2), s.2)
  { rows := rs.map (·.1), inner := (rs.map (·.2)).foldl (· + ·) 0, used := rs.any fun x => x.1.any (·.poison) }

/-- RSUM, RMAX, RMIN and RSUMSQ along AXIS (R120). -/
def Vec.runReduce (v : Vec) (c : Core) (rows cols : Nat) : VecOut :=
  if rows = 0 ∨ cols = 0 then {}
  else
    let lineOf := fun n => if v.axis then (List.range rows).map fun r => v.val c v.a r n
      else (List.range cols).map fun k => v.val c v.a n k
    let rs := (List.range (if v.axis then cols else rows)).map fun n =>
      let xs := lineOf n
      if xs.any (·.poison) then (poisonedElem, 0)
      else
        let q := v.reduce (xs.map (·.val))
        (v.toOut (q.1, 0), q.2)
    let els := rs.map (·.1)
    { rows := if v.axis then [els] else els.map fun e => [e]
      inner := (rs.map (·.2)).foldl (· + ·) 0, used := els.any (·.poison) }

/-- CAST (R39, R41): elements divided by their scales; poison is carried and not consumed (R396). -/
def Vec.runCast (v : Vec) (c : Core) (rows cols : Nat) : VecOut :=
  let m := scalingOf v.scaleMode
  { rows := (List.range rows).map fun r => (List.range cols).map fun k =>
      let x := v.val c v.a r k
      let s := scaleAt c.osByte (v.scaleAddr * lineBytes) m (scaleIndex m v.cols r k)
      if x.poison || s.poison then poisonedElem
      else
        let q := if m = .none then x.val else x.val.div s.val
        let e := if v.emu then convertEmu v.fo q else convertElem v.fo m q
        { bits := e.bits, poison := false, sat := e.sat.toNat, nonfin := e.nonfin } }

/-- The scaling groups of a WINNOW that hold a valid element: scale index and elements (R30, R34). -/
def Vec.groups (v : Vec) (rows cols : Nat) : List (Nat × List (Nat × Nat)) :=
  let row := fun r => (List.range cols).map fun k => (r, k)
  if rows = 0 ∨ cols = 0 then []
  else
    match scalingOf v.scaleMode with
    | .tensor => [(0, (List.range rows).flatMap row)]
    | .row => (List.range rows).map fun r => (r, row r)
    | .block => (List.range rows).flatMap fun r => (List.range (ceilDiv cols 32)).map fun b =>
        (r * ceilDiv v.cols 32 + b, (row r).filter fun p => p.2 / 32 == b)
    | .none => []

/-- The largest magnitude among finite values (R34). -/
def amaxOf (xs : List Val) : Val :=
  xs.foldl (fun m x => if x.isFinite then (if m.lt x.abs then x.abs else m) else m) Val.zero

/-- WINNOW (R34 to R37): the scales, each at its place. -/
def Vec.winnow (v : Vec) (c : Core) (rows cols : Nat) : Core :=
  let m := scalingOf v.scaleMode
  (v.groups rows cols).foldl (fun s g =>
    let xs := g.2.map fun p => v.val c v.a p.1 p.2
    let p := xs.any (·.poison) || v.namesExact c
    let amax := amaxOf ((xs.filter fun x => !x.poison).map (·.val))
    if m = .block then
      s.osWrite (v.scaleAddr * lineBytes + g.1) [⟨BitVec.ofNat 8 (scaleByte v.scaleRule v.fo m amax), p⟩]
    else
      s.osWrite (v.scaleAddr * lineBytes + 4 * g.1) ((leBytes 4 (scale32 v.scaleRule v.fo m amax)).map fun b => ⟨b, p⟩)) c

/-! ### Writing (R106, R111, R120) -/

/-- Writes a row of output elements, the first of a row of `width` elements. -/
def Vec.writeRow (v : Vec) (width : Nat) (c : Core) (r : Nat) (els : List VElem) : Core :=
  let pes := els.map fun e => (⟨e.bits, e.poison⟩ : PElem)
  match v.out.space with
  | 0 =>
    let base := (v.out.addr + r * v.out.stride) * lineBytes
    c.osWrite base (rowPrefix c.osByte base v.fo width pes)
  | 1 =>
    (List.range pes.length).foldl (fun c k =>
      let e := nthD pes k ⟨0, false⟩
      let n := r * width + k
      let name := c.tileOf (v.out.addr % 16 + n / tileWords)
      (c.setNameWord (v.out.addr % 16) n ⟨BitVec.ofNat 32 e.bits, e.poison⟩).tagTile name false) c
  | _ => c.vregWrite (v.out.addr % 128 * 2048 + rowBytes v.fo (r * width)) (packRow v.fo pes)

/-- Writes the output and the branch mask. -/
def Vec.write (v : Vec) (width : Nat) (c : Core) (o : VecOut) : Core :=
  let c1 := (List.range o.rows.length).foldl (fun c r => v.writeRow width c r (nthD o.rows r [])) c
  (List.range o.mask.length).foldl (fun c r =>
    c.osWrite (v.maskAddr * lineBytes + r * ceilDiv v.cols 8) (nthD o.mask r [])) c1

/-! ### Rates (R112, R38, R49) -/

/-- The column of R112 in which a format runs: FP32, FP64, or BF16 and the narrow formats. -/
def rateColumn (f : Nat) : Nat := if f = 1 then 0 else if f = 0 then 1 else 2

/-- Elements each AC cycle, by opcode and function; 0 for a combination that the unit does not perform. -/
def rateRow (opcode func : Nat) : List Nat :=
  if opcode < 6 then [512, 256, 1024]
  else if opcode < 8 then [64, 16, 64]
  else if opcode = 0x10 then (if func = 4 ∨ func = 5 then [512, 256, 1024] else [128, 16, 128])
  else if opcode = 0x11 then (if [6, 7, 8, 11].contains func then [256, 0, 256] else [512, 256, 512])
  else if opcode < 0x14 then [128, 0, 128]
  else [512, 512, 1024]

/-- The formats that set the rate: the operands in use and the output. -/
def Vec.formats (v : Vec) : List Nat :=
  let ins := (v.used.filter fun o => o.space != 3).map (·.fmt)
  if v.opcode = 0x30 then ins else ins ++ [v.out.fmt]

def Vec.rate (v : Vec) : Nat :=
  (v.formats.map fun f => nthD (rateRow v.opcode v.func) (rateColumn f) 0).foldl Nat.min 1024

/-- Issue cycles of a number of valid elements; emulation runs at one eighth of the rate (R49). -/
def Vec.cycles (v : Vec) (n : Nat) : Nat := ceilDiv (n * if v.emu then 8 else 1) (Nat.max v.rate 1)

/-! ### The unit -/

/-- Valid rows and columns (R106, R199). -/
def Vec.valid (v : Vec) (e : WEntry) : Nat × Nat :=
  (match e.tileShift v.rows with
    | none => 0
    | some sh => validCount v.rows (v.mOff + sh) (e.len v.mLreg),
   validCount v.cols v.nOff (e.len v.nLreg))

/-- Elements poisoned because a source names an exact-slot tile (R88). The branch mask of such a FUNC is no output tile: its
bits stay clean, formed from the slot words (DESIGN CHOICE, notes/assumptions/135). -/
def VecOut.poisonAll (o : VecOut) : VecOut :=
  { o with rows := o.rows.map fun l => l.map fun _ => poisonedElem, inner := 0, decoded := 0 }

/-- Row and column tiles of 128 that lie wholly beyond the valid counts (R106; notes/assumptions/108). -/
def Vec.skipped (v : Vec) (n : Nat × Nat) : Nat :=
  (ceilDiv v.rows 128 - ceilDiv n.1 128) + (ceilDiv v.cols 128 - ceilDiv n.2 128)

/-- Runs a vector descriptor whose results a function gives. -/
def vecBody (f : Vec → Core → Nat → Nat → VecOut) (c : CoreId) (a : Agent) (e : WEntry) (r : Run) : Option Run :=
  let v := vecOf e.desc
  let n := v.valid e
  let h := a.holding
  let core := r.dev.core c
  let bad := v.namesExact core
  let o0 := f v core n.1 n.2
  let o := if bad then o0.poisonAll else o0
  let width := if 0x20 ≤ v.opcode ∧ v.opcode < 0x24 ∧ !v.axis then 1 else v.cols
  let d1 := r.dev.setCore c (v.write width core o)
  let d2 := if bad then d1.runFault c (some h) e.index .formatFault else d1
  let all := o.rows.flatten
  let d3 := d2.countSat (some h) c 1 v.out.fmt (all.map (·.sat)).sum (all.filter (·.nonfin)).length
  let d4 := (d3.countSat (some h) c 1 (fmtCode v.work) (o.inner + (all.map (·.inner)).sum) 0).countSat (some h) c 1 1 o.decoded 0
  let r5 := (((({ r with dev := d4 } : Run).count h (seqReg c 0x18) (v.skipped n)).count h (seqReg c 0x30)
    (v.cycles (n.1 * n.2))).count h (seqReg c 0x38) o.range).count h (seqReg c 0x40) o.empty
  some { r5 with dev := if o.used then r5.dev.poisonUse (some h) c else r5.dev }

/-- Runs a WINNOW. -/
def winnowBody (c : CoreId) (a : Agent) (e : WEntry) (r : Run) : Option Run :=
  let v := vecOf e.desc
  let n := v.valid e
  let core := r.dev.core c
  let d1 := r.dev.setCore c (v.winnow core n.1 n.2)
  let d2 := if v.namesExact core then d1.runFault c (some a.holding) e.index .formatFault else d1
  some ((({ r with dev := d2 } : Run).count a.holding (seqReg c 0x18) (v.skipped n)).count a.holding (seqReg c 0x30)
    (v.cycles (n.1 * n.2)))

/-- LEN_SET (R104): IMM into LREG_DST, in 4 AC cycles (R112). -/
def lenSetBody (c : CoreId) (a : Agent) (e : WEntry) (r : Run) : Option Run :=
  let v := vecOf e.desc
  some (({ r with dev := r.dev.setLen (some a.holding) c v.lregDst v.imm } : Run).count a.holding (seqReg c 0x30) 4)

/-- LEN_LOAD: the word at a line; a poisoned word writes 0 and records POISONED (R120). -/
def lenLoadBody (c : CoreId) (a : Agent) (e : WEntry) (r : Run) : Option Run :=
  let v := vecOf e.desc
  let w := joinBytes ((r.dev.core c).osRead (v.a.addr * lineBytes) 4)
  let h := some a.holding
  let d1 := r.dev.setLen h c v.lregDst (if w.poison then 0 else w.bits)
  let d2 := if w.poison then (d1.runFault c h e.index .poisoned).poisonUse h c else d1
  some (({ r with dev := d2 } : Run).count a.holding (seqReg c 0x30) 4)

/-- A vector command. -/
def Dev.vector (s : Dev) (c : CoreId) (op : Nat) (f : Vec → Core → Nat → Nat → VecOut) : Dev :=
  s.coreScope (s.runUnit c 2 [op] (vecBody f c))

def execFma (c : CoreId) (s : State) : Host.Outcome State Fault Refusal := done s (s.dev.vector c 0x00 Vec.runFma)
def execAdd (c : CoreId) (s : State) : Host.Outcome State Fault Refusal := done s (s.dev.vector c 0x01 Vec.runAdd)
def execMul (c : CoreId) (s : State) : Host.Outcome State Fault Refusal := done s (s.dev.vector c 0x02 Vec.runMul)
def execMax (c : CoreId) (s : State) : Host.Outcome State Fault Refusal := done s (s.dev.vector c 0x03 Vec.runMax)
def execMin (c : CoreId) (s : State) : Host.Outcome State Fault Refusal := done s (s.dev.vector c 0x04 Vec.runMin)
def execSelect (c : CoreId) (s : State) : Host.Outcome State Fault Refusal := done s (s.dev.vector c 0x05 Vec.runSelect)
def execDiv (c : CoreId) (s : State) : Host.Outcome State Fault Refusal := done s (s.dev.vector c 0x06 Vec.runDiv)
def execSqrt (c : CoreId) (s : State) : Host.Outcome State Fault Refusal := done s (s.dev.vector c 0x07 Vec.runSqrt)
def execFunc (c : CoreId) (s : State) : Host.Outcome State Fault Refusal := done s (s.dev.vector c 0x10 Vec.runFunc)
def execDeriv (c : CoreId) (s : State) : Host.Outcome State Fault Refusal := done s (s.dev.vector c 0x11 Vec.runDeriv)
def execSoftmax (c : CoreId) (s : State) : Host.Outcome State Fault Refusal := done s (s.dev.vector c 0x12 Vec.runSoftmax)
def execSoftmaxBwd (c : CoreId) (s : State) : Host.Outcome State Fault Refusal :=
  done s (s.dev.vector c 0x13 Vec.runSoftmaxBwd)
def execRsum (c : CoreId) (s : State) : Host.Outcome State Fault Refusal := done s (s.dev.vector c 0x20 Vec.runReduce)
def execRmax (c : CoreId) (s : State) : Host.Outcome State Fault Refusal := done s (s.dev.vector c 0x21 Vec.runReduce)
def execRmin (c : CoreId) (s : State) : Host.Outcome State Fault Refusal := done s (s.dev.vector c 0x22 Vec.runReduce)
def execRsumsq (c : CoreId) (s : State) : Host.Outcome State Fault Refusal := done s (s.dev.vector c 0x23 Vec.runReduce)
def execWinnow (c : CoreId) (s : State) : Host.Outcome State Fault Refusal :=
  done s (s.dev.coreScope (s.dev.runUnit c 2 [0x30] (winnowBody c)))
def execCast (c : CoreId) (s : State) : Host.Outcome State Fault Refusal := done s (s.dev.vector c 0x31 Vec.runCast)
def execLenSet (c : CoreId) (s : State) : Host.Outcome State Fault Refusal :=
  done s (s.dev.coreScope (s.dev.runUnit c 2 [0x40] (lenSetBody c)))
def execLenLoad (c : CoreId) (s : State) : Host.Outcome State Fault Refusal :=
  done s (s.dev.coreScope (s.dev.runUnit c 2 [0x41] (lenLoadBody c)))

end Sys2Proof.Machine
end

