-- ==== Sys2Proof/Machine/Windrow.lean ====
section
/-! DEFINITION. The Windrow (R125 to R148, R562): GATHER, SCATTER_ADD, SEG_REDUCE, SPMM and MERGE, with indices and
their policies, run-length sparse operands and the fixed order of reductions. -/

namespace Sys2Proof.Machine

open Sys2Proof

/-! ### The descriptor (R144) -/

structure Wdr where
  sparseVa : Nat
  sparseMem : Bool
  tally : Nat
  tableStride : Nat
  tableAddr : Nat
  tableRows : Nat
  outLreg : Nat
  cntbLreg : Nat
  cntLreg : Nat
  off : Nat
  countB : Nat
  count : Nat
  rowElems : Nat
  outStride : Nat
  outAddr : Nat
  ckptAddr : Nat
  cntAddr : Nat
  valAddr : Nat
  idxAddr : Nat
  recVal : Nat
  keyW : Bool
  unitVal : Bool
  rls : Bool
  dstInit : Bool
  tabMem : Bool
  redOp : Nat
  oor : Nat
  idxMode : Nat
  idxW : Bool
  fmtOut : Nat
  fmtTab : Nat
  fmtVal : Nat
  opcode : Nat
  deriving DecidableEq, Repr

/-- The fields of a Windrow descriptor (R144). -/
def wdrOf (d : Word512) : Wdr :=
  { sparseVa := fld d 402 351, sparseMem := bit d 350, tally := fld d 349 342, tableStride := fld d 341 326
    tableAddr := fld d 325 274, tableRows := fld d 273 242, outLreg := fld d 241 238, cntbLreg := fld d 237 234
    cntLreg := fld d 233 230, off := fld d 229 206, countB := fld d 205 182, count := fld d 181 158
    rowElems := fld d 157 143, outStride := fld d 142 127, outAddr := fld d 126 110, ckptAddr := fld d 109 93
    cntAddr := fld d 92 76, valAddr := fld d 75 59, idxAddr := fld d 58 42, recVal := fld d 41 40, keyW := bit d 39
    unitVal := bit d 38, rls := bit d 37, dstInit := bit d 36, tabMem := bit d 35, redOp := fld d 34 33
    oor := fld d 32 31, idxMode := fld d 30 29, idxW := bit d 28, fmtOut := fld d 27 24, fmtTab := fld d 23 20
    fmtVal := fld d 19 16, opcode := fld d 15 8 }

/-- Bytes of a row of ROW_ELEMS elements in a format, and its sectors S (R125). -/
def Wdr.bytesOf (w : Wdr) (f : Nat) : Nat := rowBytes (fmtD f) w.rowElems
def Wdr.sectors (w : Wdr) : Nat := ceilDiv (w.bytesOf w.fmtTab) 32
/-- Lines of a source row, padded to whole lines (R144). -/
def Wdr.sourceLines (w : Wdr) : Nat := ceilDiv (w.bytesOf w.fmtTab) lineBytes

/-- The format of partial results (R127). -/
def Wdr.part (w : Wdr) : Fmt :=
  if w.fmtOut = 0 ∨ w.fmtTab = 0 ∨ (w.opcode = 3 ∧ !w.unitVal ∧ w.fmtVal = 0) then .fp64 else .fp32

/-- Bytes of an index, of a key and of a record. -/
def Wdr.idxBytes (w : Wdr) : Nat := if w.idxW then 8 else 4
def Wdr.keyBytes (w : Wdr) : Nat := if w.keyW then 8 else 4
def Wdr.recBytes (w : Wdr) : Nat := w.keyBytes + nthD [0, 4, 8] w.recVal 0

/-! ### A run of the Windrow -/

/-- What a Windrow descriptor has done so far. -/
structure WRun where
  run : Run
  /-- the repeat cache, most recent first (R140) -/
  cache : List (Nat × List PByte) := []
  /-- sectors of the run stream read so far, by address (R132) -/
  stream : List (Nat × List PByte) := []
  hits : Nat := 0
  reqs : Nat := 0
  zero : Nat := 0
  clamp : Nat := 0
  fault : Nat := 0
  idxPoison : Nat := 0
  formatBad : Nat := 0
  hot : Nat := 0
  unsorted : Nat := 0
  /-- indices in range or clamped, or records written (R145) -/
  counted : Nat := 0
  /-- saturations of additions and products in the partial format -/
  inner : Nat := 0
  used : Bool := false
  /-- the first operand-store byte beyond the stage's window, in which the reads that depend on counts stay (R562) -/
  limit : Nat := osLines * lineBytes
  /-- output rows to write poisoned -/
  bad : List Nat := []
  /-- memory gather requests are outstanding -/
  gathering : Bool := false
  deriving DecidableEq, Repr

def WRun.seqFault (x : WRun) (c : CoreId) (a : Agent) (e : WEntry) (st : Status) : WRun :=
  { x with run := { x.run with dev := x.run.dev.runFault c (some a.holding) e.index st } }

/-- Rows of the output tile that holds a row (R131). -/
def tileOfRow (row rows : Nat) : List Nat :=
  let lo := row / 128 * 128
  (List.range (min 128 (rows - lo))).map (lo + ·)

def WRun.poisonRows (x : WRun) (rs : List Nat) : WRun := { x with bad := x.bad ++ rs.filter fun r => !x.bad.contains r }

/-- Bytes of a sequential operand: from the operand store, or once through the stream port (R132). -/
def WRun.sequential (x : WRun) (c : CoreId) (a : Agent) (mem : Bool) (addr n : Nat) : List PByte × WRun :=
  if mem then
    let r := x.run.read a addr n
    (r.1, { x with run := r.2 })
  else ((x.run.dev.core c).osRead addr n, x)

/-- Bytes of an operand whose extent depends on the count array: it stays within the stage's window (R562). -/
def WRun.windowed (x : WRun) (c : CoreId) (addr n : Nat) : List PByte :=
  let m := min n (x.limit - addr)
  (x.run.dev.core c).osRead addr m ++ (List.range (n - m)).map fun i => ⟨Config.beyondWindow (addr + m + i), false⟩

/-- The same through the stream port where the operand lies in memory. -/
def WRun.operand (x : WRun) (c : CoreId) (a : Agent) (mem : Bool) (addr n : Nat) : List PByte × WRun :=
  if mem then x.sequential c a true addr n else (x.windowed c addr n, x)

/-- Index streams go in the LATENCY class (R225). -/
def Agent.indexing (a : Agent) : Agent := { a with cls := .latency }

/-- A run of bytes as a number with poison. -/
def bytesAt (l : List PByte) (i n : Nat) : PElem := joinBytes ((l.drop i).take n)

/-! ### Indices (R133 to R135) -/

/-- What an index selects. -/
inductive IdxSel where
  | row (j : Nat)
  | zeroRow
  /-- out of range under FAULT, with the row that CLAMP would hit -/
  | fault (j : Nat)
  | poisoned
  deriving DecidableEq, Repr

/-- The signed number of an index word. -/
def idxSigned (bytes v : Nat) : Int := if 2 ^ (8 * bytes - 1) ≤ v then (v : Int) - 2 ^ (8 * bytes) else (v : Int)

/-- The index after IDX_MODE (R133). -/
def Wdr.idxNum (w : Wdr) (v : Nat) : Int :=
  if w.idxMode = 0 then (v : Int)
  else
    let i := idxSigned w.idxBytes v
    if w.idxMode = 1 ∧ i < 0 then i + w.tableRows else i

/-- Whether an index is in range, and where CLAMP puts it (R133, R134). -/
def Wdr.idxIn (w : Wdr) (i : Int) : Bool := decide (0 ≤ i) && decide (i < w.tableRows)
def Wdr.idxClamp (w : Wdr) (i : Int) : Nat := if i < 0 then 0 else min i.toNat (w.tableRows - 1)

/-- Resolves an index, counting it (R134, R135). -/
def Wdr.index (w : Wdr) (c : CoreId) (a : Agent) (e : WEntry) (v : PElem) (x : WRun) : IdxSel × WRun :=
  if v.poison then (.poisoned, { x with idxPoison := x.idxPoison + 1, used := true })
  else
    let i := w.idxNum v.bits
    if w.idxIn i then (.row i.toNat, { x with counted := x.counted + 1 })
    else if w.oor = 0 then (.zeroRow, { x with zero := x.zero + 1 })
    else if w.oor = 1 then (.row (w.idxClamp i), { x with clamp := x.clamp + 1, counted := x.counted + 1 })
    else (.fault (w.idxClamp i), ({ x with fault := x.fault + 1 }).seqFault c a e .formatFault)

/-! ### Table rows and the repeat cache (R140) -/

/-- One sector of a memory table through the repeat cache. -/
def WRun.gatherSector (x : WRun) (a : Agent) (sec : Nat) : List PByte × WRun :=
  match x.cache.find? fun p => p.1 == sec with
  | some p => (p.2, { x with hits := x.hits + 1, cache := p :: x.cache.filter fun q => q.1 != sec })
  | none =>
    let r := x.run.read a (sec * 32) 32
    (r.1, { x with reqs := x.reqs + 1, run := r.2, cache := ((sec, r.1) :: x.cache).take 64
                   gathering := x.gathering || (r.2.wait && !x.run.wait) || r.2.need != x.run.need })

def WRun.gatherSectors (x : WRun) (a : Agent) : List Nat → List PByte × WRun
  | [] => ([], x)
  | s :: rest =>
    let y := x.gatherSector a s
    let z := y.2.gatherSectors a rest
    (y.1 ++ z.1, z.2)

/-- A row of elements from bytes. -/
def rowVals (f : Fmt) (n : Nat) (bytes : List PByte) : List PVal :=
  (List.range n).map fun i =>
    let e := bytesAt bytes (i * (fmtBits f / 8)) (fmtBits f / 8)
    ⟨decode f e.bits, e.poison⟩

/-- Table row j (R140): a poisoned memory sector poisons the whole row. -/
def Wdr.tableRow (w : Wdr) (c : CoreId) (a : Agent) (j : Nat) (x : WRun) : List PVal × WRun :=
  let n := w.bytesOf w.fmtTab
  let f := fmtD w.fmtTab
  if w.tabMem then
    let va := w.tableAddr + j * w.tableStride * 32
    let r := x.gatherSectors a (sectorsOf va n)
    let bytes := (r.1.drop (va % 32)).take n
    let p := r.1.any (·.poison)
    ((rowVals f w.rowElems bytes).map fun v => ⟨v.val, v.poison || p⟩, r.2)
  else
    (rowVals f w.rowElems ((x.run.dev.core c).osRead (w.tableAddr * lineBytes + j * w.tableStride * 32) n), x)

/-! ### Output rows -/

/-- An output row as it is written: elements with poison and their counts. -/
def Wdr.toOut (w : Wdr) (vs : List PVal) : List VElem :=
  vs.map fun v =>
    if v.poison then poisonedElem
    else let r := convert (fmtD w.fmtOut) v.val; { bits := r.bits, poison := false, sat := r.sat.toNat, nonfin := r.nonfin }

/-- Rows of the output: TABLE_ROWS for SCATTER_ADD, else COUNT. -/
def Wdr.outRows (w : Wdr) : Nat := if w.opcode = 1 then w.tableRows else w.count

/-- The first byte beyond the lines of the output: its rows of OUT_STRIDE lines from OUT_ADDR (R562). -/
def Wdr.outEnd (w : Wdr) : Nat := (w.outAddr + w.outRows * w.outStride) * lineBytes

/-- Writes an output row; what a row that is longer than OUT_STRIDE has beyond the output's lines is not written (R562). -/
def Wdr.putRow (w : Wdr) (r : Nat) (bytes : List PByte) (c : Core) : Core :=
  let at' := (w.outAddr + r * w.outStride) * lineBytes
  c.osWrite at' (bytes.take (w.outEnd - at'))

/-- Writes output rows at OUT_ADDR with OUT_STRIDE; rows of the list `bad` are poisoned throughout. -/
def Wdr.writeRows (w : Wdr) (c : CoreId) (h : HoldId) (rows : List (Nat × List VElem)) (bad : List Nat) (d : Dev) : Dev :=
  let f := fmtD w.fmtOut
  let outs := rows.map fun r => (r.1, if bad.contains r.1 then r.2.map fun _ => poisonedElem else r.2)
  let d1 := d.modCore c fun x => outs.foldl (fun x r =>
    w.putRow r.1 (packRow f (r.2.map fun e => ⟨e.bits, e.poison⟩)) x) x
  let all := outs.flatMap (·.2)
  d1.countSat (some h) c 2 w.fmtOut (all.map (·.sat)).sum (all.filter (·.nonfin)).length

/-- An output row as it stands; what lies beyond the output's lines is not read (R562, notes/assumptions/109). -/
def Wdr.oldRow (w : Wdr) (c : Core) (r : Nat) : List PVal :=
  let at' := (w.outAddr + r * w.outStride) * lineBytes
  let n := w.bytesOf w.fmtOut
  let m := min n (w.outEnd - at')
  rowVals (fmtD w.fmtOut) w.rowElems
    (c.osRead at' m ++ (List.range (n - m)).map fun i => ⟨Config.beyondWindow (at' + m + i), false⟩)

def WRun.put (x : WRun) (d : Dev) : WRun := { x with run := { x.run with dev := d } }

/-! ### GATHER (R140) -/

/-- Item i of a GATHER: its output row. -/
def Wdr.gatherItem (w : Wdr) (c : CoreId) (a : Agent) (e : WEntry) (n : Nat) (idx : List PByte)
    (st : WRun × List (Nat × List VElem)) (i : Nat) : WRun × List (Nat × List VElem) :=
  let s := w.index c a e (bytesAt idx (i * w.idxBytes) w.idxBytes) st.1
  let plain := w.toOut (List.replicate w.rowElems ⟨Val.zero, false⟩)
  match s.1 with
  | .row j =>
    let t := w.tableRow c a j s.2
    (t.2, st.2 ++ [(i, w.toOut t.1)])
  | .zeroRow => (s.2, st.2 ++ [(i, plain)])
  | .fault _ => (s.2.poisonRows (tileOfRow i n), st.2 ++ [(i, plain)])
  | .poisoned => (s.2.poisonRows [i], st.2 ++ [(i, plain)])

def Wdr.gather (w : Wdr) (c : CoreId) (a : Agent) (e : WEntry) (n : Nat) (x : WRun) : WRun :=
  let idx := x.sequential c a false (w.idxAddr * lineBytes) (n * w.idxBytes)
  let r := (List.range n).foldl (w.gatherItem c a e n idx.1) (idx.2, [])
  r.1.put (w.writeRows c a.holding r.2 r.1.bad r.1.run.dev)

/-! ### SCATTER_ADD (R141, R142) -/

/-- Element-wise addition into a destination row, one rounding each, with the saturations. -/
def addRows (f : Fmt) (dst src : List PVal) : List PVal × Nat :=
  let rs := (dst.zip src).map fun p =>
    let r := convert f (p.1.val.add p.2.val)
    (PVal.mk (decode f r.bits) (p.1.poison || p.2.poison), r.sat && !p.1.poison && !p.2.poison)
  (rs.map (·.1), (rs.filter (·.2)).length)

/-- The destination sectors that update sector s of a row meets (R141). -/
def Wdr.destSectors (w : Wdr) (j s : Nat) : List Nat :=
  let fs := fmtBits (fmtD w.fmtTab) / 8
  let fd := fmtBits (fmtD w.fmtOut) / 8
  let lo := s * 32 / fs
  let hi := min w.rowElems (ceilDiv (s * 32 + 32) fs)
  sectorsOf (j * w.outStride * lineBytes + lo * fd) ((hi - lo) * fd)

/-- Whether the destination sectors of some updates are all distinct. -/
def distinctSectors : List (List Nat) → Bool
  | [] => true
  | s :: rest => rest.all (fun t => s.all fun x => !t.contains x) && distinctSectors rest

/-- The cycles that apply one update sector of several that meet (R142). -/
def hotCycles : Nat → List (List Nat) → Nat
  | 0, _ => 0
  | _, [] => 0
  | n + 1, s :: rest =>
    let look := (s :: rest).take 16
    if distinctSectors look then hotCycles n ((s :: rest).drop 16) else 1 + hotCycles n rest

/-- Update i of a SCATTER_ADD. The destination rows are held as they change. -/
structure Scatter where
  x : WRun
  rows : Tab (Option (List PVal)) := []
  whole : Bool := false
  tiles : List Nat := []
  updates : List (List Nat) := []
  deriving DecidableEq, Repr

def Wdr.scatterItem (w : Wdr) (c : CoreId) (a : Agent) (e : WEntry) (idx : List PByte) (st : Scatter) (i : Nat) : Scatter :=
  let s := w.index c a e (bytesAt idx (i * w.idxBytes) w.idxBytes) st.x
  match s.1 with
  | .poisoned => { st with x := s.2, whole := true }
  | .zeroRow => { st with x := s.2 }
  | .fault j => { st with x := s.2, tiles := st.tiles ++ tileOfRow j w.tableRows }
  | .row j =>
    let core := s.2.run.dev.core c
    let src := rowVals (fmtD w.fmtTab) w.rowElems
      (core.osRead ((w.valAddr + i * w.sourceLines) * lineBytes) (w.bytesOf w.fmtTab))
    let dst := (Tab.get none st.rows j).getD
      (if w.dstInit then List.replicate w.rowElems ⟨Val.zero, false⟩ else w.oldRow core j)
    let r := addRows (fmtD w.fmtOut) dst src
    { st with
      x := { s.2 with inner := s.2.inner + r.2, used := s.2.used || src.any (·.poison) || dst.any (·.poison) }
      rows := Tab.set none st.rows j (some r.1)
      updates := st.updates ++ (List.range w.sectors).map (w.destSectors j) }

def Wdr.scatterAdd (w : Wdr) (c : CoreId) (a : Agent) (e : WEntry) (n : Nat) (x : WRun) : WRun :=
  let idx := x.sequential c a false (w.idxAddr * lineBytes) (n * w.idxBytes)
  let st := (List.range n).foldl (w.scatterItem c a e idx.1) { x := idx.2 }
  let core := st.x.run.dev.core c
  let touched := (List.range w.tableRows).filter fun j =>
    w.dstInit || st.whole || st.tiles.contains j || (Tab.get none st.rows j).isSome
  let f := fmtD w.fmtOut
  let d := touched.foldl (fun d j =>
    let vs := (Tab.get none st.rows j).getD
      (if w.dstInit then List.replicate w.rowElems ⟨Val.zero, false⟩ else w.oldRow core j)
    let p := st.whole || st.tiles.contains j
    d.modCore c fun k => w.putRow j (packRow f (vs.map fun v => ⟨(convert f v.val).bits, v.poison || p⟩)) k) st.x.run.dev
  ({ st.x with hot := st.x.hot + hotCycles st.updates.length st.updates }).put d

/-! ### Counts, checkpoints and run codes (R128 to R131) -/

/-- The count array: a poisoned word is 0 and poisons its tile and every later one; a count above the limit is malformed. -/
def Wdr.counts (_w : Wdr) (c : CoreId) (a : Agent) (e : WEntry) (n : Nat) (bytes : List PByte) (x : WRun) : List Nat × WRun :=
  let r := (List.range n).foldl (fun (st : List Nat × WRun) i =>
    let v := bytesAt bytes (4 * i) 4
    if v.poison then
      let y : WRun := { st.2 with idxPoison := st.2.idxPoison + 1, used := true }
      (st.1 ++ [0], (y.seqFault c a e .poisoned).poisonRows ((List.range n).filter fun q => i / 128 * 128 ≤ q))
    else if lenMax < v.bits then
      (st.1 ++ [0], ({ st.2 with formatBad := st.2.formatBad + 1 }).poisonRows (tileOfRow i n))
    else (st.1 ++ [v.bits], st.2)) ([], x)
  (r.1, r.2)

/-- The rows of all non-zeros in order. -/
def itemRows (counts : List Nat) : List Nat :=
  (List.range counts.length).flatMap fun r => List.replicate (nthD counts r 0) r

/-- cut(l) of the merge-path partition (R138). -/
def cutOf (l v : Nat) : Nat := if l = 16 then v else 64 * (l * v / 1024)

/-- One sector of a run stream in memory, read once. -/
def WRun.streamByte (x : WRun) (c : CoreId) (a : Agent) (mem : Bool) (addr : Nat) : PByte × WRun :=
  if mem then
    match x.stream.find? fun p => p.1 == addr / 32 with
    | some p => (nthD p.2 (addr % 32) ⟨0, false⟩, x)
    | none =>
      let r := x.run.read a.indexing (addr / 32 * 32) 32
      (nthD r.1 (addr % 32) ⟨0, false⟩, { x with run := r.2, stream := x.stream ++ [(addr / 32, r.1)] })
  else (nthD (x.windowed c addr 1) 0 ⟨0, false⟩, x)

def WRun.streamBytes (x : WRun) (c : CoreId) (a : Agent) (mem : Bool) : Nat → Nat → List PByte × WRun
  | _, 0 => ([], x)
  | addr, n + 1 =>
    let b := x.streamByte c a mem addr
    let r := b.2.streamBytes c a mem (addr + 1) n
    (b.1 :: r.1, r.2)

/-- One run code (R129): its run, its bytes and its poison. -/
def WRun.runCode (x : WRun) (c : CoreId) (a : Agent) (mem : Bool) (addr : Nat) : Nat × Nat × Bool × WRun :=
  let b := x.streamByte c a mem addr
  let more := if b.1.val = 0xFE then 2 else if b.1.val = 0xFF then 4 else 0
  if more = 0 then (b.1.val.toNat, 1, b.1.poison, b.2)
  else
    let r := b.2.streamBytes c a mem (addr + 1) more
    let v := joinBytes r.1
    (v.bits, 1 + more, b.1.poison || v.poison, r.2)

/-- A checkpoint entry (R130). -/
structure Ckpt where
  off : Nat
  col : Int
  poison : Bool
  deriving DecidableEq, Repr

def ckptAt (bytes : List PByte) (j : Nat) : Ckpt :=
  let o := bytesAt bytes (8 * j) 4
  let k := bytesAt bytes (8 * j + 4) 4
  ⟨o.bits, if k.bits = 0xFFFFFFFF then -1 else (k.bits : Int), o.poison || k.poison⟩

/-- A column of a run-length operand. -/
inductive RlsCol where
  | col (j : Nat)
  | malformed
  | poisoned
  deriving DecidableEq, Repr

/-- The decoding of one lane (R129, R130): non-zeros from q on, with offset and column so far. Those before `lo` are
decoded only to reach the lane. After a poisoned run code the decoding goes on with the code's stored bytes, its row
poisoned (DESIGN CHOICE, notes/assumptions/140). Answers the columns, and the offset and column at the end. -/
def Wdr.lane (w : Wdr) (c : CoreId) (a : Agent) (base : Nat) (rows : List Nat) (lo start : Nat) :
    Nat → Nat → Nat → Int → Bool → WRun → List RlsCol × Nat × Int × WRun
  | 0, _, off, col, _, x => ([], off, col, x)
  | n + 1, q, off, col, pz, x =>
    let fresh := q ≠ start && (q = 0 || nthD rows q 0 ≠ nthD rows (q - 1) 0)
    let col0 := if fresh then -1 else col
    let pz0 := if fresh then false else pz
    let r := x.runCode c a w.sparseMem (base + off)
    let pz1 := pz0 || r.2.2.1
    let col1 := col0 + 1 + r.1
    let x1 : WRun := if q < lo then r.2.2.2
      else if pz1 then { r.2.2.2 with idxPoison := r.2.2.2.idxPoison + 1, used := true }
      else if (w.tableRows : Int) ≤ col1 then { r.2.2.2 with formatBad := r.2.2.2.formatBad + 1 }
      else r.2.2.2
    let k : RlsCol := if pz1 then .poisoned else if (w.tableRows : Int) ≤ col1 then .malformed else .col col1.toNat
    let rest := w.lane c a base rows lo start n (q + 1) (off + r.2.1) col1 pz1 x1
    (if q < lo then rest.1 else k :: rest.1, rest.2)

/-- A poisoned checkpoint (R131): counted, recorded, and the rows it covers poisoned. -/
def WRun.badCkpt (x : WRun) (c : CoreId) (a : Agent) (e : WEntry) (rows : List Nat) (n j : Nat) : WRun :=
  let y : WRun := { x with idxPoison := x.idxPoison + 1, used := true }
  (y.seqFault c a e .poisoned).poisonRows (((rows.drop (64 * j)).take 64).flatMap fun r => tileOfRow r n)

/-- The checkpoint at which a lane starts: the nearest earlier one without poison, or the start of the stream. -/
def startCkpt (ck : List PByte) : Nat → Nat × Ckpt
  | 0 => if (ckptAt ck 0).poison then (0, ⟨0, -1, false⟩) else (0, ckptAt ck 0)
  | j + 1 => if (ckptAt ck (j + 1)).poison then startCkpt ck j else (64 * (j + 1), ckptAt ck (j + 1))

/-- The columns of a run-length operand, lane by lane (R130, R131, R138); every poisoned checkpoint entry is counted. -/
def Wdr.rlsColumns (w : Wdr) (c : CoreId) (a : Agent) (e : WEntry) (n base : Nat) (rows : List Nat) (ck : List PByte)
    (x : WRun) : List RlsCol × WRun :=
  let v := rows.length
  let x1 := (List.range (ceilDiv v 64)).foldl (fun (y : WRun) j =>
    if (ckptAt ck j).poison then y.badCkpt c a e rows n j else y) x
  let r := (List.range 16).foldl (fun (st : List RlsCol × WRun × List Nat) l =>
    let lo := cutOf l v
    let hi := cutOf (l + 1) v
    if hi ≤ lo then st
    else
      let s := startCkpt ck (lo / 64)
      let d := w.lane c a base rows lo s.1 (hi - s.1) s.1 s.2.off s.2.col false st.2.1
      let cols := st.1 ++ d.1
      let k := ckptAt ck (hi / 64)
      let want : Int := if nthD rows hi 0 ≠ nthD rows (hi - 1) 0 then -1 else d.2.2.1
      if v ≤ hi || k.poison || (k.off = d.2.1 && k.col = want) then (cols, d.2.2.2, st.2.2)
      else (cols, { d.2.2.2 with formatBad := d.2.2.2.formatBad + 1 }, st.2.2 ++ [hi])) ([], x1, [])
  (r.1, r.2.2.foldl (fun (y : WRun) q => y.poisonRows (tileOfRow (nthD rows q 0) n)) r.2.1)

/-! ### SEG_REDUCE and SPMM (R136 to R139) -/

/-- One node of a reduction of rows' elements. -/
def nodeOp (f : Fmt) (op : Nat) (p q : PVal × Nat) : PVal × Nat :=
  let poison := p.1.poison || q.1.poison
  match op with
  | 1 => (⟨p.1.val.maximum q.1.val, poison⟩, p.2 + q.2)
  | 2 => (⟨p.1.val.minimum q.1.val, poison⟩, p.2 + q.2)
  | _ =>
    let r := convert f (p.1.val.add q.1.val)
    (⟨decode f r.bits, poison⟩, p.2 + q.2 + (r.sat && !poison).toNat)

/-- The output row of a segment from its items' rows (R137). -/
def Wdr.reduceRow (w : Wdr) (core : Core) (r : Nat) (items : List (List (PVal × Nat))) : List PVal × Nat :=
  let f := w.part
  let op := if w.opcode = 2 then w.redOp else 0
  let old := if w.dstInit then [] else w.oldRow core r
  let els := (List.range w.rowElems).map fun k =>
    let xs := items.map fun l => nthD l k (⟨Val.zero, false⟩, 0)
    let t := (treeFold (nodeOp f op) xs).getD (⟨Val.zero, false⟩, 0)
    if w.dstInit then t else nodeOp f op (nthD old k ⟨Val.zero, false⟩, 0) t
  (els.map (·.1), (els.map (·.2)).foldl (· + ·) 0)

/-- Writes the reduced rows and their counts. -/
def Wdr.writeReduced (w : Wdr) (c : CoreId) (a : Agent) (items : List (List (List (PVal × Nat)))) (x : WRun) : WRun :=
  let core := x.run.dev.core c
  let rs := (List.range items.length).map fun r => (r, w.reduceRow core r (nthD items r []))
  let inner := (rs.map (·.2.2)).foldl (· + ·) 0
  let d := w.writeRows c a.holding (rs.map fun r => (r.1, w.toOut r.2.1)) x.bad x.run.dev
  ({ x with inner := x.inner + inner, counted := items.length
            used := x.used || rs.any fun r => r.2.1.any (·.poison) }).put d

/-- SEG_REDUCE. Its count array lies in the operand store at CNT_ADDR also with SPARSE_SPACE = 1, which places a sparse
operand that SEG_REDUCE does not have (DESIGN CHOICE, notes/assumptions/141). -/
def Wdr.segReduce (w : Wdr) (c : CoreId) (a : Agent) (e : WEntry) (n : Nat) (x : WRun) : WRun :=
  let cb := x.sequential c a false (w.cntAddr * lineBytes) (4 * n)
  let cs := w.counts c a e n cb.1 cb.2
  let items := (List.range n).map fun r =>
    let p := (cs.1.take r).foldl (· + ·) 0
    (List.range (nthD cs.1 r 0)).map fun q =>
      (rowVals (fmtD w.fmtTab) w.rowElems
        (cs.2.windowed c ((w.valAddr + (p + q) * w.sourceLines) * lineBytes) (w.bytesOf w.fmtTab))).map fun v => (v, 0)
  w.writeReduced c a items cs.2

/-- The addresses of the four streams of a sparse operand: counts, indices or run codes, values, checkpoints (R132); none
when an address that the operand uses reads poisoned (R396). -/
def Wdr.streams (w : Wdr) (c : CoreId) (a : Agent) (x : WRun) : Option (Nat × Nat × Nat × Nat) × WRun :=
  if w.sparseMem then
    let h := x.sequential c a true w.sparseVa 64
    let word := fun i => bytesAt h.1 (8 * i) 8
    let bad := (word 0).poison || (word 1).poison || (!w.unitVal && (word 2).poison) || (w.rls && (word 3).poison)
    let at' := fun i => (word i).bits % 0x10000000000000
    (if bad then none else some (at' 0, at' 1, at' 2, at' 3), h.2)
  else (some (w.cntAddr * lineBytes, w.idxAddr * lineBytes, w.valAddr * lineBytes, w.ckptAddr * lineBytes), x)

/-- One product row of SPMM: v × table row, rounded once each (R127). -/
def productRow (f : Fmt) (v : PVal) (row : List PVal) : List (PVal × Nat) :=
  row.map fun b =>
    let r := convert f (v.val.mul b.val)
    let poison := v.poison || b.poison
    (⟨decode f r.bits, poison⟩, (r.sat && !poison).toNat)

/-- Non-zero q of an SPMM: its column, value and product row. -/
def Wdr.spmmItem (w : Wdr) (c : CoreId) (a : Agent) (e : WEntry) (n : Nat) (idx vals : List PByte) (cols : List RlsCol)
    (rows : List Nat) (st : WRun × List (Nat × List (PVal × Nat))) (q : Nat) : WRun × List (Nat × List (PVal × Nat)) :=
  let r := nthD rows q 0
  let f := w.part
  let fv := fmtD w.fmtVal
  let v : PVal := if w.unitVal then ⟨.fin false 1 0, false⟩
    else let b := bytesAt vals (q * (fmtBits fv / 8)) (fmtBits fv / 8); ⟨decode fv b.bits, b.poison⟩
  let take := fun (j : Nat) (x : WRun) =>
    let t := w.tableRow c a j x
    (t.2, st.2 ++ [(r, productRow f v t.1)])
  if w.rls then
    match nthD cols q .malformed with
    | .col j => take j st.1
    | .malformed => (st.1.poisonRows (tileOfRow r n), st.2)
    | .poisoned => (st.1.poisonRows [r], st.2)
  else
    let s := w.index c a e (bytesAt idx (q * w.idxBytes) w.idxBytes) st.1
    match s.1 with
    | .row j => take j s.2
    | .zeroRow => (s.2, st.2 ++ [(r, productRow f v (List.replicate w.rowElems ⟨Val.zero, false⟩))])
    | .fault _ => (s.2.poisonRows (tileOfRow r n), st.2)
    | .poisoned => (s.2.poisonRows [r], st.2)

/-- An SPMM whose sparse operand's streams are known. -/
def Wdr.spmmFrom (w : Wdr) (c : CoreId) (a : Agent) (e : WEntry) (n : Nat) (st : Nat × Nat × Nat × Nat) (x : WRun) : WRun :=
  let cb := x.sequential c a w.sparseMem st.1 (4 * n)
  let cs := w.counts c a e n cb.1 cb.2
  let rows := itemRows cs.1
  let v := rows.length
  let idx := if w.rls then ([], cs.2) else cs.2.operand c a.indexing w.sparseMem st.2.1 (v * w.idxBytes)
  let ck := if w.rls then idx.2.operand c a w.sparseMem st.2.2.2 (8 * ceilDiv v 64) else ([], idx.2)
  let cols := if w.rls then w.rlsColumns c a e n st.2.1 rows ck.1 ck.2 else ([], ck.2)
  let vals := if w.unitVal then ([], cols.2)
    else cols.2.operand c a w.sparseMem st.2.2.1 (v * (fmtBits (fmtD w.fmtVal) / 8))
  let r := (List.range v).foldl (w.spmmItem c a e n idx.1 vals.1 cols.1 rows) (vals.2, [])
  let items := (List.range n).map fun k => (r.2.filter fun p => p.1 == k).map (·.2)
  w.writeReduced c a items r.1

/-- SPMM. A poisoned header is consumed, and every output row is written poisoned (R132, R396). -/
def Wdr.spmm (w : Wdr) (c : CoreId) (a : Agent) (e : WEntry) (n : Nat) (x : WRun) : WRun :=
  let st := w.streams c a x
  match st.1 with
  | some at' => w.spmmFrom c a e n at' st.2
  | none => w.writeReduced c a (List.replicate n []) (({ st.2 with used := true } : WRun).poisonRows (List.range n))

/-! ### MERGE (R143) -/

/-- A record: its key, its bytes, and whether its key is poisoned. -/
structure MRec where
  key : Nat
  bytes : List PByte
  keyPoison : Bool
  deriving DecidableEq, Repr

/-- The records of a stream; a poisoned value poisons its own record. -/
def Wdr.records (w : Wdr) (bytes : List PByte) (n : Nat) : List MRec :=
  (List.range n).map fun i =>
    let b := (bytes.drop (i * w.recBytes)).take w.recBytes
    let k := joinBytes (b.take w.keyBytes)
    ⟨k.bits, if b.any (·.poison) then b.map PByte.flag else b, k.poison⟩

/-- The stable merge; the number bounds the records left. -/
def mergeRecs : Nat → List MRec → List MRec → List MRec
  | 0, _, _ => []
  | _ + 1, [], [] => []
  | n + 1, [], b :: bs => b :: mergeRecs n [] bs
  | n + 1, a :: as, [] => a :: mergeRecs n as []
  | n + 1, a :: as, b :: bs =>
    if a.key ≤ b.key then a :: mergeRecs n as (b :: bs) else b :: mergeRecs n (a :: as) bs

/-- Whether keys never fall. -/
def sortedKeys : List MRec → Bool
  | a :: b :: t => decide (a.key ≤ b.key) && sortedKeys (b :: t)
  | _ => true

def Wdr.merge (w : Wdr) (c : CoreId) (a : Agent) (n nb : Nat) (x : WRun) : WRun :=
  let ra := x.sequential c a false (w.idxAddr * lineBytes) (n * w.recBytes)
  let rb := ra.2.sequential c a false (w.valAddr * lineBytes) (nb * w.recBytes)
  let as := w.records ra.1 n
  let bs := w.records rb.1 nb
  let out := mergeRecs (n + nb) as bs
  let keyBad := out.any (·.keyPoison)
  let bytes := out.flatMap (·.bytes)
  let put := if keyBad then bytes.map PByte.flag else bytes
  let d := rb.2.run.dev.modCore c fun k => k.osWrite (w.outAddr * lineBytes) put
  ({ rb.2 with unsorted := if sortedKeys as && sortedKeys bs then 0 else 1, counted := n + nb
               used := rb.2.used || keyBad }).put d

/-! ### The unit -/

/-- The valid counts of COUNT and COUNT_B (R145); a descriptor without a tile has none (R199). -/
def Wdr.valid (w : Wdr) (e : WEntry) : Nat × Nat :=
  match e.tileShift w.count with
  | none => (0, 0)
  | some sh => (validCount w.count (w.off + sh) (e.len w.cntLreg), validCount w.countB 0 (e.len w.cntbLreg))

/-- A Windrow descriptor before its first row, with its stage's window (R562). -/
def Dev.openWdr (s : Dev) (c : CoreId) (a : Agent) (e : WEntry) : WRun :=
  let limit := match (s.holding a.holding).stageOf c e.stream with
    | some g => (g.dfn.osFirst + g.dfn.osLines) * lineBytes
    | none => osLines * lineBytes
  { run := { dev := s }, limit := limit }

/-- Runs a Windrow descriptor; its counts and OUT_LREG follow (R145, R147). SEQ_TILE_SKIP takes the groups of 128 items
beyond the valid count, none for MERGE (DESIGN CHOICE, notes/assumptions/108). -/
def wdrBody (f : Wdr → CoreId → Agent → WEntry → Nat → WRun → WRun) (c : CoreId) (a : Agent) (e : WEntry) (r : Run) :
    Option Run :=
  let w := wdrOf e.desc
  let n := w.valid e
  let h := a.holding
  let x := f w c a e n.1 { r.dev.openWdr c a e with run := r }
  let r1 := x.run
  let r2 := ((((((((r1.count h (wdrReg c 0x10) x.reqs).count h (wdrReg c 0x18) x.hits).count h (wdrReg c 0x20)
    x.hot).count h (wdrReg c 0x28) x.zero).count h (wdrReg c 0x30) x.clamp).count h (wdrReg c 0x38) x.fault).count h
    (wdrReg c 0x40) x.idxPoison).count h (wdrReg c 0x48) x.formatBad).count h (wdrReg c 0x50) x.unsorted
  let skip := if w.opcode = 4 then 0 else ceilDiv w.count 128 - ceilDiv n.1 128
  let d3 := ((r2.count h (seqReg c 0x18) skip).dev).countFree (some h) (wdrReg c 0x08)
  let d4 := d3.countSat (some h) c 2 (fmtCode (if w.opcode = 1 then fmtD w.fmtOut else w.part)) x.inner 0
  let d5 := if w.outLreg = 0 then d4 else d4.setLen (some h) c w.outLreg x.counted
  let d6 := if x.used then d5.poisonUse (some h) c else d5
  some { r2 with dev := d6 }

def runGather (w : Wdr) (c : CoreId) (a : Agent) (e : WEntry) (n : Nat) (x : WRun) : WRun := w.gather c a e n x
def runScatter (w : Wdr) (c : CoreId) (a : Agent) (e : WEntry) (n : Nat) (x : WRun) : WRun := w.scatterAdd c a e n x
def runSegReduce (w : Wdr) (c : CoreId) (a : Agent) (e : WEntry) (n : Nat) (x : WRun) : WRun := w.segReduce c a e n x
def runSpmm (w : Wdr) (c : CoreId) (a : Agent) (e : WEntry) (n : Nat) (x : WRun) : WRun := w.spmm c a e n x
def runMerge (w : Wdr) (c : CoreId) (a : Agent) (e : WEntry) (n : Nat) (x : WRun) : WRun := w.merge c a n (w.valid e).2 x

/-- A running descriptor of a core has memory gather requests outstanding: its rows wait for a controller or for the host. -/
def Dev.gathers (s : Dev) (c : CoreId) : Bool :=
  match (s.core c).running 3 [0, 3], s.holdingOfCore c with
  | some e, some h =>
    let w := wdrOf e.desc
    let a := (s.core c).agent c h e
    let f := if w.opcode = 0 then runGather else runSpmm
    s.coreRuns c && (f w c a e (w.valid e).1 (s.openWdr c a e)).gathering
  | _, _ => false

/-- What a core's work with memory may change: its own scope, memory with its tags, errors, waiting requests and clearances,
the translation caches, the egress hold, crossing numbers, host requests, and what leaves the module. -/
def Dev.memScope (s r : Dev) : Dev :=
  { s.coreScope r with
    mem := r.mem, secPoison := r.secPoison, ecc := r.ecc, tags := r.tags, memWaits := r.memWaits, reissues := r.reissues
    pend := r.pend, xlat := r.xlat, egress := r.egress, crossTx := r.crossTx, crossRx := r.crossRx, crossing := r.crossing
    hostReads := r.hostReads, hostTag := r.hostTag, outbox := r.outbox }

/-- A Windrow command. -/
def Dev.windrow (s : Dev) (c : CoreId) (op : Nat) (f : Wdr → CoreId → Agent → WEntry → Nat → WRun → WRun) : Dev :=
  s.memScope (s.runUnit c 3 [op] (wdrBody f c))

def execGather (c : CoreId) (s : State) : Host.Outcome State Fault Refusal := done s (s.dev.windrow c 0 runGather)
def execScatterAdd (c : CoreId) (s : State) : Host.Outcome State Fault Refusal :=
  done s (s.dev.coreScope (s.dev.windrow c 1 runScatter))
def execSegReduce (c : CoreId) (s : State) : Host.Outcome State Fault Refusal :=
  done s (s.dev.coreScope (s.dev.windrow c 2 runSegReduce))
def execSpmm (c : CoreId) (s : State) : Host.Outcome State Fault Refusal := done s (s.dev.windrow c 3 runSpmm)
def execMerge (c : CoreId) (s : State) : Host.Outcome State Fault Refusal :=
  done s (s.dev.coreScope (s.dev.windrow c 4 runMerge))

end Sys2Proof.Machine
end

