-- ==== Sys2Proof/Machine/Descriptors.lean ====
section
/-! DEFINITION. The descriptors of the copy path (R185), the transform path with its tensor descriptors (R244, R245,
R263), the Drill (R294), the collectives (R356) and the sequencer (R210). -/

namespace Sys2Proof.Machine

open Sys2Proof

/-! ### Copy descriptors (R185) -/

structure Cpy where
  tableRows : Nat
  idxVa : Nat
  memStride : Nat
  memVa : Nat
  osStride : Nat
  osAddr : Nat
  rowLines : Nat
  rows : Nat
  off : Nat
  lreg : Nat
  group : Nat
  tally : Nat
  oor : Nat
  idxMode : Nat
  idxW : Bool
  idxMem : Bool
  bulk : Bool
  stable : Bool
  opcode : Nat
  deriving DecidableEq, Repr

def cpyOf (d : Word512) : Cpy :=
  { tableRows := fld d 306 275, idxVa := fld d 274 223, memStride := fld d 222 191, memVa := fld d 190 139
    osStride := fld d 138 123, osAddr := fld d 122 106, rowLines := fld d 105 90, rows := fld d 89 66, off := fld d 65 42
    lreg := fld d 41 38, group := fld d 37 32, tally := fld d 31 24, oor := fld d 23 22, idxMode := fld d 21 20
    idxW := bit d 19, idxMem := bit d 18, bulk := bit d 17, stable := bit d 16, opcode := fld d 15 8 }

def Cpy.rowBytes (k : Cpy) : Nat := k.rowLines * lineBytes
def Cpy.idxBytes (k : Cpy) : Nat := if k.idxW then 8 else 4

/-- The index fields of a GATHER_LOAD as the Windrow resolves them (R163). -/
def Cpy.asIndex (k : Cpy) : Wdr :=
  { wdrOf 0 with tableRows := k.tableRows, oor := k.oor, idxMode := k.idxMode, idxW := k.idxW }

/-! ### Transform and tensor descriptors (R244, R263) -/

structure Tensor where
  reserved : Bool
  tileC : Nat
  tileR : Nat
  tiled : Bool
  mem : Bool
  layS : Bool
  scaleMode : Nat
  fmt : Nat
  stride : List Nat
  dim : List Nat
  scaleBase : Nat
  base : Nat
  deriving DecidableEq, Repr

def tensorOf (d : Word512) : Tensor :=
  { reserved := fld d 511 337 ≠ 0, tileC := fld d 336 333, tileR := fld d 332 329, tiled := bit d 328, mem := bit d 327
    layS := bit d 326, scaleMode := fld d 325 324, fmt := fld d 323 320
    stride := [0, fld d 239 200, fld d 279 240, fld d 319 280]
    dim := [fld d 127 104, fld d 151 128, fld d 175 152, fld d 199 176], scaleBase := fld d 103 52, base := fld d 51 0 }

structure Xfm where
  marginHi1 : Nat
  marginLo1 : Nat
  marginHi0 : Nat
  marginLo0 : Nat
  extent : List Nat
  dstStart : List Nat
  srcStart : List Int
  pad : Nat
  dstTd : Nat
  srcTd : Nat
  perm : List Nat
  tally : Nat
  cntLreg : Nat
  lreg : Nat
  padMat : Bool
  batch : Nat
  opcode : Nat
  deriving DecidableEq, Repr

def xfmOf (d : Word512) : Xfm :=
  { marginHi1 := fld d 449 438, marginLo1 := fld d 437 426, marginHi0 := fld d 425 414, marginLo0 := fld d 413 402
    extent := (List.range 4).map fun i => fld d (329 + 24 * i) (306 + 24 * i)
    dstStart := (List.range 4).map fun i => fld d (233 + 24 * i) (210 + 24 * i)
    srcStart := (List.range 4).map fun i => fldInt d (134 + 25 * i) (110 + 25 * i)
    pad := fld d 109 78, dstTd := fld d 77 61, srcTd := fld d 60 44
    perm := (List.range 4).map fun i => fld d (37 + 2 * i) (36 + 2 * i)
    tally := fld d 35 28, cntLreg := fld d 27 24, lreg := fld d 23 20, padMat := bit d 18, batch := fld d 17 16
    opcode := fld d 15 8 }

/-- A tensor descriptor read from a line. -/
def Core.tensor (c : Core) (line : Nat) : Tensor :=
  tensorOf (BitVec.ofNat 512 (joinBytes (c.osRead (line * lineBytes) 64)).bits)

/-- A line that a descriptor reads its parameters from holds a poisoned byte (R396). -/
def Core.badLine (c : Core) (line : Nat) : Bool := (c.osRead (line * lineBytes) 64).any (·.poison)

def Tensor.d (t : Tensor) (i : Nat) : Nat := nthD t.dim i 1
def Tensor.s (t : Tensor) (i : Nat) : Nat := nthD t.stride i 0
def Tensor.f (t : Tensor) : Fmt := fmtD t.fmt
def Tensor.mode (t : Tensor) : Scaling := scalingOf t.scaleMode
/-- The byte at which the tensor begins in its space. -/
def Tensor.byteBase (t : Tensor) : Nat := if t.mem then t.base else t.base * lineBytes
def Tensor.scaleByteBase (t : Tensor) : Nat := if t.mem then t.scaleBase else t.scaleBase * lineBytes
def Tensor.tr (t : Tensor) : Nat := 2 ^ t.tileR
def Tensor.tc (t : Tensor) : Nat := 2 ^ t.tileC
/-- Rows of a tensor, counted across its outer dimensions. -/
def Tensor.rows (t : Tensor) : Nat := t.d 1 * t.d 2 * t.d 3
def Tensor.tileBytes (t : Tensor) : Nat := rowBytes t.f (t.tr * t.tc)

/-- The bytes from BASE that a tensor's elements span (R33, R245). -/
def Tensor.bytes (t : Tensor) : Nat :=
  let outer := (t.d 2 - 1) * t.s 2 + (t.d 3 - 1) * t.s 3
  if t.layS then ceilDiv (t.d 1 * ceilDiv (t.d 0) 32) 64 * 1088
  else if t.tiled then ceilDiv (t.d 1) t.tr * ceilDiv (t.d 0) t.tc * t.tileBytes + outer
  else rowBytes t.f (t.d 0) + (t.d 1 - 1) * t.s 1 + outer

/-- Packed data of a tensor, scales excluded (R32). -/
def Tensor.packed (t : Tensor) : Nat := t.rows * rowBytes t.f (t.d 0)

/-! ### Dispatch, collective and fence descriptors (R294, R356, R210) -/

structure Drl where
  queue : Nat
  deadline : Nat
  retVa : Nat
  tokStride : Nat
  tokVa : Nat
  recAddr : Nat
  scoreStride : Nat
  scoreAddr : Nat
  ndesc : Nat
  off : Nat
  rows : Nat
  cntLreg : Nat
  group : Nat
  batch : Nat
  lreg : Nat
  topk : Nat
  layer : Nat
  opcode : Nat
  deriving DecidableEq, Repr

def drlOf (d : Word512) : Drl :=
  { queue := fld d 314 303, deadline := fld d 302 283, retVa := fld d 282 231, tokStride := fld d 230 215
    tokVa := fld d 214 163, recAddr := fld d 162 146, scoreStride := fld d 145 130, scoreAddr := fld d 129 113
    ndesc := if fld d 112 105 = 0 then 256 else fld d 112 105, off := fld d 104 81, rows := fld d 80 64
    cntLreg := fld d 59 56, group := fld d 55 48, batch := fld d 47 32, lreg := fld d 31 28, topk := fld d 27 24
    layer := fld d 23 16, opcode := fld d 15 8 }

structure Coll where
  dstVa : Nat
  srcVa : Nat
  chunks : Nat
  first : Nat
  reduction : Nat
  group : Nat
  opcode : Nat
  deriving DecidableEq, Repr

def collOf (d : Word512) : Coll :=
  { dstVa := fld d 189 138, srcVa := fld d 137 86, chunks := fld d 85 59, first := fld d 58 32, reduction := fld d 31 24
    group := fld d 23 16, opcode := fld d 15 8 }

structure Fen where
  value : Nat
  gradCount : Nat
  gradFirst : Nat
  accFirst : Nat
  event : Nat
  counter : Nat
  opcode : Nat
  deriving DecidableEq, Repr

def fenOf (d : Word512) : Fen :=
  { value := fld d 95 64, gradCount := fld d 46 42, gradFirst := fld d 41 36, accFirst := fld d 35 32
    event := fld d 29 24, counter := fld d 23 16, opcode := fld d 15 8 }

/-- The bits that a descriptor must leave zero (R560, group 2): its class's reserved fields. -/
def reservedSet (d : Word512) : Bool :=
  match classOf d with
  | 1 => fld d 511 320 ≠ 0 || bit d 143
  | 2 => fld d 511 376 ≠ 0 || fld d 335 330 ≠ 0 || fld d 23 22 ≠ 0
  | 3 => fld d 511 403 ≠ 0
  | 4 => fld d 511 450 ≠ 0 || bit d 19
  | 5 => fld d 511 315 ≠ 0 || fld d 63 60 ≠ 0
  | 6 => fld d 511 190 ≠ 0
  | 7 => fld d 511 96 ≠ 0 || fld d 63 47 ≠ 0 || fld d 31 30 ≠ 0
  | 8 => fld d 511 307 ≠ 0
  | _ => false

end Sys2Proof.Machine
end

