-- ==== Sys2Proof/Machine/Wire.lean ====
section
/-! DEFINITION. Flits as they stand on the wire (R302 to R305, R319, R344, R376, R391): the fields of a received flit, and
the 256 bytes of one that leaves. -/

namespace Sys2Proof

namespace Machine

/-- Places bytes in an area of a given length, the rest zero. -/
def area (n : Nat) (bs : List Byte) : List Byte := (bs ++ List.replicate (n - bs.length) 0).take n

end Machine

open Machine

/-! ### The fields of a flit (R302 to R305) -/

def Flit.eseq (f : Flit) : Word32 := f.hdr.extractLsb' 96 32
def Flit.dst (f : Flit) : BitVec 16 := f.hdr.extractLsb' 80 16
def Flit.src (f : Flit) : BitVec 16 := f.hdr.extractLsb' 64 16
def Flit.lseq (f : Flit) : BitVec 12 := f.hdr.extractLsb' 52 12
def Flit.lack (f : Flit) : BitVec 12 := f.hdr.extractLsb' 40 12
def Flit.vc (f : Flit) : Fin 4 := Fin.ofNat 4 (f.hdr.extractLsb' 38 2).toNat
def Flit.type (f : Flit) : Nat := (f.hdr.extractLsb' 34 4).toNat
def Flit.owner (f : Flit) : Nat := (f.hdr.extractLsb' 30 4).toNat
def Flit.epoch (f : Flit) : BitVec 16 := f.hdr.extractLsb' 14 16
def Flit.crVc (f : Flit) : Nat := (f.hdr.extractLsb' 12 2).toNat
def Flit.crClass (f : Flit) : Nat := (f.hdr.extractLsb' 11 1).toNat
def Flit.crCount (f : Flit) : Nat := (f.hdr.extractLsb' 8 3).toNat
def Flit.cls (f : Flit) : Fin 2 := Fin.ofNat 2 (f.hdr.extractLsb' 6 1).toNat
def Flit.fabric (f : Flit) : Bool := f.hdr.getLsbD 5
/-- The direction bit of a dimension: 0 X, 1 Y, 2 Z. -/
def Flit.minus (f : Flit) (dim : Nat) : Bool := f.hdr.getLsbD (2 + dim)
def Flit.last (f : Flit) : Bool := f.hdr.getLsbD 1
def Flit.first (f : Flit) : Bool := f.hdr.getLsbD 0
def Flit.sectors (f : Flit) : Nat := (f.ext.extractLsb' 52 4).toNat
def Flit.addr (f : Flit) : Nat := (f.ext.extractLsb' 0 52).toNat
def Flit.chunk26 (f : Flit) : Bool := f.ext.getLsbD 56
def Flit.sectorPoison (f : Flit) (k : Nat) : Bool := f.ext.getLsbD (57 + k)

/-- The bytes that the flit CRC covers (R302). -/
def Flit.covered (f : Flit) : List Byte := leBytes 16 f.hdr.toNat ++ area 224 f.payload ++ leBytes 8 f.ext.toNat
def Flit.good (f : Flit) : Bool := crc64 f.covered == f.crc

/-- The valid payload with its poison. -/
def Flit.data (f : Flit) : List PByte :=
  (List.range (32 * min f.sectors 7)).map fun i => ⟨nthD f.payload i 0, f.sectorPoison (i / 32)⟩


/-! ### The address of reduction traffic (R344) -/

def Flit.kind (f : Flit) : Nat := (f.ext.extractLsb' 50 2).toNat
def Flit.msg (f : Flit) : Nat := (f.ext.extractLsb' 0 8).toNat
/-- The reduction, group and 27-bit chunk of a COLLECTIVE flit. -/
def Flit.chunkRef (f : Flit) : ChunkRef :=
  { group := Fin.ofNat 256 (f.ext.extractLsb' 34 8).toNat, reduction := Fin.ofNat 256 (f.ext.extractLsb' 42 8).toNat
    chunk := (f.ext.extractLsb' 8 26).toNat + 0x4000000 * f.chunk26.toNat }

/-- ADDR of a COLLECTIVE flit, without bit 26 of the chunk. -/
def ChunkRef.addr (c : ChunkRef) (kind msg : Nat) : BitVec 52 :=
  BitVec.ofNat 2 kind ++ BitVec.ofNat 8 c.reduction.val ++ BitVec.ofNat 8 c.group.val ++ BitVec.ofNat 26 c.chunk
    ++ BitVec.ofNat 8 msg

/-- The chunk number of the gather trailer. -/
def trailerChunk : Nat := 0x7FFFFFF

/-- One record of the trailer, 256 bytes (R376). -/
def TrailerRec.bytes (r : TrailerRec) : List Byte :=
  leBytes 2 r.layer.val ++ leBytes 1 r.wnf.toNat ++ List.replicate 13 0 ++ leBytes 80 r.wsq ++ leBytes 80 r.gsq ++ leBytes 80 r.usq

namespace Machine

/-! ### What a message puts on the wire -/

/-- OWNER (R229, R303). -/
def ownerCode : Owner → BitVec 4
  | .holding h => BitVec.ofNat 4 h.val
  | .device => 0xE
  | .unassigned => 0xF

def cleanBytes (bs : List Byte) : List PByte := bs.map fun b => ⟨b, false⟩

/-- The 256 flits' payload bytes of a message whose content the spec lays out; none where it lays out none. -/
def OutMsg.bytes : OutMsg → Option (List PByte)
  | .scale _ _ b => some (cleanBytes b)
  | .reply _ _ _ sexp => some (cleanBytes sexp)
  | .data _ _ _ b => some (cleanBytes b)
  | .gatherFlit _ _ _ skip b => some (List.replicate skip ⟨0, false⟩ ++ b)
  | .trailer _ _ _ recs => some (cleanBytes (recs.flatMap TrailerRec.bytes))
  | .forward _ _ _ _ vs => some (vs.flatMap fun v =>
      match v with
      | some w => (leBytes 4 w.val.toNat).map fun b => ⟨b, w.poison⟩
      | none => List.replicate 4 ⟨0, false⟩)
  | .token _ m => some m.row
  | .answerRow _ m => some m.row
  | .mirrorBlock _ _ _ bs => some bs
  | _ => none

/-- TYPE of a message's flits (R305, R344, R371, R404). -/
def OutMsg.type : OutMsg → BitVec 4
  | .scale .. => 3
  | .reply .. => 3
  | .data .. => 3
  | .gatherFlit .. => 3
  | .trailer .. => 3
  | .forward .. => 2
  | .mirrorBlock .. => 2
  | _ => 4

/-- ADDR and CHUNK26 of a flit of a message: the key stands for what no rule lays out. -/
def OutMsg.place (m : OutMsg) (key index : Nat) : BitVec 52 × Bool :=
  match m with
  | .scale _ c _ => (c.addr 0 0, c.chunk.testBit 26)
  | .reply _ c a _ => (c.addr 1 a.toNat, c.chunk.testBit 26)
  | .data _ c k _ => (c.addr 2 k, c.chunk.testBit 26)
  | .gatherFlit _ c i _ _ => (c.addr 3 i, c.chunk.testBit 26)
  | .trailer _ g r _ =>
    (ChunkRef.addr { group := Fin.ofNat 256 g, reduction := Fin.ofNat 256 r, chunk := trailerChunk } 3 index, true)
  | .mirrorBlock _ _ b _ => (BitVec.ofNat 52 (4096 * b + 224 * index), false)
  | _ => (Config.messageAddr key, false)

/-- The payload of a flit of a message, with its valid sectors: the last flit of a block carries the block's CRC behind its
two data sectors (R391). -/
def OutMsg.payload (m : OutMsg) (key index : Nat) : List PByte × BitVec 4 :=
  match m.bytes with
  | none => ((List.range 224).map fun i => ⟨Config.messageByte key (224 * index + i), false⟩, Config.messageSectors key)
  | some all =>
    let mine := (all.drop (224 * index)).take 224
    let sectors := BitVec.ofNat 4 (ceilDiv mine.length 32)
    match m with
    | .mirrorBlock .. =>
      (if index = 18 then mine ++ cleanBytes (leBytes 4 (crc32c (all.map (·.val))).toNat) else mine, sectors)
    | _ => (mine, sectors)

/-- The fields of a header that the sender of a flit fills in (R303). -/
structure FlitHead where
  eseq : Word32 := 0
  dst : BitVec 16
  src : BitVec 16
  lseq : BitVec 12 := 0
  lack : BitVec 12
  vc : Nat := 0
  type : BitVec 4
  owner : BitVec 4 := 0xE
  epoch : BitVec 16 := 0
  crVc : Nat := 0
  crClass : Nat := 0
  crCount : Nat := 0
  cls : Nat := 0
  fabric : Bool := false
  dirs : BitVec 3 := 0
  last : Bool := true
  first : Bool := true
  deriving DecidableEq, Repr

/-- The header's 128 bits, from ESEQ down to FIRST. -/
def FlitHead.word (f : FlitHead) : BitVec 128 :=
  f.eseq ++ f.dst ++ f.src ++ f.lseq ++ f.lack ++ BitVec.ofNat 2 f.vc ++ f.type ++ f.owner ++ f.epoch ++ BitVec.ofNat 2 f.crVc
    ++ BitVec.ofNat 1 f.crClass ++ BitVec.ofNat 3 f.crCount ++ 0#1 ++ BitVec.ofNat 1 f.cls ++ BitVec.ofBool f.fabric ++ f.dirs
    ++ BitVec.ofBool f.last ++ BitVec.ofBool f.first

/-- The extension's 64 bits, from SPOISON down to ADDR (R304). -/
def extension (poison : BitVec 7) (chunk26 : Bool) (sectors : BitVec 4) (addr : BitVec 52) : Word64 :=
  poison ++ BitVec.ofBool chunk26 ++ sectors ++ addr

/-- SPOISON of a payload: a sector with a poisoned byte is poisoned. -/
def payloadPoison (bs : List PByte) : BitVec 7 :=
  BitVec.ofNat 7 ((List.range 7).map fun k => (((bs.drop (32 * k)).take 32).any (·.poison)).toNat * 2 ^ k).sum

/-- A flit closed with its CRC (R302). -/
def sealFlit (hdr : BitVec 128) (payload : List Byte) (ext : Word64) : Flit :=
  let f : Flit := { hdr := hdr, payload := area 224 payload, ext := ext, crc := 0 }
  { f with crc := crc64 f.covered }

/-- What names a numbered flit among all others: its destination, its channel and its end-to-end number (R311). -/
def openKey (dst : BitVec 16) (vc : Fin 4) (eseq : Word32) : Nat := (dst.toNat * 4 + vc.val) * 2 ^ 32 + eseq.toNat

/-- The flit of an item at its port, with its link numbers: src is this device and peer the device at the link's end. -/
def PortItem.form (i : PortItem) (src peer : BitVec 16) (lseq lack : BitVec 12) : Flit :=
  let head := fun (dst : BitVec 16) (type : BitVec 4) =>
    ({ dst := dst, src := src, lseq := lseq, lack := lack, vc := i.vc.val, type := type, cls := i.cls.val, fabric := i.fabric
       dirs := i.dirs } : FlitHead)
  let times := fun (ts : List Int) =>
    sealFlit (head peer 7).word ((List.range 224).map (Config.timeByte ts)) (extension 0 false Config.timeSectors 0)
  match i.wire with
  | .part dst vc o e n m index count =>
    let key := openKey dst vc n
    let p := m.payload key index
    let a := m.place key index
    sealFlit { head dst m.type with eseq := n, owner := ownerCode o, epoch := e, first := index == 0, last := index + 1 == count }.word
      (p.1.map (·.val)) (extension (payloadPoison p.1) a.2 p.2 a.1)
  | .ack dst _ n => sealFlit (head dst 5).word [] (extension 0 false 0 (Config.ackAddr n))
  | .want dst _ n => sealFlit (head dst 6).word [] (extension 0 false 0 (Config.ackAddr n))
  | .time => times []
  | .timeAnswer t1 t2 t3 => times [t1, t2, t3]
  | .pass f =>
    sealFlit { eseq := f.eseq, dst := f.dst, src := f.src, lseq := lseq, lack := lack, vc := f.vc.val, type := BitVec.ofNat 4 f.type
               owner := BitVec.ofNat 4 f.owner, epoch := f.epoch, cls := i.cls.val, fabric := i.fabric, dirs := i.dirs
               last := f.last, first := f.first : FlitHead }.word f.payload f.ext

/-! ### The sideband slot (R319) -/

/-- The CRC-32C of a slot. -/
def slotCrc : SidebandMsg → Word32
  | .none => crc32c (Config.slotBytes 0 0 0 0)
  | .freeze origin full n => crc32c (Config.slotBytes 1 origin full.toNat n)
  | .abortFence origin h e => crc32c (Config.slotBytes 2 origin h.val e)

/-- A message in its slot and in the next four. -/
def sidebandSlots (p : PortId) (m : SidebandMsg) : List Emit := List.replicate 5 (.sideband p m (slotCrc m))

end Machine

end Sys2Proof
end

