-- ==== Sys2Proof/Machine/Net.lean ====
section
/-! DEFINITION. The sending side of Kolantax (R302 to R318, R393): the Headland gate, end-to-end numbers, routes, and
the flits of a port with its credits and its replay buffer. -/

namespace Sys2Proof.Machine

open Sys2Proof

/-! ### Ports and routes (R11, R298, R316 to R318, R333) -/

/-- A port that carries traffic. -/
def PortState.usable : PortState → Bool
  | .up | .degraded => true
  | _ => false

def Dev.usable (s : Dev) (p : PortId) : Bool := (s.port p).state.usable && !(s.die (linkDie p)).fenced

/-- The number of this device (R331). -/
def Dev.number (s : Dev) : BitVec 16 := (s.reg (klxReg 0 0x300)).setWidth 16
def Dev.numberValid (s : Dev) : Bool := (s.reg (klxReg 0 0x300)).getLsbD 16

def podOf (n : BitVec 16) : Nat := n.toNat / 64
def posOf (n : BitVec 16) : Nat := n.toNat % 64

/-- The coordinate of a position in dimension 0 X, 1 Y or 2 Z (R11). -/
def coord (pos dim : Nat) : Nat := pos / 4 ^ dim % 4
def moveIn (pos dim goal : Nat) : Nat := pos - coord pos dim * 4 ^ dim + goal % 4 * 4 ^ dim

/-- The position next to one along a port P0 to P5. -/
def neighbour (pos port : Nat) : Nat :=
  moveIn pos (port / 2) (coord pos (port / 2) + if port % 2 = 0 then 1 else 3)

/-- This device's own link bits (R316). -/
def Dev.ownLinks (s : Dev) : BitVec 6 :=
  BitVec.ofNat 6 ((List.range 6).foldl (fun n i => n + if s.usable (Fin.ofNat 8 i) then 2 ^ i else 0) 0)

/-- The link bits of a position of the pod, as this device knows them. -/
def Dev.links (s : Dev) (pos : Nat) : BitVec 6 :=
  if pos = posOf s.number then s.ownLinks else Tab.get 0 s.linkState pos

/-- A torus link is intact when both its ends report it (R316). -/
def Dev.intact (s : Dev) (pos port : Nat) : Bool :=
  (s.links pos).getLsbD port && (s.links (neighbour pos port)).getLsbD (port + 1 - 2 * (port % 2))

/-- Whether the arc of n links from a position through a port is intact. -/
def Dev.arc (s : Dev) (pos port : Nat) : Nat → Bool
  | 0 => true
  | n + 1 => s.intact pos port && s.arc (neighbour pos port) port n

/-- The direction that a source takes in one dimension: none where no move is needed or both arcs are broken; and
whether the arc chosen is the opposite one (R317). -/
inductive DirChoice where
  | stay
  | go (port : Nat) (opposite : Bool)
  | broken
  deriving DecidableEq, Repr

/-- The direction bit of a choice (R303): 1 for -, which goes by an odd port. -/
def DirChoice.minusBit : DirChoice → Nat
  | .go port _ => port % 2
  | _ => 0

def Dev.direction (s : Dev) (pos dst dim : Nat) : DirChoice :=
  let d := (coord dst dim + 4 - coord pos dim) % 4
  let plus := 2 * dim
  let minus := 2 * dim + 1
  if d = 0 then .stay
  else if d = 3 then
    if s.arc pos minus 1 then .go minus false else if s.arc pos plus 3 then .go plus true else .broken
  else if s.arc pos plus d then .go plus false
  else if s.arc pos minus (4 - d) then .go minus true else .broken

/-- The fabric port for a pod and destination: none without a route (R333). -/
def Dev.fabricPort (s : Dev) (dst : BitVec 16) : Option PortId :=
  let pod := podOf dst
  let v := (s.reg (klxReg 0 (0x400 + pod / 16 * 4))).toNat / 4 ^ (pod % 16) % 4
  let first : PortId := if v = 0 then 6 else if v = 1 then 7 else if dst.toNat % 2 = 0 then 6 else 7
  let other : PortId := if first = 6 then 7 else 6
  if v = 3 then none else if s.usable first then some first else if s.usable other then some other else none

def Dev.route (s : Dev) (dst : BitVec 16) : Option Route :=
  let fab := fun detour => (s.fabricPort dst).map fun p => ({ port := p, fabric := true, detour := false, fabricDetour := detour, dirs := 0 } : Route)
  if podOf dst ≠ podOf s.number then fab false
  else
    let p0 := posOf s.number
    let goal := posOf dst
    let p1 := moveIn p0 0 (coord goal 0)
    let p2 := moveIn p1 1 (coord goal 1)
    let ds := [s.direction p0 goal 0, s.direction p1 goal 1, s.direction p2 goal 2]
    if ds.contains .broken then fab true
    else
      let opp := ds.any fun d => match d with | .go _ o => o | _ => false
      (ds.findSome? fun d => match d with | .go q _ => some q | _ => none).map fun q =>
        { port := Fin.ofNat 8 q, fabric := false, detour := opp, fabricDetour := false
          dirs := BitVec.ofNat 3 ((List.range 3).map fun i => (nthD ds i .stay).minusBit * 2 ^ i).sum }

/-- The class of a flit on a port: 1 across a wrap link (R310). -/
def wrapClass (pos : Nat) (p : PortId) (old : Fin 2) : Fin 2 :=
  if 6 ≤ p.val then 0
  else
    let c := coord pos (p.val / 2)
    if (p.val % 2 = 0 ∧ c = 3) ∨ (p.val % 2 = 1 ∧ c = 0) then 1 else old

/-! ### A port's flits (R306, R309) -/

def replayRoom : Nat := 2048

def chanKey (vc : Fin 4) (cls : Fin 2) : Nat := vc.val * 2 + cls.val

/-- Whether a port can send a flit of a channel and class now. -/
def Port.canSend (q : Port) (i : PortItem) : Bool :=
  q.state.usable && (!q.lowPower || i.vc == 0) && decide (q.replay.length < replayRoom) && decide (0 < Tab.get 0 q.credits (chanKey i.vc i.cls))

/-- An item of a port as the flit that leaves now: its LACK is the last number taken in order (R306). -/
def Dev.formFlit (s : Dev) (p : PortId) (lseq : BitVec 12) (i : PortItem) : Flit :=
  i.form s.number (s.port p).peer lseq ((s.port p).expect - 1)

/-- A flit of the link itself: IDLE (type 0) or NAK (type 1), with LACK and the credits that go back (R305, R309). -/
def Dev.linkFlit (s : Dev) (p : PortId) (type : BitVec 4) (vc cls n : Nat) : Flit :=
  sealFlit ({ dst := (s.port p).peer, src := s.number, lack := (s.port p).expect - 1, type := type, crVc := vc, crClass := cls
              crCount := n } : FlitHead).word [] 0

/-- An IDLE flit, which the link sends when it has nothing else to send (R306); a frozen device sends none (R321). -/
def Dev.sendIdle (s : Dev) (p : PortId) (vc cls n : Nat) : Dev :=
  if s.survey.frozen then s else s.emit (.flit p (s.linkFlit p 0 vc cls n))

/-- Sends a flit: it takes the next LSEQ, a credit and a place in the replay buffer. -/
def Dev.sendFlit (s : Dev) (p : PortId) (i : PortItem) : Dev :=
  let q := s.port p
  let s1 := s.modPort p fun x =>
    { x with nextLseq := x.nextLseq + 1, replay := x.replay ++ [(x.nextLseq, i)]
             credits := Tab.modify 0 x.credits (chanKey i.vc i.cls) (· - 1) }
  (s1.count none (klxReg p 0x08) 1).emit (.flit p (s.formFlit p q.nextLseq i))

/-- The share that a channel may take at a turn (R309): CONTROL once in 16, the others 8, 6 and 2 of 16. -/
def shareOf (turn : Nat) : Fin 4 := if turn % 2 = 0 then 1 else if turn % 16 = 7 ∨ turn % 16 = 15 then 3 else 2

def PortItem.passes (i : PortItem) : Bool := match i.wire with | .pass _ => true | _ => false

/-- The flit of a channel that may leave: this device's own and those that pass through are served in turn (R309). -/
def Port.firstOf (q : Port) (v : Fin 4) : Option PortItem :=
  let can := q.queue.filter fun i => i.vc == v && q.canSend i
  match can.find? fun i => i.passes == Tab.get false q.passNext v.val with
  | some i => some i
  | none => can.head?

/-- The waiting flit that leaves next: CONTROL when its share allows, else the channel of the turn, else the first
channel in the order of R308 that can send. -/
def Port.choose (q : Port) : Option PortItem :=
  let firsts := [0, 1, 2, 3].filterMap q.firstOf
  let at' := fun (v : Fin 4) => firsts.find? fun i => i.vc == v
  let others := firsts.filter fun i => i.vc != 0
  if others = [] then firsts.head?
  else if (at' 0).isSome ∧ 15 ≤ q.sinceCtl then at' 0
  else match at' (shareOf q.turn) with
    | some i => some i
    | none => others.head?

/-- Removes the first occurrence. -/
def dropFirst {α : Type} [DecidableEq α] (x : α) : List α → List α
  | [] => []
  | y :: t => if x = y then t else y :: dropFirst x t

/-- Sends waiting flits while some can leave, those kept through a retraining before all others (R307); the number bounds
them. -/
def Dev.drainPort (s : Dev) (p : PortId) : Nat → Dev
  | 0 => s
  | n + 1 =>
    match (s.port p).kept with
    | i :: rest =>
      if (s.port p).canSend i then ((s.modPort p fun x => { x with kept := rest }).sendFlit p i).drainPort p n else s
    | [] =>
    match (s.port p).choose with
    | none => s
    | some i =>
      let s1 := s.modPort p fun x =>
        { x with queue := dropFirst i x.queue
                 turn := if i.vc = 0 then x.turn else (x.turn + 1) % 16
                 sinceCtl := if i.vc = 0 then 0 else min (x.sinceCtl + 1) 15
                 passNext := Tab.set false x.passNext i.vc.val (!i.passes) }
      (s1.sendFlit p i).drainPort p n

/-- While a Survey freezes the device or one of its dies, its codewords carry no flits (R321, R526). -/
def Dev.drain (s : Dev) (p : PortId) : Dev :=
  if s.survey.frozen then s else s.drainPort p ((s.port p).kept.length + (s.port p).queue.length)

/-- Gives flits to a port. -/
def Dev.toPort (s : Dev) (p : PortId) (is : List PortItem) : Dev :=
  (s.modPort p fun x => { x with queue := x.queue ++ is }).drain p

/-! ### End-to-end numbers (R311, R312) -/

def seqKey (dev : BitVec 16) (vc : Fin 4) : Nat := dev.toNat * 4 + vc.val
/-- The sequence home of a device (R311). -/
def homePort (dev : BitVec 16) : PortId := Fin.ofNat 8 dev.toNat

/-- The link die that serves a sequence home: the mirror of a fenced one (R409). -/
def Dev.homeOf (s : Dev) (dev : BitVec 16) : PortId :=
  let p := homePort dev
  if (s.die (linkDie p)).fenced then Fin.ofNat 8 (p.val + 4) else p

def storeRoom : Nat := 131072

/-- Flits in a link die's retry store (R312). -/
def Dev.storeUse (s : Dev) (p : PortId) : Nat :=
  (s.seqTx.filter fun t => t.1 / 4 % 8 = p.val).foldl (fun n t => n + t.2.held.length) 0

/-- The flits that a message takes: 224 payload bytes each; a whole block takes 19 (R305). -/
def OutMsg.flits : OutMsg → Nat
  | .scale .. => 1
  | .reply .. => 1
  | .data _ _ _ b => max 1 (ceilDiv b.length 224)
  | .gatherFlit .. => 1
  | .trailer _ _ _ r => max 1 (ceilDiv (256 * r.length) 224)
  | .forward _ _ _ _ v => max 1 (ceilDiv (4 * v.length) 224)
  | .count _ m => max 1 (ceilDiv (8 * m.counts.length) 224)
  | .placement _ m => max 1 (ceilDiv (16 * m.places.length) 224)
  | .token _ m => max 1 (ceilDiv m.row.length 224)
  | .answerRow _ m => max 1 (ceilDiv m.row.length 224)
  | .digest _ r => max 1 (ceilDiv (16 * r.layers.length) 224)
  | .mirrorBlock .. => 19
  | _ => 1

/-- The route of a new flit, with what its choice counts (R317). -/
def Dev.chooseRoute (s : Dev) (dst : BitVec 16) : Option Route × Dev :=
  match s.route dst with
  | none => (none, s)
  | some r =>
    let home := s.homeOf dst
    let s1 := if r.detour then s.count none (klxReg home 0x60) 1 else s
    (some r, if r.fabricDetour then s1.count none (klxReg home 0x68) 1 else s1)

/-- Where a flit with a route leaves now: by the port of its header, or through the fabric where that port is not usable
(R318). -/
def Dev.hop (s : Dev) (dst : BitVec 16) (r : Route) : Option Route :=
  if s.usable r.port then some r else (s.fabricPort dst).map fun p => { r with port := p, fabric := true }

/-- Sends a held flit: a flit that has no route yet takes one; without a way it waits for its resend (R314, R333). The
answer is the flit as it is kept, and whether it was sent. -/
def Dev.sendHeld (s : Dev) (dst : BitVec 16) (vc : Fin 4) (f : Held) : Held × Bool × Dev :=
  let c := match f.route with
    | some r => (some r, s)
    | none => s.chooseRoute dst
  match c.1.bind fun r => c.2.hop dst r with
  | none => ({ f with route := c.1, sentAt := s.dt }, false, c.2)
  | some r =>
    ({ f with route := c.1, sentAt := s.dt }, true,
     c.2.toPort r.port [{ vc := vc, cls := wrapClass (posOf s.number) r.port 0, fabric := r.fabric, dirs := r.dirs
                          wire := .part dst vc f.owner f.epoch f.eseq f.msg f.index f.count }])

/-- Sends held flits in order: the flits as they are kept, how many were sent, and the device after them. -/
def Dev.sendAll (s : Dev) (dst : BitVec 16) (vc : Fin 4) : List Held → List Held × Nat × Dev
  | [] => ([], 0, s)
  | f :: rest =>
    let x := s.sendHeld dst vc f
    let y := x.2.2.sendAll dst vc rest
    (x.1 :: y.1, x.2.1.toNat + y.2.1, y.2.2)

/-- Numbers the flits of a message, keeps them in the retry store and sends them. -/
def Dev.numberMsg (s : Dev) (dst : BitVec 16) (vc : Fin 4) (o : Owner) (m : OutMsg) : Dev :=
  let k := seqKey dst vc
  let t := Tab.get {} s.seqTx k
  let n := m.flits
  let fs := (List.range n).map fun i =>
    ({ eseq := t.next + BitVec.ofNat 32 i, owner := o, epoch := s.epochOf o, msg := m, index := i, count := n } : Held)
  let x := s.sendAll dst vc fs
  { x.2.2 with seqTx := Tab.set {} x.2.2.seqTx k { t with next := t.next + BitVec.ofNat 32 n, held := t.held ++ x.1 } }

/-! ### The Headland gate (R393) -/

/-- A block that the gate need not wait for: checked, or poisoned. -/
def Dev.blockClear (s : Dev) (b : Nat) : Bool := (s.tag b).checked || (s.tag b).poison

/-- Whether an item of the gate may leave. -/
def Dev.gateReady (s : Dev) (g : GateItem) : Bool :=
  g.blocks.isEmpty && decide (s.storeUse (homePort g.dst) + g.msg.flits ≤ storeRoom)

/-- Releases items in arrival order within each port and channel. -/
def Dev.releaseGate (s : Dev) : List GateItem → List GateItem → Dev
  | [], kept => { s with gate := kept }
  | g :: rest, kept =>
    if s.gateReady g && !(kept.any fun k => k.port == g.port && k.vc == g.vc) then
      (s.numberMsg g.dst g.vc g.owner g.msg).releaseGate rest kept
    else s.releaseGate rest (kept ++ [g])

def Dev.runGate (s : Dev) : Dev := s.releaseGate s.gate []

/-- Flits in a Headland gate (R394). -/
def Dev.gateUse (s : Dev) (p : PortId) : Nat := ((s.gate.filter fun g => g.port == p).map fun g => g.msg.flits).sum

/-- The flits that fill a gate of 16 MiB. -/
def gateRoom : Nat := 65536

/-- A gate that has filled up shows it, and its die's reads wait for a number of cycles that no rule fixes. -/
def Dev.noteFull (s : Dev) (h : Option HoldId) (p : PortId) : Dev :=
  if gateRoom ≤ s.gateUse p then (s.event (regAt (linkDie p) 0x104) 4).countFree h (hdlReg p 0x18) else s

/-- Sends a message whose payload was read from some blocks through the gate of a link die (R393). -/
def Dev.sendFrom (s : Dev) (p : PortId) (dst : BitVec 16) (vc : Fin 4) (o : Owner) (m : OutMsg)
    (blocks : List (Nat × Nat × Nat)) : Dev :=
  let held := blocks.filter fun b => !s.blockClear b.1
  let h := ownerHolding o
  let s1 := if held = [] then s else s.count h (hdlReg p 0x08) held.length
  let bad := (blocks.filter fun b => (s.tag b.1).poison).length
  let s2 := if bad = 0 then s1 else s1.count h (hdlReg p 0x20) bad
  (({ s2 with gate := s2.gate ++ [{ port := p, dst := dst, vc := vc, owner := o, msg := m, blocks := held }] } : Dev).noteFull
    h p).runGate

/-- Sends a message of device data, or of data that no block holds. -/
def Dev.send (s : Dev) (dst : BitVec 16) (vc : Fin 4) (o : Owner) (m : OutMsg) : Dev :=
  s.sendFrom (s.homeOf dst) dst vc o m []

/-- Blocks behind some bytes of a holding's memory, as far as they are mapped to a tier, with the bytes that each gives. -/
def Dev.blocksAt (s : Dev) (h : HoldId) (va n : Nat) : List (Nat × Nat × Nat) :=
  (chunks va n).filterMap fun p =>
    match s.translate h p.1 false with
    | .mem pa _ => some (pa / 4096, p.1 - va, p.2)
    | _ => none

/-- An end-to-end acknowledgement or request goes out unnumbered (R311, R313). -/
def Dev.sendPlain (s : Dev) (dst : BitVec 16) (vc : Fin 4) (w : Wire) : Dev :=
  match s.route dst with
  | none => s
  | some r => s.toPort r.port [{ vc := vc, cls := wrapClass (posOf s.number) r.port 0, fabric := r.fabric, dirs := r.dirs, wire := w }]

/-! ### Epochs of senders (R311, R315) -/

/-- A 16-bit epoch is older than another, by the half-range rule: it lies half the range or more ahead of it (R311, R315). -/
def epochOlder (a b : BitVec 16) : Bool := decide (0x8000 ≤ (a - b).toNat)

def epochKey (src : BitVec 16) (h : Nat) : Nat := src.toNat * 8 + h

/-- The newest epoch known of a source's holding; 0 for none. -/
def Dev.knownEpoch (s : Dev) (src : BitVec 16) (h : Nat) : BitVec 16 := Tab.get 0 s.epochs (epochKey src h)
def Dev.staleFlit (s : Dev) (f : Flit) : Bool :=
  f.owner < 8 && s.knownEpoch f.src f.owner != 0 && epochOlder f.epoch (s.knownEpoch f.src f.owner)
/-- The payload of a message whose sender's epoch is older than the known one is discarded (R315); epoch 0 is device
traffic. -/
def Dev.staleSender (s : Dev) (f : Sender) : Bool :=
  f.epoch != 0 && s.knownEpoch f.device f.owner.val != 0 && epochOlder f.epoch (s.knownEpoch f.device f.owner.val)
/-- What a message does, unless its sender is stale. -/
def Dev.unlessStale (s : Dev) (f : Sender) (r : Dev) : Dev := if s.staleSender f then s else r
def Dev.learnEpoch (s : Dev) (src : BitVec 16) (h : Nat) (e : BitVec 16) : Dev :=
  { s with epochs := Tab.set 0 s.epochs (epochKey src h) e }

/-! ### Outbound reads of holding memory (R248, R250, R393) -/

def linkAgent (p : PortId) (h : HoldId) : Agent := { die := linkDie p, holding := h }

/-- A read within one block for outbound data: no wait, for the gate holds what is not checked (R393). -/
def Dev.readOutChunk (s : Dev) (a : Agent) (va n : Nat) : List PByte × Dev :=
  let x := s.xlate a va false
  match x.1 with
  | .fault k => (poisonedBytes va n, x.2.accessFault a va false k)
  | .host addr => x.2.readHost addr n
  | .mem pa _ => x.2.unitRead a pa n

def Dev.readOutChunks (s : Dev) (a : Agent) : List (Nat × Nat) → List PByte × Dev
  | [] => ([], s)
  | (va, n) :: rest =>
    let x := s.readOutChunk a va n
    let y := x.2.readOutChunks a rest
    (x.1 ++ y.1, y.2)

def Dev.readOut (s : Dev) (a : Agent) (va n : Nat) : List PByte × Dev := s.readOutChunks a (chunks va n)

/-- Where some bytes lie in the tiers, piece by piece. -/
def Dev.placesAt (s : Dev) (a : Agent) (va n : Nat) : List (Nat × Nat) :=
  (chunks va n).filterMap fun c => match (s.xlate a c.1 false).1 with | .mem pa _ => some (pa, c.2) | _ => none

/-- A link die's or a Drill's read must wait: for its walk, for a quiesced channel, behind a queued write, or for its
reissue (R228, R237, R238). -/
def Dev.outHeld (s : Dev) (a : Agent) (va n : Nat) : Bool :=
  ((chunks va n).any fun c => s.xlateWaits a c.1) || (s.placesAt a va n).any fun p => s.readHeld p.1 p.2

/-- A read whose data no gate holds waits for the check of its blocks as well (R384). -/
def Dev.inHeld (s : Dev) (a : Agent) (va n : Nat) : Bool :=
  s.outHeld a va n || (s.placesAt a va n).any fun p => s.mustWait (p.1 / 4096) (.holding a.holding)

/-- A full gate: its die issues no further reads for outbound traffic (R394). -/
def Dev.gateFull (s : Dev) (p : PortId) : Bool := decide (gateRoom ≤ s.gateUse p)

/-- A read for a message to a device must wait; this device's own data meets no gate. -/
def Dev.sourceWaits (s : Dev) (p : PortId) (dst : BitVec 16) (a : Agent) (va n : Nat) : Bool :=
  if dst = s.number then s.inHeld a va n else s.gateFull p || s.outHeld a va n

end Sys2Proof.Machine
end

