-- ==== Sys2Proof/Machine/Accept.lean ====
section
/-! DEFINITION. Resource sets (R102, R562) and the acceptance checks of every class, in the order of R560. -/

namespace Sys2Proof.Machine

open Sys2Proof

/-! ### Resource sets (R102) -/

/-- What a descriptor reads and writes in its core: lines by first line and count, accumulator names, vector and length
registers; and the accumulator names and gradient tiles that it names statically, for its stage's window (R189). -/
structure Res where
  osR : List (Nat × Nat) := []
  osW : List (Nat × Nat) := []
  accR : List Nat := []
  accW : List Nat := []
  vrR : List Nat := []
  vrW : List Nat := []
  lrR : List Nat := []
  lrW : List Nat := []
  named : List Nat := []
  grad : List Nat := []
  deriving DecidableEq, Repr

def overlap (a b : Nat × Nat) : Bool := decide (a.1 < b.1 + b.2) && decide (b.1 < a.1 + a.2)
def anyOverlap (a b : List (Nat × Nat)) : Bool := a.any fun x => b.any fun y => overlap x y
def meets (a b : List Nat) : Bool := a.any fun x => b.contains x

/-- One writes a resource that the other reads or writes (R102). -/
def Res.conflicts (a b : Res) : Bool :=
  anyOverlap a.osW (b.osR ++ b.osW) || anyOverlap b.osW a.osR
    || meets a.accW (b.accR ++ b.accW) || meets b.accW a.accR
    || meets a.vrW (b.vrR ++ b.vrW) || meets b.vrW a.vrR
    || meets a.lrW (b.lrR ++ b.lrW) || meets b.lrW a.lrR

/-- Lines of a run of bytes, and of rows at a stride in lines. -/
def spanOf (first bytes : Nat) : List (Nat × Nat) := if bytes = 0 then [] else [(first, ceilDiv bytes lineBytes)]
def rowsSpan (first rows stride bytes : Nat) : List (Nat × Nat) :=
  if rows = 0 ∨ bytes = 0 then [] else [(first, (rows - 1) * stride + ceilDiv bytes lineBytes)]
def namesFrom (first n : Nat) : List Nat := (List.range n).map (first + ·)
def lregs (l : List Nat) : List Nat := l.filter (· ≠ 0)

/-! #### Dense -/

/-- Lines of a moving operand and its scales. -/
def Dense.moveLines (d : Dense) (p : Problem) : List (Nat × Nat) :=
  let f := fmtD d.fmtMove
  let m := scalingOf d.scaleMove
  if layoutS f m p.nominal d.kDepth then [(p.move, ceilDiv (p.nominal * ceilDiv d.kDepth 32) 64 * 17)]
  else
    (if d.transMove then rowsSpan p.move d.kDepth d.moveStride (rowBytes f p.nominal)
      else rowsSpan p.move p.nominal d.moveStride (rowBytes f d.kDepth))
    ++ (if d.slices ≠ 0 then [] else spanOf p.moveScale (scaleBytes m p.nominal d.kDepth))

/-- Lines that a problem reads and writes. -/
def Dense.problemReads (d : Dense) (p : Problem) : List (Nat × Nat) :=
  d.moveLines p ++ d.statLines p ++
    if d.slices ≠ 0 then
      spanOf p.moveScale (rowBytes (fmtD d.fmtMove) p.nominal) ++ spanOf p.statScale (rowBytes (fmtD d.fmtStat) d.nCols)
    else []
def Dense.problemWrites (d : Dense) (p : Problem) : List (Nat × Nat) :=
  (if d.out = 1 ∨ d.out = 2 then spanOf p.out (p.nominal * rowBytes (fmtD d.fmtOut) d.nCols) else [])
    ++ if d.slices ≠ 0 then spanOf d.maskAddr (256 * (d.mRows + d.nCols) * d.slices) else []

/-- The problems of a dense descriptor as its fields and its group table give them. -/
def Dense.problems (d : Dense) (grouped : Bool) (c : Core) : List (Problem × GroupEntry) :=
  if grouped then
    (List.range d.groupCount).map fun i =>
      let g := c.groupEntry d.groupTable i
      ({ move := g.move, stat := g.stat, moveScale := g.moveScale, statScale := g.statScale, out := g.out, rows := g.rows
         nominal := g.rows, places := [] }, g)
  else
    [({ move := d.moveAddr, stat := d.statAddr, moveScale := d.moveScale, statScale := d.statScale, out := d.outAddr
        rows := d.mRows, nominal := d.mRows, places := [] }, ⟨false, d.mRows, false, 0, 0, 0, 0, 0, 0, 0, false⟩)]

/-- The statically known accumulator need (R107). -/
def Dense.need (d : Dense) (grouped : Bool) (c : Core) : Nat :=
  if grouped then
    ((d.problems true c).map fun p => if p.2.countSrc ∨ p.2.reserved then 0 else ceilDiv p.2.rows (formF d.form)).foldl (· + ·) 0
  else (if d.form = 0 then ceilDiv d.mRows 128 else 1) * if d.slices = 0 then 1 else 4

def Dense.res (d : Dense) (grouped : Bool) (c : Core) : Res :=
  let ps := d.problems grouped c
  let n := d.need grouped c
  let names := namesFrom d.accTile (if grouped then 16 - d.accTile else n)
  { osR := (ps.flatMap fun p => d.problemReads p.1) ++
      if grouped then spanOf d.groupTable (32 * d.groupCount)
        ++ (ps.filter fun p => p.2.countSrc && !p.2.reserved).map fun p => (p.2.countLine, 1) else []
    osW := ps.flatMap fun p => d.problemWrites p.1
    accR := names, accW := names, lrR := lregs [d.mLreg, d.kLreg]
    named := namesFrom d.accTile (max n 1) }

/-! #### Vector -/

/-- Shape of the output of a vector descriptor (R120). -/
def Vec.outShape (v : Vec) : Nat × Nat :=
  if 0x20 ≤ v.opcode ∧ v.opcode < 0x24 then (if v.axis then (1, v.cols) else (v.rows, 1)) else (v.rows, v.cols)

/-- Whether an opcode writes an output tensor. -/
def Vec.hasOut (v : Vec) : Bool := v.opcode != 0x30 && v.opcode != 0x40 && v.opcode != 0x41

/-- Lines, names and registers of an operand of a shape. -/
def VOp.lines (o : VOp) (s : Nat × Nat) : List (Nat × Nat) :=
  if o.space = 0 then rowsSpan o.addr s.1 o.stride (rowBytes (fmtD o.fmt) s.2) else []
def VOp.names (o : VOp) (s : Nat × Nat) : List Nat :=
  if o.space = 1 then namesFrom (o.addr % 16) (ceilDiv (s.1 * s.2) tileWords) else []
def VOp.vregs (o : VOp) (s : Nat × Nat) : List Nat :=
  if o.space = 2 then namesFrom (o.addr % 128) (ceilDiv (rowBytes (fmtD o.fmt) (s.1 * s.2)) 2048) else []

def Vec.res (v : Vec) : Res :=
  let ins := v.used
  let sh := fun (o : VOp) => o.shape v.rows v.cols
  let outs := if v.hasOut then [v.out] else []
  let table := v.opcode == 0x11 && [6, 7, 8, 11].contains v.func
  let maskLines := spanOf v.maskAddr (v.rows * ceilDiv v.cols 8)
  let scales := spanOf v.scaleAddr (scaleBytes (scalingOf v.scaleMode) v.rows v.cols)
  { osR := (ins.flatMap fun o => o.lines (sh o)) ++ (if v.opcode = 0x31 then scales else [])
      ++ (if table then maskLines else []) ++ (if table && v.func == 11 then [(v.tableAddr, 2048)] else [])
      ++ (if v.opcode = 0x41 then [(v.a.addr, 1)] else [])
    osW := (outs.flatMap fun o => o.lines v.outShape) ++ (if v.opcode = 0x30 then scales else [])
      ++ (if v.maskWr && v.opcode == 0x10 then maskLines else [])
    accR := ins.flatMap fun o => o.names (sh o), accW := outs.flatMap fun o => o.names v.outShape
    vrR := ins.flatMap fun o => o.vregs (sh o), vrW := outs.flatMap fun o => o.vregs v.outShape
    lrR := lregs [v.mLreg, v.nLreg]
    lrW := if v.opcode = 0x40 ∨ v.opcode = 0x41 then lregs [v.lregDst] else []
    named := (ins.flatMap fun o => o.names (sh o)) ++ outs.flatMap fun o => o.names v.outShape }

/-! #### Windrow (R562) -/

/-- Rows of a stride in lines, each taken whole (R562). -/
def wholeRows (first rows stride : Nat) : List (Nat × Nat) := if rows * stride = 0 then [] else [(first, rows * stride)]

/-- The lines of a Windrow descriptor; `last` is the line after the stage's operand-store window. -/
def Wdr.res (w : Wdr) (last : Nat) : Res :=
  let open' := fun first => [(first, max (last - first) 1)]
  let idx := spanOf w.idxAddr (w.count * w.idxBytes)
  let table := if w.tabMem then [] else spanOf w.tableAddr (w.tableRows * w.tableStride * 32)
  let src := rowsSpan w.valAddr w.count w.sourceLines (w.bytesOf w.fmtTab)
  let cnt := spanOf w.cntAddr (4 * w.count)
  let out := wholeRows w.outAddr w.count w.outStride
  let lr := lregs [w.cntLreg, if w.opcode = 4 then w.cntbLreg else 0]
  let base : Res :=
    match w.opcode with
    | 0 => { osR := idx ++ table, osW := out }
    | 1 => { osR := idx ++ src, osW := wholeRows w.outAddr w.tableRows w.outStride }
    | 2 => { osR := cnt ++ open' w.valAddr, osW := out }
    | 3 => { osR := table ++ (if w.sparseMem then []
               else cnt ++ open' w.idxAddr ++ (if w.unitVal then [] else open' w.valAddr)
                 ++ if w.rls then open' w.ckptAddr else []), osW := out }
    | _ => { osR := spanOf w.idxAddr (w.count * w.recBytes) ++ spanOf w.valAddr (w.countB * w.recBytes)
             osW := spanOf w.outAddr ((w.count + w.countB) * w.recBytes) }
  { base with osR := base.osR ++ (if w.dstInit ∨ w.opcode = 0 ∨ w.opcode = 4 then [] else base.osW)
              lrR := lr, lrW := lregs [w.outLreg] }

/-! #### Copy, transform, dispatch and fence descriptors -/

def Cpy.res (k : Cpy) : Res :=
  let rows := rowsSpan k.osAddr k.rows k.osStride k.rowBytes
  if k.opcode = 2 then { osR := rows, lrR := lregs [k.lreg] }
  else
    { osW := rows, lrR := lregs [k.lreg]
      osR := if k.opcode = 1 && !k.idxMem then spanOf k.idxVa (k.rows * k.idxBytes) else [] }

/-- Lines of a tensor in the operand store, its scales included. -/
def Tensor.lines (t : Tensor) : List (Nat × Nat) :=
  if t.mem then [] else
    spanOf t.base t.bytes ++ if t.layS then [] else spanOf t.scaleBase (scaleBytes t.mode t.rows (t.d 0))

def Xfm.res (x : Xfm) (c : Core) : Res :=
  let dst := c.tensor x.dstTd
  let src := c.tensor x.srcTd
  let copy := x.opcode = 0
  { osR := (x.dstTd, 1) :: (if copy then (x.srcTd, 1) :: src.lines else []), osW := dst.lines
    lrR := lregs [x.lreg], lrW := lregs [x.cntLreg] }

def Drl.res (d : Drl) (layers : Tab (Option Layer)) : Res :=
  match d.opcode with
  | 0 =>
    let e := ((Tab.get none layers d.layer).map fun l => l.experts.length).getD 0
    { osR := rowsSpan d.scoreAddr d.rows d.scoreStride (4 * e), osW := [(d.recAddr, d.rows)], lrR := lregs [d.lreg] }
  | 1 => { osW := [(d.recAddr, 1)], lrW := lregs [d.cntLreg, d.lreg] }
  | 2 => { lrR := lregs [d.lreg] }
  | _ => {}

def Fen.res (f : Fen) (g : StageDef) : Res :=
  if f.opcode = 1 ∧ g.gradCount ≠ 0 then { accR := namesFrom g.accFirst g.accCount }
  else if f.opcode ≠ 7 then {}
  else if f.gradCount = 0 then { accW := namesFrom g.accFirst g.accCount }
  else
    let names := namesFrom f.accFirst f.gradCount
    { accW := names, named := names, grad := namesFrom f.gradFirst f.gradCount }

/-- The resource set of a descriptor on a core, in its stage and its holding. -/
def resOf (d : Word512) (c : Core) (x : Holding) (g : StageDef) : Res :=
  match classOf d with
  | 1 => (denseOf d).res (opcodeOf d == 1) c
  | 2 => (vecOf d).res
  | 3 => (wdrOf d).res (g.osFirst + g.osLines)
  | 4 => (xfmOf d).res c
  | 5 => (drlOf d).res x.layers
  | 7 => (fenOf d).res g
  | 8 => (cpyOf d).res
  | _ => {}

/-! ### Checks that several classes share -/

/-- Within the stage's window (R189). -/
def inWindow (g : StageDef) (r : Res) : Bool :=
  (r.osR ++ r.osW).all (fun p => g.osFirst ≤ p.1 && p.1 + p.2 ≤ g.osFirst + g.osLines)
    && r.named.all (fun n => decide (16 ≤ n) || (g.accFirst ≤ n && n < g.accFirst + g.accCount))
    && (r.vrR ++ r.vrW).all (fun n => g.vregFirst ≤ n && n < g.vregFirst + g.vregCount)
    && (r.lrR ++ r.lrW).all (fun n => g.lregMask.testBit n)
    && r.grad.all (fun n => g.gradFirst ≤ n && n < g.gradFirst + g.gradCount)

/-- The spill region and the prefetch area of a core (R110, R166). -/
def Dev.keptLines (s : Dev) (c : CoreId) : List (Nat × Nat) :=
  [((s.reg (seqReg c 8)).toNat, (s.reg (seqReg c 0xC)).toNat), ((s.reg (ctrReg c 4)).toNat, (s.reg (ctrReg c 8)).toNat)]

/-- Operand-store ranges beyond line 131,071, or over the spill region or the prefetch area. -/
def Dev.linesBad (s : Dev) (c : CoreId) (r : Res) : Bool :=
  (r.osR ++ r.osW).any (fun p => decide (osLines < p.1 + p.2))
    || anyOverlap (r.osR ++ r.osW) ((s.keptLines c).filter fun p => p.2 ≠ 0)

/-- R25: a wide format with a scale, or INT4 under BLOCK. -/
def scalingBad (f mode : Nat) : Bool := (fmtWide (fmtD f) && mode != 0) || (fmtD f == .int4 && mode == 3)
/-- R45: formats and scaling modes that emulation refuses. -/
def emuFormatBad (f : Nat) : Bool := [6, 7, 8, 10].contains f
def emuModeBad (mode : Nat) : Bool := 2 ≤ mode

/-- The checks of one class, by the groups of R560. -/
structure Checks where
  enc : Bool
  fmt : Bool
  param : Bool
  cap : Bool := false
  deriving DecidableEq, Repr

def Checks.status (k : Checks) : Option Status :=
  if k.enc then some .badParameter
  else if k.fmt then some .formatFault
  else if k.param then some .badParameter
  else if k.cap then some .accCapacity
  else none

/-- A descriptor under TALLY that names a gradient-mapped tile (R200). -/
def talliesMapped (tally : Nat) (c : Core) (r : Res) : Bool :=
  tally != 0 && r.named.any fun n => (Tab.get none c.gradMap n).isSome

/-! ### The classes -/

/-- R75, R96, R155, R200, R206 and R107. -/
def Dense.checks (d : Dense) (op : Nat) (s : Dev) (c : CoreId) (g : StageDef) : Checks :=
  let core := s.core c
  let grouped := op == 1
  let r := d.res grouped core
  let fm := fmtD d.fmtMove
  let fs := fmtD d.fmtStat
  let codes := [d.fmtMove, d.fmtStat, d.fmtOut]
  let sliced := 3 ≤ d.slices && d.slices ≤ 9
  let pair := pairOf fm fs
  let pairBad :=
    if sliced then fm != fs || !(fm == .fp32 || fm == .fp64) || !(d.fmtOut == 0 || d.fmtOut == 1) || d.mask != 0
    else pair.isNone || (d.mask != 0 && pair.any fun p => p.1 == 2)
  let F := formF d.form
  let rowLimit := if sliced then (if d.form = 0 then 512 else F) else if d.form = 0 then 2048 else F
  { enc := decide (1 < op) || d.mask == 3 || d.out == 3
    fmt := codes.any (fun f => decide (10 < f)) || (d.slices != 0 && !sliced) || pairBad
      || scalingBad d.fmtMove d.scaleMove || scalingBad d.fmtStat d.scaleStat
      || (d.emu && (codes.any emuFormatBad || emuModeBad d.scaleMove || emuModeBad d.scaleStat || sliced))
      || (d.transMove && (isFp6 fm || d.scaleMove == 3)) || (d.transStat && (isFp6 fs || d.scaleStat == 3))
      || (d.mask != 0 && d.scaleStat == 3)
    param := d.mRows == 0 || decide (rowLimit < d.mRows) || d.nCols == 0 || decide (formC d.form < d.nCols)
      || d.kOff % 128 != 0 || decide (lenMax < d.kOff) || decide (lenMax < d.mOff)
      || (grouped && (d.groupCount == 0 || decide (4096 < d.groupCount)))
      || (d.mask != 0 && d.nCols % maskP d.mask != 0)
      || (sliced && (d.accTile % 4 != 0 || grouped))
      || (d.tally != 0 && (grouped || d.rotate)) || talliesMapped d.tally core r
      || s.linesBad c r || !inWindow g r
    cap := decide (16 < d.accTile + d.need grouped core) }

/-- The opcodes of R120. -/
def vecOpcodes : List Nat :=
  [0, 1, 2, 3, 4, 5, 6, 7, 0x10, 0x11, 0x12, 0x13, 0x20, 0x21, 0x22, 0x23, 0x30, 0x31, 0x40, 0x41]

/-- R122, R200 and R107. SPACE 3 for A or the output counts as a parameter fault, group 4 of R560 (DESIGN CHOICE,
notes/assumptions/136). The format code of an immediate operand is checked as a code, and under R45, but stands for no
data: FP64 there is no operand of that format (DESIGN CHOICE, notes/assumptions/137). -/
def Vec.checks (v : Vec) (s : Dev) (c : CoreId) (g : StageDef) : Checks :=
  let core := s.core c
  let r := v.res
  let scaled := v.opcode == 0x30 || v.opcode == 0x31
  let outs := if v.hasOut then [v.out] else []
  let ops := v.used.filter (fun o => o.space != 3) ++ outs
  let named := (v.used ++ outs).map (·.fmt) ++ if v.opcode == 0x30 then [v.out.fmt] else []
  let len := v.opcode == 0x40 || v.opcode == 0x41
  let dash := (v.opcode == 0x11 && [6, 7, 8, 11].contains v.func) || v.opcode == 0x12 || v.opcode == 0x13
  { enc := !vecOpcodes.contains v.opcode || decide (11 < v.func)
    fmt := named.any (fun f => decide (10 < f))
      || ops.any (fun o => (o.space == 2 && !fmtWide (fmtD o.fmt)) || (o.space == 1 && o.fmt != 1))
      || (dash && ops.any fun o => o.fmt == 0)
      || (v.emu && (named.any emuFormatBad || (scaled && emuModeBad v.scaleMode)))
      || (scaled && (scalingBad v.out.fmt v.scaleMode || layoutS (fmtD v.out.fmt) (scalingOf v.scaleMode) v.rows v.cols))
      || (v.opcode == 0x30 && (v.scaleMode == 0 || (v.scaleMode == 3) != decide (2 ≤ v.scaleRule)))
    param := v.used.any (fun o => o == v.a && o.space == 3) || (v.hasOut && v.out.space == 3)
      || v.rows == 0 || decide (4096 < v.rows) || v.cols == 0 || decide (65536 < v.cols)
      || decide (lenMax < v.mOff) || decide (lenMax < v.nOff)
      || (r.vrR ++ r.vrW).any (fun n => decide (127 < n)) || (len && v.lregDst == 0)
      || (v.opcode == 0x10 && v.func == 11)
      || (v.opcode == 0x10 && v.maskWr && !([6, 7, 8] : List Nat).contains v.func)
      || (v.opcode == 0x11 && [1, 9, 10].contains v.func)
      || talliesMapped v.tally core r || s.linesBad c r || !inWindow g r
    cap := ops.any fun o => o.space == 1 && decide (16 < o.addr % 16 + ceilDiv (v.rows * v.cols) tileWords) }

/-- R146 and R200. -/
def Wdr.checks (w : Wdr) (s : Dev) (c : CoreId) (g : StageDef) : Checks :=
  let r := w.res (g.osFirst + g.osLines)
  let codes := [w.fmtOut, w.fmtTab, w.fmtVal]
  let table := w.opcode == 0 || w.opcode == 3
  { enc := decide (4 < w.opcode) || w.idxMode == 3 || w.oor == 3 || w.redOp == 3 || w.recVal == 3
    fmt := codes.any (fun f => decide (10 < f) || emuFormatBad f)
      || (w.opcode == 1 && decide (1 < w.fmtOut))
      || ((w.opcode == 2 || w.opcode == 3) && !fmtWide (fmtD w.fmtOut))
    param := w.count == 0 || decide (lenMax < w.count) || decide (lenMax < w.countB)
      || w.rowElems == 0 || decide (16384 < w.rowElems) || decide (lenMax < w.off)
      || (w.tableRows == 0 && (table || w.opcode == 1)) || (table && decide (w.tableStride < w.sectors))
      || (w.rls && w.opcode != 3) || (!w.tabMem && decide (131072 ≤ w.tableAddr))
      || (w.tally != 0 && w.sparseMem) || s.linesBad c r || !inWindow g r }

/-- The multicast and ring groups of a stage's primary core (R180, R186). -/
def Holding.multicast (x : Holding) (group prim : Nat) : Option CoreGroup :=
  x.groups.find? fun k => k.number == group && !k.ring && k.cores.contains prim
def Holding.inRing (x : Holding) (prim : Nat) : Bool := x.groups.any fun k => k.ring && k.cores.contains prim

/-- R186 and R200. -/
def Cpy.checks (k : Cpy) (s : Dev) (c : CoreId) (x : Holding) (g : StageDef) : Checks :=
  let r := k.res
  let leader := (x.multicast k.group g.core).any fun q => q.cores.head? == some g.core
  { enc := decide (4 < k.opcode) || k.idxMode == 3 || k.oor == 3
    fmt := false
    param := k.rows == 0 || decide (lenMax < k.rows) || k.rowLines == 0 || decide (lenMax < k.off)
      || k.memVa % 32 != 0 || decide (k.memStride < 2 * k.rowLines)
      || (!k.idxMem && decide (131072 ≤ k.idxVa)) || (k.opcode == 1 && k.tableRows == 0)
      || (k.group != 0 && (x.multicast k.group g.core).isNone)
      || ((k.opcode == 0 || k.opcode == 1) && k.group != 0 && !leader)
      || (k.opcode == 3 && (k.group == 0 || leader)) || (k.opcode == 4 && !x.inRing g.core)
      || (k.lreg != 0 && decide (2 ≤ k.opcode))
      || (k.tally != 0 && (k.group != 0 || decide (3 ≤ k.opcode)))
      || s.linesBad c r || !inWindow g r }

/-- A tensor descriptor that breaks R25 or R32. -/
def Tensor.formatBad (t : Tensor) : Bool :=
  decide (10 < t.fmt) || scalingBad t.fmt t.scaleMode
    || (t.layS != (t.fmt == 8 && t.scaleMode == 3 && decide (0x100000 ≤ t.packed)))

/-- A scaled COPY outside R257. -/
def Xfm.scaledBad (x : Xfm) (src dst : Tensor) : Bool :=
  if src.scaleMode = 0 ∧ dst.scaleMode = 0 then false
  else
    let e0 := nthD x.extent 0 0
    let s0 := nthD x.srcStart 0 0
    let d0 := nthD x.dstStart 0 0
    src.fmt != dst.fmt || src.scaleMode != dst.scaleMode
      || (decide (2 ≤ src.scaleMode) && (nthD x.perm 0 0 != 0 || nthD x.perm 1 0 != 1))
      || (src.scaleMode == 3 && (s0 % 32 != 0 || d0 % 32 != 0
        || !(e0 % 32 == 0 || (s0 + e0 == src.d 0 && d0 + e0 == dst.d 0))))

/-- A TILED tensor outside R266. -/
def Tensor.tiledBad (t : Tensor) : Bool :=
  t.tiled && (t.s 1 != 0 || decide (t.tileR < 3) || decide (10 < t.tileR) || decide (t.tileC < 3) || decide (10 < t.tileC)
    || t.tileBytes % 64 != 0)

/-- The least stride that keeps the elements of each dimension apart, from the span of those below it; a dimension of one
element has none (R266). -/
def strideBad : Nat → List (Nat × Nat) → Bool
  | _, [] => false
  | span, (n, stride) :: rest => if n ≤ 1 then strideBad span rest else decide (stride < span) || strideBad (n * stride) rest

/-- A LINEAR destination whose elements could share a byte (R266). -/
def Tensor.linearBad (t : Tensor) : Bool :=
  !t.tiled && !t.layS && strideBad (rowBytes t.f (t.d 0)) [(t.d 1, t.s 1), (t.d 2, t.s 2), (t.d 3, t.s 3)]

def Tensor.dimsBad (t : Tensor) : Bool := t.dim.any fun n => n == 0 || decide (lenMax < n)

/-- The open transform batch of a stream: its members in the window (R260). -/
def Core.openBatch (c : Core) (st : Fin 2) : List WEntry :=
  let members := c.window.filter fun e => e.stream == st && classOf e.desc == 4
  match members.getLast? with
  | none => []
  | some l =>
    if (xfmOf l.desc).batch = 1 ∨ (xfmOf l.desc).batch = 2 then
      let n := (members.reverse.findIdx? fun e => (xfmOf e.desc).batch == 1).getD 0
      members.drop (members.length - 1 - n)
    else []

/-- A BATCH value that breaks the order of R260: FIRST and SINGLE open none inside a batch, MIDDLE and LAST need one,
and the sixteenth member must be LAST. -/
def Core.batchBad (c : Core) (st : Fin 2) (batch : Nat) : Bool :=
  let n := (c.openBatch st).length
  match batch with
  | 0 | 1 => n != 0
  | 2 => n == 0 || decide (15 ≤ n)
  | _ => n == 0 || decide (16 ≤ n)

/-- R265 and R266. No check of R265 names SRC_START: one outside ±8,388,608, the bound of R7 and R263, is accepted (DESIGN
CHOICE: notes/assumptions/116). -/
def Xfm.checks (x : Xfm) (s : Dev) (c : CoreId) (st : Fin 2) (g : StageDef) : Checks :=
  let core := s.core c
  let dst := core.tensor x.dstTd
  let src := core.tensor x.srcTd
  let copy := x.opcode == 0
  let r := x.res core
  let region := (List.range 4).any fun i => decide (dst.d i < nthD x.dstStart i 0 + nthD x.extent i 0)
  let whole := (List.range 4).all fun i => nthD x.dstStart i 0 == 0 && nthD x.extent i 0 == dst.d i
  let others := if x.batch = 2 ∨ x.batch = 3 then core.openBatch st else []
  { enc := decide (1 < x.opcode) || dst.reserved || (copy && src.reserved)
    fmt := dst.formatBad || (copy && (src.formatBad || x.scaledBad src dst))
    param := dst.dimsBad || (copy && src.dimsBad) || x.extent.any (fun n => n == 0 || decide (lenMax < n))
      || !(List.range 4).all (fun i => x.perm.contains i) || (!copy && x.perm != [0, 1, 2, 3])
      || (!copy && x.padMat) || (x.padMat && dst.scaleMode != 0 && x.pad != 0)
      || region || (dst.layS && !whole) || core.batchBad st x.batch
      || others.any (fun e => let q := (xfmOf e.desc).res core; anyOverlap r.osR q.osW || anyOverlap q.osR r.osW)
      || dst.tiledBad || (copy && src.tiledBad) || dst.linearBad
      || s.linesBad c r || !inWindow g r }

/-- The live slot of a device in a collective group. -/
def Collective.slot? (k : Collective) (dev : BitVec 16) : Option Nat := k.members.findIdx? (· == dev)

/-- A collective group that contains this device. -/
def Dev.groupHere (s : Dev) (x : Holding) (group : Nat) : Bool :=
  (Tab.get none x.collectives group).any fun k => (k.slot? s.number).isSome

/-- R296. -/
def Drl.checks (d : Drl) (s : Dev) (c : CoreId) (x : Holding) (g : StageDef) (w : Word512) : Checks :=
  let r := d.res x.layers
  let layer := Tab.get none x.layers d.layer
  let zero := fun (hi lo : Nat) => fld w hi lo == 0
  let unused :=
    match d.opcode with
    | 0 => zero 314 303 && zero 59 56
    | 1 => zero 302 163 && zero 145 64 && zero 55 48 && zero 27 24
    | 2 => zero 302 231 && zero 162 105 && zero 59 48 && zero 27 24
    | 3 => zero 314 64 && zero 59 48 && zero 31 16
    | _ => zero 314 64 && zero 59 56 && zero 31 16
  let rowsBad := d.rows == 0 || decide (65536 < d.rows) || decide (lenMax < d.off)
  { enc := decide (4 < d.opcode) || !unused
    fmt := false
    param := (d.opcode == 0 && (d.topk == 0 || decide (8 < d.topk)
          || layer.any (fun l => decide (l.experts.length < d.topk)) || d.deadline == 0 || decide (lenMax < d.off + d.rows)))
      || ((d.opcode == 0 || d.opcode == 2) && rowsBad)
      || (decide (d.opcode ≤ 2) && layer.isNone)
      || ((d.opcode == 1 || d.opcode == 2) && !x.queues.any fun q => q.queue == d.queue && q.layer == d.layer)
      || ((d.opcode == 0 || d.opcode == 4) && !s.groupHere x d.group)
      || s.linesBad c r || !inWindow g r }

/-- Values of a chunk, and the chunks of a reduction space (R339). -/
def chunkValues : Nat := 14336
def polKey (g r : Nat) : Nat := g * 256 + r
def Policy.chunks (p : Policy) : Nat := ceilDiv p.values chunkValues

/-- R358. -/
def Coll.checks (k : Coll) (s : Dev) (x : Holding) : Checks :=
  let pol := Tab.get none x.policies (polKey k.group k.reduction)
  { enc := decide (1 < k.opcode)
    fmt := false
    param := !s.groupHere x k.group || pol.isNone || k.chunks == 0
      || pol.any (fun p => decide (p.chunks < k.first + k.chunks))
      || k.srcVa % 64 != 0 || k.dstVa % 64 != 0 || (k.opcode == 1 && (k.srcVa != 0 || k.dstVa != 0)) }

/-- R213. -/
def Fen.checks (f : Fen) (x : Holding) (g : StageDef) : Checks :=
  let tally := f.opcode == 5 || f.opcode == 6
  let k := x.counter f.counter
  let outside := f.opcode == 5 && k.any fun q =>
    match q.rowGroup with
    | none => false
    | some n => !(x.rowGroups.any fun r => r.1 == n.val && r.2.contains g.core)
  { enc := decide (7 < f.opcode)
    fmt := false
    param := (tally && (f.counter == 0 || k.isNone)) || outside
      || (f.opcode == 7 && (decide (16 < f.accFirst + f.gradCount) || decide (64 < f.gradFirst + f.gradCount)))
      || !inWindow g (f.res g) }

/-- The status with which a descriptor is refused, none when it passes every check (R100, R560). -/
def Dev.refusal (s : Dev) (c : CoreId) (x : Holding) (st : Fin 2) (g : StageDef) (d : Word512) : Option Status :=
  if reservedSet d then some .badParameter
  else
    match classOf d with
    | 1 => ((denseOf d).checks (opcodeOf d) s c g).status
    | 2 => ((vecOf d).checks s c g).status
    | 3 => ((wdrOf d).checks s c g).status
    | 4 => ((xfmOf d).checks s c st g).status
    | 5 => ((drlOf d).checks s c x g d).status
    | 6 => ((collOf d).checks s x).status
    | 7 => ((fenOf d).checks x g).status
    | 8 => ((cpyOf d).checks s c x g).status
    | _ => some .badParameter

end Sys2Proof.Machine
end

