-- ==== Sys2Proof/Machine/Copy.lean ====
section
/-! DEFINITION. The copy path and the Coulter (R162 to R188): LOAD, GATHER_LOAD, STORE, the receives, speculative
fetches with their epochs, and multicast and ring transfers. -/

namespace Sys2Proof.Machine

open Sys2Proof

/-! ### Rows of a copy descriptor (R162, R163, R199) -/

/-- Valid rows of a copy descriptor, and the shift of its tile (R76, R199). -/
def Cpy.valid (k : Cpy) (e : WEntry) : Nat × Nat :=
  match e.tileShift k.rows with
  | none => (0, 0)
  | some sh => (validCount k.rows (k.off + sh) (e.len k.lreg), sh)

/-- The requests of a descriptor's data rows are ordinary, or bulk with BULK = 1 (R164). -/
def Cpy.dataAgent (k : Cpy) (a : Agent) : Agent := { a with cls := if k.bulk then .bulk else .ordinary }

/-- The byte address of the index of the row at a shift, in the stream's own space (R163). -/
def Cpy.idxAt (k : Cpy) (i : Nat) : Nat :=
  (if k.idxMem then k.idxVa else k.idxVa % osLines * lineBytes) + i * k.idxBytes

/-- The memory rows that the valid rows select: their own numbers, or the indices of a GATHER_LOAD with the counts of
R134 and R135; its index stream is latency-critical (R164). -/
def Cpy.selectRows (k : Cpy) (c : CoreId) (a : Agent) (e : WEntry) (n sh : Nat) (r : Run) : List IdxSel × WRun :=
  if k.opcode = 1 then
    let idx := ({ run := r } : WRun).sequential c a.indexing k.idxMem (k.idxAt (if k.idxMem then sh else 0)) (n * k.idxBytes)
    (List.range n).foldl (fun (st : List IdxSel × WRun) i =>
      let s := k.asIndex.index c a e (bytesAt idx.1 (i * k.idxBytes) k.idxBytes) st.2
      (st.1 ++ [s.1], s.2)) ([], idx.2)
  else ((List.range n).map fun i => .row (sh + i), { run := r })

/-- The memory address of a row and the operand-store byte of a row. -/
def Cpy.rowVa (k : Cpy) (j : Nat) : Nat := k.memVa + j * k.memStride * 32
def Cpy.rowOs (k : Cpy) (i : Nat) : Nat := (k.osAddr + i * k.osStride) * lineBytes

/-- The descriptor moves at half rate (R254). -/
def Cpy.misaligned (k : Cpy) (n : Nat) : Bool :=
  k.memVa % 64 != 0 || (decide (2 ≤ n) && k.memStride * 32 % 64 != 0)

/-- A run of bytes in sectors, each with its byte address. -/
def sectorPieces : Nat → Nat → List PByte → List (Nat × List PByte)
  | 0, _, _ => []
  | n + 1, at', l => (at', l.take 32) :: sectorPieces n (at' + 32) (l.drop 32)

/-! ### The prefetch area and its physical lines (R166, R167, R172) -/

/-- The physical line behind an operand-store line (R167). -/
def Core.physOf (x : Core) (line : Nat) : Nat := (Tab.get none x.phys line).getD line

/-- Sets the physical line behind an operand-store line. -/
def Core.setPhys (x : Core) (line p : Nat) : Core :=
  { x with phys := Tab.set none x.phys line (if p = line then none else some p) }

/-- A commit: the destination line takes the entry's physical line, and its former one joins the area (R167). -/
def Core.remap (x : Core) (dest slot : Nat) : Core :=
  let old := x.osRead (dest * lineBytes) lineBytes
  ((x.setPhys dest (x.physOf slot)).setPhys slot (x.physOf dest)).osWrite (slot * lineBytes) old

/-- Writes sectors to logical lines; those that came as entries are remapped first. -/
def Core.land (x : Core) (slots : List (Nat × Nat)) (out : List (Nat × List PByte)) : Core :=
  out.foldl (fun y p => y.osWrite p.1 p.2) (slots.foldl (fun y q => y.remap q.1 q.2) x)

/-- A sector comes into an entry. -/
def Core.fillEntry (x : Core) (slot at' : Nat) (bytes : List PByte) : Core :=
  x.osWrite (slot * lineBytes + at' % lineBytes / 32 * 32) bytes

/-- A request for the entry's sector has gone out, and its data has not come back. -/
def PfSector.inFlight (p : PfSector) : Bool := p.landed.isNone && p.deferred.isNone

/-- The sector was asked for: its address did translate. -/
def PfSector.asked (p : PfSector) : Bool :=
  match p.deferred with
  | some (.transFault _) => false
  | some .protFault => false
  | _ => true

/-- The entry carries a fault or poison. -/
def PfSector.bad (p : PfSector) : Bool := p.deferred.isSome || p.landed.any fun l => l.any (·.poison)

/-- A reset drops the entries: requests in flight return to nothing, and until then the epoch that they carry is not given
again (R172, R173). -/
def Core.dropAhead (x : Core) : Core :=
  let out := (x.pf.filter (·.inFlight)).map fun p => { p with freed := true }
  { x with pf := out, epochHeld := out.any fun p => p.epoch == x.epoch }

/-- The bytes that a delivered piece of a transfer holds: a line of a ring transfer, a sector of a multicast. -/
def Transfer.pieceBytes (t : Transfer) : Nat := if t.ring then lineBytes else 32

/-- The lines of the area that entries take. -/
def Core.usedSlots (x : Core) : List Nat :=
  ((x.pf.filter fun p => !p.freed).map (·.slot)) ++ x.inbox.flatMap fun t => t.entries.map fun q => q.2.1

/-- The lines of the area that are free (R166). -/
def Dev.freeSlots (s : Dev) (c : CoreId) : List Nat :=
  let used := (s.core c).usedSlots
  let first := (s.reg (ctrReg c 4)).toNat
  ((List.range (s.reg (ctrReg c 8)).toNat).map (first + ·)).filter fun l => !used.contains l

/-- Bytes asked for or delivered ahead of a start and not yet committed or squashed (R165, R182). -/
def Core.outstanding (x : Core) : Nat :=
  32 * (x.pf.filter fun p => !p.freed && p.asked).length + (x.inbox.map fun t => t.pieceBytes * t.delivered).sum

/-- The epoch advances by one. Where requests in flight still carry the new value, nothing is given it until they have
returned (R172). -/
def Core.nextEpoch (x : Core) : Core :=
  { x with epoch := x.epoch + 1, epochHeld := x.pf.any fun p => p.inFlight && p.epoch == x.epoch + 1 }

/-- What a squash counts: bytes and dropped conditions (R173, R174). -/
def Dev.countSquash (s : Dev) (h : Option HoldId) (c : CoreId) (bytes bad : Nat) : Dev :=
  let s1 := if bytes = 0 then s else s.count h (ctrReg c 0x18) bytes
  if bad = 0 then s1 else s1.count h (ctrReg c 0x38) bad

/-- Drops entries of a core: the epoch advances, entries are freed, and requests in flight return to nothing
(R171 to R174). -/
def Dev.squash (s : Dev) (h : Option HoldId) (c : CoreId) (drop : PfSector → Bool) : Dev :=
  let mine := fun (p : PfSector) => drop p && !p.freed
  let gone := (s.core c).pf.filter mine
  if gone = [] then s
  else
    (s.modCore c fun x =>
      ({ x with pf := (x.pf.filter fun p => !mine p || p.inFlight).map fun p =>
                  if drop p then { p with freed := true } else p } : Core).nextEpoch).countSquash h c
      (32 * (gone.filter (·.asked)).length) (gone.filter (·.bad)).length

/-- The lines that a core retains for a ring transfer are free again: it has left, or is not sent (R183, R184). -/
def Dev.releaseRetained (s : Dev) (t : Transfer) : Dev :=
  if t.ring then s.modCore t.sender fun x => { x with retained := x.retained.filter fun q => q.1 != t.number } else s

/-- Every entry of a core is squashed, what transfers have delivered included; no transfer enters it any more
(R173, R184). -/
def Dev.squashAll (s : Dev) (h : Option HoldId) (c : CoreId) : Dev :=
  let boxes := (s.core c).inbox
  let came := boxes.flatMap fun t => t.lines.take t.delivered
  let s1 := s.squash h c fun _ => true
  let s2 := if came = [] then s1
    else (if (s1.core c).epoch = (s.core c).epoch then s1.modCore c Core.nextEpoch else s1).countSquash h c
      (boxes.map fun t => t.pieceBytes * t.delivered).sum (came.filter fun p => p.2.any (·.poison)).length
  boxes.foldl Dev.releaseRetained (s2.modCore c fun x => { x with inbox := [] })

/-! ### Commit (R167, R175, R176, R251, R384) -/

/-- What a LOAD gathers while it commits and fetches. -/
structure Landing where
  run : Run
  /-- sectors to write: operand-store byte and bytes -/
  out : List (Nat × List PByte) := []
  /-- lines to remap: destination and entry -/
  slots : List (Nat × Nat) := []
  blocked : Bool := false
  deferFaults : Nat := 0
  /-- entries whose frame no longer holds -/
  rechecks : List Nat := []
  deriving DecidableEq, Repr

/-- Whether the frame under which a sector was fetched still maps it with READ (R251): an entry of an older generation is
translated again. -/
def Dev.frameHolds (s : Dev) (a : Agent) (p : PfSector) : Bool × Dev :=
  if p.generation = (s.holding a.holding).generation then (true, s)
  else
    let x := s.xlate a p.va false
    (match x.1 with
      | .mem pa _ => p.frame == some (pa / 4096)
      | _ => false, x.2)

/-- A sector taken from memory at commit, without speculation. -/
def Landing.fetch (x : Landing) (a : Agent) (at' va : Nat) : Landing :=
  let r := x.run.read a va 32
  { x with run := r.2, out := x.out ++ [(at', r.1)] }

/-- The same for an entry that landed nothing or no longer holds: its fault, if it is still one, was deferred (R175). -/
def Landing.refetch (x : Landing) (a : Agent) (at' va : Nat) : Landing :=
  let y := ({ x with run := { x.run with faulted := false } } : Landing).fetch a at' va
  { y with run := { y.run with faulted := x.run.faulted || y.run.faulted }
           deferFaults := x.deferFaults + if y.run.faulted then 1 else 0 }

/-- One sector of a row that has prefetch entries. -/
def Landing.sector (x : Landing) (a : Agent) (entries : List PfSector) (row at' va : Nat) : Landing :=
  match entries.find? fun p => p.row == row && p.osByte == at' && p.va == va with
  | none => x.fetch a at' va
  | some p =>
    if p.deferred.isSome then x.refetch a at' va
    else
      match p.landed with
      | none => { x with blocked := true }
      | some bytes =>
        let t := x.run.dev.frameHolds a p
        let y : Landing := { x with run := { x.run with dev := t.2 } }
        if !t.1 then ({ y with rechecks := insertNew p.slot y.rechecks } : Landing).refetch a at' va
        else if p.unchecked then y.fetch a at' va
        else { y with out := y.out ++ [(at', bytes)], slots := insertNew (at' / lineBytes, p.slot) y.slots }

/-- One valid row. -/
def Cpy.landRow (k : Cpy) (a : Agent) (entries : List PfSector) (sel : List IdxSel) (x : Landing) (i : Nat) : Landing :=
  let n := 2 * k.rowLines
  let at' := k.rowOs i
  match nthD sel i .zeroRow with
  | .zeroRow => { x with out := x.out ++ sectorPieces n at' (zeroBytes (32 * n)) }
  | .fault _ | .poisoned => { x with out := x.out ++ sectorPieces n at' (List.replicate (32 * n) ⟨0, true⟩) }
  | .row j =>
    let va := k.rowVa j
    if entries.any fun p => p.row == i then
      (List.range n).foldl (fun x q => x.sector a entries i (at' + 32 * q) (va + 32 * q)) x
    else
      let r := x.run.read a va (32 * n)
      { x with run := r.2, out := x.out ++ sectorPieces n at' r.1 }

/-! ### Transfers between cores (R180 to R184) -/

/-- Puts a sector into a transfer, in place of one for the same byte. -/
def Transfer.push (t : Transfer) (p : Nat × List PByte) : Transfer :=
  if t.lines.any fun q => q.1 == p.1 then { t with lines := t.lines.map fun q => if q.1 = p.1 then p else q }
  else { t with lines := t.lines ++ [p] }

/-- Keeps the sectors of rows that the leader commits; the others are squashed at the member (R181). -/
def Transfer.keep (t : Transfer) (ats : List Nat) : Transfer × List (List PByte) :=
  let gone := t.lines.filter fun q => !ats.contains q.1
  ({ t with lines := t.lines.filter fun q => ats.contains q.1
            delivered := ((t.lines.take t.delivered).filter fun q => ats.contains q.1).length
            entries := t.entries.filter fun q => ats.any fun a => a / lineBytes == q.1 }, gone.map (·.2))

/-- The cores of a multicast group that receive its transfers: live members other than the leader (R184). -/
def Dev.receivers (s : Dev) (g : CoreGroup) (leader : CoreId) : List CoreId :=
  (g.cores.map (Fin.ofNat 256)).filter fun m => m != leader && s.inGroups m

/-- Changes a member's transfer number k of a group, creating it with the leader's parameters when absent. -/
def Dev.modTransfer (s : Dev) (m leader : CoreId) (k : Cpy) (number : Nat) (f : Transfer → Transfer) : Dev :=
  let t0 : Transfer :=
    { ring := false, group := k.group, number := number, sender := leader, rows := k.rows, rowLines := k.rowLines
      osAddr := k.osAddr, osStride := k.osStride, lines := [], delivered := 0, entries := [], whole := false }
  s.modCore m fun x =>
    if x.inbox.any fun t => !t.ring && t.group == k.group && t.number == number then
      { x with inbox := x.inbox.map fun t => if !t.ring && t.group == k.group && t.number == number then f t else t }
    else if number < Tab.get 0 x.received k.group then x
    else { x with inbox := x.inbox ++ [f t0] }

/-- The number of a leader's multicast: those sent, and its earlier ones of the group not yet sent (R181). -/
def Core.multicastNumber (x : Core) (e : WEntry) (group : Nat) : Nat :=
  let earlier := x.window.takeWhile fun w => !sameEntry w e
  Tab.get 0 x.sent group + (earlier.filter fun w =>
    classOf w.desc == 8 && opcodeOf w.desc < 2 && (cpyOf w.desc).group == group && w.mark == 0 && w.phase != .completed).length

/-- Gives one member the committed sectors; its sectors of other rows are squashed (R181). -/
def Dev.multicastTo (s : Dev) (h : HoldId) (c m : CoreId) (k : Cpy) (n : Nat) (ats : List Nat)
    (out : List (Nat × List PByte)) : Dev :=
  let old := (s.core m).inbox.find? fun t => !t.ring && t.group == k.group && t.number == n
  let gone : List (List PByte) := (old.map fun t => (t.keep ats).2).getD []
  let d1 := s.modTransfer m c k n fun t => { out.foldl Transfer.push (t.keep ats).1 with whole := true }
  if gone.isEmpty then d1
  else (d1.modCore m Core.nextEpoch).countSquash (some h) m (32 * gone.length)
    (gone.filter fun l => l.any (·.poison)).length

/-- Sends the committed sectors of a multicast to every receiving member. -/
def Dev.multicast (s : Dev) (h : HoldId) (c : CoreId) (e : WEntry) (k : Cpy) (out : List (Nat × List PByte)) : Dev :=
  match (s.holding h).multicast k.group c.val with
  | none => s
  | some g =>
    let n := (s.core c).multicastNumber e k.group
    let ats := out.map (·.1)
    let s1 := (s.receivers g c).foldl (fun d m => d.multicastTo h c m k n ats out) s
    s1.modCore c fun x => { x with sent := Tab.set 0 x.sent k.group (n + 1) }

/-- Every live member has received every valid row of the leader's last multicast of the group (R182). -/
def Dev.multicastDone (s : Dev) (h : HoldId) (c : CoreId) (group : Nat) : Bool :=
  match (s.holding h).multicast group c.val with
  | none => true
  | some g =>
    let n := Tab.get 0 (s.core c).sent group - 1
    (s.receivers g c).all fun m =>
      (s.core m).inbox.all fun t => t.ring || t.group != group || t.number != n || t.delivered == t.lines.length

/-! ### LOAD and GATHER_LOAD (R162 to R176) -/

/-- Poisoned sectors among those that land (R176). -/
def poisonedPieces (out : List (Nat × List PByte)) : Nat := (out.filter fun p => p.2.any (·.poison)).length

/-- Adds the index counts of a GATHER_LOAD to the core's Windrow counters (R163). -/
def Run.indexCounts (r : Run) (c : CoreId) (h : HoldId) (x : WRun) : Run :=
  let r1 := (((r.count h (wdrReg c 0x28) x.zero).count h (wdrReg c 0x30) x.clamp).count h (wdrReg c 0x38) x.fault).count h
    (wdrReg c 0x40) x.idxPoison
  if x.used then { r1 with dev := r1.dev.poisonUse (some h) c } else r1

/-- The counter that a prediction moves when its descriptor starts (R171). -/
def Run.predicted (r : Run) (c : CoreId) (h : HoldId) (e : WEntry) (n : Nat) : Run :=
  match e.pfPredicted with
  | none => r
  | some p => if n < p then r.count h (ctrReg c 0x20) 1 else if p < n then r.count h (ctrReg c 0x28) 1 else r

/-- Commits and fetches the valid rows; a multicast goes on until its members have it. -/
def loadBody (c : CoreId) (a : Agent) (e : WEntry) (r : Run) : Option (Run × Bool) :=
  let k := cpyOf e.desc
  let h := a.holding
  if e.mark ≠ 0 then
    if r.dev.multicastDone h c k.group then some (r, true) else none
  else
    let v := k.valid e
    let n := v.1
    let mine := fun (p : PfSector) => p.index == e.index && p.stream == e.stream && !p.freed
    let entries := (r.dev.core c).pf.filter mine
    let sel := k.selectRows c a e n v.2 r
    let land := (List.range n).foldl (k.landRow (k.dataAgent a) entries sel.1) { run := sel.2.run }
    if land.blocked then none
    else
      let d1 := land.run.dev.squash (some h) c fun p => mine p && decide (n ≤ p.row)
      let d2 := d1.modCore c fun x =>
        ({ x with pf := (x.pf.filter fun p => !mine p || p.inFlight).map fun p => if mine p then { p with freed := true } else p }
          : Core).land land.slots land.out
      let r3 := (({ land.run with dev := d2 } : Run).indexCounts c h sel.2).count h (ctrReg c 0x40) (poisonedPieces land.out)
      let r4 := ((r3.count h (ctrReg c 0x30) land.deferFaults).count h (xltReg a.die 0x30) land.rechecks.length).count h
        (xfmReg c 0x18) (if k.misaligned n then 1 else 0)
      let r5 := r4.predicted c h e n
      let d6 := if land.deferFaults = 0 then r5.dev else r5.dev.event (coreEvent c) evDeferFault
      if k.group = 0 ∨ e.stream = 1 ∨ e.replay then some ({ r5 with dev := d6 }, true)
      else
        let d7 := (d6.multicast h c e k land.out).modEntry c e fun w => { w with mark := 1 }
        some ({ r5 with dev := d7 }, d7.multicastDone h c k.group)

/-! ### STORE (R162, R164, R203, R383) -/

def storeBody (c : CoreId) (a : Agent) (e : WEntry) (r : Run) : Option Run :=
  let k := cpyOf e.desc
  let v := k.valid e
  let h := a.holding
  let may := (r.dev.holding h).mayWrite c e
  if may = .waitClaim then none
  else
    let core := r.dev.core c
    let r1 := if may = .drop then r
      else (List.range v.1).foldl (fun (r : Run) i =>
        r.write (k.dataAgent a) false (k.rowVa (v.2 + i)) (core.osRead (k.rowOs i) k.rowBytes)) r
    some (r1.count h (xfmReg c 0x18) (if k.misaligned v.1 then 1 else 0))

/-! ### MCAST_RECV and RING_RECV (R181 to R184) -/

/-- Writes received sectors, counting those with poison; those that stood in entries are remapped. -/
def Run.receive (r : Run) (c : CoreId) (h : HoldId) (slots : List (Nat × Nat)) (out : List (Nat × List PByte)) : Run :=
  (r.modCore c fun x => x.land slots out).count h (ctrReg c 0x40) (poisonedPieces out)

/-- Receives from the home copy (R184, R254). -/
def Cpy.fromHome (k : Cpy) (c : CoreId) (a : Agent) (r : Run) : Run :=
  let out := (List.range k.rows).foldl (fun (st : List (Nat × List PByte) × Run) i =>
    let x := st.2.read (k.dataAgent a) (k.rowVa i) k.rowBytes
    (st.1 ++ sectorPieces (2 * k.rowLines) (k.rowOs i) x.1, x.2)) ([], r)
  ((out.2.receive c a.holding [] out.1).count a.holding (ctrReg c 0x48) 1).count a.holding (xfmReg c 0x18)
    (if k.misaligned k.rows then 1 else 0)

/-- The core that sends what a receive takes: the leader of its multicast group, or the ring predecessor. -/
def Holding.senderOf (x : Holding) (k : Cpy) (c : CoreId) (ring : Bool) : Option CoreId :=
  if ring then
    (x.groups.find? fun g => g.ring && g.cores.contains c.val).bind fun g =>
      let i := (g.cores.findIdx? (· == c.val)).getD 0
      (g.cores[(i + g.cores.length - 1) % g.cores.length]?).map (Fin.ofNat 256)
  else (x.multicast k.group c.val).bind fun g => g.cores.head?.map (Fin.ofNat 256)

/-- The key under which transfers of a group are numbered. -/
def transferKey (ring : Bool) (group : Nat) : Nat := if ring then 64 else group

/-- The operand-store byte of line i of a receive. -/
def Cpy.lineOs (k : Cpy) (i : Nat) : Nat := k.rowOs (i / k.rowLines) + i % k.rowLines * lineBytes

/-- A transfer's lines at the receiver's own rows, in order. -/
def Cpy.ringPieces (k : Cpy) (t : Transfer) : List (Nat × List PByte) :=
  let lines := t.lines.take (k.rows * k.rowLines)
  (List.range lines.length).map fun i => (k.lineOs i, (nthD lines i (0, [])).2)

/-- The lines that a receive remaps onto a transfer's entries: the lines of a multicast are the sender's own. -/
def Cpy.entrySlots (k : Cpy) (t : Transfer) : List (Nat × Nat) :=
  if t.ring then
    (List.range (min t.lines.length (k.rows * k.rowLines))).filterMap fun i =>
      (t.entries.find? fun q => q.1 == (nthD t.lines i (0, [])).1).map fun q => (k.lineOs i / lineBytes, q.2.1)
  else t.entries.map fun q => (q.1, q.2.1)

/-- A receive has its transfer: the next of the group is awaited, and one that was not taken is not sent (R184). -/
def Dev.tookTransfer (s : Dev) (c : CoreId) (ring : Bool) (key num : Nat) : Dev :=
  let mine := fun (t : Transfer) => t.ring == ring && (t.group == key) && t.number == num
  ((s.core c).inbox.filter mine).foldl Dev.releaseRetained (s.modCore c fun x =>
    { x with received := Tab.set 0 x.received key (num + 1), inbox := x.inbox.filter fun t => !mine t })

def recvBody (ring : Bool) (c : CoreId) (a : Agent) (e : WEntry) (r : Run) : Option Run :=
  let k := cpyOf e.desc
  let h := a.holding
  let core := r.dev.core c
  let key := transferKey ring k.group
  let num := Tab.get 0 core.received key
  let took := fun (x : Run) => { x with dev := x.dev.tookTransfer c ring key num }
  if e.stream = 1 ∨ e.replay then some (k.fromHome c a r)
  else
    match core.inbox.find? fun t => t.ring == ring && (t.group == key) && t.number == num with
    | some t =>
      let came := t.whole && t.delivered == t.lines.length
      if !came && !r.dev.inGroups t.sender then some (took (k.fromHome c a r))
      else if !came then none
      else
        let same := ring || (t.rows == k.rows && t.rowLines == k.rowLines && t.osAddr == k.osAddr && t.osStride == k.osStride)
        let out := if ring then k.ringPieces t
          else if same then t.lines
          else (List.range k.rows).flatMap fun i =>
            sectorPieces (2 * k.rowLines) (k.rowOs i) (List.replicate k.rowBytes ⟨0, true⟩)
        let r1 := took (r.receive c h (if same then k.entrySlots t else []) out)
        some (if same then r1 else { r1 with dev := r1.dev.runFault c (some h) e.index .badParameter })
    | none =>
      match (r.dev.holding h).senderOf k c ring with
      | some p =>
        if r.dev.inGroups p && r.dev.inGroups c && decide (Tab.get 0 (r.dev.core p).sent key ≤ num) then none
        else some (took (k.fromHome c a r))
      | none => some (took (k.fromHome c a r))

/-! ### Delivery (R181 to R183) -/

/-- The line of the next piece of a transfer, at the sender. -/
def Transfer.nextLine (t : Transfer) : Nat :=
  let p := (nthD t.lines t.delivered (0, [])).1
  if t.ring then p else p / lineBytes

/-- Whether a receive that has started at a core takes a transfer. -/
def Core.awaits (x : Core) (t : Transfer) : Bool :=
  match x.running 8 [if t.ring then 4 else 3] with
  | some e => t.group == transferKey t.ring (cpyOf e.desc).group && t.number == Tab.get 0 x.received t.group
  | none => false

/-- The next piece of a transfer can be delivered to a core: its entry stands, one is free, or its receive has started. -/
def Dev.deliverable (s : Dev) (c : CoreId) (t : Transfer) : Bool :=
  let x := s.core c
  decide (t.delivered < t.lines.length) && s.inGroups t.sender &&
    (x.awaits t || t.entries.any (fun q => q.1 == t.nextLine) || (s.freeSlots c != [] && !x.epochHeld))

/-- The next piece of a transfer lands in its entry, or goes straight to the receive that has started. One between the halves of
the package carries a crossing number (R411). -/
def Dev.landPiece (s : Dev) (c : CoreId) (t : Transfer) : Dev :=
  let x := s.core c
  let p := nthD t.lines t.delivered (0, [])
  let same := fun (q : Transfer) => q.ring == t.ring && q.group == t.group && q.number == t.number
  let slot : Option Nat :=
    match t.entries.find? fun q => q.1 == t.nextLine with
    | some q => some q.2.1
    | none => if x.awaits t || x.epochHeld then none else (s.freeSlots c).head?
  let entries := match slot with
    | some l => if t.entries.any (fun q => q.1 == t.nextLine) then t.entries else t.entries ++ [(t.nextLine, l, x.epoch)]
    | none => t.entries
  (s.cross t.sender.val (t.sender.val / 8) (c.val / 8)).modCore c fun y =>
    let z := match slot with | some l => y.fillEntry l (if t.ring then 0 else p.1) p.2 | none => y
    { z with inbox := z.inbox.map fun q => if same q then { q with delivered := q.delivered + 1, entries := entries } else q }

/-- Delivers the next piece of the earliest transfer of a kind that can go on; the lines of a ring transfer that has left
are no longer retained (R182, R183). -/
def Dev.deliver (s : Dev) (c : CoreId) (ring : Bool) : Dev :=
  match (s.core c).inbox.find? fun t => t.ring == ring && s.deliverable c t with
  | some t =>
    if !s.coreRuns c then s
    else if t.delivered + 1 == t.lines.length then (s.landPiece c t).releaseRetained t else s.landPiece c t
  | none => s

/-! ### The Coulter (R165 to R175) -/

/-- The descriptors that the Coulter serves: the four earliest accepted LOADs and GATHER_LOADs (R165). -/
def Core.served (x : Core) : List WEntry :=
  (x.window.filter fun e => e.phase == .accepted && classOf e.desc == 8 && opcodeOf e.desc < 2).take 4

/-- The entries of the window before one. -/
def Core.before (x : Core) (e : WEntry) : List WEntry := x.window.takeWhile fun w => !sameEntry w e

/-- A fence that orders memory stands before an entry of its stream and has not completed (R168, R211). -/
def Core.fencedOff (x : Core) (e : WEntry) : Bool :=
  (x.before e).any fun w =>
    w.stream == e.stream && classOf w.desc == 7 && [0, 2, 4].contains (opcodeOf w.desc) && w.phase != .completed

/-- The length that the Coulter takes for an entry, and whether it is a prediction (R170). -/
def Core.foreseen (x : Core) (hold : Holding) (e : WEntry) (lreg : Nat) : Option Nat × Bool :=
  if lreg = 0 then (none, false)
  else
    let pending := (x.before e).any fun w => w.phase != .completed &&
      ((hold.stages.find? fun g => g.inherited == (w.stream == 1)).any fun g => ((resOf w.desc x hold g.dfn).lrW).contains lreg)
    if pending then (some (Tab.get 0 x.lastLen lreg), true) else (some (x.lreg lreg), false)

/-- The shift of an entry's rows as the Coulter can tell it: under TALLY the tile that its stream holds, none without one
and none while an earlier take or retirement of the counter is still to come (R198, R199). -/
def Core.foreseenShift (x : Core) (hold : Holding) (c : CoreId) (e : WEntry) (k : Cpy) : Option Nat :=
  if k.tally = 0 then some 0
  else if (x.before e).any fun w => w.stream == e.stream && classOf w.desc == 7 && [5, 6].contains (opcodeOf w.desc)
      && (fenOf w.desc).counter == k.tally && w.phase != .completed then none
  else (((hold.stageOf c e.stream).bind (·.slot k.tally)).bind (·.tile)).map (· * k.rows)

/-- What the Coulter finds when it looks ahead. -/
inductive Ahead where
  /-- it must wait for a channel -/
  | wait
  /-- nothing is fetched for the row -/
  | skip
  | row (j : Nat)
  deriving DecidableEq, Repr

/-- Whether a read of a block by its holding would reach its data without a fault (R175). -/
def Dev.readsPlain (s : Dev) (h : HoldId) (b : Nat) : Bool :=
  let t := s.tag b
  !s.stackLost (s.place (b * 4096)).stack && t.owner == .holding h && (t.zero || !s.staleEpoch (.holding h) t.epoch)

/-- Sectors read ahead, with what R174 lets such a read change. -/
def Dev.aheadSectors (s : Dev) (o : Owner) : List Nat → List PByte × Dev
  | [] => ([], s)
  | sec :: rest =>
    let r := s.readSector1 sec o
    let y := r.2.aheadSectors o rest
    (r.1.data ++ y.1, y.2)

/-- Bytes of an index word read ahead from the pieces of its span. -/
def Dev.aheadBytes (s : Dev) (a : Agent) : List (Nat × Nat) → Ahead × List PByte × Dev
  | [] => (.row 0, [], s)
  | (va, n) :: rest =>
    if s.xlateWaits a va then (.wait, [], s)
    else
      let x := s.xlate a va false
      match x.1 with
      | .mem pa false =>
        if !x.2.readsPlain a.holding (pa / 4096) then (.skip, [], x.2)
        else if x.2.readHeld pa n || x.2.mustWait (pa / 4096) (.holding a.holding) then (.wait, [], s)
        else
          let d := ((x.2.crossTo a pa).lcSlots (x.2.place pa).stack a.cls).aheadSectors (.holding a.holding) (sectorsOf pa n)
          let y := d.2.aheadBytes a rest
          (y.1, (d.1.drop (pa % 32)).take n ++ y.2.1, y.2.2)
      | _ => (.skip, [], x.2)

/-- The memory row of the row at a shift, as the Coulter reads its index now (R163). -/
def Cpy.aheadRow (k : Cpy) (c : CoreId) (a : Agent) (s : Dev) (shift row : Nat) : Ahead × Dev :=
  if k.opcode = 0 then (.row (shift + row), s)
  else
    let word : Ahead × List PByte × Dev :=
      if k.idxMem then s.aheadBytes a.indexing (chunks (k.idxAt (shift + row)) k.idxBytes)
      else (.row 0, (s.core c).osRead (k.idxAt row) k.idxBytes, s)
    match word.1 with
    | .row _ =>
      let v := joinBytes word.2.1
      let w := k.asIndex
      let j := w.idxNum v.bits
      if v.poison then (.skip, word.2.2)
      else if w.idxIn j then (.row j.toNat, word.2.2)
      else if k.oor = 1 then (.row (w.idxClamp j), word.2.2)
      else (.skip, word.2.2)
    | x => (x, word.2.2)

/-- The sector of a row that lands in an entry, none where its page must not be fetched ahead (R169, R175, R253): `q`
counts the sectors of the row, `slot` is the entry. -/
def Dev.aheadSector (s : Dev) (a : Agent) (c : CoreId) (e : WEntry) (j q slot : Nat) : Option PfSector × Dev :=
  let k := cpyOf e.desc
  let x := s.core c
  let va := k.rowVa j + 32 * q
  let base : PfSector :=
    { id := x.pfNext + q, slot := slot, index := e.index, stream := e.stream, row := e.pfRows
      osByte := k.rowOs e.pfRows + 32 * q, va := va, epoch := x.epoch, landed := none, deferred := none, unchecked := false
      generation := (s.holding a.holding).generation, frame := none, freed := false }
  let t := s.xlate a va false
  match t.1 with
  | .mem _ true => (none, t.2)
  | .host _ => (none, t.2)
  | .mem pa false => (some { base with frame := some (pa / 4096) }, t.2.crossAhead a c pa base.id)
  | .fault kind => (some { base with deferred := some (if kind = 3 then .protFault else .transFault kind) }, t.2)

/-- The sectors of the entries of a row from one line on. -/
def Dev.aheadLines (s : Dev) (a : Agent) (c : CoreId) (e : WEntry) (j line : Nat) : List Nat → List PfSector × Dev
  | [] => ([], s)
  | slot :: rest =>
    let x := s.aheadSector a c e j (2 * line) slot
    let y := x.2.aheadSector a c e j (2 * line + 1) slot
    let z := y.2.aheadLines a c e j (line + 1) rest
    (x.1.toList ++ y.1.toList ++ z.1, z.2)

/-- The Coulter asks for the next row of a descriptor, or for as many of its lines as there are free entries (R165,
R166). -/
def Dev.fetchAhead (s : Dev) (c : CoreId) (h : HoldId) (e : WEntry) (shift : Nat) : Dev :=
  let k := cpyOf e.desc
  let a := k.dataAgent ((s.core c).agent c h e)
  let next := fun (d : Dev) (rows lines : Nat) => d.modEntry c e fun w => { w with pfRows := rows, pfLines := lines }
  let i := k.aheadRow c a s shift e.pfRows
  match i.1 with
  | .wait => s
  | .skip => next i.2 (e.pfRows + 1) 0
  | .row j =>
    let slots := (s.freeSlots c).take (k.rowLines - e.pfLines)
    let upTo := e.pfLines + slots.length
    if (chunks (k.rowVa j + 64 * e.pfLines) (64 * slots.length)).any (fun p => i.2.xlateWaits a p.1) then s
    else
      let es := i.2.aheadLines a c e j e.pfLines slots
      let d1 := if k.rowLines ≤ upTo then next es.2 (e.pfRows + 1) 0 else next es.2 e.pfRows upTo
      let d2 := d1.modCore c fun y => { y with pf := y.pf ++ es.1, pfNext := y.pfNext + 2 * upTo }
      if e.replay then d2 else d2.count (some h) (ctrReg c 0x10) (32 * (es.1.filter (·.asked)).length)

/-- COULTER_PREFETCH: the next row of one served descriptor. -/
def Dev.prefetch (s : Dev) (c : CoreId) (slot : Nat) : Dev :=
  let x := s.core c
  match x.window[slot]?, s.holdingOfCore c with
  | some e, some h =>
    let k := cpyOf e.desc
    if !s.coreRuns c || !(x.served.any fun w => sameEntry w e) || (!k.stable && x.fencedOff e)
        || s.reg (ctrReg c 8) = 0 then s
    else
      match x.foreseenShift (s.holding h) c e k with
      | none => s
      | some shift =>
        let ahead := x.foreseen (s.holding h) e k.lreg
        let rows := validCount k.rows (k.off + shift) ahead.1
        let s1 := if ahead.2 then s.modEntry c e fun w => { w with pfPredicted := some rows } else s
        if decide (0x1000000 ≤ x.outstanding) || s.freeSlots c = [] || x.epochHeld || rows ≤ e.pfRows then s1
        else s1.fetchAhead c h e shift
  | _, _ => s

/-- The address that a speculative request reads. -/
def PfSector.pa (p : PfSector) : Nat := p.frame.getD 0 * 4096 + p.va % 4096

/-- Where a speculative sector lands: the entry's new state (R174, R175, R384). -/
def Dev.landSector (s : Dev) (h : HoldId) (p : PfSector) : PfSector × Dev :=
  if !s.readsPlain h (p.pa / 4096) then ({ p with deferred := some .badTag }, s)
  else
    let r := s.readSector1 (p.pa / 32) (.holding h)
    if r.1.data.any (·.poison) then ({ p with deferred := some .badTag }, r.2)
    else ({ p with landed := some r.1.data, unchecked := !r.1.checked }, r.2)

/-- Entries of the same request for a whole block as one. -/
def PfSector.sameBlock (p q : PfSector) : Bool :=
  p.index == q.index && p.stream == q.stream && p.row == q.row && p.frame == q.frame && !q.freed

/-- The last sector of a whole block has come in: its data is checked as R230 says, and a block that fails lands nothing. -/
def Dev.aheadVerdict (s : Dev) (c : CoreId) (h : HoldId) (p : PfSector) : Dev :=
  let b := p.frame.getD 0
  let all := (s.core c).pf.filter p.sameBlock
  if (s.tag b).zero || !((List.range 128).all fun i => all.any fun q => q.va % 4096 / 32 == i && q.landed.isSome) then s
  else
    let data := (blockSectors b).flatMap fun x =>
      (s.stored (x * 32) 32).map fun v => (⟨v, Tab.get false s.secPoison x⟩ : PByte)
    let v := s.verdict b (.holding h) data
    if !v.1 then s
    else
      let drop := fun (q : PfSector) => if p.sameBlock q then { q with landed := none, deferred := some .badTag } else q
      s.releasePoisoned (v.2.modCore c fun y => { y with pf := y.pf.map drop }) b

/-- The leader's members receive a sector that has landed (R181). -/
def Dev.forwardSector (s : Dev) (h : HoldId) (c : CoreId) (p : PfSector) (bytes : List PByte) : Dev :=
  let x := s.core c
  match x.window.find? fun w => w.index == p.index && w.stream == p.stream with
  | none => s
  | some e =>
    let k := cpyOf e.desc
    if k.group = 0 || e.stream == 1 || e.replay || p.unchecked then s
    else
      match (s.holding h).multicast k.group c.val with
      | none => s
      | some g =>
        let n := x.multicastNumber e k.group
        (s.receivers g c).foldl (fun d m => d.modTransfer m c k n fun t => t.push (p.osByte, bytes)) s

/-- A request has come back. -/
def Core.returned (x : Core) (f : List PfSector → List PfSector) : Core :=
  let pf := f x.pf
  { x with pf := pf, epochHeld := x.epochHeld && pf.any fun p => p.inFlight && p.epoch == x.epoch }

/-- The device as a speculative read is served: the requester keeps it no longer, and it goes in its descriptor's class
(R164, R411). -/
def Dev.comesBack (s : Dev) (c : CoreId) (p : PfSector) : Dev :=
  let cls : MemClass := (((s.core c).window.find? fun w => w.index == p.index && w.stream == p.stream).map fun e =>
    if (cpyOf e.desc).bulk then MemClass.bulk else .ordinary).getD .ordinary
  (s.crossBack c p.id).lcSlots (s.place p.pa).stack cls

/-- PREFETCH_RETURN: the sector of a request comes back; one of a freed entry is dropped (R172, R181). -/
def Dev.prefetchReturn (s : Dev) (c : CoreId) (id : Nat) : Dev :=
  let x := s.core c
  match x.pf.find? fun p => p.id == id && p.inFlight, s.holdingOfCore c with
  | some p, some h =>
    if s.readHeld p.pa 32 then s
    else
      let r := (s.comesBack c p).landSector h p
      if p.freed then r.2.modCore c fun y => y.returned fun l => l.filter fun q => q.id != id
      else
        let s1 := r.2.modCore c fun y => y.returned fun l => l.map fun q => if q.id = id then r.1 else q
        match r.1.landed with
        | none => s1
        | some bytes =>
          ((s1.modCore c fun y => y.fillEntry p.slot p.osByte bytes).forwardSector h c r.1 bytes).aheadVerdict c h r.1
  | some p, none => s.modCore c fun y => y.returned fun l => l.filter fun q => q.id != p.id
  | _, _ => s

/-! ### The commands -/

def execLoad (c : CoreId) (s : State) : Host.Outcome State Fault Refusal :=
  work s (s.dev.memScope (s.dev.runPhased c 8 [0] (loadBody c)))
def execGatherLoad (c : CoreId) (s : State) : Host.Outcome State Fault Refusal :=
  work s (s.dev.memScope (s.dev.runPhased c 8 [1] (loadBody c)))
def execStore (c : CoreId) (s : State) : Host.Outcome State Fault Refusal :=
  work s (s.dev.memScope (s.dev.runUnit c 8 [2] (storeBody c)))
def execMcastRecv (c : CoreId) (s : State) : Host.Outcome State Fault Refusal :=
  work s (s.dev.memScope (s.dev.runUnit c 8 [3] (recvBody false c)))
def execRingRecv (c : CoreId) (s : State) : Host.Outcome State Fault Refusal :=
  work s (s.dev.memScope (s.dev.runUnit c 8 [4] (recvBody true c)))
def execCoulterPrefetch (c : CoreId) (slot : Fin 16) (s : State) : Host.Outcome State Fault Refusal :=
  work s (s.dev.memScope (s.dev.prefetch c slot.val))
def execPrefetchReturn (c : CoreId) (request : Nat) (s : State) : Host.Outcome State Fault Refusal :=
  work s (s.dev.memScope (s.dev.prefetchReturn c request))
def execMcastDelivery (c : CoreId) (s : State) : Host.Outcome State Fault Refusal :=
  work s (s.dev.memScope (s.dev.deliver c false))
def execRingTransferDelivery (c : CoreId) (s : State) : Host.Outcome State Fault Refusal :=
  work s (s.dev.memScope (s.dev.deliver c true))

end Sys2Proof.Machine
end

