-- ==== Sys2Proof/Machine/Clock.lean ====
section
/-! DEFINITION. The tick of device time (R476, R323): what the block does while no command waits. -/

namespace Sys2Proof.Machine

open Sys2Proof

/-- One tick of device time with its slewing: at most one tick in 1,024 is added or withheld (R323). -/
def TimeSync.tick (t : TimeSync) : Nat × TimeSync :=
  if t.slew = 0 ∨ t.sinceSlew < 1023 then (1, { t with sinceSlew := min (t.sinceSlew + 1) 1023 })
  else if 0 < t.slew then (2, { t with slew := t.slew - 1, sinceSlew := 0 })
  else (0, { t with slew := t.slew + 1, sinceSlew := 0 })

/-- The device is the time master: its parent port is 0xF (R322). -/
def Dev.isMaster (s : Dev) : Bool := (s.reg (klxReg 0 0x304)).setWidth 4 == (0xF : BitVec 4)

/-- What passes without a command. Without input power or in OFF, device time stands (R482, R549); in holdover it is a cycle
of the 47 MHz reference, which gives 20 ticks (R478); else a tick. The time master's time runs free: a slew that was left when it
became the master is dropped (R322). -/
def Dev.idle (s : Dev) : Dev :=
  if !s.pins.inputPower || s.power.state == .off then s
  else if s.power.holdover then { s with dt := s.dt + 20 }
  else if s.isMaster then { s with dt := s.dt + 1, time := { s.time with slew := 0 } }
  else { s with dt := s.dt + BitVec.ofNat 64 s.time.tick.1, time := s.time.tick.2 }

end Sys2Proof.Machine
end

