-- ==== Sys2Proof/Machine/Record.lean ====
section
/-! DEFINITION. The step record (R528 to R533): the totals of a holding and of the device over a step, in the layout
of R530, and its delivery into the latest 64. -/

namespace Sys2Proof.Machine

open Sys2Proof

def le16 (v : Nat) : List Byte := leBytes 2 v
def le32 (v : Nat) : List Byte := leBytes 4 v
def le64 (v : Nat) : List Byte := leBytes 8 v

/-- The sum of a 32-bit total over the kinds of die that carry its counter; it stops (R528). -/
def stop32 (n : Nat) : Nat := min n 0xFFFFFFFF

/-- The keys of counters in offset order: a kind of die, an offset, and their number. -/
def mapKeys (kind off n : Nat) : List Nat := (List.range n).map fun i => kind * 0x40000 + off + 8 * i

/-- A total of the holding's own. -/
def StepTotals.own (t : StepTotals) (k : Nat) : Nat := Tab.get 0 t.totals k

/-- What the device has counted over the holding's step (R529). -/
def Dev.deviceSum (s : Dev) (t : StepTotals) (ks : List Nat) : Nat :=
  (ks.map fun k => Tab.get 0 s.shadow k - Tab.get 0 t.base k).sum
def Dev.deviceTotal (s : Dev) (t : StepTotals) (ks : List Nat) : Nat := stop32 (s.deviceSum t ks)

/-- A counter of a memory controller: both tiers carry it (R242). -/
def stackKeys (off : Nat) : List Nat := [0x40000 + 0x10000 + off, 3 * 0x40000 + 0x10000 + off]

/-- A counter that every die that translates carries (R268). -/
def everyDie (off : Nat) : List Nat := [off, 2 * 0x40000 + off, 5 * 0x40000 + off]

def ownKeys (t : StepTotals) (ks : List Nat) : List Byte := ks.flatMap fun k => le32 (stop32 (t.own k))
def ownSum (t : StepTotals) (ks : List Nat) : Nat := stop32 ((ks.map t.own).sum)

/-- SAT then NONFIN by unit and format (R43, R530). -/
def recordNumeric (t : StepTotals) : List Byte :=
  (List.range 4).flatMap fun u => (List.range 11).flatMap fun f =>
    le32 (t.own (0x9000 + u * 0x80 + f * 8)) ++ le32 (t.own (0x9000 + u * 0x80 + f * 8 + 4))

/-- Stalls by unit and cause (R188). -/
def recordStalls (t : StepTotals) : List Byte :=
  (List.range 4).flatMap fun u => (List.range 8).flatMap fun c => le32 (t.own (0xE000 + u * 0x40 + c * 8))

/-- PLG, SEQ and VEC, WDR, CTR, XFM and TLY in map order, then XLT from +0x20. -/
def recordUnits (t : StepTotals) : List Byte :=
  ownKeys t (mapKeys 0 0xA008 12 ++ mapKeys 0 0xB010 10 ++ mapKeys 0 0xC008 10 ++ mapKeys 0 0xD010 8 ++ mapKeys 0 0xF008 4
    ++ mapKeys 0 0x10008 6)
  ++ [0x11020, 0x11028, 0x11030, 0x11038].flatMap fun o => le32 (ownSum t (everyDie o))

/-- Poisoned sectors, owner mismatches and stale reads of the holding; then the device totals of R242. -/
def Dev.recordMemory (s : Dev) (t : StepTotals) : List Byte :=
  le32 (t.own poisonKey) ++ le32 (ownSum t (stackKeys 0x68)) ++ le32 (ownSum t (stackKeys 0x70))
  ++ (List.range 18).flatMap fun i => le32 (s.deviceTotal t (stackKeys (0x10 + 8 * i)))

/-- Per-expert totals, then DRL in map order; the stale counts lie on compute and link dies (R297). -/
def recordDrill (x : Holding) (t : StepTotals) : List Byte :=
  let total := fun (f : HomeQueue → Nat) => le32 (stop32 ((x.queues.map f).sum))
  total (·.routed) ++ total (·.accepted) ++ total (·.overflowed) ++ total (·.returned)
  ++ ownKeys t (mapKeys 0 0x12008 11)
  ++ [0x12068, 0x12070, 0x12078].flatMap fun o => le32 (ownSum t [o, 2 * 0x40000 + o])

/-- KLX_TIME_STATE (R324): the time master reads LOCKED. -/
def Dev.timeState (s : Dev) : Nat := if s.isMaster then 2 else s.time.state.val

def Dev.recordLinks (s : Dev) (t : StepTotals) : List Byte :=
  (mapKeys 2 0x13008 17).flatMap (fun k => le32 (s.deviceTotal t [k]))
  ++ le32 (t.own (2 * 0x40000 + 0x13058)) ++ le32 s.timeState

def Dev.recordReduction (s : Dev) (t : StepTotals) : List Byte :=
  (mapKeys 2 0x14008 11 ++ mapKeys 2 0x15008 12).flatMap fun k => le32 (s.deviceTotal t [k])

def Dev.recordIntegrity (s : Dev) (t : StepTotals) : List Byte :=
  (mapKeys 2 0x17008 5 ++ mapKeys 5 0x16008 7).flatMap (fun k => le32 (s.deviceTotal t [k]))
  ++ le32 (s.reg (regAt ctl 0x16000)).toNat
  ++ (mapKeys 5 0x17000 2).flatMap fun k => le32 (s.deviceTotal t [k])

/-- Mean power, the greatest ratio, the clock totals and the power counters. How the mean is rounded to watts is not
stated: `up` says whether a fraction counts as one (notes/assumptions/3). -/
def Dev.recordPower (s : Dev) (t : StepTotals) (up : Bool) : List Byte :=
  let mean := if t.samples = 0 then s.power.inputW
    else t.sumW / t.samples + if up && t.sumW % t.samples != 0 then 1 else 0
  le32 mean ++ le32 t.peakRatio
  ++ [0x19018, 0x19008, 0x19010].flatMap (fun o => le32 (s.deviceTotal t [o, 2 * 0x40000 + o]))
  ++ le32 (s.deviceTotal t [6 * 0x40000 + 0x1A008]) ++ le32 (s.deviceTotal t [6 * 0x40000 + 0x1A018]) ++ le32 0

/-- The exact sum of squares of units of 2^-300 as FP64 (R375, R377). -/
def normF64 (n : Nat) : Nat := (toF64 (.fin false n (-300))).toNat

/-- Sums over the layers (R377, R530): exact sums rounded once. -/
def recordNorms (x : Holding) : List Byte :=
  let ns := x.norms.map (·.2)
  le64 (normF64 ((ns.map (·.wsq)).sum)) ++ le64 (normF64 ((ns.map (·.gsq)).sum)) ++ le64 (normF64 ((ns.map (·.usq)).sum))
  ++ le32 (ns.filter (·.wnf)).length ++ le32 (ns.filter (·.incomplete)).length ++ le64 x.normVa

def recordFaults (t : StepTotals) : List Byte :=
  le32 (stop32 t.faultCount)
  ++ (t.faults.take 15).flatMap (fun f => le32 f.1.toNat ++ [BitVec.ofNat 8 f.2, 0, 0, 0])

/-- One reduction entry (R531). -/
def ReduceSum.bytes (r : ReduceSum) : List Byte :=
  let out := r.absent.filter fun q => q.2 != 0
  [BitVec.ofNat 8 r.group, BitVec.ofNat 8 r.reduction] ++ le16 (min out.length 0xFFFF) ++ le32 (stop32 r.short)
  ++ le32 (stop32 r.late) ++ le32 (stop32 r.scaleLate) ++ le32 (stop32 r.miss)
  ++ (List.range 16).flatMap (fun i => le16 (((out[i]?).map (·.1.toNat)).getD 0xFFFF))
  ++ List.replicate 12 0

/-- The counters whose device totals a record holds (R530). -/
def deviceKeys : List (List Nat) :=
  ((List.range 18).map fun i => stackKeys (0x10 + 8 * i))
  ++ (mapKeys 2 0x13008 17 ++ mapKeys 2 0x14008 11 ++ mapKeys 2 0x15008 12 ++ mapKeys 2 0x17008 5 ++ mapKeys 5 0x16008 7
    ++ mapKeys 5 0x17000 2 ++ [6 * 0x40000 + 0x1A008, 6 * 0x40000 + 0x1A018]).map (fun k => [k])
  ++ [0x19018, 0x19008, 0x19010].map fun o => [o, 2 * 0x40000 + o]

/-- A total of the record has stopped (R528). -/
def Dev.saturated (s : Dev) (t : StepTotals) : Bool :=
  (t.totals.any fun p => p.2 == 0xFFFFFFFF) || deviceKeys.any fun ks => decide (0xFFFFFFFF ≤ s.deviceSum t ks)

def bitmap (n : Nat) (on : Nat → Bool) : List Byte :=
  (List.range n).map fun i => BitVec.ofNat 8 ((List.range 8).foldl (fun v b => if on (8 * i + b) then v + 2 ^ b else v) 0)

/-- The 4,096 bytes of R530. -/
def Dev.recordBytes (s : Dev) (h : HoldId) (ended : Bool) (status : Status) (up : Bool) : List Byte :=
  let x := s.holding h
  let t := x.totals
  let flag := fun (b : Bool) (v : Nat) => if b then v else 0
  let flags := flag ended 1 + flag t.rollback 2 + flag (decide (15 < t.faultCount)) 4
    + flag (decide (32 < t.reductions.length)) 8 + flag (s.saturated t) 16 + flag t.restarted 32
  let live := fun n => decide (n < 256) && x.cores.contains n && s.coreLive (Fin.ofNat 256 n)
  let parked := (x.stages.filter fun g => g.runsOn.isNone).length
  let head := le16 1 ++ [BitVec.ofNat 8 h.val, BitVec.ofNat 8 flags] ++ le32 x.step.toNat ++ le16 x.epoch.toNat
    ++ le16 s.number.toNat ++ le32 x.recordSeq ++ le64 ((t.firstStart.getD 0).toNat) ++ le64 s.dt.toNat
  let chk := le32 (stop32 t.fencedUnits) ++ le32 parked ++ le32 status.code.toNat
    ++ ownKeys t [0x16028, 0x16008] ++ ownKeys t [0x16010, 0x16020, 0x16030]
  let body := area 0x40 head ++ bitmap 32 live ++ area 0x20 chk ++ area 0x160 (recordNumeric t) ++ area 0x80 (recordStalls t)
    ++ area 0x120 (recordUnits t) ++ area 0x80 (s.recordMemory t) ++ area 0x80 (recordDrill x t) ++ area 0x80 (s.recordLinks t)
    ++ area 0x80 (s.recordReduction t) ++ area 0x80 (s.recordIntegrity t) ++ area 0x40 (s.recordPower t up)
    ++ area 0x40 (recordNorms x) ++ area 0x80 (recordFaults t)
    ++ area 0x8FC ((t.reductions.take 32).flatMap (·.bytes))
  body ++ le32 (crc32c body).toNat

/-- Gotre writes the record of a step; the latest 64 stand, and the shadows return to zero (R529, R532). -/
def Dev.writeRecord (s : Dev) (h : HoldId) (ended : Bool) (status : Status) : Dev :=
  let v := s.takeFree
  let r : StepRecord := { step := (s.holding h).step, bytes := s.recordBytes h ended status (v.1.getLsbD 0) }
  v.2.modHolding h fun x =>
    { x with records := (x.records ++ [r]).drop (x.records.length + 1 - 64)
             recordSeq := (x.recordSeq + 1) % 2 ^ 32, totals := { base := s.shadow } }

end Sys2Proof.Machine
end

