-- ==== Sys2Proof/Machine/Abort.lean ====
section
/-! DEFINITION. The hardware abort path (R439 to R441): how an abort begins, how it ends, how the epoch advances, and
how a function becomes enabled. -/

namespace Sys2Proof.Machine

open Sys2Proof

/-- The epoch after e: it never takes the value 0 (R441). -/
def nextEpoch (e : BitVec 16) : BitVec 16 := if e = 0xFFFF then 1 else e + 1

/-- The queues of a holding. -/
def Dev.queuesOf (s : Dev) (h : HoldId) : List Nat :=
  (s.queues.filter fun q => q.2.holding == some h && q.2.state != .free).map (·.1)
def Dev.modQueues (s : Dev) (h : HoldId) (f : Nat → Queue → Queue) : Dev :=
  (s.queuesOf h).foldl (fun d n => d.modQueue n (f n)) s

/-- A stage table in force names the queue (R442). -/
def Holding.bindsQueue (x : Holding) (q : Nat) : Bool := x.stages.any fun g => g.dfn.queue == q

def Holding.coreIds (x : Holding) : List CoreId := (x.cores.filter (· < 256)).map (Fin.ofNat 256)

/-! ### The notice (R320) -/

/-- The devices of the holding's collective groups. -/
def Holding.partners (x : Holding) : List (BitVec 16) :=
  (x.collectives.flatMap fun k => (k.2.map (·.members)).getD []).foldl (fun l d => insertNew d l) []

/-- The usable torus ports. -/
def Dev.torusPorts (s : Dev) : List PortId := ((List.range 6).map (Fin.ofNat 8)).filter fun p => s.usable p

def Dev.abortNotice (s : Dev) (h : HoldId) (e : BitVec 16) : Dev :=
  let s1 := s.emits (s.torusPorts.flatMap fun p => sidebandSlots p (.abortFence s.number h e))
  let away := (s.holding h).partners.filter fun d => podOf d != podOf s.number
  away.foldl (fun d n => d.send n 0 .device (.abortFence h e)) s1

/-! ### What the abort clears (R439, R440, R466) -/

/-- Step 4 at a core: its window and its registers; the prefetch is squashed apart. -/
def Core.abort (x : Core) : Core :=
  { x with window := [], inbox := [], retained := [], decision := none, hostBuf := [], batch := []
           batchPhase := 0, lregs := [], lastLen := [], grad := [], gradDirty := [] }

/-- A neighbour that recomputes for a core goes on with its own stream (R387). -/
def Dev.releaseHelper (s : Dev) (c : CoreId) : Dev :=
  match (s.core c).decision with
  | some z => s.modCore z.neighbour fun x => { x with helping := false }
  | none => s

/-- The registers of a core with the STEP apply point (R123, R187). -/
def stepRegs (c : CoreId) : List Nat := [seqReg c 8, seqReg c 0xC, ctrReg c 4, ctrReg c 8]

def Counter.clear (k : Counter) : Counter := { k with next := 0, recs := [], reissue := [], claims := [], refused := [] }

/-- The step's state of a holding that an abort discards. -/
def Holding.discardStep (x : Holding) : Holding :=
  { x with
    events := [], counters := x.counters.map (·.clear), batches := []
    queues := x.queues.map fun q => { q with held := [] }
    windows := [], reduces := [], dropped := [], trailers := [], norms := [], ownNorms := [], precond := []
    vote := none, digests := [], rollback := false, early := false, waiting := x.waiting.filter fun w => match w with | .dead _ _ => true | _ => false
    mirrorSend := x.mirrorSend.map fun m => { m with running := false } }

/-- A command of the holding (R440): of its VF, or of the PF naming it. -/
def Job.isOf (j : Job) (h : HoldId) : Bool := j.fn == vfOf h || (j.fn == 0 && j.holdingField == h.val)
/-- Commands that R437 settles itself, and those that finish through an abort (R440). -/
def lifeOpcodes : List (BitVec 16) := [0x0012, 0x0013, 0x0014]
def mapOpcodes : List (BitVec 16) := [0x0030, 0x0031]

/-- The accepted commands of the holding end with ABORTED, but for mappings, which finish. -/
def Gotre.abortJobs (g : Gotre) (h : HoldId) : Gotre × List (Nat × Status) :=
  let hit := fun (j : Job) => j.isOf h && j.phase == .accepted && !lifeOpcodes.contains j.opcode
  ({ g with jobs := g.jobs.map fun j =>
      if !hit j then j else if mapOpcodes.contains j.opcode then { j with exempt := true } else { j with phase := .running } },
   (g.jobs.filter fun j => hit j && !mapOpcodes.contains j.opcode).map fun j => (j.number, .aborted))

/-- The start of an abort: the disables of a shut-down will complete with the given status. Writes in the egress hold, now of
an earlier epoch, go on to be discarded (R253). -/
def Dev.beginAbort (s : Dev) (h : HoldId) (st : Status) : Dev :=
  let e := nextEpoch (s.holding h).epoch
  let g := s.gotre.abortJobs h
  let s1 := s.setFunc h fun x =>
    { (x.discardStep) with state := .aborting, epoch := e, drainEnd := none
                           settled := x.settled ++ x.disables.map (fun n => (n, st)) ++ g.2, disables := [] }
  let gate := s1.gate.filter fun i => i.owner != Owner.holding h
  let pend := s1.pend.filter fun p => p.owner != Owner.holding h
  let stale := ((s.holding h).batches.flatMap (·.waiting)).map fun m => drlReg (linkDie (homePort m.src)) 0x70
  let dbg := s1.service.dropGrants h
  let s2 := ({ s1 with gotre := g.1, gate := gate, pend := pend, service := dbg } : Dev).event (regAt kpr 0x100) 2
  let s3 := ((stale.foldl (fun d a => d.count (some h) a 1) s2).abortNotice h e).settleEgress (fun i => i.holding == h) .pass
  (s3.holding h).coreIds.foldl (fun d c =>
    let d1 := ((d.releaseHelper c).squashAll (some h) c).modCore c Core.abort
    { d1.setReg (seqReg c 4) 0 with
              hostReads := d1.hostReads.filter fun r => r.core != c
              slots := (stepRegs c).foldl (fun t a => Tab.set none t a none) d1.slots }) s3

/-! ### Enabling (R437, R442) -/

/-- The state of a queue when its function is enabled; a FENCED queue drops what it had accepted. -/
def Holding.wakeQueue (x : Holding) (n : Nat) (q : Queue) : Queue :=
  let st := if x.bindsQueue n then .bound else .ready
  match q.state with
  | .fenced => { q with state := st, recorded := q.accepted, skip := none }
  | .ready => { q with state := st }
  | _ => q

def Dev.enable (s : Dev) (h : HoldId) : Dev :=
  let x := s.holding h
  let s1 := s.setFunc h fun y => { y with state := .enabled, pendingEnable := false, enableJobs := [], keyLocked := true }
  (s1.modQueues h x.wakeQueue).finishJobs x.enableJobs .ok

/-- DISABLED is reached: a pending enable follows once no sweep runs. -/
def Dev.settle (s : Dev) (h : HoldId) : Dev :=
  let x := s.holding h
  if x.state == .disabled && x.pendingEnable && !x.sweep then s.enable h else s

/-! ### The end of an abort (R437, R439, R440, R442, R532) -/

/-- A stage after its accepted descriptors are discarded. -/
def Stage.discard (g : Stage) (accepted : Word32) : Stage :=
  { g with next := accepted, lastRest := accepted, replayEnd := accepted, atStep := false, slots := [], restSlots := []
           takeLog := [], lenLog := [], skipped := [] }

def Dev.endAbort (s : Dev) (h : HoldId) : Dev :=
  let x := s.holding h
  if x.state != .aborting then s
  else
    let cause := if x.ending = .ok then Status.aborted else x.ending
    let s1 := s.modQueues h fun _ q => { q with state := .fenced }
    let s2 := s1.setFunc h fun y =>
      { y with state := .disabled, abortDone := true, ending := .ok, settled := [], poisonUsed := false
               sweep := y.sweep || y.epoch == 1
               stages := y.stages.map fun g => g.discard (s.queue g.dfn.queue).accepted }
    let s3 := s2.writeRecord h true cause
    let s4 := x.settled.foldl (fun d p => d.finishJob p.1 p.2 0) s3
    (s4.holdingEnded h cause x.epoch).settle h

/-! ### Entry from a register or a command -/

/-- An abort of a holding by its state (R437): it begins one, or joins the one that runs. -/
def Dev.abortHolding (s : Dev) (h : HoldId) : Dev :=
  match (s.holding h).state with
  | .disabled | .enabled | .shuttingDown => s.beginAbort h .aborted
  | _ => s

/-- Gotre ends a holding (R397, R401, R19): with a cause that HOLDING_ENDED reports. -/
def Dev.endHolding (s : Dev) (h : HoldId) (cause : Status) : Dev :=
  match (s.holding h).state with
  | .disabled | .enabled | .shuttingDown => (s.modHolding h fun x => { x with ending := cause }).beginAbort h .aborted
  | _ => s

end Sys2Proof.Machine
end

