-- ==== Sys2Proof/Machine/Stages.lean ====
section
/-! DEFINITION. Stages on their cores (R190 to R195, R207): which core carries a stage, how a stage passes to a core with
its gradient home, and how a new stage table places its stages. -/

namespace Sys2Proof.Machine

open Sys2Proof

/-- Loads a stage's gradient home into a core's gradient tiles (R194). -/
def Dev.loadHome (s : Dev) (h : HoldId) (c : CoreId) (g : StageDef) : Dev :=
  let a : Agent := { die := c.val / 8, core := some c, holding := h }
  (List.range g.gradCount).foldl (fun d i =>
    let r := d.readOut { a with core := none } (g.gradHome + i * 65536) 65536
    r.2.modCore c fun x =>
      let y := x.setWords (16 + g.gradFirst + i) 0 ((List.range tileWords).map fun k => wordAtByte r.1 (4 * k))
      { y with gradDirty := y.gradDirty.filter (· != g.gradFirst + i) }) s
where
  /-- The word at a byte of a list. -/
  wordAtByte (l : List PByte) (i : Nat) : PWord :=
    let e := joinBytes ((l.drop i).take 4)
    ⟨BitVec.ofNat 32 e.bits, e.poison⟩

/-- Loads a stage's gradient home, or leaves it to be loaded before the stream goes on: the reads wait as every unit's do
(R194, R384). -/
def Dev.bringHome (s : Dev) (h : HoldId) (c : CoreId) (g : StageDef) : Dev :=
  let a : Agent := { die := c.val / 8, holding := h }
  let late := (List.range g.gradCount).any fun i => s.inHeld a (g.gradHome + i * 65536) 65536
  (if late then s else s.loadHome h c g).modHolding h fun x => x.modStage g.stage fun t => { t with toLoad := late }

/-- The live core of a number, if the holding has it. -/
def Dev.liveCoreOf (s : Dev) (x : Holding) (n : Nat) : Option CoreId :=
  if n < 256 && x.cores.contains n && s.coreLive (Fin.ofNat 256 n) then some (Fin.ofNat 256 n) else none

/-- A core carries an inherited stage already (R192). -/
def inheritsAlready (gs : List Stage) (c : CoreId) : Bool := gs.any fun g => g.inherited && g.runsOn == some c

/-- The first eligible successor of a stage (R192). -/
def Dev.successor (s : Dev) (x : Holding) (gs : List Stage) (d : StageDef) : Option CoreId :=
  (d.succ.filterMap fun n => s.liveCoreOf x n).find? fun c => !inheritsAlready gs c && !(s.core c).away

/-- A stage resumes on a core from its last rest point (R194, R195). -/
def Stage.resume (g : Stage) (c : CoreId) (inherited : Bool) (recorded : Word32) : Stage :=
  { g with runsOn := some c, inherited := inherited, next := g.lastRest, replayEnd := recorded, atStep := false
           slots := g.restSlots }

/-- A stage passes to a successor, which counts it (R192, R194, R457). -/
def Dev.takeOver (s : Dev) (h : HoldId) (g : Stage) (c : CoreId) : Dev :=
  let rec' := (s.queue g.dfn.queue).recorded
  let s1 := s.modHolding h fun x => x.modStage g.dfn.stage fun t => t.resume c true rec'
  ((s1.bringHome h c g.dfn).count (some h) (seqReg c 0x50) 1).event (coreEvent c) evTakeover

/-- A stage whose core is gone passes to its first eligible successor, or is parked (R192, R193). -/
def Dev.passStage (s : Dev) (h : HoldId) (g : Stage) : Dev :=
  let x := s.holding h
  match s.successor x x.stages g.dfn with
  | some c => s.takeOver h g c
  | none =>
    (s.modHolding h fun y => y.modStage g.dfn.stage fun t => { t with runsOn := none, inherited := false }).stageParked h g.dfn.stage

/-! ### A new table (R190, R191) -/

/-- A stage as a new table starts it: on its primary, a successor, or nowhere. -/
def Dev.startStage (s : Dev) (x : Holding) (gs : List Stage) (d : StageDef) : Stage :=
  let q := (s.queue d.queue).recorded
  let old := x.stages.find? fun g => g.dfn.stage == d.stage && g.dfn.queue == d.queue
  let fresh : Stage := { dfn := d, runsOn := none, inherited := false, next := q, lastRest := q, restSlots := [], replayEnd := q
                         atStep := false, slots := [], takeLog := [], lenLog := [] }
  let at' : Option CoreId × Bool :=
    match s.liveCoreOf x d.core with
    | some c => (some c, false)
    | none =>
      match s.successor x gs d with
      | some c => (some c, true)
      | none => (none, false)
  match old with
  | some g => { g with dfn := d, runsOn := at'.1, inherited := at'.2
                       next := if g.runsOn = at'.1 ∧ g.inherited = at'.2 then g.next else q }
  | none => { fresh with runsOn := at'.1, inherited := at'.2 }

/-- The table of new stages, each placed after those before it. -/
def Dev.startStages (s : Dev) (x : Holding) : List StageDef → List Stage → List Stage
  | [], gs => gs
  | d :: rest, gs => s.startStages x rest (gs ++ [s.startStage x gs d])

/-- Queues follow the table: those it names are BOUND while the function is enabled, the others READY (R442). -/
def Dev.bindQueues (s : Dev) (h : HoldId) : Dev :=
  let x := s.holding h
  s.modQueues h fun n q =>
    match q.state with
    | .ready => if x.bindsQueue n && x.state == .enabled then { q with state := .bound } else q
    | .bound => if x.bindsQueue n then q else { q with state := .ready }
    | _ => q

/-- The stage runs in a table where it ran before: on the same core, as the same stream. -/
def Stage.staysIn (o : Stage) (gs : List Stage) : Bool :=
  gs.any fun g => g.dfn.stage == o.dfn.stage && g.dfn.queue == o.dfn.queue && g.runsOn == o.runsOn && g.inherited == o.inherited

/-- A stage leaves the stream of its core: what was accepted beyond its STEP fence has not started, leaves the window with
what was fetched ahead for it, and is accepted again where the stage runs next (R191, R192). -/
def Dev.leaveStage (s : Dev) (h : HoldId) (o : Stage) : Dev :=
  match o.runsOn with
  | none => s
  | some c =>
    let st : Fin 2 := if o.inherited then 1 else 0
    (s.squash (some h) c fun p => p.stream == st).modCore c fun x => { x with window := x.window.filter fun e => e.stream != st }

/-- A new table takes the place of the old one; a stage that moves brings its gradient home with it. -/
def Dev.placeStages (s : Dev) (h : HoldId) (ds : List StageDef) (rows : List (Nat × List Nat)) : Dev :=
  let x := s.holding h
  let gs := s.startStages x ds []
  let s0 := (x.stages.filter fun o => !o.staysIn gs).foldl (fun d o => d.leaveStage h o) s
  let s1 := (s0.modHolding h fun y => { y with stages := gs, rowGroups := rows }).bindQueues h
  gs.foldl (fun d g =>
    match g.runsOn with
    | none => d.stageParked h g.dfn.stage
    | some c => if x.stages.any fun o => o.staysIn [g] then d else d.bringHome h c g.dfn) s1

/-- A parked stage for which an accepted table names a live successor runs there at once (R193). -/
def Dev.unpark (s : Dev) (h : HoldId) (ds : List StageDef) : Dev :=
  ds.foldl (fun d n =>
    let x := d.holding h
    match x.stages.find? fun g => g.dfn.stage == n.stage && g.runsOn.isNone with
    | none => d
    | some g =>
      match d.successor x x.stages n with
      | some c => d.takeOver h g c
      | none => d) s

end Sys2Proof.Machine
end

