-- ==== Sys2Proof/Machine/Transform.lean ====
section
/-! DEFINITION. The transform path (R244, R245, R255 to R264): COPY and FILL over tensors in the operand store or in
holding memory, padding, partial-byte merges, and the two phases of a batch. -/

namespace Sys2Proof.Machine

open Sys2Proof

/-! ### Where elements lie (R245) -/

/-- The packed run that holds element (i0, i1, i2, i3), and its number in the run. -/
def Tensor.at (t : Tensor) (i : List Nat) : Nat × Nat :=
  let i0 := nthD i 0 0
  let i1 := nthD i 1 0
  let outer := nthD i 2 0 * t.s 2 + nthD i 3 0 * t.s 3
  if t.layS then (stookData t.byteBase (i1 * ceilDiv (t.d 0) 32 + i0 / 32), i0 % 32)
  else if t.tiled then
    (t.byteBase + (i1 / t.tr * ceilDiv (t.d 0) t.tc + i0 / t.tc) * t.tileBytes + outer, i1 % t.tr * t.tc + i0 % t.tc)
  else (t.byteBase + i1 * t.s 1 + outer, i0)

/-- Bytes of a group of elements that share their bytes, and elements in it. -/
def groupBytes (f : Fmt) : Nat :=
  match fmtBits f with
  | 4 => 1
  | 6 => 3
  | w => w / 8

/-- The first byte of an element's group, and its lane in it. -/
def Tensor.group (t : Tensor) (i : List Nat) : Nat × Nat :=
  let p := t.at i
  (p.1 + p.2 / packGroup t.f * groupBytes t.f, p.2 % packGroup t.f)

/-- The row of an element, counted across the outer dimensions. -/
def Tensor.rowOf (t : Tensor) (i : List Nat) : Nat :=
  nthD i 1 0 + t.d 1 * (nthD i 2 0 + t.d 2 * nthD i 3 0)

/-- The byte address of the scale of an element, and the scale's size (R30, R31). -/
def Tensor.scaleOf (t : Tensor) (i : List Nat) : Nat × Nat :=
  if t.layS then (stookScale t.byteBase (nthD i 1 0 * ceilDiv (t.d 0) 32 + nthD i 0 0 / 32), 1)
  else
    let n := scaleIndex t.mode (t.d 0) (t.rowOf i) (nthD i 0 0)
    if t.mode = .block then (t.scaleByteBase + n, 1) else (t.scaleByteBase + 4 * n, 4)

/-- The positions of a box, the first dimension fastest. -/
def boxAt : List (Nat × Nat) → List (List Nat)
  | [] => [[]]
  | (lo, n) :: rest => (boxAt rest).flatMap fun t => (List.range n).map fun k => (lo + k) :: t

/-! ### The plan of a descriptor (R256, R259, R264) -/

structure XPlan where
  src : Tensor
  dst : Tensor
  /-- region start and extent by destination dimension, clipped to the tensor -/
  region : List (Nat × Nat)
  /-- its valid part -/
  valid : List (Nat × Nat)
  /-- the frame in which pads are written -/
  frame : List (Nat × Nat)
  /-- source position of destination position 0, by source dimension -/
  origin : List Int
  /-- a tensor descriptor that it goes by is poisoned: its addresses and counts are consumed (R396) -/
  poison : Bool
  deriving DecidableEq, Repr

/-- The plan of a started descriptor, none for one without a tile (R199). A tile shifts the side that lies in memory;
the bound of LREG applies to absolute rows. -/
def Xfm.plan (x : Xfm) (c : Core) (e : WEntry) : Option XPlan :=
  (e.tileShift (nthD x.extent 1 0)).map fun sh =>
    let dst := c.tensor x.dstTd
    let src := c.tensor x.srcTd
    let start := fun d => nthD x.dstStart d 0 + if d = 1 ∧ dst.mem then sh else 0
    let ext := fun d => min (nthD x.extent d 0) (dst.d d - start d)
    let from' := fun p => nthD x.srcStart p 0 + if p = 1 ∧ src.mem then (sh : Int) else 0
    let bound : Nat → Int := fun p =>
      if p ≠ 1 then (src.d p : Int)
      else
        match e.len x.lreg with
        | none => (src.d 1 : Int)
        | some l => min (src.d 1 : Int) ((l : Int) - if src.mem then 0 else (sh : Int))
    let validIn := fun d =>
      if x.opcode = 1 then (start d, ext d)
      else
        let p := nthD x.perm d 0
        let lo := (-(from' p)).toNat
        let hi := min (ext d) (bound p - from' p).toNat
        (start d + lo, hi - lo)
    let frameIn := fun d =>
      let lo := if d = 0 then x.marginLo0 else if d = 1 then x.marginLo1 else 0
      let hi := if d = 0 then x.marginHi0 else if d = 1 then x.marginHi1 else 0
      (start d - lo, min (dst.d d) (start d + ext d + hi) - (start d - lo))
    let dims := List.range 4
    { src := src, dst := dst, region := dims.map fun d => (start d, ext d), valid := dims.map validIn
      frame := dims.map frameIn
      origin := dims.map fun p => from' p - ((start ((x.perm.findIdx? (· == p)).getD p) : Nat) : Int)
      poison := c.badLine x.dstTd || (x.opcode = 0 && c.badLine x.srcTd) }

def inBox : List (Nat × Nat) → List Nat → Bool
  | (lo, n) :: b, i :: t => lo ≤ i && i < lo + n && inBox b t
  | _, _ => true

/-- The source position of a valid destination position (R256). -/
def Xfm.sourceAt (x : Xfm) (p : XPlan) (i : List Nat) : List Nat :=
  (List.range 4).map fun k => (nthD p.origin k 0 + (nthD i ((x.perm.findIdx? (· == k)).getD k) 0 : Nat)).toNat

/-! ### Reading a tensor -/

/-- Runs of consecutive numbers in a rising list: first and count. -/
def runsOf : List Nat → List (Nat × Nat)
  | [] => []
  | a :: t =>
    match runsOf t with
    | (b, n) :: rest => if a + 1 = b then (a, n + 1) :: rest else (a, 1) :: (b, n) :: rest
    | [] => [(a, 1)]

/-- Reads, once each, the sectors that some spans touch: the bytes by address. -/
def Run.gatherSpans (r : Run) (a : Agent) (spans : List (Nat × Nat)) : Tab PByte × Run :=
  let secs := (spans.flatMap fun p => sectorsOf p.1 p.2).foldl (fun l x => insertSorted x l) []
  (runsOf secs).foldl (fun (st : Tab PByte × Run) p =>
    let x := st.2.read a (p.1 * 32) (p.2 * 32)
    (st.1 ++ (List.range x.1.length).map fun i => (p.1 * 32 + i, nthD x.1 i ⟨0, false⟩), x.2)) ([], r)

/-- How the bytes of a tensor's space are read, once its spans are in. -/
def Tensor.reader (t : Tensor) (c : Core) (tab : Tab PByte) : Nat → PByte :=
  if t.mem then Tab.get ⟨0, false⟩ tab else c.osByte

/-! ### Writing a tensor (R28, R29, R261) -/

/-- One element to write: its group, the column of the group's first lane, its lane and its bits. -/
structure XCell where
  addr : Nat
  col : Nat
  lane : Nat
  elem : PElem
  /-- the decision unit of its row: 128 destination rows (R381) -/
  part : Nat
  deriving DecidableEq, Repr

/-- Cells of one group after another. -/
def groupCells : List XCell → List (Nat × Nat × List (Nat × PElem))
  | [] => []
  | c :: rest =>
    match groupCells rest with
    | (a, col, ls) :: t =>
      if a = c.addr then (a, col, (c.lane, c.elem) :: ls) :: t else (c.addr, c.col, [(c.lane, c.elem)]) :: (a, col, ls) :: t
    | [] => [(c.addr, c.col, [(c.lane, c.elem)])]

/-- Pieces that follow each other without a gap, joined. -/
def joinPieces : List (Nat × List PByte) → List (Nat × List PByte)
  | [] => []
  | (a, x) :: rest =>
    match joinPieces rest with
    | (b, y) :: t => if a + x.length = b then (a, x ++ y) :: t else (a, x) :: (b, y) :: t
    | [] => [(a, x)]

/-- Lanes of a group that keep their stored bits: elements of the tensor that are not written, and in a partial tile
every position (R28, R245, R261). -/
def Tensor.keptLanes (t : Tensor) (col : Nat) (ls : List (Nat × PElem)) : List Nat :=
  (List.range (packGroup t.f)).filter fun l => !(ls.any fun p => p.1 == l) && (t.tiled || decide (col + l < t.d 0))

/-- The bytes of a group, and whether it was merged. -/
def Tensor.groupOut (t : Tensor) (rd : Nat → PByte) (g : Nat × Nat × List (Nat × PElem)) : List PByte :=
  let kept := t.keptLanes g.2.1 g.2.2
  packRow t.f ((List.range (packGroup t.f)).map fun l =>
    match g.2.2.find? fun p => p.1 == l with
    | some p => p.2
    | none => if kept.contains l then elemAt rd g.1 t.f l else ⟨0, false⟩)

/-- Writes pieces of bytes to a tensor's space, as pending writes of the transform path in memory (R383). -/
def Run.putPieces (r : Run) (c : CoreId) (a : Agent) (t : Tensor) (send : Bool) (ps : List (Nat × List PByte)) : Run :=
  if t.mem && !send then r
  else
    let r1 := r.count a.holding (xfmReg c 0x08) (ps.map fun p => p.2.length).sum
    if t.mem then ps.foldl (fun r p => r.write a true p.1 p.2) r1
    else { r1 with dev := r1.dev.modCore c fun x => ps.foldl (fun y p => y.osWrite p.1 p.2) x }

/-- The bytes of the padding elements of a Layout S tensor's partial blocks, behind the last element's byte: a unit that
writes the block at a position writes them as zero (R27, R33). -/
def Tensor.blockTail (t : Tensor) (is : List (List Nat)) : List (Nat × List PByte) :=
  let m := t.d 0 % 32
  if !t.layS || m = 0 then []
  else
    let rows := (is.filter fun i => nthD i 0 0 / 32 == t.d 0 / 32).foldl (fun l i => insertNew (nthD i 1 0) l) []
    rows.map fun i1 =>
      (stookData t.byteBase (i1 * ceilDiv (t.d 0) 32 + t.d 0 / 32) + (m + 1) / 2, zeroBytes (16 - (m + 1) / 2))

/-- The decision units of cells that go to memory, in order (R381); one for what stays in the core. -/
def Tensor.partsOf (t : Tensor) (cells : List XCell) : List Nat :=
  let l := cells.foldl (fun l k => insertSorted k.part l) []
  if t.mem && l != [] then l else [0]

/-- Writes cells and scale pieces of a destination, merging partial groups. Each decision unit sends its own writes; the scale
pieces go with the last (DESIGN CHOICE, notes/assumptions/148). -/
def Run.putCells (r : Run) (c : CoreId) (a : Agent) (t : Tensor) (send : Bool) (cells : List XCell)
    (scales : List (Nat × List PByte)) : Run :=
  let gs := groupCells cells
  let merged := gs.filter fun g => t.keptLanes g.2.1 g.2.2 != []
  let old := if t.mem then r.gatherSpans a (merged.map fun g => (g.1, groupBytes t.f)) else ([], r)
  let rd := t.reader (old.2.dev.core c) old.1
  let parts := t.partsOf cells
  parts.foldl (fun r n =>
    let mine := if parts.length ≤ 1 then gs else groupCells (cells.filter fun k => k.part == n)
    r.putPieces c { a with part := n } t send
      (joinPieces ((mine.map fun g => (g.1, t.groupOut rd g)) ++ if parts.getLast? == some n then scales else [])))
    (old.2.count a.holding (xfmReg c 0x20) merged.length)

def Tensor.cell (t : Tensor) (i : List Nat) (e : PElem) : XCell :=
  let g := t.group i
  { addr := g.1, col := nthD i 0 0 / packGroup t.f * packGroup t.f, lane := g.2, elem := e, part := t.rowOf i / 128 }

/-! ### The phases of one member (R256 to R260) -/

/-- Scale pieces for positions, one for each scale, in the order of the positions. -/
def scalePieces (l : List (Nat × List PByte)) : List (Nat × List PByte) :=
  l.foldl (fun acc p => if acc.any fun q => q.1 == p.1 then acc else acc ++ [p]) []

/-- What one member writes, and what it counts. -/
structure XCounts where
  sat : Nat := 0
  nonfin : Nat := 0
  rows : Nat := 0
  deriving DecidableEq, Repr

/-- Every element from one column of a position's row to before another is a pad of the member (R259). -/
def XPlan.padSpan (p : XPlan) (i : List Nat) (lo hi : Nat) : Bool :=
  (List.range (hi - lo)).all fun k =>
    let j := (lo + k) :: i.drop 1
    inBox p.frame j && !inBox p.valid j

/-- The pad phase of a member (R259, R260). -/
def Xfm.padPhase (x : Xfm) (p : XPlan) (c : CoreId) (a : Agent) (send : Bool) (r : Run) : Run :=
  if !x.padMat then r
  else
    let t := p.dst
    let pads := (boxAt p.frame).filter fun i => !inBox p.valid i
    let v := convertElem t.f t.mode (f32 (BitVec.ofNat 32 x.pad))
    let scales := match t.mode with
      | .row => (pads.filter fun i => p.padSpan i 0 (t.d 0)).map fun i =>
          ((t.scaleOf i).1, (leBytes 4 0x3F800000).map fun b => ⟨b, false⟩)
      | .block =>
        let first := fun (i : List Nat) => nthD i 0 0 / 32 * 32
        (pads.filter fun i => p.padSpan i (first i) (min (t.d 0) (first i + 32))).map fun i =>
          ((t.scaleOf i).1, [⟨0x7F, false⟩])
      | _ => []
    let r1 := r.count a.holding (xfmReg c 0x10) (if send || !t.mem then pads.length else 0)
    let r2 := r1.putCells c a t send (pads.map fun i => t.cell i ⟨v.bits, false⟩) (scalePieces scales ++ t.blockTail pads)
    { r2 with dev := r2.dev.countSat (some a.holding) c 3 (fmtCode t.f) (if v.sat then pads.length else 0)
                       (if v.nonfin then pads.length else 0) }

/-- The blocks of a Layout S tensor's last stook beyond its last block (R33). -/
def Tensor.stookTail (t : Tensor) : List (Nat × List PByte) :=
  if !t.layS then []
  else
    let n := t.d 1 * ceilDiv (t.d 0) 32
    (List.range (ceilDiv n 64 * 64 - n)).flatMap fun i =>
      [(stookScale t.byteBase (n + i), [⟨0x7F, false⟩]), (stookData t.byteBase (n + i), zeroBytes 16)]

/-- The valid phase of a member: its elements, scales and counts. A FILL into Layout S, which is written whole, writes scale
1.0 with its elements, so that they have the value PAD_VALUE (DEDUCED, notes/assumptions/106). -/
def Xfm.validPhase (x : Xfm) (p : XPlan) (c : CoreId) (a : Agent) (send : Bool) (r : Run) : Run × XCounts :=
  let t := p.dst
  let s := p.src
  let at' := boxAt p.valid
  let rows := if at' = [] then 0 else ((p.valid.drop 1).map (·.2)).foldl (· * ·) 1
  if x.opcode = 1 then
    let v := convertElem t.f t.mode (f32 (BitVec.ofNat 32 x.pad))
    let scales := if t.layS then scalePieces (at'.map fun i => ((t.scaleOf i).1, [⟨0x7F, false⟩])) else []
    let r1 := r.putCells c a t send (at'.map fun i => t.cell i ⟨v.bits, false⟩) (scales ++ t.stookTail ++ t.blockTail at')
    (r1, { sat := if v.sat then at'.length else 0, nonfin := if v.nonfin then at'.length else 0, rows := rows })
  else
    let scaled := decide (s.scaleMode ≠ 0)
    let from' := at'.map fun i => (i, x.sourceAt p i)
    let spans := if s.mem then (from'.map fun q => ((s.group q.2).1, groupBytes s.f))
        ++ (if scaled then from'.map fun q => s.scaleOf q.2 else []) else []
    let got := r.gatherSpans a spans
    let rd := s.reader (got.2.dev.core c) got.1
    let outs := from'.map fun q =>
      let e := elemAt rd (s.at q.2).1 s.f (s.at q.2).2
      if scaled then (q.1, (⟨e.bits, e.poison⟩ : PElem), false, false)
      else
        let v := convert t.f (decode s.f e.bits)
        (q.1, ⟨v.bits, e.poison⟩, v.sat && !e.poison, v.nonfin && !e.poison)
    let scales := if scaled then scalePieces (from'.map fun q =>
        ((t.scaleOf q.1).1, (List.range (s.scaleOf q.2).2).map fun k => rd ((s.scaleOf q.2).1 + k))) else []
    let r1 := got.2.putCells c a t send (outs.map fun o => t.cell o.1 o.2.1)
      (scales ++ t.stookTail ++ t.blockTail at')
    (r1, { sat := (outs.filter (·.2.2.1)).length, nonfin := (outs.filter (·.2.2.2)).length, rows := rows })

/-- A memory operand off the alignment of R254 over the positions that it steps through. -/
def Tensor.misaligned (t : Tensor) (n : List Nat) : Bool :=
  t.mem && (t.byteBase % 64 != 0 || (List.range 3).any fun k =>
    decide (2 ≤ nthD n (k + 1) 0) && t.s (k + 1) % 64 != 0)

def Xfm.misaligned (x : Xfm) (p : XPlan) : Bool :=
  let n := p.valid.map (·.2)
  p.dst.misaligned n || (x.opcode = 0 && p.src.misaligned ((List.range 4).map fun k =>
    nthD n ((x.perm.findIdx? (· == k)).getD k) 0))

/-- What a member counts when it ends (R254, R257, R264). -/
def Xfm.close (x : Xfm) (p : XPlan) (k : XCounts) (c : CoreId) (a : Agent) (r : Run) : Run :=
  let h := some a.holding
  let d0 := if p.poison then r.dev.poisonUse h c else r.dev
  let d1 := d0.countSat h c 3 (fmtCode p.dst.f) k.sat k.nonfin
  let d2 := if x.cntLreg = 0 then d1 else d1.setLen h c x.cntLreg k.rows
  ({ r with dev := d2 } : Run).count a.holding (xfmReg c 0x18) (if x.misaligned p then 1 else 0)

/-- A member without a tile has no valid row (R199, R264). -/
def Xfm.closeEmpty (x : Xfm) (c : CoreId) (a : Agent) (r : Run) : Run :=
  if x.cntLreg = 0 then r else { r with dev := r.dev.setLen (some a.holding) c x.cntLreg 0 }

/-- Writes of a core's descriptors that wait at their controllers (R232, R238). -/
def Dev.writesWaiting (s : Dev) (c : CoreId) : Bool :=
  s.memWaits.any fun w =>
    match w.req with
    | .write pa _ _ _ data true => s.pend.any fun p => p.agent == c.val && p.block == pa / 4096 && p.sectors == sectorsOf pa data.length
    | _ => false

/-! ### COPY and FILL as batches of one (R260) -/

/-- The transform path goes on in queue order: the next batch is the one of the earliest started descriptor (R260). -/
def Core.nextTransform (x : Core) : Option WEntry :=
  (x.window.find? fun e => e.phase == .started && classOf e.desc == 4).bind fun e => if x.suspends e then none else some e

def Core.transforms (x : Core) (e : WEntry) : Bool := x.nextTransform.any (sameEntry e)

def singleBody (c : CoreId) (a : Agent) (e : WEntry) (r : Run) : Option (Run × Bool) :=
  let x := xfmOf e.desc
  let may := (r.dev.holding a.holding).mayWrite c e
  let core := r.dev.core c
  if x.batch ≠ 0 || !core.transforms e || (may == .waitClaim && (core.tensor x.dstTd).mem) then none
  else
    match x.plan core e with
    | none => some (x.closeEmpty c a r, true)
    | some p =>
      let send := may == .send
      let r1 := if e.mark = 0 then x.padPhase p c a send r else r
      let marked := fun (n : Fin 3) => ({ r1 with dev := r1.dev.modEntry c e fun w => { w with mark := 1 } } : Run).modCore c fun y =>
        { y with batch := [e.index], batchPhase := n }
      if r1.wait then none
      else if r1.need ≠ [] then some (r1, false)
      else if r1.dev.writesWaiting c then some (marked 1, false)
      else
        let v := x.validPhase p c a send r1
        if v.1.wait then some (marked 2, false)
        else if v.1.need ≠ [] then
          some (if e.replay then v.1 else { marked 2 with dev := (marked 2).dev.askHost c v.1.need }, false)
        else some ((x.close p v.2 c a v.1).modCore c fun y => { y with batch := [], batchPhase := 0 }, true)

/-! ### Batches of several members (R260, R262) -/

/-- The members of a batch from its first on; none while its last has not been accepted. -/
def Core.batchFrom (x : Core) (e : WEntry) : Option (List WEntry) :=
  let ms := (x.window.filter fun w => w.stream == e.stream && classOf w.desc == 4).dropWhile fun w => !sameEntry w e
  (ms.findIdx? fun w => (xfmOf w.desc).batch == 3).map fun i => ms.take (i + 1)

/-- The batch of several members that runs next: its members have all started. -/
def Core.readyBatch (x : Core) : Option (List WEntry) :=
  x.nextTransform.bind fun e =>
    if (xfmOf e.desc).batch ≠ 1 then none
    else (x.batchFrom e).bind fun ms => if ms.all fun m => m.phase == .started then some ms else none

/-- Runs one phase over the members in order; `f` gets the plan of a member, none for one without a tile. -/
def Dev.batchRun (s : Dev) (c : CoreId) (h : HoldId) (last : Bool) (f : Xfm → Option XPlan → Agent → Bool → Run → Run)
    (ms : List WEntry) : Run :=
  ms.foldl (fun r e =>
    let x := xfmOf e.desc
    let r0 := f x (x.plan (r.dev.core c) e) ((s.core c).agent c h e) ((s.holding h).mayWrite c e == .send) r
    if e.replay then { r0 with dev := if last then r.dev.replayed c h r0.dev else r.dev.replaying c h r0.dev } else r0) { dev := s }

/-- The two phases of a member (R260). -/
def Xfm.phaseOne (c : CoreId) (x : Xfm) (p : Option XPlan) (a : Agent) (send : Bool) (r : Run) : Run :=
  match p with
  | some p => x.padPhase p c a send r
  | none => r

def Xfm.phaseTwo (c : CoreId) (x : Xfm) (p : Option XPlan) (a : Agent) (send : Bool) (r : Run) : Run :=
  match p with
  | some p => let v := x.validPhase p c a send r; x.close p v.2 c a v.1
  | none => x.closeEmpty c a r

/-- A member that must still wait for its tile's claim (R203). -/
def Dev.batchHeld (s : Dev) (c : CoreId) (h : HoldId) (ms : List WEntry) : Bool :=
  ms.any fun e => (s.holding h).mayWrite c e == .waitClaim && ((s.core c).tensor (xfmOf e.desc).dstTd).mem

/-- What a batch's run changes: the run's device, or a request for host data. -/
def Dev.batchEnd (s : Dev) (c : CoreId) (r : Run) (f : Dev → Dev) : Dev :=
  if r.wait then s else if r.need ≠ [] then s.askHost c r.need else f r.dev

/-- TRANSFORM_BATCH_START: the pad elements of every member. -/
def Dev.batchStart (s : Dev) (c : CoreId) : Dev :=
  let x := s.core c
  match x.readyBatch, s.holdingOfCore c with
  | some ms, some h =>
    if !s.coreRuns c || x.batch != [] || s.batchHeld c h ms then s
    else
      let r := s.batchRun c h false (Xfm.phaseOne c) ms
      s.batchEnd c r fun d => d.modCore c fun y => { y with batch := ms.map (·.index), batchPhase := 1 }
  | _, _ => s

/-- TRANSFORM_VALID_PHASE: the valid elements of every member, once every pad write has reached its controller. -/
def Dev.batchValid (s : Dev) (c : CoreId) : Dev :=
  let x := s.core c
  match x.readyBatch, s.holdingOfCore c with
  | some ms, some h =>
    if !s.coreRuns c || x.batch == [] || s.writesWaiting c then s
    else
      let s0 := s.modCore c fun y => { y with batchPhase := 2 }
      let r := s0.batchRun c h true (Xfm.phaseTwo c) ms
      s0.batchEnd c r fun d =>
        let d1 := d.stalls (some h) c 3
        d1.modCore c fun y =>
          { ms.foldl Core.completeEntry y with batch := [], batchPhase := 0, hostBuf := [] }
  | _, _ => s

def execCopy (c : CoreId) (s : State) : Host.Outcome State Fault Refusal :=
  work s (s.dev.memScope (s.dev.runPhased c 4 [0] (singleBody c)))
def execFill (c : CoreId) (s : State) : Host.Outcome State Fault Refusal :=
  work s (s.dev.memScope (s.dev.runPhased c 4 [1] (singleBody c)))
def execTransformBatchStart (c : CoreId) (s : State) : Host.Outcome State Fault Refusal :=
  work s (s.dev.memScope (s.dev.batchStart c))
def execTransformValidPhase (c : CoreId) (s : State) : Host.Outcome State Fault Refusal :=
  work s (s.dev.memScope (s.dev.batchValid c))

end Sys2Proof.Machine
end

