-- ==== Sys2Proof/Machine/Sequencer.lean ====
section
/-! DEFINITION. The sequencer (R98 to R105): acceptance from the ring, start, and the record of completion; the fences
and events it runs itself (R194, R207, R211), and Tally takes, retirements and claims (R198 to R203). -/

namespace Sys2Proof.Machine

open Sys2Proof

/-! ### Batches of the Drill (R276, R277, R289) -/

def tagOf (x : Holding) (batch : Nat) : Word32 := BitVec.ofNat 32 (x.step.toNat % 65536 * 65536 + batch % 65536)
def Batch.number (b : Batch) : Nat := b.tag.toNat % 65536

def Holding.batch (x : Holding) (tag : Word32) : Option Batch := x.batches.find? fun b => b.tag == tag
def Holding.modBatch (x : Holding) (tag : Word32) (f : Batch → Batch) : Holding :=
  { x with batches := x.batches.map fun b => if b.tag = tag then f b else b }
def Dev.modBatch (s : Dev) (h : HoldId) (tag : Word32) (f : Batch → Batch) : Dev := s.modHolding h fun x => x.modBatch tag f

/-- A ROUTE that is issued. -/
def WEntry.isRoute (e : WEntry) : Bool := classOf e.desc == 5 && opcodeOf e.desc == 0 && !e.replay

/-- The source's deadline of a batch, from the start of its first ROUTE (R289). -/
def Batch.timed (b : Batch) (start : Word64) : Batch :=
  if b.live then { b with deadline := some (b.deadline.getD (start + BitVec.ofNat 64 (b.dlUnits * 64))) } else b

/-! ### Acceptance (R98 to R100) -/

/-- SEQ_FAULT of a refusal (R123). -/
def refusalWord (index : Word32) (st : Status) : Word32 := ((index &&& 0x7FFF) <<< 16) ||| st.code.setWidth 32

/-- A refused descriptor halts its stream (R100, R445). -/
def Dev.refuse (s : Dev) (c : CoreId) (h : HoldId) (q : Nat) (index : Word32) (st : Status) : Dev :=
  let s1 := (s.setReg (seqReg c 4) (refusalWord index st)).event (coreEvent c) evHalted
  (s1.modQueue q fun x => { x with state := .halted, refused := index }).queueHalted h q index st

/-- The ring slot of an index (R442). -/
def Queue.slotVa (q : Queue) (i : Word32) : Nat := q.ringVa + 64 * (i.toNat % 2 ^ q.log2)

/-- What the read of a ring slot gives. -/
inductive SlotGot where
  | words (d : Word512)
  | poison
  | fault
  | wait
  deriving DecidableEq, Repr

def Dev.readSlot (s : Dev) (c : CoreId) (h : HoldId) (st : Fin 2) (index : Word32) (va : Nat) : SlotGot × Dev :=
  let a : Agent := { die := c.val / 8, core := some c, holding := h, stream := st, index := index }
  let x := s.xlate a va false
  match x.1 with
  | .fault k => if s.xlateWaits a va then (.wait, s) else (.fault, x.2.xltFault a va false k)
  | _ =>
    let r := ({ dev := s } : Run).read a va 64
    if r.2.wait then (.wait, s)
    else if r.2.need ≠ [] then (.wait, s.askHost c r.2.need)
    else
      let e := joinBytes r.1
      let d := r.2.dev.modCore c fun x => { x with hostBuf := [] }
      (if e.poison then .poison else .words (BitVec.ofNat 512 e.bits), d)

def newEntry (index : Word32) (st : Fin 2) (d : Word512) (phase : Phase) (replay : Bool) : WEntry :=
  { index := index, stream := st, desc := d, phase := phase, lens := [], tile := none, replay := replay, startTime := 0
    pfRows := 0, pfLines := 0, pfPredicted := none, mark := 0 }

/-- Enters the issue window. -/
def Dev.enter (s : Dev) (c : CoreId) (h : HoldId) (g : Stage) (e : WEntry) : Dev :=
  (s.modCore c fun x => { x with window := x.window ++ [e] }).modHolding h fun y =>
    y.modStage g.dfn.stage fun t => { t with next := e.index + 1 }

/-- The STEP fences of a stream that stand in a core's window (class 7, opcode 0). -/
def Core.stepsAhead (x : Core) (st : Fin 2) : Nat :=
  (x.window.filter fun e => e.stream == st && classOf e.desc == 7 && opcodeOf e.desc == 0).length

/-- The record of an accepted REDUCE (R347), of the step that its place behind its stream's STEP fences gives; a reissued one
joins its record (R357). -/
def Dev.noteReduce (s : Dev) (c : CoreId) (st : Fin 2) (h : HoldId) (g : StageDef) (index : Word32) (d : Word512) : Dev :=
  let k := collOf d
  let same := fun (r : ReduceRec) => r.queue == g.queue && r.index == index
  if classOf d ≠ 6 ∨ k.opcode ≠ 0 then s
  else
    s.modHolding h fun x =>
      if x.reduces.any same then { x with reduces := x.reduces.map fun r => if same r then { r with core := c } else r }
      else
        let r : ReduceRec :=
          { queue := g.queue, core := c, index := index, group := k.group, reduction := k.reduction, first := k.first
            chunks := k.chunks, srcVa := k.srcVa, dstVa := k.dstVa, started := false, bad := false, replied := []
            pieces := [], missed := [], waited := [], ahead := (s.core c).stepsAhead st }
        { x with reduces := x.reduces ++ [r] }

/-- DESCRIPTOR_ACCEPT. A skipped descriptor enters the window completed (R443), and so it does when its stream is replayed
(R195). -/
def Dev.acceptNext (s : Dev) (c : CoreId) (st : Fin 2) : Dev :=
  match s.holdingOfCore c with
  | none => s
  | some h =>
    let x := s.holding h
    match x.stageOf c st with
    | none => s
    | some g =>
      let q := s.queue g.dfn.queue
      let runs := s.coreRuns c && q.state == .bound && (x.state == .enabled || x.state == .shuttingDown)
        && decide ((s.core c).window.length < 16) && seqLt g.next q.accepted
      if !runs then s
      else if g.toLoad then s.bringHome h c g.dfn
      else if q.skip = some g.next ∨ g.skipped.contains g.next then
        (((s.enter c h g (newEntry g.next st 0 .completed (seqLt g.next g.replayEnd))).modHolding h fun y =>
          y.modStage g.dfn.stage fun t => { t with skipped := insertNew g.next t.skipped })).modQueue g.dfn.queue fun y =>
            { y with skip := none }
      else
        let r := s.readSlot c h st g.next (q.slotVa g.next)
        match r.1 with
        | .wait => r.2
        | .fault => r.2.refuse c h g.dfn.queue g.next .notPermitted
        | .poison => r.2.refuse c h g.dfn.queue g.next .poisoned
        | .words d =>
          match r.2.refusal c x st g.dfn d with
          | some status => r.2.refuse c h g.dfn.queue g.next status
          | none =>
            let replay := seqLt g.next g.replayEnd
            let s1 := r.2.enter c h g (newEntry g.next st d .accepted replay)
            if replay then s1 else (s1.noteReduce c st h g.dfn g.next d).count (some h) (seqReg c 0x10) 1

/-! ### Start (R102, R105, R211, R357) -/

/-- The stage definition that an entry runs under. -/
def Holding.dfnOf (x : Holding) (c : CoreId) (st : Fin 2) : StageDef :=
  match x.stageOf c st with
  | some g => g.dfn
  | none => { stage := 0, queue := 0, core := 0, succ := [], osFirst := 0, osLines := 0, accFirst := 0, accCount := 0
              vregFirst := 0, vregCount := 0, lregMask := 0, gradFirst := 0, gradCount := 0, gradHome := 0, logVa := 0 }

/-- Members of one transform batch are not ordered against each other (R260). -/
def sameBatch (x : Core) (a b : WEntry) : Bool :=
  classOf a.desc == 4 && classOf b.desc == 4 && a.stream == b.stream && (xfmOf a.desc).batch != 0 &&
    (x.window.any fun f => (xfmOf f.desc).batch == 1 && classOf f.desc == 4 &&
      ((x.batchFrom f).getD []).any (sameEntry a) && ((x.batchFrom f).getD []).any (sameEntry b))

/-- A member of several whose last is not accepted yet (R260). -/
def batchOpen (x : Core) (e : WEntry) : Bool :=
  classOf e.desc == 4 && (xfmOf e.desc).batch != 0 &&
    !(x.window.any fun f => classOf f.desc == 4 && (xfmOf f.desc).batch == 1 && ((x.batchFrom f).getD []).any (sameEntry e))

/-- A class 7 entry of an operation. -/
def isFence (e : WEntry) (ops : List Nat) : Bool := classOf e.desc == 7 && ops.contains (opcodeOf e.desc)

/-- The Tally counter that a descriptor's start waits on: a take or retirement of it that is not complete; a take or
retirement itself waits for the earlier descriptors of its counter. -/
def tallyHeld (e w : WEntry) : Bool :=
  let n := if isFence e [5, 6] then (fenOf e.desc).counter else tallyOf e.desc
  n != 0 && w.stream == e.stream && w.phase != .completed &&
    ((isFence w [5, 6] && (fenOf w.desc).counter == n) || (isFence e [5, 6] && tallyOf w.desc == n))

/-- Whether an accepted entry may start. -/
def Dev.mayStart (s : Dev) (c : CoreId) (x : Holding) (e : WEntry) (h : HoldId) : Bool :=
  let core := s.core c
  let earlier := core.window.takeWhile fun w => !sameEntry w e
  let res := fun (w : WEntry) => resOf w.desc core x (x.dfnOf c w.stream)
  let mine := res e
  let cls := classOf e.desc
  earlier.all (fun w =>
    (classOf w.desc != cls || w.phase != .accepted || sameBatch core e w)
      && (w.phase == .completed || sameBatch core e w || !((res w).conflicts mine))
      && !(w.stream == e.stream && isFence w [0, 2, 4] && w.phase != .completed)
      && !tallyHeld e w)
    && !batchOpen core e
    && !(anyOverlap mine.osW (core.retained.map (·.2)))
    && !(core.window.any fun w => core.suspends w && anyOverlap mine.osW (res w).osR)
    && (cls != 6 || (earlier.all (fun w => w.stream != e.stream) && !s.writesHeld h))

/-- What a descriptor reads when it starts: length registers and the tile of its counter (R105, R199). -/
def WEntry.begin (e : WEntry) (x : Holding) (c : CoreId) (core : Core) (t : Word64) : WEntry :=
  let n := tallyOf e.desc
  { e with phase := .started, lens := core.lregs, startTime := t
           tile := if n = 0 then none else some (((x.stageOf c e.stream).bind (·.slot n)).bind (·.tile)) }

/-- A replayed descriptor of class 5 or 6 is not issued: its logged length values return (R195). -/
def Dev.replayLogged (s : Dev) (c : CoreId) (h : HoldId) (e : WEntry) : Dev :=
  let log := (((s.holding h).stageOf c e.stream).map (·.lenLog)).getD []
  let s1 := (log.filter fun p => p.1 == e.index).foldl (fun d p => d.setLen none c p.2.1 p.2.2) s
  (s1.count (some h) (seqReg c 0x48) 1).modCore c fun y => y.completeEntry e

/-- DESCRIPTOR_START. -/
def Dev.startSlot (s : Dev) (c : CoreId) (slot : Nat) : Dev :=
  match (s.core c).window[slot]?, s.holdingOfCore c with
  | some e, some h =>
    let x := s.holding h
    if !s.coreRuns c || e.phase != .accepted || !s.mayStart c x e h then s
    else
      let core := s.core c
      let lr := (resOf e.desc core x (x.dfnOf c e.stream)).lrR
      let s1 := (s.modEntry c e fun w => w.begin x c core s.dt).modCore c fun y =>
        { y with lastLen := lr.foldl (fun t n => Tab.set 0 t n (core.lreg n)) y.lastLen }
      let s2 := s1.modHolding h fun y =>
        { y with totals := { y.totals with firstStart := some (y.totals.firstStart.getD s.dt) } }
      if e.replay && (classOf e.desc == 5 || classOf e.desc == 6) then s2.replayLogged c h e
      else if e.isRoute then s2.modBatch h (tagOf x (drlOf e.desc).batch) fun b => b.timed s.dt
      else s2
  | _, _ => s

/-! ### Recording completion (R89, R103, R194, R201, R260, R385) -/

/-- Whether a slice link with KEEP still waits for its chain's OUT action (R89). -/
def Core.chainOpen (x : Core) (e : WEntry) : Bool :=
  let d := denseOf e.desc
  classOf e.desc == 1 && d.slices != 0 && d.out == 0 &&
    !(((x.window.dropWhile fun w => !sameEntry w e).drop 1).any fun w =>
      w.stream == e.stream && classOf w.desc == 1 && w.phase == .completed &&
        (let q := denseOf w.desc; q.slices != 0 && q.out != 0 && q.accTile == d.accTile))

/-- The entries that are recorded with the front entry of a stream: a batch is recorded only as a whole (R262). -/
def Core.recordSpan (x : Core) (e : WEntry) : List WEntry :=
  if classOf e.desc == 4 && (xfmOf e.desc).batch == 1 then
    let mine := x.window.filter fun w => w.stream == e.stream
    mine.take (((mine.findIdx? fun w => classOf w.desc == 4 && (xfmOf w.desc).batch == 3).map (· + 1)).getD mine.length)
  else [e]

/-- The checks of all pending writes of a descriptor have passed (R385). -/
def Dev.settled (s : Dev) (c : CoreId) (e : WEntry) : Bool :=
  s.pend.all fun p => !(p.agent == c.val && p.stream == e.stream && p.index == e.index)

/-- Retires an issue of a tile (R201, R202). -/
def Counter.retire (k : Counter) (tile issue : Nat) : Counter :=
  { k with recs := k.recs.map fun r => if r.tile = tile ∧ r.issue = issue then { r with retired := true } else r }

def Holding.retireTile (x : Holding) (counter tile issue : Nat) : Holding := x.modCounter counter fun k => k.retire tile issue

/-- What recording a take or a retirement does to the tile that the stream held before it. -/
def Holding.retireRecorded (x : Holding) (e : WEntry) : Holding :=
  match isFence e [5, 6] && !e.replay, e.tile with
  | true, some (some t) => x.retireTile (fenOf e.desc).counter t e.mark
  | _, _ => x

/-- The take slots of a stream as they stood at an entry of its window: later takes and retirements of the window are undone
(R194, R198). -/
def Core.slotsAt (x : Core) (e : WEntry) (slots : List TakeSlot) : List TakeSlot :=
  ((((x.window.dropWhile fun w => !sameEntry w e).drop 1).filter fun w =>
      w.stream == e.stream && w.phase == .completed && isFence w [5, 6]).reverse).foldl (fun l w =>
    let n := (fenOf w.desc).counter
    match w.tile with
    | some t => (l.filter fun q => q.counter != n) ++ if t.isSome then [{ counter := n, tile := t, issue := w.mark }] else []
    | none => l) slots

/-- Records the front entry of a stream: the recorded-complete index, the rest point, the retirement. The checks of its
writes have passed, and those in the egress hold go on (R385, R395). -/
def Dev.recordFront (s : Dev) (c : CoreId) (h : HoldId) (e : WEntry) : Dev :=
  let s0 := s.settleEgress (fun i => i.agent == c.val && i.stream == e.stream && i.index == e.index) .pass
  let s1 := s0.modCore c fun x => { x with window := x.window.filter fun w => !sameEntry w e }
  match (s.holding h).stageOf c e.stream with
  | none => s1
  | some g =>
    let s2 := s1.modHolding h fun x =>
      (x.retireRecorded e).modStage g.dfn.stage fun t =>
        if isFence e [0, 1] then { t with lastRest := e.index + 1, restSlots := (s.core c).slotsAt e t.slots } else t
    if e.replay then (if classOf e.desc = 7 then s2.count (some h) (seqReg c 0x48) 1 else s2)
    else (s2.modQueue g.dfn.queue fun q => { q with recorded := e.index + 1, unreported := q.unreported + 1 }).journalWrite

/-- Whether an entry may be recorded once those before it are. -/
def Dev.recordable (s : Dev) (c : CoreId) (h : HoldId) (e : WEntry) : Bool :=
  let x := s.core c
  e.phase == .completed && s.settled c e && !x.suspends e && !x.chainOpen e && !(isFence e [5, 6] && s.writesHeld h)

/-- DESCRIPTOR_RECORD_COMPLETE. -/
def Dev.recordNext (s : Dev) (c : CoreId) (st : Fin 2) : Dev :=
  match (s.core c).window.find? fun e => e.stream == st, s.holdingOfCore c with
  | some e, some h =>
    let ms := (s.core c).recordSpan e
    if s.coreRuns c && ms.all (s.recordable c h) then ms.foldl (fun d w => d.recordFront c h w) s else s
  | _, _ => s

/-! ### Fences (R194, R209, R211) -/

/-- A started fence of a stream, and whether every earlier descriptor of the stream is recorded. -/
def Core.fenceAt (x : Core) (st : Fin 2) (op : Nat) : Option (WEntry × Bool) :=
  (x.window.find? fun e => e.stream == st && e.phase == .started && isFence e [op]).map fun e =>
    (e, ((x.window.find? fun w => w.stream == st).map (sameEntry e)).getD false)

/-- The words of a gradient tile as bytes. -/
def Core.tileBytes (x : Core) (g : Nat) : List PByte :=
  (List.range tileWords).flatMap fun i =>
    let w := x.word (16 + g) i
    (leBytes 4 w.val.toNat).map fun b => ⟨b, w.poison⟩

/-- Writes to the gradient home every tile of the stage written since the previous rest point (R194); none while a write
must wait before it can be sent. -/
def Dev.writeHome (s : Dev) (c : CoreId) (h : HoldId) (e : WEntry) (g : StageDef) : Option Dev :=
  let core := s.core c
  let a := core.agent c h e
  let tiles := core.gradDirty.filter fun t => g.gradFirst ≤ t && t < g.gradFirst + g.gradCount
  let r := tiles.foldl (fun (r : Run) t => r.write a false (g.gradHome + (t - g.gradFirst) * 65536) (core.tileBytes t)) { dev := s }
  if r.wait then none
  else
    let s2 := r.dev.modCore c fun x => { x with gradDirty := x.gradDirty.filter fun t => !tiles.contains t }
    some (if tiles = [] then s2 else s2.count (some h) (seqReg c 0x58) (65536 * tiles.length))

/-- Runs a fence of a stream, given whether it stands at the front. -/
def Dev.fence (s : Dev) (c : CoreId) (st : Fin 2) (op : Nat) (f : HoldId → Stage → WEntry → Bool → Dev) : Dev :=
  match (s.core c).fenceAt st op, s.holdingOfCore c with
  | some (e, front), some h =>
    match (s.holding h).stageOf c st with
    | some g => if s.coreRuns c && !(s.core c).suspends e then f h g e front else s
    | none => s
  | _, _ => s

def Dev.completeAt (s : Dev) (c : CoreId) (e : WEntry) : Dev := s.modCore c fun x => x.completeEntry e

/-- The stream reaches its STEP fence: its gradient tiles go home, and once they have reached their memory controllers its
tiles retire and the fence is its rest point: a successor goes on at the fence (R194, R201). -/
def Dev.stepFence (s : Dev) (c : CoreId) (st : Fin 2) : Dev :=
  s.fence c st 0 fun h g e front =>
    if !front || g.atStep || s.writesHeld h then s
    else
      let s1 := if e.mark = 0 then (s.writeHome c h e g.dfn).map fun d => d.modEntry c e fun w => { w with mark := 1 } else some s
      match s1 with
      | none => s
      | some d => if d.writesHeld h then d else d.modHolding h fun x =>
        (g.slots.foldl (fun y t =>
          match t.tile with
          | some n => y.retireTile t.counter n t.issue
          | none => y) x).modStage g.dfn.stage fun t => 
            { t with atStep := true, slots := [], lastRest := e.index, restSlots := [] }

def Dev.restFence (s : Dev) (c : CoreId) (st : Fin 2) : Dev :=
  s.fence c st 1 fun h g e front =>
    if !front then s
    else
      let s1 := if e.mark = 0 then (s.writeHome c h e g.dfn).map fun d => d.modEntry c e fun w => { w with mark := 1 } else some s
      match s1 with
      | none => s
      | some d => if d.writesHeld h then d else d.completeAt c e

def Dev.memFence (s : Dev) (c : CoreId) (st : Fin 2) : Dev :=
  s.fence c st 2 fun h _ e front => if e.replay || (front && !s.writesHeld h) then s.completeAt c e else s

/-- EVENT_SIGNAL adds 1 as it is recorded complete. -/
def Dev.eventSignal (s : Dev) (c : CoreId) (st : Fin 2) : Dev :=
  s.fence c st 3 fun h _ e front =>
    if e.replay then s.completeAt c e
    else if !front || s.writesHeld h then s
    else
      let n := (fenOf e.desc).event
      (s.modHolding h fun x => { x with events := Tab.modify 0 x.events n (· + 1) }).recordFront c h e

def Dev.eventWait (s : Dev) (c : CoreId) (st : Fin 2) : Dev :=
  s.fence c st 4 fun h _ e _ =>
    let f := fenOf e.desc
    if e.replay || decide (f.value ≤ (Tab.get 0 (s.holding h).events f.event).toNat) then s.completeAt c e else s

/-- GRAD_MAP (R207). -/
def Core.mapGrad (x : Core) (f : Fen) (g : StageDef) : Core :=
  if f.gradCount = 0 then
    { x with gradMap := (List.range g.accCount).foldl (fun t i => Tab.set none t (g.accFirst + i) none) x.gradMap }
  else
    let put := fun (t : Tab (Option (Fin 64))) i => Tab.set none t (f.accFirst + i) (some (Fin.ofNat 64 (f.gradFirst + i)))
    { x with gradMap := (List.range f.gradCount).foldl put x.gradMap }

def Dev.gradMap (s : Dev) (c : CoreId) (st : Fin 2) : Dev :=
  s.fence c st 7 fun _ g e _ => (s.modCore c fun x => x.mapGrad (fenOf e.desc) g.dfn).completeAt c e

/-! ### Tally (R197 to R203) -/

/-- The die that serves a counter: its own, or its mirror's once its own is fenced (R21, R197). -/
def Dev.tallyDie (s : Dev) (k : Counter) : Nat :=
  if (s.die k.die.val).fenced then (k.mirror.map (·.val)).getD k.die.val else k.die.val

/-- Tiles taken and not retired (R198). -/
def Counter.openTiles (k : Counter) : List Nat :=
  (k.recs.filter fun r => !(k.recs.any fun q => q.tile == r.tile && q.retired)).foldl (fun l r => insertNew r.tile l) []

/-- The next tile of a counter: the lowest on the reissue list, else the next value (R198). -/
def Counter.pick (k : Counter) : Option (Nat × Nat) × Counter :=
  match (k.reissue.map (·.1)).min? with
  | some t =>
    let i := ((k.reissue.find? fun p => p.1 == t).map (·.2)).getD 0
    (some (t, i), { k with reissue := k.reissue.filter fun p => p.1 ≠ t ∨ p.2 ≠ i })
  | none => if k.next < k.limit then (some (k.next, 0), { k with next := k.next + 1 }) else (none, k)

/-- The stream's slots with a counter's entry replaced, or added in a slot that holds no unretired tile; none when all
8 are taken (R198). -/
def Stage.putSlot (g : Stage) (t : TakeSlot) : Option (List TakeSlot) :=
  if (g.slot t.counter).isSome then some (g.slots.map fun q => if q.counter = t.counter then t else q)
  else
    let kept := g.slots.filter fun q => q.tile.isSome
    if 8 ≤ kept.length then none else some ((if 8 ≤ g.slots.length then kept else g.slots) ++ [t])

/-- A take: its entry remembers the tile that the stream held before, for its retirement. -/
def Dev.tallyTake (s : Dev) (c : CoreId) (st : Fin 2) : Dev :=
  s.fence c st 5 fun h g e _ =>
    let n := (fenOf e.desc).counter
    let x := s.holding h
    let old := g.slot n
    let remember := fun (d : Dev) => (d.modEntry c e fun w =>
      { w with tile := some (old.bind (·.tile)), mark := (old.map (·.issue)).getD 0 }).completeAt c e
    let give := fun (d : Dev) (slots : List TakeSlot) => remember (d.modHolding h fun y =>
      y.modStage g.dfn.stage fun t => { t with slots := slots })
    match x.counter n with
    | none => s
    | some k =>
      if e.replay then
        match g.takeLog.reverse.find? fun p => p.1 == e.index with
        | some p =>
          let own := fun (r : TakeRec) =>
            if some r.tile = p.2.2.1 ∧ r.issue = p.2.2.2 then { r with core := c } else r
          give (s.modHolding h fun y => y.modCounter n fun q => { q with recs := q.recs.map own })
            ((g.putSlot { counter := n, tile := p.2.2.1, issue := p.2.2.2 }).getD g.slots)
        | none => s.completeAt c e
      else
        let die := s.tallyDie k
        if k.copying then s
        else if (g.putSlot { counter := n, tile := none, issue := 0 }).isNone then
          remember (s.runFault c (some h) e.index .noResource)
        else if k.reissue = [] ∧ k.next < k.limit ∧ 256 ≤ k.openTiles.length then
          (if e.mark = 0 then (s.count (some h) (tlyReg die 0x28) 1).modEntry c e fun w => { w with mark := 1 } else s)
        else
          let p := k.pick
          let slot : TakeSlot := { counter := n, tile := p.1.map (·.1), issue := (p.1.map (·.2)).getD 0 }
          let s1 := s.modHolding h fun y => (y.modCounter n fun _ =>
            match p.1 with
            | some t => { p.2 with recs := p.2.recs ++ [{ tile := t.1, issue := t.2, core := c, retired := false }] }
            | none => p.2).modStage g.dfn.stage fun t =>
              { t with takeLog := t.takeLog ++ [(e.index, n, slot.tile, slot.issue)] }
          let s2 := (s1.cross c.val (c.val / 8) die).count (some h) (tlyReg die 0x08) 1
          let s3 := if p.1.isNone then s2.count (some h) (tlyReg die 0x10) 1 else s2
          give s3 ((g.putSlot slot).getD g.slots)

def Dev.tallyRetire (s : Dev) (c : CoreId) (st : Fin 2) : Dev :=
  s.fence c st 6 fun h g e _ =>
    let n := (fenOf e.desc).counter
    let old := g.slot n
    ((s.modHolding h fun y => y.modStage g.dfn.stage fun t => { t with slots := t.slots.filter fun q => q.counter ≠ n }).modEntry
      c e fun w => { w with tile := some (old.bind (·.tile)), mark := (old.map (·.issue)).getD 0 }).completeAt c e

/-- What a claim request of an issue does (R203): a holder whose core has been fenced without retiring the tile gives way. -/
def Counter.claim (k : Counter) (tile issue : Nat) (c : CoreId) : Counter × Bool :=
  if k.refused.contains (tile, issue) then (k, false)
  else
    match k.claims.find? fun q => q.tile == tile with
    | none => ({ k with claims := k.claims ++ [{ tile := tile, issue := issue, core := c }] }, false)
    | some q =>
      let retired := k.recs.any fun r => r.tile == q.tile && r.issue == q.issue && r.retired
      if q.issue = issue ∧ q.core = c ∧ q.lost = false then (k, false)
      else if q.lost && !retired then
        ({ k with claims := k.claims.map fun z => if z.tile = tile then { tile := tile, issue := issue, core := c } else z }, false)
      else ({ k with refused := k.refused ++ [(tile, issue)] }, true)

/-- A holder's core is fenced, and its writes are still on their way: the request waits (R203). -/
def Dev.claimWaits (s : Dev) (h : HoldId) (k : Counter) (tile : Nat) : Bool :=
  match k.claims.find? fun q => q.tile == tile with
  | some q => q.lost && s.writesHeld h
  | none => false

/-- TALLY_CLAIM: a running descriptor is about to write the tile of its stream's slot. A replayed one writes nothing. -/
def Dev.tallyClaim (s : Dev) (c : CoreId) (st : Fin 2) (n : Nat) : Dev :=
  match s.holdingOfCore c with
  | none => s
  | some h =>
    match ((s.holding h).stageOf c st).bind (·.slot n), (s.holding h).counter n with
    | some sl, some k =>
      match sl.tile with
      | none => s
      | some t =>
        let asks := (s.core c).window.any fun e =>
          e.stream == st && e.phase == .started && !e.replay && tallyOf e.desc == n && (s.holding h).mayWrite c e == .waitClaim
        if !asks || !s.coreRuns c || s.claimWaits h k t then s
        else
          let r := k.claim t sl.issue c
          let s1 := (s.cross c.val (c.val / 8) (s.tallyDie k)).modHolding h fun y => y.modCounter n fun _ => r.1
          if r.2 then (s1.count (some h) (tlyReg (s.tallyDie k) 0x20) 1).event (regAt (s.tallyDie k) 0x120) 8 else s1
    | _, _ => s

/-! ### The commands -/

/-- What the sequencer may change: a core's work with memory, and queues and events as it halts or records. -/
def Dev.seqScope (s r : Dev) : Dev := { s.memScope r with queues := r.queues, gotre := r.gotre }

/-- What a unit that sends may change: a core's work with memory, and the ports with their numbers and gates. -/
def Dev.netScope (s r : Dev) : Dev :=
  { s.memScope r with ports := r.ports, seqTx := r.seqTx, gate := r.gate, hostTag := r.hostTag }

def execDescriptorStart (c : CoreId) (slot : Fin 16) (s : State) : Host.Outcome State Fault Refusal :=
  work s (s.dev.coreScope (s.dev.startSlot c slot.val))
def execDescriptorRecordComplete (c : CoreId) (st : Fin 2) (s : State) : Host.Outcome State Fault Refusal :=
  work s (s.dev.seqScope (s.dev.recordNext c st))
def execStep (c : CoreId) (st : Fin 2) (s : State) : Host.Outcome State Fault Refusal :=
  work s (s.dev.memScope (s.dev.stepFence c st))
def execRest (c : CoreId) (st : Fin 2) (s : State) : Host.Outcome State Fault Refusal :=
  work s (s.dev.memScope (s.dev.restFence c st))
def execMemfence (c : CoreId) (st : Fin 2) (s : State) : Host.Outcome State Fault Refusal :=
  work s (s.dev.coreScope (s.dev.memFence c st))
def execEventSignal (c : CoreId) (st : Fin 2) (s : State) : Host.Outcome State Fault Refusal :=
  work s (s.dev.seqScope (s.dev.eventSignal c st))
def execEventWait (c : CoreId) (st : Fin 2) (s : State) : Host.Outcome State Fault Refusal :=
  work s (s.dev.coreScope (s.dev.eventWait c st))
def execTallyTake (c : CoreId) (st : Fin 2) (s : State) : Host.Outcome State Fault Refusal :=
  work s (s.dev.memScope (s.dev.tallyTake c st))
def execTallyRetire (c : CoreId) (st : Fin 2) (s : State) : Host.Outcome State Fault Refusal :=
  work s (s.dev.coreScope (s.dev.tallyRetire c st))
def execGradMap (c : CoreId) (st : Fin 2) (s : State) : Host.Outcome State Fault Refusal :=
  work s (s.dev.coreScope (s.dev.gradMap c st))
def execTallyClaim (c : CoreId) (st : Fin 2) (counter : Fin 256) (s : State) : Host.Outcome State Fault Refusal :=
  work s (s.dev.memScope (s.dev.tallyClaim c st counter.val))

end Sys2Proof.Machine
end

