-- ==== Sys2Proof/Machine/Drill.lean ====
section
/-! DEFINITION. The Drill (R269 to R297): ranking, counts, placement, token rows and answers, the waits on them, and
cancelled batches. -/

namespace Sys2Proof.Machine

open Sys2Proof

/-! ### Batches (R276, R277) -/

def newBatch (tag : Word32) (layer ndesc : Nat) (group : Option Nat) : Batch :=
  { tag := tag, live := true, entry := true, cause := none, group := group, layer := layer, ndesc := ndesc, deadline := none
    homeDeadline := none, dlUnits := 0, routes := [], choices := [], counts := [], replies := [], placed := [], slots := []
    waiting := [], round := 0 }

/-- The batch as its first ROUTE at this device gives it (R277, R289). -/
def Batch.adopt (b : Batch) (d : Drl) : Batch :=
  if b.ndesc = 0 then { b with group := some d.group, layer := d.layer, ndesc := d.ndesc, dlUnits := d.deadline } else b

def Holding.liveTags (x : Holding) : Nat := (x.batches.filter (·.live)).length
/-- No entry of the live-tag table is free (R276). -/
def Holding.tagsFull (x : Holding) : Bool := decide (256 ≤ (x.batches.filter (·.entry)).length)

/-- The die that coordinates a holding's batches: its lowest-numbered live compute die (R277). -/
def Dev.coordinator (s : Dev) (h : HoldId) : Nat :=
  (((s.holding h).cores.map (· / 8)).filter fun d => !(s.die d).fenced).min?.getD 0

def Dev.countDrill (s : Dev) (h : HoldId) (die off n : Nat) : Dev := if n = 0 then s else s.count (some h) (drlReg die off) n

def causeStatus : CancelCause → Status
  | .aborted => .aborted | .timeout => .timeout | .badParameter => .badParameter | .noResource => .noResource
  | .fenced => .fenced

/-- The members of a batch's group as they stand, other than dead ones (R334). -/
def Holding.membersOf (x : Holding) (group : Option Nat) : List (BitVec 16) :=
  match group.bind fun g => Tab.get none x.collectives g with
  | some k => ((List.range k.members.length).filter fun i => !k.dead.contains i).map fun i => nthD k.members i 0
  | none => []

/-! ### Home queues and their buffers (R269, R271, R280) -/

def Holding.queueFor (x : Holding) (global : BitVec 16) : Option HomeQueue := x.queues.find? fun q => q.global == global
def Holding.layer (x : Holding) (n : Nat) : Option Layer := Tab.get none x.layers n
def Holding.modQueue (x : Holding) (n : Nat) (f : HomeQueue → HomeQueue) : Holding :=
  { x with queues := x.queues.map fun q => if q.queue = n then f q else q }

/-- Every member has sent its counts of a round. -/
def Holding.allCounted (x : Holding) (b : Batch) (round : Fin 2) : Bool :=
  (x.membersOf b.group).all fun d => b.counts.any fun m => m.src == d && m.round == round

/-- The last round in which a batch exchanges counts and replies (R283). -/
def Holding.lastRound (x : Holding) (b : Batch) : Fin 2 :=
  if ((x.layer b.layer).map fun l => l.overflow == 1).getD false then 1 else 0

/-- The buffer of a queue is final: both rounds placed where there are two, and every slot landed (R281). -/
def Holding.queueFinal (x : Holding) (b : Batch) (q : Nat) : Option (Nat × Nat) :=
  let two := ((x.layer b.layer).map fun l => l.overflow == 1).getD false
  let rounds := if two then x.allCounted b 0 && x.allCounted b 1 else x.allCounted b 0
  if !rounds || b.counts = [] then none
  else
    let p := ((b.placed.find? fun z => z.1 == q).map (·.2)).getD (0, 0)
    if (b.slots.filter fun z => z.queue == q).length = p.1 + p.2 then some p else none

/-- A batch still needs its buffer of a queue: its tag stands in the table, and it is cancelled, has slots to fill, or has
filled one that has not been returned (R280, R288). -/
def Holding.needsBuffer (x : Holding) (queue : Nat) (tag : Word32) : Bool :=
  match x.batch tag with
  | some b => b.entry && (!b.live || (x.queueFinal b queue).isNone
      || (b.slots.filter fun z => z.queue == queue).any fun z => !z.returned)
  | none => false

/-- A buffer that its batch no longer needs is released (R280). -/
def Holding.releaseBuffers (x : Holding) : Holding :=
  { x with queues := x.queues.map fun q => { q with held := q.held.filter fun p => x.needsBuffer q.queue p.2 } }

/-! ### Cancelling (R288, R291) -/

/-- Step 7 of R288: once every write of a cancelled tag has reached its controller, its table entry and its buffers are
free. -/
def Dev.freeTags (s : Dev) (h : HoldId) : Dev :=
  if s.writesHeld h then s
  else s.modHolding h fun x =>
    ({ x with batches := x.batches.map fun b => if b.live then b else { b with entry := false } } : Holding).releaseBuffers

/-- Token rows that still wait for a buffer as their tag retires are discarded (R291). -/
def Dev.dropWaiting (s : Dev) (h : HoldId) (b : Batch) : Dev :=
  b.waiting.foldl (fun d m => d.count (some h) (drlReg (linkDie (homePort m.src)) 0x70) 1) s

/-- The dies that hold state of a batch: those of its ROUTEs, and the coordinator. -/
def Dev.batchDies (s : Dev) (h : HoldId) (b : Batch) : List Nat :=
  b.routes.foldl (fun l r => insertNew (r.core.val / 8) l) [s.coordinator h]

/-- Step 2 of R288: the cancel notice to every other member of the group. -/
def Dev.tellCancel (s : Dev) (h : HoldId) (tag : Word32) (cause : CancelCause) (group : Option Nat) : Dev :=
  (((s.holding h).membersOf group).filter fun d => d != s.number).foldl
    (fun d m => d.send m 2 (.holding h) (.cancel h tag cause)) s

/-- Steps 1, 2 and 7 of R288: the tag retires, notices go out, buffers are released. Only a die that held state of the
batch counts it. -/
def Dev.cancelBatch (s : Dev) (h : HoldId) (tag : Word32) (cause : CancelCause) (group : Option Nat) : Dev :=
  let x := s.holding h
  let b := (x.batch tag).getD { newBatch tag 0 0 group with entry := false }
  if !b.live then s.freeTags h
  else
    let s1 := (s.dropWaiting h b).modHolding h fun y =>
      let z : Holding := if (y.batch tag).isNone then { y with batches := y.batches ++ [b] } else y
      z.modBatch tag fun q => { q with live := false, cause := some cause, waiting := [] }
    let s2 := s1.tellCancel h tag cause (if b.group.isSome then b.group else group)
    let s3 := if (x.batch tag).isNone then s2
      else (s.batchDies h b).foldl (fun d k => (d.countDrill h k 0x40 1).event (regAt k 0x120) 1) s2
    s3.freeTags h

/-- A missed deadline of R289. -/
def Dev.missed (s : Dev) (h : HoldId) : Dev :=
  (s.countDrill h (s.coordinator h) 0x48 1).event (regAt (s.coordinator h) 0x120) 2

/-- Cancels the live tags of groups with a member that was aborted or expelled (R290). -/
def Dev.drillLost (s : Dev) (h : HoldId) (dev : BitVec 16) (owner : Option HoldId) : Dev :=
  let x := s.holding h
  let hit := x.batches.filter fun b => b.live && (x.membersOf b.group).contains dev &&
    (match owner with
     | none => true
     | some o => b.counts.all fun m => m.src != dev || m.owner == o)
  hit.foldl (fun d b => d.cancelBatch h b.tag .aborted b.group) s

/-! ### Choosing experts (R272, R273) -/

/-- The ranking key of a score. -/
def scoreKey (b : Word32) : Nat :=
  if (f32 b).isNan then 0 else if b.getLsbD 31 then (b ^^^ 0xFFFFFFFF).toNat else (b ||| 0x80000000).toNat

/-- Inserts an expert into a list ranked by falling key, equal keys by rising number. -/
def rankIn (e : Nat × Word32) : List (Nat × Word32) → List (Nat × Word32)
  | [] => [e]
  | f :: t => if scoreKey f.2 < scoreKey e.2 then e :: f :: t else f :: rankIn e t

/-- The ranked experts of a score row. -/
def rankScores (scores : List Word32) : List (Nat × Word32) :=
  (List.range scores.length).foldl (fun l i => rankIn (i, nthD scores i 0) l) []

/-! ### Token rows at the home (R269, R271, R278, R280) -/

/-- Where a slot's row lies, and its origin record. -/
def HomeQueue.rowVa (q : HomeQueue) (l : Layer) (buffer slot : Nat) : Nat :=
  if slot < q.queueRows then q.queueVa + (buffer * q.queueRows + slot) * l.rowSectors * 32
  else q.spillVa + (buffer * q.spillRows + (slot - q.queueRows)) * l.rowSectors * 32
def HomeQueue.originAt (q : HomeQueue) (buffer slot : Nat) : Nat :=
  q.originVa + (buffer * (q.queueRows + q.spillRows) + slot) * 8
def HomeQueue.bufferOf (q : HomeQueue) (batch : Nat) : Nat := batch % max q.nbuf 1

/-- The origin record (R279). -/
def originWord (m : TokenMsg) : Word64 :=
  BitVec.ofNat 64 (m.round.val * 2 ^ 42 + m.choice.val * 2 ^ 39 + m.token.toNat * 65536 + m.src.toNat)

/-- Writes a token row into its slot with its origin record. -/
def Dev.landToken (s : Dev) (p : PortId) (h : HoldId) (q : HomeQueue) (l : Layer) (m : TokenMsg) : Dev :=
  let a := linkAgent p h
  let u := q.bufferOf (m.tag.toNat % 65536)
  let s1 := s.writeVa a false (q.rowVa l u m.slot) (m.row.take (l.rowSectors * 32))
  let s2 := s1.writeVa a false (q.originAt u m.slot) ((leBytes 8 (originWord m).toNat).map fun b => ⟨b, false⟩)
  s2.modHolding h fun x =>
    (x.modQueue q.queue fun z => { z with held := insertNew (u, m.tag) z.held }).modBatch m.tag fun b =>
      { b with slots := b.slots ++ [{ queue := q.queue, slot := m.slot, origin := originWord m, returned := false }] }

/-- TOKEN_ROW at the home (R271, R278, R280, R291). -/
def Dev.tokenRow (s : Dev) (p : PortId) (h : HoldId) (m : TokenMsg) : Dev :=
  let x := s.holding h
  match x.batch m.tag with
  | none => s.count (some h) (drlReg (linkDie p) 0x70) 1
  | some b =>
    if !b.live then s.count (some h) (drlReg (linkDie p) 0x70) 1
    else
      match x.queueFor m.expert with
      | none => s.cancelBatch h m.tag .badParameter b.group
      | some q =>
        match x.layer q.layer with
        | none => s
        | some l =>
          let u := q.bufferOf (m.tag.toNat % 65536)
          if q.held.any fun z => z.1 == u && z.2 != m.tag then
            (s.countFree (some h) (drlReg (linkDie p) 0x78)).modBatch h m.tag fun c => { c with waiting := c.waiting ++ [m] }
          else s.landToken p h q l m

/-- DRILL_BUFFER_RELEASE: the rows that wait for a buffer are written once it is free. -/
def Dev.bufferRelease (s : Dev) (h : HoldId) (queue buffer : Nat) : Dev :=
  let s1 := (s.freeTags h).modHolding h Holding.releaseBuffers
  let x := s1.holding h
  match x.queues.find? fun q => q.queue == queue with
  | none => s1
  | some q =>
    let mine := fun (m : TokenMsg) => m.expert == q.global && q.bufferOf (m.tag.toNat % 65536) == buffer
    match x.batches.find? fun b => b.live && b.waiting.any mine with
    | none => s1
    | some b =>
      let s2 := s1.modBatch h b.tag fun c => { c with waiting := c.waiting.filter fun m => !mine m }
      (b.waiting.filter mine).foldl (fun d m => d.tokenRow (homePort m.src) h m) s2

/-! ### Answers (R285, R286, R291) -/

/-- The return entry of a choice, by the ROUTE that placed its token. -/
def Batch.returnVa (b : Batch) (l : Layer) (token choice : Nat) : Option Nat :=
  (b.routes.find? fun r => r.first ≤ token && token < r.first + r.rows).map fun r =>
    r.retVa + (token * r.topk + choice) * l.ansSectors * 32

def Dev.writeReturn (s : Dev) (p : PortId) (h : HoldId) (b : Batch) (token choice : Nat) (row : List PByte) : Dev :=
  match (s.holding h).layer b.layer with
  | none => s
  | some l =>
    match b.returnVa l token choice with
    | none => s
    | some va => s.writeVa (linkAgent p h) false va (row.take (l.ansSectors * 32))

/-- ANSWER at the source. -/
def Dev.answer (s : Dev) (p : PortId) (h : HoldId) (m : AnswerMsg) : Dev :=
  match (s.holding h).batch m.tag with
  | none => s.count (some h) (drlReg (linkDie p) 0x68) 1
  | some b =>
    if !b.live then s.count (some h) (drlReg (linkDie p) 0x68) 1
    else
      (s.writeReturn p h b m.token.toNat m.choice.val m.row).modBatch h m.tag fun c =>
        { c with choices := c.choices.map fun q =>
            if q.token = m.token.toNat ∧ q.choice = m.choice.val then { q with answered := true } else q }

/-! ### Counting and placing (R278, R282, R283) -/

/-- The choices that a source offers in a round: all of them, or the second-round offers: choice by choice its expert. -/
def Batch.offers (b : Batch) (round : Fin 2) : List RoutedChoice :=
  if round = 0 then b.choices.filter fun c => c.state.isNone
  else b.choices.filter fun c => c.state.isNone && c.slot.isNone

/-- The count message for one member. -/
def Holding.countFor (x : Holding) (me : BitVec 16) (h : HoldId) (b : Batch) (l : Layer) (round : Fin 2) (deadline : Word64)
    (member : BitVec 16) : CountMsg :=
  { src := me, owner := h, epoch := x.epoch, group := b.group.getD 0, tag := b.tag, layer := b.layer, round := round, deadline := deadline
    counts := ((List.range l.experts.length).filter fun i => (nthD l.experts i ⟨0, 0⟩).home == member).map fun i =>
      ((nthD l.experts i ⟨0, 0⟩).global, ((b.offers round).filter fun c => c.expert == i).length) }

/-- Slots placed in near rows and in spill rows for a count that begins at a base (R282). -/
def nearOf (base n cap : Nat) : Nat := min n (cap - base)
def spillOf (base n cap spill : Nat) : Nat := min (base + n) (cap + spill) - max base (min cap (base + n))

/-- The placements of one queue for the members in ascending device number (R278). -/
def placeMembers (start : Nat) : List (BitVec 16 × Nat) → List (BitVec 16 × Nat)
  | [] => []
  | (d, n) :: t => (d, start) :: placeMembers (start + n) t

def insertDev (m : CountMsg) : List CountMsg → List CountMsg
  | [] => [m]
  | a :: t => if m.src.toNat < a.src.toNat then m :: a :: t else a :: insertDev m t

/-- What the home places for one queue in a round: the start slot, its members' bases, and the near and spill slots. -/
def HomeQueue.placement (q : HomeQueue) (spills : Bool) (round : Fin 2) (b : Batch) : List (BitVec 16 × Nat) × Nat × Nat × Nat :=
  let cs := (b.counts.filter fun m => m.round == round).foldl (fun l m => insertDev m l) []
  let ns := cs.map fun m => (m.src, ((m.counts.find? fun p => p.1 == q.global).map (·.2)).getD 0)
  let start := if round = 0 then 0 else ((b.placed.find? fun p => p.1 == q.queue).map (·.2.1)).getD 0
  let total := ns.foldl (fun n p => n + p.2) 0
  (placeMembers start ns, total, nearOf start total q.capacity,
    if spills && round == 0 then spillOf start total q.capacity q.spillCapacity else 0)

/-- Adds a placement of a queue to the batch. -/
def addPlaced (l : List (Nat × Nat × Nat)) (q near spill : Nat) : List (Nat × Nat × Nat) :=
  if l.any fun p => p.1 == q then l.map fun p => if p.1 = q then (q, p.2.1 + near, p.2.2 + spill) else p
  else l ++ [(q, near, spill)]

/-- The home has every member's counts of a round: it places and replies. Replies to this device itself are listed. -/
def Dev.placeAll (s : Dev) (h : HoldId) (tag : Word32) (round : Fin 2) : List PlacementMsg × Dev :=
  let x := s.holding h
  match x.batch tag with
  | none => ([], s)
  | some b =>
    let spills := ((x.layer b.layer).map fun l => l.overflow == 2).getD false
    let qs := x.queues.filter fun q => q.layer == b.layer
    let ps := qs.map fun q => (q, q.placement spills round b)
    let s1 := s.modHolding h fun y =>
      ps.foldl (fun y p =>
        let beyond := p.2.2.1 - p.2.2.2.1
        (y.modQueue p.1.queue fun z => { z with routed := min (z.routed + p.2.2.1) 0xFFFFFFFF
                                                accepted := min (z.accepted + p.2.2.2.1) 0xFFFFFFFF
                                                overflowed := min (z.overflowed + beyond) 0xFFFFFFFF }).modBatch tag fun c =>
          { c with placed := addPlaced c.placed p.1.queue p.2.2.2.1 p.2.2.2.2 }) y
    let msg := fun (d : BitVec 16) =>
      ({ home := s.number, owner := h, epoch := x.epoch, tag := tag, round := round
         places := ps.map fun p =>
           { expert := p.1.global, base := ((p.2.1.find? fun z => z.1 == d).map (·.2)).getD 0
             capacity := p.1.capacity, spill := if spills then p.1.spillCapacity else 0, near := p.1.queueRows } } : PlacementMsg)
    let members := x.membersOf b.group
    let s2 := (members.filter fun d => d != s.number).foldl (fun t d => t.send d 2 (.holding h) (.placement h (msg d))) s1
    (if members.contains s.number then [msg s.number] else [], s2.modBatch h tag fun c => { c with round := round })

/-- A count message at the home; the placement replies to this device itself are listed (R271, R276, R278, R289). -/
def Dev.takeCount (s : Dev) (h : HoldId) (m : CountMsg) : List PlacementMsg × Dev :=
  let x := s.holding h
  let b? := x.batch m.tag
  if (b?.map (fun b => !b.live)).getD false then ([], s)
  else if b?.isNone && x.tagsFull then ([], s.cancelBatch h m.tag .noResource (some m.group))
  else
    let s1 := if b?.isNone then s.modHolding h fun y =>
        { y with batches := y.batches ++ [newBatch m.tag m.layer 0 (some m.group)] } else s
    let b := b?.getD (newBatch m.tag m.layer 0 (some m.group))
    let dl := b.homeDeadline.getD (s.dt + BitVec.ofNat 64 (m.deadline.toNat * 64))
    if m.counts.any fun p => !(x.queues.any fun q => q.global == p.1 && q.layer == m.layer) then
      ([], s1.cancelBatch h m.tag .badParameter (some m.group))
    else if (b.homeDeadline.isSome && reached s.dt dl) || b.counts.any (fun c => c.src == m.src && c.round == m.round) then ([], s1)
    else
      let s2 := s1.modBatch h m.tag fun c =>
        { c with counts := c.counts ++ [m], homeDeadline := some dl, group := some (c.group.getD m.group) }
      let y := s2.holding h
      match y.batch m.tag with
      | some c => if y.allCounted c m.round then s2.placeAll h m.tag m.round else ([], s2)
      | none => ([], s2)

/-! ### Sending rows (R278, R282) -/

/-- The decision for a choice at a slot: its state, or none when it goes to the second round. -/
def slotState (policy : Nat) (round : Fin 2) (slot cap spill : Nat) : Option Choice :=
  if slot < cap then some (if round = 0 then .accepted else .second)
  else if round = 1 ∨ policy = 0 then some .dropped
  else if policy = 2 then some (if slot < cap + spill then .spilled else .dropped)
  else none

/-- The row of the home's memory for a slot: spill slots follow the near rows. -/
def homeSlot (st : Choice) (slot cap queueRows : Nat) : Nat := if st = .spilled then queueRows + (slot - cap) else slot

def setChoice (b : Batch) (c : RoutedChoice) (f : RoutedChoice → RoutedChoice) : Batch :=
  { b with choices := b.choices.map fun q => if q.token = c.token ∧ q.choice = c.choice then f q else q }

/-- Sends a placed choice's token row, or lands it when the home is this device; while its source must wait, the row is
owed. -/
def Dev.sendToken (s : Dev) (h : HoldId) (b : Batch) (l : Layer) (c : RoutedChoice) (round : Fin 2) (slot : Nat) : Dev :=
  match b.routes.find? fun r => r.first ≤ c.token && c.token < r.first + r.rows with
  | none => s
  | some r =>
    let e := nthD l.experts c.expert ⟨0, 0⟩
    let p := homePort e.home
    let va := r.tokVa + (c.token - r.first) * r.tokStride * 32
    let a : Agent := { linkAgent p h with core := some r.core, index := r.index }
    if s.sourceWaits p e.home a va (l.rowSectors * 32) then
      s.modBatch h b.tag fun z => setChoice z c fun q => { q with owed := some round }
    else
    let got := s.readOut a va (l.rowSectors * 32)
    let m : TokenMsg := { src := s.number, owner := h, epoch := (s.holding h).epoch, tag := b.tag, expert := e.global, slot := slot, token := BitVec.ofNat 23 c.token
                          choice := Fin.ofNat 8 c.choice, round := round, row := got.1 }
    if e.home = s.number then got.2.tokenRow p h m
    else got.2.sendFrom p e.home 2 (.holding h) (.token h m) (s.blocksAt h va (l.rowSectors * 32))

/-- The counter of a final state (R297). -/
def stateReg : Choice → Nat
  | .accepted => 0x10 | .second => 0x20 | .spilled => 0x28 | .dropped => 0x30 | _ => 0

/-- The die whose ROUTE covers a token. -/
def Batch.dieOf (b : Batch) (token : Nat) : Nat :=
  ((b.routes.find? fun r => r.first ≤ token && token < r.first + r.rows).map fun r => r.core.val / 8).getD 0

/-- Settles a choice: its row is sent, or its return entry is written +0. -/
def Dev.settleChoice (s : Dev) (h : HoldId) (tag : Word32) (l : Layer) (c : RoutedChoice) (round : Fin 2) (st : Choice)
    (slot : Nat) : Dev :=
  match (s.holding h).batch tag with
  | none => s
  | some b =>
    let s1 := s.modBatch h tag fun z => setChoice z c fun q => { q with state := some st, slot := some slot }
    let die := b.dieOf c.token
    let s2 := s1.countDrill h die (stateReg st) 1
    let s3 := if st = .second then s2.countDrill h die 0x10 1 else s2
    if st = .dropped then s3.writeReturn (homePort s.number) h b c.token c.choice (zeroBytes (l.ansSectors * 32))
    else s3.sendToken h b l c round slot

def insertToken (c : RoutedChoice) : List RoutedChoice → List RoutedChoice
  | [] => [c]
  | a :: t => if c.token < a.token then c :: a :: t else a :: insertToken c t

/-- Places this device's choices for one expert from its base on. -/
def Dev.placeExpert (s : Dev) (h : HoldId) (tag : Word32) (l : Layer) (round : Fin 2) (p : Placement) : Dev :=
  match (s.holding h).batch tag with
  | none => s
  | some b =>
    let n := (l.experts.findIdx? fun e => e.global == p.expert).getD l.experts.length
    let mine := ((b.offers round).filter fun c => c.expert == n).foldl (fun t c => insertToken c t) []
    (List.range mine.length).foldl (fun d i =>
      let c := nthD mine i ⟨0, 0, 0, 0, [], none, none, false, none⟩
      let slot := p.base + i
      let beyond := decide (p.capacity ≤ slot)
      let d1 := if beyond then d.countDrill h (b.dieOf c.token) 0x18 1 else d
      match slotState l.overflow round slot p.capacity p.spill with
      | some st => d1.settleChoice h tag l c round st (homeSlot st slot p.capacity p.near)
      | none => d1.modBatch h tag fun z => setChoice z c fun q => { q with slot := some slot }) s

/-- Before the second round: the i-th overflowing choice of a token takes the token's expert of rank TOPK + i (R283). -/
def Batch.secondOffers (b : Batch) : List (RoutedChoice × Option (Nat × Word32)) :=
  let beyond := b.choices.filter fun c => c.state.isNone
  beyond.map fun c =>
    let i := (beyond.filter fun q => q.token == c.token && decide (q.choice < c.choice)).length
    (c, c.alternatives[i]?)

/-- Starts the second round: offers without an expert are DROPPED. -/
def Dev.offerSecond (s : Dev) (h : HoldId) (tag : Word32) (l : Layer) : Dev :=
  match (s.holding h).batch tag with
  | none => s
  | some b =>
    b.secondOffers.foldl (fun d p =>
      match p.2 with
      | some (e, sc) => (d.modBatch h tag fun z =>
          setChoice z p.1 fun q => { q with expert := e, score := sc, slot := none }).countDrill h (b.dieOf p.1.token) 0x08 1
      | none => d.settleChoice h tag l p.1 1 .dropped 0) s

/-- Every member has replied in a round. -/
def Holding.allReplied (x : Holding) (b : Batch) (round : Fin 2) : Bool :=
  (x.membersOf b.group).all fun d => b.replies.contains (d, round)

/-- The coordinator's count messages of a round; this device's own is taken at once, and its replies are listed. -/
def Dev.sendCounts (s : Dev) (h : HoldId) (tag : Word32) (l : Layer) (round : Fin 2) (deadline : Word64) :
    List PlacementMsg × Dev :=
  let x := s.holding h
  match x.batch tag with
  | none => ([], s)
  | some b =>
    let members := x.membersOf b.group
    let msg := fun d => x.countFor s.number h b l round deadline d
    let s1 := (members.filter fun d => d != s.number).foldl (fun t d => t.send d 2 (.holding h) (.count h (msg d))) s
    if members.contains s.number then s1.takeCount h (msg s.number) else ([], s1)

/-- Placement replies, one after another; the number bounds the replies that follow from this device's own counts. -/
def Dev.takeReplies (s : Dev) (h : HoldId) : Nat → List PlacementMsg → Dev
  | 0, _ => s
  | _, [] => s
  | n + 1, m :: rest =>
    let x := s.holding h
    match x.batch m.tag with
    | none => s.takeReplies h n rest
    | some b =>
      match x.layer b.layer with
      | none => s.takeReplies h n rest
      | some l =>
        if !b.live || b.replies.contains (m.home, m.round) || (b.deadline.any fun t => reached s.dt t) then
          s.takeReplies h n rest
        else
          let s1 := (m.places.foldl (fun d p => d.placeExpert h m.tag l m.round p) s).modBatch h m.tag fun c =>
            { c with replies := c.replies ++ [(m.home, m.round)] }
          let y := s1.holding h
          match y.batch m.tag with
          | none => s1.takeReplies h n rest
          | some c =>
            if m.round = 0 ∧ l.overflow = 1 ∧ y.allReplied c 0 then
              let s2 := s1.offerSecond h m.tag l
              let r := s2.sendCounts h m.tag l 1 (BitVec.ofNat 64 c.dlUnits)
              r.2.takeReplies h n (rest ++ r.1)
            else s1.takeReplies h n rest

/-- Replies that one command can lead to at this device. -/
def replyBound : Nat := 8

/-- COUNT_MESSAGE. -/
def Dev.countMessage (s : Dev) (h : HoldId) (m : CountMsg) : Dev :=
  let r := s.takeCount h m
  r.2.takeReplies h replyBound r.1

/-- PLACEMENT_REPLY. -/
def Dev.placementReply (s : Dev) (h : HoldId) (m : PlacementMsg) : Dev := s.takeReplies h replyBound [m]

/-! ### ROUTE (R272 to R278) -/

/-- The ranked score row of a valid row: its experts, NaN scores, and whether it is poisoned. -/
def Drl.scores (d : Drl) (c : Core) (e : Nat) (r : Nat) : List (Nat × Word32) × Nat × Bool :=
  let base := (d.scoreAddr + r * d.scoreStride) * lineBytes
  let els := (List.range e).map fun i => elemAt c.osByte base .fp32 i
  let ws := els.map fun x => BitVec.ofNat 32 x.bits
  (rankScores ws, (ws.filter fun w => (f32 w).isNan).length, els.any (·.poison))

/-- The choices of a ROUTE. -/
def Drl.choices (d : Drl) (c : Core) (e valid : Nat) : List RoutedChoice :=
  (List.range valid).flatMap fun r =>
    let s := d.scores c e r
    let n := min (2 * d.topk) e
    let alts := (s.1.take n).drop d.topk
    (List.range (min d.topk e)).map fun j =>
      let x := nthD s.1 j (0, 0)
      { token := d.off + r, choice := j, expert := x.1, score := x.2, alternatives := alts
        state := if s.2.2 then some .poisoned else none, slot := none, answered := false }

/-- The routing-record entry of a choice (R274). -/
def RoutedChoice.word (c : RoutedChoice) : Nat :=
  ((c.state.getD .cancelled).code.toNat) * 2 ^ 44 + c.expert % 4096 * 2 ^ 32 + c.score.toNat

/-- Writes the record lines of a ROUTE. -/
def Core.writeRecords (x : Core) (d : Drl) (valid : Nat) (cs : List RoutedChoice) : Core :=
  (List.range valid).foldl (fun y r =>
    let ws := (cs.filter fun c => c.token == d.off + r).map fun c => (leBytes 8 c.word)
    let bytes := (ws.flatten ++ List.replicate 64 0).take 64
    y.osWrite ((d.recAddr + r) * lineBytes) (bytes.map fun b => ⟨b, false⟩)) x

/-- Numbered messages that are sent and not yet acknowledged, with their destinations: gated or in the retry store. -/
def Dev.anyOut (s : Dev) (hit : Nat → OutMsg → Bool) : Bool :=
  (s.gate.any fun g => hit g.dst.toNat g.msg) || s.seqTx.any fun t => t.2.held.any fun f => hit (t.1 / 4) f.msg

/-- A token row that a ROUTE of some tokens has sent. -/
def tokenWithin (m : TokenMsg) (tag : Word32) (first rows : Nat) : Bool :=
  m.tag == tag && decide (first ≤ m.token.toNat) && decide (m.token.toNat < first + rows)

/-- A ROUTE's token rows that have not reached their home controllers: unacknowledged, or waiting for a buffer here
(R278; notes/assumptions/110). -/
def Dev.rowsOut (s : Dev) (h : HoldId) (b : Batch) (first rows : Nat) : Bool :=
  (s.anyOut fun _ m => match m with
    | .token g t => g == h && tokenWithin t b.tag first rows
    | _ => false)
    || b.waiting.any fun m => m.src == s.number && tokenWithin m b.tag first rows

/-- Sends a row that a batch still owes. -/
def Dev.payRow (s : Dev) (h : HoldId) (tag : Word32) (l : Layer) (c : RoutedChoice) : Dev :=
  match (s.holding h).batch tag, c.owed, c.slot with
  | some b, some round, some slot => (s.modBatch h tag fun z => setChoice z c fun q => { q with owed := none }).sendToken h b l c round slot
  | _, _, _ => s

/-- Rows of a ROUTE that are still owed. -/
def Dev.rowsOwed (s : Dev) (h : HoldId) (tag : Word32) (first rows : Nat) : Bool :=
  ((s.holding h).batch tag).any fun b =>
    b.choices.any fun q => q.owed.isSome && decide (first ≤ q.token) && decide (q.token < first + rows)

def routeValid (d : Drl) (e : WEntry) : Nat := validCount d.rows d.off (e.len d.lreg)

/-- The record that a batch keeps of a ROUTE. -/
def Drl.route (d : Drl) (c : CoreId) (queue : Nat) (e : WEntry) (entered : Bool) : RouteRec :=
  { core := c, queue := queue, index := e.index, first := d.off, rows := routeValid d e, topk := d.topk, recAddr := d.recAddr
    tokVa := d.tokVa, tokStride := d.tokStride, retVa := d.retVa, entered := entered }

/-- A ROUTE whose rows are all CANCELLED (R277). -/
def routeCancelled (c : CoreId) (h : HoldId) (e : WEntry) (d : Drl) (x : Holding) (st : Status) (r : Run) : Run :=
  let n := ((x.layer d.layer).map fun l => l.experts.length).getD 0
  let v := routeValid d e
  let core := r.dev.core c
  let cs := (d.choices core n v).map fun q => { q with state := some .cancelled }
  { r with dev := (r.dev.modCore c fun y => y.writeRecords d v cs).runFault c (some h) e.index st }

/-- The tokens of a ROUTE that found its tag retired: their return entries take poison with the others (R286, R288). -/
def Batch.late (b : Batch) (z : RouteRec) (cs : List RoutedChoice) : Batch :=
  { b with
    routes := b.routes ++ [z]
    choices := b.choices ++ (cs.filter fun q => !b.choices.any fun w => w.token == q.token && w.choice == q.choice).map fun q =>
      { q with state := some .cancelled } }

/-- Enters a ROUTE into its batch; when it is the last of NDESC, the counts go out. -/
def enterRoute (c : CoreId) (h : HoldId) (e : WEntry) (d : Drl) (l : Layer) (tag : Word32) (s : Dev) : Dev :=
  let x := s.holding h
  let v := routeValid d e
  let core := s.core c
  let cs := d.choices core l.experts.length v
  let b0 := (((x.batch tag).getD (newBatch tag d.layer 0 (some d.group))).adopt d).timed e.startTime
  let b1 : Batch := { b0 with
    routes := b0.routes ++ [d.route c (x.dfnOf c e.stream).queue e true], choices := b0.choices ++ cs }
  let s1 := s.modHolding h fun y =>
    if (y.batch tag).isSome then y.modBatch tag fun _ => b1 else { y with batches := y.batches ++ [b1] }
  let nan := (List.range v).foldl (fun n r => n + (d.scores core l.experts.length r).2.1) 0
  let bad := ((List.range v).filter fun r => (d.scores core l.experts.length r).2.2).length
  let die := c.val / 8
  let s2 := ((s1.countDrill h die 0x50 nan).countDrill h die 0x58 bad).countDrill h die 0x08
    (cs.filter fun q => q.state.isNone).length
  let s3 := (cs.filter fun q => q.state == some .poisoned).foldl (fun t q =>
    t.writeReturn (homePort t.number) h b1 q.token q.choice (List.replicate (l.ansSectors * 32) ⟨0, true⟩)) s2
  if b1.routes.length < b1.ndesc then s3
  else
    let r := s3.sendCounts h tag l 0 (BitVec.ofNat 64 b1.dlUnits)
    r.2.takeReplies h replyBound r.1

/-- Every choice of a ROUTE has its final state. -/
def Batch.routeDone (b : Batch) (first rows : Nat) : Bool :=
  decide (b.ndesc ≤ b.routes.length) &&
    b.choices.all fun c => decide (c.token < first) || decide (first + rows ≤ c.token) || c.state.isSome

/-- A ROUTE runs in the batch already: it is known by its queue and index, so that the one a successor reissues joins it
(R292). -/
def Batch.joins (b : Batch) (queue : Nat) (index : Word32) : Bool :=
  b.routes.any fun z => z.queue == queue && z.index == index && z.entered

def Batch.causeOf (b : Batch) : Status := causeStatus (b.cause.getD .aborted)

/-- ROUTE. A ROUTE that never entered and finds its tag retired is CANCELLED with ABORTED (R277), unless it cancelled the
batch itself (mark 1). -/
def routeBody (c : CoreId) (a : Agent) (e : WEntry) (r : Run) : Option (Run × Bool) :=
  let d := drlOf e.desc
  let h := a.holding
  let x := r.dev.holding h
  let tag := tagOf x d.batch
  let v := routeValid d e
  let queue := (x.dfnOf c e.stream).queue
  let mark := fun (s : Dev) => s.modEntry c e fun w => { w with mark := 1 }
  match x.layer d.layer, x.batch tag with
  | none, _ => none
  | some l, none =>
    if x.tagsFull then some ({ r with dev := mark (r.dev.cancelBatch h tag .noResource (some d.group)) }, false)
    else some ({ r with dev := mark (enterRoute c h e d l tag r.dev) }, false)
  | some l, some b =>
    let own := b.choices.filter fun q => d.off ≤ q.token && q.token < d.off + v
    let joined := b.joins queue e.index
    if !b.live then
      if joined then
        some ({ r with dev := (r.dev.modCore c fun y => y.writeRecords d v own).runFault c (some h) e.index b.causeOf }, true)
      else
        let q := routeCancelled c h e d x (if e.mark = 0 then .aborted else b.causeOf) r
        let cs := d.choices (r.dev.core c) l.experts.length v
        some ({ q with dev := q.dev.modBatch h tag fun z => z.late (d.route c queue e false) cs }, true)
    else if !joined then
      if b.routes ≠ [] ∧ b.ndesc ≤ b.routes.length then some (routeCancelled c h e d x .aborted r, true)
      else if (b.ndesc ≠ 0 ∧ b.ndesc ≠ d.ndesc)
          ∨ (b.routes.any fun q => decide (q.first < d.off + v) && decide (d.off < q.first + q.rows)) then
        some ({ r with dev := mark (r.dev.cancelBatch h tag .badParameter (some d.group)) }, false)
      else some ({ r with dev := mark (enterRoute c h e d l tag r.dev) }, false)
    else
      let owed := own.filter fun q => q.owed.isSome
      let s1 := owed.foldl (fun s q => s.payRow h tag l q) r.dev
      if b.routeDone d.off v && !s1.rowsOut h b d.off v && !(s1.rowsOwed h tag d.off v) then
        some ({ r with dev := s1.modCore c fun y => y.writeRecords d v own }, true)
      else if owed.isEmpty then none
      else some ({ r with dev := s1 }, false)

/-! ### The tag opens with the acceptance of its first ROUTE (R276) -/

/-- The tag of a ROUTE as it is accepted: the step it will run in follows the STEP fences before it in its stream. -/
def Dev.tagAhead (s : Dev) (h : HoldId) (c : CoreId) (e : WEntry) : Word32 :=
  let x := s.holding h
  let fences := ((s.core c).before e).filter fun w => w.stream == e.stream && isFence w [0] && w.phase != .completed
  tagOf { x with step := x.step + BitVec.ofNat 32 fences.length } (drlOf e.desc).batch

/-- Opens the tag of a ROUTE. A tag that a notice retired before any of its ROUTEs, with its group unknown, learns both group
and layer here, and its own notices go out (R288). -/
def Dev.openTag (s : Dev) (h : HoldId) (c : CoreId) (e : WEntry) : Dev :=
  let d := drlOf e.desc
  let tag := s.tagAhead h c e
  match (s.holding h).batch tag with
  | some b =>
    let s1 := s.modBatch h tag fun z => z.adopt d
    if b.live || b.group.isSome then s1 else s1.tellCancel h tag ((b.cause).getD .aborted) (some d.group)
  | none =>
    if (s.holding h).tagsFull then
      (s.cancelBatch h tag .noResource (some d.group)).modEntry c e fun w => { w with mark := 1 }
    else s.modHolding h fun x => { x with batches := x.batches ++ [(newBatch tag d.layer 0 (some d.group)).adopt d] }

/-- What follows from an acceptance for the Drill. -/
def Dev.openRoute (s t : Dev) (c : CoreId) : Dev :=
  match (t.core c).window.getLast?, t.holdingOfCore c with
  | some e, some h =>
    if (s.core c).window.length < (t.core c).window.length && e.isRoute && e.phase == .accepted then t.openTag h c e else t
  | _, _ => t

/-! ### EXPERT_WAIT, RETURN, RET_WAIT and CANCEL (R281, R285, R286, R295) -/

/-- Logs the length registers that a descriptor of class 5 wrote, for a silent replay (R195). -/
def Dev.logLens (s : Dev) (c : CoreId) (h : HoldId) (e : WEntry) (ps : List (Nat × Nat)) : Dev :=
  s.modHolding h fun x =>
    match x.stageOf c e.stream with
    | none => x
    | some g => x.modStage g.dfn.stage fun t =>
        { t with lenLog := t.lenLog ++ (ps.filter fun p => p.1 ≠ 0).map fun p => (e.index, p.1, p.2) }

/-- Writes the counts of an EXPERT_WAIT. -/
def Dev.writeCounts (s : Dev) (c : CoreId) (h : HoldId) (e : WEntry) (d : Drl) (near spill : Nat) : Dev :=
  let line := (leBytes 4 near ++ leBytes 4 spill ++ List.replicate 56 0).map fun b => (⟨b, false⟩ : PByte)
  let s1 := s.modCore c fun y => y.osWrite (d.recAddr * lineBytes) line
  let s2 := if d.cntLreg = 0 then s1 else s1.setLen (some h) c d.cntLreg near
  let s3 := if d.lreg = 0 then s2 else s2.setLen (some h) c d.lreg spill
  s3.logLens c h e [(d.cntLreg, near), (d.lreg, spill)]

def expertWaitBody (c : CoreId) (a : Agent) (e : WEntry) (r : Run) : Option Run :=
  let d := drlOf e.desc
  let h := a.holding
  let x := r.dev.holding h
  match x.batch (tagOf x d.batch) with
  | none => none
  | some b =>
    if !b.live then
      some { r with dev := (r.dev.writeCounts c h e d 0 0).runFault c (some h) e.index b.causeOf }
    else (x.queueFinal b d.queue).map fun p => { r with dev := r.dev.writeCounts c h e d p.1 p.2 }

/-- Sends the answer of one filled slot to its origin, or writes it when the origin is this device. -/
def Dev.sendAnswer (s : Dev) (a : Agent) (h : HoldId) (b : Batch) (l : Layer) (q : HomeQueue) (z : SlotRec) (va : Nat) : Dev :=
  let src : BitVec 16 := z.origin.setWidth 16
  let p := homePort src
  let got := s.readOut { a with die := linkDie p } va (l.ansSectors * 32)
  let m : AnswerMsg := { src := s.number, owner := h, epoch := (s.holding h).epoch, tag := b.tag, expert := q.global, token := z.origin.extractLsb' 16 23
                         choice := Fin.ofNat 8 (z.origin.extractLsb' 39 3).toNat, row := got.1 }
  let s1 := if src = s.number then got.2.answer p h m
    else got.2.sendFrom p src 2 (.holding h) (.answerRow h m) (s.blocksAt h va (l.ansSectors * 32))
  s1.modHolding h fun x => (x.modQueue q.queue fun t => { t with returned := min (t.returned + 1) 0xFFFFFFFF }).modBatch b.tag fun c =>
    { c with slots := c.slots.map fun t => if t.queue = z.queue ∧ t.slot = z.slot then { t with returned := true } else t }

/-- The answer of a slot must wait to be read. -/
def Dev.answerHeld (s : Dev) (a : Agent) (h : HoldId) (l : Layer) (z : SlotRec) (va : Nat) : Bool :=
  let src : BitVec 16 := z.origin.setWidth 16
  let p := homePort src
  s.sourceWaits p src { a with die := linkDie p, holding := h } va (l.ansSectors * 32)

/-- The origins of the filled slots of a queue from one slot on. -/
def Batch.origins (b : Batch) (queue first n : Nat) : List Word64 :=
  (b.slots.filter fun z => z.queue == queue && decide (first ≤ z.slot) && decide (z.slot < first + n)).map (·.origin)

/-- Answers of a queue for some origins that have been sent and not acknowledged. -/
def Dev.answersOut (s : Dev) (h : HoldId) (tag : Word32) (queue : Nat) (origins : List Word64) : Bool :=
  s.anyOut fun dst m =>
    match m with
    | .answerRow g t => g == h && t.tag == tag && (((s.holding h).queueFor t.expert).any fun q => q.queue == queue)
        && origins.any fun o => (o.setWidth 16 : BitVec 16).toNat == dst && o.extractLsb' 16 23 == t.token
            && (o.extractLsb' 39 3).toNat == t.choice.val
    | _ => false

/-- RETURN: it completes once its own answers are written; a buffer whose last slot has been returned is free (R280). -/
def returnBody (c : CoreId) (a : Agent) (e : WEntry) (r : Run) : Option (Run × Bool) :=
  let d := drlOf e.desc
  let h := a.holding
  let x := r.dev.holding h
  match x.batch (tagOf x d.batch) with
  | none => none
  | some b =>
    if !b.live then some ({ r with dev := r.dev.runFault c (some h) e.index b.causeOf }, true)
    else
      let v := validCount d.rows d.off (e.len d.lreg)
      let mine := b.origins d.queue d.off v
      if e.mark ≠ 0 then (if r.dev.answersOut h b.tag d.queue mine then none else some (r, true))
      else
      match x.queues.find? fun q => q.queue == d.queue, x.layer d.layer with
      | some q, some l =>
        let zs := (List.range v).filterMap fun i =>
          (b.slots.find? fun z => z.queue == d.queue && z.slot == d.off + i && !z.returned).map fun z => (i, z)
        let s1 := zs.foldl (fun s p =>
          if s.answerHeld a h l p.2 (d.tokVa + p.1 * d.tokStride * 32) then s
          else (s.sendAnswer a h b l q p.2 (d.tokVa + p.1 * d.tokStride * 32)).countDrill h (c.val / 8) 0x38 1) r.dev
        let left := (((s1.holding h).batch b.tag).map fun t => zs.any fun p =>
          t.slots.any fun z => z.queue == p.2.queue && z.slot == p.2.slot && !z.returned).getD false
        let s2 := s1.modHolding h Holding.releaseBuffers
        if left then some ({ r with dev := s2 }, false)
        else
          let s3 := s2.modEntry c e fun w => { w with mark := 1 }
          some ({ r with dev := s3 }, !s3.answersOut h b.tag d.queue mine)
      | _, _ => some (r, true)

def retWaitBody (c : CoreId) (a : Agent) (e : WEntry) (r : Run) : Option Run :=
  let d := drlOf e.desc
  let h := a.holding
  let x := r.dev.holding h
  match x.batch (tagOf x d.batch) with
  | none => none
  | some b =>
    if !b.live then
      let open' := b.choices.filter fun q => !q.answered && q.state != some .dropped && q.state != some .poisoned
      let n := ((x.layer b.layer).map fun l => l.ansSectors * 32).getD 0
      let s1 := open'.foldl (fun s q => s.writeReturn (homePort s.number) h b q.token q.choice (List.replicate n ⟨0, true⟩)) r.dev
      some { r with dev := s1.runFault c (some h) e.index b.causeOf }
    else if b.routes ≠ [] ∧ b.ndesc ≤ b.routes.length ∧
        (b.choices.all fun q => q.answered || q.state == some .dropped || q.state == some .poisoned) then some r
    else none

def cancelBody (_c : CoreId) (a : Agent) (e : WEntry) (r : Run) : Option (Run × Bool) :=
  let d := drlOf e.desc
  let x := r.dev.holding a.holding
  let s1 := r.dev.cancelBatch a.holding (tagOf x d.batch) .aborted (some d.group)
  some ({ r with dev := s1 }, !s1.writesHeld a.holding)

/-- DRILL_DEADLINE: counts or replies are missing when the deadline passes (R289). -/
def Dev.drillDeadline (s : Dev) (h : HoldId) (tag : Word32) : Dev :=
  let x := s.holding h
  match x.batch tag with
  | none => s
  | some b =>
    let last := x.lastRound b
    let home := b.homeDeadline.filter fun _ => !(x.allCounted b last)
    let source := b.deadline.filter fun _ => !(x.allReplied b last)
    let due := match home, source with
      | some t, some u => some (if reached u t then t else u)
      | some t, none => some t
      | none, u => u
    match due with
    | some t => if b.live then ((s.advanceTo t).cancelBatch h tag .timeout b.group).missed h else s
    | none => s

/-! ### The commands -/

/-- What an acceptance may change: what the sequencer may, and a ROUTE's cancel notices. -/
def Dev.acceptScope (s r : Dev) : Dev := { s.netScope r with queues := r.queues, gotre := r.gotre }

/-- DESCRIPTOR_ACCEPT. -/
def Dev.accept (s : Dev) (c : CoreId) (st : Fin 2) : Dev := s.openRoute (s.acceptNext c st) c

def execDescriptorAccept (c : CoreId) (st : Fin 2) (s : State) : Host.Outcome State Fault Refusal :=
  work s (s.dev.acceptScope (s.dev.accept c st))
def execRoute (c : CoreId) (s : State) : Host.Outcome State Fault Refusal :=
  work s (s.dev.netScope (s.dev.runAny c 5 [0] (routeBody c)))
def execExpertWait (c : CoreId) (s : State) : Host.Outcome State Fault Refusal :=
  work s (s.dev.coreScope (s.dev.runAny c 5 [1] fun a e r => (expertWaitBody c a e r).map fun q => (q, true)))
def execRet (c : CoreId) (s : State) : Host.Outcome State Fault Refusal :=
  work s (s.dev.netScope (s.dev.runAny c 5 [2] (returnBody c)))
def execRetWait (c : CoreId) (s : State) : Host.Outcome State Fault Refusal :=
  work s (s.dev.memScope (s.dev.runAny c 5 [3] fun a e r => (retWaitBody c a e r).map fun q => (q, true)))
def execCancel (c : CoreId) (s : State) : Host.Outcome State Fault Refusal :=
  work s (s.dev.netScope (s.dev.runAny c 5 [4] (cancelBody c)))
def execCountMessage (h : HoldId) (msg : CountMsg) (s : State) : Host.Outcome State Fault Refusal :=
  drillWork s (s.dev.netScope (s.dev.unlessStale ⟨msg.src, msg.owner, msg.epoch⟩ (s.dev.countMessage h msg)))
def execPlacementReply (h : HoldId) (msg : PlacementMsg) (s : State) : Host.Outcome State Fault Refusal :=
  drillWork s (s.dev.netScope (s.dev.unlessStale ⟨msg.home, msg.owner, msg.epoch⟩ (s.dev.placementReply h msg)))
def execTokenRow (p : PortId) (h : HoldId) (msg : TokenMsg) (s : State) : Host.Outcome State Fault Refusal :=
  memWork s (s.dev.netScope (s.dev.unlessStale ⟨msg.src, msg.owner, msg.epoch⟩ (s.dev.tokenRow p h msg)))
def execAnswer (p : PortId) (h : HoldId) (msg : AnswerMsg) (s : State) : Host.Outcome State Fault Refusal :=
  memWork s (s.dev.memScope (s.dev.unlessStale ⟨msg.src, msg.owner, msg.epoch⟩ (s.dev.answer p h msg)))
def execCancelNotice (h : HoldId) (tag : Word32) (cause : CancelCause) (s : State) : Host.Outcome State Fault Refusal :=
  drillWork s (s.dev.netScope (s.dev.cancelBatch h tag cause none))
def execDrillDeadline (h : HoldId) (tag : Word32) (s : State) : Host.Outcome State Fault Refusal :=
  drillWork s { s.dev.netScope (s.dev.drillDeadline h tag) with dt := (s.dev.drillDeadline h tag).dt }
def execDrillBufferRelease (h : HoldId) (queue : Fin 4096) (buffer : Fin 4) (s : State) : Host.Outcome State Fault Refusal :=
  drillWork s (s.dev.netScope (s.dev.bufferRelease h queue.val buffer.val))

end Sys2Proof.Machine
end

