-- ==== Sys2Proof/Machine/Gotre.lean ====
section
/-! DEFINITION. Gotre (R416 to R432): the watchdog, the mailboxes, the acceptance and the completion of commands; and
the queue managers (R442 to R446): doorbells, tail polling and head reports. -/

namespace Sys2Proof.Machine

open Sys2Proof

/-- Gotre runs (R417, R448, R482, R522). -/
def Dev.gotreRuns (s : Dev) : Bool :=
  s.gotre.up && s.clocked

/-- The boot ROM stands in recovery and serves mailbox 0 of the PF (R499). -/
def Dev.inRecovery (s : Dev) : Bool := s.gotre.deviceState == .recovery && s.pins.inputPower
/-- Something serves a mailbox: Gotre, or the boot ROM in recovery. -/
def Dev.boxServed (s : Dev) (f : FnId) (m : MbId) : Bool := s.gotreRuns || (s.inRecovery && f == 0 && m == 0)
/-- The commands of recovery. -/
def recoveryOps : List Nat := [0x0001, 0x0080, 0x0081, 0x0091]

def ctlEvent : Nat := regAt ctl 0x100
def Dev.countGotre (s : Dev) (off n : Nat) : Dev := s.count none (regAt ctl (0x18000 + off)) n

/-- An ignored doorbell (R450, R457). -/
def Dev.dbBad (s : Dev) : Dev := (s.countGotre 0x20 1).event ctlEvent 4

/-- GOTRE_UP changes in the status of every function, and vector 4 of each signals it (R421, R436). -/
def Dev.setUp (s : Dev) (up : Bool) : Dev :=
  if s.gotre.up = up then s
  else ({ s with gotre := { s.gotre with up := up } } : Dev).emits ((List.finRange 9).map fun f => .msix f 4)

/-! ### The watchdog (R416 to R418) -/

/-- Ticks of 10 s. -/
def tenSeconds : Nat := 9400000000

/-- WATCHDOG_EXPIRY: the keeper restarts Gotre and counts it; the third restart within 10 s leaves it stopped. -/
def Dev.watchdog (s : Dev) : Dev :=
  if !s.gotreRuns || s.gotre.stopped || s.gotre.deviceState != .ready then s
  else
    let recent := (s.gotre.restarts ++ [s.dt]).filter fun t => decide ((s.dt - t).toNat < tenSeconds)
    let ends := decide (3 ≤ recent.length)
    let s1 := ((s.setUp false).event (regAt kpr 0x100) 1)
    let s2 : Dev := { s1 with gotre := { s1.gotre with restarts := recent, restartCount := s1.gotre.restartCount + 1 } }
    let s3 := (s2.countGotre 0 1).event ctlEvent 1
    if ends then { s3 with gotre := { s3.gotre with stopped := true, deviceState := .ended } }
    else
      allHoldings.foldl (fun d h => d.modHolding h fun x => { x with totals := { x.totals with restarted := true } }) s3

/-- The image that runs (R495, R559). -/
def shippedImage (kind : Nat) : Image := { header := Config.shippedHeader kind, body := Config.shippedBody kind, good := true }
def Dev.activeImage (s : Dev) (kind : Nat) : Image := (Tab.get none s.service.active kind).getD (shippedImage kind)
/-- What is measured of an image (R497, R512). -/
def Image.measured (i : Image) : List Byte := Config.sha512 (i.header ++ i.body)

/-- The copy in near region 0, from which a restart loads Gotre, has the boot measurement (R416). -/
def Dev.copyGood (s : Dev) : Bool := s.gotre.copy.any fun i => i.measured == (s.activeImage 1).measured

/-- The restart is complete: the image has been loaded from its copy and checked, and mailboxes are served again (R416). -/
def Dev.restarted (s : Dev) : Dev :=
  if s.gotre.up || !s.clocked || s.gotre.stopped || s.gotre.deviceState != .ready || !s.copyGood then s
  else (s.setUp true).gotreRestarted s.gotre.restartCount

/-! ### Mailbox registers (R421, R423) -/

def ringSize (log2 : BitVec 5) : Nat := 2 ^ log2.toNat

/-- GTR_CMD_TAIL. -/
def Dev.writeTail (s : Dev) (f : FnId) (m : MbId) (t : Word32) : Dev :=
  let b := s.box f m
  let d := (t - b.acceptSeq).toNat
  if s.hostCut || decide (ringSize b.cmdLog2 < d) || decide (0x80000000 ≤ d) then s
  else s.modBox f m fun x => { x with cmdTail := t }

/-- GTR_CPL_HEAD. -/
def Dev.writeHead (s : Dev) (f : FnId) (m : MbId) (v : Word32) : Dev :=
  let b := s.box f m
  if s.hostCut then s
  else if (v - b.cplHead).toNat ≤ (b.cplNext - b.cplHead).toNat then
    s.modBox f m fun x => { x with cplHead := v, cplFull := x.cplFull && v == b.cplHead }
  else s.dbBad

/-- The size fields and bases that let a mailbox run. -/
def Mailbox.cfgGood (b : Mailbox) : Bool :=
  decide (4 ≤ b.cmdLog2.toNat) && decide (b.cmdLog2.toNat ≤ 12) && decide (4 ≤ b.cplLog2.toNat)
    && decide (b.cplLog2.toNat ≤ 12) && b.cmdBase.setWidth 12 == (0 : BitVec 12) && b.cplBase.setWidth 12 == (0 : BitVec 12)

/-- A mailbox whose ENABLE was cleared resets once its accepted commands have completed. -/
def Dev.closeBox (s : Dev) (f : FnId) (m : MbId) : Dev :=
  let busy := s.gotre.jobs.any fun j => j.fn == f && j.mb == m
  if (s.box f m).closing && !busy then
    s.modBox f m fun x => { x with closing := false, acceptSeq := 0, cmdTail := 0, cplHead := 0, cplNext := 0, cplFull := false }
  else s

/-- GTR_MB_CFG. -/
def Dev.writeCfg (s : Dev) (f : FnId) (m : MbId) (v : Word32) : Dev :=
  let b := s.box f m
  if s.hostCut then s
  else if b.enable then
    if v.getLsbD 31 then s
    else (s.modBox f m fun x => { x with enable := false, closing := true }).closeBox f m
  else
    let b1 := { b with cmdLog2 := v.extractLsb' 0 5, cplLog2 := v.extractLsb' 8 5 }
    let b2 := if !v.getLsbD 31 then b1
      else if b1.cfgGood then { b1 with enable := true, cfgBad := false, ringFault := false }
      else { b1 with cfgBad := true }
    s.modBox f m fun _ => b2

/-- GTR_CMD_BASE and GTR_CPL_BASE, a word at a time. -/
def setHalf (old : Word64) (high : Bool) (v : Word32) : Word64 :=
  if high then v ++ old.setWidth 32 else (old.extractLsb' 32 32) ++ v
def Dev.writeBase (s : Dev) (f : FnId) (m : MbId) (cpl high : Bool) (v : Word32) : Dev :=
  if s.hostCut || (s.box f m).enable then s
  else s.modBox f m fun x =>
    if cpl then { x with cplBase := setHalf x.cplBase high v } else { x with cmdBase := setHalf x.cmdBase high v }

/-! ### The journal (R408, R424) -/

def journalRoom : Nat := 8192

/-- After the loss of a stack Gotre repairs the journal before it accepts further work. -/
def Dev.repairJournal (s : Dev) : Dev :=
  let lost := (s.gotre.journalCopies.filter (!·)).length
  if lost = 0 then s
  else
    let s1 : Dev := { s with gotre := { s.gotre with journalCopies := s.gotre.journalCopies.map fun _ => true } }
    (s1.count none (regAt ctl 0x16038) lost).event ctlEvent 2

/-- The address of a command slot (R422). -/
def Mailbox.slotAt (b : Mailbox) (i : Word32) : Word64 := b.cmdBase + BitVec.ofNat 64 (i.toNat % ringSize b.cmdLog2 * 64)

/-- The mailbox logic reads a command slot. -/
def Dev.askSlot (s : Dev) (b : Mailbox) : Dev :=
  ({ s with hostTag := s.hostTag + 1 } : Dev).emit (.hostRead s.hostTag (b.slotAt b.acceptSeq).toNat 64)

/-- COMMAND_ACCEPT. -/
def Dev.acceptCommand (s : Dev) (f : FnId) (m : MbId) (slot : SlotRead) : Dev :=
  let b := s.box f m
  if !s.boxServed f m || !b.enable || b.closing || b.ringFault || b.acceptSeq == b.cmdTail then s
  else if journalRoom ≤ s.gotre.jobs.length then s.countFree none (regAt ctl 0x18010)
  else
    let s0 := s.askSlot b
    match slot with
    | .bad => s0.modBox f m fun x => { x with ringFault := true }
    | .data w =>
      let s1 := s0.repairJournal
      let j : Job := { number := s1.gotre.nextJob, fn := f, mb := m, seq := b.acceptSeq, words := w, phase := .accepted
                       exempt := false, discard := false }
      let s2 : Dev := { s1 with gotre := { s1.gotre with jobs := s1.gotre.jobs ++ [j], nextJob := s1.gotre.nextJob + 1 } }
      (s2.modBox f m fun x => { x with acceptSeq := x.acceptSeq + 1 }).countGotre 8 1

/-! ### Completions (R426, R428, R429) -/

/-- The 32 bytes of a completion. -/
def Completion.entry (c : Completion) (phase : Bool) : BitVec 256 :=
  let result : BitVec 128 := if c.async then c.result ||| (BitVec.ofNat 128 (c.merged % 2 ^ 32) <<< 96) else c.result
  let flags : BitVec 16 := 0#13 ++ (BitVec.ofBool c.async ++ (BitVec.ofBool c.final ++ BitVec.ofBool phase))
  result ++ (c.opcode ++ (0#16 ++ (c.seq ++ (c.tag ++ (c.status.code ++ flags)))))

/-- The completion that a mailbox posts next: an event waits for ENABLE. -/
def Dev.nextCompletion (s : Dev) (f : FnId) (m : MbId) : Option Completion :=
  let b := s.box f m
  s.gotre.waiting.find? fun c => c.fn == f && c.mb == m && (b.enable || (b.closing && !c.async))

/-- COMPLETION_POST. -/
def Dev.postCompletion (s : Dev) (f : FnId) (m : MbId) : Dev :=
  let b := s.box f m
  match s.nextCompletion f m with
  | none => s
  | some c =>
    let size := ringSize b.cplLog2
    if !s.boxServed f m then s
    else if size ≤ (b.cplNext - b.cplHead).toNat then s.modBox f m fun x => { x with cplFull := true }
    else
      let n := b.cplNext.toNat
      let phase := decide (n / size % 2 = 0)
      let done := fun (j : Job) => c.final && !c.async && c.job == some j.number
      let g : Gotre := { s.gotre with waiting := dropFirst c s.gotre.waiting, jobs := s.gotre.jobs.filter fun j => !done j }
      let s1 := ({ s with gotre := g } : Dev).modBox f m fun x => { x with cplNext := x.cplNext + 1, cplFull := false }
      let at' : Word64 := b.cplBase + BitVec.ofNat 64 (n % size * 32)
      ((s1.emits [.completion at' (c.entry phase), .msix f m.val]).closeBox f m).journalWrite

/-! ### The common checks of a command (R425, R432) -/

/-- The bits of PARAMS that a command uses; none for a reserved opcode (R433). -/
def paramBits (op : Nat) : Option Nat :=
  match op with
  | 0x0001 => some 0 | 0x0002 => some 0 | 0x0010 => some 294 | 0x0011 => some 0 | 0x0012 => some 0
  | 0x0013 => some 14 | 0x0014 => some 0 | 0x0020 => some 162 | 0x0021 => some 16 | 0x0030 => some 166
  | 0x0031 => some 94 | 0x0040 => some 0 | 0x0041 => some 0 | 0x0050 => some 77 | 0x0051 => some 0
  | 0x0060 => some 0 | 0x0061 => some 77 | 0x0062 => some 0 | 0x0063 => some 0 | 0x0070 => some 64
  | 0x0071 => some 32 | 0x0072 => some 32 | 0x0080 => some 8 | 0x0081 => some 8 | 0x0090 => some 256
  | 0x0091 => some 0 | 0x00A0 => some 3 | 0x00A1 => some 16 | 0x00B0 => some 64 | 0x00C0 => some 40
  | 0x00D0 => some 0 | 0x00E0 => some 0
  | _ => none

/-- Commands that act on no holding. -/
def deviceOps : List Nat :=
  [0x0001, 0x0002, 0x0070, 0x0071, 0x0072, 0x0080, 0x0081, 0x0090, 0x0091, 0x00A0, 0x00A1, 0x00B0, 0x00C0]
/-- Commands that only the PF may send. -/
def pfOps : List Nat := [0x0010, 0x0011, 0x0012, 0x0070, 0x0071, 0x0072, 0x0080, 0x0081, 0x00A0, 0x00A1, 0x00B0]
/-- Commands that a VF may send while its function is not ENABLED. -/
def anyTimeOps : List Nat := [0x0001, 0x0002, 0x0091, 0x0090, 0x0013, 0x0014]
/-- Commands that act on no unit beyond the control and the keeper die (R483). -/
def controlOps : List Nat := [0x0001, 0x0002, 0x0071, 0x0072, 0x0080, 0x0090, 0x0091, 0x00A0, 0x00A1, 0x00B0, 0x00C0]

def Job.op (j : Job) : Nat := j.opcode.toNat

/-- Reserved bits that are not zero, a block length beyond 16 MiB, or a HOLDING that the command cannot have. -/
def Job.malformed (j : Job) : Bool :=
  match paramBits j.op with
  | none => true
  | some n =>
    (j.words.extractLsb' 24 8).toNat != 0 || (j.words.extractLsb' 86 42).toNat != 0
      || (j.words >>> (192 + n)).toNat != 0 || decide (2097152 < j.blockWords)
      || (j.fn == 0 && (if deviceOps.contains j.op then j.holdingField != 0xFF else decide (8 ≤ j.holdingField)))

/-- The holding on which a command acts. -/
def Job.holding? (j : Job) : Option HoldId :=
  if deviceOps.contains j.op then none
  else match holdingOfFn j.fn with
    | some h => some h
    | none => if j.holdingField < 8 then some (Fin.ofNat 8 j.holdingField) else none

/-- Checks 1 to 3 of R432. -/
def Dev.commonCheck (s : Dev) (j : Job) : Option Status :=
  if j.malformed then some .badParameter
  else if j.fn != 0 && (pfOps.contains j.op || j.holdingField != 0xFF) then some .notPermitted
  else
    let closed := match j.holding? with
      | some h => j.op != 0x0010 && (s.holding h).state == .closed
      | none => false
    let idle := match holdingOfFn j.fn with
      | some h => !anyTimeOps.contains j.op && !j.exempt && (s.holding h).state != .enabled
      | none => false
    if closed || idle then some .wrongState else none

/-- The tables that a command changes, so that conflicting effects keep acceptance order (R428): holdings 0 to 7, the
pool of cores, regions and queues, maintenance, images, and power. -/
def Job.tables (j : Job) : List Nat :=
  let own := match j.holding? with | some h => [h.val] | none => []
  let pool := if [0x0010, 0x0011, 0x0020, 0x0021, 0x0040, 0x00E0].contains j.op then [8] else []
  let dev := if [0x0070, 0x0072].contains j.op then [9] else if [0x0080, 0x0081].contains j.op then [10]
    else if [0x00A0, 0x00A1].contains j.op then [11] else if j.op == 0x00B0 then [12] else []
  own ++ pool ++ dev

/-- An earlier command stands before this one: one of its mailbox that has not completed or posted an interim completion,
or one with a conflicting effect that has not begun. An abort waits only for its mailbox. -/
def Dev.blocked (s : Dev) (j : Job) : Bool :=
  s.gotre.jobs.any fun q =>
    decide (q.number < j.number) &&
      ((q.fn == j.fn && q.mb == j.mb && (q.phase == .accepted || q.phase == .running))
        || (j.op != 0x0014 && q.phase == .accepted && q.tables.any fun t => j.tables.contains t))

/-- Nothing issued under the old translations is still on its way (R251). -/
def Dev.quiet (s : Dev) (h : HoldId) : Bool :=
  let cores := (s.holding h).coreIds
  !s.writesHeld h
    && s.memWaits.all (fun w => match w.req with | .read _ _ o _ _ => o != .holding h | _ => true)
    && s.hostReads.all (fun r => !cores.contains r.core)
    && cores.all (fun c => (s.core c).pf.all fun p => !p.inFlight)

/-- The data plane works at full service (R483). -/
def Dev.awake (s : Dev) : Bool := s.power.state == .run && !s.power.transition

/-- A command whose own rule makes it wait: for RUN (R483), for the end of a sweep (R441), or for quiet translations
(R251). Other commands go on meanwhile. -/
def Dev.stalled (s : Dev) (j : Job) : Bool :=
  ((paramBits j.op).isSome && !s.awake && !controlOps.contains j.op) ||
    match j.holding? with
    | some h => ([0x0012, 0x0030].contains j.op && (s.holding h).sweep) || ([0x0030, 0x0031].contains j.op && !s.quiet h)
    | none => false

/-- How far a function stands behind the one that Gotre served last. -/
def fnTurn (last f : FnId) : Nat := (f.val + 8 - last.val) % 9

/-- Gotre takes a function's mailboxes in priority order and the functions round-robin (R428). -/
def Gotre.before (g : Gotre) (q j : Job) : Bool :=
  if q.fn = j.fn then decide (q.mb < j.mb) else decide (fnTurn g.turn q.fn < fnTurn g.turn j.fn)

/-- A command is not the next one that Gotre takes (R428). -/
def Dev.heldUp (s : Dev) (j : Job) : Bool :=
  s.blocked j || s.gotre.jobs.any fun q =>
    s.gotre.before q j && q.phase == .accepted && s.boxServed q.fn q.mb && !s.blocked q && !s.stalled q

/-- A command that has begun or ended passes the turn on from its function. -/
def Dev.passTurn (s : Dev) (j : Job) : Dev :=
  if (s.job j.number).any fun q => q.phase == .accepted then s else { s with gotre := { s.gotre with turn := j.fn } }

/-- Up to 16 commands execute at once (R428). -/
def Dev.slotsFull (s : Dev) : Bool := decide (16 ≤ (s.gotre.jobs.filter fun q => q.phase == .running).length)

/-- Runs a command: the row of any command completes one whose opcode is reserved. -/
def Dev.runJob (s : Dev) (n : Nat) (op : Nat) (body : Job → Dev) : Dev :=
  match s.job n with
  | none => s
  | some j =>
    if !s.boxServed j.fn j.mb || j.phase != .accepted || s.heldUp j || s.slotsFull then s
    else if s.inRecovery && !recoveryOps.contains j.op then (s.finishJob n .wrongState 0).passTurn j
    else if (paramBits j.op).isNone then (s.finishJob n .badParameter 0).passTurn j
    else if j.op ≠ op then s
    else if !s.awake && !controlOps.contains op then s
    else match s.commonCheck j with
      | some st => (s.finishJob n st 0).passTurn j
      | none => (body j).passTurn j

/-- The command goes on after this step. -/
def Dev.keepRunning (s : Dev) (n : Nat) : Dev := { s with gotre := s.gotre.setPhase n .running }

/-- Runs a command of a holding. -/
def Dev.runHolding (s : Dev) (n : Nat) (op : Nat) (body : Job → HoldId → Dev) : Dev :=
  s.runJob n op fun j => match j.holding? with | some h => body j h | none => s

/-- Check 4: the words of a parameter block (R425, R430). The number of its fixed words and of the words of a record of
each list; a block command without lists has none. -/
structure BlockShape where
  fixed : Nat
  rec1 : Nat
  rec2 : Nat
  deriving DecidableEq, Repr

structure Block where
  fixed : List Nat
  list1 : List (List Nat)
  list2 : List (List Nat)
  deriving DecidableEq, Repr

def cutWords (n : Nat) : Nat → List Nat → List (List Nat)
  | 0, _ => []
  | k + 1, ws => ws.take n :: cutWords n k (ws.drop n)

/-- The layout of R430. -/
def BlockShape.parse (b : BlockShape) (ws : List Word64) : Option Block :=
  match ws with
  | [] => none
  | w0 :: rest =>
    let n1 := (w0.extractLsb' 0 24).toNat
    let n2 := (w0.extractLsb' 24 24).toNat
    let bad := (w0.extractLsb' 48 16).toNat != 0x0100 || (b.rec1 == 0 && n1 != 0) || (b.rec2 == 0 && n2 != 0)
      || rest.length != b.fixed + n1 * b.rec1 + n2 * b.rec2
    if bad then none
    else
      let vs := rest.map (·.toNat)
      some { fixed := vs.take b.fixed, list1 := cutWords b.rec1 n1 (vs.drop b.fixed)
             list2 := cutWords b.rec2 n2 (vs.drop (b.fixed + n1 * b.rec1)) }

/-- What the read of a block gives a command: its layout, or the status of R432 step 4. -/
def Job.block (j : Job) (b : BlockShape) (r : BlockRead) : Except Status Block :=
  if j.blockAddr = 0 || j.blockAddr.setWidth 6 != (0 : BitVec 6) then .error .badParameter
  else match r with
    | .poisoned => .error .poisoned
    | .failed => .error .badParameter
    | .words ws => if ws.length ≠ j.blockWords then .error .badParameter
      else match b.parse ws with
        | some x => .ok x
        | none => .error .badParameter

/-- Runs a command of a holding that reads a block. -/
def Dev.runBlock (s : Dev) (n op : Nat) (shape : BlockShape) (r : BlockRead) (body : Job → HoldId → Block → Dev) : Dev :=
  s.runHolding n op fun j h =>
    match j.block shape r with
    | .error st => s.finishJob n st 0
    | .ok b => body j h b

/-- Completes a command with an output block: what does not fit is cut, and RESULT gives the full size (R433). -/
def Dev.finishOutput (s : Dev) (j : Job) (bytes : List Byte) : Dev :=
  let room := 8 * j.blockWords
  let cut := bytes.take room
  let s1 := if j.blockAddr = 0 || cut.isEmpty then s else s.emit (.output j.blockAddr cut)
  let full := ceilDiv bytes.length 8
  s1.finishJob j.number .ok (if j.blockWords < full then BitVec.ofNat 128 full else 0)

/-! ### Doorbells (R443, R444) -/

/-- A stream is restarted: its core's SEQ_FAULT is cleared (R124). -/
def Dev.clearFault (s : Dev) (h : HoldId) (q : Nat) : Dev :=
  let on := ((s.holding h).stages.filter fun g => g.dfn.queue == q).filterMap (·.runsOn)
  on.foldl (fun d c => d.setReg (seqReg c 4) 0) s

/-- SKIP or RETRY of a HALTED queue. -/
def Dev.resumeQueue (s : Dev) (h : HoldId) (q : Nat) (skip : Bool) : Dev :=
  let st := if (s.holding h).bindsQueue q then QueueState.bound else .ready
  (s.modQueue q fun x => { x with state := st, skip := if skip then some x.refused else none }).clearFault h q

/-- A doorbell TAIL. -/
def Dev.takeTail (s : Dev) (q : Nat) (t : Word32) : Dev :=
  let x := s.queue q
  if 0x80000000 ≤ (t - x.accepted).toNat || decide (2 ^ x.log2 < (t - x.recorded).toNat) then s.dbBad
  else ((s.repairJournal.modQueue q fun y => { y with accepted := t }).countGotre 0x18 1).journalWrite

/-- An 8-byte doorbell write from a function. -/
def Dev.doorbell (s : Dev) (f : FnId) (q : Nat) (w : Word64) : Dev :=
  let x := s.queue q
  if s.hostCut then s
  else match x.holding with
    | none => s.dbBad
    | some h =>
      let skip := w.getLsbD 63
      let retry := w.getLsbD 62
      if x.state == .free || vfOf h != f then s.dbBad
      else if (s.holding h).state != .enabled then s.countGotre 0x28 1
      else if (w.extractLsb' 32 30).toNat != 0 || (skip && retry) then s.dbBad
      else if skip || retry then (if x.state == .halted then s.resumeQueue h q skip else s.dbBad)
      else if x.tailSrc then s.dbBad
      else s.takeTail q (w.setWidth 32)

/-- A write to the 8 bytes of a doorbell: one that is no doorbell write is ignored and counted (R443). -/
def Dev.doorbellWrite (s : Dev) (f : FnId) (q : Nat) : DbWrite → Dev
  | .word w => s.doorbell f q w
  | .misfit _ _ => if s.hostCut then s else s.dbBad

/-! ### The queue managers' own work (R445, R446) -/

def ctlAgent (h : HoldId) : Agent := { die := ctl, holding := h }

/-- The word at HEAD_VA. -/
def Dev.headWord (s : Dev) (q : Nat) (h : HoldId) : Word64 :=
  let x := s.queue q
  0#13 ++ (x.state.code ++ ((s.holding h).epoch ++ x.recorded))

/-- The change of a queue to FREE is written at HEAD_VA as the queue goes (R445); none while the write must wait. -/
def Dev.headFree (s : Dev) (q : Nat) (h : HoldId) : Option Dev :=
  let x := s.queue q
  if s.writeWaits (ctlAgent h) x.headVa 8 then none
  else
    let w : Word64 := 0#13 ++ (QueueState.free.code ++ ((s.holding h).epoch ++ x.recorded))
    some (s.writeVa (ctlAgent h) false x.headVa ((leBytes 8 w.toNat).map fun b => ⟨b, false⟩))

/-- The same for every queue of a holding. -/
def Dev.headsFree (s : Dev) (h : HoldId) : Option Dev :=
  (s.queuesOf h).foldl (fun (d : Option Dev) q => d.bind fun d => d.headFree q h) (some s)

/-- HEAD_REPORT: what is not yet reported is written. -/
def Dev.headReport (s : Dev) (q : Nat) : Dev :=
  let x := s.queue q
  match x.holding with
  | none => s
  | some h =>
    let w := s.headWord q h
    if x.state == .free || !s.clocked || (x.unreported == 0 && w == x.reported) then s
    else
      let s1 := s.modQueue q fun y => { y with unreported := 0, reported := w }
      if s.writeWaits (ctlAgent h) x.headVa 8 then s
      else s1.writeVa (ctlAgent h) false x.headVa ((leBytes 8 w.toNat).map fun b => ⟨b, false⟩)

/-- TAIL_POLL, in the LATENCY class. -/
def Dev.tailPoll (s : Dev) (q : Nat) : Dev :=
  let x := s.queue q
  match x.holding with
  | none => s
  | some h =>
    if x.state == .free || !x.tailSrc || !s.clocked || (s.holding h).state != .enabled then s
    else
      let r := ({ dev := s } : Run).read { ctlAgent h with cls := .latency } x.tailVa 4
      let e := joinBytes r.1
      if r.2.wait then s
      else if e.poison then r.2.dev.countGotre 0x30 1
      else r.2.dev.takeTail q (BitVec.ofNat 32 e.bits)

/-! ### The commands -/

/-- What Gotre and the queue managers may change: everything but the registers of maintenance, power and Survey, and
the commands that wait. -/
def Dev.gotreScope (s r : Dev) : Dev := { s.memScope r with gotre := r.gotre, boxes := r.boxes, queues := r.queues }

def execWatchdogExpiry (s : State) : Host.Outcome State Fault Refusal := done s (s.dev.gotreScope s.dev.watchdog)
def execGotreRestartComplete (s : State) : Host.Outcome State Fault Refusal := done s (s.dev.gotreScope s.dev.restarted)
def execGtrCmdTailWrite (f : FnId) (m : MbId) (v : Word32) (s : State) : Host.Outcome State Fault Refusal :=
  done s (s.dev.gotreScope (s.dev.writeTail f m v))
def execCommandAccept (f : FnId) (m : MbId) (slot : SlotRead) (s : State) : Host.Outcome State Fault Refusal :=
  done s (s.dev.gotreScope (s.dev.acceptCommand f m slot))
def execGtrCplHeadWrite (f : FnId) (m : MbId) (v : Word32) (s : State) : Host.Outcome State Fault Refusal :=
  done s (s.dev.gotreScope (s.dev.writeHead f m v))
def execCompletionPost (f : FnId) (m : MbId) (s : State) : Host.Outcome State Fault Refusal :=
  done s (s.dev.gotreScope (s.dev.postCompletion f m))
def execGtrMbCfgWrite (f : FnId) (m : MbId) (v : Word32) (s : State) : Host.Outcome State Fault Refusal :=
  done s (s.dev.gotreScope (s.dev.writeCfg f m v))
def execDoorbellTail (f : FnId) (q : BitVec 16) (w : DbWrite) (s : State) : Host.Outcome State Fault Refusal :=
  done s (s.dev.gotreScope (s.dev.doorbellWrite f q.toNat w))
def execDoorbellSkip (f : FnId) (q : BitVec 16) (s : State) : Host.Outcome State Fault Refusal :=
  done s (s.dev.gotreScope (s.dev.doorbell f q.toNat 0x8000000000000000))
def execDoorbellRetry (f : FnId) (q : BitVec 16) (s : State) : Host.Outcome State Fault Refusal :=
  done s (s.dev.gotreScope (s.dev.doorbell f q.toNat 0x4000000000000000))
def execTailPoll (q : BitVec 16) (s : State) : Host.Outcome State Fault Refusal :=
  done s (s.dev.gotreScope (s.dev.tailPoll q.toNat))
def execHeadReport (q : BitVec 16) (s : State) : Host.Outcome State Fault Refusal :=
  done s (s.dev.gotreScope (s.dev.headReport q.toNat))

end Sys2Proof.Machine
end

