-- ==== Sys2Proof/Machine/Activity.lean ====
section
/-! DEFINITION. Maintenance activities as the scheduler sees them (R502 to R506): resource sets, conflicts, and the
activities that the device starts itself. -/

namespace Sys2Proof.Machine

open Sys2Proof

/-! ### Resource sets (R504) -/

/-- A unit of a resource set. -/
inductive UnitName where
  | core (n : Nat)
  | stack (n : Nat)
  | port (n : Nat)
  | drill (die : Nat)
  | tally (die : Nat)
  | harrow (port : Nat)
  | die (n : Nat)
  | gotre
  deriving DecidableEq, Repr

/-- A die with everything it contains. -/
def dieUnits (d : Nat) : List UnitName :=
  .die d ::
    match dieKind d with
    | 0 => (List.range 8).map (fun p => .core (8 * d + p)) ++ [.drill d, .tally d]
    | 1 => [.stack (d - 32)]
    | 2 => [.port (d - 48), .harrow (d - 48)]
    | 3 => [.stack (16 + 2 * (d - 56)), .stack (17 + 2 * (d - 56))]
    | _ => []

/-- The kind and the number of a RESOURCE (R502). -/
def resKind (r : BitVec 16) : Nat := r.toNat / 4096
def resNum (r : BitVec 16) : Nat := r.toNat % 4096

/-- The set that RESOURCE names. -/
def resourceUnits (r : BitVec 16) : List UnitName :=
  match resKind r with
  | 0 => [.core (resNum r)]
  | 1 => dieUnits (resNum r)
  | 2 => [.stack (resNum r)]
  | _ => [.port (resNum r)]

/-- The set of an activation, by its kind. -/
def kindUnits (kind : Nat) : List UnitName :=
  match kind with
  | 1 => [.gotre]
  | 2 => (List.range 256).map .core
  | 3 => (List.range 256).map .core
  | 4 => (List.range 32).map .drill
  | 5 => (List.range 8).map .port
  | 6 => (List.range 8).map .harrow
  | _ => (List.range 24).map .stack

def activityUnits (activity resource : BitVec 16) : List UnitName :=
  if 0x100 ≤ activity.toNat then kindUnits (activity.toNat - 0x100) else resourceUnits resource

def Activity.units (a : Activity) : List UnitName := activityUnits a.activity a.resource
def unitsOverlap (a b : List UnitName) : Bool := a.any fun u => b.contains u

/-! ### Conflicts (R505) -/

def Activity.open (a : Activity) : Bool := a.state == .waiting || a.state == .running

/-- A retraining of a near stack: STACK_RETRAIN of one, or READMIT of one or of its base die. -/
def nearRetrain (activity resource : BitVec 16) : Bool :=
  let near := (resKind resource == 2 && decide (resNum resource < 16))
    || (resKind resource == 1 && dieKind (resNum resource) == 1)
  (activity == 1 || activity == 6) && near

/-- The activity that holds what a new one needs: one whose set overlaps, or the first of two near retrainings. -/
def Service.holder (v : Service) (activity resource : BitVec 16) : Option Activity :=
  let units := activityUnits activity resource
  let near := v.activities.filter fun a => a.state == .running && nearRetrain a.activity a.resource
  match v.activities.find? fun a => a.open && unitsOverlap a.units units with
  | some a => some a
  | none => if nearRetrain activity resource && decide (2 ≤ near.length) then near.head? else none

/-- Enters an activity; its number is the next one. -/
def Service.enter (v : Service) (activity resource : BitVec 16) (arg : Word32) (st : ActState) (job : Option Nat) : Service :=
  { v with nextActivity := v.nextActivity + 1
           activities := v.activities ++ [{ number := v.nextActivity, activity := activity, resource := resource, arg := arg
                                            state := st, status := .ok, progress := 0, job := job, cancels := [] }] }

def Dev.activity (s : Dev) (n : Nat) : Option Activity := s.service.activities.find? fun a => a.number == n
def Dev.modActivity (s : Dev) (n : Nat) (f : Activity → Activity) : Dev :=
  { s with service := { s.service with
      activities := s.service.activities.map fun a => if a.number = n then f a else a } }

/-- Ends an activity with a status; a command that started it completes. -/
def Dev.endActivity (s : Dev) (n : Nat) (st : ActState) (status : Status) : Dev :=
  match s.activity n with
  | none => s
  | some a =>
    if !a.open then s
    else
      let s1 := s.modActivity n fun q => { q with state := st, status := status }
      match a.job with
      | some j => s1.finishJob j status 0
      | none => s1

/-! ### Retraining that the device starts itself (R238, R506) -/

def stackResource (k : StackId) : BitVec 16 := BitVec.ofNat 16 (0x2000 + k.val)

/-- A persistently faulty channel: RETRAIN_PENDING, and a STACK_RETRAIN of that channel that runs or waits. While one is
still to begin, it takes a further faulty channel with it. -/
def Dev.wantRetrain (s : Dev) (k : StackId) (ch : Fin 32) : Dev :=
  let bit : Word32 := BitVec.ofNat 32 (2 ^ ch.val)
  let mine := fun (a : Activity) =>
    a.open && a.activity == 1 && a.resource == stackResource k && a.job.isNone && a.progress == 0
  if (s.stack k).retrainPending then
    { s with service := { s.service with
        activities := s.service.activities.map fun a => if mine a then { a with arg := a.arg ||| bit } else a } }
  else
    let s1 := (s.modStack k fun x => { x with retrainPending := true, faulty := some ch }).event (memEvent k) 0x20
    let busy := s.service.holder 1 (stackResource k)
    { s1 with service := s1.service.enter 1 (stackResource k) bit
                (if busy.isSome then .waiting else .running) none }

end Sys2Proof.Machine
end

