-- ==== Sys2Proof/Machine/Memory.lean ====
section
/-! DEFINITION. The memory controllers' own commands (R216 to R243): reads and writes of sectors, clearances, scrub,
parity, over-temperature, the loss of a stack and its return; and the end of a page walk (R249). -/

namespace Sys2Proof.Machine

open Sys2Proof

/-! ### Requests at a controller (R231, R232, R237, R238) -/

/-- A request comes to its controller; reads that waited for a check go on once it has set POISON on their block. -/
def Dev.submit (s : Dev) (r : MemReq) : Dev := s.releasePoisoned (s.request r) (r.address / 4096)

/-- A request's parity check fails, and whether its channel is persistently faulty with it: 8 requests within 1 ms, which is
940,000 ticks (R238, R477). -/
def Dev.parityFailed (s : Dev) (k : StackId) (ch : Fin 32) : Dev :=
  let recent := ((s.stack k).parityTimes ++ [(ch, s.dt)]).filter fun t => decide ((s.dt - t.2).toNat < 940000)
  let s1 := s.modStack k fun x => { x with parityTimes := recent }
  if 8 ≤ (recent.filter fun t => t.1 == ch).length then s1.wantRetrain k ch else s1

/-- A request that is served unless its parity check fails; one that must wait is checked as it is issued. -/
def Dev.tryRequest (s : Dev) (r : MemReq) (fails : Bool) : Dev :=
  let p := s.place r.address
  if fails && !s.stackLost p.stack then
    match s.queuesFor s.memWaits r with
    | none => (s.parityFailed p.stack (Fin.ofNat 32 p.channel)).addWait r (.parity 0)
    | some why => s.addWait r why true
  else s.submit r

/-- MEM_READ. The errors in its block's storage come with it (notes/assumptions/112). -/
def Dev.memRead (s : Dev) (sec : Nat) (whole : Bool) (o : Owner) (cls : MemClass) (wait : Bool)
    (ecc : List (Nat × EccOutcome)) (parityFails : Bool) : Dev :=
  (s.giveErrors (sec / 128) ecc).tryRequest (.read sec whole o cls wait) parityFails

/-- MEM_WRITE. -/
def Dev.memWrite (s : Dev) (pa : Nat) (o : Owner) (e : BitVec 16) (cls : MemClass) (data : List (Option PByte))
    (pending parityFails : Bool) : Dev :=
  s.tryRequest (.write pa o e cls data pending) parityFails

/-- NMC_PARITY_FAIL, its event, and the faulty channel. -/
def Dev.parityExhausted (s : Dev) (k : StackId) (ch : Fin 32) : Dev :=
  ((s.countMem k .device 0x40 1).event (memEvent k) 4).wantRetrain k ch

/-- A request whose reissues are exhausted: the read's failing sector is answered poisoned, with the other sectors of its
block where it reads them all; the write poisons its block. -/
def Dev.exhausted (s : Dev) (r : MemReq) : Dev :=
  let p := s.place r.address
  let s1 := s.parityExhausted p.stack (Fin.ofNat 32 p.channel)
  match r with
  | .read sec false o _ _ => (s1.metPoison (ownerHolding o) 1).emit (.readData (poisonedBytes (sec * 32) 32) true)
  | .read sec true o _ _ =>
    let all := blockSectors (sec / 128)
    let x := s1.readSectors o (all.take (sec % 128))
    let y := x.2.readSectors o (all.drop (sec % 128 + 1))
    (y.2.metPoison (ownerHolding o) 1).emit (.readData
      (x.1.flatMap (·.data) ++ poisonedBytes (sec * 32) 32 ++ y.1.flatMap (·.data)) ((x.1 ++ y.1).all (·.checked)))
  | .write pa _ _ _ _ _ => s1.setTag (pa / 4096) { s1.tag (pa / 4096) with poison := true }
  | _ => s1

/-- The waiting requests before one that waits for its reissue, that one, and those behind it. -/
def splitParity (mine : MemWait → Bool) : List MemWait → Option (List MemWait × MemWait × List MemWait)
  | [] => none
  | w :: rest => if mine w then some ([], w, rest) else (splitParity mine rest).map fun x => (w :: x.1, x.2.1, x.2.2)

/-- A request of a unit has failed its parity check with a reissue of it: the unit's command waits, and after the fourth
reissue finds its sector poisoned (R237, notes/assumptions/111). -/
def Dev.unitReissue (s : Dev) (k : StackId) (ch : Fin 32) (passes : Bool) : Dev :=
  let key := k.val * 32 + ch.val
  let n := Tab.get 0 s.reissues key
  if s.stackLost k || n = 4 then s
  else
    let s1 := (if n = 0 then s.parityFailed k ch else s).countMem k .device 0x38 1
    let s2 : Dev := { s1 with reissues := Tab.set 0 s.reissues key (if passes then 0 else n + 1) }
    if !passes && n + 1 == 4 then s2.parityExhausted k ch else s2

/-- PARITY_REISSUE: the oldest waiting request of the channel is issued again. -/
def Dev.parityReissue (s : Dev) (k : StackId) (ch : Fin 32) (passes : Bool) : Dev :=
  let mine := fun (w : MemWait) =>
    let p := s.place w.req.address
    p.stack == k && p.channel == ch.val && (match w.why with | .parity _ => true | _ => false)
  match splitParity mine s.memWaits with
  | none => s.unitReissue k ch passes
  | some (before, w0, rest) =>
    let w : MemWait := { w0 with fails := false }
    let n := match w.why with | .parity n => n | _ => 0
    let s1 := (if w0.fails then s.parityFailed k ch else s).countMem k .device 0x38 1
    let left : Dev := { s1 with memWaits := before ++ rest }
    if passes then
      match s1.queuesFor before w.req with
      | none => (left.perform w.req).release
      | some why => { s1 with memWaits := before ++ { w with why := why } :: rest }
    else if 4 ≤ n + 1 then (left.exhausted w.req).release
    else { s1 with memWaits := before ++ { w with why := .parity (n + 1) } :: rest }

/-- CLEARANCE at its controller (R232, R383). None comes for a write whose clearance a decision holds (R386). -/
def Dev.clearance (s : Dev) (b : Nat) (secs : List Nat) (o : Owner) (e : BitVec 16) (kind : Clearance) : Dev :=
  if (s.pend.any fun p => p.block == b && p.sectors == secs) && !s.pend.any (s.clears b secs) then s
  else ({ s with pend := s.pend.eraseP (s.clears b secs) } : Dev).clear b secs o e kind

/-! ### Scrub (R236) -/

/-- SCRUB_BLOCK. A period of 0 hours stops scrub, and so does an entry to a power state (R484). -/
def Dev.scrubBlock (s : Dev) (b : Nat) (ecc : List (Nat × EccOutcome)) (onDie : Nat) : Dev :=
  let k := (s.place (b * 4096)).stack
  if s.stackLost k || s.power.transition || (s.reg (stackReg k 0x0C)).setWidth 8 == (0 : BitVec 8) then s
  else
    let s1 := (s.giveErrors b ecc).submit (.scrub b)
    if onDie = 0 then s1 else s1.countMem k .device 0x58 onDie

/-! ### Heat (R239, R240) -/

/-- STACK_OVER_TEMPERATURE: the throttle starts at 95 °C. -/
def Dev.stackHot (s : Dev) (k : StackId) (t : BitVec 8) : Dev :=
  let s1 := s.modStack k fun x => { x with temp := t }
  if t.toNat < 95 then s1
  else
    let s2 := s1.modStack k fun x => { x with throttled := true }
    let s3 := s2.countFree none (stackReg k 0x88)
    if (s.stack k).throttled then s3 else s3.event (memEvent k) 8

/-- THROTTLE_LIFT: every die has read below 90 °C for 10 ms. -/
def Dev.throttleLift (s : Dev) (k : StackId) : Dev :=
  if !(s.stack k).throttled then s
  else
    let v := s.takeFree
    (v.2.modStack k fun x => { x with throttled := false, temp := BitVec.ofNat 8 (v.1.toNat % 90) }).countFree none (stackReg k 0x88)

/-! ### The loss of a stack (R221, R222) -/

def allStacks : List StackId := List.finRange 24

/-- Blocks per stack of a region over n stacks. -/
def shareOfStacks (n : Nat) : Nat := ceilDiv regionBlocks (max n 1)

/-- A region that some holding maps, or that a mirror takes. Region 0, which no holding maps, is rebuilt with the unmapped
ones (R221, R408). -/
def Dev.regionInUse (s : Dev) (t r : Nat) : Bool :=
  let first := (tierBase t) / 4096 + r * regionBlocks
  r != 0 && ((s.tags.any fun p => decide (first ≤ p.1) && decide (p.1 < first + regionBlocks) &&
      (match p.2 with
       | some q => q.owner != .unassigned
       | none => false))
    || (t == 1 && s.serves.any fun v => v.2.any fun m => decide (m.firstRegion ≤ r) && decide (r < m.firstRegion + m.regions)))

/-- The local blocks that a region takes on each of its stacks: first and count. -/
def Region.span (e : Region) : Nat × Nat := (e.localBase.toNat, shareOfStacks (maskBits e.mask.toNat 16).length)

/-- Inserts a span in the order of its first block. -/
def insertSpan (a : Nat × Nat) : List (Nat × Nat) → List (Nat × Nat)
  | [] => [a]
  | b :: t => if a.1 < b.1 then a :: b :: t else b :: insertSpan a t

/-- The least base from a cursor on that leaves the kept spans alone. -/
def fitSpan (size : Nat) : Nat → List (Nat × Nat) → Nat
  | cur, [] => cur
  | cur, k :: t => if cur + size ≤ k.1 then cur else fitSpan size (max cur (k.1 + k.2)) t

def localBlocks : Nat := 25165824

/-- Marks the regions of a stack degraded and rebuilds the unmapped ones of its tier over the live stacks; the tier's
copy of the journal is lost (R408). Of the device blocks of region 0, which Gotre takes into the rebuilt region, those that lay on
the stack are poisoned (DEDUCED, notes/assumptions/147). -/
def Dev.loseStack (s : Dev) (k : StackId) : Dev :=
  let t := if k.val < 16 then 0 else 1
  let n := k.val % 16
  let live := (List.range (tierStacks t)).filter fun j => !s.stackLost (Fin.ofNat 24 (16 * t + j))
  let mask : BitVec 16 := BitVec.ofNat 16 ((live.map fun j => 2 ^ j).sum)
  let size := shareOfStacks live.length
  let all := List.range (tierRegions t)
  let kept := all.filter fun r => s.regionInUse t r
  let put := fun (d : Dev) r (e : Region) =>
    { d with regions := Tab.set none d.regions (regionKey t r) (if e = bootRegion t r then none else some e) }
  let first := tierBase t / 4096
  let s0 : Dev := { s with tags := s.tags.map fun p =>
    if first ≤ p.1 ∧ p.1 < first + regionBlocks ∧ (s.place (p.1 * 4096)).stack = k then (p.1, p.2.map fun q => { q with poison := true })
    else p }
  let s1 := all.foldl (fun d r =>
    let e := d.region t r
    if e.mask.getLsbD n then put d r { e with degraded := true } else d) s0
  let spans := kept.foldl (fun l r => insertSpan (s1.region t r).span l) []
  ((all.filter fun r => !kept.contains r).foldl (fun (a : Nat × Dev) r =>
    let base := fitSpan size a.1 spans
    let e : Region :=
      if live.isEmpty || decide (localBlocks < base + size) then { (a.2.region t r) with valid := false, degraded := true }
      else { valid := true, mask := mask, localBase := BitVec.ofNat 25 base, degraded := false }
    (base + size, put a.2 r e)) (0, { s1 with gotre := s1.gotre.loseCopy t })).2

/-- Re-admission: the stack's tags are written with POISON = 1, and its degraded regions return (R222). -/
def Dev.regainStack (s : Dev) (k : StackId) : Dev :=
  let t := if k.val < 16 then 0 else 1
  let mine := fun b => (s.place (b * 4096)).stack == k
  let s1 : Dev := { s with tags := s.tags.map fun p => if mine p.1 then (p.1, p.2.map fun q => { q with poison := true }) else p
                           regained := insertNew k.val s.regained, ecc := s.ecc.filter fun p => !mine (p.1 / 128)
                           reissues := s.reissues.filter fun p => p.1 / 32 != k.val }
  let clean := fun (d : Dev) r =>
    let e := d.region t r
    let ok := (maskBits e.mask.toNat 16).all fun j => !d.stackLost (Fin.ofNat 24 (16 * t + j))
    if e.degraded && e.valid && ok then
      let e1 := { e with degraded := false }
      { d with regions := Tab.set none d.regions (regionKey t r) (if e1 = bootRegion t r then none else some e1) }
    else d
  (List.range (tierRegions t)).foldl clean s1

/-- Every queued request of a stack is answered: reads poisoned, writes discarded (R240); clearances and scrub end with it. -/
def Dev.flushStack (s : Dev) (k : StackId) : Dev :=
  let mine := fun (w : MemWait) => (s.place w.req.address).stack == k
  let gone := s.memWaits.filter mine
  let s1 : Dev := { s with memWaits := s.memWaits.filter fun w => !mine w }
  gone.foldl (fun d w =>
    match w.req with
    | .read sec whole o _ _ =>
      (d.metPoison (ownerHolding o) (if whole then 128 else 1)).emit
        (.readData (poisonedBytes (sec * 32) (if whole then 4096 else 32)) true)
    | .write _ o _ _ _ _ => d.offlineAccess k o
    | _ => d) s1

/-- STACK_CRITICAL: at 105 °C the stack goes offline; a running retraining ends. -/
def Dev.stackCritical (s : Dev) (k : StackId) (t : BitVec 8) : Dev :=
  let s1 := s.modStack k fun x => { x with temp := t }
  if t.toNat < 105 || (s.stack k).offline then s1
  else
    let s2 := (s1.modStack k fun x =>
      { x with offline := true, retraining := false, channelsLeft := [] }).event (memEvent k) 0x10
    let s3 := (s2.flushStack k).loseStack k
    s3.service.activities.foldl (fun d a =>
      if a.open && a.activity == 1 && a.resource == stackResource k then d.endActivity a.number .failed .fenced else d) s3

/-! ### Page walks (R249, R250) -/

/-- PAGE_WALK_DONE: the walk fills the caches, or raises its fault. A read of a table entry that has come back poisoned is a
fault of KIND 2 (R250). -/
def Dev.pageWalkDone (s : Dev) (die : Nat) (h : HoldId) (va : Nat) (write : Bool) (core : Option CoreId) (bad : Bool) : Dev :=
  let idx := (core.bind fun c => ((s.core c).window.find? fun e => e.phase == .started).map (·.index)).getD 0
  let a : Agent := { die := die, core := core, holding := h, index := idx }
  let s1 := s.count (some h) (xltReg die 0x18) 1
  if s.xlateWaits a va then s
  else if bad then s1.accessFault a va write 2
  else
    let x := s1.walk h (some die) a.cls va
    match x.1 with
    | .fault k => x.2.accessFault a va write k
    | .leaf l e =>
      let s2 := (x.2.cacheLeaf (.shared die) h l va e).cacheCore a va l e
      match leafXlate l e va write with
      | .fault k => s2.accessFault a va write k
      | _ => s2

/-! ### The commands -/

/-- What a memory controller may change. -/
def Dev.ctrlScope (s r : Dev) : Dev :=
  { s.memScope r with stackTab := r.stackTab, service := r.service, gotre := r.gotre, regions := r.regions, regained := r.regained }

/-- A command at an address: none exists outside the tiers (R217, R219). -/
def atAddress (pa : Nat) (s : State) (d : Dev) : Host.Outcome State Fault Refusal :=
  if memExists pa then memWork s (s.dev.ctrlScope d) else .fault (.noSuchAddress pa)

def execMemRead (sec : Nat) (whole : Bool) (o : Owner) (cls : MemClass) (wait : Bool) (ecc : List (Nat × EccOutcome))
    (parityFails : Bool) (s : State) : Host.Outcome State Fault Refusal :=
  atAddress (sec * 32) s (s.dev.memRead sec whole o cls wait ecc parityFails)
def execMemWrite (pa : Nat) (o : Owner) (e : BitVec 16) (cls : MemClass) (data : List (Option PByte))
    (pending parityFails : Bool) (s : State) : Host.Outcome State Fault Refusal :=
  atAddress pa s (s.dev.memWrite pa o e cls data pending parityFails)
def execClearance (b : Nat) (secs : List Nat) (o : Owner) (e : BitVec 16) (kind : Clearance) (s : State) :
    Host.Outcome State Fault Refusal :=
  atAddress (b * 4096) s (s.dev.clearance b secs o e kind)
def execScrubBlock (b : Nat) (ecc : List (Nat × EccOutcome)) (onDie : Nat) (s : State) : Host.Outcome State Fault Refusal :=
  atAddress (b * 4096) s (s.dev.scrubBlock b ecc onDie)
def execParityReissue (k : StackId) (ch : Fin 32) (passes : Bool) (s : State) : Host.Outcome State Fault Refusal :=
  memWork s (s.dev.ctrlScope (s.dev.parityReissue k ch passes))
def execStackOverTemperature (k : StackId) (t : BitVec 8) (s : State) : Host.Outcome State Fault Refusal :=
  work s (s.dev.ctrlScope (s.dev.stackHot k t))
def execThrottleLift (k : StackId) (s : State) : Host.Outcome State Fault Refusal :=
  work s (s.dev.ctrlScope (s.dev.throttleLift k))
def execStackCritical (k : StackId) (t : BitVec 8) (s : State) : Host.Outcome State Fault Refusal :=
  work s (s.dev.ctrlScope (s.dev.stackCritical k t))
def execPageWalkDone (die : DieId) (h : HoldId) (va : BitVec 52) (write : Bool) (core : Option CoreId) (bad : Bool)
    (s : State) : Host.Outcome State Fault Refusal :=
  memWork s (s.dev.ctrlScope (s.dev.pageWalkDone die.val h va.toNat write core bad))

end Sys2Proof.Machine
end

