-- ==== Sys2Proof/Machine/Functions.lean ====
section
/-! DEFINITION. Holdings and the life of their functions (R419, R433, R436 to R441, R549): open, close, enable,
disable, abort, the sweep, and function-level resets. -/

namespace Sys2Proof.Machine

open Sys2Proof

/-! ### Pools (R12, R219, R221, R241, R433) -/

def queueCount : Nat := 65536

/-- A core or its die is fenced. -/
def Dev.coreFree (s : Dev) (c : CoreId) : Bool := s.coreLive c && (s.holdingOfCore c).isNone

/-- A region that some mirror reserves (R241). -/
def Dev.regionServed (s : Dev) (t r : Nat) : Bool :=
  t == 1 && s.serves.any fun v => v.2.any fun m => decide (m.firstRegion ≤ r) && decide (r < m.firstRegion + m.regions)
/-- A region that belongs to an open holding. -/
def Dev.regionHeld (s : Dev) (t r : Nat) : Bool :=
  allHoldings.any fun h => (if t = 0 then (s.holding h).nearRegions else (s.holding h).farRegions).contains r
/-- The regions of a tier that a holding can still be given. -/
def Dev.freeRegions (s : Dev) (t : Nat) : List Nat :=
  (List.range (tierRegions t)).filter fun r =>
    r != 0 && !s.regionHeld t r && !s.regionServed t r && (s.region t r).valid && !(s.region t r).degraded

/-- Picks n members of a list; which ones is not stated (notes/assumptions/3). -/
def Dev.pick (s : Dev) : Nat → List Nat → List Nat × Dev
  | 0, _ => ([], s)
  | n + 1, l =>
    if l.isEmpty then ([], s)
    else
      let v := s.takeFree
      let x := nthD l (v.1.toNat % l.length) 0
      let r := v.2.pick n (l.filter (· != x))
      (insertSorted x r.1, r.2)

/-! ### HOLDING_OPEN and HOLDING_CLOSE -/

def Dev.holdingOpen (s : Dev) (n : Nat) : Dev :=
  s.runHolding n 0x0010 fun j h =>
    let cores := (List.range 256).filter fun c => j.words.getLsbD (192 + c)
    let near := j.param 266 256
    let far := j.param 276 267
    let queues := j.param 293 277
    let used := (allHoldings.map fun k => if (s.holding k).state == .closed then 0 else (s.holding k).queueLimit).sum
    if (s.holding h).state != .closed then s.finishJob n .wrongState 0
    else if cores.any (fun c => !s.coreFree (Fin.ofNat 256 c)) || decide ((s.freeRegions 0).length < near)
        || decide ((s.freeRegions 1).length < far) || decide (queueCount < used + queues) then s.finishJob n .noResource 0
    else
      let a := s.pick near (s.freeRegions 0)
      let b := a.2.pick far (a.2.freeRegions 1)
      let s1 := b.2.setFunc h fun x =>
        { state := .disabled, epoch := x.epoch, abortDone := x.abortDone, sweep := x.sweep, cores := cores
          nearRegions := a.1, farRegions := b.1, queueLimit := queues, generation := x.generation
          totals := { base := s.shadow } }
      let s2 := cores.foldl (fun d c => d.modCore (Fin.ofNat 256 c) fun y => { y with away := false, outside := false }) s1
      s2.finishJob n .ok 0

/-- The tag of a block that is no longer mapped (R233). -/
def unmappedTag (t : Tag) : Tag := { t with owner := .unassigned, zero := true }

/-- Every block of a holding loses its owner. -/
def Dev.releaseBlocks (s : Dev) (h : HoldId) : Dev :=
  let mine := s.tags.filter fun p => (p.2.map (·.owner)) == some (.holding h)
  mine.foldl (fun d p => d.setTag p.1 (unmappedTag (d.tag p.1))) s

/-- Rebuilds a degraded region that nobody maps over the live stacks of its tier, in free local space (R221). -/
def Dev.rebuildRegion (s : Dev) (t r : Nat) : Dev :=
  let e := s.region t r
  if !e.degraded || s.regionInUse t r then s
  else
    let live := (List.range (tierStacks t)).filter fun k => !s.stackLost (Fin.ofNat 24 (16 * t + k))
    let size := shareOfStacks live.length
    let others := (List.range (tierRegions t)).filter fun q => q != r && (s.region t q).valid
    let spans := others.foldl (fun l q => insertSpan (s.region t q).span l) []
    let base := fitSpan size 0 spans
    let n : Region :=
      if live.isEmpty || decide (localBlocks < base + size) then { e with valid := false }
      else { valid := true, mask := BitVec.ofNat 16 ((live.map fun k => 2 ^ k).sum), localBase := BitVec.ofNat 25 base
             degraded := false }
    { s with regions := Tab.set none s.regions (regionKey t r) (if n = bootRegion t r then none else some n) }

def Dev.rebuildRegions (s : Dev) : Dev :=
  let go := fun (d : Dev) t => (List.range (tierRegions t)).foldl (fun x r => x.rebuildRegion t r) d
  go (go s 0) 1

def Dev.holdingClose (s : Dev) (n : Nat) : Dev :=
  s.runHolding n 0x0011 fun _ h =>
    let x := s.holding h
    if x.state != .disabled then s.finishJob n .wrongState 0
    else match s.headsFree h with
    | none => s
    | some s0 =>
      let e := nextEpoch x.epoch
      let s1 := (s0.releaseBlocks h).dropCached h
      let s2 : Dev := { s1 with queues := (s.queuesOf h).foldl (fun t q => Tab.set {} t q {}) s1.queues
                                service := s1.service.dropGrants h }
      let s3 := s2.setFunc h fun _ =>
        { state := .closed, epoch := e, abortDone := x.abortDone, sweep := e == 1, generation := x.generation + 1 }
      s3.rebuildRegions.finishJob n .ok 0

/-! ### Enable and disable (R437, R438) -/

/-- Ticks of a millisecond (R476). -/
def msTicks : Nat := 940000

def Dev.functionEnable (s : Dev) (n : Nat) : Dev :=
  s.runHolding n 0x0012 fun _ h =>
    let x := s.holding h
    match x.state with
    | .disabled =>
      if x.sweep then s
      else (s.modHolding h fun y => { y with enableJobs := y.enableJobs ++ [n] }).enable h
    | .enabled => s.finishJob n .ok 0
    | .closed => s.finishJob n .wrongState 0
    | _ => (s.setFunc h fun y => { y with pendingEnable := true, enableJobs := y.enableJobs ++ [n] }).interimJob n 0

/-- A pending enable ends. -/
def Dev.dropEnable (s : Dev) (h : HoldId) : Dev :=
  (s.setFunc h fun y => { y with pendingEnable := false, enableJobs := [] }).finishJobs (s.holding h).enableJobs .aborted

/-- What a VF's mailboxes have accepted completes through the shut-down (R438). -/
def Dev.keepAccepted (s : Dev) (h : HoldId) : Dev :=
  let keep := fun (j : Job) => if j.fn == vfOf h && j.phase == .accepted then { j with exempt := true } else j
  { s with gotre := { s.gotre with jobs := s.gotre.jobs.map keep } }

def Dev.functionDisable (s : Dev) (n : Nat) : Dev :=
  s.runHolding n 0x0013 fun j h =>
    let ms := if j.param 13 0 = 0 then 100 else j.param 13 0
    match (s.holding h).state with
    | .disabled => s.finishJob n .ok 0
    | .enabled =>
      ((s.setFunc h fun y => { y with state := .shuttingDown, drainEnd := some (s.dt + BitVec.ofNat 64 (ms * msTicks))
                                      disables := [n] }).keepAccepted h).keepRunning n
    | .shuttingDown => ((s.dropEnable h).modHolding h fun y => { y with disables := y.disables ++ [n] }).keepRunning n
    | .aborting => ((s.dropEnable h).modHolding h fun y => { y with settled := y.settled ++ [(n, .ok)] }).keepRunning n
    | .closed => s.finishJob n .wrongState 0

/-- A queue that the shut-down still waits for: BOUND with accepted descriptors not recorded complete. -/
def Dev.queuesBusy (s : Dev) (h : HoldId) : Bool :=
  (s.queuesOf h).any fun n => let q := s.queue n; q.state == .bound && q.accepted != q.recorded
/-- A numbered flit of the holding is not acknowledged end to end. -/
def Dev.flitsOut (s : Dev) (h : HoldId) : Bool := s.seqTx.any fun t => t.2.held.any fun f => f.owner == .holding h
/-- The VF's mailboxes still have an accepted command to complete, other than the disables that wait. -/
def Dev.boxBusy (s : Dev) (h : HoldId) : Bool :=
  s.gotre.jobs.any fun j => j.fn == vfOf h && (j.phase == .accepted || j.phase == .running)
    && !(s.holding h).disables.contains j.number

/-- SHUTDOWN_COMPLETE. -/
def Dev.shutdown (s : Dev) (h : HoldId) : Dev :=
  let x := s.holding h
  let late := match x.drainEnd with | some t => reached s.dt t | none => false
  if x.state != .shuttingDown || s.queuesBusy h || s.flitsOut h || s.boxBusy h || late then s
  else
    let s1 := s.setFunc h fun y => { y with state := .disabled, drainEnd := none, disables := [] }
    let s2 := s1.modQueues h fun _ q => if q.state == .bound then { q with state := .ready } else q
    (s2.finishJobs x.disables .ok).settle h

/-- DRAIN_TIMEOUT: the drain of the disable that began the shut-down has passed. -/
def Dev.drainTimeout (s : Dev) (h : HoldId) : Dev :=
  let x := s.holding h
  match x.state, x.drainEnd with
  | .shuttingDown, some t => (s.advanceTo t).beginAbort h .timeout
  | _, _ => s

/-! ### Aborts -/

def Dev.functionAbort (s : Dev) (n : Nat) : Dev :=
  s.runHolding n 0x0014 fun _ h =>
    let s1 := s.abortHolding h
    (s1.modHolding h fun y => { y with settled := y.settled ++ [(n, .ok)] }).keepRunning n

/-- The function may abort the holding: its own VF, or the PF. -/
def abortAllowed (f : FnId) (h : HoldId) : Bool := f == 0 || f == vfOf h

def Dev.latchAbort (s : Dev) (h : HoldId) : Dev :=
  { s with survey := { s.survey with latched := insertNew h s.survey.latched } }

/-- A write of GTR_ABORT or GTR_HOLD_ABORT: the current epoch starts an abort, and a FULL Survey latches it (R524). -/
def Dev.abortWrite (s : Dev) (f : FnId) (h : HoldId) (v : Word32) : Dev :=
  if !abortAllowed f h || v != (s.holding h).epoch.setWidth 32 || !s.pcieUp || s.gotre.deviceState == .ended then s
  else if s.fullSurvey then s.latchAbort h
  else s.abortHolding h

/-- EPOCH_SWEEP_DONE: no block written before the wrap can match a later epoch. -/
def Dev.sweepDone (s : Dev) (h : HoldId) : Dev :=
  let x := s.holding h
  if !x.sweep || x.state == .aborting then s
  else
    let mine := s.tags.filter fun p => (p.2.map (·.owner)) == some (.holding h)
    let s1 := mine.foldl (fun d p => d.setTag p.1 { d.tag p.1 with epoch := 0 }) s
    (s1.setFunc h fun y => { y with sweep := false }).settle h

/-! ### Function-level resets (R437, R549) -/

/-- Mailbox registers return to reset; accepted commands still run, and their completions are discarded. -/
def Dev.clearBoxes (s : Dev) (f : FnId) : Dev :=
  let boxes := (List.range 4).foldl (fun t m => Tab.set {} t (f.val * 4 + m) {}) s.boxes
  let jobs := (s.gotre.jobs.filter fun j => !(j.fn == f && j.phase == .done)).map fun j =>
    if j.fn == f then { j with discard := true } else j
  { s with boxes := boxes
           gotre := { s.gotre with jobs := jobs, waiting := s.gotre.waiting.filter fun c => c.async || c.fn != f } }

def Dev.flr (s : Dev) (h : HoldId) : Dev :=
  if !s.pcieUp then s
  else if s.fullSurvey then (s.clearBoxes (vfOf h)).latchAbort h
  else (s.clearBoxes (vfOf h)).abortHolding h
/-- A function-level reset of the PF. -/
def Dev.pfReset (s : Dev) : Dev := if s.pcieUp then s.clearBoxes 0 else s

/-! ### The commands -/

/-- What the life of a function may change: what Gotre may, the links with their gates, the service part of a grant,
a latched abort, and the memory map. -/
def Dev.lifeScope (s r : Dev) : Dev :=
  { s.gotreScope r with
    dt := r.dt, ports := r.ports, seqTx := r.seqTx, gate := r.gate, service := r.service, survey := r.survey
    slots := r.slots, regions := r.regions, xlat := r.xlat }

def execHoldingOpen (n : Nat) (s : State) : Host.Outcome State Fault Refusal := done s (s.dev.lifeScope (s.dev.holdingOpen n))
def execHoldingClose (n : Nat) (s : State) : Host.Outcome State Fault Refusal := done s (s.dev.lifeScope (s.dev.holdingClose n))
def execFunctionEnable (n : Nat) (s : State) : Host.Outcome State Fault Refusal :=
  done s (s.dev.lifeScope (s.dev.functionEnable n))
def execFunctionDisable (n : Nat) (s : State) : Host.Outcome State Fault Refusal :=
  done s (s.dev.lifeScope (s.dev.functionDisable n))
def execShutdownComplete (h : HoldId) (s : State) : Host.Outcome State Fault Refusal :=
  work s (s.dev.lifeScope (s.dev.shutdown h))
def execDrainTimeout (h : HoldId) (s : State) : Host.Outcome State Fault Refusal :=
  work s (s.dev.lifeScope (s.dev.drainTimeout h))
def execFunctionAbort (n : Nat) (s : State) : Host.Outcome State Fault Refusal :=
  done s (s.dev.lifeScope (s.dev.functionAbort n))
def execGtrAbort (f : FnId) (h : HoldId) (v : Word32) (s : State) : Host.Outcome State Fault Refusal :=
  done s (s.dev.lifeScope (s.dev.abortWrite f h v))
def execAbortComplete (h : HoldId) (s : State) : Host.Outcome State Fault Refusal :=
  work s (s.dev.lifeScope (s.dev.endAbort h))
def execEpochSweepDone (h : HoldId) (s : State) : Host.Outcome State Fault Refusal :=
  work s (s.dev.lifeScope (s.dev.sweepDone h))
def execVfFlr (h : HoldId) (s : State) : Host.Outcome State Fault Refusal := done s (s.dev.lifeScope (s.dev.flr h))
def execPfFlr (s : State) : Host.Outcome State Fault Refusal := done s (s.dev.lifeScope s.dev.pfReset)

end Sys2Proof.Machine
end

