-- ==== Sys2Proof/Machine/Reduction.lean ====
section
/-! DEFINITION. Gradient reduction in the links (R334 to R360): the reduction space and its owners, the ES40 and FP32
wires, the phases of a chunk with their deadlines, and gathers as they arrive. -/

namespace Sys2Proof.Machine

open Sys2Proof

/-! ### The reduction space (R336, R339, R340, R364) -/

def Holding.policy (x : Holding) (g r : Nat) : Option Policy := Tab.get none x.policies (polKey g r)
def Holding.members? (x : Holding) (g : Nat) : Option Collective := Tab.get none x.collectives g

/-- Values, blocks and DATA messages of a chunk. -/
def Policy.valuesIn (p : Policy) (c : Nat) : Nat := min chunkValues (p.values - c * chunkValues)
def Policy.blocksIn (p : Policy) (c : Nat) : Nat := ceilDiv (p.valuesIn c) 64
def Policy.messagesIn (p : Policy) (c : Nat) : Nat := if p.fp32Wire then p.blocksIn c else ceilDiv (p.blocksIn c) 2
def Policy.gatherSize (p : Policy) : Nat := fmtBits p.gatherFmt / 8

def Collective.live (k : Collective) : List Nat := (List.range k.members.length).filter fun i => !k.dead.contains i

/-- The first of some slots after one, wrapping to the first. -/
def nextSlot (slots : List Nat) (i : Nat) : Option Nat :=
  match slots.find? fun j => i < j with
  | some j => some j
  | none => slots.head?

/-- The owning slots in their order: a dead slot is replaced by its heir, in ANCHOR mode a live anchor where there is
one. -/
def Policy.ownSlots (p : Policy) (k : Collective) : List Nat :=
  let live := k.live
  let base := if p.anchor then p.anchors else List.range k.members.length
  let heirs := if p.anchor then p.anchors.filter live.contains else live
  let heirs := if heirs.isEmpty then live else heirs
  base.filterMap fun i => if live.contains i then some i else nextSlot heirs i

/-- The owning slot of a chunk, and its device. -/
def Policy.ownerSlot (p : Policy) (k : Collective) (c : Nat) : Option Nat :=
  let own := p.ownSlots k
  own[c * own.length / max p.chunks 1]?
def Policy.owner (p : Policy) (k : Collective) (c : Nat) : Option (BitVec 16) :=
  (p.ownerSlot k c).bind fun i => k.members[i]?

/-- The ports whose link dies count for ranks in this step. -/
def Holding.ranks (x : Holding) : List Nat := (List.range 8).filter fun j => !x.lostLinks.contains j
/-- The link die of a chunk within a device. -/
def Holding.rankPort (x : Holding) (c : Nat) : Option PortId :=
  let rs := x.ranks
  (rs[c % max rs.length 1]?).map fun j => Fin.ofNat 8 j

/-- A chunk that lies wholly in a FROZEN entry (R364). -/
def Holding.frozenChunk (x : Holding) (g r c : Nat) (p : Policy) : Bool :=
  x.entries.any fun q =>
    match q.2 with
    | some e => e.frozen && e.group == g && e.reduction == r && decide (e.firstValue ≤ c * chunkValues)
        && decide (c * chunkValues + p.valuesIn c ≤ e.firstValue + e.values)
    | none => false

/-- A chunk that an heir owns in place of a dead slot (R336). -/
def Policy.inherited (p : Policy) (k : Collective) (c : Nat) : Bool :=
  let base := if p.anchor then p.anchors else List.range k.members.length
  match base[c * base.length / max p.chunks 1]? with
  | some i => k.dead.contains i
  | none => false

/-- How far entries in force cover a reduction from a value on; the number bounds the entries that follow one another. -/
def Holding.coverTo (x : Holding) (g r : Nat) : Nat → Nat → Nat
  | 0, v => v
  | n + 1, v =>
    let covers := fun (q : Nat × Option UpdateEntry) =>
      q.2.any fun e => e.group == g && e.reduction == r && decide (e.firstValue ≤ v) && decide (v < e.firstValue + e.values)
    match (x.entries.find? covers).bind (·.2) with
    | some e => x.coverTo g r n (e.firstValue + e.values)
    | none => v

/-- An inherited chunk that no update-table entry in force covers: the heir takes nothing for it (R402). -/
def Holding.orphan (x : Holding) (g r c : Nat) (p : Policy) (k : Collective) : Bool :=
  p.inherited k c && decide (x.coverTo g r x.entries.length (c * chunkValues) < c * chunkValues + p.valuesIn c)

/-- The chunks that a device owns. -/
def Policy.ownChunks (p : Policy) (k : Collective) (me : BitVec 16) : List Nat :=
  let own := p.ownSlots k
  let n := max own.length 1
  (List.range own.length).flatMap fun j =>
    if k.members[nthD own j 0]? = some me then
      let lo := ceilDiv (j * p.chunks) n
      let hi := ceilDiv ((j + 1) * p.chunks) n
      (List.range (hi - lo)).map fun i => lo + i
    else []

/-- The number of a block among those that this device owns, as SUM_VA and STAGE_VA place it. -/
def Policy.ownIndex (p : Policy) (k : Collective) (me : BitVec 16) (c b : Nat) : Nat :=
  (((p.ownChunks k me).filter fun d => decide (d < c)).map p.blocksIn).sum + b

/-! ### What a step record keeps of a reduction (R350, R531) -/

def redBefore (a b : ReduceSum) : Bool := polKey a.group a.reduction < polKey b.group b.reduction

def insertRed (a : ReduceSum) : List ReduceSum → List ReduceSum
  | [] => [a]
  | b :: t => if redBefore a b then a :: b :: t else b :: insertRed a t

def Holding.modRed (x : Holding) (g r : Nat) (f : ReduceSum → ReduceSum) : Holding :=
  let l := x.totals.reductions
  let l := if l.any fun q => q.group == g && q.reduction == r then l else insertRed ⟨g, r, [], 0, 0, 0, 0⟩ l
  { x with totals := { x.totals with reductions := l.map fun q => if q.group = g ∧ q.reduction = r then f q else q } }

/-- Counts late DATA, late SCALE and missed gathers with their events. -/
def Dev.redLate (s : Dev) (p : PortId) (h : HoldId) (g r : Nat) : Dev :=
  ((s.count (some h) (redReg p 0x10) 1).event (regAt (linkDie p) 0x104) 1).modHolding h fun x =>
    x.modRed g r fun q => { q with late := q.late + 1 }
def Dev.redScaleLate (s : Dev) (p : PortId) (h : HoldId) (g r : Nat) : Dev :=
  (s.count (some h) (redReg p 0x18) 1).modHolding h fun x => x.modRed g r fun q => { q with scaleLate := q.scaleLate + 1 }
def Dev.redMiss (s : Dev) (p : PortId) (h : HoldId) (g r : Nat) : Dev :=
  ((s.count (some h) (redReg p 0x40) 1).event (regAt (linkDie p) 0x104) 2).modHolding h fun x =>
    x.modRed g r fun q => { q with miss := q.miss + 1 }

/-! ### Blocks on the wire (R341, R342, R354) -/

/-- One bit of the unreflected CRC-16 with polynomial 0x1021. -/
def crc16Step (c : BitVec 16) : BitVec 16 := if c.getLsbD 15 then (c <<< 1) ^^^ 0x1021 else c <<< 1

/-- One byte, most significant bit first. -/
def crc16Byte (c : BitVec 16) (b : Byte) : BitVec 16 :=
  let f := crc16Step
  let w : BitVec 16 := b.setWidth 16
  f (f (f (f (f (f (f (f (c ^^^ (w <<< 8)))))))))

/-- HCHECK, from 0xFFFF. -/
def crc16 (bytes : List Byte) : BitVec 16 := bytes.foldl crc16Byte 0xFFFF

/-- An FP32 value with its poison. -/
def sourceValue (bs : List PByte) : Val × Bool :=
  (f32 (BitVec.ofNat 32 (leNat (bs.map (·.val)))), bs.any (·.poison))

/-- The values of a span of FP32 words. -/
def sourceValues (bs : List PByte) : List (Val × Bool) :=
  (List.range (bs.length / 4)).map fun i => sourceValue ((bs.drop (4 * i)).take 4)

/-- The exponent byte of a block: x_c + 127, and 0 for a zero block. -/
def exponentByte (vs : List (Val × Bool)) : Nat :=
  let m := vs.foldl (fun m v => if v.1.isFinite && !v.2 && m.lt v.1.abs then v.1.abs else m) Val.zero
  if m.isZero then 0
  else
    let e := m.floorLog2 + 1
    ((if e < -126 then -126 else if 128 < e then 128 else e) + 127).toNat

/-- The flag bits [22:18] of a header for some elements, without CLAMP. -/
def flagBits (vs : List (Val × Bool)) : Nat :=
  (if vs.any (·.2) then 2 ^ 22 else 0) + (if vs.any fun v => !v.2 && v.1.isNan then 2 ^ 21 else 0)
    + (if vs.any fun v => !v.2 && v.1.isInf && !v.1.neg? then 2 ^ 20 else 0)
    + (if vs.any fun v => !v.2 && v.1.isInf && v.1.neg? then 2 ^ 19 else 0)

/-- A header from its bits [47:0]. -/
def blockHeader (bits : Nat) : List Byte :=
  let b := leBytes 6 bits
  b ++ leBytes 2 (crc16 b).toNat

/-- v_i of a block at an exponent byte: its integer and whether it was clamped. -/
def es40Value (sexp : Nat) (v : Val × Bool) : Int × Bool :=
  match v with
  | (.fin neg m e, false) =>
    let k := e + 150 - (sexp : Int)
    let q := if sexp = 0 then 0 else if 0 ≤ k then m <<< k.toNat else rneShift m (-k).toNat
    let c := min q 8388607
    (if neg then -(c : Int) else (c : Int), decide (8388607 < q))
  | _ => (0, false)

/-- An ES40 block, and the values clamped. -/
def es40Block (sexp : Nat) (vs : List (Val × Bool)) : List Byte × Nat :=
  let qs := vs.map (es40Value sexp)
  let n := (qs.filter (·.2)).length
  let hdr := sexp * 2 ^ 40 + 2 ^ 23 + flagBits vs + (if n = 0 then 0 else 2 ^ 18)
  let all := qs.map (·.1) ++ List.replicate (64 - qs.length) 0
  (blockHeader hdr ++ all.flatMap fun q => leBytes 5 (BitVec.ofInt 40 q).toNat, n)

/-- An FP32 block. -/
def fp32Block (bs : List PByte) : List Byte :=
  blockHeader (2 ^ 23 + flagBits (sourceValues bs)) ++ bs.map (·.val) ++ List.replicate (256 - bs.length) 0

/-- The header of a received block, none when its check fails. -/
def headerOf (b : List Byte) : Option Nat :=
  if crc16 (b.take 6) = BitVec.ofNat 16 (leNat ((b.drop 6).take 2)) then some (leNat (b.take 6)) else none

def es40Values (b : List Byte) : List Int :=
  (List.range 64).map fun i => (BitVec.ofNat 40 (leNat ((b.drop (8 + 5 * i)).take 5))).toInt

/-! ### Windows (R348) -/

def emptyChunk (c : Nat) : RedChunk :=
  { chunk := c, seen := [], scales := [], sexp := List.replicate 224 0, replied := false, admitted := [], accepted := []
    blocks := [], out := [], sent := [] }

def RedWindow.serves (w : RedWindow) (p : PortId) (g r : Nat) : Bool := w.port == p && w.group == g && w.reduction == r
def RedWindow.chunk (w : RedWindow) (c : Nat) : RedChunk := (w.chunks.find? fun k => k.chunk == c).getD (emptyChunk c)

def insertChunk (k : RedChunk) : List RedChunk → List RedChunk
  | [] => [k]
  | a :: t => if k.chunk < a.chunk then k :: a :: t else if k.chunk = a.chunk then k :: t else a :: insertChunk k t

def RedWindow.setChunk (w : RedWindow) (k : RedChunk) : RedWindow := { w with chunks := insertChunk k w.chunks }
def RedWindow.modChunk (w : RedWindow) (c : Nat) (f : RedChunk → RedChunk) : RedWindow := w.setChunk (f (w.chunk c))

/-- The windows of a reduction at a die, by their place in the holding's list. -/
def Holding.windowsOf (x : Holding) (p : PortId) (g r : Nat) : List (Nat × RedWindow) :=
  (List.range x.windows.length).filterMap fun i =>
    (x.windows[i]?).bind fun w => if w.serves p g r then some (i, w) else none

def Dev.window (s : Dev) (h : HoldId) (i : Nat) : Option RedWindow := (s.holding h).windows[i]?
def Dev.setWindow (s : Dev) (h : HoldId) (i : Nat) (w : RedWindow) : Dev :=
  s.modHolding h fun x => { x with windows := x.windows.set i w }

def RedWindow.scaleEnd (w : RedWindow) : Word64 := w.openAt + BitVec.ofNat 64 w.policy.scaleWindow
def RedWindow.dataEnd (w : RedWindow) : Word64 := w.openAt + BitVec.ofNat 64 w.policy.dataWindow

/-- Opens a window at this moment, and the entry of its reduction in the step record (R531); answers its place. -/
def Dev.openWindow (s : Dev) (p : PortId) (h : HoldId) (g r : Nat) (pol : Policy) (k : Collective) : Nat × Dev :=
  ((s.holding h).windows.length,
   s.modHolding h fun x => { x.modRed g r id with windows := x.windows ++
     [{ port := p, group := g, reduction := r, openAt := s.dt, step := x.step, policy := pol, members := k
        scaleClosed := pol.fp32Wire, dataClosed := false, chunks := [] }] })

/-- A slot of a group whose expulsion the device has learned of and which is dead from the next boundary on: until then it
counts as absent (R353). -/
def Holding.expelledSlot (x : Holding) (g i : Nat) : Bool :=
  x.waiting.any fun w => match w with | .dead g' odd => g' == g && odd.contains i | _ => false

/-- Traffic that a die takes no part in: the die is fenced, or the sender counts as absent (R353). -/
def Dev.outOfStep (s : Dev) (p : PortId) (h : HoldId) (g : Nat) (src : BitVec 16) : Bool :=
  (s.die (linkDie p)).fenced ||
    (((s.holding h).members? g).bind fun k => k.slot? src).any fun i => (s.holding h).expelledSlot g i

/-- The policy and group under which a die owns a chunk, with the sender's live slot; none is a misrouted flit (R344). -/
def Dev.ownedHere (s : Dev) (p : PortId) (h : HoldId) (c : ChunkRef) (src : BitVec 16) : Option (Policy × Collective × Nat) :=
  let x := s.holding h
  match x.policy c.group.val c.reduction.val, x.members? c.group.val with
  | some pol, some k =>
    match k.slot? src with
    | some i =>
      if c.chunk < pol.chunks ∧ pol.owner k c.chunk = some s.number ∧ x.rankPort c.chunk = some p ∧ !k.dead.contains i
          ∧ !x.frozenChunk c.group.val c.reduction.val c.chunk pol ∧ !x.orphan c.group.val c.reduction.val c.chunk pol k then
        some (pol, k, i)
      else none
    | none => none
  | _, _ => none

def Dev.misroute (s : Dev) (p : PortId) (h : HoldId) (flits : Nat) : Dev := s.count (some h) (redReg p 0x28) flits

/-! ### Accepting DATA (R343, R346, R349, R354) -/

/-- The message that carries a block. -/
def messageOf (pol : Policy) (b : Nat) : Nat := if pol.fp32Wire then b else b / 2

/-- The slots whose message a block waits for. -/
def RedWindow.expected (w : RedWindow) (k : RedChunk) : Option (List Nat) :=
  if w.policy.fp32Wire then some w.members.live else if k.replied then some k.admitted else none

/-- Marks the blocks that every expected slot has delivered. -/
def RedWindow.finish (w : RedWindow) (c : Nat) : RedWindow :=
  let k := w.chunk c
  match w.expected k with
  | none => w
  | some slots =>
    w.setChunk { k with blocks := (List.range (w.policy.blocksIn c)).foldl (fun t b =>
      if slots.all fun i => k.accepted.contains (i, messageOf w.policy b)
      then Tab.modify {} t b (fun q => { q with final := true }) else t) k.blocks }

/-- Adds a block's flags. -/
def RedBlock.addFlags (q : RedBlock) (hdr : Nat) : RedBlock :=
  { q with poison := q.poison || hdr.testBit 22, nan := q.nan || hdr.testBit 21, pinf := q.pinf || hdr.testBit 20
           ninf := q.ninf || hdr.testBit 19, clamp := q.clamp || hdr.testBit 18 }

def addInts : List Int → List Int → List Int
  | a :: t, b :: u => (a + b) :: addInts t u
  | [], l => l
  | l, [] => l

/-- Room for blocks in the 4 MiB sum store. -/
def sumRoom : Nat := 12787

/-- Partial sums that a die's store holds. -/
def Dev.sumUse (s : Dev) (p : PortId) : Nat :=
  (allHoldings.map fun h =>
    (((s.holding h).windows.filter fun w => w.port == p).map fun w =>
      (w.chunks.map fun k => (k.blocks.filter fun b => !b.2.final && !b.2.spilled && b.2.count != 0).length).sum).sum).sum

/-- The bytes of a block's sums as SUM_VA holds them (R341). -/
def RedBlock.bytes (q : RedBlock) (sexp : Nat) : List Byte :=
  let bit := fun (v : Bool) (n : Nat) => if v then 2 ^ n else 0
  let hdr := sexp * 2 ^ 40 + q.count * 2 ^ 23 + bit q.poison 22 + bit q.nan 21 + bit q.pinf 20 + bit q.ninf 19 + bit q.clamp 18
  blockHeader hdr ++ q.sums.flatMap fun v => leBytes 5 (BitVec.ofInt 40 v).toNat

/-- Adds one accepted block; one for which the sum store has no room is spilled to SUM_VA (R346). -/
def Dev.addBlock (s : Dev) (p : PortId) (h : HoldId) (i : Nat) (c slot b : Nat) (bytes : List Byte) : Dev :=
  match s.window h i, headerOf bytes with
  | some w, some hdr =>
    let k := w.chunk c
    let q := Tab.get {} k.blocks b
    let pol := w.policy
    let at' := pol.ownIndex w.members s.number c b
    if pol.fp32Wire then
      let q1 := { q.addFlags hdr with count := q.count + 1, slots := insertSorted slot q.slots }
      let s1 := s.setWindow h i (w.setChunk { k with blocks := Tab.set {} k.blocks b q1 })
      s1.writeVa (linkAgent p h) false (pol.stageVa + (at' * w.members.members.length + slot) * 264)
        ((bytes.take 264).map fun v => ⟨v, false⟩)
    else
      let spill := q.spilled || (q.count == 0 && decide (sumRoom ≤ s.sumUse p))
      let q1 := { q.addFlags hdr with count := q.count + 1, sums := addInts q.sums (es40Values bytes), spilled := spill }
      let s1 := s.setWindow h i (w.setChunk { k with blocks := Tab.set {} k.blocks b q1 })
      if spill then
        (s1.writeVa (linkAgent p h) false (pol.sumVa + at' * 328)
          ((q1.bytes (nthD k.sexp b 0).toNat).map fun v => ⟨v, false⟩)).count (some h) (redReg p 0x48) 1
      else s1
  | _, _ => s

/-- The blocks of a DATA message: their numbers and bytes. -/
def messageBlocks (pol : Policy) (c msg : Nat) (bytes : List Byte) : List (Nat × List Byte) :=
  if pol.fp32Wire then [(msg, bytes.take 264)]
  else ([0, 1].filter fun j => decide (2 * msg + j < pol.blocksIn c)).map fun j => (2 * msg + j, (bytes.drop (328 * j)).take 328)

/-- Whether a window has every block of a chunk final. -/
def RedWindow.chunkFinal (w : RedWindow) (c : Nat) : Bool :=
  (List.range (w.policy.blocksIn c)).all fun b => (Tab.get {} (w.chunk c).blocks b).final

/-- The window that a DATA message belongs to: the oldest that still waits for it, else the newest; under the FP32 wire
one opens when the newest has the message already and is done with its chunk, so that the message is of a later step. -/
def Dev.dataWindow (s : Dev) (p : PortId) (h : HoldId) (c : ChunkRef) (pol : Policy) (k : Collective) (slot msg : Nat) :
    Option Nat × Dev :=
  let ws := (s.holding h).windowsOf p c.group.val c.reduction.val
  let wants := fun (w : RedWindow) =>
    !w.dataClosed && !(w.chunk c.chunk).accepted.contains (slot, msg)
      && (w.policy.fp32Wire || (w.chunk c.chunk).admitted.contains slot)
  match ws.find? fun q => wants q.2 with
  | some q => (some q.1, s)
  | none =>
    let fresh := match ws.getLast? with
      | none => true
      | some q => (q.2.chunk c.chunk).accepted.contains (slot, msg) && (q.2.dataClosed || q.2.chunkFinal c.chunk)
    if pol.fp32Wire && fresh then
      let r := s.openWindow p h c.group.val c.reduction.val pol k
      (some r.1, r.2)
    else (ws.getLast?.map (·.1), s)

/-- Adder cycles for some values, 96 to a cycle (R355). -/
def addCycles (n : Nat) : Nat := ceilDiv n 96

/-- The values that the blocks of a message bring the adders: 64 for each block, twice as many under the FP32 wire, which runs
at half the rate (R355). -/
def adderLoad (pol : Policy) (blocks : Nat) : Nat := 64 * blocks * (if pol.fp32Wire then 2 else 1)

/-- DATA_MESSAGE at the owner. -/
def Dev.takeData (s : Dev) (p : PortId) (h : HoldId) (c : ChunkRef) (src : BitVec 16) (msg : Nat) (bytes : List Byte) : Dev :=
  let g := c.group.val
  let r := c.reduction.val
  if s.outOfStep p h g src then s
  else match s.ownedHere p h c src with
  | none =>
    let wire := ((s.holding h).policy g r).any (·.fp32Wire)
    s.misroute p h (if wire then 2 else 3)
  | some (pol, k, slot) =>
    let bs := messageBlocks pol c.chunk msg bytes
    let x := s.dataWindow p h c pol k slot msg
    if pol.messagesIn c.chunk ≤ msg ∨ bs.any fun b => (headerOf b.2).isNone then x.2.count (some h) (redReg p 0x20) 1
    else
      match x.1.bind fun i => (x.2.window h i).map fun w => (i, w) with
      | none => x.2.redLate p h g r
      | some (i, w) =>
        let ch := w.chunk c.chunk
        if w.dataClosed || reached x.2.dt w.dataEnd || !(pol.fp32Wire || ch.admitted.contains slot) then x.2.redLate p h g r
        else if ch.accepted.contains (slot, msg) then x.2.count (some h) (redReg p 0x20) 1
        else
          let s1 := bs.foldl (fun d b => d.addBlock p h i c.chunk slot b.1 b.2) x.2
          let load := adderLoad pol bs.length
          let s2 := (s1.count (some h) (redReg p 0x08) 1).count (some h) (redReg p 0x50)
            (addCycles (w.added + load) - addCycles w.added)
          s2.modHolding h fun y =>
            { y with windows := (List.range y.windows.length).filterMap fun j =>
                (y.windows[j]?).map fun v =>
                  if j = i then
                    { (v.modChunk c.chunk fun z => { z with accepted := z.accepted ++ [(slot, msg)] }).finish c.chunk with
                      added := v.added + load }
                  else v }

/-! ### The contributor (R342, R345, R347, R357) -/

def redAgent (p : PortId) (h : HoldId) (q : ReduceRec) : Agent :=
  { die := linkDie p, core := some q.core, holding := h, index := q.index }

def sameReduce (a b : ReduceRec) : Bool := a.queue == b.queue && a.index == b.index

def Dev.modReduce (s : Dev) (h : HoldId) (q : ReduceRec) (f : ReduceRec → ReduceRec) : Dev :=
  s.modHolding h fun x => { x with reduces := x.reduces.map fun r => if sameReduce r q then f r else r }

/-- A REDUCE of the current step that covers a chunk (R347); it may have been found to overlap another. -/
def ReduceRec.covers (q : ReduceRec) (g r c : Nat) : Bool :=
  q.group == g && q.reduction == r && q.ahead == 0 && decide (q.first ≤ c) && decide (c < q.first + q.chunks)

def chunkRef (g r c : Nat) : ChunkRef := { group := Fin.ofNat 256 g, reduction := Fin.ofNat 256 r, chunk := c }

/-- The source values of a chunk, as bytes, and the blocks of memory behind them. -/
def Dev.readSource (s : Dev) (p : PortId) (h : HoldId) (q : ReduceRec) (pol : Policy) (c : Nat) :
    List PByte × List (Nat × Nat × Nat) × Dev :=
  let va := q.srcVa + (c - q.first) * chunkValues * 4
  let n := pol.valuesIn c * 4
  let x := s.readOut (redAgent p h q) va n
  (x.1, s.blocksAt h va n, x.2)

/-- The ES40 blocks of a chunk at the agreed exponents, each with its clamped values. -/
def es40Blocks (pol : Policy) (c : Nat) (sexp : List Byte) (bs : List PByte) : List (List Byte × Nat) :=
  (List.range (pol.blocksIn c)).map fun b =>
    es40Block (nthD sexp b 0).toNat (sourceValues ((bs.drop (256 * b)).take 256))

/-- Three payloads: two blocks, zeros behind them. -/
def es40Message (es : List (List Byte × Nat)) (k : Nat) : List Byte :=
  ((nthD es (2 * k) ([], 0)).1 ++ (nthD es (2 * k + 1) ([], 0)).1 ++ List.replicate 672 0).take 672

/-- Two payloads: one block, zeros behind it. -/
def fp32Message (bs : List PByte) (b : Nat) : List Byte := fp32Block ((bs.drop (256 * b)).take 256) ++ List.replicate 184 0

/-- The DATA messages of a chunk, and the values clamped in it. -/
def dataMessages (pol : Policy) (c : Nat) (sexp : List Byte) (bs : List PByte) : List (List Byte) × Nat :=
  let es := es40Blocks pol c sexp bs
  let ks := List.range (pol.messagesIn c)
  if pol.fp32Wire then (ks.map (fp32Message bs), 0) else (ks.map (es40Message es), (es.map fun e => e.2).sum)

/-- The part of some spans that lies in n bytes from a first one, counted from there. -/
def cutSpans (first n : Nat) (l : List (Nat × Nat × Nat)) : List (Nat × Nat × Nat) :=
  l.filterMap fun p =>
    let lo := max first p.2.1
    let hi := min (first + n) (p.2.1 + p.2.2)
    if lo < hi then some (p.1, lo - first, hi - lo) else none

/-- Sends the data of a chunk; a fenced link die sends nothing (R353). -/
def Dev.sendData (s : Dev) (h : HoldId) (q : ReduceRec) (c : Nat) (sexp : List Byte) : Dev :=
  let x := s.holding h
  match x.policy q.group q.reduction, x.members? q.group, x.rankPort c with
  | some pol, some k, some p =>
    match pol.owner k c with
    | none => s
    | some dst =>
      if (s.die (linkDie p)).fenced then s
      else
        let r := s.readSource p h q pol c
        let ms := dataMessages pol c sexp r.1
        let s1 := if ms.2 = 0 then r.2.2 else r.2.2.count (some h) (redReg p 0x30) ms.2
        let ref := chunkRef q.group q.reduction c
        (List.range ms.1.length).foldl (fun d i =>
          let b := nthD ms.1 i []
          if dst = d.number then d.takeData p h ref d.number i b
          else
            let n := if pol.fp32Wire then 256 else 512
            d.sendFrom p dst 1 (.holding h) (.data h ref i b) (cutSpans (n * i) n r.2.1)) s1
  | _, _, _ => s

/-- The reads of a chunk's source must wait, for its SCALE or its DATA. -/
def Dev.chunkHeld (s : Dev) (h : HoldId) (q : ReduceRec) (c : Nat) : Bool :=
  let x := s.holding h
  match x.policy q.group q.reduction, x.members? q.group, x.rankPort c with
  | some pol, some k, some p =>
    !x.frozenChunk q.group q.reduction c pol && !(s.die (linkDie p)).fenced &&
      (pol.owner k c).any fun dst =>
        s.sourceWaits p dst (redAgent p h q) (q.srcVa + (c - q.first) * chunkValues * 4) (pol.valuesIn c * 4)
  | _, _, _ => false

/-- Sends the data of a chunk, or remembers it while its source must wait. -/
def Dev.sendOrOwe (s : Dev) (h : HoldId) (q : ReduceRec) (c : Nat) (sexp : List Byte) : Dev :=
  if s.chunkHeld h q c then s.modReduce h q fun z => { z with owed := z.owed ++ [(c, some sexp)] } else s.sendData h q c sexp

/-- REPLY at the contributor. -/
def Dev.takeReply (s : Dev) (p : PortId) (h : HoldId) (c : ChunkRef) (src : BitVec 16) (admits : Bool) (sexp : List Byte) : Dev :=
  let x := s.holding h
  let g := c.group.val
  let r := c.reduction.val
  if (x.policy g r).isNone then s.misroute p h 1
  else match x.reduces.find? fun q => q.started && q.covers g r c.chunk && !(q.replied.any fun z => z.1 == c.chunk) with
  | none => s
  | some q =>
    if ((x.policy g r).bind fun pol => (x.members? g).bind fun k => pol.owner k c.chunk) ≠ some src then s
    else
      let s1 := s.modReduce h q fun z => { z with replied := z.replied ++ [(c.chunk, admits)] }
      if admits then s1.sendOrOwe h q c.chunk sexp else s1

/-! ### Scale and reply at the owner (R345, R348) -/

/-- A REPLY to a member, or to this device itself. -/
def Dev.sendReply (s : Dev) (p : PortId) (h : HoldId) (c : ChunkRef) (dst : BitVec 16) (admits : Bool) (sexp : List Byte) : Dev :=
  if dst = s.number then s.takeReply p h c s.number admits sexp
  else s.sendFrom p dst 1 (.holding h) (.reply h c admits sexp) []

/-- The largest byte at each place. -/
def maxBytes : List (List Byte) → List Byte
  | [] => List.replicate 224 0
  | a :: t =>
    let m := maxBytes t
    (List.range 224).map fun i => if (nthD m i 0).toNat < (nthD a i 0).toNat then nthD a i 0 else nthD m i 0

/-- Admits the members whose SCALE flits are in, and answers them. -/
def Dev.answerChunk (s : Dev) (p : PortId) (h : HoldId) (i c : Nat) : Dev :=
  match s.window h i with
  | none => s
  | some w =>
    let k := w.chunk c
    let slots := k.scales.foldl (fun l z => insertSorted z.1 l) []
    let sexp := maxBytes (k.scales.map (·.2))
    let w1 := (w.setChunk { k with replied := true, admitted := slots, sexp := sexp }).finish c
    let ref := chunkRef w.group w.reduction c
    slots.foldl (fun d z => d.sendReply p h ref (nthD w.members.members z 0) true sexp) (s.setWindow h i w1)

/-- The window of a SCALE flit: the newest, unless it has taken one of this slot for this chunk already. -/
def Dev.scaleWindow (s : Dev) (p : PortId) (h : HoldId) (c : ChunkRef) (pol : Policy) (k : Collective) (slot : Nat) : Nat × Dev :=
  match ((s.holding h).windowsOf p c.group.val c.reduction.val).getLast? with
  | some q => if (q.2.chunk c.chunk).seen.contains slot then s.openWindow p h c.group.val c.reduction.val pol k else (q.1, s)
  | none => s.openWindow p h c.group.val c.reduction.val pol k

/-- SCALE at the owner. -/
def Dev.takeScale (s : Dev) (p : PortId) (h : HoldId) (c : ChunkRef) (src : BitVec 16) (bytes : List Byte) : Dev :=
  if s.outOfStep p h c.group.val src then s
  else match s.ownedHere p h c src with
  | none => s.misroute p h 1
  | some (pol, k, slot) =>
    if pol.fp32Wire then s.misroute p h 1
    else
      let x := s.scaleWindow p h c pol k slot
      match x.2.window h x.1 with
      | none => x.2
      | some w =>
        let ch := w.chunk c.chunk
        let ch1 := { ch with seen := ch.seen ++ [slot] }
        if w.scaleClosed || w.dataClosed || ch.replied || reached x.2.dt w.scaleEnd then
          ((x.2.setWindow h x.1 (w.setChunk ch1)).redScaleLate p h c.group.val c.reduction.val).sendReply p h c src false
            (if ch.replied then ch.sexp else maxBytes (ch.scales.map (·.2)))
        else
          let ch2 := { ch1 with scales := ch1.scales ++ [(slot, bytes)] }
          let s1 := x.2.setWindow h x.1 (w.setChunk ch2)
          if k.live.all fun j => ch2.scales.any fun z => z.1 == j then s1.answerChunk p h x.1 c.chunk else s1

/-- Sends the SCALE flit of a chunk, or its data under the FP32 wire. -/
def Dev.sendChunk (s : Dev) (h : HoldId) (q : ReduceRec) (c : Nat) : Dev :=
  let x := s.holding h
  match x.policy q.group q.reduction, x.members? q.group, x.rankPort c with
  | some pol, some k, some p =>
    if x.frozenChunk q.group q.reduction c pol || (s.die (linkDie p)).fenced then s
    else if pol.fp32Wire then s.sendData h q c []
    else
      match pol.owner k c with
      | none => s
      | some dst =>
        let r := s.readSource p h q pol c
        let bytes := (List.range 224).map fun b => BitVec.ofNat 8 (exponentByte (sourceValues ((r.1.drop (256 * b)).take 256)))
        let ref := chunkRef q.group q.reduction c
        if dst = s.number then r.2.2.takeScale p h ref s.number bytes
        else r.2.2.sendFrom p dst 1 (.holding h) (.scale h ref bytes) r.2.1
  | _, _, _ => s

/-! ### REDUCE (R357) -/

/-- Starts a chunk of a REDUCE, or remembers it while its source must wait. -/
def Dev.startChunk (s : Dev) (h : HoldId) (q : ReduceRec) (c : Nat) : Dev :=
  if s.chunkHeld h q c then s.modReduce h q fun z => { z with owed := z.owed ++ [(c, none)] } else s.sendChunk h q c

/-- Sends what a REDUCE still owes and need no longer wait for. -/
def Dev.payOwed (s : Dev) (h : HoldId) (q : ReduceRec) : Dev :=
  q.owed.foldl (fun d o =>
    if d.chunkHeld h q o.1 then d
    else
      let d1 := d.modReduce h q fun z => { z with owed := z.owed.filter fun p => p.1 != o.1 }
      match o.2 with
      | some sexp => d1.sendData h q o.1 sexp
      | none => d1.sendChunk h q o.1) s

def dataOf (h : HoldId) (g r c : Nat) : OutMsg → Bool
  | .data h' k _ _ => h' == h && k.group.val == g && k.reduction.val == r && k.chunk == c
  | _ => false

/-- A chunk has been refused admission, has had every DATA message acknowledged, or is never sent. -/
def Dev.chunkSettled (s : Dev) (h : HoldId) (q : ReduceRec) (c : Nat) : Bool :=
  let x := s.holding h
  match x.policy q.group q.reduction, x.rankPort c with
  | some pol, some p =>
    let out := (s.gate.any fun g => dataOf h q.group q.reduction c g.msg)
      || (s.seqTx.any fun t => t.2.held.any fun f => dataOf h q.group q.reduction c f.msg)
    x.frozenChunk q.group q.reduction c pol || (s.die (linkDie p)).fenced
      || ((pol.fp32Wire || q.replied.contains (c, true)) && !out) || q.replied.contains (c, false)
  | _, _ => true

def Dev.reduceSettled (s : Dev) (h : HoldId) (q : ReduceRec) : Bool :=
  q.owed.isEmpty && (List.range q.chunks).all fun i => s.chunkSettled h q (q.first + i)

def overlapping (a b : ReduceRec) : Bool :=
  a.group == b.group && a.reduction == b.reduction && a.ahead == b.ahead && decide (a.first < b.first + b.chunks)
    && decide (b.first < a.first + a.chunks)

def reduceBody (c : CoreId) (a : Agent) (e : WEntry) (r : Run) : Option (Run × Bool) :=
  let h := a.holding
  let s := r.dev
  let x := s.holding h
  let queue := (x.dfnOf c e.stream).queue
  let mine := fun (q : ReduceRec) => q.queue == queue && q.index == e.index
  match x.reduces.find? mine with
  | none => none
  | some q =>
    if q.bad then some (r, true)
    else if q.started then
      let d := s.payOwed h q
      let ends := (((d.holding h).reduces.find? mine).map (d.reduceSettled h)).getD true
      if ends || !q.owed.isEmpty then some ({ r with dev := d }, ends) else none
    else if (x.reduces.takeWhile fun z => !mine z).any fun z => overlapping z q then
      let s1 := (s.modReduce h q fun z => { z with bad := true }).runFault c (some h) e.index .badParameter
      some ({ r with dev := s1 }, true)
    else
      let s1 := (s.modReduce h q fun z => { z with started := true }).modHolding h fun y => y.modRed q.group q.reduction id
      let s2 := (List.range q.chunks).foldl (fun d i => d.startChunk h { q with started := true } (q.first + i)) s1
      let done := (((s2.holding h).reduces.find? mine).map (s2.reduceSettled h)).getD true
      some ({ r with dev := s2 }, done)

/-! ### Deadlines (R345, R348, R350) -/

/-- SCALE_DEADLINE: the oldest window whose scale phase is open reaches its deadline. -/
def Dev.scaleDeadline (s : Dev) (p : PortId) (h : HoldId) (g r : Nat) : Dev :=
  match ((s.holding h).windowsOf p g r).find? fun q => !q.2.scaleClosed && !q.2.dataClosed with
  | none => s
  | some (i, w) =>
    let s1 := (s.advanceTo w.scaleEnd).setWindow h i { w with scaleClosed := true }
    (w.chunks.filter fun k => !k.replied).foldl (fun d k => d.answerChunk p h i k.chunk) s1

/-- The chunks of a reduction that a die owns and that take part. -/
def Dev.dieChunks (s : Dev) (p : PortId) (h : HoldId) (w : RedWindow) : List Nat :=
  let x := s.holding h
  (w.policy.ownChunks w.members s.number).filter fun c =>
    x.rankPort c == some p && !x.frozenChunk w.group w.reduction c w.policy
      && !x.orphan w.group w.reduction c w.policy w.members

/-- Every block of a chunk is final. -/
def RedWindow.closeChunk (w : RedWindow) (c : Nat) : RedWindow :=
  w.modChunk c fun k =>
    { k with replied := true
             blocks := (List.range (w.policy.blocksIn c)).foldl (fun t b => Tab.modify {} t b fun q => { q with final := true }) k.blocks }

/-- Messages of a slot that a window did not accept. -/
def RedWindow.missing (w : RedWindow) (cs : List Nat) (slot : Nat) : Nat :=
  (cs.map fun c => w.policy.messagesIn c - ((w.chunk c).accepted.filter fun z => z.1 == slot).length).sum

/-- The absence list as the device has it so far. -/
def addAbsent (l : List (BitVec 16 × Nat)) (more : List (BitVec 16 × Nat)) : List (BitVec 16 × Nat) :=
  more.map fun m => (m.1, min (m.2 + ((l.find? fun q => q.1 == m.1).map (·.2)).getD 0) 0xFFFF)

/-- DATA_DEADLINE: the oldest open window reaches its data deadline. -/
def Dev.dataDeadline (s : Dev) (p : PortId) (h : HoldId) (g r : Nat) : Dev :=
  match ((s.holding h).windowsOf p g r).find? fun q => !q.2.dataClosed with
  | none => s
  | some (i, w) =>
    let cs := s.dieChunks p h w
    let w1 := { cs.foldl (fun v c => v.closeChunk c) w with scaleClosed := true, dataClosed := true }
    let live := w.members.live
    let absent := (List.range w.members.members.length).map fun j =>
      (nthD w.members.members j 0, if live.contains j then w1.missing cs j else 0)
    let short := (cs.map fun c => ((w1.chunk c).blocks.filter fun b => decide (b.2.count < live.length)).length).sum
    let s1 := ((s.advanceTo w.dataEnd).setWindow h i w1).modHolding h fun x =>
      x.modRed g r fun q => { q with absent := addAbsent q.absent absent, short := q.short + short }
    let list := (((s1.holding h).totals.reductions.find? fun q => q.group == g && q.reduction == r).map (·.absent)).getD []
    s1.writeVa (linkAgent p h) false w.policy.absentVa
      ((list.flatMap fun q => leBytes 4 (q.1.toNat + q.2 * 65536)).map fun b => ⟨b, false⟩)

/-! ### Gathers as they arrive (R347, R351) -/

/-- Writes the pieces of a chunk at its destination. -/
def Dev.writePieces (s : Dev) (a : Agent) (va : Nat) (ps : List (Nat × List PByte)) : Dev :=
  ps.foldl (fun d p => d.writeVa a false (va + p.1) p.2) s

/-- A chunk that a completed GATHER_WAIT of the REDUCE has covered. -/
def ReduceRec.waitOver (q : ReduceRec) (c : Nat) : Bool := q.waited.any fun t => decide (t.1 ≤ c) && decide (c < t.1 + t.2)

/-- A piece of a chunk's gathered values, by its byte offset in the chunk. The chunk is written once it is whole, so that one
that stays incomplete keeps its previous values; a piece that comes after its GATHER_WAIT is missed (R351). -/
def Dev.takeGather (s : Dev) (p : PortId) (h : HoldId) (g r c off : Nat) (bytes : List PByte) : Dev :=
  let x := s.holding h
  let key := polKey g r
  match x.policy g r with
  | none => s.misroute p h 1
  | some pol =>
    if x.dropped.contains (key, c) then s
    else
      match x.reduces.find? fun q => q.covers g r c with
      | none => (s.count (some h) (redReg p 0x58) 1).modHolding h fun y => { y with dropped := y.dropped ++ [(key, c)] }
      | some q =>
        if q.missed.contains c || q.waitOver c then s.redMiss p h g r
        else if q.gathered.contains c || q.pieces.any fun t => t.1 == c && t.2.1 == off then s
        else
          let size := pol.valuesIn c * pol.gatherSize
          let mine := (q.pieces.filter fun t => t.1 == c).map (·.2) ++ [(off, bytes.take (size - off))]
          if size ≤ (mine.map fun t => t.2.length).sum then
            (s.writePieces (redAgent p h q) (q.dstVa + (c - q.first) * chunkValues * pol.gatherSize) mine).modReduce h q fun z =>
              { z with pieces := z.pieces.filter fun t => t.1 != c, gathered := z.gathered ++ [c] }
          else s.modReduce h q fun z => { z with pieces := z.pieces ++ [(c, off, bytes.take (size - off))] }

/-- Every gathered byte of a chunk is written; a frozen chunk counts as gathered (R364). -/
def Holding.chunkGathered (x : Holding) (g r c : Nat) : Bool :=
  match x.policy g r with
  | none => false
  | some pol =>
    x.frozenChunk g r c pol ||
      x.reduces.any fun q => q.covers g r c && q.gathered.contains c

/-- The GATHER_WAITs of a reduction have covered every chunk of its REDUCEs. -/
def Holding.waitsDone (x : Holding) (g r : Nat) : Bool :=
  x.reduces.all fun q => q.group != g || q.reduction != r || q.bad || q.ahead != 0 ||
    (List.range q.chunks).all fun i => q.waited.any fun t => decide (t.1 ≤ q.first + i) && decide (q.first + i < t.1 + t.2)

/-- The layers that entries of a reduction name (R376). -/
def Holding.layersOf (x : Holding) (g r : Nat) : List Nat :=
  x.entries.foldl (fun l q =>
    match q.2 with
    | some e => if e.group = g ∧ e.reduction = r then insertSorted e.layer l else l
    | none => l) []

def dedup (l : List Nat) : List Nat := l.foldl (fun t x => insertNew x t) []

/-- A GATHER_WAIT over some chunks completes; its reduction may lack trailers (R377). -/
def Holding.endWait (x : Holding) (g r first n : Nat) : Holding :=
  let y : Holding := { x with reduces := x.reduces.map fun q =>
    if q.group = g ∧ q.reduction = r ∧ q.ahead = 0 then { q with waited := q.waited ++ [(first, n)] } else q }
  let own := match x.policy g r, x.members? g with
    | some pol, some k => (dedup (pol.ownSlots k)).length
    | _, _ => 0
  let got := (y.trailers.filter fun t => t.1 == polKey g r).length
  if y.waitsDone g r && decide (got < own) then
    { y with norms := (y.layersOf g r).foldl (fun t l => Tab.modify {} t l fun a => { a with incomplete := true }) y.norms }
  else y

def gatherWaitBody (_c : CoreId) (a : Agent) (e : WEntry) (r : Run) : Option Run :=
  let k := collOf e.desc
  let h := a.holding
  let x := r.dev.holding h
  if (List.range k.chunks).all fun i => x.chunkGathered k.group k.reduction (k.first + i) then
    some { r with dev := r.dev.modHolding h fun y => y.endWait k.group k.reduction k.first k.chunks }
  else none

/-- The wait ends at its window: each missing chunk counts and keeps its previous parameters. -/
def expiryBody (c : CoreId) (a : Agent) (e : WEntry) (r : Run) : Option Run :=
  let k := collOf e.desc
  let h := a.holding
  let x := r.dev.holding h
  match x.policy k.group k.reduction with
  | none => none
  | some pol =>
    let missing := ((List.range k.chunks).map (k.first + ·)).filter fun i => !x.chunkGathered k.group k.reduction i
    if missing = [] then none
    else
      let s0 := r.dev.advanceTo (e.startTime + BitVec.ofNat 64 pol.gatherWindow)
      let s1 := missing.foldl (fun d i => d.redMiss ((x.rankPort i).getD 0) h k.group k.reduction) s0
      let s2 := s1.modHolding h fun y =>
        ({ y with reduces := y.reduces.map fun q =>
            { q with missed := q.missed ++ missing.filter fun i => q.covers k.group k.reduction i } } : Holding).endWait
          k.group k.reduction k.first k.chunks
      some { r with dev := s2.runFault c (some h) e.index .timeout }

/-! ### The commands -/

def execGatherWait (c : CoreId) (s : State) : Host.Outcome State Fault Refusal :=
  work s (s.dev.coreScope (s.dev.runUnit c 6 [1] (gatherWaitBody c)))
def execScale (p : PortId) (h : HoldId) (c : ChunkRef) (src : Sender) (bytes : List Byte) (s : State) :
    Host.Outcome State Fault Refusal :=
  work s (s.dev.netScope (s.dev.unlessStale src (s.dev.takeScale p h c src.device bytes)))
def execReply (p : PortId) (h : HoldId) (c : ChunkRef) (src : Sender) (admits : Bool) (sexp : List Byte) (s : State) :
    Host.Outcome State Fault Refusal :=
  work s (s.dev.netScope (s.dev.unlessStale src (s.dev.takeReply p h c src.device admits sexp)))
def execDataMessage (p : PortId) (h : HoldId) (c : ChunkRef) (src : Sender) (msg : Nat) (bytes : List Byte) (s : State) :
    Host.Outcome State Fault Refusal :=
  work s (s.dev.memScope (s.dev.unlessStale src (s.dev.takeData p h c src.device msg bytes)))
def execScaleDeadline (p : PortId) (h : HoldId) (g r : Fin 256) (s : State) : Host.Outcome State Fault Refusal :=
  let d := s.dev.scaleDeadline p h g.val r.val
  work s { s.dev.netScope d with dt := d.dt }
def execDataDeadline (p : PortId) (h : HoldId) (g r : Fin 256) (s : State) : Host.Outcome State Fault Refusal :=
  let d := s.dev.dataDeadline p h g.val r.val
  work s { s.dev.memScope d with dt := d.dt }
def execGatherFlit (p : PortId) (h : HoldId) (c : ChunkRef) (src : Sender) (index skip : Nat) (bytes : List PByte)
    (s : State) : Host.Outcome State Fault Refusal :=
  work s (s.dev.memScope (s.dev.unlessStale src
    (s.dev.takeGather p h c.group.val c.reduction.val c.chunk (224 * index + skip) bytes)))
def execGatherWindowExpiry (c : CoreId) (s : State) : Host.Outcome State Fault Refusal :=
  let d := s.dev.runUnit c 6 [1] (expiryBody c)
  work s { s.dev.coreScope d with dt := d.dt }

end Sys2Proof.Machine
end

