-- ==== Sys2Proof/Machine/Harrow.lean ====
section
/-! DEFINITION. The Harrow (R361 to R380): final blocks, the update rules, element freezing and masks, block
preconditioning, gathers as they leave, and the layer norms with their trailers. -/

namespace Sys2Proof.Machine

open Sys2Proof

/-! ### The value of a final block (R343, R354) -/

/-- What a final block holds. -/
inductive BlockKind where
  | empty | poison | nonfinite | finite
  deriving DecidableEq, Repr

/-- A NaN that the owner forms (R24). -/
def formedNan : Val := nanOf Val.zero Val.zero

def RedBlock.kind (q : RedBlock) : BlockKind :=
  if q.count = 0 then .empty else if q.poison then .poison else if q.nan || q.pinf || q.ninf then .nonfinite else .finite

/-- One FP32 rounding with its saturation. -/
def round32 (v : Val) : Val × Nat :=
  let r := convert .fp32 v
  (decode .fp32 r.bits, if r.sat then 1 else 0)

/-- g_i of an ES40 sum. -/
def es40Result (mean : Bool) (sexp count : Nat) (v : Int) : Val × Nat :=
  let x := Val.ofInt v ((sexp : Int) - 150)
  round32 (if mean then x.div (.fin false count 0) else x)

/-- g_i of the staged contributions in ascending slot order. -/
def fp32Result (mean : Bool) (vs : List Val) : Val × Nat :=
  let r := vs.foldl (fun (a : Val × Nat) v => let z := round32 (a.1.add v); (z.1, a.2 + z.2)) (Val.zero, 0)
  if mean then
    let z := round32 (r.1.div (.fin false vs.length 0))
    (z.1, r.2 + z.2)
  else r

/-- The reduced values of a final block, and its saturations. -/
def Dev.blockValues (s : Dev) (p : PortId) (h : HoldId) (w : RedWindow) (c b : Nat) : List (Val × Nat) × Dev :=
  let k := w.chunk c
  let q := Tab.get {} k.blocks b
  let pol := w.policy
  match q.kind with
  | .empty => ([], s)
  | .poison => ([], s)
  | .nonfinite => (List.replicate 64 (formedNan, 0), s)
  | .finite =>
    if pol.fp32Wire then
      let base := pol.ownIndex w.members s.number c b * w.members.members.length
      let r := q.slots.foldl (fun (acc : List (List (Val × Bool)) × Dev) j =>
        let x := acc.2.readOut (linkAgent p h) (pol.stageVa + (base + j) * 264 + 8) 256
        (acc.1 ++ [sourceValues x.1], x.2)) ([], s)
      ((List.range 64).map fun i => fp32Result pol.mean (r.1.map fun vs => (nthD vs i (Val.zero, false)).1), r.2)
    else
      (q.sums.map (es40Result pol.mean (nthD k.sexp b 0).toNat q.count), s)

/-- The staged values of a final block must still wait to be read (R228, R237, R238, R384). -/
def Dev.stagingHeld (s : Dev) (p : PortId) (h : HoldId) (w : RedWindow) (c b : Nat) : Bool :=
  let q := Tab.get {} (w.chunk c).blocks b
  q.kind == .finite && w.policy.fp32Wire &&
    q.slots.any fun j => s.inHeld (linkAgent p h)
      (w.policy.stageVa + (w.policy.ownIndex w.members s.number c b * w.members.members.length + j) * 264 + 8) 256

/-! ### Entries (R361, R369) -/

/-- The entry that covers a value of a reduction. -/
def Holding.entryAt (x : Holding) (g r v : Nat) : Option (Nat × UpdateEntry) :=
  x.entries.findSome? fun q =>
    match q.2 with
    | some e => if e.group = g ∧ e.reduction = r ∧ e.firstValue ≤ v ∧ v < e.firstValue + e.values then some (q.1, e) else none
    | none => none

/-- A masked-out position of an entry, by its place in the entry. -/
def Holding.maskedOut (x : Holding) (e : UpdateEntry) (rel : Nat) : Bool :=
  e.maskEn &&
    match Tab.get none x.masks e.maskNum with
    | some m => !m.kept.contains rel
    | none => false

def Holding.hyper (x : Holding) (n : Nat) : Hyper := Tab.get {} x.hypers n

/-- State words of a rule (R367). -/
def UpdateEntry.words (e : UpdateEntry) : Nat := if e.rule = 0 then 2 else 1

/-! ### The rules (R366, R367) -/

/-- An operation of a rule: one rounding; an overflow or an infinite result saturates. -/
def opRound (v : Val) : Val × Nat :=
  match v with
  | .inf n => (decode .fp32 (withSign .fp32 n (fmtMaxBits .fp32)), 1)
  | _ => round32 v

def opMul (a b : Val) : Val × Nat := opRound (a.mul b)
def opFma (a b c : Val) : Val × Nat := opRound ((a.mul b).add c)

/-- What a rule gives for one element. -/
structure Updated where
  w : Val
  state : List Val
  d : Val
  sats : Nat
  deriving DecidableEq, Repr

def Updated.isNan (u : Updated) : Bool := u.w.isNan || u.d.isNan || u.state.any Val.isNan

def one : Val := .fin false 1 0

/-- The step that every rule ends with: d = round(lr × t), w = round(w - d). -/
def applyStep (lr w : Val) (t : Val × Nat) : Val × Val × Nat :=
  let d := opMul lr t.1
  let w1 := opRound (w.add d.1.negate)
  (w1.1, d.1, t.2 + d.2 + w1.2)

def ruleAdam (y : Hyper) (e : UpdateEntry) (g w m v : Val) : Updated :=
  let b1 := f32 y.b1
  let b2 := f32 y.b2
  let ob1 := opRound (one.add b1.negate)
  let ob2 := opRound (one.add b2.negate)
  let g0 := opMul (f32 y.gscale) g
  let a1 := opMul ob1.1 g0.1
  let m1 := opFma b1 m a1.1
  let g2 := opMul g0.1 g0.1
  let a2 := opMul ob2.1 g2.1
  let v1 := opFma b2 v a2.1
  let mh := opMul m1.1 (f32 e.c1)
  let vh := opMul v1.1 (f32 e.c2)
  let sq := opRound vh.1.sqrt
  let den := opRound (sq.1.add (f32 y.eps))
  let dir := opRound (mh.1.div den.1)
  let t := opFma (f32 y.wd) w dir.1
  let z := applyStep (f32 y.lr) w t
  { w := z.1, state := [m1.1, v1.1], d := z.2.1
    sats := g0.2 + a1.2 + m1.2 + g2.2 + a2.2 + v1.2 + mh.2 + vh.2 + sq.2 + den.2 + dir.2 + z.2.2 }

def ruleMomentum (y : Hyper) (g w m : Val) : Updated :=
  let g0 := opMul (f32 y.gscale) g
  let m1 := opFma (f32 y.mu) m g0.1
  let z := applyStep (f32 y.lr) w (opFma (f32 y.wd) w m1.1)
  { w := z.1, state := [m1.1], d := z.2.1, sats := g0.2 + m1.2 + z.2.2 }

/-- +1, -1 or 0 by the sign of a value. -/
def signOf (v : Val) : Val :=
  if v.isNan then v else if v.isZero then Val.zero else if v.neg? then .fin true 1 0 else one

def ruleSign (y : Hyper) (g w m : Val) : Updated :=
  let b1 := f32 y.b1
  let b2 := f32 y.b2
  let ob1 := opRound (one.add b1.negate)
  let ob2 := opRound (one.add b2.negate)
  let g0 := opMul (f32 y.gscale) g
  let a1 := opMul ob1.1 g0.1
  let c := opFma b1 m a1.1
  let z := applyStep (f32 y.lr) w (opFma (f32 y.wd) w (signOf c.1))
  let a2 := opMul ob2.1 g0.1
  let m1 := opFma b2 m a2.1
  { w := z.1, state := [m1.1], d := z.2.1, sats := g0.2 + a1.2 + c.2 + z.2.2 + a2.2 + m1.2 }

def applyRule (y : Hyper) (e : UpdateEntry) (g w : Val) (st : List Val) : Updated :=
  match e.rule with
  | 0 => ruleAdam y e g w (nthD st 0 Val.zero) (nthD st 1 Val.zero)
  | 1 => ruleMomentum y g w (nthD st 0 Val.zero)
  | _ => ruleSign y g w (nthD st 0 Val.zero)

/-! ### Norms (R375) -/

/-- The square of a finite FP32 value in units of 2^-300. -/
def squareUnits (v : Val) : Nat :=
  match v with
  | .fin _ m e => (m * m) <<< (2 * e + 300).toNat
  | _ => 0

def NormAcc.weight (a : NormAcc) (w : Val) : NormAcc :=
  if w.isFinite then { a with wsq := a.wsq + squareUnits w } else { a with wnf := true }
def NormAcc.update (a : NormAcc) (g d : Val) : NormAcc :=
  { a with gsq := a.gsq + squareUnits g, usq := a.usq + squareUnits d }

/-! ### A block's elements -/

/-- What becomes of one covered value: the bits it is gathered with, its new words where it is written, and what it
adds to the counters and norms. -/
structure Elem where
  w : PWord
  write : Option (Word32 × List Word32)
  masked : Bool := false
  frozen : Bool := false
  updated : Bool := false
  nan : Bool := false
  sats : Nat := 0
  norm : NormAcc → NormAcc

def wordBytes (w : Word32) : List PByte := (leBytes 4 w.toNat).map fun b => ⟨b, false⟩
def wordAt (bs : List PByte) (i : Nat) : PWord :=
  let q := (bs.drop (4 * i)).take 4
  ⟨BitVec.ofNat 32 (leNat (q.map (·.val))), q.any (·.poison)⟩

/-- A run of values of a block under one entry: first place in the entry, values, and their reduced values. -/
structure Span where
  entry : UpdateEntry
  rel : Nat
  gs : List Val
  deriving DecidableEq, Repr

/-- What the Harrow reads for a span. -/
structure SpanData where
  params : List PByte
  state : List PByte
  freeze : List PByte
  deriving DecidableEq, Repr

def Span.read (q : Span) (a : Agent) (full : Bool) (r : Run) : SpanData × Run :=
  let e := q.entry
  let n := q.gs.length
  let x := r.read a (e.paramVa + q.rel * 4) (n * 4)
  if !full then (⟨x.1, [], []⟩, x.2)
  else
    let y := x.2.read a (e.stateVa + q.rel * 4 * e.words) (n * 4 * e.words)
    if e.freezeVa = 0 then (⟨x.1, y.1, []⟩, y.2)
    else
      let z := y.2.read a (e.freezeVa + q.rel / 8) ((q.rel + n - 1) / 8 + 1 - q.rel / 8)
      (⟨x.1, y.1, z.1⟩, z.2)

def SpanData.poisoned (d : SpanData) : Bool := (d.params ++ d.state ++ d.freeze).any (·.poison)

/-- The freeze bit of a value of a span. -/
def SpanData.frozen (d : SpanData) (rel i : Nat) : Bool :=
  (nthD d.freeze ((rel + i) / 8 - rel / 8) ⟨0, false⟩).val.getLsbD ((rel + i) % 8)

/-- Where a span's gradients stand: the block's kind, as what was read turns it. -/
def Span.element (x : Holding) (q : Span) (d : SpanData) (kind : BlockKind) (i : Nat) : Elem :=
  let e := q.entry
  let w := wordAt d.params i
  let keep : Elem := { w := w, write := none, norm := id }
  match kind with
  | .empty => { keep with norm := fun a => if x.maskedOut e (q.rel + i) then a else a.weight (f32 w.val) }
  | .poison => keep
  | .nonfinite => keep
  | .finite =>
    if x.maskedOut e (q.rel + i) then
      { keep with w := ⟨0, false⟩, write := some (0, List.replicate e.words 0), masked := true }
    else if d.frozen q.rel i then { keep with frozen := true, norm := fun a => a.weight (f32 w.val) }
    else
      let g := nthD q.gs i Val.zero
      let st := (List.range e.words).map fun j => f32 (wordAt d.state (i * e.words + j)).val
      let u := applyRule (x.hyper e.hyper) e g (f32 w.val) st
      if u.isNan then { keep with nan := true, sats := u.sats }
      else
        { w := ⟨toF32 u.w, false⟩, write := some (toF32 u.w, u.state.map toF32), updated := true, sats := u.sats
          norm := fun a => (a.weight u.w).update g u.d }

/-- Writes the parameters and the state of a span, when anything changed. -/
def Span.write (q : Span) (a : Agent) (d : SpanData) (els : List Elem) (s : Dev) : Dev :=
  let e := q.entry
  if els.all fun z => z.write.isNone then s
  else
    let ps := (List.range els.length).flatMap fun i =>
      match (els[i]?).bind (·.write) with
      | some v => wordBytes v.1
      | none => (d.params.drop (4 * i)).take 4
    let st := (List.range els.length).flatMap fun i =>
      match (els[i]?).bind (·.write) with
      | some v => v.2.flatMap wordBytes
      | none => (d.state.drop (4 * e.words * i)).take (4 * e.words)
    (s.writeVa a true (e.paramVa + q.rel * 4) ps).writeVa a true (e.stateVa + q.rel * 4 * e.words) st

def normKey (g r layer : Nat) : Nat := polKey g r * 256 + layer

/-- The counters and the norms of some elements of a layer. -/
def Dev.tallyElems (s : Dev) (p : PortId) (h : HoldId) (key : Nat) (els : List Elem) : Dev :=
  let n := fun (f : Elem → Bool) => (els.filter f).length
  let add := fun (d : Dev) (off k : Nat) => if k = 0 then d else d.count (some h) (hrwReg p off) k
  let sats := (els.map (·.sats)).sum
  let s1 := add (add (add (add s 0x08 (n (·.updated))) 0x28 (n (·.nan))) 0x30 (n (·.frozen))) 0x40 (n (·.masked))
  let s2 := if sats = 0 then s1 else s1.countNum (some h) (hrwReg p 0x108) sats
  s2.modHolding h fun x =>
    { x with ownNorms := Tab.modify {} x.ownNorms key fun a => els.foldl (fun t z => z.norm t) a }

/-- A block that is skipped: its counter and the event. -/
def Dev.skipBlock (s : Dev) (p : PortId) (h : HoldId) (kind : BlockKind) : Dev :=
  match kind with
  | .poison => (s.count (some h) (hrwReg p 0x18) 1).event (regAt (linkDie p) 0x104) 0x10
  | .nonfinite => (s.count (some h) (hrwReg p 0x20) 1).event (regAt (linkDie p) 0x104) 0x10
  | _ => s

/-! ### Gathers as they leave (R347, R360) -/

/-- The bytes of one gathered value, with what the conversion counts. -/
def gatherBytes (f : Fmt) (w : PWord) : List PByte × Rounded :=
  let r := convert f (f32 w.val)
  ((leBytes (fmtBits f / 8) r.bits).map fun b => ⟨b, w.poison⟩, if w.poison then ⟨r.bits, false, false⟩ else r)

def Dev.countGather (s : Dev) (p : PortId) (h : HoldId) (f : Fmt) (rs : List Rounded) : Dev :=
  let sat := (rs.filter (·.sat)).length
  let non := (rs.filter (·.nonfin)).length
  let s1 := if sat = 0 then s else s.countNum (some h) (redReg p (0x100 + fmtCode f * 8)) sat
  if non = 0 then s1 else s1.countNum (some h) (redReg p (0x104 + fmtCode f * 8)) non

/-- Sends a piece of a chunk's gather to every live member, this device included. -/
def Dev.sendPiece (s : Dev) (p : PortId) (h : HoldId) (w : RedWindow) (c off : Nat) (bytes : List PByte) : Dev :=
  let dst := w.members.live.map fun i => nthD w.members.members i 0
  dst.foldl (fun d m =>
    if m = d.number then d.takeGather p h w.group w.reduction c off bytes
    else d.sendFrom p m 1 (.holding h) (.gatherFlit h (chunkRef w.group w.reduction c) (off / 224) (off % 224) bytes) []) s

/-- Runs of consecutive numbers: first and length. -/
def numberRuns : List Nat → List (Nat × Nat)
  | [] => []
  | a :: t =>
    match numberRuns t with
    | [] => [(a, 1)]
    | (b, n) :: u => if b = a + 1 then (a, n + 1) :: u else (a, 1) :: (b, n) :: u

/-- Values of a chunk that this link die gathers itself: those under no RULE 3 entry. -/
def Holding.plainValue (x : Holding) (g r v : Nat) : Bool := (x.entryAt g r v).all fun q => q.2.rule != 3

/-- Sends the flits of a chunk whose values are all formed. -/
def Dev.sendFlits (s : Dev) (p : PortId) (h : HoldId) (i c : Nat) (flits : List Nat) : Dev :=
  flits.foldl (fun d f =>
    match d.window h i with
    | none => d
    | some w =>
      let k := w.chunk c
      let per := 224 / max w.policy.gatherSize 1
      let vs := ((List.range per).map (f * per + ·)).filter fun v =>
        decide (v < w.policy.valuesIn c) && (d.holding h).plainValue w.group w.reduction (c * chunkValues + v)
      if k.sent.contains f || vs.any fun v => (Tab.get [] k.out v).isEmpty then d
      else
        let d1 := d.setWindow h i (w.setChunk { k with sent := k.sent ++ [f] })
        (numberRuns vs).foldl (fun d2 q =>
          d2.sendPiece p h w c (q.1 * w.policy.gatherSize) ((List.range q.2).flatMap fun j => Tab.get [] k.out (q.1 + j))) d1) s

/-! ### Layer norms on the links (R376, R377) -/

/-- A trailer of an owner. -/
def Dev.takeTrailer (s : Dev) (p : PortId) (h : HoldId) (g r : Nat) (src : BitVec 16) (recs : List TrailerRec) : Dev :=
  let x := s.holding h
  let key := polKey g r
  if (x.policy g r).isNone then s.misroute p h 1
  else if (x.reduces.any fun q => q.group == g && q.reduction == r) && x.waitsDone g r then s.redMiss p h g r
  else if x.trailers.contains (key, src) then s
  else
    s.modHolding h fun y =>
      { y with trailers := y.trailers ++ [(key, src)]
               norms := recs.foldl (fun t q => Tab.modify {} t q.layer.val fun a =>
                 { a with wsq := a.wsq + q.wsq, gsq := a.gsq + q.gsq, usq := a.usq + q.usq, wnf := a.wnf || q.wnf
                          trailers := a.trailers + 1 }) y.norms }

/-- The home of a preconditioner block: the place of its first value in the entry. -/
def UpdateEntry.blockFirst (e : UpdateEntry) (q : Nat) : Nat :=
  let across := max (e.cols / max e.bc 1) 1
  q / across * e.br * e.cols + q % across * e.bc
def UpdateEntry.blockOf (e : UpdateEntry) (rel : Nat) : Nat :=
  rel / max e.cols 1 / max e.br 1 * max (e.cols / max e.bc 1) 1 + rel % max e.cols 1 / max e.bc 1
def UpdateEntry.blocks (e : UpdateEntry) : Nat := e.rows / max e.br 1 * (e.cols / max e.bc 1)
def UpdateEntry.homeChunk (e : UpdateEntry) (q : Nat) : Nat := (e.firstValue + e.blockFirst q) / chunkValues

/-- Every gather that this device owes for a reduction has left. -/
def Dev.gathersDone (s : Dev) (h : HoldId) (w : RedWindow) : Bool :=
  let x := s.holding h
  let pol := w.policy
  let flits := fun c => ceilDiv (pol.valuesIn c * pol.gatherSize) 224
  let chunksDone := (pol.ownChunks w.members s.number).all fun c =>
    x.frozenChunk w.group w.reduction c pol || x.orphan w.group w.reduction c pol w.members ||
      x.windows.any fun v => v.group == w.group && v.reduction == w.reduction && v.step == w.step && x.rankPort c == some v.port
        && decide (flits c ≤ (v.chunk c).sent.length)
  let homesDone := x.entries.all fun q =>
    match q.2 with
    | some e => e.group != w.group || e.reduction != w.reduction || e.rule != 3 || e.frozen ||
        (List.range e.blocks).all fun b =>
          pol.owner w.members (e.homeChunk b) != some s.number
            || x.precond.any fun z => z.entry == q.1 && z.block == b && z.done
    | none => true
  chunksDone && homesDone

/-- After the last gather of a reduction the trailer leaves. -/
def Dev.sendTrailer (s : Dev) (p : PortId) (h : HoldId) (w : RedWindow) : Dev :=
  let x := s.holding h
  let g := w.group
  let r := w.reduction
  if x.trailers.contains (polKey g r, s.number) || !s.gathersDone h w then s
  else
    let recs := (x.layersOf g r).map fun l =>
      let a := Tab.get {} x.ownNorms (normKey g r l)
      ({ layer := Fin.ofNat 256 l, wnf := a.wnf, wsq := a.wsq, gsq := a.gsq, usq := a.usq } : TrailerRec)
    let dst := (w.members.live.map fun i => nthD w.members.members i 0).filter fun m => m != s.number
    let s1 := dst.foldl (fun d m => d.sendFrom p m 1 (.holding h) (.trailer h g r recs) []) s
    s1.takeTrailer p h g r s.number recs

/-! ### Block preconditioning (R370 to R374) -/

/-- A matrix as rows of values. -/
abbrev Mat := List (List Val)

def matOf (rows cols : Nat) (bs : List PByte) : Mat :=
  (List.range rows).map fun i => (List.range cols).map fun j => f32 (wordAt bs (i * cols + j)).val
def transpose (n : Nat) (a : Mat) : Mat := (List.range n).map fun j => a.map fun row => nthD row j Val.zero
def matBytes (a : Mat) : List PByte := a.flatMap fun row => row.flatMap fun v => wordBytes (toF32 v)

/-- A chain of fma from +0 in ascending inner index, and its saturations. -/
def dotChain : Val × Nat → List Val → List Val → Val × Nat
  | acc, a :: t, b :: u => let z := opFma a b acc.1; dotChain (z.1, acc.2 + z.2) t u
  | acc, _, _ => acc

/-- The product of two matrices, the second one given by its columns. -/
def matMul (a bT : Mat) : List (List (Val × Nat)) := a.map fun row => bT.map fun col => dotChain (Val.zero, 0) row col
def values2 (m : List (List (Val × Nat))) : Mat := m.map fun row => row.map (·.1)
def sats2 (m : List (List (Val × Nat))) : Nat := (m.map fun row => (row.map (·.2)).sum).sum

/-- fma(b2, old, round(ob2 × new)), element by element. -/
def blendMat (b ob : Val) (old new : Mat) : List (List (Val × Nat)) :=
  (old.zip new).map fun q => (q.1.zip q.2).map fun z =>
    let a := opMul ob z.2
    let m := opFma b z.1 a.1
    (m.1, a.2 + m.2)

/-- A row of a preconditioner block. -/
def rowSpan (e : UpdateEntry) (q i : Nat) (gs : List Val) : Span := { entry := e, rel := e.blockFirst q + i * e.cols, gs := gs }

/-- The rows of a block, read in order. -/
def readRows (e : UpdateEntry) (q : Nat) (a : Agent) (full : Bool) : List Nat → Run → List SpanData × Run
  | [], r => ([], r)
  | i :: rest, r =>
    let x := (rowSpan e q i (List.replicate e.bc Val.zero)).read a full r
    let y := readRows e q a full rest x.2
    (x.1 :: y.1, y.2)

/-- The factors in force and the statistics of a block (R370). -/
structure Factors where
  s : List PByte
  t : List PByte
  sl : List PByte
  sr : List PByte
  deriving DecidableEq, Repr

def factorBase (e : UpdateEntry) (q : Nat) : Nat := e.factorVa + q * 12 * (e.br * e.br + e.bc * e.bc)
def statBase (e : UpdateEntry) (q : Nat) : Nat := factorBase e q + 8 * (e.br * e.br + e.bc * e.bc)

def readFactors (e : UpdateEntry) (q : Nat) (a : Agent) (r : Run) : Factors × Run :=
  let nl := 4 * e.br * e.br
  let nr := 4 * e.bc * e.bc
  let base := factorBase e q + e.factorSlot * (nl + nr)
  let s := r.read a base nl
  let t := s.2.read a (base + nl) nr
  let sl := t.2.read a (statBase e q) nl
  let sr := sl.2.read a (statBase e q + nl) nr
  (⟨s.1, t.1, sl.1, sr.1⟩, sr.2)

/-- A factor element that is poisoned or not finite. -/
def Factors.bad (f : Factors) : Bool :=
  (f.s ++ f.t).any (·.poison) || (List.range ((f.s ++ f.t).length / 4)).any fun i => !(f32 (wordAt (f.s ++ f.t) i).val).isFinite

/-- The new elements and statistics of a finite block. -/
def homeUpdate (x : Holding) (e : UpdateEntry) (q : Nat) (gs : Mat) (rows : List SpanData) (f : Factors) :
    List (List Elem) × Mat × Mat × Nat :=
  let y := x.hyper e.hyper
  let rel := fun i j => e.blockFirst q + i * e.cols + j
  let cell := fun (m : Mat) i j => nthD (nthD m i []) j Val.zero
  let data := fun i => nthD rows i ⟨[], [], []⟩
  let out := fun i j => x.maskedOut e (rel i j)
  let ice := fun i j => (data i).frozen (rel i 0) j
  let grid := fun (f : Nat → Nat → Val × Nat) => (List.range e.br).map fun i => (List.range e.bc).map fun j => f i j
  let b1 := f32 y.b1
  let b2 := f32 y.b2
  let ob1 := opRound (one.add b1.negate)
  let ob2 := opRound (one.add b2.negate)
  let g0 := grid fun i j => if out i j || ice i j then (Val.zero, 0) else opMul (f32 y.gscale) (cell gs i j)
  let G := values2 g0
  let m1 := grid fun i j =>
    let a := opMul ob1.1 (cell G i j)
    let z := opFma b1 (f32 (wordAt (data i).state j).val) a.1
    (z.1, a.2 + z.2)
  let M := values2 m1
  let GT := transpose e.bc G
  let ggt := matMul G G
  let gtg := matMul GT GT
  let sl := blendMat b2 ob2.1 (matOf e.br e.br f.sl) (values2 ggt)
  let sr := blendMat b2 ob2.1 (matOf e.bc e.bc f.sr) (values2 gtg)
  let sm := matMul (matOf e.br e.br f.s) (transpose e.bc M)
  let smt := matMul (values2 sm) (transpose e.bc (matOf e.bc e.bc f.t))
  let P := values2 smt
  let els := (List.range e.br).map fun i => (List.range e.bc).map fun j =>
    let w := wordAt (data i).params j
    let keep : Elem := { w := w, write := none, norm := id }
    if out i j then { keep with w := ⟨0, false⟩, write := some (0, [0]), masked := true }
    else if ice i j then { keep with frozen := true, norm := fun a => a.weight (f32 w.val) }
    else
      let z := applyStep (f32 y.lr) (f32 w.val) (opFma (f32 y.wd) (f32 w.val) (cell P i j))
      let m := cell M i j
      if z.1.isNan || z.2.1.isNan || m.isNan then { keep with nan := true, sats := z.2.2 }
      else
        { w := ⟨toF32 z.1, false⟩, write := some (toF32 z.1, [toF32 m]), updated := true, sats := z.2.2
          norm := fun a => (a.weight z.1).update (cell gs i j) z.2.1 }
  (els, values2 sl, values2 sr, sats2 g0 + sats2 m1 + sats2 ggt + sats2 gtg + sats2 sl + sats2 sr + sats2 sm + sats2 smt)

/-- The kind of a preconditioner block from its forwarded values: none stands for a value of a block of COUNT 0. -/
def homeKind (vs : List (Nat × Option PWord)) : BlockKind :=
  if vs.any fun v => v.2.any (·.poison) then .poison
  else if vs.any fun v => v.2.any fun w => !(f32 w.val).isFinite then .nonfinite
  else if vs.any fun v => v.2.isNone then .empty
  else .finite

/-- Gathers the rows of a preconditioner block, cut at chunks and flits. -/
def Dev.gatherRow (s : Dev) (p : PortId) (h : HoldId) (w : RedWindow) (first : Nat) (els : List Elem) : Dev :=
  let f := w.policy.gatherFmt
  let size := max w.policy.gatherSize 1
  let outs := els.map fun z => gatherBytes f z.w
  let s1 := s.countGather p h f (outs.map (·.2))
  let per := 224 / size
  let flitOf := fun v => (v / chunkValues, v % chunkValues / per)
  let starts := (List.range els.length).filter fun i => i == 0 || flitOf (first + i) != flitOf (first + i - 1)
  starts.foldl (fun d i =>
    let n := ((List.range (els.length - i)).takeWhile fun j => flitOf (first + i + j) == flitOf (first + i)).length
    let v := first + i
    d.sendPiece p h w (v / chunkValues) (v % chunkValues * size)
      ((List.range n).flatMap fun j => (nthD outs (i + j) ([], ⟨0, false, false⟩)).1)) s1

/-- The update of a preconditioner block whose values are all present; none while a read must wait. -/
def Dev.runHome (s : Dev) (p : PortId) (h : HoldId) (w : RedWindow) (e : UpdateEntry) (z : PrecondWait) : Option Dev :=
  let a := linkAgent p h
  let x := s.holding h
  let kind0 := if e.bad then .poison else homeKind z.values
  let gs : Mat := (List.range e.br).map fun i => (List.range e.bc).map fun j =>
    match z.values.find? fun v => v.1 == e.blockFirst z.block + i * e.cols + j with
    | some (_, some q) => f32 q.val
    | _ => Val.zero
  let full := kind0 == .finite
  let rows := readRows e z.block a full (List.range e.br) { dev := s }
  let facs : Factors × Run := if full then readFactors e z.block a rows.2 else (⟨[], [], [], []⟩, rows.2)
  if facs.2.wait then none
  else
    let factorBad := full && facs.1.bad
    let kind : BlockKind :=
      if (full && (factorBad || (facs.1.sl ++ facs.1.sr).any (·.poison))) ||
          ((full || kind0 == .empty) && rows.1.any SpanData.poisoned) then .poison else kind0
    let s1 := if factorBad then facs.2.dev.count (some h) (hrwReg p 0x58) 1 else facs.2.dev
    let s2 := s1.skipBlock p h kind
    let up := homeUpdate x e z.block gs rows.1 facs.1
    let els : List (List Elem) :=
      if kind = .finite then up.1
      else (List.range e.br).map fun i =>
        let q := rowSpan e z.block i (List.replicate e.bc Val.zero)
        (List.range e.bc).map fun j => q.element x (nthD rows.1 i ⟨[], [], []⟩) kind j
    let s3 := if kind = .finite then
        let s4 := (List.range e.br).foldl (fun d i =>
          (rowSpan e z.block i (List.replicate e.bc Val.zero)).write a (nthD rows.1 i ⟨[], [], []⟩) (nthD els i []) d) s2
        let s5 := (s4.writeVa a true (statBase e z.block) (matBytes up.2.1)).writeVa a true
          (statBase e z.block + 4 * e.br * e.br) (matBytes up.2.2.1)
        let s6 := if up.2.2.2 = 0 then s5 else s5.countNum (some h) (hrwReg p 0x108) up.2.2.2
        s6.count (some h) (hrwReg p 0x60) (ceilDiv (2 * e.br * e.bc * (e.br + e.bc)) 4096)
      else s2
    let s7 := s3.tallyElems p h (normKey w.group w.reduction e.layer) els.flatten
    let s8 := s7.modHolding h fun y =>
      { y with precond := y.precond.map fun v => if v.entry = z.entry ∧ v.block = z.block then { v with done := true } else v }
    some ((List.range e.br).foldl (fun d i =>
      d.gatherRow p h w (e.firstValue + e.blockFirst z.block + i * e.cols) (nthD els i [])) s8)

/-- Runs the homes of a link die that hold all their values. -/
def Dev.runHomes (s : Dev) (p : PortId) (h : HoldId) : Dev :=
  let x := s.holding h
  x.precond.foldl (fun d z =>
    if z.done || z.port != p then d
    else
      match Tab.get none x.entries z.entry with
      | none => d
      | some e =>
        match (x.windowsOf p e.group e.reduction).getLast? with
        | none => d
        | some (_, w) =>
          if z.values.length < e.br * e.bc then d
          else
            match d.runHome p h w e z with
            | some d1 => d1.sendTrailer p h w
            | none => d) s

/-- Values for a preconditioner block at its home. -/
def Dev.takeForward (s : Dev) (p : PortId) (h : HoldId) (entry block first : Nat) (vs : List (Option PWord)) : Dev :=
  let add := (List.range vs.length).map fun i => (first + i, nthD vs i none)
  s.modHolding h fun x =>
    let l := if x.precond.any fun z => z.entry == entry && z.block == block then x.precond
      else x.precond ++ [{ port := p, entry := entry, block := block, values := [], done := false }]
    { x with precond := l.map fun z =>
        if z.entry = entry ∧ z.block = block ∧ z.done = false then
          { z with values := z.values ++ add.filter fun v => !(z.values.any fun u => u.1 == v.1) }
        else z }

/-- Forwards the values of a block that lie under RULE 3 to their homes. -/
def Dev.forward (s : Dev) (p : PortId) (h : HoldId) (w : RedWindow) (entry : Nat) (e : UpdateEntry) (rel : Nat)
    (vs : List (Option PWord)) : Dev :=
  let starts := (List.range vs.length).filter fun i => i == 0 || e.blockOf (rel + i) != e.blockOf (rel + i - 1)
    || (rel + i) % max e.cols 1 == 0
  let stop := fun i => ((starts.find? fun j => decide (i < j)).getD vs.length) - i
  starts.foldl (fun d i =>
    let q := e.blockOf (rel + i)
    let part := (vs.drop i).take (stop i)
    let c := e.homeChunk q
    match w.policy.owner w.members c with
    | none => d
    | some dst =>
      if dst = d.number then d.takeForward (((d.holding h).rankPort c).getD p) h entry q (rel + i) part
      else d.sendFrom p dst 1 (.holding h) (.forward h entry q (rel + i) part) []) s

/-! ### HARROW_BLOCK (R365) -/

/-- The runs of a block's values under one covering: the entry, or none. -/
def Holding.spans (x : Holding) (g r first n : Nat) : List (Nat × Nat × Option (Nat × UpdateEntry)) :=
  let at' := fun i => x.entryAt g r (first + i)
  let starts := (List.range n).filter fun i => i == 0 || (at' i).map (·.1) != (at' (i - 1)).map (·.1)
  starts.map fun i =>
    (i, ((List.range (n - i)).takeWhile fun j => (at' (i + j)).map (·.1) == (at' i).map (·.1)).length, at' i)

/-- What the Harrow forms for a block: spans with what was read for them. -/
def readSpans (a : Agent) (full : Bool) (gs : List Val) :
    List (Nat × Nat × Option (Nat × UpdateEntry)) → Nat → Run → List (Nat × Nat × Option (UpdateEntry × SpanData)) × Run
  | [], _, r => ([], r)
  | (i, n, o) :: rest, first, r =>
    match o with
    | some (_, e) =>
      if e.rule = 3 then readSpans a full gs rest first r
      else
        let q : Span := { entry := e, rel := first + i - e.firstValue, gs := (gs.drop i).take n }
        let x := q.read a (full && !e.bad) r
        let y := readSpans a full gs rest first x.2
        ((i, n, some (e, x.1)) :: y.1, y.2)
    | none =>
      let y := readSpans a full gs rest first r
      ((i, n, none) :: y.1, y.2)

/-- The word with which a value that no entry covers is gathered: the reduced value; free where the block holds
none. -/
def plainWord (kind : BlockKind) (g : Val) (s : Dev) : PWord × Dev :=
  match kind with
  | .empty =>
    let v := s.takeFree
    (⟨v.1.setWidth 32, false⟩, v.2)
  | .poison =>
    let v := s.takeFree
    (⟨v.1.setWidth 32, true⟩, v.2)
  | _ => (⟨toF32 g, false⟩, s)

def plainWords (kind : BlockKind) : List Val → Dev → List PWord × Dev
  | [], s => ([], s)
  | g :: t, s =>
    let x := plainWord kind g s
    let y := plainWords kind t x.2
    (x.1 :: y.1, y.2)

/-- Puts the gathered words of a span into the chunk. -/
def Dev.putOut (s : Dev) (p : PortId) (h : HoldId) (i c first : Nat) (ws : List PWord) : Dev :=
  match s.window h i with
  | none => s
  | some w =>
    let f := w.policy.gatherFmt
    let outs := ws.map (gatherBytes f)
    let k := w.chunk c
    let k1 := { k with out := (List.range outs.length).foldl (fun t j =>
      Tab.set [] t (first + j) (nthD outs j ([], ⟨0, false, false⟩)).1) k.out }
    (s.setWindow h i (w.setChunk k1)).countGather p h f (outs.map (·.2))

/-- HARROW_BLOCK: the Harrow takes a final block. -/
def Dev.harrowBlock (s : Dev) (p : PortId) (h : HoldId) (g r c b : Nat) : Dev :=
  let x := s.holding h
  let wanted := fun (w : RedWindow) =>
    let q := Tab.get {} (w.chunk c).blocks b
    q.final && !q.taken
  match (x.windowsOf p g r).find? fun q => wanted q.2 with
  | none => s.runHomes p h
  | some (i, w) =>
    let a := linkAgent p h
    let k := w.chunk c
    let q := Tab.get {} k.blocks b
    let kind := q.kind
    let first := c * chunkValues + b * 64
    let n := min 64 (w.policy.valuesIn c - b * 64)
    let vals := s.blockValues p h w c b
    let gs := (vals.1.map (·.1)).take n
    let sats := ((vals.1.take n).map (·.2)).sum
    let spans := x.spans g r first n
    let rd := readSpans a (kind == .finite) gs spans first { dev := vals.2 }
    if rd.2.wait || s.stagingHeld p h w c b then s
    else
      let bad := (kind == .finite || kind == .empty) && rd.1.any fun z => z.2.2.any fun d => d.2.poisoned
      let covered := !(rd.1.all fun z => z.2.2.isNone)
      let eff : BlockKind := if bad then .poison else kind
      let s1 := rd.2.dev.setWindow h i (w.setChunk { k with blocks := Tab.set {} k.blocks b { q with taken := true } })
      let s2 := if kind = .empty then s1.count (some h) (redReg p 0x38) 1 else s1
      let s3 := if sats = 0 then s2 else s2.countNum (some h) (redReg p 0x108) sats
      let s4 := if kind = .nonfinite then s3.countNum (some h) (redReg p 0x10C) 1 else s3
      let under := fun (e : UpdateEntry) => if e.bad && eff != .nonfinite then BlockKind.poison else eff
      let s5 := if covered then
          s4.skipBlock p h (if rd.1.any fun z => z.2.2.any fun d => d.1.bad then (if eff = .nonfinite then .nonfinite else .poison) else eff)
        else s4
      let s6 := rd.1.foldl (fun d z =>
        match z.2.2 with
        | none =>
          let ws := plainWords kind ((List.range z.2.1).map fun j => nthD gs (z.1 + j) Val.zero) d
          (ws.2.count (some h) (hrwReg p 0x10) z.2.1).putOut p h i c (b * 64 + z.1) ws.1
        | some (e, data) =>
          let sp : Span := { entry := e, rel := first + z.1 - e.firstValue, gs := (gs.drop z.1).take z.2.1 }
          let els := (List.range z.2.1).map fun j => sp.element x data (under e) j
          let d1 := (sp.write a data els d).tallyElems p h (normKey g r e.layer) els
          d1.putOut p h i c (b * 64 + z.1) (els.map (·.w))) s5
      let s7 := spans.foldl (fun d z =>
        match z.2.2 with
        | some (num, e) =>
          if e.rule ≠ 3 then d
          else
            let vs := (List.range z.2.1).map fun j =>
              match kind with
              | .empty => none
              | .poison => some (⟨0, true⟩ : PWord)
              | _ => some ⟨toF32 (nthD gs (z.1 + j) Val.zero), false⟩
            d.forward p h w num e (first + z.1 - e.firstValue) vs
        | none => d) s6
      let per := 224 / max w.policy.gatherSize 1
      let s8 := s7.sendFlits p h i c
        ((List.range ((b * 64 + n - 1) / per + 1 - b * 64 / per)).map fun j => b * 64 / per + j)
      (s8.sendTrailer p h w).runHomes p h

/-- FORWARD_DEADLINE: a forward is still missing DATA_WINDOW ticks after the home's own data deadline (R371). -/
def Dev.forwardDeadline (s : Dev) (p : PortId) (h : HoldId) (entry block : Nat) : Dev :=
  let x := s.holding h
  match Tab.get none x.entries entry with
  | none => s
  | some e =>
    match (x.windowsOf p e.group e.reduction).head? with
    | none => s
    | some (_, w) =>
      let z := (x.precond.find? fun v => v.entry == entry && v.block == block).getD
        { port := p, entry := entry, block := block, values := [], done := false }
      if z.done || decide (e.br * e.bc ≤ z.values.length) || e.rule != 3 || decide (e.blocks ≤ block) || z.port != p then s
      else
        let s1 := (s.advanceTo (w.dataEnd + BitVec.ofNat 64 w.policy.dataWindow)).count (some h) (hrwReg p 0x50) 1
        let s2 := s1.modHolding h fun y =>
          { y with precond := (y.precond.filter fun v => v.entry != entry || v.block != block) ++ [{ z with done := true }] }
        s2.sendTrailer p h w

/-- The trailers that an owner owes without a gather: of a reduction in which every chunk of its own is frozen or has no
contributor, they leave when its first REDUCE starts (R376; DESIGN CHOICE of the moment, notes/assumptions/123). -/
def Dev.emptyTrailers (s : Dev) (h : HoldId) : Dev :=
  (s.holding h).reduces.foldl (fun d q =>
    let x := d.holding h
    match x.policy q.group q.reduction, x.members? q.group with
    | some pol, some k =>
      if q.started && q.ahead == 0 && (pol.ownSlots k).any fun i => nthD k.members i 0 == d.number then
        d.sendTrailer 0 h { port := 0, group := q.group, reduction := q.reduction, openAt := d.dt, step := x.step, policy := pol
                            members := k, scaleClosed := true, dataClosed := true, chunks := [] }
      else d
    | _, _ => d) s

/-! ### The commands -/

def execReduce (c : CoreId) (s : State) : Host.Outcome State Fault Refusal :=
  let d := s.dev.runPhased c 6 [0] (reduceBody c)
  work s (s.dev.netScope (allHoldings.foldl Dev.emptyTrailers d))

def execNormTrailer (p : PortId) (h : HoldId) (g r : Fin 256) (src : Sender) (recs : List TrailerRec) (s : State) :
    Host.Outcome State Fault Refusal :=
  work s (s.dev.coreScope (s.dev.unlessStale src (s.dev.takeTrailer p h g.val r.val src.device recs)))
def execHarrowBlock (p : PortId) (h : HoldId) (c : ChunkRef) (block : Nat) (s : State) : Host.Outcome State Fault Refusal :=
  work s (s.dev.netScope (s.dev.harrowBlock p h c.group.val c.reduction.val c.chunk block))
def execPrecondForward (p : PortId) (h : HoldId) (entry : Fin 4096) (block first : Nat) (vs : List (Option PWord)) (s : State) :
    Host.Outcome State Fault Refusal :=
  work s (s.dev.netScope ((s.dev.takeForward p h entry.val block first vs).runHomes p h))
def execForwardDeadline (p : PortId) (h : HoldId) (entry : Fin 4096) (block : Nat) (s : State) :
    Host.Outcome State Fault Refusal :=
  let d := s.dev.forwardDeadline p h entry.val block
  work s { s.dev.netScope d with dt := d.dt }

end Sys2Proof.Machine
end

