-- ==== Sys2Proof/Machine/Boundary.lean ====
section
/-! DEFINITION. The STEP boundary (R201, R212, R447): the writes and the record that close a step, the tables that come
into force, the replica digest and its vote (R398 to R401), and the start of a mirror generation (R404). -/

namespace Sys2Proof.Machine

open Sys2Proof

/-! ### When a boundary is reached (R201, R212) -/

/-- Every stage stands at its STEP fence, every tile is retired, and every write has reached its controller. A holding
that a verdict rolls back stays at its fences (R401). -/
def Dev.boundaryReady (s : Dev) (h : HoldId) : Bool :=
  let x := s.holding h
  (x.state == .enabled || x.state == .shuttingDown) && !x.rollback && s.gotreRuns && !x.stages.isEmpty
    && x.stages.all (fun g => g.runsOn.isSome && g.atStep)
    && x.counters.all (fun k => k.openTiles.isEmpty) && !s.writesHeld h

/-- The reads of a digest that the boundary forms must still wait (R228, R238, R384, R399). -/
def Dev.digestHeld (s : Dev) (h : HoldId) : Bool :=
  let x := s.holding h
  let p := x.digest
  p.every != 0 && (x.step + 1).toNat % p.every == 0 &&
    p.ranges.any fun r => s.inHeld (ctlAgent h) r.2.2 (r.2.1 * 4096)

/-! ### What a boundary writes (R293, R377) -/

def plainBytes (bs : List Byte) : List PByte := bs.map fun b => ⟨b, false⟩

/-- The step's counts of each home queue. -/
def Dev.writeStepCounts (s : Dev) (h : HoldId) : Dev :=
  let x := s.holding h
  x.queues.foldl (fun d q =>
    d.writeVa (ctlAgent h) false (x.counterVa + q.queue * 16)
      (plainBytes ([q.routed, q.accepted, q.overflowed, q.returned].flatMap fun n => le32 (stop32 n)))) s

/-- The 32 bytes of a layer's norms. -/
def normBytes (a : NormAcc) : List Byte :=
  le64 (normF64 a.wsq) ++ le64 (normF64 a.gsq) ++ le64 (normF64 a.usq) ++ le32 a.trailers
  ++ [BitVec.ofNat 8 ((if a.wnf then 1 else 0) + if a.incomplete then 2 else 0), 0, 0, 0]

/-- The norms of every layer, once an area has been given. -/
def Dev.writeNorms (s : Dev) (h : HoldId) : Dev :=
  let x := s.holding h
  if x.normVa = 0 then s
  else s.writeVa (ctlAgent h) false x.normVa (plainBytes ((List.range 256).flatMap fun l => normBytes (Tab.get {} x.norms l)))

/-! ### Tables that come into force -/

def Holding.enterLayer (x : Holding) (n : Nat) (l : Layer) (qs : List HomeQueue) (va : Nat) : Holding :=
  let keep := fun (q : HomeQueue) =>
    match x.queues.find? fun o => o.queue == q.queue with
    | some o => { q with capacity := min o.capacity q.queueRows, spillCapacity := min o.spillCapacity q.spillRows
                         routed := o.routed, accepted := o.accepted, overflowed := o.overflowed, returned := o.returned }
    | none => q
  let others := x.queues.filter fun o => o.layer != n && !(qs.any fun q => q.queue == o.queue)
  { x with layers := Tab.set none x.layers n (some l), queues := others ++ qs.map keep, counterVa := va }

/-- One accepted table write. A stage table is placed apart, on the cores. -/
def Holding.applyWrite (x : Holding) (w : TableWrite) : Holding :=
  match w with
  | .stages _ _ => x
  | .experts n l qs va => x.enterLayer n l qs va
  | .capacity q c s => x.modQueue q fun o => { o with capacity := c, spillCapacity := s }
  | .collective g ms => { x with collectives := Tab.set none x.collectives g (some { members := ms, dead := [] }) }
  | .policy r p => { x with policies := Tab.set none x.policies (polKey p.group r) (some p) }
  | .update va es ss =>
    { x with normVa := va.getD x.normVa
             entries := es.foldl (fun t e => Tab.set none t e.1 e.2) x.entries
             hypers := ss.foldl (fun t y => Tab.set {} t y.1 y.2) x.hypers }
  | .mask n m => { x with masks := Tab.set none x.masks n (some m) }
  | .digest p => { x with digest := p }
  | .dead g is =>
    match Tab.get none x.collectives g with
    | none => x
    | some k => { x with collectives := Tab.set none x.collectives g
                           (some { k with dead := is.foldl (fun l i => insertSorted i l) k.dead }) }

/-- The tables as they will stand at the next boundary. -/
def Holding.ahead (x : Holding) : Holding := x.waiting.foldl Holding.applyWrite x

/-- The last stage table that waits. -/
def Holding.nextStages (x : Holding) : Option (List StageDef × List (Nat × List Nat)) :=
  (x.waiting.filterMap fun w => match w with | .stages ds rs => some (ds, rs) | _ => none).getLast?

/-- Devices that a verdict has expelled, among the writes that wait. -/
def Holding.expelled (x : Holding) : List (BitVec 16) :=
  x.waiting.flatMap fun w =>
    match w with
    | .dead g is =>
      match Tab.get none x.collectives g with
      | some k => is.filterMap fun i => k.members[i]?
      | none => []
    | _ => []

/-! ### Update entries at a boundary (R363, R369) -/

/-- An exact power of a value. -/
def powVal (v : Val) (n : Nat) : Val :=
  match v with
  | .fin g m e => .fin (g && n % 2 = 1) (m ^ n) (e * n)
  | .inf g => if n = 0 then one else .inf (g && n % 2 = 1)
  | .nan g => .nan g

/-- 1 ÷ (1 − B^t), correctly rounded to FP32. -/
def biasFactor (b : Word32) (t : Nat) : Word32 := toF32 (one.div (one.add (powVal (f32 b) t).negate))

/-- A mask of another shape than the entry's, or none at all. -/
def Holding.maskMismatch (x : Holding) (e : UpdateEntry) : Bool :=
  e.maskEn &&
    match Tab.get none x.masks e.maskNum with
    | some m => m.rows != e.rows || m.cols != e.cols
    | none => true

def Holding.openEntry (x : Holding) (e : UpdateEntry) : UpdateEntry :=
  let y := x.hyper e.hyper
  let t := e.t0 + e.steps + 1
  { e with steps := e.steps + 1, c1 := biasFactor y.b1 t, c2 := biasFactor y.b2 t, bad := x.maskMismatch e }

def Dev.openEntries (s : Dev) (h : HoldId) : Dev :=
  let s1 := s.modHolding h fun x => { x with entries := x.entries.map fun p => (p.1, p.2.map x.openEntry) }
  let n := ((s1.holding h).entries.filter fun p => p.2.any (·.bad)).length
  match (s1.holding h).ranks.head? with
  | some j => if n = 0 then s1 else s1.count (some h) (hrwReg (Fin.ofNat 8 j) 0x48) n
  | none => s1

/-- The chunks that this device owns at a link die and that lie wholly in a FROZEN entry, over every reduction in force. -/
def Holding.frozenAt (x : Holding) (me : BitVec 16) (j : Nat) : Nat :=
  (x.policies.map fun q =>
    match q.2 with
    | none => 0
    | some pol =>
      match x.members? pol.group with
      | none => 0
      | some k =>
        let r := q.1 % 256
        if x.entries.all fun e => e.2.all fun u => !u.frozen || u.group != pol.group || u.reduction != r then 0
        else ((pol.ownChunks k me).filter fun c =>
          x.frozenChunk pol.group r c pol && x.rankPort c == some (Fin.ofNat 8 j)).length).sum

/-- HRW_FROZEN_CHUNK takes the frozen chunks of the step that opens, once (R364; DEDUCED, notes/assumptions/123). -/
def Dev.countFrozen (s : Dev) (h : HoldId) : Dev :=
  (s.holding h).ranks.foldl (fun d j =>
    let n := (d.holding h).frozenAt d.number j
    if n = 0 then d else d.count (some h) (hrwReg (Fin.ofNat 8 j) 0x38) n) s

/-! ### Registers with the STEP apply point (R463, R464) -/

def Dev.applySlots (s : Dev) (as : List Nat) : Dev :=
  as.foldl (fun d a =>
    match Tab.get none d.slots a with
    | some v => { d.setReg a v with slots := Tab.set none d.slots a none }
    | none => d) s

/-! ### Replica digests and the vote (R399 to R401) -/

/-- The blocks of a layer's ranges by rising address. -/
def DigestPolicy.blocksOf (p : DigestPolicy) (layer : Nat) : List Nat :=
  (p.ranges.filter fun r => r.1 == layer).foldl (fun l r =>
    (List.range r.2.1).foldl (fun t i => insertSorted (r.2.2 + i * 4096) t) l) []

def zeroBlockCrc : Nat := 0xC71C0011

/-- What a block gives its layer's digest: its CRC, and whether it is poisoned. The tag is read as R231 has every request of
the holding; a block that no tier holds is poisoned; a fault of its address is the control die's (R248, R250). -/
def Dev.blockDigest (s : Dev) (h : HoldId) (va : Nat) : Nat × Bool × Dev :=
  let x := s.xlate (ctlAgent h) va false
  let s1 := x.2
  match x.1 with
  | .mem pa _ =>
    let b := pa / 4096
    let k := (s1.place pa).stack
    let t := s1.tag b
    let o := Owner.holding h
    let s2 := s1.crossTo (ctlAgent h) pa
    if s1.stackLost k then freeCrc (s2.offlineAccess k o)
    else
      let s3 := s2.tagRead k o
      if t.owner != o then freeCrc ((s3.countMem k o 0x68 1).event (memEvent k) 0x40)
      else if t.zero then (zeroBlockCrc, false, s3)
      else if s.staleEpoch o t.epoch then freeCrc ((s3.countMem k o 0x70 1).event (memEvent k) 0x80)
      else if t.crcOff then
        let r := s3.unitRead (ctlAgent h) pa 4096
        ((crc32c (r.1.map (·.val))).toNat, r.1.any (·.poison), r.2)
      else (t.crc.toNat, t.poison || (blockSectors b).any fun i => Tab.get false s1.secPoison i, s3)
  | .host _ => freeCrc s1
  | .fault k => freeCrc (s1.accessFault (ctlAgent h) va false k)
where
  /-- A tag that a request does not get: no rule gives the field's place in the digest a value, and the digest is poisoned
  (DESIGN CHOICE, notes/assumptions/147). -/
  freeCrc (d : Dev) : Nat × Bool × Dev :=
    let v := d.takeFree
    ((v.1.setWidth 32).toNat, true, v.2)

/-- A layer's digest with its poison mark. -/
def Dev.layerDigest (s : Dev) (h : HoldId) (layer : Nat) : (Word64 × Bool) × Dev :=
  let r := ((s.holding h).digest.blocksOf layer).foldl (fun (a : List Byte × Bool × Dev) va =>
    let b := a.2.2.blockDigest h va
    (a.1 ++ le32 b.1, a.2.1 || b.2.1, b.2.2)) ([], false, s)
  ((crc64 r.1, r.2.1), r.2.2)

def Dev.layerDigests (s : Dev) (h : HoldId) : List Nat → List (Word64 × Bool) × Dev
  | [] => ([], s)
  | l :: rest =>
    let a := s.layerDigest h l
    let b := a.2.layerDigests h rest
    (a.1 :: b.1, b.2)

/-- The group that votes, if it is in force and this device is one of its live members. -/
def Dev.voters (s : Dev) (h : HoldId) : Option Collective :=
  let x := s.holding h
  match Tab.get none x.collectives x.digest.group with
  | some k => match k.slot? s.number with
    | some i => if k.dead.contains i then none else some k
    | none => none
  | none => none

/-- The live slots' devices; the first is the coordinator. -/
def Collective.liveDevices (k : Collective) : List (BitVec 16) := k.live.map fun i => nthD k.members i 0

/-- The majority value of a layer among n live slots: an unpoisoned digest that more than half hold. -/
def majority (n : Nat) (vs : List (Word64 × Bool)) : Option Word64 :=
  let good := (vs.filter fun v => !v.2).map (·.1)
  good.find? fun d => decide (n < 2 * (good.filter (· == d)).length)

/-- The verdict over the records of the live slots (R400). -/
def verdictOf (k : Collective) (layers : Nat) (recs : List DigestRec) : Verdict :=
  let n := k.live.length
  let best := (List.range layers).map fun i => majority n (recs.map fun r => nthD r.layers i (0, true))
  if best.any (·.isNone) then .rollback
  else
    let odd := fun (r : DigestRec) => (List.range layers).any fun i =>
      let v := nthD r.layers i (0, true)
      v.2 || some v.1 != nthD best i none
    let slots := k.live.filter fun i => recs.any fun r => some r.src == k.members[i]? && odd r
    if slots.isEmpty then .clean else .expel slots

/-- A member acts on the verdict of its vote (R401). -/
def Dev.actOn (s : Dev) (h : HoldId) (v : Verdict) : Dev :=
  let x := s.holding h
  let s1 := s.modHolding h fun y => { y with vote := none }
  let step := (x.vote.map (·.step)).getD x.step
  match v with
  | .clean => s1
  | .rollback =>
    let s2 := ((s1.count (some h) (regAt ctl 0x16018) 1).event (regAt ctl 0x100) 16).rollbackEvent h step
    s2.modHolding h fun y => { y with rollback := true, totals := { y.totals with rollback := true } }
  | .expel odd =>
    let s2 := (s1.count (some h) (regAt ctl 0x16010) 1).event (regAt ctl 0x100) 8
    match Tab.get none x.collectives x.digest.group with
    | none => s2
    | some k =>
      if odd.any (fun i => k.members[i]? == some s.number) then s2.abortHolding h
      else
        let s3 := s2.modHolding h fun y => { y with waiting := y.waiting ++ [.dead x.digest.group odd] }
        (odd.filterMap fun i => k.members[i]?).foldl (fun d m => d.drillLost h m none) s3

/-- The coordinator decides: it counts the absent, tells every member and acts itself. -/
def Dev.decideVote (s : Dev) (h : HoldId) : Dev :=
  let x := s.holding h
  match x.vote, s.voters h with
  | some v, some k =>
    let live := k.liveDevices
    let recs := x.digests.filter fun r => r.step == v.step && live.contains r.src
    let absent := (live.filter fun d => !(recs.any fun r => r.src == d)).length
    let verdict := verdictOf k v.own.length recs
    let s1 := if absent = 0 then s else s.count (some h) (regAt ctl 0x16020) absent
    let s2 := s1.modHolding h fun y => { y with digests := y.digests.filter fun r => r.step != v.step }
    let s3 := (k.members.filter (· != s.number)).foldl (fun d m => d.send m 0 (.holding h) (.verdict h verdict)) s2
    s3.actOn h verdict
  | _, _ => s

/-- Whether this device coordinates the vote, and whether every live slot's record is there. -/
def Dev.coordinates (s : Dev) (h : HoldId) : Bool := (s.voters h).any fun k => k.liveDevices.head? == some s.number
def Dev.voteFull (s : Dev) (h : HoldId) : Bool :=
  let x := s.holding h
  match x.vote, s.voters h with
  | some v, some k => k.liveDevices.all fun d => x.digests.any fun r => r.step == v.step && r.src == d
  | _, _ => false

/-- Forms the digests of a step and opens its vote. -/
def Dev.openVote (s : Dev) (h : HoldId) : Dev :=
  let x := s.holding h
  let p := x.digest
  match s.voters h with
  | none => s
  | some k =>
    if p.every = 0 || x.step.toNat % p.every != 0 || p.ranges.isEmpty then s
    else
      let r := s.layerDigests h (dedup (p.ranges.map (·.1)))
      let rec' : DigestRec := { src := s.number, step := x.step, layers := r.1 }
      let s1 := r.2.modHolding h fun y =>
        if y.early then { y with early := false }
        else { y with vote := some { step := x.step, own := r.1, ownTime := s.dt } }
      if s1.coordinates h then
        let s2 := s1.modHolding h fun y => { y with digests := y.digests ++ [rec'] }
        if s2.voteFull h then s2.decideVote h else s2
      else
        match k.liveDevices.head? with
        | some c => s1.send c 0 (.holding h) (.digest h rec')
        | none => s1

/-! ### A mirror generation starts (R404) -/

def MirrorSend.blocks (m : MirrorSend) : List Nat :=
  m.ranges.flatMap fun r => (List.range (r.2 / 4096)).map fun i => r.1 + i * 4096

/-- Sends the next block of a running generation: one that a write has had read before it, else the next one in the order of
the ranges, read in the BULK class once nothing holds its read (R404). -/
def Dev.mirrorNext (s : Dev) (h : HoldId) : Dev :=
  match (s.holding h).mirrorSend with
  | none => s
  | some m =>
    let p := homePort m.buddy
    let put := fun (d : Dev) (n : MirrorSend) (i : Nat) (bytes : List PByte) (b : Option Nat) =>
      (d.modHolding h fun y => { y with mirrorSend := some n }).sendFrom p m.buddy 3 (.holding h)
        (.mirrorBlock h m.slot.val i bytes) ((b.map fun b => (b, 0, 4096)).toList)
    if !m.running || s.gateFull p then s
    else
      match m.taken, m.toRead with
      | (i, bytes) :: rest, _ => put s { m with taken := rest } i bytes none
      | [], (i, b) :: rest =>
        if s.readHeld (b * 4096) 4096 then s
        else
          let r := s.unitRead { ctlAgent h with cls := .bulk } (b * 4096) 4096
          put r.2 { m with toRead := rest } i r.1 (some b)
      | [], [] => s

/-- A generation starts: its blocks are those that the ranges name at this boundary. What no tier holds is read at once. -/
def Dev.startMirror (s : Dev) (h : HoldId) : Dev :=
  let x := s.holding h
  match x.mirrorSend with
  | none => s
  | some m =>
    if m.every = 0 || x.step.toNat % m.every != 0 then s
    else if m.running then s.count (some h) (regAt ctl 0x16030) 1
    else
      let start : MirrorSend := { m with running := true, step := x.step, toRead := [], taken := [] }
      let all := m.blocks.foldl (fun (a : MirrorSend × Nat × Dev) va =>
        let t := a.2.2.xlate (ctlAgent h) va false
        match t.1 with
        | .mem pa _ => ({ a.1 with toRead := a.1.toRead ++ [(a.2.1, pa / 4096)] }, a.2.1 + 1, t.2)
        | _ =>
          let r := a.2.2.readOut { ctlAgent h with cls := .bulk } va 4096
          ({ a.1 with taken := a.1.taken ++ [(a.2.1, r.1)] }, a.2.1 + 1, r.2)) (start, 0, s)
      (all.2.2.modHolding h fun y => { y with mirrorSend := some all.1 }).mirrorNext h

/-- What passes without a command: the tick of device time, and a block of each running mirror generation, which is read in the
background (R404, DESIGN CHOICE of the pace, notes/assumptions/45). -/
def Dev.tick (s : Dev) : Dev :=
  let s1 := s.idle
  if s1.clocked && s1.power.state == .run then allHoldings.foldl Dev.mirrorNext s1 else s1

/-! ### The boundary -/

/-- The STEP fence of every stage completes and is recorded. -/
def Dev.completeFences (s : Dev) (h : HoldId) : Dev :=
  (s.holding h).stages.foldl (fun d g =>
    match g.runsOn with
    | none => d
    | some c =>
      let st : Fin 2 := if g.inherited then 1 else 0
      match (d.core c).fenceAt st 0 with
      | some (e, true) => (d.completeAt c e).recordFront c h e
      | _ => d) s

/-- A batch of the step that a holding is in. -/
def Holding.ofStep (x : Holding) (tag : Word32) : Bool := tag.toNat / 65536 == x.step.toNat % 65536

/-- The step's state returns to its start; tags that are open for the step it goes into stay (DEDUCED,
notes/assumptions/113). -/
def Holding.openStep (x : Holding) (advance : Bool) : Holding :=
  { x with
    events := [], counters := x.counters.map (·.clear), waiting := []
    batches := x.batches.filter fun b => advance && x.ofStep b.tag
    stages := x.stages.map fun g =>
      { g with atStep := false, slots := [], restSlots := [], takeLog := [], lenLog := []
               skipped := g.skipped.filter fun i => !seqLt i g.lastRest }
    queues := x.queues.map fun q => { q with held := q.held.filter fun p => advance && x.ofStep p.2, routed := 0, accepted := 0, overflowed := 0, returned := 0 }
    windows := x.windows.filter fun w => !w.dataClosed
    reduces := (x.reduces.filter fun q => q.ahead != 0).map fun q => { q with ahead := q.ahead - 1 }
    dropped := [], trailers := [], norms := [], ownNorms := []
    precond := x.precond.filter fun z => !z.done }

/-- What a boundary does after its condition is met: it closes the step, moves the number on when asked, and opens the
next step under the tables that wait. -/
def Dev.boundary (s : Dev) (h : HoldId) (advance : Bool) : Dev :=
  let s0 := s.settleEgress (fun i => decide (256 ≤ i.agent) && i.holding == h) .pass
  let s1 := ((s0.writeStepCounts h).writeNorms h).writeRecord h false .ok
  let s2 := (if advance then s1.modHolding h fun x => { x with step := x.step + 1 } else s1).completeFences h
  let gone := (s2.holding h).expelled
  let stages := (s2.holding h).nextStages
  let lost := (List.range 8).filter fun j => (s2.die (48 + j)).fenced
  let old := (s2.holding h).batches.filter fun b => !(advance && (s2.holding h).ofStep b.tag)
  let s3 := (old.foldl (fun d b => d.dropWaiting h b) s2).modHolding h fun x =>
    { (x.ahead).openStep advance with lostLinks := lost }
  let s3b := (s3.holding h).coreIds.foldl (fun d c => d.modCore c fun y => { y with away := false }) s3
  let s4 := gone.foldl (fun d m => d.drillLost h m none) s3b
  let s5 := match stages with
    | some (ds, rows) => s4.placeStages h ds rows
    | none => s4
  let s6 := ((s5.openEntries h).countFrozen h).applySlots ((s5.holding h).coreIds.flatMap stepRegs)
  let s7 := if advance then (s6.openVote h).startMirror h else s6
  let report := (s.holding h).digest.reportOnly
  if !(s.holding h).poisonUsed then s7
  else if report then s7.modHolding h fun x => { x with poisonUsed := false }
  else s7.endHolding h .poisoned

/-- STEP_BOUNDARY. -/
def Dev.stepBoundary (s : Dev) (h : HoldId) : Dev := if s.boundaryReady h && !s.digestHeld h then s.boundary h true else s

def execStepBoundary (h : HoldId) (s : State) : Host.Outcome State Fault Refusal :=
  work s (s.dev.lifeScope (s.dev.stepBoundary h))

end Sys2Proof.Machine
end

