-- ==== Sys2Proof/Machine/Mapping.lean ====
section
/-! DEFINITION. Mapping commands and work queues (R233, R246, R247, R251, R433, R442): MAP_MEMORY, UNMAP_MEMORY,
QUEUE_CREATE and QUEUE_DESTROY. -/

namespace Sys2Proof.Machine

open Sys2Proof

def Page.touches (p : Page) (va n : Nat) : Bool := decide (p.va < va + n) && decide (va < p.va + p.size)
def Page.inside (p : Page) (va n : Nat) : Bool := decide (va ≤ p.va) && decide (p.va + p.size ≤ va + n)

/-! ### Frames (R221, R251) -/

/-- Blocks of the holding's pages in the tiers: first block and number. -/
def Dev.framesUsed (s : Dev) (h : HoldId) : List (Nat × Nat) :=
  ((s.pageList h).filter fun p => decide (pteTarget p.entry < 2)).map fun p => (pteFrame p.entry, p.size / 4096)

/-- The first number at or after a start, in a circle of n, for which a test holds. -/
def findFrom (ok : Nat → Bool) (n start : Nat) : Nat → Option Nat
  | 0 => none
  | k + 1 =>
    let i := (start + (n - 1 - k)) % n
    if ok i then some i else findFrom ok n start k

/-- A free frame of a size in blocks in a holding's regions of a tier; which one is not stated. -/
def Dev.pickFrame (s : Dev) (x : Holding) (t size : Nat) (used : List (Nat × Nat)) : Option Nat × Dev :=
  let rs := (if t = 0 then x.nearRegions else x.farRegions).filter fun r => (s.region t r).valid && !(s.region t r).degraded
  let per := regionBlocks / size
  let n := rs.length * per
  let at' := fun i => tierBase t / 4096 + nthD rs (i / per) 0 * regionBlocks + i % per * size
  let v := s.takeFree
  let hit := findFrom (fun i => !anyOverlap [(at' i, size)] used) n (v.1.toNat % max n 1) n
  (hit.map at', v.2)

/-- Frames for a number of pages, none when they run short. -/
def Dev.pickFrames (s : Dev) (x : Holding) (t size : Nat) : Nat → List (Nat × Nat) → Option (List Nat) × Dev
  | 0, _ => (some [], s)
  | k + 1, used =>
    let a := s.pickFrame x t size used
    match a.1 with
    | none => (none, a.2)
    | some f =>
      let b := a.2.pickFrames x t size k ((f, size) :: used)
      (b.1.map fun l => f :: l, b.2)

/-! ### Changes of the page table -/

/-- A holding's tables lie in part on a quiesced channel: Gotre's reads of them wait (R238). -/
def Dev.tablesQuiet (s : Dev) (h : HoldId) : Bool :=
  (s.holding h).tables.any fun t => (List.range t.2).any fun i =>
    s.quiesced ((t.1 + i) * 4096) && !s.stackLost (s.place ((t.1 + i) * 4096)).stack

/-- The tags of a page's blocks are written for a mapping (R233). -/
def Dev.tagBlocks (s : Dev) (h : HoldId) (first n : Nat) : Dev :=
  (List.range n).foldl (fun d i => d.setTag (first + i) { owner := .holding h, epoch := (s.holding h).epoch }) s

/-- Pages leave the table, and their blocks lose their owner. -/
def Dev.dropPages (s : Dev) (h : HoldId) (ps : List Page) : Dev :=
  let s1 := ps.foldl (fun d p => d.clearEntry h p) s
  let tier := ps.filter fun p => decide (pteTarget p.entry < 2)
  tier.foldl (fun d p =>
    (List.range (p.size / 4096)).foldl (fun e i =>
      let b := pteFrame p.entry + i
      e.setTag b (unmappedTag (e.tag b))) d) s1

/-- The translation generation advances, and every cache drops the holding's entries. -/
def Dev.nextGeneration (s : Dev) (h : HoldId) : Dev :=
  (s.modHolding h fun x => { x with generation := x.generation + 1 }).dropCached h

def Dev.mapMemory (s : Dev) (n : Nat) : Dev :=
  s.runHolding n 0x0030 fun j h =>
    let x := s.holding h
    let va := j.param 51 0
    let host := j.param 115 52
    let bytes := j.param 157 116
    let level := j.param 159 158
    let target := j.param 161 160
    let replace := j.param 165 165 = 1
    let size := pageBytes level
    let old := (s.pageList h).filter fun p => p.touches va bytes
    let bad := level = 3 || target = 3 || bytes = 0 || va % size != 0 || bytes % size != 0 || decide (2 ^ 52 < va + bytes)
      || (target = 2 && (host % size != 0 || decide (2 ^ 64 < host + bytes)))
      || (!replace && !old.isEmpty) || (replace && old.any fun p => !p.inside va bytes)
    if x.sweep || s.tablesQuiet h then s
    else if bad then s.finishJob n .badParameter 0
    else if !old.isEmpty && !s.quiet h then s
    else
      let count := bytes / size
      let blocks := size / 4096
      let got := if target = 2 then (some ((List.range count).map fun i => host / 4096 + i * blocks), s)
        else s.pickFrames x target blocks count (s.framesUsed h)
      match got.1 with
      | none => got.2.finishJob n .noResource 0
      | some frames =>
        let s1 := if old.isEmpty then got.2 else (got.2.dropPages h old).nextGeneration h
        match s1.addPages h level target (j.param 162 162 = 1) (j.param 163 163 = 1) (j.param 164 164 = 1) va frames with
        | none => got.2.finishJob n .noResource 0
        | some s2 =>
          let s3 := if target = 2 then s2 else frames.foldl (fun d f => d.tagBlocks h f blocks) s2
          -- a leaf that takes the place of a pointer to an empty table changes an entry, too
          let gone := (s1.holding h).tables.any fun t => !(s2.holding h).tables.contains t
          (if old.isEmpty then (if gone then s3.nextGeneration h else s3) else s3.rebuildRegions).finishJob n .ok 0

def Dev.unmapMemory (s : Dev) (n : Nat) : Dev :=
  s.runHolding n 0x0031 fun j h =>
    let va := j.param 51 0
    let bytes := j.param 93 52
    let old := (s.pageList h).filter fun p => p.touches va bytes
    let whole := old.all (fun p => p.inside va bytes) && (old.map (·.size)).sum = bytes
    if s.tablesQuiet h then s
    else if bytes = 0 || !whole then s.finishJob n .badParameter 0
    else if !s.quiet h then s
    else (((s.dropPages h old).nextGeneration h).rebuildRegions).finishJob n .ok 0

/-! ### Queues (R442, R446) -/

/-- A free queue number; which one is not stated. -/
def Dev.pickQueue (s : Dev) : Option Nat × Dev :=
  let v := s.takeFree
  (findFrom (fun q => (s.queue q).state == .free) queueCount (v.1.toNat % queueCount) queueCount, v.2)

def Dev.queueCreate (s : Dev) (n : Nat) : Dev :=
  s.runHolding n 0x0020 fun j h =>
    let x := s.holding h
    let ring := j.param 51 0
    let head := j.param 103 52
    let tail := j.param 155 104
    let log2 := j.param 160 156
    let src := j.param 161 161 = 1
    let bad := decide (log2 < 6) || decide (20 < log2) || ring % 4096 != 0 || head % 8 != 0 || (src && tail % 4 != 0)
    let polled := (s.queues.filter fun q => q.2.state != .free && q.2.tailSrc).length
    if bad then s.finishJob n .badParameter 0
    else if x.queueLimit ≤ (s.queuesOf h).length || (src && decide (256 ≤ polled)) then s.finishJob n .noResource 0
    else if !s.mapped h ring (64 * 2 ^ log2) false || !s.mapped h head 8 true || (src && !s.mapped h tail 4 false) then
      s.finishJob n .notPermitted 0
    else
      let q := s.pickQueue
      match q.1 with
      | none => q.2.finishJob n .noResource 0
      | some k =>
        let s1 := q.2.modQueue k fun _ =>
          { state := .ready, holding := some h, ringVa := ring, headVa := head, tailVa := tail, log2 := log2, tailSrc := src }
        s1.finishJob n .ok (resultOf k 0 0 0)

/-- The first stage that names a queue, in the table in force or in one that waits. -/
def Holding.stageNaming (x : Holding) (q : Nat) : Option Nat :=
  let waiting := x.waiting.flatMap fun w => match w with | .stages ds _ => ds | _ => []
  ((x.stages.map (·.dfn) ++ waiting).find? fun g => g.queue == q).map (·.stage)

def Dev.queueDestroy (s : Dev) (n : Nat) : Dev :=
  s.runHolding n 0x0021 fun j h =>
    let q := j.param 15 0
    let x := s.queue q
    if x.state == .free || x.holding != some h then s.finishJob n .badParameter 0
    else
      match (s.holding h).stageNaming q with
      | some g => s.finishJob n .busyConflict (resultOf g 0 0 0)
      | none =>
        match s.headFree q h with
        | none => s
        | some d => ({ d with queues := Tab.set {} d.queues q {} } : Dev).finishJob n .ok 0

/-! ### The commands -/

def execMapMemory (n : Nat) (s : State) : Host.Outcome State Fault Refusal := done s (s.dev.lifeScope (s.dev.mapMemory n))
def execUnmapMemory (n : Nat) (s : State) : Host.Outcome State Fault Refusal := done s (s.dev.lifeScope (s.dev.unmapMemory n))
def execQueueCreate (n : Nat) (s : State) : Host.Outcome State Fault Refusal := done s (s.dev.lifeScope (s.dev.queueCreate n))
def execQueueDestroy (n : Nat) (s : State) : Host.Outcome State Fault Refusal := done s (s.dev.lifeScope (s.dev.queueDestroy n))

end Sys2Proof.Machine
end

