-- ==== Sys2Proof/Machine/Tables.lean ====
section
/-! DEFINITION. The table commands of a holding: PROGRAM_LOAD (R447), STAGE_TABLE_SET (R190, R191, R196),
COLLECTIVE_GROUP_CREATE and REDUCTION_POLICY_SET (R334 to R338), EXPERT_TABLE_SET and CAPACITY_SET (R269, R270, R284),
UPDATE_TABLE_SET (R361 to R363) and DIGEST_POLICY_SET (R398). Checks see the tables as the writes accepted before will
leave them. -/

namespace Sys2Proof.Machine

open Sys2Proof

/-- Word i of a record. -/
def wd (r : List Nat) (i : Nat) : Nat := nthD r i 0
/-- Some words of a record lie within 32 bits; or are addresses of 52 bits (R430). -/
def words32 (r : List Nat) (is : List Nat) : Bool := is.all fun i => decide (wd r i < 2 ^ 32)
def addresses (r : List Nat) (is : List Nat) : Bool := is.all fun i => decide (wd r i < 2 ^ 52)

/-- A span that the holding may read and write. -/
def Dev.mappedRw (s : Dev) (h : HoldId) (va n : Nat) : Bool := s.mapped h va n false && s.mapped h va n true
/-- Every byte of a span lies in a tier. -/
def Dev.inTier (s : Dev) (h : HoldId) (t va n : Nat) : Bool :=
  (chunks va n).all fun c => match s.translate h c.1 false with | .mem pa _ => tierOf pa == t | _ => false

/-- Members of a list that repeat. -/
def repeats (l : List Nat) : Bool := decide (l.length ≠ (dedup l).length)

/-- An accepted table command: its writes wait for the boundary (R190, R335 and the like). -/
def Dev.acceptWrites (s : Dev) (h : HoldId) (n : Nat) (ws : List TableWrite) : Dev :=
  (s.modHolding h fun x => { x with waiting := x.waiting ++ ws }).finishJob n .ok 0

/-- Reads a list of a command from holding memory: none while a block of it waits for its check. -/
def Dev.readList (s : Dev) (h : HoldId) (va n : Nat) : Option (List PByte × Dev) :=
  let r := ({ dev := s } : Run).read (ctlAgent h) va n
  if r.2.wait then none else some (r.1, r.2.dev)

/-- Numbers of a width in bytes that stand in a list. -/
def numbersOf (w : Nat) (bs : List PByte) : List Nat :=
  (List.range (bs.length / max w 1)).map fun i => leNat (((bs.drop (i * w)).take w).map (·.val))

/-- Runs a command on a list that it reads: NOT_PERMITTED where it does not translate, POISONED where it is poisoned. -/
def Dev.withList (s : Dev) (h : HoldId) (n va bytes : Nat) (f : List PByte → Dev → Dev) : Dev :=
  if !s.mapped h va bytes false then s.finishJob n .notPermitted 0
  else match s.readList h va bytes with
    | none => s
    | some (bs, d) => if bs.any (·.poison) then d.finishJob n .poisoned 0 else f bs d

/-! ### PROGRAM_LOAD (R110, R166, R180, R197, R431, R447) -/

/-- The half of the package of a compute die (R9). -/
def halfOf (d : Nat) : Nat := d / 16

/-- The die of a counter's mirror (R197). -/
def Dev.mirrorDie (s : Dev) (d : Nat) : Option Nat :=
  ((List.range 16).map (halfOf d * 16 + ·)).find? fun k => k != d && !(s.die k).fenced

/-- Counters and mirrors that a Tally block holds, those of one holding left out. -/
def Dev.tallyUse (s : Dev) (h : HoldId) (d : Nat) : Nat :=
  (allHoldings.map fun k => if k = h then 0
    else ((s.holding k).counters.map fun q =>
      (if q.die.val = d then 1 else 0) + if q.mirror.any (fun m => m.val == d) then 1 else 0).sum).sum

/-- Places counters on dies that carry cores of the holding; which eligible die serves one is not stated. -/
def Dev.placeCounters (s : Dev) (dies : List Nat) (use : Nat → Nat) : List (Nat × Nat × Nat) → Option (List Counter) × Dev
  | [] => (some [], s)
  | (num, limit, rg) :: rest =>
    let fits := dies.filter fun d => decide (use d < 512) && (s.mirrorDie d).any fun m => decide (use m < 512)
    let v := s.takeFree
    let d := nthD fits (v.1.toNat % max fits.length 1) 0
    match fits, s.mirrorDie d with
    | _ :: _, some m =>
      let k : Counter := { number := num, limit := limit, rowGroup := if rg = 0xFF then none else some (Fin.ofNat 4 rg), next := 0
                           recs := [], reissue := [], claims := [], refused := [], die := Fin.ofNat 32 d
                           mirror := some (Fin.ofNat 32 m), copying := false, taken := false }
      let r := v.2.placeCounters dies (fun i => use i + (if i = d then 1 else 0) + if i = m then 1 else 0) rest
      (r.1.map fun l => k :: l, r.2)
    | _, _ => (none, v.2)

/-- The member bytes of a record of list 2. -/
def memberBytes (r : List Nat) : List Nat := (List.range 32).map fun i => wd r (4 + i / 8) / 256 ^ (i % 8) % 256

def Holding.loadBad (x : Holding) (b : Block) : Bool :=
  let tallies := b.list2.filter fun r => wd r 0 == 0
  let groups := b.list2.filter fun r => wd r 0 != 0
  let members := fun r => (memberBytes r).take (wd r 2)
  let rings := (groups.filter fun r => wd r 0 == 2).flatMap members
  decide (2 ^ 32 ≤ wd b.fixed 0)
    || b.list1.any (fun r => !x.cores.contains (wd r 0) || decide (0x1FFFF < wd r 1) || decide (0x1FFFF < wd r 2)
        || decide (0x1FFFF < wd r 3) || decide (0x1FFFF < wd r 4) || decide (osLines < wd r 1 + wd r 2)
        || decide (osLines < wd r 3 + wd r 4))
    || repeats (b.list1.map fun r => wd r 0)
    || tallies.any (fun r => wd r 1 == 0 || decide (255 < wd r 1) || wd r 2 == 0 || decide (lenMax < wd r 2)
        || (decide (3 < wd r 3) && wd r 3 != 0xFF) || [4, 5, 6, 7].any fun i => wd r i != 0)
    || repeats (tallies.map fun r => wd r 1)
    || groups.any (fun r => decide (2 < wd r 0) || wd r 1 == 0 || decide (63 < wd r 1) || decide (wd r 2 < 2)
        || decide (32 < wd r 2) || (members r).any (fun c => !x.cores.contains c) || repeats (members r)
        || ((memberBytes r).drop (wd r 2)).any (· != 0))
    || repeats (groups.map fun r => wd r 1) || repeats rings

/-- The STEP-apply registers that a record of list 1 gives its core; a core without a record keeps its own. -/
def Dev.loadAreas (s : Dev) (rs : List (List Nat)) : Dev :=
  rs.foldl (fun d r =>
    ((stepRegs (Fin.ofNat 256 (wd r 0))).zip [wd r 1, wd r 2, wd r 3, wd r 4]).foldl (fun e p =>
      { e with slots := Tab.set none e.slots p.1 (some (BitVec.ofNat 32 p.2)) }) d) s

def Dev.programLoad (s : Dev) (n : Nat) (blk : BlockRead) : Dev :=
  s.runBlock n 0x0040 ⟨1, 5, 8⟩ blk fun _ h b =>
    let x := s.holding h
    let busy := (s.queuesOf h).any fun q => (s.queue q).accepted != (s.queue q).recorded
    if busy then s.finishJob n .wrongState 0
    else if x.loadBad b then s.finishJob n .badParameter 0
    else
      let dies := (dedup (x.cores.map (· / 8))).filter fun d => !(s.die d).fenced
      let want := (b.list2.filter fun r => wd r 0 == 0).map fun r => (wd r 1, wd r 2, wd r 3)
      let got := s.placeCounters dies (s.tallyUse h) want
      match got.1 with
      | none => got.2.finishJob n .noResource 0
      | some ks =>
        let groups := (b.list2.filter fun r => wd r 0 != 0).map fun r =>
          ({ number := wd r 1, ring := wd r 0 == 2, cores := (memberBytes r).take (wd r 2) } : CoreGroup)
        let s1 := got.2.modHolding h fun y =>
          { y with entries := [], hypers := [], digest := {}, counters := ks, groups := groups
                   queues := y.queues.map fun q => { q with capacity := q.queueRows, spillCapacity := 0 }
                   step := BitVec.ofNat 32 (wd b.fixed 0) }
        let s2 := (s1.loadAreas b.list1)
        let s3 := x.coreIds.foldl (fun d c => ((d.core c).inbox.foldl Dev.releaseRetained d).modCore c fun y =>
          { y with sent := [], received := [], inbox := [], outside := false }) s2
        (s3.boundary h false).finishJob n .ok 0

/-! ### STAGE_TABLE_SET (R190, R191, R193, R196) -/

def stageOfWords (r : List Nat) : StageDef :=
  { stage := wd r 0, queue := wd r 1, core := wd r 2, succ := [wd r 3, wd r 4, wd r 5], osFirst := wd r 6, osLines := wd r 7
    accFirst := wd r 8, accCount := wd r 9, vregFirst := wd r 10, vregCount := wd r 11, lregMask := wd r 12
    gradFirst := wd r 13, gradCount := wd r 14, gradHome := wd r 15, logVa := wd r 16 }

/-- The successors that are cores. -/
def StageDef.succCores (g : StageDef) : List Nat := g.succ.filter (· != 0x100)

def rangeMeets (a n b m : Nat) : Bool := decide (0 < n) && decide (0 < m) && decide (a < b + m) && decide (b < a + n)

/-- Two stages' windows share something. -/
def StageDef.meets (a b : StageDef) : Bool :=
  rangeMeets a.osFirst a.osLines b.osFirst b.osLines || rangeMeets a.accFirst a.accCount b.accFirst b.accCount
    || rangeMeets a.vregFirst a.vregCount b.vregFirst b.vregCount || (a.lregMask &&& b.lregMask) != 0
    || rangeMeets a.gradFirst a.gradCount b.gradFirst b.gradCount

/-- The spill region and the prefetch area of a core, as they are in force. -/
def Dev.areasOf (s : Dev) (c : CoreId) : List (Nat × Nat) :=
  [((s.reg (seqReg c 8)).toNat, (s.reg (seqReg c 0xC)).toNat), ((s.reg (ctrReg c 4)).toNat, (s.reg (ctrReg c 8)).toNat)]

def StageDef.rangeBad (g : StageDef) : Bool :=
  decide (255 < g.stage) || decide (Machine.osLines < g.osFirst + g.osLines) || decide (16 < g.accFirst + g.accCount)
    || decide (128 < g.vregFirst + g.vregCount) || g.lregMask % 2 != 0 || decide (65536 ≤ g.lregMask)
    || decide (64 < g.gradFirst + g.gradCount) || decide (2 ^ 52 ≤ g.gradHome) || decide (2 ^ 52 ≤ g.logVa)
    || g.logVa % 4096 != 0 || (decide (0 < g.gradCount) && g.gradHome % 4096 != 0)

def Dev.stagesBad (s : Dev) (h : HoldId) (gs : List StageDef) (rows : List (Nat × List Nat)) : Bool :=
  let x := s.holding h
  let overlaps := fun (g : StageDef) (c : Nat) =>
    (s.areasOf (Fin.ofNat 256 c)).any fun a => rangeMeets g.osFirst g.osLines a.1 a.2
  repeats (gs.map (·.stage)) || repeats (gs.map (·.queue)) || repeats (gs.map (·.core))
    || gs.any (fun g => g.rangeBad || !(s.queuesOf h).contains g.queue || !x.cores.contains g.core
        || g.succCores.any (fun c => !x.cores.contains c || c == g.core)
        || (g.core :: g.succCores).any (overlaps g)
        || gs.any fun o => g.succCores.contains o.core && g.meets o)
    || repeats (rows.map (·.1))
    || rows.any fun r => decide (3 < r.1) || decide (r.2.length < 2) || decide (64 < r.2.length)
        || r.2.any fun c => !x.cores.contains c

/-- A row group record: its number and the cores of its bitmap. -/
def rowGroupOf (r : List Nat) : Nat × List Nat :=
  (wd r 0, (List.range 256).filter fun c => (wd r (1 + c / 64)).testBit (c % 64))

def Dev.stageTableSet (s : Dev) (n : Nat) (blk : BlockRead) : Dev :=
  s.runBlock n 0x0041 ⟨0, 17, 5⟩ blk fun _ h b =>
    let gs := b.list1.map stageOfWords
    let rows := b.list2.map rowGroupOf
    let denied := gs.any fun g => !s.mappedRw h g.logVa 4096
      || (decide (0 < g.gradCount) && !s.mappedRw h g.gradHome (g.gradCount * 65536))
    if s.stagesBad h gs rows then s.finishJob n .badParameter 0
    else if denied then s.finishJob n .notPermitted 0
    else (s.unpark h gs).acceptWrites h n [.stages gs rows]

/-! ### Collective groups and policies (R334 to R338) -/

def Dev.collectiveCreate (s : Dev) (n : Nat) : Dev :=
  s.runHolding n 0x0050 fun j h =>
    let x := s.holding h
    let group := j.param 7 0
    let count := j.param 24 8
    let others := ((x.ahead.collectives.filter fun k => k.1 != group).map fun k => ((k.2.map (·.members.length)).getD 0)).sum
    if count < 2 || decide (65536 < count) then s.finishJob n .badParameter 0
    else s.withList h n (j.param 76 25) (2 * count) fun bs d =>
      let ms := numbersOf 2 bs
      if repeats ms || !ms.contains s.number.toNat then d.finishJob n .badParameter 0
      else if 131072 < others + count then d.finishJob n .noResource 0
      else d.acceptWrites h n [.collective group (ms.map (BitVec.ofNat 16))]

/-- A policy from its 15 words, without its anchors. -/
def policyOf (w : List Nat) : Policy :=
  { group := wd w 0, values := wd w 2, fp32Wire := wd w 3 == 1, mean := wd w 4 == 1, anchor := wd w 5 == 1, anchors := []
    scaleWindow := wd w 8, dataWindow := wd w 9, gatherWindow := wd w 10, gatherFmt := fmtD (wd w 11), sumVa := wd w 12
    stageVa := wd w 13, absentVa := wd w 14 }

def policyBad (w : List Nat) (k : Collective) : Bool :=
  let members := k.members.length
  decide (255 < wd w 1) || wd w 2 == 0 || decide (2 ^ 40 < wd w 2) || decide (1 < wd w 3) || decide (1 < wd w 4)
    || decide (1 < wd w 5) || (wd w 5 == 1 && (wd w 6 == 0 || decide (members < wd w 6)))
    || wd w 8 == 0 || decide (wd w 9 ≤ wd w 8) || wd w 10 == 0 || !words32 w [9, 10] || !addresses w [7, 12, 13, 14]
    || !([1, 2, 3, 4, 5].contains (wd w 11)) || (wd w 3 == 1 && decide (64 < members))

/-- Spans that a policy needs at this device: its sums in the near tier, the staging area, the absence list. -/
def Dev.policyDenied (s : Dev) (h : HoldId) (p : Policy) (k : Collective) : Bool :=
  let blocks := ((p.ownChunks k s.number).map p.blocksIn).sum
  !s.mappedRw h p.sumVa (328 * blocks) || !s.inTier h 0 p.sumVa (328 * blocks)
    || (p.fp32Wire && !s.mappedRw h p.stageVa (k.members.length * 264 * blocks))
    || !s.mapped h p.absentVa (4 * k.members.length) true

def Dev.finishPolicy (s : Dev) (h : HoldId) (n r : Nat) (p : Policy) (k : Collective) : Dev :=
  if s.policyDenied h p k then s.finishJob n .notPermitted 0 else s.acceptWrites h n [.policy r p]

def Dev.policySet (s : Dev) (n : Nat) (blk : BlockRead) : Dev :=
  s.runBlock n 0x0051 ⟨15, 0, 0⟩ blk fun _ h b =>
    let w := b.fixed
    match Tab.get none (s.holding h).ahead.collectives (wd w 0) with
    | none => s.finishJob n .badParameter 0
    | some k =>
      let p := policyOf w
      if policyBad w k then s.finishJob n .badParameter 0
      else if !p.anchor then s.finishPolicy h n (wd w 1) p k
      else s.withList h n (wd w 7) (2 * wd w 6) fun bs d =>
        let as := numbersOf 2 bs
        let bad := as.any (fun a => decide (k.members.length ≤ a)) || (as.zip (as.drop 1)).any fun q => decide (q.2 ≤ q.1)
        if bad then d.finishJob n .badParameter 0 else d.finishPolicy h n (wd w 1) { p with anchors := as } k

/-! ### Experts and capacities (R269, R270, R284) -/

def homeQueueOf (layer : Nat) (r : List Nat) : HomeQueue :=
  { queue := wd r 0, layer := layer, global := BitVec.ofNat 16 (wd r 1), nbuf := wd r 2, queueVa := wd r 3, queueRows := wd r 4
    spillVa := wd r 5, spillRows := wd r 6, originVa := wd r 7, capacity := wd r 4, spillCapacity := 0, routed := 0
    accepted := 0, overflowed := 0, returned := 0, held := [] }

def queueBad (r : List Nat) : Bool :=
  decide (4095 < wd r 0) || decide (65535 < wd r 1) || wd r 2 == 0 || decide (4 < wd r 2) || wd r 4 == 0
    || decide (65535 < wd r 4) || decide (65535 < wd r 6) || !addresses r [3, 5, 7]

def expertsBad (w : List Nat) (rs : List (List Nat)) : Bool :=
  decide (255 < wd w 0) || wd w 1 == 0 || decide (4096 < wd w 1) || decide (2 < wd w 2) || wd w 3 == 0 || decide (2048 < wd w 3)
    || wd w 4 == 0 || decide (2048 < wd w 4) || !addresses w [5, 6] || wd w 6 % 4096 != 0 || rs.any queueBad

def expertOf (e : Nat) : ExpertEntry := { global := BitVec.ofNat 16 e, home := BitVec.ofNat 16 (e / 65536) }

/-- The spans of a home queue. -/
def Dev.queueDenied (s : Dev) (h : HoldId) (rowBytes counterVa : Nat) (q : HomeQueue) : Bool :=
  !s.mappedRw h q.queueVa (q.nbuf * q.queueRows * rowBytes) || !s.mappedRw h q.spillVa (q.nbuf * q.spillRows * rowBytes)
    || !s.mappedRw h q.originVa (q.nbuf * (q.queueRows + q.spillRows) * 8) || !s.mapped h (counterVa + q.queue * 16) 16 true

def Dev.expertTableSet (s : Dev) (n : Nat) (blk : BlockRead) : Dev :=
  s.runBlock n 0x0060 ⟨7, 8, 0⟩ blk fun _ h b =>
    let x := s.holding h
    let w := b.fixed
    let layer := wd w 0
    if expertsBad w b.list1 then s.finishJob n .badParameter 0
    else s.withList h n (wd w 5) (8 * wd w 1) fun bs d =>
      let raw := numbersOf 8 bs
      let es := raw.map expertOf
      let qs := b.list1.map (homeQueueOf layer)
      let others := x.ahead.queues.filter fun q => q.layer != layer
      let home := (es.filter fun e => e.home == s.number).map (·.global.toNat)
      let bad := raw.any (fun v => decide (2 ^ 32 ≤ v)) || repeats (es.map (·.global.toNat)) || repeats (qs.map (·.queue))
        || repeats (qs.map (·.global.toNat))
        || others.any (fun o => qs.any fun q => q.queue == o.queue || q.global == o.global)
        || qs.any (fun q => !home.contains q.global.toNat) || qs.length != home.length
      let total := (allHoldings.map fun k => if k = h then others.length + qs.length else (s.holding k).ahead.queues.length).sum
      if bad then d.finishJob n .badParameter 0
      else if 4096 < total then d.finishJob n .noResource 0
      else if qs.any (s.queueDenied h (wd w 3 * 32) (wd w 6)) then d.finishJob n .notPermitted 0
      else
        let l : Layer := { overflow := wd w 2, rowSectors := wd w 3, ansSectors := wd w 4, experts := es }
        d.acceptWrites h n [.experts layer l qs (wd w 6)]

def Dev.capacitySet (s : Dev) (n : Nat) : Dev :=
  s.runHolding n 0x0061 fun j h =>
    let first := j.param 11 0
    let count := j.param 24 12
    if count = 0 || decide (4096 < count) then s.finishJob n .badParameter 0
    else s.withList h n (j.param 76 25) (4 * count) fun bs d =>
      let es := (numbersOf 4 bs).zip (List.range count)
      let good := es.all fun e =>
        (((s.holding h).ahead.queues.find? fun q => q.queue == first + e.2).any fun q =>
          decide (e.1 % 65536 ≤ q.queueRows) && decide (e.1 / 65536 ≤ q.spillRows))
      if !good then d.finishJob n .badParameter 0
      else d.acceptWrites h n (es.map fun e => .capacity (first + e.2) (e.1 % 65536) (e.1 / 65536))

/-! ### The update table (R361, R362) -/

def entryOf (r : List Nat) : UpdateEntry :=
  { group := wd r 2, reduction := wd r 3, firstValue := wd r 4, values := wd r 5, layer := wd r 6, rule := wd r 7
    hyper := wd r 8, t0 := wd r 9, frozen := wd r 10 == 1, maskEn := wd r 11 == 1, maskNum := wd r 12, rows := wd r 13
    cols := wd r 14, br := wd r 15, bc := wd r 16, paramVa := wd r 17, stateVa := wd r 18, freezeVa := wd r 19
    factorVa := wd r 20, factorSlot := wd r 21, steps := 0, c1 := 0, c2 := 0, bad := false }

/-- A FROZEN entry begins on a chunk boundary and ends on one or with its reduction space. -/
def Holding.frozenFits (x : Holding) (e : UpdateEntry) : Bool :=
  let last := e.firstValue + e.values
  e.firstValue % chunkValues == 0
    && (last % chunkValues == 0 || (x.policy e.group e.reduction).any fun p => p.values == last)

def updateBad (x : Holding) (r : List Nat) : Bool :=
  let e := entryOf r
  decide (4095 < wd r 0) || decide (1 < wd r 1)
    || (wd r 1 == 1 &&
      (decide (255 < e.group) || decide (255 < e.reduction) || e.values == 0 || decide (2 ^ 40 < e.firstValue + e.values)
        || decide (255 < e.layer) || decide (3 < e.rule) || decide (63 < e.hyper) || decide (2 ^ 32 ≤ e.t0)
        || decide (1 < wd r 10) || decide (1 < wd r 11) || decide (255 < e.maskNum) || decide (1 < e.factorSlot)
        || !addresses r [17, 18, 19, 20] || e.rows * e.cols != e.values
        || (e.rule == 3 && (e.br == 0 || decide (512 < e.br) || e.bc == 0 || decide (512 < e.bc)
              || e.rows % e.br != 0 || e.cols % e.bc != 0))
        || (e.frozen && !x.frozenFits e)))

/-- Two entries of one reduction share a value. -/
def UpdateEntry.meets (a b : UpdateEntry) : Bool :=
  a.group == b.group && a.reduction == b.reduction && rangeMeets a.firstValue a.values b.firstValue b.values

def entriesOverlap (t : Tab (Option UpdateEntry)) : Bool :=
  t.any fun a => t.any fun b => decide (a.1 < b.1) && a.2.any fun e => b.2.any fun f => e.meets f

def Dev.entryDenied (s : Dev) (h : HoldId) (e : UpdateEntry) : Bool :=
  !s.mappedRw h e.paramVa (4 * e.values) || !s.mappedRw h e.stateVa (4 * e.values * e.words)
    || !s.inTier h 1 e.stateVa (4 * e.values * e.words)
    || (e.freezeVa != 0 && !s.mapped h e.freezeVa (ceilDiv e.values 8) false)
    || (e.rule == 3 && !s.mappedRw h e.factorVa (e.blocks * 12 * (e.br * e.br + e.bc * e.bc)))

def hyperOf (r : List Nat) : Hyper :=
  let v := fun i => BitVec.ofNat 32 (wd r i)
  { lr := v 1, wd := v 2, b1 := v 3, b2 := v 4, eps := v 5, mu := v 6, gscale := v 7 }

def Dev.updateTableSet (s : Dev) (n : Nat) (blk : BlockRead) : Dev :=
  s.runBlock n 0x0063 ⟨1, 22, 8⟩ blk fun _ h b =>
    let x := s.holding h
    let y := x.ahead
    let norm := wd b.fixed 0
    let es := b.list1.map fun r => (wd r 0, if wd r 1 == 1 then some (entryOf r) else none)
    let ss := b.list2.map fun r => (wd r 0, hyperOf r)
    let w : TableWrite := .update (if norm = 0 then none else some norm) es ss
    let bad := decide (2 ^ 52 ≤ norm) || b.list1.any (updateBad y) || entriesOverlap (y.applyWrite w).entries
      || b.list2.any fun r => decide (63 < wd r 0) || !words32 r [1, 2, 3, 4, 5, 6, 7]
    if bad then s.finishJob n .badParameter 0
    else if es.any (fun e => e.2.any (s.entryDenied h)) || (norm != 0 && !s.mapped h norm 8192 true) then s.finishJob n .notPermitted 0
    else s.acceptWrites h n [w]

/-! ### The digest policy (R398) -/

/-- An entry of 16 bytes: the layer, the block count from byte 4, the address from byte 8. -/
def digestRange (e : List Nat) : Nat × Nat × Nat := (wd e 0 % 65536, wd e 0 / 2 ^ 32, wd e 1)

def Dev.digestPolicySet (s : Dev) (n : Nat) (blk : BlockRead) : Dev :=
  s.runBlock n 0x00D0 ⟨6, 0, 0⟩ blk fun _ h b =>
    let x := s.holding h
    let w := b.fixed
    let bad := decide (255 < wd w 0) || (Tab.get none x.collectives (wd w 0)).isNone || decide (65535 < wd w 1)
      || wd w 2 == 0 || !words32 w [2] || decide (1 < wd w 3) || decide (256 < wd w 4) || !addresses w [5]
    let p : DigestPolicy := { group := wd w 0, every := wd w 1, window := wd w 2, reportOnly := wd w 3 == 1, ranges := [] }
    if bad then s.finishJob n .badParameter 0
    else s.withList h n (wd w 5) (16 * wd w 4) fun bs d =>
      let rs := (cutWords 2 (wd w 4) (numbersOf 8 bs)).map digestRange
      if rs.any fun r => r.2.2 % 4096 != 0 || decide (2 ^ 52 ≤ r.2.2) then d.finishJob n .badParameter 0
      else if rs.any fun r => !s.mapped h r.2.2 (4096 * r.2.1) false then d.finishJob n .notPermitted 0
      else d.acceptWrites h n [.digest { p with ranges := rs }]

/-! ### The commands -/

def execProgramLoad (n : Nat) (blk : BlockRead) (s : State) : Host.Outcome State Fault Refusal :=
  done s (s.dev.lifeScope (s.dev.programLoad n blk))
def execStageTableSet (n : Nat) (blk : BlockRead) (s : State) : Host.Outcome State Fault Refusal :=
  done s (s.dev.lifeScope (s.dev.stageTableSet n blk))
def execCollectiveGroupCreate (n : Nat) (s : State) : Host.Outcome State Fault Refusal :=
  done s (s.dev.lifeScope (s.dev.collectiveCreate n))
def execReductionPolicySet (n : Nat) (blk : BlockRead) (s : State) : Host.Outcome State Fault Refusal :=
  done s (s.dev.lifeScope (s.dev.policySet n blk))
def execExpertTableSet (n : Nat) (blk : BlockRead) (s : State) : Host.Outcome State Fault Refusal :=
  done s (s.dev.lifeScope (s.dev.expertTableSet n blk))
def execCapacitySet (n : Nat) (s : State) : Host.Outcome State Fault Refusal :=
  done s (s.dev.lifeScope (s.dev.capacitySet n))
def execUpdateTableSet (n : Nat) (blk : BlockRead) (s : State) : Host.Outcome State Fault Refusal :=
  done s (s.dev.lifeScope (s.dev.updateTableSet n blk))
def execDigestPolicySet (n : Nat) (blk : BlockRead) (s : State) : Host.Outcome State Fault Refusal :=
  done s (s.dev.lifeScope (s.dev.digestPolicySet n blk))

end Sys2Proof.Machine
end

