-- ==== Sys2Proof/Machine/Masks.lean ====
section
/-! DEFINITION. MASK_LOAD (R149 to R152, R156 to R158) and CHECKPOINT_MIRROR_SET (R241, R403, R405). -/

namespace Sys2Proof.Machine

open Sys2Proof

/-! ### Masks -/

/-- What MASK_LOAD works on: its kind, its shape and the bitmap, bit r × C + c for element (r, c). -/
structure MaskSource where
  kind : Nat
  rows : Nat
  cols : Nat
  bits : Nat
  deriving DecidableEq, Repr

def MaskSource.kept (m : MaskSource) (r c : Nat) : Bool := m.bits.testBit (r * m.cols + c)

/-- The columns kept in row i of a patch; the rows kept in its column i (R149). -/
def MaskSource.rowKept (m : MaskSource) (q i : Nat) : List Nat :=
  let p := maskP m.kind
  let across := m.cols / p
  (List.range p).filter fun k => m.kept (q / across * p + i) (q % across * p + k)
def MaskSource.colKept (m : MaskSource) (q i : Nat) : List Nat :=
  let p := maskP m.kind
  let across := m.cols / p
  (List.range p).filter fun k => m.kept (q / across * p + k) (q % across * p + i)

def MaskSource.patches (m : MaskSource) : Nat := m.rows / maskP m.kind * (m.cols / maskP m.kind)

/-- The first patch whose rows or columns hold more or fewer than N (R157): patch row, patch column, line, 1 for too many. Of
several failing lines of the patch the first row is reported, and the first column where no row fails; a column's line is
its number 0 to P - 1, as a row's is (DESIGN CHOICE, notes/assumptions/142). -/
def MaskSource.fault (m : MaskSource) : Option (BitVec 128) :=
  let p := maskP m.kind
  let across := m.cols / p
  (List.range m.patches).findSome? fun q =>
    let lines := (List.range p).map (fun i => (i, (m.rowKept q i).length)) ++ (List.range p).map fun i => (i, (m.colKept q i).length)
    (lines.find? fun l => l.2 != maskN m.kind).map fun l =>
      resultOf (q / across) (q % across) l.1 (if maskN m.kind < l.2 then 1 else 0)

/-- The runs between kept positions. -/
def runsFrom : Nat → List Nat → List Nat
  | _, [] => []
  | at', k :: t => (k - at') :: runsFrom (k + 1) t

/-- A group entry of a line (R152). -/
def groupEntryOf (kind : Nat) (kept : List Nat) : Nat :=
  let w := if kind = 1 then 2 else 3
  let runs := (runsFrom 0 kept).zip (List.range kept.length)
  runs.foldl (fun v r => v + r.1 * 2 ^ (w * r.2)) (kept.length * 2 ^ (w * maskN kind))

/-- The bytes of a patch in a plane. -/
def planePatch (kind : Nat) (lines : List (List Nat)) : List Byte :=
  let es := lines.map (groupEntryOf kind)
  if kind = 1 then leBytes 3 ((es.zip (List.range 4)).foldl (fun v e => v + e.1 * 2 ^ (6 * e.2)) 0) else es.flatMap le16

/-- A plane: of the columns kept in each patch row, or of the rows kept in each patch column. -/
def MaskSource.plane (m : MaskSource) (line : Nat → Nat → List Nat) : List Byte :=
  (List.range m.patches).flatMap fun q => planePatch m.kind ((List.range (maskP m.kind)).map (line q))

/-- The kept positions in slot order. -/
def MaskSource.slots (m : MaskSource) : List (Nat × Nat) :=
  let p := maskP m.kind
  let across := m.cols / p
  (List.range m.patches).flatMap fun q => (List.range p).flatMap fun i =>
    (m.rowKept q i).map fun k => (q / across * p + i, q % across * p + k)

/-- The value array of a dense source, and the number of its elements outside the mask that are not zero. -/
def MaskSource.values (m : MaskSource) (f : Fmt) (src : List PByte) : List PByte × Nat :=
  let t : Tab PByte := Tab.setList ⟨0, false⟩ [] 0 src
  let rd := fun a => Tab.get ⟨0, false⟩ t a
  let el := fun r c => elemAt rd (r * rowBytes f m.cols) f c
  let lost := (List.range m.rows).flatMap fun r => (List.range m.cols).filter fun c =>
    !m.kept r c && !(el r c).poison && !(decode f (el r c).bits).isZero
  (packRow f (m.slots.map fun p => el p.1 p.2), lost.length)

/-- The words of the command (R156). -/
def maskBad (w : List Nat) : Bool :=
  let p := maskP (wd w 1)
  decide (255 < wd w 0) || !([1, 2].contains (wd w 1)) || wd w 2 == 0 || decide (lenMax < wd w 2) || wd w 2 % p != 0
    || wd w 3 == 0 || decide (lenMax < wd w 3) || wd w 3 % p != 0 || wd w 6 == 8 || decide (9 < wd w 6)
    || !addresses w [4, 5, 7, 8, 9]

def Dev.maskLoad (s : Dev) (n : Nat) (blk : BlockRead) : Dev :=
  s.runBlock n 0x0062 ⟨10, 0, 0⟩ blk fun _ h b =>
    let w := b.fixed
    let kind := wd w 1
    let rows := wd w 2
    let cols := wd w 3
    let f := fmtD (wd w 6)
    let src := wd w 5
    let srcBytes := if src = 0 then 0 else rows * rowBytes f cols
    let patches := rows / maskP kind * (cols / maskP kind)
    let plane := patches * if kind = 1 then 3 else 16
    let vals := rowBytes f (patches * maskP kind * maskN kind)
    let denied := !s.mapped h src srcBytes false || (src != 0 && !s.mapped h (wd w 7) vals true)
      || !s.mapped h (wd w 8) plane true || !s.mapped h (wd w 9) plane true
    if maskBad w then s.finishJob n .badParameter 0
    else if denied then s.finishJob n .notPermitted 0
    else s.withList h n (wd w 4) (ceilDiv (rows * cols) 8) fun bs d =>
      let m : MaskSource := { kind := kind, rows := rows, cols := cols, bits := leNat (bs.map (·.val)) }
      match m.fault with
      | some r => d.finishJob n .formatFault r
      | none =>
        match d.readList h src srcBytes with
        | none => s
        | some (sb, d1) =>
          let v := m.values f sb
          let a := ctlAgent h
          let d2 := (d1.writeVa a false (wd w 8) (plainBytes (m.plane m.colKept))).writeVa a false (wd w 9)
            (plainBytes (m.plane m.rowKept))
          let d3 := if src = 0 then d2 else d2.writeVa a false (wd w 7) v.1
          let kept := m.slots.map fun p => p.1 * cols + p.2
          let entry : MaskEntry := { kind := kind, rows := rows, cols := cols, kept := kept, valVa := wd w 7
                                     rowPlaneVa := wd w 8, colPlaneVa := wd w 9 }
          (d3.modHolding h fun y => { y with waiting := y.waiting ++ [.mask (wd w 0) entry] }).finishJob n .ok
            (resultOf (if src = 0 then 0 else v.2) 0 0 0)

/-! ### Checkpoint mirrors -/

/-- Runs an operation of CHECKPOINT_MIRROR_SET: each row answers for its own OP, and any row for a reserved one. -/
def Dev.runMirror (s : Dev) (n op : Nat) (blk : BlockRead) (f : Job → HoldId → List Nat → List (Nat × Nat) → Dev) : Dev :=
  s.runBlock n 0x00E0 ⟨6, 2, 0⟩ blk fun j h b =>
    let w := b.fixed
    let ranges := b.list1.map fun r => (wd r 0, wd r 1)
    if 3 < wd w 0 then s.finishJob n .badParameter 0
    else if wd w 0 ≠ op then s
    else if 65535 < wd w 1 || 65535 < wd w 2 then s.finishJob n .badParameter 0
    else f j h w ranges

/-- The blocks of the regions that a mirror reserves. -/
def MirrorServe.blocks (m : MirrorServe) : List Nat :=
  (List.range (m.regions * regionBlocks)).map fun i => farBase / 4096 + m.firstRegion * regionBlocks + i

def Dev.serveAt (s : Dev) (buddy : Nat) : Option MirrorServe := Tab.get none s.serves buddy

/-- SERVE: the regions become the device's, in two slots for the buddy. -/
def Dev.mirrorServe (s : Dev) (n : Nat) (blk : BlockRead) : Dev :=
  s.runMirror n 0 blk fun j _ w _ =>
    let first := wd w 4
    let count := wd w 5
    let bad := wd w 1 == s.number.toNat || count == 0 || first == 0 || decide (768 < first + count)
    let free := (List.range count).all fun i => (s.freeRegions 1).contains (first + i)
    if j.fn != 0 then s.finishJob n .notPermitted 0
    else if bad then s.finishJob n .badParameter 0
    else if (s.serveAt (wd w 1)).isSome then s.finishJob n .busyConflict 0
    else if !free then s.finishJob n .noResource 0
    else
      let m : MirrorServe := { buddy := BitVec.ofNat 16 (wd w 1), firstRegion := first, regions := count, complete := none }
      let s1 := m.blocks.foldl (fun d b => d.setTag b { owner := .device }) s
      ({ s1 with serves := Tab.set none s1.serves (wd w 1) (some m) } : Dev).finishJob n .ok 0

/-- Ranges of whole blocks, up to 64. -/
def rangesBad (rs : List (Nat × Nat)) : Bool :=
  rs.isEmpty || decide (64 < rs.length)
    || rs.any fun r => r.1 % 4096 != 0 || r.2 % 4096 != 0 || r.2 == 0 || decide (2 ^ 52 < r.1 + r.2)

/-- SEND. -/
def Dev.mirrorSend (s : Dev) (n : Nat) (blk : BlockRead) (slotBlocks : Nat) : Dev :=
  s.runMirror n 1 blk fun _ h w rs =>
    let m : MirrorSend := { buddy := BitVec.ofNat 16 (wd w 1), every := wd w 3, ranges := rs, running := false, step := 0, slot := 0 }
    if wd w 1 == s.number.toNat || wd w 3 == 0 || decide (65535 < wd w 3) || rangesBad rs then s.finishJob n .badParameter 0
    else if rs.any fun r => !s.mapped h r.1 r.2 false then s.finishJob n .notPermitted 0
    else if slotBlocks < m.blocks.length + 1 then s.finishJob n .noResource 0
    else (s.modHolding h fun x => { x with mirrorSend := some m }).finishJob n .ok 0

/-- The data that has come for a range, if its CRC-64 over its block CRCs is the one that the generation record holds. -/
def goodRange (parts : List (Nat × List PByte × Word64)) (p : (Nat × Nat) × Nat) : Option (List PByte) :=
  match parts.find? fun q => q.1 == p.2 with
  | some (_, data, crc) =>
    let crcs := (List.range (p.1.2 / 4096)).flatMap fun i =>
      leBytes 4 (crc32c (((data.drop (4096 * i)).take 4096).map (·.val))).toNat
    if p.1.2 ≤ data.length ∧ crc64 crcs = crc then some data else none
  | none => none

/-- RESTORE: each range is written with its data, or poisoned where its check fails (R405). -/
def Dev.mirrorRestore (s : Dev) (n : Nat) (blk : BlockRead) (gen : Option (Word32 × List (Nat × List PByte × Word64))) : Dev :=
  s.runMirror n 2 blk fun _ h _ rs =>
    if rangesBad rs then s.finishJob n .badParameter 0
    else if rs.any fun r => !s.mapped h r.1 r.2 true then s.finishJob n .notPermitted 0
    else
      match gen with
      | none => s.finishJob n .wrongState 0
      | some (step, parts) =>
        let put := fun (d : Dev) (p : (Nat × Nat) × Nat) =>
          match goodRange parts p with
          | some data => d.writeVa (ctlAgent h) false p.1.1 (data.take p.1.2)
          | none => d.writeVa (ctlAgent h) false p.1.1 (poisonedBytes p.1.1 p.1.2)
        let items := rs.zip (List.range rs.length)
        let bad := items.any fun p => (goodRange parts p).isNone
        (items.foldl put s).finishJob n (if bad then .poisoned else .ok) (resultOf step.toNat 0 0 0)

/-- RELEASE: the PF ends a SERVE or a SEND, a VF its own SEND. -/
def Dev.mirrorRelease (s : Dev) (n : Nat) (blk : BlockRead) : Dev :=
  s.runMirror n 3 blk fun j h w _ =>
    let sends := (s.holding h).mirrorSend.any fun m => m.buddy.toNat == wd w 1
    let serves := s.serveAt (wd w 1)
    if !sends && serves.isNone then s.finishJob n .badParameter 0
    else if !sends && j.fn != 0 then s.finishJob n .notPermitted 0
    else
      let s1 := if sends then s.modHolding h fun x => { x with mirrorSend := none } else s
      let s2 := match serves with
        | none => s1
        | some m =>
          if j.fn != 0 then s1
          else
            let d : Dev := m.blocks.foldl (fun (d : Dev) b => d.setTag b (unmappedTag (d.tag b))) s1
            ({ d with serves := Tab.set none d.serves (wd w 1) none } : Dev).rebuildRegions
      s2.finishJob n .ok 0

/-! ### The commands -/

/-- A table command that may also serve a mirror. -/
def Dev.mirrorScope (s r : Dev) : Dev := { s.lifeScope r with serves := r.serves }

def execMaskLoad (n : Nat) (blk : BlockRead) (s : State) : Host.Outcome State Fault Refusal :=
  done s (s.dev.lifeScope (s.dev.maskLoad n blk))
def execMirrorServe (n : Nat) (blk : BlockRead) (s : State) : Host.Outcome State Fault Refusal :=
  done s (s.dev.mirrorScope (s.dev.mirrorServe n blk))
def execMirrorSend (n : Nat) (blk : BlockRead) (slotBlocks : Nat) (s : State) : Host.Outcome State Fault Refusal :=
  done s (s.dev.mirrorScope (s.dev.mirrorSend n blk slotBlocks))
def execMirrorRestore (n : Nat) (blk : BlockRead) (gen : Option (Word32 × List (Nat × List PByte × Word64))) (s : State) :
    Host.Outcome State Fault Refusal :=
  done s (s.dev.mirrorScope (s.dev.mirrorRestore n blk gen))
def execMirrorRelease (n : Nat) (blk : BlockRead) (s : State) : Host.Outcome State Fault Refusal :=
  done s (s.dev.mirrorScope (s.dev.mirrorRelease n blk))

end Sys2Proof.Machine
end

