-- ==== Sys2Proof/Machine/Status.lean ====
section
/-! DEFINITION. The registers that are formed from the state at each read (R79 to R557): identity, status and
summary registers, by die and window offset; and which dies cannot be reached (R454). -/

namespace Sys2Proof.Machine

open Sys2Proof

/-- A number of a flag. -/
def flag (b : Bool) : Nat := if b then 1 else 0
def word (n : Nat) : Word32 := BitVec.ofNat 32 n

/-! ### Unreachable dies (R231, R454, R482, R522) -/

/-- A die whose register port cannot answer. The fenced die of a memory controller cannot (R231). -/
def Dev.unreachable (s : Dev) (d : Nat) : Bool :=
  if d = kpr then !s.pins.inputPower
  else
    let k := dieKind d
    let x := s.die d
    !s.pins.inputPower || s.pins.heldHot || !s.power.pllLock || s.fullSurvey || x.survey || x.offline || (x.fenced && (k == 1 || k == 3))
      || s.power.state == .fallow || s.power.state == .off || (s.power.state == .sleep && k != 2 && k != 5)

/-- A unit of the die is in a running maintenance activity (R456, R504). -/
def Dev.inMaint (s : Dev) (d : Nat) : Bool :=
  s.service.activities.any fun a => a.state == .running && unitsOverlap a.units (dieUnits d)

/-! ### The window header (R456, R464, R468) -/

def pathNum : Path → Nat
  | .host => 0 | .mgmt => 1 | .gotre => 2
def guardKey (die : Nat) (p : Path) : Nat := die * 4 + pathNum p
def Dev.guard (s : Dev) (die : Nat) (p : Path) : Bool := Tab.get false s.guards (guardKey die p)

/-- Pending slots of a die that hold a value. -/
def Dev.slotsOf (s : Dev) (die : Nat) : Nat := (s.slots.filter fun t => t.1 / 0x40000 == die && t.2.isSome).length

def Dev.headerValue (s : Dev) (d off : Nat) : Nat :=
  let x := s.die d
  match off with
  | 0x00 => 0x01000000 + dieKind d * 0x100 + d
  | 0x04 => flag x.fenced + 2 * flag x.offline + 4 * flag (x.survey || (s.fullSurvey && d != kpr)) + 8 * flag (s.inMaint d) + 16 * flag x.testMode
  | 0x0C => flag (s.guard d .host) + 2 * flag (s.guard d .mgmt) + 4 * flag (s.guard d .gotre)
  | 0x10 => min (s.slotsOf d) 0xFF
  | _ => 0

/-! ### Compute dies (R79, R123, R147, R187, R214, R267, R297) -/

/-- The started descriptor of a class on a core. -/
def Core.runningClass (x : Core) (cls : Nat) : Option WEntry :=
  x.window.find? fun e => e.phase == .started && classOf e.desc == cls

def Dev.plgStatus (s : Dev) (c : CoreId) : Nat :=
  let fenced := 0x20 * flag (!s.coreLive c)
  match (s.core c).runningClass 1 with
  | none => fenced
  | some e =>
    let d := denseOf e.desc
    d.form + 8 * flag d.feed + 0x10 * flag ((s.core c).passLeft e) + fenced + 0x40 * flag d.emu + 0x80 * d.mask

/-- The queues of the stages that a core carries. -/
def Dev.queuesOn (s : Dev) (c : CoreId) : List Queue :=
  match s.holdingOfCore c with
  | none => []
  | some h => ((s.holding h).stages.filter fun g => g.runsOn == some c).map fun g => s.queue g.dfn.queue

/-- A stream of the core has descriptors that its queue holds and the core has not taken. -/
def Dev.queueHolds (s : Dev) (c : CoreId) : Bool :=
  match s.holdingOfCore c with
  | none => false
  | some h => (s.holding h).stages.any fun g => g.runsOn == some c && (s.queue g.dfn.queue).accepted != g.next

/-- A running GROUPED product has tiles in spill slots (R108, R123). -/
def Dev.holdsSpill (s : Dev) (c : CoreId) : Bool :=
  let x := s.core c
  match x.started 1 [1] with
  | none => false
  | some e =>
    let d := denseOf e.desc
    let rows := (List.range d.groupCount).map fun i => x.problemRows (x.groupEntry d.groupTable i)
    let tiles := (rows.map fun q => if q.2.1 then 0 else ceilDiv q.1 (formF d.form)).sum
    (List.range tiles).any fun n =>
      match tilePlace d.accTile 0 (s.reg (seqReg c 0xC)).toNat n with | .spill _ => true | _ => false

def Dev.seqStatus (s : Dev) (c : CoreId) : Nat :=
  let x := s.core c
  flag (x.window.isEmpty && !s.queueHolds c) + 2 * flag (!s.coreLive c)
    + 4 * flag ((s.queuesOn c).any fun q => q.state == .halted) + 8 * flag (s.holdsSpill c) + 0x100 * x.window.length

def Dev.wdrStatus (s : Dev) (c : CoreId) : Nat :=
  let fenced := 2 * flag (!s.coreLive c)
  match (s.core c).runningClass 3 with
  | none => fenced
  | some e => 1 + fenced + 4 * flag (s.gathers c) + 0x100 * opcodeOf e.desc

def Dev.ctrStatus (s : Dev) (c : CoreId) : Nat :=
  let x := s.core c
  flag (x.pf.any PfSector.inFlight) + 2 * flag (!s.coreLive c)
    + 4 * flag (decide (0x1000000 ≤ x.outstanding))
    + 8 * flag (s.reg (ctrReg c 8) != 0 && s.freeSlots c == [])
    + 0x10 * flag (x.served.any fun e => !(cpyOf e.desc).stable && x.fencedOff e) + 0x100 * x.served.length

def Dev.xfmStatus (s : Dev) (c : CoreId) : Nat :=
  let x := s.core c
  flag (!x.batch.isEmpty) + 2 * flag (!s.coreLive c) + 0x10 * x.batch.length + 0x200 * x.batchPhase.val

/-- The counters of every holding. -/
def Dev.allCounters (s : Dev) : List Counter := allHoldings.flatMap fun h => (s.holding h).counters

def Dev.tlyStatus (s : Dev) (d : Nat) : Nat :=
  let mine := s.allCounters.filter fun k => s.tallyDie k == d
  mine.length + 0x400 * flag (mine.any fun k => k.taken)
    + 0x800 * flag (mine.any fun k => k.copying)

/-- A deadline of R289 runs for a batch. -/
def Dev.deadlineRuns (s : Dev) (x : Holding) (b : Batch) : Bool :=
  b.live && ((b.deadline.any (fun t => !reached s.dt t) && !x.allReplied b (x.lastRound b))
    || (b.homeDeadline.any (fun t => !reached s.dt t) && !x.allCounted b (x.lastRound b)))

def Dev.drlStatus (s : Dev) (d : Nat) : Nat :=
  let mine := allHoldings.filter fun h => (s.holding h).state != .closed && s.coordinator h == d
  let live := (mine.map fun h => (s.holding h).liveTags).sum
  flag ((List.range 8).any fun p => ((s.core (Fin.ofNat 256 (8 * d + p))).runningClass 5).isSome)
    + 2 * flag (s.die d).fenced
    + 4 * flag (mine.any fun h => (s.holding h).batches.any fun b => s.deadlineRuns (s.holding h) b)
    + 8 * flag (decide (0 < live)) + 0x10 * min live 256

def Dev.computeValue (s : Dev) (d o : Nat) : Nat :=
  let c := fun (stride : Nat) => (Fin.ofNat 256 (8 * d + o % 0x1000 / stride % 8) : CoreId)
  if o < 0xB000 then s.plgStatus (c 0x100)
  else if o < 0xC000 then
    if o % 0x100 = 0 then s.seqStatus (c 0x100)
    else Tab.get 0 (s.core (c 0x100)).lregs ((o % 0x100 - 0x80) / 4 + 1)
  else if o < 0xD000 then s.wdrStatus (c 0x100)
  else if o < 0xE000 then (if o % 0x100 = 0 then s.ctrStatus (c 0x100) else (s.core (c 0x100)).epoch.toNat)
  else if o < 0x10000 then s.xfmStatus (c 0x100)
  else if o = 0x10000 then s.tlyStatus d
  else if o = 0x12000 then s.drlStatus d
  else 0

/-! ### Memory controllers (R242, R227, R507) -/

def Dev.nmcStatus (s : Dev) (k : StackId) : Nat :=
  let x := s.stack k
  flag (x.fenced || (s.die (stackDie k)).fenced) + 2 * flag x.throttled + 4 * flag x.offline + 8 * flag x.retraining
    + 0x10 * flag x.retrainPending + 0x100 * x.channel.val

/-- The stack whose registers lie at an offset of a die. -/
def stackAt (d o : Nat) : StackId :=
  if d < 48 then Fin.ofNat 24 (d - 32) else Fin.ofNat 24 (16 + 2 * (d - 56) + (o - 0x10000) / 0x100)

/-- The bulk slots that the maintenance scheduler holds (R507). -/
def bulkSlots : Nat := 2

def Dev.stackValue (s : Dev) (d o : Nat) : Nat :=
  match o % 0x100 with
  | 0x00 => s.nmcStatus (stackAt d o)
  | 0x04 => (s.stack (stackAt d o)).temp.toNat
  | _ => bulkSlots

/-! ### Link dies (R329 to R332, R359, R379, R415) -/

def Dev.klxStatus (s : Dev) (p : PortId) : Nat :=
  let q := s.port p
  flag (decide (replayRoom ≤ q.replay.length))
    + 2 * flag (s.seqTx.any fun t => homePort (BitVec.ofNat 16 (t.1 / 4)) == p && t.2.unreachable)
    + 4 * flag (decide (storeRoom ≤ s.storeUse p)) + 8 * flag q.half + 0x10 * q.state.code.toNat

def Dev.klxPeer (s : Dev) (p : PortId) : Nat :=
  let q := s.port p
  q.peer.toNat + 0x10000 * q.peerPort.val + 0x100000 * flag q.fabric

/-- A GATHER_WAIT waits for a chunk of a link die. -/
def Dev.gatherWaits (s : Dev) (p : PortId) : Bool :=
  (List.finRange 256).any fun c =>
    match (s.core c).running 6 [1], s.holdingOfCore c with
    | some e, some h =>
      let k := collOf e.desc
      let x := s.holding h
      (List.range k.chunks).any fun i =>
        x.rankPort (k.first + i) == some p && !x.chunkGathered k.group k.reduction (k.first + i)
    | _, _ => false

def Dev.windowsAt (s : Dev) (p : PortId) : List RedWindow :=
  allHoldings.flatMap fun h => (s.holding h).windows.filter fun w => w.port == p

/-- A message of a kind waits at the gate of a link die or for its port. -/
def Dev.sending (s : Dev) (p : PortId) (f : OutMsg → Bool) : Bool :=
  (s.gate.any fun g => g.port == p && f g.msg) || (s.port p).queue.any fun i =>
    match i.wire with
    | .part _ _ _ _ _ m _ _ => f m
    | _ => false

/-- The messages of R345 and R347 but for the trailer. -/
def OutMsg.isReduction : OutMsg → Bool
  | .scale .. | .reply .. | .data .. | .gatherFlit .. => true
  | _ => false
def OutMsg.isTrailer : OutMsg → Bool
  | .trailer .. => true
  | _ => false

/-- RED_STATUS; BUSY stands while reduction flits of the die have not left (DEDUCED, notes/assumptions/124). -/
def Dev.redStatus (s : Dev) (p : PortId) : Nat :=
  let ws := (s.windowsAt p).filter fun w => !w.dataClosed
  flag (s.sending p OutMsg.isReduction) + 2 * flag (ws.any fun w => !w.scaleClosed) + 4 * flag (!ws.isEmpty) + 8 * flag (s.gatherWaits p)
    + 0x100 * min ws.length 0xFF

/-- A final block waits for the Harrow of a link die. -/
def Dev.blockWaits (s : Dev) (p : PortId) : Bool :=
  (s.windowsAt p).any fun w => w.chunks.any fun k => k.blocks.any fun b => b.2.final && !b.2.taken

/-- HRW_STATUS; the matrix unit works within one command, so MATRIX reads 0 (DEDUCED, notes/assumptions/124). -/
def Dev.hrwStatus (s : Dev) (p : PortId) : Nat :=
  let open' := allHoldings.flatMap fun h =>
    ((s.holding h).precond.filter fun z => z.port == p && !z.done).map fun z => (Tab.get none (s.holding h).entries z.entry).all fun e =>
      decide (z.values.length < e.br * e.bc)
  let n := (open'.filter id).length
  flag (s.blockWaits p || open'.any (!·)) + 8 * flag (s.sending p OutMsg.isTrailer) + 0x10 * min n 0xFF

/-- HDL_STATUS: the occupancy in units of 256 KiB, of 1,024 flits each, and FULL (R415; DEDUCED of the unit,
notes/assumptions/149). -/
def Dev.hdlStatus (s : Dev) (p : PortId) : Nat := min (s.gateUse p / 1024) 0xFFFF + 0x10000 * flag (gateRoom ≤ s.gateUse p)

/-- The offset of KLX_TIME_OFFSET as its register holds it; the time master reads 0 (R324). -/
def Dev.timeOffset (s : Dev) : Nat := if s.isMaster then 0 else (BitVec.ofInt 32 s.time.offset).toNat

def Dev.linkValue (s : Dev) (d o : Nat) : Nat :=
  let p : PortId := Fin.ofNat 8 (d - 48)
  match o with
  | 0x13000 => s.klxStatus p
  | 0x13090 => s.klxPeer p
  | 0x13308 => s.timeState
  | 0x1330C => s.timeOffset
  | 0x14000 => s.redStatus p
  | 0x15000 => s.hrwStatus p
  | 0x17000 => s.hdlStatus p
  | _ => if 0x13500 ≤ o ∧ o < 0x13600 then (s.links ((o - 0x13500) / 4)).toNat else 0

/-! ### The control die (R415, R458) -/

/-- The event registers of a die, REG_EVENT among them (R457). -/
def eventOffsets (d : Nat) : List Nat :=
  0x14 ::
    match dieKind d with
    | 0 => (List.range 9).map fun p => 0x100 + 4 * p
    | 2 => [0x100, 0x104]
    | 3 => [0x100, 0x104]
    | _ => [0x100]

def Dev.anyEvent (s : Dev) (d : Nat) : Bool := (eventOffsets d).any fun o => s.reg (regAt d o) != 0

/-- A bit for each of 32 dies from one on. -/
def dieBits (first : Nat) (f : Nat → Bool) : Nat := ((List.range 32).map fun i => if f (first + i) then 2 ^ i else 0).sum

def Dev.controlValue (s : Dev) (o : Nat) : Nat :=
  match o with
  | 0x200 => dieBits 0 s.anyEvent
  | 0x204 => dieBits 32 s.anyEvent
  | 0x208 => dieBits 0 s.unreachable
  | 0x20C => dieBits 32 s.unreachable
  | _ => (s.reg (regAt ctl o)).toNat

/-! ### The keeper die (R493, R494, R517, R534, R557) -/

def Dev.pwrStatus (s : Dev) : Nat :=
  let w := s.power
  w.state.code.toNat + 8 * flag w.transition + 0x10 * w.target.code.toNat + 0x100 * w.ratio

def Dev.dbgState (s : Dev) : Nat :=
  let v := s.service
  ((allHoldings.filter fun h => v.dbgHoldings.contains h).map fun h => 2 ^ h.val).sum + 0x100 * flag v.dbgDevice
    + 0x200 * flag v.dbgTest

def Dev.flashState (s : Dev) : Nat :=
  let v := s.service
  (match v.writing with | some (k, _) => k.val | none => 0) + 0x100 * flag v.recovery

def Dev.svyStatus (s : Dev) : Nat :=
  let y := s.survey
  flag y.frozen + 2 * flag y.dieScope + 4 * y.die.val + 0x100 * y.cause.val

def Dev.challenge (s : Dev) : BitVec 256 := Config.challenge s.service.challenges

def Dev.keeperValue (s : Dev) (o : Nat) : Nat :=
  match o with
  | 0x19000 => flag s.power.pllLock + 2 * flag s.power.holdover
  | 0x19008 => s.dt.toNat % 2 ^ 32
  | 0x1900C => (Tab.get 0 s.ctrHi (regAt kpr 0x19008)).toNat
  | 0x1A000 => s.pwrStatus
  | 0x1A004 => s.power.inputW
  | 0x1A038 => s.power.logNext.val
  | 0x1B000 => s.dbgState
  | 0x1B004 => s.flashState
  | 0x1C008 => s.svyStatus
  | 0x1C00C => s.survey.number.toNat
  | 0x1C010 => s.survey.freezeDt.toNat % 2 ^ 32
  | 0x1C014 => s.survey.freezeDt.toNat / 2 ^ 32
  | 0x1D008 => s.pins.coolant.1 + 0x100 * s.pins.coolant.2.1 + 0x10000 * s.pins.coolant.2.2
  | _ =>
    if 0x1A040 ≤ o ∧ o < 0x1A080 then (nthD s.power.log ((o - 0x1A040) / 4) 0).toNat
    else if 0x1B010 ≤ o ∧ o < 0x1B030 then (s.challenge >>> (8 * (o - 0x1B010))).toNat % 2 ^ 32
    else 0

/-- A register that is formed at its read. -/
def Dev.statusValue (s : Dev) (d off : Nat) : Word32 :=
  word (if off < 0x100 then s.headerValue d off
    else match dieKind d with
      | 0 => s.computeValue d off
      | 1 => s.stackValue d off
      | 2 => s.linkValue d off
      | 3 => s.stackValue d off
      | 5 => s.controlValue off
      | 6 => s.keeperValue off
      | _ => 0)

end Sys2Proof.Machine
end

