-- ==== Sys2Proof/Machine/Report.lean ====
section
/-! DEFINITION. The commands that report (R433 to R435, R511 to R513, R533) and SURVEY_ARM (R520): DEVICE_QUERY,
CAPS_QUERY, ATTEST, IDENTITY_GET and TELEMETRY_READ. -/

namespace Sys2Proof.Machine

open Sys2Proof

/-- A job with its output block (R425, R433). -/
def Dev.runOutput (s : Dev) (n op : Nat) (f : Job → Dev) : Dev :=
  s.runJob n op fun j => if j.blockAddr.setWidth 6 != (0 : BitVec 6) then s.finishJob n .badParameter 0 else f j

/-- The holding whose entries a function sees: none for the PF, which sees all. -/
def seesHolding (f : FnId) (h : HoldId) : Bool := f == 0 || f == vfOf h

/-! ### DEVICE_QUERY (R434) -/

/-- The fence cause of a die (R414): its CHK_CAUSE where it has one. The other dies are fenced by maintenance alone. -/
def Dev.dieCause (s : Dev) (d : Nat) : Nat :=
  match dieKind d with
  | 0 => (s.reg (regAt d 0x16400)).toNat
  | 2 => (s.reg (regAt d 0x16000)).toNat
  | _ => if (s.die d).fenced then FenceCause.maintenance.code.toNat else 0

def Dev.dieByte (s : Dev) (d : Nat) : Byte :=
  let x := s.die d
  let st := if x.fenced then 1 else if x.offline then 2 else if s.inMaint d then 3 else 0
  BitVec.ofNat 8 (st + 16 * (s.dieCause d % 16))

/-- The image that stands in flash (R495, R498, R559). -/
def Dev.flashImage (s : Dev) (kind : Nat) : Image := (Tab.get none s.service.flash kind).getD (shippedImage kind)

/-- Kinds whose flash image fails verification, as recovery reports them (R499). -/
def Dev.failedKinds (s : Dev) : Nat :=
  if s.gotre.deviceState != .recovery then 0
  else (((List.range 7).filter fun k => !(s.flashImage (k + 1)).good).map fun k => 2 ^ k).sum

/-- Destinations marked unreachable (R314). -/
def Dev.lostDevices (s : Dev) : List Nat :=
  (s.seqTx.filter fun t => t.2.unreachable).foldl (fun l t => insertSorted (t.1 / 4) l) []

def Dev.deviceReport (s : Dev) (f : FnId) : List Byte :=
  let lost := s.lostDevices
  let live := bitmap 32 fun n => s.coreLive (Fin.ofNat 256 n)
  let stackBytes := (List.finRange 24).map fun k => BitVec.ofNat 8 (s.nmcStatus k % 32)
  let ports := (List.finRange 8).map fun p => (s.port p).state.code.setWidth 8
  let states := (0 : Byte) :: allHoldings.map fun h =>
    if seesHolding f h then (s.holding h).state.code.setWidth 8 else 0
  let parked := allHoldings.flatMap fun h =>
    bitmap 32 fun n => seesHolding f h && (s.holding h).stages.any fun g => g.dfn.stage == n && g.runsOn.isNone
  let head := le16 s.number.toNat ++ [BitVec.ofNat 8 (flag s.numberValid), s.gotre.deviceState.code.setWidth 8]
  let part1 := area 8 head ++ le64 s.dt.toNat ++ live ++ (List.range 64).map s.dieByte
  let part2 := area 256 (part1 ++ stackBytes ++ ports ++ states) ++ parked
  area 4096 (part2 ++ le32 lost.length ++ area 128 ((lost.take 64).flatMap le16) ++ [BitVec.ofNat 8 s.failedKinds])

def Dev.deviceQuery (s : Dev) (n : Nat) : Dev := s.runOutput n 0x0001 fun j => s.finishOutput j (s.deviceReport j.fn)

/-! ### CAPS_QUERY (R435) -/

/-- Queues that no open holding reserves. -/
def Dev.freeQueues (s : Dev) : Nat :=
  queueCount - (allHoldings.map fun k => if (s.holding k).state == .closed then 0 else (s.holding k).queueLimit).sum

/-- The dense FP8 peak in GFLOP/s, rounded down (R12, R13): its fraction's rounding is not stated. -/
def densePeak (live : Nat) : Nat := live * 16384 * 2 * 940 / 1000

def Dev.liveCount (s : Dev) : Nat := ((List.finRange 256).filter fun c => s.coreLive c).length

/-- The records of R435; a peak that is no whole number of GFLOP/s is rounded up or down by a free bit. -/
def Dev.capsReport (s : Dev) (up : Bool) : List Byte :=
  let live := s.liveCount
  let peak := densePeak live + (if up && live * 16384 * 2 * 940 % 1000 != 0 then 1 else 0)
  let vs := [live, 0xF, 16384, 3 + 9 * 256, 16 + 64 * 256, 131072, s.freeQueues, 8, 8388608, 4096 + 8 * 65536, 0xF
             , (s.freeRegions 0).length, (s.freeRegions 1).length, peak]
  (List.range vs.length).flatMap fun i => le64 (i + 1) ++ le64 (nthD vs i 0)

def Dev.capsQuery (s : Dev) (n : Nat) : Dev :=
  s.runOutput n 0x0002 fun j =>
    let v := s.takeFree
    v.2.finishOutput j (s.capsReport (v.1.getLsbD 0))

/-! ### Measurements, ATTEST and IDENTITY_GET (R510 to R513) -/

/-- The identity key's secret (R511). -/
def identitySecret : List Byte :=
  (Config.sha512 (Config.identitySeed ++ "LZ4 identity".toList.map fun c => BitVec.ofNat 8 c.toNat)).take 32

/-- A certificate as IDENTITY_GET writes it: its length, the certificate, zeros up to a multiple of 8 bytes (R511). -/
def certificateRecord (i : Nat) : List Byte :=
  let l := leBytes 4 (Config.certificate i).length ++ Config.certificate i
  l ++ List.replicate ((8 - l.length % 8) % 8) 0

/-- The chain, from the device certificate to the root (R511). -/
def certificateChain : List Byte := [0, 1, 2].flatMap certificateRecord

/-- The SVN floor of a kind in the fuses: what the module shipped with, as activations have raised it (R510). -/
def Service.floor (v : Service) (kind : Nat) : Nat := max (Config.shippedSvnFloor kind % 32) (Tab.get 0 v.svnFloor kind)

/-- What measurement 9 covers, as numbers (R512): the key slots and their revocation bits, the floors,
KPR_DBG_STATE, IDE and VFs. -/
def Dev.securityState (s : Dev) : List Nat :=
  (List.range 4).flatMap (fun k => (Config.fuseKey k).map BitVec.toNat ++ [if s.service.revoked.contains k then 1 else 0]) ++ (List.range 7).map (fun k => s.service.floor (k + 1))
    ++ [s.dbgState, Config.ideState, Config.enabledVfs]

/-- Measurement i of 1 to 10: 64 bytes. -/
def Dev.measurement (s : Dev) (i : Nat) : List Byte :=
  area 64 <|
    if i = 1 then Config.bootRomMeasurement
    else if i ≤ 8 then (s.activeImage (i - 1)).measured
    else if i = 9 then Config.securityDigest s.securityState
    else s.service.activationLog

def Dev.attestation (s : Dev) (nonce : Nat) : List Byte :=
  let body := leBytes 32 nonce ++ le16 s.number.toNat ++ List.replicate 6 0 ++ le64 s.dt.toNat
    ++ (List.range 10).flatMap fun i => s.measurement (i + 1)
  body ++ area 64 (Config.ed25519Sign identitySecret body)

def Dev.attest (s : Dev) (n : Nat) : Dev := s.runOutput n 0x0090 fun j => s.finishOutput j (s.attestation (j.param 255 0))

def Dev.identityGet (s : Dev) (n : Nat) : Dev := s.runOutput n 0x0091 fun j => s.finishOutput j certificateChain

/-! ### TELEMETRY_READ (R533) -/

/-- The record of a step, or the latest one. -/
def Holding.recordFor (x : Holding) (step : Nat) : Option StepRecord :=
  if step = 0xFFFFFFFF then x.records.getLast? else (x.records.filter fun r => r.step.toNat == step).getLast?

def Dev.telemetryRead (s : Dev) (n : Nat) : Dev :=
  s.runOutput n 0x00C0 fun j =>
    let src := j.param 7 0
    if 8 ≤ src then s.finishJob n .badParameter 0
    else
      let h : HoldId := Fin.ofNat 8 src
      if !seesHolding j.fn h then s.finishJob n .notPermitted 0
      else match (s.holding h).recordFor (j.param 39 8) with
        | some r => s.finishOutput j r.bytes
        | none => s.finishJob n .badParameter 0

/-! ### SURVEY_ARM (R520) -/

/-- The events that a die's register at an offset lists (R457). -/
def eventMask (d off : Nat) : Nat :=
  if off ≠ 0x14 ∧ (eventOffsets d).contains off then ((regInfo d off).map fun i => i.rc.toNat).getD 0 else 0

/-- A trigger, none where TRIGGER is malformed: it disarms when SCOPE is 0. -/
def triggerOf (j : Job) : Except Unit (Option Trigger) :=
  let d := j.param 5 0
  let off := 4 * j.param 17 8
  let b := j.param 22 18
  let scope := j.param 24 23
  if j.param 7 6 ≠ 0 ∨ j.param 63 26 ≠ 0 ∨ scope = 3 then .error ()
  else if scope = 0 then .ok none
  else if !(eventMask d off).testBit b || (scope == 2 && dieKind d != 0) then .error ()
  else .ok (some { once := j.param 25 25 == 1, full := scope == 1, bit := b, offset := off, die := Fin.ofNat 64 d })

def Dev.surveyArm (s : Dev) (n : Nat) : Dev :=
  s.runJob n 0x00B0 fun j =>
    match triggerOf j with
    | .error _ => s.finishJob n .badParameter 0
    | .ok t => ({ s with survey := { s.survey with armed := t } } : Dev).finishJob n .ok 0

/-! ### The commands -/

def execDeviceQuery (n : Nat) (s : State) : Host.Outcome State Fault Refusal := done s (s.dev.gotreScope (s.dev.deviceQuery n))
def execCapsQuery (n : Nat) (s : State) : Host.Outcome State Fault Refusal := done s (s.dev.gotreScope (s.dev.capsQuery n))
def execAttest (n : Nat) (s : State) : Host.Outcome State Fault Refusal := done s (s.dev.gotreScope (s.dev.attest n))
def execIdentityGet (n : Nat) (s : State) : Host.Outcome State Fault Refusal := done s (s.dev.gotreScope (s.dev.identityGet n))
def execTelemetryRead (n : Nat) (s : State) : Host.Outcome State Fault Refusal := done s (s.dev.gotreScope (s.dev.telemetryRead n))
def execSurveyArm (n : Nat) (s : State) : Host.Outcome State Fault Refusal :=
  done s (s.dev.lifeScope (s.dev.surveyArm n))

end Sys2Proof.Machine
end

