-- ==== Sys2Proof/Machine/Registers.lean ====
section
/-! DEFINITION. Register reads (R80, R420, R421, R436, R443, R452 to R461), the key guard (R467 to R469), and the rules by
which a write reaches a register (R453, R463, R464, R470). The rows that write are in Machine/Write.lean. -/

namespace Sys2Proof.Machine

open Sys2Proof

/-! ### The value of a register (R5, R457, R462, R470) -/

/-- The bits that no field of the register names. -/
def RegInfo.reserved (i : RegInfo) : Word32 := ~~~(i.ro ||| i.rw ||| i.rwk ||| i.rc ||| i.wo)

/-- What the fields of a register read now; WO bits read zero. -/
def Dev.fieldValue (s : Dev) (d off : Nat) (i : RegInfo) : Word32 :=
  (match i.kind with
   | .plain => s.reg (regAt d off)
   | .status => s.statusValue d off
   | .low => (s.ctr (regAt d off)).setWidth 32
   | .high => Tab.get 0 s.ctrHi (regAt d (off - 4))) &&& ~~~(i.reserved ||| i.wo)

/-- What the RSVD-P bits read: an unspecified value, as test-mode writes have changed it. -/
def Dev.reservedValue (s : Dev) (d off : Nat) (i : RegInfo) : Word32 :=
  (Config.reservedBits (regAt d off) ^^^ s.reg (regAt d off)) &&& i.reserved

def Dev.regValue (s : Dev) (d off : Nat) (i : RegInfo) : Word32 := s.fieldValue d off i ||| s.reservedValue d off i

/-- What a read of a register clears or latches. -/
def Dev.afterRead (s : Dev) (d off : Nat) (i : RegInfo) : Dev :=
  let a := regAt d off
  match i.kind with
  | .low => { s with ctrHi := Tab.set 0 s.ctrHi a ((s.ctr a).extractLsb' 32 32), ctrs := Tab.set 0 s.ctrs a 0 }
  | .plain => if i.rc = 0 then s else s.setReg a (s.reg a &&& ~~~i.rc)
  | .status => if a = regAt kpr 0x19008 then { s with ctrHi := Tab.set 0 s.ctrHi a (s.dt.extractLsb' 32 32) } else s
  | .high => s

/-- A register-access event of a die (R456). -/
def Dev.accessEvent (s : Dev) (d : Nat) (b : Word32) : Dev := s.event (regEvent d) b
def evBadOffset : Word32 := 1
def evPartial : Word32 := 2
def evKeyMissing : Word32 := 4
def evKeyWrong : Word32 := 8
def evReserved : Word32 := 16

/-! ### BAR0 (R452, R455, R459) -/

def dieOf (off : Nat) : Nat := off / 0x40000
/-- The window offset of the register that an access reaches. -/
def windowOf (off : Nat) : Nat := off % 0x40000 / 4 * 4
/-- The register and the bit of an alias. -/
def aliasReg (w : Nat) : Nat := (w - 0x20000) / 128 * 4
def aliasBit (w : Nat) : Nat := (w - 0x20000) % 128 / 4

/-- A read at a BAR0 offset. -/
def Dev.readBar0 (s : Dev) (off : Nat) : Word32 × Dev :=
  let d := dieOf off
  let w := windowOf off
  if s.unreachable d then (0xFFFFFFFF, s)
  else if 0x20000 ≤ w then
    match regInfo d (aliasReg w) with
    | none => (0, s.accessEvent d evBadOffset)
    | some i => (word (flag ((s.regValue d (aliasReg w) i).getLsbD (aliasBit w))), s)
  else
    match regInfo d w with
    | none => (0, s.accessEvent d evBadOffset)
    | some i => (s.regValue d w i, s.afterRead d w i)

/-! ### BAR2 (R420, R421, R436, R443, R515) -/

/-- GTR_FUNC_STATUS of a holding. -/
def Dev.funcStatus (s : Dev) (h : HoldId) : Nat :=
  let x := s.holding h
  x.state.code.toNat + 0x100 * flag x.sweep + 0x200 * flag x.pendingEnable + 0x400 * flag s.gotre.up
    + 0x800 * flag x.abortDone + 0x10000 * x.epoch.toNat

def half (v : Word64) (high : Bool) : Word32 := if high then v.extractLsb' 32 32 else v.setWidth 32

def Dev.boxValue (s : Dev) (f : FnId) (m : MbId) (o : Nat) : Word32 :=
  let b := s.box f m
  match o with
  | 0x00 => half b.cmdBase false
  | 0x04 => half b.cmdBase true
  | 0x08 => half b.cplBase false
  | 0x0C => half b.cplBase true
  | 0x10 => word (b.cmdLog2.toNat + 0x100 * b.cplLog2.toNat + 0x80000000 * flag b.enable)
  | 0x14 => b.cmdTail
  | 0x18 => b.cplHead
  | 0x1C => b.acceptSeq
  | 0x20 => word (flag b.enable + 2 * flag b.cplFull + 4 * flag b.ringFault + 8 * flag b.cfgBad)
  | _ => 0

/-- The key of a word of a function's MSI-X table. -/
def msixKey (f : FnId) (o : Nat) : Nat := f.val * 32 + (o - 0x8000) / 4

/-- The fields of a word of a function's window. -/
def Dev.windowFields (s : Dev) (f : FnId) (o : Nat) : Word32 :=
  if o < 0x100 then s.boxValue f (Fin.ofNat 4 (o / 0x40)) (o % 0x40)
  else if o = 0x100 then
    match holdingOfFn f with
    | some h => word (s.funcStatus h)
    | none => word (0x400 * flag s.gotre.up)
  else if o = 0x180 ∧ f = 0 then s.gotre.deviceState.code.setWidth 32
  else if f = 0 ∧ 0x200 ≤ o ∧ o < 0x240 ∧ o % 8 = 0 then word (s.funcStatus (Fin.ofNat 8 ((o - 0x200) / 8)))
  else if 0x300 ≤ o ∧ o < 0x320 then
    match holdingOfFn f with
    | some h => nthD (s.holding h).ownerKey ((o - 0x300) / 4) 0
    | none => 0
  else if 0x8000 ≤ o ∧ o < 0x8050 then Tab.get 0 s.msix (msixKey f o)
  else 0

/-- The RSVD-P bits of a word of a function's window: GTR_MB_CFG, GTR_MB_STATUS, GTR_FUNC_STATUS and its copies, and
GTR_DEVICE_STATE (R421, R436). -/
def windowReserved (f : FnId) (o : Nat) : Word32 :=
  if o < 0x100 then (if o % 0x40 = 0x10 then 0x7FFFE0E0 else if o % 0x40 = 0x20 then 0xFFFFFFF0 else 0)
  else if o = 0x100 then 0xF0F8
  else if f ≠ 0 then 0
  else if o = 0x180 then 0xFFFFFFF8
  else if 0x200 ≤ o ∧ o < 0x240 ∧ o % 8 = 0 then 0xF0F8
  else 0

/-- The key under which Config holds the RSVD-P bits of a BAR2 word: above every BAR0 offset. -/
def bar2Key (off : Nat) : Nat := 0x1000000 + off

/-- A word of a function's window; RSVD-P bits read an unspecified value (R5, notes/assumptions/3). -/
def Dev.windowValue (s : Dev) (f : FnId) (o : Nat) : Word32 :=
  s.windowFields f o ||| (Config.reservedBits (bar2Key (f.val * 0x10000 + o)) &&& windowReserved f o)

/-- The doorbell of a queue of the function's holding. -/
def Dev.ownDoorbell (s : Dev) (f : FnId) (off : Nat) : Option Nat :=
  let q := (off - 0x90000) / 8
  if 0x90000 ≤ off ∧ off < 0x110000 ∧ (s.queue q).state != .free ∧ (s.queue q).holding.any (fun h => vfOf h == f) then some q
  else none

def Dev.doorbellValue (s : Dev) (q : Nat) : Word64 := 0#29 ++ ((s.queue q).state.code ++ (s.queue q).accepted)

/-- A 4-byte read at a BAR2 offset of a function. -/
def Dev.readBar2 (s : Dev) (f : FnId) (off : Nat) : Word32 :=
  let base := f.val * 0x10000
  if base ≤ off ∧ off < base + 0x10000 then s.windowValue f ((off - base) / 4 * 4)
  else match s.ownDoorbell f off with
    | some q => half (s.doorbellValue q) (off % 8 == 4)
    | none => 0

/-! ### The rows that read -/

/-- A register read from a path: its value leaves to the reader. -/
def Dev.readRegister (s : Dev) (p : Path) (bar2 : Option FnId) (off : Nat) : Dev :=
  match bar2 with
  | none => let r := s.readBar0 off; r.2.emit (.register p (r.1.setWidth 64))
  | some f => s.emit (.register p ((s.readBar2 f off).setWidth 64))

/-! ### The key guard (R467 to R469) -/

def Dev.setGuard (s : Dev) (d : Nat) (p : Path) (on : Bool) : Dev := { s with guards := Tab.set false s.guards (guardKey d p) on }

/-- A failure of the guard: its event and REG_GUARD_FAIL. -/
def Dev.guardFail (s : Dev) (d : Nat) (b : Word32) : Dev :=
  let a := regAt d 0x18
  (s.accessEvent d b).setReg a (addStop32 (s.reg a) 1)

/-- A write of GUARD_UNLOCK: the key is taken, or the latch stands re-armed. -/
def Dev.writeGuard (s : Dev) (d : Nat) (p : Path) (v : Word32) : Dev :=
  if v = 0x5EED then s.setGuard d p true else (s.setGuard d p false).guardFail d evKeyWrong

def Dev.guardUnlock (s : Dev) (p : Path) (d : Nat) (v : Word32) : Dev :=
  if s.unreachable d then s else s.writeGuard d p v

/-- The key returns when 1 ms has passed. -/
def Dev.guardTimeout (s : Dev) (p : Path) (d : Nat) : Dev := s.setGuard d p false

/-! ### Writes (R453, R463, R464, R466, R470) -/

/-- An enabled holding owns the core of a register with the STEP apply point. -/
def Dev.slotOwner (s : Dev) (d off : Nat) : Bool :=
  match s.holdingOfCore (Fin.ofNat 256 (8 * d + off % 0x1000 / 0x100 % 8)) with
  | some h => (s.holding h).state == .enabled
  | none => false

/-- Places a register's new value at its apply point: in its pending slot, or at once in place of a value that waits. The flits of this model leave
whole, so a FLIT boundary stands between any two commands. -/
def Dev.place' (s : Dev) (d off : Nat) (i : RegInfo) (v : Word32) : Dev :=
  let a := regAt d off
  if i.apply == .step && s.slotOwner d off then { s with slots := Tab.set none s.slots a (some v) }
  else ({ s with slots := Tab.set none s.slots a none } : Dev).setReg a v

/-- A plain register's word with the fields of a write taken; RSVD-P bits follow R470. -/
def Dev.mergeWrite (s : Dev) (d off : Nat) (i : RegInfo) (held : Bool) (v : Word32) : Word32 :=
  let a := regAt d off
  let take := i.rw ||| (if held then i.rwk else 0)
  let fields := (s.reg a &&& ~~~(take ||| i.reserved)) ||| (v &&& take)
  let test := (v ^^^ Config.reservedBits a) &&& i.reserved
  fields ||| (if (s.die d).testMode then test else s.reg a &&& i.reserved)

/-- The events of a write: RWK fields without a key, and changed RSVD-P bits outside test mode. -/
def Dev.writeEvents (s : Dev) (d off : Nat) (i : RegInfo) (held : Bool) (v : Word32) : Dev :=
  let s1 := if i.rwk != 0 && !held then s.guardFail d evKeyMissing else s
  let changed := (v &&& i.reserved) != s.reservedValue d off i
  if changed && !(s.die d).testMode then s1.accessEvent d evReserved else s1

/-- A write that leaves every field as it stands: its events, and in test mode its RSVD-P bits (R470). -/
def Dev.writeReserved (s : Dev) (d off : Nat) (i : RegInfo) (held : Bool) (v : Word32) : Dev :=
  let a := regAt d off
  let s1 := s.writeEvents d off i held v
  if (s.die d).testMode then s1.setReg a ((s.reg a &&& ~~~i.reserved) ||| ((v ^^^ Config.reservedBits a) &&& i.reserved)) else s1

/-- A write to a register that has no further effect. -/
def Dev.writePlain (s : Dev) (d off : Nat) (i : RegInfo) (held : Bool) (v : Word32) : Dev :=
  let m := s.mergeWrite d off i held v
  let s1 := s.writeEvents d off i held v
  if (i.rw != 0 || (held && i.rwk != 0) || (s.die d).testMode) && (i.kind == .plain || (s.die d).testMode) then
    s1.place' d off i m
  else s1

/-- A write to a bit alias (R460): the registers that have aliases hold RO, RC and WO bits alone, so that a 1 clears an
RC bit and every other write is ignored. -/
def Dev.writeAlias (s : Dev) (d w : Nat) (v : Word32) : Dev :=
  match regInfo d (aliasReg w) with
  | none => s.accessEvent d evBadOffset
  | some i =>
    let b : Word32 := 1#32 <<< aliasBit w
    if v.getLsbD 0 && (i.rc &&& b) != 0 then s.setReg (regAt d (aliasReg w)) (s.reg (regAt d (aliasReg w)) &&& ~~~b) else s

/-! ### The commands -/

/-- What a register access may change: registers, counters, slots and guards. -/
def Dev.regScope (s r : Dev) : Dev :=
  { s with regs := r.regs, ctrs := r.ctrs, ctrHi := r.ctrHi, guards := r.guards, outbox := r.outbox }

def execRcRead (p : Path) (bar2 : Option FnId) (off : BitVec 24) (s : State) : Host.Outcome State Fault Refusal :=
  done s (s.dev.regScope (s.dev.readRegister p bar2 off.toNat))
def execCounterLowRead (p : Path) (off : BitVec 24) (s : State) : Host.Outcome State Fault Refusal :=
  done s (s.dev.regScope (s.dev.readRegister p none off.toNat))
def execClkDtLoRead (p : Path) (s : State) : Host.Outcome State Fault Refusal :=
  done s (s.dev.regScope (s.dev.readRegister p none (regAt kpr 0x19008)))
def execBadOffsetRead (p : Path) (bar2 : Option FnId) (off : BitVec 24) (s : State) : Host.Outcome State Fault Refusal :=
  done s (s.dev.regScope (s.dev.readRegister p bar2 off.toNat))
def execGuardUnlock (p : Path) (d : DieId) (v : Word32) (s : State) : Host.Outcome State Fault Refusal :=
  done s (s.dev.regScope (s.dev.guardUnlock p d.val v))
def execGuardKeyTimeout (p : Path) (d : DieId) (s : State) : Host.Outcome State Fault Refusal :=
  done s (s.dev.regScope (s.dev.guardTimeout p d.val))

end Sys2Proof.Machine
end

