-- ==== Sys2Proof/Machine/Links.lean ====
section
/-! DEFINITION. The links (R300 to R333, R391, R409, R542, R543): the receiving side of a port, forwarding, end-to-end
delivery and acknowledgement, training, the pod link state and device-time transfer. -/

namespace Sys2Proof.Machine

open Sys2Proof

/-! ### Port state (R316, R329, R457) -/

def linkEvent (p : PortId) : Nat := regAt (linkDie p) 0x100
def ldieEvent (p : PortId) : Nat := regAt (linkDie p) 0x104

/-- The other positions of the pod. -/
def Dev.podPeers (s : Dev) : List (BitVec 16) :=
  ((List.range 64).filter (· != posOf s.number)).map fun i => BitVec.ofNat 16 (podOf s.number * 64 + i)

/-- The link-state message to the 63 pod peers. -/
def Dev.tellLinks (s : Dev) : Dev :=
  if !s.numberValid then s
  else
    let bits := s.ownLinks
    s.podPeers.foldl (fun d n => d.send n 0 .device (.linkState bits)) { s with linkSent := bits }

/-- Link-state goes out when one of the device's own bits has changed. -/
def Dev.linksMoved (s : Dev) : Dev := if s.ownLinks = s.linkSent then s else s.tellLinks

/-- The event bits of a new port state. -/
def stateEvents : PortState → Word32
  | .degraded => 9
  | .miscabled => 0x11
  | _ => 1

/-- A port takes a state, and changes with it. -/
def Dev.setPortState (s : Dev) (p : PortId) (st : PortState) (f : Port → Port) : Dev :=
  let s1 := s.modPort p fun q => { (f q) with state := st }
  if (s.port p).state = st then s1 else (s1.event (linkEvent p) (stateEvents st)).linksMoved

/-- What a port loses when it leaves service for good: the flits of its replay buffer and its queue come again by the
end-to-end rules (R330). -/
def Port.drop (q : Port) : Port := { q with replay := [], queue := [], kept := [], discarding := false }

/-- The port goes back to training (R307, R325). -/
def Dev.retrain (s : Dev) (p : PortId) : Dev :=
  (s.setPortState p .training fun q => { q with oldestReplays := 0, replayTimes := [] }).event (linkEvent p) 2

/-! ### Link replay (R306, R307) -/

/-- A link sequence number at or before another, by the half-range rule. -/
def lseqLe (a b : BitVec 12) : Bool := decide ((b - a).toNat < 2048)

/-- The peer's LACK covers flits of the replay buffer. -/
def Dev.takeLack (s : Dev) (p : PortId) (lack : BitVec 12) : Dev :=
  let q := s.port p
  let kept := q.replay.filter fun e => !lseqLe e.1 lack
  if kept.length = q.replay.length then s
  else (s.modPort p fun x => { x with replay := kept, oldestReplays := 0 }).drain p

/-- Credits come back, in units of 32 flits (R309). -/
def Dev.takeCredits (s : Dev) (p : PortId) (vc cls n : Nat) : Dev :=
  if n = 0 then s
  else (s.modPort p fun x => { x with credits := Tab.modify 0 x.credits (vc * 2 + cls) (· + 32 * n) }).drain p

/-- Ticks of 1 ms. -/
def recentReplays (now : Word64) (ts : List Word64) : List Word64 := ts.filter fun t => decide ((now - t).toNat < msTicks)

/-- NAK: every flit after LACK is sent again, and each is a flit sent (R329); a port that replays too often retrains. A
device under a Survey sends none (R321). -/
def Dev.replayFrom (s : Dev) (p : PortId) (lack : BitVec 12) : Dev :=
  let s1 := s.takeLack p lack
  let again := (s1.port p).replay
  if !(s.port p).state.usable || again.isEmpty || s.survey.frozen then s1
  else
    let s2 := ((s1.count none (klxReg p 0x30) again.length).count none (klxReg p 0x08) again.length).emits
      (again.map fun e => .flit p (s1.formFlit p e.1 e.2))
    let s3 := s2.modPort p fun q =>
      { q with oldestReplays := q.oldestReplays + 1, replayTimes := recentReplays s.dt q.replayTimes ++ [s.dt] }
    if 8 ≤ (s3.port p).oldestReplays || decide (64 ≤ (s3.port p).replayTimes.length) then s3.retrain p else s3

/-! ### Reception (R305, R306, R309) -/

/-- A received flit leaves its buffer: the IDLE flit that follows acknowledges it, and gives credits back when 32 have
gathered (R306, R309). -/
def Dev.freeBuffer (s : Dev) (p : PortId) (vc : Fin 4) (cls : Fin 2) : Dev :=
  let k := chanKey vc cls
  let n := Tab.get 0 (s.port p).owed k + 1
  if n < 32 then (s.modPort p fun q => { q with owed := Tab.set 0 q.owed k n }).sendIdle p 0 0 0
  else (s.modPort p fun q => { q with owed := Tab.set 0 q.owed k 0 }).sendIdle p vc.val cls.val 1

/-- The torus port that a forwarded flit needs: the first dimension in which it has still to move (R317). -/
def Dev.nextHop (s : Dev) (f : Flit) : Option PortId :=
  let here := posOf s.number
  let goal := posOf f.dst
  if f.fabric || podOf f.dst != podOf s.number then none
  else ([0, 1, 2].find? fun d => coord here d != coord goal d).map fun d => Fin.ofNat 8 (2 * d + flag (f.minus d))

/-- Forwards a flit to another device (R310, R317, R318). -/
def Dev.forwardFlit (s : Dev) (p : PortId) (f : Flit) : Dev :=
  let hop := (s.nextHop f).bind fun q => if s.usable q then some q else none
  match hop with
  | some q =>
    let old := if p.val / 2 = q.val / 2 then f.cls else 0
    s.toPort q [{ vc := f.vc, cls := wrapClass (posOf s.number) q old, fabric := f.fabric, dirs := f.hdr.extractLsb' 2 3, wire := .pass f }]
  | none =>
    match s.fabricPort f.dst with
    | some q =>
      s.toPort q [{ vc := f.vc, cls := 0, fabric := true, dirs := f.hdr.extractLsb' 2 3
                    wire := .pass { f with hdr := f.hdr ||| 0x20 } }]
    | none => s.count none (klxReg p 0x70) 1

/-- A good flit in sequence. -/
def Dev.acceptFlit (s : Dev) (p : PortId) (f : Flit) : Dev :=
  let s1 := (s.modPort p fun q => { q with expect := q.expect + 1, discarding := false }).count none (klxReg p 0x10) 1
  let s2 := (s1.takeLack p f.lack).takeCredits p f.crVc f.crClass f.crCount
  let s3 := if 8 ≤ f.type then s2.count none (klxReg p 0x78) 1
    else if f.dst != s.number then s2.forwardFlit p f else s2
  s3.freeBuffer p f.vc f.cls

/-- LINK_FLIT_RECEIVE. -/
def Dev.receiveFlit (s : Dev) (p : PortId) (f : Flit) (fecGood : Bool) (corrected : Nat) : Dev :=
  let q := s.port p
  if !s.usable p || s.fullSurvey then s
  else
    let s1 := if fecGood then (if corrected = 0 then s else s.count none (klxReg p 0x18) corrected)
      else s.count none (klxReg p 0x20) 1
    if !fecGood || !f.good then
      let s2 := s1.count none (klxReg p 0x28) 1
      if q.discarding then s2
      else
        let s3 := s2.modPort p fun x => { x with discarding := true }
        if s.survey.frozen then s3 else (s3.count none (klxReg p 0x08) 1).emit (.flit p (s3.linkFlit p 1 0 0 0))
    else if f.type < 2 then
      let s2 := (s1.takeLack p f.lack).takeCredits p f.crVc f.crClass f.crCount
      if f.type = 1 then (s2.count none (klxReg p 0x10) 1).replayFrom p f.lack else s2
    else if f.lseq = q.expect then s1.acceptFlit p f
    else if q.discarding then s1.count none (klxReg p 0x28) 1
    else s1

/-! ### End-to-end delivery (R311, R313, R315) -/

/-- The cumulative acknowledgement of a source and channel. -/
def Dev.sendAck (s : Dev) (src : BitVec 16) (vc : Fin 4) : Dev :=
  let k := seqKey src vc
  let x := Tab.get {} s.seqRx k
  ({ s with seqRx := Tab.set {} s.seqRx k { x with unacked := 0, firstUnacked := none } } : Dev).sendPlain src vc
    (.ack src vc (x.expected - 1))

/-- END_TO_END_DELIVERY: the check of R311 at the sequence home. -/
def Dev.deliverFlit (s : Dev) (f : Flit) : Dev :=
  let k := seqKey f.src f.vc
  let x := Tab.get {} s.seqRx k
  let home := s.homeOf f.src
  let d := (f.eseq - x.expected).toNat
  if f.type < 2 || 4 < f.type || f.dst != s.number then s
  else if 0x80000000 ≤ d then s.count none (klxReg home 0x48) 1
  else if d ≠ 0 then (s.count none (klxReg home 0x50) 1).sendPlain f.src f.vc (.want f.src f.vc x.expected)
  else
    let y : SeqRx := { expected := x.expected + 1, unacked := x.unacked + 1
                       firstUnacked := some (x.firstUnacked.getD s.dt) }
    let s1 : Dev := { s with seqRx := Tab.set {} s.seqRx k y }
    let s2 :=
      if 8 ≤ f.owner then s1
      else if s.staleFlit f then
        (s1.count (some (Fin.ofNat 8 f.owner)) (klxReg home 0x58) 1).event (linkEvent home) 0x40
      else s1.learnEpoch f.src f.owner f.epoch
    if 64 ≤ y.unacked then s2.sendAck f.src f.vc else s2

/-- 2 µs in ticks. -/
def ackTicks : Nat := 1880

def Dev.ackTimer (s : Dev) (src : BitVec 16) (vc : Fin 4) : Dev :=
  match (Tab.get {} s.seqRx (seqKey src vc)).firstUnacked with
  | some t => (s.advanceTo (t + BitVec.ofNat 64 ackTicks)).sendAck src vc
  | none => s

/-! ### The sender (R312 to R314, R404) -/

def isMirror (h : HoldId) : OutMsg → Bool
  | .mirrorBlock g _ _ _ => g == h
  | _ => false

/-- A running generation whose blocks are all acknowledged is complete: the buddy is told, and the slots change. -/
def Dev.mirrorDone (s : Dev) (h : HoldId) : Dev :=
  match (s.holding h).mirrorSend with
  | none => s
  | some m =>
    let held := (Tab.get {} s.seqTx (seqKey m.buddy 3)).held.any fun f => isMirror h f.msg
    if !m.running || !m.toRead.isEmpty || !m.taken.isEmpty || held || (s.gate.any fun g => isMirror h g.msg) then s
    else
      let s1 := s.modHolding h fun x => { x with mirrorSend := some { m with running := false, slot := m.slot + 1 } }
      (s1.setReg (regAt ctl 0x16000) m.step).send m.buddy 0 .device (.mirrorDone h m.step (m.ranges.map fun r => r.2 / 4096))

/-- E2E_ACK. -/
def Dev.takeAck (s : Dev) (dst : BitVec 16) (vc : Fin 4) (upto : Word32) : Dev :=
  let k := seqKey dst vc
  let t := Tab.get {} s.seqTx k
  let kept := t.held.filter fun f => !seqLe f.eseq upto
  let moved := decide (kept.length < t.held.length)
  let t1 : SeqTx := { t with held := kept, timeouts := if moved then 0 else t.timeouts, unreachable := false }
  let s1 := ({ s with seqTx := Tab.set {} s.seqTx k t1 } : Dev).runGate
  allHoldings.foldl (fun d h => d.mirrorDone h) s1

/-- Resends the held flits of a destination and channel from one of them on, and counts those that are sent. -/
def Dev.resend (s : Dev) (dst : BitVec 16) (vc : Fin 4) (again : Held → Bool) : Dev :=
  let k := seqKey dst vc
  let t := Tab.get {} s.seqTx k
  let x := s.sendAll dst vc (t.held.filter again)
  ({ x.2.2 with seqTx := Tab.set {} x.2.2.seqTx k { t with held := (t.held.filter fun f => !again f) ++ x.1 } } : Dev).count none
    (klxReg (s.homeOf dst) 0x40) x.2.1

/-- E2E_NAK. -/
def Dev.takeWant (s : Dev) (dst : BitVec 16) (vc : Fin 4) (fromSeq : Word32) : Dev :=
  s.resend dst vc fun f => seqLe fromSeq f.eseq

/-- 20 µs in ticks. -/
def retryTicks : Nat := 18800

/-- Time goes on to a span of ticks after the last sending of the oldest flit that a destination and channel still hold. -/
def Dev.sinceOldest (s : Dev) (t : SeqTx) (ticks : Nat) : Dev :=
  match t.held with
  | [] => s
  | f :: _ => s.advanceTo (f.sentAt + BitVec.ofNat 64 ticks)

/-- E2E_RETRY_TIMEOUT: 20 µs have passed since the oldest flit was sent; the 64th time in a row marks the destination
unreachable. -/
def Dev.retryTimeout (s : Dev) (dst : BitVec 16) (vc : Fin 4) : Dev :=
  let k := seqKey dst vc
  let t := Tab.get {} s.seqTx k
  if t.held.isEmpty || t.unreachable then s
  else
    let lost := decide (64 ≤ t.timeouts + 1)
    let s0 := s.sinceOldest t retryTicks
    let s1 : Dev := { s0 with seqTx := Tab.set {} s0.seqTx k { t with timeouts := t.timeouts + 1, unreachable := lost } }
    let home := s.homeOf dst
    let s2 := if lost then ((s1.count none (klxReg home 0x88) 1).event (linkEvent home) 4).unreachableEvent dst vc else s1
    s2.resend dst vc fun _ => true

/-- UNREACHABLE_RESEND: 1 ms has passed since the last resend. -/
def Dev.unreachableResend (s : Dev) (dst : BitVec 16) (vc : Fin 4) : Dev :=
  let t := Tab.get {} s.seqTx (seqKey dst vc)
  if t.unreachable then (s.sinceOldest t msTicks).resend dst vc fun _ => true else s

/-! ### WRITE and MESSAGE (R305, R391, R403, R404) -/

/-- Writes of device data at physical addresses by the receiving link die, one for each block. -/
def Dev.writeDevice (s : Dev) (p : PortId) (cls : MemClass) (addr : Nat) (data : List PByte) : Dev :=
  ((chunks addr data.length).foldl (fun (a : Nat × Dev) c =>
    (a.1 + c.2, (a.2.crossTo (linkAgent p 0) c.1).request
      (.write c.1 .device 0 cls (((data.drop a.1).take c.2).map some) false))) (0, s)).2

/-- Whether a physical span meets a mirror region, which takes writes of its buddy alone (R241). -/
def Dev.inMirror (s : Dev) (addr n : Nat) : Bool :=
  s.serves.any fun q => q.2.any fun m =>
    let base := farBase + m.firstRegion * regionBlocks * 4096
    decide (base < addr + n) && decide (addr < base + m.regions * regionBlocks * 4096)

/-- A write to the memory of the owner that OWNER names, by the receiving link die: a holding's through its translation, the
device's at the physical address (notes/assumptions/145). -/
def Dev.writeOwner (s : Dev) (p : PortId) (f : Flit) (addr : Nat) (data : List PByte) : Dev :=
  if 8 ≤ f.owner then (if s.inMirror addr data.length then s else s.writeDevice p .ordinary addr data)
  else s.writeVa (linkAgent p (Fin.ofNat 8 f.owner)) false addr data

/-- Where a WRITE message goes: a slot of the source's mirror for bulk traffic, else the holding that OWNER names. -/
def Dev.writeTarget (s : Dev) (p : PortId) (f : Flit) (addr : Nat) (data : List PByte) : Dev :=
  match s.serveAt f.src.toNat with
  | some m =>
    if f.vc = 3 then
      let size := m.regions * regionBlocks / 2 * 4096
      let slot : Nat := match m.complete with | some (0, _) => 1 | _ => 0
      let base := farBase + m.firstRegion * regionBlocks * 4096 + slot * size
      if addr + data.length ≤ size then s.writeDevice p .bulk (base + addr) data else s
    else s.writeOwner p f addr data
  | none => s.writeOwner p f addr data

/-- A whole block that has come in, with its check value in payload bytes 64 to 67 of the last flit. -/
def Dev.checkBlock (s : Dev) (p : PortId) (f : Flit) (data : List PByte) : List PByte × Dev :=
  let sent := leNat ((f.payload.drop 64).take 4)
  if (crc32c (data.map (·.val))).toNat = sent then (data, s)
  else
    (data.map fun b => { b with poison := true },
     (s.count (ownerHolding (if f.owner < 8 then .holding (Fin.ofNat 8 f.owner) else .device)) (hdlReg p 0x28) 1).event (ldieEvent p) 8)

/-- WRITE: the flits of a message gather until the last one. -/
def Dev.takeWrite (s : Dev) (p : PortId) (f : Flit) : Dev :=
  let k := seqKey f.src f.vc
  let before := if f.first then [] else Tab.get [] s.rxWrites k
  let data := before ++ f.data
  if f.type != 2 || f.dst != s.number || s.staleFlit f then s
  else if !f.last then { s with rxWrites := Tab.set [] s.rxWrites k data }
  else
    let s1 : Dev := { s with rxWrites := Tab.set [] s.rxWrites k [] }
    let at' := f.addr - before.length
    if data.length = 4096 ∧ f.sectors = 2 then
      let r := s1.checkBlock p f data
      r.2.writeTarget p f at' r.1
    else s1.writeTarget p f at' data

/-- An abort notice from elsewhere (R290, R315, R320): forwarded once, and passed to the Drills, also where a flit has
taught its epoch before it. -/
def Dev.takeNotice (s : Dev) (from' : Option PortId) (origin : BitVec 16) (h : HoldId) (e : BitVec 16) : Dev :=
  let known := s.knownEpoch origin h.val
  let passed := Tab.get 0 s.notices (epochKey origin h.val)
  if origin = s.number || passed = e || (passed != 0 && epochOlder e passed) then s
  else
    let s0 : Dev := { s with notices := Tab.set 0 s.notices (epochKey origin h.val) e }
    let s1 := if known != 0 && epochOlder e known then s0 else s0.learnEpoch origin h.val e
    let s2 := s1.emits (((s1.torusPorts).filter fun q => some q != from').flatMap fun q => sidebandSlots q (.abortFence origin h e))
    allHoldings.foldl (fun d k => d.drillLost k origin (some h)) s2

/-- The CRC of a stored block, as the generation record takes it: of its contents, which its tag's CRC is where it holds. -/
def Dev.storedCrc (s : Dev) (b : Nat) : Nat :=
  let t := s.tag b
  if t.zero then (crc32c (List.replicate 4096 0)).toNat
  else if t.crcOff then (crc32c (s.stored (b * 4096) 4096)).toNat else t.crc.toNat

/-- The CRC-64 of each range of a slot over its block CRCs, from a first block on (R404). -/
def Dev.rangeCrcs (s : Dev) : Nat → List Nat → List Word64
  | _, [] => []
  | b, n :: rest => crc64 ((List.range n).flatMap fun i => leBytes 4 (s.storedCrc (b + i))) :: s.rangeCrcs (b + n) rest

/-- MESSAGE. -/
def Dev.takeMessage (s : Dev) (p : PortId) (from' : Sender) (m : GotreMsg) : Dev :=
  let src := from'.device
  if s.staleSender from' then s
  else match m with
  | .linkState pos bits => { s with linkState := Tab.set 0 s.linkState pos.val bits }
  | .abortFence origin h e => s.takeNotice (some p) origin h e
  | .mirrorComplete sender step ranges =>
    match s.serveAt sender.toNat with
    | none => s
    | some v =>
      let slot : Fin 2 := match v.complete with | some (0, _) => 1 | _ => 0
      if src != sender then s
      else
        let size := v.regions * regionBlocks / 2
        let crcs := s.rangeCrcs (farBase / 4096 + v.firstRegion * regionBlocks + slot.val * size) ranges
        { s with serves := Tab.set none s.serves sender.toNat (some { v with complete := some (slot, step), crcs := crcs }) }
  | .other _ => s

/-! ### Training (R298, R325 to R328, R330, R542, R543) -/

/-- A port may train. -/
def Dev.mayTrain (s : Dev) (p : PortId) : Bool :=
  (s.reg (klxReg p 4)).getLsbD 0 && s.numberValid && (s.port p).cable && !(s.port p).powerCut
    && s.reg (lchkReg p 0) == 0 && !(s.die (linkDie p)).offline && s.power.state != .fallow && s.power.state != .off

/-- The peer that a port must find (R326). -/
def Dev.rightPeer (s : Dev) (p : PortId) (peer : BitVec 16) (peerPort : Fin 8) (fabric : Bool) : Bool :=
  if 6 ≤ p.val then fabric
  else !fabric && peer == BitVec.ofNat 16 (podOf s.number * 64 + neighbour (posOf s.number) p.val)
    && peerPort.val == p.val + 1 - 2 * (p.val % 2)

/-- The credits that training grants: the peer's receive buffers (R308). -/
def freshCredits : Tab Nat := [(0, 64), (1, 64), (2, 1024), (3, 1024), (4, 1024), (5, 1024), (6, 1024), (7, 1024)]

/-- Step 5: sequence numbers and credits start again; kept flits are sent first. -/
def Port.start (q : Port) (half : Bool) (peer : BitVec 16) (peerPort : Fin 8) (fabric : Bool) : Port :=
  { q with half := half, peer := peer, peerPort := peerPort, fabric := fabric, failures := 0, nextLseq := 0
           replay := [], oldestReplays := 0, replayTimes := [], expect := 0, discarding := false, credits := freshCredits
           owed := [], kept := q.replay.map (·.2) ++ q.kept, turn := 0, sinceCtl := 15 }

def Dev.bringUp (s : Dev) (p : PortId) (st : PortState) (half : Bool) (peer : BitVec 16) (peerPort : Fin 8) (fabric : Bool) :
    Dev :=
  if s.rightPeer p peer peerPort fabric then
    (s.setPortState p st fun q => q.start half peer peerPort fabric).drain p
  else s.setPortState p .miscabled fun q => { q.drop with peer := peer, peerPort := peerPort, fabric := fabric, failures := 0 }

/-- What the failed lanes of both ends leave (R327): UP, DEGRADED with the healthy half, or a failed attempt. -/
def laneOutcome (failed : BitVec 16) : Option (PortState × Bool) :=
  let low := failed.extractLsb' 0 8
  let high := failed.extractLsb' 8 8
  if low = 0 ∧ high = 0 then some (.up, false)
  else if high = 0 then some (.degraded, true)
  else if low = 0 then some (.degraded, false)
  else none

/-- One more attempt of a port; after the first KLX_RETRAIN counts it. -/
def Dev.attempt (s : Dev) (p : PortId) : Dev :=
  let q := s.port p
  let s1 := if q.attempts = 0 || q.state == .surveyed then s else (s.count none (klxReg p 0x38) 1).event (linkEvent p) 2
  s1.modPort p fun x => { x with attempts := x.attempts + 1 }

/-- A failed attempt: the third in a row is FAILED. -/
def Dev.trainFails (s : Dev) (p : PortId) : Dev :=
  let q := s.port p
  if q.state == .surveyed then s
  else if 3 ≤ q.failures + 1 then s.setPortState p .failed fun x => { x.drop with failures := 3 }
  else s.setPortState p .down fun x => { x with failures := x.failures + 1 }

/-- A training within re-equalisation: its outcome waits for the end of the activity, and no failure is counted (R328). -/
def Dev.reeqTrain (s : Dev) (p : PortId) (outcome : TrainOutcome) : Dev :=
  match outcome with
  | .lanes failed peer peerPort fabric =>
    match laneOutcome failed with
    | some x =>
      if s.rightPeer p peer peerPort fabric then
        s.modPort p fun q => { q.start x.2 peer peerPort fabric with back := x.1 }
      else s.modPort p fun q => { q.drop with back := .miscabled, peer := peer, peerPort := peerPort, fabric := fabric }
    | none => s
  | _ => s

/-- PORT_TRAINING: one attempt. A cable to no powered peer leaves the port DOWN, and no attempt is made (R298). -/
def Dev.train (s : Dev) (p : PortId) (outcome : TrainOutcome) : Dev :=
  let q := s.port p
  let ready := q.state == .training || q.state == .surveyed || q.state == .miscabled || (q.state == .down && q.failures == 0)
  if q.state == .recal && q.reeq && q.back != .failed && s.mayTrain p then s.reeqTrain p outcome
  else if !s.mayTrain p || !ready then s
  else
    match outcome with
    | .noPeer => if q.state == .surveyed then s else s.setPortState p .down fun x => { x.drop with failures := 0 }
    | .failed _ => (s.attempt p).trainFails p
    | .lanes failed peer peerPort fabric =>
      match laneOutcome failed with
      | some x => (s.attempt p).bringUp p x.1 x.2 peer peerPort fabric
      | none => (s.attempt p).trainFails p

/-- TRAINING_RETRY: after 100 ms the port starts again. -/
def Dev.trainAgain (s : Dev) (p : PortId) : Dev :=
  let q := s.port p
  if s.mayTrain p && q.state == .down && q.failures != 0 then s.setPortState p .training id else s

/-- LOSS_OF_LOCK. -/
def Dev.lossOfLock (s : Dev) (p : PortId) : Dev := if (s.port p).state.usable then s.retrain p else s

/-- CABLE_PRESENT. -/
def Dev.setCable (s : Dev) (p : PortId) (on : Bool) : Dev :=
  let st := (s.port p).state
  let s1 := s.modPort p fun q => { q with cable := on }
  if on || st == .disabled || st == .failed then s1
  else s1.setPortState p .down fun q => { q.drop with failures := 0 }

/-- CABLE_OVERCURRENT: the supply is cut and the port goes DOWN. -/
def Dev.overcurrent (s : Dev) (p : PortId) : Dev :=
  let st := (s.port p).state
  let s1 := s.modPort p fun q => { q with powerCut := true }
  if st == .disabled || st == .failed then s1 else s1.setPortState p .down fun q => q.drop

/-- What a write of KLX_CTRL has done to its port (R325, R330, R543). A FAILED port stays so through DISABLED: only a
maintenance activity re-admits it. -/
def Dev.klxCtrlDone (s : Dev) (p : PortId) : Dev :=
  let on := (s.reg (klxReg p 4)).getLsbD 0
  if on then
    let s1 := s.modPort p fun q => { q with powerCut := false }
    if (s.port p).state == .disabled && s.reg (lchkReg p 0) == 0 then
      (if 3 ≤ (s.port p).failures then s1.setPortState p .failed id
       else s1.setPortState p .down fun q => { q with failures := 0 })
    else s1
  else s.setPortState p .disabled fun q => { q.drop with failures := if 3 ≤ q.failures then 3 else 0 }

/-! ### Device time (R322 to R324) -/

/-- A TIME flit at a port: class 1 across a wrap link, and FABRIC = 1 through the system fabric (R303, R310). -/
def Dev.timeItem (s : Dev) (p : PortId) (w : Wire) : PortItem :=
  { vc := 0, cls := wrapClass (posOf s.number) p 0, fabric := decide (6 ≤ p.val)
    dirs := BitVec.ofNat 3 (if p.val < 6 then p.val % 2 * 2 ^ (p.val / 2) else 0), wire := w }

/-- TIME_EXCHANGE: an exchange with the parent begins; 16 without an answer leave the device unsynchronised. -/
def Dev.timeExchange (s : Dev) : Dev :=
  let parent := (s.reg (klxReg 0 0x304)).setWidth 4
  if s.isMaster || decide (8 ≤ parent.toNat) then s
  else
    let missed := if s.time.exchanging then s.time.missed + 1 else s.time.missed
    let t : TimeSync := { s.time with exchanging := true, missed := missed
                                      state := if 16 ≤ missed then 0 else s.time.state
                                      good := if 16 ≤ missed then 0 else s.time.good }
    let p : PortId := Fin.ofNat 8 parent.toNat
    ({ s with time := t } : Dev).toPort p [s.timeItem p .time]

/-- TIME from a child: it goes back with the stamps of its sending, its arrival here and its leaving (R323). -/
def Dev.answerTime (s : Dev) (p : PortId) (t1 t2 t3 : Int) : Dev :=
  if s.usable p then s.toPort p [s.timeItem p (.timeAnswer t1 t2 t3)] else s

/-- The greatest whole number at or below half of an integer. -/
def halfDown (x : Int) : Int := (x - x % 2) / 2

/-- TIME from the parent: the four stamps, of the request's sending and arrival and of the answer's, give the offset of the
parent's time from this device's; half of an odd difference goes up or down by a free bit. -/
def Dev.takeTime (s : Dev) (t1 t2 t3 t4 : Int) : Dev :=
  if s.isMaster || !s.time.exchanging then s
  else
    let sum := (t2 - t1) - (t4 - t3)
    let v := s.takeFree
    let off := halfDown sum + (if sum % 2 ≠ 0 ∧ v.1.getLsbD 0 then 1 else 0)
    let enabled := allHoldings.any fun h => (s.holding h).state == .enabled
    let size := off.natAbs
    let base : TimeSync := { s.time with exchanging := false, missed := 0, offset := off }
    if 16777216 < size && !enabled then
      let s1 := ({ v.2 with dt := s.dt + BitVec.ofInt 64 (off / 16), time := { base with slew := 0, good := 0, state := 1 } } :
        Dev).count none (klxReg 0 0x318) 1
      if s.time.state == 2 then (s1.count none (klxReg 0 0x310) 1).event (linkEvent 0) 0x80 else s1
    else
      let good := if size ≤ 16 then min (s.time.good + 1) 4 else 0
      let drop := s.time.state == 2 && decide (64 < size)
      let st : Fin 3 := if 4 ≤ good then 2 else if s.time.state == 2 && !drop then 2 else 1
      let s1 : Dev := { v.2 with time := { base with slew := off.tdiv 16, good := good, state := st } }
      if drop then (s1.count none (klxReg 0 0x310) 1).event (linkEvent 0) 0x80 else s1

/-! ### The commands -/

/-- What the links may change. -/
def Dev.linkScope (s r : Dev) : Dev :=
  { s.mirrorScope r with
    seqRx := r.seqRx, epochs := r.epochs, notices := r.notices, rxWrites := r.rxWrites, linkState := r.linkState, linkSent := r.linkSent
    time := r.time }

def execLinkFlitReceive (p : PortId) (f : Flit) (fecGood : Bool) (n : Nat) (s : State) : Host.Outcome State Fault Refusal :=
  work s (s.dev.linkScope (s.dev.receiveFlit p f fecGood n))
def execNak (p : PortId) (lack : BitVec 12) (s : State) : Host.Outcome State Fault Refusal :=
  work s (s.dev.linkScope (s.dev.replayFrom p lack))
def execEndToEndDelivery (_p : PortId) (f : Flit) (s : State) : Host.Outcome State Fault Refusal :=
  work s (s.dev.linkScope (s.dev.deliverFlit f))
def execWrite (p : PortId) (f : Flit) (s : State) : Host.Outcome State Fault Refusal :=
  work s (s.dev.linkScope (s.dev.takeWrite p f))
def execMessage (p : PortId) (src : Sender) (m : GotreMsg) (s : State) : Host.Outcome State Fault Refusal :=
  work s (s.dev.linkScope (s.dev.takeMessage p src m))
def execE2eAck (dst : BitVec 16) (vc : Fin 4) (upto : Word32) (s : State) : Host.Outcome State Fault Refusal :=
  work s (s.dev.linkScope (s.dev.takeAck dst vc upto))
def execE2eNak (dst : BitVec 16) (vc : Fin 4) (fromSeq : Word32) (s : State) : Host.Outcome State Fault Refusal :=
  work s (s.dev.linkScope (s.dev.takeWant dst vc fromSeq))
def execE2eAckTimer (src : BitVec 16) (vc : Fin 4) (s : State) : Host.Outcome State Fault Refusal :=
  work s (s.dev.linkScope (s.dev.ackTimer src vc))
def execE2eRetryTimeout (dst : BitVec 16) (vc : Fin 4) (s : State) : Host.Outcome State Fault Refusal :=
  work s (s.dev.linkScope (s.dev.retryTimeout dst vc))
def execUnreachableResend (dst : BitVec 16) (vc : Fin 4) (s : State) : Host.Outcome State Fault Refusal :=
  work s (s.dev.linkScope (s.dev.unreachableResend dst vc))
def execLinkStateTimer (s : State) : Host.Outcome State Fault Refusal := work s (s.dev.linkScope s.dev.tellLinks)
def execTimeExchange (s : State) : Host.Outcome State Fault Refusal := work s (s.dev.linkScope s.dev.timeExchange)
def execTime (t1 t2 t3 : Int) (flit : TimeFlit) (s : State) : Host.Outcome State Fault Refusal :=
  work s (s.dev.linkScope (match flit with
    | .question p => s.dev.answerTime p t1 t2 t3
    | .answer t4 => s.dev.takeTime t1 t2 t3 t4))
def execPortTraining (p : PortId) (o : TrainOutcome) (s : State) : Host.Outcome State Fault Refusal :=
  work s (s.dev.linkScope (s.dev.train p o))
def execTrainingRetry (p : PortId) (s : State) : Host.Outcome State Fault Refusal :=
  work s (s.dev.linkScope (s.dev.trainAgain p))
def execCablePresent (p : PortId) (on : Bool) (s : State) : Host.Outcome State Fault Refusal :=
  done s (s.dev.linkScope (s.dev.setCable p on))
def execCableOvercurrent (p : PortId) (s : State) : Host.Outcome State Fault Refusal :=
  done s (s.dev.linkScope (s.dev.overcurrent p))
def execLossOfLock (p : PortId) (s : State) : Host.Outcome State Fault Refusal :=
  work s (s.dev.linkScope (s.dev.lossOfLock p))

end Sys2Proof.Machine
end

