-- ==== Sys2Proof/Machine/Survey.lean ====
section
/-! DEFINITION. The Survey (R319 to R321, R470, R514, R519 to R527): triggers, the freeze, the sideband, and read-out. The
commands that write SVY_CMD are in Machine/Write.lean. -/

namespace Sys2Proof.Machine

open Sys2Proof

/-! ### The freeze (R521 to R523, R526) -/

/-- The sideband messages that a freeze places on P0 to P5. -/
def freezeSlots (origin : BitVec 16) (full : Bool) (n : BitVec 16) : List Emit :=
  (List.range 6).flatMap fun i => sidebandSlots (Fin.ofNat 8 i) (.freeze origin full n)

/-- The dies of a Survey enter test mode under a test-mode grant (R470, R514). -/
def Dev.enterTest (s : Dev) (ds : List Nat) : Dev :=
  if s.service.dbgTest then ds.foldl (fun d n => d.modDie n fun x => { x with testMode := true }) s else s

/-- A Survey of the device, or of one compute die, begins. -/
def Dev.freeze (s : Dev) (scope : Option Nat) (cause : Fin 8) (origin n : BitVec 16) : Dev :=
  let y : Survey := { s.survey with frozen := true, dieScope := scope.isSome, die := Fin.ofNat 64 (scope.getD 0)
                                    cause := cause, number := n, freezeDt := s.dt }
  let s1 := ({ s with survey := y } : Dev).emits (freezeSlots origin scope.isNone n)
  match scope with
  | some d => (s1.modDie d fun x => { x with survey := true }).enterTest [d]
  | none => s1.enterTest (List.range 64)

/-- A trigger: none for a FULL Survey, else the compute die. A slot that came in gives the origin and the number; a
freeze of this device's own has a number that the rules do not fix. -/
def Dev.surveyTrigger (s : Dev) (scope : Option Nat) (cause : Fin 8) (slot : Option (BitVec 16 × BitVec 16)) : Dev :=
  let widens := s.survey.dieScope && scope.isNone
  if !s.pins.inputPower || s.power.state == .fallow || s.power.state == .off then s
  else if s.survey.frozen && !widens then s.count none (regAt kpr 0x1C018) 1
  else
    match slot with
    | some x => s.freeze scope cause x.1 x.2
    | none => let v := s.takeFree; v.2.freeze scope cause s.number (v.1.setWidth 16)

/-- A Survey ends; its dies leave test mode. -/
def Dev.endSurvey (s : Dev) : Dev :=
  let s1 : Dev := { s with survey := { s.survey with frozen := false } }
  (List.range 64).foldl (fun d n => d.modDie n fun x => { x with survey := false, testMode := false }) s1

/-- A port resets its link layer and trains again, as at warm reset (R525, R526). -/
def Dev.restartPort (s : Dev) (p : PortId) : Dev :=
  let fresh := fun (q : Port) => { q.drop with attempts := 0, failures := 0, oldestReplays := 0, replayTimes := []
                                               lastSideband := .none }
  match (s.port p).state with
  | .disabled => s
  | .failed => s
  | .down => s.modPort p fresh
  | _ => s.setPortState p .training fresh

def allPorts : List PortId := List.finRange 8
def Dev.restartPorts (s : Dev) : Dev := allPorts.foldl (fun d p => d.restartPort p) s

/-- SURVEY_OUT, driven low while SVY_STATUS.FROZEN is 1 (R522, R525, R544). -/
def Dev.surveyOut (s : Dev) : Bool := !s.survey.frozen

/-! ### Triggers other than a register (R519, R520) -/

/-- SURVEY_IN. -/
def Dev.surveyPin (s : Dev) : Dev :=
  if (s.reg (regAt kpr 0x1C000)).getLsbD 1 then s.surveyTrigger none 2 none else s

/-- SURVEY_EVENT_TRIGGER: the armed event bit has gone from 0 to 1. -/
def Dev.surveyEvent (s : Dev) : Dev :=
  match s.survey.armed with
  | none => s
  | some t =>
    if !(s.reg (regAt t.die.val t.offset)).getLsbD t.bit then s
    else
      let fires := !s.survey.frozen || (t.full && s.survey.dieScope)
      let s1 := s.surveyTrigger (if t.full then none else some t.die.val) 4 none
      if t.once && fires then { s1 with survey := { s1.survey with armed := none } } else s1

/-! ### The sideband (R319 to R321, R523) -/

/-- A FREEZE slot: the port is SURVEYED, and a FULL one is followed while FOLLOW is 1. -/
def Dev.takeFreeze (s : Dev) (p : PortId) (origin : BitVec 16) (full : Bool) (n : BitVec 16) : Dev :=
  let s1 := if s.clocked then s.setPortState p .surveyed id else s
  if full && (s.reg (regAt kpr 0x1C000)).getLsbD 0 then s1.surveyTrigger none 3 (some (origin, n)) else s1

/-- The lanes of a port carry codewords. -/
def Port.hasLanes (q : Port) : Bool :=
  match q.state with
  | .up => true
  | .degraded => true
  | .recal => true
  | .surveyed => true
  | _ => false

/-- SIDEBAND_SLOT. A repeat of the last message is ignored. -/
def Dev.sidebandSlot (s : Dev) (p : PortId) (crc : Word32) (m : SidebandMsg) : Dev :=
  if 6 ≤ p.val || !(s.port p).hasLanes then s
  else if crc != slotCrc m then
    if s.clocked then (s.count none (klxReg p 0x80) 1).event (linkEvent p) 0x20 else s
  else if m = (s.port p).lastSideband then s
  else
    let s1 := s.modPort p fun q => { q with lastSideband := m }
    match m with
    | .none => s1
    | .abortFence origin h e => if s.clocked then s1.takeNotice (some p) origin h e else s1
    | .freeze origin full n => s1.takeFreeze p origin full n

/-! ### Read-out (R514, R527) -/

/-- A die whose state can be read out. -/
def Dev.frozenDie (s : Dev) (d : Nat) : Bool := (s.fullSurvey && d != kpr) || (s.die d).survey

/-- What a holding owns reads as zeros without its grant; what none owns may be read. -/
def Dev.mayScan (s : Dev) (c : CoreId) : Bool :=
  match s.holdingOfCore c with
  | some h => s.service.dbgHoldings.contains h
  | none => true

/-- Whether a window offset of a compute die is a length register, and its core. -/
def lengthRegCore (d o : Nat) : Option CoreId :=
  if dieKind d = 0 ∧ 0x80 ≤ o % 0x100 ∧ 0xB000 ≤ o ∧ o < 0xB800 ∧ o % 0x100 < 0xBC then
    some (Fin.ofNat 256 (8 * d + (o - 0xB000) / 0x100)) else none

/-- The register of an index, four bytes; reads do not disturb it. -/
def Dev.scanRegister (s : Dev) (d index : Nat) : List Byte :=
  let o := 4 * index
  let hidden := match lengthRegCore d o with | some c => !s.mayScan c | none => false
  match regInfo d o with
  | some i => if hidden then List.replicate 4 0 else leBytes 4 (s.regValue d o i).toNat
  | none => List.replicate 4 0

/-- A core of a die, and an index within its segment of a size. -/
def scanCore (d size index : Nat) : CoreId := Fin.ofNat 256 (8 * d + index / size % 8)

/-- An element of a core's memory, unless a holding owns it that has granted nothing. -/
def Dev.scanOf (s : Dev) (d size index n : Nat) (f : Core → Nat → List Byte) : List Byte :=
  if dieKind d ≠ 0 then []
  else
    let c := scanCore d size index
    if s.mayScan c then f (s.core c) (index % size) else List.replicate n 0

/-- The logical line behind which a physical line stands (R167). -/
def Core.logicalOf (x : Core) (p : Nat) : Nat := ((x.phys.find? fun q => q.2 == some p).map (·.1)).getD p

/-- A segment's element: a register, a physical line of the operand store, a line of the vector registers, a word of an
accumulator or gradient tile. The buffers' layout is not stated; their bytes are free. -/
def Dev.scanElement (s : Dev) (d : Nat) (g : ScanSegment) (index : Nat) : List Byte × Dev :=
  let vals := fun (t : Tab PByte) (a n : Nat) => (Tab.getList ⟨0, false⟩ t a n).map (·.val)
  let word' := fun (t : Tab PWord) (a : Nat) => leBytes 4 (Tab.get ⟨0, false⟩ t a).val.toNat
  match g with
  | .registers => (s.scanRegister d index, s)
  | .operandStore => (s.scanOf d 131072 index 64 fun x i => vals x.os (64 * x.logicalOf i) 64, s)
  | .accumulators => (s.scanOf d 0x100000 index 4 fun x i => word' x.acc i, s)
  | .gradientBuffer => (s.scanOf d 0x100000 index 4 fun x i => word' x.grad i, s)
  | .vectorRegisters => (s.scanOf d 2048 index 64 fun x i => vals x.vreg (64 * i) 64, s)
  | .buffers =>
    let open' := allHoldings.any fun h => (s.holding h).state != .closed && !s.service.dbgHoldings.contains h
    if open' then (List.replicate 64 0, s)
    else let r := s.freeBytes 64; (r.1.map (·.val), r.2)

def segmentCode : ScanSegment → Nat
  | .registers => 1 | .operandStore => 2 | .accumulators => 3 | .gradientBuffer => 4 | .vectorRegisters => 5 | .buffers => 6

/-- SCAN_READ: the test logic takes the instruction, and a frozen die's element leaves. -/
def Dev.scanRead (s : Dev) (d : Nat) (g : ScanSegment) (index : Nat) : Dev :=
  let s1 : Dev := { s with pins := { s.pins with jtag := d * 8 + segmentCode g } }
  if s.frozenDie d then
    let r := s1.scanElement d g index
    r.2.emit (.scan r.1)
  else s1

/-- TRST# low: the test logic stands at its reset instruction. -/
def Dev.trst (s : Dev) : Dev := { s with pins := { s.pins with jtag := 0 } }

/-! ### The commands -/

/-- What a Survey may change: what the links may, and the freeze of the dies. -/
def Dev.surveyScope (s r : Dev) : Dev := { s.linkScope r with dies := r.dies }
/-- What read-out may change. -/
def Dev.scanScope (s r : Dev) : Dev := { s with pins := r.pins, outbox := r.outbox, free := r.free }

def execSidebandSlot (p : PortId) (crc : Word32) (m : SidebandMsg) (s : State) : Host.Outcome State Fault Refusal :=
  done s (s.dev.surveyScope (s.dev.sidebandSlot p crc m))
def execSurveyIn (s : State) : Host.Outcome State Fault Refusal := done s (s.dev.surveyScope s.dev.surveyPin)
def execSurveyEventTrigger (s : State) : Host.Outcome State Fault Refusal := done s (s.dev.surveyScope s.dev.surveyEvent)
def execScanRead (d : DieId) (g : ScanSegment) (i : Nat) (s : State) : Host.Outcome State Fault Refusal :=
  done s (s.dev.scanScope (s.dev.scanRead d.val g i))
def execTrst (s : State) : Host.Outcome State Fault Refusal := done s (s.dev.scanScope s.dev.trst)

end Sys2Proof.Machine
end

