-- ==== Sys2Proof/Machine/Fencing.lean ====
section
/-! DEFINITION. Faults within the guarantee (R18 to R21, R192 to R203, R381 to R411): the settling of pending writes, the
fence of each kind of unit, and the decision of a checker disagreement. -/

namespace Sys2Proof.Machine

open Sys2Proof

/-! ### Settling pending writes (R383, R385, R386) -/

/-- A decision unit of a core (R381): a descriptor's stream and ring index, and its part; none is what the descriptor has not
written to memory. -/
abbrev UnitPart := Fin 2 × Word32 × Option Nat

/-- The die of an agent of pending writes, and its number as a requester. -/
def pendDie (agent : Nat) : Nat := if agent < 256 then agent / 8 else 48 + (agent - 256)
def pendRequester (agent : Nat) : Nat := if agent < 256 then agent else 256 + pendDie agent

/-- Sends the clearance of a pending write: it crosses as its write did, and stays behind it (R383, R411). -/
def Dev.settleOne (s : Dev) (p : PendWrite) (kind : Clearance) : Dev :=
  let s1 : Dev := { s with pend := s.pend.filter fun q => q != p }
  let s2 := match kind with
    | .withdraw => s1.count (ownerHolding p.owner) (regAt ctl 0x16008) 1
    | .fail => if p.agent < 256 then s1.count (ownerHolding p.owner) (chkReg (Fin.ofNat 256 p.agent) 0x20) 1 else s1
    | .pass => s1
  (s2.cross (pendRequester p.agent) (pendDie p.agent) (stackDie (s.place (p.block * 4096)).stack)).clear p.block p.sectors
    p.owner p.epoch kind

/-- The pending writes of an agent, oldest first. -/
def Dev.pendOf (s : Dev) (agent : Nat) : List PendWrite := s.pend.filter fun p => p.agent == agent

/-- A fence or a reset settles an agent's pending writes: PASS where the check has passed, else a withdrawal. What it holds
in the egress hold is withdrawn. -/
def Dev.settlePend (s : Dev) (agent : Nat) : Dev :=
  ((s.pendOf agent).foldl (fun d p => d.settleOne p (if p.passed then .pass else .withdraw)) s).settleEgress
    (fun i => i.agent == agent) .withdraw

/-- The pending writes of the decision unit under decision get the decision's clearance. -/
def Dev.settleDecided (s : Dev) (c : CoreId) (x : UnitPart) (kind : Clearance) : Dev :=
  (((s.pendOf c.val).filter fun p => x == (p.stream, p.index, some p.part)).foldl (fun d p => d.settleOne p kind) s).settleEgress
    (fun i => i.agent == c.val && x == (i.stream, i.index, some i.part)) kind

/-! ### What every fence leaves behind (R21, R389, R413, R414, R429) -/

/-- A fence in the step record of a holding. -/
def Dev.noteFence (s : Dev) (h : HoldId) : Dev :=
  s.modHolding h fun x => { x with totals := { x.totals with fencedUnits := x.totals.fencedUnits + 1 } }
def Dev.openHoldings (s : Dev) : List HoldId := allHoldings.filter fun h => (s.holding h).state != .closed
def Dev.noteFenceAll (s : Dev) : Dev := s.openHoldings.foldl Dev.noteFence s

/-- Some live core is left to a holding. -/
def Dev.anyLive (s : Dev) (h : HoldId) : Bool := (s.holding h).coreIds.any fun c => s.coreLive c

/-! ### The fence of a core (R19, R202, R385) -/

/-- What stands in a core while it works goes with it. -/
def Core.fence (x : Core) : Core :=
  { x with fenced := true, window := [], inbox := [], retained := [], decision := none, helping := false, hostBuf := []
           batch := [], batchPhase := 0 }

/-- Tiles of a counter that a core holds unretired. -/
def Counter.heldBy (k : Counter) (c : CoreId) : List Nat :=
  k.openTiles.filter fun t => k.recs.any fun r => r.tile == t && r.core == c

/-- The next issue number of a tile. -/
def Counter.nextIssue (k : Counter) (tile : Nat) : Nat :=
  let used := (k.recs.filter fun r => r.tile == tile).map (·.issue) ++ (k.reissue.filter fun p => p.1 == tile).map (·.2)
  (used.max?).getD 0 + 1

def Counter.reissueOf (k : Counter) (c : CoreId) : Counter :=
  { k with reissue := k.reissue ++ (k.heldBy c).map fun t => (t, k.nextIssue t)
           claims := k.claims.map fun q => if q.core = c then { q with lost := true } else q }

/-- A READMIT that is running on a unit ends with the unit's fence (R508). -/
def Dev.endReadmits (s : Dev) (u : UnitName) (cause : FenceCause) : Dev :=
  if cause == .maintenance then s
  else (s.service.activities.filter fun a => a.state == .running && a.activity == 6 && a.units.contains u).foldl
    (fun d a => d.endActivity a.number .failed .fenced) s

/-- The unretired tiles of a fenced core go onto the reissue lists. -/
def Dev.reissueTiles (s : Dev) (h : HoldId) (c : CoreId) : Dev :=
  (s.holding h).counters.foldl (fun d k =>
    let n := (k.heldBy c).length
    let die := d.tallyDie k
    let d1 := d.modHolding h fun x => x.modCounter k.number fun q => q.reissueOf c
    if n = 0 then d1 else (d1.count (some h) (tlyReg die 0x18) n).event (regAt die 0x120) 4) s

/-- The stages that a core carries pass on: its own, then the one it inherited. -/
def Dev.passStages (s : Dev) (h : HoldId) (c : CoreId) : Dev :=
  let own := (s.holding h).stages.filter fun g => g.runsOn == some c && !g.inherited
  let other := (s.holding h).stages.filter fun g => g.runsOn == some c && g.inherited
  (own ++ other).foldl (fun d g =>
    match (d.holding h).stages.find? fun t => t.dfn.stage == g.dfn.stage with
    | some t => d.passStage h t
    | none => d) s

/-- Fences a core with a cause, unless it is fenced already. -/
def Dev.fenceCore (s : Dev) (c : CoreId) (cause : FenceCause) : Dev :=
  if (s.core c).fenced then s
  else
    let h := s.holdingOfCore c
    let s1 := (s.releaseHelper c).settlePend c.val
    let s2 := (s1.squashAll h c).modCore c Core.fence
    let s3 : Dev := { s2 with hostReads := s2.hostReads.filter fun r => r.core != c }
    let s4 := (((s3.setReg (chkReg c 0) (cause.code.setWidth 32)).event (coreEvent c) evFenced).unitFenced (c.val / 8)
      (some c) cause).endReadmits (.core c.val) cause
    match h with
    | none => s4
    | some h =>
      let s5 := ((s4.noteFence h).reissueTiles h c).passStages h c
      if s5.anyLive h then s5 else s5.endHolding h .fenced

/-! ### The fence of a compute die (R21, R197, R288) -/

/-- A counter after the fence of a die: its mirror serves it, and a new mirror is copied. A counter without a mirror, because
its half has no other live compute die, stays on the fenced die: the rules name no taker (DESIGN CHOICE,
notes/assumptions/114). -/
def Dev.moveCounter (s : Dev) (d : Nat) (k : Counter) : Counter :=
  let copyTo := fun (serving : Fin 32) =>
    (s.mirrorDie serving.val).map (Fin.ofNat 32)
  if k.die.val = d then
    match k.mirror with
    | some m => { k with die := m, mirror := copyTo m, copying := (copyTo m).isSome, taken := true }
    | none => k
  else if k.mirror.any fun m => m.val == d then
    { k with mirror := copyTo k.die, copying := (copyTo k.die).isSome }
  else k

def Dev.moveCounters (s : Dev) (d : Nat) : Dev :=
  allHoldings.foldl (fun e h =>
    let ks := (e.holding h).counters
    let e1 := e.modHolding h fun x => { x with counters := ks.map (e.moveCounter d) }
    ks.foldl (fun f k =>
      match k.mirror with
      | some m => if k.die.val = d then (f.count (some h) (tlyReg m.val 0x30) 1).event (regAt m.val 0x120) 0x10 else f
      | none => f) e1) s

/-- Batches that the Drill of a die holds state of. -/
def Dev.batchesOf (s : Dev) (d : Nat) : List (HoldId × Word32) :=
  allHoldings.flatMap fun h =>
    ((s.holding h).batches.filter fun b => b.live && (s.batchDies h b).contains d).map fun b => (h, b.tag)

def dieCores (d : Nat) : List CoreId := (List.range 8).map fun p => Fin.ofNat 256 (8 * d + p)

def Dev.fenceCompute (s : Dev) (d : Nat) (cause : FenceCause) : Dev :=
  let lost := s.batchesOf d
  let touched := s.openHoldings.filter fun h => ((s.holding h).coreIds.any fun c => c.val / 8 == d)
    || ((s.holding h).counters.any fun k => k.die.val == d || k.mirror.any fun m => m.val == d) || lost.any fun b => b.1 == h
  let s1 := ((s.modDie d fun x => { x with fenced := true }).setReg (regAt d 0x16400) (cause.code.setWidth 32)).event
    (regAt d 0x120) 0x20
  let s2 := touched.foldl Dev.noteFence (s1.unitFenced d none cause)
  let s3 := (dieCores d).foldl (fun e c => e.fenceCore c .die) (s2.moveCounters d)
  lost.foldl (fun e b => e.cancelBatch b.1 b.2 .fenced none) s3

/-! ### The fence of a link die and of a port (R21, R353, R409, R503) -/

/-- A port leaves service and goes DISABLED. -/
def Dev.disablePort (s : Dev) (p : PortId) : Dev := s.setPortState p .disabled fun q => { q.drop with failures := 0 }

/-- What the reductions of a link die held is lost. -/
def Holding.loseLink (x : Holding) (p : PortId) : Holding :=
  { x with windows := x.windows.filter fun w => w.port != p, precond := x.precond.filter fun z => z.port != p }

/-- Reduction messages held in a lost gate are lost with it; the others go out through the mirror's gate. -/
def Dev.moveGate (s : Dev) (p : PortId) : Dev :=
  let goal : PortId := Fin.ofNat 8 (p.val + 4)
  let kept := s.gate.filter fun g => g.port != p || g.vc != 1
  ({ s with gate := kept.map fun g => if g.port = p then { g with port := goal } else g } : Dev).runGate

/-- The mirror sends again what the lost sequence home still held. -/
def Dev.resendHome (s : Dev) (p : PortId) : Dev :=
  (s.seqTx.filter fun t => homePort (BitVec.ofNat 16 (t.1 / 4)) == p).foldl (fun d t =>
    d.resend (BitVec.ofNat 16 (t.1 / 4)) (Fin.ofNat 4 t.1) fun _ => true) s

def Dev.fenceLink (s : Dev) (p : PortId) (cause : FenceCause) : Dev :=
  let d := linkDie p
  let s1 := ((s.modDie d fun x => { x with fenced := true }).setReg (lchkReg p 0) (cause.code.setWidth 32)).event
    (ldieEvent p) 0x40
  let s2 := ((s1.unitFenced d none cause).noteFenceAll).disablePort p
  let s3 := allHoldings.foldl (fun e h => e.modHolding h fun x => x.loseLink p) s2
  (((s3.settlePend (256 + p.val)).moveGate p).resendHome p)

def Dev.fencePort (s : Dev) (p : PortId) (cause : FenceCause) : Dev :=
  (((s.setReg (lchkReg p 0) (cause.code.setWidth 32)).unitFenced (linkDie p) none cause).noteFenceAll).disablePort p

/-! ### The fence of memory and of a spine die (R21, R221, R240, R411) -/

def Dev.fenceStack (s : Dev) (k : StackId) : Dev :=
  if (s.stack k).fenced then s
  else
    let s1 := s.modStack k fun x => { x with fenced := true, retraining := false, channelsLeft := [] }
    ((s1.flushStack k).loseStack k)

def Dev.fenceStackAlone (s : Dev) (k : StackId) (cause : FenceCause) : Dev :=
  ((s.fenceStack k).unitFenced (stackDie k) none cause).noteFenceAll

/-- The stacks of a base or far-memory die. -/
def dieStacks (d : Nat) : List StackId := allStacks.filter fun k => stackDie k == d

def Dev.fenceMemoryDie (s : Dev) (d : Nat) (cause : FenceCause) : Dev :=
  let s1 := (((s.modDie d fun x => { x with fenced := true }).unitFenced d none cause).noteFenceAll)
  (dieStacks d).foldl (fun e k => (e.flushStack k).loseStack k) s1

/-- The fence of a spine die: every crossing request that is still kept is sent again over the other one. -/
def Dev.fenceSpine (s : Dev) (d : Nat) (cause : FenceCause) : Dev :=
  ((((s.modDie d fun x => { x with fenced := true }).event (regAt d 0x100) 1).unitFenced d none cause).noteFenceAll).resendCrossing

def Dev.fenceDie (s : Dev) (d : Nat) (cause : FenceCause) : Dev :=
  if (s.die d).fenced then s
  else
    let s1 := match dieKind d with
      | 0 => s.fenceCompute d cause
      | 1 => s.fenceMemoryDie d cause
      | 2 => s.fenceLink (Fin.ofNat 8 (d - 48)) cause
      | 3 => s.fenceMemoryDie d cause
      | 4 => s.fenceSpine d cause
      | _ => s
    s1.endReadmits (.die d) cause

/-! ### Deciding a checker disagreement (R72, R381, R382, R386, R387) -/

/-- The descriptor classes that a decision unit serves; the sequencer serves all. -/
def unitClasses : CoreUnit → List Nat
  | .plough => [1] | .vector => [2] | .windrow => [3] | .copy => [4, 8] | .sequencer => [1, 2, 3, 4, 5, 6, 7, 8]

/-- The decision units of a core's unit whose checks are undecided, oldest first: of its writes to memory, of those in the
egress hold (R395), and what its running descriptor has not written. -/
def Dev.undecided (s : Dev) (c : CoreId) (u : CoreUnit) : List UnitPart :=
  let core := s.core c
  let mine := fun (e : WEntry) => (unitClasses u).contains (classOf e.desc)
  let ofUnit := fun (st : Fin 2) (ix : Word32) => core.window.any fun e => e.stream == st && e.index == ix && mine e
  let pend := ((s.pendOf c.val).filter fun p => !p.passed && ofUnit p.stream p.index).map fun p => (p.stream, p.index, some p.part)
  let held := (s.egress.filter fun i => i.held && i.agent == c.val && ofUnit i.stream i.index).map fun i =>
    (i.stream, i.index, some i.part)
  let running := (core.window.find? fun e => e.phase == .started && mine e).map fun e => (e.stream, e.index, none)
  (pend ++ held ++ running.toList).foldl (fun l x => if l.contains x then l else l ++ [x]) []

/-- The decision unit whose check failed: any of the undecided ones, as a free value has it (DESIGN CHOICE,
notes/assumptions/148). -/
def Dev.suspect (s : Dev) (c : CoreId) (u : CoreUnit) : Option UnitPart :=
  let l := s.undecided c u
  l[(Config.freeValue s.free).toNat % l.length]?

/-- Checks are decided in the order of the work: those before the failing one have passed, and PASS follows even through a
fence (R382, R385). -/
def Dev.passBefore (s : Dev) (c : CoreId) (u : CoreUnit) (x : UnitPart) : Dev :=
  let past := (s.undecided c u).takeWhile fun y => y != x
  ({ s with pend := s.pend.map fun p =>
      if p.agent == c.val && past.contains (p.stream, p.index, some p.part) then { p with passed := true } else p } : Dev).settleEgress
    (fun i => i.agent == c.val && past.contains (i.stream, i.index, some i.part)) .pass

/-- A disagreement of a core's unit is counted. -/
def Dev.countDisagreement (s : Dev) (c : CoreId) (u : CoreUnit) : Dev :=
  let h := s.holdingOfCore c
  let s1 := (s.count h (chkReg c 0x08) 1).event (coreEvent c) evResEvent
  match u with
  | .plough => s1.count h (plgReg c 0x38) 1
  | _ => s1

/-- The next live core of the die in ascending position, wrapping. -/
def Dev.nextLive (s : Dev) (c : CoreId) : Option CoreId :=
  ((List.range 7).map fun i => (Fin.ofNat 256 (c.val / 8 * 8 + (c.val + 1 + i) % 8) : CoreId)).find? fun n => s.coreLive n

/-- A decision that ends with the core fenced: its outputs get the decision's clearance first. -/
def Dev.endFenced (s : Dev) (c : CoreId) (x : UnitPart) (kind : Clearance) (cause : FenceCause) : Dev :=
  (s.settleDecided c x kind).fenceCore c cause

/-- The cycles that a core's streams wait for a decision are charged to CHECK: the neighbour's, which is suspended (R387), and
those of later writes into the retained lines of the core itself (R72). -/
def Dev.checkWaits (s : Dev) (n : CoreId) : Dev :=
  (List.range 4).foldl (fun d u => d.countFree (s.holdingOfCore n) (stallReg n u checkCause)) s
where
  /-- The cause value of CHECK (R177). -/
  checkCause : Nat := 8

/-- CHECKER_DISAGREEMENT. A replay that fails its own check is a second disagreement (R382). The core decides one
disagreement after another. -/
def Dev.disagreement (s : Dev) (c : CoreId) (u : CoreUnit) (passes : Bool) : Dev :=
  match s.suspect c u with
  | none => s
  | some x =>
    if !s.coreRuns c || (s.core c).decision.isSome then s
    else
      let s1 := ((s.takeFree.2.passBefore c u x).countDisagreement c u).checkWaits c
      if passes then
        (s1.count (s.holdingOfCore c) (chkReg c 0x10) 1).settleDecided c x .pass
      else
        let s2 := s1.countDisagreement c u
        match s.nextLive c with
        | none => s2.endFenced c x .fail .unresolved
        | some n =>
          (s2.modCore c fun y => { y with decision := some { unit := u, neighbour := n, stream := x.1, index := x.2.1, part := x.2.2 } }).modCore
            n fun y => { y with helping := true }

/-- NEIGHBOUR_RECOMPUTE. -/
def Dev.recompute (s : Dev) (c : CoreId) (r : Recompute) : Dev :=
  match (s.core c).decision with
  | none => s
  | some z =>
    let n := z.neighbour
    let x : UnitPart := (z.stream, z.index, z.part)
    let gone := r == .neighbourFenced || !s.coreLive n
    let s0 := s.checkWaits c
    let s1 := if gone then s0 else (s0.count (s0.holdingOfCore n) (chkReg n 0x18) 1).checkWaits n
    if gone then s1.endFenced c x .fail .unresolved
    else
      match r with
      | .fails => (s1.countDisagreement c z.unit).endFenced c x .fail .unresolved
      | .equal => s1.endFenced c x .pass .checker
      | _ => s1.endFenced c x .pass .array

/-- LINK_CHECK_FAIL: a link die, or the Drill or Tally block of a compute die. -/
def Dev.linkCheck (s : Dev) (d : Nat) (clean : Bool) : Dev :=
  if (s.die d).fenced || (s.die d).survey then s
  else match dieKind d with
    | 2 =>
      let p : PortId := Fin.ofNat 8 (d - 48)
      let s1 := s.count none (lchkReg p 0x10) (if clean then 1 else 2)
      if clean then (s1.count none (lchkReg p 0x08) 1).event (ldieEvent p) 0x20 else s1.fenceDie d .linkArith
    | 0 => if clean then s else s.fenceDie d .dieArith
    | _ => s

/-- TALLY_MIRROR_COPY_DONE. -/
def Dev.mirrorCopied (s : Dev) (h : HoldId) (n : Nat) : Dev :=
  s.modHolding h fun x => x.modCounter n fun k => { k with copying := false }

/-! ### The gate's notice (R304, R341, R393) -/

/-- Marks the bytes of a span poisoned. -/
def poisonSpan (l : List PByte) (first n : Nat) : List PByte :=
  l.take first ++ ((l.drop first).take n).map (fun b => { b with poison := true }) ++ l.drop (first + n)

/-- Sets POISON in the header of a wire block that stands at a byte of a message. -/
def poisonHeader (bytes : List Byte) (at' : Nat) : List Byte :=
  match headerOf ((bytes.drop at').take 8) with
  | some v => bytes.take at' ++ blockHeader (v ||| 0x400000) ++ bytes.drop (at' + 8)
  | none => bytes

/-- A message whose payload came in part from a block now poisoned: the span of the payload is flagged. -/
def OutMsg.poison (m : OutMsg) (first n : Nat) : OutMsg :=
  match m with
  | .token h t => .token h { t with row := poisonSpan t.row first n }
  | .answerRow h t => .answerRow h { t with row := poisonSpan t.row first n }
  | .gatherFlit h c i sk b => .gatherFlit h c i sk (poisonSpan b first n)
  | .mirrorBlock h sl b d => .mirrorBlock h sl b (poisonSpan d first n)
  | .data h c k b =>
    if b.length ≤ 264 then .data h c k (poisonHeader b 0)
    else .data h c k (((List.range 2).filter fun j => decide (first < 256 * (j + 1)) && decide (256 * j < first + n)).foldl
      (fun l j => poisonHeader l (328 * j)) b)
  | _ => m

/-- What a notice of a block does to an item of the gate. -/
def GateItem.notice (g : GateItem) (b : Nat) (bad : Bool) : GateItem :=
  let mine := g.blocks.filter fun x => x.1 == b
  { g with blocks := g.blocks.filter fun x => x.1 != b
           msg := if bad then mine.foldl (fun m x => m.poison x.2.1 x.2.2) g.msg else g.msg }

/-- CHECKED_NOTICE. -/
def Dev.checkedNotice (s : Dev) (p : PortId) (b : Nat) : Dev :=
  let hit := s.gate.filter fun g => g.port == p && g.blocks.any fun x => x.1 == b
  if !s.blockClear b || hit.isEmpty then s
  else
    let bad := (s.tag b).poison
    let s1 : Dev := { s with gate := s.gate.map fun g => if g.port = p then g.notice b bad else g }
    let s2 := if bad then hit.foldl (fun d g => d.count (ownerHolding g.owner) (hdlReg p 0x20) 1) s1 else s1
    (s2.countFree (hit.head?.bind fun g => ownerHolding g.owner) (hdlReg p 0x10)).runGate

/-! ### The vote's messages (R400, R401) -/

/-- DIGEST_RECORD: the coordinator keeps it, and decides when every live slot has reported. -/
def Dev.takeDigest (s : Dev) (h : HoldId) (r : DigestRec) : Dev :=
  let late := match (s.holding h).vote with | some v => seqLt r.step v.step | none => seqLe r.step (s.holding h).step
  match s.voters h with
  | none => s
  | some k =>
    if !k.liveDevices.contains r.src || late || ((s.holding h).digests.any fun q => q.src == r.src && q.step == r.step) then s
    else
      let s1 := s.modHolding h fun x => { x with digests := x.digests ++ [r] }
      if s1.coordinates h && s1.voteFull h then s1.decideVote h else s1

/-- DIGEST_WINDOW. -/
def Dev.digestWindow (s : Dev) (h : HoldId) : Dev :=
  match (s.holding h).vote with
  | some v =>
    if s.coordinates h then
      (s.advanceTo (v.ownTime + BitVec.ofNat 64 (s.holding h).digest.window)).decideVote h
    else s
  | none => s

/-- DIGEST_VERDICT. One that comes before the member's own record counts for the vote that the member has yet to open
(DEDUCED, notes/assumptions/42). -/
def Dev.takeVerdict (s : Dev) (h : HoldId) (v : Verdict) : Dev :=
  if (s.holding h).vote.isSome then s.actOn h v
  else if (s.holding h).rollback || (s.voters h).isNone then s
  else (s.modHolding h fun x => { x with early := true }).actOn h v

/-- VERDICT_TIMEOUT. -/
def Dev.verdictTimeout (s : Dev) (h : HoldId) : Dev :=
  match (s.holding h).vote with
  | some v => (s.advanceTo (v.ownTime + BitVec.ofNat 64 (2 * (s.holding h).digest.window))).actOn h .rollback
  | none => s

/-! ### The commands -/

/-- What a fence may change: what a Survey may, the stacks and the host reads that end. -/
def Dev.fenceScope (s r : Dev) : Dev := { s.surveyScope r with stackTab := r.stackTab }

def execCheckerDisagreement (c : CoreId) (u : CoreUnit) (passes : Bool) (s : State) : Host.Outcome State Fault Refusal :=
  work s (s.dev.fenceScope (s.dev.disagreement c u passes))
def execNeighbourRecompute (c : CoreId) (r : Recompute) (s : State) : Host.Outcome State Fault Refusal :=
  work s (s.dev.fenceScope (s.dev.recompute c r))
def execLinkCheckFail (d : DieId) (clean : Bool) (s : State) : Host.Outcome State Fault Refusal :=
  work s (s.dev.fenceScope (s.dev.linkCheck d.val clean))
def execTallyMirrorCopyDone (h : HoldId) (k : Fin 256) (s : State) : Host.Outcome State Fault Refusal :=
  work s (s.dev.coreScope (s.dev.mirrorCopied h k.val))
def execCheckedNotice (p : PortId) (b : Nat) (s : State) : Host.Outcome State Fault Refusal :=
  work s (s.dev.netScope (s.dev.checkedNotice p b))
def execDigestRecord (h : HoldId) (r : DigestRec) (s : State) : Host.Outcome State Fault Refusal :=
  work s (s.dev.lifeScope (s.dev.takeDigest h r))
def execDigestWindow (h : HoldId) (s : State) : Host.Outcome State Fault Refusal :=
  work s (s.dev.lifeScope (s.dev.digestWindow h))
def execDigestVerdict (h : HoldId) (v : Verdict) (s : State) : Host.Outcome State Fault Refusal :=
  work s (s.dev.lifeScope (s.dev.takeVerdict h v))
def execVerdictTimeout (h : HoldId) (s : State) : Host.Outcome State Fault Refusal :=
  work s (s.dev.lifeScope (s.dev.verdictTimeout h))

end Sys2Proof.Machine
end

