-- ==== Sys2Proof/Machine/Host.lean ====
section
/-! DEFINITION. The host apertures (R250, R252, R253, R384, R392, R438, R551): BAR4 reads and writes, and the completions of
outbound reads of host pages. -/

namespace Sys2Proof.Machine

open Sys2Proof

/-! ### BAR4 (R252, R438) -/

/-- Whether a function's BAR4 reaches its holding's memory. -/
def Holding.servesBar4 (x : Holding) : Bool := x.state == .enabled || x.state == .shuttingDown

/-- An access lies within the BAR4 of the virtual functions; the host sends no other (R451, R252). -/
def Dev.inBar4 (s : Dev) (va n : Nat) : Bool := decide (va + n ≤ 2 ^ s.pins.bar4.2)

/-- HOST_BAR4_READ. It is made again while it waits for an undecided check. -/
def Dev.bar4Read (s : Dev) (f : FnId) (va n : Nat) : Dev :=
  match holdingOfFn f with
  | none => s.emit (.bar4Status f .unsupported)
  | some h =>
    if !s.inBar4 va n then s
    else if !(s.holding h).servesBar4 then s.emit (.bar4Status f .unsupported)
    else
      let r := ({ dev := s } : Run).read (ctlAgent h) va n
      if r.2.wait then s
      else if r.2.faulted then r.2.dev.emit (.bar4Status f .abort)
      else r.2.dev.emit (.bar4Data f r.1)

/-- HOST_BAR4_WRITE. What does not translate is discarded. -/
def Dev.bar4Write (s : Dev) (f : FnId) (va : Nat) (data : List PByte) : Dev :=
  match holdingOfFn f with
  | none => s
  | some h => if (s.holding h).servesBar4 && s.inBar4 va data.length then s.writeVa (ctlAgent h) false va data else s

/-! ### Outbound reads (R253, R551) -/

/-- Bytes that land in a core's buffer of host data. -/
def Dev.landHost (s : Dev) (c : CoreId) (addr : Nat) (data : List PByte) : Dev :=
  s.modCore c fun x => { x with hostBuf := Tab.setList none x.hostBuf addr (data.map some) }

/-- A read that fails lands poisoned. -/
def Dev.failHost (s : Dev) (r : HostRead) : Dev :=
  let s1 : Dev := { s with hostReads := s.hostReads.filter fun q => q != r }
  (s1.landHost r.core r.addr (poisonedBytes r.addr r.bytes)).count none (regAt ctl 0x17010) 1

/-- HOST_READ_COMPLETION. One that carries a part of the data leaves the rest waiting. -/
def Dev.hostCompletion (s : Dev) (tag : Nat) (st : CplStatus) (data : List PByte) : Dev :=
  match s.hostReads.find? fun q => q.tag == tag with
  | none => s
  | some r =>
    match st with
    | .ok =>
      let got := data.take r.bytes
      let rest := r.bytes - got.length
      let left : List HostRead := if rest = 0 then [] else [{ r with addr := r.addr + got.length, bytes := rest }]
      ({ s with hostReads := s.hostReads.flatMap fun q => if q = r then left else [q] } : Dev).landHost r.core r.addr got
    | _ => s.failHost r

/-- HOST_READ_TIMEOUT. -/
def Dev.hostTimeout (s : Dev) (tag : Nat) : Dev :=
  match s.hostReads.find? fun q => q.tag == tag with
  | none => s
  | some r => s.failHost r

/-! ### The commands -/

def execHostBar4Read (f : FnId) (o : BitVec 52) (n : Nat) (s : State) : Host.Outcome State Fault Refusal :=
  work s (s.dev.memScope (s.dev.bar4Read f o.toNat n))
def execHostBar4Write (f : FnId) (o : BitVec 52) (data : List PByte) (s : State) : Host.Outcome State Fault Refusal :=
  work s (s.dev.memScope (s.dev.bar4Write f o.toNat data))
def execHostReadCompletion (tag : Nat) (st : CplStatus) (data : List PByte) (s : State) : Host.Outcome State Fault Refusal :=
  work s (s.dev.memScope (s.dev.hostCompletion tag st data))
def execHostReadTimeout (tag : Nat) (s : State) : Host.Outcome State Fault Refusal :=
  work s (s.dev.memScope (s.dev.hostTimeout tag))

end Sys2Proof.Machine
end

