-- ==== Sys2Proof/Machine/Service.lean ====
section
/-! DEFINITION. Maintenance (R238, R328, R502 to R509): MAINT_START and its checks, the activities' own work, fences and
re-admission, and core and die resets (R555), which a re-admission begins with. -/

namespace Sys2Proof.Machine

open Sys2Proof

/-! ### MAINT_START (R502, R503, R505) -/

/-- The kinds of unit that an activity takes. -/
def actKinds (act : Nat) : List Nat :=
  match act with
  | 1 => [2] | 2 => [3] | 3 => [3] | 4 => [2] | 5 => [0, 1, 2, 3] | 6 => [0, 1, 2, 3]
  | _ => []

/-- How many units of a kind there are. -/
def kindCount (k : Nat) : Nat := nthD [256, 64, 24, 8] k 0

/-- An ACTIVITY, RESOURCE or ARG outside the table, or a FENCE of the control or the keeper die. -/
def maintBad (act : Nat) (res : BitVec 16) (arg : Nat) : Bool :=
  !(actKinds act).contains (resKind res) || decide (kindCount (resKind res) ≤ resNum res)
    || (if act = 1 then decide (16 ≤ resNum res) && decide (256 ≤ arg) else arg != 0)
    || (act == 5 && resKind res == 1 && decide (62 ≤ resNum res))

def stackOf (n : Nat) : StackId := Fin.ofNat 24 n
def Dev.stackAway (s : Dev) (k : StackId) : Bool := (s.stack k).fenced || (s.stack k).offline

/-- A unit that a READMIT can bring back. -/
def Dev.readmittable (s : Dev) (res : BitVec 16) : Bool :=
  let n := resNum res
  match resKind res with
  | 0 => (s.core (Fin.ofNat 256 n)).fenced && !(s.die (n / 8)).fenced && !(s.die (n / 8)).offline
  | 1 => (s.die n).fenced || (s.die n).offline || (dieStacks n).any s.stackAway
  | 2 => s.stackAway (stackOf n) && !(s.die (stackDie (stackOf n))).fenced
  | _ =>
    let p : PortId := Fin.ofNat 8 n
    ((s.port p).state == .failed || (s.port p).state == .miscabled || s.reg (lchkReg p 0) != 0)
      && !(s.die (linkDie p)).fenced

/-- The stacks that a RESOURCE names. -/
def resStacks (res : BitVec 16) : List StackId :=
  match resKind res with
  | 1 => dieStacks (resNum res)
  | 2 => [stackOf (resNum res)]
  | _ => []

/-- A FENCE or READMIT that the present state forbids. -/
def Dev.maintWrong (s : Dev) (act : Nat) (res : BitVec 16) : Bool :=
  let n := resNum res
  match act with
  | 5 => resKind res == 1 && dieKind n == 4 && (s.die (121 - n)).fenced
  | 6 => !s.readmittable res || (resStacks res).any fun k => decide (85 ≤ (s.stack k).temp.toNat)
  | _ => false

/-- The holder of BUSY_CONFLICT: its number, ACTIVITY and RESOURCE. -/
def Activity.asHolder (a : Activity) : BitVec 128 :=
  resultOf a.number (a.activity.toNat + a.resource.toNat * 0x10000) 0 0

def Dev.maintStart (s : Dev) (n : Nat) : Dev :=
  s.runJob n 0x0070 fun j =>
    let act := j.param 15 0
    let res : BitVec 16 := BitVec.ofNat 16 (j.param 31 16)
    let arg := j.param 63 32
    if maintBad act res arg then s.finishJob n .badParameter 0
    else if s.maintWrong act res then s.finishJob n .wrongState 0
    else match s.service.holder (BitVec.ofNat 16 act) res with
      | some a => (s.countGotre 0x38 1).finishJob n .busyConflict a.asHolder
      | none =>
        ({ s with service := s.service.enter (BitVec.ofNat 16 act) res (word arg) .running (some n) } : Dev).interimJob n
          (BitVec.ofNat 128 s.service.nextActivity)

/-! ### MAINT_STATUS and MAINT_CANCEL (R501, R502, R509) -/

/-- The 256 most recent activities. -/
def Service.recent (v : Service) : List Activity := v.activities.drop (v.activities.length - 256)

/-- The RESULT of R509. -/
def Activity.report (a : Activity) : BitVec 128 :=
  let st := if a.open then 0 else a.status.code.toNat
  resultOf (a.state.code.toNat + st * 0x10000) (a.activity.toNat + a.resource.toNat * 0x10000) a.progress 0

def Dev.maintStatus (s : Dev) (n : Nat) : Dev :=
  s.runJob n 0x0071 fun j =>
    match s.service.recent.find? fun a => a.number == j.param 31 0 with
    | some a => s.finishJob n .ok a.report
    | none => s.finishJob n .badParameter 0

/-- An activity stops before its end; the MAINT_CANCELs that waited for it complete. -/
def Dev.stopActivity (s : Dev) (k : Nat) : Dev :=
  match s.activity k with
  | none => s
  | some a => (s.endActivity k .cancelled .aborted).finishJobs a.cancels .ok

/-- The kind of an activation. -/
def Activity.imageKind (a : Activity) : Nat := a.activity.toNat - 0x100
def Activity.isActivation (a : Activity) : Bool := decide (0x100 < a.activity.toNat)

/-- The flash of an activation is still to be written. -/
def Service.flashAhead (v : Service) (k : Nat) : Bool :=
  v.writing.any (fun w => w.2 == k) || v.writeQueue.any fun w => w.2 == k

def Activity.stackRes (a : Activity) : StackId := stackOf (resNum a.resource)

/-- An activity that stops only at its next boundary. -/
def Dev.stopsLater (s : Dev) (a : Activity) : Bool :=
  (a.activity == 1 && a.state == .running && (s.stack a.stackRes).retraining)
    || (a.isActivation && s.service.flashAhead a.number)

/-- An activity that MAINT_CANCEL may stop. -/
def Dev.cancellable (s : Dev) (a : Activity) : Bool :=
  a.activity == 1 || a.activity == 4 || (a.isActivation && !s.service.switched.any fun w => w.1 == a.imageKind)

def Dev.maintCancel (s : Dev) (n : Nat) : Dev :=
  s.runJob n 0x0072 fun j =>
    match s.activity (j.param 31 0) with
    | none => s.finishJob n .wrongState 0
    | some a =>
      if !a.open || !s.cancellable a then s.finishJob n .wrongState 0
      else if s.stopsLater a then
        (s.keepRunning n).modActivity a.number fun q => { q with cancels := q.cancels ++ [n] }
      else (s.stopActivity a.number).finishJob n .ok 0

/-- MAINT_WAITING_START: the first waiting activity starts once nothing that runs stands against it (R506). -/
def Dev.maintWaitingStart (s : Dev) (k : Nat) : Dev :=
  match s.service.activities.find? fun a => a.state == .waiting with
  | none => s
  | some a =>
    let running : Service := { s.service with activities := s.service.activities.filter fun q => q.state == .running }
    if a.number ≠ k || !s.gotreRuns || (running.holder a.activity a.resource).isSome then s
    else s.modActivity k fun q => { q with state := .running }

/-! ### Retraining (R238) -/

/-- The running activity of a kind on a unit; while Gotre is down none goes on (R417). -/
def Dev.runningOn (s : Dev) (act res : BitVec 16) : Option Activity :=
  if !s.gotreRuns then none
  else s.service.activities.find? fun a => a.state == .running && a.activity == act && a.resource == res

def stackChannels (k : StackId) : List (Fin 32) := (List.range (if k.val < 16 then 32 else 8)).map (Fin.ofNat 32)

/-- The channels that an ARG names. -/
def maskChannels (k : StackId) (arg : Word32) : List (Fin 32) :=
  if arg = 0 then stackChannels k else (stackChannels k).filter fun c => arg.getLsbD c.val

/-- STACK_RETRAIN: the first channel of the activity is quiesced. -/
def Dev.stackRetrain (s : Dev) (k : StackId) : Dev :=
  match s.runningOn 1 (stackResource k) with
  | none => s
  | some a =>
    if (s.stack k).retraining || s.stackLost k || a.progress != 0 then s
    else match maskChannels k a.arg with
      | [] => s
      | c :: cs => s.modStack k fun x => { x with retraining := true, channel := c, channelsLeft := cs, retrainPending := false
                                                  faulty := none }

/-- No channel is quiesced any more. -/
def Dev.endQuiesce (s : Dev) (k : StackId) : Dev :=
  (s.modStack k fun x => { x with retraining := false, channelsLeft := [] }).release

/-- CHANNEL_RETRAIN_DONE: the waiting requests of the channel go on, and the next channel is quiesced. A channel whose training
ends while Gotre is down is trained again (R417, R508). -/
def Dev.channelDone (s : Dev) (k : StackId) : Dev :=
  if !(s.stack k).retraining || !s.gotreRuns then s
  else
    match s.runningOn 1 (stackResource k) with
    | none => s.endQuiesce k
    | some a =>
      let s1 := s.modActivity a.number fun q => { q with progress := q.progress + 1 }
      if !a.cancels.isEmpty then (s1.endQuiesce k).stopActivity a.number
      else match (s.stack k).channelsLeft with
        | [] => s1.endQuiesce k
        | c :: cs => (s1.modStack k fun x => { x with channel := c, channelsLeft := cs }).release

/-! ### Ports and scrub (R236, R328) -/

/-- A port's maintenance begins: the port is in RECAL while it runs, and no failure is counted. A port that is DISABLED, or
has no cable, stays as it is (R298, R330). A port in service that re-equalises comes back TRAINING unless its training has
an outcome before the end. -/
def Dev.recal (s : Dev) (p : PortId) (act : BitVec 16) : Dev :=
  match s.runningOn act (BitVec.ofNat 16 (0x3000 + p.val)) with
  | none => s
  | some a =>
    let st := (s.port p).state
    if a.progress != 0 then s
    else if st == .disabled || st == .recal || !(s.port p).cable then s.modActivity a.number fun q => { q with progress := 1 }
    else
      let full := act == 3
      (s.setPortState p .recal fun q => { q with back := if full && st != .failed then .training else st, reeq := full }).modActivity
        a.number fun q => { q with progress := 1 }

/-- The port leaves RECAL for the state that its activity gave back. -/
def Dev.endRecal (s : Dev) (p : PortId) : Dev :=
  let q := s.port p
  if q.state != .recal then s else (s.setPortState p q.back fun x => { x with reeq := false }).drain p

/-- One scrub pass over the blocks of a stack: R235 at every sector in which an error stands, then the comparisons. How many
corrections the dies report in it is free (R234), and so are the tags it misses (R223). -/
def Dev.scrubAll (s : Dev) (k : StackId) : Dev :=
  let on := fun b => (s.place (b * 4096)).stack == k
  let s1 := ((s.ecc.map (·.1)).filter fun x => on (x / 128)).foldl (fun d x => d.meetEcc k .device x) s
  let s2 := ((s1.tags.map (·.1)).filter on).foldl (fun d b => d.scrubTag b k) s1
  (((s2.countMem k .device 0x10 (128 * localBlocks)).tagRead k .device).countFree none (stackReg k 0x58)).release

def Dev.scrubPass (s : Dev) (k : StackId) : Dev :=
  match s.runningOn 4 (stackResource k) with
  | none => s
  | some a =>
    if s.stackLost k || a.progress != 0 then s
    else (s.scrubAll k).modActivity a.number fun q => { q with progress := localBlocks }

/-! ### FENCE (R503, R526) -/

/-- The die of a RESOURCE. -/
def resDie (res : BitVec 16) : Nat :=
  let n := resNum res
  match resKind res with
  | 0 => n / 8
  | 1 => n
  | 2 => stackDie (stackOf n)
  | _ => 48 + n

def Dev.fenceUnit (s : Dev) (res : BitVec 16) : Dev :=
  let n := resNum res
  match resKind res with
  | 0 => s.fenceCore (Fin.ofNat 256 n) .maintenance
  | 1 => s.fenceDie n .maintenance
  | 2 => if (s.stack (stackOf n)).fenced then s else s.fenceStackAlone (stackOf n) .maintenance
  | _ => if s.reg (lchkReg (Fin.ofNat 8 n) 0) != 0 then s else s.fencePort (Fin.ofNat 8 n) .maintenance

/-- The fence of a running FENCE activity. -/
def Dev.fenceNow (s : Dev) (k : Nat) : Dev :=
  match s.activity k with
  | none => s
  | some a =>
    if a.state != .running || a.activity != 5 || a.progress != 0 || !s.gotreRuns then s
    else (s.fenceUnit a.resource).modActivity k fun q => { q with progress := 1 }

/-- FENCE: a fence aimed at a die that a Survey has frozen takes effect at the resume. -/
def Dev.fenceActivity (s : Dev) (k : Nat) : Dev :=
  match s.activity k with
  | none => s
  | some a =>
    if (s.die (resDie a.resource)).survey then
      { s with survey := { s.survey with fences := insertNew k s.survey.fences } }
    else s.fenceNow k

/-! ### Core and die resets (R44, R80, R104, R207, R466, R555) -/

/-- Whether a window offset of a compute die belongs to the core at a position, as its reset takes it. CORE_EVENT is none of
them: R457 names the cold and the die reset alone (DESIGN CHOICE: notes/assumptions/115). -/
def coreOffset (p o : Nat) : Bool :=
  (decide (0x9000 ≤ o) && decide (o < 0xA000) && (o - 0x9000) / 0x200 == p)
    || (decide (0xA000 ≤ o) && decide (o < 0x10000) && o % 0x1000 / 0x100 == p)
    || (decide (0x16000 ≤ o) && decide (o < 0x16400) && (o - 0x16000) / 0x80 == p)

/-- The fence causes keep their values. -/
def isCause (a : Nat) : Bool :=
  let d := a / 0x40000
  let o := a % 0x40000
  match dieKind d with
  | 0 => o == 0x16400 || (decide (0x16000 ≤ o) && decide (o < 0x16400) && o % 0x80 == 0)
  | 2 => o == 0x16000
  | _ => false

/-- The value of a register after cold reset. -/
def resetReg (a : Nat) : Word32 := Tab.get 0 resetRegs a

/-- Gives the registers that a reset covers, and the table does not keep, their reset values; empties their slots. -/
def Dev.resetRegisters (s : Dev) (covers keeps : Nat → Bool) : Dev :=
  let kept := s.regs.filter fun t => !covers t.1 || keeps t.1
  let back := resetRegs.filter fun t => covers t.1 && !keeps t.1
  { s with regs := back.foldl (fun r t => Tab.set 0 r t.1 t.2) kept
           ctrs := s.ctrs.filter fun t => !covers t.1 || keeps t.1
           ctrHi := s.ctrHi.filter fun t => !covers t.1 || keeps t.1
           slots := s.slots.filter fun t => !covers t.1 }

/-- What a core loses in its reset besides its registers. -/
def Core.reset (x : Core) : Core :=
  { ({ x with epoch := 0 } : Core).dropAhead with
           lregs := [], lastLen := [], grad := [], gradDirty := [], window := [], inbox := [], retained := []
           hostBuf := [], batch := [], batchPhase := 0 }

/-- The translation caches that keep what they hold. -/
def Dev.keepCaches (s : Dev) (keeps : CacheName → Bool) : Dev := { s with xlat := s.xlat.filter fun q => keeps q.cache }

/-- The die whose unit a translation cache belongs to. -/
def CacheName.die : CacheName → Nat
  | .core c => c.val / 8
  | .shared d => d
  | .walker d => d

def Dev.resetCore (s : Dev) (c : CoreId) : Dev :=
  let covers := fun (a : Nat) => a / 0x40000 == c.val / 8 && coreOffset (c.val % 8) (a % 0x40000)
  ((s.resetRegisters covers isCause).modCore c Core.reset).keepCaches fun n => n != .core c

def Dev.resetDie (s : Dev) (d : Nat) : Dev :=
  let covers := fun (a : Nat) => a / 0x40000 == d
  let s1 := s.resetRegisters covers isCause
  let s2 := ({ s1 with guards := s1.guards.filter fun t => t.1 / 4 != d } : Dev).keepCaches fun n => n.die != d
  if dieKind d = 0 then (dieCores d).foldl (fun e c => e.modCore c Core.reset) s2 else s2

/-! ### READMIT (R222, R503, R555) -/

/-- A core comes back when its self-test passes; its stage stays with its successor. -/
def Dev.regainCore (s : Dev) (c : CoreId) : Dev :=
  ((s.resetCore c).modCore c fun x => { x with fenced := false, away := true, outside := true }).setReg (chkReg c 0) 0

def Dev.regainStackUnit (s : Dev) (k : StackId) (hottest : Nat) : Dev :=
  (s.modStack k fun x => { x with fenced := false, offline := false, throttled := false, retrainPending := false
                                  faulty := none, parityTimes := [], temp := BitVec.ofNat 8 hottest }).regainStack k

/-- A port trains again (R325); one with no cable stays DOWN (R298). -/
def Dev.regainPort (s : Dev) (p : PortId) : Dev :=
  let s1 := s.setReg (lchkReg p 0) 0
  if (s1.reg (klxReg p 4)).getLsbD 0 then
    s1.setPortState p (if (s.port p).cable then .training else .down) fun q => { q.drop with failures := 0 }
  else s1.modPort p fun q => { q with failures := 0 }

/-- A counter once a compute die of its half is back: a counter that no die served is taken over by it, and every mirror
lies at the lowest-numbered live die of the half again (R21, R197). -/
def Dev.regainCounter (s : Dev) (d : Nat) (k : Counter) : Counter :=
  if halfOf k.die.val != halfOf d then k
  else
    let dead := (s.die k.die.val).fenced
    let die : Fin 32 := if dead then Fin.ofNat 32 d else k.die
    let m := (s.mirrorDie die.val).map (Fin.ofNat 32)
    if dead then { k with die := die, mirror := m, copying := m.isSome, taken := true }
    else if m = k.mirror then k
    else { k with mirror := m, copying := m.isSome }

def Dev.regainCounters (s : Dev) (d : Nat) : Dev :=
  allHoldings.foldl (fun e h => e.modHolding h fun x => { x with counters := x.counters.map (s.regainCounter d) }) s

def Dev.regainDie (s : Dev) (d : Nat) (passes : Bool) (hottest : Nat) : Dev :=
  let s1 := (s.resetDie d).modDie d fun x => { x with fenced := false, offline := false }
  let s2 := if dieKind d = 0 then (s1.setReg (regAt d 0x16400) 0).regainCounters d else s1
  let s3 := (dieStacks d).foldl (fun e k => e.regainStackUnit k hottest) s2
  let s4 := if dieKind d = 2 then s3.regainPort (Fin.ofNat 8 (d - 48)) else s3
  if dieKind d = 0 && passes then (dieCores d).foldl (fun e c => if (e.core c).fenced then e.regainCore c else e) s4 else s4

/-- What a READMIT brings back. -/
def Dev.regain (s : Dev) (res : BitVec 16) (passes : Bool) (hottest : Nat) : Dev :=
  let n := resNum res
  match resKind res with
  | 0 => if passes then s.regainCore (Fin.ofNat 256 n) else s.resetCore (Fin.ofNat 256 n)
  | 1 => s.regainDie n passes hottest
  | 2 => s.regainStackUnit (stackOf n) hottest
  | _ => s.regainPort (Fin.ofNat 8 n)

/-- READMIT. A self-test that fails, or a die that has grown hot, leaves the unit as it was. -/
def Dev.readmit (s : Dev) (k : Nat) (passes : Bool) (hottest : Nat) : Dev :=
  match s.activity k with
  | none => s
  | some a =>
    if a.state != .running || a.activity != 6 || a.progress != 0 || !s.gotreRuns then s
    else if !(resStacks a.resource).isEmpty && decide (85 ≤ hottest) then
      s.modActivity k fun q => { q with progress := 1, status := .wrongState }
    else
      let tested := resKind a.resource == 0 || dieKind (resDie a.resource) == 0
      (s.regain a.resource passes hottest).modActivity k fun q =>
        { q with progress := 1, status := if tested && !passes then .fenced else .ok }

/-! ### The end of an activity (R502) -/

/-- The work of an activity is done. -/
def Dev.workDone (s : Dev) (a : Activity) : Bool :=
  a.progress != 0 && !(a.activity == 1 && (s.stack a.stackRes).retraining)

/-- What an activity still holds goes back. -/
def Dev.letGo (s : Dev) (a : Activity) : Dev :=
  let p : PortId := Fin.ofNat 8 (resNum a.resource)
  match a.activity.toNat with
  | 1 => if (s.stack a.stackRes).retraining then s.endQuiesce a.stackRes else s
  | 2 => s.endRecal p
  | 3 => s.endRecal p
  | _ => s

/-- MAINT_ACTIVITY_END: an activity ends when its work is done, or before with a status other than OK. -/
def Dev.maintEnd (s : Dev) (k : Nat) (st : Status) : Dev :=
  match s.activity k with
  | none => s
  | some a =>
    let final := if a.status = .ok then st else a.status
    if a.state != .running || a.isActivation || (st == .ok && !s.workDone a) || !s.gotreRuns then s
    else (s.letGo a).endActivity k (if final = .ok then .done else .failed) final

/-! ### The commands -/

/-- What the scheduler may change: what Gotre may, and the service records. -/
def Dev.serviceScope (s r : Dev) : Dev := { s.gotreScope r with service := r.service }
/-- What maintenance may change: what a fence may, the key latches, latched high words and shadows of counters. -/
def Dev.maintScope (s r : Dev) : Dev := { s.fenceScope r with ctrHi := r.ctrHi, guards := r.guards }

def execMaintStart (n : Nat) (s : State) : Host.Outcome State Fault Refusal := done s (s.dev.serviceScope (s.dev.maintStart n))
def execMaintStatus (n : Nat) (s : State) : Host.Outcome State Fault Refusal := done s (s.dev.gotreScope (s.dev.maintStatus n))
def execMaintCancel (n : Nat) (s : State) : Host.Outcome State Fault Refusal := done s (s.dev.serviceScope (s.dev.maintCancel n))
def execMaintWaitingStart (k : Nat) (s : State) : Host.Outcome State Fault Refusal :=
  done s (s.dev.serviceScope (s.dev.maintWaitingStart k))
def execStackRetrain (k : StackId) (s : State) : Host.Outcome State Fault Refusal :=
  work s (s.dev.ctrlScope (s.dev.stackRetrain k))
def execChannelRetrainDone (k : StackId) (s : State) : Host.Outcome State Fault Refusal :=
  work s (s.dev.ctrlScope (s.dev.channelDone k))
def execLaneRecal (p : PortId) (s : State) : Host.Outcome State Fault Refusal := work s (s.dev.maintScope (s.dev.recal p 2))
def execPortReeq (p : PortId) (s : State) : Host.Outcome State Fault Refusal := work s (s.dev.maintScope (s.dev.recal p 3))
def execScrubPass (k : StackId) (s : State) : Host.Outcome State Fault Refusal := work s (s.dev.ctrlScope (s.dev.scrubPass k))
def execFence (k : Nat) (s : State) : Host.Outcome State Fault Refusal := work s (s.dev.maintScope (s.dev.fenceActivity k))
def execReadmit (k : Nat) (passes : Bool) (hottest : Nat) (s : State) : Host.Outcome State Fault Refusal :=
  work s (s.dev.maintScope (s.dev.readmit k passes hottest))
def execMaintActivityEnd (k : Nat) (st : Status) (s : State) : Host.Outcome State Fault Refusal :=
  work s (s.dev.maintScope (s.dev.maintEnd k st))

end Sys2Proof.Machine
end

