-- ==== Sys2Proof/Machine/Images.lean ====
section
/-! DEFINITION. Firmware images and their activation (R495 to R501, R510), debug authorisations (R514 to R516), and what the
management interface asks for (R512, R545). -/

namespace Sys2Proof.Machine

open Sys2Proof

/-! ### Verification (R496, R497, R510) -/

def hdrBytes (l : List Byte) (first n : Nat) : List Byte := (l.drop first).take n
def hdrNum (l : List Byte) (first n : Nat) : Nat := leNat (hdrBytes l first n)
def hdrZero (l : List Byte) (first n : Nat) : Bool := (hdrBytes l first n).all (· == 0)

/-- The bytes of a block of words. -/
def blockBytes (ws : List Word64) : List Byte := ws.flatMap fun w => leBytes 8 w.toNat

/-- Check 1: format, kind, length and reserved bytes. -/
def headerGood (kind : Nat) (l : List Byte) : Bool :=
  256 ≤ l.length && hdrNum l 0 2 == 1 && hdrNum l 2 1 == kind && hdrZero l 3 1 && hdrZero l 10 6 && hdrZero l 20 44 && hdrZero l 192 64
    && hdrNum l 16 4 == l.length - 256 && decide (1 ≤ hdrNum l 16 4) && decide (hdrNum l 16 4 ≤ 16776960)

/-- The checks of R497 in their order. -/
def Service.verifies (v : Service) (kind : Nat) (l : List Byte) : Bool :=
  let key := hdrNum l 9 1
  let svn := hdrNum l 8 1
  headerGood kind l
    && (decide (key < 4) && Config.fuseKeyProgrammed key && !v.revoked.contains key)
    && (decide (svn < 32) && decide (v.floor kind ≤ svn))
    && Config.sha512 (l.drop 256) == hdrBytes l 64 64
    && Config.ed25519Verify (Config.fuseKey key) (l.take 128) (hdrBytes l 128 64)

/-- The kinds of image. -/
def kindGood (kind : Nat) : Bool := decide (1 ≤ kind) && decide (kind ≤ 7)

/-- The activation of a kind that has not ended. -/
def Service.activation (v : Service) (kind : Nat) : Option Activity :=
  v.activities.find? fun a => a.open && a.isActivation && a.imageKind == kind

def imageOf (l : List Byte) : Image := { header := l.take 256, body := l.drop 256, good := true }

/-- Places a verified image in the staging area of its kind. -/
def Service.stage (v : Service) (kind : Nat) (l : List Byte) : Service :=
  { v with staged := Tab.set none v.staged kind (some (imageOf l)) }

/-! ### IMAGE_STAGE (R497, R499) -/

/-- What the read of the block brings. -/
def Job.rawBlock (j : Job) (r : BlockRead) : Except Status (List Byte) :=
  if j.blockAddr = 0 || j.blockAddr.setWidth 6 != (0 : BitVec 6) then .error .badParameter
  else match r with
    | .poisoned => .error .poisoned
    | .failed => .error .badParameter
    | .words ws => if ws.length ≠ j.blockWords then .error .badParameter else .ok (blockBytes ws)

/-- Verifies and stages; the command completes. -/
def Dev.stageNow (s : Dev) (j : Job) (blk : BlockRead) : Dev :=
  let kind := j.param 7 0
  match j.rawBlock blk with
  | .error st => s.finishJob j.number st 0
  | .ok l =>
    if s.service.verifies kind l then
      ({ s with service := s.service.stage kind l } : Dev).finishJob j.number .ok 0
    else s.finishJob j.number .badSignature 0

/-- IMAGE_STAGE: an interim completion at once; the command waits while the kind is being activated, and this row is then
made again. -/
def Dev.imageStage (s : Dev) (n : Nat) (blk : BlockRead) : Dev :=
  let go := fun (d : Dev) (j : Job) =>
    if (d.service.activation (j.param 7 0)).isSome then d else d.stageNow j blk
  match s.job n with
  | none => s
  | some j =>
    if j.phase = .interim ∧ j.op = 0x0080 then (if s.boxServed j.fn j.mb then go s j else s)
    else s.runJob n 0x0080 fun j =>
      if kindGood (j.param 7 0) then go (s.interimJob n 0) j
      else match j.rawBlock blk with
        | .error st => s.finishJob n st 0
        | .ok _ => s.finishJob n .badParameter 0

/-! ### IMAGE_ACTIVATE and the flash (R498, R499, R501) -/

/-- The flash takes up the next write when it is free. -/
def Service.nextWrite (v : Service) : Service :=
  match v.writing, v.writeQueue with
  | none, w :: rest => { v with writing := some w, writeQueue := rest }
  | _, _ => v

/-- Enters an activation; it waits while an activity holds one of its units (R505). -/
def Service.activate (v : Service) (kind : Nat) (job : Option Nat) : Service :=
  let act : BitVec 16 := BitVec.ofNat 16 (0x100 + kind)
  let st : ActState := if (v.holder act 0).isSome then .waiting else .running
  let n := v.nextActivity
  ({ (v.enter act 0 0 st job) with writeQueue := v.writeQueue ++ [(Fin.ofNat 8 kind, n)] } : Service).nextWrite

/-- Whether a kind can be activated now: one is staged, and none of the kind is on its way. -/
def Service.mayActivate (v : Service) (kind : Nat) : Bool :=
  (Tab.get none v.staged kind).isSome && (v.activation kind).isNone

def Dev.imageActivate (s : Dev) (n : Nat) : Dev :=
  s.runJob n 0x0081 fun j =>
    let kind := j.param 7 0
    if !kindGood kind then s.finishJob n .badParameter 0
    else if !s.service.mayActivate kind then s.finishJob n .wrongState 0
    else ({ s with service := s.service.activate kind (some n) } : Dev).keepRunning n

/-! ### The units and their quiesce points (R500) -/

/-- A port that takes the image when it is next brought into service. -/
def Dev.portLater (s : Dev) (p : PortId) : Bool :=
  let st := (s.port p).state
  st == .down || st == .failed || st == .disabled || (s.die (linkDie p)).fenced

/-- A unit that carries no work of a holding's streams: its holding is not in service. -/
def Holding.inService (x : Holding) : Bool := x.state != .closed && x.state != .disabled

/-- The units of a kind that take the image now, in the order of R500. The cores of a holding that is in service are one
unit, numbered 256 and the holding. -/
def Dev.imageUnits (s : Dev) (kind : Nat) : List Nat :=
  match kind with
  | 1 => [0]
  | 4 => (List.range 32).filter fun d => !(s.die d).fenced && !(s.die d).offline
  | 5 => (List.range 8).filter fun p => !s.portLater (Fin.ofNat 8 p)
  | 6 => (List.range 8).filter fun p => !(s.die (48 + p)).fenced && !(s.die (48 + p)).offline
  | 7 => ((List.range 16).map (· + 32) ++ (List.range 4).map (· + 56)).filter fun d => !(s.die d).fenced && !(s.die d).offline
  | _ =>
    let idle := (List.range 256).filter fun n =>
      s.coreLive (Fin.ofNat 256 n) && !((s.holdingOfCore (Fin.ofNat 256 n)).any fun h => (s.holding h).inService)
    let busy := (List.range 8).filter fun h => (s.holding (Fin.ofNat 8 h)).inService
    idle ++ busy.map (· + 256)

/-- The units still to switch. -/
def Dev.unitsLeft (s : Dev) (kind : Nat) : List Nat := (s.imageUnits kind).filter fun u => !s.service.switched.contains (kind, u)

/-- The unit stands at its quiesce point. -/
def Dev.quiescent (s : Dev) (kind unit : Nat) : Bool :=
  match kind with
  | 1 => !s.gotre.jobs.any fun j => j.phase == .running && j.op != 0x0081
  | 4 => s.drlStatus unit % 2 == 0 && s.drlStatus unit / 8 % 2 == 0
  | 5 => !s.service.activities.any fun a => a.state == .running && a.resource == BitVec.ofNat 16 (0x3000 + unit)
      && (a.activity == 2 || a.activity == 3 || a.activity == 5 || a.activity == 6)
  | 6 => s.redStatus (Fin.ofNat 8 unit) / 4 % 2 == 0 && s.hrwStatus (Fin.ofNat 8 unit) / 16 == 0
  | 7 => (dieStacks unit).all fun k => !(s.stack k).retraining
  | _ => if unit < 256 then true else s.boundaryReady (Fin.ofNat 8 unit)

/-- What the switch does to the unit: Gotre restarts uncounted, its copy in near region 0 is replaced, and a port starts its link again. -/
def Dev.switchUnit (s : Dev) (kind unit : Nat) : Dev :=
  match kind with
  | 1 =>
    let s1 := ((s.setUp false).setUp true).gotreRestarted s.gotre.restartCount
    { s1 with gotre := { s1.gotre with copy := some (s.flashImage 1) } }
  | 5 =>
    let p : PortId := Fin.ofNat 8 unit
    let st := (s.port p).state
    if st.usable then
      ((s.setPortState p .recal id).setPortState p st fun x => x.start x.half x.peer x.peerPort x.fabric).drain p
    else s
  | _ => s

/-- The image of a kind runs: its floor rises, the activation is logged and counted. -/
def Dev.finishActivation (s : Dev) (kind : Nat) (a : Activity) : Dev :=
  let im := s.flashImage kind
  let v := s.service
  let v1 : Service :=
    { v with active := Tab.set none v.active kind (some im)
             svnFloor := Tab.set 0 v.svnFloor kind (max (v.floor kind) (hdrNum im.header 8 1))
             activationLog := Config.sha512 (v.activationLog ++ im.header)
             switched := v.switched.filter fun w => w.1 != kind }
  ((({ s with service := v1 } : Dev).count none (regAt kpr 0x1B038) 1).endActivity a.number .done .ok).finishJobs a.cancels .wrongState

/-- Ends an activation whose last unit has switched. -/
def Dev.closeActivation (s : Dev) (kind : Nat) : Dev :=
  match s.service.activation kind with
  | none => s
  | some a =>
    if a.state == .running && !s.service.flashAhead a.number && (s.unitsLeft kind).isEmpty then s.finishActivation kind a else s

/-- ACTIVATION_UNIT_SWITCH: the next unit in order, at its quiesce point. -/
def Dev.unitSwitch (s : Dev) (kind unit : Nat) : Dev :=
  match s.service.activation kind with
  | none => s
  | some a =>
    if a.state != .running || s.service.flashAhead a.number || !s.gotreRuns || (s.unitsLeft kind).head? != some unit
        || !s.quiescent kind unit then s
    else
      let s1 := s.switchUnit kind unit
      let s2 : Dev := { s1 with service := { s1.service with switched := s1.service.switched ++ [(kind, unit)] } }
      (s2.modActivity a.number fun q => { q with progress := q.progress + 1 }).closeActivation kind

/-! ### FLASH_WRITE_DONE (R498, R499) -/

/-- Every kind's flash image verifies. -/
def Dev.flashWhole (s : Dev) : Bool := (List.range 7).all fun k => (s.flashImage (k + 1)).good

/-- The boot ROM goes on with the cold reset once no kind fails. -/
def Dev.leaveRecovery (s : Dev) : Dev :=
  if s.gotre.deviceState == .recovery && s.flashWhole then
    { s with gotre := { s.gotre with deviceState := .boot }, pins := { s.pins with resetting := 4 }
             service := { s.service with recovery := false } }
  else s

/-- The write has ended: the flash holds the staged image, and the staging area is empty. -/
def Dev.flashWritten (s : Dev) (kind : Nat) (good : Bool) : Dev :=
  let v := s.service
  let im := (Tab.get none v.staged kind).map fun x => { x with good := good }
  let v1 : Service :=
    { v with flash := Tab.set none v.flash kind im, staged := Tab.set none v.staged kind none, writing := none }
  { s with service := v1.nextWrite }

def Dev.flashDone (s : Dev) (kind : Nat) (good : Bool) : Dev :=
  match s.service.writing with
  | none => s
  | some (k, n) =>
    if k.val ≠ kind || !(s.gotreRuns || s.inRecovery) then s
    else
      let s1 := s.flashWritten kind good
      match s1.activity n with
      | none => s1
      | some a =>
        if !good then (s1.endActivity n .failed .badSignature).finishJobs a.cancels .ok
        else if !a.cancels.isEmpty then s1.stopActivity n
        else if s1.inRecovery then (s1.endActivity n .done .ok).leaveRecovery
        else s1.closeActivation kind

/-! ### Debug authorisation (R514 to R516) -/

/-- The 64-byte signature of the i-th holding that a request names. -/
def grantSig (req : List Byte) (i : Nat) : List Byte := hdrBytes req (112 + 64 * i) 64

/-- A holding's owner key as bytes. -/
def Holding.keyBytes (x : Holding) : List Byte := x.ownerKey.flatMap fun w => leBytes 4 w.toNat

/-- The holdings that a request names. -/
def grantHoldings (req : List Byte) : List HoldId := allHoldings.filter fun h => (hdrNum req 5 1).testBit h.val

/-- Whether the keeper grants a request. -/
def Dev.grantGood (s : Dev) (req : List Byte) : Bool :=
  let hs := grantHoldings req
  let msg := req.take 48
  let expiry : Word64 := BitVec.ofNat 64 (hdrNum req 40 8)
  hdrNum req 0 2 == 1 && hdrNum req 2 2 == s.number.toNat && decide (hdrNum req 4 1 < 8) && hdrZero req 6 2
    && req.length == 112 + 64 * hs.length
    && hdrBytes req 8 32 == leBytes 32 s.challenge.toNat && !reached s.dt expiry
    && Config.ed25519Verify Config.debugKey msg (hdrBytes req 48 64)
    && ((List.range hs.length).all fun i =>
      let x := s.holding (nthD hs i 0)
      x.ownerKey.any (· != 0) && Config.ed25519Verify x.keyBytes msg (grantSig req i))

def grantOf (req : List Byte) : Grant :=
  let scope := hdrNum req 4 1
  { device := scope.testBit 0, test := scope.testBit 1, holdings := if scope.testBit 2 then grantHoldings req else []
    expiry := BitVec.ofNat 64 (hdrNum req 40 8) }

/-- The management interface and the test logic serve (R545). -/
def Dev.managed (s : Dev) : Bool := s.pins.inputPower && s.power.state != .off

/-- DBG_AUTH: a new challenge follows each attempt. -/
def Dev.dbgAuth (s : Dev) (req : List Byte) : Dev :=
  if !s.managed then s
  else
    let ok := s.grantGood req
    let v := s.service
    let s1 : Dev :=
      { s with service := { v with challenges := v.challenges + 1, grants := if ok then v.grants ++ [grantOf req] else v.grants } }
    if ok then s1 else s1.count none (regAt kpr 0x1B030) 1

/-- The grant that expires first. -/
def earliest (now : Word64) : List Grant → Option Grant
  | [] => none
  | g :: rest =>
    match earliest now rest with
    | none => some g
    | some b => if (g.expiry - now).toNat ≤ (b.expiry - now).toNat then some g else some b

/-- Test mode lasts no longer than its grant (R470, R514). -/
def Dev.leaveTest (s : Dev) : Dev :=
  if s.service.dbgTest then s else (List.range 64).foldl (fun d n => d.modDie n fun x => { x with testMode := false }) s

/-- AUTHORISATION_EXPIRY: device time reaches the earliest expiry. -/
def Dev.authExpiry (s : Dev) : Dev :=
  match s.service.grants.find? fun g => reached s.dt g.expiry with
  | some g => ({ s with service := { s.service with grants := s.service.grants.filter fun q => q != g } } : Dev).leaveTest
  | none =>
    match earliest s.dt s.service.grants with
    | none => s
    | some g =>
      if !s.managed then s
      else
        ({ s with dt := g.expiry
                  service := { s.service with grants := s.service.grants.filter fun q => !reached g.expiry q.expiry } } : Dev).leaveTest

/-! ### SPDM and PLDM (R512, R545) -/

/-- The code of a request, and what its answer draws on. -/
def Dev.spdmBody (s : Dev) (r : SpdmReq) : Nat × List Byte :=
  let blocks := fun (is : List Nat) => is.flatMap s.measurement
  match r with
  | .getVersion => (0, [])
  | .getCapabilities => (1, [])
  | .negotiateAlgorithms => (2, [])
  | .getDigests => (3, Config.sha512 certificateChain)
  | .getCertificate => (4, certificateChain)
  | .challenge nonce => (5, leBytes 32 nonce.toNat ++ blocks ((List.range 10).map (· + 1)))
  | .getMeasurements i nonce =>
    (6, leBytes 32 nonce.toNat ++ (if i = 0xFF then blocks ((List.range 10).map (· + 1))
                                   else if 1 ≤ i ∧ i ≤ 10 then s.measurement i else []))
  | .keyExchange b => (7, b)
  | .finish b => (8, b)

/-- SPDM_REQUEST. -/
def Dev.spdm (s : Dev) (r : SpdmReq) : Dev :=
  if !s.managed then s else s.emit (.management (Config.spdmAnswer (s.spdmBody r).1 (s.spdmBody r).2))

/-- The sensors of R545; the input's voltage and current are measured outside the model's state. -/
def Dev.sensors (s : Dev) (volts amps : Nat) : List Byte :=
  le16 volts ++ le16 amps ++ le16 s.power.inputW
    ++ [BitVec.ofNat 8 s.pins.coolant.1, BitVec.ofNat 8 s.pins.coolant.2.1, BitVec.ofNat 8 s.pins.coolant.2.2]
    ++ (List.finRange 24).map fun k => (s.stack k).temp

/-- PLDM_MONITOR. -/
def Dev.pldmMonitor (s : Dev) : Dev :=
  if !s.managed then s
  else
    let v := s.takeFree
    let w := v.2.takeFree
    w.2.emit (.management (Config.pldmAnswer 0 (s.sensors (v.1.toNat % 65536) (w.1.toNat % 65536))))

/-- A status as a PLDM answer carries it. -/
def Dev.pldmStatus (s : Dev) (st : Status) : Dev := s.emit (.management (Config.pldmAnswer 1 (le16 st.code.toNat)))

/-- PLDM_FW_UPDATE: an image is staged, or the staged one activated, as the commands do. -/
def Dev.pldmUpdate (s : Dev) (kind : Nat) (image : Option (List Word64)) : Dev :=
  if !s.managed then s
  else if !s.gotreRuns then s.pldmStatus .wrongState
  else if !kindGood kind then s.pldmStatus .badParameter
  else match image with
    | some ws =>
      if (s.service.activation kind).isSome then s
      else if s.service.verifies kind (blockBytes ws) then
        ({ s with service := s.service.stage kind (blockBytes ws) } : Dev).pldmStatus .ok
      else s.pldmStatus .badSignature
    | none =>
      if s.service.mayActivate kind then
        ({ s with service := s.service.activate kind none } : Dev).pldmStatus .ok
      else s.pldmStatus .wrongState

/-! ### The commands -/

/-- What the keeper's own service may change. -/
def Dev.keeperScope (s r : Dev) : Dev :=
  { s with dt := r.dt, service := r.service, ctrs := r.ctrs, shadow := r.shadow, dies := r.dies, outbox := r.outbox, free := r.free }

/-- What an image may change: what maintenance may, and the reset that goes on after recovery. -/
def Dev.imageScope (s r : Dev) : Dev := { s.maintScope r with pins := r.pins }

def execImageStage (n : Nat) (blk : BlockRead) (s : State) : Host.Outcome State Fault Refusal :=
  done s (s.dev.serviceScope (s.dev.imageStage n blk))
def execImageActivate (n : Nat) (s : State) : Host.Outcome State Fault Refusal :=
  done s (s.dev.serviceScope (s.dev.imageActivate n))
def execFlashWriteDone (kind : Fin 8) (good : Bool) (s : State) : Host.Outcome State Fault Refusal :=
  done s (s.dev.imageScope (s.dev.flashDone kind.val good))
def execActivationUnitSwitch (kind : Fin 8) (unit : Nat) (s : State) : Host.Outcome State Fault Refusal :=
  done s (s.dev.imageScope (s.dev.unitSwitch kind.val unit))
def execDbgAuth (req : List Byte) (s : State) : Host.Outcome State Fault Refusal := done s (s.dev.keeperScope (s.dev.dbgAuth req))
def execAuthorisationExpiry (s : State) : Host.Outcome State Fault Refusal := done s (s.dev.keeperScope s.dev.authExpiry)
def execSpdmRequest (r : SpdmReq) (s : State) : Host.Outcome State Fault Refusal := done s (s.dev.keeperScope (s.dev.spdm r))
def execPldmMonitor (s : State) : Host.Outcome State Fault Refusal := done s (s.dev.keeperScope s.dev.pldmMonitor)
def execPldmFwUpdate (kind : BitVec 8) (image : Option (List Word64)) (s : State) : Host.Outcome State Fault Refusal :=
  done s (s.dev.keeperScope (s.dev.pldmUpdate kind.toNat image))

end Sys2Proof.Machine
end

