-- ==== Sys2Proof/Machine/Resets.lean ====
section
/-! DEFINITION. Survey commands (R521, R526, R534), the saved image of a power state (R486 to R490), and the resets (R410,
R448, R449, R487, R499, R549, R553 to R557). -/

namespace Sys2Proof.Machine

open Sys2Proof

def keeperEvent : Nat := regAt kpr 0x100
/-- An ignored command of the keeper (R534, R556). -/
def Dev.keeperIgnores (s : Dev) : Dev := s.accessEvent kpr evPartial

/-! ### SVY_CMD (R521, R526, R534) -/

/-- A DIE Survey ends: the die goes on, fences aimed at it take effect, and the ports train. -/
def Dev.resumeDie (s : Dev) : Dev :=
  let d := s.survey.die.val
  let fences := s.survey.fences
  let s1 : Dev := { s with survey := { s.survey with frozen := false, fences := [] } }
  let s2 := s1.modDie d fun x => { x with survey := false, testMode := false }
  (fences.foldl (fun e k => e.fenceNow k) s2).restartPorts

/-- A value of SVY_CMD. A trigger during a power-state transition waits for its end. -/
def Dev.surveyCommand (s : Dev) (v : Word32) : Dev :=
  let d := (v.extractLsb' 8 6).toNat
  match (v.extractLsb' 0 2).toNat with
  | 1 =>
    if s.power.transition then { s with survey := { s.survey with waiting := s.survey.waiting ++ [v] } }
    else s.surveyTrigger none 1 none
  | 2 =>
    if dieKind d ≠ 0 then s.keeperIgnores
    else if s.power.transition then { s with survey := { s.survey with waiting := s.survey.waiting ++ [v] } }
    else s.surveyTrigger (some d) 1 none
  | 3 => if dieKind d ≠ 0 || !(s.survey.frozen && s.survey.dieScope) then s.keeperIgnores else s.resumeDie
  | _ => s

/-- The triggers that waited for the end of a transition. -/
def Dev.runWaiting (s : Dev) : Dev :=
  let vs := s.survey.waiting
  vs.foldl (fun d v => d.surveyCommand v) { s with survey := { s.survey with waiting := [] } }

/-! ### The saved image (R486, R489, R490) -/

def savedLinks : List Nat :=
  [klxReg 0 0x300, klxReg 0 0x304] ++ (List.range 8).map (fun p => klxReg (Fin.ofNat 8 p) 4) ++
    (List.range 64).map fun i => klxReg 0 (0x400 + 4 * i)
def savedCores : List Nat :=
  (List.finRange 256).flatMap fun c => [seqReg c 8, seqReg c 0xC, ctrReg c 4, ctrReg c 8]
def savedControllers : List Nat := allStacks.map fun k => stackReg k 0x0C
/-- The dies that carry droop sensors. -/
def droopDies : List Nat := List.range 32 ++ (List.range 8).map (· + 48)
def savedDroop : List Nat := droopDies.map fun d => regAt d 0x19000
def savedCauses : List Nat :=
  (List.finRange 256).map (fun c => chkReg c 0) ++ (List.range 32).map (fun d => regAt d 0x16400) ++
    (List.range 8).map fun p => lchkReg (Fin.ofNat 8 p) 0
/-- Every register of the image. -/
def savedRegs : List Nat := savedLinks ++ savedCores ++ savedControllers ++ savedDroop ++ savedCauses

def Dev.values (s : Dev) (as : List Nat) : List (Nat × Word32) := as.map fun a => (a, s.reg a)

/-- The image of the device as it enters a state. -/
def Dev.image (s : Dev) : SavedImage :=
  { regions := s.regions, links := s.values savedLinks, cores := s.values savedCores
    controllers := s.values savedControllers, droop := s.values savedDroop, limit := s.power.limit, ratio := s.power.ratio
    state := s.power.target, dt := s.dt, causes := s.values savedCauses
    fenced := (List.range 256).filter fun n => (s.core (Fin.ofNat 256 n)).fenced
    dieStates := (List.range 64).map fun d => ((s.die d).fenced, (s.die d).offline)
    mailboxes := s.boxes, functions := allHoldings.map fun h => ((s.holding h).state, (s.holding h).epoch) }

/-- The saved fields of a mailbox. -/
def Mailbox.restore (b saved : Mailbox) : Mailbox :=
  { b with cmdBase := saved.cmdBase, cplBase := saved.cplBase, enable := saved.enable, cplLog2 := saved.cplLog2
           cmdLog2 := saved.cmdLog2 }

/-- Restores the image: a restored value replaces whatever the die holds. -/
def Dev.restore (s : Dev) (im : SavedImage) : Dev :=
  let regs := (im.links ++ im.cores ++ im.controllers ++ im.droop ++ im.causes).foldl (fun r p => Tab.set 0 r p.1 p.2) s.regs
  let s1 : Dev := { s with regs := regs, regions := im.regions
                           power := { s.power with limit := im.limit, ratio := im.ratio } }
  let s2 := (List.finRange 256).foldl (fun d c => d.modCore c fun x => { x with fenced := im.fenced.contains c.val }) s1
  let s3 := (List.range 64).foldl (fun d n => d.modDie n fun x =>
    { x with fenced := (nthD im.dieStates n (false, false)).1, offline := (nthD im.dieStates n (false, false)).2 }) s2
  let s4 := (List.range 36).foldl (fun (d : Dev) k =>
    { d with boxes := Tab.modify {} d.boxes k fun b => b.restore (Tab.get {} im.mailboxes k) }) s3
  allHoldings.foldl (fun d h =>
    let f := nthD im.functions h.val (.closed, 1)
    d.modHolding h fun x => { x with state := f.1, epoch := f.2 }) s4

/-! ### What resumes after a warm reset (R195, R385, R410, R449) -/

/-- Whether a completed or begun descriptor has taken or sent a transfer that it will take or send again. -/
def WEntry.took (e : WEntry) (key : Nat) : Bool :=
  let k := cpyOf e.desc
  e.phase == .completed && e.stream == 0 && !e.replay && classOf e.desc == 8
    && ((opcodeOf e.desc == 3 && k.group == key) || (opcodeOf e.desc == 4 && key == 64))
def WEntry.gave (e : WEntry) (key : Nat) : Bool :=
  e.stream == 0 && !e.replay &&
    ((classOf e.desc == 8 && decide (opcodeOf e.desc < 2) && (cpyOf e.desc).group == key && key != 0
        && (e.phase == .completed || e.mark != 0))
      || (classOf e.desc == 1 && opcodeOf e.desc == 0 && (denseOf e.desc).rotate && key == 64 && e.phase == .completed))

/-- The transfer counts as they stood at the core's first descriptor that is not recorded. -/
def Core.recount (x : Core) : Core :=
  let back := fun (t : Tab Nat) (f : WEntry → Nat → Bool) =>
    t.foldl (fun (r : Tab Nat) p => Tab.set 0 r p.1 (p.2 - (x.window.filter fun e => f e p.1).length)) t
  { x with sent := back x.sent WEntry.gave, received := back x.received WEntry.took }

/-- What a core loses at warm reset. -/
def Core.warm (x : Core) : Core :=
  { (x.recount.dropAhead) with
    lregs := [], lastLen := [], grad := [], gradDirty := [], window := [], inbox := [], retained := []
    decision := none, helping := false, hostBuf := [], batch := [], batchPhase := 0 }

/-- A stage goes on from its last rest point, with what was recorded since replayed silently. -/
def Dev.resumeStage (s : Dev) (h : HoldId) (g : Stage) : Dev :=
  let n := (s.queue g.dfn.queue).recorded
  let s1 := s.modHolding h fun x => x.modStage g.dfn.stage fun t =>
    { t with next := t.lastRest, replayEnd := n, atStep := false, slots := t.restSlots }
  match g.runsOn with
  | some c => s1.bringHome h c g.dfn
  | none => s1

/-- The requests that wait at the controllers as memory enters self-refresh: writes and their clearances are served, reads
and scrub are dropped. -/
def Dev.emptyQueues (s : Dev) : Dev :=
  s.memWaits.foldl (fun d w => if w.req.isRead then d else d.perform w.req) { s with memWaits := [], reissues := [] }

/-- The controllers empty their queues for self-refresh: what waits is served (R484). -/
def Dev.serveQueues (s : Dev) : Dev :=
  s.memWaits.foldl (fun d w => d.perform w.req) { s with memWaits := [], reissues := [] }

/-- Every unit's pending writes are settled. -/
def Dev.settleAll (s : Dev) : Dev :=
  let cores := (List.range 256).foldl (fun (d : Dev) n => d.settlePend n) s
  (List.range 8).foldl (fun (d : Dev) p => d.settlePend (256 + p)) cores

/-- Cores lose their work and the streams resume. -/
def Dev.resumeStreams (s : Dev) : Dev :=
  let s1 := (List.finRange 256).foldl (fun (d : Dev) c => (d.squashAll (d.holdingOfCore c) c).modCore c Core.warm) s
  let s2 : Dev := { s1 with hostReads := [], egress := [], crossing := [], crossTx := [], crossRx := [] }
  allHoldings.foldl (fun d h => (d.holding h).stages.foldl (fun e g => e.resumeStage h g) d) s2

/-- Ports train again; one that a cleared ENABLE held DISABLED returns with its reset value. -/
def Dev.trainPorts (s : Dev) : Dev :=
  allPorts.foldl (fun d p =>
    let d1 := d.modPort p fun q => { q with lowPower := false }
    if (d1.port p).state == .disabled then d1.klxCtrlDone p else d1.restartPort p) s

/-- The registers that warm reset leaves unchanged: the keeper's, event registers, fence causes, the areas of the cores,
droop thresholds, the device number, scrub periods and GTR_RESTART. -/
def warmKeeps (a : Nat) : Bool :=
  let d := a / 0x40000
  let o := a % 0x40000
  d == kpr || decide (o < 0x100) || (eventOffsets d).contains o || isCause a || a == klxReg 0 0x300
    || a == regAt ctl 0x18000
    || match dieKind d with
       | 0 => (decide (0xB000 ≤ o) && decide (o < 0xC000) && (o % 0x100 == 8 || o % 0x100 == 0xC))
         || (decide (0xD000 ≤ o) && decide (o < 0xE000) && (o % 0x100 == 4 || o % 0x100 == 8)) || o == 0x19000
       | 1 => o == 0x1000C
       | 2 => o == 0x19000
       | 3 => o == 0x1000C || o == 0x1010C
       | _ => false

/-! ### Power states that end (R484 to R487) -/

/-- A transition ends with a reset: an entry's command is aborted, and one that asked for RUN is done. -/
def Dev.endTransition (s : Dev) : Dev :=
  let w := s.power
  let s1 : Dev := { s with power := { w with transition := false, job := none, target := .run, state := .run, holdover := false
                                             pllLock := true } }
  match w.job with
  | none => s1
  | some n => s1.finishJob n (if w.state = .run then .aborted else .ok) 0

/-- What FALLOW has lost (R486): registers outside the saved list, core SRAM, Tally and event counters. -/
def Dev.fallowLoss (s : Dev) : Dev :=
  let keeps := fun (a : Nat) => savedRegs.contains a || a == regAt kpr 0x1D004 || a == regAt kpr 0x1D018
  let s1 := s.resetRegisters (fun _ => true) keeps
  let s2 : Dev := { s1 with guards := [], time := {}, linkState := [], xlat := []
                            stackTab := s1.stackTab.map fun t => (t.1, { t.2 with temp := 0, throttled := false })
                            survey := { s1.survey with cause := 0, number := 0, freezeDt := 0 }
                            cores := s1.cores.map fun t =>
                              (t.1, ({ fenced := t.2.fenced, away := t.2.away, outside := t.2.outside } : Core)) }
  allHoldings.foldl (fun d h => d.modHolding h fun x =>
    { x with events := [], counters := x.counters.map (·.clear) }) s2

/-- FALLOW with a good image is left: what it lost is lost, and the image restored. -/
def Dev.leaveFallow (s : Dev) : Dev :=
  let s1 := s.fallowLoss
  let s2 := match s.saved with | some im => s1.restore im | none => s1
  { s2 with saved := none }

/-! ### Warm reset (R410, R449, R525, R555, R556) -/

def Dev.resetCause (s : Dev) (cause kind : Nat) : Dev := s.setReg (regAt kpr 0x1D004) (word (cause * 16 + kind))

/-- A warm reset starts. One that is no deeper than a running reset is ignored. -/
def Dev.startWarm (s : Dev) (cause : Nat) : Dev :=
  if !s.pins.inputPower || decide (3 ≤ s.pins.resetting.val) || s.power.state == .off || s.pins.heldHot then s
  else
    let s1 := (s.setUp false).resetCause cause 3
    { s1 with pins := { s1.pins with resetting := 3 } }

/-- The aborts that a FULL Survey latched run at the start of the reset (R524). -/
def Dev.runLatched (s : Dev) : Dev :=
  let hs := s.survey.latched
  let s1 : Dev := { s with survey := { s.survey with latched := [], fences := [] } }
  hs.foldl (fun d h => d.abortHolding h) s1

/-- WARM_RESET: the reset that has been started runs to service. -/
def Dev.warmReset (s : Dev) : Dev :=
  if s.pins.resetting != 3 then s
  else
    let s3 := (if s.survey.frozen then s.endSurvey else s).runLatched
    let s4 := if s.power.state == .fallow then s3.leaveFallow else s3
    let s5 := (s4.endTransition.settleAll.emptyQueues).resumeStreams
    let s6 := s5.resetRegisters (fun _ => true) warmKeeps
    let s7 : Dev := { s6 with guards := [], time := {}, linkState := [], linkSent := 0, xlat := []
                              pins := { s6.pins with resetting := 0 } }
    let s8 := s7.trainPorts
    let s9 := s.survey.fences.foldl (fun (d : Dev) k => d.fenceNow k) s8
    let up := s9.gotre.deviceState == .ready && !s9.gotre.stopped
    (if up then (s9.setUp true).gotreRestarted s9.gotre.restartCount else s9).runWaiting

/-! ### Cold reset (R448, R486, R498, R555) -/

/-- What the keeper and the flash keep of service: the flash, but for a kind that was being written, and the fuses. -/
def Service.cold (v : Service) : Service :=
  let flash := match v.writing with
    | some (k, _) => Tab.set none v.flash k.val (some ((Tab.get none v.flash k.val).elim
        { header := Config.shippedHeader k.val, body := Config.shippedBody k.val, good := false } fun x => { x with good := false }))
    | none => v.flash
  { flash := flash, revoked := v.revoked, svnFloor := v.svnFloor, challenges := v.challenges }

/-- Cables stay in their ports. -/
def Dev.pluggedPorts (s : Dev) : Tab Port :=
  (List.range 8).foldl (fun t p => if (s.port (Fin.ofNat 8 p)).cable then Tab.set {} t p { cable := true } else t) []

/-- Everything at its cold-reset value but what a loss of power leaves: flash, fuses, cables, and the pins as they are. -/
def Dev.blank (s : Dev) : Dev :=
  { regs := resetRegs, service := s.service.cold, ports := s.pluggedPorts, pins := { s.pins with resetting := 4, jtag := 0, bar4 := (36, 36) }
    outbox := s.outbox, free := s.free, hostTag := s.hostTag }

/-- What cold reset keeps besides, in save memory, while input power is present (R486, R494, R520, R557). -/
def Dev.keepSaved (s old : Dev) : Dev :=
  let trips := old.ctr (regAt kpr 0x1D018)
  let s1 := s.setReg (regAt kpr 0x1D004) (old.reg (regAt kpr 0x1D004))
  { s1 with ctrs := Tab.set 0 s1.ctrs (regAt kpr 0x1D018) trips
            power := { s1.power with log := old.power.log, logNext := old.power.logNext }
            survey := { s1.survey with armed := old.survey.armed } }

/-- A cold reset starts: it takes over from any other. -/
def Dev.startCold (s : Dev) (cause : Nat) : Dev :=
  let s1 := (s.blank.keepSaved s).resetCause cause 4
  { s1 with pins := { s1.pins with thermTrip := false } }

/-- The exit from OFF is a cold reset that restores the image and the device time of the entry (R478, R487). -/
def Dev.leaveOff (s : Dev) : Dev :=
  let s1 := s.startCold 7
  match s.saved with
  | some im => ({ (s1.restore im) with dt := im.dt } : Dev)
  | none => s1

/-- The kinds whose flash image fails verification at this boot are marked. -/
def Dev.markFlash (s : Dev) (verified : List (Fin 8)) : Dev :=
  let bad := (List.range 7).filter fun k => !verified.contains (Fin.ofNat 8 (k + 1))
  bad.foldl (fun (d : Dev) k =>
    let im := d.flashImage (k + 1)
    { d with service := { d.service with flash := Tab.set none d.service.flash (k + 1) (some { im with good := false }) } }) s

/-- COLD_RESET_BOOT: every image verifies and the device comes up, through TRAINING and with the copy of the Gotre image placed
in near region 0, or the boot ROM enters recovery (R448, R499). -/
def Dev.boot (s : Dev) (verified : List (Fin 8)) : Dev :=
  if s.pins.resetting != 4 || s.pins.perst || !s.pins.pwrOk || !s.pins.inputPower || s.pins.heldHot then s
  else
    let s1 := s.markFlash verified
    let s2 : Dev := { s1 with pins := { s1.pins with resetting := 0 } }
    if s1.flashWhole then
      let trained : Dev := { s2 with gotre := { s2.gotre with deviceState := .training, copy := some (s2.flashImage 1) }
                                     service := { s2.service with active := s2.service.flash, recovery := false } }
      ({ trained with gotre := { trained.gotre with deviceState := .ready } } : Dev).setUp true
    else { s2 with gotre := { s2.gotre with deviceState := .recovery }, service := { s2.service with recovery := true } }

/-! ### Pins and power (R537, R540, R549, R554) -/

/-- CLK_MODE is sampled at the release of PERST#; the pin is the board's. -/
def Dev.sampleClkMode (s : Dev) : Dev :=
  let v := s.takeFree
  { v.2 with pins := { v.2.pins with clkMode := v.1.getLsbD 0, releaseWaits := false } }

def Dev.perstLow (s : Dev) : Dev :=
  let s1 : Dev := { s with pins := { s.pins with perst := true, releaseWaits := false } }
  if s.pins.inputPower && s.pins.pwrOk && !s.pins.heldHot then s1.startCold 2 else s1

/-- A release waits for PWR_OK and for the end of a hold after a trip. -/
def Dev.perstHigh (s : Dev) : Dev :=
  if !s.pins.perst then s
  else
    let s1 : Dev := { s with pins := { s.pins with perst := false } }
    if s.pins.heldHot || !s.pins.pwrOk then { s1 with pins := { s1.pins with releaseWaits := true } } else s1.sampleClkMode

/-- POWER_UP. -/
def Dev.powerUp (s : Dev) : Dev :=
  if s.pins.inputPower then s
  else
    let s1 := s.blank.resetCause 1 4
    let s2 : Dev := { s1 with pins := { s1.pins with inputPower := true, pwrOk := true, heldHot := false, thermTrip := false } }
    if s2.pins.releaseWaits then s2.sampleClkMode else s2

/-- INPUT_POWER_LOSS. -/
def Dev.powerLoss (s : Dev) : Dev :=
  let s1 := s.blank
  { s1 with pins := { s1.pins with inputPower := false, pwrOk := false, heldHot := false, thermTrip := false } }

/-- HOT_RESET: PCIe Hot Reset, or a Data Link Down that the device has not brought about. MSI-X and the size of
BAR4 return to their reset values with configuration space. -/
def Dev.hotReset (s : Dev) : Dev :=
  if s.pcieUp then ({ s with msix := [], pins := { s.pins with bar4 := (36, 36) } } : Dev).startWarm 4 else s

/-! ### Temperature (R553) -/

def Dev.dieHot (s : Dev) (d temp : Nat) : Dev :=
  if !s.clocked || !droopDies.contains d || decide (temp < 100) then s
  else
    let c := s.pins.coolant
    let s1 : Dev := { s with pins := { s.pins with coolant := (c.1, c.2.1, max c.2.2 (min temp 255)) }
                             power := { s.power with dieLimit := true } }
    if s.power.dieLimit then s1 else s1.count none (regAt kpr 0x1D010) 1

/-- DIE_LIMIT_RELEASE: every die has read below 95 °C for 10 ms. -/
def Dev.dieCool (s : Dev) : Dev :=
  if !s.power.dieLimit then s
  else
    let v := s.takeFree
    let c := s.pins.coolant
    { v.2 with pins := { v.2.pins with coolant := (c.1, c.2.1, v.1.toNat % 95) }, power := { v.2.power with dieLimit := false } }

def ThermalReport.trips (r : ThermalReport) : Bool := decide (115 ≤ r.die) || r.inletLong || decide (65 < r.outlet)

/-- THERMAL_TRIP: every die but the keeper is powered down, and the keeper holds the device in reset. -/
def Dev.trip (s : Dev) (r : ThermalReport) : Dev :=
  if !s.pins.inputPower then s
  else
    let at' := (min r.inlet 255, min r.outlet 255, min r.die 255)
    let s0 : Dev := { s with pins := { s.pins with coolant := at' } }
    if !ThermalReport.trips r || s.pins.heldHot then s0
    else
      let s1 := s0.blank.keepSaved s0
      ({ s1 with pins := { s1.pins with thermTrip := true, pwrOk := false, heldHot := true } } : Dev).count none (regAt kpr 0x1D018) 1

/-- THERMAL_RELEASE: a release of PERST# that came meanwhile takes effect. -/
def Dev.coolAgain (s : Dev) (hottest inlet : Nat) : Dev :=
  let c := s.pins.coolant
  let s0 : Dev := { s with pins := { s.pins with coolant := (min inlet 255, c.2.1, min hottest 255) } }
  if !s.pins.heldHot || decide (85 ≤ hottest) || decide (35 < inlet) then s
  else
    let s1 : Dev := { s0 with pins := { s0.pins with heldHot := false, pwrOk := true } }
    if s.pins.releaseWaits then (s1.startCold 2).sampleClkMode else s1.startCold (if s.pins.perst then 2 else 9)

/-! ### The commands -/

/-- What a reset may change: everything but the commands that wait, which stand outside the device. -/
def execHotReset (s : State) : Host.Outcome State Fault Refusal := done s s.dev.hotReset
def execWarmReset (s : State) : Host.Outcome State Fault Refusal := done s s.dev.warmReset
def execPerstAssert (s : State) : Host.Outcome State Fault Refusal := done s s.dev.perstLow
def execPerstRelease (s : State) : Host.Outcome State Fault Refusal := done s s.dev.perstHigh
def execColdResetBoot (verified : List (Fin 8)) (s : State) : Host.Outcome State Fault Refusal := done s (s.dev.boot verified)
def execPowerUp (s : State) : Host.Outcome State Fault Refusal := done s s.dev.powerUp
def execInputPowerLoss (s : State) : Host.Outcome State Fault Refusal := done s s.dev.powerLoss
def execDieTempLimit (d : DieId) (temp : Nat) (s : State) : Host.Outcome State Fault Refusal := done s (s.dev.dieHot d.val temp)
def execDieLimitRelease (s : State) : Host.Outcome State Fault Refusal := done s s.dev.dieCool
def execThermalTrip (r : ThermalReport) (s : State) : Host.Outcome State Fault Refusal := done s (s.dev.trip r)
def execThermalRelease (hottest inlet : Nat) (s : State) : Host.Outcome State Fault Refusal :=
  done s (s.dev.coolAgain hottest inlet)

end Sys2Proof.Machine
end

