-- ==== Sys2Proof/Machine/Power.lean ====
section
/-! DEFINITION. Clocks and power (R472 to R494): the power limit and its limiter, power states with their entry, abort and
exit, droop, and the loss of the root PLL's lock. -/

namespace Sys2Proof.Machine

open Sys2Proof

/-! ### The limiter (R479 to R481) -/

def Dev.powerLimitSet (s : Dev) (n : Nat) : Dev :=
  s.runJob n 0x00A1 fun j =>
    let w := j.param 15 0
    if w < 1500 || decide (3300 < w) then s.finishJob n .badParameter 0
    else ({ s with power := { s.power with limit := w } } : Dev).finishJob n .ok 0

def Dev.droopOf (s : Dev) (d : Nat) : Droop := Tab.get {} s.droop d
/-- Some source makes a die swallow edges (R473, R475, R480, R481, R553). -/
def Dev.swallows (s : Dev) (d : Nat) : Bool :=
  (s.droopOf d).ratio != 0 || decide (0 < s.power.ratio) || s.power.overdrawn || s.power.dieLimit

/-- CLK_SWALLOW of every die that swallows; how many edges fall between two samples is timing. -/
def Dev.countSwallows (s : Dev) : Dev :=
  droopDies.foldl (fun d n => if d.swallows n then d.countFree none (regAt n 0x19018) else d) s

/-- A sample in the totals of every open holding (R530). -/
def Dev.noteSample (s : Dev) (watts : Nat) : Dev :=
  s.openHoldings.foldl (fun d h => d.modHolding h fun x =>
    { x with totals := { x.totals with samples := x.totals.samples + 1, sumW := x.totals.sumW + watts
                                       peakRatio := max x.totals.peakRatio d.power.ratio } }) s

/-- The over-power swallow (R481). -/
def Dev.overSample (s : Dev) (watts : Nat) : Dev :=
  if 3300 < watts then
    let s1 : Dev := { s with power := { s.power with overdrawn := true, underSamples := 0 } }
    if s.power.overdrawn then s1 else s1.count none (regAt kpr 0x1A018) 1
  else if !s.power.overdrawn then s
  else
    let k := if watts < 3200 then s.power.underSamples + 1 else 0
    { s with power := { s.power with overdrawn := decide (k < 100), underSamples := if k < 100 then k else 0 } }

/-- n rises while a running mean exceeds the limit; by how much is not stated. -/
def Dev.raiseRatio (s : Dev) (mean : Nat) : Dev :=
  if mean ≤ s.power.limit || decide (48 ≤ s.power.ratio) then s
  else
    let v := s.takeFree
    { v.2 with power := { v.2.power with ratio := s.power.ratio + 1 + v.1.toNat % (48 - s.power.ratio) } }

/-- The keeper runs: in FALLOW and through a Survey too, on its own clock (R482, R522). -/
def Dev.keeperUp (s : Dev) : Bool := s.pins.inputPower && s.power.state != .off

/-- POWER_SAMPLE: every 10 µs. The dies swallow edges while their clocks run. -/
def Dev.powerSample (s : Dev) (watts mean : Nat) : Dev :=
  let s1 : Dev := { s with power := { s.power with inputW := min mean 65535 } }
  if !s.keeperUp then s
  else
    let s2 := if 0 < s.power.ratio then s1.count none (regAt kpr 0x1A008) 10 else s1
    (((if s.clocked then s2.countSwallows else s2).overSample watts).raiseRatio mean).noteSample watts

/-- LIMITER_STEP: every 1 ms. -/
def Dev.limiterStep (s : Dev) (mean : Nat) : Dev :=
  let w := s.power
  if !s.keeperUp then s
  else if mean * 100 < 97 * w.limit then { s with power := { w with ratio := w.ratio - 1, floorMs := 0 } }
  else if w.ratio = 48 && decide (w.limit < mean) then
    if w.floorMs + 1 < 10 then { s with power := { w with floorMs := w.floorMs + 1 } }
    else ({ s with power := { w with floorMs := 0 } } : Dev).count none (regAt kpr 0x1A010) 1
  else { s with power := { w with floorMs := 0 } }

/-! ### Droop (R473, R492) -/

def Dev.setDroop (s : Dev) (d : Nat) (r : Fin 3) : Dev := { s with droop := Tab.set {} s.droop d { ratio := r } }

/-- DROOP_THRESHOLD: the sag has crossed a threshold upward, which begins an event; the die keeps the deeper ratio. -/
def Dev.droopThreshold (s : Dev) (d sag : Nat) : Dev :=
  let cfg := s.reg (regAt d 0x19000)
  let l1 := (cfg.extractLsb' 0 8).toNat
  let l2 := (cfg.extractLsb' 8 8).toNat
  let now := (s.droopOf d).ratio
  if !droopDies.contains d || s.unreachable d then s
  else if l2 ≤ sag then
    (s.setDroop d 2).count none (regAt d 0x19010) 1
  else if l1 ≤ sag then
    (if now = 0 then s.setDroop d 1 else s).count none (regAt d 0x19008) 1
  else s

/-- DROOP_RELEASE: the sag has stayed below the first threshold for 64 cycles. -/
def Dev.droopRelease (s : Dev) (d : Nat) : Dev :=
  if droopDies.contains d && !s.unreachable d && (s.droopOf d).ratio != 0 then
    (s.setDroop d 0).countFree none (regAt d 0x19018)
  else s

/-! ### The root PLL (R472, R478) -/

/-- Ticks of 1 s. -/
def oneSecond : Nat := 940000000

/-- PLL_UNLOCK: a second loss within 1 s ends the device's service. -/
def Dev.pllUnlock (s : Dev) : Dev :=
  let w := s.power
  if !s.pins.inputPower || !w.pllLock || w.state == .fallow || w.state == .off then s
  else
    let again := w.lastUnlock.any fun t => decide ((s.dt - t).toNat < oneSecond)
    let s1 : Dev := { s with power := { w with pllLock := false, holdover := true, lastUnlock := some s.dt } }
    let s2 := s1.count none (regAt kpr 0x19010) 1
    if again then
      ({ s2 with gotre := { s2.gotre with stopped := true, deviceState := .ended } } : Dev).setUp false
    else s2

/-- PLL_RELOCK: the PLL locks again and a warm reset starts. -/
def Dev.pllRelock (s : Dev) : Dev :=
  if s.power.pllLock || s.gotre.deviceState == .ended || !s.pins.inputPower || s.power.state == .fallow || s.power.state == .off then s
  else ({ s with power := { s.power with pllLock := true, holdover := false } } : Dev).startWarm 5

/-! ### Refused and aborted entries (R491, R494) -/

/-- A condition that fails: die, reason and detail. -/
abbrev Refuser := Nat × Nat × Nat

def mirrorBuddies (s : Dev) : List Nat :=
  (s.serves.filter fun v => v.2.isSome).map (·.1) ++
    allHoldings.filterMap fun h => (s.holding h).mirrorSend.map fun m => m.buddy.toNat

/-- Ports whose link die is the sequence home of flits that are not acknowledged. -/
def Dev.trafficPorts (s : Dev) : List PortId :=
  allPorts.filter fun p => s.seqTx.any fun t => !t.2.held.isEmpty && s.homeOf (BitVec.ofNat 16 (t.1 / 4)) == p

/-- Stacks with a block whose PENDING is above 0. -/
def Dev.pendingStacks (s : Dev) : List StackId :=
  let blocks := s.tags.filter fun p => p.2.any fun t => decide (0 < t.pending.val)
  allStacks.filter fun k => blocks.any fun p => (s.place (p.1 * 4096)).stack == k

/-- What refuses each reason. -/
def Dev.refusers (s : Dev) (reason : Nat) : List Refuser :=
  match reason with
  | 1 => (s.queues.filter fun q => q.2.state != .free && q.2.accepted != q.2.recorded).map fun q => (62, 1, q.1)
  | 2 => (allHoldings.filter fun h =>
      let st := (s.holding h).state
      st == .enabled || st == .shuttingDown || st == .aborting).map fun h => (62, 2, h.val)
  | 3 => (s.service.activities.filter fun a => a.state == .running).map fun a => (62, 3, a.number % 65536)
  | 4 => s.trafficPorts.map fun p => (48 + p.val, 4, p.val)
  | 5 => (mirrorBuddies s).map fun b => (62, 5, b)
  | 6 => s.pendingStacks.map fun k => (stackDie k, 6, k.val)
  | 7 => s.openHoldings.map fun h => (62, 7, h.val)
  | 8 => if s.survey.frozen then [(63, 8, 0)] else []
  | _ => if s.gotre.up then [] else [(62, 9, 0)]

/-- The reasons that a target state checks. -/
def targetReasons (target : PowerState) : List Nat :=
  match target with
  | .run => []
  | .idle => [1, 8, 9]
  | .sleep => [1, 2, 3, 4, 5, 8, 9]
  | .fallow => [1, 2, 3, 4, 5, 6, 8, 9]
  | .off => [1, 2, 3, 4, 5, 6, 7, 8, 9]

/-- The bits of a log record below TARGET and ABORT; their order is the order of R491. -/
def Refuser.key (r : Refuser) : Nat := r.1 * 0x400000 + r.2.1 * 0x10000 + r.2.2 % 0x10000

def firstRefuser : List Refuser → Option Nat
  | [] => none
  | r :: rest =>
    match firstRefuser rest with
    | none => some (Refuser.key r)
    | some k => some (min (Refuser.key r) k)

def Dev.countReason (s : Dev) (r : Nat) : Dev :=
  let a := regAt kpr (0x1A080 + 4 * r)
  s.setReg a (addStop32 (s.reg a) 1)

/-- A log record goes into its slot (R494). -/
def Power.record (w : Power) (v : Word32) : Power :=
  let log := w.log ++ List.replicate (16 - w.log.length) 0
  { w with log := log.set w.logNext.val v, logNext := w.logNext + 1 }

/-- A refused or aborted entry: its record, its count and its event. -/
def Dev.entryFails (s : Dev) (v : Word32) (off : Nat) : Dev :=
  (({ s with power := s.power.record v } : Dev).count none (regAt kpr off) 1).event keeperEvent 4

/-! ### Power states (R482 to R487) -/

def powerOf (v : Nat) : Option PowerState := [PowerState.run, .idle, .sleep, .fallow, .off][v]?

/-- A port in or out of the low-power mode. -/
def Dev.lowPorts (s : Dev) (on : Bool) : Dev :=
  allPorts.foldl (fun d p =>
    let d1 := d.modPort p fun q => { q with lowPower := on }
    if on then d1 else d1.drain p) s

/-- Ports leave the low-power mode and train again (R485); what their link layers keep goes out after it. -/
def Dev.wakePorts (s : Dev) : Dev :=
  allPorts.foldl (fun d p =>
    let d1 := d.modPort p fun q => { q with lowPower := false }
    if (d1.port p).state.usable then d1.setPortState p .training fun q => { q with oldestReplays := 0, replayTimes := [] }
    else d1) s

/-- A port goes DOWN without a word: the pod has been told. -/
def Dev.downPort (s : Dev) (p : PortId) : Dev :=
  let st := (s.port p).state
  if st == .disabled || st == .failed || st == .down then s
  else (s.modPort p fun q => { q.drop with state := .down, failures := 0, attempts := 0 }).event (linkEvent p) 1

/-- The ports go DOWN, after link-state messages to the pod. -/
def Dev.downPorts (s : Dev) : Dev :=
  let told := s.podPeers.foldl (fun d n => d.send n 0 .device (.linkState 0)) s
  allPorts.foldl Dev.downPort { told with linkSent := 0 }

/-- Ports that an aborted entry took DOWN train again. -/
def Dev.upPorts (s : Dev) : Dev :=
  allPorts.foldl (fun d p => if (d.port p).state == .down && d.mayTrain p then d.setPortState p .training id else d) s

/-- An entry begins: its preconditions hold. -/
def Dev.beginEntry (s : Dev) (n : Nat) (t : PowerState) : Dev :=
  let s1 := ({ s with power := { s.power with transition := true, target := t, job := some n } } : Dev).keepRunning n
  if t == .sleep then s1.lowPorts true else s1.downPorts

/-- Gotre posts what waits in a command's mailbox. -/
def Dev.postBox (s : Dev) (n : Nat) : Dev :=
  match s.job n with
  | none => s
  | some j => (List.range s.gotre.waiting.length).foldl (fun d _ => d.postCompletion j.fn j.mb) s

/-- The point of commitment: the image is saved, the queues of the controllers are emptied, and the state is entered. Where
Gotre stands in the state, the final completion has been posted. -/
def Dev.commitEntry (s : Dev) (n : Nat) : Dev :=
  let t := s.power.target
  let off := t == .fallow || t == .off
  let s0 := if off then s.serveQueues else s
  let s1 := ({ s0 with saved := some s0.image } : Dev).finishJob n .ok 0
  let s2 := if off then s1.postBox n else s1
  let w : Power := { s2.power with state := t, transition := false, job := none, holdover := s2.power.holdover || t == .fallow
                                   pllLock := s2.power.pllLock && !off }
  ({ s2 with power := w } : Dev).runWaiting

/-- A refused entry: every failing unit counts, and the first one is reported. -/
def Dev.refuseEntry (s : Dev) (n : Nat) (t : PowerState) (rs : List Refuser) : Dev :=
  let s1 := rs.foldl (fun d r => d.countReason r.2.1) s
  let v := word (t.code.toNat * 0x20000000 + (firstRefuser rs).getD 0)
  (s1.entryFails v 0x1A020).finishJob n .wrongState (v.setWidth 128)

def Dev.enterState (s : Dev) (n : Nat) (t : PowerState) : Dev :=
  let rs := (targetReasons t).flatMap s.refusers
  if !rs.isEmpty then s.refuseEntry n t rs
  else if t == .idle then
    ({ s with power := { s.power with state := .idle, target := .idle } } : Dev).finishJob n .ok 0
  else s.beginEntry n t

/-- An exit to RUN begins; TARGET shows the state being left (R493). -/
def Dev.beginExit (s : Dev) (n : Option Nat) : Dev :=
  { s with power := { s.power with transition := true, target := s.power.state, job := n } }

/-- The command whose entry has begun. -/
def Dev.entering (s : Dev) (n : Nat) : Bool := s.power.transition && s.power.state == .run && s.power.job == some n

/-- The DETAIL of a wake. -/
def wakeDetail : WakeSource → Nat
  | .pin => 0 | .doorbell => 1 | .command => 2 | .abort => 3

/-- An entry in progress is aborted, by a wake event or by a failed save, and its steps undone (R484, R491). -/
def Dev.abortEntry (s : Dev) (reason detail : Nat) : Dev :=
  let w := s.power
  let v := word (w.target.code.toNat * 0x20000000 + 0x10000000 + Refuser.key (63, reason, detail))
  let s1 := (s.countReason reason).entryFails v 0x1A028
  let s2 : Dev := { s1 with power := { s1.power with transition := false, target := .run, job := none } }
  let s3 := if w.target == .sleep then s2.lowPorts false else s2.upPorts
  (match w.job with | some n => s3.finishJob n .aborted 0 | none => s3).runWaiting

/-- POWER_STATE_SET. An entry to SLEEP, FALLOW or OFF takes this row twice: it begins, and it is committed, unless a write
to save memory fails. -/
def Dev.powerStateSet (s : Dev) (k : PowerCmd) : Dev :=
  let n := k.job
  if s.entering n then
    if !s.gotreRuns then s
    else match k.saveFails with
      | some part => s.abortEntry 11 part
      | none => s.commitEntry n
  else s.runJob n 0x00A0 fun j =>
    match powerOf (j.param 2 0) with
    | none => s.finishJob n .badParameter 0
    | some t =>
      if s.power.transition then s.finishJob n .busyConflict 0
      else if s.power.state == .run then (if t == .run then s.finishJob n .ok 0 else s.enterState n t)
      else if t == .run then (s.beginExit (some n)).keepRunning n
      else s.finishJob n .wrongState 0

/-- The wake events of each state (R483). -/
def wakes (st : PowerState) (src : WakeSource) : Bool :=
  match st, src with
  | .idle, .doorbell => true
  | .idle, .command => true
  | .idle, .abort => true
  | .sleep, .command => true
  | .sleep, .pin => true
  | .fallow, .doorbell => true
  | .fallow, .pin => true
  | .off, .pin => true
  | _, _ => false

/-- WAKE. The pin is ignored while PERST# is low. -/
def Dev.wake (s : Dev) (src : WakeSource) : Dev :=
  let w := s.power
  if !s.pins.inputPower || (src == .pin && s.pins.perst) || s.pins.resetting != 0 then s
  else if w.transition then (if w.state == .run then s.abortEntry 10 (wakeDetail src) else s)
  else if wakes w.state src then s.beginExit none
  else s

/-- RUN is reached: the waking command completes, and what waited goes on. -/
def Dev.reachRun (s : Dev) : Dev :=
  let w := s.power
  let up : Power := { w with state := .run, target := .run, transition := false, job := none, holdover := false, pllLock := true }
  let s1 : Dev := { s with saved := none, power := up }
  (match w.job with | some n => s1.finishJob n .ok 0 | none => s1).runWaiting

/-- A bad image: the exit is a cold reset (R490). -/
def Dev.badRestore (s : Dev) : Dev := (s.startCold 8).count none (regAt kpr 0x1A030) 1

/-- POWER_STATE_EXIT. -/
def Dev.powerStateExit (s : Dev) (good : Bool) : Dev :=
  let w := s.power
  if !w.transition then s
  else
    match w.state with
    | .run => s
    | .idle => s.reachRun
    | .sleep =>
      if !good then s.badRestore
      else (match s.saved with | some im => s.restore im | none => s).reachRun.wakePorts
    | .fallow =>
      if !good then s.badRestore
      else
        let s1 := s.leaveFallow.reachRun.resumeStreams.trainPorts
        if s1.gotre.up then s1.gotreRestarted s1.gotre.restartCount else s1
    | .off => if good then s.leaveOff else s.badRestore

/-! ### The commands -/

/-- What droop may change. -/
def Dev.droopScope (s r : Dev) : Dev :=
  { s with droop := r.droop, ctrs := r.ctrs, shadow := r.shadow, free := r.free }
/-- What the limiter may change. -/
def Dev.limitScope (s r : Dev) : Dev :=
  { s with power := r.power, ctrs := r.ctrs, shadow := r.shadow, free := r.free, holdings := r.holdings }

def execPowerLimitSet (n : Nat) (s : State) : Host.Outcome State Fault Refusal :=
  done s { s.dev.gotreScope (s.dev.powerLimitSet n) with power := (s.dev.powerLimitSet n).power }
def execPowerStateSet (k : PowerCmd) (s : State) : Host.Outcome State Fault Refusal := done s (s.dev.powerStateSet k)
def execWake (src : WakeSource) (s : State) : Host.Outcome State Fault Refusal := done s (s.dev.wake src)
def execPowerStateExit (good : Bool) (s : State) : Host.Outcome State Fault Refusal := done s (s.dev.powerStateExit good)
def execPowerSample (watts mean : Nat) (s : State) : Host.Outcome State Fault Refusal :=
  done s (s.dev.limitScope (s.dev.powerSample watts mean))
def execLimiterStep (mean : Nat) (s : State) : Host.Outcome State Fault Refusal :=
  done s (s.dev.limitScope (s.dev.limiterStep mean))
def execDroopThreshold (d : DieId) (sag : Nat) (s : State) : Host.Outcome State Fault Refusal :=
  work s (s.dev.droopScope (s.dev.droopThreshold d.val sag))
def execDroopRelease (d : DieId) (s : State) : Host.Outcome State Fault Refusal :=
  work s (s.dev.droopScope (s.dev.droopRelease d.val))
def execPllUnlock (s : State) : Host.Outcome State Fault Refusal := done s s.dev.pllUnlock
def execPllRelock (s : State) : Host.Outcome State Fault Refusal := done s s.dev.pllRelock

end Sys2Proof.Machine
end

