-- ==== Sys2Proof/Machine/Write.lean ====
section
/-! DEFINITION. Register writes (R420 to R423, R436, R443, R452 to R470, R515, R548): BAR0 with its key guard, its aliases and
the registers whose writes act, and the windows of BAR2. -/

namespace Sys2Proof.Machine

open Sys2Proof

/-- A path reaches the register ports (R454, R468, R545). -/
def Dev.pathUp (s : Dev) : Path → Bool
  | .host => s.pcieUp
  | .mgmt => s.managed
  | .gotre => s.gotreRuns

/-! ### Writes that act (R330, R331, R492, R534, R555 to R557) -/

/-- A CLK_DROOP_CFG whose thresholds lie in their ranges. -/
def droopGood (v : Word32) : Bool :=
  let l1 := (v.extractLsb' 0 8).toNat
  decide (10 ≤ l1) && decide (l1 ≤ 120) && decide (l1 < (v.extractLsb' 8 8).toNat)

/-- Every port is DOWN or DISABLED. -/
def Dev.portsIdle (s : Dev) : Bool := allPorts.all fun p => (s.port p).state == .down || (s.port p).state == .disabled

/-- A core or die reset that has taken effect is recorded. -/
def Dev.unitReset (s : Dev) (kind : Nat) (f : Dev → Dev) : Dev :=
  if kind ≤ s.pins.resetting.val then s else (f s).resetCause 3 kind

/-- A value of KPR_RESET. -/
def Dev.resetCommand (s : Dev) (v : Word32) : Dev :=
  let n := (v.extractLsb' 8 8).toNat
  match (v.extractLsb' 0 3).toNat with
  | 1 =>
    let c : CoreId := Fin.ofNat 256 n
    if (s.core c).fenced then s.unitReset 1 fun d => d.resetCore c else s.keeperIgnores
  | 2 =>
    if n < 62 && s.readmittable (BitVec.ofNat 16 (0x1000 + n)) then s.unitReset 2 fun d => d.resetDie n else s.keeperIgnores
  | 3 => s.startWarm (if s.fullSurvey then 6 else 3)
  | 4 => s.startCold 3
  | _ => s

/-- A write that has reached its register. -/
def Dev.writeRegister (s : Dev) (d w : Nat) (i : RegInfo) (held : Bool) (v : Word32) : Dev :=
  let a := regAt d w
  let port : PortId := Fin.ofNat 8 (d - 48)
  if !held || i.rwk = 0 then s.writePlain d w i held v
  else if dieKind d = 2 ∧ w = 0x13004 then (s.writePlain d w i held v).klxCtrlDone port
  else if a = klxReg 0 0x300 then (if s.portsIdle then s.writePlain d w i held v else s.writeReserved d w i held v)
  else if w = 0x19000 ∧ droopDies.contains d then
    if droopGood v then s.writePlain d w i held v else (s.writeReserved d w i held v).accessEvent d evPartial
  else if a = regAt kpr 0x1C004 then (s.writeReserved d w i held v).surveyCommand v
  else if a = regAt kpr 0x1D000 then (s.writeReserved d w i held v).resetCommand v
  else s.writePlain d w i held v

/-! ### BAR0 (R452, R453, R454, R459, R460, R467 to R469) -/

/-- A write at a BAR0 offset from a path: it uses up the path's key, whatever becomes of it. -/
def Dev.writeBar0 (s : Dev) (p : Path) (off : Nat) (v : Word32) (enables : BitVec 4) : Dev :=
  let d := dieOf off
  let w := windowOf off
  if !s.pathUp p || s.unreachable d then s
  else
    let held := s.guard d p
    let s1 := s.setGuard d p false
    if enables != 0xF then s1.accessEvent d evPartial
    else if w = 8 then s1.writeGuard d p v
    else if 0x20000 ≤ w then s1.writeAlias d w v
    else match regInfo d w with
      | none => s1.accessEvent d evBadOffset
      | some i => s1.writeRegister d w i held v

/-! ### BAR2 (R420 to R423, R436, R443, R515, R548) -/

/-- W1C of ABORT_DONE. -/
def Dev.clearDone (s : Dev) (h : HoldId) (v : Word32) : Dev :=
  if v.getLsbD 11 then s.setFunc h fun x => { x with abortDone := false } else s

/-- A word of a mailbox. -/
def Dev.writeBox (s : Dev) (f : FnId) (m : MbId) (o : Nat) (v : Word32) : Dev :=
  match o with
  | 0x00 => s.writeBase f m false false v
  | 0x04 => s.writeBase f m false true v
  | 0x08 => s.writeBase f m true false v
  | 0x0C => s.writeBase f m true true v
  | 0x10 => s.writeCfg f m v
  | 0x14 => s.writeTail f m v
  | 0x18 => s.writeHead f m v
  | _ => s

/-- The holding that an abort register names. -/
def abortTarget (f : FnId) (o : Nat) : Option HoldId :=
  if o = 0x104 then holdingOfFn f
  else if f = 0 ∧ 0x200 ≤ o ∧ o < 0x240 ∧ o % 8 = 4 then some (Fin.ofNat 8 ((o - 0x200) / 8))
  else none

/-- The holding whose status a word shows, with its W1C bit. -/
def statusTarget (f : FnId) (o : Nat) : Option HoldId :=
  if o = 0x100 then holdingOfFn f
  else if f = 0 ∧ 0x200 ≤ o ∧ o < 0x240 ∧ o % 8 = 0 then some (Fin.ofNat 8 ((o - 0x200) / 8))
  else none

/-- A word of a holding's owner key, writable while its function is DISABLED and has not been enabled (R515). -/
def Dev.writeKey (s : Dev) (f : FnId) (i : Nat) (v : Word32) : Dev :=
  match holdingOfFn f with
  | none => s
  | some h => s.modHolding h fun x =>
      if x.state == .disabled && !x.keyLocked then { x with ownerKey := x.ownerKey.set i v } else x

/-- A word of a function's window. -/
def Dev.writeWindow (s : Dev) (f : FnId) (o : Nat) (v : Word32) : Dev :=
  match abortTarget f o, statusTarget f o with
  | some h, _ => s.abortWrite f h v
  | none, some h => if s.hostCut then s else s.clearDone h v
  | none, none =>
    if s.hostCut then s
    else if o < 0x100 then s.writeBox f (Fin.ofNat 4 (o / 0x40)) (o % 0x40) v
    else if 0x300 ≤ o ∧ o < 0x320 then s.writeKey f ((o - 0x300) / 4) v
    else if 0x8000 ≤ o ∧ o < 0x8050 then { s with msix := Tab.set 0 s.msix (msixKey f o) v }
    else s

/-- A write at a BAR2 offset of a function. -/
def Dev.writeBar2 (s : Dev) (f : FnId) (off : Nat) (v : Word32) (enables : BitVec 4) : Dev :=
  let base := f.val * 0x10000
  let mine := decide (base ≤ off) && decide (off < base + 0x10000)
  if enables != 0xF then (if s.hostCut then s else s.dbBad)
  else if mine then s.writeWindow f ((off - base) / 4 * 4) v
  else if s.hostCut then s
  else match s.ownDoorbell f off with
    | some q => if off % 8 < 4 then s.doorbell f q (v.setWidth 64) else s.dbBad
    | none => s.dbBad

def Dev.writeAny (s : Dev) (p : Path) (bar2 : Option FnId) (off : Nat) (v : Word32) (enables : BitVec 4) : Dev :=
  match bar2 with
  | none => s.writeBar0 p off v enables
  | some f => s.writeBar2 f off v enables

/-! ### The commands -/

/-- What a write of a link's registers may change. -/
def Dev.linkWriteScope (s r : Dev) : Dev := { s.linkScope r with guards := r.guards }

def execRegisterWrite (p : Path) (bar2 : Option FnId) (off : BitVec 24) (v : Word32) (enables : BitVec 4) (s : State) :
    Host.Outcome State Fault Refusal :=
  done s (s.dev.writeAny p bar2 off.toNat v enables)
def execBitAliasWrite (p : Path) (off : BitVec 24) (v : Word32) (s : State) : Host.Outcome State Fault Refusal :=
  done s (s.dev.writeBar0 p off.toNat v 0xF)
def execKlxCtrlWrite (p : Path) (port : PortId) (v : Word32) (s : State) : Host.Outcome State Fault Refusal :=
  done s (s.dev.linkWriteScope (s.dev.writeBar0 p (klxReg port 4) v 0xF))
def execKlxDeviceNumWrite (p : Path) (v : Word32) (s : State) : Host.Outcome State Fault Refusal :=
  done s (s.dev.regScope (s.dev.writeBar0 p (klxReg 0 0x300) v 0xF))
def execPodRouteWrite (p : Path) (i : Fin 64) (v : Word32) (s : State) : Host.Outcome State Fault Refusal :=
  done s (s.dev.regScope (s.dev.writeBar0 p (klxReg 0 (0x400 + 4 * i.val)) v 0xF))
def execClkDroopCfgWrite (p : Path) (d : DieId) (v : Word32) (s : State) : Host.Outcome State Fault Refusal :=
  done s (s.dev.regScope (s.dev.writeBar0 p (regAt d.val 0x19000) v 0xF))
def execSurveyFull (p : Path) (v : Word32) (s : State) : Host.Outcome State Fault Refusal :=
  done s (s.dev.writeBar0 p (regAt kpr 0x1C004) v 0xF)
def execSurveyDie (p : Path) (v : Word32) (s : State) : Host.Outcome State Fault Refusal :=
  done s (s.dev.writeBar0 p (regAt kpr 0x1C004) v 0xF)
def execSurveyResume (p : Path) (v : Word32) (s : State) : Host.Outcome State Fault Refusal :=
  done s (s.dev.writeBar0 p (regAt kpr 0x1C004) v 0xF)
def execKprResetCore (p : Path) (c : CoreId) (s : State) : Host.Outcome State Fault Refusal :=
  done s (s.dev.writeBar0 p (regAt kpr 0x1D000) (word (c.val * 0x100 + 1)) 0xF)
def execKprResetDie (p : Path) (d : DieId) (s : State) : Host.Outcome State Fault Refusal :=
  done s (s.dev.writeBar0 p (regAt kpr 0x1D000) (word (d.val * 0x100 + 2)) 0xF)
def execKprResetWarm (p : Path) (s : State) : Host.Outcome State Fault Refusal :=
  done s (s.dev.writeBar0 p (regAt kpr 0x1D000) 3 0xF)
def execKprResetCold (p : Path) (s : State) : Host.Outcome State Fault Refusal :=
  done s (s.dev.writeBar0 p (regAt kpr 0x1D000) 4 0xF)

end Sys2Proof.Machine
end

