-- ==== Sys2Proof/Machine/Dispatch.lean ====
section
/-! DEFINITION. The dispatch of commands to their meanings: one arm per constructor of Instr. -/

namespace Sys2Proof.Machine

open Sys2Proof

def exec (i : Instr) (s : State) : Host.Outcome State Fault Refusal :=
  match i with
  | .descriptorAccept core stream => Sys2Proof.Machine.execDescriptorAccept core stream s
  | .descriptorStart core slot => Sys2Proof.Machine.execDescriptorStart core slot s
  | .descriptorRecordComplete core stream => Sys2Proof.Machine.execDescriptorRecordComplete core stream s
  | .product core => Sys2Proof.Machine.execProduct core s
  | .grouped core => Sys2Proof.Machine.execGrouped core s
  | .fma core => Sys2Proof.Machine.execFma core s
  | .add core => Sys2Proof.Machine.execAdd core s
  | .mul core => Sys2Proof.Machine.execMul core s
  | .max core => Sys2Proof.Machine.execMax core s
  | .min core => Sys2Proof.Machine.execMin core s
  | .select core => Sys2Proof.Machine.execSelect core s
  | .div core => Sys2Proof.Machine.execDiv core s
  | .sqrt core => Sys2Proof.Machine.execSqrt core s
  | .func core => Sys2Proof.Machine.execFunc core s
  | .deriv core => Sys2Proof.Machine.execDeriv core s
  | .softmax core => Sys2Proof.Machine.execSoftmax core s
  | .softmaxBwd core => Sys2Proof.Machine.execSoftmaxBwd core s
  | .rsum core => Sys2Proof.Machine.execRsum core s
  | .rmax core => Sys2Proof.Machine.execRmax core s
  | .rmin core => Sys2Proof.Machine.execRmin core s
  | .rsumsq core => Sys2Proof.Machine.execRsumsq core s
  | .winnow core => Sys2Proof.Machine.execWinnow core s
  | .cast core => Sys2Proof.Machine.execCast core s
  | .lenSet core => Sys2Proof.Machine.execLenSet core s
  | .lenLoad core => Sys2Proof.Machine.execLenLoad core s
  | .gather core => Sys2Proof.Machine.execGather core s
  | .scatterAdd core => Sys2Proof.Machine.execScatterAdd core s
  | .segReduce core => Sys2Proof.Machine.execSegReduce core s
  | .spmm core => Sys2Proof.Machine.execSpmm core s
  | .merge core => Sys2Proof.Machine.execMerge core s
  | .load core => Sys2Proof.Machine.execLoad core s
  | .gatherLoad core => Sys2Proof.Machine.execGatherLoad core s
  | .store core => Sys2Proof.Machine.execStore core s
  | .mcastRecv core => Sys2Proof.Machine.execMcastRecv core s
  | .ringRecv core => Sys2Proof.Machine.execRingRecv core s
  | .coulterPrefetch core slot => Sys2Proof.Machine.execCoulterPrefetch core slot s
  | .prefetchReturn core request => Sys2Proof.Machine.execPrefetchReturn core request s
  | .mcastDelivery core => Sys2Proof.Machine.execMcastDelivery core s
  | .copy core => Sys2Proof.Machine.execCopy core s
  | .fill core => Sys2Proof.Machine.execFill core s
  | .transformBatchStart core => Sys2Proof.Machine.execTransformBatchStart core s
  | .transformValidPhase core => Sys2Proof.Machine.execTransformValidPhase core s
  | .step core stream => Sys2Proof.Machine.execStep core stream s
  | .rest core stream => Sys2Proof.Machine.execRest core stream s
  | .memfence core stream => Sys2Proof.Machine.execMemfence core stream s
  | .eventSignal core stream => Sys2Proof.Machine.execEventSignal core stream s
  | .eventWait core stream => Sys2Proof.Machine.execEventWait core stream s
  | .tallyTake core stream => Sys2Proof.Machine.execTallyTake core stream s
  | .tallyRetire core stream => Sys2Proof.Machine.execTallyRetire core stream s
  | .gradMap core stream => Sys2Proof.Machine.execGradMap core stream s
  | .tallyClaim core stream counter => Sys2Proof.Machine.execTallyClaim core stream counter s
  | .route core => Sys2Proof.Machine.execRoute core s
  | .expertWait core => Sys2Proof.Machine.execExpertWait core s
  | .ret core => Sys2Proof.Machine.execRet core s
  | .retWait core => Sys2Proof.Machine.execRetWait core s
  | .cancel core => Sys2Proof.Machine.execCancel core s
  | .countMessage h msg => Sys2Proof.Machine.execCountMessage h msg s
  | .placementReply h msg => Sys2Proof.Machine.execPlacementReply h msg s
  | .tokenRow port h msg => Sys2Proof.Machine.execTokenRow port h msg s
  | .answer port h msg => Sys2Proof.Machine.execAnswer port h msg s
  | .cancelNotice h tag cause => Sys2Proof.Machine.execCancelNotice h tag cause s
  | .drillDeadline h tag => Sys2Proof.Machine.execDrillDeadline h tag s
  | .drillBufferRelease h queue buffer => Sys2Proof.Machine.execDrillBufferRelease h queue buffer s
  | .reduce core => Sys2Proof.Machine.execReduce core s
  | .gatherWait core => Sys2Proof.Machine.execGatherWait core s
  | .scale port h c src bytes => Sys2Proof.Machine.execScale port h c src bytes s
  | .reply port h c src admits sexp => Sys2Proof.Machine.execReply port h c src admits sexp s
  | .dataMessage port h c src msg bytes => Sys2Proof.Machine.execDataMessage port h c src msg bytes s
  | .scaleDeadline port h group reduction => Sys2Proof.Machine.execScaleDeadline port h group reduction s
  | .dataDeadline port h group reduction => Sys2Proof.Machine.execDataDeadline port h group reduction s
  | .gatherFlit port h c src index skip bytes => Sys2Proof.Machine.execGatherFlit port h c src index skip bytes s
  | .gatherWindowExpiry core => Sys2Proof.Machine.execGatherWindowExpiry core s
  | .normTrailer port h group reduction src recs => Sys2Proof.Machine.execNormTrailer port h group reduction src recs s
  | .harrowBlock port h c block => Sys2Proof.Machine.execHarrowBlock port h c block s
  | .precondForward port h entry block first values => Sys2Proof.Machine.execPrecondForward port h entry block first values s
  | .forwardDeadline port h entry block => Sys2Proof.Machine.execForwardDeadline port h entry block s
  | .stepBoundary h => Sys2Proof.Machine.execStepBoundary h s
  | .memRead sector whole owner cls wait ecc parityFails => Sys2Proof.Machine.execMemRead sector whole owner cls wait ecc parityFails s
  | .memWrite address owner epoch cls data pending parityFails => Sys2Proof.Machine.execMemWrite address owner epoch cls data pending parityFails s
  | .clearance block sectors owner epoch kind => Sys2Proof.Machine.execClearance block sectors owner epoch kind s
  | .scrubBlock block ecc onDie => Sys2Proof.Machine.execScrubBlock block ecc onDie s
  | .parityReissue stack channel passes => Sys2Proof.Machine.execParityReissue stack channel passes s
  | .stackOverTemperature stack temp => Sys2Proof.Machine.execStackOverTemperature stack temp s
  | .throttleLift stack => Sys2Proof.Machine.execThrottleLift stack s
  | .stackCritical stack temp => Sys2Proof.Machine.execStackCritical stack temp s
  | .pageWalkDone die h va write core poisonedTable => Sys2Proof.Machine.execPageWalkDone die h va write core poisonedTable s
  | .checkerDisagreement core unit replayPasses => Sys2Proof.Machine.execCheckerDisagreement core unit replayPasses s
  | .neighbourRecompute core result => Sys2Proof.Machine.execNeighbourRecompute core result s
  | .linkCheckFail die repeatClean => Sys2Proof.Machine.execLinkCheckFail die repeatClean s
  | .tallyMirrorCopyDone h counter => Sys2Proof.Machine.execTallyMirrorCopyDone h counter s
  | .checkedNotice port block => Sys2Proof.Machine.execCheckedNotice port block s
  | .digestRecord h rec => Sys2Proof.Machine.execDigestRecord h rec s
  | .digestWindow h => Sys2Proof.Machine.execDigestWindow h s
  | .digestVerdict h verdict => Sys2Proof.Machine.execDigestVerdict h verdict s
  | .verdictTimeout h => Sys2Proof.Machine.execVerdictTimeout h s
  | .linkFlitReceive port flit fecGood symbolsCorrected => Sys2Proof.Machine.execLinkFlitReceive port flit fecGood symbolsCorrected s
  | .nak port lack => Sys2Proof.Machine.execNak port lack s
  | .endToEndDelivery port flit => Sys2Proof.Machine.execEndToEndDelivery port flit s
  | .write port flit => Sys2Proof.Machine.execWrite port flit s
  | .message port src msg => Sys2Proof.Machine.execMessage port src msg s
  | .e2eAck dst vc upto => Sys2Proof.Machine.execE2eAck dst vc upto s
  | .e2eNak dst vc fromSeq => Sys2Proof.Machine.execE2eNak dst vc fromSeq s
  | .e2eAckTimer src vc => Sys2Proof.Machine.execE2eAckTimer src vc s
  | .e2eRetryTimeout dst vc => Sys2Proof.Machine.execE2eRetryTimeout dst vc s
  | .unreachableResend dst vc => Sys2Proof.Machine.execUnreachableResend dst vc s
  | .linkStateTimer => Sys2Proof.Machine.execLinkStateTimer s
  | .sidebandSlot port crc msg => Sys2Proof.Machine.execSidebandSlot port crc msg s
  | .timeExchange => Sys2Proof.Machine.execTimeExchange s
  | .time t1 t2 t3 flit => Sys2Proof.Machine.execTime t1 t2 t3 flit s
  | .portTraining port outcome => Sys2Proof.Machine.execPortTraining port outcome s
  | .trainingRetry port => Sys2Proof.Machine.execTrainingRetry port s
  | .cablePresent port present => Sys2Proof.Machine.execCablePresent port present s
  | .cableOvercurrent port => Sys2Proof.Machine.execCableOvercurrent port s
  | .klxCtrlWrite path port value => Sys2Proof.Machine.execKlxCtrlWrite path port value s
  | .klxDeviceNumWrite path value => Sys2Proof.Machine.execKlxDeviceNumWrite path value s
  | .podRouteWrite path word value => Sys2Proof.Machine.execPodRouteWrite path word value s
  | .hostBar4Read fn offset length => Sys2Proof.Machine.execHostBar4Read fn offset length s
  | .hostBar4Write fn offset data => Sys2Proof.Machine.execHostBar4Write fn offset data s
  | .hostReadCompletion tag status data => Sys2Proof.Machine.execHostReadCompletion tag status data s
  | .hostReadTimeout tag => Sys2Proof.Machine.execHostReadTimeout tag s
  | .watchdogExpiry => Sys2Proof.Machine.execWatchdogExpiry s
  | .gotreRestartComplete => Sys2Proof.Machine.execGotreRestartComplete s
  | .gtrCmdTailWrite fn mb value => Sys2Proof.Machine.execGtrCmdTailWrite fn mb value s
  | .commandAccept fn mb slot => Sys2Proof.Machine.execCommandAccept fn mb slot s
  | .gtrCplHeadWrite fn mb value => Sys2Proof.Machine.execGtrCplHeadWrite fn mb value s
  | .completionPost fn mb => Sys2Proof.Machine.execCompletionPost fn mb s
  | .gtrMbCfgWrite fn mb value => Sys2Proof.Machine.execGtrMbCfgWrite fn mb value s
  | .deviceQuery job => Sys2Proof.Machine.execDeviceQuery job s
  | .capsQuery job => Sys2Proof.Machine.execCapsQuery job s
  | .holdingOpen job => Sys2Proof.Machine.execHoldingOpen job s
  | .holdingClose job => Sys2Proof.Machine.execHoldingClose job s
  | .functionEnable job => Sys2Proof.Machine.execFunctionEnable job s
  | .functionDisable job => Sys2Proof.Machine.execFunctionDisable job s
  | .shutdownComplete h => Sys2Proof.Machine.execShutdownComplete h s
  | .drainTimeout h => Sys2Proof.Machine.execDrainTimeout h s
  | .functionAbort job => Sys2Proof.Machine.execFunctionAbort job s
  | .gtrAbort fn h value => Sys2Proof.Machine.execGtrAbort fn h value s
  | .abortComplete h => Sys2Proof.Machine.execAbortComplete h s
  | .epochSweepDone h => Sys2Proof.Machine.execEpochSweepDone h s
  | .vfFlr h => Sys2Proof.Machine.execVfFlr h s
  | .pfFlr => Sys2Proof.Machine.execPfFlr s
  | .queueCreate job => Sys2Proof.Machine.execQueueCreate job s
  | .queueDestroy job => Sys2Proof.Machine.execQueueDestroy job s
  | .doorbellTail fn queue word => Sys2Proof.Machine.execDoorbellTail fn queue word s
  | .doorbellSkip fn queue => Sys2Proof.Machine.execDoorbellSkip fn queue s
  | .doorbellRetry fn queue => Sys2Proof.Machine.execDoorbellRetry fn queue s
  | .tailPoll queue => Sys2Proof.Machine.execTailPoll queue s
  | .headReport queue => Sys2Proof.Machine.execHeadReport queue s
  | .mapMemory job => Sys2Proof.Machine.execMapMemory job s
  | .unmapMemory job => Sys2Proof.Machine.execUnmapMemory job s
  | .programLoad job blk => Sys2Proof.Machine.execProgramLoad job blk s
  | .stageTableSet job blk => Sys2Proof.Machine.execStageTableSet job blk s
  | .collectiveGroupCreate job => Sys2Proof.Machine.execCollectiveGroupCreate job s
  | .reductionPolicySet job blk => Sys2Proof.Machine.execReductionPolicySet job blk s
  | .expertTableSet job blk => Sys2Proof.Machine.execExpertTableSet job blk s
  | .capacitySet job => Sys2Proof.Machine.execCapacitySet job s
  | .maskLoad job blk => Sys2Proof.Machine.execMaskLoad job blk s
  | .updateTableSet job blk => Sys2Proof.Machine.execUpdateTableSet job blk s
  | .digestPolicySet job blk => Sys2Proof.Machine.execDigestPolicySet job blk s
  | .mirrorServe job blk => Sys2Proof.Machine.execMirrorServe job blk s
  | .mirrorSend job blk slotBlocks => Sys2Proof.Machine.execMirrorSend job blk slotBlocks s
  | .mirrorRestore job blk generation => Sys2Proof.Machine.execMirrorRestore job blk generation s
  | .mirrorRelease job blk => Sys2Proof.Machine.execMirrorRelease job blk s
  | .attest job => Sys2Proof.Machine.execAttest job s
  | .identityGet job => Sys2Proof.Machine.execIdentityGet job s
  | .telemetryRead job => Sys2Proof.Machine.execTelemetryRead job s
  | .surveyArm job => Sys2Proof.Machine.execSurveyArm job s
  | .powerLimitSet job => Sys2Proof.Machine.execPowerLimitSet job s
  | .powerStateSet cmd => Sys2Proof.Machine.execPowerStateSet cmd s
  | .wake source => Sys2Proof.Machine.execWake source s
  | .powerStateExit imageGood => Sys2Proof.Machine.execPowerStateExit imageGood s
  | .powerSample watts mean => Sys2Proof.Machine.execPowerSample watts mean s
  | .limiterStep mean => Sys2Proof.Machine.execLimiterStep mean s
  | .droopThreshold die sagMv => Sys2Proof.Machine.execDroopThreshold die sagMv s
  | .droopRelease die => Sys2Proof.Machine.execDroopRelease die s
  | .clkDroopCfgWrite path die value => Sys2Proof.Machine.execClkDroopCfgWrite path die value s
  | .pllUnlock => Sys2Proof.Machine.execPllUnlock s
  | .pllRelock => Sys2Proof.Machine.execPllRelock s
  | .maintStart job => Sys2Proof.Machine.execMaintStart job s
  | .maintStatus job => Sys2Proof.Machine.execMaintStatus job s
  | .maintCancel job => Sys2Proof.Machine.execMaintCancel job s
  | .maintWaitingStart activity => Sys2Proof.Machine.execMaintWaitingStart activity s
  | .stackRetrain stack => Sys2Proof.Machine.execStackRetrain stack s
  | .laneRecal port => Sys2Proof.Machine.execLaneRecal port s
  | .portReeq port => Sys2Proof.Machine.execPortReeq port s
  | .scrubPass stack => Sys2Proof.Machine.execScrubPass stack s
  | .fence activity => Sys2Proof.Machine.execFence activity s
  | .readmit activity passes hottest => Sys2Proof.Machine.execReadmit activity passes hottest s
  | .maintActivityEnd activity status => Sys2Proof.Machine.execMaintActivityEnd activity status s
  | .imageStage job blk => Sys2Proof.Machine.execImageStage job blk s
  | .imageActivate job => Sys2Proof.Machine.execImageActivate job s
  | .flashWriteDone kind readBackGood => Sys2Proof.Machine.execFlashWriteDone kind readBackGood s
  | .activationUnitSwitch kind unit => Sys2Proof.Machine.execActivationUnitSwitch kind unit s
  | .dbgAuth request => Sys2Proof.Machine.execDbgAuth request s
  | .spdmRequest request => Sys2Proof.Machine.execSpdmRequest request s
  | .pldmMonitor => Sys2Proof.Machine.execPldmMonitor s
  | .pldmFwUpdate kind image => Sys2Proof.Machine.execPldmFwUpdate kind image s
  | .surveyFull path value => Sys2Proof.Machine.execSurveyFull path value s
  | .surveyDie path value => Sys2Proof.Machine.execSurveyDie path value s
  | .surveyResume path value => Sys2Proof.Machine.execSurveyResume path value s
  | .surveyIn => Sys2Proof.Machine.execSurveyIn s
  | .surveyEventTrigger => Sys2Proof.Machine.execSurveyEventTrigger s
  | .scanRead die segment index => Sys2Proof.Machine.execScanRead die segment index s
  | .registerWrite path bar2 offset value enables => Sys2Proof.Machine.execRegisterWrite path bar2 offset value enables s
  | .guardUnlock path die value => Sys2Proof.Machine.execGuardUnlock path die value s
  | .guardKeyTimeout path die => Sys2Proof.Machine.execGuardKeyTimeout path die s
  | .bitAliasWrite path offset value => Sys2Proof.Machine.execBitAliasWrite path offset value s
  | .rcRead path bar2 offset => Sys2Proof.Machine.execRcRead path bar2 offset s
  | .counterLowRead path offset => Sys2Proof.Machine.execCounterLowRead path offset s
  | .kprResetCore path core => Sys2Proof.Machine.execKprResetCore path core s
  | .kprResetDie path die => Sys2Proof.Machine.execKprResetDie path die s
  | .kprResetWarm path => Sys2Proof.Machine.execKprResetWarm path s
  | .kprResetCold path => Sys2Proof.Machine.execKprResetCold path s
  | .hotReset => Sys2Proof.Machine.execHotReset s
  | .warmReset => Sys2Proof.Machine.execWarmReset s
  | .perstAssert => Sys2Proof.Machine.execPerstAssert s
  | .perstRelease => Sys2Proof.Machine.execPerstRelease s
  | .coldResetBoot verified => Sys2Proof.Machine.execColdResetBoot verified s
  | .powerUp => Sys2Proof.Machine.execPowerUp s
  | .inputPowerLoss => Sys2Proof.Machine.execInputPowerLoss s
  | .dieTempLimit die temp => Sys2Proof.Machine.execDieTempLimit die temp s
  | .dieLimitRelease => Sys2Proof.Machine.execDieLimitRelease s
  | .thermalTrip report => Sys2Proof.Machine.execThermalTrip report s
  | .thermalRelease hottest inlet => Sys2Proof.Machine.execThermalRelease hottest inlet s
  | .lossOfLock port => Sys2Proof.Machine.execLossOfLock port s
  | .ringTransferDelivery core => Sys2Proof.Machine.execRingTransferDelivery core s
  | .channelRetrainDone stack => Sys2Proof.Machine.execChannelRetrainDone stack s
  | .authorisationExpiry => Sys2Proof.Machine.execAuthorisationExpiry s
  | .clkDtLoRead path => Sys2Proof.Machine.execClkDtLoRead path s
  | .badOffsetRead path bar2 offset => Sys2Proof.Machine.execBadOffsetRead path bar2 offset s
  | .trst => Sys2Proof.Machine.execTrst s

end Sys2Proof.Machine
end

