-- ==== Sys2Proof/Machine/Step.lean ====
section
/-! DEFINITION. One step: the command at the front of the queue runs; on an empty queue device time counts a tick and a
running mirror generation reads its next block (notes/assumptions/1, notes/assumptions/45). -/

namespace Sys2Proof.Machine

open Sys2Proof

/-- The step of the block. -/
def step (s : State) : Host.Outcome State Fault Refusal :=
  match s.pending with
  | [] => .next { s with dev := s.dev.tick }
  | c :: cs => exec c { s with pending := cs }

/-- The state with the command that a word spells in front of its queue; the word spells none, for no row of the
table gives bits. -/
def State.withFetchWord (s : State) (nbits w : Nat) : State :=
  match decodeTableWord nbits w with
  | none => s
  | some c => { s with pending := c :: s.pending }

end Sys2Proof.Machine
end

