-- ==== Sys2Proof/Safety.lean ====
section
/-! DEFINITION. The terms in which statements are made: when the occasion of a command has come, what it is for a
descriptor to have completed and for a command of Gotre to have been answered, and the invariants that every step
keeps. -/

namespace Sys2Proof.Machine

open Sys2Proof

/-! ### Occasions -/

/-- A started descriptor of a class and operations waits for its unit on a core that runs: the entry, and the core's
holding. -/
abbrev Dev.unitReady (s : Dev) (c : CoreId) (cls : Nat) (ops : List Nat) (e : WEntry) (h : HoldId) : Prop :=
  (s.core c).running cls ops = some e ∧ s.holdingOfCore c = some h ∧ s.coreRuns c = true

/-- A started fence operation of a stream waits for its sequencer on a core that runs, and no decision suspends it: the
entry, whether it stands at the front of its stream, the core's holding and the stream's stage. -/
abbrev Dev.fenceReady (s : Dev) (c : CoreId) (st : Fin 2) (op : Nat) (e : WEntry) (front : Bool) (h : HoldId) (g : Stage) :
    Prop :=
  (s.core c).fenceAt st op = some (e, front) ∧ s.holdingOfCore c = some h ∧ (s.holding h).stageOf c st = some g
    ∧ s.coreRuns c = true ∧ (s.core c).suspends e = false

/-- A run that ends with every read answered: no read waits at its controller and none waits for the host. -/
abbrev runEnds (o : Option (Run × Bool)) : Prop := ∃ r, o = some (r, true) ∧ r.wait = false ∧ r.need = []

/-- The turn of an accepted command of Gotre has come, and checks 1 to 3 of R432 pass. -/
abbrev Dev.jobReady (s : Dev) (n op : Nat) (j : Job) : Prop :=
  s.job n = some j ∧ j.number = n ∧ s.boxServed j.fn j.mb = true ∧ j.phase = .accepted ∧ j.discard = false
    ∧ s.heldUp j = false ∧ s.slotsFull = false ∧ s.inRecovery = false ∧ j.op = op
    ∧ s.power.state = .run ∧ s.power.transition = false ∧ s.commonCheck j = none

/-- What the Harrow reads to take a block of a window (R365). -/
abbrev Dev.harrowReads (s : Dev) (p : PortId) (h : HoldId) (c : ChunkRef) (w : RedWindow) (block : Nat) : Run :=
  let first := c.chunk * chunkValues + block * 64
  let n := min 64 (w.policy.valuesIn c.chunk - block * 64)
  let vals := s.blockValues p h w c.chunk block
  (readSpans (linkAgent p h) ((Tab.get {} (w.chunk c.chunk).blocks block).kind == .finite) ((vals.1.map (·.1)).take n)
    ((s.holding h).spans c.group.val c.reduction.val first n) first { dev := vals.2 }).2

/-! ### Effects -/

/-- A descriptor's entry stands in the window as completed. -/
abbrev Dev.completed (t : Dev) (c : CoreId) (e : WEntry) : Prop :=
  ∃ w ∈ (t.core c).window, sameEntry w e = true ∧ w.phase = .completed

/-- A command of Gotre has been answered: its final completion waits to be posted, and its journal entry is done. -/
abbrev Dev.answered (t : Dev) (j : Job) (st : Status) (result : BitVec 128) : Prop :=
  j.completion true st result ∈ t.gotre.waiting ∧ ∀ k, t.job j.number = some k → k.phase = .done

/-- Held flits of a destination and channel have been sent again, each kept with its number and the moment of this sending,
and KLX_E2E_RETX has counted those that went; with every route usable, all of them did. -/
abbrev Dev.resent (s t : Dev) (dst : BitVec 16) (vc : Fin 4) (again : Held → Bool) : Prop :=
  let k := seqKey dst vc
  let y := Tab.get {} s.seqTx k
  let z := Tab.get {} t.seqTx k
  let older := y.held.filter fun f => !again f
  let mine := y.held.filter again
  z.next = y.next ∧ z.held.map (·.eseq) = (older ++ mine).map (·.eseq) ∧ z.held.take older.length = older
  ∧ (∀ f ∈ z.held.drop older.length, f.sentAt = t.dt)
  ∧ (∃ n ≤ mine.length, t.ctr (klxReg (s.homeOf dst) 0x40) = addStop64 (s.ctr (klxReg (s.homeOf dst) 0x40)) n
      ∧ ((∀ f ∈ mine, ∃ r, f.route = some r ∧ s.usable r.port = true) → n = mine.length))
  ∧ ∀ j, j ≠ k → Tab.get {} t.seqTx j = Tab.get {} s.seqTx j

/-- A report has left for a command's output block, cut where the block is too small, and the command is answered. -/
abbrev Dev.reported (s t : Dev) (j : Job) (bytes : List Byte) : Prop :=
  t.answered j .ok (if j.blockWords < ceilDiv bytes.length 8 then BitVec.ofNat 128 (ceilDiv bytes.length 8) else 0)
    ∧ t.outbox = s.outbox ++
        (if j.blockAddr = 0 ∨ bytes.take (8 * j.blockWords) = [] then [] else [.output j.blockAddr (bytes.take (8 * j.blockWords))])
    ∧ t.mem = s.mem ∧ t.holdings = s.holdings ∧ t.queues = s.queues ∧ t.regs = s.regs

/-- A table command has been accepted: its writes wait for the boundary, and the tables in force are as they were. -/
abbrev Dev.tableAccepted (s t : Dev) (h : HoldId) (j : Job) (ws : List TableWrite) : Prop :=
  t.answered j .ok 0 ∧ (t.holding h).waiting = (s.holding h).waiting ++ ws
    ∧ (t.holding h).stages = (s.holding h).stages ∧ (t.holding h).collectives = (s.holding h).collectives
    ∧ (t.holding h).policies = (s.holding h).policies ∧ (t.holding h).layers = (s.holding h).layers
    ∧ (t.holding h).queues = (s.holding h).queues ∧ (t.holding h).masks = (s.holding h).masks
    ∧ (t.holding h).entries = (s.holding h).entries ∧ (t.holding h).digest = (s.holding h).digest
    ∧ (t.holding h).epoch = (s.holding h).epoch ∧ (t.holding h).state = (s.holding h).state

/-- A list that a command reads from holding memory translates, is answered at once, and holds no poison. -/
abbrev Dev.listReady (s : Dev) (h : HoldId) (va n : Nat) (bs : List PByte) (d : Dev) : Prop :=
  s.mapped h va n false = true ∧ s.readList h va n = some (bs, d) ∧ bs.any (·.poison) = false

/-- What the unit of a core alone leaves untouched: memory with its tags and poison, queues, mailboxes, Gotre, links,
other cores and what has left the module. -/
abbrev Dev.sameBeyondCore (s t : Dev) (c : CoreId) : Prop :=
  t.mem = s.mem ∧ t.secPoison = s.secPoison ∧ t.tags = s.tags ∧ t.queues = s.queues ∧ t.boxes = s.boxes
    ∧ t.gotre = s.gotre ∧ t.ports = s.ports ∧ t.seqTx = s.seqTx ∧ t.seqRx = s.seqRx ∧ t.outbox = s.outbox
    ∧ t.power = s.power ∧ t.dies = s.dies ∧ t.stackTab = s.stackTab ∧ t.dt = s.dt
    ∧ ∀ k : CoreId, k ≠ c → t.core k = s.core k

/-! ### Invariants -/

/-- The canonical form of memory (a sparse table of bytes that read as zero when unlisted). -/
abbrev Memory.wf (m : List Host.Cell) : Bool := Tab.wf 0 m

/-- The limiter stands within its bounds (R479, R480), and so does an image of it in save memory (R489). -/
abbrev Dev.limiterLegal (s : Dev) : Prop :=
  1500 ≤ s.power.limit ∧ s.power.limit ≤ 3300 ∧ s.power.ratio ≤ 48 ∧ s.power.underSamples < 100 ∧ s.power.floorMs < 10
    ∧ ∀ im, s.saved = some im → 1500 ≤ im.limit ∧ im.limit ≤ 3300 ∧ im.ratio ≤ 48

end Sys2Proof.Machine
end

