-- ==== Sys2Proof/Certificates/Slice0/Obligations.lean ====
section
/-! DEFINITION. The statements for the provers, from the numbered rules of the spec: what each command does when its
occasion has come, what it leaves alone, and what every step keeps. -/

open Sys2Proof Sys2Proof.Machine

/-! ### The machine -/

/-- The command at the front of the queue runs on the queue's rest. -/
def Obligations.StepRunsTheFrontCommand : Prop :=
  ∀ (c : Instr) (cs : List Instr) (d : Dev),
    step { pending := c :: cs, dev := d } = exec c { pending := cs, dev := d }

/-- No command adds to or takes from the queue of those behind it. -/
def Obligations.CommandsLeaveTheQueueAlone : Prop :=
  ∀ (c : Instr) (s t : State), exec c s = .next t → t.pending = s.pending

/-- Every command has an effect: the only stops are accesses to device physical addresses outside the two tiers. An
access outside the tiers does stop, by name. -/
def Obligations.OnlyAbsentAddressesStop : Prop :=
  (∀ (c : Instr) (s : State),
    (∃ t, exec c s = .next t) ∨
      ∃ a, exec c s = .fault (.noSuchAddress a) ∧
        ¬ (a < 0x18000000000 ∨ (0x20000000000 ≤ a ∧ a < 0x2C000000000)) ∧
        ((∃ k w o cl wt ec p, c = .memRead k w o cl wt ec p ∧ a = k * 32)
          ∨ (∃ o e cl d pd p, c = .memWrite a o e cl d pd p)
          ∨ (∃ b l o e k, c = .clearance b l o e k ∧ a = b * 4096)
          ∨ (∃ b ec n, c = .scrubBlock b ec n ∧ a = b * 4096)))
  ∧ (∀ (s : State) (a : Nat), (0x18000000000 ≤ a ∧ a < 0x20000000000) ∨ 0x2C000000000 ≤ a →
    (∀ o e cl d pd p, exec (.memWrite a o e cl d pd p) s = .fault (.noSuchAddress a))
    ∧ (∀ k w o cl wt ec p, k * 32 = a → exec (.memRead k w o cl wt ec p) s = .fault (.noSuchAddress a))
    ∧ (∀ b l o e k, b * 4096 = a → exec (.clearance b l o e k) s = .fault (.noSuchAddress a))
    ∧ (∀ b ec n, b * 4096 = a → exec (.scrubBlock b ec n) s = .fault (.noSuchAddress a)))

/-- The limiter's invariant is kept by every step. -/
def Obligations.EveryStepKeepsTheLimiterLegal : Prop :=
  ∀ (s t : State), s.dev.limiterLegal → step s = .next t → t.dev.limiterLegal

/-- The limiter's invariant holds at reset. -/
def Obligations.LimiterIsLegalAtReset : Prop :=
  State.reset.dev.limiterLegal

/-! ### Number formats -/

/-- Every encoding survives decoding and conversion: a finite one in every format, an infinity in the wide formats. -/
def Obligations.ConversionInvertsDecoding : Prop :=
  (∀ (f : Fmt) (b : Nat), b < 2 ^ fmtBits f → (decode f b).isFinite = true → convert f (decode f b) = ⟨b, false, false⟩)
  ∧ (∀ (f : Fmt) (b : Nat), b < 2 ^ fmtBits f → fmtWide f = true → (decode f b).isInf = true →
      convert f (decode f b) = ⟨b, false, false⟩)

/-! ### The sequencer -/

/-- Accepting the next descriptor of a stream: it enters the window, or is skipped, or is refused and halts the stream. -/
def Obligations.DescriptorsEnterTheWindow : Prop :=
  ∀ (s : State) (c : CoreId) (st : Fin 2) (h : HoldId) (g : Stage),
    s.dev.holdingOfCore c = some h → (s.dev.holding h).stageOf c st = some g → s.dev.coreRuns c = true →
    (s.dev.queue g.dfn.queue).state = .bound → ((s.dev.holding h).state = .enabled ∨ (s.dev.holding h).state = .shuttingDown) →
    (s.dev.core c).window.length < 16 → seqLt g.next (s.dev.queue g.dfn.queue).accepted = true →
    ((s.dev.queue g.dfn.queue).skip = some g.next ∨ g.skipped.contains g.next = true →
      ∃ t, exec (.descriptorAccept c st) s = .next t ∧ t.pending = s.pending
        ∧ (t.dev.core c).window
            = (s.dev.core c).window ++ [newEntry g.next st 0 .completed (seqLt g.next g.replayEnd)]
        ∧ (t.dev.queue g.dfn.queue).skip = none ∧ t.dev.mem = s.dev.mem ∧ t.dev.regs = s.dev.regs)
    ∧ ∀ (d : Word512) (r : Dev), (s.dev.queue g.dfn.queue).skip ≠ some g.next → g.skipped.contains g.next = false →
      s.dev.readSlot c h st g.next ((s.dev.queue g.dfn.queue).slotVa g.next) = (.words d, r) →
      (r.refusal c (s.dev.holding h) st g.dfn d = none → seqLt g.next g.replayEnd = false →
        (classOf d = 5 → opcodeOf d = 0 → (r.holding h).tagsFull = false) →
        ∃ t, exec (.descriptorAccept c st) s = .next t ∧ t.pending = s.pending
          ∧ (t.dev.core c).window = (s.dev.core c).window ++ [newEntry g.next st d .accepted false]
          ∧ (∃ u ∈ (t.dev.holding h).stages, u.dfn = g.dfn ∧ u.next = g.next + 1)
          ∧ t.dev.ctr (seqReg c 0x10) = addStop64 (r.ctr (seqReg c 0x10)) 1
          ∧ t.dev.queues = s.dev.queues ∧ t.dev.gotre = s.dev.gotre)
      ∧ ∀ why : Status, r.refusal c (s.dev.holding h) st g.dfn d = some why →
        ∃ t, exec (.descriptorAccept c st) s = .next t ∧ t.pending = s.pending
          ∧ t.dev.reg (seqReg c 4) = refusalWord g.next why
          ∧ (t.dev.queue g.dfn.queue).state = .halted ∧ (t.dev.queue g.dfn.queue).refused = g.next
          ∧ (t.dev.core c).window = (s.dev.core c).window

/-- A started descriptor has read its length registers. Recording the front descriptor of a stream, and a transform batch
as a whole. -/
def Obligations.DescriptorsStartAndAreRecorded : Prop :=
  (∀ (s : State) (c : CoreId) (slot : Fin 16) (e : WEntry) (h : HoldId),
    (s.dev.core c).window[slot.val]? = some e → s.dev.holdingOfCore c = some h → s.dev.coreRuns c = true →
    e.phase = .accepted → s.dev.mayStart c (s.dev.holding h) e h = true → e.replay = false →
    ∃ t, exec (.descriptorStart c slot) s = .next t ∧ t.pending = s.pending
      ∧ (∃ w, (t.dev.core c).window[slot.val]? = some w ∧ w.phase = .started ∧ w.desc = e.desc
          ∧ w.lens = (s.dev.core c).lregs ∧ w.startTime = s.dev.dt)
      ∧ (t.dev.core c).window.length = (s.dev.core c).window.length
      ∧ (t.dev.core c).lregs = (s.dev.core c).lregs
      ∧ s.dev.sameBeyondCore t.dev c)
  ∧ (∀ (s : State) (c : CoreId) (st : Fin 2) (e : WEntry) (h : HoldId) (g : Stage),
    ((s.dev.core c).window.find? fun w => w.stream == st) = some e → s.dev.holdingOfCore c = some h →
    (s.dev.holding h).stageOf c st = some g → s.dev.coreRuns c = true → e.phase = .completed →
    s.dev.settled c e = true → (s.dev.core c).suspends e = false → (s.dev.core c).chainOpen e = false →
    (isFence e [5, 6] && s.dev.writesHeld h) = false → (s.dev.core c).recordSpan e = [e] →
    ∃ t, exec (.descriptorRecordComplete c st) s = .next t ∧ t.pending = s.pending
      ∧ (t.dev.queue g.dfn.queue).recorded = (if e.replay then (s.dev.queue g.dfn.queue).recorded else e.index + 1)
      ∧ (t.dev.queue g.dfn.queue).unreported = (s.dev.queue g.dfn.queue).unreported + (if e.replay then 0 else 1)
      ∧ (t.dev.core c).window = (s.dev.core c).window.filter (fun w => !sameEntry w e)
      ∧ t.dev.mem = s.dev.mem
      ∧ ((∀ i ∈ s.dev.egress, i.held = true → ¬ (i.agent = c.val ∧ i.stream = e.stream ∧ i.index = e.index)) →
          t.dev.outbox = s.dev.outbox)
      ∧ ∀ k : CoreId, k ≠ c → t.dev.core k = s.dev.core k)
  ∧ (∀ (s : State) (c : CoreId) (st : Fin 2) (e : WEntry) (h : HoldId),
    ((s.dev.core c).window.find? fun w => w.stream == st) = some e → s.dev.holdingOfCore c = some h →
    s.dev.coreRuns c = true →
    ((∀ m ∈ (s.dev.core c).recordSpan e, s.dev.recordable c h m = true) →
      ∃ t, exec (.descriptorRecordComplete c st) s = .next t ∧ t.pending = s.pending
        ∧ (t.dev.core c).window
            = (s.dev.core c).window.filter (fun w => !(((s.dev.core c).recordSpan e).any fun m => sameEntry w m))
        ∧ t.dev.mem = s.dev.mem ∧ t.dev.tags = s.dev.tags)
    ∧ ((∃ m ∈ (s.dev.core c).recordSpan e, s.dev.recordable c h m = false) →
      exec (.descriptorRecordComplete c st) s = .next s))

/-! ### The units of a core -/

/-- The element, reduction and length commands of the vector unit run a started descriptor of their opcode to its end.
The products of the Plough run a started descriptor to its end and change nothing beyond their core. -/
def Obligations.VectorAndProductDescriptorsRunToCompletion : Prop :=
  (∀ (s : State) (c : CoreId) (e : WEntry) (h : HoldId) (op : Nat) (i : Instr),
    (op, i) ∈ [(0x00, Instr.fma c), (0x01, .add c), (0x02, .mul c), (0x03, .max c), (0x04, .min c), (0x05, .select c),
      (0x06, .div c), (0x07, .sqrt c), (0x10, .func c), (0x11, .deriv c), (0x12, .softmax c), (0x13, .softmaxBwd c),
      (0x20, .rsum c), (0x21, .rmax c), (0x22, .rmin c), (0x23, .rsumsq c), (0x31, .cast c)] →
    s.dev.unitReady c 2 [op] e h →
    ∃ t, exec i s = .next t ∧ t.pending = s.pending
      ∧ (t.dev.core c).window = ((s.dev.core c).completeEntry e).window
      ∧ (t.dev.core c).lregs = (s.dev.core c).lregs
      ∧ s.dev.sameBeyondCore t.dev c)
  ∧ (∀ (s : State) (c : CoreId) (e : WEntry) (h : HoldId),
    (s.dev.unitReady c 1 [0] e h →
      ∃ t, exec (.product c) s = .next t ∧ t.pending = s.pending ∧ t.dev.completed c e
        ∧ t.dev.mem = s.dev.mem ∧ t.dev.queues = s.dev.queues ∧ t.dev.outbox = s.dev.outbox)
    ∧ (s.dev.unitReady c 1 [1] e h →
      ∃ t, exec (.grouped c) s = .next t ∧ t.pending = s.pending ∧ t.dev.completed c e
        ∧ t.dev.mem = s.dev.mem ∧ t.dev.queues = s.dev.queues ∧ t.dev.outbox = s.dev.outbox))

/-- WINNOW writes nothing but its own core's stores; LEN_SET and LEN_LOAD write one length register, at most 8,388,608. -/
def Obligations.LengthRegistersHoldWhatLenSetWrites : Prop :=
  (∀ (s : State) (c : CoreId) (e : WEntry) (h : HoldId), s.dev.unitReady c 2 [0x40] e h → e.replay = false →
    ∃ t, exec (.lenSet c) s = .next t ∧ t.pending = s.pending
      ∧ Tab.get 0 (t.dev.core c).lregs (vecOf e.desc).lregDst = min (vecOf e.desc).imm 8388608
      ∧ (∀ k, k ≠ (vecOf e.desc).lregDst → Tab.get 0 (t.dev.core c).lregs k = Tab.get 0 (s.dev.core c).lregs k)
      ∧ (t.dev.core c).window = ((s.dev.core c).completeEntry e).window
      ∧ s.dev.sameBeyondCore t.dev c)
  ∧ (∀ (s : State) (c : CoreId) (e : WEntry) (h : HoldId), s.dev.unitReady c 2 [0x41] e h → e.replay = false →
    ∃ t, exec (.lenLoad c) s = .next t ∧ t.pending = s.pending
      ∧ Tab.get 0 (t.dev.core c).lregs (vecOf e.desc).lregDst
          = (let w := joinBytes ((s.dev.core c).osRead ((vecOf e.desc).a.addr * 64) 4)
             if w.poison then 0 else min w.bits 8388608)
      ∧ (∀ k, k ≠ (vecOf e.desc).lregDst → Tab.get 0 (t.dev.core c).lregs k = Tab.get 0 (s.dev.core c).lregs k)
      ∧ (t.dev.core c).window = ((s.dev.core c).completeEntry e).window
      ∧ s.dev.sameBeyondCore t.dev c)
  ∧ (∀ (s : State) (c : CoreId) (e : WEntry) (h : HoldId), s.dev.unitReady c 2 [0x30] e h →
    ∃ t, exec (.winnow c) s = .next t ∧ t.pending = s.pending
      ∧ (t.dev.core c).lregs = (s.dev.core c).lregs
      ∧ (t.dev.core c).window = ((s.dev.core c).completeEntry e).window
      ∧ s.dev.sameBeyondCore t.dev c)

/-- The element operations form their exact result and round it once to FMT_OUT; a poisoned operand poisons the element. -/
def Obligations.ElementOperationsRoundOnce : Prop :=
  ∀ (v : Vec) (c : Core) (rows cols r k : Nat), r < rows → k < cols → v.emu = false →
    let a := v.val c v.a r k
    let b := v.val c v.b r k
    let z := v.val c v.c r k
    let one := fun (x : Val) (poison : Bool) (o : VecOut) =>
      ∀ el, (o.rows[r]?.bind fun l => l[k]?) = some el →
        (poison = true → el.poison = true)
          ∧ (poison = false → el.poison = false ∧ el.bits = (convert (fmtD v.out.fmt) x).bits)
    (v.opcode = 0x00 → one ((a.val.mul b.val).add z.val) (a.poison || b.poison || z.poison) (v.runFma c rows cols))
    ∧ (v.opcode = 0x01 → one (a.val.add b.val) (a.poison || b.poison) (v.runAdd c rows cols))
    ∧ (v.opcode = 0x02 → one (a.val.mul b.val) (a.poison || b.poison) (v.runMul c rows cols))
    ∧ (v.opcode = 0x03 → one (a.val.maximum b.val) (a.poison || b.poison) (v.runMax c rows cols))
    ∧ (v.opcode = 0x04 → one (a.val.minimum b.val) (a.poison || b.poison) (v.runMin c rows cols))
    ∧ (v.opcode = 0x06 → one (a.val.div b.val) (a.poison || b.poison) (v.runDiv c rows cols))
    ∧ (v.opcode = 0x07 → one a.val.sqrt a.poison (v.runSqrt c rows cols))
    ∧ (v.opcode = 0x05 → one (if positive a.val then b.val else z.val)
        (a.poison || if positive a.val then b.poison else z.poison) (v.runSelect c rows cols))

/-- A function's result in FP32 and FP64 lies within the bound of R113. -/
def Obligations.FunctionResultsStayWithinTheirBound : Prop :=
  ∀ (f : Fmt) (ulps pick : Nat) (v : Val), (f = .fp32 ∨ f = .fp64) → v.isFinite = true → (convert f v).sat = false →
    1 ≤ ulps → ¬ ((ulpAt f v).mul (.fin false ulps 0)).lt ((boundedResult f ulps pick v).1.add v.negate).abs

/-- The Windrow's commands end with their run, once every read of it is answered. The copy path's commands end with
their run, once every read of it is answered. -/
def Obligations.WindrowAndCopiesRunToCompletion : Prop :=
  (∀ (s : State) (c : CoreId) (e : WEntry) (h : HoldId) (op : Nat) (i : Instr)
    (f : Wdr → CoreId → Agent → WEntry → Nat → WRun → WRun),
    (op, i, f) ∈ [(0, Instr.gather c, runGather), (1, .scatterAdd c, runScatter), (2, .segReduce c, runSegReduce),
      (3, .spmm c, runSpmm), (4, .merge c, runMerge)] →
    s.dev.unitReady c 3 [op] e h →
    runEnds ((wdrBody f c ((s.dev.core c).agent c h e) e { dev := s.dev }).map fun r => (r, true)) →
    ∃ t, exec i s = .next t ∧ t.pending = s.pending ∧ t.dev.completed c e
      ∧ t.dev.queues = s.dev.queues ∧ t.dev.gotre = s.dev.gotre ∧ t.dev.ports = s.dev.ports
      ∧ ∀ k : CoreId, k ≠ c → t.dev.core k = s.dev.core k)
  ∧ (∀ (s : State) (c : CoreId) (e : WEntry) (h : HoldId) (cls op : Nat) (i : Instr)
    (body : Agent → WEntry → Run → Option (Run × Bool)),
    (cls, op, i, body) ∈ [(8, 0, Instr.load c, loadBody c), (8, 1, .gatherLoad c, loadBody c),
      (8, 2, .store c, fun a e r => (storeBody c a e r).map fun q => (q, true)),
      (8, 3, .mcastRecv c, fun a e r => (recvBody false c a e r).map fun q => (q, true)),
      (8, 4, .ringRecv c, fun a e r => (recvBody true c a e r).map fun q => (q, true)),
      (4, 0, .copy c, singleBody c), (4, 1, .fill c, singleBody c)] →
    s.dev.unitReady c cls [op] e h → runEnds (body ((s.dev.core c).agent c h e) e { dev := s.dev }) →
    ∃ t, exec i s = .next t ∧ t.pending = s.pending ∧ t.dev.completed c e
      ∧ t.dev.queues = s.dev.queues ∧ t.dev.gotre = s.dev.gotre ∧ t.dev.ports = s.dev.ports
      ∧ t.dev.seqTx = s.dev.seqTx ∧ t.dev.stackTab = s.dev.stackTab)

/-! ### Fences, events and Tally -/

/-- The fence operations that only wait complete once their condition holds, and until then nothing changes. -/
def Obligations.FencesCompleteOnTheirCondition : Prop :=
  ∀ (s : State) (c : CoreId) (st : Fin 2) (e : WEntry) (front : Bool) (h : HoldId) (g : Stage),
    (s.dev.fenceReady c st 2 e front h g → e.replay = true ∨ (front = true ∧ s.dev.writesHeld h = false) →
      ∃ t, exec (.memfence c st) s = .next t ∧ t.pending = s.pending
        ∧ (t.dev.core c).window = ((s.dev.core c).completeEntry e).window ∧ s.dev.sameBeyondCore t.dev c)
    ∧ (s.dev.fenceReady c st 2 e front h g → e.replay = false → front = false ∨ s.dev.writesHeld h = true →
      exec (.memfence c st) s = .next s)
    ∧ (s.dev.fenceReady c st 4 e front h g →
        (fenOf e.desc).value ≤ (Tab.get 0 (s.dev.holding h).events (fenOf e.desc).event).toNat →
      ∃ t, exec (.eventWait c st) s = .next t ∧ t.pending = s.pending
        ∧ (t.dev.core c).window = ((s.dev.core c).completeEntry e).window ∧ s.dev.sameBeyondCore t.dev c)
    ∧ (s.dev.fenceReady c st 4 e front h g → e.replay = false →
        (Tab.get 0 (s.dev.holding h).events (fenOf e.desc).event).toNat < (fenOf e.desc).value →
      exec (.eventWait c st) s = .next s)
    ∧ (s.dev.fenceReady c st 1 e front h g → front = true → e.mark ≠ 0 → s.dev.writesHeld h = false →
      ∃ t, exec (.rest c st) s = .next t ∧ t.pending = s.pending
        ∧ (t.dev.core c).window = ((s.dev.core c).completeEntry e).window ∧ s.dev.sameBeyondCore t.dev c)

/-- EVENT_SIGNAL adds 1 to its event counter as it is recorded complete. A stream that reaches its STEP fence with no
gradient tile to write retires its tiles: its slots are empty. -/
def Obligations.SignalsAddOneAndStepEmptiesTheSlots : Prop :=
  (∀ (s : State) (c : CoreId) (st : Fin 2) (e : WEntry) (h : HoldId) (g : Stage),
    s.dev.fenceReady c st 3 e true h g → e.replay = false → s.dev.writesHeld h = false →
    ∃ t, exec (.eventSignal c st) s = .next t ∧ t.pending = s.pending
      ∧ Tab.get 0 (t.dev.holding h).events (fenOf e.desc).event
          = Tab.get 0 (s.dev.holding h).events (fenOf e.desc).event + 1
      ∧ (∀ n, n ≠ (fenOf e.desc).event → Tab.get 0 (t.dev.holding h).events n = Tab.get 0 (s.dev.holding h).events n)
      ∧ (t.dev.queue g.dfn.queue).recorded = e.index + 1
      ∧ t.dev.mem = s.dev.mem ∧ t.dev.tags = s.dev.tags)
  ∧ (∀ (s : State) (c : CoreId) (st : Fin 2) (e : WEntry) (h : HoldId) (g : Stage),
    s.dev.fenceReady c st 0 e true h g → s.dev.writesHeld h = false → g.atStep = false →
    (s.dev.core c).gradDirty = [] →
    ∃ t, exec (.step c st) s = .next t ∧ t.pending = s.pending
      ∧ (∃ k ∈ (t.dev.holding h).stages, k.dfn = g.dfn ∧ k.atStep = true ∧ k.slots = [])
      ∧ (t.dev.holding h).stages.length = (s.dev.holding h).stages.length
      ∧ t.dev.mem = s.dev.mem ∧ t.dev.queues = s.dev.queues)

/-- A fresh take gives the counter's next value, and a take beyond LIMIT gives none. TALLY_RETIRE frees the stream's
slot of its counter, and GRAD_MAP maps as many names as it says. The first claim on a tile is granted, and a second
issue's claim is refused and counted. -/
def Obligations.TilesAreTakenClaimedAndRetired : Prop :=
  (∀ (s : State) (c : CoreId) (st : Fin 2) (e : WEntry) (front : Bool) (h : HoldId) (g : Stage) (k : Counter),
    s.dev.fenceReady c st 5 e front h g → e.replay = false →
    (s.dev.holding h).counter (fenOf e.desc).counter = some k → k.copying = false → k.reissue = [] →
    (g.putSlot { counter := (fenOf e.desc).counter, tile := none, issue := 0 }).isSome = true →
    k.openTiles.length < 256 →
    ∃ t, exec (.tallyTake c st) s = .next t ∧ t.pending = s.pending
      ∧ (t.dev.core c).window.length = (s.dev.core c).window.length
      ∧ t.dev.completed c e
      ∧ (∃ q, (t.dev.holding h).counter (fenOf e.desc).counter = some q ∧ q.limit = k.limit
          ∧ q.next = (if k.next < k.limit then k.next + 1 else k.next))
      ∧ (∃ u ∈ (t.dev.holding h).stages, u.dfn = g.dfn
          ∧ u.takeLog = g.takeLog ++ [(e.index, (fenOf e.desc).counter, if k.next < k.limit then some k.next else none, 0)])
      ∧ t.dev.mem = s.dev.mem ∧ t.dev.queues = s.dev.queues)
  ∧ (∀ (s : State) (c : CoreId) (st : Fin 2) (e : WEntry) (front : Bool) (h : HoldId) (g : Stage),
    (s.dev.fenceReady c st 6 e front h g →
      ∃ t, exec (.tallyRetire c st) s = .next t ∧ t.pending = s.pending ∧ t.dev.completed c e
        ∧ (∃ u ∈ (t.dev.holding h).stages, u.dfn = g.dfn
            ∧ u.slots = g.slots.filter (fun q => q.counter ≠ (fenOf e.desc).counter))
        ∧ s.dev.sameBeyondCore t.dev c)
    ∧ (s.dev.fenceReady c st 7 e front h g →
      ∃ t, exec (.gradMap c st) s = .next t ∧ t.pending = s.pending
        ∧ (t.dev.core c).window = ((s.dev.core c).completeEntry e).window
        ∧ (t.dev.core c).gradMap = ((s.dev.core c).mapGrad (fenOf e.desc) g.dfn).gradMap
        ∧ s.dev.sameBeyondCore t.dev c))
  ∧ (∀ (s : State) (c : CoreId) (st : Fin 2) (n : Fin 256) (h : HoldId) (sl : TakeSlot) (k : Counter) (tile : Nat) (e : WEntry),
    s.dev.holdingOfCore c = some h →
    ((s.dev.holding h).stageOf c st).bind (·.slot n.val) = some sl → (s.dev.holding h).counter n.val = some k →
    sl.tile = some tile → s.dev.coreRuns c = true →
    e ∈ (s.dev.core c).window → e.stream = st → e.phase = .started → e.replay = false → tallyOf e.desc = n.val →
    (s.dev.holding h).mayWrite c e = .waitClaim → k.refused.contains (tile, sl.issue) = false →
    ((k.claims.find? fun q => q.tile == tile) = none →
      ∃ t, exec (.tallyClaim c st n) s = .next t ∧ t.pending = s.pending
        ∧ (∃ q, (t.dev.holding h).counter n.val = some q ∧ q.claims = k.claims ++ [{ tile := tile, issue := sl.issue, core := c }]
            ∧ q.refused = k.refused)
        ∧ t.dev.ctrs = s.dev.ctrs ∧ s.dev.sameBeyondCore t.dev c)
    ∧ (∀ q : Claim, (k.claims.find? fun z => z.tile == tile) = some q → q.issue ≠ sl.issue → q.lost = false →
      ∃ t, exec (.tallyClaim c st n) s = .next t ∧ t.pending = s.pending
        ∧ (∃ z, (t.dev.holding h).counter n.val = some z ∧ z.claims = k.claims ∧ z.refused = k.refused ++ [(tile, sl.issue)])
        ∧ t.dev.ctr (tlyReg (s.dev.tallyDie k) 0x20) = addStop64 (s.dev.ctr (tlyReg (s.dev.tallyDie k) 0x20)) 1))

/-! ### The Coulter, deliveries and transform batches -/

/-- One row of a served LOAD, or as many of its lines as there are free entries, is asked for ahead of its start, and a
sector that comes back lands in its entry. A delivery brings the earliest transfer of its kind that can go on one piece
further, into its entry or straight to the receive that has started. -/
def Obligations.RowsAreFetchedAheadAndDelivered : Prop :=
  ((∀ (s : State) (c : CoreId) (slot : Fin 16) (e : WEntry) (h : HoldId) (shift : Nat),
    (s.dev.core c).window[slot.val]? = some e → s.dev.holdingOfCore c = some h → s.dev.coreRuns c = true →
    ((s.dev.core c).served.any fun w => sameEntry w e) = true → (cpyOf e.desc).opcode = 0 →
    ((cpyOf e.desc).stable = true ∨ (s.dev.core c).fencedOff e = false) →
    (s.dev.core c).foreseenShift (s.dev.holding h) c e (cpyOf e.desc) = some shift →
    (s.dev.core c).outstanding < 0x1000000 → (s.dev.core c).epochHeld = false →
    s.dev.reg (ctrReg c 8) ≠ 0 → s.dev.freeSlots c ≠ [] →
    let k := cpyOf e.desc
    let ahead := (s.dev.core c).foreseen (s.dev.holding h) e k.lreg
    let rows := validCount k.rows (k.off + shift) ahead.1
    let d := if ahead.2 then s.dev.modEntry c e fun w => { w with pfPredicted := some rows } else s.dev
    let a := k.dataAgent ((s.dev.core c).agent c h e)
    let slots := (s.dev.freeSlots c).take (k.rowLines - e.pfLines)
    let upTo := e.pfLines + slots.length
    let row := shift + e.pfRows
    e.pfRows < rows →
    (∀ z ∈ chunks (k.rowVa row + 64 * e.pfLines) (64 * slots.length), d.xlateWaits a z.1 = false) →
    ∃ t, exec (.coulterPrefetch c slot) s = .next t ∧ t.pending = s.pending
      ∧ (t.dev.core c).pf = (s.dev.core c).pf ++ (d.aheadLines a c e row e.pfLines slots).1
      ∧ (∃ w ∈ (t.dev.core c).window, sameEntry w e = true
          ∧ (k.rowLines ≤ upTo → w.pfRows = e.pfRows + 1 ∧ w.pfLines = 0)
          ∧ (upTo < k.rowLines → w.pfRows = e.pfRows ∧ w.pfLines = upTo))
      ∧ (t.dev.core c).os = (s.dev.core c).os ∧ (s.dev.ecc = [] → t.dev.mem = s.dev.mem) ∧ t.dev.queues = s.dev.queues)
  ∧ (∀ (s : State) (c : CoreId) (id : Nat) (p : PfSector) (h : HoldId),
    ((s.dev.core c).pf.find? fun q => q.id == id && q.inFlight) = some p →
    s.dev.holdingOfCore c = some h → s.dev.clocked = true → s.dev.readHeld p.pa 32 = false →
    let back := ((s.dev.comesBack c p).landSector h p).1
    (p.freed = true →
      ∃ t, exec (.prefetchReturn c id) s = .next t ∧ t.pending = s.pending
        ∧ (t.dev.core c).pf = (s.dev.core c).pf.filter (fun q => q.id != id)
        ∧ (t.dev.core c).os = (s.dev.core c).os ∧ (s.dev.ecc = [] → t.dev.mem = s.dev.mem))
    ∧ (p.freed = false → (∀ w ∈ (s.dev.core c).window, (cpyOf w.desc).group = 0) →
        (∃ i < 128, ∀ q ∈ (s.dev.core c).pf, q.va % 4096 / 32 = i → q.id ≠ id ∧ q.landed = none) →
      ∃ t, exec (.prefetchReturn c id) s = .next t ∧ t.pending = s.pending
        ∧ (t.dev.core c).pf = (s.dev.core c).pf.map (fun q => if q.id = id then back else q)
        ∧ (back.landed = none → (t.dev.core c).os = (s.dev.core c).os)
        ∧ (∀ bytes, back.landed = some bytes →
            (t.dev.core c).os = ((s.dev.core c).fillEntry p.slot p.osByte bytes).os))))
  ∧ (∀ (s : State) (c : CoreId) (ring : Bool) (i : Instr) (x : Transfer),
    (ring, i) ∈ [(false, Instr.mcastDelivery c), (true, .ringTransferDelivery c)] → s.dev.coreRuns c = true →
    ((s.dev.core c).inbox.find? fun t => t.ring == ring && s.dev.deliverable c t) = some x →
    let piece := nthD x.lines x.delivered (0, [])
    ∃ t es, exec i s = .next t ∧ t.pending = s.pending
      ∧ (t.dev.core c).inbox = (s.dev.core c).inbox.map (fun q =>
          if (q.ring == x.ring && q.group == x.group && q.number == x.number) = true
          then { q with delivered := q.delivered + 1, entries := es } else q)
      ∧ (∀ en, (x.entries.find? fun q => q.1 == x.nextLine) = some en → es = x.entries
          ∧ (t.dev.core c).os = ((s.dev.core c).fillEntry en.2.1 (if x.ring then 0 else piece.1) piece.2).os)
      ∧ ((x.entries.find? fun q => q.1 == x.nextLine) = none → (s.dev.core c).awaits x = true →
          es = x.entries ∧ (t.dev.core c).os = (s.dev.core c).os)
      ∧ (t.dev.core c).window = (s.dev.core c).window
      ∧ t.dev.mem = s.dev.mem ∧ t.dev.regs = s.dev.regs ∧ t.dev.ctrs = s.dev.ctrs)

/-- A transform batch runs in two phases: pad elements as it starts, valid elements as it ends. -/
def Obligations.TransformBatchesRunInTwoPhases : Prop :=
  ∀ (s : State) (c : CoreId) (h : HoldId) (ms : List WEntry),
    (s.dev.core c).readyBatch = some ms → s.dev.holdingOfCore c = some h → s.dev.coreRuns c = true →
    ((s.dev.core c).batch = [] → s.dev.batchHeld c h ms = false →
      (let r := s.dev.batchRun c h false (Xfm.phaseOne c) ms
       r.wait = false ∧ r.need = []) →
      ∃ t, exec (.transformBatchStart c) s = .next t ∧ t.pending = s.pending
        ∧ (t.dev.core c).batch = ms.map (·.index) ∧ (t.dev.core c).batchPhase = 1
        ∧ t.dev.queues = s.dev.queues ∧ t.dev.ports = s.dev.ports)
    ∧ ((s.dev.core c).batch ≠ [] → s.dev.writesWaiting c = false →
      (let r := (s.dev.modCore c fun y => { y with batchPhase := 2 }).batchRun c h true (Xfm.phaseTwo c) ms
       r.wait = false ∧ r.need = []) →
      ∃ t, exec (.transformValidPhase c) s = .next t ∧ t.pending = s.pending
        ∧ (t.dev.core c).batch = [] ∧ (t.dev.core c).batchPhase = 0 ∧ (∀ m ∈ ms, t.dev.completed c m)
        ∧ t.dev.queues = s.dev.queues ∧ t.dev.ports = s.dev.ports)

/-! ### The Drill -/

/-- The Drill's descriptors end with their run, and a wait that cannot end changes nothing. The counts of an
EXPERT_WAIT and the waits' occasions: a final queue buffer, and answered choices. -/
def Obligations.DrillDescriptorsRunToCompletion : Prop :=
  (∀ (s : State) (c : CoreId) (e : WEntry) (h : HoldId) (op : Nat) (i : Instr)
    (body : Agent → WEntry → Run → Option (Run × Bool)),
    (op, i, body) ∈ [(0, Instr.route c, routeBody c), (2, .ret c, returnBody c), (4, .cancel c, cancelBody c),
      (1, .expertWait c, fun a e r => (expertWaitBody c a e r).map fun q => (q, true)),
      (3, .retWait c, fun a e r => (retWaitBody c a e r).map fun q => (q, true))] →
    s.dev.unitReady c 5 [op] e h →
    (runEnds (body ((s.dev.core c).agent c h e) e { dev := s.dev }) →
      ∃ t, exec i s = .next t ∧ t.pending = s.pending ∧ t.dev.completed c e ∧ t.dev.queues = s.dev.queues
        ∧ t.dev.gotre = s.dev.gotre ∧ t.dev.stackTab = s.dev.stackTab ∧ t.dev.dies = s.dev.dies)
    ∧ ((∀ w ∈ (s.dev.core c).startedAll 5 [op], body ((s.dev.core c).agent c h w) w { dev := s.dev } = none) →
      exec i s = .next s))
  ∧ (∀ (s : State) (c : CoreId) (e : WEntry) (h : HoldId) (b : Batch) (near spill : Nat),
    s.dev.unitReady c 5 [1] e h → e.replay = false →
    (s.dev.holding h).batch (tagOf (s.dev.holding h) (drlOf e.desc).batch) = some b → b.live = true →
    (s.dev.holding h).queueFinal b (drlOf e.desc).queue = some (near, spill) →
    (drlOf e.desc).cntLreg ≠ 0 → (drlOf e.desc).lreg = 0 →
    ∃ t, exec (.expertWait c) s = .next t ∧ t.pending = s.pending
      ∧ Tab.get 0 (t.dev.core c).lregs (drlOf e.desc).cntLreg = min near 8388608
      ∧ t.dev.completed c e ∧ t.dev.mem = s.dev.mem)

/-- A first count message of a batch opens it at the home with its deadline. A placement reply without places of this
device's choices is noted, once for each home and round. What a sender of an earlier epoch says changes nothing. -/
def Obligations.CountsAndPlacementsAreTakenOnce : Prop :=
  (∀ (s : State) (h : HoldId) (m : CountMsg) (other : BitVec 16),
    s.dev.drillUp = true → s.dev.staleSender ⟨m.src, m.owner, m.epoch⟩ = false →
    (s.dev.holding h).batch m.tag = none → (s.dev.holding h).tagsFull = false →
    (∀ p ∈ m.counts, ((s.dev.holding h).queues.any fun q => q.global == p.1 && q.layer == m.layer) = true) →
    other ∈ (s.dev.holding h).membersOf (some m.group) → other ≠ m.src →
    ∃ t, exec (.countMessage h m) s = .next t ∧ t.pending = s.pending
      ∧ (∃ b, (t.dev.holding h).batch m.tag = some b ∧ b.live = true ∧ b.counts = [m]
          ∧ b.homeDeadline = some (s.dev.dt + BitVec.ofNat 64 (m.deadline.toNat * 64)))
      ∧ t.dev.mem = s.dev.mem ∧ t.dev.queues = s.dev.queues ∧ t.dev.outbox = s.dev.outbox
      ∧ t.dev.cores = s.dev.cores)
  ∧ (∀ (s : State) (h : HoldId) (m : PlacementMsg) (b : Batch) (l : Layer),
    s.dev.drillUp = true → s.dev.staleSender ⟨m.home, m.owner, m.epoch⟩ = false →
    (s.dev.holding h).batch m.tag = some b → (s.dev.holding h).layer b.layer = some l →
    (b.live = true → b.replies.contains (m.home, m.round) = false →
        (∀ d, b.deadline = some d → reached s.dev.dt d = false) → l.overflow ≠ 1 → m.places = [] →
      ∃ t, exec (.placementReply h m) s = .next t ∧ t.pending = s.pending
        ∧ (∃ z, (t.dev.holding h).batch m.tag = some z ∧ z.replies = b.replies ++ [(m.home, m.round)]
            ∧ z.choices = b.choices)
        ∧ t.dev.mem = s.dev.mem ∧ t.dev.cores = s.dev.cores)
    ∧ (b.live = false ∨ b.replies.contains (m.home, m.round) = true → exec (.placementReply h m) s = .next s))
  ∧ (∀ (s : State) (h : HoldId) (m : CountMsg) (q : PlacementMsg),
    (s.dev.staleSender ⟨m.src, m.owner, m.epoch⟩ = true → exec (.countMessage h m) s = .next s)
    ∧ (s.dev.staleSender ⟨q.home, q.owner, q.epoch⟩ = true → exec (.placementReply h q) s = .next s))

/-- A token row for a free buffer takes its slot, and one for a dead batch is dropped and counted. An answer of a live
batch marks its choice, and one of a retired tag is dropped and counted. What a sender of an earlier epoch says changes
nothing. -/
def Obligations.TokensAndAnswersLandOrAreDropped : Prop :=
  (∀ (s : State) (p : PortId) (h : HoldId) (m : TokenMsg), s.dev.memoryUp = true →
    s.dev.staleSender ⟨m.src, m.owner, m.epoch⟩ = false →
    (∀ (b : Batch) (q : HomeQueue) (l : Layer), (s.dev.holding h).batch m.tag = some b → b.live = true →
      (s.dev.holding h).queueFor m.expert = some q → (s.dev.holding h).layer q.layer = some l →
      (q.held.any fun z => z.1 == q.bufferOf (m.tag.toNat % 65536) && z.2 != m.tag) = false →
      ∃ t, exec (.tokenRow p h m) s = .next t ∧ t.pending = s.pending
        ∧ (∃ z, (t.dev.holding h).batch m.tag = some z ∧ z.slots = b.slots ++
            [{ queue := q.queue, slot := m.slot, origin := originWord m, returned := false }])
        ∧ t.dev.queues = s.dev.queues ∧ t.dev.ports = s.dev.ports)
    ∧ (((s.dev.holding h).batch m.tag = none ∨ ∃ b, (s.dev.holding h).batch m.tag = some b ∧ b.live = false) →
      ∃ t, exec (.tokenRow p h m) s = .next t ∧ t.pending = s.pending
        ∧ t.dev.ctr (drlReg (linkDie p) 0x70) = addStop64 (s.dev.ctr (drlReg (linkDie p) 0x70)) 1
        ∧ t.dev.mem = s.dev.mem ∧ t.dev.tags = s.dev.tags ∧ t.dev.cores = s.dev.cores))
  ∧ (∀ (s : State) (p : PortId) (h : HoldId) (m : AnswerMsg), s.dev.memoryUp = true →
    s.dev.staleSender ⟨m.src, m.owner, m.epoch⟩ = false →
    (∀ b : Batch, (s.dev.holding h).batch m.tag = some b → b.live = true →
      ∃ t, exec (.answer p h m) s = .next t ∧ t.pending = s.pending
        ∧ (∃ z, (t.dev.holding h).batch m.tag = some z ∧ z.choices = b.choices.map (fun q =>
            if q.token = m.token.toNat ∧ q.choice = m.choice.val then { q with answered := true } else q))
        ∧ t.dev.queues = s.dev.queues ∧ t.dev.ports = s.dev.ports)
    ∧ (((s.dev.holding h).batch m.tag = none ∨ ∃ b, (s.dev.holding h).batch m.tag = some b ∧ b.live = false) →
      ∃ t, exec (.answer p h m) s = .next t ∧ t.pending = s.pending
        ∧ t.dev.ctr (drlReg (linkDie p) 0x68) = addStop64 (s.dev.ctr (drlReg (linkDie p) 0x68)) 1
        ∧ t.dev.mem = s.dev.mem ∧ t.dev.tags = s.dev.tags ∧ t.dev.cores = s.dev.cores))
  ∧ (∀ (s : State) (p : PortId) (h : HoldId) (m : TokenMsg) (q : AnswerMsg),
    (s.dev.staleSender ⟨m.src, m.owner, m.epoch⟩ = true → exec (.tokenRow p h m) s = .next s)
    ∧ (s.dev.staleSender ⟨q.src, q.owner, q.epoch⟩ = true → exec (.answer p h q) s = .next s))

/-- A cancelled tag retires with its cause, and keeps no buffer once no write of its holding is on its way; a passed
deadline cancels with TIMEOUT. A released buffer is free again once its batch no longer needs it. -/
def Obligations.TagsRetireAndBuffersAreReleased : Prop :=
  (∀ (s : State) (h : HoldId) (tag : Word32) (b : Batch), s.dev.drillUp = true →
    (s.dev.holding h).batch tag = some b → b.live = true →
    (∀ cause : CancelCause, ∃ t, exec (.cancelNotice h tag cause) s = .next t ∧ t.pending = s.pending
      ∧ (∃ z, (t.dev.holding h).batch tag = some z ∧ z.live = false ∧ z.cause = some cause)
      ∧ (s.dev.writesHeld h = false → ∀ q ∈ (t.dev.holding h).queues, ∀ z ∈ q.held, z.2 ≠ tag)
      ∧ t.dev.cores = s.dev.cores ∧ t.dev.queues = s.dev.queues)
    ∧ (∀ d : Word64, b.homeDeadline = some d → b.deadline = none →
        (s.dev.holding h).allCounted b
          (if (((s.dev.holding h).layer b.layer).map fun l => l.overflow == 1).getD false = true then 1 else 0) = false →
      ∃ t, exec (.drillDeadline h tag) s = .next t ∧ t.pending = s.pending
        ∧ (∃ z, (t.dev.holding h).batch tag = some z ∧ z.live = false ∧ z.cause = some .timeout)
        ∧ t.dev.dt = (s.dev.advanceTo d).dt ∧ t.dev.cores = s.dev.cores))
  ∧ (∀ (s : State) (h : HoldId) (queue : Fin 4096) (buffer : Fin 4), s.dev.drillUp = true →
    (∀ b ∈ (s.dev.holding h).batches, b.waiting = []) →
    let x := s.dev.holding h
    let y := if s.dev.writesHeld h then x else
      { x with batches := x.batches.map fun b => if b.live then b else { b with entry := false } }
    ∃ t, exec (.drillBufferRelease h queue buffer) s = .next t ∧ t.pending = s.pending
      ∧ (t.dev.holding h).queues = x.queues.map (fun q =>
          { q with held := q.held.filter fun p => y.needsBuffer q.queue p.2 })
      ∧ (t.dev.holding h).batches = y.batches
      ∧ t.dev.mem = s.dev.mem ∧ t.dev.cores = s.dev.cores ∧ t.dev.outbox = s.dev.outbox)

/-! ### Gradient reduction in the links -/

/-- REDUCE and GATHER_WAIT end with their condition, and a gather window that expires ends the wait with TIMEOUT. The
deadlines close their phase of the oldest open window, at their moment of device time. -/
def Obligations.ReductionsRunAndTheirPhasesClose : Prop :=
  (∀ (s : State) (c : CoreId) (e : WEntry) (h : HoldId),
    (s.dev.unitReady c 6 [0] e h → runEnds (reduceBody c ((s.dev.core c).agent c h e) e { dev := s.dev }) →
      ∃ t, exec (.reduce c) s = .next t ∧ t.pending = s.pending ∧ t.dev.completed c e
        ∧ t.dev.queues = s.dev.queues ∧ t.dev.gotre = s.dev.gotre ∧ t.dev.stackTab = s.dev.stackTab)
    ∧ (let k := collOf e.desc
       let got := (List.range k.chunks).all fun i => (s.dev.holding h).chunkGathered k.group k.reduction (k.first + i)
       s.dev.unitReady c 6 [1] e h →
       (got = true → e.replay = false →
         ∃ t, exec (.gatherWait c) s = .next t ∧ t.pending = s.pending ∧ t.dev.completed c e
           ∧ (t.dev.holding h).reduces = ((s.dev.holding h).endWait k.group k.reduction k.first k.chunks).reduces
           ∧ s.dev.sameBeyondCore t.dev c)
       ∧ (got = false → exec (.gatherWait c) s = .next s)
       ∧ (∀ pol : Policy, got = false → e.replay = false → (s.dev.holding h).policy k.group k.reduction = some pol →
         ∃ t, exec (.gatherWindowExpiry c) s = .next t ∧ t.pending = s.pending ∧ t.dev.completed c e
           ∧ t.dev.reg (seqReg c 4) =
               0x80000000 ||| ((e.index &&& 0x7FFF) <<< 16) ||| Status.timeout.code.setWidth 32
           ∧ t.dev.dt = (s.dev.advanceTo (e.startTime + BitVec.ofNat 64 pol.gatherWindow)).dt
           ∧ t.dev.mem = s.dev.mem ∧ t.dev.queues = s.dev.queues)))
  ∧ (∀ (s : State) (p : PortId) (h : HoldId) (g r : Fin 256), s.dev.clocked = true →
    (∀ (i : Nat) (w : RedWindow),
      (((s.dev.holding h).windowsOf p g.val r.val).find? fun q => !q.2.scaleClosed && !q.2.dataClosed) = some (i, w) →
      ∃ t, exec (.scaleDeadline p h g r) s = .next t ∧ t.pending = s.pending
        ∧ (∃ v, t.dev.window h i = some v ∧ v.scaleClosed = true ∧ v.dataClosed = false)
        ∧ t.dev.dt = (s.dev.advanceTo w.scaleEnd).dt ∧ t.dev.cores = s.dev.cores)
    ∧ (∀ (i : Nat) (w : RedWindow),
      (((s.dev.holding h).windowsOf p g.val r.val).find? fun q => !q.2.dataClosed) = some (i, w) →
      ∃ t, exec (.dataDeadline p h g r) s = .next t ∧ t.pending = s.pending
        ∧ (∃ v, t.dev.window h i = some v ∧ v.scaleClosed = true ∧ v.dataClosed = true
            ∧ ∀ ch ∈ s.dev.dieChunks p h w, ∀ b < w.policy.blocksIn ch, (Tab.get {} (v.chunk ch).blocks b).final = true)
        ∧ t.dev.dt = (s.dev.advanceTo w.dataEnd).dt ∧ t.dev.cores = s.dev.cores)
    ∧ ((∀ q ∈ (s.dev.holding h).windowsOf p g.val r.val, q.2.dataClosed = true) →
      exec (.scaleDeadline p h g r) s = .next s ∧ exec (.dataDeadline p h g r) s = .next s))

/-- SCALE: collected while the scale phase is open, refused and counted after it, misrouted where the chunk is not
owned. The first REPLY of a chunk's owner is noted with its answer. DATA: accepted once by each window, and otherwise
counted as misrouted, damaged or repeated. -/
def Obligations.ScalesRepliesAndDataAreTakenOnce : Prop :=
  (∀ (s : State) (p : PortId) (h : HoldId) (c : ChunkRef) (src : Sender) (bytes : List Byte), s.dev.clocked = true →
    s.dev.staleSender src = false → s.dev.outOfStep p h c.group.val src.device = false →
    (s.dev.ownedHere p h c src.device = none →
      ∃ t, exec (.scale p h c src bytes) s = .next t ∧ t.pending = s.pending
        ∧ t.dev.ctr (redReg p 0x28) = addStop64 (s.dev.ctr (redReg p 0x28)) 1
        ∧ (t.dev.holding h).windows = (s.dev.holding h).windows ∧ t.dev.mem = s.dev.mem ∧ t.dev.outbox = s.dev.outbox)
    ∧ ∀ (pol : Policy) (k : Collective) (slot i : Nat) (w : RedWindow),
      s.dev.ownedHere p h c src.device = some (pol, k, slot) → pol.fp32Wire = false →
      ((s.dev.holding h).windowsOf p c.group.val c.reduction.val).getLast? = some (i, w) →
      (w.chunk c.chunk).seen.contains slot = false →
      let ch := w.chunk c.chunk
      let late := w.scaleClosed || w.dataClosed || ch.replied || reached s.dev.dt w.scaleEnd
      (late = false → (∃ j ∈ k.live, j ≠ slot ∧ ∀ z ∈ ch.scales, z.1 ≠ j) →
        ∃ t, exec (.scale p h c src bytes) s = .next t ∧ t.pending = s.pending
          ∧ t.dev.window h i
              = some (w.setChunk { ch with seen := ch.seen ++ [slot], scales := ch.scales ++ [(slot, bytes)] })
          ∧ t.dev.mem = s.dev.mem ∧ t.dev.ctrs = s.dev.ctrs ∧ t.dev.cores = s.dev.cores)
      ∧ (late = true → src.device ≠ s.dev.number →
        ∃ t, exec (.scale p h c src bytes) s = .next t ∧ t.pending = s.pending
          ∧ t.dev.window h i = some (w.setChunk { ch with seen := ch.seen ++ [slot] })
          ∧ t.dev.ctr (redReg p 0x18) = addStop64 (s.dev.ctr (redReg p 0x18)) 1
          ∧ t.dev.mem = s.dev.mem ∧ t.dev.cores = s.dev.cores))
  ∧ (∀ (s : State) (p : PortId) (h : HoldId) (c : ChunkRef) (src : Sender) (admits : Bool) (sexp : List Byte),
    s.dev.clocked = true → s.dev.staleSender src = false →
    (∀ (q : ReduceRec) (pol : Policy) (k : Collective),
      ((s.dev.holding h).reduces.find? fun q =>
        q.started && q.covers c.group.val c.reduction.val c.chunk && !(q.replied.any fun z => z.1 == c.chunk)) = some q →
      (s.dev.holding h).policy c.group.val c.reduction.val = some pol → (s.dev.holding h).members? c.group.val = some k →
      pol.owner k c.chunk = some src.device →
      ∃ t, exec (.reply p h c src admits sexp) s = .next t ∧ t.pending = s.pending
        ∧ (∃ z ∈ (t.dev.holding h).reduces, sameReduce z q = true ∧ z.replied = q.replied ++ [(c.chunk, admits)])
        ∧ (admits = false → t.dev.gate = s.dev.gate ∧ t.dev.ports = s.dev.ports ∧ t.dev.mem = s.dev.mem)
        ∧ t.dev.cores = s.dev.cores ∧ t.dev.queues = s.dev.queues)
    ∧ ((s.dev.holding h).policy c.group.val c.reduction.val = none →
      ∃ t, exec (.reply p h c src admits sexp) s = .next t ∧ t.pending = s.pending
        ∧ t.dev.ctr (redReg p 0x28) = addStop64 (s.dev.ctr (redReg p 0x28)) 1
        ∧ (∀ k : HoldId, (t.dev.holding k).reduces = (s.dev.holding k).reduces) ∧ t.dev.gate = s.dev.gate
        ∧ t.dev.mem = s.dev.mem ∧ t.dev.cores = s.dev.cores)
    ∧ ((s.dev.holding h).policy c.group.val c.reduction.val ≠ none → (∀ q ∈ (s.dev.holding h).reduces,
        (q.started && q.covers c.group.val c.reduction.val c.chunk && !(q.replied.any fun z => z.1 == c.chunk)) = false) →
      exec (.reply p h c src admits sexp) s = .next s))
  ∧ (∀ (s : State) (p : PortId) (h : HoldId) (c : ChunkRef) (src : Sender) (msg : Nat) (bytes : List Byte),
    s.dev.clocked = true → s.dev.staleSender src = false → s.dev.outOfStep p h c.group.val src.device = false →
    (s.dev.ownedHere p h c src.device = none →
      ∃ t, exec (.dataMessage p h c src msg bytes) s = .next t ∧ t.pending = s.pending
        ∧ t.dev.ctr (redReg p 0x28) = addStop64 (s.dev.ctr (redReg p 0x28))
            (if ((s.dev.holding h).policy c.group.val c.reduction.val).any (·.fp32Wire) then 2 else 3)
        ∧ (t.dev.holding h).windows = (s.dev.holding h).windows ∧ t.dev.mem = s.dev.mem)
    ∧ ∀ (pol : Policy) (k : Collective) (slot : Nat), s.dev.ownedHere p h c src.device = some (pol, k, slot) →
      (pol.messagesIn c.chunk ≤ msg ∨ (∃ b ∈ messageBlocks pol c.chunk msg bytes, headerOf b.2 = none) →
        ∃ t, exec (.dataMessage p h c src msg bytes) s = .next t ∧ t.pending = s.pending
          ∧ t.dev.ctr (redReg p 0x20) = addStop64 (s.dev.ctr (redReg p 0x20)) 1
          ∧ (t.dev.holding h).windows = ((s.dev.dataWindow p h c pol k slot msg).2.holding h).windows
          ∧ t.dev.mem = s.dev.mem)
      ∧ (msg < pol.messagesIn c.chunk → (∀ b ∈ messageBlocks pol c.chunk msg bytes, headerOf b.2 ≠ none) →
        ∀ (i : Nat) (w : RedWindow), s.dev.dataWindow p h c pol k slot msg = (some i, s.dev) →
          s.dev.window h i = some w → w.dataClosed = false → reached s.dev.dt w.dataEnd = false →
          (pol.fp32Wire || (w.chunk c.chunk).admitted.contains slot) = true →
          (w.chunk c.chunk).accepted.contains (slot, msg) = false →
          ∃ t, exec (.dataMessage p h c src msg bytes) s = .next t ∧ t.pending = s.pending
            ∧ (∃ v, t.dev.window h i = some v
                ∧ (v.chunk c.chunk).accepted = (w.chunk c.chunk).accepted ++ [(slot, msg)])
            ∧ (t.dev.holding h).windows.length = (s.dev.holding h).windows.length ∧ t.dev.cores = s.dev.cores))
  ∧ (∀ (s : State) (p : PortId) (h : HoldId) (c : ChunkRef) (src : Sender), s.dev.staleSender src = true ∨
      s.dev.outOfStep p h c.group.val src.device = true →
    (∀ bytes, exec (.scale p h c src bytes) s = .next s) ∧ (∀ msg bytes, exec (.dataMessage p h c src msg bytes) s = .next s))

/-- A gathered piece is kept until its chunk is whole, which then lands in its REDUCE's destination; a piece is dropped or
missed and counted where no REDUCE takes it, or its wait is over. A trailer counts once for each owner, and adds its sums of
squares to its layers' norms. -/
def Obligations.GathersAndTrailersAreTakenOnce : Prop :=
  (∀ (s : State) (p : PortId) (h : HoldId) (c : ChunkRef) (src : Sender) (index skip : Nat) (bytes : List PByte)
    (pol : Policy), s.dev.clocked = true → s.dev.staleSender src = false → (s.dev.holding h).policy c.group.val c.reduction.val = some pol →
    (s.dev.holding h).dropped.contains (polKey c.group.val c.reduction.val, c.chunk) = false →
    let found := (s.dev.holding h).reduces.find? fun q => q.covers c.group.val c.reduction.val c.chunk
    let off := 224 * index + skip
    let size := pol.valuesIn c.chunk * pol.gatherSize
    (∀ q : ReduceRec, found = some q → (q.missed.contains c.chunk || q.waitOver c.chunk) = false →
      let held := (q.pieces.filter fun u => u.1 == c.chunk).map (·.2)
      let got := ((held ++ [(off, bytes.take (size - off))]).map fun u => u.2.length).sum
      ((q.gathered.contains c.chunk || q.pieces.any fun u => u.1 == c.chunk && u.2.1 == off) = true →
        exec (.gatherFlit p h c src index skip bytes) s = .next s)
      ∧ ((q.gathered.contains c.chunk || q.pieces.any fun u => u.1 == c.chunk && u.2.1 == off) = false →
        (got < size → ∃ t, exec (.gatherFlit p h c src index skip bytes) s = .next t ∧ t.pending = s.pending
          ∧ (∃ z ∈ (t.dev.holding h).reduces, sameReduce z q = true ∧ z.gathered = q.gathered
              ∧ z.pieces = q.pieces ++ [(c.chunk, off, bytes.take (size - off))])
          ∧ t.dev.mem = s.dev.mem ∧ t.dev.cores = s.dev.cores ∧ t.dev.queues = s.dev.queues ∧ t.dev.ports = s.dev.ports)
        ∧ (size ≤ got → ∃ t, exec (.gatherFlit p h c src index skip bytes) s = .next t ∧ t.pending = s.pending
          ∧ (∃ z ∈ (t.dev.holding h).reduces, sameReduce z q = true ∧ z.gathered = q.gathered ++ [c.chunk]
              ∧ z.pieces = q.pieces.filter (fun u => u.1 != c.chunk))
          ∧ t.dev.cores = s.dev.cores ∧ t.dev.queues = s.dev.queues ∧ t.dev.ports = s.dev.ports)))
    ∧ (∀ q : ReduceRec, found = some q → (q.missed.contains c.chunk || q.waitOver c.chunk) = true →
      ∃ t, exec (.gatherFlit p h c src index skip bytes) s = .next t ∧ t.pending = s.pending
        ∧ t.dev.ctr (redReg p 0x40) = addStop64 (s.dev.ctr (redReg p 0x40)) 1 ∧ t.dev.mem = s.dev.mem)
    ∧ (found = none →
      ∃ t, exec (.gatherFlit p h c src index skip bytes) s = .next t ∧ t.pending = s.pending
        ∧ t.dev.ctr (redReg p 0x58) = addStop64 (s.dev.ctr (redReg p 0x58)) 1
        ∧ (t.dev.holding h).dropped
            = (s.dev.holding h).dropped ++ [(polKey c.group.val c.reduction.val, c.chunk)]
        ∧ t.dev.mem = s.dev.mem))
  ∧ (∀ (s : State) (p : PortId) (h : HoldId) (g r : Fin 256) (src : Sender) (q : TrailerRec), s.dev.clocked = true →
    s.dev.staleSender src = false →
    ((s.dev.holding h).policy g.val r.val).isSome = true →
    (((s.dev.holding h).reduces.any fun q => q.group == g.val && q.reduction == r.val)
      && (s.dev.holding h).waitsDone g.val r.val) = false →
    ((s.dev.holding h).trailers.contains (polKey g.val r.val, src.device) = false →
      ∃ t, exec (.normTrailer p h g r src [q]) s = .next t ∧ t.pending = s.pending
        ∧ (t.dev.holding h).trailers = (s.dev.holding h).trailers ++ [(polKey g.val r.val, src.device)]
        ∧ (let a := Tab.get {} (s.dev.holding h).norms q.layer.val
           Tab.get {} (t.dev.holding h).norms q.layer.val =
             { a with wsq := a.wsq + q.wsq, gsq := a.gsq + q.gsq, usq := a.usq + q.usq, wnf := a.wnf || q.wnf
                      trailers := a.trailers + 1 })
        ∧ t.dev.mem = s.dev.mem ∧ t.dev.cores = s.dev.cores ∧ t.dev.ctrs = s.dev.ctrs)
    ∧ ((s.dev.holding h).trailers.contains (polKey g.val r.val, src.device) = true →
      exec (.normTrailer p h g r src [q]) s = .next s))

/-- The Harrow takes the oldest final block once its reads are answered. Forwarded values gather at their home, and a
home whose forwards stay away is given up and counted. -/
def Obligations.TheHarrowTakesAndForwardsBlocks : Prop :=
  (∀ (s : State) (p : PortId) (h : HoldId) (c : ChunkRef) (block i : Nat) (w : RedWindow), s.dev.clocked = true →
    (((s.dev.holding h).windowsOf p c.group.val c.reduction.val).find? fun q =>
      (Tab.get {} (q.2.chunk c.chunk).blocks block).final && !(Tab.get {} (q.2.chunk c.chunk).blocks block).taken)
        = some (i, w) →
    (s.dev.harrowReads p h c w block).wait = false → s.dev.stagingHeld p h w c.chunk block = false →
    ∃ t, exec (.harrowBlock p h c block) s = .next t ∧ t.pending = s.pending
      ∧ (∃ v, t.dev.window h i = some v ∧ (Tab.get {} (v.chunk c.chunk).blocks block).taken = true)
      ∧ t.dev.cores = s.dev.cores ∧ t.dev.queues = s.dev.queues ∧ t.dev.gotre = s.dev.gotre)
  ∧ (∀ (s : State) (p : PortId) (h : HoldId) (entry : Fin 4096) (block : Nat), s.dev.clocked = true →
    (∀ (first : Nat) (vs : List (Option PWord)),
      (∀ z ∈ (s.dev.holding h).precond, z.entry = entry.val → z.block = block → z.done = false) →
      ∃ t, exec (.precondForward p h entry block first vs) s = .next t ∧ t.pending = s.pending
        ∧ (∃ z ∈ (t.dev.holding h).precond, z.entry = entry.val ∧ z.block = block
            ∧ ∀ i < vs.length, (z.values.any fun u => u.1 == first + i) = true)
        ∧ t.dev.cores = s.dev.cores ∧ t.dev.queues = s.dev.queues)
    ∧ (∀ (e : UpdateEntry) (i : Nat) (w : RedWindow), Tab.get none (s.dev.holding h).entries entry.val = some e →
      e.rule = 3 → block < e.blocks → ((s.dev.holding h).windowsOf p e.group e.reduction).head? = some (i, w) →
      (∀ z ∈ (s.dev.holding h).precond, z.entry = entry.val → z.block = block →
        z.done = false ∧ z.port = p ∧ z.values.length < e.br * e.bc) → 0 < e.br * e.bc →
      ∃ t, exec (.forwardDeadline p h entry block) s = .next t ∧ t.pending = s.pending
        ∧ (∃ z ∈ (t.dev.holding h).precond, z.entry = entry.val ∧ z.block = block ∧ z.done = true)
        ∧ t.dev.ctr (hrwReg p 0x50) = addStop64 (s.dev.ctr (hrwReg p 0x50)) 1
        ∧ t.dev.dt = (s.dev.advanceTo (w.dataEnd + BitVec.ofNat 64 w.policy.dataWindow)).dt
        ∧ t.dev.cores = s.dev.cores ∧ t.dev.queues = s.dev.queues))

/-- A STEP boundary moves the step number on and returns the step's state to its start. -/
def Obligations.BoundariesOpenTheNextStep : Prop :=
  ∀ (s : State) (h : HoldId), s.dev.clocked = true →
    (s.dev.boundaryReady h = true → (s.dev.holding h).poisonUsed = false → (s.dev.holding h).waiting = [] →
      (s.dev.holding h).digest.every = 0 → (s.dev.holding h).mirrorSend = none →
      ∃ t, exec (.stepBoundary h) s = .next t ∧ t.pending = s.pending
        ∧ (t.dev.holding h).step = (s.dev.holding h).step + 1
        ∧ (t.dev.holding h).events = []
        ∧ (t.dev.holding h).reduces = ((s.dev.holding h).reduces.filter fun q => q.ahead != 0).map (fun q =>
            { q with ahead := q.ahead - 1 })
        ∧ (∀ b ∈ (t.dev.holding h).batches, b.tag.toNat / 65536 = (t.dev.holding h).step.toNat % 65536)
        ∧ (t.dev.holding h).trailers = [] ∧ (t.dev.holding h).norms = []
        ∧ (∀ g ∈ (t.dev.holding h).stages, g.atStep = false ∧ g.slots = [])
        ∧ (t.dev.holding h).state = (s.dev.holding h).state
        ∧ t.dev.power = s.dev.power ∧ t.dev.pins = s.dev.pins ∧ t.dev.dies = s.dev.dies)
    ∧ (s.dev.boundaryReady h = false ∨ s.dev.digestHeld h = true → exec (.stepBoundary h) s = .next s)

/-! ### The memory controllers -/

/-- A sector read is answered by the stack, the tag and the epoch, in that order, and changes no memory. A whole-block
read compares the block's CRC: a mismatch poisons the data and the tag. -/
def Obligations.ReadsAnswerByTagEpochAndCrc : Prop :=
  (∀ (s : State) (sec : Nat) (o : Owner) (cls : MemClass) (wait : Bool), s.dev.memoryUp = true →
    memExists (sec * 32) = true → s.dev.memWaits = [] → s.dev.quiesced (sec * 32) = false →
    (wait && s.dev.mustWait (sec / 128) o) = false → Tab.get .clean s.dev.ecc sec = .clean →
    let k := (s.dev.place (sec * 32)).stack
    let g := s.dev.tag (sec / 128)
    ∃ t data checked, exec (.memRead sec false o cls wait [] false) s = .next t ∧ t.pending = s.pending
      ∧ t.dev.outbox = s.dev.outbox ++ [.readData data checked]
      ∧ t.dev.mem = s.dev.mem ∧ t.dev.tags = s.dev.tags ∧ t.dev.secPoison = s.dev.secPoison ∧ t.dev.cores = s.dev.cores
      ∧ (s.dev.stackLost k = true → data = poisonedBytes (sec * 32) 32 ∧ checked = true)
      ∧ (s.dev.stackLost k = false → g.owner ≠ o → data = poisonedBytes (sec * 32) 32 ∧ checked = true
          ∧ t.dev.ctr (stackReg k 0x68) = addStop64 (s.dev.ctr (stackReg k 0x68)) 1
          ∧ t.dev.reg (memEvent k) = s.dev.reg (memEvent k) ||| 0x40)
      ∧ (s.dev.stackLost k = false → g.owner = o →
          (g.zero = true → data = zeroBytes 32 ∧ checked = true)
          ∧ (g.zero = false → s.dev.staleEpoch o g.epoch = true → data = poisonedBytes (sec * 32) 32 ∧ checked = true
              ∧ t.dev.ctr (stackReg k 0x70) = addStop64 (s.dev.ctr (stackReg k 0x70)) 1
              ∧ t.dev.reg (memEvent k) = s.dev.reg (memEvent k) ||| 0x80)
          ∧ (g.zero = false → s.dev.staleEpoch o g.epoch = false → checked = g.checked
              ∧ data = (Tab.getList 0 s.dev.mem (sec * 32) 32).map
                  (fun v => ⟨v, g.poison || Tab.get false s.dev.secPoison sec⟩))))
  ∧ (∀ (s : State) (b : Nat) (o : Owner) (cls : MemClass) (wait : Bool), s.dev.memoryUp = true →
    memExists (b * 4096) = true → s.dev.memWaits = [] → s.dev.quiesced (b * 4096) = false →
    (wait && s.dev.mustWait b o) = false → (∀ j < 128, Tab.get .clean s.dev.ecc (b * 128 + j) = .clean) →
    s.dev.stackLost (s.dev.place (b * 4096)).stack = false →
    (∀ j < 128, s.dev.stackLost (s.dev.place ((b * 128 + j) * 32)).stack = false) →
    let g := s.dev.tag b
    g.owner = o → g.zero = false → s.dev.staleEpoch o g.epoch = false → g.poison = false → g.crcOff = false →
    (∀ j < 128, Tab.get false s.dev.secPoison (b * 128 + j) = false) →
    let stored := Tab.getList 0 s.dev.mem (b * 4096) 4096
    let bad := crc32c stored != g.crc
    ∃ t, exec (.memRead (b * 128) true o cls wait [] false) s = .next t ∧ t.pending = s.pending
      ∧ t.dev.outbox = s.dev.outbox ++ [.readData (stored.map fun v => ⟨v, bad⟩) g.checked]
      ∧ t.dev.tag b = { g with poison := bad }
      ∧ t.dev.mem = s.dev.mem)

/-- A write stores its unmasked bytes and no others, but for the zeros of a block that a first partial write makes valid.
A device block keeps the epoch 0. No running mirror generation waits to read the block here: one that does reads it first. -/
def Obligations.WritesStoreTheirBytesAlone : Prop :=
  ∀ (s : State) (pa : Nat) (o : Owner) (e : BitVec 16) (cls : MemClass) (data : List (Option PByte)) (pending : Bool),
    s.dev.memoryUp = true → memExists pa = true → s.dev.memWaits = [] → s.dev.quiesced pa = false →
    (pending && s.dev.pendingFull pa o e) = false →
    (∀ (h : HoldId) (m : MirrorSend), (s.dev.holding h).mirrorSend = some m → ∀ q ∈ m.toRead, q.2 ≠ pa / 4096) →
    let k := (s.dev.place pa).stack
    let g := s.dev.tag (pa / 4096)
    let begun := g.zero = true ∨ (o ≠ .device ∧ o ≠ .unassigned ∧ g.epoch ≠ e)
    (s.dev.stackLost k = false → s.dev.staleEpoch o e = false → g.owner = o → (∃ b ∈ data, b ≠ none) →
        pa % 4096 + data.length ≤ 4096 → (∀ j < 128, Tab.get .clean s.dev.ecc (pa / 4096 * 128 + j) = .clean) →
      ∃ t, exec (.memWrite pa o e cls data pending false) s = .next t ∧ t.pending = s.pending
        ∧ (∀ a : Nat, Tab.get 0 t.dev.mem a =
            match (if pa ≤ a then nthD data (a - pa) none else none) with
            | some b => b.val
            | none => if a / 4096 = pa / 4096 ∧ begun then 0 else Tab.get 0 s.dev.mem a)
        ∧ (t.dev.tag (pa / 4096)).owner = o
        ∧ (t.dev.tag (pa / 4096)).epoch = (if o = .device ∨ o = .unassigned then 0 else e)
        ∧ (pending = true → (t.dev.tag (pa / 4096)).checked = false)
        ∧ (∀ b, b ≠ pa / 4096 → t.dev.tag b = s.dev.tag b)
        ∧ t.dev.outbox = s.dev.outbox ∧ t.dev.cores = s.dev.cores)
    ∧ (s.dev.stackLost k = true ∨ s.dev.staleEpoch o e = true ∨ g.owner ≠ o →
      ∃ t, exec (.memWrite pa o e cls data pending false) s = .next t ∧ t.pending = s.pending
        ∧ t.dev.mem = s.dev.mem ∧ t.dev.tags = s.dev.tags ∧ t.dev.secPoison = s.dev.secPoison)

/-- A clearance takes one write from PENDING, and a withdrawal poisons its sectors; one of another epoch does nothing.
Scrub compares a block's CRC and poisons it on a mismatch; it clears CRC_OFF where no sector is poisoned. -/
def Obligations.ClearancesSettleAndScrubCompares : Prop :=
  (∀ (s : State) (b : Nat) (secs : List Nat) (o : Owner) (e : BitVec 16) (kind : Clearance), s.dev.memoryUp = true →
    memExists (b * 4096) = true → s.dev.memWaits = [] →
    ((s.dev.pend.any fun p => p.block == b && p.sectors == secs) = true → s.dev.pend.any (s.dev.clears b secs) = true) →
    (s.dev.staleEpoch o e = false → s.dev.stackLost (s.dev.place (b * 4096)).stack = false →
        s.dev.quiesced (b * 4096) = false →
      let g := s.dev.tag b
      let n : Fin 16 := Fin.ofNat 16 (g.pending.val - 1)
      ∃ t, exec (.clearance b secs o e kind) s = .next t ∧ t.pending = s.pending
        ∧ t.dev.tag b = { g with pending := n, checked := decide (n = 0), poison := g.poison || kind == .fail
                                 crcOff := g.crcOff || kind == .withdraw }
        ∧ (∀ x, Tab.get false t.dev.secPoison x
            = (Tab.get false s.dev.secPoison x || (kind == .withdraw && secs.contains x)))
        ∧ t.dev.pend = s.dev.pend.eraseP (s.dev.clears b secs) ∧ t.dev.mem = s.dev.mem)
    ∧ (s.dev.staleEpoch o e = true →
      ∃ t, exec (.clearance b secs o e kind) s = .next t ∧ t.pending = s.pending
        ∧ t.dev.tags = s.dev.tags ∧ t.dev.secPoison = s.dev.secPoison ∧ t.dev.mem = s.dev.mem))
  ∧ (∀ (s : State) (b onDie : Nat), s.dev.memoryUp = true → memExists (b * 4096) = true →
    let k := (s.dev.place (b * 4096)).stack
    let g := s.dev.tag b
    let crc := crc32c (Tab.getList 0 s.dev.mem (b * 4096) 4096)
    let marked := (List.range 128).any fun i => Tab.get false s.dev.secPoison (b * 128 + i)
    (s.dev.stackLost k = false → s.dev.power.transition = false →
        (s.dev.reg (stackReg k 0x0C)).setWidth 8 ≠ (0 : BitVec 8) → s.dev.memWaits = [] →
        s.dev.quiesced (b * 4096) = false → (∀ j < 128, Tab.get .clean s.dev.ecc (b * 128 + j) = .clean) →
      ∃ t, exec (.scrubBlock b [] onDie) s = .next t ∧ t.pending = s.pending
        ∧ t.dev.tag b = (if g.zero then g
            else if !g.poison && !g.crcOff && !marked && crc != g.crc then { g with poison := true }
            else if g.crcOff && !marked then { g with crcOff := false, crc := crc } else g)
        ∧ t.dev.ctr (stackReg k 0x10) = addStop64 (s.dev.ctr (stackReg k 0x10)) 128
        ∧ t.dev.mem = s.dev.mem ∧ t.dev.cores = s.dev.cores)
    ∧ (s.dev.stackLost k = true ∨ s.dev.power.transition = true ∨ (s.dev.reg (stackReg k 0x0C)).setWidth 8 = (0 : BitVec 8) →
      exec (.scrubBlock b [] onDie) s = .next s))

/-- A request that fails parity waits for its reissue, and after four reissues is answered poisoned. A stack throttles
at 95 °C, ends the throttle on its lift, and goes offline at 105 °C. -/
def Obligations.StacksReissueThrottleAndGoOffline : Prop :=
  (∀ (s : State) (k : StackId) (ch : Fin 32) (passes : Bool) (w : MemWait) (n : Nat) (rest : List MemWait),
    s.dev.memoryUp = true → s.dev.memWaits = w :: rest → w.why = .parity n →
    (s.dev.place w.req.address).stack = k → (s.dev.place w.req.address).channel = ch.val →
    (passes = true → rest = [] → s.dev.queuesFor [] w.req = none →
      ∃ t, exec (.parityReissue k ch passes) s = .next t ∧ t.pending = s.pending ∧ t.dev.memWaits = []
        ∧ t.dev.ctr (stackReg k 0x38) = addStop64 (s.dev.ctr (stackReg k 0x38)) 1 ∧ t.dev.cores = s.dev.cores)
    ∧ (passes = false → n < 3 →
      ∃ t, exec (.parityReissue k ch passes) s = .next t ∧ t.pending = s.pending
        ∧ t.dev.memWaits.head? = some { w with why := .parity (n + 1), fails := false }
        ∧ t.dev.ctr (stackReg k 0x38) = addStop64 (s.dev.ctr (stackReg k 0x38)) 1
        ∧ t.dev.mem = s.dev.mem ∧ t.dev.tags = s.dev.tags ∧ t.dev.outbox = s.dev.outbox)
    ∧ (passes = false → 3 ≤ n → rest = [] →
      ∃ t, exec (.parityReissue k ch passes) s = .next t ∧ t.pending = s.pending ∧ t.dev.memWaits = []
        ∧ t.dev.ctr (stackReg k 0x40) = addStop64 (s.dev.ctr (stackReg k 0x40)) 1
        ∧ (t.dev.stack k).retrainPending = true ∧ (s.dev.ecc = [] → t.dev.mem = s.dev.mem)
        ∧ (∀ sec o cl wt, w.req = .read sec false o cl wt → t.dev.outbox = s.dev.outbox ++
            [.readData (poisonedBytes (sec * 32) 32) true])
        ∧ (∀ sec o cl wt, w.req = .read sec true o cl wt → ∃ data checked, t.dev.outbox = s.dev.outbox ++
            [.readData data checked] ∧ data.length = 4096
            ∧ ∀ i < 32, ∃ b, data[sec % 128 * 32 + i]? = some b ∧ b.poison = true)
        ∧ (∀ pa o e cl d q, w.req = .write pa o e cl d q → (t.dev.tag (pa / 4096)).poison = true)))
  ∧ (∀ (s : State) (k : StackId) (temp : BitVec 8), s.dev.clocked = true →
    (∃ t, exec (.stackOverTemperature k temp) s = .next t ∧ t.pending = s.pending
      ∧ t.dev.stack k = { s.dev.stack k with temp := temp
                                             throttled := (s.dev.stack k).throttled || decide (95 ≤ temp.toNat) }
      ∧ (95 ≤ temp.toNat → (s.dev.stack k).throttled = false →
          t.dev.reg (memEvent k) = s.dev.reg (memEvent k) ||| 8)
      ∧ t.dev.mem = s.dev.mem ∧ ∀ j, j ≠ k → t.dev.stack j = s.dev.stack j)
    ∧ ((s.dev.stack k).throttled = true →
      ∃ t, exec (.throttleLift k) s = .next t ∧ t.pending = s.pending
        ∧ (t.dev.stack k).throttled = false ∧ (t.dev.stack k).temp.toNat < 90
        ∧ t.dev.mem = s.dev.mem ∧ t.dev.regs = s.dev.regs)
    ∧ (105 ≤ temp.toNat → (s.dev.stack k).offline = false →
      ∃ t, exec (.stackCritical k temp) s = .next t ∧ t.pending = s.pending
        ∧ (t.dev.stack k).offline = true ∧ (t.dev.stack k).retraining = false ∧ (t.dev.stack k).temp = temp
        ∧ t.dev.reg (memEvent k) = s.dev.reg (memEvent k) ||| 0x10
        ∧ t.dev.memWaits = s.dev.memWaits.filter (fun w => !((s.dev.place w.req.address).stack == k))
        ∧ t.dev.mem = s.dev.mem
        ∧ ∀ b, regionBlocks ≤ b → (b < farBase / 4096 ∨ farBase / 4096 + regionBlocks ≤ b) →
            Tab.get none t.dev.tags b = Tab.get none s.dev.tags b))

/-- A finished walk brings its leaf into the die's cache, or writes the die's fault record where it stands empty. -/
def Obligations.WalksFillTheCacheOrFault : Prop :=
  ∀ (s : State) (die : DieId) (h : HoldId) (va : BitVec 52) (write : Bool) (core : Option CoreId) (bad : Bool),
    s.dev.memoryUp = true → s.dev.xlateWaits { die := die.val, core := core, holding := h } va.toNat = false →
    let walked := ((s.dev.count (some h) (xltReg die.val 0x18) 1).walk h (some die.val) .ordinary va.toNat).1
    (∀ (level : Nat) (e : Word64), bad = false → walked = .leaf level e →
        (∀ n, leafXlate level e va.toNat write ≠ .fault n) →
      ∃ t, exec (.pageWalkDone die h va write core bad) s = .next t ∧ t.pending = s.pending
        ∧ (∃ q ∈ t.dev.xlat, q.cache = .shared die.val ∧ q.holding = h ∧ q.level = level
            ∧ q.key = pageKey level va.toNat)
        ∧ t.dev.ctr (xltReg die.val 0x18) = addStop64 (s.dev.ctr (xltReg die.val 0x18)) 1
        ∧ (s.dev.ecc = [] → t.dev.regs = s.dev.regs ∧ t.dev.mem = s.dev.mem))
    ∧ (∀ kind : Nat, (if bad then kind = 2 else walked = .fault kind
          ∨ ∃ level e, walked = .leaf level e ∧ leafXlate level e va.toNat write = .fault kind) →
      (s.dev.reg (xltReg die.val 0)).getLsbD 31 = false →
      ∃ t, exec (.pageWalkDone die h va write core bad) s = .next t ∧ t.pending = s.pending
        ∧ t.dev.reg (xltReg die.val 0) = BitVec.ofNat 32 (0x80000000 + kind * 0x10000000
            + (if write then 0x8000000 else 0) + h.val * 0x1000000
            + (match core with | some c => c.val | none => 0xFF) * 0x10000)
        ∧ t.dev.reg (xltReg die.val 4) = BitVec.ofNat 32 va.toNat
        ∧ t.dev.reg (xltReg die.val 8) = BitVec.ofNat 32 (va.toNat / 0x100000000 % 0x100000)
        ∧ (bad = true → t.dev.xlat = s.dev.xlat)
        ∧ (walked = .fault kind → t.dev.xlat.filter (fun q => q.cache == .shared die.val)
            = s.dev.xlat.filter (fun q => q.cache == .shared die.val))
        ∧ (s.dev.ecc = [] → t.dev.mem = s.dev.mem))

/-- The commands of the memory controllers keep memory in its canonical form: rising addresses, no listed zero. -/
def Obligations.ControllersKeepMemoryCanonical : Prop :=
  ∀ (s t : State) (c : Instr),
    ((∃ k w o cl wt ec p, c = .memRead k w o cl wt ec p) ∨ (∃ a o e cl d pd p, c = .memWrite a o e cl d pd p)
      ∨ (∃ b l o e k, c = .clearance b l o e k) ∨ (∃ b ec n, c = .scrubBlock b ec n)
      ∨ (∃ k ch p, c = .parityReissue k ch p) ∨ (∃ k v, c = .stackOverTemperature k v) ∨ (∃ k, c = .throttleLift k)
      ∨ (∃ k v, c = .stackCritical k v)) →
    Memory.wf s.dev.mem = true → exec c s = .next t → Memory.wf t.dev.mem = true

/-! ### Integrity -/

/-- A checker's disagreement is counted; the unit's own replay settles it, or a neighbour decides, or the core is
fenced. Every outcome of the neighbour's recomputation fences the core; no decision, nothing changes. A failed check
of a link die, Drill or Tally is repeated once: clean counts, a second failure fences the die. -/
def Obligations.DisagreementsAreDecided : Prop :=
  (∀ (s : State) (c : CoreId) (u : CoreUnit) (x : UnitPart),
    s.dev.suspect c u = some x → s.dev.coreRuns c = true → (s.dev.core c).decision = none →
    (∃ t, exec (.checkerDisagreement c u true) s = .next t ∧ t.pending = s.pending
      ∧ t.dev.ctr (chkReg c 0x08) = addStop64 (s.dev.ctr (chkReg c 0x08)) 1
      ∧ t.dev.ctr (chkReg c 0x10) = addStop64 (s.dev.ctr (chkReg c 0x10)) 1
      ∧ t.dev.cores = s.dev.cores ∧ t.dev.dies = s.dev.dies)
    ∧ (∀ n : CoreId, s.dev.nextLive c = some n →
      ∃ t, exec (.checkerDisagreement c u false) s = .next t ∧ t.pending = s.pending
        ∧ t.dev.ctr (chkReg c 0x08) = addStop64 (addStop64 (s.dev.ctr (chkReg c 0x08)) 1) 1
        ∧ (t.dev.core c).decision = some { unit := u, neighbour := n, stream := x.1, index := x.2.1, part := x.2.2 }
        ∧ (t.dev.core n).helping = true
        ∧ (∀ k : CoreId, k ≠ c → k ≠ n → t.dev.core k = s.dev.core k)
        ∧ t.dev.mem = s.dev.mem ∧ t.dev.tags = s.dev.tags ∧ t.dev.dies = s.dev.dies)
    ∧ (s.dev.nextLive c = none →
      ∃ t, exec (.checkerDisagreement c u false) s = .next t ∧ t.pending = s.pending ∧ (t.dev.core c).fenced = true))
  ∧ (∀ (s : State) (c : CoreId) (r : Recompute), s.dev.clocked = true →
    (∀ z : Decision, (s.dev.core c).decision = some z →
      ∃ t, exec (.neighbourRecompute c r) s = .next t ∧ t.pending = s.pending ∧ (t.dev.core c).fenced = true)
    ∧ ((s.dev.core c).decision = none → exec (.neighbourRecompute c r) s = .next s))
  ∧ ((∀ (s : State) (p : PortId) (d : DieId), d.val = linkDie p → s.dev.clocked = true →
    (s.dev.die d.val).fenced = false → (s.dev.die d.val).survey = false →
    (∃ t, exec (.linkCheckFail d true) s = .next t ∧ t.pending = s.pending
      ∧ t.dev.ctr (lchkReg p 0x10) = addStop64 (s.dev.ctr (lchkReg p 0x10)) 1
      ∧ t.dev.ctr (lchkReg p 0x08) = addStop64 (s.dev.ctr (lchkReg p 0x08)) 1
      ∧ t.dev.reg (ldieEvent p) = s.dev.reg (ldieEvent p) ||| 0x20
      ∧ t.dev.dies = s.dev.dies ∧ t.dev.mem = s.dev.mem)
    ∧ (∃ t, exec (.linkCheckFail d false) s = .next t ∧ t.pending = s.pending ∧ (t.dev.die d.val).fenced = true))
  ∧ (∀ (s : State) (d : DieId), dieKind d.val = 0 → s.dev.clocked = true → (s.dev.die d.val).fenced = false →
    (s.dev.die d.val).survey = false →
    exec (.linkCheckFail d true) s = .next s
    ∧ ∃ t, exec (.linkCheckFail d false) s = .next t ∧ t.pending = s.pending ∧ (t.dev.die d.val).fenced = true))

/-- The mirror of a counter is complete, and takes go on. The Headland gate holds what waits for a block until the
block is checked or poisoned. -/
def Obligations.MirrorsCopyAndTheGateOpens : Prop :=
  (∀ (s : State) (h : HoldId) (n : Fin 256) (k : Counter), s.dev.clocked = true →
    (s.dev.holding h).counter n.val = some k →
    ∃ t, exec (.tallyMirrorCopyDone h n) s = .next t ∧ t.pending = s.pending
      ∧ (t.dev.holding h).counter n.val = some { k with copying := false }
      ∧ (∀ m, m ≠ n.val → (t.dev.holding h).counter m = (s.dev.holding h).counter m)
      ∧ (t.dev.holding h).stages = (s.dev.holding h).stages ∧ t.dev.cores = s.dev.cores ∧ t.dev.mem = s.dev.mem)
  ∧ (∀ (s : State) (p : PortId) (b : Nat), s.dev.clocked = true →
    (s.dev.blockClear b = true → (∃ g ∈ s.dev.gate, g.port = p ∧ ∃ x ∈ g.blocks, x.1 = b) →
      ∃ t, exec (.checkedNotice p b) s = .next t ∧ t.pending = s.pending
        ∧ (∀ g ∈ t.dev.gate, g.port = p → ∀ x ∈ g.blocks, x.1 ≠ b)
        ∧ (∀ g ∈ t.dev.gate, g.port ≠ p → g ∈ s.dev.gate)
        ∧ t.dev.mem = s.dev.mem ∧ t.dev.tags = s.dev.tags ∧ t.dev.cores = s.dev.cores)
    ∧ (s.dev.blockClear b = false → exec (.checkedNotice p b) s = .next s))

/-- A member's digest record is kept once, and the window's end decides the vote. A verdict ends the vote: CLEAN
changes nothing else, ROLLBACK holds the holding, EXPEL marks the odd slots dead. -/
def Obligations.DigestsAreVotedOn : Prop :=
  (∀ (s : State) (h : HoldId), s.dev.clocked = true →
    (∀ (r : DigestRec) (k : Collective), s.dev.voters h = some k → k.liveDevices.contains r.src = true →
      (s.dev.holding h).vote = none → seqLe r.step (s.dev.holding h).step = false →
      ((s.dev.holding h).digests.any fun q => q.src == r.src && q.step == r.step) = false →
      ∃ t, exec (.digestRecord h r) s = .next t ∧ t.pending = s.pending
        ∧ (t.dev.holding h).digests = (s.dev.holding h).digests ++ [r]
        ∧ (t.dev.holding h).vote = none ∧ t.dev.mem = s.dev.mem ∧ t.dev.gotre = s.dev.gotre)
    ∧ (∀ v : Vote, (s.dev.holding h).vote = some v → s.dev.coordinates h = true →
      ∃ t, exec (.digestWindow h) s = .next t ∧ t.pending = s.pending
        ∧ (t.dev.holding h).vote = none
        ∧ t.dev.dt = (s.dev.advanceTo (v.ownTime + BitVec.ofNat 64 (s.dev.holding h).digest.window)).dt
        ∧ t.dev.power = s.dev.power ∧ t.dev.dies = s.dev.dies))
  ∧ (∀ (s : State) (h : HoldId) (v : Vote), s.dev.clocked = true → (s.dev.holding h).vote = some v →
    (∃ t, exec (.digestVerdict h .clean) s = .next t ∧ t.pending = s.pending
      ∧ t.dev.holding h = { s.dev.holding h with vote := none } ∧ t.dev.gotre = s.dev.gotre ∧ t.dev.mem = s.dev.mem
      ∧ t.dev.ctrs = s.dev.ctrs)
    ∧ (∃ t, exec (.digestVerdict h .rollback) s = .next t ∧ t.pending = s.pending
      ∧ (t.dev.holding h).vote = none ∧ (t.dev.holding h).rollback = true
      ∧ t.dev.ctr (regAt ctl 0x16018) = addStop64 (s.dev.ctr (regAt ctl 0x16018)) 1
      ∧ t.dev.reg (regAt ctl 0x100) = s.dev.reg (regAt ctl 0x100) ||| 0x10
      ∧ (t.dev.holding h).state = (s.dev.holding h).state ∧ t.dev.mem = s.dev.mem)
    ∧ (∀ (odd : List Nat) (k : Collective),
      Tab.get none (s.dev.holding h).collectives (s.dev.holding h).digest.group = some k →
      (odd.any fun i => k.members[i]? == some s.dev.number) = false → (s.dev.holding h).batches = [] →
      ∃ t, exec (.digestVerdict h (.expel odd)) s = .next t ∧ t.pending = s.pending
        ∧ (t.dev.holding h).vote = none
        ∧ (t.dev.holding h).waiting = (s.dev.holding h).waiting ++ [.dead (s.dev.holding h).digest.group odd]
        ∧ t.dev.ctr (regAt ctl 0x16010) = addStop64 (s.dev.ctr (regAt ctl 0x16010)) 1
        ∧ t.dev.mem = s.dev.mem)
    ∧ (∃ t, exec (.verdictTimeout h) s = .next t ∧ t.pending = s.pending
      ∧ (t.dev.holding h).vote = none ∧ (t.dev.holding h).rollback = true
      ∧ t.dev.dt = (s.dev.advanceTo (v.ownTime + BitVec.ofNat 64 (2 * (s.dev.holding h).digest.window))).dt
      ∧ t.dev.mem = s.dev.mem))

/-! ### The links -/

/-- A damaged flit is asked for again once, a flit in sequence is accepted, and a NAK replays what follows its LACK. -/
def Obligations.LinksReplayWhatIsDamaged : Prop :=
  ∀ (s : State) (p : PortId), s.dev.clocked = true → s.dev.usable p = true → s.dev.fullSurvey = false →
    (∀ (f : Flit) (fecGood : Bool) (n : Nat), (fecGood && f.good) = false →
      ∃ t, exec (.linkFlitReceive p f fecGood n) s = .next t ∧ t.pending = s.pending
        ∧ t.dev.ctr (klxReg p 0x28) = addStop64 (s.dev.ctr (klxReg p 0x28)) 1
        ∧ (t.dev.port p).discarding = true ∧ (t.dev.port p).expect = (s.dev.port p).expect
        ∧ t.dev.outbox = s.dev.outbox ++
            (if (s.dev.port p).discarding || s.dev.survey.frozen then [] else [.flit p (s.dev.linkFlit p 1 0 0 0)])
        ∧ t.dev.ctr (klxReg p 0x08) = addStop64 (s.dev.ctr (klxReg p 0x08))
            (if (s.dev.port p).discarding || s.dev.survey.frozen then 0 else 1)
        ∧ t.dev.seqRx = s.dev.seqRx ∧ t.dev.mem = s.dev.mem)
    ∧ (∀ (f : Flit) (n : Nat), f.good = true → 2 ≤ f.type → f.type < 8 → f.lseq = (s.dev.port p).expect →
        f.dst = s.dev.number →
      ∃ t, exec (.linkFlitReceive p f true n) s = .next t ∧ t.pending = s.pending
        ∧ (t.dev.port p).expect = (s.dev.port p).expect + 1 ∧ (t.dev.port p).discarding = false
        ∧ t.dev.ctr (klxReg p 0x10) = addStop64 (s.dev.ctr (klxReg p 0x10)) 1
        ∧ t.dev.seqRx = s.dev.seqRx ∧ t.dev.mem = s.dev.mem)
    ∧ (∀ lack : BitVec 12,
      let s1 := s.dev.takeLack p lack
      let again := (s1.port p).replay
      let replays := recentReplays s.dev.dt (s1.port p).replayTimes
      again ≠ [] → s.dev.survey.frozen = false →
      ((s1.port p).oldestReplays + 1 < 8 ∧ replays.length + 1 < 64 →
        ∃ t, exec (.nak p lack) s = .next t ∧ t.pending = s.pending
          ∧ t.dev.outbox = s1.outbox ++ again.map (fun e => .flit p (s1.formFlit p e.1 e.2))
          ∧ t.dev.ctr (klxReg p 0x08) = addStop64 (s1.ctr (klxReg p 0x08)) again.length
          ∧ t.dev.ctr (klxReg p 0x30) = addStop64 (s1.ctr (klxReg p 0x30)) again.length
          ∧ (t.dev.port p).replay = again ∧ t.dev.seqTx = s1.seqTx)
      ∧ (8 ≤ (s1.port p).oldestReplays + 1 ∨ 64 ≤ replays.length + 1 →
        ∃ t, exec (.nak p lack) s = .next t ∧ t.pending = s.pending ∧ (t.dev.port p).state = .training))

/-- The sequence home delivers in order and once, acknowledges, and resends what is not acknowledged. Every end-to-end
command completes on a clocked device, whatever its operands and the state. -/
def Obligations.EndToEndDeliversInOrder : Prop :=
  (∀ (s : State) (p : PortId) (f : Flit), s.dev.clocked = true →
    ∃ t, exec (.endToEndDelivery p f) s = .next t ∧ t.pending = s.pending
      ∧ t.dev.mem = s.dev.mem ∧ t.dev.cores = s.dev.cores ∧ t.dev.seqTx = s.dev.seqTx)
  ∧ (∀ (s : State) (dev : BitVec 16) (vc : Fin 4) (upto : Word32), s.dev.clocked = true →
    ∃ t, exec (.e2eAck dev vc upto) s = .next t ∧ t.pending = s.pending
      ∧ t.dev.mem = s.dev.mem ∧ t.dev.cores = s.dev.cores ∧ t.dev.seqRx = s.dev.seqRx ∧ t.dev.dt = s.dev.dt)
  ∧ (∀ (s : State) (dev : BitVec 16) (vc : Fin 4) (from' : Word32), s.dev.clocked = true →
    ∃ t, exec (.e2eNak dev vc from') s = .next t ∧ t.pending = s.pending
      ∧ t.dev.mem = s.dev.mem ∧ t.dev.cores = s.dev.cores ∧ t.dev.seqRx = s.dev.seqRx ∧ t.dev.dt = s.dev.dt)
  ∧ (∀ (s : State) (dev : BitVec 16) (vc : Fin 4), s.dev.clocked = true →
    ∃ t, exec (.e2eAckTimer dev vc) s = .next t ∧ t.pending = s.pending
      ∧ t.dev.mem = s.dev.mem ∧ t.dev.cores = s.dev.cores ∧ t.dev.seqTx = s.dev.seqTx)
  ∧ (∀ (s : State) (dev : BitVec 16) (vc : Fin 4), s.dev.clocked = true →
    ∃ t, exec (.e2eRetryTimeout dev vc) s = .next t ∧ t.pending = s.pending
      ∧ t.dev.mem = s.dev.mem ∧ t.dev.cores = s.dev.cores ∧ t.dev.seqRx = s.dev.seqRx)
  ∧ (∀ (s : State) (dev : BitVec 16) (vc : Fin 4), s.dev.clocked = true →
    ∃ t, exec (.unreachableResend dev vc) s = .next t ∧ t.pending = s.pending
      ∧ t.dev.mem = s.dev.mem ∧ t.dev.cores = s.dev.cores ∧ t.dev.seqRx = s.dev.seqRx)
  ∧ (∀ (s : State) (dev : BitVec 16) (vc : Fin 4), s.dev.clocked = true →
    let k := seqKey dev vc
    let x := Tab.get {} s.dev.seqRx k
    let y := Tab.get {} s.dev.seqTx k
    let home := s.dev.homeOf dev
    (∀ (p : PortId) (f : Flit), f.src = dev → f.vc = vc → 2 ≤ f.type → f.type ≤ 4 → f.dst = s.dev.number →
      (f.eseq = x.expected →
        ∃ t, exec (.endToEndDelivery p f) s = .next t ∧ (Tab.get {} t.dev.seqRx k).expected = x.expected + 1)
      ∧ (0x80000000 ≤ (f.eseq - x.expected).toNat →
        ∃ t, exec (.endToEndDelivery p f) s = .next t ∧ t.dev.seqRx = s.dev.seqRx
          ∧ t.dev.ctr (klxReg home 0x48) = addStop64 (s.dev.ctr (klxReg home 0x48)) 1 ∧ t.dev.ports = s.dev.ports)
      ∧ (0 < (f.eseq - x.expected).toNat → (f.eseq - x.expected).toNat < 0x80000000 →
        ∃ t, exec (.endToEndDelivery p f) s = .next t ∧ t.dev.seqRx = s.dev.seqRx
          ∧ t.dev.ctr (klxReg home 0x50) = addStop64 (s.dev.ctr (klxReg home 0x50)) 1))
    ∧ (∀ upto : Word32, s.dev.gate = [] → (∀ (h : HoldId) (m : MirrorSend), (s.dev.holding h).mirrorSend = some m → m.running = false) →
      let kept := y.held.filter fun f => !seqLe f.eseq upto
      ∃ t, exec (.e2eAck dev vc upto) s = .next t
        ∧ Tab.get {} t.dev.seqTx k = { y with held := kept, unreachable := false
                                              timeouts := if kept.length < y.held.length then 0 else y.timeouts }
        ∧ t.dev.ports = s.dev.ports ∧ t.dev.outbox = s.dev.outbox)
    ∧ (∀ from' : Word32, ∃ t, exec (.e2eNak dev vc from') s = .next t
        ∧ s.dev.resent t.dev dev vc (fun f => seqLe from' f.eseq))
    ∧ (∀ start : Word64, x.firstUnacked = some start →
      ∃ t, exec (.e2eAckTimer dev vc) s = .next t
        ∧ Tab.get {} t.dev.seqRx k = { x with unacked := 0, firstUnacked := none }
        ∧ t.dev.dt = (s.dev.advanceTo (start + BitVec.ofNat 64 ackTicks)).dt)
    ∧ (∀ (f : Held) (rest : List Held), y.held = f :: rest →
      (y.unreachable = false →
        ∃ t, exec (.e2eRetryTimeout dev vc) s = .next t ∧ s.dev.resent t.dev dev vc (fun _ => true)
          ∧ t.dev.dt = (s.dev.advanceTo (f.sentAt + BitVec.ofNat 64 retryTicks)).dt
          ∧ (Tab.get {} t.dev.seqTx k).timeouts = y.timeouts + 1
          ∧ (Tab.get {} t.dev.seqTx k).unreachable = decide (64 ≤ y.timeouts + 1)
          ∧ t.dev.ctr (klxReg home 0x88)
              = (if 64 ≤ y.timeouts + 1 then addStop64 (s.dev.ctr (klxReg home 0x88)) 1 else s.dev.ctr (klxReg home 0x88)))
      ∧ (y.unreachable = true →
        exec (.e2eRetryTimeout dev vc) s = .next s
        ∧ ∃ t, exec (.unreachableResend dev vc) s = .next t ∧ s.dev.resent t.dev dev vc (fun _ => true)
          ∧ t.dev.dt = (s.dev.advanceTo (f.sentAt + BitVec.ofNat 64 msTicks)).dt
          ∧ (Tab.get {} t.dev.seqTx k).timeouts = y.timeouts ∧ (Tab.get {} t.dev.seqTx k).unreachable = true)))

/-- WRITE gathers its flits and stores them with the last; MESSAGE reaches its table; link state goes out on its
timer. Time transfer: an exchange starts and counts a missing answer; the four stamps give an offset that is stepped
or slewed. -/
def Obligations.MessagesArriveAndTimeFollows : Prop :=
  (∀ (s : State) (p : PortId), s.dev.clocked = true →
    (∀ f : Flit, f.type = 2 → f.dst = s.dev.number → s.dev.staleFlit f = false →
      let k := seqKey f.src f.vc
      let before := if f.first then [] else Tab.get [] s.dev.rxWrites k
      let data := before ++ f.data
      (f.last = false →
        ∃ t, exec (.write p f) s = .next t ∧ t.pending = s.pending ∧ Tab.get [] t.dev.rxWrites k = data
          ∧ t.dev.mem = s.dev.mem ∧ t.dev.tags = s.dev.tags)
      ∧ (∀ h : HoldId, f.last = true → f.owner = h.val → s.dev.serveAt f.src.toNat = none →
          ¬ (data.length = 4096 ∧ f.sectors = 2) →
        ∃ t, exec (.write p f) s = .next t ∧ t.pending = s.pending ∧ Tab.get [] t.dev.rxWrites k = []
          ∧ t.dev.mem = (({ s.dev with rxWrites := Tab.set [] s.dev.rxWrites k [] } : Dev).writeVa (linkAgent p h) false
              (f.addr - before.length) data).mem
          ∧ t.dev.queues = s.dev.queues ∧ t.dev.ports = s.dev.ports))
    ∧ (∀ (src : Sender) (pos : Fin 64) (bits : BitVec 6), s.dev.staleSender src = false →
      ∃ t, exec (.message p src (.linkState pos bits)) s = .next t ∧ t.pending = s.pending
        ∧ (∀ i, Tab.get 0 t.dev.linkState i = if i = pos.val then bits else Tab.get 0 s.dev.linkState i)
        ∧ t.dev.mem = s.dev.mem ∧ t.dev.holdings = s.dev.holdings)
    ∧ (∀ (src : Sender) (step : Word32) (ranges : List Nat) (v : MirrorServe), s.dev.serveAt src.device.toNat = some v →
      s.dev.staleSender src = false →
      let slot : Fin 2 := match v.complete with | some (0, _) => 1 | _ => 0
      ∃ t, exec (.message p src (.mirrorComplete src.device step ranges)) s = .next t ∧ t.pending = s.pending
        ∧ Tab.get none t.dev.serves src.device.toNat
            = some { v with complete := some (slot, step)
                            crcs := s.dev.rangeCrcs (farBase / 4096 + v.firstRegion * regionBlocks
                              + slot.val * (v.regions * regionBlocks / 2)) ranges }
        ∧ t.dev.mem = s.dev.mem)
    ∧ (∀ (src : Sender) (m : GotreMsg), s.dev.staleSender src = true → exec (.message p src m) s = .next s)
    ∧ (∀ (src : Sender) (origin : BitVec 16) (h : HoldId) (e : BitVec 16), origin ≠ s.dev.number → e ≠ 0 →
        s.dev.staleSender src = false → Tab.get 0 s.dev.notices (epochKey origin h.val) = 0 →
        (s.dev.knownEpoch origin h.val = 0 ∨ epochOlder e (s.dev.knownEpoch origin h.val) = false) →
      ∃ t, exec (.message p src (.abortFence origin h e)) s = .next t ∧ t.pending = s.pending
        ∧ t.dev.knownEpoch origin h.val = e ∧ t.dev.mem = s.dev.mem)
    ∧ (s.dev.numberValid = true →
      ∃ t, exec .linkStateTimer s = .next t ∧ t.pending = s.pending ∧ t.dev.linkSent = s.dev.ownLinks
        ∧ t.dev.mem = s.dev.mem ∧ t.dev.holdings = s.dev.holdings))
  ∧ (∀ s : State, s.dev.clocked = true → s.dev.isMaster = false →
    (((s.dev.reg (klxReg 0 0x304)).setWidth 4).toNat < 8 →
      let missed := if s.dev.time.exchanging then s.dev.time.missed + 1 else s.dev.time.missed
      ∃ t, exec .timeExchange s = .next t ∧ t.pending = s.pending
        ∧ t.dev.time.exchanging = true ∧ t.dev.time.missed = missed
        ∧ t.dev.time.state = (if 16 ≤ missed then 0 else s.dev.time.state)
        ∧ t.dev.dt = s.dev.dt ∧ t.dev.mem = s.dev.mem)
    ∧ (∀ t1 t2 t3 t4 : Int, s.dev.time.exchanging = true →
      let sum := (t2 - t1) - (t4 - t3)
      ∃ t, exec (.time t1 t2 t3 (.answer t4)) s = .next t ∧ t.pending = s.pending
        ∧ t.dev.time.exchanging = false ∧ t.dev.time.missed = 0
        ∧ (2 * t.dev.time.offset = sum ∨ 2 * t.dev.time.offset = sum - 1 ∨ 2 * t.dev.time.offset = sum + 1)
        ∧ ((∀ h : HoldId, (s.dev.holding h).state ≠ .enabled) → 16777216 < t.dev.time.offset.natAbs →
            t.dev.dt = s.dev.dt + BitVec.ofInt 64 (t.dev.time.offset / 16) ∧ t.dev.time.slew = 0 ∧ t.dev.time.state = 1
            ∧ t.dev.ctr (klxReg 0 0x318) = addStop64 (s.dev.ctr (klxReg 0 0x318)) 1
            ∧ t.dev.ctr (klxReg 0 0x310) = addStop64 (s.dev.ctr (klxReg 0 0x310)) (if s.dev.time.state = 2 then 1 else 0))
        ∧ ((∃ h : HoldId, (s.dev.holding h).state = .enabled) ∨ t.dev.time.offset.natAbs ≤ 16777216 →
            t.dev.dt = s.dev.dt ∧ t.dev.time.slew = t.dev.time.offset.tdiv 16)
        ∧ t.dev.mem = s.dev.mem))
  ∧ (∀ (s : State) (p : PortId) (t1 t2 t3 : Int), s.dev.clocked = true → s.dev.usable p = true →
    ∃ t, exec (.time t1 t2 t3 (.question p)) s = .next t ∧ t.pending = s.pending ∧ t.dev.time = s.dev.time ∧ t.dev.dt = s.dev.dt
      ∧ (s.dev.timeItem p (.timeAnswer t1 t2 t3) ∈ (t.dev.port p).queue
          ∨ ∃ lseq, Emit.flit p (s.dev.formFlit p lseq (s.dev.timeItem p (.timeAnswer t1 t2 t3))) ∈ t.dev.outbox)
      ∧ t.dev.mem = s.dev.mem)

/-- Ports train, fail after three attempts, and leave service with their lock, their cable or its supply. -/
def Obligations.PortsTrainAndLeaveService : Prop :=
  ∀ (s : State) (p : PortId),
    let q := s.dev.port p
    (s.dev.clocked = true → s.dev.mayTrain p = true →
      ((q.state = .training ∨ (q.state = .down ∧ q.failures = 0)) →
        (∀ (low high : BitVec 8) (peer : BitVec 16) (peerPort : Fin 8) (fabric : Bool),
          (low = 0 ∨ high = 0 → s.dev.rightPeer p peer peerPort fabric = true →
            ∃ t, exec (.portTraining p (.lanes (high ++ low) peer peerPort fabric)) s = .next t ∧ t.pending = s.pending
              ∧ (t.dev.port p).state = (if low = 0 ∧ high = 0 then .up else .degraded)
              ∧ (t.dev.port p).half = decide (low ≠ 0)
              ∧ (t.dev.port p).peer = peer ∧ (t.dev.port p).expect = 0
              ∧ (t.dev.port p).failures = 0 ∧ t.dev.mem = s.dev.mem)
          ∧ (low = 0 ∨ high = 0 → s.dev.rightPeer p peer peerPort fabric = false →
            ∃ t, exec (.portTraining p (.lanes (high ++ low) peer peerPort fabric)) s = .next t ∧ t.pending = s.pending
              ∧ (t.dev.port p).state = .miscabled ∧ t.dev.mem = s.dev.mem)
          ∧ (low ≠ 0 → high ≠ 0 →
            ∃ t, exec (.portTraining p (.lanes (high ++ low) peer peerPort fabric)) s = .next t ∧ t.pending = s.pending
              ∧ (t.dev.port p).state = (if 3 ≤ q.failures + 1 then .failed else .down)
              ∧ (t.dev.port p).failures = min (q.failures + 1) 3 ∧ t.dev.mem = s.dev.mem))
        ∧ (∃ t, exec (.portTraining p .noPeer) s = .next t ∧ t.pending = s.pending
            ∧ (t.dev.port p).state = .down ∧ (t.dev.port p).failures = 0 ∧ t.dev.mem = s.dev.mem)
        ∧ (∀ step : Fin 5,
          ∃ t, exec (.portTraining p (.failed step)) s = .next t ∧ t.pending = s.pending
            ∧ (t.dev.port p).state = (if 3 ≤ q.failures + 1 then .failed else .down)
            ∧ (t.dev.port p).failures = min (q.failures + 1) 3 ∧ t.dev.mem = s.dev.mem))
      ∧ (q.state = .down → q.failures ≠ 0 →
        ∃ t, exec (.trainingRetry p) s = .next t ∧ t.pending = s.pending ∧ (t.dev.port p).state = .training
          ∧ t.dev.mem = s.dev.mem))
    ∧ (s.dev.clocked = true → q.state.usable = true →
      ∃ t, exec (.lossOfLock p) s = .next t ∧ t.pending = s.pending ∧ (t.dev.port p).state = .training
        ∧ t.dev.mem = s.dev.mem)
    ∧ (∃ t, exec (.cablePresent p true) s = .next t ∧ t.pending = s.pending
        ∧ (t.dev.port p).cable = true ∧ (t.dev.port p).state = q.state ∧ t.dev.mem = s.dev.mem)
    ∧ (q.state ≠ .disabled → q.state ≠ .failed →
      (∃ t, exec (.cablePresent p false) s = .next t ∧ t.pending = s.pending
        ∧ (t.dev.port p).cable = false ∧ (t.dev.port p).state = .down ∧ t.dev.mem = s.dev.mem)
      ∧ (∃ t, exec (.cableOvercurrent p) s = .next t ∧ t.pending = s.pending
        ∧ (t.dev.port p).powerCut = true ∧ (t.dev.port p).state = .down ∧ t.dev.mem = s.dev.mem))

/-! ### The host and Gotre -/

/-- BAR4 reaches a served holding's memory, and completions of host reads land in their core, poisoned where they fail. -/
def Obligations.HostAperturesReachHoldingMemory : Prop :=
  ∀ s : State, s.dev.clocked = true →
    (∀ (f : FnId) (va : BitVec 52) (n : Nat),
      (holdingOfFn f = none ∨ (∃ h, holdingOfFn f = some h ∧ (s.dev.holding h).servesBar4 = false
          ∧ s.dev.inBar4 va.toNat n = true) →
        ∃ t, exec (.hostBar4Read f va n) s = .next t ∧ t.pending = s.pending
          ∧ t.dev.outbox = s.dev.outbox ++ [.bar4Status f .unsupported] ∧ t.dev.mem = s.dev.mem)
      ∧ (∀ h : HoldId, holdingOfFn f = some h → s.dev.inBar4 va.toNat n = false → exec (.hostBar4Read f va n) s = .next s)
      ∧ (∀ h : HoldId, holdingOfFn f = some h → (s.dev.holding h).servesBar4 = true → s.dev.inBar4 va.toNat n = true →
        let r := ({ dev := s.dev } : Run).read (ctlAgent h) va.toNat n
        r.2.wait = false →
        ∃ t, exec (.hostBar4Read f va n) s = .next t ∧ t.pending = s.pending
          ∧ t.dev.outbox = r.2.dev.outbox ++ [if r.2.faulted then .bar4Status f .abort else .bar4Data f r.1]
          ∧ t.dev.queues = s.dev.queues))
    ∧ (∀ (f : FnId) (va : BitVec 52) (data : List PByte) (h : HoldId), holdingOfFn f = some h →
      ((s.dev.holding h).servesBar4 = true → s.dev.inBar4 va.toNat data.length = true →
        ∃ t, exec (.hostBar4Write f va data) s = .next t ∧ t.pending = s.pending
          ∧ t.dev.mem = (s.dev.writeVa (ctlAgent h) false va.toNat data).mem ∧ t.dev.queues = s.dev.queues)
      ∧ ((s.dev.holding h).servesBar4 = false ∨ s.dev.inBar4 va.toNat data.length = false → exec (.hostBar4Write f va data) s = .next s))
    ∧ (∀ (tag : Nat) (r : HostRead), (s.dev.hostReads.find? fun q => q.tag == tag) = some r →
      (∀ data : List PByte, data.length = r.bytes →
        ∃ t, exec (.hostReadCompletion tag .ok data) s = .next t ∧ t.pending = s.pending
          ∧ t.dev.hostReads = s.dev.hostReads.filter (fun q => q != r)
          ∧ (∀ i < r.bytes, Tab.get none (t.dev.core r.core).hostBuf (r.addr + i) = data[i]?)
          ∧ t.dev.mem = s.dev.mem ∧ t.dev.ctrs = s.dev.ctrs)
      ∧ (∀ i : Instr, (i = .hostReadTimeout tag ∨ ∃ st data, st ≠ CplStatus.ok ∧ i = .hostReadCompletion tag st data) →
        ∃ t, exec i s = .next t ∧ t.pending = s.pending
          ∧ t.dev.hostReads = s.dev.hostReads.filter (fun q => q != r)
          ∧ (∀ j < r.bytes, (Tab.get none (t.dev.core r.core).hostBuf (r.addr + j)).map (·.poison) = some true)
          ∧ t.dev.ctr (regAt ctl 0x17010) = addStop64 (s.dev.ctr (regAt ctl 0x17010)) 1
          ∧ t.dev.mem = s.dev.mem))

/-- The watchdog restarts Gotre twice within 10 s and stops it the third time; a finished restart serves again. A
mailbox takes its tail, accepts the slots up to it in order, and posts a completion for each. -/
def Obligations.MailboxesServeAndTheWatchdogRestarts : Prop :=
  (∀ s : State, s.dev.gotre.stopped = false → s.dev.gotre.deviceState = .ready →
    let recent := (s.dev.gotre.restarts ++ [s.dev.dt]).filter fun t => decide ((s.dev.dt - t).toNat < tenSeconds)
    (s.dev.gotreRuns = true →
      ∃ t, exec .watchdogExpiry s = .next t ∧ t.pending = s.pending
        ∧ t.dev.gotre.up = false ∧ t.dev.gotre.restarts = recent ∧ t.dev.gotre.jobs = s.dev.gotre.jobs
        ∧ t.dev.reg (regAt kpr 0x100) = s.dev.reg (regAt kpr 0x100) ||| 1
        ∧ t.dev.gotre.stopped = decide (3 ≤ recent.length)
        ∧ t.dev.gotre.deviceState = (if 3 ≤ recent.length then .ended else .ready)
        ∧ t.dev.gotre.restartCount = s.dev.gotre.restartCount + 1
        ∧ t.dev.ctr (regAt ctl 0x18000) = addStop64 (s.dev.ctr (regAt ctl 0x18000)) 1
        ∧ t.dev.cores = s.dev.cores ∧ t.dev.queues = s.dev.queues ∧ t.dev.mem = s.dev.mem)
    ∧ (s.dev.gotre.up = false → s.dev.clocked = true → s.dev.copyGood = true →
      ∃ t, exec .gotreRestartComplete s = .next t ∧ t.pending = s.pending
        ∧ t.dev.gotre.up = true ∧ t.dev.gotre.jobs = s.dev.gotre.jobs
        ∧ t.dev.cores = s.dev.cores ∧ t.dev.queues = s.dev.queues ∧ t.dev.mem = s.dev.mem)
    ∧ (s.dev.copyGood = false → exec .gotreRestartComplete s = .next s))
  ∧ (∀ (s : State) (f : FnId) (m : MbId),
    let b := s.dev.box f m
    (s.dev.hostCut = false →
      (∀ v : Word32,
        ((v - b.acceptSeq).toNat ≤ ringSize b.cmdLog2 → (v - b.acceptSeq).toNat < 0x80000000 →
          ∃ t, exec (.gtrCmdTailWrite f m v) s = .next t ∧ t.pending = s.pending
            ∧ t.dev.box f m = { b with cmdTail := v } ∧ t.dev.gotre = s.dev.gotre)
        ∧ (ringSize b.cmdLog2 < (v - b.acceptSeq).toNat → exec (.gtrCmdTailWrite f m v) s = .next s)
        ∧ ((v - b.cplHead).toNat ≤ (b.cplNext - b.cplHead).toNat →
          ∃ t, exec (.gtrCplHeadWrite f m v) s = .next t ∧ t.pending = s.pending
            ∧ t.dev.box f m = { b with cplHead := v, cplFull := b.cplFull && v == b.cplHead } ∧ t.dev.gotre = s.dev.gotre)
        ∧ ((b.cplNext - b.cplHead).toNat < (v - b.cplHead).toNat →
          ∃ t, exec (.gtrCplHeadWrite f m v) s = .next t ∧ t.pending = s.pending ∧ t.dev.boxes = s.dev.boxes
            ∧ t.dev.ctr (regAt ctl 0x18020) = addStop64 (s.dev.ctr (regAt ctl 0x18020)) 1)
        ∧ (b.enable = false →
          let b1 : Mailbox := { b with cmdLog2 := v.extractLsb' 0 5, cplLog2 := v.extractLsb' 8 5 }
          ∃ t, exec (.gtrMbCfgWrite f m v) s = .next t ∧ t.pending = s.pending ∧ t.dev.gotre = s.dev.gotre
            ∧ t.dev.box f m = (if v.getLsbD 31 = false then b1
                else if b1.cfgGood then { b1 with enable := true, cfgBad := false, ringFault := false }
                else { b1 with cfgBad := true }))
        ∧ (b.enable = true → v.getLsbD 31 = false → (∃ j ∈ s.dev.gotre.jobs, j.fn = f ∧ j.mb = m) →
          ∃ t, exec (.gtrMbCfgWrite f m v) s = .next t ∧ t.pending = s.pending
            ∧ t.dev.box f m = { b with enable := false, closing := true } ∧ t.dev.gotre = s.dev.gotre)))
    ∧ (s.dev.boxServed f m = true → b.enable = true → b.closing = false → b.ringFault = false → b.acceptSeq ≠ b.cmdTail →
        s.dev.gotre.jobs.length < journalRoom →
      (∀ w : Word512,
        ∃ t, exec (.commandAccept f m (.data w)) s = .next t ∧ t.pending = s.pending
          ∧ t.dev.gotre.jobs = s.dev.gotre.jobs ++ [{ number := s.dev.gotre.nextJob, fn := f, mb := m, seq := b.acceptSeq
                                                      words := w, phase := .accepted, exempt := false, discard := false }]
          ∧ t.dev.gotre.nextJob = s.dev.gotre.nextJob + 1
          ∧ t.dev.box f m = { b with acceptSeq := b.acceptSeq + 1 }
          ∧ t.dev.ctr (regAt ctl 0x18008) = addStop64 (s.dev.ctr (regAt ctl 0x18008)) 1
          ∧ t.dev.outbox = s.dev.outbox ++ [.hostRead s.dev.hostTag
              (b.cmdBase + BitVec.ofNat 64 (b.acceptSeq.toNat % ringSize b.cmdLog2 * 64)).toNat 64]
          ∧ t.dev.holdings = s.dev.holdings ∧ t.dev.mem = s.dev.mem)
      ∧ (∃ t, exec (.commandAccept f m .bad) s = .next t ∧ t.pending = s.pending
        ∧ t.dev.box f m = { b with ringFault := true } ∧ t.dev.gotre = s.dev.gotre))
    ∧ (∀ c : Completion, s.dev.nextCompletion f m = some c → s.dev.boxServed f m = true →
      ((b.cplNext - b.cplHead).toNat < ringSize b.cplLog2 → b.closing = false →
        ∃ t, exec (.completionPost f m) s = .next t ∧ t.pending = s.pending
          ∧ t.dev.box f m = { b with cplNext := b.cplNext + 1, cplFull := false }
          ∧ t.dev.gotre.waiting = dropFirst c s.dev.gotre.waiting
          ∧ t.dev.outbox = s.dev.outbox ++
              [.completion (b.cplBase + BitVec.ofNat 64 (b.cplNext.toNat % ringSize b.cplLog2 * 32))
                (c.entry (decide (b.cplNext.toNat / ringSize b.cplLog2 % 2 = 0))), .msix f m.val]
          ∧ t.dev.mem = s.dev.mem)
      ∧ (ringSize b.cplLog2 ≤ (b.cplNext - b.cplHead).toNat →
        ∃ t, exec (.completionPost f m) s = .next t ∧ t.pending = s.pending
          ∧ t.dev.box f m = { b with cplFull := true } ∧ t.dev.gotre = s.dev.gotre ∧ t.dev.outbox = s.dev.outbox)))

/-- Doorbells and tail polling move a queue's tail within its ring; SKIP and RETRY restart a halted one; heads are reported. -/
def Obligations.QueuesTakeTailsAndReportHeads : Prop :=
  ∀ (s : State) (q : BitVec 16) (h : HoldId),
    let x := s.dev.queue q.toNat
    let st := if (s.dev.holding h).bindsQueue q.toNat then QueueState.bound else .ready
    x.holding = some h → x.state ≠ .free →
    (s.dev.hostCut = false → (s.dev.holding h).state = .enabled →
      (∀ tail : Word32, x.tailSrc = false →
        ((tail - x.accepted).toNat < 0x80000000 → (tail - x.recorded).toNat ≤ 2 ^ x.log2 →
          ∃ t, exec (.doorbellTail (vfOf h) q (.word (tail.setWidth 64))) s = .next t ∧ t.pending = s.pending
            ∧ t.dev.queue q.toNat = { x with accepted := tail }
            ∧ t.dev.ctr (regAt ctl 0x18018) = addStop64 (s.dev.ctr (regAt ctl 0x18018)) 1
            ∧ t.dev.cores = s.dev.cores ∧ t.dev.mem = s.dev.mem)
        ∧ (0x80000000 ≤ (tail - x.accepted).toNat ∨ 2 ^ x.log2 < (tail - x.recorded).toNat →
          ∃ t, exec (.doorbellTail (vfOf h) q (.word (tail.setWidth 64))) s = .next t ∧ t.pending = s.pending
            ∧ t.dev.queues = s.dev.queues
            ∧ t.dev.ctr (regAt ctl 0x18020) = addStop64 (s.dev.ctr (regAt ctl 0x18020)) 1))
      ∧ (∀ (f : FnId) (offset bytes : Nat),
        ∃ t, exec (.doorbellTail f q (.misfit offset bytes)) s = .next t ∧ t.pending = s.pending
          ∧ t.dev.queues = s.dev.queues ∧ t.dev.mem = s.dev.mem
          ∧ t.dev.ctr (regAt ctl 0x18020) = addStop64 (s.dev.ctr (regAt ctl 0x18020)) 1)
      ∧ (x.state = .halted →
        (∃ t, exec (.doorbellSkip (vfOf h) q) s = .next t ∧ t.pending = s.pending
          ∧ t.dev.queue q.toNat = { x with state := st, skip := some x.refused }
          ∧ t.dev.cores = s.dev.cores ∧ t.dev.mem = s.dev.mem)
        ∧ (∃ t, exec (.doorbellRetry (vfOf h) q) s = .next t ∧ t.pending = s.pending
          ∧ t.dev.queue q.toNat = { x with state := st, skip := none }
          ∧ t.dev.cores = s.dev.cores ∧ t.dev.mem = s.dev.mem)))
    ∧ (s.dev.clocked = true → x.tailSrc = true → (s.dev.holding h).state = .enabled →
      let r := ({ dev := s.dev } : Run).read { ctlAgent h with cls := .latency } x.tailVa 4
      let e := joinBytes r.1
      r.2.wait = false → e.poison = false →
      (BitVec.ofNat 32 e.bits - x.accepted).toNat < 0x80000000 → (BitVec.ofNat 32 e.bits - x.recorded).toNat ≤ 2 ^ x.log2 →
      ∃ t, exec (.tailPoll q) s = .next t ∧ t.pending = s.pending
        ∧ t.dev.queue q.toNat = { x with accepted := BitVec.ofNat 32 e.bits } ∧ t.dev.cores = s.dev.cores)
    ∧ (s.dev.clocked = true → (x.unreported ≠ 0 ∨ s.dev.headWord q.toNat h ≠ x.reported) →
        s.dev.writeWaits (ctlAgent h) x.headVa 8 = false →
      let w := s.dev.headWord q.toNat h
      ∃ t, exec (.headReport q) s = .next t ∧ t.pending = s.pending
        ∧ t.dev.queue q.toNat = { x with unreported := 0, reported := w }
        ∧ t.dev.mem = ((s.dev.modQueue q.toNat fun y => { y with unreported := 0, reported := w }).writeVa (ctlAgent h) false
            x.headVa ((leBytes 8 w.toNat).map fun v => ⟨v, false⟩)).mem
        ∧ t.dev.cores = s.dev.cores)

/-- Functions shut down, abort with their next epoch, and come to DISABLED; resets clear their mailboxes. -/
def Obligations.FunctionsShutDownAndAbort : Prop :=
  ∀ (s : State) (h : HoldId),
    let x := s.dev.holding h
    (s.dev.clocked = true → x.state = .shuttingDown → s.dev.queuesBusy h = false → s.dev.flitsOut h = false →
        s.dev.boxBusy h = false → (∀ d, x.drainEnd = some d → reached s.dev.dt d = false) →
      ∃ t, exec (.shutdownComplete h) s = .next t ∧ t.pending = s.pending
        ∧ (t.dev.holding h).state = (if x.pendingEnable && !x.sweep then .enabled else .disabled)
        ∧ (t.dev.holding h).disables = [] ∧ (t.dev.holding h).epoch = x.epoch ∧ t.dev.mem = s.dev.mem)
    ∧ (∀ d : Word64, s.dev.clocked = true → x.state = .shuttingDown → x.drainEnd = some d →
      ∃ t, exec (.drainTimeout h) s = .next t ∧ t.pending = s.pending
        ∧ (t.dev.holding h).state = .aborting ∧ (t.dev.holding h).epoch = nextEpoch x.epoch
        ∧ t.dev.dt = (s.dev.advanceTo d).dt ∧ t.dev.mem = s.dev.mem)
    ∧ (∀ f : FnId, (f = 0 ∨ f = vfOf h) → s.dev.pcieUp = true → s.dev.fullSurvey = false →
        s.dev.gotre.deviceState ≠ .ended →
      (x.state = .disabled ∨ x.state = .enabled ∨ x.state = .shuttingDown →
        ∃ t, exec (.gtrAbort f h (x.epoch.setWidth 32)) s = .next t ∧ t.pending = s.pending
          ∧ (t.dev.holding h).state = .aborting ∧ (t.dev.holding h).epoch = nextEpoch x.epoch
          ∧ (t.dev.holding h).events = [] ∧ (t.dev.holding h).batches = []
          ∧ (∀ g ∈ t.dev.gate, g.owner ≠ .holding h) ∧ (∀ p ∈ t.dev.pend, p.owner ≠ .holding h)
          ∧ t.dev.mem = s.dev.mem ∧ t.dev.tags = s.dev.tags)
      ∧ (∀ v : Word32, v ≠ x.epoch.setWidth 32 → exec (.gtrAbort f h v) s = .next s))
    ∧ (s.dev.clocked = true → x.state = .aborting → x.pendingEnable = false →
      ∃ t, exec (.abortComplete h) s = .next t ∧ t.pending = s.pending
        ∧ (t.dev.holding h).state = .disabled ∧ (t.dev.holding h).abortDone = true ∧ (t.dev.holding h).epoch = x.epoch
        ∧ (∀ n ∈ s.dev.queuesOf h, (t.dev.queue n).state = .fenced) ∧ t.dev.mem = s.dev.mem)
    ∧ (s.dev.clocked = true → x.sweep = true → x.state ≠ .aborting → x.pendingEnable = false →
      ∃ t, exec (.epochSweepDone h) s = .next t ∧ t.pending = s.pending ∧ (t.dev.holding h).sweep = false
        ∧ (∀ b g, Tab.get none s.dev.tags b = some g → g.owner = .holding h → (t.dev.tag b).epoch = 0)
        ∧ t.dev.mem = s.dev.mem)
    ∧ (s.dev.pcieUp = true →
      (s.dev.fullSurvey = false → x.state = .disabled ∨ x.state = .enabled ∨ x.state = .shuttingDown →
        ∃ t, exec (.vfFlr h) s = .next t ∧ t.pending = s.pending
          ∧ (∀ m : MbId, t.dev.box (vfOf h) m = {}) ∧ (t.dev.holding h).state = .aborting
          ∧ (t.dev.holding h).epoch = nextEpoch x.epoch ∧ t.dev.mem = s.dev.mem)
      ∧ (∃ t, exec .pfFlr s = .next t ∧ t.pending = s.pending
          ∧ (∀ m : MbId, t.dev.box 0 m = {}) ∧ (∀ j ∈ t.dev.gotre.jobs, j.fn = 0 → j.discard = true)
          ∧ t.dev.holdings = s.dev.holdings ∧ t.dev.mem = s.dev.mem))

/-! ### Gotre's commands -/

/-- The queries answer with their reports, cut to the block. -/
def Obligations.QueriesAnswerWithTheirReports : Prop :=
  ∀ (s : State) (n : Nat) (j : Job), j.blockAddr.setWidth 6 = (0 : BitVec 6) →
    (s.dev.jobReady n 0x0001 j →
      ∃ t, exec (.deviceQuery n) s = .next t ∧ t.pending = s.pending ∧ s.dev.reported t.dev j (s.dev.deviceReport j.fn))
    ∧ (s.dev.jobReady n 0x0002 j →
      ∃ t, exec (.capsQuery n) s = .next t ∧ t.pending = s.pending
        ∧ s.dev.reported t.dev j (s.dev.capsReport ((Config.freeValue s.dev.free).getLsbD 0)))
    ∧ (s.dev.jobReady n 0x0090 j →
      ∃ t, exec (.attest n) s = .next t ∧ t.pending = s.pending
        ∧ s.dev.reported t.dev j (s.dev.attestation (j.param 255 0)))
    ∧ (s.dev.jobReady n 0x0091 j →
      ∃ t, exec (.identityGet n) s = .next t ∧ t.pending = s.pending ∧ s.dev.reported t.dev j certificateChain)
    ∧ (∀ r : StepRecord, s.dev.jobReady n 0x00C0 j → j.param 7 0 < 8 →
        seesHolding j.fn (Fin.ofNat 8 (j.param 7 0)) = true →
        (s.dev.holding (Fin.ofNat 8 (j.param 7 0))).recordFor (j.param 39 8) = some r →
      ∃ t, exec (.telemetryRead n) s = .next t ∧ t.pending = s.pending ∧ s.dev.reported t.dev j r.bytes)
    ∧ (∀ h : HoldId, s.dev.jobReady n 0x00C0 j → j.param 7 0 = h.val → seesHolding j.fn h = false →
      ∃ t, exec (.telemetryRead n) s = .next t ∧ t.pending = s.pending ∧ t.dev.answered j .notPermitted 0
        ∧ t.dev.outbox = s.dev.outbox)
    ∧ (s.dev.jobReady n 0x00C0 j →
        (8 ≤ j.param 7 0 ∨ (seesHolding j.fn (Fin.ofNat 8 (j.param 7 0)) = true
          ∧ (s.dev.holding (Fin.ofNat 8 (j.param 7 0))).recordFor (j.param 39 8) = none)) →
      ∃ t, exec (.telemetryRead n) s = .next t ∧ t.pending = s.pending ∧ t.dev.answered j .badParameter 0
        ∧ t.dev.outbox = s.dev.outbox)

/-- Holdings open over free units, close with the next epoch, and their functions are enabled, disabled and aborted. -/
def Obligations.HoldingsOpenCloseAndChangeState : Prop :=
  ∀ (s : State) (n : Nat) (j : Job) (h : HoldId), j.holding? = some h →
    let x := s.dev.holding h
    (s.dev.jobReady n 0x0010 j → x.state = .closed →
        (∀ c < 256, j.words.getLsbD (192 + c) = true → s.dev.coreFree (Fin.ofNat 256 c) = true) →
        j.param 266 256 ≤ (s.dev.freeRegions 0).length → j.param 276 267 ≤ (s.dev.freeRegions 1).length →
        (allHoldings.map fun k => if (s.dev.holding k).state == .closed then 0 else (s.dev.holding k).queueLimit).sum
          + j.param 293 277 ≤ 65536 →
      ∃ t, exec (.holdingOpen n) s = .next t ∧ t.pending = s.pending ∧ t.dev.answered j .ok 0
        ∧ (t.dev.holding h).state = .disabled ∧ (t.dev.holding h).epoch = x.epoch
        ∧ (t.dev.holding h).cores = (List.range 256).filter (fun c => j.words.getLsbD (192 + c))
        ∧ (t.dev.holding h).queueLimit = j.param 293 277
        ∧ (t.dev.holding h).nearRegions.length = j.param 266 256 ∧ (t.dev.holding h).farRegions.length = j.param 276 267
        ∧ (∀ r ∈ (t.dev.holding h).nearRegions, r ∈ s.dev.freeRegions 0)
        ∧ (∀ r ∈ (t.dev.holding h).farRegions, r ∈ s.dev.freeRegions 1)
        ∧ t.dev.mem = s.dev.mem ∧ t.dev.tags = s.dev.tags)
    ∧ (s.dev.jobReady n 0x0011 j → x.state = .disabled →
      (∀ d : Dev, s.dev.headsFree h = some d →
        ∃ t, exec (.holdingClose n) s = .next t ∧ t.pending = s.pending ∧ t.dev.answered j .ok 0
          ∧ (t.dev.holding h).state = .closed ∧ (t.dev.holding h).epoch = nextEpoch x.epoch
          ∧ (∀ q ∈ s.dev.queuesOf h, (t.dev.queue q).state = .free) ∧ (∀ b, (t.dev.tag b).owner ≠ .holding h)
          ∧ t.dev.mem = d.mem)
      ∧ (s.dev.headsFree h = none → exec (.holdingClose n) s = .next s))
    ∧ (s.dev.jobReady n 0x0012 j → x.state = .disabled → x.sweep = false →
      ∃ t, exec (.functionEnable n) s = .next t ∧ t.pending = s.pending ∧ t.dev.answered j .ok 0
        ∧ (t.dev.holding h).state = .enabled ∧ (t.dev.holding h).epoch = x.epoch ∧ (t.dev.holding h).keyLocked = true
        ∧ (∀ q ∈ s.dev.queuesOf h, (s.dev.queue q).state = .ready →
            (t.dev.queue q).state = if x.bindsQueue q then .bound else .ready)
        ∧ t.dev.mem = s.dev.mem ∧ t.dev.tags = s.dev.tags)
    ∧ (s.dev.jobReady n 0x0013 j → x.state = .enabled →
      ∃ t, exec (.functionDisable n) s = .next t ∧ t.pending = s.pending
        ∧ (t.dev.holding h).state = .shuttingDown ∧ (t.dev.holding h).disables = [n]
        ∧ (t.dev.holding h).drainEnd
            = some (s.dev.dt + BitVec.ofNat 64 ((if j.param 13 0 = 0 then 100 else j.param 13 0) * 940000))
        ∧ (∃ k, t.dev.job n = some k ∧ k.phase = .running) ∧ (t.dev.holding h).epoch = x.epoch
        ∧ t.dev.mem = s.dev.mem ∧ t.dev.queues = s.dev.queues)
    ∧ (s.dev.jobReady n 0x0014 j → x.state = .disabled ∨ x.state = .enabled ∨ x.state = .shuttingDown →
      ∃ t, exec (.functionAbort n) s = .next t ∧ t.pending = s.pending
        ∧ (t.dev.holding h).state = .aborting ∧ (t.dev.holding h).epoch = nextEpoch x.epoch
        ∧ (n, Status.ok) ∈ (t.dev.holding h).settled ∧ t.dev.mem = s.dev.mem ∧ t.dev.tags = s.dev.tags)

/-- Mappings enter and leave the page table, and queues are created READY and destroyed. -/
def Obligations.MappingsAndQueuesAreCommanded : Prop :=
  ∀ (s : State) (n : Nat) (j : Job) (h : HoldId), j.holding? = some h →
    let x := s.dev.holding h
    (s.dev.jobReady n 0x0030 j → x.sweep = false → s.dev.tablesQuiet h = false →
      let va := j.param 51 0
      let host := j.param 115 52
      let bytes := j.param 157 116
      let level := j.param 159 158
      let target := j.param 161 160
      let size := pageBytes level
      let enter := fun (d : Dev) fs => d.addPages h level target (decide (j.param 162 162 = 1))
        (decide (j.param 163 163 = 1)) (decide (j.param 164 164 = 1)) va fs
      let hosts := (List.range (bytes / size)).map fun i => host / 4096 + i * (size / 4096)
      level < 3 → target < 3 → bytes ≠ 0 → va % size = 0 → bytes % size = 0 → va + bytes ≤ 2 ^ 52 →
      (∀ d : Dev, target = 2 → (∀ p ∈ s.dev.pageList h, p.touches va bytes = false) → host % size = 0 →
          host + bytes ≤ 2 ^ 64 → enter s.dev hosts = some d →
        ∃ t, exec (.mapMemory n) s = .next t ∧ t.pending = s.pending ∧ t.dev.answered j .ok 0
          ∧ (t.dev.holding h).root = (d.holding h).root ∧ (t.dev.holding h).tables = (d.holding h).tables
          ∧ t.dev.tags = d.tags ∧ t.dev.mem = d.mem)
      ∧ (∀ d : Dev, let old := (s.dev.pageList h).filter fun p => p.touches va bytes
         target = 2 → host % size = 0 → host + bytes ≤ 2 ^ 64 → old ≠ [] → j.param 165 165 = 1 →
          (∀ p ∈ old, p.inside va bytes = true) → s.dev.quiet h = true →
          enter ((s.dev.dropPages h old).nextGeneration h) hosts = some d →
        ∃ t, exec (.mapMemory n) s = .next t ∧ t.pending = s.pending ∧ t.dev.answered j .ok 0
          ∧ (t.dev.holding h).root = (d.holding h).root ∧ (t.dev.holding h).tables = (d.holding h).tables
          ∧ (∀ q ∈ t.dev.xlat, q.holding ≠ h)
          ∧ (t.dev.holding h).generation = x.generation + 1 ∧ t.dev.mem = d.mem)
      ∧ (∀ (fs : List Nat) (d d' : Dev), target ≠ 2 → (∀ p ∈ s.dev.pageList h, p.touches va bytes = false) →
          s.dev.pickFrames x target (size / 4096) (bytes / size) (s.dev.framesUsed h) = (some fs, d) →
          enter d fs = some d' →
        ∃ t, exec (.mapMemory n) s = .next t ∧ t.pending = s.pending ∧ t.dev.answered j .ok 0
          ∧ (t.dev.holding h).root = (d'.holding h).root ∧ (t.dev.holding h).tables = (d'.holding h).tables
          ∧ (∀ f ∈ fs, ∀ i < size / 4096, (t.dev.tag (f + i)).owner = .holding h ∧ (t.dev.tag (f + i)).epoch = x.epoch)
          ∧ t.dev.mem = d'.mem))
    ∧ (s.dev.jobReady n 0x0031 j → s.dev.tablesQuiet h = false →
      let va := j.param 51 0
      let bytes := j.param 93 52
      let old := (s.dev.pageList h).filter fun p => p.touches va bytes
      bytes ≠ 0 → (∀ p ∈ old, p.inside va bytes = true) → (old.map (·.size)).sum = bytes → s.dev.quiet h = true →
      ∃ t, exec (.unmapMemory n) s = .next t ∧ t.pending = s.pending ∧ t.dev.answered j .ok 0
        ∧ t.dev.mem = (old.foldl (fun d p => d.clearEntry h p) s.dev).mem
        ∧ (∀ p ∈ old, pteTarget p.entry < 2 → ∀ i < p.size / 4096,
            (t.dev.tag (pteFrame p.entry + i)).owner = .unassigned)
        ∧ (∀ q ∈ t.dev.xlat, q.holding ≠ h)
        ∧ (t.dev.holding h).generation = x.generation + 1)
    ∧ (s.dev.jobReady n 0x0020 j →
      let ring := j.param 51 0
      let head := j.param 103 52
      let tail := j.param 155 104
      let log2 := j.param 160 156
      let src := decide (j.param 161 161 = 1)
      6 ≤ log2 → log2 ≤ 20 → ring % 4096 = 0 → head % 8 = 0 → (src = true → tail % 4 = 0) →
      (s.dev.queuesOf h).length < x.queueLimit →
      (src = true → (s.dev.queues.filter fun q => q.2.state != .free && q.2.tailSrc).length < 256) →
      s.dev.mapped h ring (64 * 2 ^ log2) false = true → s.dev.mapped h head 8 true = true →
      (src = true → s.dev.mapped h tail 4 false = true) → (∃ q < 65536, (s.dev.queue q).state = .free) →
      ∃ t k, exec (.queueCreate n) s = .next t ∧ t.pending = s.pending ∧ k < 65536 ∧ (s.dev.queue k).state = .free
        ∧ t.dev.answered j .ok (resultOf k 0 0 0)
        ∧ t.dev.queue k = { state := .ready, holding := some h, ringVa := ring, headVa := head, tailVa := tail, log2 := log2
                            tailSrc := src }
        ∧ (∀ q, q ≠ k → t.dev.queue q = s.dev.queue q) ∧ t.dev.mem = s.dev.mem)
    ∧ (s.dev.jobReady n 0x0021 j →
      let q := s.dev.queue (j.param 15 0)
      q.state ≠ .free → q.holding = some h →
      (∀ d : Dev, x.stageNaming (j.param 15 0) = none → s.dev.headFree (j.param 15 0) h = some d →
        ∃ t, exec (.queueDestroy n) s = .next t ∧ t.pending = s.pending ∧ t.dev.answered j .ok 0
          ∧ (t.dev.queue (j.param 15 0)).state = .free
          ∧ (∀ k, k ≠ j.param 15 0 → t.dev.queue k = s.dev.queue k) ∧ t.dev.mem = d.mem)
      ∧ (x.stageNaming (j.param 15 0) = none → s.dev.headFree (j.param 15 0) h = none →
        exec (.queueDestroy n) s = .next s)
      ∧ (∀ g, x.stageNaming (j.param 15 0) = some g →
        ∃ t, exec (.queueDestroy n) s = .next t ∧ t.pending = s.pending
          ∧ t.dev.answered j .busyConflict (resultOf g 0 0 0) ∧ t.dev.queues = s.dev.queues))

/-- Table commands wait for the boundary: what they change stands behind the writes accepted before. -/
def Obligations.TableCommandsWaitForTheBoundary : Prop :=
  ∀ (s : State) (n : Nat) (j : Job) (h : HoldId) (blk : BlockRead) (b : Block), j.holding? = some h →
    let x := s.dev.holding h
    let w := b.fixed
    (s.dev.jobReady n 0x0040 j → j.block ⟨1, 5, 8⟩ blk = .ok b →
      ((∃ q ∈ s.dev.queuesOf h, (s.dev.queue q).accepted ≠ (s.dev.queue q).recorded) →
        ∃ t, exec (.programLoad n blk) s = .next t ∧ t.pending = s.pending ∧ t.dev.answered j .wrongState 0
          ∧ t.dev.holdings = s.dev.holdings)
      ∧ ((∀ q ∈ s.dev.queuesOf h, (s.dev.queue q).accepted = (s.dev.queue q).recorded) → x.loadBad b = false →
        ∃ t, exec (.programLoad n blk) s = .next t ∧ t.pending = s.pending
          ∧ (∀ k, t.dev.job n = some k → k.phase = .done))
      ∧ ((∀ q ∈ s.dev.queuesOf h, (s.dev.queue q).accepted = (s.dev.queue q).recorded) → x.loadBad b = true →
        ∃ t, exec (.programLoad n blk) s = .next t ∧ t.pending = s.pending ∧ t.dev.answered j .badParameter 0
          ∧ t.dev.holdings = s.dev.holdings)
      ∧ (∀ (ks : List Counter) (d : Dev),
          (∀ q ∈ s.dev.queuesOf h, (s.dev.queue q).accepted = (s.dev.queue q).recorded) → x.loadBad b = false →
          x.poisonUsed = false →
          s.dev.placeCounters ((dedup (x.cores.map (· / 8))).filter fun k => !(s.dev.die k).fenced) (s.dev.tallyUse h)
            ((b.list2.filter fun r => wd r 0 == 0).map fun r => (wd r 1, wd r 2, wd r 3)) = (some ks, d) →
        ∃ t, exec (.programLoad n blk) s = .next t ∧ t.pending = s.pending ∧ t.dev.answered j .ok 0
          ∧ (t.dev.holding h).step = BitVec.ofNat 32 (wd w 0)
          ∧ (t.dev.holding h).counters = ks.map Counter.clear
          ∧ (t.dev.holding h).groups = (b.list2.filter fun r => wd r 0 != 0).map (fun r =>
              { number := wd r 1, ring := wd r 0 == 2, cores := (memberBytes r).take (wd r 2) })
          ∧ (t.dev.holding h).events = [] ∧ (t.dev.holding h).batches = []
          ∧ (t.dev.holding h).reduces = (x.reduces.filter fun q => q.ahead != 0).map (fun q => { q with ahead := q.ahead - 1 })
          ∧ (x.waiting = [] → (t.dev.holding h).entries = [] ∧ (t.dev.holding h).hypers = [])))
    ∧ (s.dev.jobReady n 0x0041 j → j.block ⟨0, 17, 5⟩ blk = .ok b →
      let gs := b.list1.map stageOfWords
      let rows := b.list2.map rowGroupOf
      s.dev.stagesBad h gs rows = false →
      (∀ g ∈ gs, s.dev.mappedRw h g.logVa 4096 = true ∧ (0 < g.gradCount → s.dev.mappedRw h g.gradHome (g.gradCount * 65536) = true)) →
      (∀ g ∈ x.stages, g.runsOn.isSome = true) →
      ∃ t, exec (.stageTableSet n blk) s = .next t ∧ t.pending = s.pending
        ∧ s.dev.tableAccepted t.dev h j [.stages gs rows] ∧ t.dev.mem = s.dev.mem)
    ∧ (∀ (bs : List PByte) (d : Dev), s.dev.jobReady n 0x0050 j →
      let group := j.param 7 0
      let count := j.param 24 8
      let ms := numbersOf 2 bs
      2 ≤ count → count ≤ 65536 → s.dev.listReady h (j.param 76 25) (2 * count) bs d →
      repeats ms = false → ms.contains s.dev.number.toNat = true →
      ((x.ahead.collectives.filter fun k => k.1 != group).map fun k => ((k.2.map (·.members.length)).getD 0)).sum + count
        ≤ 131072 →
      ∃ t, exec (.collectiveGroupCreate n) s = .next t ∧ t.pending = s.pending
        ∧ d.tableAccepted t.dev h j [.collective group (ms.map (BitVec.ofNat 16))])
    ∧ (∀ k : Collective, s.dev.jobReady n 0x0051 j → j.block ⟨15, 0, 0⟩ blk = .ok b →
      Tab.get none x.ahead.collectives (wd w 0) = some k → policyBad w k = false → wd w 5 = 0 →
      s.dev.policyDenied h (policyOf w) k = false →
      ∃ t, exec (.reductionPolicySet n blk) s = .next t ∧ t.pending = s.pending
        ∧ s.dev.tableAccepted t.dev h j [.policy (wd w 1) (policyOf w)] ∧ t.dev.mem = s.dev.mem)
    ∧ (∀ (k : Collective) (bs : List PByte) (d : Dev), s.dev.jobReady n 0x0051 j → j.block ⟨15, 0, 0⟩ blk = .ok b →
      Tab.get none x.ahead.collectives (wd w 0) = some k → policyBad w k = false → wd w 5 = 1 →
      s.dev.listReady h (wd w 7) (2 * wd w 6) bs d →
      let as := numbersOf 2 bs
      let p : Policy := { policyOf w with anchors := as }
      (∀ a ∈ as, a < k.members.length) → (∀ q ∈ as.zip (as.drop 1), q.1 < q.2) →
      d.policyDenied h p k = false →
      ∃ t, exec (.reductionPolicySet n blk) s = .next t ∧ t.pending = s.pending
        ∧ d.tableAccepted t.dev h j [.policy (wd w 1) p])
    ∧ (∀ (bs : List PByte) (d : Dev), s.dev.jobReady n 0x0060 j → j.block ⟨7, 8, 0⟩ blk = .ok b → expertsBad w b.list1 = false →
      s.dev.listReady h (wd w 5) (8 * wd w 1) bs d →
      let es := (numbersOf 8 bs).map expertOf
      let qs := b.list1.map (homeQueueOf (wd w 0))
      let others := x.ahead.queues.filter fun q => q.layer != wd w 0
      let home := (es.filter fun e => e.home == s.dev.number).map (·.global.toNat)
      (∀ v ∈ numbersOf 8 bs, v < 2 ^ 32) → repeats (es.map (·.global.toNat)) = false → repeats (qs.map (·.queue)) = false →
      repeats (qs.map (·.global.toNat)) = false → (∀ o ∈ others, ∀ q ∈ qs, q.queue ≠ o.queue ∧ q.global ≠ o.global) →
      (∀ q ∈ qs, home.contains q.global.toNat = true) → qs.length = home.length →
      (allHoldings.map fun k => if k = h then others.length + qs.length else (s.dev.holding k).ahead.queues.length).sum ≤ 4096 →
      (∀ q ∈ qs, s.dev.queueDenied h (wd w 3 * 32) (wd w 6) q = false) →
      ∃ t, exec (.expertTableSet n blk) s = .next t ∧ t.pending = s.pending
        ∧ d.tableAccepted t.dev h j
            [.experts (wd w 0) { overflow := wd w 2, rowSectors := wd w 3, ansSectors := wd w 4, experts := es } qs (wd w 6)])
    ∧ (∀ (bs : List PByte) (d : Dev), s.dev.jobReady n 0x0061 j →
      let first := j.param 11 0
      let count := j.param 24 12
      let es := (numbersOf 4 bs).zip (List.range count)
      count ≠ 0 → count ≤ 4096 → s.dev.listReady h (j.param 76 25) (4 * count) bs d →
      (∀ e ∈ es, ∃ q, (x.ahead.queues.find? fun q => q.queue == first + e.2) = some q
        ∧ e.1 % 65536 ≤ q.queueRows ∧ e.1 / 65536 ≤ q.spillRows) →
      ∃ t, exec (.capacitySet n) s = .next t ∧ t.pending = s.pending
        ∧ d.tableAccepted t.dev h j (es.map fun e => .capacity (first + e.2) (e.1 % 65536) (e.1 / 65536)))
    ∧ (s.dev.jobReady n 0x0063 j → j.block ⟨1, 22, 8⟩ blk = .ok b →
      let es := b.list1.map fun r => (wd r 0, if wd r 1 == 1 then some (entryOf r) else none)
      let ss := b.list2.map fun r => (wd r 0, hyperOf r)
      let u : TableWrite := .update (if wd w 0 = 0 then none else some (wd w 0)) es ss
      wd w 0 < 2 ^ 52 → (∀ r ∈ b.list1, updateBad x.ahead r = false) → entriesOverlap (x.ahead.applyWrite u).entries = false →
      (∀ r ∈ b.list2, wd r 0 ≤ 63 ∧ words32 r [1, 2, 3, 4, 5, 6, 7] = true) →
      (∀ e ∈ es, ∀ v, e.2 = some v → s.dev.entryDenied h v = false) → (wd w 0 ≠ 0 → s.dev.mapped h (wd w 0) 8192 true = true) →
      ∃ t, exec (.updateTableSet n blk) s = .next t ∧ t.pending = s.pending
        ∧ s.dev.tableAccepted t.dev h j [u] ∧ t.dev.mem = s.dev.mem)
    ∧ (∀ (bs : List PByte) (d : Dev), s.dev.jobReady n 0x00D0 j → j.block ⟨6, 0, 0⟩ blk = .ok b →
      wd w 0 ≤ 255 → (Tab.get none x.collectives (wd w 0)).isSome = true → wd w 1 ≤ 65535 → wd w 2 ≠ 0 → wd w 2 < 2 ^ 32 →
      wd w 3 ≤ 1 → wd w 4 ≤ 256 → wd w 5 < 2 ^ 52 → s.dev.listReady h (wd w 5) (16 * wd w 4) bs d →
      let rs := (cutWords 2 (wd w 4) (numbersOf 8 bs)).map digestRange
      (∀ r ∈ rs, r.2.2 % 4096 = 0 ∧ r.2.2 < 2 ^ 52 ∧ s.dev.mapped h r.2.2 (4096 * r.2.1) false = true) →
      ∃ t, exec (.digestPolicySet n blk) s = .next t ∧ t.pending = s.pending
        ∧ d.tableAccepted t.dev h j
            [.digest { group := wd w 0, every := wd w 1, window := wd w 2, reportOnly := wd w 3 == 1, ranges := rs }])

/-- MASK_LOAD writes the planes of a mask and waits with its entry; a mask that breaks its pattern is refused.
Checkpoint mirrors are served, sent, restored and released. -/
def Obligations.MasksAndMirrorsAreCommanded : Prop :=
  (∀ (s : State) (n : Nat) (j : Job) (h : HoldId) (blk : BlockRead) (b : Block) (bs sb : List PByte) (d e : Dev),
    j.holding? = some h → s.dev.jobReady n 0x0062 j → j.block ⟨10, 0, 0⟩ blk = .ok b →
    let w := b.fixed
    let p := maskP (wd w 1)
    let patches := wd w 2 / p * (wd w 3 / p)
    let plane := patches * if wd w 1 = 1 then 3 else 16
    let m : MaskSource := { kind := wd w 1, rows := wd w 2, cols := wd w 3, bits := leNat (bs.map (·.val)) }
    let src := wd w 5
    let f := fmtD (wd w 6)
    let srcBytes := if src = 0 then 0 else wd w 2 * rowBytes f (wd w 3)
    maskBad w = false → s.dev.mapped h src srcBytes false = true →
    (src ≠ 0 → s.dev.mapped h (wd w 7) (rowBytes f (patches * p * maskN (wd w 1))) true = true) →
    s.dev.mapped h (wd w 8) plane true = true → s.dev.mapped h (wd w 9) plane true = true →
    s.dev.listReady h (wd w 4) (ceilDiv (wd w 2 * wd w 3) 8) bs d →
    (∀ r, m.fault = some r →
      ∃ t, exec (.maskLoad n blk) s = .next t ∧ t.pending = s.pending ∧ t.dev.answered j .formatFault r
        ∧ (t.dev.holding h).waiting = (d.holding h).waiting)
    ∧ (m.fault = none → d.readList h src srcBytes = some (sb, e) →
      ∃ t, exec (.maskLoad n blk) s = .next t ∧ t.pending = s.pending
        ∧ t.dev.answered j .ok (resultOf (if src = 0 then 0 else (m.values f sb).2) 0 0 0)
        ∧ (t.dev.holding h).waiting = (e.holding h).waiting ++
            [.mask (wd w 0) { kind := wd w 1, rows := wd w 2, cols := wd w 3
                              kept := m.slots.map fun q => q.1 * wd w 3 + q.2
                              valVa := wd w 7, rowPlaneVa := wd w 8, colPlaneVa := wd w 9 }]))
  ∧ (∀ (s : State) (n : Nat) (j : Job) (h : HoldId) (blk : BlockRead) (b : Block),
    j.holding? = some h → s.dev.jobReady n 0x00E0 j → j.block ⟨6, 2, 0⟩ blk = .ok b →
    let w := b.fixed
    let rs := b.list1.map fun r => (wd r 0, wd r 1)
    let x := s.dev.holding h
    wd w 1 ≤ 65535 → wd w 2 ≤ 65535 →
    (wd w 0 = 0 → j.fn = 0 → wd w 1 ≠ s.dev.number.toNat → wd w 5 ≠ 0 → wd w 4 ≠ 0 → wd w 4 + wd w 5 ≤ 768 →
        s.dev.serveAt (wd w 1) = none → (∀ i < wd w 5, (s.dev.freeRegions 1).contains (wd w 4 + i) = true) →
      ∃ t, exec (.mirrorServe n blk) s = .next t ∧ t.pending = s.pending ∧ t.dev.answered j .ok 0
        ∧ t.dev.serveAt (wd w 1)
            = some { buddy := BitVec.ofNat 16 (wd w 1), firstRegion := wd w 4, regions := wd w 5, complete := none }
        ∧ t.dev.holdings = s.dev.holdings ∧ t.dev.mem = s.dev.mem)
    ∧ (∀ k : Nat, wd w 0 = 1 → wd w 1 ≠ s.dev.number.toNat → wd w 3 ≠ 0 → wd w 3 ≤ 65535 → rangesBad rs = false →
        (∀ r ∈ rs, s.dev.mapped h r.1 r.2 false = true) →
      let m : MirrorSend := { buddy := BitVec.ofNat 16 (wd w 1), every := wd w 3, ranges := rs, running := false, step := 0, slot := 0 }
      m.blocks.length + 1 ≤ k →
      ∃ t, exec (.mirrorSend n blk k) s = .next t ∧ t.pending = s.pending ∧ t.dev.answered j .ok 0
        ∧ t.dev.holding h = { x with mirrorSend := some m } ∧ t.dev.mem = s.dev.mem ∧ t.dev.serves = s.dev.serves)
    ∧ (∀ (step : Word32) (parts : List (Nat × List PByte × Word64)), wd w 0 = 2 → rangesBad rs = false →
        (∀ r ∈ rs, s.dev.mapped h r.1 r.2 true = true) →
      ∃ t, exec (.mirrorRestore n blk (some (step, parts))) s = .next t ∧ t.pending = s.pending
        ∧ t.dev.answered j (if ∀ p ∈ rs.zip (List.range rs.length), (goodRange parts p).isSome = true then .ok else .poisoned)
            (resultOf step.toNat 0 0 0)
        ∧ t.dev.serves = s.dev.serves)
    ∧ (wd w 0 = 2 → rangesBad rs = false → (∀ r ∈ rs, s.dev.mapped h r.1 r.2 true = true) →
      ∃ t, exec (.mirrorRestore n blk none) s = .next t ∧ t.pending = s.pending ∧ t.dev.answered j .wrongState 0
        ∧ t.dev.mem = s.dev.mem)
    ∧ (∀ m : MirrorSend, wd w 0 = 3 → x.mirrorSend = some m → m.buddy.toNat = wd w 1 → s.dev.serveAt (wd w 1) = none ∨ j.fn ≠ 0 →
      ∃ t, exec (.mirrorRelease n blk) s = .next t ∧ t.pending = s.pending ∧ t.dev.answered j .ok 0
        ∧ t.dev.holding h = { x with mirrorSend := none } ∧ t.dev.mem = s.dev.mem)
    ∧ (∀ m : MirrorServe, wd w 0 = 3 → j.fn = 0 → s.dev.serveAt (wd w 1) = some m →
      ∃ t, exec (.mirrorRelease n blk) s = .next t ∧ t.pending = s.pending ∧ t.dev.answered j .ok 0
        ∧ t.dev.serveAt (wd w 1) = none ∧ (∀ q ∈ m.blocks, (t.dev.tag q).owner = .unassigned) ∧ t.dev.mem = s.dev.mem))

/-! ### Clocks and power -/

/-- The limit and the power states are commanded; entries check their conditions, and what wakes the device ends them. -/
def Obligations.PowerStatesAreEnteredAndLeft : Prop :=
  (∀ (s : State) (n : Nat) (j : Job), s.dev.jobReady n 0x00A1 j →
    (1500 ≤ j.param 15 0 → j.param 15 0 ≤ 3300 →
      ∃ t, exec (.powerLimitSet n) s = .next t ∧ t.pending = s.pending ∧ t.dev.answered j .ok 0
        ∧ t.dev.power = { s.dev.power with limit := j.param 15 0 } ∧ t.dev.regs = s.dev.regs ∧ t.dev.mem = s.dev.mem)
    ∧ (j.param 15 0 < 1500 ∨ 3300 < j.param 15 0 →
      ∃ t, exec (.powerLimitSet n) s = .next t ∧ t.pending = s.pending ∧ t.dev.answered j .badParameter 0
        ∧ t.dev.power = s.dev.power))
  ∧ (∀ (s : State) (n : Nat) (j : Job), s.dev.jobReady n 0x00A0 j →
    (j.param 2 0 = 0 →
      ∃ t, exec (.powerStateSet { job := n }) s = .next t ∧ t.pending = s.pending ∧ t.dev.answered j .ok 0
        ∧ t.dev.power = s.dev.power)
    ∧ (j.param 2 0 = 1 → ([1, 8, 9].flatMap s.dev.refusers) = [] →
      ∃ t, exec (.powerStateSet { job := n }) s = .next t ∧ t.pending = s.pending ∧ t.dev.answered j .ok 0
        ∧ t.dev.power.state = .idle ∧ t.dev.mem = s.dev.mem ∧ t.dev.regs = s.dev.regs)
    ∧ (∀ st, powerOf (j.param 2 0) = some st → st ≠ .run → st ≠ .idle → (targetReasons st).flatMap s.dev.refusers = [] →
      ∃ t, exec (.powerStateSet { job := n }) s = .next t ∧ t.pending = s.pending
        ∧ t.dev.power.transition = true ∧ t.dev.power.target = st ∧ t.dev.power.job = some n ∧ t.dev.power.state = .run)
    ∧ (∀ st, powerOf (j.param 2 0) = some st → st ≠ .run → (targetReasons st).flatMap s.dev.refusers ≠ [] →
      ∃ t, exec (.powerStateSet { job := n }) s = .next t ∧ t.pending = s.pending ∧ t.dev.power.state = .run
        ∧ t.dev.power.transition = false ∧ t.dev.ctr (regAt kpr 0x1A020) = addStop64 (s.dev.ctr (regAt kpr 0x1A020)) 1
        ∧ t.dev.power.logNext = s.dev.power.logNext + 1 ∧ t.dev.mem = s.dev.mem)
    ∧ (5 ≤ j.param 2 0 →
      ∃ t, exec (.powerStateSet { job := n }) s = .next t ∧ t.pending = s.pending ∧ t.dev.answered j .badParameter 0
        ∧ t.dev.power = s.dev.power))
  ∧ (∀ (s : State) (n : Nat), s.dev.power.transition = true → s.dev.power.state = .run → s.dev.power.job = some n →
      s.dev.gotreRuns = true → s.dev.survey.waiting = [] →
      (∃ t, exec (.powerStateSet { job := n }) s = .next t ∧ t.pending = s.pending
        ∧ t.dev.power.state = s.dev.power.target ∧ t.dev.power.transition = false
        ∧ t.dev.saved = some (if s.dev.power.target = .fallow ∨ s.dev.power.target = .off then s.dev.serveQueues else s.dev).image
        ∧ (s.dev.power.target = .fallow ∨ s.dev.power.target = .off → t.dev.memWaits = []))
      ∧ (∀ (part : Nat), ∃ t, exec (.powerStateSet { job := n, saveFails := some part }) s = .next t ∧ t.pending = s.pending
        ∧ t.dev.power.state = .run ∧ t.dev.power.target = .run ∧ t.dev.power.transition = false ∧ t.dev.saved = s.dev.saved
        ∧ t.dev.power.logNext = s.dev.power.logNext + 1
        ∧ t.dev.ctr (regAt kpr 0x1A028) = addStop64 (s.dev.ctr (regAt kpr 0x1A028)) 1))
  ∧ (∀ (s : State) (src : WakeSource), s.dev.pins.inputPower = true → s.dev.pins.resetting = 0 →
      (src ≠ .pin ∨ s.dev.pins.perst = false) →
      (s.dev.power.transition = false → wakes s.dev.power.state src = true →
        ∃ t, exec (.wake src) s = .next t ∧ t.pending = s.pending
          ∧ t.dev.power = { s.dev.power with transition := true, target := s.dev.power.state, job := none }
          ∧ t.dev.regs = s.dev.regs ∧ t.dev.mem = s.dev.mem ∧ t.dev.holdings = s.dev.holdings)
      ∧ (s.dev.power.transition = false → wakes s.dev.power.state src = false → exec (.wake src) s = .next s)
      ∧ (s.dev.power.transition = true → s.dev.power.state = .run → s.dev.survey.waiting = [] →
        ∃ t, exec (.wake src) s = .next t ∧ t.pending = s.pending ∧ t.dev.power.transition = false
          ∧ t.dev.power.target = .run ∧ t.dev.power.state = .run
          ∧ t.dev.power.logNext = s.dev.power.logNext + 1))
  ∧ (∀ (s : State), s.dev.power.transition = true →
      (s.dev.power.state = .idle → s.dev.survey.waiting = [] →
        ∃ t, exec (.powerStateExit true) s = .next t ∧ t.pending = s.pending
          ∧ t.dev.power.state = .run ∧ t.dev.power.transition = false ∧ t.dev.saved = none
          ∧ t.dev.mem = s.dev.mem ∧ t.dev.regs = s.dev.regs ∧ t.dev.holdings = s.dev.holdings)
      ∧ (s.dev.power.state = .sleep → s.dev.survey.waiting = [] →
        ∃ t, exec (.powerStateExit true) s = .next t ∧ t.pending = s.pending
          ∧ t.dev.power.state = .run ∧ t.dev.power.transition = false ∧ t.dev.saved = none ∧ t.dev.mem = s.dev.mem
          ∧ (∀ p : PortId, (t.dev.port p).lowPower = false
              ∧ (t.dev.port p).state = (if (s.dev.port p).state.usable then .training else (s.dev.port p).state)))
      ∧ (s.dev.power.state = .sleep ∨ s.dev.power.state = .fallow ∨ s.dev.power.state = .off →
        ∃ t, exec (.powerStateExit false) s = .next t ∧ t.pending = s.pending
          ∧ t.dev.pins.resetting = 4 ∧ t.dev.reg (regAt kpr 0x1D004) = 0x84 ∧ t.dev.mem = [] ∧ t.dev.saved = none
          ∧ t.dev.ctr (regAt kpr 0x1A030) = 1 ∧ ∀ h : HoldId, (t.dev.holding h).state = .closed))

/-- A power sample counts the time under a ratio, may raise the ratio, and starts or ends the over-power swallow; each
limiter step lowers the ratio, counts 10 ms at the floor, or does neither. A die's clock droops to the deeper ratio and is
released; a loss of the root PLL is held over, a second one within 1 s ends the device's service, and a relock is a warm
reset. -/
def Obligations.TheLimiterAndDroopSlowTheClocks : Prop :=
  ((∀ (s : State) (watts mean : Nat),
    (s.dev.keeperUp = true →
      ∃ t, exec (.powerSample watts mean) s = .next t ∧ t.pending = s.pending
        ∧ t.dev.power.inputW = min mean 65535 ∧ t.dev.power.limit = s.dev.power.limit
        ∧ s.dev.power.ratio ≤ t.dev.power.ratio
        ∧ (mean ≤ s.dev.power.limit → t.dev.power.ratio = s.dev.power.ratio)
        ∧ (s.dev.power.limit < mean → s.dev.power.ratio < 48 → s.dev.power.ratio < t.dev.power.ratio ∧ t.dev.power.ratio ≤ 48)
        ∧ t.dev.ctr (regAt kpr 0x1A008)
            = (if 0 < s.dev.power.ratio then addStop64 (s.dev.ctr (regAt kpr 0x1A008)) 10 else s.dev.ctr (regAt kpr 0x1A008))
        ∧ (3300 < watts → t.dev.power.overdrawn = true)
        ∧ (s.dev.power.overdrawn = false → watts ≤ 3300 → t.dev.power.overdrawn = false)
        ∧ (s.dev.power.overdrawn = false → 3300 < watts →
            t.dev.ctr (regAt kpr 0x1A018) = addStop64 (s.dev.ctr (regAt kpr 0x1A018)) 1)
        ∧ (s.dev.power.overdrawn = true → t.dev.ctr (regAt kpr 0x1A018) = s.dev.ctr (regAt kpr 0x1A018))
        ∧ (s.dev.power.overdrawn = true → watts < 3200 → t.dev.power.overdrawn = decide (s.dev.power.underSamples + 1 < 100)
            ∧ t.dev.power.underSamples = (if s.dev.power.underSamples + 1 < 100 then s.dev.power.underSamples + 1 else 0))
        ∧ (s.dev.power.overdrawn = true → 3200 ≤ watts → t.dev.power.overdrawn = true ∧ t.dev.power.underSamples = 0)
        ∧ (t.dev.power.overdrawn = true → ∀ d, t.dev.swallows d = true)
        ∧ t.dev.mem = s.dev.mem ∧ t.dev.regs = s.dev.regs ∧ t.dev.cores = s.dev.cores)
    ∧ (s.dev.keeperUp = false → exec (.powerSample watts mean) s = .next s))
  ∧ (∀ (s : State) (mean : Nat),
    let p := s.dev.power
    let floors := regAt kpr 0x1A010
    (s.dev.keeperUp = true →
      (mean * 100 < 97 * p.limit →
        ∃ t, exec (.limiterStep mean) s = .next t ∧ t.pending = s.pending
          ∧ t.dev.power = { p with ratio := p.ratio - 1, floorMs := 0 } ∧ t.dev.ctrs = s.dev.ctrs
          ∧ t.dev.mem = s.dev.mem ∧ t.dev.regs = s.dev.regs ∧ t.dev.cores = s.dev.cores)
      ∧ (p.ratio = 48 → p.limit < mean → p.floorMs + 1 < 10 →
        ∃ t, exec (.limiterStep mean) s = .next t ∧ t.pending = s.pending
          ∧ t.dev.power = { p with floorMs := p.floorMs + 1 } ∧ t.dev.ctrs = s.dev.ctrs
          ∧ t.dev.mem = s.dev.mem ∧ t.dev.regs = s.dev.regs ∧ t.dev.cores = s.dev.cores)
      ∧ (p.ratio = 48 → p.limit < mean → 10 ≤ p.floorMs + 1 →
        ∃ t, exec (.limiterStep mean) s = .next t ∧ t.pending = s.pending
          ∧ t.dev.power = { p with floorMs := 0 } ∧ t.dev.ctr floors = addStop64 (s.dev.ctr floors) 1
          ∧ (∀ a, a ≠ floors → t.dev.ctr a = s.dev.ctr a)
          ∧ t.dev.mem = s.dev.mem ∧ t.dev.regs = s.dev.regs ∧ t.dev.cores = s.dev.cores)
      ∧ (97 * p.limit ≤ mean * 100 → p.ratio ≠ 48 ∨ mean ≤ p.limit →
        ∃ t, exec (.limiterStep mean) s = .next t ∧ t.pending = s.pending
          ∧ t.dev.power = { p with floorMs := 0 } ∧ t.dev.ctrs = s.dev.ctrs
          ∧ t.dev.mem = s.dev.mem ∧ t.dev.regs = s.dev.regs ∧ t.dev.cores = s.dev.cores))
    ∧ (s.dev.keeperUp = false → exec (.limiterStep mean) s = .next s)))
  ∧ ((∀ (s : State) (d : DieId) (sag : Nat),
    let l1 := ((s.dev.reg (regAt d.val 0x19000)).extractLsb' 0 8).toNat
    let l2 := ((s.dev.reg (regAt d.val 0x19000)).extractLsb' 8 8).toNat
    let now := (s.dev.droopOf d.val).ratio
    (s.dev.clocked = true → droopDies.contains d.val = true → s.dev.unreachable d.val = false →
      (l2 ≤ sag →
        ∃ t, exec (.droopThreshold d sag) s = .next t ∧ t.pending = s.pending ∧ (t.dev.droopOf d.val).ratio = 2
          ∧ t.dev.ctr (regAt d.val 0x19010) = addStop64 (s.dev.ctr (regAt d.val 0x19010)) 1
          ∧ (∀ k, k ≠ d.val → t.dev.droopOf k = s.dev.droopOf k)
          ∧ t.dev.regs = s.dev.regs ∧ t.dev.mem = s.dev.mem ∧ t.dev.power = s.dev.power)
      ∧ (l1 ≤ sag → sag < l2 →
        ∃ t, exec (.droopThreshold d sag) s = .next t ∧ t.pending = s.pending
          ∧ (t.dev.droopOf d.val).ratio = (if now = 0 then 1 else now)
          ∧ t.dev.ctr (regAt d.val 0x19008) = addStop64 (s.dev.ctr (regAt d.val 0x19008)) 1
          ∧ (∀ k, k ≠ d.val → t.dev.droopOf k = s.dev.droopOf k)
          ∧ t.dev.regs = s.dev.regs ∧ t.dev.mem = s.dev.mem ∧ t.dev.power = s.dev.power)
      ∧ (sag < l1 → sag < l2 → exec (.droopThreshold d sag) s = .next s)
      ∧ (now ≠ 0 →
        ∃ t, exec (.droopRelease d) s = .next t ∧ t.pending = s.pending ∧ (t.dev.droopOf d.val).ratio = 0
          ∧ (∀ k, k ≠ d.val → t.dev.droopOf k = s.dev.droopOf k)
          ∧ t.dev.regs = s.dev.regs ∧ t.dev.mem = s.dev.mem ∧ t.dev.power = s.dev.power)
      ∧ (now = 0 → exec (.droopRelease d) s = .next s))
    ∧ (s.dev.clocked = false ∨ droopDies.contains d.val = false ∨ s.dev.unreachable d.val = true →
      exec (.droopThreshold d sag) s = .next s ∧ exec (.droopRelease d) s = .next s))
  ∧ (∀ (s : State),
    (s.dev.pins.inputPower = true → s.dev.power.pllLock = true → s.dev.power.state ≠ .fallow → s.dev.power.state ≠ .off →
      ∃ t, exec .pllUnlock s = .next t ∧ t.pending = s.pending
        ∧ t.dev.power = { s.dev.power with pllLock := false, holdover := true, lastUnlock := some s.dev.dt }
        ∧ t.dev.ctr (regAt kpr 0x19010) = addStop64 (s.dev.ctr (regAt kpr 0x19010)) 1
        ∧ (∀ a, s.dev.power.lastUnlock = some a → (s.dev.dt - a).toNat < 940000000 →
            t.dev.gotre.deviceState = .ended ∧ t.dev.gotre.up = false)
        ∧ ((∀ a, s.dev.power.lastUnlock = some a → 940000000 ≤ (s.dev.dt - a).toNat) → t.dev.gotre = s.dev.gotre)
        ∧ t.dev.mem = s.dev.mem ∧ t.dev.regs = s.dev.regs)
    ∧ (s.dev.pins.inputPower = false ∨ s.dev.power.pllLock = false → exec .pllUnlock s = .next s))
  ∧ (∀ (s : State),
    (s.dev.power.pllLock = false → s.dev.gotre.deviceState ≠ .ended → s.dev.pins.inputPower = true →
      s.dev.power.state ≠ .fallow → s.dev.power.state ≠ .off → s.dev.pins.resetting.val < 3 → s.dev.pins.heldHot = false →
      ∃ t, exec .pllRelock s = .next t ∧ t.pending = s.pending
        ∧ t.dev.power = { s.dev.power with pllLock := true, holdover := false }
        ∧ t.dev.pins.resetting = 3 ∧ t.dev.reg (regAt kpr 0x1D004) = 0x53 ∧ t.dev.gotre.up = false ∧ t.dev.mem = s.dev.mem)
    ∧ (s.dev.power.pllLock = true ∨ s.dev.gotre.deviceState = .ended → exec .pllRelock s = .next s)))

/-! ### Maintenance -/

/-- Maintenance is started, asked after and cancelled by command; a conflict names its holder. -/
def Obligations.MaintenanceIsCommanded : Prop :=
  ∀ (s : State) (n : Nat) (j : Job),
    (s.dev.jobReady n 0x0070 j →
      let act := j.param 15 0
      let res : BitVec 16 := BitVec.ofNat 16 (j.param 31 16)
      let arg := j.param 63 32
      (maintBad act res arg = true →
        ∃ t, exec (.maintStart n) s = .next t ∧ t.pending = s.pending ∧ t.dev.answered j .badParameter 0
          ∧ t.dev.service = s.dev.service)
      ∧ (maintBad act res arg = false → s.dev.maintWrong act res = true →
        ∃ t, exec (.maintStart n) s = .next t ∧ t.pending = s.pending ∧ t.dev.answered j .wrongState 0
          ∧ t.dev.service = s.dev.service)
      ∧ (∀ a, maintBad act res arg = false → s.dev.maintWrong act res = false →
          s.dev.service.holder (BitVec.ofNat 16 act) res = some a →
        ∃ t, exec (.maintStart n) s = .next t ∧ t.pending = s.pending ∧ t.dev.answered j .busyConflict a.asHolder
          ∧ t.dev.service = s.dev.service)
      ∧ (maintBad act res arg = false → s.dev.maintWrong act res = false →
          s.dev.service.holder (BitVec.ofNat 16 act) res = none →
        ∃ t, exec (.maintStart n) s = .next t ∧ t.pending = s.pending
          ∧ t.dev.service.activities = s.dev.service.activities ++
              [{ number := s.dev.service.nextActivity, activity := BitVec.ofNat 16 act, resource := res, arg := BitVec.ofNat 32 arg
                 state := .running, status := .ok, progress := 0, job := some n, cancels := [] }]
          ∧ t.dev.service.nextActivity = s.dev.service.nextActivity + 1
          ∧ j.completion false .acceptedPending (BitVec.ofNat 128 s.dev.service.nextActivity) ∈ t.dev.gotre.waiting
          ∧ t.dev.mem = s.dev.mem ∧ t.dev.ports = s.dev.ports ∧ t.dev.stackTab = s.dev.stackTab))
    ∧ (s.dev.jobReady n 0x0071 j →
      (∀ a, (s.dev.service.recent.find? fun a => a.number == j.param 31 0) = some a →
        ∃ t, exec (.maintStatus n) s = .next t ∧ t.pending = s.pending ∧ t.dev.answered j .ok a.report
          ∧ t.dev.service = s.dev.service ∧ t.dev.regs = s.dev.regs)
      ∧ ((s.dev.service.recent.find? fun a => a.number == j.param 31 0) = none →
        ∃ t, exec (.maintStatus n) s = .next t ∧ t.pending = s.pending ∧ t.dev.answered j .badParameter 0
          ∧ t.dev.service = s.dev.service ∧ t.dev.regs = s.dev.regs))
    ∧ (s.dev.jobReady n 0x0072 j →
      (∀ a, s.dev.activity (j.param 31 0) = some a → a.open = true → s.dev.cancellable a = true → s.dev.stopsLater a = false →
          a.job ≠ some n → n ∉ a.cancels →
        ∃ t, exec (.maintCancel n) s = .next t ∧ t.pending = s.pending ∧ t.dev.answered j .ok 0
          ∧ (∃ b, t.dev.activity (j.param 31 0) = some b ∧ b.state = .cancelled ∧ b.status = .aborted)
          ∧ t.dev.ports = s.dev.ports ∧ t.dev.stackTab = s.dev.stackTab)
      ∧ (∀ a, s.dev.activity (j.param 31 0) = some a → a.open = true → s.dev.cancellable a = true → s.dev.stopsLater a = true →
        ∃ t, exec (.maintCancel n) s = .next t ∧ t.pending = s.pending
          ∧ (∃ b, t.dev.activity (j.param 31 0) = some b ∧ b.state = a.state ∧ b.cancels = a.cancels ++ [n]))
      ∧ (∀ a, s.dev.activity (j.param 31 0) = some a → a.open = false ∨ s.dev.cancellable a = false →
        ∃ t, exec (.maintCancel n) s = .next t ∧ t.pending = s.pending ∧ t.dev.answered j .wrongState 0
          ∧ t.dev.service = s.dev.service))

/-- The activities do their work: waiting ones start, stacks retrain channel by channel, ports recalibrate, stacks are
scrubbed, and each activity ends with its status. FENCE takes its unit out, READMIT brings it back, and an aimed-at
die that a Survey has frozen waits. -/
def Obligations.ActivitiesFenceReadmitAndDoTheirWork : Prop :=
  ((∀ (s : State) (a : Activity), (s.dev.service.activities.find? fun q => q.state == .waiting) = some a →
    s.dev.gotreRuns = true →
    (({ s.dev.service with activities := s.dev.service.activities.filter fun q => q.state == .running } : Service).holder
      a.activity a.resource) = none →
    ∃ t, exec (.maintWaitingStart a.number) s = .next t ∧ t.pending = s.pending
      ∧ (∀ b ∈ t.dev.service.activities, b.number = a.number → b.state = .running)
      ∧ t.dev.service.activities.length = s.dev.service.activities.length ∧ t.dev.stackTab = s.dev.stackTab)
  ∧ (∀ (s : State) (k : StackId) (a : Activity) (c : Fin 32) (cs : List (Fin 32)), s.dev.clocked = true →
    s.dev.runningOn 1 (stackResource k) = some a →
    ((s.dev.stack k).retraining = false → s.dev.stackLost k = false → a.progress = 0 → maskChannels k a.arg = c :: cs →
      ∃ t, exec (.stackRetrain k) s = .next t ∧ t.pending = s.pending ∧ (t.dev.stack k).retraining = true
        ∧ (t.dev.stack k).channel = c ∧ (t.dev.stack k).channelsLeft = cs ∧ (t.dev.stack k).retrainPending = false
        ∧ (∀ i, i ≠ k → t.dev.stack i = s.dev.stack i) ∧ t.dev.mem = s.dev.mem)
    ∧ ((s.dev.stack k).retraining = true → a.cancels = [] → (s.dev.stack k).channelsLeft = c :: cs →
      ∃ t, exec (.channelRetrainDone k) s = .next t ∧ t.pending = s.pending ∧ (t.dev.stack k).retraining = true
        ∧ (t.dev.stack k).channel = c ∧ (t.dev.stack k).channelsLeft = cs)
    ∧ ((s.dev.stack k).retraining = true → a.cancels = [] → (s.dev.stack k).channelsLeft = [] →
      ∃ t, exec (.channelRetrainDone k) s = .next t ∧ t.pending = s.pending ∧ (t.dev.stack k).retraining = false
        ∧ (t.dev.stack k).channelsLeft = []))
  ∧ (∀ (s : State) (p : PortId) (a : Activity) (act : BitVec 16) (i : Instr),
    (act, i) ∈ [((2 : BitVec 16), Instr.laneRecal p), (3, .portReeq p)] → s.dev.clocked = true →
    s.dev.runningOn act (BitVec.ofNat 16 (0x3000 + p.val)) = some a → (s.dev.port p).state.usable = true → a.progress = 0 →
    ∃ t, exec i s = .next t ∧ t.pending = s.pending ∧ (t.dev.port p).state = .recal
      ∧ (t.dev.port p).back = (if act = 3 then .training else (s.dev.port p).state) ∧ (t.dev.port p).failures = (s.dev.port p).failures
      ∧ t.dev.mem = s.dev.mem)
  ∧ (∀ (s : State) (k : StackId) (a : Activity), s.dev.clocked = true → s.dev.runningOn 4 (stackResource k) = some a →
    s.dev.stackLost k = false → a.progress = 0 →
    ∃ t, exec (.scrubPass k) s = .next t ∧ t.pending = s.pending
      ∧ (∀ b, t.dev.activity a.number = some b → b.progress = localBlocks)
      ∧ (s.dev.ecc = [] → s.dev.memWaits = [] → t.dev.mem = s.dev.mem) ∧ t.dev.cores = s.dev.cores)
  ∧ (∀ (s : State) (k : Nat) (st : Status) (a : Activity), s.dev.clocked = true → s.dev.gotreRuns = true →
    s.dev.activity k = some a → a.state = .running → a.isActivation = false → (st = .ok → s.dev.workDone a = true) →
    a.activity.toNat ∉ [1, 2, 3] →
    let final := if a.status = .ok then st else a.status
    ∃ t, exec (.maintActivityEnd k st) s = .next t ∧ t.pending = s.pending
      ∧ (∃ b, t.dev.activity k = some b ∧ b.state = (if final = .ok then .done else .failed) ∧ b.status = final)
      ∧ t.dev.mem = s.dev.mem ∧ t.dev.regs = s.dev.regs ∧ t.dev.stackTab = s.dev.stackTab))
  ∧ (∀ (s : State) (k : Nat) (a : Activity), s.dev.gotreRuns = true → s.dev.activity k = some a → a.state = .running →
    a.progress = 0 →
    (a.activity = 5 → (s.dev.die (resDie a.resource)).survey = false → resKind a.resource = 0 → resNum a.resource < 256 →
        (s.dev.core (Fin.ofNat 256 (resNum a.resource))).fenced = false →
        s.dev.holdingOfCore (Fin.ofNat 256 (resNum a.resource)) = none →
      ∃ t, exec (.fence k) s = .next t ∧ t.pending = s.pending
        ∧ (t.dev.core (Fin.ofNat 256 (resNum a.resource))).fenced = true
        ∧ t.dev.reg (chkReg (Fin.ofNat 256 (resNum a.resource)) 0) = FenceCause.maintenance.code.setWidth 32)
    ∧ (a.activity = 5 → (s.dev.die (resDie a.resource)).survey = true →
      ∃ t, exec (.fence k) s = .next t ∧ t.pending = s.pending ∧ t.dev.cores = s.dev.cores ∧ t.dev.regs = s.dev.regs
        ∧ k ∈ t.dev.survey.fences)
    ∧ (a.activity = 6 → resKind a.resource = 0 → resNum a.resource < 256 →
      ∃ t, exec (.readmit k true 0) s = .next t ∧ t.pending = s.pending
        ∧ (t.dev.core (Fin.ofNat 256 (resNum a.resource))).fenced = false
        ∧ t.dev.reg (chkReg (Fin.ofNat 256 (resNum a.resource)) 0) = 0
        ∧ (∀ b, t.dev.activity k = some b → b.status = .ok ∧ b.progress = 1) ∧ t.dev.mem = s.dev.mem)
    ∧ (∀ (passes : Bool) (hottest : Nat), a.activity = 6 → resStacks a.resource ≠ [] → 85 ≤ hottest →
      ∃ t, exec (.readmit k passes hottest) s = .next t ∧ t.pending = s.pending
        ∧ (∀ b, t.dev.activity k = some b → b.status = .wrongState ∧ b.progress = 1)
        ∧ t.dev.stackTab = s.dev.stackTab ∧ t.dev.dies = s.dev.dies ∧ t.dev.regs = s.dev.regs))

/-! ### Images, authorisations and the management interface -/

/-- Images are verified, staged, written and switched to unit by unit. The keeper grants what it verifies, ends grants
at their expiry, and answers SPDM and PLDM. -/
def Obligations.ImagesActivateAndTheKeeperAnswers : Prop :=
  ((∀ (s : State) (n : Nat) (j : Job) (blk : BlockRead) (l : List Byte), s.dev.jobReady n 0x0080 j →
    kindGood (j.param 7 0) = true → s.dev.service.activation (j.param 7 0) = none → j.rawBlock blk = .ok l →
    (s.dev.service.verifies (j.param 7 0) l = true →
      ∃ t, exec (.imageStage n blk) s = .next t ∧ t.pending = s.pending ∧ t.dev.answered j .ok 0
        ∧ Tab.get none t.dev.service.staged (j.param 7 0) = some { header := l.take 256, body := l.drop 256, good := true }
        ∧ t.dev.service.flash = s.dev.service.flash ∧ t.dev.mem = s.dev.mem)
    ∧ (s.dev.service.verifies (j.param 7 0) l = false →
      ∃ t, exec (.imageStage n blk) s = .next t ∧ t.pending = s.pending ∧ t.dev.answered j .badSignature 0
        ∧ t.dev.service = s.dev.service))
  ∧ (∀ (s : State) (n : Nat) (j : Job), s.dev.jobReady n 0x0081 j → kindGood (j.param 7 0) = true →
    (s.dev.service.mayActivate (j.param 7 0) = true →
      ∃ t, exec (.imageActivate n) s = .next t ∧ t.pending = s.pending
        ∧ (∃ a ∈ t.dev.service.activities, a.number = s.dev.service.nextActivity ∧ a.job = some n
            ∧ a.activity = BitVec.ofNat 16 (0x100 + j.param 7 0))
        ∧ (∃ q, t.dev.job n = some q ∧ q.phase = .running) ∧ t.dev.mem = s.dev.mem)
    ∧ (s.dev.service.mayActivate (j.param 7 0) = false →
      ∃ t, exec (.imageActivate n) s = .next t ∧ t.pending = s.pending ∧ t.dev.answered j .wrongState 0
        ∧ t.dev.service = s.dev.service))
  ∧ (∀ (s : State) (k : Fin 8) (n : Nat) (a : Activity), s.dev.service.writing = some (k, n) → s.dev.gotreRuns = true →
    s.dev.activity n = some a → a.open = true →
    (∃ t, exec (.flashWriteDone k false) s = .next t ∧ t.pending = s.pending
      ∧ Tab.get none t.dev.service.staged k.val = none
      ∧ (∃ b, t.dev.activity n = some b ∧ b.state = .failed ∧ b.status = .badSignature)
      ∧ t.dev.mem = s.dev.mem)
    ∧ (∀ x, a.state = .running → a.cancels = [] → s.dev.inRecovery = false → s.dev.service.activation k.val = some a →
        Tab.get none s.dev.service.staged k.val = some x → s.dev.service.writeQueue = [] →
        s.dev.unitsLeft k.val ≠ [] →
      ∃ t, exec (.flashWriteDone k true) s = .next t ∧ t.pending = s.pending
        ∧ Tab.get none t.dev.service.flash k.val = some { x with good := true }
        ∧ Tab.get none t.dev.service.staged k.val = none ∧ t.dev.service.writing = none ∧ t.dev.mem = s.dev.mem))
  ∧ (∀ (s : State) (k : Fin 8) (unit : Nat) (a : Activity), k.val ∉ [1, 5] → s.dev.service.activation k.val = some a →
    a.state = .running → s.dev.service.flashAhead a.number = false → s.dev.gotreRuns = true →
    (s.dev.unitsLeft k.val).head? = some unit → s.dev.quiescent k.val unit = true →
    (∃ u, u ≠ unit ∧ u ∈ s.dev.unitsLeft k.val) →
    ∃ t, exec (.activationUnitSwitch k unit) s = .next t ∧ t.pending = s.pending
      ∧ t.dev.service.switched = s.dev.service.switched ++ [(k.val, unit)]
      ∧ t.dev.service.active = s.dev.service.active ∧ t.dev.mem = s.dev.mem ∧ t.dev.regs = s.dev.regs))
  ∧ (∀ s : State, s.dev.pins.inputPower = true → s.dev.power.state ≠ .off →
    (∀ req : List Byte, s.dev.grantGood req = true →
      ∃ t, exec (.dbgAuth req) s = .next t ∧ t.pending = s.pending
        ∧ t.dev.service.grants = s.dev.service.grants ++ [grantOf req]
        ∧ t.dev.service.challenges = s.dev.service.challenges + 1 ∧ t.dev.ctrs = s.dev.ctrs ∧ t.dev.mem = s.dev.mem)
    ∧ (∀ req : List Byte, s.dev.grantGood req = false →
      ∃ t, exec (.dbgAuth req) s = .next t ∧ t.pending = s.pending
        ∧ t.dev.service.grants = s.dev.service.grants ∧ t.dev.service.challenges = s.dev.service.challenges + 1
        ∧ t.dev.ctr (regAt kpr 0x1B030) = addStop64 (s.dev.ctr (regAt kpr 0x1B030)) 1)
    ∧ (∀ g : Grant, s.dev.service.grants = [g] → reached s.dev.dt g.expiry = false →
      ∃ t, exec .authorisationExpiry s = .next t ∧ t.pending = s.pending ∧ t.dev.dt = g.expiry
        ∧ t.dev.service.grants = [] ∧ (∀ d < 64, (t.dev.die d).testMode = false) ∧ t.dev.mem = s.dev.mem)
    ∧ (∀ r : SpdmReq, ∃ t, exec (.spdmRequest r) s = .next t ∧ t.pending = s.pending
        ∧ t.dev.outbox = s.dev.outbox ++ [.management (Config.spdmAnswer (s.dev.spdmBody r).1 (s.dev.spdmBody r).2)]
        ∧ t.dev.service = s.dev.service)
    ∧ (∃ t v a, exec .pldmMonitor s = .next t ∧ t.pending = s.pending
        ∧ t.dev.outbox = s.dev.outbox ++ [.management (Config.pldmAnswer 0 (s.dev.sensors v a))]
        ∧ t.dev.service = s.dev.service)
    ∧ (∀ (kind : BitVec 8) (ws : List Word64), s.dev.gotreRuns = true → kindGood kind.toNat = true →
        s.dev.service.activation kind.toNat = none → s.dev.service.verifies kind.toNat (blockBytes ws) = true →
      ∃ t, exec (.pldmFwUpdate kind (some ws)) s = .next t ∧ t.pending = s.pending
        ∧ t.dev.service = s.dev.service.stage kind.toNat (blockBytes ws)
        ∧ t.dev.outbox = s.dev.outbox ++ [.management (Config.pldmAnswer 1 (le16 Status.ok.code.toNat))])
    ∧ (∀ kind : BitVec 8, s.dev.gotreRuns = true → kindGood kind.toNat = true →
        s.dev.service.mayActivate kind.toNat = true →
      ∃ t, exec (.pldmFwUpdate kind none) s = .next t ∧ t.pending = s.pending
        ∧ t.dev.service = s.dev.service.activate kind.toNat none))

/-! ### The Survey -/

/-- A Survey is armed, triggered by its register, its pin, an event or the sideband, and ended by its register. The
test logic reads out what a frozen die holds, and nothing changes but its instruction. -/
def Obligations.SurveysFreezeReadOutAndResume : Prop :=
  ((∀ (s : State) (n : Nat) (j : Job), s.dev.jobReady n 0x00B0 j →
    (∀ g, triggerOf j = .ok g →
      ∃ t, exec (.surveyArm n) s = .next t ∧ t.pending = s.pending ∧ t.dev.answered j .ok 0
        ∧ t.dev.survey = { s.dev.survey with armed := g })
    ∧ (triggerOf j = .error () →
      ∃ t, exec (.surveyArm n) s = .next t ∧ t.pending = s.pending ∧ t.dev.answered j .badParameter 0
        ∧ t.dev.survey = s.dev.survey))
  ∧ (∀ (s : State) (p : Path) (v : Word32), s.dev.pathUp p = true → s.dev.unreachable kpr = false →
    s.dev.guard kpr p = true → s.dev.power.transition = false → s.dev.pins.inputPower = true →
    s.dev.power.state ≠ .fallow → s.dev.power.state ≠ .off →
    let d := (v.extractLsb' 8 6).toNat
    (s.dev.survey.frozen = false → v.extractLsb' 0 2 = 1#2 →
      ∃ t, exec (.surveyFull p v) s = .next t ∧ t.pending = s.pending ∧ t.dev.survey.frozen = true ∧ t.dev.surveyOut = false
        ∧ t.dev.survey.dieScope = false ∧ t.dev.survey.cause = 1 ∧ t.dev.survey.freezeDt = s.dev.dt
        ∧ t.dev.guard kpr p = false ∧ t.dev.mem = s.dev.mem ∧ t.dev.cores = s.dev.cores ∧ t.dev.holdings = s.dev.holdings)
    ∧ (s.dev.survey.frozen = false → v.extractLsb' 0 2 = 2#2 → dieKind d = 0 →
      ∃ t, exec (.surveyDie p v) s = .next t ∧ t.pending = s.pending ∧ t.dev.survey.frozen = true
        ∧ t.dev.survey.dieScope = true ∧ t.dev.survey.die.val = d ∧ t.dev.survey.cause = 1 ∧ (t.dev.die d).survey = true
        ∧ t.dev.guard kpr p = false ∧ t.dev.mem = s.dev.mem ∧ t.dev.cores = s.dev.cores)
    ∧ (s.dev.survey.frozen = true → s.dev.survey.dieScope = true → s.dev.survey.fences = [] → v.extractLsb' 0 2 = 3#2 →
        dieKind d = 0 →
      ∃ t, exec (.surveyResume p v) s = .next t ∧ t.pending = s.pending ∧ t.dev.survey.frozen = false ∧ t.dev.surveyOut = true
        ∧ (t.dev.die s.dev.survey.die.val).survey = false ∧ (t.dev.die s.dev.survey.die.val).testMode = false
        ∧ t.dev.guard kpr p = false ∧ t.dev.mem = s.dev.mem))
  ∧ (∀ s : State, s.dev.pins.inputPower = true → s.dev.power.state ≠ .fallow → s.dev.power.state ≠ .off →
    s.dev.survey.frozen = false →
    ((s.dev.reg (regAt kpr 0x1C000)).getLsbD 1 = true →
      ∃ t, exec .surveyIn s = .next t ∧ t.pending = s.pending ∧ t.dev.survey.frozen = true
        ∧ t.dev.survey.dieScope = false ∧ t.dev.survey.cause = 2 ∧ t.dev.mem = s.dev.mem ∧ t.dev.cores = s.dev.cores)
    ∧ ((s.dev.reg (regAt kpr 0x1C000)).getLsbD 1 = false → exec .surveyIn s = .next s)
    ∧ (∀ g : Trigger, s.dev.survey.armed = some g → (s.dev.reg (regAt g.die.val g.offset)).getLsbD g.bit = true →
      ∃ t, exec .surveyEventTrigger s = .next t ∧ t.pending = s.pending ∧ t.dev.survey.frozen = true
        ∧ t.dev.survey.dieScope = !g.full ∧ t.dev.survey.cause = 4
        ∧ t.dev.survey.armed = (if g.once then none else some g) ∧ t.dev.mem = s.dev.mem ∧ t.dev.cores = s.dev.cores)
    ∧ (∀ (p : PortId) (origin n : BitVec 16), p.val < 6 → (s.dev.port p).hasLanes = true →
        (s.dev.port p).lastSideband ≠ .freeze origin true n → (s.dev.reg (regAt kpr 0x1C000)).getLsbD 0 = true →
      ∃ t, exec (.sidebandSlot p (slotCrc (.freeze origin true n)) (.freeze origin true n)) s = .next t ∧ t.pending = s.pending
        ∧ t.dev.survey.frozen = true ∧ t.dev.survey.dieScope = false ∧ t.dev.survey.cause = 3 ∧ t.dev.survey.number = n
        ∧ (s.dev.clocked = true → (t.dev.port p).state = .surveyed)
        ∧ (t.dev.port p).lastSideband = .freeze origin true n ∧ t.dev.mem = s.dev.mem))
  ∧ (∀ s : State, s.dev.pins.inputPower = true → (s.dev.reg (regAt kpr 0x1C000)).getLsbD 1 = true →
    (s.dev.power.state = .fallow ∨ s.dev.power.state = .off → exec .surveyIn s = .next s)
    ∧ (s.dev.power.state ≠ .fallow → s.dev.power.state ≠ .off → s.dev.survey.frozen = true →
      (s.dev.survey.dieScope = true →
        ∃ t, exec .surveyIn s = .next t ∧ t.pending = s.pending ∧ t.dev.survey.frozen = true
          ∧ t.dev.survey.dieScope = false ∧ t.dev.survey.cause = 2)
      ∧ (s.dev.survey.dieScope = false →
        ∃ t, exec .surveyIn s = .next t ∧ t.pending = s.pending ∧ t.dev.survey = s.dev.survey
          ∧ t.dev.ctr (regAt kpr 0x1C018) = addStop64 (s.dev.ctr (regAt kpr 0x1C018)) 1)))
  ∧ (∀ (s : State) (p : Path) (v : Word32), s.dev.pathUp p = true → s.dev.unreachable kpr = false →
    s.dev.guard kpr p = true → dieKind (v.extractLsb' 8 6).toNat = 0 → s.dev.power.state ≠ .fallow →
    (s.dev.power.transition = true → v.extractLsb' 0 2 = 1#2 ∨ v.extractLsb' 0 2 = 2#2 →
      ∃ t, exec (.surveyFull p v) s = .next t ∧ t.pending = s.pending
        ∧ t.dev.survey = { s.dev.survey with waiting := s.dev.survey.waiting ++ [v] })
    ∧ (s.dev.power.transition = false → s.dev.survey.frozen = true → v.extractLsb' 0 2 = 2#2 →
      ∃ t, exec (.surveyDie p v) s = .next t ∧ t.pending = s.pending ∧ t.dev.survey = s.dev.survey
        ∧ t.dev.ctr (regAt kpr 0x1C018) = addStop64 (s.dev.ctr (regAt kpr 0x1C018)) 1))
  ∧ (∀ (s : State) (p : PortId) (m : SidebandMsg), p.val < 6 → (s.dev.port p).hasLanes = true →
    (m = (s.dev.port p).lastSideband → exec (.sidebandSlot p (slotCrc m) m) s = .next s)
    ∧ (∀ crc : Word32, s.dev.clocked = true → crc ≠ slotCrc m →
      ∃ t, exec (.sidebandSlot p crc m) s = .next t ∧ t.pending = s.pending
        ∧ t.dev.ctr (klxReg p 0x80) = addStop64 (s.dev.ctr (klxReg p 0x80)) 1
        ∧ t.dev.reg (linkEvent p) = s.dev.reg (linkEvent p) ||| 0x20
        ∧ t.dev.ports = s.dev.ports ∧ t.dev.survey = s.dev.survey)))
  ∧ (∀ s : State,
    (∀ (d : DieId) (g : ScanSegment) (i : Nat),
      let s1 : Dev := { s.dev with pins := { s.dev.pins with jtag := d.val * 8 + segmentCode g } }
      (s.dev.frozenDie d.val = true →
        ∃ t, exec (.scanRead d g i) s = .next t ∧ t.pending = s.pending
          ∧ t.dev.outbox = s.dev.outbox ++ [.scan (s1.scanElement d.val g i).1] ∧ t.dev.pins = s1.pins
          ∧ t.dev.regs = s.dev.regs ∧ t.dev.ctrs = s.dev.ctrs ∧ t.dev.cores = s.dev.cores ∧ t.dev.mem = s.dev.mem)
      ∧ (s.dev.frozenDie d.val = false → exec (.scanRead d g i) s = .next { s with dev := s1 }))
    ∧ exec .trst s = .next { s with dev := { s.dev with pins := { s.dev.pins with jtag := 0 } } })

/-! ### Registers -/

/-- A read gives the register's value, clears its RC bits or its counter, and a bad offset reads 0. -/
def Obligations.ReadsClearWhatTheyRead : Prop :=
  ∀ (s : State) (p : Path) (off : BitVec 24),
    let d := dieOf off.toNat
    let w := windowOf off.toNat
    let a := regAt d w
    s.dev.unreachable d = false →
    (∀ i : RegInfo, w < 0x20000 → regInfo d w = some i → i.kind = .plain →
      ∃ t, exec (.rcRead p none off) s = .next t ∧ t.pending = s.pending
        ∧ t.dev.outbox = s.dev.outbox ++ [.register p ((s.dev.regValue d w i).setWidth 64)]
        ∧ t.dev.reg a = s.dev.reg a &&& ~~~i.rc ∧ (∀ k, k ≠ a → t.dev.reg k = s.dev.reg k)
        ∧ t.dev.ctrs = s.dev.ctrs ∧ t.dev.guards = s.dev.guards)
    ∧ (∀ i : RegInfo, w < 0x20000 → regInfo d w = some i → i.kind = .low →
      ∃ t, exec (.counterLowRead p off) s = .next t ∧ t.pending = s.pending
        ∧ t.dev.outbox = s.dev.outbox ++ [.register p ((s.dev.regValue d w i).setWidth 64)]
        ∧ t.dev.ctr a = 0 ∧ Tab.get 0 t.dev.ctrHi a = (s.dev.ctr a).extractLsb' 32 32
        ∧ (∀ k, k ≠ a → t.dev.ctr k = s.dev.ctr k) ∧ t.dev.regs = s.dev.regs)
    ∧ (0x20000 ≤ w → regInfo d (aliasReg w) = none →
      ∃ t, exec (.badOffsetRead p none off) s = .next t ∧ t.pending = s.pending
        ∧ t.dev.outbox = s.dev.outbox ++ [.register p 0] ∧ t.dev.reg (regEvent d) = s.dev.reg (regEvent d) ||| 1
        ∧ (∀ k, k ≠ regEvent d → t.dev.reg k = s.dev.reg k) ∧ t.dev.ctrs = s.dev.ctrs)
    ∧ (∀ v : Word32, s.dev.pathUp p = true →
      (w < 0x20000 → w ≠ 8 → regInfo d w = none →
        ∃ t, exec (.registerWrite p none off v 0xF) s = .next t ∧ t.pending = s.pending
          ∧ t.dev.reg (regEvent d) = s.dev.reg (regEvent d) ||| 1
          ∧ (∀ k, k ≠ regEvent d → t.dev.reg k = s.dev.reg k) ∧ t.dev.ctrs = s.dev.ctrs ∧ t.dev.slots = s.dev.slots)
      ∧ (∀ i : RegInfo, w < 0x20000 → w ≠ 8 → regInfo d w = some i → i.rw = 0 → i.rwk = 0 → (s.dev.die d).testMode = false →
          v &&& i.reserved = s.dev.reservedValue d w i →
        ∃ t, exec (.registerWrite p none off v 0xF) s = .next t ∧ t.pending = s.pending
          ∧ t.dev.regs = s.dev.regs ∧ t.dev.ctrs = s.dev.ctrs ∧ t.dev.slots = s.dev.slots))
    ∧ (w < 0x20000 → regInfo d w = none →
      ∃ t, exec (.badOffsetRead p none off) s = .next t ∧ t.pending = s.pending
        ∧ t.dev.outbox = s.dev.outbox ++ [.register p 0] ∧ t.dev.reg (regEvent d) = s.dev.reg (regEvent d) ||| 1
        ∧ (∀ k, k ≠ regEvent d → t.dev.reg k = s.dev.reg k) ∧ t.dev.ctrs = s.dev.ctrs)
    ∧ (s.dev.unreachable kpr = false →
      ∃ t, exec (.clkDtLoRead p) s = .next t ∧ t.pending = s.pending
        ∧ t.dev.outbox = s.dev.outbox ++ [.register p ((s.dev.dt.setWidth 32).setWidth 64)]
        ∧ Tab.get 0 t.dev.ctrHi (regAt kpr 0x19008) = s.dev.dt.extractLsb' 32 32
        ∧ t.dev.regs = s.dev.regs ∧ t.dev.ctrs = s.dev.ctrs)

/-- The key guards the RWK fields: a key is taken or counted wrong, returns when its time is up, and a write uses it
up. A write takes the RW fields, or waits in the pending slot for the STEP boundary; aliases clear one bit. -/
def Obligations.WritesTakeTheirFieldsUnderTheKey : Prop :=
  ((∀ (s : State) (p : Path) (d : DieId) (v : Word32), s.dev.unreachable d.val = false →
    (v = 0x5EED →
      ∃ t, exec (.guardUnlock p d v) s = .next t ∧ t.pending = s.pending ∧ t.dev.guard d.val p = true
        ∧ t.dev.regs = s.dev.regs)
    ∧ (v ≠ 0x5EED →
      ∃ t, exec (.guardUnlock p d v) s = .next t ∧ t.pending = s.pending ∧ t.dev.guard d.val p = false
        ∧ t.dev.reg (regAt d.val 0x18) = addStop32 (s.dev.reg (regAt d.val 0x18)) 1
        ∧ t.dev.reg (regEvent d.val) = s.dev.reg (regEvent d.val) ||| 8)
    ∧ (∃ t, exec (.guardKeyTimeout p d) s = .next t ∧ t.pending = s.pending ∧ t.dev.guard d.val p = false
        ∧ t.dev.regs = s.dev.regs ∧ t.dev.ctrs = s.dev.ctrs))
  ∧ (∀ (s : State) (p : Path) (off : BitVec 24) (v : Word32) (i : RegInfo),
    let d := dieOf off.toNat
    let w := windowOf off.toNat
    s.dev.pathUp p = true → s.dev.guard d p = false → s.dev.unreachable d = false → (s.dev.die d).testMode = false →
    w < 0x20000 → w ≠ 8 → regInfo d w = some i → i.rw = 0 → i.rwk ≠ 0 →
    ∃ t, exec (.registerWrite p none off v 0xF) s = .next t ∧ t.pending = s.pending
      ∧ t.dev.reg (regAt d 0x18) = addStop32 (s.dev.reg (regAt d 0x18)) 1 ∧ t.dev.reg (regEvent d) &&& 4 = 4
      ∧ (∀ k, k ≠ regAt d 0x18 → k ≠ regEvent d → t.dev.reg k = s.dev.reg k) ∧ t.dev.slots = s.dev.slots
      ∧ t.dev.survey = s.dev.survey ∧ t.dev.pins = s.dev.pins ∧ t.dev.ports = s.dev.ports)
  ∧ (∀ (s : State) (p : Path) (port : PortId) (v : Word32), s.dev.pathUp p = true → s.dev.unreachable (linkDie port) = false →
    s.dev.guard (linkDie port) p = true →
    ∃ t, exec (.klxCtrlWrite p port v) s = .next t ∧ t.pending = s.pending
      ∧ (t.dev.reg (klxReg port 4)).getLsbD 0 = v.getLsbD 0 ∧ t.dev.guard (linkDie port) p = false
      ∧ (v.getLsbD 0 = false → (t.dev.port port).state = .disabled) ∧ t.dev.mem = s.dev.mem)
  ∧ (∀ (s : State) (p : Path) (v : Word32), s.dev.pathUp p = true → s.dev.unreachable 48 = false →
    s.dev.guard 48 p = true →
    ∃ t, exec (.klxDeviceNumWrite p v) s = .next t ∧ t.pending = s.pending ∧ t.dev.guard 48 p = false
      ∧ (t.dev.reg (klxReg 0 0x300)).setWidth 17
          = (if s.dev.portsIdle then v.setWidth 17 else (s.dev.reg (klxReg 0 0x300)).setWidth 17 : BitVec 17))
  ∧ (∀ (s : State) (p : Path) (d : DieId) (v : Word32), s.dev.pathUp p = true → s.dev.unreachable d.val = false →
    droopDies.contains d.val = true → s.dev.guard d.val p = true →
    ∃ t, exec (.clkDroopCfgWrite p d v) s = .next t ∧ t.pending = s.pending ∧ t.dev.guard d.val p = false
      ∧ (t.dev.reg (regAt d.val 0x19000)).setWidth 16
          = (if droopGood v then v.setWidth 16 else (s.dev.reg (regAt d.val 0x19000)).setWidth 16 : BitVec 16)))
  ∧ ((∀ (s : State) (p : Path) (off : BitVec 24) (v : Word32) (i : RegInfo),
    let d := dieOf off.toNat
    let w := windowOf off.toNat
    let a := regAt d w
    s.dev.pathUp p = true → s.dev.unreachable d = false → (s.dev.die d).testMode = false →
    (w < 0x20000 → w ≠ 8 → regInfo d w = some i → i.kind = .plain → i.rw ≠ 0 → i.rwk = 0 →
      let m := (s.dev.reg a &&& ~~~i.rw) ||| (v &&& i.rw)
      (i.apply ≠ .step ∨ s.dev.slotOwner d w = false →
        ∃ t, exec (.registerWrite p none off v 0xF) s = .next t ∧ t.pending = s.pending ∧ t.dev.reg a = m
          ∧ t.dev.slots = Tab.set none s.dev.slots a none ∧ t.dev.guard d p = false
          ∧ (∀ k, k ≠ a → k ≠ regEvent d → t.dev.reg k = s.dev.reg k) ∧ t.dev.mem = s.dev.mem)
      ∧ (i.apply = .step → s.dev.slotOwner d w = true →
        ∃ t, exec (.registerWrite p none off v 0xF) s = .next t ∧ t.pending = s.pending
          ∧ t.dev.reg a = s.dev.reg a ∧ Tab.get none t.dev.slots a = some m ∧ t.dev.mem = s.dev.mem))
    ∧ (∀ en : BitVec 4, en ≠ 0xF →
      ∃ t, exec (.registerWrite p none off v en) s = .next t ∧ t.pending = s.pending ∧ t.dev.guard d p = false
        ∧ t.dev.reg (regEvent d) = s.dev.reg (regEvent d) ||| 2 ∧ (∀ k, k ≠ regEvent d → t.dev.reg k = s.dev.reg k)
        ∧ t.dev.slots = s.dev.slots ∧ t.dev.mem = s.dev.mem)
    ∧ (0x20000 ≤ w → regInfo d (aliasReg w) = some i →
      ∃ t, exec (.bitAliasWrite p off v) s = .next t ∧ t.pending = s.pending ∧ t.dev.guard d p = false
        ∧ t.dev.reg (regAt d (aliasReg w))
            = s.dev.reg (regAt d (aliasReg w)) &&& ~~~(if v.getLsbD 0 then i.rc &&& (1#32 <<< aliasBit w) else 0)
        ∧ (∀ k, k ≠ regAt d (aliasReg w) → t.dev.reg k = s.dev.reg k) ∧ t.dev.mem = s.dev.mem))
  ∧ (∀ (s : State) (p : Path) (i : Fin 64) (v : Word32), s.dev.pathUp p = true → s.dev.unreachable 48 = false →
    (s.dev.die 48).testMode = false →
    ∃ t, exec (.podRouteWrite p i v) s = .next t ∧ t.pending = s.pending
      ∧ t.dev.reg (klxReg 0 (0x400 + 4 * i.val)) = v
      ∧ (∀ k, k ≠ klxReg 0 (0x400 + 4 * i.val) → t.dev.reg k = s.dev.reg k))
  ∧ (∀ (s : State) (p : Path) (h : HoldId) (k : Fin 8) (v : Word32), s.dev.hostCut = false →
    let off : BitVec 24 := BitVec.ofNat 24 ((vfOf h).val * 0x10000 + 0x300 + 4 * k.val)
    ∃ t, exec (.registerWrite p (some (vfOf h)) off v 0xF) s = .next t ∧ t.pending = s.pending
      ∧ (t.dev.holding h).ownerKey
          = (if (s.dev.holding h).state == .disabled && !(s.dev.holding h).keyLocked then (s.dev.holding h).ownerKey.set k.val v
             else (s.dev.holding h).ownerKey)
      ∧ t.dev.regs = s.dev.regs ∧ t.dev.mem = s.dev.mem))

/-! ### Resets and temperature -/

/-- The keeper's reset register resets a fenced core, a unit's die, or the device; each is recorded. Resets start from
the host, from PERST# and from power, and run to service or to recovery. -/
def Obligations.ResetsRunToService : Prop :=
  (∀ (s : State) (p : Path), s.dev.pathUp p = true → s.dev.unreachable kpr = false → s.dev.guard kpr p = true →
    s.dev.pins.resetting = 0 →
    (∀ c : CoreId,
      ((s.dev.core c).fenced = true →
        ∃ t, exec (.kprResetCore p c) s = .next t ∧ t.pending = s.pending ∧ t.dev.reg (regAt kpr 0x1D004) = 0x31
          ∧ (t.dev.core c).window = [] ∧ (t.dev.core c).lregs = [] ∧ (t.dev.core c).fenced = true
          ∧ (t.dev.core c).os = (s.dev.core c).os ∧ (∀ k, k ≠ c → t.dev.core k = s.dev.core k)
          ∧ t.dev.guard kpr p = false ∧ t.dev.mem = s.dev.mem)
      ∧ ((s.dev.core c).fenced = false →
        ∃ t, exec (.kprResetCore p c) s = .next t ∧ t.pending = s.pending ∧ t.dev.cores = s.dev.cores
          ∧ t.dev.reg (regEvent kpr) &&& 2 = 2 ∧ t.dev.guard kpr p = false))
    ∧ (∀ d : DieId, d.val < 62 → s.dev.readmittable (BitVec.ofNat 16 (0x1000 + d.val)) = true →
      ∃ t, exec (.kprResetDie p d) s = .next t ∧ t.pending = s.pending ∧ t.dev.reg (regAt kpr 0x1D004) = 0x32
        ∧ t.dev.dies = s.dev.dies ∧ t.dev.mem = s.dev.mem)
    ∧ (s.dev.fullSurvey = false → s.dev.pins.inputPower = true → s.dev.power.state ≠ .off → s.dev.pins.heldHot = false →
      ∃ t, exec (.kprResetWarm p) s = .next t ∧ t.pending = s.pending ∧ t.dev.pins.resetting = 3
        ∧ t.dev.reg (regAt kpr 0x1D004) = 0x33 ∧ t.dev.gotre.up = false ∧ t.dev.mem = s.dev.mem)
    ∧ (∃ t, exec (.kprResetCold p) s = .next t ∧ t.pending = s.pending ∧ t.dev.pins.resetting = 4
        ∧ t.dev.reg (regAt kpr 0x1D004) = 0x34 ∧ t.dev.mem = [] ∧ t.dev.holdings = []))
  ∧ (∀ s : State,
    (s.dev.pcieUp = true → s.dev.pins.resetting.val < 3 →
      ∃ t, exec .hotReset s = .next t ∧ t.pending = s.pending ∧ t.dev.pins.resetting = 3 ∧ t.dev.msix = []
        ∧ t.dev.reg (regAt kpr 0x1D004) = 0x43 ∧ t.dev.gotre.up = false ∧ t.dev.mem = s.dev.mem)
    ∧ (s.dev.pins.resetting = 3 → s.dev.power.state = .run → s.dev.survey.frozen = false → s.dev.survey.fences = [] →
        s.dev.survey.latched = [] → s.dev.survey.waiting = [] →
      ∃ t, exec .warmReset s = .next t ∧ t.pending = s.pending ∧ t.dev.pins.resetting = 0 ∧ t.dev.guards = []
        ∧ t.dev.slots = [] ∧ t.dev.memWaits = [] ∧ (∀ c : CoreId, (t.dev.core c).window = [] ∧ (t.dev.core c).lregs = [])
        ∧ t.dev.power.transition = false
        ∧ (s.dev.gotre.deviceState = .ready → s.dev.gotre.stopped = false → t.dev.gotre.up = true))
    ∧ (s.dev.pins.inputPower = true → s.dev.pins.pwrOk = true → s.dev.pins.heldHot = false →
      ∃ t, exec .perstAssert s = .next t ∧ t.pending = s.pending ∧ t.dev.pins.perst = true ∧ t.dev.pins.resetting = 4
        ∧ t.dev.reg (regAt kpr 0x1D004) = 0x24 ∧ t.dev.mem = [] ∧ t.dev.cores = [])
    ∧ (s.dev.pins.perst = true → s.dev.pins.heldHot = false → s.dev.pins.pwrOk = true →
      ∃ t, exec .perstRelease s = .next t ∧ t.pending = s.pending ∧ t.dev.pins.perst = false
        ∧ t.dev.pins.releaseWaits = false ∧ t.dev.pins.resetting = s.dev.pins.resetting
        ∧ t.dev.regs = s.dev.regs ∧ t.dev.mem = s.dev.mem)
    ∧ (s.dev.pins.perst = true → s.dev.pins.heldHot = true →
      ∃ t, exec .perstRelease s = .next t ∧ t.pending = s.pending ∧ t.dev.pins.perst = false
        ∧ t.dev.pins.releaseWaits = true ∧ t.dev.regs = s.dev.regs)
    ∧ (∀ verified : List (Fin 8), s.dev.pins.resetting = 4 → s.dev.pins.perst = false → s.dev.pins.pwrOk = true →
        s.dev.pins.inputPower = true → s.dev.pins.heldHot = false →
      ((s.dev.markFlash verified).flashWhole = true →
        ∃ t, exec (.coldResetBoot verified) s = .next t ∧ t.pending = s.pending ∧ t.dev.pins.resetting = 0
          ∧ t.dev.gotre.deviceState = .ready ∧ t.dev.gotre.up = true ∧ t.dev.service.active = t.dev.service.flash
          ∧ t.dev.regs = s.dev.regs ∧ t.dev.mem = s.dev.mem)
      ∧ ((s.dev.markFlash verified).flashWhole = false →
        ∃ t, exec (.coldResetBoot verified) s = .next t ∧ t.pending = s.pending ∧ t.dev.pins.resetting = 0
          ∧ t.dev.gotre.deviceState = .recovery ∧ t.dev.gotre.up = s.dev.gotre.up ∧ t.dev.service.recovery = true
          ∧ t.dev.regs = s.dev.regs ∧ t.dev.mem = s.dev.mem))
    ∧ (s.dev.pins.inputPower = false →
      ∃ t, exec .powerUp s = .next t ∧ t.pending = s.pending ∧ t.dev.pins.inputPower = true ∧ t.dev.pins.resetting = 4
        ∧ t.dev.reg (regAt kpr 0x1D004) = 0x14 ∧ t.dev.mem = [] ∧ t.dev.ctrs = [])
    ∧ (∃ t, exec .inputPowerLoss s = .next t ∧ t.pending = s.pending ∧ t.dev.pins.inputPower = false
        ∧ t.dev.mem = [] ∧ t.dev.cores = [] ∧ t.dev.regs = resetRegs ∧ t.dev.service.svnFloor = s.dev.service.svnFloor))

/-- A hot die puts the temperature limit in force until it cools, and a trip powers the dies down and holds the device in reset
until it may start again. -/
def Obligations.HeatLimitsAndTrips : Prop :=
  ∀ s : State,
    (∀ (d : DieId) (temp : Nat), s.dev.clocked = true → droopDies.contains d.val = true →
      (100 ≤ temp →
        ∃ t, exec (.dieTempLimit d temp) s = .next t ∧ t.pending = s.pending ∧ t.dev.power.dieLimit = true
          ∧ t.dev.ctr (regAt kpr 0x1D010)
              = (if s.dev.power.dieLimit then s.dev.ctr (regAt kpr 0x1D010) else addStop64 (s.dev.ctr (regAt kpr 0x1D010)) 1)
          ∧ t.dev.mem = s.dev.mem ∧ t.dev.regs = s.dev.regs)
      ∧ (temp < 100 → exec (.dieTempLimit d temp) s = .next s))
    ∧ (s.dev.power.dieLimit = true →
      ∃ t, exec .dieLimitRelease s = .next t ∧ t.pending = s.pending ∧ t.dev.power.dieLimit = false
        ∧ t.dev.power.ratio = s.dev.power.ratio ∧ t.dev.mem = s.dev.mem ∧ t.dev.regs = s.dev.regs)
    ∧ (∀ r : ThermalReport, s.dev.pins.inputPower = true → s.dev.pins.heldHot = false →
      (115 ≤ r.die ∨ r.inletLong = true ∨ 65 < r.outlet →
        ∃ t, exec (.thermalTrip r) s = .next t ∧ t.pending = s.pending ∧ t.dev.pins.thermTrip = true
          ∧ t.dev.pins.heldHot = true ∧ t.dev.pins.pwrOk = false
          ∧ t.dev.ctr (regAt kpr 0x1D018) = addStop64 (s.dev.ctr (regAt kpr 0x1D018)) 1
          ∧ t.dev.mem = [] ∧ t.dev.cores = [])
      ∧ (r.die < 115 → r.inletLong = false → r.outlet ≤ 65 →
        ∃ t, exec (.thermalTrip r) s = .next t ∧ t.pending = s.pending ∧ t.dev.mem = s.dev.mem ∧ t.dev.regs = s.dev.regs
          ∧ t.dev.pins.heldHot = false ∧ t.dev.cores = s.dev.cores))
    ∧ (∀ hottest inlet : Nat, s.dev.pins.heldHot = true →
      (hottest < 85 → inlet ≤ 35 → s.dev.pins.releaseWaits = false → s.dev.pins.perst = false →
        ∃ t, exec (.thermalRelease hottest inlet) s = .next t ∧ t.pending = s.pending ∧ t.dev.pins.heldHot = false
          ∧ t.dev.pins.pwrOk = true ∧ t.dev.pins.resetting = 4 ∧ t.dev.reg (regAt kpr 0x1D004) = 0x94)
      ∧ (85 ≤ hottest ∨ 35 < inlet → exec (.thermalRelease hottest inlet) s = .next s))

/-- The registers that the spec gives a reset value other than 0 hold it after reset, and no command waits. -/
def Obligations.ResetLeavesTheRegistersAtTheirValues : Prop :=
  State.reset.pending = []
  ∧ (∀ p : PortId, State.reset.dev.reg (klxReg p 4) = 1)
  ∧ State.reset.dev.reg (klxReg 0 0x304) = 0xF
  ∧ (∀ i : Fin 64, State.reset.dev.reg (klxReg 0 (0x400 + 4 * i.val)) = 0xAAAAAAAA)
  ∧ (∀ k : StackId, State.reset.dev.reg (stackReg k 0x0C) = 24)
  ∧ (∀ d ∈ droopDies, State.reset.dev.reg (regAt d 0x19000) = 0x3C1E)
  ∧ State.reset.dev.reg (regAt kpr 0x1C000) = 3 ∧ State.reset.dev.reg (regAt kpr 0x1D004) = 0x14
  ∧ (∀ a, (∀ q ∈ resetRegs, q.1 ≠ a) → State.reset.dev.reg a = 0)
  ∧ (∀ h : HoldId, (State.reset.dev.holding h).state = .closed)
end

