-- ==== Sys2Proof/Laws/Tab.lean ====
section
/-! SUPPORT. The laws of sparse tables: a read after a write, and the canonical form that every operation keeps. -/

namespace Sys2Proof.Laws

open Sys2Proof.Machine

variable {α : Type}

@[simp] theorem Tab.get_nil (d : α) (k : Nat) : Tab.get d [] k = d := rfl

theorem Tab.get_filter_same (d : α) (t : Tab α) (k : Nat) : Tab.get d (t.filter fun p => p.1 != k) k = d := by
  induction t with
  | nil => rfl
  | cons p t ih =>
    by_cases h : p.1 = k
    · simpa [List.filter, h] using ih
    · have hb : (p.1 != k) = true := by simpa using h
      simp [List.filter, hb, Tab.get, h, ih]

theorem Tab.get_filter_ne (d : α) (t : Tab α) {k j : Nat} (h : j ≠ k) :
    Tab.get d (t.filter fun p => p.1 != k) j = Tab.get d t j := by
  induction t with
  | nil => rfl
  | cons p t ih =>
    by_cases hk : p.1 = k
    · have : p.1 ≠ j := by omega
      simp [List.filter, hk, Tab.get, ih, Ne.symm h]
    · have hb : (p.1 != k) = true := by simpa using hk
      simp [List.filter, hb, Tab.get, ih]

variable [DecidableEq α]

/-- A key reads as what was written to it last. -/
@[simp] theorem Tab.get_set_same (d : α) (t : Tab α) (k : Nat) (v : α) : Tab.get d (Tab.set d t k v) k = v := by
  have put : ∀ t : Tab α, Tab.get d (Tab.put d k v t) k = v := by
    intro t
    unfold Tab.put
    split
    · next h => rw [Tab.get_filter_same, h]
    · simp [Tab.get]
  induction t with
  | nil => exact put []
  | cons p t ih =>
    unfold Tab.set
    split
    · exact put _
    · split
      · exact put _
      · next h1 h2 => simp [Tab.get, Ne.symm h2, ih]

/-- A write leaves every other key alone. -/
theorem Tab.get_set_ne (d : α) (t : Tab α) {k j : Nat} (v : α) (h : j ≠ k) :
    Tab.get d (Tab.set d t k v) j = Tab.get d t j := by
  have put : ∀ t : Tab α, Tab.get d (Tab.put d k v t) j = Tab.get d t j := by
    intro t
    unfold Tab.put
    split
    · exact Tab.get_filter_ne d t h
    · simp [Tab.get, Ne.symm h]
  induction t with
  | nil => exact put []
  | cons p t ih =>
    unfold Tab.set
    split
    · exact put _
    · split
      · next h1 h2 =>
        rw [put]
        simp [Tab.get, h2 ▸ Ne.symm h]
      · simp [Tab.get, ih]

/-- The same in one lemma. -/
theorem Tab.get_set (d : α) (t : Tab α) (k j : Nat) (v : α) :
    Tab.get d (Tab.set d t k v) j = if j = k then v else Tab.get d t j := by
  split
  · next h => subst h; exact Tab.get_set_same d t j v
  · next h => exact Tab.get_set_ne d t v h

@[simp] theorem Tab.get_modify_same (d : α) (t : Tab α) (k : Nat) (f : α → α) :
    Tab.get d (Tab.modify d t k f) k = f (Tab.get d t k) := Tab.get_set_same d t k _

theorem Tab.get_modify_ne (d : α) (t : Tab α) {k j : Nat} (f : α → α) (h : j ≠ k) :
    Tab.get d (Tab.modify d t k f) j = Tab.get d t j := Tab.get_set_ne d t _ h

/-- The canonical form as a predicate on the list: keys strictly rising, no default listed. -/
theorem Tab.wf_iff (d : α) (t : Tab α) :
    Tab.wf d t = true ↔ t.Pairwise (fun a b => a.1 < b.1) ∧ ∀ p ∈ t, p.2 ≠ d := by
  induction t with
  | nil => simp [Tab.wf]
  | cons p t ih =>
    cases t with
    | nil => simp [Tab.wf]
    | cons q t =>
      simp only [Tab.wf, Bool.and_eq_true, decide_eq_true_eq, ih]
      constructor
      · rintro ⟨⟨h1, h2⟩, h3, h4⟩
        refine ⟨List.pairwise_cons.2 ⟨?_, h3⟩, ?_⟩
        · intro a ha
          rcases List.mem_cons.1 ha with rfl | ha
          · exact h1
          · exact lt_trans h1 ((List.pairwise_cons.1 h3).1 a ha)
        · intro a ha
          rcases List.mem_cons.1 ha with rfl | ha
          · exact h2
          · exact h4 a ha
      · rintro ⟨h1, h2⟩
        have h3 := List.pairwise_cons.1 h1
        exact ⟨⟨h3.1 q (List.mem_cons_self ..), h2 p (List.mem_cons_self ..)⟩, h3.2,
          fun a ha => h2 a (List.mem_cons_of_mem _ ha)⟩

theorem Tab.wf_filter (d : α) (t : Tab α) (f : Nat × α → Bool) (h : Tab.wf d t = true) :
    Tab.wf d (t.filter f) = true := by
  rw [Tab.wf_iff] at h ⊢
  exact ⟨h.1.filter _, fun p hp => h.2 p (List.mem_filter.1 hp).1⟩

/-- What a write lists: what was listed, or the pair written. -/
theorem Tab.mem_set (d : α) (t : Tab α) (k : Nat) (v : α) {p : Nat × α} (h : p ∈ Tab.set d t k v) :
    p ∈ t ∨ (p = (k, v) ∧ v ≠ d) := by
  have put : ∀ t : Tab α, p ∈ Tab.put d k v t → p ∈ t ∨ (p = (k, v) ∧ v ≠ d) := by
    intro t h
    unfold Tab.put at h
    split at h
    · exact .inl (List.mem_filter.1 h).1
    · next hv => exact (List.mem_cons.1 h).elim (fun e => .inr ⟨e, hv⟩) .inl
  induction t with
  | nil => simpa using put [] h
  | cons q t ih =>
    unfold Tab.set at h
    split at h
    · exact put _ h
    · split at h
      · exact (put _ h).imp (List.mem_cons_of_mem _) id
      · rcases List.mem_cons.1 h with rfl | h
        · exact .inl (List.mem_cons_self ..)
        · exact (ih h).imp (List.mem_cons_of_mem _) id

/-- A write keeps the canonical form. -/
theorem Tab.wf_set (d : α) (t : Tab α) (k : Nat) (v : α) (h : Tab.wf d t = true) : Tab.wf d (Tab.set d t k v) = true := by
  induction t with
  | nil => unfold Tab.set Tab.put; split <;> simp_all [Tab.wf]
  | cons q t ih =>
    have hq := (Tab.wf_iff d (q :: t)).1 h
    have ht : Tab.wf d t = true := (Tab.wf_iff d t).2
      ⟨(List.pairwise_cons.1 hq.1).2, fun p hp => hq.2 p (List.mem_cons_of_mem _ hp)⟩
    unfold Tab.set
    split
    · next hk =>
      unfold Tab.put
      split
      · exact Tab.wf_filter d _ _ h
      · next hv =>
        rw [Tab.wf_iff]
        refine ⟨List.pairwise_cons.2 ⟨?_, hq.1⟩, ?_⟩
        · intro a ha
          rcases List.mem_cons.1 ha with rfl | ha
          · exact hk
          · exact lt_trans hk ((List.pairwise_cons.1 hq.1).1 a ha)
        · intro a ha
          rcases List.mem_cons.1 ha with rfl | ha
          · exact hv
          · exact hq.2 a ha
    · split
      · next hk =>
        unfold Tab.put
        split
        · exact Tab.wf_filter d _ _ ht
        · next hv =>
          rw [Tab.wf_iff]
          refine ⟨List.pairwise_cons.2 ⟨fun a ha => hk ▸ (List.pairwise_cons.1 hq.1).1 a ha, (List.pairwise_cons.1 hq.1).2⟩, ?_⟩
          intro a ha
          rcases List.mem_cons.1 ha with rfl | ha
          · exact hv
          · exact hq.2 a (List.mem_cons_of_mem _ ha)
      · next h1 h2 =>
        have hs := (Tab.wf_iff d _).1 (ih ht)
        rw [Tab.wf_iff]
        refine ⟨List.pairwise_cons.2 ⟨?_, hs.1⟩, ?_⟩
        · intro a ha
          rcases Tab.mem_set d t k v ha with ha | ⟨rfl, -⟩
          · exact (List.pairwise_cons.1 hq.1).1 a ha
          · simp only; omega
        · intro a ha
          rcases List.mem_cons.1 ha with rfl | ha
          · exact hq.2 _ (List.mem_cons_self ..)
          · exact hs.2 a ha

theorem Tab.wf_modify (d : α) (t : Tab α) (k : Nat) (f : α → α) (h : Tab.wf d t = true) :
    Tab.wf d (Tab.modify d t k f) = true := Tab.wf_set d t k _ h

theorem Tab.wf_setList (d : α) (vs : List α) (t : Tab α) (k : Nat) (h : Tab.wf d t = true) :
    Tab.wf d (Tab.setList d t k vs) = true := by
  induction vs generalizing t k with
  | nil => exact h
  | cons v vs ih => exact ih _ _ (Tab.wf_set d t k v h)

theorem Tab.wf_setSome (d : α) (vs : List (Option α)) (t : Tab α) (k : Nat) (h : Tab.wf d t = true) :
    Tab.wf d (Tab.setSome d t k vs) = true := by
  induction vs generalizing t k with
  | nil => exact h
  | cons v vs ih =>
    cases v with
    | none => exact ih _ _ h
    | some v => exact ih _ _ (Tab.wf_set d t k v h)

theorem Tab.wf_clearRange (d : α) (t : Tab α) (lo hi : Nat) (h : Tab.wf d t = true) :
    Tab.wf d (Tab.clearRange t lo hi) = true := Tab.wf_filter d t _ h

/-- A read after a write of consecutive keys: the value written there, or what was there before. -/
theorem Tab.get_setList (d : α) (vs : List α) (t : Tab α) (k j : Nat) :
    Tab.get d (Tab.setList d t k vs) j =
      if h : k ≤ j ∧ j < k + vs.length then vs[j - k]'(by omega) else Tab.get d t j := by
  induction vs generalizing t k with
  | nil => simp [Tab.setList]
  | cons v vs ih =>
    rw [Tab.setList, ih]
    by_cases h1 : k + 1 ≤ j ∧ j < k + 1 + vs.length
    · have h2 : k ≤ j ∧ j < k + (v :: vs).length := by simp; omega
      rw [dif_pos h1, dif_pos h2]
      have : j - k = (j - (k + 1)) + 1 := by omega
      simp [this]
    · rw [dif_neg h1, Tab.get_set]
      by_cases h2 : j = k
      · subst h2
        simp
      · have h3 : ¬ (k ≤ j ∧ j < k + (v :: vs).length) := by simp; simp at h1; omega
        rw [if_neg h2, dif_neg h3]

/-- A cleared key reads as the default, and no other key changes. -/
theorem Tab.get_clearRange (d : α) (t : Tab α) (lo hi j : Nat) :
    Tab.get d (Tab.clearRange t lo hi) j = if lo ≤ j ∧ j < hi then d else Tab.get d t j := by
  unfold Tab.clearRange
  induction t with
  | nil => simp
  | cons p t ih =>
    by_cases h : p.1 < lo ∨ hi ≤ p.1
    · have hb : (decide (p.1 < lo) || decide (hi ≤ p.1)) = true := by simpa using h
      simp only [List.filter, hb, Tab.get]
      by_cases hj : p.1 = j
      · subst hj
        simp; omega
      · simp [hj, ih]
    · have hb : (decide (p.1 < lo) || decide (hi ≤ p.1)) = false := by simpa using h
      simp only [List.filter, hb, Tab.get, ih]
      by_cases hj : p.1 = j
      · subst hj
        have : lo ≤ p.1 ∧ p.1 < hi := by omega
        simp [this]
      · simp [hj]

end Sys2Proof.Laws
end

