-- ==== Sys2Proof/Laws/State.lean ====
section
/-! SUPPORT. The lemmas of State: for each shared update of the device, one for every field that it leaves as it was, and
what it makes of the field it writes; and the memory operations keep the canonical form. -/

namespace Sys2Proof.Machine

open Sys2Proof

variable (s : Dev)


/-! ### setReg -/

@[simp] theorem Dev.setReg_dt (a : Nat) (v : Word32) : (s.setReg a v).dt = s.dt := rfl
@[simp] theorem Dev.setReg_ctrs (a : Nat) (v : Word32) : (s.setReg a v).ctrs = s.ctrs := rfl
@[simp] theorem Dev.setReg_ctrHi (a : Nat) (v : Word32) : (s.setReg a v).ctrHi = s.ctrHi := rfl
@[simp] theorem Dev.setReg_slots (a : Nat) (v : Word32) : (s.setReg a v).slots = s.slots := rfl
@[simp] theorem Dev.setReg_guards (a : Nat) (v : Word32) : (s.setReg a v).guards = s.guards := rfl
@[simp] theorem Dev.setReg_dies (a : Nat) (v : Word32) : (s.setReg a v).dies = s.dies := rfl
@[simp] theorem Dev.setReg_cores (a : Nat) (v : Word32) : (s.setReg a v).cores = s.cores := rfl
@[simp] theorem Dev.setReg_stackTab (a : Nat) (v : Word32) : (s.setReg a v).stackTab = s.stackTab := rfl
@[simp] theorem Dev.setReg_mem (a : Nat) (v : Word32) : (s.setReg a v).mem = s.mem := rfl
@[simp] theorem Dev.setReg_secPoison (a : Nat) (v : Word32) : (s.setReg a v).secPoison = s.secPoison := rfl
@[simp] theorem Dev.setReg_ecc (a : Nat) (v : Word32) : (s.setReg a v).ecc = s.ecc := rfl
@[simp] theorem Dev.setReg_tags (a : Nat) (v : Word32) : (s.setReg a v).tags = s.tags := rfl
@[simp] theorem Dev.setReg_regained (a : Nat) (v : Word32) : (s.setReg a v).regained = s.regained := rfl
@[simp] theorem Dev.setReg_regions (a : Nat) (v : Word32) : (s.setReg a v).regions = s.regions := rfl
@[simp] theorem Dev.setReg_memWaits (a : Nat) (v : Word32) : (s.setReg a v).memWaits = s.memWaits := rfl
@[simp] theorem Dev.setReg_reissues (a : Nat) (v : Word32) : (s.setReg a v).reissues = s.reissues := rfl
@[simp] theorem Dev.setReg_xlat (a : Nat) (v : Word32) : (s.setReg a v).xlat = s.xlat := rfl
@[simp] theorem Dev.setReg_egress (a : Nat) (v : Word32) : (s.setReg a v).egress = s.egress := rfl
@[simp] theorem Dev.setReg_crossTx (a : Nat) (v : Word32) : (s.setReg a v).crossTx = s.crossTx := rfl
@[simp] theorem Dev.setReg_crossRx (a : Nat) (v : Word32) : (s.setReg a v).crossRx = s.crossRx := rfl
@[simp] theorem Dev.setReg_crossing (a : Nat) (v : Word32) : (s.setReg a v).crossing = s.crossing := rfl
@[simp] theorem Dev.setReg_pend (a : Nat) (v : Word32) : (s.setReg a v).pend = s.pend := rfl
@[simp] theorem Dev.setReg_ports (a : Nat) (v : Word32) : (s.setReg a v).ports = s.ports := rfl
@[simp] theorem Dev.setReg_seqTx (a : Nat) (v : Word32) : (s.setReg a v).seqTx = s.seqTx := rfl
@[simp] theorem Dev.setReg_seqRx (a : Nat) (v : Word32) : (s.setReg a v).seqRx = s.seqRx := rfl
@[simp] theorem Dev.setReg_epochs (a : Nat) (v : Word32) : (s.setReg a v).epochs = s.epochs := rfl
@[simp] theorem Dev.setReg_notices (a : Nat) (v : Word32) : (s.setReg a v).notices = s.notices := rfl
@[simp] theorem Dev.setReg_rxWrites (a : Nat) (v : Word32) : (s.setReg a v).rxWrites = s.rxWrites := rfl
@[simp] theorem Dev.setReg_linkState (a : Nat) (v : Word32) : (s.setReg a v).linkState = s.linkState := rfl
@[simp] theorem Dev.setReg_linkSent (a : Nat) (v : Word32) : (s.setReg a v).linkSent = s.linkSent := rfl
@[simp] theorem Dev.setReg_gate (a : Nat) (v : Word32) : (s.setReg a v).gate = s.gate := rfl
@[simp] theorem Dev.setReg_time (a : Nat) (v : Word32) : (s.setReg a v).time = s.time := rfl
@[simp] theorem Dev.setReg_holdings (a : Nat) (v : Word32) : (s.setReg a v).holdings = s.holdings := rfl
@[simp] theorem Dev.setReg_queues (a : Nat) (v : Word32) : (s.setReg a v).queues = s.queues := rfl
@[simp] theorem Dev.setReg_boxes (a : Nat) (v : Word32) : (s.setReg a v).boxes = s.boxes := rfl
@[simp] theorem Dev.setReg_gotre (a : Nat) (v : Word32) : (s.setReg a v).gotre = s.gotre := rfl
@[simp] theorem Dev.setReg_power (a : Nat) (v : Word32) : (s.setReg a v).power = s.power := rfl
@[simp] theorem Dev.setReg_droop (a : Nat) (v : Word32) : (s.setReg a v).droop = s.droop := rfl
@[simp] theorem Dev.setReg_saved (a : Nat) (v : Word32) : (s.setReg a v).saved = s.saved := rfl
@[simp] theorem Dev.setReg_survey (a : Nat) (v : Word32) : (s.setReg a v).survey = s.survey := rfl
@[simp] theorem Dev.setReg_service (a : Nat) (v : Word32) : (s.setReg a v).service = s.service := rfl
@[simp] theorem Dev.setReg_pins (a : Nat) (v : Word32) : (s.setReg a v).pins = s.pins := rfl
@[simp] theorem Dev.setReg_serves (a : Nat) (v : Word32) : (s.setReg a v).serves = s.serves := rfl
@[simp] theorem Dev.setReg_hostReads (a : Nat) (v : Word32) : (s.setReg a v).hostReads = s.hostReads := rfl
@[simp] theorem Dev.setReg_msix (a : Nat) (v : Word32) : (s.setReg a v).msix = s.msix := rfl
@[simp] theorem Dev.setReg_hostTag (a : Nat) (v : Word32) : (s.setReg a v).hostTag = s.hostTag := rfl
@[simp] theorem Dev.setReg_shadow (a : Nat) (v : Word32) : (s.setReg a v).shadow = s.shadow := rfl
@[simp] theorem Dev.setReg_outbox (a : Nat) (v : Word32) : (s.setReg a v).outbox = s.outbox := rfl
@[simp] theorem Dev.setReg_free (a : Nat) (v : Word32) : (s.setReg a v).free = s.free := rfl

/-! ### event -/

@[simp] theorem Dev.event_dt (a : Nat) (b : Word32) : (s.event a b).dt = s.dt := rfl
@[simp] theorem Dev.event_ctrs (a : Nat) (b : Word32) : (s.event a b).ctrs = s.ctrs := rfl
@[simp] theorem Dev.event_ctrHi (a : Nat) (b : Word32) : (s.event a b).ctrHi = s.ctrHi := rfl
@[simp] theorem Dev.event_slots (a : Nat) (b : Word32) : (s.event a b).slots = s.slots := rfl
@[simp] theorem Dev.event_guards (a : Nat) (b : Word32) : (s.event a b).guards = s.guards := rfl
@[simp] theorem Dev.event_dies (a : Nat) (b : Word32) : (s.event a b).dies = s.dies := rfl
@[simp] theorem Dev.event_cores (a : Nat) (b : Word32) : (s.event a b).cores = s.cores := rfl
@[simp] theorem Dev.event_stackTab (a : Nat) (b : Word32) : (s.event a b).stackTab = s.stackTab := rfl
@[simp] theorem Dev.event_mem (a : Nat) (b : Word32) : (s.event a b).mem = s.mem := rfl
@[simp] theorem Dev.event_secPoison (a : Nat) (b : Word32) : (s.event a b).secPoison = s.secPoison := rfl
@[simp] theorem Dev.event_ecc (a : Nat) (b : Word32) : (s.event a b).ecc = s.ecc := rfl
@[simp] theorem Dev.event_tags (a : Nat) (b : Word32) : (s.event a b).tags = s.tags := rfl
@[simp] theorem Dev.event_regained (a : Nat) (b : Word32) : (s.event a b).regained = s.regained := rfl
@[simp] theorem Dev.event_regions (a : Nat) (b : Word32) : (s.event a b).regions = s.regions := rfl
@[simp] theorem Dev.event_memWaits (a : Nat) (b : Word32) : (s.event a b).memWaits = s.memWaits := rfl
@[simp] theorem Dev.event_reissues (a : Nat) (b : Word32) : (s.event a b).reissues = s.reissues := rfl
@[simp] theorem Dev.event_xlat (a : Nat) (b : Word32) : (s.event a b).xlat = s.xlat := rfl
@[simp] theorem Dev.event_egress (a : Nat) (b : Word32) : (s.event a b).egress = s.egress := rfl
@[simp] theorem Dev.event_crossTx (a : Nat) (b : Word32) : (s.event a b).crossTx = s.crossTx := rfl
@[simp] theorem Dev.event_crossRx (a : Nat) (b : Word32) : (s.event a b).crossRx = s.crossRx := rfl
@[simp] theorem Dev.event_crossing (a : Nat) (b : Word32) : (s.event a b).crossing = s.crossing := rfl
@[simp] theorem Dev.event_pend (a : Nat) (b : Word32) : (s.event a b).pend = s.pend := rfl
@[simp] theorem Dev.event_ports (a : Nat) (b : Word32) : (s.event a b).ports = s.ports := rfl
@[simp] theorem Dev.event_seqTx (a : Nat) (b : Word32) : (s.event a b).seqTx = s.seqTx := rfl
@[simp] theorem Dev.event_seqRx (a : Nat) (b : Word32) : (s.event a b).seqRx = s.seqRx := rfl
@[simp] theorem Dev.event_epochs (a : Nat) (b : Word32) : (s.event a b).epochs = s.epochs := rfl
@[simp] theorem Dev.event_notices (a : Nat) (b : Word32) : (s.event a b).notices = s.notices := rfl
@[simp] theorem Dev.event_rxWrites (a : Nat) (b : Word32) : (s.event a b).rxWrites = s.rxWrites := rfl
@[simp] theorem Dev.event_linkState (a : Nat) (b : Word32) : (s.event a b).linkState = s.linkState := rfl
@[simp] theorem Dev.event_linkSent (a : Nat) (b : Word32) : (s.event a b).linkSent = s.linkSent := rfl
@[simp] theorem Dev.event_gate (a : Nat) (b : Word32) : (s.event a b).gate = s.gate := rfl
@[simp] theorem Dev.event_time (a : Nat) (b : Word32) : (s.event a b).time = s.time := rfl
@[simp] theorem Dev.event_holdings (a : Nat) (b : Word32) : (s.event a b).holdings = s.holdings := rfl
@[simp] theorem Dev.event_queues (a : Nat) (b : Word32) : (s.event a b).queues = s.queues := rfl
@[simp] theorem Dev.event_boxes (a : Nat) (b : Word32) : (s.event a b).boxes = s.boxes := rfl
@[simp] theorem Dev.event_gotre (a : Nat) (b : Word32) : (s.event a b).gotre = s.gotre := rfl
@[simp] theorem Dev.event_power (a : Nat) (b : Word32) : (s.event a b).power = s.power := rfl
@[simp] theorem Dev.event_droop (a : Nat) (b : Word32) : (s.event a b).droop = s.droop := rfl
@[simp] theorem Dev.event_saved (a : Nat) (b : Word32) : (s.event a b).saved = s.saved := rfl
@[simp] theorem Dev.event_survey (a : Nat) (b : Word32) : (s.event a b).survey = s.survey := rfl
@[simp] theorem Dev.event_service (a : Nat) (b : Word32) : (s.event a b).service = s.service := rfl
@[simp] theorem Dev.event_pins (a : Nat) (b : Word32) : (s.event a b).pins = s.pins := rfl
@[simp] theorem Dev.event_serves (a : Nat) (b : Word32) : (s.event a b).serves = s.serves := rfl
@[simp] theorem Dev.event_hostReads (a : Nat) (b : Word32) : (s.event a b).hostReads = s.hostReads := rfl
@[simp] theorem Dev.event_msix (a : Nat) (b : Word32) : (s.event a b).msix = s.msix := rfl
@[simp] theorem Dev.event_hostTag (a : Nat) (b : Word32) : (s.event a b).hostTag = s.hostTag := rfl
@[simp] theorem Dev.event_shadow (a : Nat) (b : Word32) : (s.event a b).shadow = s.shadow := rfl
@[simp] theorem Dev.event_outbox (a : Nat) (b : Word32) : (s.event a b).outbox = s.outbox := rfl
@[simp] theorem Dev.event_free (a : Nat) (b : Word32) : (s.event a b).free = s.free := rfl

/-! ### setHolding -/

@[simp] theorem Dev.setHolding_dt (h : HoldId) (v : Holding) : (s.setHolding h v).dt = s.dt := rfl
@[simp] theorem Dev.setHolding_regs (h : HoldId) (v : Holding) : (s.setHolding h v).regs = s.regs := rfl
@[simp] theorem Dev.setHolding_ctrs (h : HoldId) (v : Holding) : (s.setHolding h v).ctrs = s.ctrs := rfl
@[simp] theorem Dev.setHolding_ctrHi (h : HoldId) (v : Holding) : (s.setHolding h v).ctrHi = s.ctrHi := rfl
@[simp] theorem Dev.setHolding_slots (h : HoldId) (v : Holding) : (s.setHolding h v).slots = s.slots := rfl
@[simp] theorem Dev.setHolding_guards (h : HoldId) (v : Holding) : (s.setHolding h v).guards = s.guards := rfl
@[simp] theorem Dev.setHolding_dies (h : HoldId) (v : Holding) : (s.setHolding h v).dies = s.dies := rfl
@[simp] theorem Dev.setHolding_cores (h : HoldId) (v : Holding) : (s.setHolding h v).cores = s.cores := rfl
@[simp] theorem Dev.setHolding_stackTab (h : HoldId) (v : Holding) : (s.setHolding h v).stackTab = s.stackTab := rfl
@[simp] theorem Dev.setHolding_mem (h : HoldId) (v : Holding) : (s.setHolding h v).mem = s.mem := rfl
@[simp] theorem Dev.setHolding_secPoison (h : HoldId) (v : Holding) : (s.setHolding h v).secPoison = s.secPoison := rfl
@[simp] theorem Dev.setHolding_ecc (h : HoldId) (v : Holding) : (s.setHolding h v).ecc = s.ecc := rfl
@[simp] theorem Dev.setHolding_tags (h : HoldId) (v : Holding) : (s.setHolding h v).tags = s.tags := rfl
@[simp] theorem Dev.setHolding_regained (h : HoldId) (v : Holding) : (s.setHolding h v).regained = s.regained := rfl
@[simp] theorem Dev.setHolding_regions (h : HoldId) (v : Holding) : (s.setHolding h v).regions = s.regions := rfl
@[simp] theorem Dev.setHolding_memWaits (h : HoldId) (v : Holding) : (s.setHolding h v).memWaits = s.memWaits := rfl
@[simp] theorem Dev.setHolding_reissues (h : HoldId) (v : Holding) : (s.setHolding h v).reissues = s.reissues := rfl
@[simp] theorem Dev.setHolding_xlat (h : HoldId) (v : Holding) : (s.setHolding h v).xlat = s.xlat := rfl
@[simp] theorem Dev.setHolding_egress (h : HoldId) (v : Holding) : (s.setHolding h v).egress = s.egress := rfl
@[simp] theorem Dev.setHolding_crossTx (h : HoldId) (v : Holding) : (s.setHolding h v).crossTx = s.crossTx := rfl
@[simp] theorem Dev.setHolding_crossRx (h : HoldId) (v : Holding) : (s.setHolding h v).crossRx = s.crossRx := rfl
@[simp] theorem Dev.setHolding_crossing (h : HoldId) (v : Holding) : (s.setHolding h v).crossing = s.crossing := rfl
@[simp] theorem Dev.setHolding_pend (h : HoldId) (v : Holding) : (s.setHolding h v).pend = s.pend := rfl
@[simp] theorem Dev.setHolding_ports (h : HoldId) (v : Holding) : (s.setHolding h v).ports = s.ports := rfl
@[simp] theorem Dev.setHolding_seqTx (h : HoldId) (v : Holding) : (s.setHolding h v).seqTx = s.seqTx := rfl
@[simp] theorem Dev.setHolding_seqRx (h : HoldId) (v : Holding) : (s.setHolding h v).seqRx = s.seqRx := rfl
@[simp] theorem Dev.setHolding_epochs (h : HoldId) (v : Holding) : (s.setHolding h v).epochs = s.epochs := rfl
@[simp] theorem Dev.setHolding_notices (h : HoldId) (v : Holding) : (s.setHolding h v).notices = s.notices := rfl
@[simp] theorem Dev.setHolding_rxWrites (h : HoldId) (v : Holding) : (s.setHolding h v).rxWrites = s.rxWrites := rfl
@[simp] theorem Dev.setHolding_linkState (h : HoldId) (v : Holding) : (s.setHolding h v).linkState = s.linkState := rfl
@[simp] theorem Dev.setHolding_linkSent (h : HoldId) (v : Holding) : (s.setHolding h v).linkSent = s.linkSent := rfl
@[simp] theorem Dev.setHolding_gate (h : HoldId) (v : Holding) : (s.setHolding h v).gate = s.gate := rfl
@[simp] theorem Dev.setHolding_time (h : HoldId) (v : Holding) : (s.setHolding h v).time = s.time := rfl
@[simp] theorem Dev.setHolding_queues (h : HoldId) (v : Holding) : (s.setHolding h v).queues = s.queues := rfl
@[simp] theorem Dev.setHolding_boxes (h : HoldId) (v : Holding) : (s.setHolding h v).boxes = s.boxes := rfl
@[simp] theorem Dev.setHolding_gotre (h : HoldId) (v : Holding) : (s.setHolding h v).gotre = s.gotre := rfl
@[simp] theorem Dev.setHolding_power (h : HoldId) (v : Holding) : (s.setHolding h v).power = s.power := rfl
@[simp] theorem Dev.setHolding_droop (h : HoldId) (v : Holding) : (s.setHolding h v).droop = s.droop := rfl
@[simp] theorem Dev.setHolding_saved (h : HoldId) (v : Holding) : (s.setHolding h v).saved = s.saved := rfl
@[simp] theorem Dev.setHolding_survey (h : HoldId) (v : Holding) : (s.setHolding h v).survey = s.survey := rfl
@[simp] theorem Dev.setHolding_service (h : HoldId) (v : Holding) : (s.setHolding h v).service = s.service := rfl
@[simp] theorem Dev.setHolding_pins (h : HoldId) (v : Holding) : (s.setHolding h v).pins = s.pins := rfl
@[simp] theorem Dev.setHolding_serves (h : HoldId) (v : Holding) : (s.setHolding h v).serves = s.serves := rfl
@[simp] theorem Dev.setHolding_hostReads (h : HoldId) (v : Holding) : (s.setHolding h v).hostReads = s.hostReads := rfl
@[simp] theorem Dev.setHolding_msix (h : HoldId) (v : Holding) : (s.setHolding h v).msix = s.msix := rfl
@[simp] theorem Dev.setHolding_hostTag (h : HoldId) (v : Holding) : (s.setHolding h v).hostTag = s.hostTag := rfl
@[simp] theorem Dev.setHolding_shadow (h : HoldId) (v : Holding) : (s.setHolding h v).shadow = s.shadow := rfl
@[simp] theorem Dev.setHolding_outbox (h : HoldId) (v : Holding) : (s.setHolding h v).outbox = s.outbox := rfl
@[simp] theorem Dev.setHolding_free (h : HoldId) (v : Holding) : (s.setHolding h v).free = s.free := rfl

/-! ### modHolding -/

@[simp] theorem Dev.modHolding_dt (h : HoldId) (f : Holding → Holding) : (s.modHolding h f).dt = s.dt := rfl
@[simp] theorem Dev.modHolding_regs (h : HoldId) (f : Holding → Holding) : (s.modHolding h f).regs = s.regs := rfl
@[simp] theorem Dev.modHolding_ctrs (h : HoldId) (f : Holding → Holding) : (s.modHolding h f).ctrs = s.ctrs := rfl
@[simp] theorem Dev.modHolding_ctrHi (h : HoldId) (f : Holding → Holding) : (s.modHolding h f).ctrHi = s.ctrHi := rfl
@[simp] theorem Dev.modHolding_slots (h : HoldId) (f : Holding → Holding) : (s.modHolding h f).slots = s.slots := rfl
@[simp] theorem Dev.modHolding_guards (h : HoldId) (f : Holding → Holding) : (s.modHolding h f).guards = s.guards := rfl
@[simp] theorem Dev.modHolding_dies (h : HoldId) (f : Holding → Holding) : (s.modHolding h f).dies = s.dies := rfl
@[simp] theorem Dev.modHolding_cores (h : HoldId) (f : Holding → Holding) : (s.modHolding h f).cores = s.cores := rfl
@[simp] theorem Dev.modHolding_stackTab (h : HoldId) (f : Holding → Holding) : (s.modHolding h f).stackTab = s.stackTab := rfl
@[simp] theorem Dev.modHolding_mem (h : HoldId) (f : Holding → Holding) : (s.modHolding h f).mem = s.mem := rfl
@[simp] theorem Dev.modHolding_secPoison (h : HoldId) (f : Holding → Holding) : (s.modHolding h f).secPoison = s.secPoison := rfl
@[simp] theorem Dev.modHolding_ecc (h : HoldId) (f : Holding → Holding) : (s.modHolding h f).ecc = s.ecc := rfl
@[simp] theorem Dev.modHolding_tags (h : HoldId) (f : Holding → Holding) : (s.modHolding h f).tags = s.tags := rfl
@[simp] theorem Dev.modHolding_regained (h : HoldId) (f : Holding → Holding) : (s.modHolding h f).regained = s.regained := rfl
@[simp] theorem Dev.modHolding_regions (h : HoldId) (f : Holding → Holding) : (s.modHolding h f).regions = s.regions := rfl
@[simp] theorem Dev.modHolding_memWaits (h : HoldId) (f : Holding → Holding) : (s.modHolding h f).memWaits = s.memWaits := rfl
@[simp] theorem Dev.modHolding_reissues (h : HoldId) (f : Holding → Holding) : (s.modHolding h f).reissues = s.reissues := rfl
@[simp] theorem Dev.modHolding_xlat (h : HoldId) (f : Holding → Holding) : (s.modHolding h f).xlat = s.xlat := rfl
@[simp] theorem Dev.modHolding_egress (h : HoldId) (f : Holding → Holding) : (s.modHolding h f).egress = s.egress := rfl
@[simp] theorem Dev.modHolding_crossTx (h : HoldId) (f : Holding → Holding) : (s.modHolding h f).crossTx = s.crossTx := rfl
@[simp] theorem Dev.modHolding_crossRx (h : HoldId) (f : Holding → Holding) : (s.modHolding h f).crossRx = s.crossRx := rfl
@[simp] theorem Dev.modHolding_crossing (h : HoldId) (f : Holding → Holding) : (s.modHolding h f).crossing = s.crossing := rfl
@[simp] theorem Dev.modHolding_pend (h : HoldId) (f : Holding → Holding) : (s.modHolding h f).pend = s.pend := rfl
@[simp] theorem Dev.modHolding_ports (h : HoldId) (f : Holding → Holding) : (s.modHolding h f).ports = s.ports := rfl
@[simp] theorem Dev.modHolding_seqTx (h : HoldId) (f : Holding → Holding) : (s.modHolding h f).seqTx = s.seqTx := rfl
@[simp] theorem Dev.modHolding_seqRx (h : HoldId) (f : Holding → Holding) : (s.modHolding h f).seqRx = s.seqRx := rfl
@[simp] theorem Dev.modHolding_epochs (h : HoldId) (f : Holding → Holding) : (s.modHolding h f).epochs = s.epochs := rfl
@[simp] theorem Dev.modHolding_notices (h : HoldId) (f : Holding → Holding) : (s.modHolding h f).notices = s.notices := rfl
@[simp] theorem Dev.modHolding_rxWrites (h : HoldId) (f : Holding → Holding) : (s.modHolding h f).rxWrites = s.rxWrites := rfl
@[simp] theorem Dev.modHolding_linkState (h : HoldId) (f : Holding → Holding) : (s.modHolding h f).linkState = s.linkState := rfl
@[simp] theorem Dev.modHolding_linkSent (h : HoldId) (f : Holding → Holding) : (s.modHolding h f).linkSent = s.linkSent := rfl
@[simp] theorem Dev.modHolding_gate (h : HoldId) (f : Holding → Holding) : (s.modHolding h f).gate = s.gate := rfl
@[simp] theorem Dev.modHolding_time (h : HoldId) (f : Holding → Holding) : (s.modHolding h f).time = s.time := rfl
@[simp] theorem Dev.modHolding_queues (h : HoldId) (f : Holding → Holding) : (s.modHolding h f).queues = s.queues := rfl
@[simp] theorem Dev.modHolding_boxes (h : HoldId) (f : Holding → Holding) : (s.modHolding h f).boxes = s.boxes := rfl
@[simp] theorem Dev.modHolding_gotre (h : HoldId) (f : Holding → Holding) : (s.modHolding h f).gotre = s.gotre := rfl
@[simp] theorem Dev.modHolding_power (h : HoldId) (f : Holding → Holding) : (s.modHolding h f).power = s.power := rfl
@[simp] theorem Dev.modHolding_droop (h : HoldId) (f : Holding → Holding) : (s.modHolding h f).droop = s.droop := rfl
@[simp] theorem Dev.modHolding_saved (h : HoldId) (f : Holding → Holding) : (s.modHolding h f).saved = s.saved := rfl
@[simp] theorem Dev.modHolding_survey (h : HoldId) (f : Holding → Holding) : (s.modHolding h f).survey = s.survey := rfl
@[simp] theorem Dev.modHolding_service (h : HoldId) (f : Holding → Holding) : (s.modHolding h f).service = s.service := rfl
@[simp] theorem Dev.modHolding_pins (h : HoldId) (f : Holding → Holding) : (s.modHolding h f).pins = s.pins := rfl
@[simp] theorem Dev.modHolding_serves (h : HoldId) (f : Holding → Holding) : (s.modHolding h f).serves = s.serves := rfl
@[simp] theorem Dev.modHolding_hostReads (h : HoldId) (f : Holding → Holding) : (s.modHolding h f).hostReads = s.hostReads := rfl
@[simp] theorem Dev.modHolding_msix (h : HoldId) (f : Holding → Holding) : (s.modHolding h f).msix = s.msix := rfl
@[simp] theorem Dev.modHolding_hostTag (h : HoldId) (f : Holding → Holding) : (s.modHolding h f).hostTag = s.hostTag := rfl
@[simp] theorem Dev.modHolding_shadow (h : HoldId) (f : Holding → Holding) : (s.modHolding h f).shadow = s.shadow := rfl
@[simp] theorem Dev.modHolding_outbox (h : HoldId) (f : Holding → Holding) : (s.modHolding h f).outbox = s.outbox := rfl
@[simp] theorem Dev.modHolding_free (h : HoldId) (f : Holding → Holding) : (s.modHolding h f).free = s.free := rfl

/-! ### count -/

@[simp] theorem Dev.count_dt (h : Option HoldId) (a n : Nat) : (s.count h a n).dt = s.dt := rfl
@[simp] theorem Dev.count_regs (h : Option HoldId) (a n : Nat) : (s.count h a n).regs = s.regs := rfl
@[simp] theorem Dev.count_ctrHi (h : Option HoldId) (a n : Nat) : (s.count h a n).ctrHi = s.ctrHi := rfl
@[simp] theorem Dev.count_slots (h : Option HoldId) (a n : Nat) : (s.count h a n).slots = s.slots := rfl
@[simp] theorem Dev.count_guards (h : Option HoldId) (a n : Nat) : (s.count h a n).guards = s.guards := rfl
@[simp] theorem Dev.count_dies (h : Option HoldId) (a n : Nat) : (s.count h a n).dies = s.dies := rfl
@[simp] theorem Dev.count_cores (h : Option HoldId) (a n : Nat) : (s.count h a n).cores = s.cores := rfl
@[simp] theorem Dev.count_stackTab (h : Option HoldId) (a n : Nat) : (s.count h a n).stackTab = s.stackTab := rfl
@[simp] theorem Dev.count_mem (h : Option HoldId) (a n : Nat) : (s.count h a n).mem = s.mem := rfl
@[simp] theorem Dev.count_secPoison (h : Option HoldId) (a n : Nat) : (s.count h a n).secPoison = s.secPoison := rfl
@[simp] theorem Dev.count_ecc (h : Option HoldId) (a n : Nat) : (s.count h a n).ecc = s.ecc := rfl
@[simp] theorem Dev.count_tags (h : Option HoldId) (a n : Nat) : (s.count h a n).tags = s.tags := rfl
@[simp] theorem Dev.count_regained (h : Option HoldId) (a n : Nat) : (s.count h a n).regained = s.regained := rfl
@[simp] theorem Dev.count_regions (h : Option HoldId) (a n : Nat) : (s.count h a n).regions = s.regions := rfl
@[simp] theorem Dev.count_memWaits (h : Option HoldId) (a n : Nat) : (s.count h a n).memWaits = s.memWaits := rfl
@[simp] theorem Dev.count_reissues (h : Option HoldId) (a n : Nat) : (s.count h a n).reissues = s.reissues := rfl
@[simp] theorem Dev.count_xlat (h : Option HoldId) (a n : Nat) : (s.count h a n).xlat = s.xlat := rfl
@[simp] theorem Dev.count_egress (h : Option HoldId) (a n : Nat) : (s.count h a n).egress = s.egress := rfl
@[simp] theorem Dev.count_crossTx (h : Option HoldId) (a n : Nat) : (s.count h a n).crossTx = s.crossTx := rfl
@[simp] theorem Dev.count_crossRx (h : Option HoldId) (a n : Nat) : (s.count h a n).crossRx = s.crossRx := rfl
@[simp] theorem Dev.count_crossing (h : Option HoldId) (a n : Nat) : (s.count h a n).crossing = s.crossing := rfl
@[simp] theorem Dev.count_pend (h : Option HoldId) (a n : Nat) : (s.count h a n).pend = s.pend := rfl
@[simp] theorem Dev.count_ports (h : Option HoldId) (a n : Nat) : (s.count h a n).ports = s.ports := rfl
@[simp] theorem Dev.count_seqTx (h : Option HoldId) (a n : Nat) : (s.count h a n).seqTx = s.seqTx := rfl
@[simp] theorem Dev.count_seqRx (h : Option HoldId) (a n : Nat) : (s.count h a n).seqRx = s.seqRx := rfl
@[simp] theorem Dev.count_epochs (h : Option HoldId) (a n : Nat) : (s.count h a n).epochs = s.epochs := rfl
@[simp] theorem Dev.count_notices (h : Option HoldId) (a n : Nat) : (s.count h a n).notices = s.notices := rfl
@[simp] theorem Dev.count_rxWrites (h : Option HoldId) (a n : Nat) : (s.count h a n).rxWrites = s.rxWrites := rfl
@[simp] theorem Dev.count_linkState (h : Option HoldId) (a n : Nat) : (s.count h a n).linkState = s.linkState := rfl
@[simp] theorem Dev.count_linkSent (h : Option HoldId) (a n : Nat) : (s.count h a n).linkSent = s.linkSent := rfl
@[simp] theorem Dev.count_gate (h : Option HoldId) (a n : Nat) : (s.count h a n).gate = s.gate := rfl
@[simp] theorem Dev.count_time (h : Option HoldId) (a n : Nat) : (s.count h a n).time = s.time := rfl
@[simp] theorem Dev.count_queues (h : Option HoldId) (a n : Nat) : (s.count h a n).queues = s.queues := rfl
@[simp] theorem Dev.count_boxes (h : Option HoldId) (a n : Nat) : (s.count h a n).boxes = s.boxes := rfl
@[simp] theorem Dev.count_gotre (h : Option HoldId) (a n : Nat) : (s.count h a n).gotre = s.gotre := rfl
@[simp] theorem Dev.count_power (h : Option HoldId) (a n : Nat) : (s.count h a n).power = s.power := rfl
@[simp] theorem Dev.count_droop (h : Option HoldId) (a n : Nat) : (s.count h a n).droop = s.droop := rfl
@[simp] theorem Dev.count_saved (h : Option HoldId) (a n : Nat) : (s.count h a n).saved = s.saved := rfl
@[simp] theorem Dev.count_survey (h : Option HoldId) (a n : Nat) : (s.count h a n).survey = s.survey := rfl
@[simp] theorem Dev.count_service (h : Option HoldId) (a n : Nat) : (s.count h a n).service = s.service := rfl
@[simp] theorem Dev.count_pins (h : Option HoldId) (a n : Nat) : (s.count h a n).pins = s.pins := rfl
@[simp] theorem Dev.count_serves (h : Option HoldId) (a n : Nat) : (s.count h a n).serves = s.serves := rfl
@[simp] theorem Dev.count_hostReads (h : Option HoldId) (a n : Nat) : (s.count h a n).hostReads = s.hostReads := rfl
@[simp] theorem Dev.count_msix (h : Option HoldId) (a n : Nat) : (s.count h a n).msix = s.msix := rfl
@[simp] theorem Dev.count_hostTag (h : Option HoldId) (a n : Nat) : (s.count h a n).hostTag = s.hostTag := rfl
@[simp] theorem Dev.count_outbox (h : Option HoldId) (a n : Nat) : (s.count h a n).outbox = s.outbox := rfl
@[simp] theorem Dev.count_free (h : Option HoldId) (a n : Nat) : (s.count h a n).free = s.free := rfl

/-! ### countNum -/

@[simp] theorem Dev.countNum_dt (h : Option HoldId) (a n : Nat) : (s.countNum h a n).dt = s.dt := rfl
@[simp] theorem Dev.countNum_ctrs (h : Option HoldId) (a n : Nat) : (s.countNum h a n).ctrs = s.ctrs := rfl
@[simp] theorem Dev.countNum_ctrHi (h : Option HoldId) (a n : Nat) : (s.countNum h a n).ctrHi = s.ctrHi := rfl
@[simp] theorem Dev.countNum_slots (h : Option HoldId) (a n : Nat) : (s.countNum h a n).slots = s.slots := rfl
@[simp] theorem Dev.countNum_guards (h : Option HoldId) (a n : Nat) : (s.countNum h a n).guards = s.guards := rfl
@[simp] theorem Dev.countNum_dies (h : Option HoldId) (a n : Nat) : (s.countNum h a n).dies = s.dies := rfl
@[simp] theorem Dev.countNum_cores (h : Option HoldId) (a n : Nat) : (s.countNum h a n).cores = s.cores := rfl
@[simp] theorem Dev.countNum_stackTab (h : Option HoldId) (a n : Nat) : (s.countNum h a n).stackTab = s.stackTab := rfl
@[simp] theorem Dev.countNum_mem (h : Option HoldId) (a n : Nat) : (s.countNum h a n).mem = s.mem := rfl
@[simp] theorem Dev.countNum_secPoison (h : Option HoldId) (a n : Nat) : (s.countNum h a n).secPoison = s.secPoison := rfl
@[simp] theorem Dev.countNum_ecc (h : Option HoldId) (a n : Nat) : (s.countNum h a n).ecc = s.ecc := rfl
@[simp] theorem Dev.countNum_tags (h : Option HoldId) (a n : Nat) : (s.countNum h a n).tags = s.tags := rfl
@[simp] theorem Dev.countNum_regained (h : Option HoldId) (a n : Nat) : (s.countNum h a n).regained = s.regained := rfl
@[simp] theorem Dev.countNum_regions (h : Option HoldId) (a n : Nat) : (s.countNum h a n).regions = s.regions := rfl
@[simp] theorem Dev.countNum_memWaits (h : Option HoldId) (a n : Nat) : (s.countNum h a n).memWaits = s.memWaits := rfl
@[simp] theorem Dev.countNum_reissues (h : Option HoldId) (a n : Nat) : (s.countNum h a n).reissues = s.reissues := rfl
@[simp] theorem Dev.countNum_xlat (h : Option HoldId) (a n : Nat) : (s.countNum h a n).xlat = s.xlat := rfl
@[simp] theorem Dev.countNum_egress (h : Option HoldId) (a n : Nat) : (s.countNum h a n).egress = s.egress := rfl
@[simp] theorem Dev.countNum_crossTx (h : Option HoldId) (a n : Nat) : (s.countNum h a n).crossTx = s.crossTx := rfl
@[simp] theorem Dev.countNum_crossRx (h : Option HoldId) (a n : Nat) : (s.countNum h a n).crossRx = s.crossRx := rfl
@[simp] theorem Dev.countNum_crossing (h : Option HoldId) (a n : Nat) : (s.countNum h a n).crossing = s.crossing := rfl
@[simp] theorem Dev.countNum_pend (h : Option HoldId) (a n : Nat) : (s.countNum h a n).pend = s.pend := rfl
@[simp] theorem Dev.countNum_ports (h : Option HoldId) (a n : Nat) : (s.countNum h a n).ports = s.ports := rfl
@[simp] theorem Dev.countNum_seqTx (h : Option HoldId) (a n : Nat) : (s.countNum h a n).seqTx = s.seqTx := rfl
@[simp] theorem Dev.countNum_seqRx (h : Option HoldId) (a n : Nat) : (s.countNum h a n).seqRx = s.seqRx := rfl
@[simp] theorem Dev.countNum_epochs (h : Option HoldId) (a n : Nat) : (s.countNum h a n).epochs = s.epochs := rfl
@[simp] theorem Dev.countNum_notices (h : Option HoldId) (a n : Nat) : (s.countNum h a n).notices = s.notices := rfl
@[simp] theorem Dev.countNum_rxWrites (h : Option HoldId) (a n : Nat) : (s.countNum h a n).rxWrites = s.rxWrites := rfl
@[simp] theorem Dev.countNum_linkState (h : Option HoldId) (a n : Nat) : (s.countNum h a n).linkState = s.linkState := rfl
@[simp] theorem Dev.countNum_linkSent (h : Option HoldId) (a n : Nat) : (s.countNum h a n).linkSent = s.linkSent := rfl
@[simp] theorem Dev.countNum_gate (h : Option HoldId) (a n : Nat) : (s.countNum h a n).gate = s.gate := rfl
@[simp] theorem Dev.countNum_time (h : Option HoldId) (a n : Nat) : (s.countNum h a n).time = s.time := rfl
@[simp] theorem Dev.countNum_queues (h : Option HoldId) (a n : Nat) : (s.countNum h a n).queues = s.queues := rfl
@[simp] theorem Dev.countNum_boxes (h : Option HoldId) (a n : Nat) : (s.countNum h a n).boxes = s.boxes := rfl
@[simp] theorem Dev.countNum_gotre (h : Option HoldId) (a n : Nat) : (s.countNum h a n).gotre = s.gotre := rfl
@[simp] theorem Dev.countNum_power (h : Option HoldId) (a n : Nat) : (s.countNum h a n).power = s.power := rfl
@[simp] theorem Dev.countNum_droop (h : Option HoldId) (a n : Nat) : (s.countNum h a n).droop = s.droop := rfl
@[simp] theorem Dev.countNum_saved (h : Option HoldId) (a n : Nat) : (s.countNum h a n).saved = s.saved := rfl
@[simp] theorem Dev.countNum_survey (h : Option HoldId) (a n : Nat) : (s.countNum h a n).survey = s.survey := rfl
@[simp] theorem Dev.countNum_service (h : Option HoldId) (a n : Nat) : (s.countNum h a n).service = s.service := rfl
@[simp] theorem Dev.countNum_pins (h : Option HoldId) (a n : Nat) : (s.countNum h a n).pins = s.pins := rfl
@[simp] theorem Dev.countNum_serves (h : Option HoldId) (a n : Nat) : (s.countNum h a n).serves = s.serves := rfl
@[simp] theorem Dev.countNum_hostReads (h : Option HoldId) (a n : Nat) : (s.countNum h a n).hostReads = s.hostReads := rfl
@[simp] theorem Dev.countNum_msix (h : Option HoldId) (a n : Nat) : (s.countNum h a n).msix = s.msix := rfl
@[simp] theorem Dev.countNum_hostTag (h : Option HoldId) (a n : Nat) : (s.countNum h a n).hostTag = s.hostTag := rfl
@[simp] theorem Dev.countNum_outbox (h : Option HoldId) (a n : Nat) : (s.countNum h a n).outbox = s.outbox := rfl
@[simp] theorem Dev.countNum_free (h : Option HoldId) (a n : Nat) : (s.countNum h a n).free = s.free := rfl

/-! ### countFree -/

@[simp] theorem Dev.countFree_dt (h : Option HoldId) (a : Nat) : (s.countFree h a).dt = s.dt := rfl
@[simp] theorem Dev.countFree_regs (h : Option HoldId) (a : Nat) : (s.countFree h a).regs = s.regs := rfl
@[simp] theorem Dev.countFree_ctrHi (h : Option HoldId) (a : Nat) : (s.countFree h a).ctrHi = s.ctrHi := rfl
@[simp] theorem Dev.countFree_slots (h : Option HoldId) (a : Nat) : (s.countFree h a).slots = s.slots := rfl
@[simp] theorem Dev.countFree_guards (h : Option HoldId) (a : Nat) : (s.countFree h a).guards = s.guards := rfl
@[simp] theorem Dev.countFree_dies (h : Option HoldId) (a : Nat) : (s.countFree h a).dies = s.dies := rfl
@[simp] theorem Dev.countFree_cores (h : Option HoldId) (a : Nat) : (s.countFree h a).cores = s.cores := rfl
@[simp] theorem Dev.countFree_stackTab (h : Option HoldId) (a : Nat) : (s.countFree h a).stackTab = s.stackTab := rfl
@[simp] theorem Dev.countFree_mem (h : Option HoldId) (a : Nat) : (s.countFree h a).mem = s.mem := rfl
@[simp] theorem Dev.countFree_secPoison (h : Option HoldId) (a : Nat) : (s.countFree h a).secPoison = s.secPoison := rfl
@[simp] theorem Dev.countFree_ecc (h : Option HoldId) (a : Nat) : (s.countFree h a).ecc = s.ecc := rfl
@[simp] theorem Dev.countFree_tags (h : Option HoldId) (a : Nat) : (s.countFree h a).tags = s.tags := rfl
@[simp] theorem Dev.countFree_regained (h : Option HoldId) (a : Nat) : (s.countFree h a).regained = s.regained := rfl
@[simp] theorem Dev.countFree_regions (h : Option HoldId) (a : Nat) : (s.countFree h a).regions = s.regions := rfl
@[simp] theorem Dev.countFree_memWaits (h : Option HoldId) (a : Nat) : (s.countFree h a).memWaits = s.memWaits := rfl
@[simp] theorem Dev.countFree_reissues (h : Option HoldId) (a : Nat) : (s.countFree h a).reissues = s.reissues := rfl
@[simp] theorem Dev.countFree_xlat (h : Option HoldId) (a : Nat) : (s.countFree h a).xlat = s.xlat := rfl
@[simp] theorem Dev.countFree_egress (h : Option HoldId) (a : Nat) : (s.countFree h a).egress = s.egress := rfl
@[simp] theorem Dev.countFree_crossTx (h : Option HoldId) (a : Nat) : (s.countFree h a).crossTx = s.crossTx := rfl
@[simp] theorem Dev.countFree_crossRx (h : Option HoldId) (a : Nat) : (s.countFree h a).crossRx = s.crossRx := rfl
@[simp] theorem Dev.countFree_crossing (h : Option HoldId) (a : Nat) : (s.countFree h a).crossing = s.crossing := rfl
@[simp] theorem Dev.countFree_pend (h : Option HoldId) (a : Nat) : (s.countFree h a).pend = s.pend := rfl
@[simp] theorem Dev.countFree_ports (h : Option HoldId) (a : Nat) : (s.countFree h a).ports = s.ports := rfl
@[simp] theorem Dev.countFree_seqTx (h : Option HoldId) (a : Nat) : (s.countFree h a).seqTx = s.seqTx := rfl
@[simp] theorem Dev.countFree_seqRx (h : Option HoldId) (a : Nat) : (s.countFree h a).seqRx = s.seqRx := rfl
@[simp] theorem Dev.countFree_epochs (h : Option HoldId) (a : Nat) : (s.countFree h a).epochs = s.epochs := rfl
@[simp] theorem Dev.countFree_notices (h : Option HoldId) (a : Nat) : (s.countFree h a).notices = s.notices := rfl
@[simp] theorem Dev.countFree_rxWrites (h : Option HoldId) (a : Nat) : (s.countFree h a).rxWrites = s.rxWrites := rfl
@[simp] theorem Dev.countFree_linkState (h : Option HoldId) (a : Nat) : (s.countFree h a).linkState = s.linkState := rfl
@[simp] theorem Dev.countFree_linkSent (h : Option HoldId) (a : Nat) : (s.countFree h a).linkSent = s.linkSent := rfl
@[simp] theorem Dev.countFree_gate (h : Option HoldId) (a : Nat) : (s.countFree h a).gate = s.gate := rfl
@[simp] theorem Dev.countFree_time (h : Option HoldId) (a : Nat) : (s.countFree h a).time = s.time := rfl
@[simp] theorem Dev.countFree_queues (h : Option HoldId) (a : Nat) : (s.countFree h a).queues = s.queues := rfl
@[simp] theorem Dev.countFree_boxes (h : Option HoldId) (a : Nat) : (s.countFree h a).boxes = s.boxes := rfl
@[simp] theorem Dev.countFree_gotre (h : Option HoldId) (a : Nat) : (s.countFree h a).gotre = s.gotre := rfl
@[simp] theorem Dev.countFree_power (h : Option HoldId) (a : Nat) : (s.countFree h a).power = s.power := rfl
@[simp] theorem Dev.countFree_droop (h : Option HoldId) (a : Nat) : (s.countFree h a).droop = s.droop := rfl
@[simp] theorem Dev.countFree_saved (h : Option HoldId) (a : Nat) : (s.countFree h a).saved = s.saved := rfl
@[simp] theorem Dev.countFree_survey (h : Option HoldId) (a : Nat) : (s.countFree h a).survey = s.survey := rfl
@[simp] theorem Dev.countFree_service (h : Option HoldId) (a : Nat) : (s.countFree h a).service = s.service := rfl
@[simp] theorem Dev.countFree_pins (h : Option HoldId) (a : Nat) : (s.countFree h a).pins = s.pins := rfl
@[simp] theorem Dev.countFree_serves (h : Option HoldId) (a : Nat) : (s.countFree h a).serves = s.serves := rfl
@[simp] theorem Dev.countFree_hostReads (h : Option HoldId) (a : Nat) : (s.countFree h a).hostReads = s.hostReads := rfl
@[simp] theorem Dev.countFree_msix (h : Option HoldId) (a : Nat) : (s.countFree h a).msix = s.msix := rfl
@[simp] theorem Dev.countFree_hostTag (h : Option HoldId) (a : Nat) : (s.countFree h a).hostTag = s.hostTag := rfl
@[simp] theorem Dev.countFree_outbox (h : Option HoldId) (a : Nat) : (s.countFree h a).outbox = s.outbox := rfl

/-! ### setCore -/

@[simp] theorem Dev.setCore_dt (c : CoreId) (v : Core) : (s.setCore c v).dt = s.dt := rfl
@[simp] theorem Dev.setCore_regs (c : CoreId) (v : Core) : (s.setCore c v).regs = s.regs := rfl
@[simp] theorem Dev.setCore_ctrs (c : CoreId) (v : Core) : (s.setCore c v).ctrs = s.ctrs := rfl
@[simp] theorem Dev.setCore_ctrHi (c : CoreId) (v : Core) : (s.setCore c v).ctrHi = s.ctrHi := rfl
@[simp] theorem Dev.setCore_slots (c : CoreId) (v : Core) : (s.setCore c v).slots = s.slots := rfl
@[simp] theorem Dev.setCore_guards (c : CoreId) (v : Core) : (s.setCore c v).guards = s.guards := rfl
@[simp] theorem Dev.setCore_dies (c : CoreId) (v : Core) : (s.setCore c v).dies = s.dies := rfl
@[simp] theorem Dev.setCore_stackTab (c : CoreId) (v : Core) : (s.setCore c v).stackTab = s.stackTab := rfl
@[simp] theorem Dev.setCore_mem (c : CoreId) (v : Core) : (s.setCore c v).mem = s.mem := rfl
@[simp] theorem Dev.setCore_secPoison (c : CoreId) (v : Core) : (s.setCore c v).secPoison = s.secPoison := rfl
@[simp] theorem Dev.setCore_ecc (c : CoreId) (v : Core) : (s.setCore c v).ecc = s.ecc := rfl
@[simp] theorem Dev.setCore_tags (c : CoreId) (v : Core) : (s.setCore c v).tags = s.tags := rfl
@[simp] theorem Dev.setCore_regained (c : CoreId) (v : Core) : (s.setCore c v).regained = s.regained := rfl
@[simp] theorem Dev.setCore_regions (c : CoreId) (v : Core) : (s.setCore c v).regions = s.regions := rfl
@[simp] theorem Dev.setCore_memWaits (c : CoreId) (v : Core) : (s.setCore c v).memWaits = s.memWaits := rfl
@[simp] theorem Dev.setCore_reissues (c : CoreId) (v : Core) : (s.setCore c v).reissues = s.reissues := rfl
@[simp] theorem Dev.setCore_xlat (c : CoreId) (v : Core) : (s.setCore c v).xlat = s.xlat := rfl
@[simp] theorem Dev.setCore_egress (c : CoreId) (v : Core) : (s.setCore c v).egress = s.egress := rfl
@[simp] theorem Dev.setCore_crossTx (c : CoreId) (v : Core) : (s.setCore c v).crossTx = s.crossTx := rfl
@[simp] theorem Dev.setCore_crossRx (c : CoreId) (v : Core) : (s.setCore c v).crossRx = s.crossRx := rfl
@[simp] theorem Dev.setCore_crossing (c : CoreId) (v : Core) : (s.setCore c v).crossing = s.crossing := rfl
@[simp] theorem Dev.setCore_pend (c : CoreId) (v : Core) : (s.setCore c v).pend = s.pend := rfl
@[simp] theorem Dev.setCore_ports (c : CoreId) (v : Core) : (s.setCore c v).ports = s.ports := rfl
@[simp] theorem Dev.setCore_seqTx (c : CoreId) (v : Core) : (s.setCore c v).seqTx = s.seqTx := rfl
@[simp] theorem Dev.setCore_seqRx (c : CoreId) (v : Core) : (s.setCore c v).seqRx = s.seqRx := rfl
@[simp] theorem Dev.setCore_epochs (c : CoreId) (v : Core) : (s.setCore c v).epochs = s.epochs := rfl
@[simp] theorem Dev.setCore_notices (c : CoreId) (v : Core) : (s.setCore c v).notices = s.notices := rfl
@[simp] theorem Dev.setCore_rxWrites (c : CoreId) (v : Core) : (s.setCore c v).rxWrites = s.rxWrites := rfl
@[simp] theorem Dev.setCore_linkState (c : CoreId) (v : Core) : (s.setCore c v).linkState = s.linkState := rfl
@[simp] theorem Dev.setCore_linkSent (c : CoreId) (v : Core) : (s.setCore c v).linkSent = s.linkSent := rfl
@[simp] theorem Dev.setCore_gate (c : CoreId) (v : Core) : (s.setCore c v).gate = s.gate := rfl
@[simp] theorem Dev.setCore_time (c : CoreId) (v : Core) : (s.setCore c v).time = s.time := rfl
@[simp] theorem Dev.setCore_holdings (c : CoreId) (v : Core) : (s.setCore c v).holdings = s.holdings := rfl
@[simp] theorem Dev.setCore_queues (c : CoreId) (v : Core) : (s.setCore c v).queues = s.queues := rfl
@[simp] theorem Dev.setCore_boxes (c : CoreId) (v : Core) : (s.setCore c v).boxes = s.boxes := rfl
@[simp] theorem Dev.setCore_gotre (c : CoreId) (v : Core) : (s.setCore c v).gotre = s.gotre := rfl
@[simp] theorem Dev.setCore_power (c : CoreId) (v : Core) : (s.setCore c v).power = s.power := rfl
@[simp] theorem Dev.setCore_droop (c : CoreId) (v : Core) : (s.setCore c v).droop = s.droop := rfl
@[simp] theorem Dev.setCore_saved (c : CoreId) (v : Core) : (s.setCore c v).saved = s.saved := rfl
@[simp] theorem Dev.setCore_survey (c : CoreId) (v : Core) : (s.setCore c v).survey = s.survey := rfl
@[simp] theorem Dev.setCore_service (c : CoreId) (v : Core) : (s.setCore c v).service = s.service := rfl
@[simp] theorem Dev.setCore_pins (c : CoreId) (v : Core) : (s.setCore c v).pins = s.pins := rfl
@[simp] theorem Dev.setCore_serves (c : CoreId) (v : Core) : (s.setCore c v).serves = s.serves := rfl
@[simp] theorem Dev.setCore_hostReads (c : CoreId) (v : Core) : (s.setCore c v).hostReads = s.hostReads := rfl
@[simp] theorem Dev.setCore_msix (c : CoreId) (v : Core) : (s.setCore c v).msix = s.msix := rfl
@[simp] theorem Dev.setCore_hostTag (c : CoreId) (v : Core) : (s.setCore c v).hostTag = s.hostTag := rfl
@[simp] theorem Dev.setCore_shadow (c : CoreId) (v : Core) : (s.setCore c v).shadow = s.shadow := rfl
@[simp] theorem Dev.setCore_outbox (c : CoreId) (v : Core) : (s.setCore c v).outbox = s.outbox := rfl
@[simp] theorem Dev.setCore_free (c : CoreId) (v : Core) : (s.setCore c v).free = s.free := rfl

/-! ### modCore -/

@[simp] theorem Dev.modCore_dt (c : CoreId) (f : Core → Core) : (s.modCore c f).dt = s.dt := rfl
@[simp] theorem Dev.modCore_regs (c : CoreId) (f : Core → Core) : (s.modCore c f).regs = s.regs := rfl
@[simp] theorem Dev.modCore_ctrs (c : CoreId) (f : Core → Core) : (s.modCore c f).ctrs = s.ctrs := rfl
@[simp] theorem Dev.modCore_ctrHi (c : CoreId) (f : Core → Core) : (s.modCore c f).ctrHi = s.ctrHi := rfl
@[simp] theorem Dev.modCore_slots (c : CoreId) (f : Core → Core) : (s.modCore c f).slots = s.slots := rfl
@[simp] theorem Dev.modCore_guards (c : CoreId) (f : Core → Core) : (s.modCore c f).guards = s.guards := rfl
@[simp] theorem Dev.modCore_dies (c : CoreId) (f : Core → Core) : (s.modCore c f).dies = s.dies := rfl
@[simp] theorem Dev.modCore_stackTab (c : CoreId) (f : Core → Core) : (s.modCore c f).stackTab = s.stackTab := rfl
@[simp] theorem Dev.modCore_mem (c : CoreId) (f : Core → Core) : (s.modCore c f).mem = s.mem := rfl
@[simp] theorem Dev.modCore_secPoison (c : CoreId) (f : Core → Core) : (s.modCore c f).secPoison = s.secPoison := rfl
@[simp] theorem Dev.modCore_ecc (c : CoreId) (f : Core → Core) : (s.modCore c f).ecc = s.ecc := rfl
@[simp] theorem Dev.modCore_tags (c : CoreId) (f : Core → Core) : (s.modCore c f).tags = s.tags := rfl
@[simp] theorem Dev.modCore_regained (c : CoreId) (f : Core → Core) : (s.modCore c f).regained = s.regained := rfl
@[simp] theorem Dev.modCore_regions (c : CoreId) (f : Core → Core) : (s.modCore c f).regions = s.regions := rfl
@[simp] theorem Dev.modCore_memWaits (c : CoreId) (f : Core → Core) : (s.modCore c f).memWaits = s.memWaits := rfl
@[simp] theorem Dev.modCore_reissues (c : CoreId) (f : Core → Core) : (s.modCore c f).reissues = s.reissues := rfl
@[simp] theorem Dev.modCore_xlat (c : CoreId) (f : Core → Core) : (s.modCore c f).xlat = s.xlat := rfl
@[simp] theorem Dev.modCore_egress (c : CoreId) (f : Core → Core) : (s.modCore c f).egress = s.egress := rfl
@[simp] theorem Dev.modCore_crossTx (c : CoreId) (f : Core → Core) : (s.modCore c f).crossTx = s.crossTx := rfl
@[simp] theorem Dev.modCore_crossRx (c : CoreId) (f : Core → Core) : (s.modCore c f).crossRx = s.crossRx := rfl
@[simp] theorem Dev.modCore_crossing (c : CoreId) (f : Core → Core) : (s.modCore c f).crossing = s.crossing := rfl
@[simp] theorem Dev.modCore_pend (c : CoreId) (f : Core → Core) : (s.modCore c f).pend = s.pend := rfl
@[simp] theorem Dev.modCore_ports (c : CoreId) (f : Core → Core) : (s.modCore c f).ports = s.ports := rfl
@[simp] theorem Dev.modCore_seqTx (c : CoreId) (f : Core → Core) : (s.modCore c f).seqTx = s.seqTx := rfl
@[simp] theorem Dev.modCore_seqRx (c : CoreId) (f : Core → Core) : (s.modCore c f).seqRx = s.seqRx := rfl
@[simp] theorem Dev.modCore_epochs (c : CoreId) (f : Core → Core) : (s.modCore c f).epochs = s.epochs := rfl
@[simp] theorem Dev.modCore_notices (c : CoreId) (f : Core → Core) : (s.modCore c f).notices = s.notices := rfl
@[simp] theorem Dev.modCore_rxWrites (c : CoreId) (f : Core → Core) : (s.modCore c f).rxWrites = s.rxWrites := rfl
@[simp] theorem Dev.modCore_linkState (c : CoreId) (f : Core → Core) : (s.modCore c f).linkState = s.linkState := rfl
@[simp] theorem Dev.modCore_linkSent (c : CoreId) (f : Core → Core) : (s.modCore c f).linkSent = s.linkSent := rfl
@[simp] theorem Dev.modCore_gate (c : CoreId) (f : Core → Core) : (s.modCore c f).gate = s.gate := rfl
@[simp] theorem Dev.modCore_time (c : CoreId) (f : Core → Core) : (s.modCore c f).time = s.time := rfl
@[simp] theorem Dev.modCore_holdings (c : CoreId) (f : Core → Core) : (s.modCore c f).holdings = s.holdings := rfl
@[simp] theorem Dev.modCore_queues (c : CoreId) (f : Core → Core) : (s.modCore c f).queues = s.queues := rfl
@[simp] theorem Dev.modCore_boxes (c : CoreId) (f : Core → Core) : (s.modCore c f).boxes = s.boxes := rfl
@[simp] theorem Dev.modCore_gotre (c : CoreId) (f : Core → Core) : (s.modCore c f).gotre = s.gotre := rfl
@[simp] theorem Dev.modCore_power (c : CoreId) (f : Core → Core) : (s.modCore c f).power = s.power := rfl
@[simp] theorem Dev.modCore_droop (c : CoreId) (f : Core → Core) : (s.modCore c f).droop = s.droop := rfl
@[simp] theorem Dev.modCore_saved (c : CoreId) (f : Core → Core) : (s.modCore c f).saved = s.saved := rfl
@[simp] theorem Dev.modCore_survey (c : CoreId) (f : Core → Core) : (s.modCore c f).survey = s.survey := rfl
@[simp] theorem Dev.modCore_service (c : CoreId) (f : Core → Core) : (s.modCore c f).service = s.service := rfl
@[simp] theorem Dev.modCore_pins (c : CoreId) (f : Core → Core) : (s.modCore c f).pins = s.pins := rfl
@[simp] theorem Dev.modCore_serves (c : CoreId) (f : Core → Core) : (s.modCore c f).serves = s.serves := rfl
@[simp] theorem Dev.modCore_hostReads (c : CoreId) (f : Core → Core) : (s.modCore c f).hostReads = s.hostReads := rfl
@[simp] theorem Dev.modCore_msix (c : CoreId) (f : Core → Core) : (s.modCore c f).msix = s.msix := rfl
@[simp] theorem Dev.modCore_hostTag (c : CoreId) (f : Core → Core) : (s.modCore c f).hostTag = s.hostTag := rfl
@[simp] theorem Dev.modCore_shadow (c : CoreId) (f : Core → Core) : (s.modCore c f).shadow = s.shadow := rfl
@[simp] theorem Dev.modCore_outbox (c : CoreId) (f : Core → Core) : (s.modCore c f).outbox = s.outbox := rfl
@[simp] theorem Dev.modCore_free (c : CoreId) (f : Core → Core) : (s.modCore c f).free = s.free := rfl

/-! ### modDie -/

@[simp] theorem Dev.modDie_dt (d : Nat) (f : Die → Die) : (s.modDie d f).dt = s.dt := rfl
@[simp] theorem Dev.modDie_regs (d : Nat) (f : Die → Die) : (s.modDie d f).regs = s.regs := rfl
@[simp] theorem Dev.modDie_ctrs (d : Nat) (f : Die → Die) : (s.modDie d f).ctrs = s.ctrs := rfl
@[simp] theorem Dev.modDie_ctrHi (d : Nat) (f : Die → Die) : (s.modDie d f).ctrHi = s.ctrHi := rfl
@[simp] theorem Dev.modDie_slots (d : Nat) (f : Die → Die) : (s.modDie d f).slots = s.slots := rfl
@[simp] theorem Dev.modDie_guards (d : Nat) (f : Die → Die) : (s.modDie d f).guards = s.guards := rfl
@[simp] theorem Dev.modDie_cores (d : Nat) (f : Die → Die) : (s.modDie d f).cores = s.cores := rfl
@[simp] theorem Dev.modDie_stackTab (d : Nat) (f : Die → Die) : (s.modDie d f).stackTab = s.stackTab := rfl
@[simp] theorem Dev.modDie_mem (d : Nat) (f : Die → Die) : (s.modDie d f).mem = s.mem := rfl
@[simp] theorem Dev.modDie_secPoison (d : Nat) (f : Die → Die) : (s.modDie d f).secPoison = s.secPoison := rfl
@[simp] theorem Dev.modDie_ecc (d : Nat) (f : Die → Die) : (s.modDie d f).ecc = s.ecc := rfl
@[simp] theorem Dev.modDie_tags (d : Nat) (f : Die → Die) : (s.modDie d f).tags = s.tags := rfl
@[simp] theorem Dev.modDie_regained (d : Nat) (f : Die → Die) : (s.modDie d f).regained = s.regained := rfl
@[simp] theorem Dev.modDie_regions (d : Nat) (f : Die → Die) : (s.modDie d f).regions = s.regions := rfl
@[simp] theorem Dev.modDie_memWaits (d : Nat) (f : Die → Die) : (s.modDie d f).memWaits = s.memWaits := rfl
@[simp] theorem Dev.modDie_reissues (d : Nat) (f : Die → Die) : (s.modDie d f).reissues = s.reissues := rfl
@[simp] theorem Dev.modDie_xlat (d : Nat) (f : Die → Die) : (s.modDie d f).xlat = s.xlat := rfl
@[simp] theorem Dev.modDie_egress (d : Nat) (f : Die → Die) : (s.modDie d f).egress = s.egress := rfl
@[simp] theorem Dev.modDie_crossTx (d : Nat) (f : Die → Die) : (s.modDie d f).crossTx = s.crossTx := rfl
@[simp] theorem Dev.modDie_crossRx (d : Nat) (f : Die → Die) : (s.modDie d f).crossRx = s.crossRx := rfl
@[simp] theorem Dev.modDie_crossing (d : Nat) (f : Die → Die) : (s.modDie d f).crossing = s.crossing := rfl
@[simp] theorem Dev.modDie_pend (d : Nat) (f : Die → Die) : (s.modDie d f).pend = s.pend := rfl
@[simp] theorem Dev.modDie_ports (d : Nat) (f : Die → Die) : (s.modDie d f).ports = s.ports := rfl
@[simp] theorem Dev.modDie_seqTx (d : Nat) (f : Die → Die) : (s.modDie d f).seqTx = s.seqTx := rfl
@[simp] theorem Dev.modDie_seqRx (d : Nat) (f : Die → Die) : (s.modDie d f).seqRx = s.seqRx := rfl
@[simp] theorem Dev.modDie_epochs (d : Nat) (f : Die → Die) : (s.modDie d f).epochs = s.epochs := rfl
@[simp] theorem Dev.modDie_notices (d : Nat) (f : Die → Die) : (s.modDie d f).notices = s.notices := rfl
@[simp] theorem Dev.modDie_rxWrites (d : Nat) (f : Die → Die) : (s.modDie d f).rxWrites = s.rxWrites := rfl
@[simp] theorem Dev.modDie_linkState (d : Nat) (f : Die → Die) : (s.modDie d f).linkState = s.linkState := rfl
@[simp] theorem Dev.modDie_linkSent (d : Nat) (f : Die → Die) : (s.modDie d f).linkSent = s.linkSent := rfl
@[simp] theorem Dev.modDie_gate (d : Nat) (f : Die → Die) : (s.modDie d f).gate = s.gate := rfl
@[simp] theorem Dev.modDie_time (d : Nat) (f : Die → Die) : (s.modDie d f).time = s.time := rfl
@[simp] theorem Dev.modDie_holdings (d : Nat) (f : Die → Die) : (s.modDie d f).holdings = s.holdings := rfl
@[simp] theorem Dev.modDie_queues (d : Nat) (f : Die → Die) : (s.modDie d f).queues = s.queues := rfl
@[simp] theorem Dev.modDie_boxes (d : Nat) (f : Die → Die) : (s.modDie d f).boxes = s.boxes := rfl
@[simp] theorem Dev.modDie_gotre (d : Nat) (f : Die → Die) : (s.modDie d f).gotre = s.gotre := rfl
@[simp] theorem Dev.modDie_power (d : Nat) (f : Die → Die) : (s.modDie d f).power = s.power := rfl
@[simp] theorem Dev.modDie_droop (d : Nat) (f : Die → Die) : (s.modDie d f).droop = s.droop := rfl
@[simp] theorem Dev.modDie_saved (d : Nat) (f : Die → Die) : (s.modDie d f).saved = s.saved := rfl
@[simp] theorem Dev.modDie_survey (d : Nat) (f : Die → Die) : (s.modDie d f).survey = s.survey := rfl
@[simp] theorem Dev.modDie_service (d : Nat) (f : Die → Die) : (s.modDie d f).service = s.service := rfl
@[simp] theorem Dev.modDie_pins (d : Nat) (f : Die → Die) : (s.modDie d f).pins = s.pins := rfl
@[simp] theorem Dev.modDie_serves (d : Nat) (f : Die → Die) : (s.modDie d f).serves = s.serves := rfl
@[simp] theorem Dev.modDie_hostReads (d : Nat) (f : Die → Die) : (s.modDie d f).hostReads = s.hostReads := rfl
@[simp] theorem Dev.modDie_msix (d : Nat) (f : Die → Die) : (s.modDie d f).msix = s.msix := rfl
@[simp] theorem Dev.modDie_hostTag (d : Nat) (f : Die → Die) : (s.modDie d f).hostTag = s.hostTag := rfl
@[simp] theorem Dev.modDie_shadow (d : Nat) (f : Die → Die) : (s.modDie d f).shadow = s.shadow := rfl
@[simp] theorem Dev.modDie_outbox (d : Nat) (f : Die → Die) : (s.modDie d f).outbox = s.outbox := rfl
@[simp] theorem Dev.modDie_free (d : Nat) (f : Die → Die) : (s.modDie d f).free = s.free := rfl

/-! ### modStack -/

@[simp] theorem Dev.modStack_dt (k : StackId) (f : Stack → Stack) : (s.modStack k f).dt = s.dt := rfl
@[simp] theorem Dev.modStack_regs (k : StackId) (f : Stack → Stack) : (s.modStack k f).regs = s.regs := rfl
@[simp] theorem Dev.modStack_ctrs (k : StackId) (f : Stack → Stack) : (s.modStack k f).ctrs = s.ctrs := rfl
@[simp] theorem Dev.modStack_ctrHi (k : StackId) (f : Stack → Stack) : (s.modStack k f).ctrHi = s.ctrHi := rfl
@[simp] theorem Dev.modStack_slots (k : StackId) (f : Stack → Stack) : (s.modStack k f).slots = s.slots := rfl
@[simp] theorem Dev.modStack_guards (k : StackId) (f : Stack → Stack) : (s.modStack k f).guards = s.guards := rfl
@[simp] theorem Dev.modStack_dies (k : StackId) (f : Stack → Stack) : (s.modStack k f).dies = s.dies := rfl
@[simp] theorem Dev.modStack_cores (k : StackId) (f : Stack → Stack) : (s.modStack k f).cores = s.cores := rfl
@[simp] theorem Dev.modStack_mem (k : StackId) (f : Stack → Stack) : (s.modStack k f).mem = s.mem := rfl
@[simp] theorem Dev.modStack_secPoison (k : StackId) (f : Stack → Stack) : (s.modStack k f).secPoison = s.secPoison := rfl
@[simp] theorem Dev.modStack_ecc (k : StackId) (f : Stack → Stack) : (s.modStack k f).ecc = s.ecc := rfl
@[simp] theorem Dev.modStack_tags (k : StackId) (f : Stack → Stack) : (s.modStack k f).tags = s.tags := rfl
@[simp] theorem Dev.modStack_regained (k : StackId) (f : Stack → Stack) : (s.modStack k f).regained = s.regained := rfl
@[simp] theorem Dev.modStack_regions (k : StackId) (f : Stack → Stack) : (s.modStack k f).regions = s.regions := rfl
@[simp] theorem Dev.modStack_memWaits (k : StackId) (f : Stack → Stack) : (s.modStack k f).memWaits = s.memWaits := rfl
@[simp] theorem Dev.modStack_reissues (k : StackId) (f : Stack → Stack) : (s.modStack k f).reissues = s.reissues := rfl
@[simp] theorem Dev.modStack_xlat (k : StackId) (f : Stack → Stack) : (s.modStack k f).xlat = s.xlat := rfl
@[simp] theorem Dev.modStack_egress (k : StackId) (f : Stack → Stack) : (s.modStack k f).egress = s.egress := rfl
@[simp] theorem Dev.modStack_crossTx (k : StackId) (f : Stack → Stack) : (s.modStack k f).crossTx = s.crossTx := rfl
@[simp] theorem Dev.modStack_crossRx (k : StackId) (f : Stack → Stack) : (s.modStack k f).crossRx = s.crossRx := rfl
@[simp] theorem Dev.modStack_crossing (k : StackId) (f : Stack → Stack) : (s.modStack k f).crossing = s.crossing := rfl
@[simp] theorem Dev.modStack_pend (k : StackId) (f : Stack → Stack) : (s.modStack k f).pend = s.pend := rfl
@[simp] theorem Dev.modStack_ports (k : StackId) (f : Stack → Stack) : (s.modStack k f).ports = s.ports := rfl
@[simp] theorem Dev.modStack_seqTx (k : StackId) (f : Stack → Stack) : (s.modStack k f).seqTx = s.seqTx := rfl
@[simp] theorem Dev.modStack_seqRx (k : StackId) (f : Stack → Stack) : (s.modStack k f).seqRx = s.seqRx := rfl
@[simp] theorem Dev.modStack_epochs (k : StackId) (f : Stack → Stack) : (s.modStack k f).epochs = s.epochs := rfl
@[simp] theorem Dev.modStack_notices (k : StackId) (f : Stack → Stack) : (s.modStack k f).notices = s.notices := rfl
@[simp] theorem Dev.modStack_rxWrites (k : StackId) (f : Stack → Stack) : (s.modStack k f).rxWrites = s.rxWrites := rfl
@[simp] theorem Dev.modStack_linkState (k : StackId) (f : Stack → Stack) : (s.modStack k f).linkState = s.linkState := rfl
@[simp] theorem Dev.modStack_linkSent (k : StackId) (f : Stack → Stack) : (s.modStack k f).linkSent = s.linkSent := rfl
@[simp] theorem Dev.modStack_gate (k : StackId) (f : Stack → Stack) : (s.modStack k f).gate = s.gate := rfl
@[simp] theorem Dev.modStack_time (k : StackId) (f : Stack → Stack) : (s.modStack k f).time = s.time := rfl
@[simp] theorem Dev.modStack_holdings (k : StackId) (f : Stack → Stack) : (s.modStack k f).holdings = s.holdings := rfl
@[simp] theorem Dev.modStack_queues (k : StackId) (f : Stack → Stack) : (s.modStack k f).queues = s.queues := rfl
@[simp] theorem Dev.modStack_boxes (k : StackId) (f : Stack → Stack) : (s.modStack k f).boxes = s.boxes := rfl
@[simp] theorem Dev.modStack_gotre (k : StackId) (f : Stack → Stack) : (s.modStack k f).gotre = s.gotre := rfl
@[simp] theorem Dev.modStack_power (k : StackId) (f : Stack → Stack) : (s.modStack k f).power = s.power := rfl
@[simp] theorem Dev.modStack_droop (k : StackId) (f : Stack → Stack) : (s.modStack k f).droop = s.droop := rfl
@[simp] theorem Dev.modStack_saved (k : StackId) (f : Stack → Stack) : (s.modStack k f).saved = s.saved := rfl
@[simp] theorem Dev.modStack_survey (k : StackId) (f : Stack → Stack) : (s.modStack k f).survey = s.survey := rfl
@[simp] theorem Dev.modStack_service (k : StackId) (f : Stack → Stack) : (s.modStack k f).service = s.service := rfl
@[simp] theorem Dev.modStack_pins (k : StackId) (f : Stack → Stack) : (s.modStack k f).pins = s.pins := rfl
@[simp] theorem Dev.modStack_serves (k : StackId) (f : Stack → Stack) : (s.modStack k f).serves = s.serves := rfl
@[simp] theorem Dev.modStack_hostReads (k : StackId) (f : Stack → Stack) : (s.modStack k f).hostReads = s.hostReads := rfl
@[simp] theorem Dev.modStack_msix (k : StackId) (f : Stack → Stack) : (s.modStack k f).msix = s.msix := rfl
@[simp] theorem Dev.modStack_hostTag (k : StackId) (f : Stack → Stack) : (s.modStack k f).hostTag = s.hostTag := rfl
@[simp] theorem Dev.modStack_shadow (k : StackId) (f : Stack → Stack) : (s.modStack k f).shadow = s.shadow := rfl
@[simp] theorem Dev.modStack_outbox (k : StackId) (f : Stack → Stack) : (s.modStack k f).outbox = s.outbox := rfl
@[simp] theorem Dev.modStack_free (k : StackId) (f : Stack → Stack) : (s.modStack k f).free = s.free := rfl

/-! ### modPort -/

@[simp] theorem Dev.modPort_dt (p : PortId) (f : Port → Port) : (s.modPort p f).dt = s.dt := rfl
@[simp] theorem Dev.modPort_regs (p : PortId) (f : Port → Port) : (s.modPort p f).regs = s.regs := rfl
@[simp] theorem Dev.modPort_ctrs (p : PortId) (f : Port → Port) : (s.modPort p f).ctrs = s.ctrs := rfl
@[simp] theorem Dev.modPort_ctrHi (p : PortId) (f : Port → Port) : (s.modPort p f).ctrHi = s.ctrHi := rfl
@[simp] theorem Dev.modPort_slots (p : PortId) (f : Port → Port) : (s.modPort p f).slots = s.slots := rfl
@[simp] theorem Dev.modPort_guards (p : PortId) (f : Port → Port) : (s.modPort p f).guards = s.guards := rfl
@[simp] theorem Dev.modPort_dies (p : PortId) (f : Port → Port) : (s.modPort p f).dies = s.dies := rfl
@[simp] theorem Dev.modPort_cores (p : PortId) (f : Port → Port) : (s.modPort p f).cores = s.cores := rfl
@[simp] theorem Dev.modPort_stackTab (p : PortId) (f : Port → Port) : (s.modPort p f).stackTab = s.stackTab := rfl
@[simp] theorem Dev.modPort_mem (p : PortId) (f : Port → Port) : (s.modPort p f).mem = s.mem := rfl
@[simp] theorem Dev.modPort_secPoison (p : PortId) (f : Port → Port) : (s.modPort p f).secPoison = s.secPoison := rfl
@[simp] theorem Dev.modPort_ecc (p : PortId) (f : Port → Port) : (s.modPort p f).ecc = s.ecc := rfl
@[simp] theorem Dev.modPort_tags (p : PortId) (f : Port → Port) : (s.modPort p f).tags = s.tags := rfl
@[simp] theorem Dev.modPort_regained (p : PortId) (f : Port → Port) : (s.modPort p f).regained = s.regained := rfl
@[simp] theorem Dev.modPort_regions (p : PortId) (f : Port → Port) : (s.modPort p f).regions = s.regions := rfl
@[simp] theorem Dev.modPort_memWaits (p : PortId) (f : Port → Port) : (s.modPort p f).memWaits = s.memWaits := rfl
@[simp] theorem Dev.modPort_reissues (p : PortId) (f : Port → Port) : (s.modPort p f).reissues = s.reissues := rfl
@[simp] theorem Dev.modPort_xlat (p : PortId) (f : Port → Port) : (s.modPort p f).xlat = s.xlat := rfl
@[simp] theorem Dev.modPort_egress (p : PortId) (f : Port → Port) : (s.modPort p f).egress = s.egress := rfl
@[simp] theorem Dev.modPort_crossTx (p : PortId) (f : Port → Port) : (s.modPort p f).crossTx = s.crossTx := rfl
@[simp] theorem Dev.modPort_crossRx (p : PortId) (f : Port → Port) : (s.modPort p f).crossRx = s.crossRx := rfl
@[simp] theorem Dev.modPort_crossing (p : PortId) (f : Port → Port) : (s.modPort p f).crossing = s.crossing := rfl
@[simp] theorem Dev.modPort_pend (p : PortId) (f : Port → Port) : (s.modPort p f).pend = s.pend := rfl
@[simp] theorem Dev.modPort_seqTx (p : PortId) (f : Port → Port) : (s.modPort p f).seqTx = s.seqTx := rfl
@[simp] theorem Dev.modPort_seqRx (p : PortId) (f : Port → Port) : (s.modPort p f).seqRx = s.seqRx := rfl
@[simp] theorem Dev.modPort_epochs (p : PortId) (f : Port → Port) : (s.modPort p f).epochs = s.epochs := rfl
@[simp] theorem Dev.modPort_notices (p : PortId) (f : Port → Port) : (s.modPort p f).notices = s.notices := rfl
@[simp] theorem Dev.modPort_rxWrites (p : PortId) (f : Port → Port) : (s.modPort p f).rxWrites = s.rxWrites := rfl
@[simp] theorem Dev.modPort_linkState (p : PortId) (f : Port → Port) : (s.modPort p f).linkState = s.linkState := rfl
@[simp] theorem Dev.modPort_linkSent (p : PortId) (f : Port → Port) : (s.modPort p f).linkSent = s.linkSent := rfl
@[simp] theorem Dev.modPort_gate (p : PortId) (f : Port → Port) : (s.modPort p f).gate = s.gate := rfl
@[simp] theorem Dev.modPort_time (p : PortId) (f : Port → Port) : (s.modPort p f).time = s.time := rfl
@[simp] theorem Dev.modPort_holdings (p : PortId) (f : Port → Port) : (s.modPort p f).holdings = s.holdings := rfl
@[simp] theorem Dev.modPort_queues (p : PortId) (f : Port → Port) : (s.modPort p f).queues = s.queues := rfl
@[simp] theorem Dev.modPort_boxes (p : PortId) (f : Port → Port) : (s.modPort p f).boxes = s.boxes := rfl
@[simp] theorem Dev.modPort_gotre (p : PortId) (f : Port → Port) : (s.modPort p f).gotre = s.gotre := rfl
@[simp] theorem Dev.modPort_power (p : PortId) (f : Port → Port) : (s.modPort p f).power = s.power := rfl
@[simp] theorem Dev.modPort_droop (p : PortId) (f : Port → Port) : (s.modPort p f).droop = s.droop := rfl
@[simp] theorem Dev.modPort_saved (p : PortId) (f : Port → Port) : (s.modPort p f).saved = s.saved := rfl
@[simp] theorem Dev.modPort_survey (p : PortId) (f : Port → Port) : (s.modPort p f).survey = s.survey := rfl
@[simp] theorem Dev.modPort_service (p : PortId) (f : Port → Port) : (s.modPort p f).service = s.service := rfl
@[simp] theorem Dev.modPort_pins (p : PortId) (f : Port → Port) : (s.modPort p f).pins = s.pins := rfl
@[simp] theorem Dev.modPort_serves (p : PortId) (f : Port → Port) : (s.modPort p f).serves = s.serves := rfl
@[simp] theorem Dev.modPort_hostReads (p : PortId) (f : Port → Port) : (s.modPort p f).hostReads = s.hostReads := rfl
@[simp] theorem Dev.modPort_msix (p : PortId) (f : Port → Port) : (s.modPort p f).msix = s.msix := rfl
@[simp] theorem Dev.modPort_hostTag (p : PortId) (f : Port → Port) : (s.modPort p f).hostTag = s.hostTag := rfl
@[simp] theorem Dev.modPort_shadow (p : PortId) (f : Port → Port) : (s.modPort p f).shadow = s.shadow := rfl
@[simp] theorem Dev.modPort_outbox (p : PortId) (f : Port → Port) : (s.modPort p f).outbox = s.outbox := rfl
@[simp] theorem Dev.modPort_free (p : PortId) (f : Port → Port) : (s.modPort p f).free = s.free := rfl

/-! ### modQueue -/

@[simp] theorem Dev.modQueue_dt (q : Nat) (f : Queue → Queue) : (s.modQueue q f).dt = s.dt := rfl
@[simp] theorem Dev.modQueue_regs (q : Nat) (f : Queue → Queue) : (s.modQueue q f).regs = s.regs := rfl
@[simp] theorem Dev.modQueue_ctrs (q : Nat) (f : Queue → Queue) : (s.modQueue q f).ctrs = s.ctrs := rfl
@[simp] theorem Dev.modQueue_ctrHi (q : Nat) (f : Queue → Queue) : (s.modQueue q f).ctrHi = s.ctrHi := rfl
@[simp] theorem Dev.modQueue_slots (q : Nat) (f : Queue → Queue) : (s.modQueue q f).slots = s.slots := rfl
@[simp] theorem Dev.modQueue_guards (q : Nat) (f : Queue → Queue) : (s.modQueue q f).guards = s.guards := rfl
@[simp] theorem Dev.modQueue_dies (q : Nat) (f : Queue → Queue) : (s.modQueue q f).dies = s.dies := rfl
@[simp] theorem Dev.modQueue_cores (q : Nat) (f : Queue → Queue) : (s.modQueue q f).cores = s.cores := rfl
@[simp] theorem Dev.modQueue_stackTab (q : Nat) (f : Queue → Queue) : (s.modQueue q f).stackTab = s.stackTab := rfl
@[simp] theorem Dev.modQueue_mem (q : Nat) (f : Queue → Queue) : (s.modQueue q f).mem = s.mem := rfl
@[simp] theorem Dev.modQueue_secPoison (q : Nat) (f : Queue → Queue) : (s.modQueue q f).secPoison = s.secPoison := rfl
@[simp] theorem Dev.modQueue_ecc (q : Nat) (f : Queue → Queue) : (s.modQueue q f).ecc = s.ecc := rfl
@[simp] theorem Dev.modQueue_tags (q : Nat) (f : Queue → Queue) : (s.modQueue q f).tags = s.tags := rfl
@[simp] theorem Dev.modQueue_regained (q : Nat) (f : Queue → Queue) : (s.modQueue q f).regained = s.regained := rfl
@[simp] theorem Dev.modQueue_regions (q : Nat) (f : Queue → Queue) : (s.modQueue q f).regions = s.regions := rfl
@[simp] theorem Dev.modQueue_memWaits (q : Nat) (f : Queue → Queue) : (s.modQueue q f).memWaits = s.memWaits := rfl
@[simp] theorem Dev.modQueue_reissues (q : Nat) (f : Queue → Queue) : (s.modQueue q f).reissues = s.reissues := rfl
@[simp] theorem Dev.modQueue_xlat (q : Nat) (f : Queue → Queue) : (s.modQueue q f).xlat = s.xlat := rfl
@[simp] theorem Dev.modQueue_egress (q : Nat) (f : Queue → Queue) : (s.modQueue q f).egress = s.egress := rfl
@[simp] theorem Dev.modQueue_crossTx (q : Nat) (f : Queue → Queue) : (s.modQueue q f).crossTx = s.crossTx := rfl
@[simp] theorem Dev.modQueue_crossRx (q : Nat) (f : Queue → Queue) : (s.modQueue q f).crossRx = s.crossRx := rfl
@[simp] theorem Dev.modQueue_crossing (q : Nat) (f : Queue → Queue) : (s.modQueue q f).crossing = s.crossing := rfl
@[simp] theorem Dev.modQueue_pend (q : Nat) (f : Queue → Queue) : (s.modQueue q f).pend = s.pend := rfl
@[simp] theorem Dev.modQueue_ports (q : Nat) (f : Queue → Queue) : (s.modQueue q f).ports = s.ports := rfl
@[simp] theorem Dev.modQueue_seqTx (q : Nat) (f : Queue → Queue) : (s.modQueue q f).seqTx = s.seqTx := rfl
@[simp] theorem Dev.modQueue_seqRx (q : Nat) (f : Queue → Queue) : (s.modQueue q f).seqRx = s.seqRx := rfl
@[simp] theorem Dev.modQueue_epochs (q : Nat) (f : Queue → Queue) : (s.modQueue q f).epochs = s.epochs := rfl
@[simp] theorem Dev.modQueue_notices (q : Nat) (f : Queue → Queue) : (s.modQueue q f).notices = s.notices := rfl
@[simp] theorem Dev.modQueue_rxWrites (q : Nat) (f : Queue → Queue) : (s.modQueue q f).rxWrites = s.rxWrites := rfl
@[simp] theorem Dev.modQueue_linkState (q : Nat) (f : Queue → Queue) : (s.modQueue q f).linkState = s.linkState := rfl
@[simp] theorem Dev.modQueue_linkSent (q : Nat) (f : Queue → Queue) : (s.modQueue q f).linkSent = s.linkSent := rfl
@[simp] theorem Dev.modQueue_gate (q : Nat) (f : Queue → Queue) : (s.modQueue q f).gate = s.gate := rfl
@[simp] theorem Dev.modQueue_time (q : Nat) (f : Queue → Queue) : (s.modQueue q f).time = s.time := rfl
@[simp] theorem Dev.modQueue_holdings (q : Nat) (f : Queue → Queue) : (s.modQueue q f).holdings = s.holdings := rfl
@[simp] theorem Dev.modQueue_boxes (q : Nat) (f : Queue → Queue) : (s.modQueue q f).boxes = s.boxes := rfl
@[simp] theorem Dev.modQueue_gotre (q : Nat) (f : Queue → Queue) : (s.modQueue q f).gotre = s.gotre := rfl
@[simp] theorem Dev.modQueue_power (q : Nat) (f : Queue → Queue) : (s.modQueue q f).power = s.power := rfl
@[simp] theorem Dev.modQueue_droop (q : Nat) (f : Queue → Queue) : (s.modQueue q f).droop = s.droop := rfl
@[simp] theorem Dev.modQueue_saved (q : Nat) (f : Queue → Queue) : (s.modQueue q f).saved = s.saved := rfl
@[simp] theorem Dev.modQueue_survey (q : Nat) (f : Queue → Queue) : (s.modQueue q f).survey = s.survey := rfl
@[simp] theorem Dev.modQueue_service (q : Nat) (f : Queue → Queue) : (s.modQueue q f).service = s.service := rfl
@[simp] theorem Dev.modQueue_pins (q : Nat) (f : Queue → Queue) : (s.modQueue q f).pins = s.pins := rfl
@[simp] theorem Dev.modQueue_serves (q : Nat) (f : Queue → Queue) : (s.modQueue q f).serves = s.serves := rfl
@[simp] theorem Dev.modQueue_hostReads (q : Nat) (f : Queue → Queue) : (s.modQueue q f).hostReads = s.hostReads := rfl
@[simp] theorem Dev.modQueue_msix (q : Nat) (f : Queue → Queue) : (s.modQueue q f).msix = s.msix := rfl
@[simp] theorem Dev.modQueue_hostTag (q : Nat) (f : Queue → Queue) : (s.modQueue q f).hostTag = s.hostTag := rfl
@[simp] theorem Dev.modQueue_shadow (q : Nat) (f : Queue → Queue) : (s.modQueue q f).shadow = s.shadow := rfl
@[simp] theorem Dev.modQueue_outbox (q : Nat) (f : Queue → Queue) : (s.modQueue q f).outbox = s.outbox := rfl
@[simp] theorem Dev.modQueue_free (q : Nat) (f : Queue → Queue) : (s.modQueue q f).free = s.free := rfl

/-! ### modBox -/

@[simp] theorem Dev.modBox_dt (f : FnId) (m : MbId) (g : Mailbox → Mailbox) : (s.modBox f m g).dt = s.dt := rfl
@[simp] theorem Dev.modBox_regs (f : FnId) (m : MbId) (g : Mailbox → Mailbox) : (s.modBox f m g).regs = s.regs := rfl
@[simp] theorem Dev.modBox_ctrs (f : FnId) (m : MbId) (g : Mailbox → Mailbox) : (s.modBox f m g).ctrs = s.ctrs := rfl
@[simp] theorem Dev.modBox_ctrHi (f : FnId) (m : MbId) (g : Mailbox → Mailbox) : (s.modBox f m g).ctrHi = s.ctrHi := rfl
@[simp] theorem Dev.modBox_slots (f : FnId) (m : MbId) (g : Mailbox → Mailbox) : (s.modBox f m g).slots = s.slots := rfl
@[simp] theorem Dev.modBox_guards (f : FnId) (m : MbId) (g : Mailbox → Mailbox) : (s.modBox f m g).guards = s.guards := rfl
@[simp] theorem Dev.modBox_dies (f : FnId) (m : MbId) (g : Mailbox → Mailbox) : (s.modBox f m g).dies = s.dies := rfl
@[simp] theorem Dev.modBox_cores (f : FnId) (m : MbId) (g : Mailbox → Mailbox) : (s.modBox f m g).cores = s.cores := rfl
@[simp] theorem Dev.modBox_stackTab (f : FnId) (m : MbId) (g : Mailbox → Mailbox) : (s.modBox f m g).stackTab = s.stackTab := rfl
@[simp] theorem Dev.modBox_mem (f : FnId) (m : MbId) (g : Mailbox → Mailbox) : (s.modBox f m g).mem = s.mem := rfl
@[simp] theorem Dev.modBox_secPoison (f : FnId) (m : MbId) (g : Mailbox → Mailbox) : (s.modBox f m g).secPoison = s.secPoison := rfl
@[simp] theorem Dev.modBox_ecc (f : FnId) (m : MbId) (g : Mailbox → Mailbox) : (s.modBox f m g).ecc = s.ecc := rfl
@[simp] theorem Dev.modBox_tags (f : FnId) (m : MbId) (g : Mailbox → Mailbox) : (s.modBox f m g).tags = s.tags := rfl
@[simp] theorem Dev.modBox_regained (f : FnId) (m : MbId) (g : Mailbox → Mailbox) : (s.modBox f m g).regained = s.regained := rfl
@[simp] theorem Dev.modBox_regions (f : FnId) (m : MbId) (g : Mailbox → Mailbox) : (s.modBox f m g).regions = s.regions := rfl
@[simp] theorem Dev.modBox_memWaits (f : FnId) (m : MbId) (g : Mailbox → Mailbox) : (s.modBox f m g).memWaits = s.memWaits := rfl
@[simp] theorem Dev.modBox_reissues (f : FnId) (m : MbId) (g : Mailbox → Mailbox) : (s.modBox f m g).reissues = s.reissues := rfl
@[simp] theorem Dev.modBox_xlat (f : FnId) (m : MbId) (g : Mailbox → Mailbox) : (s.modBox f m g).xlat = s.xlat := rfl
@[simp] theorem Dev.modBox_egress (f : FnId) (m : MbId) (g : Mailbox → Mailbox) : (s.modBox f m g).egress = s.egress := rfl
@[simp] theorem Dev.modBox_crossTx (f : FnId) (m : MbId) (g : Mailbox → Mailbox) : (s.modBox f m g).crossTx = s.crossTx := rfl
@[simp] theorem Dev.modBox_crossRx (f : FnId) (m : MbId) (g : Mailbox → Mailbox) : (s.modBox f m g).crossRx = s.crossRx := rfl
@[simp] theorem Dev.modBox_crossing (f : FnId) (m : MbId) (g : Mailbox → Mailbox) : (s.modBox f m g).crossing = s.crossing := rfl
@[simp] theorem Dev.modBox_pend (f : FnId) (m : MbId) (g : Mailbox → Mailbox) : (s.modBox f m g).pend = s.pend := rfl
@[simp] theorem Dev.modBox_ports (f : FnId) (m : MbId) (g : Mailbox → Mailbox) : (s.modBox f m g).ports = s.ports := rfl
@[simp] theorem Dev.modBox_seqTx (f : FnId) (m : MbId) (g : Mailbox → Mailbox) : (s.modBox f m g).seqTx = s.seqTx := rfl
@[simp] theorem Dev.modBox_seqRx (f : FnId) (m : MbId) (g : Mailbox → Mailbox) : (s.modBox f m g).seqRx = s.seqRx := rfl
@[simp] theorem Dev.modBox_epochs (f : FnId) (m : MbId) (g : Mailbox → Mailbox) : (s.modBox f m g).epochs = s.epochs := rfl
@[simp] theorem Dev.modBox_notices (f : FnId) (m : MbId) (g : Mailbox → Mailbox) : (s.modBox f m g).notices = s.notices := rfl
@[simp] theorem Dev.modBox_rxWrites (f : FnId) (m : MbId) (g : Mailbox → Mailbox) : (s.modBox f m g).rxWrites = s.rxWrites := rfl
@[simp] theorem Dev.modBox_linkState (f : FnId) (m : MbId) (g : Mailbox → Mailbox) : (s.modBox f m g).linkState = s.linkState := rfl
@[simp] theorem Dev.modBox_linkSent (f : FnId) (m : MbId) (g : Mailbox → Mailbox) : (s.modBox f m g).linkSent = s.linkSent := rfl
@[simp] theorem Dev.modBox_gate (f : FnId) (m : MbId) (g : Mailbox → Mailbox) : (s.modBox f m g).gate = s.gate := rfl
@[simp] theorem Dev.modBox_time (f : FnId) (m : MbId) (g : Mailbox → Mailbox) : (s.modBox f m g).time = s.time := rfl
@[simp] theorem Dev.modBox_holdings (f : FnId) (m : MbId) (g : Mailbox → Mailbox) : (s.modBox f m g).holdings = s.holdings := rfl
@[simp] theorem Dev.modBox_queues (f : FnId) (m : MbId) (g : Mailbox → Mailbox) : (s.modBox f m g).queues = s.queues := rfl
@[simp] theorem Dev.modBox_gotre (f : FnId) (m : MbId) (g : Mailbox → Mailbox) : (s.modBox f m g).gotre = s.gotre := rfl
@[simp] theorem Dev.modBox_power (f : FnId) (m : MbId) (g : Mailbox → Mailbox) : (s.modBox f m g).power = s.power := rfl
@[simp] theorem Dev.modBox_droop (f : FnId) (m : MbId) (g : Mailbox → Mailbox) : (s.modBox f m g).droop = s.droop := rfl
@[simp] theorem Dev.modBox_saved (f : FnId) (m : MbId) (g : Mailbox → Mailbox) : (s.modBox f m g).saved = s.saved := rfl
@[simp] theorem Dev.modBox_survey (f : FnId) (m : MbId) (g : Mailbox → Mailbox) : (s.modBox f m g).survey = s.survey := rfl
@[simp] theorem Dev.modBox_service (f : FnId) (m : MbId) (g : Mailbox → Mailbox) : (s.modBox f m g).service = s.service := rfl
@[simp] theorem Dev.modBox_pins (f : FnId) (m : MbId) (g : Mailbox → Mailbox) : (s.modBox f m g).pins = s.pins := rfl
@[simp] theorem Dev.modBox_serves (f : FnId) (m : MbId) (g : Mailbox → Mailbox) : (s.modBox f m g).serves = s.serves := rfl
@[simp] theorem Dev.modBox_hostReads (f : FnId) (m : MbId) (g : Mailbox → Mailbox) : (s.modBox f m g).hostReads = s.hostReads := rfl
@[simp] theorem Dev.modBox_msix (f : FnId) (m : MbId) (g : Mailbox → Mailbox) : (s.modBox f m g).msix = s.msix := rfl
@[simp] theorem Dev.modBox_hostTag (f : FnId) (m : MbId) (g : Mailbox → Mailbox) : (s.modBox f m g).hostTag = s.hostTag := rfl
@[simp] theorem Dev.modBox_shadow (f : FnId) (m : MbId) (g : Mailbox → Mailbox) : (s.modBox f m g).shadow = s.shadow := rfl
@[simp] theorem Dev.modBox_outbox (f : FnId) (m : MbId) (g : Mailbox → Mailbox) : (s.modBox f m g).outbox = s.outbox := rfl
@[simp] theorem Dev.modBox_free (f : FnId) (m : MbId) (g : Mailbox → Mailbox) : (s.modBox f m g).free = s.free := rfl

/-! ### emit -/

@[simp] theorem Dev.emit_dt (e : Emit) : (s.emit e).dt = s.dt := rfl
@[simp] theorem Dev.emit_regs (e : Emit) : (s.emit e).regs = s.regs := rfl
@[simp] theorem Dev.emit_ctrs (e : Emit) : (s.emit e).ctrs = s.ctrs := rfl
@[simp] theorem Dev.emit_ctrHi (e : Emit) : (s.emit e).ctrHi = s.ctrHi := rfl
@[simp] theorem Dev.emit_slots (e : Emit) : (s.emit e).slots = s.slots := rfl
@[simp] theorem Dev.emit_guards (e : Emit) : (s.emit e).guards = s.guards := rfl
@[simp] theorem Dev.emit_dies (e : Emit) : (s.emit e).dies = s.dies := rfl
@[simp] theorem Dev.emit_cores (e : Emit) : (s.emit e).cores = s.cores := rfl
@[simp] theorem Dev.emit_stackTab (e : Emit) : (s.emit e).stackTab = s.stackTab := rfl
@[simp] theorem Dev.emit_mem (e : Emit) : (s.emit e).mem = s.mem := rfl
@[simp] theorem Dev.emit_secPoison (e : Emit) : (s.emit e).secPoison = s.secPoison := rfl
@[simp] theorem Dev.emit_ecc (e : Emit) : (s.emit e).ecc = s.ecc := rfl
@[simp] theorem Dev.emit_tags (e : Emit) : (s.emit e).tags = s.tags := rfl
@[simp] theorem Dev.emit_regained (e : Emit) : (s.emit e).regained = s.regained := rfl
@[simp] theorem Dev.emit_regions (e : Emit) : (s.emit e).regions = s.regions := rfl
@[simp] theorem Dev.emit_memWaits (e : Emit) : (s.emit e).memWaits = s.memWaits := rfl
@[simp] theorem Dev.emit_reissues (e : Emit) : (s.emit e).reissues = s.reissues := rfl
@[simp] theorem Dev.emit_xlat (e : Emit) : (s.emit e).xlat = s.xlat := rfl
@[simp] theorem Dev.emit_egress (e : Emit) : (s.emit e).egress = s.egress := rfl
@[simp] theorem Dev.emit_crossTx (e : Emit) : (s.emit e).crossTx = s.crossTx := rfl
@[simp] theorem Dev.emit_crossRx (e : Emit) : (s.emit e).crossRx = s.crossRx := rfl
@[simp] theorem Dev.emit_crossing (e : Emit) : (s.emit e).crossing = s.crossing := rfl
@[simp] theorem Dev.emit_pend (e : Emit) : (s.emit e).pend = s.pend := rfl
@[simp] theorem Dev.emit_ports (e : Emit) : (s.emit e).ports = s.ports := rfl
@[simp] theorem Dev.emit_seqTx (e : Emit) : (s.emit e).seqTx = s.seqTx := rfl
@[simp] theorem Dev.emit_seqRx (e : Emit) : (s.emit e).seqRx = s.seqRx := rfl
@[simp] theorem Dev.emit_epochs (e : Emit) : (s.emit e).epochs = s.epochs := rfl
@[simp] theorem Dev.emit_notices (e : Emit) : (s.emit e).notices = s.notices := rfl
@[simp] theorem Dev.emit_rxWrites (e : Emit) : (s.emit e).rxWrites = s.rxWrites := rfl
@[simp] theorem Dev.emit_linkState (e : Emit) : (s.emit e).linkState = s.linkState := rfl
@[simp] theorem Dev.emit_linkSent (e : Emit) : (s.emit e).linkSent = s.linkSent := rfl
@[simp] theorem Dev.emit_gate (e : Emit) : (s.emit e).gate = s.gate := rfl
@[simp] theorem Dev.emit_time (e : Emit) : (s.emit e).time = s.time := rfl
@[simp] theorem Dev.emit_holdings (e : Emit) : (s.emit e).holdings = s.holdings := rfl
@[simp] theorem Dev.emit_queues (e : Emit) : (s.emit e).queues = s.queues := rfl
@[simp] theorem Dev.emit_boxes (e : Emit) : (s.emit e).boxes = s.boxes := rfl
@[simp] theorem Dev.emit_gotre (e : Emit) : (s.emit e).gotre = s.gotre := rfl
@[simp] theorem Dev.emit_power (e : Emit) : (s.emit e).power = s.power := rfl
@[simp] theorem Dev.emit_droop (e : Emit) : (s.emit e).droop = s.droop := rfl
@[simp] theorem Dev.emit_saved (e : Emit) : (s.emit e).saved = s.saved := rfl
@[simp] theorem Dev.emit_survey (e : Emit) : (s.emit e).survey = s.survey := rfl
@[simp] theorem Dev.emit_service (e : Emit) : (s.emit e).service = s.service := rfl
@[simp] theorem Dev.emit_pins (e : Emit) : (s.emit e).pins = s.pins := rfl
@[simp] theorem Dev.emit_serves (e : Emit) : (s.emit e).serves = s.serves := rfl
@[simp] theorem Dev.emit_hostReads (e : Emit) : (s.emit e).hostReads = s.hostReads := rfl
@[simp] theorem Dev.emit_msix (e : Emit) : (s.emit e).msix = s.msix := rfl
@[simp] theorem Dev.emit_hostTag (e : Emit) : (s.emit e).hostTag = s.hostTag := rfl
@[simp] theorem Dev.emit_shadow (e : Emit) : (s.emit e).shadow = s.shadow := rfl
@[simp] theorem Dev.emit_free (e : Emit) : (s.emit e).free = s.free := rfl

/-! ### emits -/

@[simp] theorem Dev.emits_dt (es : List Emit) : (s.emits es).dt = s.dt := rfl
@[simp] theorem Dev.emits_regs (es : List Emit) : (s.emits es).regs = s.regs := rfl
@[simp] theorem Dev.emits_ctrs (es : List Emit) : (s.emits es).ctrs = s.ctrs := rfl
@[simp] theorem Dev.emits_ctrHi (es : List Emit) : (s.emits es).ctrHi = s.ctrHi := rfl
@[simp] theorem Dev.emits_slots (es : List Emit) : (s.emits es).slots = s.slots := rfl
@[simp] theorem Dev.emits_guards (es : List Emit) : (s.emits es).guards = s.guards := rfl
@[simp] theorem Dev.emits_dies (es : List Emit) : (s.emits es).dies = s.dies := rfl
@[simp] theorem Dev.emits_cores (es : List Emit) : (s.emits es).cores = s.cores := rfl
@[simp] theorem Dev.emits_stackTab (es : List Emit) : (s.emits es).stackTab = s.stackTab := rfl
@[simp] theorem Dev.emits_mem (es : List Emit) : (s.emits es).mem = s.mem := rfl
@[simp] theorem Dev.emits_secPoison (es : List Emit) : (s.emits es).secPoison = s.secPoison := rfl
@[simp] theorem Dev.emits_ecc (es : List Emit) : (s.emits es).ecc = s.ecc := rfl
@[simp] theorem Dev.emits_tags (es : List Emit) : (s.emits es).tags = s.tags := rfl
@[simp] theorem Dev.emits_regained (es : List Emit) : (s.emits es).regained = s.regained := rfl
@[simp] theorem Dev.emits_regions (es : List Emit) : (s.emits es).regions = s.regions := rfl
@[simp] theorem Dev.emits_memWaits (es : List Emit) : (s.emits es).memWaits = s.memWaits := rfl
@[simp] theorem Dev.emits_reissues (es : List Emit) : (s.emits es).reissues = s.reissues := rfl
@[simp] theorem Dev.emits_xlat (es : List Emit) : (s.emits es).xlat = s.xlat := rfl
@[simp] theorem Dev.emits_egress (es : List Emit) : (s.emits es).egress = s.egress := rfl
@[simp] theorem Dev.emits_crossTx (es : List Emit) : (s.emits es).crossTx = s.crossTx := rfl
@[simp] theorem Dev.emits_crossRx (es : List Emit) : (s.emits es).crossRx = s.crossRx := rfl
@[simp] theorem Dev.emits_crossing (es : List Emit) : (s.emits es).crossing = s.crossing := rfl
@[simp] theorem Dev.emits_pend (es : List Emit) : (s.emits es).pend = s.pend := rfl
@[simp] theorem Dev.emits_ports (es : List Emit) : (s.emits es).ports = s.ports := rfl
@[simp] theorem Dev.emits_seqTx (es : List Emit) : (s.emits es).seqTx = s.seqTx := rfl
@[simp] theorem Dev.emits_seqRx (es : List Emit) : (s.emits es).seqRx = s.seqRx := rfl
@[simp] theorem Dev.emits_epochs (es : List Emit) : (s.emits es).epochs = s.epochs := rfl
@[simp] theorem Dev.emits_notices (es : List Emit) : (s.emits es).notices = s.notices := rfl
@[simp] theorem Dev.emits_rxWrites (es : List Emit) : (s.emits es).rxWrites = s.rxWrites := rfl
@[simp] theorem Dev.emits_linkState (es : List Emit) : (s.emits es).linkState = s.linkState := rfl
@[simp] theorem Dev.emits_linkSent (es : List Emit) : (s.emits es).linkSent = s.linkSent := rfl
@[simp] theorem Dev.emits_gate (es : List Emit) : (s.emits es).gate = s.gate := rfl
@[simp] theorem Dev.emits_time (es : List Emit) : (s.emits es).time = s.time := rfl
@[simp] theorem Dev.emits_holdings (es : List Emit) : (s.emits es).holdings = s.holdings := rfl
@[simp] theorem Dev.emits_queues (es : List Emit) : (s.emits es).queues = s.queues := rfl
@[simp] theorem Dev.emits_boxes (es : List Emit) : (s.emits es).boxes = s.boxes := rfl
@[simp] theorem Dev.emits_gotre (es : List Emit) : (s.emits es).gotre = s.gotre := rfl
@[simp] theorem Dev.emits_power (es : List Emit) : (s.emits es).power = s.power := rfl
@[simp] theorem Dev.emits_droop (es : List Emit) : (s.emits es).droop = s.droop := rfl
@[simp] theorem Dev.emits_saved (es : List Emit) : (s.emits es).saved = s.saved := rfl
@[simp] theorem Dev.emits_survey (es : List Emit) : (s.emits es).survey = s.survey := rfl
@[simp] theorem Dev.emits_service (es : List Emit) : (s.emits es).service = s.service := rfl
@[simp] theorem Dev.emits_pins (es : List Emit) : (s.emits es).pins = s.pins := rfl
@[simp] theorem Dev.emits_serves (es : List Emit) : (s.emits es).serves = s.serves := rfl
@[simp] theorem Dev.emits_hostReads (es : List Emit) : (s.emits es).hostReads = s.hostReads := rfl
@[simp] theorem Dev.emits_msix (es : List Emit) : (s.emits es).msix = s.msix := rfl
@[simp] theorem Dev.emits_hostTag (es : List Emit) : (s.emits es).hostTag = s.hostTag := rfl
@[simp] theorem Dev.emits_shadow (es : List Emit) : (s.emits es).shadow = s.shadow := rfl
@[simp] theorem Dev.emits_free (es : List Emit) : (s.emits es).free = s.free := rfl

/-! ### setTag -/

@[simp] theorem Dev.setTag_dt (b : Nat) (t : Tag) : (s.setTag b t).dt = s.dt := rfl
@[simp] theorem Dev.setTag_regs (b : Nat) (t : Tag) : (s.setTag b t).regs = s.regs := rfl
@[simp] theorem Dev.setTag_ctrs (b : Nat) (t : Tag) : (s.setTag b t).ctrs = s.ctrs := rfl
@[simp] theorem Dev.setTag_ctrHi (b : Nat) (t : Tag) : (s.setTag b t).ctrHi = s.ctrHi := rfl
@[simp] theorem Dev.setTag_slots (b : Nat) (t : Tag) : (s.setTag b t).slots = s.slots := rfl
@[simp] theorem Dev.setTag_guards (b : Nat) (t : Tag) : (s.setTag b t).guards = s.guards := rfl
@[simp] theorem Dev.setTag_dies (b : Nat) (t : Tag) : (s.setTag b t).dies = s.dies := rfl
@[simp] theorem Dev.setTag_cores (b : Nat) (t : Tag) : (s.setTag b t).cores = s.cores := rfl
@[simp] theorem Dev.setTag_stackTab (b : Nat) (t : Tag) : (s.setTag b t).stackTab = s.stackTab := rfl
@[simp] theorem Dev.setTag_mem (b : Nat) (t : Tag) : (s.setTag b t).mem = s.mem := rfl
@[simp] theorem Dev.setTag_secPoison (b : Nat) (t : Tag) : (s.setTag b t).secPoison = s.secPoison := rfl
@[simp] theorem Dev.setTag_ecc (b : Nat) (t : Tag) : (s.setTag b t).ecc = s.ecc := rfl
@[simp] theorem Dev.setTag_regained (b : Nat) (t : Tag) : (s.setTag b t).regained = s.regained := rfl
@[simp] theorem Dev.setTag_regions (b : Nat) (t : Tag) : (s.setTag b t).regions = s.regions := rfl
@[simp] theorem Dev.setTag_memWaits (b : Nat) (t : Tag) : (s.setTag b t).memWaits = s.memWaits := rfl
@[simp] theorem Dev.setTag_reissues (b : Nat) (t : Tag) : (s.setTag b t).reissues = s.reissues := rfl
@[simp] theorem Dev.setTag_xlat (b : Nat) (t : Tag) : (s.setTag b t).xlat = s.xlat := rfl
@[simp] theorem Dev.setTag_egress (b : Nat) (t : Tag) : (s.setTag b t).egress = s.egress := rfl
@[simp] theorem Dev.setTag_crossTx (b : Nat) (t : Tag) : (s.setTag b t).crossTx = s.crossTx := rfl
@[simp] theorem Dev.setTag_crossRx (b : Nat) (t : Tag) : (s.setTag b t).crossRx = s.crossRx := rfl
@[simp] theorem Dev.setTag_crossing (b : Nat) (t : Tag) : (s.setTag b t).crossing = s.crossing := rfl
@[simp] theorem Dev.setTag_pend (b : Nat) (t : Tag) : (s.setTag b t).pend = s.pend := rfl
@[simp] theorem Dev.setTag_ports (b : Nat) (t : Tag) : (s.setTag b t).ports = s.ports := rfl
@[simp] theorem Dev.setTag_seqTx (b : Nat) (t : Tag) : (s.setTag b t).seqTx = s.seqTx := rfl
@[simp] theorem Dev.setTag_seqRx (b : Nat) (t : Tag) : (s.setTag b t).seqRx = s.seqRx := rfl
@[simp] theorem Dev.setTag_epochs (b : Nat) (t : Tag) : (s.setTag b t).epochs = s.epochs := rfl
@[simp] theorem Dev.setTag_notices (b : Nat) (t : Tag) : (s.setTag b t).notices = s.notices := rfl
@[simp] theorem Dev.setTag_rxWrites (b : Nat) (t : Tag) : (s.setTag b t).rxWrites = s.rxWrites := rfl
@[simp] theorem Dev.setTag_linkState (b : Nat) (t : Tag) : (s.setTag b t).linkState = s.linkState := rfl
@[simp] theorem Dev.setTag_linkSent (b : Nat) (t : Tag) : (s.setTag b t).linkSent = s.linkSent := rfl
@[simp] theorem Dev.setTag_gate (b : Nat) (t : Tag) : (s.setTag b t).gate = s.gate := rfl
@[simp] theorem Dev.setTag_time (b : Nat) (t : Tag) : (s.setTag b t).time = s.time := rfl
@[simp] theorem Dev.setTag_holdings (b : Nat) (t : Tag) : (s.setTag b t).holdings = s.holdings := rfl
@[simp] theorem Dev.setTag_queues (b : Nat) (t : Tag) : (s.setTag b t).queues = s.queues := rfl
@[simp] theorem Dev.setTag_boxes (b : Nat) (t : Tag) : (s.setTag b t).boxes = s.boxes := rfl
@[simp] theorem Dev.setTag_gotre (b : Nat) (t : Tag) : (s.setTag b t).gotre = s.gotre := rfl
@[simp] theorem Dev.setTag_power (b : Nat) (t : Tag) : (s.setTag b t).power = s.power := rfl
@[simp] theorem Dev.setTag_droop (b : Nat) (t : Tag) : (s.setTag b t).droop = s.droop := rfl
@[simp] theorem Dev.setTag_saved (b : Nat) (t : Tag) : (s.setTag b t).saved = s.saved := rfl
@[simp] theorem Dev.setTag_survey (b : Nat) (t : Tag) : (s.setTag b t).survey = s.survey := rfl
@[simp] theorem Dev.setTag_service (b : Nat) (t : Tag) : (s.setTag b t).service = s.service := rfl
@[simp] theorem Dev.setTag_pins (b : Nat) (t : Tag) : (s.setTag b t).pins = s.pins := rfl
@[simp] theorem Dev.setTag_serves (b : Nat) (t : Tag) : (s.setTag b t).serves = s.serves := rfl
@[simp] theorem Dev.setTag_hostReads (b : Nat) (t : Tag) : (s.setTag b t).hostReads = s.hostReads := rfl
@[simp] theorem Dev.setTag_msix (b : Nat) (t : Tag) : (s.setTag b t).msix = s.msix := rfl
@[simp] theorem Dev.setTag_hostTag (b : Nat) (t : Tag) : (s.setTag b t).hostTag = s.hostTag := rfl
@[simp] theorem Dev.setTag_shadow (b : Nat) (t : Tag) : (s.setTag b t).shadow = s.shadow := rfl
@[simp] theorem Dev.setTag_outbox (b : Nat) (t : Tag) : (s.setTag b t).outbox = s.outbox := rfl
@[simp] theorem Dev.setTag_free (b : Nat) (t : Tag) : (s.setTag b t).free = s.free := rfl

/-! ### takeFree -/

@[simp] theorem Dev.takeFree_dt : s.takeFree.2.dt = s.dt := rfl
@[simp] theorem Dev.takeFree_regs : s.takeFree.2.regs = s.regs := rfl
@[simp] theorem Dev.takeFree_ctrs : s.takeFree.2.ctrs = s.ctrs := rfl
@[simp] theorem Dev.takeFree_ctrHi : s.takeFree.2.ctrHi = s.ctrHi := rfl
@[simp] theorem Dev.takeFree_slots : s.takeFree.2.slots = s.slots := rfl
@[simp] theorem Dev.takeFree_guards : s.takeFree.2.guards = s.guards := rfl
@[simp] theorem Dev.takeFree_dies : s.takeFree.2.dies = s.dies := rfl
@[simp] theorem Dev.takeFree_cores : s.takeFree.2.cores = s.cores := rfl
@[simp] theorem Dev.takeFree_stackTab : s.takeFree.2.stackTab = s.stackTab := rfl
@[simp] theorem Dev.takeFree_mem : s.takeFree.2.mem = s.mem := rfl
@[simp] theorem Dev.takeFree_secPoison : s.takeFree.2.secPoison = s.secPoison := rfl
@[simp] theorem Dev.takeFree_ecc : s.takeFree.2.ecc = s.ecc := rfl
@[simp] theorem Dev.takeFree_tags : s.takeFree.2.tags = s.tags := rfl
@[simp] theorem Dev.takeFree_regained : s.takeFree.2.regained = s.regained := rfl
@[simp] theorem Dev.takeFree_regions : s.takeFree.2.regions = s.regions := rfl
@[simp] theorem Dev.takeFree_memWaits : s.takeFree.2.memWaits = s.memWaits := rfl
@[simp] theorem Dev.takeFree_reissues : s.takeFree.2.reissues = s.reissues := rfl
@[simp] theorem Dev.takeFree_xlat : s.takeFree.2.xlat = s.xlat := rfl
@[simp] theorem Dev.takeFree_egress : s.takeFree.2.egress = s.egress := rfl
@[simp] theorem Dev.takeFree_crossTx : s.takeFree.2.crossTx = s.crossTx := rfl
@[simp] theorem Dev.takeFree_crossRx : s.takeFree.2.crossRx = s.crossRx := rfl
@[simp] theorem Dev.takeFree_crossing : s.takeFree.2.crossing = s.crossing := rfl
@[simp] theorem Dev.takeFree_pend : s.takeFree.2.pend = s.pend := rfl
@[simp] theorem Dev.takeFree_ports : s.takeFree.2.ports = s.ports := rfl
@[simp] theorem Dev.takeFree_seqTx : s.takeFree.2.seqTx = s.seqTx := rfl
@[simp] theorem Dev.takeFree_seqRx : s.takeFree.2.seqRx = s.seqRx := rfl
@[simp] theorem Dev.takeFree_epochs : s.takeFree.2.epochs = s.epochs := rfl
@[simp] theorem Dev.takeFree_notices : s.takeFree.2.notices = s.notices := rfl
@[simp] theorem Dev.takeFree_rxWrites : s.takeFree.2.rxWrites = s.rxWrites := rfl
@[simp] theorem Dev.takeFree_linkState : s.takeFree.2.linkState = s.linkState := rfl
@[simp] theorem Dev.takeFree_linkSent : s.takeFree.2.linkSent = s.linkSent := rfl
@[simp] theorem Dev.takeFree_gate : s.takeFree.2.gate = s.gate := rfl
@[simp] theorem Dev.takeFree_time : s.takeFree.2.time = s.time := rfl
@[simp] theorem Dev.takeFree_holdings : s.takeFree.2.holdings = s.holdings := rfl
@[simp] theorem Dev.takeFree_queues : s.takeFree.2.queues = s.queues := rfl
@[simp] theorem Dev.takeFree_boxes : s.takeFree.2.boxes = s.boxes := rfl
@[simp] theorem Dev.takeFree_gotre : s.takeFree.2.gotre = s.gotre := rfl
@[simp] theorem Dev.takeFree_power : s.takeFree.2.power = s.power := rfl
@[simp] theorem Dev.takeFree_droop : s.takeFree.2.droop = s.droop := rfl
@[simp] theorem Dev.takeFree_saved : s.takeFree.2.saved = s.saved := rfl
@[simp] theorem Dev.takeFree_survey : s.takeFree.2.survey = s.survey := rfl
@[simp] theorem Dev.takeFree_service : s.takeFree.2.service = s.service := rfl
@[simp] theorem Dev.takeFree_pins : s.takeFree.2.pins = s.pins := rfl
@[simp] theorem Dev.takeFree_serves : s.takeFree.2.serves = s.serves := rfl
@[simp] theorem Dev.takeFree_hostReads : s.takeFree.2.hostReads = s.hostReads := rfl
@[simp] theorem Dev.takeFree_msix : s.takeFree.2.msix = s.msix := rfl
@[simp] theorem Dev.takeFree_hostTag : s.takeFree.2.hostTag = s.hostTag := rfl
@[simp] theorem Dev.takeFree_shadow : s.takeFree.2.shadow = s.shadow := rfl
@[simp] theorem Dev.takeFree_outbox : s.takeFree.2.outbox = s.outbox := rfl
@[simp] theorem Dev.takeFree_free : s.takeFree.2.free = s.free + 1 := rfl

/-! ### What is read after a write -/

theorem Dev.reg_setReg (a b : Nat) (v : Word32) : (s.setReg a v).reg b = if b = a then v else s.reg b :=
  Laws.Tab.get_set 0 s.regs a b v
theorem Dev.reg_event (a b : Nat) (x : Word32) : (s.event a x).reg b = if b = a then s.reg a ||| x else s.reg b :=
  Laws.Tab.get_set 0 s.regs a b _
theorem Dev.ctr_count (h : Option HoldId) (a n b : Nat) :
    (s.count h a n).ctr b = if b = a then addStop64 (s.ctr a) n else s.ctr b :=
  Laws.Tab.get_set 0 s.ctrs a b _
theorem Dev.core_setCore (c e : CoreId) (v : Core) : (s.setCore c v).core e = if e = c then v else s.core e := by
  simp only [Dev.core, Dev.setCore, Laws.Tab.get_set, Fin.val_inj]
theorem Dev.core_modCore (c e : CoreId) (f : Core → Core) :
    (s.modCore c f).core e = if e = c then f (s.core c) else s.core e := by
  simp only [Dev.core, Dev.modCore, Tab.modify, Laws.Tab.get_set, Fin.val_inj]
theorem Dev.holding_setHolding (h k : HoldId) (v : Holding) :
    (s.setHolding h v).holding k = if k = h then v else s.holding k := by
  simp only [Dev.holding, Dev.setHolding, Laws.Tab.get_set, Fin.val_inj]
theorem Dev.holding_modHolding (h k : HoldId) (f : Holding → Holding) :
    (s.modHolding h f).holding k = if k = h then f (s.holding h) else s.holding k := by
  simp only [Dev.holding, Dev.modHolding, Tab.modify, Laws.Tab.get_set, Fin.val_inj]
theorem Dev.die_modDie (d e : Nat) (f : Die → Die) : (s.modDie d f).die e = if e = d then f (s.die d) else s.die e := by
  simp only [Dev.die, Dev.modDie, Tab.modify, Laws.Tab.get_set]
theorem Dev.stack_modStack (k j : StackId) (f : Stack → Stack) :
    (s.modStack k f).stack j = if j = k then f (s.stack k) else s.stack j := by
  simp only [Dev.stack, Dev.modStack, Tab.modify, Laws.Tab.get_set, Fin.val_inj]
theorem Dev.port_modPort (p q : PortId) (f : Port → Port) :
    (s.modPort p f).port q = if q = p then f (s.port p) else s.port q := by
  simp only [Dev.port, Dev.modPort, Tab.modify, Laws.Tab.get_set, Fin.val_inj]
theorem Dev.queue_modQueue (q r : Nat) (f : Queue → Queue) :
    (s.modQueue q f).queue r = if r = q then f (s.queue q) else s.queue r := by
  simp only [Dev.queue, Dev.modQueue, Tab.modify, Laws.Tab.get_set]
theorem Dev.emit_outbox (e : Emit) : (s.emit e).outbox = s.outbox ++ [e] := rfl
theorem Dev.emits_outbox (es : List Emit) : (s.emits es).outbox = s.outbox ++ es := rfl

/-! ### Memory keeps its canonical form -/

/-- Error correction at a read keeps memory canonical (R235). -/
theorem Dev.eccRead_mem_wf (k : StackId) (o : Owner) (x : Nat) (e : EccOutcome) (h : Tab.wf 0 s.mem = true) :
    Tab.wf 0 (s.eccRead k o x e).mem = true := by
  cases e with
  | clean => exact h
  | corrected => exact h
  | uncorrectable => exact h
  | miscorrected v =>
    have e : (s.eccRead k o x (.miscorrected v)).mem
        = Tab.setList 0 s.mem (x * 32) (leBytes 32 (leNat (s.stored (x * 32) 32) ^^^ v.toNat)) := by
      simp only [Dev.eccRead, Dev.countMem, Dev.count_mem]
    rw [e]
    exact Laws.Tab.wf_setList 0 _ _ _ h

/-- So does meeting the error that stands in a sector. -/
theorem Dev.meetEcc_mem_wf (k : StackId) (o : Owner) (x : Nat) (h : Tab.wf 0 s.mem = true) :
    Tab.wf 0 (s.meetEcc k o x).mem = true := by
  unfold Dev.meetEcc
  split
  · exact h
  · exact Dev.eccRead_mem_wf _ k o x _ h

theorem Dev.meetAll_mem_wf (k : StackId) (o : Owner) (xs : List Nat) (s : Dev) (h : Tab.wf 0 s.mem = true) :
    Tab.wf 0 (s.meetAll k o xs).mem = true := by
  unfold Dev.meetAll
  induction xs generalizing s with
  | nil => exact h
  | cons x xs ih => exact ih _ (Dev.meetEcc_mem_wf s k o x h)

/-- A block that begins anew keeps memory canonical (R231). -/
theorem Dev.freshBlock_mem_wf (b : Nat) (whole : Bool) (h : Tab.wf 0 s.mem = true) :
    Tab.wf 0 (s.freshBlock b whole).mem = true := by
  cases whole
  · exact Laws.Tab.wf_clearRange 0 _ _ _ h
  · exact h

/-- The bytes of a write keep memory canonical (R217, R230). -/
theorem Dev.putBytes_mem_wf (pa : Nat) (data : List (Option PByte)) (e : BitVec 16) (h : Tab.wf 0 s.mem = true) :
    Tab.wf 0 (s.putBytes pa data e).mem = true := Laws.Tab.wf_setSome 0 _ _ _ h

/-- A write keeps memory canonical (R230, R231). -/
theorem Dev.storeBlock_mem_wf (pa : Nat) (data : List (Option PByte)) (o : Owner) (e : BitVec 16) (p : Bool)
    (h : Tab.wf 0 s.mem = true) : Tab.wf 0 (s.storeBlock pa data o e p).mem = true := by
  unfold Dev.storeBlock
  extract_lets b k whole fresh s1 rmw s2 s3 s4 s5
  have h1 : Tab.wf 0 s1.mem = true := by
    simp only [s1]
    split
    · exact Dev.freshBlock_mem_wf s _ _ h
    · exact h
  have h2 : Tab.wf 0 s2.mem = true := Dev.putBytes_mem_wf _ _ _ _ (Dev.meetAll_mem_wf _ _ _ _ h1)
  have h3 : s3.mem = s2.mem := by simp only [s3]; split <;> rfl
  have h5 : s5.mem = s2.mem := by simp only [s5]; split <;> exact h3
  split
  · exact h5 ▸ h2
  · exact h5 ▸ h2

/-- Memory is canonical at reset: nothing is listed. -/
theorem State.reset_mem_wf : Tab.wf 0 State.reset.dev.mem = true := rfl

end Sys2Proof.Machine
end

