-- ==== Sys2Proof/Laws/Scopes.lean ====
section
/-! SUPPORT. The scopes of the commands: each takes from the device that a unit's work leaves the fields which that unit
may change, and every other field from the device before. And the two ways in which a command answers. -/

namespace Sys2Proof.Machine

open Sys2Proof

theorem done_next (s : State) (d : Dev) : done s d = .next { s with dev := d } := rfl
theorem work_next (s : State) (d : Dev) :
    work s d = .next { s with dev := if s.dev.clocked = true then d else s.dev } := rfl
theorem work_clocked (s : State) (d : Dev) (h : s.dev.clocked = true) : work s d = .next { s with dev := d } := by
  simp only [work_next, h, if_true]

variable (s r : Dev)


/-! ### coreScope -/

@[simp] theorem Dev.coreScope_dt : (s.coreScope r).dt = s.dt := rfl
@[simp] theorem Dev.coreScope_regs : (s.coreScope r).regs = r.regs := rfl
@[simp] theorem Dev.coreScope_ctrs : (s.coreScope r).ctrs = r.ctrs := rfl
@[simp] theorem Dev.coreScope_ctrHi : (s.coreScope r).ctrHi = s.ctrHi := rfl
@[simp] theorem Dev.coreScope_slots : (s.coreScope r).slots = s.slots := rfl
@[simp] theorem Dev.coreScope_guards : (s.coreScope r).guards = s.guards := rfl
@[simp] theorem Dev.coreScope_dies : (s.coreScope r).dies = s.dies := rfl
@[simp] theorem Dev.coreScope_cores : (s.coreScope r).cores = r.cores := rfl
@[simp] theorem Dev.coreScope_stackTab : (s.coreScope r).stackTab = s.stackTab := rfl
@[simp] theorem Dev.coreScope_mem : (s.coreScope r).mem = s.mem := rfl
@[simp] theorem Dev.coreScope_secPoison : (s.coreScope r).secPoison = s.secPoison := rfl
@[simp] theorem Dev.coreScope_ecc : (s.coreScope r).ecc = s.ecc := rfl
@[simp] theorem Dev.coreScope_tags : (s.coreScope r).tags = s.tags := rfl
@[simp] theorem Dev.coreScope_regained : (s.coreScope r).regained = s.regained := rfl
@[simp] theorem Dev.coreScope_regions : (s.coreScope r).regions = s.regions := rfl
@[simp] theorem Dev.coreScope_memWaits : (s.coreScope r).memWaits = s.memWaits := rfl
@[simp] theorem Dev.coreScope_reissues : (s.coreScope r).reissues = s.reissues := rfl
@[simp] theorem Dev.coreScope_xlat : (s.coreScope r).xlat = s.xlat := rfl
@[simp] theorem Dev.coreScope_egress : (s.coreScope r).egress = s.egress := rfl
@[simp] theorem Dev.coreScope_crossTx : (s.coreScope r).crossTx = s.crossTx := rfl
@[simp] theorem Dev.coreScope_crossRx : (s.coreScope r).crossRx = s.crossRx := rfl
@[simp] theorem Dev.coreScope_crossing : (s.coreScope r).crossing = s.crossing := rfl
@[simp] theorem Dev.coreScope_pend : (s.coreScope r).pend = s.pend := rfl
@[simp] theorem Dev.coreScope_ports : (s.coreScope r).ports = s.ports := rfl
@[simp] theorem Dev.coreScope_seqTx : (s.coreScope r).seqTx = s.seqTx := rfl
@[simp] theorem Dev.coreScope_seqRx : (s.coreScope r).seqRx = s.seqRx := rfl
@[simp] theorem Dev.coreScope_epochs : (s.coreScope r).epochs = s.epochs := rfl
@[simp] theorem Dev.coreScope_notices : (s.coreScope r).notices = s.notices := rfl
@[simp] theorem Dev.coreScope_rxWrites : (s.coreScope r).rxWrites = s.rxWrites := rfl
@[simp] theorem Dev.coreScope_linkState : (s.coreScope r).linkState = s.linkState := rfl
@[simp] theorem Dev.coreScope_linkSent : (s.coreScope r).linkSent = s.linkSent := rfl
@[simp] theorem Dev.coreScope_gate : (s.coreScope r).gate = s.gate := rfl
@[simp] theorem Dev.coreScope_time : (s.coreScope r).time = s.time := rfl
@[simp] theorem Dev.coreScope_holdings : (s.coreScope r).holdings = r.holdings := rfl
@[simp] theorem Dev.coreScope_queues : (s.coreScope r).queues = s.queues := rfl
@[simp] theorem Dev.coreScope_boxes : (s.coreScope r).boxes = s.boxes := rfl
@[simp] theorem Dev.coreScope_gotre : (s.coreScope r).gotre = s.gotre := rfl
@[simp] theorem Dev.coreScope_power : (s.coreScope r).power = s.power := rfl
@[simp] theorem Dev.coreScope_droop : (s.coreScope r).droop = s.droop := rfl
@[simp] theorem Dev.coreScope_saved : (s.coreScope r).saved = s.saved := rfl
@[simp] theorem Dev.coreScope_survey : (s.coreScope r).survey = s.survey := rfl
@[simp] theorem Dev.coreScope_service : (s.coreScope r).service = s.service := rfl
@[simp] theorem Dev.coreScope_pins : (s.coreScope r).pins = s.pins := rfl
@[simp] theorem Dev.coreScope_serves : (s.coreScope r).serves = s.serves := rfl
@[simp] theorem Dev.coreScope_hostReads : (s.coreScope r).hostReads = s.hostReads := rfl
@[simp] theorem Dev.coreScope_msix : (s.coreScope r).msix = s.msix := rfl
@[simp] theorem Dev.coreScope_hostTag : (s.coreScope r).hostTag = s.hostTag := rfl
@[simp] theorem Dev.coreScope_shadow : (s.coreScope r).shadow = r.shadow := rfl
@[simp] theorem Dev.coreScope_outbox : (s.coreScope r).outbox = s.outbox := rfl
@[simp] theorem Dev.coreScope_free : (s.coreScope r).free = r.free := rfl

/-! ### droopScope -/

@[simp] theorem Dev.droopScope_dt : (s.droopScope r).dt = s.dt := rfl
@[simp] theorem Dev.droopScope_regs : (s.droopScope r).regs = s.regs := rfl
@[simp] theorem Dev.droopScope_ctrs : (s.droopScope r).ctrs = r.ctrs := rfl
@[simp] theorem Dev.droopScope_ctrHi : (s.droopScope r).ctrHi = s.ctrHi := rfl
@[simp] theorem Dev.droopScope_slots : (s.droopScope r).slots = s.slots := rfl
@[simp] theorem Dev.droopScope_guards : (s.droopScope r).guards = s.guards := rfl
@[simp] theorem Dev.droopScope_dies : (s.droopScope r).dies = s.dies := rfl
@[simp] theorem Dev.droopScope_cores : (s.droopScope r).cores = s.cores := rfl
@[simp] theorem Dev.droopScope_stackTab : (s.droopScope r).stackTab = s.stackTab := rfl
@[simp] theorem Dev.droopScope_mem : (s.droopScope r).mem = s.mem := rfl
@[simp] theorem Dev.droopScope_secPoison : (s.droopScope r).secPoison = s.secPoison := rfl
@[simp] theorem Dev.droopScope_ecc : (s.droopScope r).ecc = s.ecc := rfl
@[simp] theorem Dev.droopScope_tags : (s.droopScope r).tags = s.tags := rfl
@[simp] theorem Dev.droopScope_regained : (s.droopScope r).regained = s.regained := rfl
@[simp] theorem Dev.droopScope_regions : (s.droopScope r).regions = s.regions := rfl
@[simp] theorem Dev.droopScope_memWaits : (s.droopScope r).memWaits = s.memWaits := rfl
@[simp] theorem Dev.droopScope_reissues : (s.droopScope r).reissues = s.reissues := rfl
@[simp] theorem Dev.droopScope_xlat : (s.droopScope r).xlat = s.xlat := rfl
@[simp] theorem Dev.droopScope_egress : (s.droopScope r).egress = s.egress := rfl
@[simp] theorem Dev.droopScope_crossTx : (s.droopScope r).crossTx = s.crossTx := rfl
@[simp] theorem Dev.droopScope_crossRx : (s.droopScope r).crossRx = s.crossRx := rfl
@[simp] theorem Dev.droopScope_crossing : (s.droopScope r).crossing = s.crossing := rfl
@[simp] theorem Dev.droopScope_pend : (s.droopScope r).pend = s.pend := rfl
@[simp] theorem Dev.droopScope_ports : (s.droopScope r).ports = s.ports := rfl
@[simp] theorem Dev.droopScope_seqTx : (s.droopScope r).seqTx = s.seqTx := rfl
@[simp] theorem Dev.droopScope_seqRx : (s.droopScope r).seqRx = s.seqRx := rfl
@[simp] theorem Dev.droopScope_epochs : (s.droopScope r).epochs = s.epochs := rfl
@[simp] theorem Dev.droopScope_notices : (s.droopScope r).notices = s.notices := rfl
@[simp] theorem Dev.droopScope_rxWrites : (s.droopScope r).rxWrites = s.rxWrites := rfl
@[simp] theorem Dev.droopScope_linkState : (s.droopScope r).linkState = s.linkState := rfl
@[simp] theorem Dev.droopScope_linkSent : (s.droopScope r).linkSent = s.linkSent := rfl
@[simp] theorem Dev.droopScope_gate : (s.droopScope r).gate = s.gate := rfl
@[simp] theorem Dev.droopScope_time : (s.droopScope r).time = s.time := rfl
@[simp] theorem Dev.droopScope_holdings : (s.droopScope r).holdings = s.holdings := rfl
@[simp] theorem Dev.droopScope_queues : (s.droopScope r).queues = s.queues := rfl
@[simp] theorem Dev.droopScope_boxes : (s.droopScope r).boxes = s.boxes := rfl
@[simp] theorem Dev.droopScope_gotre : (s.droopScope r).gotre = s.gotre := rfl
@[simp] theorem Dev.droopScope_power : (s.droopScope r).power = s.power := rfl
@[simp] theorem Dev.droopScope_droop : (s.droopScope r).droop = r.droop := rfl
@[simp] theorem Dev.droopScope_saved : (s.droopScope r).saved = s.saved := rfl
@[simp] theorem Dev.droopScope_survey : (s.droopScope r).survey = s.survey := rfl
@[simp] theorem Dev.droopScope_service : (s.droopScope r).service = s.service := rfl
@[simp] theorem Dev.droopScope_pins : (s.droopScope r).pins = s.pins := rfl
@[simp] theorem Dev.droopScope_serves : (s.droopScope r).serves = s.serves := rfl
@[simp] theorem Dev.droopScope_hostReads : (s.droopScope r).hostReads = s.hostReads := rfl
@[simp] theorem Dev.droopScope_msix : (s.droopScope r).msix = s.msix := rfl
@[simp] theorem Dev.droopScope_hostTag : (s.droopScope r).hostTag = s.hostTag := rfl
@[simp] theorem Dev.droopScope_shadow : (s.droopScope r).shadow = r.shadow := rfl
@[simp] theorem Dev.droopScope_outbox : (s.droopScope r).outbox = s.outbox := rfl
@[simp] theorem Dev.droopScope_free : (s.droopScope r).free = r.free := rfl

/-! ### keeperScope -/

@[simp] theorem Dev.keeperScope_dt : (s.keeperScope r).dt = r.dt := rfl
@[simp] theorem Dev.keeperScope_regs : (s.keeperScope r).regs = s.regs := rfl
@[simp] theorem Dev.keeperScope_ctrs : (s.keeperScope r).ctrs = r.ctrs := rfl
@[simp] theorem Dev.keeperScope_ctrHi : (s.keeperScope r).ctrHi = s.ctrHi := rfl
@[simp] theorem Dev.keeperScope_slots : (s.keeperScope r).slots = s.slots := rfl
@[simp] theorem Dev.keeperScope_guards : (s.keeperScope r).guards = s.guards := rfl
@[simp] theorem Dev.keeperScope_dies : (s.keeperScope r).dies = r.dies := rfl
@[simp] theorem Dev.keeperScope_cores : (s.keeperScope r).cores = s.cores := rfl
@[simp] theorem Dev.keeperScope_stackTab : (s.keeperScope r).stackTab = s.stackTab := rfl
@[simp] theorem Dev.keeperScope_mem : (s.keeperScope r).mem = s.mem := rfl
@[simp] theorem Dev.keeperScope_secPoison : (s.keeperScope r).secPoison = s.secPoison := rfl
@[simp] theorem Dev.keeperScope_ecc : (s.keeperScope r).ecc = s.ecc := rfl
@[simp] theorem Dev.keeperScope_tags : (s.keeperScope r).tags = s.tags := rfl
@[simp] theorem Dev.keeperScope_regained : (s.keeperScope r).regained = s.regained := rfl
@[simp] theorem Dev.keeperScope_regions : (s.keeperScope r).regions = s.regions := rfl
@[simp] theorem Dev.keeperScope_memWaits : (s.keeperScope r).memWaits = s.memWaits := rfl
@[simp] theorem Dev.keeperScope_reissues : (s.keeperScope r).reissues = s.reissues := rfl
@[simp] theorem Dev.keeperScope_xlat : (s.keeperScope r).xlat = s.xlat := rfl
@[simp] theorem Dev.keeperScope_egress : (s.keeperScope r).egress = s.egress := rfl
@[simp] theorem Dev.keeperScope_crossTx : (s.keeperScope r).crossTx = s.crossTx := rfl
@[simp] theorem Dev.keeperScope_crossRx : (s.keeperScope r).crossRx = s.crossRx := rfl
@[simp] theorem Dev.keeperScope_crossing : (s.keeperScope r).crossing = s.crossing := rfl
@[simp] theorem Dev.keeperScope_pend : (s.keeperScope r).pend = s.pend := rfl
@[simp] theorem Dev.keeperScope_ports : (s.keeperScope r).ports = s.ports := rfl
@[simp] theorem Dev.keeperScope_seqTx : (s.keeperScope r).seqTx = s.seqTx := rfl
@[simp] theorem Dev.keeperScope_seqRx : (s.keeperScope r).seqRx = s.seqRx := rfl
@[simp] theorem Dev.keeperScope_epochs : (s.keeperScope r).epochs = s.epochs := rfl
@[simp] theorem Dev.keeperScope_notices : (s.keeperScope r).notices = s.notices := rfl
@[simp] theorem Dev.keeperScope_rxWrites : (s.keeperScope r).rxWrites = s.rxWrites := rfl
@[simp] theorem Dev.keeperScope_linkState : (s.keeperScope r).linkState = s.linkState := rfl
@[simp] theorem Dev.keeperScope_linkSent : (s.keeperScope r).linkSent = s.linkSent := rfl
@[simp] theorem Dev.keeperScope_gate : (s.keeperScope r).gate = s.gate := rfl
@[simp] theorem Dev.keeperScope_time : (s.keeperScope r).time = s.time := rfl
@[simp] theorem Dev.keeperScope_holdings : (s.keeperScope r).holdings = s.holdings := rfl
@[simp] theorem Dev.keeperScope_queues : (s.keeperScope r).queues = s.queues := rfl
@[simp] theorem Dev.keeperScope_boxes : (s.keeperScope r).boxes = s.boxes := rfl
@[simp] theorem Dev.keeperScope_gotre : (s.keeperScope r).gotre = s.gotre := rfl
@[simp] theorem Dev.keeperScope_power : (s.keeperScope r).power = s.power := rfl
@[simp] theorem Dev.keeperScope_droop : (s.keeperScope r).droop = s.droop := rfl
@[simp] theorem Dev.keeperScope_saved : (s.keeperScope r).saved = s.saved := rfl
@[simp] theorem Dev.keeperScope_survey : (s.keeperScope r).survey = s.survey := rfl
@[simp] theorem Dev.keeperScope_service : (s.keeperScope r).service = r.service := rfl
@[simp] theorem Dev.keeperScope_pins : (s.keeperScope r).pins = s.pins := rfl
@[simp] theorem Dev.keeperScope_serves : (s.keeperScope r).serves = s.serves := rfl
@[simp] theorem Dev.keeperScope_hostReads : (s.keeperScope r).hostReads = s.hostReads := rfl
@[simp] theorem Dev.keeperScope_msix : (s.keeperScope r).msix = s.msix := rfl
@[simp] theorem Dev.keeperScope_hostTag : (s.keeperScope r).hostTag = s.hostTag := rfl
@[simp] theorem Dev.keeperScope_shadow : (s.keeperScope r).shadow = r.shadow := rfl
@[simp] theorem Dev.keeperScope_outbox : (s.keeperScope r).outbox = r.outbox := rfl
@[simp] theorem Dev.keeperScope_free : (s.keeperScope r).free = r.free := rfl

/-! ### limitScope -/

@[simp] theorem Dev.limitScope_dt : (s.limitScope r).dt = s.dt := rfl
@[simp] theorem Dev.limitScope_regs : (s.limitScope r).regs = s.regs := rfl
@[simp] theorem Dev.limitScope_ctrs : (s.limitScope r).ctrs = r.ctrs := rfl
@[simp] theorem Dev.limitScope_ctrHi : (s.limitScope r).ctrHi = s.ctrHi := rfl
@[simp] theorem Dev.limitScope_slots : (s.limitScope r).slots = s.slots := rfl
@[simp] theorem Dev.limitScope_guards : (s.limitScope r).guards = s.guards := rfl
@[simp] theorem Dev.limitScope_dies : (s.limitScope r).dies = s.dies := rfl
@[simp] theorem Dev.limitScope_cores : (s.limitScope r).cores = s.cores := rfl
@[simp] theorem Dev.limitScope_stackTab : (s.limitScope r).stackTab = s.stackTab := rfl
@[simp] theorem Dev.limitScope_mem : (s.limitScope r).mem = s.mem := rfl
@[simp] theorem Dev.limitScope_secPoison : (s.limitScope r).secPoison = s.secPoison := rfl
@[simp] theorem Dev.limitScope_ecc : (s.limitScope r).ecc = s.ecc := rfl
@[simp] theorem Dev.limitScope_tags : (s.limitScope r).tags = s.tags := rfl
@[simp] theorem Dev.limitScope_regained : (s.limitScope r).regained = s.regained := rfl
@[simp] theorem Dev.limitScope_regions : (s.limitScope r).regions = s.regions := rfl
@[simp] theorem Dev.limitScope_memWaits : (s.limitScope r).memWaits = s.memWaits := rfl
@[simp] theorem Dev.limitScope_reissues : (s.limitScope r).reissues = s.reissues := rfl
@[simp] theorem Dev.limitScope_xlat : (s.limitScope r).xlat = s.xlat := rfl
@[simp] theorem Dev.limitScope_egress : (s.limitScope r).egress = s.egress := rfl
@[simp] theorem Dev.limitScope_crossTx : (s.limitScope r).crossTx = s.crossTx := rfl
@[simp] theorem Dev.limitScope_crossRx : (s.limitScope r).crossRx = s.crossRx := rfl
@[simp] theorem Dev.limitScope_crossing : (s.limitScope r).crossing = s.crossing := rfl
@[simp] theorem Dev.limitScope_pend : (s.limitScope r).pend = s.pend := rfl
@[simp] theorem Dev.limitScope_ports : (s.limitScope r).ports = s.ports := rfl
@[simp] theorem Dev.limitScope_seqTx : (s.limitScope r).seqTx = s.seqTx := rfl
@[simp] theorem Dev.limitScope_seqRx : (s.limitScope r).seqRx = s.seqRx := rfl
@[simp] theorem Dev.limitScope_epochs : (s.limitScope r).epochs = s.epochs := rfl
@[simp] theorem Dev.limitScope_notices : (s.limitScope r).notices = s.notices := rfl
@[simp] theorem Dev.limitScope_rxWrites : (s.limitScope r).rxWrites = s.rxWrites := rfl
@[simp] theorem Dev.limitScope_linkState : (s.limitScope r).linkState = s.linkState := rfl
@[simp] theorem Dev.limitScope_linkSent : (s.limitScope r).linkSent = s.linkSent := rfl
@[simp] theorem Dev.limitScope_gate : (s.limitScope r).gate = s.gate := rfl
@[simp] theorem Dev.limitScope_time : (s.limitScope r).time = s.time := rfl
@[simp] theorem Dev.limitScope_holdings : (s.limitScope r).holdings = r.holdings := rfl
@[simp] theorem Dev.limitScope_queues : (s.limitScope r).queues = s.queues := rfl
@[simp] theorem Dev.limitScope_boxes : (s.limitScope r).boxes = s.boxes := rfl
@[simp] theorem Dev.limitScope_gotre : (s.limitScope r).gotre = s.gotre := rfl
@[simp] theorem Dev.limitScope_power : (s.limitScope r).power = r.power := rfl
@[simp] theorem Dev.limitScope_droop : (s.limitScope r).droop = s.droop := rfl
@[simp] theorem Dev.limitScope_saved : (s.limitScope r).saved = s.saved := rfl
@[simp] theorem Dev.limitScope_survey : (s.limitScope r).survey = s.survey := rfl
@[simp] theorem Dev.limitScope_service : (s.limitScope r).service = s.service := rfl
@[simp] theorem Dev.limitScope_pins : (s.limitScope r).pins = s.pins := rfl
@[simp] theorem Dev.limitScope_serves : (s.limitScope r).serves = s.serves := rfl
@[simp] theorem Dev.limitScope_hostReads : (s.limitScope r).hostReads = s.hostReads := rfl
@[simp] theorem Dev.limitScope_msix : (s.limitScope r).msix = s.msix := rfl
@[simp] theorem Dev.limitScope_hostTag : (s.limitScope r).hostTag = s.hostTag := rfl
@[simp] theorem Dev.limitScope_shadow : (s.limitScope r).shadow = r.shadow := rfl
@[simp] theorem Dev.limitScope_outbox : (s.limitScope r).outbox = s.outbox := rfl
@[simp] theorem Dev.limitScope_free : (s.limitScope r).free = r.free := rfl

/-! ### regScope -/

@[simp] theorem Dev.regScope_dt : (s.regScope r).dt = s.dt := rfl
@[simp] theorem Dev.regScope_regs : (s.regScope r).regs = r.regs := rfl
@[simp] theorem Dev.regScope_ctrs : (s.regScope r).ctrs = r.ctrs := rfl
@[simp] theorem Dev.regScope_ctrHi : (s.regScope r).ctrHi = r.ctrHi := rfl
@[simp] theorem Dev.regScope_slots : (s.regScope r).slots = s.slots := rfl
@[simp] theorem Dev.regScope_guards : (s.regScope r).guards = r.guards := rfl
@[simp] theorem Dev.regScope_dies : (s.regScope r).dies = s.dies := rfl
@[simp] theorem Dev.regScope_cores : (s.regScope r).cores = s.cores := rfl
@[simp] theorem Dev.regScope_stackTab : (s.regScope r).stackTab = s.stackTab := rfl
@[simp] theorem Dev.regScope_mem : (s.regScope r).mem = s.mem := rfl
@[simp] theorem Dev.regScope_secPoison : (s.regScope r).secPoison = s.secPoison := rfl
@[simp] theorem Dev.regScope_ecc : (s.regScope r).ecc = s.ecc := rfl
@[simp] theorem Dev.regScope_tags : (s.regScope r).tags = s.tags := rfl
@[simp] theorem Dev.regScope_regained : (s.regScope r).regained = s.regained := rfl
@[simp] theorem Dev.regScope_regions : (s.regScope r).regions = s.regions := rfl
@[simp] theorem Dev.regScope_memWaits : (s.regScope r).memWaits = s.memWaits := rfl
@[simp] theorem Dev.regScope_reissues : (s.regScope r).reissues = s.reissues := rfl
@[simp] theorem Dev.regScope_xlat : (s.regScope r).xlat = s.xlat := rfl
@[simp] theorem Dev.regScope_egress : (s.regScope r).egress = s.egress := rfl
@[simp] theorem Dev.regScope_crossTx : (s.regScope r).crossTx = s.crossTx := rfl
@[simp] theorem Dev.regScope_crossRx : (s.regScope r).crossRx = s.crossRx := rfl
@[simp] theorem Dev.regScope_crossing : (s.regScope r).crossing = s.crossing := rfl
@[simp] theorem Dev.regScope_pend : (s.regScope r).pend = s.pend := rfl
@[simp] theorem Dev.regScope_ports : (s.regScope r).ports = s.ports := rfl
@[simp] theorem Dev.regScope_seqTx : (s.regScope r).seqTx = s.seqTx := rfl
@[simp] theorem Dev.regScope_seqRx : (s.regScope r).seqRx = s.seqRx := rfl
@[simp] theorem Dev.regScope_epochs : (s.regScope r).epochs = s.epochs := rfl
@[simp] theorem Dev.regScope_notices : (s.regScope r).notices = s.notices := rfl
@[simp] theorem Dev.regScope_rxWrites : (s.regScope r).rxWrites = s.rxWrites := rfl
@[simp] theorem Dev.regScope_linkState : (s.regScope r).linkState = s.linkState := rfl
@[simp] theorem Dev.regScope_linkSent : (s.regScope r).linkSent = s.linkSent := rfl
@[simp] theorem Dev.regScope_gate : (s.regScope r).gate = s.gate := rfl
@[simp] theorem Dev.regScope_time : (s.regScope r).time = s.time := rfl
@[simp] theorem Dev.regScope_holdings : (s.regScope r).holdings = s.holdings := rfl
@[simp] theorem Dev.regScope_queues : (s.regScope r).queues = s.queues := rfl
@[simp] theorem Dev.regScope_boxes : (s.regScope r).boxes = s.boxes := rfl
@[simp] theorem Dev.regScope_gotre : (s.regScope r).gotre = s.gotre := rfl
@[simp] theorem Dev.regScope_power : (s.regScope r).power = s.power := rfl
@[simp] theorem Dev.regScope_droop : (s.regScope r).droop = s.droop := rfl
@[simp] theorem Dev.regScope_saved : (s.regScope r).saved = s.saved := rfl
@[simp] theorem Dev.regScope_survey : (s.regScope r).survey = s.survey := rfl
@[simp] theorem Dev.regScope_service : (s.regScope r).service = s.service := rfl
@[simp] theorem Dev.regScope_pins : (s.regScope r).pins = s.pins := rfl
@[simp] theorem Dev.regScope_serves : (s.regScope r).serves = s.serves := rfl
@[simp] theorem Dev.regScope_hostReads : (s.regScope r).hostReads = s.hostReads := rfl
@[simp] theorem Dev.regScope_msix : (s.regScope r).msix = s.msix := rfl
@[simp] theorem Dev.regScope_hostTag : (s.regScope r).hostTag = s.hostTag := rfl
@[simp] theorem Dev.regScope_shadow : (s.regScope r).shadow = s.shadow := rfl
@[simp] theorem Dev.regScope_outbox : (s.regScope r).outbox = r.outbox := rfl
@[simp] theorem Dev.regScope_free : (s.regScope r).free = s.free := rfl

/-! ### scanScope -/

@[simp] theorem Dev.scanScope_dt : (s.scanScope r).dt = s.dt := rfl
@[simp] theorem Dev.scanScope_regs : (s.scanScope r).regs = s.regs := rfl
@[simp] theorem Dev.scanScope_ctrs : (s.scanScope r).ctrs = s.ctrs := rfl
@[simp] theorem Dev.scanScope_ctrHi : (s.scanScope r).ctrHi = s.ctrHi := rfl
@[simp] theorem Dev.scanScope_slots : (s.scanScope r).slots = s.slots := rfl
@[simp] theorem Dev.scanScope_guards : (s.scanScope r).guards = s.guards := rfl
@[simp] theorem Dev.scanScope_dies : (s.scanScope r).dies = s.dies := rfl
@[simp] theorem Dev.scanScope_cores : (s.scanScope r).cores = s.cores := rfl
@[simp] theorem Dev.scanScope_stackTab : (s.scanScope r).stackTab = s.stackTab := rfl
@[simp] theorem Dev.scanScope_mem : (s.scanScope r).mem = s.mem := rfl
@[simp] theorem Dev.scanScope_secPoison : (s.scanScope r).secPoison = s.secPoison := rfl
@[simp] theorem Dev.scanScope_ecc : (s.scanScope r).ecc = s.ecc := rfl
@[simp] theorem Dev.scanScope_tags : (s.scanScope r).tags = s.tags := rfl
@[simp] theorem Dev.scanScope_regained : (s.scanScope r).regained = s.regained := rfl
@[simp] theorem Dev.scanScope_regions : (s.scanScope r).regions = s.regions := rfl
@[simp] theorem Dev.scanScope_memWaits : (s.scanScope r).memWaits = s.memWaits := rfl
@[simp] theorem Dev.scanScope_reissues : (s.scanScope r).reissues = s.reissues := rfl
@[simp] theorem Dev.scanScope_xlat : (s.scanScope r).xlat = s.xlat := rfl
@[simp] theorem Dev.scanScope_egress : (s.scanScope r).egress = s.egress := rfl
@[simp] theorem Dev.scanScope_crossTx : (s.scanScope r).crossTx = s.crossTx := rfl
@[simp] theorem Dev.scanScope_crossRx : (s.scanScope r).crossRx = s.crossRx := rfl
@[simp] theorem Dev.scanScope_crossing : (s.scanScope r).crossing = s.crossing := rfl
@[simp] theorem Dev.scanScope_pend : (s.scanScope r).pend = s.pend := rfl
@[simp] theorem Dev.scanScope_ports : (s.scanScope r).ports = s.ports := rfl
@[simp] theorem Dev.scanScope_seqTx : (s.scanScope r).seqTx = s.seqTx := rfl
@[simp] theorem Dev.scanScope_seqRx : (s.scanScope r).seqRx = s.seqRx := rfl
@[simp] theorem Dev.scanScope_epochs : (s.scanScope r).epochs = s.epochs := rfl
@[simp] theorem Dev.scanScope_notices : (s.scanScope r).notices = s.notices := rfl
@[simp] theorem Dev.scanScope_rxWrites : (s.scanScope r).rxWrites = s.rxWrites := rfl
@[simp] theorem Dev.scanScope_linkState : (s.scanScope r).linkState = s.linkState := rfl
@[simp] theorem Dev.scanScope_linkSent : (s.scanScope r).linkSent = s.linkSent := rfl
@[simp] theorem Dev.scanScope_gate : (s.scanScope r).gate = s.gate := rfl
@[simp] theorem Dev.scanScope_time : (s.scanScope r).time = s.time := rfl
@[simp] theorem Dev.scanScope_holdings : (s.scanScope r).holdings = s.holdings := rfl
@[simp] theorem Dev.scanScope_queues : (s.scanScope r).queues = s.queues := rfl
@[simp] theorem Dev.scanScope_boxes : (s.scanScope r).boxes = s.boxes := rfl
@[simp] theorem Dev.scanScope_gotre : (s.scanScope r).gotre = s.gotre := rfl
@[simp] theorem Dev.scanScope_power : (s.scanScope r).power = s.power := rfl
@[simp] theorem Dev.scanScope_droop : (s.scanScope r).droop = s.droop := rfl
@[simp] theorem Dev.scanScope_saved : (s.scanScope r).saved = s.saved := rfl
@[simp] theorem Dev.scanScope_survey : (s.scanScope r).survey = s.survey := rfl
@[simp] theorem Dev.scanScope_service : (s.scanScope r).service = s.service := rfl
@[simp] theorem Dev.scanScope_pins : (s.scanScope r).pins = r.pins := rfl
@[simp] theorem Dev.scanScope_serves : (s.scanScope r).serves = s.serves := rfl
@[simp] theorem Dev.scanScope_hostReads : (s.scanScope r).hostReads = s.hostReads := rfl
@[simp] theorem Dev.scanScope_msix : (s.scanScope r).msix = s.msix := rfl
@[simp] theorem Dev.scanScope_hostTag : (s.scanScope r).hostTag = s.hostTag := rfl
@[simp] theorem Dev.scanScope_shadow : (s.scanScope r).shadow = s.shadow := rfl
@[simp] theorem Dev.scanScope_outbox : (s.scanScope r).outbox = r.outbox := rfl
@[simp] theorem Dev.scanScope_free : (s.scanScope r).free = r.free := rfl

/-! ### memScope -/

@[simp] theorem Dev.memScope_dt : (s.memScope r).dt = s.dt := Dev.coreScope_dt s r
@[simp] theorem Dev.memScope_regs : (s.memScope r).regs = r.regs := Dev.coreScope_regs s r
@[simp] theorem Dev.memScope_ctrs : (s.memScope r).ctrs = r.ctrs := Dev.coreScope_ctrs s r
@[simp] theorem Dev.memScope_ctrHi : (s.memScope r).ctrHi = s.ctrHi := Dev.coreScope_ctrHi s r
@[simp] theorem Dev.memScope_slots : (s.memScope r).slots = s.slots := Dev.coreScope_slots s r
@[simp] theorem Dev.memScope_guards : (s.memScope r).guards = s.guards := Dev.coreScope_guards s r
@[simp] theorem Dev.memScope_dies : (s.memScope r).dies = s.dies := Dev.coreScope_dies s r
@[simp] theorem Dev.memScope_cores : (s.memScope r).cores = r.cores := Dev.coreScope_cores s r
@[simp] theorem Dev.memScope_stackTab : (s.memScope r).stackTab = s.stackTab := Dev.coreScope_stackTab s r
@[simp] theorem Dev.memScope_mem : (s.memScope r).mem = r.mem := by simp only [Dev.memScope]
@[simp] theorem Dev.memScope_secPoison : (s.memScope r).secPoison = r.secPoison := by simp only [Dev.memScope]
@[simp] theorem Dev.memScope_ecc : (s.memScope r).ecc = r.ecc := by simp only [Dev.memScope]
@[simp] theorem Dev.memScope_tags : (s.memScope r).tags = r.tags := by simp only [Dev.memScope]
@[simp] theorem Dev.memScope_regained : (s.memScope r).regained = s.regained := Dev.coreScope_regained s r
@[simp] theorem Dev.memScope_regions : (s.memScope r).regions = s.regions := Dev.coreScope_regions s r
@[simp] theorem Dev.memScope_memWaits : (s.memScope r).memWaits = r.memWaits := by simp only [Dev.memScope]
@[simp] theorem Dev.memScope_reissues : (s.memScope r).reissues = r.reissues := by simp only [Dev.memScope]
@[simp] theorem Dev.memScope_xlat : (s.memScope r).xlat = r.xlat := by simp only [Dev.memScope]
@[simp] theorem Dev.memScope_egress : (s.memScope r).egress = r.egress := by simp only [Dev.memScope]
@[simp] theorem Dev.memScope_crossTx : (s.memScope r).crossTx = r.crossTx := by simp only [Dev.memScope]
@[simp] theorem Dev.memScope_crossRx : (s.memScope r).crossRx = r.crossRx := by simp only [Dev.memScope]
@[simp] theorem Dev.memScope_crossing : (s.memScope r).crossing = r.crossing := by simp only [Dev.memScope]
@[simp] theorem Dev.memScope_pend : (s.memScope r).pend = r.pend := by simp only [Dev.memScope]
@[simp] theorem Dev.memScope_ports : (s.memScope r).ports = s.ports := Dev.coreScope_ports s r
@[simp] theorem Dev.memScope_seqTx : (s.memScope r).seqTx = s.seqTx := Dev.coreScope_seqTx s r
@[simp] theorem Dev.memScope_seqRx : (s.memScope r).seqRx = s.seqRx := Dev.coreScope_seqRx s r
@[simp] theorem Dev.memScope_epochs : (s.memScope r).epochs = s.epochs := Dev.coreScope_epochs s r
@[simp] theorem Dev.memScope_notices : (s.memScope r).notices = s.notices := Dev.coreScope_notices s r
@[simp] theorem Dev.memScope_rxWrites : (s.memScope r).rxWrites = s.rxWrites := Dev.coreScope_rxWrites s r
@[simp] theorem Dev.memScope_linkState : (s.memScope r).linkState = s.linkState := Dev.coreScope_linkState s r
@[simp] theorem Dev.memScope_linkSent : (s.memScope r).linkSent = s.linkSent := Dev.coreScope_linkSent s r
@[simp] theorem Dev.memScope_gate : (s.memScope r).gate = s.gate := Dev.coreScope_gate s r
@[simp] theorem Dev.memScope_time : (s.memScope r).time = s.time := Dev.coreScope_time s r
@[simp] theorem Dev.memScope_holdings : (s.memScope r).holdings = r.holdings := Dev.coreScope_holdings s r
@[simp] theorem Dev.memScope_queues : (s.memScope r).queues = s.queues := Dev.coreScope_queues s r
@[simp] theorem Dev.memScope_boxes : (s.memScope r).boxes = s.boxes := Dev.coreScope_boxes s r
@[simp] theorem Dev.memScope_gotre : (s.memScope r).gotre = s.gotre := Dev.coreScope_gotre s r
@[simp] theorem Dev.memScope_power : (s.memScope r).power = s.power := Dev.coreScope_power s r
@[simp] theorem Dev.memScope_droop : (s.memScope r).droop = s.droop := Dev.coreScope_droop s r
@[simp] theorem Dev.memScope_saved : (s.memScope r).saved = s.saved := Dev.coreScope_saved s r
@[simp] theorem Dev.memScope_survey : (s.memScope r).survey = s.survey := Dev.coreScope_survey s r
@[simp] theorem Dev.memScope_service : (s.memScope r).service = s.service := Dev.coreScope_service s r
@[simp] theorem Dev.memScope_pins : (s.memScope r).pins = s.pins := Dev.coreScope_pins s r
@[simp] theorem Dev.memScope_serves : (s.memScope r).serves = s.serves := Dev.coreScope_serves s r
@[simp] theorem Dev.memScope_hostReads : (s.memScope r).hostReads = r.hostReads := by simp only [Dev.memScope]
@[simp] theorem Dev.memScope_msix : (s.memScope r).msix = s.msix := Dev.coreScope_msix s r
@[simp] theorem Dev.memScope_hostTag : (s.memScope r).hostTag = r.hostTag := by simp only [Dev.memScope]
@[simp] theorem Dev.memScope_shadow : (s.memScope r).shadow = r.shadow := Dev.coreScope_shadow s r
@[simp] theorem Dev.memScope_outbox : (s.memScope r).outbox = r.outbox := by simp only [Dev.memScope]
@[simp] theorem Dev.memScope_free : (s.memScope r).free = r.free := Dev.coreScope_free s r

/-! ### ctrlScope -/

@[simp] theorem Dev.ctrlScope_dt : (s.ctrlScope r).dt = s.dt := Dev.memScope_dt s r
@[simp] theorem Dev.ctrlScope_regs : (s.ctrlScope r).regs = r.regs := Dev.memScope_regs s r
@[simp] theorem Dev.ctrlScope_ctrs : (s.ctrlScope r).ctrs = r.ctrs := Dev.memScope_ctrs s r
@[simp] theorem Dev.ctrlScope_ctrHi : (s.ctrlScope r).ctrHi = s.ctrHi := Dev.memScope_ctrHi s r
@[simp] theorem Dev.ctrlScope_slots : (s.ctrlScope r).slots = s.slots := Dev.memScope_slots s r
@[simp] theorem Dev.ctrlScope_guards : (s.ctrlScope r).guards = s.guards := Dev.memScope_guards s r
@[simp] theorem Dev.ctrlScope_dies : (s.ctrlScope r).dies = s.dies := Dev.memScope_dies s r
@[simp] theorem Dev.ctrlScope_cores : (s.ctrlScope r).cores = r.cores := Dev.memScope_cores s r
@[simp] theorem Dev.ctrlScope_stackTab : (s.ctrlScope r).stackTab = r.stackTab := by simp only [Dev.ctrlScope]
@[simp] theorem Dev.ctrlScope_mem : (s.ctrlScope r).mem = r.mem := Dev.memScope_mem s r
@[simp] theorem Dev.ctrlScope_secPoison : (s.ctrlScope r).secPoison = r.secPoison := Dev.memScope_secPoison s r
@[simp] theorem Dev.ctrlScope_ecc : (s.ctrlScope r).ecc = r.ecc := Dev.memScope_ecc s r
@[simp] theorem Dev.ctrlScope_tags : (s.ctrlScope r).tags = r.tags := Dev.memScope_tags s r
@[simp] theorem Dev.ctrlScope_regained : (s.ctrlScope r).regained = r.regained := by simp only [Dev.ctrlScope]
@[simp] theorem Dev.ctrlScope_regions : (s.ctrlScope r).regions = r.regions := by simp only [Dev.ctrlScope]
@[simp] theorem Dev.ctrlScope_memWaits : (s.ctrlScope r).memWaits = r.memWaits := Dev.memScope_memWaits s r
@[simp] theorem Dev.ctrlScope_reissues : (s.ctrlScope r).reissues = r.reissues := Dev.memScope_reissues s r
@[simp] theorem Dev.ctrlScope_xlat : (s.ctrlScope r).xlat = r.xlat := Dev.memScope_xlat s r
@[simp] theorem Dev.ctrlScope_egress : (s.ctrlScope r).egress = r.egress := Dev.memScope_egress s r
@[simp] theorem Dev.ctrlScope_crossTx : (s.ctrlScope r).crossTx = r.crossTx := Dev.memScope_crossTx s r
@[simp] theorem Dev.ctrlScope_crossRx : (s.ctrlScope r).crossRx = r.crossRx := Dev.memScope_crossRx s r
@[simp] theorem Dev.ctrlScope_crossing : (s.ctrlScope r).crossing = r.crossing := Dev.memScope_crossing s r
@[simp] theorem Dev.ctrlScope_pend : (s.ctrlScope r).pend = r.pend := Dev.memScope_pend s r
@[simp] theorem Dev.ctrlScope_ports : (s.ctrlScope r).ports = s.ports := Dev.memScope_ports s r
@[simp] theorem Dev.ctrlScope_seqTx : (s.ctrlScope r).seqTx = s.seqTx := Dev.memScope_seqTx s r
@[simp] theorem Dev.ctrlScope_seqRx : (s.ctrlScope r).seqRx = s.seqRx := Dev.memScope_seqRx s r
@[simp] theorem Dev.ctrlScope_epochs : (s.ctrlScope r).epochs = s.epochs := Dev.memScope_epochs s r
@[simp] theorem Dev.ctrlScope_notices : (s.ctrlScope r).notices = s.notices := Dev.memScope_notices s r
@[simp] theorem Dev.ctrlScope_rxWrites : (s.ctrlScope r).rxWrites = s.rxWrites := Dev.memScope_rxWrites s r
@[simp] theorem Dev.ctrlScope_linkState : (s.ctrlScope r).linkState = s.linkState := Dev.memScope_linkState s r
@[simp] theorem Dev.ctrlScope_linkSent : (s.ctrlScope r).linkSent = s.linkSent := Dev.memScope_linkSent s r
@[simp] theorem Dev.ctrlScope_gate : (s.ctrlScope r).gate = s.gate := Dev.memScope_gate s r
@[simp] theorem Dev.ctrlScope_time : (s.ctrlScope r).time = s.time := Dev.memScope_time s r
@[simp] theorem Dev.ctrlScope_holdings : (s.ctrlScope r).holdings = r.holdings := Dev.memScope_holdings s r
@[simp] theorem Dev.ctrlScope_queues : (s.ctrlScope r).queues = s.queues := Dev.memScope_queues s r
@[simp] theorem Dev.ctrlScope_boxes : (s.ctrlScope r).boxes = s.boxes := Dev.memScope_boxes s r
@[simp] theorem Dev.ctrlScope_gotre : (s.ctrlScope r).gotre = r.gotre := by simp only [Dev.ctrlScope]
@[simp] theorem Dev.ctrlScope_power : (s.ctrlScope r).power = s.power := Dev.memScope_power s r
@[simp] theorem Dev.ctrlScope_droop : (s.ctrlScope r).droop = s.droop := Dev.memScope_droop s r
@[simp] theorem Dev.ctrlScope_saved : (s.ctrlScope r).saved = s.saved := Dev.memScope_saved s r
@[simp] theorem Dev.ctrlScope_survey : (s.ctrlScope r).survey = s.survey := Dev.memScope_survey s r
@[simp] theorem Dev.ctrlScope_service : (s.ctrlScope r).service = r.service := by simp only [Dev.ctrlScope]
@[simp] theorem Dev.ctrlScope_pins : (s.ctrlScope r).pins = s.pins := Dev.memScope_pins s r
@[simp] theorem Dev.ctrlScope_serves : (s.ctrlScope r).serves = s.serves := Dev.memScope_serves s r
@[simp] theorem Dev.ctrlScope_hostReads : (s.ctrlScope r).hostReads = r.hostReads := Dev.memScope_hostReads s r
@[simp] theorem Dev.ctrlScope_msix : (s.ctrlScope r).msix = s.msix := Dev.memScope_msix s r
@[simp] theorem Dev.ctrlScope_hostTag : (s.ctrlScope r).hostTag = r.hostTag := Dev.memScope_hostTag s r
@[simp] theorem Dev.ctrlScope_shadow : (s.ctrlScope r).shadow = r.shadow := Dev.memScope_shadow s r
@[simp] theorem Dev.ctrlScope_outbox : (s.ctrlScope r).outbox = r.outbox := Dev.memScope_outbox s r
@[simp] theorem Dev.ctrlScope_free : (s.ctrlScope r).free = r.free := Dev.memScope_free s r

/-! ### gotreScope -/

@[simp] theorem Dev.gotreScope_dt : (s.gotreScope r).dt = s.dt := Dev.memScope_dt s r
@[simp] theorem Dev.gotreScope_regs : (s.gotreScope r).regs = r.regs := Dev.memScope_regs s r
@[simp] theorem Dev.gotreScope_ctrs : (s.gotreScope r).ctrs = r.ctrs := Dev.memScope_ctrs s r
@[simp] theorem Dev.gotreScope_ctrHi : (s.gotreScope r).ctrHi = s.ctrHi := Dev.memScope_ctrHi s r
@[simp] theorem Dev.gotreScope_slots : (s.gotreScope r).slots = s.slots := Dev.memScope_slots s r
@[simp] theorem Dev.gotreScope_guards : (s.gotreScope r).guards = s.guards := Dev.memScope_guards s r
@[simp] theorem Dev.gotreScope_dies : (s.gotreScope r).dies = s.dies := Dev.memScope_dies s r
@[simp] theorem Dev.gotreScope_cores : (s.gotreScope r).cores = r.cores := Dev.memScope_cores s r
@[simp] theorem Dev.gotreScope_stackTab : (s.gotreScope r).stackTab = s.stackTab := Dev.memScope_stackTab s r
@[simp] theorem Dev.gotreScope_mem : (s.gotreScope r).mem = r.mem := Dev.memScope_mem s r
@[simp] theorem Dev.gotreScope_secPoison : (s.gotreScope r).secPoison = r.secPoison := Dev.memScope_secPoison s r
@[simp] theorem Dev.gotreScope_ecc : (s.gotreScope r).ecc = r.ecc := Dev.memScope_ecc s r
@[simp] theorem Dev.gotreScope_tags : (s.gotreScope r).tags = r.tags := Dev.memScope_tags s r
@[simp] theorem Dev.gotreScope_regained : (s.gotreScope r).regained = s.regained := Dev.memScope_regained s r
@[simp] theorem Dev.gotreScope_regions : (s.gotreScope r).regions = s.regions := Dev.memScope_regions s r
@[simp] theorem Dev.gotreScope_memWaits : (s.gotreScope r).memWaits = r.memWaits := Dev.memScope_memWaits s r
@[simp] theorem Dev.gotreScope_reissues : (s.gotreScope r).reissues = r.reissues := Dev.memScope_reissues s r
@[simp] theorem Dev.gotreScope_xlat : (s.gotreScope r).xlat = r.xlat := Dev.memScope_xlat s r
@[simp] theorem Dev.gotreScope_egress : (s.gotreScope r).egress = r.egress := Dev.memScope_egress s r
@[simp] theorem Dev.gotreScope_crossTx : (s.gotreScope r).crossTx = r.crossTx := Dev.memScope_crossTx s r
@[simp] theorem Dev.gotreScope_crossRx : (s.gotreScope r).crossRx = r.crossRx := Dev.memScope_crossRx s r
@[simp] theorem Dev.gotreScope_crossing : (s.gotreScope r).crossing = r.crossing := Dev.memScope_crossing s r
@[simp] theorem Dev.gotreScope_pend : (s.gotreScope r).pend = r.pend := Dev.memScope_pend s r
@[simp] theorem Dev.gotreScope_ports : (s.gotreScope r).ports = s.ports := Dev.memScope_ports s r
@[simp] theorem Dev.gotreScope_seqTx : (s.gotreScope r).seqTx = s.seqTx := Dev.memScope_seqTx s r
@[simp] theorem Dev.gotreScope_seqRx : (s.gotreScope r).seqRx = s.seqRx := Dev.memScope_seqRx s r
@[simp] theorem Dev.gotreScope_epochs : (s.gotreScope r).epochs = s.epochs := Dev.memScope_epochs s r
@[simp] theorem Dev.gotreScope_notices : (s.gotreScope r).notices = s.notices := Dev.memScope_notices s r
@[simp] theorem Dev.gotreScope_rxWrites : (s.gotreScope r).rxWrites = s.rxWrites := Dev.memScope_rxWrites s r
@[simp] theorem Dev.gotreScope_linkState : (s.gotreScope r).linkState = s.linkState := Dev.memScope_linkState s r
@[simp] theorem Dev.gotreScope_linkSent : (s.gotreScope r).linkSent = s.linkSent := Dev.memScope_linkSent s r
@[simp] theorem Dev.gotreScope_gate : (s.gotreScope r).gate = s.gate := Dev.memScope_gate s r
@[simp] theorem Dev.gotreScope_time : (s.gotreScope r).time = s.time := Dev.memScope_time s r
@[simp] theorem Dev.gotreScope_holdings : (s.gotreScope r).holdings = r.holdings := Dev.memScope_holdings s r
@[simp] theorem Dev.gotreScope_queues : (s.gotreScope r).queues = r.queues := by simp only [Dev.gotreScope]
@[simp] theorem Dev.gotreScope_boxes : (s.gotreScope r).boxes = r.boxes := by simp only [Dev.gotreScope]
@[simp] theorem Dev.gotreScope_gotre : (s.gotreScope r).gotre = r.gotre := by simp only [Dev.gotreScope]
@[simp] theorem Dev.gotreScope_power : (s.gotreScope r).power = s.power := Dev.memScope_power s r
@[simp] theorem Dev.gotreScope_droop : (s.gotreScope r).droop = s.droop := Dev.memScope_droop s r
@[simp] theorem Dev.gotreScope_saved : (s.gotreScope r).saved = s.saved := Dev.memScope_saved s r
@[simp] theorem Dev.gotreScope_survey : (s.gotreScope r).survey = s.survey := Dev.memScope_survey s r
@[simp] theorem Dev.gotreScope_service : (s.gotreScope r).service = s.service := Dev.memScope_service s r
@[simp] theorem Dev.gotreScope_pins : (s.gotreScope r).pins = s.pins := Dev.memScope_pins s r
@[simp] theorem Dev.gotreScope_serves : (s.gotreScope r).serves = s.serves := Dev.memScope_serves s r
@[simp] theorem Dev.gotreScope_hostReads : (s.gotreScope r).hostReads = r.hostReads := Dev.memScope_hostReads s r
@[simp] theorem Dev.gotreScope_msix : (s.gotreScope r).msix = s.msix := Dev.memScope_msix s r
@[simp] theorem Dev.gotreScope_hostTag : (s.gotreScope r).hostTag = r.hostTag := Dev.memScope_hostTag s r
@[simp] theorem Dev.gotreScope_shadow : (s.gotreScope r).shadow = r.shadow := Dev.memScope_shadow s r
@[simp] theorem Dev.gotreScope_outbox : (s.gotreScope r).outbox = r.outbox := Dev.memScope_outbox s r
@[simp] theorem Dev.gotreScope_free : (s.gotreScope r).free = r.free := Dev.memScope_free s r

/-! ### netScope -/

@[simp] theorem Dev.netScope_dt : (s.netScope r).dt = s.dt := Dev.memScope_dt s r
@[simp] theorem Dev.netScope_regs : (s.netScope r).regs = r.regs := Dev.memScope_regs s r
@[simp] theorem Dev.netScope_ctrs : (s.netScope r).ctrs = r.ctrs := Dev.memScope_ctrs s r
@[simp] theorem Dev.netScope_ctrHi : (s.netScope r).ctrHi = s.ctrHi := Dev.memScope_ctrHi s r
@[simp] theorem Dev.netScope_slots : (s.netScope r).slots = s.slots := Dev.memScope_slots s r
@[simp] theorem Dev.netScope_guards : (s.netScope r).guards = s.guards := Dev.memScope_guards s r
@[simp] theorem Dev.netScope_dies : (s.netScope r).dies = s.dies := Dev.memScope_dies s r
@[simp] theorem Dev.netScope_cores : (s.netScope r).cores = r.cores := Dev.memScope_cores s r
@[simp] theorem Dev.netScope_stackTab : (s.netScope r).stackTab = s.stackTab := Dev.memScope_stackTab s r
@[simp] theorem Dev.netScope_mem : (s.netScope r).mem = r.mem := Dev.memScope_mem s r
@[simp] theorem Dev.netScope_secPoison : (s.netScope r).secPoison = r.secPoison := Dev.memScope_secPoison s r
@[simp] theorem Dev.netScope_ecc : (s.netScope r).ecc = r.ecc := Dev.memScope_ecc s r
@[simp] theorem Dev.netScope_tags : (s.netScope r).tags = r.tags := Dev.memScope_tags s r
@[simp] theorem Dev.netScope_regained : (s.netScope r).regained = s.regained := Dev.memScope_regained s r
@[simp] theorem Dev.netScope_regions : (s.netScope r).regions = s.regions := Dev.memScope_regions s r
@[simp] theorem Dev.netScope_memWaits : (s.netScope r).memWaits = r.memWaits := Dev.memScope_memWaits s r
@[simp] theorem Dev.netScope_reissues : (s.netScope r).reissues = r.reissues := Dev.memScope_reissues s r
@[simp] theorem Dev.netScope_xlat : (s.netScope r).xlat = r.xlat := Dev.memScope_xlat s r
@[simp] theorem Dev.netScope_egress : (s.netScope r).egress = r.egress := Dev.memScope_egress s r
@[simp] theorem Dev.netScope_crossTx : (s.netScope r).crossTx = r.crossTx := Dev.memScope_crossTx s r
@[simp] theorem Dev.netScope_crossRx : (s.netScope r).crossRx = r.crossRx := Dev.memScope_crossRx s r
@[simp] theorem Dev.netScope_crossing : (s.netScope r).crossing = r.crossing := Dev.memScope_crossing s r
@[simp] theorem Dev.netScope_pend : (s.netScope r).pend = r.pend := Dev.memScope_pend s r
@[simp] theorem Dev.netScope_ports : (s.netScope r).ports = r.ports := by simp only [Dev.netScope]
@[simp] theorem Dev.netScope_seqTx : (s.netScope r).seqTx = r.seqTx := by simp only [Dev.netScope]
@[simp] theorem Dev.netScope_seqRx : (s.netScope r).seqRx = s.seqRx := Dev.memScope_seqRx s r
@[simp] theorem Dev.netScope_epochs : (s.netScope r).epochs = s.epochs := Dev.memScope_epochs s r
@[simp] theorem Dev.netScope_notices : (s.netScope r).notices = s.notices := Dev.memScope_notices s r
@[simp] theorem Dev.netScope_rxWrites : (s.netScope r).rxWrites = s.rxWrites := Dev.memScope_rxWrites s r
@[simp] theorem Dev.netScope_linkState : (s.netScope r).linkState = s.linkState := Dev.memScope_linkState s r
@[simp] theorem Dev.netScope_linkSent : (s.netScope r).linkSent = s.linkSent := Dev.memScope_linkSent s r
@[simp] theorem Dev.netScope_gate : (s.netScope r).gate = r.gate := by simp only [Dev.netScope]
@[simp] theorem Dev.netScope_time : (s.netScope r).time = s.time := Dev.memScope_time s r
@[simp] theorem Dev.netScope_holdings : (s.netScope r).holdings = r.holdings := Dev.memScope_holdings s r
@[simp] theorem Dev.netScope_queues : (s.netScope r).queues = s.queues := Dev.memScope_queues s r
@[simp] theorem Dev.netScope_boxes : (s.netScope r).boxes = s.boxes := Dev.memScope_boxes s r
@[simp] theorem Dev.netScope_gotre : (s.netScope r).gotre = s.gotre := Dev.memScope_gotre s r
@[simp] theorem Dev.netScope_power : (s.netScope r).power = s.power := Dev.memScope_power s r
@[simp] theorem Dev.netScope_droop : (s.netScope r).droop = s.droop := Dev.memScope_droop s r
@[simp] theorem Dev.netScope_saved : (s.netScope r).saved = s.saved := Dev.memScope_saved s r
@[simp] theorem Dev.netScope_survey : (s.netScope r).survey = s.survey := Dev.memScope_survey s r
@[simp] theorem Dev.netScope_service : (s.netScope r).service = s.service := Dev.memScope_service s r
@[simp] theorem Dev.netScope_pins : (s.netScope r).pins = s.pins := Dev.memScope_pins s r
@[simp] theorem Dev.netScope_serves : (s.netScope r).serves = s.serves := Dev.memScope_serves s r
@[simp] theorem Dev.netScope_hostReads : (s.netScope r).hostReads = r.hostReads := Dev.memScope_hostReads s r
@[simp] theorem Dev.netScope_msix : (s.netScope r).msix = s.msix := Dev.memScope_msix s r
@[simp] theorem Dev.netScope_hostTag : (s.netScope r).hostTag = r.hostTag := by simp only [Dev.netScope]
@[simp] theorem Dev.netScope_shadow : (s.netScope r).shadow = r.shadow := Dev.memScope_shadow s r
@[simp] theorem Dev.netScope_outbox : (s.netScope r).outbox = r.outbox := Dev.memScope_outbox s r
@[simp] theorem Dev.netScope_free : (s.netScope r).free = r.free := Dev.memScope_free s r

/-! ### seqScope -/

@[simp] theorem Dev.seqScope_dt : (s.seqScope r).dt = s.dt := Dev.memScope_dt s r
@[simp] theorem Dev.seqScope_regs : (s.seqScope r).regs = r.regs := Dev.memScope_regs s r
@[simp] theorem Dev.seqScope_ctrs : (s.seqScope r).ctrs = r.ctrs := Dev.memScope_ctrs s r
@[simp] theorem Dev.seqScope_ctrHi : (s.seqScope r).ctrHi = s.ctrHi := Dev.memScope_ctrHi s r
@[simp] theorem Dev.seqScope_slots : (s.seqScope r).slots = s.slots := Dev.memScope_slots s r
@[simp] theorem Dev.seqScope_guards : (s.seqScope r).guards = s.guards := Dev.memScope_guards s r
@[simp] theorem Dev.seqScope_dies : (s.seqScope r).dies = s.dies := Dev.memScope_dies s r
@[simp] theorem Dev.seqScope_cores : (s.seqScope r).cores = r.cores := Dev.memScope_cores s r
@[simp] theorem Dev.seqScope_stackTab : (s.seqScope r).stackTab = s.stackTab := Dev.memScope_stackTab s r
@[simp] theorem Dev.seqScope_mem : (s.seqScope r).mem = r.mem := Dev.memScope_mem s r
@[simp] theorem Dev.seqScope_secPoison : (s.seqScope r).secPoison = r.secPoison := Dev.memScope_secPoison s r
@[simp] theorem Dev.seqScope_ecc : (s.seqScope r).ecc = r.ecc := Dev.memScope_ecc s r
@[simp] theorem Dev.seqScope_tags : (s.seqScope r).tags = r.tags := Dev.memScope_tags s r
@[simp] theorem Dev.seqScope_regained : (s.seqScope r).regained = s.regained := Dev.memScope_regained s r
@[simp] theorem Dev.seqScope_regions : (s.seqScope r).regions = s.regions := Dev.memScope_regions s r
@[simp] theorem Dev.seqScope_memWaits : (s.seqScope r).memWaits = r.memWaits := Dev.memScope_memWaits s r
@[simp] theorem Dev.seqScope_reissues : (s.seqScope r).reissues = r.reissues := Dev.memScope_reissues s r
@[simp] theorem Dev.seqScope_xlat : (s.seqScope r).xlat = r.xlat := Dev.memScope_xlat s r
@[simp] theorem Dev.seqScope_egress : (s.seqScope r).egress = r.egress := Dev.memScope_egress s r
@[simp] theorem Dev.seqScope_crossTx : (s.seqScope r).crossTx = r.crossTx := Dev.memScope_crossTx s r
@[simp] theorem Dev.seqScope_crossRx : (s.seqScope r).crossRx = r.crossRx := Dev.memScope_crossRx s r
@[simp] theorem Dev.seqScope_crossing : (s.seqScope r).crossing = r.crossing := Dev.memScope_crossing s r
@[simp] theorem Dev.seqScope_pend : (s.seqScope r).pend = r.pend := Dev.memScope_pend s r
@[simp] theorem Dev.seqScope_ports : (s.seqScope r).ports = s.ports := Dev.memScope_ports s r
@[simp] theorem Dev.seqScope_seqTx : (s.seqScope r).seqTx = s.seqTx := Dev.memScope_seqTx s r
@[simp] theorem Dev.seqScope_seqRx : (s.seqScope r).seqRx = s.seqRx := Dev.memScope_seqRx s r
@[simp] theorem Dev.seqScope_epochs : (s.seqScope r).epochs = s.epochs := Dev.memScope_epochs s r
@[simp] theorem Dev.seqScope_notices : (s.seqScope r).notices = s.notices := Dev.memScope_notices s r
@[simp] theorem Dev.seqScope_rxWrites : (s.seqScope r).rxWrites = s.rxWrites := Dev.memScope_rxWrites s r
@[simp] theorem Dev.seqScope_linkState : (s.seqScope r).linkState = s.linkState := Dev.memScope_linkState s r
@[simp] theorem Dev.seqScope_linkSent : (s.seqScope r).linkSent = s.linkSent := Dev.memScope_linkSent s r
@[simp] theorem Dev.seqScope_gate : (s.seqScope r).gate = s.gate := Dev.memScope_gate s r
@[simp] theorem Dev.seqScope_time : (s.seqScope r).time = s.time := Dev.memScope_time s r
@[simp] theorem Dev.seqScope_holdings : (s.seqScope r).holdings = r.holdings := Dev.memScope_holdings s r
@[simp] theorem Dev.seqScope_queues : (s.seqScope r).queues = r.queues := by simp only [Dev.seqScope]
@[simp] theorem Dev.seqScope_boxes : (s.seqScope r).boxes = s.boxes := Dev.memScope_boxes s r
@[simp] theorem Dev.seqScope_gotre : (s.seqScope r).gotre = r.gotre := by simp only [Dev.seqScope]
@[simp] theorem Dev.seqScope_power : (s.seqScope r).power = s.power := Dev.memScope_power s r
@[simp] theorem Dev.seqScope_droop : (s.seqScope r).droop = s.droop := Dev.memScope_droop s r
@[simp] theorem Dev.seqScope_saved : (s.seqScope r).saved = s.saved := Dev.memScope_saved s r
@[simp] theorem Dev.seqScope_survey : (s.seqScope r).survey = s.survey := Dev.memScope_survey s r
@[simp] theorem Dev.seqScope_service : (s.seqScope r).service = s.service := Dev.memScope_service s r
@[simp] theorem Dev.seqScope_pins : (s.seqScope r).pins = s.pins := Dev.memScope_pins s r
@[simp] theorem Dev.seqScope_serves : (s.seqScope r).serves = s.serves := Dev.memScope_serves s r
@[simp] theorem Dev.seqScope_hostReads : (s.seqScope r).hostReads = r.hostReads := Dev.memScope_hostReads s r
@[simp] theorem Dev.seqScope_msix : (s.seqScope r).msix = s.msix := Dev.memScope_msix s r
@[simp] theorem Dev.seqScope_hostTag : (s.seqScope r).hostTag = r.hostTag := Dev.memScope_hostTag s r
@[simp] theorem Dev.seqScope_shadow : (s.seqScope r).shadow = r.shadow := Dev.memScope_shadow s r
@[simp] theorem Dev.seqScope_outbox : (s.seqScope r).outbox = r.outbox := Dev.memScope_outbox s r
@[simp] theorem Dev.seqScope_free : (s.seqScope r).free = r.free := Dev.memScope_free s r

/-! ### acceptScope -/

@[simp] theorem Dev.acceptScope_dt : (s.acceptScope r).dt = s.dt := Dev.netScope_dt s r
@[simp] theorem Dev.acceptScope_regs : (s.acceptScope r).regs = r.regs := Dev.netScope_regs s r
@[simp] theorem Dev.acceptScope_ctrs : (s.acceptScope r).ctrs = r.ctrs := Dev.netScope_ctrs s r
@[simp] theorem Dev.acceptScope_ctrHi : (s.acceptScope r).ctrHi = s.ctrHi := Dev.netScope_ctrHi s r
@[simp] theorem Dev.acceptScope_slots : (s.acceptScope r).slots = s.slots := Dev.netScope_slots s r
@[simp] theorem Dev.acceptScope_guards : (s.acceptScope r).guards = s.guards := Dev.netScope_guards s r
@[simp] theorem Dev.acceptScope_dies : (s.acceptScope r).dies = s.dies := Dev.netScope_dies s r
@[simp] theorem Dev.acceptScope_cores : (s.acceptScope r).cores = r.cores := Dev.netScope_cores s r
@[simp] theorem Dev.acceptScope_stackTab : (s.acceptScope r).stackTab = s.stackTab := Dev.netScope_stackTab s r
@[simp] theorem Dev.acceptScope_mem : (s.acceptScope r).mem = r.mem := Dev.netScope_mem s r
@[simp] theorem Dev.acceptScope_secPoison : (s.acceptScope r).secPoison = r.secPoison := Dev.netScope_secPoison s r
@[simp] theorem Dev.acceptScope_ecc : (s.acceptScope r).ecc = r.ecc := Dev.netScope_ecc s r
@[simp] theorem Dev.acceptScope_tags : (s.acceptScope r).tags = r.tags := Dev.netScope_tags s r
@[simp] theorem Dev.acceptScope_regained : (s.acceptScope r).regained = s.regained := Dev.netScope_regained s r
@[simp] theorem Dev.acceptScope_regions : (s.acceptScope r).regions = s.regions := Dev.netScope_regions s r
@[simp] theorem Dev.acceptScope_memWaits : (s.acceptScope r).memWaits = r.memWaits := Dev.netScope_memWaits s r
@[simp] theorem Dev.acceptScope_reissues : (s.acceptScope r).reissues = r.reissues := Dev.netScope_reissues s r
@[simp] theorem Dev.acceptScope_xlat : (s.acceptScope r).xlat = r.xlat := Dev.netScope_xlat s r
@[simp] theorem Dev.acceptScope_egress : (s.acceptScope r).egress = r.egress := Dev.netScope_egress s r
@[simp] theorem Dev.acceptScope_crossTx : (s.acceptScope r).crossTx = r.crossTx := Dev.netScope_crossTx s r
@[simp] theorem Dev.acceptScope_crossRx : (s.acceptScope r).crossRx = r.crossRx := Dev.netScope_crossRx s r
@[simp] theorem Dev.acceptScope_crossing : (s.acceptScope r).crossing = r.crossing := Dev.netScope_crossing s r
@[simp] theorem Dev.acceptScope_pend : (s.acceptScope r).pend = r.pend := Dev.netScope_pend s r
@[simp] theorem Dev.acceptScope_ports : (s.acceptScope r).ports = r.ports := Dev.netScope_ports s r
@[simp] theorem Dev.acceptScope_seqTx : (s.acceptScope r).seqTx = r.seqTx := Dev.netScope_seqTx s r
@[simp] theorem Dev.acceptScope_seqRx : (s.acceptScope r).seqRx = s.seqRx := Dev.netScope_seqRx s r
@[simp] theorem Dev.acceptScope_epochs : (s.acceptScope r).epochs = s.epochs := Dev.netScope_epochs s r
@[simp] theorem Dev.acceptScope_notices : (s.acceptScope r).notices = s.notices := Dev.netScope_notices s r
@[simp] theorem Dev.acceptScope_rxWrites : (s.acceptScope r).rxWrites = s.rxWrites := Dev.netScope_rxWrites s r
@[simp] theorem Dev.acceptScope_linkState : (s.acceptScope r).linkState = s.linkState := Dev.netScope_linkState s r
@[simp] theorem Dev.acceptScope_linkSent : (s.acceptScope r).linkSent = s.linkSent := Dev.netScope_linkSent s r
@[simp] theorem Dev.acceptScope_gate : (s.acceptScope r).gate = r.gate := Dev.netScope_gate s r
@[simp] theorem Dev.acceptScope_time : (s.acceptScope r).time = s.time := Dev.netScope_time s r
@[simp] theorem Dev.acceptScope_holdings : (s.acceptScope r).holdings = r.holdings := Dev.netScope_holdings s r
@[simp] theorem Dev.acceptScope_queues : (s.acceptScope r).queues = r.queues := by simp only [Dev.acceptScope]
@[simp] theorem Dev.acceptScope_boxes : (s.acceptScope r).boxes = s.boxes := Dev.netScope_boxes s r
@[simp] theorem Dev.acceptScope_gotre : (s.acceptScope r).gotre = r.gotre := by simp only [Dev.acceptScope]
@[simp] theorem Dev.acceptScope_power : (s.acceptScope r).power = s.power := Dev.netScope_power s r
@[simp] theorem Dev.acceptScope_droop : (s.acceptScope r).droop = s.droop := Dev.netScope_droop s r
@[simp] theorem Dev.acceptScope_saved : (s.acceptScope r).saved = s.saved := Dev.netScope_saved s r
@[simp] theorem Dev.acceptScope_survey : (s.acceptScope r).survey = s.survey := Dev.netScope_survey s r
@[simp] theorem Dev.acceptScope_service : (s.acceptScope r).service = s.service := Dev.netScope_service s r
@[simp] theorem Dev.acceptScope_pins : (s.acceptScope r).pins = s.pins := Dev.netScope_pins s r
@[simp] theorem Dev.acceptScope_serves : (s.acceptScope r).serves = s.serves := Dev.netScope_serves s r
@[simp] theorem Dev.acceptScope_hostReads : (s.acceptScope r).hostReads = r.hostReads := Dev.netScope_hostReads s r
@[simp] theorem Dev.acceptScope_msix : (s.acceptScope r).msix = s.msix := Dev.netScope_msix s r
@[simp] theorem Dev.acceptScope_hostTag : (s.acceptScope r).hostTag = r.hostTag := Dev.netScope_hostTag s r
@[simp] theorem Dev.acceptScope_shadow : (s.acceptScope r).shadow = r.shadow := Dev.netScope_shadow s r
@[simp] theorem Dev.acceptScope_outbox : (s.acceptScope r).outbox = r.outbox := Dev.netScope_outbox s r
@[simp] theorem Dev.acceptScope_free : (s.acceptScope r).free = r.free := Dev.netScope_free s r

/-! ### lifeScope -/

@[simp] theorem Dev.lifeScope_dt : (s.lifeScope r).dt = r.dt := by simp only [Dev.lifeScope]
@[simp] theorem Dev.lifeScope_regs : (s.lifeScope r).regs = r.regs := Dev.gotreScope_regs s r
@[simp] theorem Dev.lifeScope_ctrs : (s.lifeScope r).ctrs = r.ctrs := Dev.gotreScope_ctrs s r
@[simp] theorem Dev.lifeScope_ctrHi : (s.lifeScope r).ctrHi = s.ctrHi := Dev.gotreScope_ctrHi s r
@[simp] theorem Dev.lifeScope_slots : (s.lifeScope r).slots = r.slots := by simp only [Dev.lifeScope]
@[simp] theorem Dev.lifeScope_guards : (s.lifeScope r).guards = s.guards := Dev.gotreScope_guards s r
@[simp] theorem Dev.lifeScope_dies : (s.lifeScope r).dies = s.dies := Dev.gotreScope_dies s r
@[simp] theorem Dev.lifeScope_cores : (s.lifeScope r).cores = r.cores := Dev.gotreScope_cores s r
@[simp] theorem Dev.lifeScope_stackTab : (s.lifeScope r).stackTab = s.stackTab := Dev.gotreScope_stackTab s r
@[simp] theorem Dev.lifeScope_mem : (s.lifeScope r).mem = r.mem := Dev.gotreScope_mem s r
@[simp] theorem Dev.lifeScope_secPoison : (s.lifeScope r).secPoison = r.secPoison := Dev.gotreScope_secPoison s r
@[simp] theorem Dev.lifeScope_ecc : (s.lifeScope r).ecc = r.ecc := Dev.gotreScope_ecc s r
@[simp] theorem Dev.lifeScope_tags : (s.lifeScope r).tags = r.tags := Dev.gotreScope_tags s r
@[simp] theorem Dev.lifeScope_regained : (s.lifeScope r).regained = s.regained := Dev.gotreScope_regained s r
@[simp] theorem Dev.lifeScope_regions : (s.lifeScope r).regions = r.regions := by simp only [Dev.lifeScope]
@[simp] theorem Dev.lifeScope_memWaits : (s.lifeScope r).memWaits = r.memWaits := Dev.gotreScope_memWaits s r
@[simp] theorem Dev.lifeScope_reissues : (s.lifeScope r).reissues = r.reissues := Dev.gotreScope_reissues s r
@[simp] theorem Dev.lifeScope_xlat : (s.lifeScope r).xlat = r.xlat := by simp only [Dev.lifeScope]
@[simp] theorem Dev.lifeScope_egress : (s.lifeScope r).egress = r.egress := Dev.gotreScope_egress s r
@[simp] theorem Dev.lifeScope_crossTx : (s.lifeScope r).crossTx = r.crossTx := Dev.gotreScope_crossTx s r
@[simp] theorem Dev.lifeScope_crossRx : (s.lifeScope r).crossRx = r.crossRx := Dev.gotreScope_crossRx s r
@[simp] theorem Dev.lifeScope_crossing : (s.lifeScope r).crossing = r.crossing := Dev.gotreScope_crossing s r
@[simp] theorem Dev.lifeScope_pend : (s.lifeScope r).pend = r.pend := Dev.gotreScope_pend s r
@[simp] theorem Dev.lifeScope_ports : (s.lifeScope r).ports = r.ports := by simp only [Dev.lifeScope]
@[simp] theorem Dev.lifeScope_seqTx : (s.lifeScope r).seqTx = r.seqTx := by simp only [Dev.lifeScope]
@[simp] theorem Dev.lifeScope_seqRx : (s.lifeScope r).seqRx = s.seqRx := Dev.gotreScope_seqRx s r
@[simp] theorem Dev.lifeScope_epochs : (s.lifeScope r).epochs = s.epochs := Dev.gotreScope_epochs s r
@[simp] theorem Dev.lifeScope_notices : (s.lifeScope r).notices = s.notices := Dev.gotreScope_notices s r
@[simp] theorem Dev.lifeScope_rxWrites : (s.lifeScope r).rxWrites = s.rxWrites := Dev.gotreScope_rxWrites s r
@[simp] theorem Dev.lifeScope_linkState : (s.lifeScope r).linkState = s.linkState := Dev.gotreScope_linkState s r
@[simp] theorem Dev.lifeScope_linkSent : (s.lifeScope r).linkSent = s.linkSent := Dev.gotreScope_linkSent s r
@[simp] theorem Dev.lifeScope_gate : (s.lifeScope r).gate = r.gate := by simp only [Dev.lifeScope]
@[simp] theorem Dev.lifeScope_time : (s.lifeScope r).time = s.time := Dev.gotreScope_time s r
@[simp] theorem Dev.lifeScope_holdings : (s.lifeScope r).holdings = r.holdings := Dev.gotreScope_holdings s r
@[simp] theorem Dev.lifeScope_queues : (s.lifeScope r).queues = r.queues := Dev.gotreScope_queues s r
@[simp] theorem Dev.lifeScope_boxes : (s.lifeScope r).boxes = r.boxes := Dev.gotreScope_boxes s r
@[simp] theorem Dev.lifeScope_gotre : (s.lifeScope r).gotre = r.gotre := Dev.gotreScope_gotre s r
@[simp] theorem Dev.lifeScope_power : (s.lifeScope r).power = s.power := Dev.gotreScope_power s r
@[simp] theorem Dev.lifeScope_droop : (s.lifeScope r).droop = s.droop := Dev.gotreScope_droop s r
@[simp] theorem Dev.lifeScope_saved : (s.lifeScope r).saved = s.saved := Dev.gotreScope_saved s r
@[simp] theorem Dev.lifeScope_survey : (s.lifeScope r).survey = r.survey := by simp only [Dev.lifeScope]
@[simp] theorem Dev.lifeScope_service : (s.lifeScope r).service = r.service := by simp only [Dev.lifeScope]
@[simp] theorem Dev.lifeScope_pins : (s.lifeScope r).pins = s.pins := Dev.gotreScope_pins s r
@[simp] theorem Dev.lifeScope_serves : (s.lifeScope r).serves = s.serves := Dev.gotreScope_serves s r
@[simp] theorem Dev.lifeScope_hostReads : (s.lifeScope r).hostReads = r.hostReads := Dev.gotreScope_hostReads s r
@[simp] theorem Dev.lifeScope_msix : (s.lifeScope r).msix = s.msix := Dev.gotreScope_msix s r
@[simp] theorem Dev.lifeScope_hostTag : (s.lifeScope r).hostTag = r.hostTag := Dev.gotreScope_hostTag s r
@[simp] theorem Dev.lifeScope_shadow : (s.lifeScope r).shadow = r.shadow := Dev.gotreScope_shadow s r
@[simp] theorem Dev.lifeScope_outbox : (s.lifeScope r).outbox = r.outbox := Dev.gotreScope_outbox s r
@[simp] theorem Dev.lifeScope_free : (s.lifeScope r).free = r.free := Dev.gotreScope_free s r

/-! ### serviceScope -/

@[simp] theorem Dev.serviceScope_dt : (s.serviceScope r).dt = s.dt := Dev.gotreScope_dt s r
@[simp] theorem Dev.serviceScope_regs : (s.serviceScope r).regs = r.regs := Dev.gotreScope_regs s r
@[simp] theorem Dev.serviceScope_ctrs : (s.serviceScope r).ctrs = r.ctrs := Dev.gotreScope_ctrs s r
@[simp] theorem Dev.serviceScope_ctrHi : (s.serviceScope r).ctrHi = s.ctrHi := Dev.gotreScope_ctrHi s r
@[simp] theorem Dev.serviceScope_slots : (s.serviceScope r).slots = s.slots := Dev.gotreScope_slots s r
@[simp] theorem Dev.serviceScope_guards : (s.serviceScope r).guards = s.guards := Dev.gotreScope_guards s r
@[simp] theorem Dev.serviceScope_dies : (s.serviceScope r).dies = s.dies := Dev.gotreScope_dies s r
@[simp] theorem Dev.serviceScope_cores : (s.serviceScope r).cores = r.cores := Dev.gotreScope_cores s r
@[simp] theorem Dev.serviceScope_stackTab : (s.serviceScope r).stackTab = s.stackTab := Dev.gotreScope_stackTab s r
@[simp] theorem Dev.serviceScope_mem : (s.serviceScope r).mem = r.mem := Dev.gotreScope_mem s r
@[simp] theorem Dev.serviceScope_secPoison : (s.serviceScope r).secPoison = r.secPoison := Dev.gotreScope_secPoison s r
@[simp] theorem Dev.serviceScope_ecc : (s.serviceScope r).ecc = r.ecc := Dev.gotreScope_ecc s r
@[simp] theorem Dev.serviceScope_tags : (s.serviceScope r).tags = r.tags := Dev.gotreScope_tags s r
@[simp] theorem Dev.serviceScope_regained : (s.serviceScope r).regained = s.regained := Dev.gotreScope_regained s r
@[simp] theorem Dev.serviceScope_regions : (s.serviceScope r).regions = s.regions := Dev.gotreScope_regions s r
@[simp] theorem Dev.serviceScope_memWaits : (s.serviceScope r).memWaits = r.memWaits := Dev.gotreScope_memWaits s r
@[simp] theorem Dev.serviceScope_reissues : (s.serviceScope r).reissues = r.reissues := Dev.gotreScope_reissues s r
@[simp] theorem Dev.serviceScope_xlat : (s.serviceScope r).xlat = r.xlat := Dev.gotreScope_xlat s r
@[simp] theorem Dev.serviceScope_egress : (s.serviceScope r).egress = r.egress := Dev.gotreScope_egress s r
@[simp] theorem Dev.serviceScope_crossTx : (s.serviceScope r).crossTx = r.crossTx := Dev.gotreScope_crossTx s r
@[simp] theorem Dev.serviceScope_crossRx : (s.serviceScope r).crossRx = r.crossRx := Dev.gotreScope_crossRx s r
@[simp] theorem Dev.serviceScope_crossing : (s.serviceScope r).crossing = r.crossing := Dev.gotreScope_crossing s r
@[simp] theorem Dev.serviceScope_pend : (s.serviceScope r).pend = r.pend := Dev.gotreScope_pend s r
@[simp] theorem Dev.serviceScope_ports : (s.serviceScope r).ports = s.ports := Dev.gotreScope_ports s r
@[simp] theorem Dev.serviceScope_seqTx : (s.serviceScope r).seqTx = s.seqTx := Dev.gotreScope_seqTx s r
@[simp] theorem Dev.serviceScope_seqRx : (s.serviceScope r).seqRx = s.seqRx := Dev.gotreScope_seqRx s r
@[simp] theorem Dev.serviceScope_epochs : (s.serviceScope r).epochs = s.epochs := Dev.gotreScope_epochs s r
@[simp] theorem Dev.serviceScope_notices : (s.serviceScope r).notices = s.notices := Dev.gotreScope_notices s r
@[simp] theorem Dev.serviceScope_rxWrites : (s.serviceScope r).rxWrites = s.rxWrites := Dev.gotreScope_rxWrites s r
@[simp] theorem Dev.serviceScope_linkState : (s.serviceScope r).linkState = s.linkState := Dev.gotreScope_linkState s r
@[simp] theorem Dev.serviceScope_linkSent : (s.serviceScope r).linkSent = s.linkSent := Dev.gotreScope_linkSent s r
@[simp] theorem Dev.serviceScope_gate : (s.serviceScope r).gate = s.gate := Dev.gotreScope_gate s r
@[simp] theorem Dev.serviceScope_time : (s.serviceScope r).time = s.time := Dev.gotreScope_time s r
@[simp] theorem Dev.serviceScope_holdings : (s.serviceScope r).holdings = r.holdings := Dev.gotreScope_holdings s r
@[simp] theorem Dev.serviceScope_queues : (s.serviceScope r).queues = r.queues := Dev.gotreScope_queues s r
@[simp] theorem Dev.serviceScope_boxes : (s.serviceScope r).boxes = r.boxes := Dev.gotreScope_boxes s r
@[simp] theorem Dev.serviceScope_gotre : (s.serviceScope r).gotre = r.gotre := Dev.gotreScope_gotre s r
@[simp] theorem Dev.serviceScope_power : (s.serviceScope r).power = s.power := Dev.gotreScope_power s r
@[simp] theorem Dev.serviceScope_droop : (s.serviceScope r).droop = s.droop := Dev.gotreScope_droop s r
@[simp] theorem Dev.serviceScope_saved : (s.serviceScope r).saved = s.saved := Dev.gotreScope_saved s r
@[simp] theorem Dev.serviceScope_survey : (s.serviceScope r).survey = s.survey := Dev.gotreScope_survey s r
@[simp] theorem Dev.serviceScope_service : (s.serviceScope r).service = r.service := by simp only [Dev.serviceScope]
@[simp] theorem Dev.serviceScope_pins : (s.serviceScope r).pins = s.pins := Dev.gotreScope_pins s r
@[simp] theorem Dev.serviceScope_serves : (s.serviceScope r).serves = s.serves := Dev.gotreScope_serves s r
@[simp] theorem Dev.serviceScope_hostReads : (s.serviceScope r).hostReads = r.hostReads := Dev.gotreScope_hostReads s r
@[simp] theorem Dev.serviceScope_msix : (s.serviceScope r).msix = s.msix := Dev.gotreScope_msix s r
@[simp] theorem Dev.serviceScope_hostTag : (s.serviceScope r).hostTag = r.hostTag := Dev.gotreScope_hostTag s r
@[simp] theorem Dev.serviceScope_shadow : (s.serviceScope r).shadow = r.shadow := Dev.gotreScope_shadow s r
@[simp] theorem Dev.serviceScope_outbox : (s.serviceScope r).outbox = r.outbox := Dev.gotreScope_outbox s r
@[simp] theorem Dev.serviceScope_free : (s.serviceScope r).free = r.free := Dev.gotreScope_free s r

/-! ### mirrorScope -/

@[simp] theorem Dev.mirrorScope_dt : (s.mirrorScope r).dt = r.dt := Dev.lifeScope_dt s r
@[simp] theorem Dev.mirrorScope_regs : (s.mirrorScope r).regs = r.regs := Dev.lifeScope_regs s r
@[simp] theorem Dev.mirrorScope_ctrs : (s.mirrorScope r).ctrs = r.ctrs := Dev.lifeScope_ctrs s r
@[simp] theorem Dev.mirrorScope_ctrHi : (s.mirrorScope r).ctrHi = s.ctrHi := Dev.lifeScope_ctrHi s r
@[simp] theorem Dev.mirrorScope_slots : (s.mirrorScope r).slots = r.slots := Dev.lifeScope_slots s r
@[simp] theorem Dev.mirrorScope_guards : (s.mirrorScope r).guards = s.guards := Dev.lifeScope_guards s r
@[simp] theorem Dev.mirrorScope_dies : (s.mirrorScope r).dies = s.dies := Dev.lifeScope_dies s r
@[simp] theorem Dev.mirrorScope_cores : (s.mirrorScope r).cores = r.cores := Dev.lifeScope_cores s r
@[simp] theorem Dev.mirrorScope_stackTab : (s.mirrorScope r).stackTab = s.stackTab := Dev.lifeScope_stackTab s r
@[simp] theorem Dev.mirrorScope_mem : (s.mirrorScope r).mem = r.mem := Dev.lifeScope_mem s r
@[simp] theorem Dev.mirrorScope_secPoison : (s.mirrorScope r).secPoison = r.secPoison := Dev.lifeScope_secPoison s r
@[simp] theorem Dev.mirrorScope_ecc : (s.mirrorScope r).ecc = r.ecc := Dev.lifeScope_ecc s r
@[simp] theorem Dev.mirrorScope_tags : (s.mirrorScope r).tags = r.tags := Dev.lifeScope_tags s r
@[simp] theorem Dev.mirrorScope_regained : (s.mirrorScope r).regained = s.regained := Dev.lifeScope_regained s r
@[simp] theorem Dev.mirrorScope_regions : (s.mirrorScope r).regions = r.regions := Dev.lifeScope_regions s r
@[simp] theorem Dev.mirrorScope_memWaits : (s.mirrorScope r).memWaits = r.memWaits := Dev.lifeScope_memWaits s r
@[simp] theorem Dev.mirrorScope_reissues : (s.mirrorScope r).reissues = r.reissues := Dev.lifeScope_reissues s r
@[simp] theorem Dev.mirrorScope_xlat : (s.mirrorScope r).xlat = r.xlat := Dev.lifeScope_xlat s r
@[simp] theorem Dev.mirrorScope_egress : (s.mirrorScope r).egress = r.egress := Dev.lifeScope_egress s r
@[simp] theorem Dev.mirrorScope_crossTx : (s.mirrorScope r).crossTx = r.crossTx := Dev.lifeScope_crossTx s r
@[simp] theorem Dev.mirrorScope_crossRx : (s.mirrorScope r).crossRx = r.crossRx := Dev.lifeScope_crossRx s r
@[simp] theorem Dev.mirrorScope_crossing : (s.mirrorScope r).crossing = r.crossing := Dev.lifeScope_crossing s r
@[simp] theorem Dev.mirrorScope_pend : (s.mirrorScope r).pend = r.pend := Dev.lifeScope_pend s r
@[simp] theorem Dev.mirrorScope_ports : (s.mirrorScope r).ports = r.ports := Dev.lifeScope_ports s r
@[simp] theorem Dev.mirrorScope_seqTx : (s.mirrorScope r).seqTx = r.seqTx := Dev.lifeScope_seqTx s r
@[simp] theorem Dev.mirrorScope_seqRx : (s.mirrorScope r).seqRx = s.seqRx := Dev.lifeScope_seqRx s r
@[simp] theorem Dev.mirrorScope_epochs : (s.mirrorScope r).epochs = s.epochs := Dev.lifeScope_epochs s r
@[simp] theorem Dev.mirrorScope_notices : (s.mirrorScope r).notices = s.notices := Dev.lifeScope_notices s r
@[simp] theorem Dev.mirrorScope_rxWrites : (s.mirrorScope r).rxWrites = s.rxWrites := Dev.lifeScope_rxWrites s r
@[simp] theorem Dev.mirrorScope_linkState : (s.mirrorScope r).linkState = s.linkState := Dev.lifeScope_linkState s r
@[simp] theorem Dev.mirrorScope_linkSent : (s.mirrorScope r).linkSent = s.linkSent := Dev.lifeScope_linkSent s r
@[simp] theorem Dev.mirrorScope_gate : (s.mirrorScope r).gate = r.gate := Dev.lifeScope_gate s r
@[simp] theorem Dev.mirrorScope_time : (s.mirrorScope r).time = s.time := Dev.lifeScope_time s r
@[simp] theorem Dev.mirrorScope_holdings : (s.mirrorScope r).holdings = r.holdings := Dev.lifeScope_holdings s r
@[simp] theorem Dev.mirrorScope_queues : (s.mirrorScope r).queues = r.queues := Dev.lifeScope_queues s r
@[simp] theorem Dev.mirrorScope_boxes : (s.mirrorScope r).boxes = r.boxes := Dev.lifeScope_boxes s r
@[simp] theorem Dev.mirrorScope_gotre : (s.mirrorScope r).gotre = r.gotre := Dev.lifeScope_gotre s r
@[simp] theorem Dev.mirrorScope_power : (s.mirrorScope r).power = s.power := Dev.lifeScope_power s r
@[simp] theorem Dev.mirrorScope_droop : (s.mirrorScope r).droop = s.droop := Dev.lifeScope_droop s r
@[simp] theorem Dev.mirrorScope_saved : (s.mirrorScope r).saved = s.saved := Dev.lifeScope_saved s r
@[simp] theorem Dev.mirrorScope_survey : (s.mirrorScope r).survey = r.survey := Dev.lifeScope_survey s r
@[simp] theorem Dev.mirrorScope_service : (s.mirrorScope r).service = r.service := Dev.lifeScope_service s r
@[simp] theorem Dev.mirrorScope_pins : (s.mirrorScope r).pins = s.pins := Dev.lifeScope_pins s r
@[simp] theorem Dev.mirrorScope_serves : (s.mirrorScope r).serves = r.serves := by simp only [Dev.mirrorScope]
@[simp] theorem Dev.mirrorScope_hostReads : (s.mirrorScope r).hostReads = r.hostReads := Dev.lifeScope_hostReads s r
@[simp] theorem Dev.mirrorScope_msix : (s.mirrorScope r).msix = s.msix := Dev.lifeScope_msix s r
@[simp] theorem Dev.mirrorScope_hostTag : (s.mirrorScope r).hostTag = r.hostTag := Dev.lifeScope_hostTag s r
@[simp] theorem Dev.mirrorScope_shadow : (s.mirrorScope r).shadow = r.shadow := Dev.lifeScope_shadow s r
@[simp] theorem Dev.mirrorScope_outbox : (s.mirrorScope r).outbox = r.outbox := Dev.lifeScope_outbox s r
@[simp] theorem Dev.mirrorScope_free : (s.mirrorScope r).free = r.free := Dev.lifeScope_free s r

/-! ### linkScope -/

@[simp] theorem Dev.linkScope_dt : (s.linkScope r).dt = r.dt := by simp only [Dev.linkScope, Dev.mirrorScope_dt]
@[simp] theorem Dev.linkScope_regs : (s.linkScope r).regs = r.regs := by simp only [Dev.linkScope, Dev.mirrorScope_regs]
@[simp] theorem Dev.linkScope_ctrs : (s.linkScope r).ctrs = r.ctrs := by simp only [Dev.linkScope, Dev.mirrorScope_ctrs]
@[simp] theorem Dev.linkScope_ctrHi : (s.linkScope r).ctrHi = s.ctrHi := by simp only [Dev.linkScope, Dev.mirrorScope_ctrHi]
@[simp] theorem Dev.linkScope_slots : (s.linkScope r).slots = r.slots := by simp only [Dev.linkScope, Dev.mirrorScope_slots]
@[simp] theorem Dev.linkScope_guards : (s.linkScope r).guards = s.guards := by simp only [Dev.linkScope, Dev.mirrorScope_guards]
@[simp] theorem Dev.linkScope_dies : (s.linkScope r).dies = s.dies := by simp only [Dev.linkScope, Dev.mirrorScope_dies]
@[simp] theorem Dev.linkScope_cores : (s.linkScope r).cores = r.cores := by simp only [Dev.linkScope, Dev.mirrorScope_cores]
@[simp] theorem Dev.linkScope_stackTab : (s.linkScope r).stackTab = s.stackTab := by simp only [Dev.linkScope, Dev.mirrorScope_stackTab]
@[simp] theorem Dev.linkScope_mem : (s.linkScope r).mem = r.mem := by simp only [Dev.linkScope, Dev.mirrorScope_mem]
@[simp] theorem Dev.linkScope_secPoison : (s.linkScope r).secPoison = r.secPoison := by simp only [Dev.linkScope, Dev.mirrorScope_secPoison]
@[simp] theorem Dev.linkScope_ecc : (s.linkScope r).ecc = r.ecc := by simp only [Dev.linkScope, Dev.mirrorScope_ecc]
@[simp] theorem Dev.linkScope_tags : (s.linkScope r).tags = r.tags := by simp only [Dev.linkScope, Dev.mirrorScope_tags]
@[simp] theorem Dev.linkScope_regained : (s.linkScope r).regained = s.regained := by simp only [Dev.linkScope, Dev.mirrorScope_regained]
@[simp] theorem Dev.linkScope_regions : (s.linkScope r).regions = r.regions := by simp only [Dev.linkScope, Dev.mirrorScope_regions]
@[simp] theorem Dev.linkScope_memWaits : (s.linkScope r).memWaits = r.memWaits := by simp only [Dev.linkScope, Dev.mirrorScope_memWaits]
@[simp] theorem Dev.linkScope_reissues : (s.linkScope r).reissues = r.reissues := by simp only [Dev.linkScope, Dev.mirrorScope_reissues]
@[simp] theorem Dev.linkScope_xlat : (s.linkScope r).xlat = r.xlat := by simp only [Dev.linkScope, Dev.mirrorScope_xlat]
@[simp] theorem Dev.linkScope_egress : (s.linkScope r).egress = r.egress := by simp only [Dev.linkScope, Dev.mirrorScope_egress]
@[simp] theorem Dev.linkScope_crossTx : (s.linkScope r).crossTx = r.crossTx := by simp only [Dev.linkScope, Dev.mirrorScope_crossTx]
@[simp] theorem Dev.linkScope_crossRx : (s.linkScope r).crossRx = r.crossRx := by simp only [Dev.linkScope, Dev.mirrorScope_crossRx]
@[simp] theorem Dev.linkScope_crossing : (s.linkScope r).crossing = r.crossing := by simp only [Dev.linkScope, Dev.mirrorScope_crossing]
@[simp] theorem Dev.linkScope_pend : (s.linkScope r).pend = r.pend := by simp only [Dev.linkScope, Dev.mirrorScope_pend]
@[simp] theorem Dev.linkScope_ports : (s.linkScope r).ports = r.ports := by simp only [Dev.linkScope, Dev.mirrorScope_ports]
@[simp] theorem Dev.linkScope_seqTx : (s.linkScope r).seqTx = r.seqTx := by simp only [Dev.linkScope, Dev.mirrorScope_seqTx]
@[simp] theorem Dev.linkScope_seqRx : (s.linkScope r).seqRx = r.seqRx := by simp only [Dev.linkScope]
@[simp] theorem Dev.linkScope_epochs : (s.linkScope r).epochs = r.epochs := by simp only [Dev.linkScope]
@[simp] theorem Dev.linkScope_notices : (s.linkScope r).notices = r.notices := by simp only [Dev.linkScope]
@[simp] theorem Dev.linkScope_rxWrites : (s.linkScope r).rxWrites = r.rxWrites := by simp only [Dev.linkScope]
@[simp] theorem Dev.linkScope_linkState : (s.linkScope r).linkState = r.linkState := by simp only [Dev.linkScope]
@[simp] theorem Dev.linkScope_linkSent : (s.linkScope r).linkSent = r.linkSent := by simp only [Dev.linkScope]
@[simp] theorem Dev.linkScope_gate : (s.linkScope r).gate = r.gate := by simp only [Dev.linkScope, Dev.mirrorScope_gate]
@[simp] theorem Dev.linkScope_time : (s.linkScope r).time = r.time := by simp only [Dev.linkScope]
@[simp] theorem Dev.linkScope_holdings : (s.linkScope r).holdings = r.holdings := by simp only [Dev.linkScope, Dev.mirrorScope_holdings]
@[simp] theorem Dev.linkScope_queues : (s.linkScope r).queues = r.queues := by simp only [Dev.linkScope, Dev.mirrorScope_queues]
@[simp] theorem Dev.linkScope_boxes : (s.linkScope r).boxes = r.boxes := by simp only [Dev.linkScope, Dev.mirrorScope_boxes]
@[simp] theorem Dev.linkScope_gotre : (s.linkScope r).gotre = r.gotre := by simp only [Dev.linkScope, Dev.mirrorScope_gotre]
@[simp] theorem Dev.linkScope_power : (s.linkScope r).power = s.power := by simp only [Dev.linkScope, Dev.mirrorScope_power]
@[simp] theorem Dev.linkScope_droop : (s.linkScope r).droop = s.droop := by simp only [Dev.linkScope, Dev.mirrorScope_droop]
@[simp] theorem Dev.linkScope_saved : (s.linkScope r).saved = s.saved := by simp only [Dev.linkScope, Dev.mirrorScope_saved]
@[simp] theorem Dev.linkScope_survey : (s.linkScope r).survey = r.survey := by simp only [Dev.linkScope, Dev.mirrorScope_survey]
@[simp] theorem Dev.linkScope_service : (s.linkScope r).service = r.service := by simp only [Dev.linkScope, Dev.mirrorScope_service]
@[simp] theorem Dev.linkScope_pins : (s.linkScope r).pins = s.pins := by simp only [Dev.linkScope, Dev.mirrorScope_pins]
@[simp] theorem Dev.linkScope_serves : (s.linkScope r).serves = r.serves := by simp only [Dev.linkScope, Dev.mirrorScope_serves]
@[simp] theorem Dev.linkScope_hostReads : (s.linkScope r).hostReads = r.hostReads := by simp only [Dev.linkScope, Dev.mirrorScope_hostReads]
@[simp] theorem Dev.linkScope_msix : (s.linkScope r).msix = s.msix := by simp only [Dev.linkScope, Dev.mirrorScope_msix]
@[simp] theorem Dev.linkScope_hostTag : (s.linkScope r).hostTag = r.hostTag := by simp only [Dev.linkScope, Dev.mirrorScope_hostTag]
@[simp] theorem Dev.linkScope_shadow : (s.linkScope r).shadow = r.shadow := by simp only [Dev.linkScope, Dev.mirrorScope_shadow]
@[simp] theorem Dev.linkScope_outbox : (s.linkScope r).outbox = r.outbox := by simp only [Dev.linkScope, Dev.mirrorScope_outbox]
@[simp] theorem Dev.linkScope_free : (s.linkScope r).free = r.free := by simp only [Dev.linkScope, Dev.mirrorScope_free]

/-! ### linkWriteScope -/

@[simp] theorem Dev.linkWriteScope_dt : (s.linkWriteScope r).dt = r.dt := by simp only [Dev.linkWriteScope, Dev.linkScope_dt]
@[simp] theorem Dev.linkWriteScope_regs : (s.linkWriteScope r).regs = r.regs := by simp only [Dev.linkWriteScope, Dev.linkScope_regs]
@[simp] theorem Dev.linkWriteScope_ctrs : (s.linkWriteScope r).ctrs = r.ctrs := by simp only [Dev.linkWriteScope, Dev.linkScope_ctrs]
@[simp] theorem Dev.linkWriteScope_ctrHi : (s.linkWriteScope r).ctrHi = s.ctrHi := by simp only [Dev.linkWriteScope, Dev.linkScope_ctrHi]
@[simp] theorem Dev.linkWriteScope_slots : (s.linkWriteScope r).slots = r.slots := by simp only [Dev.linkWriteScope, Dev.linkScope_slots]
@[simp] theorem Dev.linkWriteScope_guards : (s.linkWriteScope r).guards = r.guards := by simp only [Dev.linkWriteScope]
@[simp] theorem Dev.linkWriteScope_dies : (s.linkWriteScope r).dies = s.dies := by simp only [Dev.linkWriteScope, Dev.linkScope_dies]
@[simp] theorem Dev.linkWriteScope_cores : (s.linkWriteScope r).cores = r.cores := by simp only [Dev.linkWriteScope, Dev.linkScope_cores]
@[simp] theorem Dev.linkWriteScope_stackTab : (s.linkWriteScope r).stackTab = s.stackTab := by simp only [Dev.linkWriteScope, Dev.linkScope_stackTab]
@[simp] theorem Dev.linkWriteScope_mem : (s.linkWriteScope r).mem = r.mem := by simp only [Dev.linkWriteScope, Dev.linkScope_mem]
@[simp] theorem Dev.linkWriteScope_secPoison : (s.linkWriteScope r).secPoison = r.secPoison := by simp only [Dev.linkWriteScope, Dev.linkScope_secPoison]
@[simp] theorem Dev.linkWriteScope_ecc : (s.linkWriteScope r).ecc = r.ecc := by simp only [Dev.linkWriteScope, Dev.linkScope_ecc]
@[simp] theorem Dev.linkWriteScope_tags : (s.linkWriteScope r).tags = r.tags := by simp only [Dev.linkWriteScope, Dev.linkScope_tags]
@[simp] theorem Dev.linkWriteScope_regained : (s.linkWriteScope r).regained = s.regained := by simp only [Dev.linkWriteScope, Dev.linkScope_regained]
@[simp] theorem Dev.linkWriteScope_regions : (s.linkWriteScope r).regions = r.regions := by simp only [Dev.linkWriteScope, Dev.linkScope_regions]
@[simp] theorem Dev.linkWriteScope_memWaits : (s.linkWriteScope r).memWaits = r.memWaits := by simp only [Dev.linkWriteScope, Dev.linkScope_memWaits]
@[simp] theorem Dev.linkWriteScope_reissues : (s.linkWriteScope r).reissues = r.reissues := by simp only [Dev.linkWriteScope, Dev.linkScope_reissues]
@[simp] theorem Dev.linkWriteScope_xlat : (s.linkWriteScope r).xlat = r.xlat := by simp only [Dev.linkWriteScope, Dev.linkScope_xlat]
@[simp] theorem Dev.linkWriteScope_egress : (s.linkWriteScope r).egress = r.egress := by simp only [Dev.linkWriteScope, Dev.linkScope_egress]
@[simp] theorem Dev.linkWriteScope_crossTx : (s.linkWriteScope r).crossTx = r.crossTx := by simp only [Dev.linkWriteScope, Dev.linkScope_crossTx]
@[simp] theorem Dev.linkWriteScope_crossRx : (s.linkWriteScope r).crossRx = r.crossRx := by simp only [Dev.linkWriteScope, Dev.linkScope_crossRx]
@[simp] theorem Dev.linkWriteScope_crossing : (s.linkWriteScope r).crossing = r.crossing := by simp only [Dev.linkWriteScope, Dev.linkScope_crossing]
@[simp] theorem Dev.linkWriteScope_pend : (s.linkWriteScope r).pend = r.pend := by simp only [Dev.linkWriteScope, Dev.linkScope_pend]
@[simp] theorem Dev.linkWriteScope_ports : (s.linkWriteScope r).ports = r.ports := by simp only [Dev.linkWriteScope, Dev.linkScope_ports]
@[simp] theorem Dev.linkWriteScope_seqTx : (s.linkWriteScope r).seqTx = r.seqTx := by simp only [Dev.linkWriteScope, Dev.linkScope_seqTx]
@[simp] theorem Dev.linkWriteScope_seqRx : (s.linkWriteScope r).seqRx = r.seqRx := by simp only [Dev.linkWriteScope, Dev.linkScope_seqRx]
@[simp] theorem Dev.linkWriteScope_epochs : (s.linkWriteScope r).epochs = r.epochs := by simp only [Dev.linkWriteScope, Dev.linkScope_epochs]
@[simp] theorem Dev.linkWriteScope_notices : (s.linkWriteScope r).notices = r.notices := by simp only [Dev.linkWriteScope, Dev.linkScope_notices]
@[simp] theorem Dev.linkWriteScope_rxWrites : (s.linkWriteScope r).rxWrites = r.rxWrites := by simp only [Dev.linkWriteScope, Dev.linkScope_rxWrites]
@[simp] theorem Dev.linkWriteScope_linkState : (s.linkWriteScope r).linkState = r.linkState := by simp only [Dev.linkWriteScope, Dev.linkScope_linkState]
@[simp] theorem Dev.linkWriteScope_linkSent : (s.linkWriteScope r).linkSent = r.linkSent := by simp only [Dev.linkWriteScope, Dev.linkScope_linkSent]
@[simp] theorem Dev.linkWriteScope_gate : (s.linkWriteScope r).gate = r.gate := by simp only [Dev.linkWriteScope, Dev.linkScope_gate]
@[simp] theorem Dev.linkWriteScope_time : (s.linkWriteScope r).time = r.time := by simp only [Dev.linkWriteScope, Dev.linkScope_time]
@[simp] theorem Dev.linkWriteScope_holdings : (s.linkWriteScope r).holdings = r.holdings := by simp only [Dev.linkWriteScope, Dev.linkScope_holdings]
@[simp] theorem Dev.linkWriteScope_queues : (s.linkWriteScope r).queues = r.queues := by simp only [Dev.linkWriteScope, Dev.linkScope_queues]
@[simp] theorem Dev.linkWriteScope_boxes : (s.linkWriteScope r).boxes = r.boxes := by simp only [Dev.linkWriteScope, Dev.linkScope_boxes]
@[simp] theorem Dev.linkWriteScope_gotre : (s.linkWriteScope r).gotre = r.gotre := by simp only [Dev.linkWriteScope, Dev.linkScope_gotre]
@[simp] theorem Dev.linkWriteScope_power : (s.linkWriteScope r).power = s.power := by simp only [Dev.linkWriteScope, Dev.linkScope_power]
@[simp] theorem Dev.linkWriteScope_droop : (s.linkWriteScope r).droop = s.droop := by simp only [Dev.linkWriteScope, Dev.linkScope_droop]
@[simp] theorem Dev.linkWriteScope_saved : (s.linkWriteScope r).saved = s.saved := by simp only [Dev.linkWriteScope, Dev.linkScope_saved]
@[simp] theorem Dev.linkWriteScope_survey : (s.linkWriteScope r).survey = r.survey := by simp only [Dev.linkWriteScope, Dev.linkScope_survey]
@[simp] theorem Dev.linkWriteScope_service : (s.linkWriteScope r).service = r.service := by simp only [Dev.linkWriteScope, Dev.linkScope_service]
@[simp] theorem Dev.linkWriteScope_pins : (s.linkWriteScope r).pins = s.pins := by simp only [Dev.linkWriteScope, Dev.linkScope_pins]
@[simp] theorem Dev.linkWriteScope_serves : (s.linkWriteScope r).serves = r.serves := by simp only [Dev.linkWriteScope, Dev.linkScope_serves]
@[simp] theorem Dev.linkWriteScope_hostReads : (s.linkWriteScope r).hostReads = r.hostReads := by simp only [Dev.linkWriteScope, Dev.linkScope_hostReads]
@[simp] theorem Dev.linkWriteScope_msix : (s.linkWriteScope r).msix = s.msix := by simp only [Dev.linkWriteScope, Dev.linkScope_msix]
@[simp] theorem Dev.linkWriteScope_hostTag : (s.linkWriteScope r).hostTag = r.hostTag := by simp only [Dev.linkWriteScope, Dev.linkScope_hostTag]
@[simp] theorem Dev.linkWriteScope_shadow : (s.linkWriteScope r).shadow = r.shadow := by simp only [Dev.linkWriteScope, Dev.linkScope_shadow]
@[simp] theorem Dev.linkWriteScope_outbox : (s.linkWriteScope r).outbox = r.outbox := by simp only [Dev.linkWriteScope, Dev.linkScope_outbox]
@[simp] theorem Dev.linkWriteScope_free : (s.linkWriteScope r).free = r.free := by simp only [Dev.linkWriteScope, Dev.linkScope_free]

/-! ### surveyScope -/

@[simp] theorem Dev.surveyScope_dt : (s.surveyScope r).dt = r.dt := by simp only [Dev.surveyScope, Dev.linkScope_dt]
@[simp] theorem Dev.surveyScope_regs : (s.surveyScope r).regs = r.regs := by simp only [Dev.surveyScope, Dev.linkScope_regs]
@[simp] theorem Dev.surveyScope_ctrs : (s.surveyScope r).ctrs = r.ctrs := by simp only [Dev.surveyScope, Dev.linkScope_ctrs]
@[simp] theorem Dev.surveyScope_ctrHi : (s.surveyScope r).ctrHi = s.ctrHi := by simp only [Dev.surveyScope, Dev.linkScope_ctrHi]
@[simp] theorem Dev.surveyScope_slots : (s.surveyScope r).slots = r.slots := by simp only [Dev.surveyScope, Dev.linkScope_slots]
@[simp] theorem Dev.surveyScope_guards : (s.surveyScope r).guards = s.guards := by simp only [Dev.surveyScope, Dev.linkScope_guards]
@[simp] theorem Dev.surveyScope_dies : (s.surveyScope r).dies = r.dies := by simp only [Dev.surveyScope]
@[simp] theorem Dev.surveyScope_cores : (s.surveyScope r).cores = r.cores := by simp only [Dev.surveyScope, Dev.linkScope_cores]
@[simp] theorem Dev.surveyScope_stackTab : (s.surveyScope r).stackTab = s.stackTab := by simp only [Dev.surveyScope, Dev.linkScope_stackTab]
@[simp] theorem Dev.surveyScope_mem : (s.surveyScope r).mem = r.mem := by simp only [Dev.surveyScope, Dev.linkScope_mem]
@[simp] theorem Dev.surveyScope_secPoison : (s.surveyScope r).secPoison = r.secPoison := by simp only [Dev.surveyScope, Dev.linkScope_secPoison]
@[simp] theorem Dev.surveyScope_ecc : (s.surveyScope r).ecc = r.ecc := by simp only [Dev.surveyScope, Dev.linkScope_ecc]
@[simp] theorem Dev.surveyScope_tags : (s.surveyScope r).tags = r.tags := by simp only [Dev.surveyScope, Dev.linkScope_tags]
@[simp] theorem Dev.surveyScope_regained : (s.surveyScope r).regained = s.regained := by simp only [Dev.surveyScope, Dev.linkScope_regained]
@[simp] theorem Dev.surveyScope_regions : (s.surveyScope r).regions = r.regions := by simp only [Dev.surveyScope, Dev.linkScope_regions]
@[simp] theorem Dev.surveyScope_memWaits : (s.surveyScope r).memWaits = r.memWaits := by simp only [Dev.surveyScope, Dev.linkScope_memWaits]
@[simp] theorem Dev.surveyScope_reissues : (s.surveyScope r).reissues = r.reissues := by simp only [Dev.surveyScope, Dev.linkScope_reissues]
@[simp] theorem Dev.surveyScope_xlat : (s.surveyScope r).xlat = r.xlat := by simp only [Dev.surveyScope, Dev.linkScope_xlat]
@[simp] theorem Dev.surveyScope_egress : (s.surveyScope r).egress = r.egress := by simp only [Dev.surveyScope, Dev.linkScope_egress]
@[simp] theorem Dev.surveyScope_crossTx : (s.surveyScope r).crossTx = r.crossTx := by simp only [Dev.surveyScope, Dev.linkScope_crossTx]
@[simp] theorem Dev.surveyScope_crossRx : (s.surveyScope r).crossRx = r.crossRx := by simp only [Dev.surveyScope, Dev.linkScope_crossRx]
@[simp] theorem Dev.surveyScope_crossing : (s.surveyScope r).crossing = r.crossing := by simp only [Dev.surveyScope, Dev.linkScope_crossing]
@[simp] theorem Dev.surveyScope_pend : (s.surveyScope r).pend = r.pend := by simp only [Dev.surveyScope, Dev.linkScope_pend]
@[simp] theorem Dev.surveyScope_ports : (s.surveyScope r).ports = r.ports := by simp only [Dev.surveyScope, Dev.linkScope_ports]
@[simp] theorem Dev.surveyScope_seqTx : (s.surveyScope r).seqTx = r.seqTx := by simp only [Dev.surveyScope, Dev.linkScope_seqTx]
@[simp] theorem Dev.surveyScope_seqRx : (s.surveyScope r).seqRx = r.seqRx := by simp only [Dev.surveyScope, Dev.linkScope_seqRx]
@[simp] theorem Dev.surveyScope_epochs : (s.surveyScope r).epochs = r.epochs := by simp only [Dev.surveyScope, Dev.linkScope_epochs]
@[simp] theorem Dev.surveyScope_notices : (s.surveyScope r).notices = r.notices := by simp only [Dev.surveyScope, Dev.linkScope_notices]
@[simp] theorem Dev.surveyScope_rxWrites : (s.surveyScope r).rxWrites = r.rxWrites := by simp only [Dev.surveyScope, Dev.linkScope_rxWrites]
@[simp] theorem Dev.surveyScope_linkState : (s.surveyScope r).linkState = r.linkState := by simp only [Dev.surveyScope, Dev.linkScope_linkState]
@[simp] theorem Dev.surveyScope_linkSent : (s.surveyScope r).linkSent = r.linkSent := by simp only [Dev.surveyScope, Dev.linkScope_linkSent]
@[simp] theorem Dev.surveyScope_gate : (s.surveyScope r).gate = r.gate := by simp only [Dev.surveyScope, Dev.linkScope_gate]
@[simp] theorem Dev.surveyScope_time : (s.surveyScope r).time = r.time := by simp only [Dev.surveyScope, Dev.linkScope_time]
@[simp] theorem Dev.surveyScope_holdings : (s.surveyScope r).holdings = r.holdings := by simp only [Dev.surveyScope, Dev.linkScope_holdings]
@[simp] theorem Dev.surveyScope_queues : (s.surveyScope r).queues = r.queues := by simp only [Dev.surveyScope, Dev.linkScope_queues]
@[simp] theorem Dev.surveyScope_boxes : (s.surveyScope r).boxes = r.boxes := by simp only [Dev.surveyScope, Dev.linkScope_boxes]
@[simp] theorem Dev.surveyScope_gotre : (s.surveyScope r).gotre = r.gotre := by simp only [Dev.surveyScope, Dev.linkScope_gotre]
@[simp] theorem Dev.surveyScope_power : (s.surveyScope r).power = s.power := by simp only [Dev.surveyScope, Dev.linkScope_power]
@[simp] theorem Dev.surveyScope_droop : (s.surveyScope r).droop = s.droop := by simp only [Dev.surveyScope, Dev.linkScope_droop]
@[simp] theorem Dev.surveyScope_saved : (s.surveyScope r).saved = s.saved := by simp only [Dev.surveyScope, Dev.linkScope_saved]
@[simp] theorem Dev.surveyScope_survey : (s.surveyScope r).survey = r.survey := by simp only [Dev.surveyScope, Dev.linkScope_survey]
@[simp] theorem Dev.surveyScope_service : (s.surveyScope r).service = r.service := by simp only [Dev.surveyScope, Dev.linkScope_service]
@[simp] theorem Dev.surveyScope_pins : (s.surveyScope r).pins = s.pins := by simp only [Dev.surveyScope, Dev.linkScope_pins]
@[simp] theorem Dev.surveyScope_serves : (s.surveyScope r).serves = r.serves := by simp only [Dev.surveyScope, Dev.linkScope_serves]
@[simp] theorem Dev.surveyScope_hostReads : (s.surveyScope r).hostReads = r.hostReads := by simp only [Dev.surveyScope, Dev.linkScope_hostReads]
@[simp] theorem Dev.surveyScope_msix : (s.surveyScope r).msix = s.msix := by simp only [Dev.surveyScope, Dev.linkScope_msix]
@[simp] theorem Dev.surveyScope_hostTag : (s.surveyScope r).hostTag = r.hostTag := by simp only [Dev.surveyScope, Dev.linkScope_hostTag]
@[simp] theorem Dev.surveyScope_shadow : (s.surveyScope r).shadow = r.shadow := by simp only [Dev.surveyScope, Dev.linkScope_shadow]
@[simp] theorem Dev.surveyScope_outbox : (s.surveyScope r).outbox = r.outbox := by simp only [Dev.surveyScope, Dev.linkScope_outbox]
@[simp] theorem Dev.surveyScope_free : (s.surveyScope r).free = r.free := by simp only [Dev.surveyScope, Dev.linkScope_free]

/-! ### fenceScope -/

@[simp] theorem Dev.fenceScope_dt : (s.fenceScope r).dt = r.dt := by simp only [Dev.fenceScope, Dev.surveyScope_dt]
@[simp] theorem Dev.fenceScope_regs : (s.fenceScope r).regs = r.regs := by simp only [Dev.fenceScope, Dev.surveyScope_regs]
@[simp] theorem Dev.fenceScope_ctrs : (s.fenceScope r).ctrs = r.ctrs := by simp only [Dev.fenceScope, Dev.surveyScope_ctrs]
@[simp] theorem Dev.fenceScope_ctrHi : (s.fenceScope r).ctrHi = s.ctrHi := by simp only [Dev.fenceScope, Dev.surveyScope_ctrHi]
@[simp] theorem Dev.fenceScope_slots : (s.fenceScope r).slots = r.slots := by simp only [Dev.fenceScope, Dev.surveyScope_slots]
@[simp] theorem Dev.fenceScope_guards : (s.fenceScope r).guards = s.guards := by simp only [Dev.fenceScope, Dev.surveyScope_guards]
@[simp] theorem Dev.fenceScope_dies : (s.fenceScope r).dies = r.dies := by simp only [Dev.fenceScope, Dev.surveyScope_dies]
@[simp] theorem Dev.fenceScope_cores : (s.fenceScope r).cores = r.cores := by simp only [Dev.fenceScope, Dev.surveyScope_cores]
@[simp] theorem Dev.fenceScope_stackTab : (s.fenceScope r).stackTab = r.stackTab := by simp only [Dev.fenceScope]
@[simp] theorem Dev.fenceScope_mem : (s.fenceScope r).mem = r.mem := by simp only [Dev.fenceScope, Dev.surveyScope_mem]
@[simp] theorem Dev.fenceScope_secPoison : (s.fenceScope r).secPoison = r.secPoison := by simp only [Dev.fenceScope, Dev.surveyScope_secPoison]
@[simp] theorem Dev.fenceScope_ecc : (s.fenceScope r).ecc = r.ecc := by simp only [Dev.fenceScope, Dev.surveyScope_ecc]
@[simp] theorem Dev.fenceScope_tags : (s.fenceScope r).tags = r.tags := by simp only [Dev.fenceScope, Dev.surveyScope_tags]
@[simp] theorem Dev.fenceScope_regained : (s.fenceScope r).regained = s.regained := by simp only [Dev.fenceScope, Dev.surveyScope_regained]
@[simp] theorem Dev.fenceScope_regions : (s.fenceScope r).regions = r.regions := by simp only [Dev.fenceScope, Dev.surveyScope_regions]
@[simp] theorem Dev.fenceScope_memWaits : (s.fenceScope r).memWaits = r.memWaits := by simp only [Dev.fenceScope, Dev.surveyScope_memWaits]
@[simp] theorem Dev.fenceScope_reissues : (s.fenceScope r).reissues = r.reissues := by simp only [Dev.fenceScope, Dev.surveyScope_reissues]
@[simp] theorem Dev.fenceScope_xlat : (s.fenceScope r).xlat = r.xlat := by simp only [Dev.fenceScope, Dev.surveyScope_xlat]
@[simp] theorem Dev.fenceScope_egress : (s.fenceScope r).egress = r.egress := by simp only [Dev.fenceScope, Dev.surveyScope_egress]
@[simp] theorem Dev.fenceScope_crossTx : (s.fenceScope r).crossTx = r.crossTx := by simp only [Dev.fenceScope, Dev.surveyScope_crossTx]
@[simp] theorem Dev.fenceScope_crossRx : (s.fenceScope r).crossRx = r.crossRx := by simp only [Dev.fenceScope, Dev.surveyScope_crossRx]
@[simp] theorem Dev.fenceScope_crossing : (s.fenceScope r).crossing = r.crossing := by simp only [Dev.fenceScope, Dev.surveyScope_crossing]
@[simp] theorem Dev.fenceScope_pend : (s.fenceScope r).pend = r.pend := by simp only [Dev.fenceScope, Dev.surveyScope_pend]
@[simp] theorem Dev.fenceScope_ports : (s.fenceScope r).ports = r.ports := by simp only [Dev.fenceScope, Dev.surveyScope_ports]
@[simp] theorem Dev.fenceScope_seqTx : (s.fenceScope r).seqTx = r.seqTx := by simp only [Dev.fenceScope, Dev.surveyScope_seqTx]
@[simp] theorem Dev.fenceScope_seqRx : (s.fenceScope r).seqRx = r.seqRx := by simp only [Dev.fenceScope, Dev.surveyScope_seqRx]
@[simp] theorem Dev.fenceScope_epochs : (s.fenceScope r).epochs = r.epochs := by simp only [Dev.fenceScope, Dev.surveyScope_epochs]
@[simp] theorem Dev.fenceScope_notices : (s.fenceScope r).notices = r.notices := by simp only [Dev.fenceScope, Dev.surveyScope_notices]
@[simp] theorem Dev.fenceScope_rxWrites : (s.fenceScope r).rxWrites = r.rxWrites := by simp only [Dev.fenceScope, Dev.surveyScope_rxWrites]
@[simp] theorem Dev.fenceScope_linkState : (s.fenceScope r).linkState = r.linkState := by simp only [Dev.fenceScope, Dev.surveyScope_linkState]
@[simp] theorem Dev.fenceScope_linkSent : (s.fenceScope r).linkSent = r.linkSent := by simp only [Dev.fenceScope, Dev.surveyScope_linkSent]
@[simp] theorem Dev.fenceScope_gate : (s.fenceScope r).gate = r.gate := by simp only [Dev.fenceScope, Dev.surveyScope_gate]
@[simp] theorem Dev.fenceScope_time : (s.fenceScope r).time = r.time := by simp only [Dev.fenceScope, Dev.surveyScope_time]
@[simp] theorem Dev.fenceScope_holdings : (s.fenceScope r).holdings = r.holdings := by simp only [Dev.fenceScope, Dev.surveyScope_holdings]
@[simp] theorem Dev.fenceScope_queues : (s.fenceScope r).queues = r.queues := by simp only [Dev.fenceScope, Dev.surveyScope_queues]
@[simp] theorem Dev.fenceScope_boxes : (s.fenceScope r).boxes = r.boxes := by simp only [Dev.fenceScope, Dev.surveyScope_boxes]
@[simp] theorem Dev.fenceScope_gotre : (s.fenceScope r).gotre = r.gotre := by simp only [Dev.fenceScope, Dev.surveyScope_gotre]
@[simp] theorem Dev.fenceScope_power : (s.fenceScope r).power = s.power := by simp only [Dev.fenceScope, Dev.surveyScope_power]
@[simp] theorem Dev.fenceScope_droop : (s.fenceScope r).droop = s.droop := by simp only [Dev.fenceScope, Dev.surveyScope_droop]
@[simp] theorem Dev.fenceScope_saved : (s.fenceScope r).saved = s.saved := by simp only [Dev.fenceScope, Dev.surveyScope_saved]
@[simp] theorem Dev.fenceScope_survey : (s.fenceScope r).survey = r.survey := by simp only [Dev.fenceScope, Dev.surveyScope_survey]
@[simp] theorem Dev.fenceScope_service : (s.fenceScope r).service = r.service := by simp only [Dev.fenceScope, Dev.surveyScope_service]
@[simp] theorem Dev.fenceScope_pins : (s.fenceScope r).pins = s.pins := by simp only [Dev.fenceScope, Dev.surveyScope_pins]
@[simp] theorem Dev.fenceScope_serves : (s.fenceScope r).serves = r.serves := by simp only [Dev.fenceScope, Dev.surveyScope_serves]
@[simp] theorem Dev.fenceScope_hostReads : (s.fenceScope r).hostReads = r.hostReads := by simp only [Dev.fenceScope, Dev.surveyScope_hostReads]
@[simp] theorem Dev.fenceScope_msix : (s.fenceScope r).msix = s.msix := by simp only [Dev.fenceScope, Dev.surveyScope_msix]
@[simp] theorem Dev.fenceScope_hostTag : (s.fenceScope r).hostTag = r.hostTag := by simp only [Dev.fenceScope, Dev.surveyScope_hostTag]
@[simp] theorem Dev.fenceScope_shadow : (s.fenceScope r).shadow = r.shadow := by simp only [Dev.fenceScope, Dev.surveyScope_shadow]
@[simp] theorem Dev.fenceScope_outbox : (s.fenceScope r).outbox = r.outbox := by simp only [Dev.fenceScope, Dev.surveyScope_outbox]
@[simp] theorem Dev.fenceScope_free : (s.fenceScope r).free = r.free := by simp only [Dev.fenceScope, Dev.surveyScope_free]

/-! ### maintScope -/

@[simp] theorem Dev.maintScope_dt : (s.maintScope r).dt = r.dt := by simp only [Dev.maintScope, Dev.fenceScope_dt]
@[simp] theorem Dev.maintScope_regs : (s.maintScope r).regs = r.regs := by simp only [Dev.maintScope, Dev.fenceScope_regs]
@[simp] theorem Dev.maintScope_ctrs : (s.maintScope r).ctrs = r.ctrs := by simp only [Dev.maintScope, Dev.fenceScope_ctrs]
@[simp] theorem Dev.maintScope_ctrHi : (s.maintScope r).ctrHi = r.ctrHi := by simp only [Dev.maintScope]
@[simp] theorem Dev.maintScope_slots : (s.maintScope r).slots = r.slots := by simp only [Dev.maintScope, Dev.fenceScope_slots]
@[simp] theorem Dev.maintScope_guards : (s.maintScope r).guards = r.guards := by simp only [Dev.maintScope]
@[simp] theorem Dev.maintScope_dies : (s.maintScope r).dies = r.dies := by simp only [Dev.maintScope, Dev.fenceScope_dies]
@[simp] theorem Dev.maintScope_cores : (s.maintScope r).cores = r.cores := by simp only [Dev.maintScope, Dev.fenceScope_cores]
@[simp] theorem Dev.maintScope_stackTab : (s.maintScope r).stackTab = r.stackTab := by simp only [Dev.maintScope, Dev.fenceScope_stackTab]
@[simp] theorem Dev.maintScope_mem : (s.maintScope r).mem = r.mem := by simp only [Dev.maintScope, Dev.fenceScope_mem]
@[simp] theorem Dev.maintScope_secPoison : (s.maintScope r).secPoison = r.secPoison := by simp only [Dev.maintScope, Dev.fenceScope_secPoison]
@[simp] theorem Dev.maintScope_ecc : (s.maintScope r).ecc = r.ecc := by simp only [Dev.maintScope, Dev.fenceScope_ecc]
@[simp] theorem Dev.maintScope_tags : (s.maintScope r).tags = r.tags := by simp only [Dev.maintScope, Dev.fenceScope_tags]
@[simp] theorem Dev.maintScope_regained : (s.maintScope r).regained = s.regained := by simp only [Dev.maintScope, Dev.fenceScope_regained]
@[simp] theorem Dev.maintScope_regions : (s.maintScope r).regions = r.regions := by simp only [Dev.maintScope, Dev.fenceScope_regions]
@[simp] theorem Dev.maintScope_memWaits : (s.maintScope r).memWaits = r.memWaits := by simp only [Dev.maintScope, Dev.fenceScope_memWaits]
@[simp] theorem Dev.maintScope_reissues : (s.maintScope r).reissues = r.reissues := by simp only [Dev.maintScope, Dev.fenceScope_reissues]
@[simp] theorem Dev.maintScope_xlat : (s.maintScope r).xlat = r.xlat := by simp only [Dev.maintScope, Dev.fenceScope_xlat]
@[simp] theorem Dev.maintScope_egress : (s.maintScope r).egress = r.egress := by simp only [Dev.maintScope, Dev.fenceScope_egress]
@[simp] theorem Dev.maintScope_crossTx : (s.maintScope r).crossTx = r.crossTx := by simp only [Dev.maintScope, Dev.fenceScope_crossTx]
@[simp] theorem Dev.maintScope_crossRx : (s.maintScope r).crossRx = r.crossRx := by simp only [Dev.maintScope, Dev.fenceScope_crossRx]
@[simp] theorem Dev.maintScope_crossing : (s.maintScope r).crossing = r.crossing := by simp only [Dev.maintScope, Dev.fenceScope_crossing]
@[simp] theorem Dev.maintScope_pend : (s.maintScope r).pend = r.pend := by simp only [Dev.maintScope, Dev.fenceScope_pend]
@[simp] theorem Dev.maintScope_ports : (s.maintScope r).ports = r.ports := by simp only [Dev.maintScope, Dev.fenceScope_ports]
@[simp] theorem Dev.maintScope_seqTx : (s.maintScope r).seqTx = r.seqTx := by simp only [Dev.maintScope, Dev.fenceScope_seqTx]
@[simp] theorem Dev.maintScope_seqRx : (s.maintScope r).seqRx = r.seqRx := by simp only [Dev.maintScope, Dev.fenceScope_seqRx]
@[simp] theorem Dev.maintScope_epochs : (s.maintScope r).epochs = r.epochs := by simp only [Dev.maintScope, Dev.fenceScope_epochs]
@[simp] theorem Dev.maintScope_notices : (s.maintScope r).notices = r.notices := by simp only [Dev.maintScope, Dev.fenceScope_notices]
@[simp] theorem Dev.maintScope_rxWrites : (s.maintScope r).rxWrites = r.rxWrites := by simp only [Dev.maintScope, Dev.fenceScope_rxWrites]
@[simp] theorem Dev.maintScope_linkState : (s.maintScope r).linkState = r.linkState := by simp only [Dev.maintScope, Dev.fenceScope_linkState]
@[simp] theorem Dev.maintScope_linkSent : (s.maintScope r).linkSent = r.linkSent := by simp only [Dev.maintScope, Dev.fenceScope_linkSent]
@[simp] theorem Dev.maintScope_gate : (s.maintScope r).gate = r.gate := by simp only [Dev.maintScope, Dev.fenceScope_gate]
@[simp] theorem Dev.maintScope_time : (s.maintScope r).time = r.time := by simp only [Dev.maintScope, Dev.fenceScope_time]
@[simp] theorem Dev.maintScope_holdings : (s.maintScope r).holdings = r.holdings := by simp only [Dev.maintScope, Dev.fenceScope_holdings]
@[simp] theorem Dev.maintScope_queues : (s.maintScope r).queues = r.queues := by simp only [Dev.maintScope, Dev.fenceScope_queues]
@[simp] theorem Dev.maintScope_boxes : (s.maintScope r).boxes = r.boxes := by simp only [Dev.maintScope, Dev.fenceScope_boxes]
@[simp] theorem Dev.maintScope_gotre : (s.maintScope r).gotre = r.gotre := by simp only [Dev.maintScope, Dev.fenceScope_gotre]
@[simp] theorem Dev.maintScope_power : (s.maintScope r).power = s.power := by simp only [Dev.maintScope, Dev.fenceScope_power]
@[simp] theorem Dev.maintScope_droop : (s.maintScope r).droop = s.droop := by simp only [Dev.maintScope, Dev.fenceScope_droop]
@[simp] theorem Dev.maintScope_saved : (s.maintScope r).saved = s.saved := by simp only [Dev.maintScope, Dev.fenceScope_saved]
@[simp] theorem Dev.maintScope_survey : (s.maintScope r).survey = r.survey := by simp only [Dev.maintScope, Dev.fenceScope_survey]
@[simp] theorem Dev.maintScope_service : (s.maintScope r).service = r.service := by simp only [Dev.maintScope, Dev.fenceScope_service]
@[simp] theorem Dev.maintScope_pins : (s.maintScope r).pins = s.pins := by simp only [Dev.maintScope, Dev.fenceScope_pins]
@[simp] theorem Dev.maintScope_serves : (s.maintScope r).serves = r.serves := by simp only [Dev.maintScope, Dev.fenceScope_serves]
@[simp] theorem Dev.maintScope_hostReads : (s.maintScope r).hostReads = r.hostReads := by simp only [Dev.maintScope, Dev.fenceScope_hostReads]
@[simp] theorem Dev.maintScope_msix : (s.maintScope r).msix = s.msix := by simp only [Dev.maintScope, Dev.fenceScope_msix]
@[simp] theorem Dev.maintScope_hostTag : (s.maintScope r).hostTag = r.hostTag := by simp only [Dev.maintScope, Dev.fenceScope_hostTag]
@[simp] theorem Dev.maintScope_shadow : (s.maintScope r).shadow = r.shadow := by simp only [Dev.maintScope, Dev.fenceScope_shadow]
@[simp] theorem Dev.maintScope_outbox : (s.maintScope r).outbox = r.outbox := by simp only [Dev.maintScope, Dev.fenceScope_outbox]
@[simp] theorem Dev.maintScope_free : (s.maintScope r).free = r.free := by simp only [Dev.maintScope, Dev.fenceScope_free]

/-! ### imageScope -/

@[simp] theorem Dev.imageScope_dt : (s.imageScope r).dt = r.dt := by simp only [Dev.imageScope, Dev.maintScope_dt]
@[simp] theorem Dev.imageScope_regs : (s.imageScope r).regs = r.regs := by simp only [Dev.imageScope, Dev.maintScope_regs]
@[simp] theorem Dev.imageScope_ctrs : (s.imageScope r).ctrs = r.ctrs := by simp only [Dev.imageScope, Dev.maintScope_ctrs]
@[simp] theorem Dev.imageScope_ctrHi : (s.imageScope r).ctrHi = r.ctrHi := by simp only [Dev.imageScope, Dev.maintScope_ctrHi]
@[simp] theorem Dev.imageScope_slots : (s.imageScope r).slots = r.slots := by simp only [Dev.imageScope, Dev.maintScope_slots]
@[simp] theorem Dev.imageScope_guards : (s.imageScope r).guards = r.guards := by simp only [Dev.imageScope, Dev.maintScope_guards]
@[simp] theorem Dev.imageScope_dies : (s.imageScope r).dies = r.dies := by simp only [Dev.imageScope, Dev.maintScope_dies]
@[simp] theorem Dev.imageScope_cores : (s.imageScope r).cores = r.cores := by simp only [Dev.imageScope, Dev.maintScope_cores]
@[simp] theorem Dev.imageScope_stackTab : (s.imageScope r).stackTab = r.stackTab := by simp only [Dev.imageScope, Dev.maintScope_stackTab]
@[simp] theorem Dev.imageScope_mem : (s.imageScope r).mem = r.mem := by simp only [Dev.imageScope, Dev.maintScope_mem]
@[simp] theorem Dev.imageScope_secPoison : (s.imageScope r).secPoison = r.secPoison := by simp only [Dev.imageScope, Dev.maintScope_secPoison]
@[simp] theorem Dev.imageScope_ecc : (s.imageScope r).ecc = r.ecc := by simp only [Dev.imageScope, Dev.maintScope_ecc]
@[simp] theorem Dev.imageScope_tags : (s.imageScope r).tags = r.tags := by simp only [Dev.imageScope, Dev.maintScope_tags]
@[simp] theorem Dev.imageScope_regained : (s.imageScope r).regained = s.regained := by simp only [Dev.imageScope, Dev.maintScope_regained]
@[simp] theorem Dev.imageScope_regions : (s.imageScope r).regions = r.regions := by simp only [Dev.imageScope, Dev.maintScope_regions]
@[simp] theorem Dev.imageScope_memWaits : (s.imageScope r).memWaits = r.memWaits := by simp only [Dev.imageScope, Dev.maintScope_memWaits]
@[simp] theorem Dev.imageScope_reissues : (s.imageScope r).reissues = r.reissues := by simp only [Dev.imageScope, Dev.maintScope_reissues]
@[simp] theorem Dev.imageScope_xlat : (s.imageScope r).xlat = r.xlat := by simp only [Dev.imageScope, Dev.maintScope_xlat]
@[simp] theorem Dev.imageScope_egress : (s.imageScope r).egress = r.egress := by simp only [Dev.imageScope, Dev.maintScope_egress]
@[simp] theorem Dev.imageScope_crossTx : (s.imageScope r).crossTx = r.crossTx := by simp only [Dev.imageScope, Dev.maintScope_crossTx]
@[simp] theorem Dev.imageScope_crossRx : (s.imageScope r).crossRx = r.crossRx := by simp only [Dev.imageScope, Dev.maintScope_crossRx]
@[simp] theorem Dev.imageScope_crossing : (s.imageScope r).crossing = r.crossing := by simp only [Dev.imageScope, Dev.maintScope_crossing]
@[simp] theorem Dev.imageScope_pend : (s.imageScope r).pend = r.pend := by simp only [Dev.imageScope, Dev.maintScope_pend]
@[simp] theorem Dev.imageScope_ports : (s.imageScope r).ports = r.ports := by simp only [Dev.imageScope, Dev.maintScope_ports]
@[simp] theorem Dev.imageScope_seqTx : (s.imageScope r).seqTx = r.seqTx := by simp only [Dev.imageScope, Dev.maintScope_seqTx]
@[simp] theorem Dev.imageScope_seqRx : (s.imageScope r).seqRx = r.seqRx := by simp only [Dev.imageScope, Dev.maintScope_seqRx]
@[simp] theorem Dev.imageScope_epochs : (s.imageScope r).epochs = r.epochs := by simp only [Dev.imageScope, Dev.maintScope_epochs]
@[simp] theorem Dev.imageScope_notices : (s.imageScope r).notices = r.notices := by simp only [Dev.imageScope, Dev.maintScope_notices]
@[simp] theorem Dev.imageScope_rxWrites : (s.imageScope r).rxWrites = r.rxWrites := by simp only [Dev.imageScope, Dev.maintScope_rxWrites]
@[simp] theorem Dev.imageScope_linkState : (s.imageScope r).linkState = r.linkState := by simp only [Dev.imageScope, Dev.maintScope_linkState]
@[simp] theorem Dev.imageScope_linkSent : (s.imageScope r).linkSent = r.linkSent := by simp only [Dev.imageScope, Dev.maintScope_linkSent]
@[simp] theorem Dev.imageScope_gate : (s.imageScope r).gate = r.gate := by simp only [Dev.imageScope, Dev.maintScope_gate]
@[simp] theorem Dev.imageScope_time : (s.imageScope r).time = r.time := by simp only [Dev.imageScope, Dev.maintScope_time]
@[simp] theorem Dev.imageScope_holdings : (s.imageScope r).holdings = r.holdings := by simp only [Dev.imageScope, Dev.maintScope_holdings]
@[simp] theorem Dev.imageScope_queues : (s.imageScope r).queues = r.queues := by simp only [Dev.imageScope, Dev.maintScope_queues]
@[simp] theorem Dev.imageScope_boxes : (s.imageScope r).boxes = r.boxes := by simp only [Dev.imageScope, Dev.maintScope_boxes]
@[simp] theorem Dev.imageScope_gotre : (s.imageScope r).gotre = r.gotre := by simp only [Dev.imageScope, Dev.maintScope_gotre]
@[simp] theorem Dev.imageScope_power : (s.imageScope r).power = s.power := by simp only [Dev.imageScope, Dev.maintScope_power]
@[simp] theorem Dev.imageScope_droop : (s.imageScope r).droop = s.droop := by simp only [Dev.imageScope, Dev.maintScope_droop]
@[simp] theorem Dev.imageScope_saved : (s.imageScope r).saved = s.saved := by simp only [Dev.imageScope, Dev.maintScope_saved]
@[simp] theorem Dev.imageScope_survey : (s.imageScope r).survey = r.survey := by simp only [Dev.imageScope, Dev.maintScope_survey]
@[simp] theorem Dev.imageScope_service : (s.imageScope r).service = r.service := by simp only [Dev.imageScope, Dev.maintScope_service]
@[simp] theorem Dev.imageScope_pins : (s.imageScope r).pins = r.pins := by simp only [Dev.imageScope]
@[simp] theorem Dev.imageScope_serves : (s.imageScope r).serves = r.serves := by simp only [Dev.imageScope, Dev.maintScope_serves]
@[simp] theorem Dev.imageScope_hostReads : (s.imageScope r).hostReads = r.hostReads := by simp only [Dev.imageScope, Dev.maintScope_hostReads]
@[simp] theorem Dev.imageScope_msix : (s.imageScope r).msix = s.msix := by simp only [Dev.imageScope, Dev.maintScope_msix]
@[simp] theorem Dev.imageScope_hostTag : (s.imageScope r).hostTag = r.hostTag := by simp only [Dev.imageScope, Dev.maintScope_hostTag]
@[simp] theorem Dev.imageScope_shadow : (s.imageScope r).shadow = r.shadow := by simp only [Dev.imageScope, Dev.maintScope_shadow]
@[simp] theorem Dev.imageScope_outbox : (s.imageScope r).outbox = r.outbox := by simp only [Dev.imageScope, Dev.maintScope_outbox]
@[simp] theorem Dev.imageScope_free : (s.imageScope r).free = r.free := by simp only [Dev.imageScope, Dev.maintScope_free]

end Sys2Proof.Machine
end

