-- ==== Sys2Proof/Laws/Translate.lean ====
section
/-! SUPPORT. What the shared operations of translation and of the crossings between the halves change: the caches and the
free values, and the crossing numbers, alone. -/

namespace Sys2Proof.Machine

open Sys2Proof

/-- An entry goes into a cache: the caches change, and a full cache draws the free value that names its victim. -/
theorem Dev.cacheLeaf_frame (s : Dev) (n : CacheName) (h : HoldId) (level va : Nat) (e : Word64) :
    ∃ x k, s.cacheLeaf n h level va e = { s with xlat := x, free := k } := by
  unfold Dev.cacheLeaf
  split
  · exact ⟨_, _, rfl⟩
  · dsimp only
    split <;> exact ⟨_, _, rfl⟩

/-- An entry that a cache holds stands. -/
theorem Dev.cacheLeaf_held (s : Dev) (n : CacheName) (h : HoldId) (level va : Nat) (e : Word64)
    (held : (s.cached n h level va).isSome = true) : s.cacheLeaf n h level va e = s := by
  simp [Dev.cacheLeaf, held]

/-- No cache holds an entry of a holding whose entries were dropped. -/
theorem Dev.dropCached_cached (s : Dev) (n : CacheName) (h : HoldId) (level va : Nat) :
    (s.dropCached h).cached n h level va = none := by
  simp only [Dev.cached, Dev.dropCached, Option.map_eq_none_iff, List.find?_eq_none, List.mem_filter, and_imp]
  intro q _ hq
  simp_all

theorem Dev.cacheCore_frame (s : Dev) (a : Agent) (va level : Nat) (e : Word64) :
    ∃ x k, s.cacheCore a va level e = { s with xlat := x, free := k } := by
  unfold Dev.cacheCore
  split
  · exact s.cacheLeaf_frame ..
  · exact ⟨_, _, rfl⟩

/-- An entry that a core's cache holds answers without any effect. -/
theorem Dev.xlate_held (s : Dev) (a : Agent) (va : Nat) (write : Bool) (c : CoreId) (l : Nat) (e : Word64)
    (low : va < 0x10000000000000) (mine : a.core = some c) (held : s.cachedLeaf (.core c) a.holding va = some (l, e)) :
    s.xlate a va write = (leafXlate l e va write, s) := by
  unfold Dev.xlate
  rw [if_neg (by omega), mine]
  simp [held]

/-- A request that stays in its half takes no crossing number. -/
theorem Dev.cross_near (s : Dev) (requester here goal : Nat) (same : halvesDiffer here goal = false) :
    s.cross requester here goal = s := by
  simp [Dev.cross, same]

theorem Dev.cross_frame (s : Dev) (requester here goal : Nat) :
    ∃ x y, s.cross requester here goal = { s with crossTx := x, crossRx := y } := by
  unfold Dev.cross
  split <;> exact ⟨_, _, rfl⟩

/-- A copy of a kept request changes the highest served number alone, and one that has been served changes nothing. -/
theorem Dev.crossAgain_frame (s : Dev) (q : Crossing) : ∃ y, s.crossAgain q = { s with crossRx := y } := by
  unfold Dev.crossAgain
  simp only
  split <;> exact ⟨_, rfl⟩

theorem Dev.resendCrossing_frame (s : Dev) : ∃ y, s.resendCrossing = { s with crossRx := y } := by
  suffices h : ∀ (l : List Crossing) (d : Dev), ∃ y, l.foldl Dev.crossAgain d = { d with crossRx := y } from h s.crossing s
  intro l
  induction l with
  | nil => exact fun d => ⟨d.crossRx, rfl⟩
  | cons q l ih =>
    intro d
    obtain ⟨y, hy⟩ := d.crossAgain_frame q
    rw [List.foldl_cons, hy]
    obtain ⟨z, hz⟩ := ih { d with crossRx := y }
    exact ⟨z, hz⟩

end Sys2Proof.Machine
end

