-- ==== Sys2Proof/WellFormed.lean ====
section
/-! DEFINITION. What a command must look like to be one: the sizes that the interfaces themselves fix. A command
that is not well formed cannot reach the module; exec is total on it all the same. -/

namespace Sys2Proof

/-- A flit carries 224 payload bytes (R302). -/
def Flit.wellFormed (f : Flit) : Bool := f.payload.length == 224

/-- A host request of BAR4 carries 1 to 4,096 bytes and does not cross a 4,096-byte boundary (R551). -/
def wellFormedSpan (offset length : Nat) : Bool :=
  decide (0 < length) && decide (offset % 4096 + length ≤ 4096)

/-- The checks of a command. -/
def Instr.wellFormed : Instr → Bool
  | .linkFlitReceive _ f _ _ => f.wellFormed
  | .endToEndDelivery _ f => f.wellFormed
  | .write _ f => f.wellFormed
  | .hostBar4Read _ offset length => wellFormedSpan offset.toNat length
  | .hostBar4Write _ offset data => wellFormedSpan offset.toNat data.length
  | .memWrite address _ _ _ data _ _ => wellFormedSpan address data.length
  | .clearance _ sectors _ _ _ => !sectors.isEmpty && sectors.all fun x => decide (x < 0x16000000000)
  | .reply _ _ _ _ _ sexp => sexp.length == 224
  | .scale _ _ _ _ bytes => bytes.length == 224
  | .gatherFlit _ _ _ _ _ skip bytes => decide (skip + bytes.length ≤ 224)
  | .rcRead _ _ offset => offset.toNat % 4 == 0
  | .tokenRow _ _ m => !m.row.isEmpty
  | .answer _ _ m => !m.row.isEmpty
  | _ => true

end Sys2Proof
end

