-- ==== Sys2Proof/Tests/Slice0.lean ====
section
/-! SUPPORT. Tests of the model: an ill-formed term for each check of WellFormed, worked values from the spec, and for
each statement of Certificates/Slice0 states and operands that meet the hypotheses of its clauses together. -/

namespace Sys2Proof.Tests

open Sys2Proof Sys2Proof.Machine

set_option Elab.async false

/-! ### States that the tests share -/

/-- The module in service: Gotre is up and nothing is open. -/
def up : Dev := { gotre := { up := true, deviceState := .ready } }

/-- A state whose device is given, with no command waiting. -/
def st (d : Dev) : State := { pending := [], dev := d }

/-- A stage that stream 0 of core 0 carries, over the whole core. -/
def stage0 : Stage :=
  { dfn := { stage := 1, queue := 0, core := 0, succ := [], osFirst := 0, osLines := 131072, accFirst := 0, accCount := 16
             vregFirst := 0, vregCount := 128, lregMask := 0xFFFE, gradFirst := 0, gradCount := 4, gradHome := 0, logVa := 0 }
    runsOn := some 0, inherited := false, next := 0, lastRest := 0, restSlots := [], replayEnd := 0, atStep := false
    slots := [], takeLog := [], lenLog := [] }

/-- The near frame of the tests, in the first region that Gotre does not keep, and the device address it begins at. -/
def frame0 : Nat := 262144
def pa0 : Nat := frame0 * 4096

/-- An enabled holding of cores 0 and 1, whose page tables begin at block 0. -/
def hold0 : Holding :=
  { state := .enabled, cores := [0, 1], stages := [stage0], root := some 0, tables := [(0, 16), (16, 1), (17, 1), (18, 1)] }

/-- Bytes of the leaf of a virtual page, and the entries of the tables: those of levels 3 to 1 lead to blocks 16 to 18,
and the first leaf maps page 0. -/
def leafCells (page : Nat) (leaf : Word64) : List Host.Cell :=
  ((List.range 8).map fun i => (73728 + 8 * page + i, leaf.extractLsb' (8 * i) 8)).filter fun p => p.2 != 0
def tables0 (leaf : Word64) : List Host.Cell :=
  [(0, 0x10), (7, 0x80), (65536, 0x11), (65543, 0x80), (69632, 0x12), (69639, 0x80)] ++ leafCells 0 leaf
def leaf0 : Word64 := pteOf 0 true true false frame0

/-- A tag of holding 0 on written memory. -/
def tag0 : Tag := { owner := .holding 0, epoch := 1, zero := false }

/-- The tags of the blocks that the tables stand in. -/
def tableTags : Tab (Option Tag) := [0, 16, 17, 18].map fun b => (b, some { owner := .device, zero := false })

/-- The module with that holding, and frame0 owned by it. -/
def held : Dev :=
  { up with holdings := [(0, hold0)], tags := tableTags ++ [(frame0, some tag0)], mem := tables0 leaf0 }

/-- A descriptor of a class and an operation with every other field 0. -/
def desc (cls op : Nat) : Word512 := BitVec.ofNat 512 (cls + 256 * op)

/-- A window entry of stream 0 at ring index 0. -/
def entry (d : Word512) (p : Phase) : WEntry :=
  { index := 0, stream := 0, desc := d, phase := p, lens := [], tile := none, replay := false, startTime := 0
    pfRows := 0, pfLines := 0, pfPredicted := none, mark := 0 }

/-- The holding's module with one entry in the window of core 0. -/
def held1 (e : WEntry) : Dev := { held with cores := [(0, { window := [e] })] }

/-- A run that answers, ends, waits for no read and asks for nothing. -/
def ends (o : Option (Run × Bool)) : Bool :=
  match o with
  | some (r, true) => !r.wait && r.need.isEmpty
  | _ => false

theorem runEnds_of {o : Option (Run × Bool)} (h : ends o = true) : runEnds o := by
  unfold ends at h
  split at h
  · next r =>
    simp only [Bool.and_eq_true, Bool.not_eq_true', List.isEmpty_iff] at h
    exact ⟨r, rfl, h.1, h.2⟩
  · cases h

/-- The holding's module with a started descriptor on core 0. -/
def started (d : Word512) : Dev := held1 (entry d .started)

/-! ### The machine and the sequencer -/

/-- A command waits in front of another. -/
def two : State := { pending := [.timeExchange, .trst], dev := up }

theorem test_step_takes_the_front : (match step two with | .next t => decide (t.pending = [Instr.trst]) | _ => false) = true := by
  decide +kernel

/-- An address in the hole between the tiers, and one beyond the far tier. -/
theorem test_occasion_absent_addresses :
    ((0x18000000000 ≤ 0x18000000000 ∧ 0x18000000000 < 0x20000000000) ∨ 0x2C000000000 ≤ 0x18000000000)
    ∧ ((0x18000000000 ≤ 0x2C000000000 ∧ 0x2C000000000 < 0x20000000000) ∨ 0x2C000000000 ≤ 0x2C000000000)
    ∧ 0x18000000000 / 32 * 32 = 0x18000000000 ∧ 0x18000000000 / 4096 * 4096 = 0x18000000000 := by decide

theorem test_occasion_limiter_legal :
    up.limiterLegal ∧ step { pending := [.trst], dev := up } = .next (st { up with pins := { up.pins with jtag := 0 } }) :=
  ⟨by unfold Dev.limiterLegal; simp [up], rfl⟩

/-- A finite encoding at the top of a range, and an infinity. -/
theorem test_occasion_conversion :
    0x7F7FFFFF < 2 ^ fmtBits .fp32 ∧ (decode .fp32 0x7F7FFFFF).isFinite = true
    ∧ 0x7C00 < 2 ^ fmtBits .fp16 ∧ fmtWide .fp16 = true ∧ (decode .fp16 0x7C00).isInf = true := by decide +kernel

/-- One descriptor waits in queue 0, whose ring lies at address 0: 64 bytes of a class and an operation. -/
def ringed (cls op : Byte) : Dev :=
  { held with
    queues := [(0, { state := .bound, holding := some 0, log2 := 6, accepted := 1 })]
    mem := tables0 leaf0 ++ (if cls = 0 then [] else [(pa0, cls)]) ++ if op = 0 then [] else [(pa0 + 1, op)] }
def skipping : Dev := ringed 7 2 |>.modQueue 0 fun q => { q with skip := some 0 }

theorem test_occasion_descriptor_skipped :
    skipping.holdingOfCore 0 = some 0 ∧ (skipping.holding 0).stageOf 0 0 = some stage0 ∧ skipping.coreRuns 0 = true
    ∧ (skipping.queue 0).state = .bound ∧ (skipping.holding 0).state = .enabled ∧ (skipping.core 0).window.length < 16
    ∧ seqLt 0 (skipping.queue 0).accepted = true ∧ (skipping.queue 0).skip = some 0 := by decide +kernel

theorem test_occasion_descriptor_enters :
    (ringed 7 2).holdingOfCore 0 = some 0 ∧ ((ringed 7 2).holding 0).stageOf 0 0 = some stage0 ∧ (ringed 7 2).coreRuns 0 = true
    ∧ ((ringed 7 2).queue 0).state = .bound ∧ ((ringed 7 2).holding 0).state = .enabled
    ∧ ((ringed 7 2).core 0).window.length < 16 ∧ seqLt 0 ((ringed 7 2).queue 0).accepted = true
    ∧ ((ringed 7 2).queue 0).skip ≠ some 0 ∧ stage0.skipped.contains 0 = false
    ∧ ((ringed 7 2).readSlot 0 0 0 0 0).1 = .words (desc 7 2)
    ∧ ((ringed 7 2).readSlot 0 0 0 0 0).2.refusal 0 hold0 0 stage0.dfn (desc 7 2) = none ∧ seqLt 0 0 = false := by
  decide +kernel

theorem test_occasion_descriptor_refused :
    (ringed 9 0).holdingOfCore 0 = some 0 ∧ ((ringed 9 0).holding 0).stageOf 0 0 = some stage0 ∧ (ringed 9 0).coreRuns 0 = true
    ∧ ((ringed 9 0).queue 0).state = .bound ∧ ((ringed 9 0).holding 0).state = .enabled
    ∧ ((ringed 9 0).core 0).window.length < 16 ∧ seqLt 0 ((ringed 9 0).queue 0).accepted = true
    ∧ ((ringed 9 0).queue 0).skip ≠ some 0 ∧ stage0.skipped.contains 0 = false
    ∧ ((ringed 9 0).readSlot 0 0 0 0 0).1 = .words (desc 9 0)
    ∧ ((ringed 9 0).readSlot 0 0 0 0 0).2.refusal 0 hold0 0 stage0.dfn (desc 9 0) = some .badParameter := by decide +kernel

/-- A class-5 ROUTE enters while the table of live tags has room. -/
theorem test_occasion_route_enters :
    classOf (desc 5 0) = 5 ∧ opcodeOf (desc 5 0) = 0 ∧ ((ringed 5 0).holding 0).tagsFull = false := by decide +kernel

/-- A MEMFENCE that may start, and one that has completed. -/
theorem test_occasion_descriptor_starts :
    let s := held1 (entry (desc 7 2) .accepted)
    (s.core 0).window[0]? = some (entry (desc 7 2) .accepted) ∧ s.holdingOfCore 0 = some 0 ∧ s.coreRuns 0 = true
    ∧ s.mayStart 0 (s.holding 0) (entry (desc 7 2) .accepted) 0 = true := by decide +kernel

theorem test_occasion_descriptor_recorded :
    let e := entry (desc 7 2) .completed
    let s := held1 e
    ((s.core 0).window.find? fun w => w.stream == 0) = some e ∧ s.holdingOfCore 0 = some 0
    ∧ (s.holding 0).stageOf 0 0 = some stage0 ∧ s.coreRuns 0 = true ∧ s.settled 0 e = true
    ∧ (s.core 0).suspends e = false ∧ (s.core 0).chainOpen e = false
    ∧ (isFence e [5, 6] && s.writesHeld 0) = false ∧ (s.core 0).recordSpan e = [e]
    ∧ ∀ i ∈ s.egress, i.held = true → ¬ (i.agent = (0 : CoreId).val ∧ i.stream = e.stream ∧ i.index = e.index) := by
  decide +kernel

/-- A batch of two FILLs of nothing, first and last, each at a phase. -/
def member (p : Phase) (i batch : Nat) : WEntry :=
  { entry (BitVec.ofNat 512 (4 + 256 + batch * 65536)) p with index := BitVec.ofNat 32 i }
def pairOf (p q : Phase) : Dev := { held with cores := [(0, { window := [member p 0 1, member q 1 3] })] }

/-- A batch whose members have all completed, and one whose last has not. -/
theorem test_occasion_batch_recorded :
    ∀ q ∈ [Phase.completed, .started],
      let s := pairOf .completed q
      let e := member .completed 0 1
      ((s.core 0).window.find? fun w => w.stream == 0) = some e ∧ s.holdingOfCore 0 = some 0 ∧ s.coreRuns 0 = true
      ∧ (s.core 0).recordSpan e = [e, member q 1 3]
      ∧ decide (∀ m ∈ (s.core 0).recordSpan e, s.recordable 0 0 m = true) = (q == .completed) := by decide +kernel

/-! ### The units of a core -/

theorem test_occasion_vector :
    ∀ op ∈ [0, 1, 2, 3, 4, 5, 6, 7, 0x10, 0x11, 0x12, 0x13, 0x20, 0x21, 0x22, 0x23, 0x31, 0x30, 0x40, 0x41],
      (started (desc 2 op)).unitReady 0 2 [op] (entry (desc 2 op) .started) 0 ∧ (entry (desc 2 op) .started).replay = false := by
  decide +kernel

theorem test_occasion_product :
    (started (desc 1 0)).unitReady 0 1 [0] (entry (desc 1 0) .started) 0
    ∧ (started (desc 1 1)).unitReady 0 1 [1] (entry (desc 1 1) .started) 0 := by decide +kernel

/-- A vector descriptor's fields over one element, for an operation. -/
def vec1 (op : Nat) : Vec := { vecOf 0 with opcode := op, rows := 1, cols := 1 }

theorem test_occasion_elements :
    ∀ op ∈ [0, 1, 2, 3, 4, 5, 6, 7], 0 < (1 : Nat) ∧ (vec1 op).emu = false ∧ (vec1 op).opcode = op := by decide +kernel

theorem test_occasion_function :
    (Val.fin false 3 (-1)).isFinite = true ∧ (convert .fp32 (.fin false 3 (-1))).sat = false ∧ 1 ≤ 2 := by decide +kernel

/-- What a Windrow operation runs. -/
def wdrRun (op : Nat) : Wdr → CoreId → Agent → WEntry → Nat → WRun → WRun :=
  match op with
  | 0 => runGather
  | 1 => runScatter
  | 2 => runSegReduce
  | 3 => runSpmm
  | _ => runMerge

theorem test_occasion_windrow :
    ∀ op ∈ [0, 1, 2, 3, 4], (started (desc 3 op)).unitReady 0 3 [op] (entry (desc 3 op) .started) 0
      ∧ ends ((wdrBody (wdrRun op) 0 (((started (desc 3 op)).core 0).agent 0 0 (entry (desc 3 op) .started))
          (entry (desc 3 op) .started) { dev := started (desc 3 op) }).map fun r => (r, true)) = true := by decide +kernel

/-- A copy descriptor of an operation: one row of one line, from address 0 to line 0. -/
def cpy1 (op : Nat) : Word512 := BitVec.ofNat 512 (8 + 256 * op + 2 ^ 66 + 2 ^ 90)

/-- The bodies of the copy path and the transform path, with their class and operation. -/
def cpyBody (op : Nat) (a : Agent) (e : WEntry) (r : Run) : Option (Run × Bool) :=
  match op with
  | 0 | 1 => loadBody 0 a e r
  | 2 => (storeBody 0 a e r).map fun q => (q, true)
  | 3 => (recvBody false 0 a e r).map fun q => (q, true)
  | _ => (recvBody true 0 a e r).map fun q => (q, true)

theorem test_occasion_copies :
    (∀ op ∈ [0, 1, 2, 3, 4], (started (cpy1 op)).unitReady 0 8 [op] (entry (cpy1 op) .started) 0
      ∧ ends (cpyBody op (((started (cpy1 op)).core 0).agent 0 0 (entry (cpy1 op) .started)) (entry (cpy1 op) .started)
          { dev := started (cpy1 op) }) = true)
    ∧ (∀ op ∈ [0, 1], (started (desc 4 op)).unitReady 0 4 [op] (entry (desc 4 op) .started) 0
      ∧ ends (singleBody 0 (((started (desc 4 op)).core 0).agent 0 0 (entry (desc 4 op) .started)) (entry (desc 4 op) .started)
          { dev := started (desc 4 op) }) = true) := by decide +kernel

/-! ### Fences, events and Tally -/

/-- A started fence of stream 0 of core 0, alone in the window. -/
def fenced (op : Nat) : Dev := started (desc 7 op)
def fenceEntry (op : Nat) : WEntry := entry (desc 7 op) .started

/-- An EVENT_WAIT for the value 1. -/
def wait1 : Word512 := BitVec.ofNat 512 (7 + 256 * 4 + 2 ^ 64)

theorem test_occasion_fences :
    ((fenced 2).fenceReady 0 0 2 (fenceEntry 2) true 0 stage0 ∧ (fenced 2).writesHeld 0 = false)
    ∧ ((fenced 4).fenceReady 0 0 4 (fenceEntry 4) true 0 stage0
      ∧ (fenOf (desc 7 4)).value ≤ (Tab.get 0 ((fenced 4).holding 0).events (fenOf (desc 7 4)).event).toNat)
    ∧ ((started wait1).fenceReady 0 0 4 (entry wait1 .started) true 0 stage0
      ∧ (Tab.get 0 ((started wait1).holding 0).events (fenOf wait1).event).toNat < (fenOf wait1).value) := by decide +kernel

/-- A MEMFENCE behind another descriptor of its stream, and a REST whose writes have left. -/
def fencedBehind : Dev :=
  { held with cores := [(0, { window := [entry (desc 2 0) .accepted, { fenceEntry 2 with index := 1 }] })] }
def resting : WEntry := { fenceEntry 1 with mark := 1 }

theorem test_occasion_fences_behind_and_rest :
    (fencedBehind.fenceReady 0 0 2 { fenceEntry 2 with index := 1 } false 0 stage0)
    ∧ ((held1 resting).fenceReady 0 0 1 resting true 0 stage0 ∧ resting.mark ≠ 0 ∧ (held1 resting).writesHeld 0 = false) := by
  decide +kernel

theorem test_occasion_signal_and_step :
    ((fenced 3).fenceReady 0 0 3 (fenceEntry 3) true 0 stage0 ∧ (fenced 3).writesHeld 0 = false)
    ∧ ((fenced 0).fenceReady 0 0 0 (fenceEntry 0) true 0 stage0 ∧ (fenced 0).writesHeld 0 = false
      ∧ stage0.atStep = false ∧ ((fenced 0).core 0).gradDirty = []) := by decide +kernel

/-- A counter of LIMIT 1 at its start. -/
def counter0 (n : Nat) : Counter :=
  { number := n, limit := 1, rowGroup := none, next := 0, recs := [], reissue := [], claims := [], refused := [], die := 0
    mirror := none, copying := false, taken := false }
def tallied (op : Nat) (k : Counter) : Dev := (fenced op).modHolding 0 fun x => { x with counters := [k] }

theorem test_occasion_take :
    (tallied 5 (counter0 0)).fenceReady 0 0 5 (fenceEntry 5) true 0 stage0
    ∧ ((tallied 5 (counter0 0)).holding 0).counter 0 = some (counter0 0)
    ∧ (stage0.putSlot { counter := 0, tile := none, issue := 0 }).isSome = true ∧ (counter0 0).openTiles.length < 256
    ∧ (fenced 6).fenceReady 0 0 6 (fenceEntry 6) true 0 stage0 ∧ (fenced 7).fenceReady 0 0 7 (fenceEntry 7) true 0 stage0 := by
  decide +kernel

/-- A STORE under counter 1, whose stream holds tile 0 of it; a claim by another issue, of a core. -/
def storeUnder : WEntry := { entry (BitVec.ofNat 512 (8 + 512 + 2 ^ 24)) .started with tile := some (some 0) }
def slot1 : TakeSlot := { counter := 1, tile := some 0, issue := 0 }
def claiming (claims : List Claim) : Dev :=
  (held1 storeUnder).modHolding 0 fun x =>
    { x with counters := [{ counter0 1 with claims := claims }], stages := [{ stage0 with slots := [slot1] }] }
def earlier : Claim := { tile := 0, issue := 1, core := 1 }

theorem test_occasion_claim :
    ∀ claims ∈ [[], [earlier]],
      let s := claiming claims
      s.holdingOfCore 0 = some 0 ∧ (((s.holding 0).stageOf 0 0).bind (·.slot 1)) = some slot1
      ∧ (s.holding 0).counter 1 = some { counter0 1 with claims := claims } ∧ s.coreRuns 0 = true
      ∧ storeUnder ∈ (s.core 0).window ∧ tallyOf storeUnder.desc = 1
      ∧ (s.holding 0).mayWrite 0 storeUnder = .waitClaim
      ∧ (claims.find? fun q => q.tile == 0) = (if claims = [] then none else some earlier)
      ∧ ({ counter0 1 with claims := claims } : Counter).refused.contains (0, slot1.issue) = false
      ∧ earlier.issue ≠ slot1.issue ∧ earlier.lost = false := by decide +kernel

/-! ### The Coulter, deliveries, transform batches and the Drill -/

/-- A served LOAD of one row, with a prefetch area of 16 lines, and one of its sectors on its way. -/
def serving : Dev := { held1 (entry (cpy1 0) .accepted) with regs := [(ctrReg 0 8, 16)] }
def sector0 (freed : Bool) : PfSector :=
  { id := 0, slot := 0, index := 0, stream := 0, row := 0, osByte := 0, va := 0, epoch := 0, landed := none, deferred := none
    unchecked := false, generation := 0, frame := some frame0, freed := freed }
def inFlight (freed : Bool) : Dev := serving.modCore 0 fun x => { x with pf := [sector0 freed] }
/-- A prefetch area of one line, and a LOAD of rows of two. -/
def narrow : Word512 := BitVec.ofNat 512 (8 + 2 ^ 66 + 2 * 2 ^ 90)
def narrowed : Dev := { held1 (entry narrow .accepted) with regs := [(ctrReg 0 8, 1)] }

theorem test_occasion_prefetch :
    ∀ d ∈ [(cpy1 0, serving, 1), (narrow, narrowed, 1)],
      let e := entry d.1 .accepted
      let s := d.2.1
      let k := cpyOf d.1
      (s.core 0).window[0]? = some e ∧ s.holdingOfCore 0 = some 0 ∧ s.coreRuns 0 = true
      ∧ ((s.core 0).served.any fun w => sameEntry w e) = true ∧ k.opcode = 0 ∧ (s.core 0).fencedOff e = false
      ∧ (s.core 0).foreseenShift (s.holding 0) 0 e k = some 0 ∧ (s.core 0).outstanding < 0x1000000
      ∧ (s.core 0).epochHeld = false ∧ s.reg (ctrReg 0 8) ≠ 0 ∧ s.freeSlots 0 ≠ []
      ∧ e.pfRows < validCount k.rows k.off ((s.core 0).foreseen (s.holding 0) e k.lreg).1
      ∧ ((s.freeSlots 0).take (k.rowLines - e.pfLines)).length = d.2.2
      ∧ ∀ z ∈ chunks (k.rowVa 0) (64 * d.2.2),
          s.xlateWaits (k.dataAgent ((s.core 0).agent 0 0 e)) z.1 = false := by decide +kernel

theorem test_occasion_prefetch_return :
    ∀ f ∈ [true, false], (((inFlight f).core 0).pf.find? fun q => q.id == 0 && q.inFlight) = some (sector0 f)
        ∧ (inFlight f).holdingOfCore 0 = some 0 ∧ (inFlight f).clocked = true ∧ (inFlight f).readHeld (sector0 f).pa 32 = false
        ∧ (∀ w ∈ ((inFlight f).core 0).window, (cpyOf w.desc).group = 0)
        ∧ ∃ i < 128, ∀ q ∈ ((inFlight f).core 0).pf, q.va % 4096 / 32 = i → q.id ≠ 0 ∧ q.landed = none := by
  decide +kernel

/-- A transfer of one sector to core 0, a multicast or a ring transfer, with the entries of its line; the receive that it
is for has started, or none has. -/
def transfer1 (ring : Bool) (es : List (Nat × Nat × BitVec 8)) : Transfer :=
  { ring := ring, group := transferKey ring 1, number := 0, sender := 1, rows := 1, rowLines := 1, osAddr := 0
    osStride := 1, lines := [(0, zeroBytes 32)], delivered := 0, entries := es, whole := true }
def receive1 (ring : Bool) : WEntry :=
  entry (BitVec.ofNat 512 (8 + 256 * (if ring then 4 else 3) + 2 ^ 32)) .started
def receiving (ring : Bool) (es : List (Nat × Nat × BitVec 8)) (ws : List WEntry) : Dev :=
  { serving with cores := [(0, { window := ws, inbox := [transfer1 ring es] })] }

theorem test_occasion_delivery :
    ∀ ring ∈ [true, false], ∀ q ∈ [([], []), ([(0, 0, 0)], []), ([], [receive1 ring])],
      let s := receiving ring q.1 q.2
      s.coreRuns 0 = true
      ∧ ((s.core 0).inbox.find? fun t => t.ring == ring && s.deliverable 0 t) = some (transfer1 ring q.1)
      ∧ (transfer1 ring q.1).nextLine = 0 ∧ (s.core 0).awaits (transfer1 ring q.1) = !q.2.isEmpty := by decide +kernel

/-- A batch of two FILLs before its first phase and after it. -/
def batched (phase : Fin 3) : Dev :=
  { held with cores := [(0, { window := [member .started 0 1, member .started 1 3], batch := if phase = 0 then [] else [0, 1]
                              batchPhase := phase })] }

theorem test_occasion_transform_batch :
    ((batched 0).core 0).readyBatch = some [member .started 0 1, member .started 1 3] ∧ (batched 0).holdingOfCore 0 = some 0
    ∧ (batched 0).coreRuns 0 = true ∧ ((batched 0).core 0).batch = [] ∧ (batched 0).batchHeld 0 0 [member .started 0 1, member .started 1 3] = false
    ∧ (let r := (batched 0).batchRun 0 0 false (Xfm.phaseOne 0) [member .started 0 1, member .started 1 3]
       r.wait = false ∧ r.need = [])
    ∧ ((batched 1).core 0).readyBatch = some [member .started 0 1, member .started 1 3] ∧ (batched 1).holdingOfCore 0 = some 0
    ∧ (batched 1).coreRuns 0 = true ∧ ((batched 1).core 0).batch ≠ [] ∧ (batched 1).writesWaiting 0 = false
    ∧ (let r := ((batched 1).modCore 0 fun y => { y with batchPhase := 2 }).batchRun 0 0 true (Xfm.phaseTwo 0) [member .started 0 1, member .started 1 3]
       r.wait = false ∧ r.need = []) := by decide +kernel

/-- A layer of one expert at this device, its queue, and group 1 of devices 0 and 1. -/
def layer0 : Layer := { overflow := 0, rowSectors := 1, ansSectors := 1, experts := [⟨0, 0⟩] }
def queue0 : HomeQueue :=
  { queue := 0, layer := 0, global := 0, nbuf := 1, queueVa := 0, queueRows := 1, spillVa := 0, spillRows := 0, originVa := 0
    capacity := 1, spillCapacity := 0, routed := 0, accepted := 0, overflowed := 0, returned := 0, held := [] }
def drilling (bs : List Batch) (d : Dev) : Dev :=
  d.modHolding 0 fun x => { x with layers := [(0, some layer0)], queues := [queue0], batches := bs
                                   collectives := [(1, some { members := [0, 1], dead := [] })] }
def count0 : CountMsg :=
  { src := 1, owner := 0, group := 1, tag := 0, layer := 0, round := 0, deadline := 1, counts := [(0, 1)] }
/-- A live batch of tag 0, fully counted by its own device alone. -/
def batch0 : Batch := { newBatch 0 0 1 none with counts := [count0] }
def dead0 : Batch := { batch0 with live := false, cause := some .timeout }

/-- What the Drill's operations run. -/
def drlRun (op : Nat) (a : Agent) (e : WEntry) (r : Run) : Option (Run × Bool) :=
  match op with
  | 0 => routeBody 0 a e r
  | 1 => (expertWaitBody 0 a e r).map fun q => (q, true)
  | 2 => returnBody 0 a e r
  | 3 => (retWaitBody 0 a e r).map fun q => (q, true)
  | _ => cancelBody 0 a e r

theorem test_occasion_drill_runs :
    (∀ op ∈ [0, 1, 2, 3, 4], let s := drilling [dead0] (started (desc 5 op))
      s.unitReady 0 5 [op] (entry (desc 5 op) .started) 0
      ∧ ends (drlRun op ((s.core 0).agent 0 0 (entry (desc 5 op) .started)) (entry (desc 5 op) .started) { dev := s }) = true)
    ∧ (∀ op ∈ [1, 2, 3], let s := drilling [] (started (desc 5 op))
      s.unitReady 0 5 [op] (entry (desc 5 op) .started) 0
      ∧ ∀ w ∈ (s.core 0).startedAll 5 [op], drlRun op ((s.core 0).agent 0 0 w) w { dev := s } = none) := by decide +kernel

/-- An EXPERT_WAIT of queue 0 that puts its count into length register 1. -/
def expertWait1 : Word512 := BitVec.ofNat 512 (5 + 256 + 2 ^ 56)

theorem test_occasion_expert_wait :
    let s := drilling [batch0] (started expertWait1)
    s.unitReady 0 5 [1] (entry expertWait1 .started) 0
    ∧ (s.holding 0).batch (tagOf (s.holding 0) (drlOf expertWait1).batch) = some batch0 ∧ batch0.live = true
    ∧ (s.holding 0).queueFinal batch0 (drlOf expertWait1).queue = some (0, 0)
    ∧ (drlOf expertWait1).cntLreg ≠ 0 ∧ (drlOf expertWait1).lreg = 0 := by decide +kernel

/-- Epoch 5 of holding 0 of device 1 is known here. -/
def staleOne : Dev := (drilling [batch0] held).learnEpoch 1 0 5

/-- A placement reply of home 1 without places. -/
def placement0 : PlacementMsg := { home := 1, tag := 0, round := 0, places := [] }

theorem test_occasion_counts_and_placements :
    (let s := drilling [] held
     s.drillUp = true ∧ s.staleSender ⟨count0.src, count0.owner, count0.epoch⟩ = false ∧ (s.holding 0).batch count0.tag = none ∧ (s.holding 0).tagsFull = false
     ∧ (∀ p ∈ count0.counts, ((s.holding 0).queues.any fun q => q.global == p.1 && q.layer == count0.layer) = true)
     ∧ 0 ∈ (s.holding 0).membersOf (some count0.group) ∧ (0 : BitVec 16) ≠ count0.src)
    ∧ (let s := drilling [batch0] held
       s.drillUp = true ∧ s.staleSender ⟨placement0.home, placement0.owner, placement0.epoch⟩ = false
       ∧ (s.holding 0).batch 0 = some batch0 ∧ (s.holding 0).layer batch0.layer = some layer0 ∧ batch0.live = true
       ∧ batch0.replies.contains (1, 0) = false
       ∧ ({ batch0 with replies := [(1, 0)] } : Batch).replies.contains (1, 0) = true ∧ batch0.deadline = none ∧ layer0.overflow ≠ 1)
    ∧ (let s := drilling [dead0] held
       (s.holding 0).batch 0 = some dead0 ∧ (s.holding 0).layer dead0.layer = some layer0 ∧ dead0.live = false)
    ∧ staleOne.staleSender ⟨count0.src, count0.owner, 3⟩ = true ∧ staleOne.staleSender ⟨placement0.home, 0, 3⟩ = true := by
  decide +kernel

def token0 : TokenMsg :=
  { src := 1, tag := 0, expert := 0, slot := 0, token := 0, choice := 0, round := 0, row := zeroBytes 32 }
def answer0 : AnswerMsg := { src := 1, tag := 0, expert := 0, token := 0, choice := 0, row := zeroBytes 32 }

theorem test_occasion_tokens_and_answers :
    (let s := drilling [batch0] held
     s.memoryUp = true ∧ s.staleSender ⟨token0.src, token0.owner, token0.epoch⟩ = false
     ∧ s.staleSender ⟨answer0.src, answer0.owner, answer0.epoch⟩ = false
     ∧ (s.holding 0).batch 0 = some batch0 ∧ batch0.live = true ∧ (s.holding 0).queueFor 0 = some queue0
     ∧ (s.holding 0).layer queue0.layer = some layer0
     ∧ (queue0.held.any fun z => z.1 == queue0.bufferOf (0 % 65536) && z.2 != (0 : Word32)) = false)
    ∧ ((drilling [] held).holding 0).batch 0 = none
    ∧ ((drilling [dead0] held).holding 0).batch 0 = some dead0 ∧ dead0.live = false := by decide +kernel

/-- A batch whose count of device 0 is missing at its deadline. -/
def late0 : Batch := { batch0 with group := some 1, homeDeadline := some 64 }

theorem test_occasion_cancel_and_release :
    (let s := drilling [late0] held
     s.drillUp = true ∧ (s.holding 0).batch 0 = some late0 ∧ late0.live = true ∧ late0.homeDeadline = some 64
     ∧ late0.deadline = none
     ∧ (s.holding 0).allCounted late0
         (if (((s.holding 0).layer late0.layer).map fun l => l.overflow == 1).getD false = true then 1 else 0) = false)
    ∧ ∀ b ∈ ((drilling [batch0] held).holding 0).batches, b.waiting = [] := by decide +kernel

/-! ### Reductions and the Harrow -/

/-- A policy of one chunk of 64 values, and the group of devices 0 and 1. -/
def pol0 : Policy :=
  { group := 1, values := 64, fp32Wire := false, mean := false, anchor := false, anchors := [], scaleWindow := 1000
    dataWindow := 2000, gatherWindow := 4000, gatherFmt := .fp32, sumVa := 0, stageVa := 0, absentVa := 0 }
def pair0 : Collective := { members := [0, 1], dead := [] }
def chunk0 : ChunkRef := { group := 1, reduction := 2, chunk := 0 }
def window0 (k : RedChunk) : RedWindow :=
  { port := 0, group := 1, reduction := 2, openAt := 0, step := 0, policy := pol0, members := pair0, scaleClosed := false
    dataClosed := false, chunks := [k] }
/-- The holding with policy pol0 on reduction 2 of group 1, and some windows and REDUCE records. -/
def reducing (ws : List RedWindow) (rs : List ReduceRec) (d : Dev) : Dev :=
  d.modHolding 0 fun x => { x with collectives := [(1, some pair0)], policies := [(polKey 1 2, some pol0)]
                                   windows := ws, reduces := rs }
def rec0 : ReduceRec :=
  { queue := 0, core := 0, index := 0, group := 1, reduction := 2, first := 0, chunks := 1, srcVa := 0, dstVa := 0
    started := true, bad := false, replied := [], pieces := [], missed := [], waited := [] }
/-- A GATHER_WAIT over n chunks of that reduction. -/
def gatherWait0 (n : Nat) : Word512 := BitVec.ofNat 512 (6 + 256 + 2 ^ 16 + 2 * 2 ^ 24 + n * 2 ^ 59)

theorem test_occasion_reduce :
    let s := reducing [] [{ rec0 with chunks := 0 }] (started (desc 6 0))
    s.unitReady 0 6 [0] (entry (desc 6 0) .started) 0
    ∧ ends (reduceBody 0 ((s.core 0).agent 0 0 (entry (desc 6 0) .started)) (entry (desc 6 0) .started) { dev := s }) = true := by
  decide +kernel

theorem test_occasion_gather_wait :
    ∀ n ∈ [0, 1],
      let s := reducing [] [] (started (gatherWait0 n))
      let k := collOf (gatherWait0 n)
      s.unitReady 0 6 [1] (entry (gatherWait0 n) .started) 0
      ∧ ((List.range k.chunks).all fun i => (s.holding 0).chunkGathered k.group k.reduction (k.first + i)) = decide (n = 0)
      ∧ (s.holding 0).policy k.group k.reduction = some pol0 := by decide +kernel

theorem test_occasion_deadlines :
    let s := reducing [window0 (emptyChunk 0)] [] held
    s.clocked = true
    ∧ (((s.holding 0).windowsOf 0 1 2).find? fun q => !q.2.scaleClosed && !q.2.dataClosed) = some (0, window0 (emptyChunk 0))
    ∧ (((s.holding 0).windowsOf 0 1 2).find? fun q => !q.2.dataClosed) = some (0, window0 (emptyChunk 0))
    ∧ ∀ q ∈ ((reducing [] [] held).holding 0).windowsOf 0 1 2, q.2.dataClosed = true := by decide +kernel

/-- The link die of port 0 is fenced. -/
def fencedOwner : Dev := { reducing [window0 (emptyChunk 0)] [] held with dies := [(48, { fenced := true })] }

/-- Moments around a SCALE deadline: one tick before it, and at it. -/
theorem test_occasion_scale :
    let s := reducing [window0 (emptyChunk 0)] [] held
    s.staleSender ⟨1, 0, 0⟩ = false ∧ s.outOfStep 0 0 1 1 = false ∧ fencedOwner.outOfStep 0 0 1 1 = true
    ∧ s.ownedHere 0 0 { chunk0 with chunk := 1 } 1 = none ∧ s.ownedHere 0 0 chunk0 1 = some (pol0, pair0, 1)
    ∧ ((s.holding 0).windowsOf 0 1 2).getLast? = some (0, window0 (emptyChunk 0))
    ∧ ((window0 (emptyChunk 0)).chunk 0).seen.contains 1 = false
    ∧ reached 999 (window0 (emptyChunk 0)).scaleEnd = false ∧ reached 1000 (window0 (emptyChunk 0)).scaleEnd = true
    ∧ (∃ j ∈ pair0.live, j ≠ 1 ∧ ∀ z ∈ ((window0 (emptyChunk 0)).chunk 0).scales, z.1 ≠ j) ∧ (1 : BitVec 16) ≠ s.number := by
  decide +kernel

theorem test_occasion_reply :
    let s := reducing [] [rec0] held
    s.clocked = true ∧ s.staleSender ⟨0, 0, 0⟩ = false ∧ (held.holding 0).policy 1 2 = none
    ∧ ((reducing [] [] held).holding 0).policy 1 2 = some pol0
    ∧ ((s.holding 0).reduces.find? fun q => q.started && q.covers 1 2 0 && !(q.replied.any fun z => z.1 == 0)) = some rec0
    ∧ (s.holding 0).policy 1 2 = some pol0 ∧ (s.holding 0).members? 1 = some pair0 ∧ pol0.owner pair0 0 = some 0
    ∧ ∀ q ∈ ((reducing [] [] held).holding 0).reduces,
        (q.started && q.covers 1 2 0 && !(q.replied.any fun z => z.1 == 0)) = false := by decide +kernel

/-- A chunk that has admitted slot 1, and a DATA message of two blocks with good headers. -/
def admitted0 : RedChunk := { emptyChunk 0 with replied := true, admitted := [1] }
def data0 : List Byte := (es40Block 0 []).1 ++ (es40Block 0 []).1

theorem test_occasion_data :
    let s := reducing [window0 admitted0] [] held
    s.staleSender ⟨1, 0, 0⟩ = false ∧ s.outOfStep 0 0 1 1 = false ∧ staleOne.staleSender ⟨1, 0, 3⟩ = true
    ∧ s.ownedHere 0 0 { chunk0 with chunk := 1 } 1 = none ∧ s.ownedHere 0 0 chunk0 1 = some (pol0, pair0, 1)
    ∧ pol0.messagesIn 0 ≤ 1 ∧ 0 < pol0.messagesIn 0 ∧ (∀ b ∈ messageBlocks pol0 0 0 data0, headerOf b.2 ≠ none)
    ∧ (∃ b ∈ messageBlocks pol0 0 0 [], headerOf b.2 = none)
    ∧ (s.dataWindow 0 0 chunk0 pol0 pair0 1 0).1 = some 0 ∧ s.window 0 0 = some (window0 admitted0)
    ∧ (window0 admitted0).dataClosed = false ∧ reached s.dt (window0 admitted0).dataEnd = false
    ∧ ((window0 admitted0).chunk 0).admitted.contains 1 = true
    ∧ ((window0 admitted0).chunk 0).accepted.contains (1, 0) = false := by decide +kernel

/-- A REDUCE with the first 224 bytes of chunk 0 gathered. -/
def some0 : ReduceRec := { rec0 with pieces := [(0, 0, zeroBytes 224)] }

theorem test_occasion_gather :
    let s := reducing [] [rec0] held
    (s.holding 0).policy 1 2 = some pol0 ∧ (s.holding 0).dropped.contains (polKey 1 2, 0) = false
    ∧ ((s.holding 0).reduces.find? fun q => q.covers 1 2 0) = some rec0 ∧ (rec0.missed.contains 0 || rec0.waitOver 0) = false ∧ s.clocked = true
    ∧ s.staleSender ⟨1, 0, 0⟩ = false ∧ pol0.valuesIn 0 * pol0.gatherSize = 256
    ∧ (rec0.gathered.contains 0 || rec0.pieces.any fun u => u.1 == 0 && u.2.1 == 0) = false
    ∧ (some0.gathered.contains 0 || some0.pieces.any fun u => u.1 == 0 && u.2.1 == 0) = true
    ∧ (some0.gathered.contains 0 || some0.pieces.any fun u => u.1 == 0 && u.2.1 == 224) = false
    ∧ (some0.missed.contains 0 || some0.waitOver 0) = false ∧ ({ rec0 with waited := [(0, 1)] } : ReduceRec).waitOver 0 = true
    ∧ (∀ p ∈ [([], 0, 224), (some0.pieces, 224, 32)],
        decide ((((p.1.filter fun u => u.1 == 0).map (·.2) ++ [(p.2.1, (zeroBytes p.2.2).take (256 - p.2.1))]).map fun u => u.2.length).sum < 256)
          = decide (p.2.1 = 0))
    ∧ (((reducing [] [{ rec0 with missed := [0] }] held).holding 0).reduces.find? fun q => q.covers 1 2 0)
        = some { rec0 with missed := [0] }
    ∧ (((reducing [] [] held).holding 0).reduces.find? fun q => q.covers 1 2 0) = none := by decide +kernel

/-- A trailer of device 1 has been taken already. -/
def trailed : Dev := (reducing [] [] held).modHolding 0 fun x => { x with trailers := [(polKey 1 2, 1)] }
def trailer0 : TrailerRec := { layer := 3, wnf := false, wsq := 5, gsq := 6, usq := 7 }

theorem test_occasion_trailer :
    let s := reducing [] [] held
    s.clocked = true ∧ s.staleSender ⟨1, 0, 0⟩ = false ∧ ((s.holding 0).policy 1 2).isSome = true
    ∧ (((s.holding 0).reduces.any fun q => q.group == 1 && q.reduction == 2) && (s.holding 0).waitsDone 1 2) = false
    ∧ (s.holding 0).trailers.contains (polKey 1 2, 1) = false
    ∧ ((trailed.holding 0).policy 1 2).isSome = true
    ∧ (((trailed.holding 0).reduces.any fun q => q.group == 1 && q.reduction == 2) && (trailed.holding 0).waitsDone 1 2) = false
    ∧ (trailed.holding 0).trailers.contains (polKey 1 2, 1) = true := by decide +kernel

/-- A chunk whose block 0 is final, with no update entry over it. -/
def final0 : RedChunk := { emptyChunk 0 with replied := true, admitted := [1], blocks := [(0, { final := true })] }
def finalState : Dev := reducing [window0 final0] [] held
/-- A preconditioned entry of one block of four values, whose forwards have not come. -/
def entry3 : UpdateEntry :=
  { group := 1, reduction := 2, firstValue := 0, values := 4, layer := 0, rule := 3, hyper := 0, t0 := 0, frozen := false
    maskEn := false, maskNum := 0, rows := 2, cols := 2, br := 2, bc := 2, paramVa := 0, stateVa := 0, freezeVa := 0
    factorVa := 0, factorSlot := 0, steps := 0, c1 := 0, c2 := 0, bad := false }
def forwarding : Dev := finalState.modHolding 0 fun x => { x with entries := [(0, some entry3)] }

theorem test_occasion_harrow :
    finalState.clocked = true
    ∧ (((finalState.holding 0).windowsOf 0 1 2).find? fun q =>
        (Tab.get {} (q.2.chunk 0).blocks 0).final && !(Tab.get {} (q.2.chunk 0).blocks 0).taken) = some (0, window0 final0)
    ∧ (finalState.harrowReads 0 0 chunk0 (window0 final0) 0).wait = false
    ∧ finalState.stagingHeld 0 0 (window0 final0) 0 0 = false
    ∧ (finalState.holding 0).precond = []
    ∧ Tab.get none (forwarding.holding 0).entries 0 = some entry3 ∧ entry3.rule = 3 ∧ 0 < entry3.blocks
    ∧ ((forwarding.holding 0).windowsOf 0 1 2).head? = some (0, window0 final0) ∧ (forwarding.holding 0).precond = []
    ∧ 0 < entry3.br * entry3.bc := by decide +kernel

/-- Every stage stands at its STEP fence. -/
def atBoundary : Dev := held.modHolding 0 fun x => { x with stages := [{ stage0 with atStep := true }], digest := { every := 0 } }

theorem test_occasion_boundary :
    atBoundary.clocked = true ∧ atBoundary.boundaryReady 0 = true ∧ (atBoundary.holding 0).poisonUsed = false
    ∧ (atBoundary.holding 0).waiting = [] ∧ (atBoundary.holding 0).digest.every = 0
    ∧ (atBoundary.holding 0).mirrorSend = none ∧ held.boundaryReady 0 = false := by decide +kernel

/-! ### The memory controllers -/

/-- Owned and written memory whose sector 0 is the one read; the stack that holds it is `lost` or not. -/
def sec0 : Nat := frame0 * 128
def withTag (t : Tag) : Dev := { held with tags := tableTags ++ [(frame0, some t)] }
def lostStack (d : Dev) : Dev := d.modStack (d.place pa0).stack fun k => { k with offline := true }

theorem test_occasion_reads :
    ∀ s ∈ [held, lostStack held, withTag { tag0 with owner := .holding 1 }, withTag { tag0 with zero := true },
        withTag { tag0 with epoch := 9 }],
      s.memoryUp = true ∧ memExists (sec0 * 32) = true ∧ s.memWaits = [] ∧ s.quiesced (sec0 * 32) = false
      ∧ Tab.get .clean s.ecc sec0 = .clean ∧ (true && s.mustWait (sec0 / 128) (.holding 0)) = false := by decide +kernel

theorem test_occasion_reads_clauses :
    (lostStack held).stackLost ((lostStack held).place (sec0 * 32)).stack = true
    ∧ (withTag { tag0 with owner := .holding 1 }).stackLost (held.place (sec0 * 32)).stack = false
    ∧ held.stackLost (held.place (sec0 * 32)).stack = false ∧ (held.tag frame0).owner = .holding 0
    ∧ (held.tag frame0).zero = false ∧ held.staleEpoch (.holding 0) (held.tag frame0).epoch = false
    ∧ (withTag { tag0 with epoch := 9 }).staleEpoch (.holding 0) 9 = true := by decide +kernel

/-- A whole-block read of a block whose CRC is maintained. -/
theorem test_occasion_block_read :
    held.memoryUp = true ∧ memExists (frame0 * 4096) = true ∧ held.memWaits = [] ∧ held.quiesced (frame0 * 4096) = false
    ∧ (true && held.mustWait frame0 (.holding 0)) = false ∧ (∀ j < 128, Tab.get .clean held.ecc (frame0 * 128 + j) = .clean)
    ∧ held.stackLost (held.place (frame0 * 4096)).stack = false
    ∧ (∀ j < 128, held.stackLost (held.place ((frame0 * 128 + j) * 32)).stack = false)
    ∧ (held.tag frame0).poison = false ∧ (held.tag frame0).crcOff = false
    ∧ (∀ j < 128, Tab.get false held.secPoison (frame0 * 128 + j) = false) := by decide +kernel

theorem test_occasion_writes :
    held.memoryUp = true ∧ memExists pa0 = true ∧ held.memWaits = [] ∧ held.quiesced pa0 = false
    ∧ (∀ j < 128, Tab.get .clean held.ecc (pa0 / 4096 * 128 + j) = .clean)
    ∧ (∃ b ∈ List.replicate 4096 (some (⟨0, false⟩ : PByte)), b ≠ none)
    ∧ (true && held.pendingFull pa0 (.holding 0) 1) = false
    ∧ held.stackLost (held.place pa0).stack = false ∧ held.staleEpoch (.holding 0) 1 = false
    ∧ (held.tag (pa0 / 4096)).owner = .holding 0 ∧ pa0 % 4096 + (List.replicate 4096 (0 : Nat)).length ≤ 4096
    ∧ held.staleEpoch (.holding 0) 2 = true
    ∧ (held.tag 0).owner = .device ∧ held.staleEpoch .device 0 = false ∧ memExists 8 = true ∧ held.quiesced 8 = false
    ∧ (true && held.pendingFull pa0 (.holding 0) 2) = false
    ∧ (∀ h : HoldId, (held.holding h).mirrorSend = none) := by decide +kernel

/-- A write of core 0 to frame0 that waits for its clearance. -/
def pending0 : Dev :=
  { held with pend := [{ agent := 0, stream := 0, index := 0, part := 0, block := frame0, sectors := [sec0], owner := .holding 0
                         epoch := 1, passed := false }] }

theorem test_occasion_clearance_and_scrub :
    held.staleEpoch (.holding 0) 1 = false ∧ held.stackLost (held.place (frame0 * 4096)).stack = false ∧ held.memWaits = []
    ∧ held.staleEpoch (.holding 0) 2 = true
    ∧ (let s : Dev := { held with regs := [(stackReg (held.place pa0).stack 0x0C, 24)] }
       s.stackLost (s.place pa0).stack = false ∧ (s.reg (stackReg (s.place pa0).stack 0x0C)).setWidth 8 ≠ (0 : BitVec 8))
    ∧ (held.reg (stackReg (held.place pa0).stack 0x0C)).setWidth 8 = (0 : BitVec 8) ∧ held.memoryUp = true ∧ held.pend = []
    ∧ pending0.pend.any (pending0.clears frame0 [sec0]) = true := by decide +kernel

/-- A request that waits for a parity reissue after n failed ones. -/
def parityWait (n : Nat) (w : MemReq) : Dev := { held with memWaits := [⟨w, .parity n, false⟩] }

theorem test_occasion_parity_and_heat :
    (∀ n ∈ [2, 3], ∀ w ∈ [MemReq.read sec0 false (.holding 0) .ordinary false, .read sec0 true (.holding 0) .bulk true,
        .write pa0 (.holding 0) 1 .ordinary [some ⟨1, false⟩] false],
      let s := parityWait n w
      s.memoryUp = true ∧ s.memWaits = [⟨w, .parity n, false⟩] ∧ s.queuesFor [] w = none
      ∧ (s.place w.address).stack = 0 ∧ (s.place w.address).channel = 0)
    ∧ (2 < 3) ∧ 95 ≤ (95 : BitVec 8).toNat ∧ 105 ≤ (105 : BitVec 8).toNat ∧ (held.stack 0).throttled = false
    ∧ (held.stack 0).offline = false
    ∧ ((held.modStack 0 fun k => { k with throttled := true }).stack 0).throttled = true := by decide +kernel

theorem test_occasion_walks :
    let walked := fun va : Nat => ((held.count (some 0) (xltReg 0 0x18) 1).walk 0 (some 0) .ordinary va).1
    held.memoryUp = true ∧ held.xlateWaits { die := 0, core := some 0, holding := 0 } 0 = false
    ∧ held.xlateWaits { die := 0, core := none, holding := 0 } 4096 = false
    ∧ walked 0 = .leaf 0 leaf0 ∧ (match leafXlate 0 leaf0 0 false with | .fault _ => false | _ => true) = true
    ∧ walked 4096 = .fault 0 ∧ (held.reg (xltReg 0 0)).getLsbD 31 = false := by decide +kernel

/-! ### Integrity -/

/-- Core 0 runs a vector descriptor; with a decision open; with every other core of its die fenced. -/
def vecRuns : Dev := started (desc 2 0)
def deciding : Dev :=
  vecRuns.modCore 0 fun x => { x with decision := some { unit := .vector, neighbour := 1, stream := 0, index := 0, part := none } }
def alone : Dev :=
  { vecRuns with cores := vecRuns.cores ++ (List.range 7).map fun i => (i + 1, { fenced := true }) }

theorem test_occasion_disagreement :
    vecRuns.undecided 0 .vector = [(0, 0, none)] ∧ vecRuns.coreRuns 0 = true ∧ vecRuns.nextLive 0 = some 1
    ∧ alone.undecided 0 .vector = [(0, 0, none)] ∧ alone.coreRuns 0 = true ∧ alone.nextLive 0 = none
    ∧ (deciding.core 0).decision = some { unit := .vector, neighbour := 1, stream := 0, index := 0, part := none }
    ∧ (vecRuns.core 0).decision = none ∧ vecRuns.clocked = true := by decide +kernel

theorem test_occasion_suspect : vecRuns.suspect 0 .vector = some (0, 0, none) ∧ alone.suspect 0 .vector = some (0, 0, none) := by
  have h1 := test_occasion_disagreement.1
  have h2 := test_occasion_disagreement.2.2.2.1
  simp [Dev.suspect, h1, h2, Nat.mod_one]

theorem test_occasion_link_check :
    (48 : DieId).val = linkDie 0 ∧ (55 : DieId).val = linkDie 7 ∧ dieKind (31 : DieId).val = 0 ∧ up.clocked = true
    ∧ (up.die 48).fenced = false ∧ (up.die 48).survey = false ∧ (up.die 31).fenced = false ∧ (up.die 31).survey = false := by
  decide +kernel

/-- A message that waits in the gate for frame0; the block is checked, or not. -/
def gated (t : Tag) : Dev :=
  { withTag t with gate := [{ port := 0, dst := 1, vc := 3, owner := .holding 0, msg := .linkState 0, blocks := [(frame0, 0, 32)] }] }

theorem test_occasion_gate_and_mirror :
    ((tallied 5 { counter0 7 with copying := true }).holding 0).counter 7 = some { counter0 7 with copying := true }
    ∧ (gated tag0).clocked = true ∧ (gated tag0).blockClear frame0 = true
    ∧ (∃ g ∈ (gated tag0).gate, g.port = 0 ∧ ∃ x ∈ g.blocks, x.1 = frame0)
    ∧ (gated { tag0 with checked := false }).blockClear frame0 = false := by decide +kernel

/-- The holding votes in the group of devices 0 and 1 that it names as group 0, with a vote open or none. -/
def voting (v : Option Vote) : Dev :=
  held.modHolding 0 fun x => { x with collectives := [(0, some pair0)], vote := v }
def vote0 : Vote := { step := 0, own := [], ownTime := 0 }
def digest0 : DigestRec := { src := 1, step := 1, layers := [] }

theorem test_occasion_votes :
    (voting none).clocked = true ∧ (voting none).voters 0 = some pair0 ∧ pair0.liveDevices.contains digest0.src = true
    ∧ ((voting none).holding 0).vote = none ∧ seqLe digest0.step ((voting none).holding 0).step = false
    ∧ (((voting none).holding 0).digests.any fun q => q.src == digest0.src && q.step == digest0.step) = false
    ∧ ((voting (some vote0)).holding 0).vote = some vote0 ∧ (voting (some vote0)).coordinates 0 = true
    ∧ Tab.get none ((voting (some vote0)).holding 0).collectives ((voting (some vote0)).holding 0).digest.group = some pair0
    ∧ ([1].any fun i => pair0.members[i]? == some (voting (some vote0)).number) = false
    ∧ ((voting (some vote0)).holding 0).batches = [] := by decide +kernel


/-! ### The links -/

/-- A flit whose CRC covers it. -/
def flit (eseq : Nat) (dst src : BitVec 16) (lseq : Nat) (vc type owner lastFirst : Nat) (ext : Word64) : Flit :=
  let f : Flit := { hdr := BitVec.ofNat 128 (lastFirst + owner * 2 ^ 30 + type * 2 ^ 34 + vc * 2 ^ 38 + lseq * 2 ^ 52
                             + src.toNat * 2 ^ 64 + dst.toNat * 2 ^ 80 + eseq * 2 ^ 96)
                    payload := List.replicate 224 0, ext := ext, crc := 0 }
  { f with crc := crc64 f.covered }

theorem test_flit_is_good (eseq : Nat) (dst src : BitVec 16) (lseq vc type owner lastFirst : Nat) (ext : Word64) :
    (flit eseq dst src lseq vc type owner lastFirst ext).good = true := by
  simp only [flit, Flit.good, Flit.covered, beq_self_eq_true]

/-- A flit whose CRC does not cover it: the CRC of its empty payload is not 0. -/
def spoilt : Flit := { hdr := 0, payload := [], ext := 0, crc := crc64 (leBytes 16 0 ++ area 224 [] ++ leBytes 8 0) + 1 }

theorem test_spoilt_flit_is_bad : (true && spoilt.good) = false := by
  simp [spoilt, Flit.good, Flit.covered]

/-- The module is device 0 of its pod; port 0 is in some state, switched on and cabled. -/
def ported (q : Port) : Dev :=
  { held with regs := [(klxReg 0 0x300, 0x10000), (klxReg 0 4, 1)], ports := [(0, { q with cable := true })] }
def upPort : Port := { state := .up, credits := freshCredits }
def item0 : PortItem := { vc := 1, cls := 0, wire := .time }
/-- The port keeps the flits 0 to 2, the oldest sent again n times already. -/
def kept (n : Nat) : Port := { upPort with nextLseq := 3, replay := [(0, item0), (1, item0), (2, item0)], oldestReplays := n }

theorem test_occasion_link_flits :
    (ported upPort).clocked = true ∧ (ported upPort).usable 0 = true ∧ (ported upPort).fullSurvey = false
    ∧ (flit 0 0 1 0 2 4 0 3 0).type = 4
    ∧ (flit 0 0 1 0 2 4 0 3 0).lseq = ((ported upPort).port 0).expect
    ∧ (flit 0 0 1 0 2 4 0 3 0).dst = (ported upPort).number
    ∧ (flit 0 0 1 4095 2 7 0 3 0).lseq = ({ upPort with expect := 4095 } : Port).expect := by decide +kernel

theorem test_occasion_nak :
    (let s1 := (ported (kept 0)).takeLack 0 0
     (s1.port 0).replay ≠ [] ∧ (s1.port 0).oldestReplays + 1 < 8
      ∧ (recentReplays (ported (kept 0)).dt (s1.port 0).replayTimes).length + 1 < 64)
    ∧ (let s1 := (ported (kept 7)).takeLack 0 4095
       (s1.port 0).replay ≠ [] ∧ 8 ≤ (s1.port 0).oldestReplays + 1)
    ∧ (ported (kept 7)).usable 0 = true ∧ (ported (kept 0)).survey.frozen = false := by decide +kernel

/-- What the sequence home keeps for device 1 in channel 2: three flits that are not acknowledged. -/
def heldFlit (n : Nat) : Held := { eseq := BitVec.ofNat 32 n, owner := .device, epoch := 0, msg := .linkState 0, index := 0, count := 1 }
def sentTo1 (timeouts : Nat) (lost : Bool) : Dev :=
  { ported upPort with seqTx := [(seqKey 1 2, { next := 3, held := [heldFlit 0, heldFlit 1, heldFlit 2], timeouts := timeouts, unreachable := lost })]
                       seqRx := [(seqKey 1 2, { expected := 5, unacked := 1, firstUnacked := some 9 })] }

/-- Two kept flits whose route leads through port 0, which is usable. -/
def heldTo (n : Nat) (t : Word64) : Held :=
  { heldFlit n with sentAt := t, route := some { port := 0, fabric := false, detour := false, fabricDetour := false, dirs := 0 } }
def routed1 : Dev :=
  { ported upPort with dt := 99, seqTx := [(seqKey 1 2, { next := 2, held := [heldTo 0 5, heldTo 1 7] })] }

theorem test_occasion_resends :
    routed1.clocked = true ∧ (Tab.get {} routed1.seqTx (seqKey 1 2)).held = [heldTo 0 5, heldTo 1 7]
    ∧ (Tab.get {} routed1.seqTx (seqKey 1 2)).unreachable = false
    ∧ ∀ f ∈ [heldTo 0 5, heldTo 1 7], ∃ r, f.route = some r ∧ routed1.usable r.port = true := by
  refine ⟨by decide +kernel, by decide +kernel, by decide +kernel, ?_⟩
  intro f hf
  simp only [List.mem_cons, List.not_mem_nil, or_false] at hf
  rcases hf with rfl | rfl <;> exact ⟨_, rfl, by decide +kernel⟩

theorem test_occasion_end_to_end :
    let s := sentTo1 0 false
    let x := Tab.get {} s.seqRx (seqKey 1 2)
    (∀ f ∈ [flit 5 0 1 0 2 2 0 3 0, flit 4 0 1 0 2 4 0 3 0, flit 6 0 1 0 2 3 0 3 0],
      f.src = 1 ∧ f.vc = 2 ∧ 2 ≤ f.type ∧ f.type ≤ 4 ∧ f.dst = s.number)
    ∧ (flit 5 0 1 0 2 2 0 3 0).eseq = x.expected
    ∧ 0x80000000 ≤ ((flit 4 0 1 0 2 4 0 3 0).eseq - x.expected).toNat
    ∧ 0 < ((flit 6 0 1 0 2 3 0 3 0).eseq - x.expected).toNat
    ∧ ((flit 6 0 1 0 2 3 0 3 0).eseq - x.expected).toNat < 0x80000000
    ∧ s.gate = [] ∧ (∀ h : HoldId, (s.holding h).mirrorSend = none) ∧ x.firstUnacked = some 9
    ∧ ((Tab.get {} s.seqTx (seqKey 1 2)).held.filter fun f => seqLe 1 f.eseq) ≠ []
    ∧ (Tab.get {} s.seqTx (seqKey 1 2)).held ≠ [] ∧ (Tab.get {} s.seqTx (seqKey 1 2)).unreachable = false
    ∧ (Tab.get {} (sentTo1 64 true).seqTx (seqKey 1 2)).unreachable = true ∧ s.clocked = true := by decide +kernel

/-- Device 1 mirrors its state here. -/
def mirrored : Dev := { ported upPort with serves := [(1, some { buddy := 1, firstRegion := 8, regions := 2, complete := some (0, 4) })] }

theorem test_occasion_messages :
    let s := ported upPort
    (∀ k ∈ [0, 1, 2, 3], (flit 0 0 1 0 2 2 0 k 0x70000000000000).type = 2 ∧ (flit 0 0 1 0 2 2 0 k 0).dst = s.number
      ∧ s.staleFlit (flit 0 0 1 0 2 2 0 k 0) = false)
    ∧ (flit 0 0 1 0 2 2 0 1 0).last = false ∧ (flit 0 0 1 0 2 2 0 2 0).last = true ∧ (flit 0 0 1 0 2 2 0 2 0).owner = (0 : HoldId).val
    ∧ s.serveAt (flit 0 0 1 0 2 2 0 2 0).src.toNat = none
    ∧ ¬ ((flit 0 0 1 0 2 2 0 3 0x70000000000000).data.length = 4096 ∧ (flit 0 0 1 0 2 2 0 3 0x70000000000000).sectors = 2)
    ∧ (mirrored.serveAt (1 : BitVec 16).toNat).isSome = true ∧ (1 : BitVec 16) ≠ s.number ∧ s.knownEpoch 1 0 = 0
    ∧ Tab.get 0 s.notices (epochKey 1 0) = 0 ∧ ({ s with epochs := [(epochKey 1 0, 5)] } : Dev).knownEpoch 1 0 = 5
    ∧ epochOlder 5 5 = false ∧ s.staleSender ⟨1, 0, 0⟩ = false ∧ s.usable 0 = true
    ∧ ({ s with epochs := [(epochKey 1 0, 5)] } : Dev).staleSender ⟨1, 0, 3⟩ = true
    ∧ s.numberValid = true := by decide +kernel

/-- The module follows the parent behind port 0, with an exchange open after n unanswered ones. -/
def following (n : Nat) (d : Dev) : Dev :=
  { d with regs := Tab.set 0 d.regs (klxReg 0 0x304) 0, time := { d.time with exchanging := true, missed := n } }

theorem test_occasion_time :
    (following 15 held).clocked = true ∧ (following 15 held).isMaster = false
    ∧ (((following 15 held).reg (klxReg 0 0x304)).setWidth 4).toNat < 8 ∧ (following 15 held).time.exchanging = true
    ∧ ¬ (∀ h : HoldId, ((following 0 held).holding h).state ≠ .enabled)
    ∧ (∀ h : HoldId, ((following 0 up).holding h).state ≠ .enabled) := by decide +kernel

theorem test_occasion_training :
    (∀ q ∈ [({ state := .training } : Port), { state := .down }, { state := .training, failures := 2 }],
      (ported q).clocked = true ∧ (ported q).mayTrain 0 = true)
    ∧ (ported {}).rightPeer 0 1 1 false = true ∧ (ported {}).rightPeer 0 2 1 false = false
    ∧ (ported {}).rightPeer 0 1 1 true = false
    ∧ (ported { state := .down, failures := 1 }).mayTrain 0 = true
    ∧ ((ported { upPort with state := .degraded }).port 0).state.usable = true
    ∧ ((ported upPort).port 0).state ≠ .disabled ∧ ((ported upPort).port 0).state ≠ .failed := by decide +kernel

/-! ### The host and Gotre -/

/-- A read of host memory that waits for its data. -/
def read7 : HostRead := { tag := 7, core := 0, addr := 64, bytes := 4 }

theorem test_occasion_apertures :
    held.clocked = true ∧ holdingOfFn 0 = none ∧ holdingOfFn 1 = some 0 ∧ holdingOfFn 8 = some 7
    ∧ (held.holding 7).servesBar4 = false ∧ (held.holding 0).servesBar4 = true
    ∧ ((({ dev := held } : Run).read (ctlAgent 0) 0 32).2).wait = false
    ∧ ((({ dev := held } : Run).read (ctlAgent 0) 4096 32).2).wait = false
    ∧ (({ held with hostReads := [read7] } : Dev).hostReads.find? fun q => q.tag == 7) = some read7
    ∧ (List.replicate 4 (⟨1, false⟩ : PByte)).length = read7.bytes
    ∧ held.inBar4 0 32 = true ∧ held.inBar4 4096 32 = true ∧ held.inBar4 (2 ^ 52 - 1) 32 = false := by decide +kernel

/-- Gotre restarts, with its image in the copy or with none. -/
def copied (good : Bool) : State :=
  st { held with gotre := { held.gotre with up := false, copy := if good then some (held.activeImage 1) else none } }

theorem test_occasion_restart : (copied true).dev.copyGood = true ∧ (copied false).dev.copyGood = false := by
  constructor <;> simp [copied, st, Dev.copyGood, Dev.activeImage]

theorem test_occasion_watchdog :
    held.gotre.stopped = false ∧ held.gotre.deviceState = .ready ∧ held.gotreRuns = true
    ∧ ({ held.gotre with up := false } : Gotre).up = false ∧ held.clocked = true
    ∧ 3 ≤ ((([0, 1] : List Word64) ++ [held.dt]).filter fun t => decide ((held.dt - t).toNat < tenSeconds)).length + 1 := by
  decide +kernel

/-- A mailbox of 16 command slots and 16 completion slots. -/
def box0 : Mailbox := { enable := true, cmdLog2 := 4, cplLog2 := 4, cmdBase := 0x10000, cplBase := 0x20000 }
def boxed (b : Mailbox) (d : Dev) : Dev := { d with boxes := [(boxKey 0 1, b)] }

/-- A command of Gotre: its opcode, its HOLDING and PARAMS bits, and its block. -/
def jobOf (op hold : Nat) (params : BitVec 320) (addr : Word64) (words : Nat) : Job :=
  { number := 5, fn := 0, mb := 1, seq := 0
    words := params ++ (addr ++ (BitVec.ofNat 64 words ++ BitVec.ofNat 64 (op + hold * 65536)))
    phase := .accepted, exempt := false, discard := false }

/-- The module with one command whose turn has come. -/
def withJob (j : Job) (d : Dev) : Dev := { d with gotre := { d.gotre with jobs := [j], nextJob := 6 } }

theorem test_occasion_mailboxes :
    held.hostCut = false ∧ (boxed box0 held).box 0 1 = box0
    ∧ (((16 : Word32) - box0.acceptSeq).toNat ≤ ringSize box0.cmdLog2) ∧ ((16 : Word32) - box0.acceptSeq).toNat < 0x80000000
    ∧ ringSize box0.cmdLog2 < ((17 : Word32) - box0.acceptSeq).toNat
    ∧ (let b : Mailbox := { box0 with cplHead := 3, cplNext := 5 }
       ((5 : Word32) - b.cplHead).toNat ≤ (b.cplNext - b.cplHead).toNat
        ∧ (b.cplNext - b.cplHead).toNat < ((6 : Word32) - b.cplHead).toNat
        ∧ (b.cplNext - b.cplHead).toNat < ((2 : Word32) - b.cplHead).toNat)
    ∧ ({ box0 with enable := false } : Mailbox).enable = false
    ∧ (∃ j ∈ (withJob (jobOf 1 255 0 0 0) held).gotre.jobs, j.fn = 0 ∧ j.mb = 1) := by decide +kernel

/-- A completion that waits for mailbox 1 of the PF. -/
def cpl0 : Completion := (jobOf 1 255 0 0 0).completion true .ok 0
def posting (b : Mailbox) : Dev := boxed b { held with gotre := { held.gotre with waiting := [cpl0] } }

theorem test_occasion_acceptance_and_posting :
    (let b : Mailbox := { box0 with cmdTail := 1 }
     (boxed b held).boxServed 0 1 = true ∧ b.enable = true ∧ b.closing = false ∧ b.ringFault = false ∧ b.acceptSeq ≠ b.cmdTail
      ∧ (boxed b held).gotre.jobs.length < journalRoom)
    ∧ (posting { box0 with cplNext := 15 }).nextCompletion 0 1 = some cpl0 ∧ (posting box0).boxServed 0 1 = true
    ∧ (({ box0 with cplNext := 15 } : Mailbox).cplNext - box0.cplHead).toNat < ringSize box0.cplLog2
    ∧ (posting { box0 with cplNext := 16 }).nextCompletion 0 1 = some cpl0
    ∧ ringSize box0.cplLog2 ≤ (({ box0 with cplNext := 16 } : Mailbox).cplNext - box0.cplHead).toNat := by decide +kernel

/-- Queue 0 of the holding, with a ring of 64 slots. -/
def cmdQueue : Queue := { state := .bound, holding := some 0, ringVa := 0, headVa := 64, tailVa := 128, log2 := 6, accepted := 3, recorded := 2 }
def queued (q : Queue) : Dev := { held with queues := [(0, q)] }

theorem test_occasion_queues :
    let halted : Queue := { cmdQueue with state := .halted, refused := 2 }
    let polled : Queue := { cmdQueue with tailSrc := true, accepted := 0, recorded := 0 }
    (queued cmdQueue).hostCut = false ∧ ((queued cmdQueue).holding 0).state = .enabled ∧ cmdQueue.state ≠ .free
    ∧ ((66 : Word32) - cmdQueue.accepted).toNat < 0x80000000 ∧ ((66 : Word32) - cmdQueue.recorded).toNat ≤ 2 ^ cmdQueue.log2
    ∧ 2 ^ cmdQueue.log2 < ((67 : Word32) - cmdQueue.recorded).toNat ∧ 0x80000000 ≤ ((2 : Word32) - cmdQueue.accepted).toNat
    ∧ (queued halted).queue 0 = halted
    ∧ (let r := ({ dev := queued polled } : Run).read { ctlAgent 0 with cls := .latency } polled.tailVa 4
       let e := joinBytes r.1
       r.2.wait = false ∧ e.poison = false ∧ (BitVec.ofNat 32 e.bits - polled.accepted).toNat < 0x80000000
        ∧ (BitVec.ofNat 32 e.bits - polled.recorded).toNat ≤ 2 ^ polled.log2)
    ∧ (queued cmdQueue).headWord 0 0 ≠ cmdQueue.reported
    ∧ (queued cmdQueue).writeWaits (ctlAgent 0) cmdQueue.headVa 8 = false ∧ ({ cmdQueue with unreported := 1 } : Queue).unreported ≠ 0 := by
  decide +kernel

/-- Holding 0 shuts down, or aborts, or sweeps. -/
def ending (x : Holding) : Dev := { queued cmdQueue with holdings := [(0, x)] }
def drained : Queue := { cmdQueue with recorded := 3 }

theorem test_occasion_function_changes :
    (let s : Dev := { ending { hold0 with state := .shuttingDown, disables := [5], drainEnd := some 100 } with queues := [(0, drained)] }
     s.clocked = true ∧ s.queuesBusy 0 = false ∧ s.flitsOut 0 = false ∧ s.boxBusy 0 = false ∧ reached s.dt 100 = false)
    ∧ ((ending { hold0 with state := .shuttingDown, drainEnd := some 100 }).holding 0).drainEnd = some 100
    ∧ (vfOf 0 = 1) ∧ held.gotre.deviceState ≠ .ended ∧ held.pcieUp = true ∧ held.fullSurvey = false ∧ (2 : Word32) ≠ hold0.epoch.setWidth 32
    ∧ ((ending { hold0 with state := .aborting }).holding 0).pendingEnable = false
    ∧ ((ending { hold0 with sweep := true }).holding 0).state ≠ .aborting
    ∧ (ending { hold0 with sweep := true }).clocked = true := by decide +kernel

/-! ### Gotre's commands -/

/-- A field of PARAMS from bit `lo` on. -/
def pf (lo v : Nat) : BitVec 320 := BitVec.ofNat 320 (v * 2 ^ lo)

/-- What jobReady asks, as a test that evaluates. -/
def ready (s : Dev) (n op : Nat) (j : Job) : Bool :=
  s.job n == some j && j.number == n && s.boxServed j.fn j.mb && j.phase == .accepted && !j.discard && !s.heldUp j
    && !s.slotsFull && !s.inRecovery && j.op == op && s.power.state == .run && !s.power.transition && (s.commonCheck j).isNone

theorem ready_sound {s : Dev} {n op : Nat} {j : Job} (h : ready s n op j = true) : s.jobReady n op j := by
  simp only [ready, Bool.and_eq_true, beq_iff_eq, Bool.not_eq_true', Option.isNone_iff_eq_none] at h
  exact ⟨h.1.1.1.1.1.1.1.1.1.1.1, h.1.1.1.1.1.1.1.1.1.1.2, h.1.1.1.1.1.1.1.1.1.2, h.1.1.1.1.1.1.1.1.2, h.1.1.1.1.1.1.1.2,
    h.1.1.1.1.1.1.2, h.1.1.1.1.1.2, h.1.1.1.1.2, h.1.1.1.2, h.1.1.2, h.1.2, h.2⟩

/-- The holding's module with one command of the PF, whose turn has come. -/
def jobOn (d : Dev) (op hold : Nat) (params : BitVec 320) : Job × Dev :=
  (jobOf op hold params 0x40000 4096, withJob (jobOf op hold params 0x40000 4096) d)
def isReady (x : Job × Dev) (op : Nat) : Bool := ready x.2 5 op x.1

theorem test_occasion_queries :
    isReady (jobOn held 0x0001 255 0) 0x0001 = true ∧ isReady (jobOn held 0x0002 255 0) 0x0002 = true
    ∧ isReady (jobOn held 0x0090 255 (pf 0 7)) 0x0090 = true ∧ isReady (jobOn held 0x0091 255 0) 0x0091 = true
    ∧ isReady (jobOn held 0x00C0 255 (pf 0 0)) 0x00C0 = true ∧ isReady (jobOn held 0x00C0 255 (pf 0 8)) 0x00C0 = true
    ∧ (jobOf 0x00C0 255 0 0x40000 4096).blockAddr.setWidth 6 = (0 : BitVec 6)
    ∧ (held.holding 0).recordFor 0 = none ∧ seesHolding 0 0 = true ∧ seesHolding 2 0 = false := by decide +kernel

/-- A VF asks for the record of a holding that is not its own. -/
def foreignQuery : Job := { jobOf 0x00C0 255 0 0x40000 4096 with fn := 2 }
def otherOpen : Dev := { held with holdings := [(0, hold0), (1, { state := .enabled })] }

theorem test_occasion_foreign_query :
    ready (withJob foreignQuery otherOpen) 5 0x00C0 foreignQuery = true ∧ foreignQuery.param 7 0 = (0 : HoldId).val := by
  decide +kernel

/-- The record that holding 0 keeps of step 3. -/
def recorded : Dev := held.modHolding 0 fun x => { x with step := 4, records := [{ step := 3, bytes := [1, 2, 3] }] }

theorem test_occasion_records :
    isReady (jobOn recorded 0x00C0 255 (pf 8 3)) 0x00C0 = true ∧ isReady (jobOn recorded 0x00C0 255 (pf 8 0xFFFFFFFF)) 0x00C0 = true
    ∧ (recorded.holding 0).recordFor 3 = some { step := 3, bytes := [1, 2, 3] }
    ∧ (recorded.holding 0).recordFor 0xFFFFFFFF = some { step := 3, bytes := [1, 2, 3] } := by decide +kernel

/-- HOLDING_OPEN of holding 1: core 9, a region of each tier, four queues. -/
def openParams : BitVec 320 := pf 9 1 + pf 256 1 + pf 267 1 + pf 277 4
def disabled0 : Dev := held.modHolding 0 fun x => { x with state := .disabled }

/-- The root table of holding 0, enabled or disabled, lies on a channel that retrains, so that the word of queue 0 waits. -/
def stuckHeads (off : Bool) : Dev :=
  let d := (queued cmdQueue).modHolding 0 fun x => { x with stages := [], state := if off then .disabled else x.state }
  d.modStack (d.place 0).stack fun k => { k with retraining := true, channel := Fin.ofNat 32 (d.place 0).channel }

theorem test_occasion_heads :
    (disabled0.headsFree 0).isSome = true ∧ ((queued cmdQueue).headFree 0 0).isSome = true
    ∧ isReady (jobOn (stuckHeads true) 0x0011 0 0) 0x0011 = true ∧ (jobOn (stuckHeads true) 0x0011 0 0).2.headsFree 0 = none
    ∧ isReady (jobOn (stuckHeads false) 0x0021 0 0) 0x0021 = true ∧ (jobOn (stuckHeads false) 0x0021 0 0).2.headFree 0 0 = none := by
  decide +kernel

theorem test_occasion_holdings :
    isReady (jobOn held 0x0010 1 openParams) 0x0010 = true ∧ (jobOf 0x0010 1 openParams 0x40000 4096).holding? = some 1
    ∧ (held.holding 1).state = .closed ∧ held.coreFree 9 = true
    ∧ (∀ c < 256, openParams.getLsbD c = true → c = 9) ∧ 1 ≤ (held.freeRegions 0).length ∧ 1 ≤ (held.freeRegions 1).length
    ∧ isReady (jobOn disabled0 0x0011 0 0) 0x0011 = true ∧ (disabled0.holding 0).state = .disabled
    ∧ isReady (jobOn disabled0 0x0012 0 0) 0x0012 = true ∧ (disabled0.holding 0).sweep = false
    ∧ isReady (jobOn held 0x0013 0 (pf 0 5)) 0x0013 = true ∧ isReady (jobOn held 0x0014 0 0) 0x0014 = true
    ∧ (held.holding 0).state = .enabled := by decide +kernel

/-- MAP_MEMORY of two small pages of host memory; the same over a page that is mapped; one page of the near tier. -/
def mapHost : BitVec 320 := pf 0 0x1000000 + pf 52 0x8000 + pf 116 8192 + pf 160 2 + pf 162 1
def mapOver : BitVec 320 := pf 0 0 + pf 52 0x8000 + pf 116 8192 + pf 160 2 + pf 162 1 + pf 165 1
def mapNear : BitVec 320 := pf 0 4096 + pf 116 4096 + pf 162 1 + pf 163 1
def withRegion : Dev := held.modHolding 0 fun x => { x with nearRegions := [3], queueLimit := 2 }

/-- The module with a MAP_MEMORY command; the pages that a mapping of an address touches. -/
def mapping (d : Dev) (ps : BitVec 320) : Dev := (jobOn d 0x0030 0 ps).2
def touched (d : Dev) (va n : Nat) : List Page := (d.pageList 0).filter fun p => p.touches va n

theorem test_occasion_mapping :
    isReady (jobOn held 0x0030 0 mapHost) 0x0030 = true ∧ isReady (jobOn held 0x0030 0 mapOver) 0x0030 = true
    ∧ isReady (jobOn withRegion 0x0030 0 mapNear) 0x0030 = true ∧ (held.holding 0).sweep = false
    ∧ held.tablesQuiet 0 = false ∧ withRegion.tablesQuiet 0 = false
    ∧ (∀ p ∈ (mapping held mapHost).pageList 0, p.touches 0x1000000 8192 = false)
    ∧ ((mapping held mapHost).addPages 0 0 2 true false false 0x1000000 [8, 9]).isSome = true
    ∧ touched (mapping held mapOver) 0 8192 ≠ []
    ∧ (∀ p ∈ touched (mapping held mapOver) 0 8192, p.inside 0 8192 = true) ∧ (mapping held mapOver).quiet 0 = true
    ∧ ((((mapping held mapOver).dropPages 0 (touched (mapping held mapOver) 0 8192)).nextGeneration 0).addPages 0 0 2 true false false 0
        [8, 9]).isSome = true
    ∧ isReady (jobOn held 0x0031 0 (pf 52 4096)) 0x0031 = true
    ∧ (((jobOn held 0x0031 0 (pf 52 4096)).2.pageList 0).filter fun p => p.touches 0 4096).map (·.size) = [4096] := by
  decide +kernel

/-- Which frame a mapping takes is free: whatever the free value, one is found while the region has one, and the tables
of the page beside page 0 stand. -/
theorem findFrom_first (ok : Nat → Bool) (n start k : Nat) (h : ∀ i, ok i = true) : ∃ i, findFrom ok n start (k + 1) = some i := by
  simp [findFrom, h]

theorem findFrom_all (ok : Nat → Bool) (n start : Nat) (h : ∀ i, ok i = true) (hn : 0 < n) :
    ∃ i, findFrom ok n start n = some i := by
  obtain ⟨k, rfl⟩ := Nat.exists_eq_succ_of_ne_zero (Nat.pos_iff_ne_zero.mp hn)
  exact findFrom_first ok _ start k h

theorem apart (a : Nat) (h : a < 262144 ∨ 262145 ≤ a) : (!anyOverlap [(a, 1)] [(262144, 1)]) = true := by
  rcases h with h | h <;> simp [anyOverlap, overlap] <;> omega

theorem in_region (i : Nat) :
    nthD [3] (i / 262144) 0 * 262144 + i % 262144 < 262144 ∨ 262145 ≤ nthD [3] (i / 262144) 0 * 262144 + i % 262144 := by
  rcases Nat.eq_zero_or_pos (i / 262144) with h0 | h0
  · right
    rw [h0]
    exact Nat.le_trans (by decide) (Nat.le_add_right _ _)
  · left
    obtain ⟨k, hk⟩ := Nat.exists_eq_succ_of_ne_zero (Nat.pos_iff_ne_zero.mp h0)
    have hz : nthD [3] (k + 1) 0 = 0 := by simp [nthD]
    rw [hk, hz, Nat.zero_mul, Nat.zero_add]
    exact Nat.mod_lt _ (by decide)

theorem pickFrame_finds (s : Dev) (x : Holding) (used : List (Nat × Nat)) (rs : List Nat) (per n size : Nat)
    (hr : (x.nearRegions.filter fun r => (s.region 0 r).valid && !(s.region 0 r).degraded) = rs)
    (hper : regionBlocks / size = per) (hn : rs.length * per = n) (h0 : 0 < n)
    (h : ∀ i, (!anyOverlap [(tierBase 0 / 4096 + nthD rs (i / per) 0 * regionBlocks + i % per * size, size)] used) = true) :
    ∃ f, s.pickFrames x 0 size 1 used = (some [f], s.takeFree.2) := by
  simp only [Dev.pickFrames, Dev.pickFrame, if_true, hr, hper, hn]
  obtain ⟨i, hi⟩ := findFrom_all _ n (s.takeFree.1.toNat % max n 1) h h0
  rw [hi]
  exact ⟨_, rfl⟩

theorem free_in_region (i : Nat) :
    (!anyOverlap [(tierBase 0 / 4096 + nthD [3] (i / 262144) 0 * regionBlocks + i % 262144 * 1, 1)] [(262144, 1)]) = true := by
  have hb : regionBlocks = 262144 := by decide
  have ht : tierBase 0 / 4096 = 0 := by decide
  rw [hb, ht, Nat.zero_add, Nat.mul_one]
  exact apart _ (in_region i)

theorem addPages_beside (s : Dev) (r q : Nat × Dev) (f : Nat) (hr : s.rootTable 0 = some r)
    (hq : r.2.reachTable 0 4096 0 3 r.1 = some q) : ∃ d, s.addPages 0 0 0 true true false 4096 [f] = some d := by
  simp [Dev.addPages, Dev.putLeaf, hr, hq]

theorem test_occasion_frame :
    let s := mapping withRegion mapNear
    ∃ fs d d', s.pickFrames (s.holding 0) 0 1 1 (s.framesUsed 0) = (some fs, d)
      ∧ d.addPages 0 0 0 true true false 4096 fs = some d' := by
  intro s
  have hu : s.framesUsed 0 = [(262144, 1)] := by decide +kernel
  have hr : ((s.holding 0).nearRegions.filter fun r => (s.region 0 r).valid && !(s.region 0 r).degraded) = [3] := by
    decide +kernel
  have h1 : s.takeFree.2.rootTable 0 = some (0, s.takeFree.2) := by decide +kernel
  have h2 : (s.takeFree.2.reachTable 0 4096 0 3 0).isSome = true := by decide +kernel
  obtain ⟨q, hq⟩ := Option.isSome_iff_exists.mp h2
  obtain ⟨f, hf⟩ := pickFrame_finds s (s.holding 0) [(262144, 1)] [3] 262144 262144 1 hr (by decide) (by decide) (by decide)
    free_in_region
  obtain ⟨d, hd⟩ := addPages_beside s.takeFree.2 (0, s.takeFree.2) q f h1 hq
  rw [hu]
  exact ⟨[f], s.takeFree.2, d, hf, hd⟩

def queueParams : BitVec 320 := pf 0 0 + pf 52 64 + pf 104 128 + pf 156 6 + pf 161 1

theorem test_occasion_work_queues :
    isReady (jobOn withRegion 0x0020 0 queueParams) 0x0020 = true ∧ (withRegion.queuesOf 0).length < (withRegion.holding 0).queueLimit
    ∧ withRegion.mapped 0 0 4096 false = true ∧ withRegion.mapped 0 64 8 true = true
    ∧ withRegion.mapped 0 128 4 false = true ∧ (withRegion.queue 65535).state = .free
    ∧ (withRegion.queues.filter fun q => q.2.state != .free && q.2.tailSrc).length < 256
    ∧ isReady (jobOn (queued cmdQueue) 0x0021 0 0) 0x0021 = true ∧ ((queued cmdQueue).holding 0).stageNaming 0 = some 1
    ∧ (let d := (queued cmdQueue).modHolding 0 fun x => { x with stages := [] }
       isReady (jobOn d 0x0021 0 0) 0x0021 = true ∧ (d.holding 0).stageNaming 0 = none) := by decide +kernel

/-- A parameter block: its counts and its words after word 0; and a command that names it. -/
def blockOf (n1 n2 : Nat) (ws : List Nat) : BlockRead :=
  .words ((BitVec.ofNat 64 (0x0100000000000000 + n1 + n2 * 0x1000000)) :: ws.map (BitVec.ofNat 64))
def blockJob (op : Nat) (ws : List Nat) : Job := jobOf op 0 0 0x40000 (ws.length + 1)
def parsed (op : Nat) (b : BlockShape) (n1 n2 : Nat) (ws : List Nat) : Bool :=
  match (blockJob op ws).block b (blockOf n1 n2 ws) with
  | .ok _ => true
  | .error _ => false
def blockReady (d : Dev) (op : Nat) (ws : List Nat) : Bool := ready (withJob (blockJob op ws) d) 5 op (blockJob op ws)

/-- The holding with group 0 of devices 0 and 1, a policy of it, a home queue, and a second page in the far tier; the
list 0, 1 of 16-bit numbers at address 0, and a whole bitmap at address 256. -/
def hq (n : Nat) : HomeQueue :=
  { queue := n, layer := 1, global := 7, nbuf := 1, queueVa := 0, queueRows := 4, spillVa := 0, spillRows := 2, originVa := 0
    capacity := 4, spillCapacity := 0, routed := 0, accepted := 0, overflowed := 0, returned := 0, held := [] }
def tabled : Dev :=
  { held with
    holdings := [(0, { hold0 with collectives := [(0, some pair0)], queues := [hq 5] })]
    tags := tableTags ++ [(frame0, some tag0), (0x20000000, some tag0)]
    mem := tables0 leaf0 ++ leafCells 1 (pteOf 1 true true false 0x20000000) ++
      [(pa0 + 2, 1), (pa0 + 256, 0x33), (pa0 + 257, 0xCC)]
    queues := [(0, { cmdQueue with accepted := 2 })] }

def stageWords : List Nat := [2, 0, 0, 0x100, 0x100, 0x100, 0, 16, 0, 1, 0, 1, 2, 0, 0, 0, 0]
def policyWords (anchor n va : Nat) : List Nat := [0, 9, 64, 0, 0, anchor, n, va, 1, 2, 1, 1, 1024, 0, 2048]
def expertWords : List Nat := [3, 1, 0, 1, 1, 512, 0, 5 + 195, 0, 1, 1024, 1, 2048, 0, 3072]
def updateWords : List Nat :=
  [0, 7, 1, 0, 9, 0, 64, 2, 0, 3, 5, 0, 0, 0, 64, 1, 0, 0, 0, 4096, 0, 0, 0, 3, 1, 2, 3, 4, 5, 6, 7]

theorem test_occasion_program_and_stages :
    blockReady tabled 0x0040 [5] = true ∧ parsed 0x0040 ⟨1, 5, 8⟩ 0 0 [5] = true
    ∧ blockReady (queued cmdQueue) 0x0040 [5] = true
    ∧ ((queued cmdQueue).queue 0).accepted ≠ ((queued cmdQueue).queue 0).recorded
    ∧ (∀ q ∈ tabled.queuesOf 0, (tabled.queue q).accepted = (tabled.queue q).recorded)
    ∧ (hold0.loadBad { fixed := [5], list1 := [], list2 := [] }) = false
    ∧ blockReady tabled 0x0041 stageWords = true ∧ parsed 0x0041 ⟨0, 17, 5⟩ 1 0 stageWords = true
    ∧ tabled.stagesBad 0 [stageOfWords stageWords] [] = false
    ∧ (stageOfWords stageWords).gradCount = 0 ∧ tabled.mappedRw 0 (stageOfWords stageWords).logVa 4096 = true
    ∧ (∀ g ∈ (tabled.holding 0).stages, g.runsOn.isSome = true) := by decide +kernel

/-- A program with a counter of LIMIT 4 and a group of cores 0 and 1; one whose step is no number of 32 bits. -/
def loadWords : List Nat := [5, 0, 9, 4, 0xFF, 0, 0, 0, 0, 1, 3, 2, 0, 256, 0, 0, 0]
def loadBlock : Block := { fixed := [5], list1 := [], list2 := [[0, 9, 4, 0xFF, 0, 0, 0, 0], [1, 3, 2, 0, 256, 0, 0, 0]] }

theorem placeCounters_finds (s : Dev) (use : Nat → Nat) (q : Nat × Nat × Nat) (m : Nat) (hu : use 0 < 512)
    (hm : s.mirrorDie 0 = some m) (hum : use m < 512) : ∃ k, s.placeCounters [0] use [q] = (some [k], s.takeFree.2) := by
  simp [Dev.placeCounters, hu, hm, hum, nthD, Nat.mod_one]

theorem test_occasion_program :
    let s := withJob (blockJob 0x0040 loadWords) tabled
    blockReady tabled 0x0040 loadWords = true
    ∧ (match (blockJob 0x0040 loadWords).block ⟨1, 5, 8⟩ (blockOf 0 2 loadWords) with | .ok b => b == loadBlock | .error _ => false)
        = true
    ∧ (∀ q ∈ s.queuesOf 0, (s.queue q).accepted = (s.queue q).recorded)
    ∧ (s.holding 0).loadBad loadBlock = false ∧ (s.holding 0).poisonUsed = false ∧ (s.holding 0).waiting = []
    ∧ (s.holding 0).loadBad { loadBlock with fixed := [0x100000000] } = true
    ∧ ∃ ks d, s.placeCounters ((dedup ((s.holding 0).cores.map (· / 8))).filter fun k => !(s.die k).fenced) (s.tallyUse 0)
        ((loadBlock.list2.filter fun r => wd r 0 == 0).map fun r => (wd r 1, wd r 2, wd r 3)) = (some ks, d) := by
  intro s
  have h : ((dedup ((s.holding 0).cores.map (· / 8))).filter fun k => !(s.die k).fenced) = [0]
      ∧ ((loadBlock.list2.filter fun r => wd r 0 == 0).map fun r => (wd r 1, wd r 2, wd r 3)) = [(9, 4, 0xFF)]
      ∧ s.tallyUse 0 0 < 512 ∧ s.mirrorDie 0 = some 1 ∧ s.tallyUse 0 1 < 512 := by decide +kernel
  obtain ⟨k, hk⟩ := placeCounters_finds s (s.tallyUse 0) (9, 4, 0xFF) 1 h.2.2.1 h.2.2.2.1 h.2.2.2.2
  refine ⟨by decide +kernel, by decide +kernel, by decide +kernel, by decide +kernel, by decide +kernel, by decide +kernel,
    by decide +kernel, [k], s.takeFree.2, ?_⟩
  rw [h.1, h.2.1]
  exact hk

/-- A list that a command reads is answered, and holds no poison. -/
def listGood (d : Dev) (va n : Nat) : Bool :=
  d.mapped 0 va n false && (match d.readList 0 va n with | some (bs, _) => !bs.any (·.poison) | none => false)

def groupParams : BitVec 320 := pf 0 4 + pf 8 2 + pf 25 0

theorem test_occasion_groups_and_policies :
    isReady (jobOn tabled 0x0050 0 groupParams) 0x0050 = true ∧ listGood tabled 0 4 = true
    ∧ (match tabled.readList 0 0 4 with | some (bs, _) => numbersOf 2 bs | none => []) = [0, 1]
    ∧ repeats [0, 1] = false ∧ ([0, 1] : List Nat).contains tabled.number.toNat = true
    ∧ blockReady tabled 0x0051 (policyWords 0 0 0) = true ∧ parsed 0x0051 ⟨15, 0, 0⟩ 0 0 (policyWords 0 0 0) = true
    ∧ Tab.get none (tabled.holding 0).ahead.collectives 0 = some pair0 ∧ policyBad (policyWords 0 0 0) pair0 = false
    ∧ tabled.policyDenied 0 (policyOf (policyWords 0 0 0)) pair0 = false
    ∧ blockReady tabled 0x0051 (policyWords 1 2 0) = true ∧ policyBad (policyWords 1 2 0) pair0 = false
    ∧ (∀ a ∈ [0, 1], a < pair0.members.length)
    ∧ tabled.policyDenied 0 { policyOf (policyWords 1 2 0) with anchors := [0, 1] } pair0 = false := by
  decide +kernel

theorem test_occasion_experts_and_capacities :
    blockReady tabled 0x0060 expertWords = true ∧ parsed 0x0060 ⟨7, 8, 0⟩ 1 0 expertWords = true
    ∧ expertsBad expertWords [expertWords.drop 7] = false ∧ listGood tabled 512 8 = true
    ∧ (match tabled.readList 0 512 8 with | some (bs, _) => numbersOf 8 bs | none => []) = [0]
    ∧ (expertOf 0).home = tabled.number ∧ (homeQueueOf 3 (expertWords.drop 7)).queue ≠ (hq 5).queue
    ∧ (homeQueueOf 3 (expertWords.drop 7)).global ≠ (hq 5).global
    ∧ tabled.queueDenied 0 32 0 (homeQueueOf 3 (expertWords.drop 7)) = false
    ∧ isReady (jobOn tabled 0x0061 0 (pf 0 5 + pf 12 1 + pf 25 512)) 0x0061 = true ∧ listGood tabled 512 4 = true
    ∧ ((tabled.holding 0).ahead.queues.find? fun q => q.queue == 5) = some (hq 5) := by decide +kernel

theorem test_occasion_updates_and_digests :
    blockReady tabled 0x0063 updateWords = true ∧ parsed 0x0063 ⟨1, 22, 8⟩ 1 1 updateWords = true
    ∧ updateBad (tabled.holding 0).ahead ((updateWords.drop 1).take 22) = false
    ∧ tabled.entryDenied 0 (entryOf ((updateWords.drop 1).take 22)) = false
    ∧ (words32 (updateWords.drop 23) [1, 2, 3, 4, 5, 6, 7]) = true
    ∧ blockReady tabled 0x00D0 [0, 1, 5, 1, 1, 512] = true ∧ parsed 0x00D0 ⟨6, 0, 0⟩ 0 0 [0, 1, 5, 1, 1, 512] = true
    ∧ listGood tabled 512 16 = true
    ∧ (match tabled.readList 0 512 16 with | some (bs, _) => (cutWords 2 1 (numbersOf 8 bs)).map digestRange | none => []) = [(0, 0, 0)] := by
  decide +kernel

/-! ### Masks and mirrors -/

def maskWords (bitmap src : Nat) : List Nat := [1, 1, 4, 4, bitmap, src, 0, 1024, 2048, 3072]

theorem test_occasion_masks :
    (∀ ws ∈ [maskWords 256 0, maskWords 512 0, maskWords 256 512],
      blockReady tabled 0x0062 ws = true ∧ parsed 0x0062 ⟨10, 0, 0⟩ 0 0 ws = true ∧ maskBad ws = false)
    ∧ (∀ va ∈ [256, 512], listGood tabled va 2 = true) ∧ tabled.mapped 0 2048 3 true = true
    ∧ ({ kind := 1, rows := 4, cols := 4, bits := 0xCC33 } : MaskSource).fault = none
    ∧ ({ kind := 1, rows := 4, cols := 4, bits := 0 } : MaskSource).fault = some (resultOf 0 0 0 0)
    ∧ ({ kind := 1, rows := 4, cols := 4, bits := 0xFFFF } : MaskSource).fault = some (resultOf 0 0 0 1)
    ∧ (match tabled.readList 0 256 2 with | some (bs, _) => leNat (bs.map (·.val)) | none => 0) = 0xCC33 := by decide +kernel

def mirrorWords (op buddy every first n : Nat) : List Nat := [op, buddy, 0, every, first, n]
def served : MirrorServe := { buddy := 5, firstRegion := 7, regions := 0, complete := none }
def send5 : MirrorSend := { buddy := 5, every := 1, ranges := [(0, 4096)], running := false, step := 0, slot := 0 }
def sending (d : Dev) : Dev := d.modHolding 0 fun x => { x with mirrorSend := some send5 }

theorem test_occasion_mirrors :
    blockReady tabled 0x00E0 (mirrorWords 0 5 0 767 1) = true ∧ parsed 0x00E0 ⟨6, 2, 0⟩ 0 0 (mirrorWords 0 5 0 767 1) = true
    ∧ tabled.serveAt 5 = none ∧ (tabled.freeRegions 1).contains 767 = true ∧ tabled.number.toNat ≠ 5
    ∧ blockReady tabled 0x00E0 (mirrorWords 1 5 65535 0 0 ++ [0, 4096]) = true
    ∧ parsed 0x00E0 ⟨6, 2, 0⟩ 1 0 (mirrorWords 1 5 65535 0 0 ++ [0, 4096]) = true
    ∧ rangesBad [(0, 4096)] = false ∧ tabled.mapped 0 0 4096 false = true ∧ tabled.mapped 0 0 4096 true = true
    ∧ blockReady tabled 0x00E0 (mirrorWords 2 5 0 0 0 ++ [0, 4096]) = true
    ∧ blockReady (sending tabled) 0x00E0 (mirrorWords 3 5 0 0 0) = true ∧ ((sending tabled).holding 0).mirrorSend = some send5
    ∧ blockReady { tabled with serves := [(5, some served)] } 0x00E0 (mirrorWords 3 5 0 0 0) = true := by decide +kernel

/-! ### Clocks and power -/

def powered (w : Power) : Dev := { held with power := w }
def idleQueues : Dev := { held with holdings := [(0, { hold0 with state := .disabled })] }

theorem test_occasion_power_commands :
    isReady (jobOn held 0x00A1 255 (pf 0 1500)) 0x00A1 = true ∧ isReady (jobOn held 0x00A1 255 (pf 0 3300)) 0x00A1 = true
    ∧ isReady (jobOn held 0x00A1 255 (pf 0 1499)) 0x00A1 = true ∧ isReady (jobOn held 0x00A1 255 (pf 0 3301)) 0x00A1 = true
    ∧ (∀ v ∈ [0, 1, 2, 3, 4, 5, 7], isReady (jobOn idleQueues 0x00A0 255 (pf 0 v)) 0x00A0 = true)
    ∧ (jobOn idleQueues 0x00A0 255 (pf 0 1)).2.refusers 1 = [] ∧ idleQueues.refusers 8 = [] ∧ idleQueues.refusers 9 = []
    ∧ ((targetReasons .sleep).flatMap (jobOn idleQueues 0x00A0 255 (pf 0 2)).2.refusers) = []
    ∧ ((targetReasons .fallow).flatMap (jobOn idleQueues 0x00A0 255 (pf 0 3)).2.refusers) = []
    ∧ ((targetReasons .off).flatMap (jobOn idleQueues 0x00A0 255 (pf 0 4)).2.refusers) ≠ []
    ∧ ((targetReasons .idle).flatMap (jobOn (queued cmdQueue) 0x00A0 255 (pf 0 1)).2.refusers) ≠ [] := by decide +kernel

theorem test_occasion_power_changes :
    (let s := powered { transition := true, target := .sleep, job := some 5 }
     s.power.transition = true ∧ s.power.state = .run ∧ s.power.job = some 5 ∧ s.gotreRuns = true ∧ s.survey.waiting = []
      ∧ s.pins.inputPower = true ∧ s.pins.resetting = 0 ∧ s.pins.perst = false)
    ∧ wakes .sleep .pin = true ∧ wakes .off .pin = true ∧ wakes .run .pin = false ∧ wakes .fallow .command = false
    ∧ (∀ st ∈ [PowerState.idle, .sleep, .fallow, .off],
      let s := powered { transition := true, target := st, state := st }
      s.power.transition = true ∧ s.power.state = st ∧ s.survey.waiting = []) := by decide +kernel

def unpowered : Dev := { held with pins := { held.pins with inputPower := false } }

theorem test_occasion_power_sample :
    held.keeperUp = true ∧ held.power.overdrawn = false ∧ held.power.limit < 3001
    ∧ (powered { overdrawn := true, underSamples := 99 }).keeperUp = true
    ∧ (powered { limit := 1500, ratio := 47 }).power.ratio < 48 ∧ (powered { limit := 1500, ratio := 47 }).keeperUp = true
    ∧ unpowered.keeperUp = false := by decide +kernel

/-- The four cases of a limiter step: a mean below 97 % of the limit, the 9th and the 10th millisecond at the floor, and a
mean between; and a keeper without power. -/
theorem test_occasion_limiter :
    (∀ n ∈ [8, 9], (powered { ratio := 48, floorMs := n }).keeperUp = true ∧ (powered { ratio := 48, floorMs := n }).power.limit < 3001)
    ∧ (8 + 1 < 10 ∧ 10 ≤ 9 + 1) ∧ 2909 * 100 < 97 * held.power.limit
    ∧ 97 * held.power.limit ≤ 2910 * 100 ∧ 2910 ≤ held.power.limit ∧ (powered { ratio := 47 }).power.ratio ≠ 48
    ∧ unpowered.keeperUp = false := by decide +kernel

/-- Thresholds 10 and 20 of the droop detector of die 3, which stands at a ratio. -/
def drooping (r : Fin 3) : Dev := { held with regs := [(regAt 3 0x19000, 20 * 256 + 10)], droop := if r = 0 then [] else [(3, { ratio := r })] }

theorem test_occasion_droop :
    (∀ r : Fin 3, (drooping r).clocked = true ∧ droopDies.contains (3 : DieId).val = true ∧ (drooping r).unreachable 3 = false)
    ∧ (((drooping 0).reg (regAt 3 0x19000)).extractLsb' 0 8).toNat = 10
    ∧ (((drooping 0).reg (regAt 3 0x19000)).extractLsb' 8 8).toNat = 20
    ∧ ((drooping 1).droopOf 3).ratio = 1 ∧ ((drooping 0).droopOf 3).ratio = 0 ∧ ((drooping 2).droopOf 3).ratio ≠ 0
    ∧ ((drooping 2).droopOf 3).ratio = 2 ∧ (15 : Nat) < 20 ∧ 10 ≤ 15 ∧ (9 : Nat) < 10 ∧ droopDies.contains (40 : DieId).val = false := by
  decide +kernel

theorem test_occasion_pll :
    (let s : Dev := { powered { lastUnlock := some 0 } with dt := 939999999 }
     s.pins.inputPower = true ∧ s.power.pllLock = true ∧ s.power.state = .run ∧ (s.dt - 0).toNat < 940000000)
    ∧ (let s : Dev := { powered { lastUnlock := some 0 } with dt := 940000000 }
       940000000 ≤ (s.dt - 0).toNat)
    ∧ (powered {}).power.lastUnlock = none ∧ unpowered.pins.inputPower = false
    ∧ (let s := powered { pllLock := false }
       s.power.pllLock = false ∧ s.gotre.deviceState ≠ .ended ∧ s.pins.inputPower = true ∧ s.power.state = .run
        ∧ s.pins.resetting.val < 3 ∧ s.pins.heldHot = false) := by decide +kernel

/-! ### Maintenance -/

/-- An activity on a resource, and the module with it. -/
def act (kind res : BitVec 16) (st : ActState) : Activity :=
  { number := 1, activity := kind, resource := res, arg := 0, state := st, status := .ok, progress := 0, job := none, cancels := [] }
def served1 (a : Activity) (d : Dev) : Dev := { d with service := { activities := [a], nextActivity := 2 } }

/-- MAINT_START: its ACTIVITY and RESOURCE. -/
def maint (a r arg : Nat) : BitVec 320 := pf 0 a + pf 16 r + pf 32 arg

theorem test_occasion_maintenance :
    isReady (jobOn held 0x0070 255 (maint 4 0x2003 1)) 0x0070 = true ∧ isReady (jobOn held 0x0070 255 (maint 6 0x0009 0)) 0x0070 = true
    ∧ isReady (jobOn held 0x0070 255 (maint 4 0x2003 0)) 0x0070 = true
    ∧ isReady (jobOn (served1 (act 4 0x2003 .running) held) 0x0070 255 (maint 4 0x2003 0)) 0x0070 = true
    ∧ maintBad 4 0x2003 1 = true ∧ maintBad 6 0x0009 0 = false ∧ held.maintWrong 6 0x0009 = true
    ∧ maintBad 4 0x2003 0 = false ∧ held.maintWrong 4 0x2003 = false ∧ held.service.holder 4 0x2003 = none
    ∧ (served1 (act 4 0x2003 .running) held).service.holder 4 0x2003 = some (act 4 0x2003 .running)
    ∧ isReady (jobOn held 0x0071 255 (pf 0 1)) 0x0071 = true ∧ (held.service.recent.find? fun a => a.number == 1) = none
    ∧ ((served1 (act 4 0x2003 .running) held).service.recent.find? fun a => a.number == 1) = some (act 4 0x2003 .running) := by
  decide +kernel

/-- Stack 3 is quiesced channel by channel. -/
def quiescing (left : List (Fin 32)) : Dev :=
  (served1 (act 1 0x2003 .running) held).modStack 3 fun k => { k with retraining := true, channelsLeft := left }

theorem test_occasion_cancels :
    (let s := served1 (act 4 0x2003 .running) held
     isReady (jobOn s 0x0072 255 (pf 0 1)) 0x0072 = true ∧ s.activity 1 = some (act 4 0x2003 .running)
      ∧ (act 4 0x2003 .running).open = true ∧ s.cancellable (act 4 0x2003 .running) = true
      ∧ s.stopsLater (act 4 0x2003 .running) = false ∧ (act 4 0x2003 .running).job ≠ some 5)
    ∧ (quiescing [7]).stopsLater (act 1 0x2003 .running) = true ∧ (quiescing [7]).cancellable (act 1 0x2003 .running) = true
    ∧ isReady (jobOn (quiescing [7]) 0x0072 255 (pf 0 1)) 0x0072 = true
    ∧ (served1 (act 5 0x2003 .running) held).cancellable (act 5 0x2003 .running) = false := by decide +kernel

theorem test_occasion_activities :
    (let s := served1 (act 4 0x2003 .waiting) held
     (s.service.activities.find? fun q => q.state == .waiting) = some (act 4 0x2003 .waiting) ∧ s.gotreRuns = true
      ∧ (({ s.service with activities := s.service.activities.filter fun q => q.state == .running } : Service).holder 4 0x2003) = none)
    ∧ (let s := served1 (act 1 0x2003 .running) held
       s.runningOn 1 (stackResource 3) = some (act 1 0x2003 .running) ∧ (s.stack 3).retraining = false ∧ s.stackLost 3 = false
        ∧ maskChannels 3 0 = 0 :: (List.range 31).map fun i => Fin.ofNat 32 (i + 1))
    ∧ (quiescing [7]).runningOn 1 (stackResource 3) = some (act 1 0x2003 .running)
    ∧ ((quiescing [7]).stack 3).channelsLeft = [7] ∧ ((quiescing []).stack 3).channelsLeft = []
    ∧ ((quiescing []).stack 3).retraining = true
    ∧ (ported upPort).gotreRuns = true ∧ ((ported upPort).port 0).state.usable = true
    ∧ (served1 (act 2 0x3000 .running) (ported upPort)).runningOn 2 (BitVec.ofNat 16 (0x3000 + (0 : PortId).val))
        = some (act 2 0x3000 .running)
    ∧ (served1 (act 3 0x3000 .running) (ported upPort)).runningOn 3 (BitVec.ofNat 16 (0x3000 + (0 : PortId).val))
        = some (act 3 0x3000 .running)
    ∧ (served1 (act 4 0x2003 .running) held).runningOn 4 (stackResource 3) = some (act 4 0x2003 .running)
    ∧ (let a : Activity := { act 4 0x2003 .running with progress := 1 }
       (served1 a held).workDone a = true ∧ a.isActivation = false ∧ (served1 a held).gotreRuns = true) := by decide +kernel

theorem test_occasion_fence_and_readmit :
    (served1 (act 5 0x0009 .running) held).gotreRuns = true ∧ (held.die (resDie 0x0009)).survey = false
    ∧ resKind 0x0009 = 0 ∧ resNum 0x0009 = 9 ∧ (held.core 9).fenced = false ∧ held.holdingOfCore 9 = none
    ∧ ((held.modDie 1 fun x => { x with survey := true }).die (resDie 0x0009)).survey = true
    ∧ ((served1 (act 5 0x0009 .running) held).modDie 1 fun x => { x with survey := true }).gotreRuns = true
    ∧ resStacks 0x2003 ≠ [] ∧ (served1 (act 6 0x2003 .running) held).activity 1 = some (act 6 0x2003 .running) := by decide +kernel

/-! ### Images, authorisations and the management interface -/

def imageJob (op words : Nat) : Job := jobOf op 255 (pf 0 4) 0x40000 words

theorem test_occasion_image_refused :
    ready (withJob (imageJob 0x0080 0) held) 5 0x0080 (imageJob 0x0080 0) = true
    ∧ (match (imageJob 0x0080 0).rawBlock (.words []) with | .ok l => l | .error _ => [1]) = []
    ∧ kindGood 4 = true ∧ held.service.activation 4 = none ∧ held.service.verifies 4 [] = false := by decide +kernel

/-- The bytes of an image of kind 4: a body of 8 bytes, signed with key 0, its digest as given. -/
def imageBytes (digest : List Byte) : List Byte :=
  [1, 0, 4, 0, 0, 0, 0, 0, 31, 0] ++ List.replicate 6 0 ++ [8, 0, 0, 0] ++ List.replicate 44 0 ++ digest ++ List.replicate 64 0
    ++ List.replicate 64 0 ++ List.replicate 8 0

set_option maxRecDepth 4000 in
/-- What the fuses, the digest and the signature check say of an image is open; where they accept it, it verifies. -/
theorem test_occasion_image_verifies (f : Nat → Byte) (hd : Config.sha512 (List.replicate 8 0) = (List.range 64).map f)
    (hk : Config.fuseKeyProgrammed 0 = true) (hv : ∀ k m g, Config.ed25519Verify k m g = true) :
    held.service.verifies 4 (imageBytes ((List.range 64).map f)) = true := by
  simp only [Service.verifies, Bool.and_eq_true, beq_iff_eq, hv, and_true]
  refine ⟨⟨⟨rfl, ⟨rfl, hk⟩, rfl⟩, rfl, ?_⟩, hd⟩
  have h : Config.shippedSvnFloor 4 % 32 ≤ 31 := by omega
  simpa [Service.floor, hdrNum, hdrBytes, imageBytes, leNat, held, up, Tab.get] using h

/-- The answer to a child's TIME flit joins the flits of its port (R323). -/
theorem test_occasion_time_answer :
    (ported upPort).clocked = true ∧ (ported upPort).usable 0 = true
      ∧ ((ported upPort).answerTime 0 5 7 9).outbox.length = (ported upPort).outbox.length + 1 := by decide +kernel

/-- A request for the device scope, without holdings, until device time 9, over a challenge. -/
def grantReq (challenge : Nat) : List Byte :=
  [1, 0, 0, 0, 1, 0, 0, 0] ++ leBytes 32 challenge ++ [9, 0, 0, 0, 0, 0, 0, 0] ++ List.replicate 64 0

/-- Whether a signature holds is open; where it does, the request is granted. -/
theorem test_occasion_grant (hv : ∀ k m g, Config.ed25519Verify k m g = true) :
    held.grantGood (grantReq held.challenge.toNat) = true := by
  simp only [Dev.grantGood, Bool.and_eq_true, hv]
  refine ⟨⟨⟨⟨⟨⟨⟨⟨rfl, rfl⟩, rfl⟩, rfl⟩, rfl⟩, ?_⟩, rfl⟩, trivial⟩, rfl⟩
  exact beq_iff_eq.2 rfl

def granted (g : Grant) : Dev := { held with service := { grants := [g] } }
def grant9 : Grant := { device := true, test := true, holdings := [], expiry := 9 }

theorem test_occasion_keeper :
    held.pins.inputPower = true ∧ held.power.state ≠ .off ∧ held.grantGood [] = false
    ∧ (granted grant9).service.grants = [grant9] ∧ reached (granted grant9).dt grant9.expiry = false
    ∧ held.gotreRuns = true ∧ kindGood (4 : BitVec 8).toNat = true ∧ held.service.activation (4 : BitVec 8).toNat = none := by
  decide +kernel

def image0 : Image := { header := List.replicate 256 0, body := [1], good := true }

/-- An activation of kind 6 (the Harrows) whose image is staged, and whose flash write is under way or done. -/
def activating (writes : Bool) : Dev :=
  { held with service := { activities := [act 0x106 0 .running], nextActivity := 2, staged := [(6, some image0)]
                           writing := if writes then some (6, 1) else none } }
def staged4 : Dev := { held with service := { staged := [(4, some image0)] } }

theorem test_occasion_activations :
    ready (withJob (imageJob 0x0081 0) staged4) 5 0x0081 (imageJob 0x0081 0) = true ∧ staged4.service.mayActivate 4 = true
    ∧ ready (withJob (imageJob 0x0081 0) held) 5 0x0081 (imageJob 0x0081 0) = true ∧ held.service.mayActivate 4 = false
    ∧ (activating true).service.writing = some (6, 1) ∧ (activating true).gotreRuns = true
    ∧ (activating true).activity 1 = some (act 0x106 0 .running) ∧ (act 0x106 0 .running).open = true
    ∧ (activating true).inRecovery = false ∧ (activating true).service.activation 6 = some (act 0x106 0 .running)
    ∧ Tab.get none (activating true).service.staged 6 = some image0 ∧ (activating true).unitsLeft 6 ≠ []
    ∧ (6 : Fin 8).val ∉ [1, 5] ∧ (activating false).service.flashAhead 1 = false
    ∧ ((activating false).unitsLeft 6).head? = some 0 ∧ (activating false).quiescent 6 0 = true
    ∧ 7 ≠ 0 ∧ 7 ∈ (activating false).unitsLeft 6 := by decide +kernel

/-! ### Surveys -/

def keyed (d : Nat) (s : Dev) : Dev := s.setGuard d .host true
def surveyed (y : Survey) : Dev := { held with survey := y }
def upPort0 (q : Port) : Dev := { held with ports := [(0, q)] }

theorem test_occasion_survey_arm :
    isReady (jobOn held 0x00B0 255 (pf 23 0)) 0x00B0 = true ∧ isReady (jobOn held 0x00B0 255 (pf 23 3)) 0x00B0 = true
    ∧ (match triggerOf (jobOf 0x00B0 255 (pf 23 3) 0x40000 4096) with | .error () => true | .ok _ => false) = true
    ∧ (match triggerOf (jobOf 0x00B0 255 0 0x40000 4096) with | .ok none => true | _ => false) = true
    ∧ (match triggerOf (jobOf 0x00B0 255 (pf 0 48 + pf 8 0x40 + pf 18 1 + pf 23 1) 0x40000 4096) with
        | .ok (some g) => g.full && g.die == 48 | _ => false) = true := by decide +kernel

theorem test_occasion_survey_commands :
    (keyed 63 held).pathUp .host = true ∧ held.unreachable kpr = false ∧ (keyed 63 held).guard kpr .host = true
    ∧ held.power.transition = false ∧ held.pins.inputPower = true ∧ held.power.state ≠ .fallow ∧ held.power.state ≠ .off
    ∧ held.survey.frozen = false ∧ (1#32).extractLsb' 0 2 = 1#2 ∧ (0x1F02#32).extractLsb' 0 2 = 2#2
    ∧ dieKind ((0x1F02#32).extractLsb' 8 6).toNat = 0 ∧ ((0x1F02#32).extractLsb' 8 6).toNat = 31
    ∧ (surveyed { frozen := true, dieScope := true, die := 31 }).survey.fences = [] ∧ (3#32).extractLsb' 0 2 = 3#2
    ∧ (keyed 63 (surveyed { frozen := true })).pathUp .host = true
    ∧ (keyed 63 (powered { transition := true })).pathUp .host = true
    ∧ (powered { transition := true }).unreachable kpr = false ∧ (surveyed { frozen := true }).unreachable kpr = false := by
  decide +kernel

theorem test_occasion_survey_triggers :
    (let s : Dev := { held with regs := [(regAt kpr 0x1C000, 3), (regAt 48 0x100, 2)] }
     (s.reg (regAt kpr 0x1C000)).getLsbD 1 = true ∧ (s.reg (regAt kpr 0x1C000)).getLsbD 0 = true
      ∧ (s.reg (regAt 48 0x100)).getLsbD 1 = true)
    ∧ (held.reg (regAt kpr 0x1C000)).getLsbD 1 = false
    ∧ (surveyed { armed := some { once := true, full := true, bit := 1, offset := 0x100, die := 48 } }).survey.frozen = false
    ∧ (surveyed { frozen := true, dieScope := true, die := 3 }).survey.dieScope = true
    ∧ (surveyed { frozen := true }).survey.dieScope = false := by decide +kernel

theorem test_occasion_sideband :
    (upPort0 { state := .up }).clocked = true ∧ ((upPort0 { state := .up }).port 0).hasLanes = true ∧ (0 : PortId).val < 6
    ∧ ((upPort0 { state := .up }).port 0).lastSideband ≠ .freeze 1 true 2
    ∧ ((upPort0 { state := .up, lastSideband := .freeze 1 true 2 }).port 0).lastSideband = .freeze 1 true 2 := by
  decide +kernel

/-- For every message some code differs from that of its slot. -/
theorem test_occasion_bad_slot (m : SidebandMsg) : slotCrc m + 1 ≠ slotCrc m := by
  generalize slotCrc m = x
  bv_omega

theorem test_occasion_read_out :
    (surveyed { frozen := true }).frozenDie 31 = true ∧ held.frozenDie 31 = false
    ∧ (surveyed { frozen := true }).frozenDie kpr = false := by decide +kernel

/-! ### Registers -/

/-- The BAR0 offset of a register. -/
def at' (d w : Nat) : BitVec 24 := BitVec.ofNat 24 (regAt d w)
/-- A register of a kind stands at an offset. -/
def regIs (d w : Nat) (f : RegInfo → Bool) : Bool := (regInfo d w).any f

theorem test_occasion_register_reads :
    held.unreachable 48 = false ∧ dieOf (at' 48 0x100).toNat = 48 ∧ windowOf (at' 48 0x100).toNat = 0x100
    ∧ regIs 48 0x100 (fun i => i.kind == .plain && i.rc != 0) = true
    ∧ regIs 0 0xA020 (fun i => i.kind == .low) = true
    ∧ (0x20000 ≤ windowOf (at' 0 0x20080).toNat) ∧ regInfo 0 0xFF00 = none ∧ windowOf (at' 0 0xFF00).toNat ≠ 8
    ∧ regInfo 0 (aliasReg (0x20000 + 128 * (0x3FC / 4))) = none
    ∧ regIs 0 0 (fun i => i.rw == 0 && i.rwk == 0) = true ∧ held.pathUp .mgmt = true ∧ held.unreachable kpr = false := by
  decide +kernel

theorem test_occasion_register_writes :
    held.pathUp .host = true ∧ held.guard 49 .host = false ∧ (held.die 49).testMode = false
    ∧ regIs 49 0x13004 (fun i => i.rw == 0 && i.rwk != 0) = true
    ∧ held.unreachable (linkDie 0) = false ∧ (keyed (linkDie 0) held).guard (linkDie 0) .host = true
    ∧ (keyed 48 held).guard 48 .host = true ∧ held.unreachable 48 = false
    ∧ droopDies.contains 31 = true ∧ (keyed 31 held).guard 31 .host = true ∧ droopGood 0x140A = true ∧ droopGood 0x1409 = false
    ∧ regIs 32 0x1000C (fun i => i.kind == .plain && i.rw != 0 && i.rwk == 0 && i.apply != .step) = true
    ∧ regIs 0 0xD004 (fun i => i.kind == .plain && i.rw != 0 && i.apply == .step) = true
    ∧ held.slotOwner 0 0xD004 = true ∧ held.slotOwner 0 0xD704 = false
    ∧ (regInfo 48 (aliasReg (0x20000 + 128 * (0x100 / 4)))).isSome = true ∧ (0xE : BitVec 4) ≠ 0xF
    ∧ held.hostCut = false := by decide +kernel

/-! ### Resets and temperature -/

def fencedCore : Dev := { held with cores := [(0, { fenced := true })] }
def pinned (p : Pins) : Dev := { held with pins := p }
/-- Every image kind of the flash verifies. -/
def verifiedAll : List (Fin 8) := [1, 2, 3, 4, 5, 6, 7]
def bootable (good : Bool) : Dev :=
  { pinned { resetting := 4 } with
    service := { flash := (List.range 7).map fun k => (k + 1, some { header := [], body := [], good := good }) } }

theorem test_occasion_keeper_resets :
    (keyed 63 held).pathUp .host = true ∧ held.unreachable kpr = false ∧ (keyed 63 held).guard kpr .host = true
    ∧ held.pins.resetting = 0 ∧ (fencedCore.core 0).fenced = true ∧ (held.core 0).fenced = false
    ∧ (keyed 63 fencedCore).pathUp .host = true ∧ held.fullSurvey = false ∧ held.power.state ≠ .off
    ∧ held.pins.heldHot = false
    ∧ ({ held with dies := [(3, { fenced := true })] } : Dev).readmittable 0x1003 = true := by decide +kernel

theorem test_occasion_resets :
    held.pcieUp = true ∧ held.pins.resetting.val < 3 ∧ (pinned { resetting := 3 }).power.state = .run
    ∧ (pinned { resetting := 3 }).survey.waiting = [] ∧ (pinned { resetting := 3 }).gotre.deviceState = .ready
    ∧ (pinned { resetting := 3 }).gotre.stopped = false ∧ held.pins.pwrOk = true
    ∧ (pinned { perst := true }).pins.perst = true ∧ (pinned { perst := true, heldHot := true }).pins.heldHot = true
    ∧ (bootable true).pins.perst = false ∧ ((bootable true).markFlash verifiedAll).flashWhole = true
    ∧ ((bootable true).markFlash [1, 2]).flashWhole = false ∧ ((bootable false).markFlash verifiedAll).flashWhole = false
    ∧ (pinned { inputPower := false }).pins.inputPower = false := by decide +kernel

theorem test_occasion_heat :
    held.clocked = true ∧ droopDies.contains (31 : DieId).val = true ∧ (powered { dieLimit := true }).power.dieLimit = true
    ∧ (pinned { heldHot := true }).pins.heldHot = true ∧ (pinned { heldHot := true }).pins.releaseWaits = false
    ∧ (pinned { heldHot := true }).pins.perst = false := by decide +kernel

/-! ### Decoding and the canonical memory -/

theorem test_occasion_canonical_memory :
    Memory.wf held.mem = true ∧ Memory.wf ({ held with mem := tables0 leaf0 ++ [(pa0, 7), (pa0 + 5, 255)] } : Dev).mem = true
    ∧ Memory.wf [(5, 1), (3, 2)] = false ∧ Memory.wf [(5, 0)] = false := by decide +kernel

/-! ### WellFormed refuses what no interface can carry -/

def flitOf (n : Nat) : Flit := { hdr := 0, payload := List.replicate n 0, ext := 0, crc := 0 }
def tokenSmoke (row : List PByte) : TokenMsg := { src := 1, tag := 0, expert := 0, slot := 0, token := 0, choice := 0, round := 0, row := row }
def answerSmoke (row : List PByte) : AnswerMsg := { src := 1, tag := 0, expert := 0, token := 0, choice := 0, row := row }
def chunkSmoke : ChunkRef := { group := 0, reduction := 0, chunk := 0 }

/-- A flit carries 224 bytes (R302). -/
theorem test_ill_formed_flits :
    (Instr.linkFlitReceive 0 (flitOf 223) true 0).wellFormed = false ∧ (Instr.endToEndDelivery 0 (flitOf 225)).wellFormed = false
    ∧ (Instr.write 0 (flitOf 0)).wellFormed = false ∧ (Instr.linkFlitReceive 0 (flitOf 224) true 0).wellFormed = true
    ∧ (Instr.endToEndDelivery 0 (flitOf 224)).wellFormed = true ∧ (Instr.write 0 (flitOf 224)).wellFormed = true := by decide +kernel

/-- A BAR4 access and a memory write carry bytes and stay within 4,096 (R551). -/
theorem test_ill_formed_spans :
    (Instr.hostBar4Read 1 0 0).wellFormed = false ∧ (Instr.hostBar4Read 1 4095 2).wellFormed = false
    ∧ (Instr.hostBar4Read 1 4095 1).wellFormed = true ∧ (Instr.hostBar4Write 1 0 []).wellFormed = false
    ∧ (Instr.hostBar4Write 1 4095 [⟨1, false⟩, ⟨2, false⟩]).wellFormed = false
    ∧ (Instr.memWrite 0 .device 0 .ordinary [] false false).wellFormed = false
    ∧ (Instr.memWrite 4095 .device 0 .ordinary [some ⟨1, false⟩, none, some ⟨2, false⟩] false false).wellFormed = false
    ∧ (Instr.memWrite 4095 .device 0 .ordinary [some ⟨1, false⟩] false false).wellFormed = true := by decide +kernel

theorem test_ill_formed_messages :
    (Instr.clearance 0 [] .device 0 .pass).wellFormed = false
    ∧ (Instr.clearance 0 [0x16000000000] .device 0 .pass).wellFormed = false
    ∧ (Instr.clearance 0 [5] .device 0 .pass).wellFormed = true
    ∧ (Instr.reply 0 0 chunkSmoke ⟨1, 0, 0⟩ true [1]).wellFormed = false ∧ (Instr.scale 0 0 chunkSmoke ⟨1, 0, 0⟩ []).wellFormed = false
    ∧ (Instr.gatherFlit 0 0 chunkSmoke ⟨1, 0, 0⟩ 0 224 [⟨1, false⟩]).wellFormed = false
    ∧ (Instr.gatherFlit 0 0 chunkSmoke ⟨1, 0, 0⟩ 0 223 [⟨1, false⟩]).wellFormed = true
    ∧ (Instr.rcRead .host none 2).wellFormed = false ∧ (Instr.rcRead .host none 4).wellFormed = true
    ∧ (Instr.tokenRow 0 0 (tokenSmoke [])).wellFormed = false ∧ (Instr.answer 0 0 (answerSmoke [])).wellFormed = false
    ∧ (Instr.tokenRow 0 0 (tokenSmoke [⟨1, false⟩])).wellFormed = true := by decide +kernel

/-- No word spells a command, and the fetch word changes nothing. -/
theorem test_no_word_spells_a_command : decodeTableWord 32 5 = none ∧ (State.reset.withFetchWord 32 5).pending = [] := by
  decide

/-! ### Values that the spec prints -/

/-- Addresses of the worked examples of R43, R142, R242, R333, R413 and R415. -/
theorem test_printed_register_addresses :
    chkReg 203 0x10 = 0x00656190 ∧ wdrReg 203 0x20 = 0x0064C320 ∧ numReg 203 2 4 = 0x00649720 ∧ stackReg 5 0x50 = 0x00950050
    ∧ hdlReg 5 0x18 = 0x00D57018 ∧ klxReg 0 0x300 = 0x00C13300 := by decide

/-- The MXFP4 example after R38: quotients 3.7 and -0.3 to within 1/64 at scale 1, and the saturated 7.4 at scale 0.5. -/
theorem test_printed_mxfp4_block :
    (convert .e2m1 (.fin false 237 (-6))).bits = 6 ∧ (convert .e2m1 (.fin true 19 (-6))).bits = 9
    ∧ convert .e2m1 (.fin false 474 (-6)) = ⟨7, true, false⟩ := by decide +kernel

/-- The votes of the example at R401: A, B and C are digests of one layer. -/
def votes (ds : List (Nat × Nat)) : Verdict :=
  verdictOf { members := [0, 1, 2, 3, 4], dead := [] } 1
    (ds.map fun d => { src := BitVec.ofNat 16 d.1, step := 0, layers := [(BitVec.ofNat 64 d.2, false)] })

theorem test_printed_votes :
    votes [(0, 1), (1, 1), (2, 2), (3, 1), (4, 1)] = .expel [2] ∧ votes [(0, 1), (1, 1), (2, 2), (3, 2), (4, 3)] = .rollback
    ∧ votes [(0, 1), (1, 1), (2, 1), (4, 2)] = .expel [4] ∧ votes [(0, 1), (1, 1), (4, 2)] = .rollback := by decide +kernel

/-- The check value of CRC-32C over the digits 1 to 9, as its standard gives it (R230). -/
theorem test_crc32c_check_value :
    crc32c [0x31, 0x32, 0x33, 0x34, 0x35, 0x36, 0x37, 0x38, 0x39] = 0xE3069283 := by decide +kernel
end Sys2Proof.Tests
end

/-! The round trip of an encoding through decoding and conversion (R22, R24, R40): the fields that decode reads, the
rounding of a value that already stands in its format, and the sign put back. -/

namespace Sys2Proof

/-! ### The fields of an encoding (R23) -/

/-- The sign that decode reads: the top bit of the encoding. -/
def encNeg (f : Fmt) (b : Nat) : Bool := decide (b / 2 ^ (fmtBits f - 1) % 2 = 1)

/-- The magnitude field that decode reads: everything below the sign. -/
def encMag (f : Fmt) (b : Nat) : Nat := b % 2 ^ (fmtBits f - 1)

/-- The finite value of a magnitude in a floating format of p significand bits whose subnormals count in 2^qmin. -/
def finOfMag (p : Nat) (qmin : Int) (neg : Bool) (mag : Nat) : Val :=
  if mag / 2 ^ (p - 1) = 0 then .fin neg (mag % 2 ^ (p - 1)) qmin
  else .fin neg (mag % 2 ^ (p - 1) + 2 ^ (p - 1)) (qmin + (mag / 2 ^ (p - 1) : Nat) - 1)

@[simp] theorem finOfMag_isInf (p : Nat) (qmin : Int) (neg : Bool) (mag : Nat) :
    (finOfMag p qmin neg mag).isInf = false := by
  unfold finOfMag
  split <;> rfl

theorem fmtSig_pos (f : Fmt) : 0 < fmtSig f := by cases f <;> decide

theorem two_pow_fmtBits (f : Fmt) : 2 ^ fmtBits f = 2 * 2 ^ (fmtBits f - 1) := by
  cases f <;> rfl

/-- The sign bit carries the half of the encoding that encMag leaves out. -/
theorem encMag_add_sign {f : Fmt} {b : Nat} (hb : b < 2 ^ fmtBits f) :
    encMag f b + (if encNeg f b then 2 ^ (fmtBits f - 1) else 0) = b := by
  rw [two_pow_fmtBits, mul_comm] at hb
  have hsplit := Nat.div_add_mod b (2 ^ (fmtBits f - 1))
  have htop : b / 2 ^ (fmtBits f - 1) < 2 := Nat.div_lt_of_lt_mul hb
  unfold encMag encNeg
  obtain hq | hq := Nat.le_one_iff_eq_zero_or_eq_one.1 (Nat.le_of_lt_succ htop)
  · simpa [hq] using hsplit
  · simpa [hq, add_comm] using hsplit

theorem withSign_encMag {f : Fmt} {b : Nat} (hb : b < 2 ^ fmtBits f) :
    withSign f (encNeg f b) (encMag f b) = b := by
  have hsum := encMag_add_sign hb
  unfold withSign
  split <;> simp_all

/-! ### What decode answers, by the kind of format -/

/-- An integer format reads its encoding in two's complement. -/
theorem decode_of_int {f : Fmt} (b : Nat) (hf : fmtInt f = true) :
    decode f b = if encNeg f b then .fin true (2 ^ (fmtBits f - 1) - encMag f b) 0 else .fin false (encMag f b) 0 := by
  simp [decode, hf, encNeg, encMag]

/-- A magnitude that is neither an infinity nor a NaN is at most the largest finite one (R23). -/
theorem encMag_le_fmtMaxBits {f : Fmt} (b : Nat)
    (hieee : fmtIeee f = true → encMag f b / 2 ^ (fmtSig f - 1) ≠ 2 ^ (fmtBits f - fmtSig f) - 1)
    (hnan : f = .e4m3 → encMag f b ≠ 0x7F) (hf : fmtInt f = false) : encMag f b ≤ fmtMaxBits f := by
  have hlt : encMag f b < 2 ^ (fmtBits f - 1) := Nat.mod_lt _ (by positivity)
  generalize encMag f b = mag at *
  cases f <;> simp [fmtBits, fmtSig, fmtIeee, fmtMaxBits, fmtInt] at * <;> omega

/-- The exponent field all ones over a zero significand is the infinity of an IEEE format (R23). -/
theorem encMag_eq_fmtInfBits {f : Fmt} {b : Nat} (hf : fmtIeee f = true)
    (hexp : encMag f b / 2 ^ (fmtSig f - 1) = 2 ^ (fmtBits f - fmtSig f) - 1)
    (hsig : encMag f b % 2 ^ (fmtSig f - 1) = 0) : encMag f b = fmtInfBits f := by
  have hsplit := Nat.div_add_mod (encMag f b) (2 ^ (fmtSig f - 1))
  rw [hexp, hsig] at hsplit
  rw [← hsplit]
  revert hf
  cases f <;> decide

/-- All that decode can answer for a floating format: a NaN, the infinity of the format, or a finite value. -/
theorem decode_of_float {f : Fmt} (b : Nat) (hf : fmtInt f = false) :
    decode f b = .nan (encNeg f b)
    ∨ (decode f b = .inf (encNeg f b) ∧ encMag f b = fmtInfBits f)
    ∨ (decode f b = finOfMag (fmtSig f) (fmtQmin f) (encNeg f b) (encMag f b) ∧ encMag f b ≤ fmtMaxBits f) := by
  have hdec : decode f b =
      if fmtIeee f && decide (encMag f b / 2 ^ (fmtSig f - 1) = 2 ^ (fmtBits f - fmtSig f) - 1) then
        if encMag f b % 2 ^ (fmtSig f - 1) = 0 then .inf (encNeg f b) else .nan (encNeg f b)
      else if decide (f = .e4m3) && decide (encMag f b = 0x7F) then .nan (encNeg f b)
      else finOfMag (fmtSig f) (fmtQmin f) (encNeg f b) (encMag f b) := by
    simp only [decode, hf, Bool.false_eq_true, if_false]
    rfl
  rw [hdec]
  split
  next hexp =>
    simp only [Bool.and_eq_true, decide_eq_true_eq] at hexp
    split
    next hsig => exact .inr (.inl ⟨rfl, encMag_eq_fmtInfBits hexp.1 hexp.2 hsig⟩)
    next => exact .inl rfl
  next hexp =>
    split
    next => exact .inl rfl
    next hnan => exact .inr (.inr ⟨rfl, encMag_le_fmtMaxBits b (by simpa using hexp) (by simpa using hnan) hf⟩)

/-! ### Rounding a value that stands in its format already (R39) -/

/-- A subnormal significand is its own encoding. -/
theorem roundBits_subnormal {p m : Nat} (qmin : Int) (hp : 0 < p) (hm : m < 2 ^ (p - 1)) :
    roundBits p qmin m qmin = m := by
  unfold roundBits
  split
  next hzero => exact hzero.symm
  next hpos =>
    have hlog : Nat.log2 m < p - 1 := (Nat.log2_lt hpos).2 hm
    have hq : qmin + (Nat.log2 m : Int) - ((p : Int) - 1) ≤ qmin := by omega
    simp [hq]

/-- A full significand e steps above the smallest keeps its bits, the hidden one carrying into the exponent field. -/
theorem roundBits_normal {p m : Nat} (qmin : Int) (e : Nat) (hp : 0 < p) (hm : m < 2 ^ (p - 1)) :
    roundBits p qmin (m + 2 ^ (p - 1)) (qmin + e) = e * 2 ^ (p - 1) + (m + 2 ^ (p - 1)) := by
  have hpos : m + 2 ^ (p - 1) ≠ 0 := by omega
  have hlog : Nat.log2 (m + 2 ^ (p - 1)) = p - 1 := by
    rw [Nat.log2_eq_iff hpos, pow_succ]
    omega
  have hq0 : qmin + (e : Int) + ((p - 1 : Nat) : Int) - ((p : Int) - 1) = qmin + e := by omega
  have hq : (if qmin + (e : Int) ≤ qmin then qmin else qmin + e) = qmin + e := by split <;> omega
  simp only [roundBits, hpos, if_false, hlog, hq0, hq]
  simp

/-- Rounding the finite value of a magnitude gives the magnitude back. -/
theorem finOfMag_roundBits {p : Nat} (qmin : Int) (neg : Bool) (mag : Nat) (hp : 0 < p) :
    ∃ m e, finOfMag p qmin neg mag = .fin neg m e ∧ roundBits p qmin m e = mag := by
  have hsig : mag % 2 ^ (p - 1) < 2 ^ (p - 1) := Nat.mod_lt _ (by positivity)
  have hsplit := Nat.div_add_mod' mag (2 ^ (p - 1))
  unfold finOfMag
  split
  next hexp =>
    refine ⟨_, _, rfl, ?_⟩
    rw [roundBits_subnormal qmin hp hsig]
    simpa [hexp] using hsplit
  next hexp =>
    refine ⟨_, _, rfl, ?_⟩
    obtain ⟨e, he⟩ := Nat.exists_eq_succ_of_ne_zero hexp
    have hstep : qmin + ((e.succ : Nat) : Int) - 1 = qmin + e := by push_cast; omega
    rw [he, Nat.succ_mul] at hsplit
    rw [he, hstep, roundBits_normal qmin e hp hsig]
    omega

/-! ### The round trip -/

/-- Two's complement survives: both halves of the range fit, the most negative value included. -/
theorem convert_decode_of_int {f : Fmt} {b : Nat} (hf : fmtInt f = true) (hb : b < 2 ^ fmtBits f) :
    convert f (decode f b) = ⟨b, false, false⟩ := by
  have hlt : encMag f b < 2 ^ (fmtBits f - 1) := Nat.mod_lt _ (by positivity)
  have hmax : fmtMaxBits f + 1 = 2 ^ (fmtBits f - 1) := by
    revert hf
    cases f <;> decide
  have hsum := encMag_add_sign hb
  have htwo := two_pow_fmtBits f
  rw [decode_of_int b hf]
  cases hneg : encNeg f b with
  | true =>
    have hfits : ¬ fmtMaxBits f + 1 < 2 ^ (fmtBits f - 1) - encMag f b := by omega
    have hbits : (2 ^ fmtBits f - (2 ^ (fmtBits f - 1) - encMag f b)) % 2 ^ fmtBits f = b := by
      rw [Nat.mod_eq_of_lt (by omega)]
      simp only [hneg, if_true] at hsum
      omega
    simp [convert, hf, hfits, intBits, hbits]
  | false =>
    have hfits : ¬ fmtMaxBits f < encMag f b := by omega
    have hbits : encMag f b = b := by simpa [hneg] using hsum
    simp [convert, hf, hbits ▸ hfits, intBits, hbits]

/-- A finite encoding of a floating format survives: it rounds to its own magnitude and cannot saturate. -/
theorem convert_decode_of_finite_float {f : Fmt} {b : Nat} (hf : fmtInt f = false) (hb : b < 2 ^ fmtBits f)
    (hfin : (decode f b).isFinite = true) : convert f (decode f b) = ⟨b, false, false⟩ := by
  obtain hdec | ⟨hdec, -⟩ | ⟨hdec, hmax⟩ := decode_of_float b hf
  · simp [hdec, Val.isFinite] at hfin
  · simp [hdec, Val.isFinite] at hfin
  · obtain ⟨m, e, hval, hround⟩ := finOfMag_roundBits (fmtQmin f) (encNeg f b) (encMag f b) (fmtSig_pos f)
    simp [hdec, hval, convert, hf, hround, Nat.not_lt.2 hmax, withSign_encMag hb]

/-- A finite encoding of any format survives. -/
theorem convert_decode_of_finite {f : Fmt} {b : Nat} (hb : b < 2 ^ fmtBits f)
    (hfin : (decode f b).isFinite = true) : convert f (decode f b) = ⟨b, false, false⟩ := by
  cases hf : fmtInt f with
  | true => exact convert_decode_of_int hf hb
  | false => exact convert_decode_of_finite_float hf hb hfin

/-- No wide format is an integer format. -/
theorem fmtInt_eq_false_of_wide {f : Fmt} (hwide : fmtWide f = true) : fmtInt f = false := by
  cases f <;> simp_all [fmtWide, fmtInt]

/-- An infinity of a wide format survives uncounted (the table of R40). -/
theorem convert_decode_of_wide_inf {f : Fmt} {b : Nat} (hwide : fmtWide f = true) (hb : b < 2 ^ fmtBits f)
    (hinf : (decode f b).isInf = true) : convert f (decode f b) = ⟨b, false, false⟩ := by
  have hf := fmtInt_eq_false_of_wide hwide
  obtain hdec | ⟨hdec, hbits⟩ | ⟨hdec, -⟩ := decode_of_float b hf
  · simp [hdec, Val.isInf] at hinf
  · simp [hdec, convert, hf, hwide, ← hbits, withSign_encMag hb]
  · simp [hdec] at hinf

/-- Settles O6: a finite encoding goes through the rounding of its own magnitude, an infinity of a wide format through
the table of R40, and both get their sign bit back. -/
theorem conversionInvertsDecoding : Obligations.ConversionInvertsDecoding :=
  ⟨fun _ _ hb hfin => convert_decode_of_finite hb hfin, fun _ _ hb hwide hinf => convert_decode_of_wide_inf hwide hb hinf⟩

end Sys2Proof

/-! How a unit runs a descriptor to its end (R102, R103): what counting and faults leave alone, the completion of the entry,
and what a core's own operations keep of its issue state. -/

namespace Sys2Proof.Machine

/-! ### Folds -/

/-- What every step of a fold keeps, the fold keeps. -/
theorem foldl_preserves {α β γ : Type} (g : β → γ) {f : β → α → β} (h : ∀ b a, g (f b a) = g b) (b : β) (l : List α) :
    g (l.foldl f b) = g b :=
  List.foldlRecOn l f (motive := fun x => g x = g b) rfl fun x hx a _ => (h x a).trans hx

/-! ### Counters and faults leave every core alone (R43, R123, R188, R396) -/

section Counts
variable (s : Dev)

@[simp] theorem Dev.runFault_cores (c : CoreId) (h : Option HoldId) (i : Word32) (k : Status) :
    (s.runFault c h i k).cores = s.cores := by
  cases h <;> rfl

@[simp] theorem Dev.countSat_cores (h : Option HoldId) (c : CoreId) (u f sat nonfin : Nat) :
    (s.countSat h c u f sat nonfin).cores = s.cores := by
  unfold Dev.countSat
  split_ifs <;> simp

@[simp] theorem Dev.poisonUse_cores (h : Option HoldId) (c : CoreId) : (s.poisonUse h c).cores = s.cores := by
  cases h <;> simp [Dev.poisonUse]

@[simp] theorem Dev.frozenCycles_cores (h : Option HoldId) (a b : Nat) : (s.frozenCycles h a b).cores = s.cores := rfl

@[simp] theorem Dev.stalls_cores (h : Option HoldId) (c : CoreId) (u : Nat) : (s.stalls h c u).cores = s.cores := by
  unfold Dev.stalls
  split
  · simp only [foldl_preserves Dev.cores fun d i => Dev.frozenCycles_cores d ..]
    simp
  · exact foldl_preserves Dev.cores (fun d i => Dev.countFree_cores d ..) _ _

@[simp] theorem Dev.replayed_cores (c : CoreId) (h : HoldId) (r : Dev) : (s.replayed c h r).cores = r.cores := by
  simp only [Dev.replayed, Dev.replaying, Dev.count_cores]
  refine foldl_preserves Dev.cores (fun d a => ?_) _ _
  split <;> simp

/-- Cores are read from the table of cores alone. -/
theorem Dev.core_congr {s t : Dev} (h : t.cores = s.cores) (k : CoreId) : t.core k = s.core k := by
  simp only [Dev.core, h]

end Counts

@[simp] theorem Run.count_wait (r : Run) (h : HoldId) (a n : Nat) : (r.count h a n).wait = r.wait := by
  unfold Run.count
  split <;> rfl

@[simp] theorem Run.count_need (r : Run) (h : HoldId) (a n : Nat) : (r.count h a n).need = r.need := by
  unfold Run.count
  split <;> rfl

@[simp] theorem Run.count_cores (r : Run) (h : HoldId) (a n : Nat) : (r.count h a n).dev.cores = r.dev.cores := by
  unfold Run.count
  split <;> rfl

/-! ### A run to the end (R102, R103) -/

/-- The end of a run completes its entry, and leaves every other core as the run left it. -/
theorem Dev.finish_core (s : Dev) (c k : CoreId) (h : HoldId) (e : WEntry) (r : Dev) :
    (s.finish c h e r).core k = if k = c then { (r.core c).completeEntry e with hostBuf := [] } else r.core k := by
  have hcores : ∀ d : Dev, d.cores = r.cores → ∀ j, d.core j = r.core j := fun d hd j => Dev.core_congr hd j
  simp only [Dev.finish, Dev.core_modCore]
  rw [hcores _ ?_ c, hcores _ ?_ k]
  all_goals
    split
    · simp only [Dev.stalls_cores]
      split <;> simp
    · split <;> simp

/-- A body that answers with nothing to wait for ends its descriptor. -/
theorem Dev.runUnit_of_ready {s : Dev} {c : CoreId} {cls : Nat} {ops : List Nat} {e : WEntry} {h : HoldId}
    {body : Agent → WEntry → Run → Option Run} {q : Run} (ready : s.unitReady c cls ops e h)
    (hbody : body ((s.core c).agent c h e) e { dev := s } = some q) (hwait : q.wait = false) (hneed : q.need = []) :
    s.runUnit c cls ops body = s.finish c h e q.dev := by
  obtain ⟨hrun, hhold, hcore⟩ := ready
  simp [Dev.runUnit, Dev.runPhased, hrun, hhold, hcore, hbody, hwait, hneed]

/-- The entry that a unit runs stands in the window. -/
theorem Core.mem_window_of_running {x : Core} {cls : Nat} {ops : List Nat} {e : WEntry} (h : x.running cls ops = some e) :
    e ∈ x.window := by
  simp only [Core.running, Core.started, Option.bind_eq_some_iff] at h
  obtain ⟨w, hw, he⟩ := h
  split at he
  · cases he
  · cases he
    exact List.mem_of_find?_eq_some hw

@[simp] theorem sameEntry_self (e : WEntry) : sameEntry e e = true := by simp [sameEntry]

/-- Completion leaves a completed entry of its name. -/
theorem Core.completed_of_mem {x : Core} {e : WEntry} (h : e ∈ x.window) :
    ∃ w ∈ (x.completeEntry e).window, sameEntry w e = true ∧ w.phase = .completed := by
  refine ⟨{ e with phase := .completed }, List.mem_map.2 ⟨e, h, by simp⟩, ?_, rfl⟩
  simp [sameEntry]

/-- A scope of a core's own work leaves everything beyond that core alone once the other cores stand. -/
theorem Dev.sameBeyondCore_coreScope {s r : Dev} {c : CoreId} (h : ∀ k : CoreId, k ≠ c → r.core k = s.core k) :
    s.sameBeyondCore (s.coreScope r) c :=
  ⟨rfl, rfl, rfl, rfl, rfl, rfl, rfl, rfl, rfl, rfl, rfl, rfl, rfl, rfl, h⟩

/-- What a body does that ends at once and works on its core alone, which it leaves as x. -/
def worksOnCore (s : Dev) (c : CoreId) (x : Core) (o : Option Run) : Prop :=
  ∃ q, o = some q ∧ q.wait = false ∧ q.need = [] ∧ q.dev.cores = (s.setCore c x).cores

/-- Such a body runs its descriptor to its end: its core is what the body made of it, with the entry completed. -/
theorem Dev.runUnit_worksOnCore {s : Dev} {c : CoreId} {cls : Nat} {ops : List Nat} {e : WEntry} {h : HoldId} {x : Core}
    {body : Agent → WEntry → Run → Option Run} (ready : s.unitReady c cls ops e h)
    (works : worksOnCore s c x (body ((s.core c).agent c h e) e { dev := s })) :
    (s.coreScope (s.runUnit c cls ops body)).core c = { x.completeEntry e with hostBuf := [] }
      ∧ s.sameBeyondCore (s.coreScope (s.runUnit c cls ops body)) c := by
  obtain ⟨q, hbody, hwait, hneed, hcores⟩ := works
  have hcore : ∀ k, q.dev.core k = if k = c then x else s.core k := fun k =>
    (Dev.core_congr hcores k).trans (s.core_setCore c k x)
  rw [Dev.runUnit_of_ready ready hbody hwait hneed]
  refine ⟨?_, Dev.sameBeyondCore_coreScope fun k hk => ?_⟩
  · rw [Dev.core_congr (Dev.coreScope_cores s _), Dev.finish_core, if_pos rfl, hcore, if_pos rfl]
  · rw [Dev.finish_core, if_neg hk, hcore, if_neg hk]

/-! ### What a core's own operations keep of its issue state (R99, R104) -/

/-- The issue window and the length registers of a core. -/
def Core.issue (x : Core) : List WEntry × Tab Nat := (x.window, x.lregs)

theorem Core.issue_eq_iff {x y : Core} : x.issue = y.issue ↔ x.window = y.window ∧ x.lregs = y.lregs := by
  simp [Core.issue]

section Issue
variable (x : Core)

@[simp] theorem Core.osWrite_issue (a : Nat) (bs : List PByte) : (x.osWrite a bs).issue = x.issue := rfl
@[simp] theorem Core.vregWrite_issue (a : Nat) (bs : List PByte) : (x.vregWrite a bs).issue = x.issue := rfl
@[simp] theorem Core.tagTile_issue (p : Nat) (b : Bool) : (x.tagTile p b).issue = x.issue := rfl

@[simp] theorem Core.setWords_issue (p i : Nat) (ws : List PWord) : (x.setWords p i ws).issue = x.issue := by
  unfold Core.setWords
  split_ifs <;> rfl

@[simp] theorem Core.clearTile_issue (p : Nat) : (x.clearTile p).issue = x.issue := by
  unfold Core.clearTile
  split_ifs <;> rfl

@[simp] theorem Core.poisonTile_issue (p : Nat) : (x.poisonTile p).issue = x.issue := x.setWords_issue ..
@[simp] theorem Core.setNameWord_issue (first n : Nat) (w : PWord) : (x.setNameWord first n w).issue = x.issue :=
  x.setWords_issue ..
@[simp] theorem Core.setSlot_issue (first n : Nat) (v : Slot) : (x.setSlot first n v).issue = x.issue :=
  x.setWords_issue ..

end Issue

end Sys2Proof.Machine

/-! The vector unit (R104, R111 to R122): its commands work on their own core, and keep its window and length registers but
for LEN_SET and LEN_LOAD. -/

namespace Sys2Proof.Machine

/-! ### What its writes keep -/

@[simp] theorem Vec.writeRow_issue (v : Vec) (width : Nat) (x : Core) (r : Nat) (els : List VElem) :
    (v.writeRow width x r els).issue = x.issue := by
  unfold Vec.writeRow
  split
  · simp
  · exact foldl_preserves Core.issue (fun y k => by simp) _ _
  · simp

@[simp] theorem Vec.write_issue (v : Vec) (width : Nat) (x : Core) (o : VecOut) : (v.write width x o).issue = x.issue := by
  unfold Vec.write
  exact (foldl_preserves Core.issue (fun y r => by simp) _ _).trans (foldl_preserves Core.issue (fun y r => by simp) _ _)

@[simp] theorem Vec.winnow_issue (v : Vec) (x : Core) (rows cols : Nat) : (v.winnow x rows cols).issue = x.issue := by
  unfold Vec.winnow
  refine foldl_preserves Core.issue (fun y g => ?_) _ _
  dsimp only
  split <;> simp

/-! ### The bodies -/

/-- The columns of the rows that a vector descriptor writes: a reduction along the rows gives one. -/
def Vec.outWidth (v : Vec) : Nat := if 0x20 ≤ v.opcode ∧ v.opcode < 0x24 ∧ !v.axis then 1 else v.cols

/-- What a vector descriptor writes: all of it poisoned where a source names an exact-slot tile (R88). -/
def Vec.results (v : Vec) (f : Vec → Core → Nat → Nat → VecOut) (x : Core) (n : Nat × Nat) : VecOut :=
  if v.namesExact x then (f v x n.1 n.2).poisonAll else f v x n.1 n.2

/-- A vector descriptor with results works on its core alone, into which it writes them. -/
theorem vecBody_works (f : Vec → Core → Nat → Nat → VecOut) (s : Dev) (c : CoreId) (a : Agent) (e : WEntry) :
    let v := vecOf e.desc
    worksOnCore s c (v.write v.outWidth (s.core c) (v.results f (s.core c) (v.valid e))) (vecBody f c a e { dev := s }) := by
  refine ⟨_, rfl, ?_, ?_, ?_⟩
  · simp
  · simp
  · dsimp only [Vec.results, Vec.outWidth]
    split_ifs <;> simp

/-- WINNOW works on its core alone, into which it writes the scales. -/
theorem winnowBody_works (s : Dev) (c : CoreId) (a : Agent) (e : WEntry) :
    let v := vecOf e.desc
    worksOnCore s c (v.winnow (s.core c) (v.valid e).1 (v.valid e).2) (winnowBody c a e { dev := s }) := by
  refine ⟨_, rfl, ?_, ?_, ?_⟩
  · simp
  · simp
  · simp only [Run.count_cores]
    split <;> simp

/-- A core whose length register n holds v, clamped (R104). -/
def Core.withLen (x : Core) (n v : Nat) : Core := { x with lregs := Tab.set 0 x.lregs n (min v lenMax) }

@[simp] theorem Dev.setLen_cores (s : Dev) (h : Option HoldId) (c : CoreId) (n v : Nat) :
    (s.setLen h c n v).cores = (s.setCore c ((s.core c).withLen n v)).cores := by
  unfold Dev.setLen
  split <;> rfl

theorem lenSetBody_works (s : Dev) (c : CoreId) (a : Agent) (e : WEntry) :
    worksOnCore s c ((s.core c).withLen (vecOf e.desc).lregDst (vecOf e.desc).imm) (lenSetBody c a e { dev := s }) :=
  ⟨_, rfl, by simp, by simp, by simp⟩

/-- The value that LEN_LOAD takes from its line (R120). -/
def Core.lenLoaded (x : Core) (line : Nat) : Nat :=
  let w := joinBytes (x.osRead (line * lineBytes) 4)
  if w.poison then 0 else w.bits

/-- The clamp leaves the 0 of a poisoned word. -/
theorem Core.min_lenLoaded (x : Core) (line : Nat) :
    min (x.lenLoaded line) lenMax =
      (let w := joinBytes (x.osRead (line * 64) 4)
       if w.poison then 0 else min w.bits 8388608) := by
  refine (apply_ite (min · lenMax) _ _ _).trans ?_
  rw [Nat.zero_min]
  rfl

theorem lenLoadBody_works (s : Dev) (c : CoreId) (a : Agent) (e : WEntry) :
    worksOnCore s c ((s.core c).withLen (vecOf e.desc).lregDst ((s.core c).lenLoaded (vecOf e.desc).a.addr))
      (lenLoadBody c a e { dev := s }) := by
  refine ⟨_, rfl, ?_, ?_, ?_⟩
  · simp
  · simp
  · simp only [Run.count_cores]
    split <;> simp [Core.lenLoaded, *]

/-! ### The commands -/

/-- A command that works on its core alone and keeps its issue state completes its entry. -/
theorem Dev.runUnit_keeps_issue {s : Dev} {c : CoreId} {cls : Nat} {ops : List Nat} {e : WEntry} {h : HoldId} {x : Core}
    {body : Agent → WEntry → Run → Option Run} (ready : s.unitReady c cls ops e h) (hx : x.issue = (s.core c).issue)
    (works : worksOnCore s c x (body ((s.core c).agent c h e) e { dev := s })) :
    let t := s.coreScope (s.runUnit c cls ops body)
    (t.core c).window = ((s.core c).completeEntry e).window ∧ (t.core c).lregs = (s.core c).lregs ∧ s.sameBeyondCore t c := by
  obtain ⟨hwin, hlen⟩ := Core.issue_eq_iff.1 hx
  obtain ⟨hcore, hrest⟩ := Dev.runUnit_worksOnCore ready works
  refine ⟨?_, ?_, hrest⟩
  · rw [hcore]; simp only [Core.completeEntry, hwin]
  · rw [hcore]; exact hlen

/-- A command that works on its core alone and writes length register n completes its entry; n holds the clamped value. -/
theorem Dev.runUnit_writes_len {s : Dev} {c : CoreId} {cls : Nat} {ops : List Nat} {e : WEntry} {h : HoldId} {n v : Nat}
    {body : Agent → WEntry → Run → Option Run} (ready : s.unitReady c cls ops e h)
    (works : worksOnCore s c ((s.core c).withLen n v) (body ((s.core c).agent c h e) e { dev := s })) :
    let t := s.coreScope (s.runUnit c cls ops body)
    Tab.get 0 (t.core c).lregs n = min v lenMax
      ∧ (∀ k, k ≠ n → Tab.get 0 (t.core c).lregs k = Tab.get 0 (s.core c).lregs k)
      ∧ (t.core c).window = ((s.core c).completeEntry e).window ∧ s.sameBeyondCore t c := by
  obtain ⟨hcore, hrest⟩ := Dev.runUnit_worksOnCore ready works
  refine ⟨?_, fun k hk => ?_, ?_, hrest⟩
  · rw [hcore]; exact Laws.Tab.get_set_same 0 _ n _
  · rw [hcore]; exact Laws.Tab.get_set_ne 0 _ _ hk
  · rw [hcore]; rfl

/-- The vector commands that give results run the body of a function of their operands. -/
theorem exec_vector_command {c : CoreId} {op : Nat} {i : Instr}
    (h : (op, i) ∈ [(0x00, Instr.fma c), (0x01, .add c), (0x02, .mul c), (0x03, .max c), (0x04, .min c), (0x05, .select c),
      (0x06, .div c), (0x07, .sqrt c), (0x10, .func c), (0x11, .deriv c), (0x12, .softmax c), (0x13, .softmaxBwd c),
      (0x20, .rsum c), (0x21, .rmax c), (0x22, .rmin c), (0x23, .rsumsq c), (0x31, .cast c)]) (s : State) :
    ∃ f, exec i s = done s (s.dev.vector c op f) := by
  simp only [List.mem_cons, List.not_mem_nil, Prod.mk.injEq, or_false] at h
  rcases h with h | h | h | h | h | h | h | h | h | h | h | h | h | h | h | h | h <;>
    obtain ⟨rfl, rfl⟩ := h <;> exact ⟨_, rfl⟩

/-- Every vector command that gives results runs a started descriptor of its opcode to its end. -/
theorem exec_vector_completes {c : CoreId} {op : Nat} {i : Instr} {s : State} {e : WEntry} {h : HoldId}
    (hi : ∀ s, ∃ f, exec i s = done s (s.dev.vector c op f)) (ready : s.dev.unitReady c 2 [op] e h) :
    ∃ t, exec i s = .next t ∧ t.pending = s.pending ∧ (t.dev.core c).window = ((s.dev.core c).completeEntry e).window
      ∧ (t.dev.core c).lregs = (s.dev.core c).lregs ∧ s.dev.sameBeyondCore t.dev c := by
  obtain ⟨f, hf⟩ := hi s
  exact ⟨_, hf, rfl, Dev.runUnit_keeps_issue ready (Vec.write_issue ..) (vecBody_works f s.dev c _ e)⟩

/-- Settles O10: LEN_SET and LEN_LOAD write their length register clamped, WINNOW writes the operand store alone. -/
theorem lengthRegistersHoldWhatLenSetWrites : Obligations.LengthRegistersHoldWhatLenSetWrites := by
  unfold Obligations.LengthRegistersHoldWhatLenSetWrites
  refine ⟨fun s c e h ready _ => ?_, fun s c e h ready _ => ?_, fun s c e h ready => ?_⟩
  · exact ⟨_, rfl, rfl, Dev.runUnit_writes_len ready (lenSetBody_works ..)⟩
  · obtain ⟨hlen, hrest⟩ := Dev.runUnit_writes_len ready (lenLoadBody_works s.dev c _ e)
    exact ⟨_, rfl, rfl, hlen.trans (Core.min_lenLoaded ..), hrest⟩
  · obtain ⟨hwin, hlen, hrest⟩ := Dev.runUnit_keeps_issue ready (Vec.winnow_issue ..) (winnowBody_works s.dev c _ e)
    exact ⟨_, rfl, rfl, hlen, hwin, hrest⟩

end Sys2Proof.Machine

/-! The Plough (R56, R77, R89, R183, R204): PRODUCT and GROUPED keep the issue state of every core, so that their entry
stands completed at their end. -/

namespace Sys2Proof.Machine

/-! ### What the Plough's operations on a core keep -/

section Issue
variable (x : Core)

@[simp] theorem Core.setPlaceWords_issue (p : TilePlace) (i : Nat) (ws : List PWord) :
    (x.setPlaceWords p i ws).issue = x.issue := by
  cases p <;> simp [Core.setPlaceWords]

@[simp] theorem Core.clearPlace_issue (p : TilePlace) : (x.clearPlace p).issue = x.issue := by
  cases p with
  | name n => simp [Core.clearPlace]
  | spill a => exact x.osWrite_issue a _
  | none => rfl

@[simp] theorem Core.poisonPlace_issue (p : TilePlace) : (x.poisonPlace p).issue = x.issue := by
  cases p with
  | name n => exact x.poisonTile_issue _
  | spill a => exact x.osWrite_issue a _
  | none => rfl

@[simp] theorem clearPlaces_issue (ps : List TilePlace) : (clearPlaces ps x).issue = x.issue :=
  foldl_preserves Core.issue Core.clearPlace_issue x ps

@[simp] theorem Dense.commit_issue (d : Dense) (p : Problem) (kv : Nat) : (d.commit p kv x).1.issue = x.issue := by
  refine foldl_preserves (fun st : Core × Tallies => st.1.issue) (fun st t => ?_) (x, {}) _
  dsimp only
  split
  · rfl
  · exact foldl_preserves (fun st : Core × Tallies => st.1.issue) (fun st r => by simp) _ _

@[simp] theorem Dense.writeOut_issue (d : Dense) (p : Problem) : (d.writeOut p x).1.issue = x.issue :=
  foldl_preserves (fun st : Core × Tallies => st.1.issue) (fun st i => by simp) (x, {}) _

@[simp] theorem Dense.commitProblem_issue (d : Dense) (p : Problem) (kv : Nat) (bad tagBad : Bool) :
    (d.commitProblem p kv bad tagBad x).1.issue = x.issue := by
  unfold Dense.commitProblem
  dsimp only
  rw [foldl_preserves Core.issue fun y q => by cases q <;> simp]
  split_ifs <;> simp [foldl_preserves Core.issue Core.poisonPlace_issue]

@[simp] theorem Dense.outProblem_issue (d : Dense) (p : Problem) : (d.outProblem p x).1.issue = x.issue := by
  unfold Dense.outProblem
  split_ifs <;> simp

@[simp] theorem Dense.runSlices_issue (d : Dense) (p : Problem) (kv : Nat) (tagBad : Bool) (free : Nat) :
    (d.runSlices p kv tagBad free x).1.issue = x.issue := by
  unfold Dense.runSlices
  extract_lets s f C F rd names aRow aCol runs rows cols lineBad slotNo work c0 c1 c2 c3 fo outRow writes outs c4 c5
  have h0 : c0.issue = x.issue := by simp only [c0, work]; split_ifs <;> simp
  have h1 : c1.issue = c0.issue :=
    foldl_preserves Core.issue (fun y i => foldl_preserves Core.issue (fun z j => Core.setSlot_issue ..) y _) c0 _
  have h2 : c2.issue = c1.issue := foldl_preserves Core.issue (fun y q => by cases q <;> simp) c1 _
  have h3 : c3.issue = c2.issue := by
    simp only [c3]
    split
    · exact foldl_preserves Core.issue Core.poisonPlace_issue c2 _
    · rfl
  have h4 : c4.issue = c3.issue := foldl_preserves Core.issue (fun y i => Core.osWrite_issue ..) c3 _
  have h5 : c5.issue = c4.issue := by
    simp only [c5]
    split
    · exact foldl_preserves Core.issue (fun y q => by cases q <;> simp) c4 _
    · rfl
  exact h5.trans (h4.trans (h3.trans (h2.trans (h1.trans h0))))

end Issue

/-! ### What its work on the device keeps -/

/-- The issue windows and length registers of all cores. -/
def Dev.issues (s : Dev) (k : CoreId) : List WEntry × Tab Nat := (s.core k).issue

theorem Dev.issues_congr {s t : Dev} (h : t.cores = s.cores) : t.issues = s.issues :=
  funext fun k => congrArg Core.issue (Dev.core_congr h k)

theorem Dev.setCore_issues (s : Dev) (c : CoreId) {x : Core} (h : x.issue = (s.core c).issue) :
    (s.setCore c x).issues = s.issues := by
  funext k
  simp only [Dev.issues, Dev.core_setCore]
  split
  · next hk => rw [hk, h]
  · rfl

theorem Dev.modCore_issues (s : Dev) (c : CoreId) {f : Core → Core} (h : ∀ x, (f x).issue = x.issue) :
    (s.modCore c f).issues = s.issues := s.setCore_issues c (h _)

@[simp] theorem Dev.runFault_issues (s : Dev) (c : CoreId) (h : Option HoldId) (i : Word32) (k : Status) :
    (s.runFault c h i k).issues = s.issues := Dev.issues_congr (s.runFault_cores c h i k)

@[simp] theorem Dev.count_issues (s : Dev) (h : Option HoldId) (a n : Nat) : (s.count h a n).issues = s.issues :=
  Dev.issues_congr (s.count_cores h a n)

@[simp] theorem Dev.rotateSend_issues (s : Dev) (h : HoldId) (c : CoreId) (e : WEntry) (spans : List (Nat × Nat)) :
    (s.rotateSend h c e spans).issues = s.issues := by
  unfold Dev.rotateSend
  extract_lets me ls k t sent
  have hsent : sent.issues = s.issues := s.modCore_issues c fun _ => rfl
  split
  · rfl
  · split
    · exact hsent
    · split
      · exact hsent
      · rw [Dev.modCore_issues, Dev.modCore_issues, hsent] <;> intro x <;> rfl

/-- What a run keeps that neither waits anew, nor asks the host anew, nor touches the issue state of a core. -/
def Run.kept (r : Run) : Bool × List Nat × (CoreId → List WEntry × Tab Nat) := (r.wait, r.need, r.dev.issues)

@[simp] theorem Run.plough_kept (r : Run) (c : CoreId) (h : HoldId) (d : Dense) (kv : Nat) (ps : List Problem) (t : Tallies)
    (skip : Nat) : (r.plough c h d kv ps t skip).kept = r.kept := by
  have hcores : (r.plough c h d kv ps t skip).dev.cores = r.dev.cores := by
    unfold Run.plough
    dsimp only
    split_ifs <;> simp
  simp only [Run.kept, Dev.issues_congr hcores]
  simp [Run.plough]

/-- The commits of a GROUPED problem (R108). -/
theorem Dense.groupStep_kept (d : Dense) (c : CoreId) (a : Agent) (e : WEntry) (kv base lines : Nat) (broken : Bool)
    (st : GroupedRun) (g : GroupEntry × Nat × Bool × Bool) :
    (d.groupStep c a e kv base lines broken st g).run.kept = st.run.kept := by
  unfold Dense.groupStep
  extract_lets F dev0 g q n places p fault dev1 dev2 run tallies me bad res dev3 dev4 dev5 counts
  have hfault : ∀ (s : Dev) (k : Status), (fault s k).issues = s.issues := fun s k => Dev.runFault_issues ..
  have h2 : dev2.issues = dev0.issues := by simp only [dev2, dev1]; split_ifs <;> simp [hfault]
  split
  · simp [Run.kept, hfault, h2, dev0, run]
  · have h3 : dev3.issues = dev2.issues := dev2.setCore_issues c (by simp [res, me])
    have h4 : dev4.issues = dev3.issues := by simp only [dev4]; split_ifs <;> simp [hfault]
    have h5 : dev5.issues = dev4.issues := foldl_preserves Dev.issues (fun s _ => hfault s _) dev4 _
    simp only [Run.kept, h5, h4, h3, h2, dev0, run]

/-- The OUT action of a GROUPED problem (R77, R205). -/
theorem Dense.groupOut_kept (d : Dense) (c : CoreId) (st : Run × Tallies) (q : Problem × Bool) :
    (d.groupOut c st q).1.kept = st.1.kept := by
  unfold Dense.groupOut
  extract_lets f lost res run
  split
  · have hlost : ∀ x, (lost x).issue = x.issue := fun x => foldl_preserves Core.issue (fun y i => Core.osWrite_issue ..) x _
    dsimp only
    split
    · simp only [Run.kept, Run.modCore, st.1.dev.modCore_issues c hlost]
    · rfl
  · have h := st.1.dev.setCore_issues c (Dense.outProblem_issue (st.1.dev.core c) d q.1)
    simp only [Run.kept, res, run, h]

/-- PRODUCT ends at once and keeps the issue state of every core. -/
theorem productBody_kept (c : CoreId) (a : Agent) (e : WEntry) (r : Run) :
    ∃ q, productBody c a e r = some q ∧ q.kept = r.kept := by
  unfold productBody
  extract_lets d F kv rows need places p core bad broken commits outs sums res used work r1 r2 skip r3
  have hres : res.1.issue = core.issue := by simp only [res, outs, commits]; split <;> simp
  have h1 : r1.kept = r.kept := by
    have h : r1.dev.issues = (r.dev.setCore c res.1).issues := rfl
    simp only [Run.kept, h, r.dev.setCore_issues c hres, r1]
  have h2 : r2.kept = r1.kept := by simp only [r2]; split <;> simp [Run.kept]
  have h3 : r3.kept = r.kept := (r2.plough_kept ..).trans (h2.trans h1)
  split
  · exact ⟨_, rfl, by rw [← h3]; simp [Run.kept]⟩
  · exact ⟨_, rfl, h3⟩

/-- GROUPED ends at once and keeps the issue state of every core. -/
theorem groupedBody_kept (c : CoreId) (a : Agent) (e : WEntry) (r : Run) :
    ∃ q, groupedBody c a e r = some q ∧ q.kept = r.kept := by
  unfold groupedBody
  extract_lets d kv core base lines entries runs broken st tallies out ran skip r1
  have hst : st.run.kept = r.kept :=
    foldl_preserves (fun g : GroupedRun => g.run.kept) (fun g i => d.groupStep_kept ..) { run := r } _
  have hout : out.1.kept = st.run.kept :=
    foldl_preserves (fun x : Run × Tallies => x.1.kept) (fun x q => d.groupOut_kept c x q) _ _
  have h1 : r1.kept = r.kept := (Run.plough_kept ..).trans (hout.trans hst)
  split
  · exact ⟨_, rfl, by rw [← h1]; simp [Run.kept]⟩
  · exact ⟨_, rfl, h1⟩

/-! ### The commands -/

/-- A body that ends at once and keeps the issue state of its core leaves its entry completed. -/
theorem Dev.runUnit_completes {s : Dev} {c : CoreId} {cls : Nat} {ops : List Nat} {e : WEntry} {h : HoldId}
    {body : Agent → WEntry → Run → Option Run} (ready : s.unitReady c cls ops e h)
    (hbody : ∃ q, body ((s.core c).agent c h e) e { dev := s } = some q ∧ q.kept = ({ dev := s } : Run).kept) :
    (s.coreScope (s.runUnit c cls ops body)).completed c e := by
  obtain ⟨q, hq, hkept⟩ := hbody
  obtain ⟨hwait, hneed, hissues⟩ : q.wait = false ∧ q.need = [] ∧ q.dev.issues = s.issues := by
    simpa [Run.kept] using hkept
  have hwin : (q.dev.core c).window = (s.core c).window := congrArg Prod.fst (congrFun hissues c)
  have hmem : e ∈ (q.dev.core c).window := hwin ▸ Core.mem_window_of_running ready.1
  rw [Dev.runUnit_of_ready ready hq hwait hneed, Dev.completed, Dev.core_congr (Dev.coreScope_cores s _), Dev.finish_core,
    if_pos rfl]
  exact Core.completed_of_mem hmem

/-- Settles O9: the results of a vector descriptor go into its core's stores, and the products leave every issue window as
it was until their own entry completes. -/
theorem vectorAndProductDescriptorsRunToCompletion : Obligations.VectorAndProductDescriptorsRunToCompletion := by
  unfold Obligations.VectorAndProductDescriptorsRunToCompletion
  refine ⟨fun s c e h op i hi ready => exec_vector_completes (exec_vector_command hi) ready,
    fun s c e h => ⟨fun ready => ?_, fun ready => ?_⟩⟩
  · exact ⟨_, rfl, rfl, Dev.runUnit_completes ready (productBody_kept ..), rfl, rfl, rfl⟩
  · exact ⟨_, rfl, rfl, Dev.runUnit_completes ready (groupedBody_kept ..), rfl, rfl, rfl⟩

end Sys2Proof.Machine

/-! The sequencer (R102, R103, R105, R253, R262): what a start reads, and what recording completion leaves alone. -/

namespace Sys2Proof.Machine

/-! ### Start (R102, R105) -/

/-- A core whose units run has its clock. -/
theorem Dev.clocked_of_coreRuns {s : Dev} {c : CoreId} (h : s.coreRuns c = true) : s.clocked = true := by
  simp only [Dev.coreRuns, Bool.and_eq_true] at h
  exact h.2

/-- The last values read from the length registers, once an entry has started (R170). -/
def Dev.lensRead (s : Dev) (c : CoreId) (h : HoldId) (e : WEntry) (last : Tab Nat) : Tab Nat :=
  (resOf e.desc (s.core c) (s.holding h) ((s.holding h).dfnOf c e.stream)).lrR.foldl
    (fun t n => Tab.set 0 t n ((s.core c).lreg n)) last

/-- A core whose entry has started. -/
def Dev.begun (s : Dev) (c : CoreId) (h : HoldId) (e : WEntry) : Core :=
  let core := s.core c
  { core with
    window := core.window.map fun w => if sameEntry w e then w.begin (s.holding h) c core s.dt else w
    lastLen := s.lensRead c h e core.lastLen }

/-- A start that is no replay begins its entry, and leaves every other core alone. -/
theorem Dev.startSlot_core {s : Dev} {c : CoreId} {slot : Nat} {e : WEntry} {h : HoldId}
    (hslot : (s.core c).window[slot]? = some e) (hhold : s.holdingOfCore c = some h) (hruns : s.coreRuns c = true)
    (hphase : e.phase = .accepted) (hmay : s.mayStart c (s.holding h) e h = true) (hreplay : e.replay = false) (k : CoreId) :
    (s.startSlot c slot).core k = if k = c then s.begun c h e else s.core k := by
  have hcores : (s.startSlot c slot).cores = ((s.modEntry c e fun w => w.begin (s.holding h) c (s.core c) s.dt).modCore c
      fun y => { y with lastLen := s.lensRead c h e y.lastLen }).cores := by
    unfold Dev.startSlot
    rw [hslot, hhold]
    dsimp only
    rw [hruns, hphase, hmay, hreplay]
    simp only [bne_self_eq_false, Bool.not_true, Bool.or_self, Bool.false_and, Bool.false_eq_true, if_false]
    split <;> rfl
  rw [Dev.core_congr hcores, Dev.core_modCore, Dev.modEntry]
  by_cases hk : k = c
  · simp only [Dev.core_modCore, hk, if_true]
    rfl
  · simp only [Dev.core_modCore, hk, if_false]

/-- The entry that starts stands in its slot with what it has read. -/
theorem Dev.begun_window {s : Dev} {c : CoreId} {slot : Nat} {e : WEntry} (h : HoldId)
    (hslot : (s.core c).window[slot]? = some e) :
    (s.begun c h e).window[slot]? = some (e.begin (s.holding h) c (s.core c) s.dt) := by
  simp [Dev.begun, hslot]

/-! ### The egress hold and the journal leave cores, queues and memory alone (R225, R253, R395) -/

/-- The tables of a device that neither counters nor the egress hold touch. -/
def Dev.still (s : Dev) : Tab Core × Tab Queue × List Host.Cell × Tab (Option Tag) := (s.cores, s.queues, s.mem, s.tags)

theorem Dev.still_eq_iff {s t : Dev} :
    t.still = s.still ↔ t.cores = s.cores ∧ t.queues = s.queues ∧ t.mem = s.mem ∧ t.tags = s.tags := by
  simp [Dev.still]

theorem Dev.endEgress_still (s : Dev) (i : EgressItem) : (s.endEgress i).still = s.still := by
  unfold Dev.endEgress
  split <;> rfl

theorem Dev.drainEgress_still (s : Dev) (l : List EgressItem) : (s.drainEgress l).still = s.still := by
  induction l generalizing s with
  | nil => rfl
  | cons i l ih =>
    unfold Dev.drainEgress
    split
    · rfl
    · exact (ih _).trans (s.endEgress_still i)

theorem Dev.settleEgress_still (s : Dev) (mine : EgressItem → Bool) (kind : Clearance) :
    (s.settleEgress mine kind).still = s.still := by
  unfold Dev.settleEgress
  extract_lets hit s1
  have h1 : s1.still = s.still := foldl_preserves Dev.still (f := fun d i => d.heldCycles i.holding) (fun d i => rfl) s hit
  split
  · rfl
  · exact (Dev.drainEgress_still _ _).trans h1

/-- A clearance that no held write waits for changes nothing. -/
theorem Dev.settleEgress_of_none {s : Dev} {mine : EgressItem → Bool} (kind : Clearance)
    (h : ∀ i ∈ s.egress, i.held = true → mine i = false) : s.settleEgress mine kind = s := by
  have hnone : (s.egress.filter fun i => i.held && mine i) = [] := by
    simpa only [List.filter_eq_nil_iff, Bool.and_eq_true, not_and, Bool.not_eq_true] using h
  simp [Dev.settleEgress, hnone]

theorem Dev.journalWrite_still (s : Dev) : s.journalWrite.still = s.still := by
  refine foldl_preserves Dev.still (fun d t => ?_) s _
  dsimp only
  split <;> rfl

theorem Dev.journalWrite_outbox (s : Dev) : s.journalWrite.outbox = s.outbox := by
  refine foldl_preserves Dev.outbox (fun d t => ?_) s _
  dsimp only
  split <;> rfl

/-! ### Recording completion (R103, R262, R385) -/

/-- The window without the entries of a name. -/
def Core.drop (x : Core) (e : WEntry) : Core := { x with window := x.window.filter fun w => !sameEntry w e }

/-- A queue whose recorded-complete index moves past an index (R443). -/
def Queue.record (q : Queue) (i : Word32) : Queue := { q with recorded := i + 1, unreported := q.unreported + 1 }

/-- What recording an entry makes of a device: its entry leaves the window, and but for a replay its queue moves on. -/
def Dev.recordedAs (s : Dev) (c : CoreId) (queue : Option Nat) (e : WEntry) : Dev :=
  let s1 := s.modCore c fun x => x.drop e
  match queue with
  | some q => if e.replay then s1 else s1.modQueue q fun y => y.record e.index
  | none => s1

theorem Dev.recordFront_still (s : Dev) (c : CoreId) (h : HoldId) (e : WEntry) :
    (s.recordFront c h e).still
      = (s.recordedAs c (((s.holding h).stageOf c e.stream).map fun g => g.dfn.queue) e).still := by
  unfold Dev.recordFront
  extract_lets s0 s1
  obtain ⟨hcores, hqueues, hmem, htags⟩ := Dev.still_eq_iff.1 (s.settleEgress_still
    (fun i => i.agent == c.val && i.stream == e.stream && i.index == e.index) .pass)
  have h1 : s1.still = (s.modCore c fun x => x.drop e).still := by
    simp only [s1, s0, Dev.still_eq_iff, Dev.modCore, hcores, hqueues, hmem, htags, Core.drop, and_self]
  obtain ⟨hcores1, hqueues1, hmem1, htags1⟩ := Dev.still_eq_iff.1 h1
  cases (s.holding h).stageOf c e.stream with
  | none => exact h1
  | some g =>
    dsimp only [Option.map, Dev.recordedAs]
    split
    · split
      · exact h1
      · exact h1
    · rw [Dev.journalWrite_still]
      simp only [Dev.still_eq_iff, Dev.modQueue, Dev.modHolding, hcores1, hqueues1, hmem1, htags1, Queue.record, and_self]

theorem Dev.recordedAs_core (s : Dev) (c k : CoreId) (queue : Option Nat) (e : WEntry) :
    (s.recordedAs c queue e).core k = if k = c then (s.core c).drop e else s.core k := by
  have hcores : (s.recordedAs c queue e).cores = (s.modCore c fun x => x.drop e).cores := by
    cases queue with
    | none => rfl
    | some q => simp only [Dev.recordedAs]; split <;> rfl
  rw [Dev.core_congr hcores, Dev.core_modCore]

theorem Dev.recordedAs_memory (s : Dev) (c : CoreId) (queue : Option Nat) (e : WEntry) :
    (s.recordedAs c queue e).mem = s.mem ∧ (s.recordedAs c queue e).tags = s.tags := by
  cases queue with
  | none => exact ⟨rfl, rfl⟩
  | some q => simp only [Dev.recordedAs]; split <;> exact ⟨rfl, rfl⟩

/-- Recording takes its entry from the window, and leaves every other core alone. -/
theorem Dev.recordFront_core (s : Dev) (c k : CoreId) (h : HoldId) (e : WEntry) :
    (s.recordFront c h e).core k = if k = c then (s.core c).drop e else s.core k := by
  obtain ⟨hcores, -⟩ := Dev.still_eq_iff.1 (s.recordFront_still c h e)
  rw [Dev.core_congr hcores, Dev.recordedAs_core]

theorem Dev.recordFront_mem (s : Dev) (c : CoreId) (h : HoldId) (e : WEntry) : (s.recordFront c h e).mem = s.mem := by
  obtain ⟨-, -, hmem, -⟩ := Dev.still_eq_iff.1 (s.recordFront_still c h e)
  exact hmem.trans (s.recordedAs_memory ..).1

theorem Dev.recordFront_tags (s : Dev) (c : CoreId) (h : HoldId) (e : WEntry) : (s.recordFront c h e).tags = s.tags := by
  obtain ⟨-, -, -, htags⟩ := Dev.still_eq_iff.1 (s.recordFront_still c h e)
  exact htags.trans (s.recordedAs_memory ..).2

/-- The queue of a recorded entry's stage moves on, but for a replay. -/
theorem Dev.recordFront_queue {s : Dev} {c : CoreId} {h : HoldId} {e : WEntry} {g : Stage}
    (hstage : (s.holding h).stageOf c e.stream = some g) :
    (s.recordFront c h e).queue g.dfn.queue =
      if e.replay then s.queue g.dfn.queue else (s.queue g.dfn.queue).record e.index := by
  obtain ⟨-, hqueues, -, -⟩ := Dev.still_eq_iff.1 (s.recordFront_still c h e)
  simp only [Dev.queue, hqueues, hstage, Option.map, Dev.recordedAs]
  split
  · rfl
  · exact (Dev.queue_modQueue ..).trans (if_pos rfl)

/-- Recording an entry of which no write is held sends nothing. -/
theorem Dev.recordFront_outbox {s : Dev} {c : CoreId} {h : HoldId} {e : WEntry}
    (hnone : ∀ i ∈ s.egress, i.held = true → ¬ (i.agent = c.val ∧ i.stream = e.stream ∧ i.index = e.index)) :
    (s.recordFront c h e).outbox = s.outbox := by
  have hsettle := s.settleEgress_of_none (mine := fun i => i.agent == c.val && i.stream == e.stream && i.index == e.index)
    .pass fun i hi hheld => by simpa [and_assoc] using hnone i hi hheld
  simp only [Dev.recordFront, hsettle]
  split
  · rfl
  · split
    · split <;> rfl
    · exact Dev.journalWrite_outbox _

/-! ### The commands -/

/-- The sequencer's commands take effect on a core that runs. -/
theorem exec_descriptorRecordComplete {s : State} {c : CoreId} {st : Fin 2} (hruns : s.dev.coreRuns c = true) :
    exec (.descriptorRecordComplete c st) s = .next { s with dev := s.dev.seqScope (s.dev.recordNext c st) } :=
  work_clocked s _ (Dev.clocked_of_coreRuns hruns)

theorem exec_descriptorStart {s : State} {c : CoreId} {slot : Fin 16} (hruns : s.dev.coreRuns c = true) :
    exec (.descriptorStart c slot) s = .next { s with dev := s.dev.coreScope (s.dev.startSlot c slot.val) } :=
  work_clocked s _ (Dev.clocked_of_coreRuns hruns)

/-- The front entry's span is recorded as a whole, or nothing is (R262). -/
theorem Dev.recordNext_of_front {s : Dev} {c : CoreId} {st : Fin 2} {e : WEntry} {h : HoldId}
    (hfront : ((s.core c).window.find? fun w => w.stream == st) = some e) (hhold : s.holdingOfCore c = some h)
    (hruns : s.coreRuns c = true) :
    s.recordNext c st =
      if ((s.core c).recordSpan e).all (s.recordable c h) then
        ((s.core c).recordSpan e).foldl (fun d w => d.recordFront c h w) s
      else s := by
  simp [Dev.recordNext, hfront, hhold, hruns]

/-- Recording several entries takes each from the window. -/
theorem Dev.foldl_recordFront_window (s : Dev) (c : CoreId) (h : HoldId) (ms : List WEntry) :
    ((ms.foldl (fun d w => d.recordFront c h w) s).core c).window
      = (s.core c).window.filter fun w => !(ms.any fun m => sameEntry w m) := by
  induction ms generalizing s with
  | nil => simp
  | cons m ms ih =>
    rw [List.foldl_cons, ih, Dev.recordFront_core, if_pos rfl]
    simp [Core.drop, List.filter_filter, Bool.and_comm]

/-- An accepted entry that may start reads the length registers as it starts. -/
theorem exec_descriptorStart_starts {s : State} {c : CoreId} {slot : Fin 16} {e : WEntry} {h : HoldId}
    (hslot : (s.dev.core c).window[slot.val]? = some e) (hhold : s.dev.holdingOfCore c = some h)
    (hruns : s.dev.coreRuns c = true) (hphase : e.phase = .accepted)
    (hmay : s.dev.mayStart c (s.dev.holding h) e h = true) (hreplay : e.replay = false) :
    ∃ t, exec (.descriptorStart c slot) s = .next t ∧ t.pending = s.pending
      ∧ t.dev.core c = s.dev.begun c h e ∧ s.dev.sameBeyondCore t.dev c := by
  have hcore := Dev.startSlot_core hslot hhold hruns hphase hmay hreplay
  refine ⟨_, exec_descriptorStart hruns, rfl, ?_, Dev.sameBeyondCore_coreScope fun k hk => ?_⟩
  · exact (hcore c).trans (if_pos rfl)
  · exact (hcore k).trans (if_neg hk)

/-- Settles O8: a start writes its entry and the last-read lengths alone, and recording takes the entries of its span from
the window while the egress hold and the journal touch no core, queue or memory. -/
theorem descriptorsStartAndAreRecorded : Obligations.DescriptorsStartAndAreRecorded := by
  unfold Obligations.DescriptorsStartAndAreRecorded
  refine ⟨?_, ?_, ?_⟩
  · intro s c slot e h hslot hhold hruns hphase hmay hreplay
    obtain ⟨t, hexec, hpend, hcore, hrest⟩ := exec_descriptorStart_starts hslot hhold hruns hphase hmay hreplay
    refine ⟨t, hexec, hpend, ⟨e.begin _ c _ _, hcore ▸ Dev.begun_window h hslot, rfl, rfl, rfl, rfl⟩, ?_, ?_, hrest⟩
    · rw [hcore]; exact List.length_map _
    · rw [hcore]; rfl
  · intro s c st e h g hfront hhold hstage hruns hphase hsettled hsuspends hchain hfence hspan
    have hstream : e.stream = st := by simpa using List.find?_some hfront
    have hrec : s.dev.recordNext c st = s.dev.recordFront c h e := by
      rw [Dev.recordNext_of_front hfront hhold hruns, hspan]
      simp [Dev.recordable, hphase, hsettled, hsuspends, hchain, hfence]
    have hqueue := Dev.recordFront_queue (s := s.dev) (c := c) (h := h) (e := e) (hstream ▸ hstage)
    refine ⟨_, exec_descriptorRecordComplete hruns, rfl, ?_⟩
    rw [hrec]
    refine ⟨?_, ?_, ?_, Dev.recordFront_mem .., Dev.recordFront_outbox, fun k hk => ?_⟩
    · exact (congrArg Queue.recorded hqueue).trans (apply_ite Queue.recorded _ _ _)
    · exact (congrArg Queue.unreported hqueue).trans (by split <;> rfl)
    · exact congrArg Core.window ((Dev.recordFront_core ..).trans (if_pos rfl))
    · exact (Dev.recordFront_core ..).trans (if_neg hk)
  · intro s c st e h hfront hhold hruns
    have hnext := Dev.recordNext_of_front hfront hhold hruns
    refine ⟨fun hall => ⟨_, exec_descriptorRecordComplete hruns, rfl, ?_⟩, fun ⟨m, hm, hnot⟩ => ?_⟩
    · rw [hnext, if_pos (List.all_eq_true.2 hall)]
      exact ⟨Dev.foldl_recordFront_window .., foldl_preserves Dev.mem (fun d w => d.recordFront_mem c h w) s.dev _,
        foldl_preserves Dev.tags (fun d w => d.recordFront_tags c h w) s.dev _⟩
    · rw [exec_descriptorRecordComplete hruns, hnext, if_neg fun hall => by simp [List.all_eq_true.1 hall m hm] at hnot]
      rfl

end Sys2Proof.Machine

/-! Acceptance while a gradient home is still to be loaded (R194, R384): nothing enters the window before the load, so that
a skipped descriptor does not either. -/

namespace Sys2Proof.Machine

/-- The reads of a stage's gradient home must wait (R384). -/
def Dev.homeWaits (s : Dev) (h : HoldId) (c : CoreId) (g : StageDef) : Bool :=
  (List.range g.gradCount).any fun i => s.inHeld { die := c.val / 8, holding := h } (g.gradHome + i * 65536) 65536

/-- A gradient home whose reads must wait is left to be loaded, and no core changes. -/
theorem Dev.bringHome_cores_of_waits {s : Dev} {h : HoldId} {c : CoreId} {g : StageDef} (hwaits : s.homeWaits h c g = true) :
    (s.bringHome h c g).cores = s.cores := by
  have hdef : s.bringHome h c g = (if s.homeWaits h c g then s else s.loadHome h c g).modHolding h fun x =>
      x.modStage g.stage fun t => { t with toLoad := s.homeWaits h c g } := rfl
  rw [hdef, hwaits]
  rfl

/-- The next descriptor of a stream waits until the stage's gradient home is loaded (R194). -/
theorem Dev.acceptNext_of_toLoad {s : Dev} {c : CoreId} {st : Fin 2} {h : HoldId} {g : Stage}
    (hhold : s.holdingOfCore c = some h) (hstage : (s.holding h).stageOf c st = some g) (hruns : s.coreRuns c = true)
    (hbound : (s.queue g.dfn.queue).state = .bound) (henabled : (s.holding h).state = .enabled)
    (hroom : (s.core c).window.length < 16) (hnext : seqLt g.next (s.queue g.dfn.queue).accepted = true)
    (hload : g.toLoad = true) : s.acceptNext c st = s.bringHome h c g.dfn := by
  simp [Dev.acceptNext, hhold, hstage, hruns, hbound, henabled, hroom, hnext, hload]

/-- An acceptance that changes no core opens no ROUTE. -/
theorem Dev.openRoute_of_cores {s t : Dev} (c : CoreId) (h : t.cores = s.cores) : s.openRoute t c = t := by
  unfold Dev.openRoute
  split
  · simp [Dev.core_congr h]
  · rfl

/-! ### A skipped descriptor whose stage waits for its gradient home -/

/-- A stage that came to core 0 while the table channel of its gradient home was quiesced. -/
def waitingStage : Stage :=
  { dfn := { stage := 1, queue := 0, core := 0, succ := [], osFirst := 0, osLines := 0, accFirst := 0, accCount := 0
             vregFirst := 0, vregCount := 0, lregMask := 0, gradFirst := 0, gradCount := 1, gradHome := 0, logVa := 0 }
    runsOn := some 0, inherited := false, next := 0, lastRest := 0, restSlots := [], replayEnd := 0, atStep := false
    slots := [], takeLog := [], lenLog := [], toLoad := true }

/-- The module in service, with a holding of core 0 whose page tables begin at block 0, on a channel that retrains: queue 0
holds one descriptor, and a RESUME has skipped it. -/
def waitingDev : Dev :=
  { gotre := { up := true, deviceState := .ready }
    holdings := [(0, { state := .enabled, cores := [0], stages := [waitingStage], root := some 0 })]
    queues := [(0, { state := .bound, holding := some 0, log2 := 6, accepted := 1, skip := some 0 })]
    stackTab := [(0, { retraining := true })] }

theorem waitingDev_occasion :
    waitingDev.holdingOfCore 0 = some 0 ∧ (waitingDev.holding 0).stageOf 0 0 = some waitingStage
    ∧ waitingDev.coreRuns 0 = true ∧ (waitingDev.queue 0).state = .bound ∧ (waitingDev.holding 0).state = .enabled
    ∧ (waitingDev.core 0).window = [] ∧ seqLt 0 (waitingDev.queue 0).accepted = true ∧ (waitingDev.queue 0).skip = some 0 := by
  decide +kernel

theorem waitingDev_homeWaits : waitingDev.homeWaits 0 0 waitingStage.dfn = true := by decide +kernel

/-- The acceptance leaves the window empty. -/
theorem waitingDev_accept_window : ((waitingDev.acceptScope (waitingDev.accept 0 0)).core 0).window = [] := by
  obtain ⟨hhold, hstage, hruns, hbound, henabled, hwin, hnext, -⟩ := waitingDev_occasion
  have hcores : (waitingDev.acceptNext 0 0).cores = waitingDev.cores := by
    rw [Dev.acceptNext_of_toLoad hhold hstage hruns hbound henabled (by rw [hwin]; decide) hnext rfl]
    exact Dev.bringHome_cores_of_waits waitingDev_homeWaits
  rw [Dev.core_congr (Dev.acceptScope_cores ..), Dev.accept, Dev.openRoute_of_cores 0 hcores, Dev.core_congr hcores, hwin]

/-- Refutes O7: a stage whose gradient home is still to be loaded accepts nothing (R194), so that its skipped descriptor
stays out of the window. -/
theorem not_descriptorsEnterTheWindow : ¬ Obligations.DescriptorsEnterTheWindow := by
  unfold Obligations.DescriptorsEnterTheWindow
  intro claim
  obtain ⟨hhold, hstage, hruns, hbound, henabled, hwin, hnext, hskip⟩ := waitingDev_occasion
  obtain ⟨hskipped, -⟩ := claim { pending := [], dev := waitingDev } 0 0 0 waitingStage hhold hstage hruns hbound
    (.inl henabled) (by rw [hwin]; decide) hnext
  obtain ⟨t, hexec, -, hentered, -⟩ := hskipped (.inl hskip)
  have ht : t.dev = waitingDev.acceptScope (waitingDev.accept 0 0) := by
    have hwork := work_clocked { pending := [], dev := waitingDev } (waitingDev.acceptScope (waitingDev.accept 0 0))
      (Dev.clocked_of_coreRuns hruns)
    cases hexec.symm.trans hwork
    rfl
  rw [ht, waitingDev_accept_window] at hentered
  simp at hentered

end Sys2Proof.Machine

/-! Work with memory leaves every core alone (R231 to R250): the controllers serve, translate and hold requests beside the
cores, so that what a unit's run makes of its core is the unit's own. -/

namespace Sys2Proof.Machine

/-! ### The controllers (R228 to R238) -/

section Controllers
variable (s : Dev)

@[simp] theorem Dev.countMem_cores (k : StackId) (o : Owner) (off n : Nat) : (s.countMem k o off n).cores = s.cores := rfl

@[simp] theorem Dev.tagRead_cores (k : StackId) (o : Owner) : (s.tagRead k o).cores = s.cores := rfl

@[simp] theorem Dev.lcSlots_cores (k : StackId) (cls : MemClass) : (s.lcSlots k cls).cores = s.cores := by
  unfold Dev.lcSlots
  split <;> rfl

@[simp] theorem Dev.offlineAccess_cores (k : StackId) (o : Owner) : (s.offlineAccess k o).cores = s.cores := by
  unfold Dev.offlineAccess
  split <;> rfl

@[simp] theorem Dev.metPoison_cores (h : Option HoldId) (n : Nat) : (s.metPoison h n).cores = s.cores := by
  cases h <;> rfl

@[simp] theorem Dev.eccRead_cores (k : StackId) (o : Owner) (sec : Nat) (e : EccOutcome) :
    (s.eccRead k o sec e).cores = s.cores := by
  cases e <;> rfl

@[simp] theorem Dev.meetEcc_cores (k : StackId) (o : Owner) (sec : Nat) : (s.meetEcc k o sec).cores = s.cores := by
  unfold Dev.meetEcc
  split
  · rfl
  · exact Dev.eccRead_cores ..

@[simp] theorem Dev.meetAll_cores (k : StackId) (o : Owner) (secs : List Nat) : (s.meetAll k o secs).cores = s.cores :=
  foldl_preserves Dev.cores (fun d x => d.meetEcc_cores k o x) s secs

@[simp] theorem Dev.readSector1_cores (sec : Nat) (o : Owner) : (s.readSector1 sec o).2.cores = s.cores := by
  unfold Dev.readSector1
  dsimp only
  split_ifs <;> simp

@[simp] theorem Dev.readSector_cores (sec : Nat) (o : Owner) : (s.readSector sec o).2.cores = s.cores := by
  unfold Dev.readSector
  dsimp only
  split <;> simp

@[simp] theorem Dev.readSectors_cores (o : Owner) (secs : List Nat) : (s.readSectors o secs).2.cores = s.cores := by
  induction secs generalizing s with
  | nil => rfl
  | cons x xs ih => exact (ih _).trans (s.readSector_cores x o)

@[simp] theorem Dev.verdict_cores (b : Nat) (o : Owner) (data : List PByte) : (s.verdict b o data).2.cores = s.cores := by
  unfold Dev.verdict
  dsimp only
  split <;> rfl

@[simp] theorem Dev.readBlock_cores (b : Nat) (o : Owner) : (s.readBlock b o).2.2.cores = s.cores := by
  unfold Dev.readBlock
  dsimp only
  split <;> simp

@[simp] theorem Dev.freshBlock_cores (b : Nat) (whole : Bool) : (s.freshBlock b whole).cores = s.cores := by
  cases whole <;> rfl

@[simp] theorem Dev.putBytes_cores (pa : Nat) (data : List (Option PByte)) (e : BitVec 16) :
    (s.putBytes pa data e).cores = s.cores := rfl

@[simp] theorem Dev.storeBlock_cores (pa : Nat) (data : List (Option PByte)) (o : Owner) (e : BitVec 16) (pending : Bool) :
    (s.storeBlock pa data o e pending).cores = s.cores := by
  unfold Dev.storeBlock
  dsimp only
  split_ifs <;> simp

@[simp] theorem Dev.writeBlock_cores (pa : Nat) (data : List (Option PByte)) (o : Owner) (e : BitVec 16) (pending : Bool) :
    (s.writeBlock pa data o e pending).cores = s.cores := by
  unfold Dev.writeBlock
  dsimp only
  split_ifs <;> simp

@[simp] theorem Dev.clearTag_cores (b : Nat) (secs : List Nat) (kind : Clearance) :
    (s.clearTag b secs kind).cores = s.cores := by
  cases kind <;> rfl

@[simp] theorem Dev.scrubTag_cores (b : Nat) (k : StackId) : (s.scrubTag b k).cores = s.cores := by
  unfold Dev.scrubTag
  dsimp only
  split_ifs <;> rfl

@[simp] theorem Dev.scrubRead_cores (b : Nat) : (s.scrubRead b).cores = s.cores := by
  unfold Dev.scrubRead
  dsimp only
  split <;> simp

@[simp] theorem Dev.mirrorFirst_cores (b : Nat) : (s.mirrorFirst b).cores = s.cores := by
  refine foldl_preserves Dev.cores (fun d h => ?_) s _
  dsimp only
  split
  · rfl
  · split <;> simp

@[simp] theorem Dev.perform_cores (r : MemReq) : (s.perform r).cores = s.cores := by
  unfold Dev.perform
  cases r with
  | read sec whole o cls wait => dsimp only; split <;> simp
  | write pa o e cls data pending => simp
  | clear b secs o e kind => dsimp only; split <;> simp
  | scrub b => simp

@[simp] theorem Dev.noteFullPending_cores (r : MemReq) (why : WaitFor) : (s.noteFullPending r why).cores = s.cores := by
  unfold Dev.noteFullPending
  split <;> rfl

@[simp] theorem Dev.addWait_cores (r : MemReq) (why : WaitFor) (fails : Bool) :
    (s.addWait r why fails).cores = s.cores := Dev.noteFullPending_cores ..

@[simp] theorem Dev.request_cores (r : MemReq) : (s.request r).cores = s.cores := by
  unfold Dev.request
  split <;> simp

@[simp] theorem Dev.releaseFrom_cores (kept ws : List MemWait) : (s.releaseFrom kept ws).cores = s.cores := by
  induction ws generalizing s kept with
  | nil => rfl
  | cons w ws ih =>
    unfold Dev.releaseFrom
    split
    · exact ih ..
    · split
      · split <;> simp [ih]
      · rw [ih]
        split <;> simp

@[simp] theorem Dev.releaseTimes_cores (n : Nat) : (s.releaseTimes n).cores = s.cores := by
  induction n generalizing s with
  | zero => rfl
  | succ n ih =>
    unfold Dev.releaseTimes
    dsimp only
    split <;> simp [ih]

@[simp] theorem Dev.releasePoisoned_cores (r : Dev) (b : Nat) : (s.releasePoisoned r b).cores = r.cores := by
  unfold Dev.releasePoisoned
  split
  · exact r.releaseTimes_cores _
  · rfl

end Controllers

/-! ### Translation (R246 to R251, R268) -/

section Translation
variable (s : Dev)

@[simp] theorem Dev.cacheLeaf_cores (n : CacheName) (h : HoldId) (level va : Nat) (e : Word64) :
    (s.cacheLeaf n h level va e).cores = s.cores := by
  obtain ⟨x, k, hframe⟩ := s.cacheLeaf_frame n h level va e
  rw [hframe]

@[simp] theorem Dev.cacheCore_cores (a : Agent) (va level : Nat) (e : Word64) :
    (s.cacheCore a va level e).cores = s.cores := by
  obtain ⟨x, k, hframe⟩ := s.cacheCore_frame a va level e
  rw [hframe]

@[simp] theorem Dev.readEntry_cores (cls : MemClass) (pa : Nat) : (s.readEntry cls pa).2.cores = s.cores := by
  simp [Dev.readEntry]

@[simp] theorem Dev.walkEntry_cores (h : HoldId) (walker : Option Nat) (cls : MemClass) (level table va : Nat) :
    (s.walkEntry h walker cls level table va).2.cores = s.cores := by
  unfold Dev.walkEntry
  split
  · rfl
  · dsimp only
    split
    · dsimp only
      split <;> simp
    · simp

@[simp] theorem Dev.walkFrom_cores (h : HoldId) (walker : Option Nat) (cls : MemClass) (va level table : Nat) :
    (s.walkFrom h walker cls va level table).2.cores = s.cores := by
  induction level generalizing s table with
  | zero => exact s.walkEntry_cores ..
  | succ level ih =>
    unfold Dev.walkFrom
    dsimp only
    split
    · simp
    · simp [ih]

@[simp] theorem Dev.walk_cores (h : HoldId) (walker : Option Nat) (cls : MemClass) (va : Nat) :
    (s.walk h walker cls va).2.cores = s.cores := by
  unfold Dev.walk
  split <;> simp

@[simp] theorem Dev.sharedHit_cores (a : Agent) : (s.sharedHit a).cores = s.cores := by
  unfold Dev.sharedHit
  split <;> simp

@[simp] theorem Dev.xlate_cores (a : Agent) (va : Nat) (write : Bool) : (s.xlate a va write).2.cores = s.cores := by
  unfold Dev.xlate
  split
  · rfl
  · split
    · rfl
    · split
      · simp
      · dsimp only
        split <;> simp

@[simp] theorem Dev.xltFault_cores (a : Agent) (va : Nat) (write : Bool) (kind : Nat) :
    (s.xltFault a va write kind).cores = s.cores := by
  unfold Dev.xltFault
  dsimp only
  split_ifs <;> rfl

@[simp] theorem Dev.accessFault_cores (a : Agent) (va : Nat) (write : Bool) (kind : Nat) :
    (s.accessFault a va write kind).cores = s.cores := by
  unfold Dev.accessFault
  dsimp only
  split <;> simp

end Translation

/-! ### Reads and writes of the units (R237, R248, R253, R383, R411) -/

section Access
variable (s : Dev) (r : Run)

@[simp] theorem Dev.crossTo_cores (a : Agent) (pa : Nat) : (s.crossTo a pa).cores = s.cores := by
  obtain ⟨x, y, hframe⟩ := s.cross_frame a.requester a.die (stackDie (s.place pa).stack)
  rw [Dev.crossTo, hframe]

@[simp] theorem Dev.freeBytes_cores (n : Nat) : (s.freeBytes n).2.cores = s.cores := by
  induction n generalizing s with
  | zero => rfl
  | succ n ih => exact ih _

@[simp] theorem Run.hostBytes_cores (a : Agent) (addr n : Nat) : (r.hostBytes a addr n).2.dev.cores = r.dev.cores := by
  unfold Run.hostBytes
  split
  · exact Dev.freeBytes_cores ..
  · rfl

@[simp] theorem Dev.unitRead_cores (a : Agent) (pa n : Nat) : (s.unitRead a pa n).2.cores = s.cores := by
  unfold Dev.unitRead
  dsimp only [Dev.dropReissue]
  split_ifs <;> simp

@[simp] theorem Run.readChunk_cores (a : Agent) (va n : Nat) : (r.readChunk a va n).2.dev.cores = r.dev.cores := by
  unfold Run.readChunk
  split
  · rfl
  · dsimp only
    split
    · simp
    · simp
    · split <;> simp

@[simp] theorem Run.readChunks_cores (a : Agent) (l : List (Nat × Nat)) : (r.readChunks a l).2.dev.cores = r.dev.cores := by
  induction l generalizing r with
  | nil => rfl
  | cons p l ih => exact (ih _).trans (r.readChunk_cores ..)

@[simp] theorem Run.read_cores (a : Agent) (va n : Nat) : (r.read a va n).2.dev.cores = r.dev.cores :=
  r.readChunks_cores ..

@[simp] theorem Dev.endEgress_cores (i : EgressItem) : (s.endEgress i).cores = s.cores :=
  (Dev.still_eq_iff.1 (s.endEgress_still i)).1

@[simp] theorem Dev.runEgress_cores : s.runEgress.cores = s.cores :=
  (Dev.still_eq_iff.1 (s.drainEgress_still s.egress)).1

@[simp] theorem Dev.heldCycles_cores (h : HoldId) : (s.heldCycles h).cores = s.cores := rfl

@[simp] theorem Dev.egressWrite_cores (i : EgressItem) : (s.egressWrite i).cores = s.cores := by
  unfold Dev.egressWrite
  split
  · simp
  · rw [Dev.runEgress_cores]
    refine foldl_preserves Dev.cores (fun d q => ?_) (s.countFree _ _) _
    split <;> simp

@[simp] theorem Dev.unitWrite_cores (q : MemReq) : (s.unitWrite q).cores = s.cores := by
  unfold Dev.unitWrite
  dsimp only [Dev.dropReissue]
  split_ifs <;> simp

@[simp] theorem Dev.writeChunk_cores (a : Agent) (pending : Bool) (va : Nat) (data : List PByte) :
    (s.writeChunk a pending va data).cores = s.cores := by
  unfold Dev.writeChunk
  dsimp only
  split
  · simp
  · simp
  · split <;> simp

@[simp] theorem Dev.writeChunks_cores (a : Agent) (pending : Bool) (data : List PByte) (l : List (Nat × Nat)) :
    (s.writeChunks a pending data l).cores = s.cores := by
  induction l generalizing s data with
  | nil => rfl
  | cons p l ih => exact (ih ..).trans (s.writeChunk_cores ..)

@[simp] theorem Run.write_cores (a : Agent) (pending : Bool) (va : Nat) (data : List PByte) :
    (r.write a pending va data).dev.cores = r.dev.cores := by
  unfold Run.write
  split
  · rfl
  · exact Dev.writeChunks_cores ..

end Access

end Sys2Proof.Machine

/-! The Windrow (R125 to R148): a run changes its own core alone, and not that core's issue window. -/

namespace Sys2Proof.Machine

/-! ### What a unit at work on a core leaves alone -/

/-- What a unit at work on a core leaves alone among the cores: the core's own issue window, and all of every other core. -/
def Dev.around (s : Dev) (c : CoreId) : List WEntry × (CoreId → Core) :=
  ((s.core c).window, fun k => if k = c then {} else s.core k)

theorem Dev.around_eq_iff {s t : Dev} {c : CoreId} :
    t.around c = s.around c ↔ (t.core c).window = (s.core c).window ∧ ∀ k : CoreId, k ≠ c → t.core k = s.core k := by
  simp only [Dev.around, Prod.mk.injEq, and_congr_right_iff, funext_iff]
  refine fun _ => forall_congr' fun k => ?_
  by_cases hk : k = c <;> simp [hk]

theorem Dev.around_congr {s t : Dev} (h : t.cores = s.cores) (c : CoreId) : t.around c = s.around c := by
  simp only [Dev.around, Dev.core_congr h]

theorem Dev.setCore_around (s : Dev) (c : CoreId) {x : Core} (h : x.window = (s.core c).window) :
    (s.setCore c x).around c = s.around c :=
  Dev.around_eq_iff.2 ⟨by rw [Dev.core_setCore, if_pos rfl, h], fun k hk => by rw [Dev.core_setCore, if_neg hk]⟩

theorem Dev.modCore_around (s : Dev) (c : CoreId) {f : Core → Core} (h : ∀ x, (f x).window = x.window) :
    (s.modCore c f).around c = s.around c := s.setCore_around c (h _)

/-! ### Indices, rows and run codes touch no core (R129 to R135, R140) -/

section Reads
variable (w : Wdr) (c : CoreId) (a : Agent) (e : WEntry) (x : WRun)

@[simp] theorem WRun.seqFault_cores (st : Status) : (x.seqFault c a e st).run.dev.cores = x.run.dev.cores :=
  Dev.runFault_cores ..

@[simp] theorem WRun.poisonRows_run (rs : List Nat) : (x.poisonRows rs).run = x.run := rfl

@[simp] theorem WRun.sequential_cores (mem : Bool) (addr n : Nat) :
    (x.sequential c a mem addr n).2.run.dev.cores = x.run.dev.cores := by
  unfold WRun.sequential
  split <;> simp

@[simp] theorem WRun.operand_cores (mem : Bool) (addr n : Nat) :
    (x.operand c a mem addr n).2.run.dev.cores = x.run.dev.cores := by
  unfold WRun.operand
  split <;> simp

@[simp] theorem Wdr.index_cores (v : PElem) : (w.index c a e v x).2.run.dev.cores = x.run.dev.cores := by
  unfold Wdr.index
  dsimp only
  split_ifs <;> simp

@[simp] theorem WRun.gatherSector_cores (sec : Nat) : (x.gatherSector a sec).2.run.dev.cores = x.run.dev.cores := by
  unfold WRun.gatherSector
  split <;> simp

@[simp] theorem WRun.gatherSectors_cores (l : List Nat) : (x.gatherSectors a l).2.run.dev.cores = x.run.dev.cores := by
  induction l generalizing x with
  | nil => rfl
  | cons sec l ih => exact (ih _).trans (x.gatherSector_cores a sec)

@[simp] theorem Wdr.tableRow_cores (j : Nat) : (w.tableRow c a j x).2.run.dev.cores = x.run.dev.cores := by
  unfold Wdr.tableRow
  dsimp only
  split <;> simp

@[simp] theorem Wdr.counts_cores (n : Nat) (bytes : List PByte) :
    (w.counts c a e n bytes x).2.run.dev.cores = x.run.dev.cores := by
  refine foldl_preserves (fun st : List Nat × WRun => st.2.run.dev.cores) (fun st i => ?_) ([], x) _
  dsimp only
  split_ifs <;> simp

@[simp] theorem WRun.streamByte_cores (mem : Bool) (addr : Nat) :
    (x.streamByte c a mem addr).2.run.dev.cores = x.run.dev.cores := by
  unfold WRun.streamByte
  split
  · split <;> simp
  · rfl

@[simp] theorem WRun.streamBytes_cores (mem : Bool) (addr n : Nat) :
    (x.streamBytes c a mem addr n).2.run.dev.cores = x.run.dev.cores := by
  induction n generalizing x addr with
  | zero => rfl
  | succ n ih => exact (ih ..).trans (x.streamByte_cores ..)

@[simp] theorem WRun.runCode_cores (mem : Bool) (addr : Nat) :
    (x.runCode c a mem addr).2.2.2.run.dev.cores = x.run.dev.cores := by
  unfold WRun.runCode
  extract_lets b more r v
  split <;> simp [r, b]

@[simp] theorem Wdr.lane_cores (base : Nat) (rows : List Nat) (lo start n q off : Nat) (col : Int) (pz : Bool) :
    (w.lane c a base rows lo start n q off col pz x).2.2.2.run.dev.cores = x.run.dev.cores := by
  induction n generalizing q off col pz x with
  | zero => rfl
  | succ n ih =>
    refine (ih ..).trans ?_
    split_ifs <;> simp

@[simp] theorem WRun.badCkpt_cores (rows : List Nat) (n j : Nat) :
    (x.badCkpt c a e rows n j).run.dev.cores = x.run.dev.cores := by
  simp [WRun.badCkpt]

@[simp] theorem Wdr.rlsColumns_cores (n base : Nat) (rows : List Nat) (ck : List PByte) :
    (w.rlsColumns c a e n base rows ck x).2.run.dev.cores = x.run.dev.cores := by
  unfold Wdr.rlsColumns
  extract_lets v x1 r
  have h1 : x1.run.dev.cores = x.run.dev.cores :=
    foldl_preserves (fun y : WRun => y.run.dev.cores) (fun y j => by split <;> simp) x _
  have h2 : r.2.1.run.dev.cores = x1.run.dev.cores := by
    refine foldl_preserves (fun st : List RlsCol × WRun × List Nat => st.2.1.run.dev.cores) (fun st l => ?_) ([], x1, []) _
    dsimp only
    split_ifs <;> simp
  have h3 := foldl_preserves WRun.run (fun y q => WRun.poisonRows_run y (tileOfRow (nthD rows q 0) n)) r.2.1 r.2.2
  exact (congrArg (·.dev.cores) h3).trans (h2.trans h1)

@[simp] theorem Wdr.streams_cores : (w.streams c a x).2.run.dev.cores = x.run.dev.cores := by
  unfold Wdr.streams
  split <;> simp

@[simp] theorem Wdr.gatherItem_cores (n : Nat) (idx : List PByte) (st : WRun × List (Nat × List VElem)) (i : Nat) :
    (w.gatherItem c a e n idx st i).1.run.dev.cores = st.1.run.dev.cores := by
  unfold Wdr.gatherItem
  dsimp only
  split <;> simp

@[simp] theorem Wdr.scatterItem_cores (idx : List PByte) (st : Scatter) (i : Nat) :
    (w.scatterItem c a e idx st i).x.run.dev.cores = st.x.run.dev.cores := by
  unfold Wdr.scatterItem
  dsimp only
  split <;> simp

@[simp] theorem Wdr.spmmItem_cores (n : Nat) (idx vals : List PByte) (cols : List RlsCol) (rows : List Nat)
    (st : WRun × List (Nat × List (PVal × Nat))) (q : Nat) :
    (w.spmmItem c a e n idx vals cols rows st q).1.run.dev.cores = st.1.run.dev.cores := by
  unfold Wdr.spmmItem
  dsimp only
  split
  · split <;> simp
  · split <;> simp

end Reads

/-! ### Output rows go into the core's own store (R126, R137, R140 to R143) -/

section Writes
variable (w : Wdr) (c : CoreId) (a : Agent) (e : WEntry) (n : Nat) (x : WRun)

@[simp] theorem Wdr.putRow_window (r : Nat) (bytes : List PByte) (k : Core) : (w.putRow r bytes k).window = k.window := rfl

@[simp] theorem Wdr.writeRows_around (h : HoldId) (rows : List (Nat × List VElem)) (bad : List Nat) (d : Dev) :
    (w.writeRows c h rows bad d).around c = d.around c := by
  unfold Wdr.writeRows
  extract_lets f outs d1 all
  have h1 : d1.around c = d.around c :=
    d.modCore_around c fun k => foldl_preserves Core.window (fun y r => w.putRow_window ..) k outs
  exact (Dev.around_congr (Dev.countSat_cores ..) c).trans h1

theorem Wdr.gather_around : (w.gather c a e n x).run.dev.around c = x.run.dev.around c := by
  unfold Wdr.gather
  extract_lets idx r
  have hr : r.1.run.dev.cores = idx.2.run.dev.cores :=
    foldl_preserves (fun st : WRun × List (Nat × List VElem) => st.1.run.dev.cores)
      (fun st i => w.gatherItem_cores ..) (idx.2, []) _
  exact (w.writeRows_around ..).trans (Dev.around_congr (hr.trans (x.sequential_cores ..)) c)

theorem Wdr.scatterAdd_around : (w.scatterAdd c a e n x).run.dev.around c = x.run.dev.around c := by
  unfold Wdr.scatterAdd
  extract_lets idx st core touched f d
  have hst : st.x.run.dev.cores = idx.2.run.dev.cores :=
    foldl_preserves (fun q : Scatter => q.x.run.dev.cores) (fun q i => w.scatterItem_cores ..) { x := idx.2 } _
  have hd : d.around c = st.x.run.dev.around c :=
    foldl_preserves (fun d : Dev => d.around c) (fun d j => d.modCore_around c (w.putRow_window j _)) _ touched
  exact hd.trans (Dev.around_congr (hst.trans (x.sequential_cores ..)) c)

theorem Wdr.writeReduced_around (items : List (List (List (PVal × Nat)))) :
    (w.writeReduced c a items x).run.dev.around c = x.run.dev.around c := w.writeRows_around ..

theorem Wdr.segReduce_around : (w.segReduce c a e n x).run.dev.around c = x.run.dev.around c := by
  refine (w.writeReduced_around ..).trans (Dev.around_congr ?_ c)
  simp

theorem Wdr.spmmFrom_around (st : Nat × Nat × Nat × Nat) :
    (w.spmmFrom c a e n st x).run.dev.around c = x.run.dev.around c := by
  unfold Wdr.spmmFrom
  extract_lets cb cs rows v idx ck cols vals r items
  have hcs : cs.2.run.dev.cores = x.run.dev.cores := by simp [cs, cb]
  have hidx : idx.2.run.dev.cores = cs.2.run.dev.cores := by simp only [idx]; split <;> simp
  have hck : ck.2.run.dev.cores = idx.2.run.dev.cores := by simp only [ck]; split <;> simp
  have hcols : cols.2.run.dev.cores = ck.2.run.dev.cores := by simp only [cols]; split <;> simp
  have hvals : vals.2.run.dev.cores = cols.2.run.dev.cores := by simp only [vals]; split <;> simp
  have hr : r.1.run.dev.cores = vals.2.run.dev.cores :=
    foldl_preserves (fun q : WRun × List (Nat × List (PVal × Nat)) => q.1.run.dev.cores)
      (fun q i => w.spmmItem_cores ..) (vals.2, []) _
  refine (w.writeReduced_around ..).trans (Dev.around_congr ?_ c)
  rw [hr, hvals, hcols, hck, hidx, hcs]

theorem Wdr.spmm_around : (w.spmm c a e n x).run.dev.around c = x.run.dev.around c := by
  unfold Wdr.spmm
  extract_lets st
  have hst : st.2.run.dev.around c = x.run.dev.around c := Dev.around_congr (w.streams_cores ..) c
  split
  · exact (w.spmmFrom_around ..).trans hst
  · exact (w.writeReduced_around ..).trans hst

theorem Wdr.merge_around (nb : Nat) : (w.merge c a n nb x).run.dev.around c = x.run.dev.around c := by
  refine (Dev.modCore_around _ c (by intro; rfl)).trans (Dev.around_congr ?_ c)
  simp

end Writes

/-! ### A Windrow descriptor (R145, R147) -/

@[simp] theorem Dev.setLen_around (s : Dev) (h : Option HoldId) (c : CoreId) (n v : Nat) :
    (s.setLen h c n v).around c = s.around c :=
  (Dev.around_congr (s.setLen_cores h c n v) c).trans (s.setCore_around c rfl)

/-- What a Windrow operation makes of a run. -/
abbrev WdrOp := Wdr → CoreId → Agent → WEntry → Nat → WRun → WRun

/-- The counts and OUT_LREG of a Windrow descriptor add nothing to what its operation does to the cores. -/
theorem wdrBody_around {f : WdrOp} {c : CoreId} {a : Agent} {e : WEntry} {r q : Run}
    (hf : ∀ w n x, (f w c a e n x).run.dev.around c = x.run.dev.around c) (hq : wdrBody f c a e r = some q) :
    q.dev.around c = r.dev.around c := by
  unfold wdrBody at hq
  extract_lets w n h start x r1 r2 skip d3 d4 d5 d6 at hq
  cases hq
  have hx : x.run.dev.around c = r.dev.around c := hf ..
  have h4 : d4.around c = x.run.dev.around c := Dev.around_congr (by simp [d4, d3, r2, r1]) c
  have h5 : d5.around c = d4.around c := by simp only [d5]; split <;> simp
  have h6 : d6.around c = d5.around c := by
    simp only [d6]
    split
    · exact Dev.around_congr (Dev.poisonUse_cores ..) c
    · rfl
  exact h6.trans (h5.trans (h4.trans hx))

/-- The commands of the Windrow, with the opcode and the operation that each runs (R144). -/
def windrowCommands (c : CoreId) : List (Nat × Instr × WdrOp) :=
  [(0, .gather c, runGather), (1, .scatterAdd c, runScatter), (2, .segReduce c, runSegReduce), (3, .spmm c, runSpmm),
    (4, .merge c, runMerge)]

/-- Every operation of the Windrow leaves alone what is around its core. -/
theorem windrow_op_around {c : CoreId} {op : Nat} {i : Instr} {f : WdrOp} (h : (op, i, f) ∈ windrowCommands c) (w : Wdr)
    (a : Agent) (e : WEntry) (n : Nat) (x : WRun) : (f w c a e n x).run.dev.around c = x.run.dev.around c := by
  simp only [windrowCommands, List.mem_cons, List.not_mem_nil, Prod.mk.injEq, or_false] at h
  rcases h with ⟨-, -, rfl⟩ | ⟨-, -, rfl⟩ | ⟨-, -, rfl⟩ | ⟨-, -, rfl⟩ | ⟨-, -, rfl⟩
  · exact w.gather_around ..
  · exact w.scatterAdd_around ..
  · exact w.segReduce_around ..
  · exact w.spmm_around ..
  · exact w.merge_around ..

end Sys2Proof.Machine

/-! The copy path (R162 to R187, R256 to R264): a run changes cores beyond its own where it sends or receives, and marks its
own entry, but every issue window lists the descriptors that it listed. -/

namespace Sys2Proof.Machine

/-! ### The descriptors that the issue windows list -/

/-- The names of the descriptors in a core's issue window: stream and index. -/
def Core.names (x : Core) : List (Fin 2 × Word32) := x.window.map fun w => (w.stream, w.index)

/-- The same for every core of a device. -/
def Dev.names (s : Dev) (k : CoreId) : List (Fin 2 × Word32) := (s.core k).names

theorem Core.exists_sameEntry {x : Core} {e : WEntry} (h : (e.stream, e.index) ∈ x.names) :
    ∃ w ∈ x.window, sameEntry w e = true := by
  obtain ⟨w, hw, hname⟩ := List.mem_map.1 h
  exact ⟨w, hw, by simpa [sameEntry] using hname⟩

theorem Dev.names_congr {s t : Dev} (h : t.cores = s.cores) : t.names = s.names :=
  funext fun k => congrArg Core.names (Dev.core_congr h k)

theorem Dev.modCore_names_of (s : Dev) (c : CoreId) {f : Core → Core} (h : ∀ x, (f x).names = x.names) :
    (s.modCore c f).names = s.names := by
  funext k
  simp only [Dev.names, Dev.core_modCore]
  split
  · next hk => rw [hk, h]
  · rfl

theorem Dev.modCore_names (s : Dev) (c : CoreId) {f : Core → Core} (h : ∀ x, (f x).window = x.window) :
    (s.modCore c f).names = s.names := s.modCore_names_of c fun x => congrArg (List.map _) (h x)

/-- A change of an entry that leaves its name leaves the names of its window. -/
theorem Dev.modEntry_names (s : Dev) (c : CoreId) (e : WEntry) {f : WEntry → WEntry}
    (h : ∀ w, ((f w).stream, (f w).index) = (w.stream, w.index)) : (s.modEntry c e f).names = s.names := by
  refine s.modCore_names_of c fun x => ?_
  simp only [Core.names, List.map_map]
  refine List.map_congr_left fun w _ => ?_
  dsimp only [Function.comp]
  split
  · exact h w
  · rfl

@[simp] theorem Run.count_names (r : Run) (h : HoldId) (a n : Nat) : (r.count h a n).dev.names = r.dev.names :=
  Dev.names_congr (r.count_cores ..)

@[simp] theorem Run.write_names (r : Run) (a : Agent) (pending : Bool) (va : Nat) (data : List PByte) :
    (r.write a pending va data).dev.names = r.dev.names := Dev.names_congr (r.write_cores ..)

@[simp] theorem Dev.setLen_names (s : Dev) (h : Option HoldId) (c : CoreId) (n v : Nat) :
    (s.setLen h c n v).names = s.names :=
  (Dev.names_congr (s.setLen_cores h c n v)).trans (s.modCore_names c (f := fun x => x.withLen n v) fun _ => rfl)

@[simp] theorem Core.osWrite_window (x : Core) (a : Nat) (bs : List PByte) : (x.osWrite a bs).window = x.window := rfl
@[simp] theorem Core.setPhys_window (x : Core) (line p : Nat) : (x.setPhys line p).window = x.window := rfl
@[simp] theorem Core.nextEpoch_window (x : Core) : x.nextEpoch.window = x.window := rfl

@[simp] theorem Core.remap_window (x : Core) (dest slot : Nat) : (x.remap dest slot).window = x.window := by
  simp only [Core.remap, Core.osWrite_window, Core.setPhys_window]

@[simp] theorem Core.land_window (x : Core) (slots : List (Nat × Nat)) (out : List (Nat × List PByte)) :
    (x.land slots out).window = x.window :=
  (foldl_preserves Core.window (fun _ _ => Core.osWrite_window ..) _ out).trans
    (foldl_preserves Core.window (fun _ _ => Core.remap_window ..) x slots)

/-! ### LOAD and GATHER_LOAD (R162 to R176, R181) -/

section Load
variable (s : Dev) (k : Cpy) (c : CoreId) (a : Agent)

@[simp] theorem Cpy.selectRows_cores (e : WEntry) (n sh : Nat) (r : Run) :
    (k.selectRows c a e n sh r).2.run.dev.cores = r.dev.cores := by
  unfold Cpy.selectRows
  split
  · dsimp only
    rw [foldl_preserves fun st : List IdxSel × WRun => st.2.run.dev.cores]
    · simp
    · intro st i
      simp
  · rfl

@[simp] theorem Dev.frameHolds_cores (p : PfSector) : (s.frameHolds a p).2.cores = s.cores := by
  unfold Dev.frameHolds
  split <;> simp

@[simp] theorem Landing.fetch_cores (x : Landing) (at' va : Nat) : (x.fetch a at' va).run.dev.cores = x.run.dev.cores :=
  Run.read_cores ..

@[simp] theorem Landing.refetch_cores (x : Landing) (at' va : Nat) :
    (x.refetch a at' va).run.dev.cores = x.run.dev.cores :=
  Run.read_cores ..

@[simp] theorem Landing.sector_cores (x : Landing) (entries : List PfSector) (row at' va : Nat) :
    (x.sector a entries row at' va).run.dev.cores = x.run.dev.cores := by
  unfold Landing.sector
  split
  · simp
  · split
    · simp
    · split
      · rfl
      · dsimp only
        split_ifs <;> simp

@[simp] theorem Cpy.landRow_cores (entries : List PfSector) (sel : List IdxSel) (x : Landing) (i : Nat) :
    (k.landRow a entries sel x i).run.dev.cores = x.run.dev.cores := by
  unfold Cpy.landRow
  dsimp only
  split
  · rfl
  · rfl
  · rfl
  · split
    · exact foldl_preserves (fun y : Landing => y.run.dev.cores) (fun y q => y.sector_cores ..) x _
    · simp

@[simp] theorem Dev.countSquash_cores (h : Option HoldId) (bytes bad : Nat) :
    (s.countSquash h c bytes bad).cores = s.cores := by
  unfold Dev.countSquash
  dsimp only
  split_ifs <;> simp

@[simp] theorem Dev.squash_names (h : Option HoldId) (drop : PfSector → Bool) : (s.squash h c drop).names = s.names := by
  unfold Dev.squash
  dsimp only
  split
  · rfl
  · exact (Dev.names_congr (Dev.countSquash_cores ..)).trans (s.modCore_names c fun _ => rfl)

@[simp] theorem Run.indexCounts_names (r : Run) (h : HoldId) (x : WRun) : (r.indexCounts c h x).dev.names = r.dev.names := by
  refine Dev.names_congr ?_
  unfold Run.indexCounts
  dsimp only
  split <;> simp

@[simp] theorem Run.predicted_names (r : Run) (h : HoldId) (e : WEntry) (n : Nat) :
    (r.predicted c h e n).dev.names = r.dev.names := by
  unfold Run.predicted
  split
  · rfl
  · split_ifs <;> simp

@[simp] theorem Dev.modTransfer_names (m leader : CoreId) (number : Nat) (f : Transfer → Transfer) :
    (s.modTransfer m leader k number f).names = s.names := by
  refine s.modCore_names m fun x => ?_
  split_ifs <;> rfl

@[simp] theorem Dev.multicastTo_names (h : HoldId) (m : CoreId) (n : Nat) (ats : List Nat) (out : List (Nat × List PByte)) :
    (s.multicastTo h c m k n ats out).names = s.names := by
  unfold Dev.multicastTo
  extract_lets old gone d1
  have h1 : d1.names = s.names := Dev.modTransfer_names ..
  split
  · exact h1
  · exact (Dev.names_congr (Dev.countSquash_cores ..)).trans ((d1.modCore_names m Core.nextEpoch_window).trans h1)

@[simp] theorem Dev.multicast_names (h : HoldId) (e : WEntry) (out : List (Nat × List PByte)) :
    (s.multicast h c e k out).names = s.names := by
  unfold Dev.multicast
  split
  · rfl
  · extract_lets n ats s1
    have h1 : s1.names = s.names := foldl_preserves Dev.names (fun d m => d.multicastTo_names ..) s _
    exact Eq.trans (s1.modCore_names c (by intro; rfl)) h1

theorem loadBody_names {c : CoreId} {a : Agent} {e : WEntry} {r : Run} {q : Run × Bool} (hq : loadBody c a e r = some q) :
    q.1.dev.names = r.dev.names := by
  unfold loadBody at hq
  extract_lets k h v n mine entries sel land d1 d2 landed r3 r4 r5 d6 d7 at hq
  split at hq
  · split at hq
    · cases hq; rfl
    · cases hq
  · have hland : land.run.dev.cores = r.dev.cores :=
      (foldl_preserves (fun x : Landing => x.run.dev.cores) (fun x i => Cpy.landRow_cores ..) _ _).trans
        (Cpy.selectRows_cores ..)
    have h1 : d1.names = land.run.dev.names := Dev.squash_names ..
    have h2 : d2.names = d1.names := d1.modCore_names c fun x => Core.land_window _ land.slots land.out
    have h5 : r5.dev.names = d2.names := by simp [r5, r4, r3]
    have h6 : d6.names = r.dev.names := by
      refine Eq.trans ?_ (h5.trans (h2.trans (h1.trans (Dev.names_congr hland))))
      simp only [d6]
      split
      · rfl
      · exact Dev.names_congr (Dev.event_cores ..)
    split at hq
    · cases hq
    · split at hq
      · cases hq
        exact h6
      · cases hq
        have h7 : d7.names = (d6.multicast h c e k land.out).names := Dev.modEntry_names _ c e (by intro; rfl)
        exact h7.trans ((d6.multicast_names ..).trans h6)

end Load

/-! ### STORE (R162, R203, R383) -/

theorem storeBody_names {c : CoreId} {a : Agent} {e : WEntry} {r q : Run} (hq : storeBody c a e r = some q) :
    q.dev.names = r.dev.names := by
  unfold storeBody at hq
  extract_lets k v h may core r1 at hq
  split at hq
  · cases hq
  · cases hq
    rw [Run.count_names]
    simp only [r1]
    split
    · rfl
    · exact foldl_preserves (fun x : Run => x.dev.names) (fun x i => x.write_names ..) r _

/-! ### MCAST_RECV and RING_RECV (R181 to R184) -/

section Receive
variable (c : CoreId) (r : Run)

@[simp] theorem Run.receive_names (h : HoldId) (slots : List (Nat × Nat)) (out : List (Nat × List PByte)) :
    (r.receive c h slots out).dev.names = r.dev.names :=
  (Run.count_names ..).trans (r.dev.modCore_names c fun x => x.land_window slots out)

@[simp] theorem Cpy.fromHome_names (k : Cpy) (a : Agent) : (k.fromHome c a r).dev.names = r.dev.names := by
  simp only [Cpy.fromHome, Run.count_names, Run.receive_names]
  exact foldl_preserves (fun st : List (Nat × List PByte) × Run => st.2.dev.names)
    (fun st i => Dev.names_congr (Run.read_cores ..)) ([], r) _

@[simp] theorem Dev.releaseRetained_names (s : Dev) (t : Transfer) : (s.releaseRetained t).names = s.names := by
  unfold Dev.releaseRetained
  split
  · exact s.modCore_names _ fun _ => rfl
  · rfl

@[simp] theorem Dev.tookTransfer_names (s : Dev) (ring : Bool) (key num : Nat) :
    (s.tookTransfer c ring key num).names = s.names :=
  (foldl_preserves Dev.names Dev.releaseRetained_names _ _).trans (s.modCore_names c fun _ => rfl)

theorem recvBody_names {ring : Bool} {c : CoreId} {a : Agent} {e : WEntry} {r q : Run} (hq : recvBody ring c a e r = some q) :
    q.dev.names = r.dev.names := by
  unfold recvBody at hq
  extract_lets k h core key num took at hq
  have htook : ∀ x : Run, (took x).dev.names = x.dev.names := fun x => Dev.tookTransfer_names ..
  have hhome : (took (k.fromHome c a r)).dev.names = r.dev.names := (htook _).trans (Cpy.fromHome_names ..)
  split at hq
  · cases hq
    exact Cpy.fromHome_names ..
  · split at hq
    next t _ =>
      extract_lets came same out r1 at hq
      have h1 : r1.dev.names = r.dev.names := (htook _).trans (Run.receive_names ..)
      split at hq
      · cases hq
        exact hhome
      · split at hq
        · cases hq
        · cases hq
          split
          · exact h1
          · exact (Dev.names_congr (Dev.runFault_cores ..)).trans h1
    next =>
      split at hq
      · split at hq
        · cases hq
        · cases hq
          exact hhome
      · cases hq
        exact hhome

end Receive

end Sys2Proof.Machine

/-! The transform path (R256 to R264): COPY and FILL as batches of one leave the issue windows alone. -/

namespace Sys2Proof.Machine

section Transform
variable (c : CoreId) (a : Agent) (t : Tensor) (r : Run)

@[simp] theorem Run.gatherSpans_names (spans : List (Nat × Nat)) : (r.gatherSpans a spans).2.dev.names = r.dev.names :=
  foldl_preserves (fun st : Tab PByte × Run => st.2.dev.names) (fun _ _ => Dev.names_congr (Run.read_cores ..)) ([], r) _

@[simp] theorem Run.putPieces_names (send : Bool) (ps : List (Nat × List PByte)) :
    (r.putPieces c a t send ps).dev.names = r.dev.names := by
  unfold Run.putPieces
  split
  · rfl
  · dsimp only
    split
    · exact (foldl_preserves (fun x : Run => x.dev.names) (fun x p => Run.write_names ..) _ ps).trans (Run.count_names ..)
    · refine (Dev.modCore_names _ c fun x => ?_).trans (Run.count_names ..)
      exact foldl_preserves Core.window (fun _ _ => Core.osWrite_window ..) x ps

@[simp] theorem Run.putCells_names (send : Bool) (cells : List XCell) (scales : List (Nat × List PByte)) :
    (r.putCells c a t send cells scales).dev.names = r.dev.names := by
  unfold Run.putCells
  extract_lets gs merged old rd parts
  have hold : old.2.dev.names = r.dev.names := by
    simp only [old]
    split
    · exact Run.gatherSpans_names ..
    · rfl
  exact (foldl_preserves (fun x : Run => x.dev.names) (fun x n => Run.putPieces_names ..) _ parts).trans
    ((Run.count_names ..).trans hold)

@[simp] theorem Xfm.padPhase_names (x : Xfm) (p : XPlan) (send : Bool) :
    (x.padPhase p c a send r).dev.names = r.dev.names := by
  unfold Xfm.padPhase
  split
  · rfl
  · exact (Dev.names_congr (Dev.countSat_cores ..)).trans ((Run.putCells_names ..).trans (Run.count_names ..))

@[simp] theorem Xfm.validPhase_names (x : Xfm) (p : XPlan) (send : Bool) :
    (x.validPhase p c a send r).1.dev.names = r.dev.names := by
  unfold Xfm.validPhase
  dsimp only
  split
  · exact Run.putCells_names ..
  · exact (Run.putCells_names ..).trans (Run.gatherSpans_names ..)

@[simp] theorem Xfm.close_names (x : Xfm) (p : XPlan) (k : XCounts) : (x.close p k c a r).dev.names = r.dev.names := by
  unfold Xfm.close
  extract_lets h d0 d1 d2
  have h0 : d0.names = r.dev.names := by
    simp only [d0]
    split
    · exact Dev.names_congr (Dev.poisonUse_cores ..)
    · rfl
  have h1 : d1.names = d0.names := Dev.names_congr (Dev.countSat_cores ..)
  have h2 : d2.names = d1.names := by simp only [d2]; split <;> simp
  exact (Run.count_names ..).trans (h2.trans (h1.trans h0))

@[simp] theorem Xfm.closeEmpty_names (x : Xfm) : (x.closeEmpty c a r).dev.names = r.dev.names := by
  unfold Xfm.closeEmpty
  split <;> simp

end Transform

/-- A batch of one that ends has written its pads and its valid elements, and has left the transform path. -/
theorem singleBody_names {c : CoreId} {a : Agent} {e : WEntry} {r q : Run} (hq : singleBody c a e r = some (q, true)) :
    q.dev.names = r.dev.names := by
  unfold singleBody at hq
  extract_lets x may core send at hq
  split at hq
  · cases hq
  · split at hq
    · cases hq
      exact Xfm.closeEmpty_names ..
    next p _ =>
      extract_lets r1 marked v at hq
      have h1 : r1.dev.names = r.dev.names := by simp only [r1]; split <;> simp
      have hv : v.1.dev.names = r1.dev.names := Xfm.validPhase_names ..
      split_ifs at hq
      all_goals simp only [Option.some.injEq, Prod.mk.injEq, Bool.false_eq_true, and_false, and_true] at hq
      rw [← hq]
      exact (Dev.modCore_names _ c (by intro; rfl)).trans ((Xfm.close_names ..).trans (hv.trans h1))

end Sys2Proof.Machine

/-! The commands of the Windrow and of the copy path (R140 to R147, R162 to R184, R260): a run that ends with every read
answered completes its entry. -/

namespace Sys2Proof.Machine

/-! ### The end of a run -/

theorem Core.name_mem_of_running {x : Core} {cls : Nat} {ops : List Nat} {e : WEntry} (h : x.running cls ops = some e) :
    (e.stream, e.index) ∈ x.names := List.mem_map.2 ⟨e, Core.mem_window_of_running h, rfl⟩

/-- The end of a run leaves its entry completed, wherever the run has left the entry's name in the window. -/
theorem Dev.finish_completed {s r : Dev} {c : CoreId} {h : HoldId} {e : WEntry} (hname : (e.stream, e.index) ∈ r.names c) :
    (s.finish c h e r).completed c e := by
  obtain ⟨w, hw, hsame⟩ := Core.exists_sameEntry hname
  refine ⟨{ w with phase := .completed }, ?_, hsame, rfl⟩
  rw [Dev.finish_core, if_pos rfl]
  exact List.mem_map.2 ⟨w, hw, if_pos hsame⟩

/-- A run whose body ends with every read answered is the end of what the body left. -/
theorem Dev.runPhased_of_runEnds {s : Dev} {c : CoreId} {cls : Nat} {ops : List Nat} {e : WEntry} {h : HoldId}
    {body : Agent → WEntry → Run → Option (Run × Bool)} (ready : s.unitReady c cls ops e h)
    (ends : runEnds (body ((s.core c).agent c h e) e { dev := s })) :
    ∃ q, body ((s.core c).agent c h e) e { dev := s } = some (q, true)
      ∧ s.runPhased c cls ops body = s.finish c h e q.dev := by
  obtain ⟨hrun, hhold, hcore⟩ := ready
  obtain ⟨q, hbody, hwait, hneed⟩ := ends
  exact ⟨q, hbody, by simp [Dev.runPhased, hrun, hhold, hcore, hbody, hwait, hneed]⟩

/-- A body that leaves the names in the window of its core runs its descriptor to completion. -/
theorem Dev.runPhased_completes {s : Dev} {c : CoreId} {cls : Nat} {ops : List Nat} {e : WEntry} {h : HoldId}
    {body : Agent → WEntry → Run → Option (Run × Bool)} (ready : s.unitReady c cls ops e h)
    (ends : runEnds (body ((s.core c).agent c h e) e { dev := s }))
    (keeps : ∀ a r q, body a e r = some (q, true) → q.dev.names = r.dev.names) :
    (s.memScope (s.runPhased c cls ops body)).completed c e := by
  obtain ⟨q, hbody, hrun⟩ := Dev.runPhased_of_runEnds ready ends
  have hname : (e.stream, e.index) ∈ q.dev.names c := by
    rw [keeps _ _ _ hbody]
    exact Core.name_mem_of_running ready.1
  rw [Dev.completed, Dev.core_congr (Dev.memScope_cores ..), hrun]
  exact Dev.finish_completed hname

/-! ### The Windrow -/

/-- A Windrow run that ends completes its entry, and leaves every other core as it was. -/
theorem Dev.windrow_completes {s : Dev} {c : CoreId} {op : Nat} {e : WEntry} {h : HoldId} {f : WdrOp}
    (ready : s.unitReady c 3 [op] e h)
    (ends : runEnds ((wdrBody f c ((s.core c).agent c h e) e { dev := s }).map fun r => (r, true)))
    (hf : ∀ w a n x, (f w c a e n x).run.dev.around c = x.run.dev.around c) :
    (s.windrow c op f).completed c e ∧ ∀ k : CoreId, k ≠ c → (s.windrow c op f).core k = s.core k := by
  obtain ⟨q, hbody, hrun⟩ := Dev.runPhased_of_runEnds
    (body := fun a e r => (wdrBody f c a e r).map fun q => (q, true)) ready ends
  obtain ⟨_, hq, heq⟩ := Option.map_eq_some_iff.1 hbody
  cases heq
  obtain ⟨hwindow, hothers⟩ := Dev.around_eq_iff.1 (wdrBody_around (fun w n x => hf w _ n x) hq)
  have hcore : ∀ k, (s.windrow c op f).core k = (s.finish c h e q.dev).core k := fun k =>
    (Dev.core_congr (Dev.memScope_cores ..) k).trans (congrArg (·.core k) hrun)
  refine ⟨?_, fun k hk => ?_⟩
  · rw [Dev.completed, hcore]
    refine Dev.finish_completed (List.mem_map.2 ⟨e, ?_, rfl⟩)
    rw [hwindow]
    exact Core.mem_window_of_running ready.1
  · rw [hcore, Dev.finish_core, if_neg hk]
    exact hothers k hk

/-- A Windrow command goes on in what its run leaves: its cores are the run's, and the queues, Gotre and the ports stand. -/
theorem exec_windrow_command {c : CoreId} {op : Nat} {i : Instr} {f : WdrOp} (h : (op, i, f) ∈ windrowCommands c)
    (s : State) :
    ∃ t, exec i s = .next t ∧ t.pending = s.pending ∧ t.dev.cores = (s.dev.windrow c op f).cores
      ∧ t.dev.queues = s.dev.queues ∧ t.dev.gotre = s.dev.gotre ∧ t.dev.ports = s.dev.ports := by
  simp only [windrowCommands, List.mem_cons, List.not_mem_nil, Prod.mk.injEq, or_false] at h
  rcases h with h | h | h | h | h <;> obtain ⟨rfl, rfl, rfl⟩ := h <;> exact ⟨_, rfl, rfl, rfl, rfl, rfl, rfl⟩

/-! ### The copy path -/

/-- The commands of the copy path, with the class, the operation and the body that each runs. -/
def copyCommands (c : CoreId) : List (Nat × Nat × Instr × (Agent → WEntry → Run → Option (Run × Bool))) :=
  [(8, 0, .load c, loadBody c), (8, 1, .gatherLoad c, loadBody c),
    (8, 2, .store c, fun a e r => (storeBody c a e r).map fun q => (q, true)),
    (8, 3, .mcastRecv c, fun a e r => (recvBody false c a e r).map fun q => (q, true)),
    (8, 4, .ringRecv c, fun a e r => (recvBody true c a e r).map fun q => (q, true)),
    (4, 0, .copy c, singleBody c), (4, 1, .fill c, singleBody c)]

theorem names_of_map_some {body : Option Run} {r q : Run} (keeps : ∀ x, body = some x → x.dev.names = r.dev.names)
    (hq : (body.map fun x => (x, true)) = some (q, true)) : q.dev.names = r.dev.names := by
  obtain ⟨x, hx, heq⟩ := Option.map_eq_some_iff.1 hq
  cases heq
  exact keeps q hx

/-- A command of the copy path runs its body in the scope of memory, on a core that has its clock; at the body's end every
issue window lists what it listed. -/
theorem exec_copy_command {c : CoreId} {cls op : Nat} {i : Instr} {body : Agent → WEntry → Run → Option (Run × Bool)}
    (h : (cls, op, i, body) ∈ copyCommands c) :
    (∀ s, exec i s = work s (s.dev.memScope (s.dev.runPhased c cls [op] body)))
      ∧ ∀ a e r q, body a e r = some (q, true) → q.dev.names = r.dev.names := by
  simp only [copyCommands, List.mem_cons, List.not_mem_nil, Prod.mk.injEq, or_false] at h
  rcases h with h | h | h | h | h | h | h <;> obtain ⟨rfl, rfl, rfl, rfl⟩ := h <;>
    refine ⟨fun s => rfl, fun a e r q hq => ?_⟩
  · exact loadBody_names hq
  · exact loadBody_names hq
  · exact names_of_map_some (fun _ => storeBody_names) hq
  · exact names_of_map_some (fun _ => recvBody_names) hq
  · exact names_of_map_some (fun _ => recvBody_names) hq
  · exact singleBody_names hq
  · exact singleBody_names hq

/-- Settles O13: a unit works on its own core's stores and, on the copy path, on other cores' transfers, while memory is
served beside the cores; the entry therefore still stands in its window when the run ends, and completes there. -/
theorem windrowAndCopiesRunToCompletion : Obligations.WindrowAndCopiesRunToCompletion := by
  unfold Obligations.WindrowAndCopiesRunToCompletion
  refine ⟨fun s c e h op i f hi ready ends => ?_, fun s c e h cls op i body hi ready ends => ?_⟩
  · obtain ⟨t, hexec, hpend, hcores, hqueues, hgotre, hports⟩ := exec_windrow_command hi s
    obtain ⟨hdone, hothers⟩ := Dev.windrow_completes ready ends fun w a n x => windrow_op_around hi w a e n x
    refine ⟨t, hexec, hpend, ?_, hqueues, hgotre, hports, fun k hk => ?_⟩
    · rwa [Dev.completed, Dev.core_congr hcores]
    · rw [Dev.core_congr hcores, hothers k hk]
  · obtain ⟨hexec, keeps⟩ := exec_copy_command hi
    have ⟨_, _, hruns⟩ := ready
    have hnext := (hexec s).trans (work_clocked s _ (Dev.clocked_of_coreRuns hruns))
    exact ⟨_, hnext, rfl, Dev.runPhased_completes ready ends fun a r q => keeps a e r q, rfl, rfl, rfl, rfl, rfl⟩

end Sys2Proof.Machine

/-! Work with memory leaves what Gotre has taken on alone (R231 to R251): the jobs and their completions, the mirrors that
the device serves, and the table writes that wait for a boundary. -/

namespace Sys2Proof.Machine

/-! ### What Gotre has taken on (R241, R424, R426, R428) -/

/-- The jobs with their completions, the mirrors served, and the table writes that wait for each holding. -/
def Dev.commitments (s : Dev) : Gotre × Tab (Option MirrorServe) × (HoldId → List TableWrite) :=
  (s.gotre, s.serves, fun h => (s.holding h).waiting)

theorem Dev.commitments_eq_iff {s t : Dev} :
    t.commitments = s.commitments ↔
      t.gotre = s.gotre ∧ t.serves = s.serves ∧ ∀ h, (t.holding h).waiting = (s.holding h).waiting := by
  simp only [Dev.commitments, Prod.mk.injEq, funext_iff]

theorem Dev.modHolding_commitments (s : Dev) (h : HoldId) {f : Holding → Holding} (hf : ∀ x, (f x).waiting = x.waiting) :
    (s.modHolding h f).commitments = s.commitments := by
  refine Dev.commitments_eq_iff.2 ⟨rfl, rfl, fun k => ?_⟩
  rw [Dev.holding_modHolding]
  split
  next hk => rw [hf, hk]
  next => rfl

/-! ### Counters, events and faults (R43, R243, R250, R268) -/

section Counts
variable (s : Dev)

@[simp] theorem Dev.count_commitments (h : Option HoldId) (a n : Nat) : (s.count h a n).commitments = s.commitments := by
  cases h with
  | none => rfl
  | some h => exact Dev.modHolding_commitments { s with ctrs := _, shadow := _ } h fun _ => rfl

@[simp] theorem Dev.countFree_commitments (h : Option HoldId) (a : Nat) :
    (s.countFree h a).commitments = s.commitments := s.count_commitments h a _

@[simp] theorem Dev.setReg_commitments (a : Nat) (v : Word32) : (s.setReg a v).commitments = s.commitments := rfl
@[simp] theorem Dev.event_commitments (a : Nat) (x : Word32) : (s.event a x).commitments = s.commitments := rfl
@[simp] theorem Dev.emit_commitments (e : Emit) : (s.emit e).commitments = s.commitments := rfl
@[simp] theorem Dev.setTag_commitments (b : Nat) (t : Tag) : (s.setTag b t).commitments = s.commitments := rfl

@[simp] theorem Dev.metPoison_commitments (h : Option HoldId) (n : Nat) :
    (s.metPoison h n).commitments = s.commitments := by
  cases h with
  | none => rfl
  | some h => exact s.modHolding_commitments h fun _ => rfl

@[simp] theorem Dev.runFault_commitments (c : CoreId) (h : Option HoldId) (i : Word32) (k : Status) :
    (s.runFault c h i k).commitments = s.commitments := by
  cases h with
  | none => rfl
  | some h => exact Dev.modHolding_commitments ((s.setReg _ _).event _ _) h fun _ => rfl

end Counts

/-! ### The controllers (R228 to R238) -/

section Controllers
variable (s : Dev)

@[simp] theorem Dev.countMem_commitments (k : StackId) (o : Owner) (off n : Nat) :
    (s.countMem k o off n).commitments = s.commitments := s.count_commitments ..

@[simp] theorem Dev.tagRead_commitments (k : StackId) (o : Owner) : (s.tagRead k o).commitments = s.commitments :=
  s.countFree_commitments ..

@[simp] theorem Dev.lcSlots_commitments (k : StackId) (cls : MemClass) : (s.lcSlots k cls).commitments = s.commitments := by
  unfold Dev.lcSlots
  split
  · exact s.countFree_commitments ..
  · rfl

@[simp] theorem Dev.offlineAccess_commitments (k : StackId) (o : Owner) :
    (s.offlineAccess k o).commitments = s.commitments := by
  unfold Dev.offlineAccess
  split
  · rfl
  · exact s.countMem_commitments ..

/-- What memory holds, and which sectors are poisoned, commits Gotre to nothing. -/
theorem Dev.stored_commitments (m : List Host.Cell) (p : Tab Bool) :
    ({ s with mem := m, secPoison := p } : Dev).commitments = s.commitments := rfl

@[simp] theorem Dev.eccRead_commitments (k : StackId) (o : Owner) (sec : Nat) (e : EccOutcome) :
    (s.eccRead k o sec e).commitments = s.commitments := by
  cases e with
  | clean => rfl
  | corrected => exact s.countMem_commitments ..
  | miscorrected x => exact (Dev.countMem_commitments ..).trans (s.stored_commitments _ _)
  | uncorrectable =>
    dsimp only [Dev.eccRead]
    exact (Dev.stored_commitments _ _ _).trans (s.countMem_commitments k o 0x50 1)

@[simp] theorem Dev.meetEcc_commitments (k : StackId) (o : Owner) (sec : Nat) :
    (s.meetEcc k o sec).commitments = s.commitments := by
  unfold Dev.meetEcc
  split
  · rfl
  · exact Dev.eccRead_commitments ..

@[simp] theorem Dev.meetAll_commitments (k : StackId) (o : Owner) (secs : List Nat) :
    (s.meetAll k o secs).commitments = s.commitments :=
  foldl_preserves Dev.commitments (fun d x => d.meetEcc_commitments k o x) s secs

@[simp] theorem Dev.readSector1_commitments (sec : Nat) (o : Owner) :
    (s.readSector1 sec o).2.commitments = s.commitments := by
  unfold Dev.readSector1
  dsimp only
  split_ifs <;> simp

@[simp] theorem Dev.readSector_commitments (sec : Nat) (o : Owner) : (s.readSector sec o).2.commitments = s.commitments := by
  unfold Dev.readSector
  dsimp only
  split <;> simp

@[simp] theorem Dev.readSectors_commitments (o : Owner) (secs : List Nat) :
    (s.readSectors o secs).2.commitments = s.commitments := by
  induction secs generalizing s with
  | nil => rfl
  | cons x xs ih => exact (ih _).trans (s.readSector_commitments x o)

@[simp] theorem Dev.readBlock_commitments (b : Nat) (o : Owner) : (s.readBlock b o).2.2.commitments = s.commitments := by
  unfold Dev.readBlock Dev.verdict
  dsimp only
  split_ifs <;> simp

@[simp] theorem Dev.freshBlock_commitments (b : Nat) (whole : Bool) :
    (s.freshBlock b whole).commitments = s.commitments := by
  cases whole <;> rfl

@[simp] theorem Dev.putBytes_commitments (pa : Nat) (data : List (Option PByte)) (e : BitVec 16) :
    (s.putBytes pa data e).commitments = s.commitments := rfl

@[simp] theorem Dev.storeBlock_commitments (pa : Nat) (data : List (Option PByte)) (o : Owner) (e : BitVec 16)
    (pending : Bool) : (s.storeBlock pa data o e pending).commitments = s.commitments := by
  unfold Dev.storeBlock
  dsimp only
  split_ifs <;> simp

@[simp] theorem Dev.writeBlock_commitments (pa : Nat) (data : List (Option PByte)) (o : Owner) (e : BitVec 16)
    (pending : Bool) : (s.writeBlock pa data o e pending).commitments = s.commitments := by
  unfold Dev.writeBlock
  dsimp only
  split_ifs <;> simp

@[simp] theorem Dev.clearTag_commitments (b : Nat) (secs : List Nat) (kind : Clearance) :
    (s.clearTag b secs kind).commitments = s.commitments := by
  cases kind <;> rfl

@[simp] theorem Dev.scrubTag_commitments (b : Nat) (k : StackId) : (s.scrubTag b k).commitments = s.commitments := by
  unfold Dev.scrubTag
  dsimp only
  split_ifs <;> simp

@[simp] theorem Dev.scrubRead_commitments (b : Nat) : (s.scrubRead b).commitments = s.commitments := by
  unfold Dev.scrubRead
  dsimp only
  split <;> simp

/-- A generation's reads before a write change the sending of its holding alone (R404). -/
@[simp] theorem Dev.mirrorFirst_commitments (b : Nat) : (s.mirrorFirst b).commitments = s.commitments := by
  refine foldl_preserves Dev.commitments (fun d h => ?_) s _
  dsimp only
  split
  · rfl
  · split
    · rfl
    · rw [Dev.countFree_commitments, Dev.modHolding_commitments _ h (by intro; rfl), Dev.readBlock_commitments]

@[simp] theorem Dev.perform_commitments (r : MemReq) : (s.perform r).commitments = s.commitments := by
  unfold Dev.perform
  cases r with
  | read sec whole o cls wait => dsimp only; split <;> simp
  | write pa o e cls data pending => simp
  | clear b secs o e kind => dsimp only; split <;> simp
  | scrub b => simp

@[simp] theorem Dev.noteFullPending_commitments (r : MemReq) (why : WaitFor) :
    (s.noteFullPending r why).commitments = s.commitments := by
  unfold Dev.noteFullPending
  split
  · exact s.countMem_commitments ..
  · rfl

@[simp] theorem Dev.addWait_commitments (r : MemReq) (why : WaitFor) (fails : Bool) :
    (s.addWait r why fails).commitments = s.commitments := Dev.noteFullPending_commitments ..

@[simp] theorem Dev.request_commitments (r : MemReq) : (s.request r).commitments = s.commitments := by
  unfold Dev.request
  split <;> simp

@[simp] theorem Dev.releaseFrom_commitments (kept ws : List MemWait) :
    (s.releaseFrom kept ws).commitments = s.commitments := by
  induction ws generalizing s kept with
  | nil => rfl
  | cons w ws ih =>
    unfold Dev.releaseFrom
    split
    · exact ih ..
    · split
      · split <;> simp [ih]
      · rw [ih]
        split <;> simp

@[simp] theorem Dev.releaseTimes_commitments (n : Nat) : (s.releaseTimes n).commitments = s.commitments := by
  induction n generalizing s with
  | zero => rfl
  | succ n ih =>
    unfold Dev.releaseTimes
    dsimp only
    split <;> simp [ih]

@[simp] theorem Dev.releasePoisoned_commitments (r : Dev) (b : Nat) :
    (s.releasePoisoned r b).commitments = r.commitments := by
  unfold Dev.releasePoisoned
  split
  · exact r.releaseTimes_commitments _
  · rfl

end Controllers

/-! ### Translation (R246 to R251, R268) -/

section Translation
variable (s : Dev)

@[simp] theorem Dev.cacheLeaf_commitments (n : CacheName) (h : HoldId) (level va : Nat) (e : Word64) :
    (s.cacheLeaf n h level va e).commitments = s.commitments := by
  obtain ⟨x, k, hframe⟩ := s.cacheLeaf_frame n h level va e
  rw [hframe]
  rfl

@[simp] theorem Dev.cacheCore_commitments (a : Agent) (va level : Nat) (e : Word64) :
    (s.cacheCore a va level e).commitments = s.commitments := by
  obtain ⟨x, k, hframe⟩ := s.cacheCore_frame a va level e
  rw [hframe]
  rfl

@[simp] theorem Dev.readEntry_commitments (cls : MemClass) (pa : Nat) :
    (s.readEntry cls pa).2.commitments = s.commitments := by
  simp [Dev.readEntry]

@[simp] theorem Dev.walkEntry_commitments (h : HoldId) (walker : Option Nat) (cls : MemClass) (level table va : Nat) :
    (s.walkEntry h walker cls level table va).2.commitments = s.commitments := by
  unfold Dev.walkEntry
  split
  · rfl
  · dsimp only
    split
    · dsimp only
      split <;> simp
    · simp

@[simp] theorem Dev.walkFrom_commitments (h : HoldId) (walker : Option Nat) (cls : MemClass) (va level table : Nat) :
    (s.walkFrom h walker cls va level table).2.commitments = s.commitments := by
  induction level generalizing s table with
  | zero => exact s.walkEntry_commitments ..
  | succ level ih =>
    unfold Dev.walkFrom
    dsimp only
    split
    · simp
    · simp [ih]

@[simp] theorem Dev.walk_commitments (h : HoldId) (walker : Option Nat) (cls : MemClass) (va : Nat) :
    (s.walk h walker cls va).2.commitments = s.commitments := by
  unfold Dev.walk
  split <;> simp

@[simp] theorem Dev.sharedHit_commitments (a : Agent) : (s.sharedHit a).commitments = s.commitments := by
  unfold Dev.sharedHit
  split <;> simp

@[simp] theorem Dev.xlate_commitments (a : Agent) (va : Nat) (write : Bool) :
    (s.xlate a va write).2.commitments = s.commitments := by
  unfold Dev.xlate
  split
  · rfl
  · split
    · rfl
    · split
      · simp
      · dsimp only
        split <;> simp

@[simp] theorem Dev.accessFault_commitments (a : Agent) (va : Nat) (write : Bool) (kind : Nat) :
    (s.accessFault a va write kind).commitments = s.commitments := by
  have hrecord : (s.xltFault a va write kind).commitments = s.commitments := by
    unfold Dev.xltFault
    dsimp only
    split_ifs <;> simp
  unfold Dev.accessFault
  dsimp only
  split <;> simp [hrecord]

end Translation

/-! ### Reads and writes of holding memory (R237, R248, R253, R383, R411) -/

section Access
variable (s : Dev)

@[simp] theorem Dev.crossTo_commitments (a : Agent) (pa : Nat) : (s.crossTo a pa).commitments = s.commitments := by
  obtain ⟨x, y, hframe⟩ := s.cross_frame a.requester a.die (stackDie (s.place pa).stack)
  rw [Dev.crossTo, hframe]
  rfl

@[simp] theorem Dev.dropReissue_commitments (pa : Nat) : (s.dropReissue pa).commitments = s.commitments := rfl

@[simp] theorem Dev.freeBytes_commitments (n : Nat) : (s.freeBytes n).2.commitments = s.commitments := by
  induction n generalizing s with
  | zero => rfl
  | succ n ih => exact ih _

@[simp] theorem Run.hostBytes_commitments (r : Run) (a : Agent) (addr n : Nat) :
    (r.hostBytes a addr n).2.dev.commitments = r.dev.commitments := by
  unfold Run.hostBytes
  split
  · exact Dev.freeBytes_commitments ..
  · rfl

@[simp] theorem Dev.unitRead_commitments (a : Agent) (pa n : Nat) :
    (s.unitRead a pa n).2.commitments = s.commitments := by
  unfold Dev.unitRead
  dsimp only
  split_ifs <;> simp

@[simp] theorem Run.readChunk_commitments (r : Run) (a : Agent) (va n : Nat) :
    (r.readChunk a va n).2.dev.commitments = r.dev.commitments := by
  unfold Run.readChunk
  split
  · rfl
  · dsimp only
    split
    · simp
    · simp
    · split <;> simp

@[simp] theorem Run.readChunks_commitments (r : Run) (a : Agent) (l : List (Nat × Nat)) :
    (r.readChunks a l).2.dev.commitments = r.dev.commitments := by
  induction l generalizing r with
  | nil => rfl
  | cons p l ih => exact (ih _).trans (r.readChunk_commitments ..)

/-- A list that a command reads leaves every commitment as it was. -/
theorem Dev.readList_commitments {s d : Dev} {h : HoldId} {va n : Nat} {bs : List PByte}
    (hread : s.readList h va n = some (bs, d)) : d.commitments = s.commitments := by
  simp only [Dev.readList] at hread
  split at hread
  · cases hread
  · cases hread
    exact Run.readChunks_commitments ..

@[simp] theorem Dev.endEgress_commitments (i : EgressItem) : (s.endEgress i).commitments = s.commitments := by
  unfold Dev.endEgress
  split <;> simp

@[simp] theorem Dev.drainEgress_commitments (l : List EgressItem) : (s.drainEgress l).commitments = s.commitments := by
  induction l generalizing s with
  | nil => rfl
  | cons i l ih =>
    unfold Dev.drainEgress
    split
    · rfl
    · exact (ih _).trans (s.endEgress_commitments i)

@[simp] theorem Dev.egressWrite_commitments (i : EgressItem) : (s.egressWrite i).commitments = s.commitments := by
  unfold Dev.egressWrite
  split
  · exact Dev.drainEgress_commitments ..
  · dsimp only
    refine (Dev.drainEgress_commitments ..).trans (Eq.trans ?_ (s.countFree_commitments (some i.holding) (regAt ctl 0x17008)))
    refine foldl_preserves Dev.commitments (fun d q => ?_) (s.countFree _ _) _
    split <;> simp [Dev.heldCycles]

@[simp] theorem Dev.unitWrite_commitments (q : MemReq) : (s.unitWrite q).commitments = s.commitments := by
  unfold Dev.unitWrite
  dsimp only
  split_ifs <;> simp

@[simp] theorem Dev.writeChunk_commitments (a : Agent) (pending : Bool) (va : Nat) (data : List PByte) :
    (s.writeChunk a pending va data).commitments = s.commitments := by
  unfold Dev.writeChunk
  dsimp only
  split
  · simp
  · simp
  next pa nospec _ =>
    have hwrite : ∀ q, (((s.xlate a va true).2.crossTo a pa).unitWrite q).commitments = s.commitments := by simp
    split
    · exact hwrite _
    · exact hwrite _

@[simp] theorem Dev.writeVa_commitments (a : Agent) (pending : Bool) (va : Nat) (data : List PByte) :
    (s.writeVa a pending va data).commitments = s.commitments := by
  unfold Dev.writeVa
  generalize chunks va data.length = l
  induction l generalizing s data with
  | nil => rfl
  | cons p l ih => exact (ih ..).trans (s.writeChunk_commitments ..)

end Access

end Sys2Proof.Machine

/-! Commands of Gotre that end at their turn (R424 to R433): the common checks have passed, the work is done, and the
completion waits to be posted. -/

namespace Sys2Proof.Machine

/-! ### The end of a command (R426, R428) -/

theorem Dev.job_congr {s t : Dev} (h : t.gotre = s.gotre) (n : Nat) : t.job n = s.job n := by
  simp only [Dev.job, h]

/-- After a change of phase the jobs of the number are in that phase. -/
theorem Gotre.setPhase_find? {g : Gotre} {n : Nat} {p : JobPhase} {k : Job}
    (h : ((g.setPhase n p).jobs.find? fun j => j.number == n) = some k) : k.phase = p := by
  have hnum : k.number = n := by simpa using List.find?_some h
  obtain ⟨q, -, hq⟩ := List.mem_map.1 (List.mem_of_find?_eq_some h)
  split at hq
  next => rw [← hq]
  next hne => exact absurd (hq ▸ hnum) hne

/-- What the turn of a function is does not matter to the jobs and to the completions that wait. -/
theorem Dev.passTurn_frame (d : Dev) (j : Job) : ∃ f, d.passTurn j = { d with gotre := { d.gotre with turn := f } } := by
  unfold Dev.passTurn
  split
  · exact ⟨d.gotre.turn, rfl⟩
  · exact ⟨j.fn, rfl⟩

/-- A command whose turn has come ends in a device that has not touched its job: it is answered, and only Gotre's own part
of the device changes. -/
theorem Dev.finishJob_passTurn {s d : Dev} {n op : Nat} {j : Job} (ready : s.jobReady n op j) (hd : d.gotre = s.gotre)
    (st : Status) (result : BitVec 128) :
    ∃ g, (d.finishJob n st result).passTurn j = { d with gotre := g }
      ∧ ∀ t : Dev, t.gotre = g → t.answered j st result := by
  obtain ⟨hjob, hnum, -, hphase, hdiscard, -⟩ := ready
  have hfinish : d.finishJob n st result = { d with gotre := { (d.gotre.setPhase n .done) with
      waiting := d.gotre.waiting ++ [j.completion true st result] } } := by
    simp [Dev.finishJob, Dev.job_congr hd, hjob, hphase, hdiscard]
  obtain ⟨f, hturn⟩ := (d.finishJob n st result).passTurn_frame j
  rw [hturn, hfinish]
  refine ⟨_, rfl, fun t ht => ⟨?_, fun k hk => ?_⟩⟩
  · rw [ht]
    exact List.mem_append_right _ (List.mem_singleton_self _)
  · rw [Dev.job, ht, hnum] at hk
    exact Gotre.setPhase_find? hk

theorem Dev.holding_congr {s t : Dev} (h : t.holdings = s.holdings) (k : HoldId) : t.holding k = s.holding k := by
  simp only [Dev.holding, h]

/-- A table command that ends in a device which has not touched its job is answered, with that device's holdings. -/
theorem Dev.lifeScope_finish {s d : Dev} {n op : Nat} {j : Job} (ready : s.jobReady n op j) (hd : d.gotre = s.gotre)
    (st : Status) (result : BitVec 128) :
    let t := s.lifeScope ((d.finishJob n st result).passTurn j)
    t.answered j st result ∧ ∀ k, t.holding k = d.holding k := by
  obtain ⟨g, hend, hanswer⟩ := Dev.finishJob_passTurn ready hd st result
  rw [hend]
  exact ⟨hanswer _ (Dev.lifeScope_gotre ..), Dev.holding_congr (Dev.lifeScope_holdings ..)⟩

/-- So is a command of the mirrors, with that device's holdings, memory, tags and mirrors served. -/
theorem Dev.mirrorScope_finish {s d : Dev} {n op : Nat} {j : Job} (ready : s.jobReady n op j) (hd : d.gotre = s.gotre)
    (st : Status) (result : BitVec 128) :
    let t := s.mirrorScope ((d.finishJob n st result).passTurn j)
    t.answered j st result ∧ t.holdings = d.holdings ∧ t.mem = d.mem ∧ t.tags = d.tags ∧ t.serves = d.serves := by
  obtain ⟨g, hend, hanswer⟩ := Dev.finishJob_passTurn ready hd st result
  rw [hend]
  exact ⟨hanswer _ (Dev.mirrorScope_gotre ..), Dev.mirrorScope_holdings .., Dev.mirrorScope_mem .., Dev.mirrorScope_tags ..,
    Dev.mirrorScope_serves ..⟩

/-! ### Its turn (R428, R432) -/

/-- A command whose turn has come runs its body, and the turn passes on. -/
theorem Dev.runJob_of_jobReady {s : Dev} {n op : Nat} {j : Job} (ready : s.jobReady n op j)
    (hop : (paramBits op).isSome = true) (body : Job → Dev) : s.runJob n op body = (body j).passTurn j := by
  obtain ⟨hjob, -, hserved, hphase, -, hheld, hslots, hrecovery, rfl, hrun, htransition, hcheck⟩ := ready
  have hknown : (paramBits j.op).isNone = false := by simpa using hop
  have hawake : s.awake = true := by simp [Dev.awake, hrun, htransition]
  simp [Dev.runJob, hjob, hserved, hphase, hheld, hslots, hrecovery, hknown, hawake, hcheck]

/-- So does a command of a holding whose block has been read. -/
theorem Dev.runBlock_of_jobReady {s : Dev} {n op : Nat} {j : Job} {h : HoldId} {shape : BlockShape} {blk : BlockRead}
    {b : Block} (ready : s.jobReady n op j) (hop : (paramBits op).isSome = true) (hold : j.holding? = some h)
    (hblk : j.block shape blk = .ok b) (body : Job → HoldId → Block → Dev) :
    s.runBlock n op shape blk body = (body j h b).passTurn j := by
  simp only [Dev.runBlock, Dev.runHolding, Dev.runJob_of_jobReady ready hop, hold, hblk]

/-- A command goes on with a list that is ready. -/
theorem Dev.withList_of_listReady {s d : Dev} {h : HoldId} {va bytes : Nat} {bs : List PByte}
    (list : s.listReady h va bytes bs d) (n : Nat) (f : List PByte → Dev → Dev) :
    s.withList h n va bytes f = f bs d := by
  obtain ⟨hmapped, hread, hclean⟩ := list
  simp [Dev.withList, hmapped, hread, hclean]

end Sys2Proof.Machine

/-! MASK_LOAD (R149 to R152, R156 to R158). -/

namespace Sys2Proof.Machine

/-- The source of a mask, from the words of its command and the bytes of its bitmap. -/
def maskSourceOf (w : List Nat) (bs : List PByte) : MaskSource :=
  { kind := wd w 1, rows := wd w 2, cols := wd w 3, bits := leNat (bs.map (·.val)) }

/-- The bytes of a mask's dense source, if it has one. -/
def maskSourceBytes (w : List Nat) : Nat := if wd w 5 = 0 then 0 else wd w 2 * rowBytes (fmtD (wd w 6)) (wd w 3)

/-- The patches of a mask, and the bytes of each of its planes. -/
def maskPatches (w : List Nat) : Nat := wd w 2 / maskP (wd w 1) * (wd w 3 / maskP (wd w 1))
def maskPlaneBytes (w : List Nat) : Nat := maskPatches w * if wd w 1 = 1 then 3 else 16

/-- The entry of the mask table that MASK_LOAD forms. -/
def maskEntryOf (w : List Nat) (m : MaskSource) : MaskEntry :=
  { kind := wd w 1, rows := wd w 2, cols := wd w 3, kept := m.slots.map fun q => q.1 * wd w 3 + q.2
    valVa := wd w 7, rowPlaneVa := wd w 8, colPlaneVa := wd w 9 }

/-- A device into which the planes of a mask have been written, and the values of its dense source if it has one. -/
def Dev.storeMask (d : Dev) (h : HoldId) (w : List Nat) (m : MaskSource) (sb : List PByte) : Dev :=
  let a := ctlAgent h
  let planes := (d.writeVa a false (wd w 8) (plainBytes (m.plane m.colKept))).writeVa a false (wd w 9)
    (plainBytes (m.plane m.rowKept))
  if wd w 5 = 0 then planes else planes.writeVa a false (wd w 7) (m.values (fmtD (wd w 6)) sb).1

@[simp] theorem Dev.storeMask_commitments (d : Dev) (h : HoldId) (w : List Nat) (m : MaskSource) (sb : List PByte) :
    (d.storeMask h w m sb).commitments = d.commitments := by
  unfold Dev.storeMask
  dsimp only
  split <;> simp

/-- The same, with the entry behind the writes that wait for the boundary. -/
def Dev.maskAccepted (d : Dev) (h : HoldId) (w : List Nat) (m : MaskSource) (sb : List PByte) : Dev :=
  (d.storeMask h w m sb).modHolding h fun y => { y with waiting := y.waiting ++ [.mask (wd w 0) (maskEntryOf w m)] }

theorem Dev.maskAccepted_gotre (d : Dev) (h : HoldId) (w : List Nat) (m : MaskSource) (sb : List PByte) :
    (d.maskAccepted h w m sb).gotre = d.gotre := (Dev.commitments_eq_iff.1 (d.storeMask_commitments h w m sb)).1

theorem Dev.maskAccepted_waiting (d : Dev) (h : HoldId) (w : List Nat) (m : MaskSource) (sb : List PByte) :
    ((d.maskAccepted h w m sb).holding h).waiting = (d.holding h).waiting ++ [.mask (wd w 0) (maskEntryOf w m)] := by
  obtain ⟨-, -, hwaiting⟩ := Dev.commitments_eq_iff.1 (d.storeMask_commitments h w m sb)
  rw [Dev.maskAccepted, Dev.holding_modHolding, if_pos rfl]
  exact congrArg (· ++ _) (hwaiting h)

/-- What MASK_LOAD does once its words and its spans are in order: it refuses a bitmap that breaks its pattern (R157), and
else writes the planes and leaves the entry waiting (R158). -/
def Dev.maskChecked (s d : Dev) (n : Nat) (h : HoldId) (w : List Nat) (bs : List PByte) : Dev :=
  let m := maskSourceOf w bs
  match m.fault with
  | some r => d.finishJob n .formatFault r
  | none =>
    match d.readList h (wd w 5) (maskSourceBytes w) with
    | none => s
    | some (sb, e) =>
      (e.maskAccepted h w m sb).finishJob n .ok (resultOf (if wd w 5 = 0 then 0 else (m.values (fmtD (wd w 6)) sb).2) 0 0 0)

/-- The spans that MASK_LOAD reads and writes translate (R156). -/
def Dev.maskMapped (s : Dev) (h : HoldId) (w : List Nat) : Prop :=
  s.mapped h (wd w 5) (maskSourceBytes w) false = true
    ∧ (wd w 5 ≠ 0 →
        s.mapped h (wd w 7) (rowBytes (fmtD (wd w 6)) (maskPatches w * maskP (wd w 1) * maskN (wd w 1))) true = true)
    ∧ s.mapped h (wd w 8) (maskPlaneBytes w) true = true ∧ s.mapped h (wd w 9) (maskPlaneBytes w) true = true

section MaskLoad
variable {s : State} {n : Nat} {j : Job} {h : HoldId} {blk : BlockRead} {b : Block} {bs : List PByte} {d : Dev}
  (hold : j.holding? = some h) (ready : s.dev.jobReady n 0x0062 j) (hblk : j.block ⟨10, 0, 0⟩ blk = .ok b)
  (good : maskBad b.fixed = false) (mapped : s.dev.maskMapped h b.fixed)
  (bitmap : s.dev.listReady h (wd b.fixed 4) (ceilDiv (wd b.fixed 2 * wd b.fixed 3) 8) bs d)
include hold ready hblk good mapped bitmap

/-- With its words and its spans in order, MASK_LOAD goes on with the bitmap. -/
theorem exec_maskLoad :
    exec (.maskLoad n blk) s = done s (s.dev.lifeScope ((s.dev.maskChecked d n h b.fixed bs).passTurn j)) := by
  obtain ⟨hsrc, hval, hcol, hrow⟩ := mapped
  have hvalues : (wd b.fixed 5 != 0 && !s.dev.mapped h (wd b.fixed 7)
      (rowBytes (fmtD (wd b.fixed 6)) (maskPatches b.fixed * maskP (wd b.fixed 1) * maskN (wd b.fixed 1))) true) = false := by
    by_cases h0 : wd b.fixed 5 = 0
    · simp [h0]
    · simp [hval h0]
  have hload : s.dev.maskLoad n blk = (s.dev.maskChecked d n h b.fixed bs).passTurn j := by
    unfold Dev.maskLoad
    rw [Dev.runBlock_of_jobReady ready rfl hold hblk]
    simp only [maskSourceBytes, maskPlaneBytes, maskPatches] at hsrc hcol hrow hvalues
    simp only [good, hsrc, hcol, hrow, hvalues, Dev.withList_of_listReady bitmap, Bool.not_true, Bool.or_self,
      Bool.false_eq_true, if_false]
    rfl
  rw [← hload]
  rfl

/-- A bitmap that breaks its pattern is refused, and no table write is left waiting (R157). -/
theorem exec_maskLoad_of_fault {r : BitVec 128} (fault : (maskSourceOf b.fixed bs).fault = some r) :
    ∃ t, exec (.maskLoad n blk) s = .next t ∧ t.pending = s.pending ∧ t.dev.answered j .formatFault r
      ∧ (t.dev.holding h).waiting = (d.holding h).waiting := by
  have ⟨_, hread, _⟩ := bitmap
  obtain ⟨hgotre, -, -⟩ := Dev.commitments_eq_iff.1 (Dev.readList_commitments hread)
  obtain ⟨hanswer, hholding⟩ := Dev.lifeScope_finish ready hgotre .formatFault r
  have hexec := exec_maskLoad hold ready hblk good mapped bitmap
  simp only [Dev.maskChecked, fault] at hexec
  exact ⟨_, hexec, rfl, hanswer, congrArg Holding.waiting (hholding h)⟩

/-- The planes are written, and the entry waits behind the writes accepted before (R158). -/
theorem exec_maskLoad_of_fits {e : Dev} {sb : List PByte} (fits : (maskSourceOf b.fixed bs).fault = none)
    (source : d.readList h (wd b.fixed 5) (maskSourceBytes b.fixed) = some (sb, e)) :
    let m := maskSourceOf b.fixed bs
    ∃ t, exec (.maskLoad n blk) s = .next t ∧ t.pending = s.pending
      ∧ t.dev.answered j .ok (resultOf (if wd b.fixed 5 = 0 then 0 else (m.values (fmtD (wd b.fixed 6)) sb).2) 0 0 0)
      ∧ (t.dev.holding h).waiting = (e.holding h).waiting ++ [.mask (wd b.fixed 0) (maskEntryOf b.fixed m)] := by
  intro m
  have ⟨_, hread, _⟩ := bitmap
  have hreads : e.commitments = s.dev.commitments :=
    (Dev.readList_commitments source).trans (Dev.readList_commitments hread)
  obtain ⟨hgotre, -, -⟩ := Dev.commitments_eq_iff.1 hreads
  obtain ⟨hanswer, hholding⟩ := Dev.lifeScope_finish ready ((e.maskAccepted_gotre h b.fixed m sb).trans hgotre) .ok
    (resultOf (if wd b.fixed 5 = 0 then 0 else (m.values (fmtD (wd b.fixed 6)) sb).2) 0 0 0)
  have hexec := exec_maskLoad hold ready hblk good mapped bitmap
  simp only [Dev.maskChecked, fits, source] at hexec
  exact ⟨_, hexec, rfl, hanswer, (congrArg Holding.waiting (hholding h)).trans (e.maskAccepted_waiting h b.fixed m sb)⟩

end MaskLoad

end Sys2Proof.Machine

/-! CHECKPOINT_MIRROR_SET (R241, R403, R405): what it makes of block tags, and its four operations. -/

namespace Sys2Proof.Machine

/-! ### Tags of many blocks (R221, R229, R233) -/

theorem Dev.tag_setTag (s : Dev) (b q : Nat) (t : Tag) : (s.setTag b t).tag q = if q = b then t else s.tag q := by
  have hplain : (s.setTag b t).plainTag = s.plainTag := rfl
  rw [Dev.tag, hplain, Dev.setTag, Laws.Tab.get_set]
  by_cases hq : q = b
  · subst hq
    by_cases ht : t = s.plainTag q <;> simp [ht]
  · simp [hq, Dev.tag]

/-- The owner of a block does not depend on where the regions lie. -/
theorem Dev.tag_owner_congr {s t : Dev} (h : t.tags = s.tags) (q : Nat) : (t.tag q).owner = (s.tag q).owner := by
  have hplain : ∀ d : Dev, (d.plainTag q).owner = (bootTag q).owner := fun d => by
    unfold Dev.plainTag
    split <;> rfl
  simp only [Dev.tag, h]
  cases Tab.get none s.tags q with
  | none => exact (hplain t).trans (hplain s).symm
  | some v => rfl

theorem Dev.foldl_setTag_frame (s : Dev) (f : Dev → Nat → Tag) (bs : List Nat) :
    ∃ x, bs.foldl (fun d b => d.setTag b (f d b)) s = { s with tags := x } :=
  List.foldlRecOn bs _ (motive := fun d : Dev => ∃ x, d = { s with tags := x }) ⟨s.tags, rfl⟩ fun _ hd _ _ => by
    obtain ⟨x, rfl⟩ := hd
    exact ⟨_, rfl⟩

/-- A device of which some blocks have been unmapped. -/
def Dev.unmapBlocks (s : Dev) (bs : List Nat) : Dev :=
  bs.foldl (fun (d : Dev) b => d.setTag b (unmappedTag (d.tag b))) s

/-- Blocks that are unmapped have no owner. -/
theorem Dev.unmapBlocks_owner (s : Dev) (bs : List Nat) (q : Nat) (h : q ∈ bs ∨ (s.tag q).owner = .unassigned) :
    ((s.unmapBlocks bs).tag q).owner = .unassigned := by
  induction bs generalizing s with
  | nil => exact h.resolve_left List.not_mem_nil
  | cons b bs ih =>
    refine ih (s.setTag b (unmappedTag (s.tag b))) ?_
    rw [Dev.tag_setTag]
    by_cases hq : q = b
    · exact .inr (by rw [if_pos hq]; rfl)
    · simpa [hq] using h

theorem Dev.rebuildRegion_frame (s : Dev) (t r : Nat) : ∃ x, s.rebuildRegion t r = { s with regions := x } := by
  unfold Dev.rebuildRegion
  dsimp only
  split
  · exact ⟨s.regions, rfl⟩
  · exact ⟨_, rfl⟩

theorem Dev.foldl_rebuildRegion_frame (s : Dev) (t : Nat) (rs : List Nat) :
    ∃ x, rs.foldl (fun d r => d.rebuildRegion t r) s = { s with regions := x } :=
  List.foldlRecOn rs _ (motive := fun d : Dev => ∃ x, d = { s with regions := x }) ⟨s.regions, rfl⟩ fun _ hd r _ => by
    obtain ⟨x, rfl⟩ := hd
    exact Dev.rebuildRegion_frame { s with regions := x } t r

theorem Dev.rebuildRegions_frame (s : Dev) : ∃ x, s.rebuildRegions = { s with regions := x } := by
  unfold Dev.rebuildRegions
  dsimp only
  obtain ⟨x, hx⟩ := s.foldl_rebuildRegion_frame 0 (List.range (tierRegions 0))
  rw [hx]
  exact Dev.foldl_rebuildRegion_frame { s with regions := x } 1 _

theorem Dev.rebuildRegions_tags (s : Dev) : s.rebuildRegions.tags = s.tags := by
  obtain ⟨x, hx⟩ := s.rebuildRegions_frame
  rw [hx]

/-! ### Mirrors served (R241, R403) -/

/-- A device that serves a mirror to a buddy, from blocks that have become its own. -/
def Dev.servingMirror (s : Dev) (buddy : Nat) (m : MirrorServe) : Dev :=
  let s1 := m.blocks.foldl (fun d b => d.setTag b { owner := .device }) s
  { s1 with serves := Tab.set none s1.serves buddy (some m) }

/-- A device that serves a buddy no mirror. -/
def Dev.dropServe (s : Dev) (buddy : Nat) : Dev := { s with serves := Tab.set none s.serves buddy none }

theorem Dev.dropServe_tags (s : Dev) (buddy : Nat) : (s.dropServe buddy).tags = s.tags := rfl

/-- A device that has ended the serving of a mirror: its blocks have no owner, and degraded regions are rebuilt. -/
def Dev.releasedMirror (s : Dev) (buddy : Nat) (m : MirrorServe) : Dev :=
  ((s.unmapBlocks m.blocks).dropServe buddy).rebuildRegions

theorem Dev.serveAt_congr {s t : Dev} (h : t.serves = s.serves) (buddy : Nat) : t.serveAt buddy = s.serveAt buddy := by
  simp only [Dev.serveAt, h]

theorem Dev.servingMirror_frame (s : Dev) (buddy : Nat) (m : MirrorServe) :
    (s.servingMirror buddy m).gotre = s.gotre ∧ (s.servingMirror buddy m).holdings = s.holdings
      ∧ (s.servingMirror buddy m).mem = s.mem := by
  obtain ⟨x, hx⟩ := s.foldl_setTag_frame (fun _ _ => { owner := .device }) m.blocks
  simp only [Dev.servingMirror, hx, and_self]

theorem Dev.serveAt_servingMirror (s : Dev) (buddy : Nat) (m : MirrorServe) :
    (s.servingMirror buddy m).serveAt buddy = some m := Laws.Tab.get_set_same ..

theorem Dev.releasedMirror_frame (s : Dev) (buddy : Nat) (m : MirrorServe) :
    (s.releasedMirror buddy m).gotre = s.gotre ∧ (s.releasedMirror buddy m).mem = s.mem := by
  obtain ⟨x, hx⟩ := s.foldl_setTag_frame (fun d b => unmappedTag (d.tag b)) m.blocks
  obtain ⟨y, hy⟩ := ((s.unmapBlocks m.blocks).dropServe buddy).rebuildRegions_frame
  rw [Dev.releasedMirror, hy, Dev.unmapBlocks, hx]
  exact ⟨rfl, rfl⟩

theorem Dev.serveAt_releasedMirror (s : Dev) (buddy : Nat) (m : MirrorServe) :
    (s.releasedMirror buddy m).serveAt buddy = none := by
  obtain ⟨y, hy⟩ := ((s.unmapBlocks m.blocks).dropServe buddy).rebuildRegions_frame
  rw [Dev.releasedMirror, hy]
  exact Laws.Tab.get_set_same ..

/-- The blocks of a released mirror have no owner. -/
theorem Dev.releasedMirror_owner (s : Dev) (buddy : Nat) (m : MirrorServe) {q : Nat} (hq : q ∈ m.blocks) :
    ((s.releasedMirror buddy m).tag q).owner = .unassigned := by
  have htags : (s.releasedMirror buddy m).tags = (s.unmapBlocks m.blocks).tags :=
    (Dev.rebuildRegions_tags _).trans (Dev.dropServe_tags ..)
  rw [Dev.tag_owner_congr htags]
  exact s.unmapBlocks_owner m.blocks q (.inl hq)

/-- A device in which a holding sends nothing to a buddy any more. -/
def Dev.endSend (s : Dev) (h : HoldId) (buddy : Nat) : Dev :=
  if (s.holding h).mirrorSend.any fun m => m.buddy.toNat == buddy then s.modHolding h fun x => { x with mirrorSend := none }
  else s

theorem Dev.endSend_frame (s : Dev) (h : HoldId) (buddy : Nat) :
    (s.endSend h buddy).gotre = s.gotre ∧ (s.endSend h buddy).mem = s.mem := by
  unfold Dev.endSend
  split
  · exact ⟨rfl, rfl⟩
  · exact ⟨rfl, rfl⟩

/-! ### Ranges restored (R405) -/

/-- The ranges of a mirror command's block: first address and bytes. -/
def Block.ranges (b : Block) : List (Nat × Nat) := b.list1.map fun r => (wd r 0, wd r 1)

/-- What a holding sends that has asked for SEND, before its first generation. -/
def Block.newSend (b : Block) : MirrorSend :=
  { buddy := BitVec.ofNat 16 (wd b.fixed 1), every := wd b.fixed 3, ranges := b.ranges, running := false, step := 0, slot := 0 }

/-- What a device serves that has taken a SERVE, before the first generation. -/
def Block.newServe (b : Block) : MirrorServe :=
  { buddy := BitVec.ofNat 16 (wd b.fixed 1), firstRegion := wd b.fixed 4, regions := wd b.fixed 5, complete := none }

theorem Dev.any_unmapped_eq_false {s : Dev} {h : HoldId} {rs : List (Nat × Nat)} {write : Bool}
    (hmapped : ∀ r ∈ rs, s.mapped h r.1 r.2 write = true) : (rs.any fun r => !s.mapped h r.1 r.2 write) = false :=
  List.any_eq_false.2 fun r hr => by simp [hmapped r hr]

/-- A RESTORE is poisoned unless the check of every range passes. -/
theorem restoreStatus_eq (parts : List (Nat × List PByte × Word64)) (items : List ((Nat × Nat) × Nat)) :
    (if items.any fun p => (goodRange parts p).isNone then Status.poisoned else .ok)
      = if ∀ p ∈ items, (goodRange parts p).isSome = true then .ok else .poisoned := by
  by_cases hall : ∀ p ∈ items, (goodRange parts p).isSome = true
  · have hnone : (items.any fun p => (goodRange parts p).isNone) = false :=
      List.any_eq_false.2 fun p hp => by simp [Option.isSome_iff_ne_none.1 (hall p hp)]
    rw [if_pos hall, hnone, if_neg Bool.false_ne_true]
  · have hsome : (items.any fun p => (goodRange parts p).isNone) = true := by simpa using hall
    rw [if_neg hall, if_pos hsome]

/-- A device in which a range of a RESTORE has been written: with its data, or poisoned where its check fails. -/
def Dev.restoreRange (h : HoldId) (parts : List (Nat × List PByte × Word64)) (d : Dev) (p : (Nat × Nat) × Nat) : Dev :=
  match goodRange parts p with
  | some data => d.writeVa (ctlAgent h) false p.1.1 (data.take p.1.2)
  | none => d.writeVa (ctlAgent h) false p.1.1 (poisonedBytes p.1.1 p.1.2)

theorem Dev.restoreRange_commitments (h : HoldId) (parts : List (Nat × List PByte × Word64)) (d : Dev)
    (p : (Nat × Nat) × Nat) : (d.restoreRange h parts p).commitments = d.commitments := by
  unfold Dev.restoreRange
  split
  · exact d.writeVa_commitments ..
  · exact d.writeVa_commitments ..

/-! ### The operations (R403, R405) -/

section Mirrors
variable {s : State} {n : Nat} {j : Job} {h : HoldId} {blk : BlockRead} {b : Block}

/-- A row of CHECKPOINT_MIRROR_SET whose operation the command asks for runs it on the ranges of the block. -/
theorem Dev.runMirror_of_jobReady {s : Dev} (hold : j.holding? = some h) (ready : s.jobReady n 0x00E0 j)
    (hblk : j.block ⟨6, 2, 0⟩ blk = .ok b) {op : Nat} (hop : wd b.fixed 0 = op) (hlow : op ≤ 3)
    (hbuddy : wd b.fixed 1 ≤ 65535) (hsource : wd b.fixed 2 ≤ 65535)
    (f : Job → HoldId → List Nat → List (Nat × Nat) → Dev) :
    s.runMirror n op blk f = (f j h b.fixed b.ranges).passTurn j := by
  unfold Dev.runMirror
  rw [Dev.runBlock_of_jobReady ready rfl hold hblk]
  simp [hop, Nat.not_lt.2 hlow, Nat.not_lt.2 hbuddy, Nat.not_lt.2 hsource, Block.ranges]

variable (hold : j.holding? = some h) (ready : s.dev.jobReady n 0x00E0 j) (hblk : j.block ⟨6, 2, 0⟩ blk = .ok b)
  (hbuddy : wd b.fixed 1 ≤ 65535) (hsource : wd b.fixed 2 ≤ 65535)
include hold ready hblk hbuddy hsource

/-- SERVE makes the free regions the device's, and serves the buddy from them (R241, R403). -/
theorem exec_mirrorServe_of_free (hop : wd b.fixed 0 = 0) (hpf : j.fn = 0) (hother : wd b.fixed 1 ≠ s.dev.number.toNat)
    (hcount : wd b.fixed 5 ≠ 0) (hfirst : wd b.fixed 4 ≠ 0) (hlast : wd b.fixed 4 + wd b.fixed 5 ≤ 768)
    (hnew : s.dev.serveAt (wd b.fixed 1) = none)
    (hfree : ∀ i < wd b.fixed 5, (s.dev.freeRegions 1).contains (wd b.fixed 4 + i) = true) :
    ∃ t, exec (.mirrorServe n blk) s = .next t ∧ t.pending = s.pending ∧ t.dev.answered j .ok 0
      ∧ t.dev.serveAt (wd b.fixed 1) = some b.newServe ∧ t.dev.holdings = s.dev.holdings ∧ t.dev.mem = s.dev.mem := by
  have hgood : (wd b.fixed 1 == s.dev.number.toNat || wd b.fixed 5 == 0 || wd b.fixed 4 == 0
      || decide (768 < wd b.fixed 4 + wd b.fixed 5)) = false := by
    simp [hother, hcount, hfirst, hlast]
  have hall : ((List.range (wd b.fixed 5)).all fun i => (s.dev.freeRegions 1).contains (wd b.fixed 4 + i)) = true :=
    List.all_eq_true.2 fun i hi => hfree i (List.mem_range.1 hi)
  have hserve : s.dev.mirrorServe n blk = ((s.dev.servingMirror (wd b.fixed 1) b.newServe).finishJob n .ok 0).passTurn j := by
    unfold Dev.mirrorServe
    rw [Dev.runMirror_of_jobReady hold ready hblk hop (by decide) hbuddy hsource]
    simp only [hpf, hgood, hnew, hall, bne_self_eq_false, Option.isSome_none, Bool.not_true, Bool.false_eq_true, if_false]
    rfl
  obtain ⟨hgotre, hkept, hstored⟩ := s.dev.servingMirror_frame (wd b.fixed 1) b.newServe
  obtain ⟨hanswer, hholdings, hmem, -, hserves⟩ := Dev.mirrorScope_finish ready hgotre .ok 0
  rw [← hserve] at hanswer hholdings hmem hserves
  exact ⟨_, rfl, rfl, hanswer, (Dev.serveAt_congr hserves _).trans (s.dev.serveAt_servingMirror ..), hholdings.trans hkept,
    hmem.trans hstored⟩

/-- SEND keeps what the holding sends to its buddy, where a slot has room for it (R403). -/
theorem exec_mirrorSend_of_room (hop : wd b.fixed 0 = 1) (hother : wd b.fixed 1 ≠ s.dev.number.toNat)
    (hevery : wd b.fixed 3 ≠ 0) (hlimit : wd b.fixed 3 ≤ 65535) (hranges : rangesBad b.ranges = false)
    (hmapped : ∀ r ∈ b.ranges, s.dev.mapped h r.1 r.2 false = true) {k : Nat} (hroom : b.newSend.blocks.length + 1 ≤ k) :
    ∃ t, exec (.mirrorSend n blk k) s = .next t ∧ t.pending = s.pending ∧ t.dev.answered j .ok 0
      ∧ t.dev.holding h = { s.dev.holding h with mirrorSend := some b.newSend } ∧ t.dev.mem = s.dev.mem
      ∧ t.dev.serves = s.dev.serves := by
  have hgood : (wd b.fixed 1 == s.dev.number.toNat || wd b.fixed 3 == 0 || decide (65535 < wd b.fixed 3)
      || rangesBad b.ranges) = false := by
    simp [hother, hevery, hlimit, hranges]
  have hfits : ¬ k < b.newSend.blocks.length + 1 := Nat.not_lt.2 hroom
  simp only [Block.newSend] at hfits
  have hsend : s.dev.mirrorSend n blk k
      = ((s.dev.modHolding h fun x => { x with mirrorSend := some b.newSend }).finishJob n .ok 0).passTurn j := by
    unfold Dev.mirrorSend
    rw [Dev.runMirror_of_jobReady hold ready hblk hop (by decide) hbuddy hsource]
    simp only [hgood, Dev.any_unmapped_eq_false hmapped, hfits, Bool.false_eq_true, if_false]
    rfl
  obtain ⟨hanswer, hholdings, hmem, -, hserves⟩ := Dev.mirrorScope_finish ready
    (d := s.dev.modHolding h fun x => { x with mirrorSend := some b.newSend }) rfl .ok 0
  rw [← hsend] at hanswer hholdings hmem hserves
  refine ⟨_, rfl, rfl, hanswer, ?_, hmem, hserves⟩
  rw [Dev.holding_congr hholdings, Dev.holding_modHolding, if_pos rfl]

/-- RELEASE ends a SEND to the buddy, and leaves a mirror that the device serves to it to the PF (R403). -/
theorem exec_mirrorRelease_of_send {m : MirrorSend} (hop : wd b.fixed 0 = 3) (hm : (s.dev.holding h).mirrorSend = some m)
    (hmine : m.buddy.toNat = wd b.fixed 1) (hserve : s.dev.serveAt (wd b.fixed 1) = none ∨ j.fn ≠ 0) :
    ∃ t, exec (.mirrorRelease n blk) s = .next t ∧ t.pending = s.pending ∧ t.dev.answered j .ok 0
      ∧ t.dev.holding h = { s.dev.holding h with mirrorSend := none } ∧ t.dev.mem = s.dev.mem := by
  have hsends : ((s.dev.holding h).mirrorSend.any fun m => m.buddy.toNat == wd b.fixed 1) = true := by simp [hm, hmine]
  have hrelease : s.dev.mirrorRelease n blk
      = ((s.dev.modHolding h fun x => { x with mirrorSend := none }).finishJob n .ok 0).passTurn j := by
    unfold Dev.mirrorRelease
    rw [Dev.runMirror_of_jobReady hold ready hblk hop (by decide) hbuddy hsource]
    simp only [hsends, Bool.not_true, Bool.false_and, Bool.false_eq_true, if_false, if_true]
    cases hserves : s.dev.serveAt (wd b.fixed 1) with
    | none => rfl
    | some v =>
      have hvf : (j.fn != 0) = true := by simpa [hserves] using hserve
      simp only [hvf, if_true]
  obtain ⟨hanswer, hholdings, hmem, -⟩ := Dev.mirrorScope_finish ready
    (d := s.dev.modHolding h fun x => { x with mirrorSend := none }) rfl .ok 0
  rw [← hrelease] at hanswer hholdings hmem
  refine ⟨_, rfl, rfl, hanswer, ?_, hmem⟩
  rw [Dev.holding_congr hholdings, Dev.holding_modHolding, if_pos rfl]

/-- RELEASE by the PF ends a SERVE: the regions' blocks have no owner again (R241, R403). -/
theorem exec_mirrorRelease_of_serve {m : MirrorServe} (hop : wd b.fixed 0 = 3) (hpf : j.fn = 0)
    (hm : s.dev.serveAt (wd b.fixed 1) = some m) :
    ∃ t, exec (.mirrorRelease n blk) s = .next t ∧ t.pending = s.pending ∧ t.dev.answered j .ok 0
      ∧ t.dev.serveAt (wd b.fixed 1) = none ∧ (∀ q ∈ m.blocks, (t.dev.tag q).owner = .unassigned)
      ∧ t.dev.mem = s.dev.mem := by
  have hrelease : s.dev.mirrorRelease n blk
      = (((s.dev.endSend h (wd b.fixed 1)).releasedMirror (wd b.fixed 1) m).finishJob n .ok 0).passTurn j := by
    unfold Dev.mirrorRelease
    rw [Dev.runMirror_of_jobReady hold ready hblk hop (by decide) hbuddy hsource]
    simp only [hm, hpf, Option.isNone_some, bne_self_eq_false, Bool.and_false, Bool.false_eq_true, if_false]
    rfl
  obtain ⟨hgotre, hstored⟩ := (s.dev.endSend h (wd b.fixed 1)).releasedMirror_frame (wd b.fixed 1) m
  obtain ⟨hgotreEnd, hstoredEnd⟩ := s.dev.endSend_frame h (wd b.fixed 1)
  obtain ⟨hanswer, -, hmem, htags, hserves⟩ := Dev.mirrorScope_finish ready (hgotre.trans hgotreEnd) .ok 0
  rw [← hrelease] at hanswer hmem htags hserves
  exact ⟨_, rfl, rfl, hanswer, (Dev.serveAt_congr hserves _).trans (Dev.serveAt_releasedMirror ..),
    fun q hq => (Dev.tag_owner_congr htags q).trans (Dev.releasedMirror_owner _ _ m hq),
    hmem.trans (hstored.trans hstoredEnd)⟩

/-- RESTORE without a complete generation is refused (R405). -/
theorem exec_mirrorRestore_of_none (hop : wd b.fixed 0 = 2) (hranges : rangesBad b.ranges = false)
    (hmapped : ∀ r ∈ b.ranges, s.dev.mapped h r.1 r.2 true = true) :
    ∃ t, exec (.mirrorRestore n blk none) s = .next t ∧ t.pending = s.pending ∧ t.dev.answered j .wrongState 0
      ∧ t.dev.mem = s.dev.mem := by
  have hrestore : s.dev.mirrorRestore n blk none = (s.dev.finishJob n .wrongState 0).passTurn j := by
    unfold Dev.mirrorRestore
    rw [Dev.runMirror_of_jobReady hold ready hblk hop (by decide) hbuddy hsource]
    simp only [hranges, Dev.any_unmapped_eq_false hmapped, Bool.false_eq_true, if_false]
  obtain ⟨hanswer, -, hmem, -⟩ := Dev.mirrorScope_finish ready rfl .wrongState 0
  rw [← hrestore] at hanswer hmem
  exact ⟨_, rfl, rfl, hanswer, hmem⟩

/-- RESTORE of a generation writes every range, and answers OK where the check of each passes (R405). -/
theorem exec_mirrorRestore_of_some (hop : wd b.fixed 0 = 2) (hranges : rangesBad b.ranges = false)
    (hmapped : ∀ r ∈ b.ranges, s.dev.mapped h r.1 r.2 true = true) (step : Word32)
    (parts : List (Nat × List PByte × Word64)) :
    ∃ t, exec (.mirrorRestore n blk (some (step, parts))) s = .next t ∧ t.pending = s.pending
      ∧ t.dev.answered j
          (if ∀ p ∈ b.ranges.zip (List.range b.ranges.length), (goodRange parts p).isSome = true then .ok else .poisoned)
          (resultOf step.toNat 0 0 0)
      ∧ t.dev.serves = s.dev.serves := by
  rw [← restoreStatus_eq]
  let items := b.ranges.zip (List.range b.ranges.length)
  let status : Status := if items.any fun p => (goodRange parts p).isNone then .poisoned else .ok
  have hrestore : s.dev.mirrorRestore n blk (some (step, parts)) =
      ((items.foldl (Dev.restoreRange h parts) s.dev).finishJob n status (resultOf step.toNat 0 0 0)).passTurn j := by
    unfold Dev.mirrorRestore
    rw [Dev.runMirror_of_jobReady hold ready hblk hop (by decide) hbuddy hsource]
    simp only [hranges, Dev.any_unmapped_eq_false hmapped, Bool.false_eq_true, if_false]
    rfl
  have hkept : (items.foldl (Dev.restoreRange h parts) s.dev).commitments = s.dev.commitments :=
    foldl_preserves Dev.commitments (Dev.restoreRange_commitments h parts) s.dev items
  obtain ⟨hgotre, hserve, -⟩ := Dev.commitments_eq_iff.1 hkept
  obtain ⟨hanswer, -, -, -, hserves⟩ := Dev.mirrorScope_finish ready hgotre status (resultOf step.toNat 0 0 0)
  rw [← hrestore] at hanswer hserves
  exact ⟨_, rfl, rfl, hanswer, hserves.trans hserve⟩

end Mirrors

/-- Settles O49: reads and writes of holding memory leave Gotre's job as it was, so that each command ends answered; a
mask's entry is appended to the writes that wait, and the mirrors change the sending of a holding or what the device
serves. -/
theorem masksAndMirrorsAreCommanded : Obligations.MasksAndMirrorsAreCommanded := by
  unfold Obligations.MasksAndMirrorsAreCommanded
  refine ⟨?_, ?_⟩
  · intro s n j h blk b bs sb d e hold ready hblk w p patches plane m src f srcBytes good hsrc hvalues hcols hrows bitmap
    have mapped : s.dev.maskMapped h b.fixed := ⟨hsrc, hvalues, hcols, hrows⟩
    exact ⟨fun r fault => exec_maskLoad_of_fault hold ready hblk good mapped bitmap fault,
      fun fits source => exec_maskLoad_of_fits hold ready hblk good mapped bitmap fits source⟩
  · intro s n j h blk b hold ready hblk w rs x hbuddy hsource
    refine ⟨?_, ?_, ?_, ?_, ?_, ?_⟩
    · exact exec_mirrorServe_of_free hold ready hblk hbuddy hsource
    · intro k hop hother hevery hlimit hranges hmapped m
      exact exec_mirrorSend_of_room hold ready hblk hbuddy hsource hop hother hevery hlimit hranges hmapped
    · intro step parts hop hranges hmapped
      exact exec_mirrorRestore_of_some hold ready hblk hbuddy hsource hop hranges hmapped step parts
    · exact exec_mirrorRestore_of_none hold ready hblk hbuddy hsource
    · intro m
      exact exec_mirrorRelease_of_send hold ready hblk hbuddy hsource
    · intro m
      exact exec_mirrorRelease_of_serve hold ready hblk hbuddy hsource

end Sys2Proof.Machine

/-! Reading leaves memory alone where no stored sector holds an error (R235): no write-back is due, whatever the read
translates through and however it crosses the package. -/

namespace Sys2Proof.Machine

/-! ### Devices between which memory was only read -/

/-- Where no stored sector held an error, none holds one now, and no byte has changed. -/
structure Dev.OnlyRead (s t : Dev) : Prop where
  clean : s.ecc = [] → t.ecc = []
  mem : s.ecc = [] → t.mem = s.mem

theorem Dev.OnlyRead.of_eq {s t : Dev} (hecc : t.ecc = s.ecc) (hmem : t.mem = s.mem) : s.OnlyRead t :=
  ⟨hecc.trans, fun _ => hmem⟩

theorem Dev.OnlyRead.refl (s : Dev) : s.OnlyRead s := .of_eq rfl rfl

theorem Dev.OnlyRead.trans {s t u : Dev} (hst : s.OnlyRead t) (htu : t.OnlyRead u) : s.OnlyRead u :=
  ⟨fun h => htu.clean (hst.clean h), fun h => (htu.mem (hst.clean h)).trans (hst.mem h)⟩

section Sectors
variable (s : Dev)

theorem Dev.lcSlots_onlyRead (k : StackId) (cls : MemClass) : s.OnlyRead (s.lcSlots k cls) := by
  unfold Dev.lcSlots
  split
  · exact .of_eq rfl rfl
  · exact .refl s

theorem Dev.offlineAccess_onlyRead (k : StackId) (o : Owner) : s.OnlyRead (s.offlineAccess k o) := by
  unfold Dev.offlineAccess
  split
  · exact .refl s
  · exact .of_eq rfl rfl

/-- A sector without an error is read as it stands. -/
theorem Dev.meetEcc_of_clean {s : Dev} (h : s.ecc = []) (k : StackId) (o : Owner) (sec : Nat) : s.meetEcc k o sec = s := by
  simp [Dev.meetEcc, h]

theorem Dev.meetEcc_onlyRead (k : StackId) (o : Owner) (sec : Nat) : s.OnlyRead (s.meetEcc k o sec) :=
  ⟨fun h => by rwa [Dev.meetEcc_of_clean h], fun h => by rw [Dev.meetEcc_of_clean h]⟩

theorem Dev.readSector1_onlyRead (sec : Nat) (o : Owner) : s.OnlyRead (s.readSector1 sec o).2 := by
  unfold Dev.readSector1
  dsimp only
  split_ifs
  · exact s.offlineAccess_onlyRead ..
  · exact .of_eq rfl rfl
  · exact .of_eq rfl rfl
  · exact .of_eq rfl rfl
  · have htag : s.OnlyRead (s.tagRead (s.place (sec * 32)).stack o) := .of_eq rfl rfl
    exact (htag.trans (Dev.meetEcc_onlyRead _ (s.place (sec * 32)).stack o sec)).trans (.of_eq rfl rfl)

end Sectors

/-! ### Translation and crossings (R246 to R251, R411) -/

section Translation
variable (s : Dev)

theorem Dev.cacheLeaf_onlyRead (n : CacheName) (h : HoldId) (level va : Nat) (e : Word64) :
    s.OnlyRead (s.cacheLeaf n h level va e) := by
  obtain ⟨x, k, hframe⟩ := s.cacheLeaf_frame n h level va e
  rw [hframe]
  exact .of_eq rfl rfl

theorem Dev.cacheCore_onlyRead (a : Agent) (va level : Nat) (e : Word64) : s.OnlyRead (s.cacheCore a va level e) := by
  obtain ⟨x, k, hframe⟩ := s.cacheCore_frame a va level e
  rw [hframe]
  exact .of_eq rfl rfl

theorem Dev.readEntry_onlyRead (cls : MemClass) (pa : Nat) : s.OnlyRead (s.readEntry cls pa).2 :=
  (s.lcSlots_onlyRead ..).trans (Dev.readSector1_onlyRead ..)

theorem Dev.walkEntry_onlyRead (h : HoldId) (walker : Option Nat) (cls : MemClass) (level table va : Nat) :
    s.OnlyRead (s.walkEntry h walker cls level table va).2 := by
  have hread := s.readEntry_onlyRead cls (pteAddr level table va)
  unfold Dev.walkEntry
  split
  · exact .refl s
  · dsimp only
    split
    · dsimp only
      split
      · exact hread.trans (Dev.cacheLeaf_onlyRead ..)
      · exact hread
    · exact hread

theorem Dev.walkFrom_onlyRead (h : HoldId) (walker : Option Nat) (cls : MemClass) (va level table : Nat) :
    s.OnlyRead (s.walkFrom h walker cls va level table).2 := by
  induction level generalizing s table with
  | zero => exact s.walkEntry_onlyRead ..
  | succ level ih =>
    have hentry := s.walkEntry_onlyRead h walker cls (level + 1) table va
    unfold Dev.walkFrom
    dsimp only
    split
    · exact hentry
    · exact hentry.trans (ih ..)

theorem Dev.walk_onlyRead (h : HoldId) (walker : Option Nat) (cls : MemClass) (va : Nat) :
    s.OnlyRead (s.walk h walker cls va).2 := by
  unfold Dev.walk
  split
  · exact .refl s
  · exact s.walkFrom_onlyRead ..

theorem Dev.sharedHit_onlyRead (a : Agent) : s.OnlyRead (s.sharedHit a) := by
  unfold Dev.sharedHit
  split <;> exact .of_eq rfl rfl

theorem Dev.xlate_onlyRead (a : Agent) (va : Nat) (write : Bool) : s.OnlyRead (s.xlate a va write).2 := by
  have hcount : s.OnlyRead (s.count (some a.holding) (xltReg a.die 0x18) 1) := .of_eq rfl rfl
  have hwalk := hcount.trans (Dev.walk_onlyRead _ a.holding (some a.die) a.cls va)
  unfold Dev.xlate
  split
  · exact .refl s
  · split
    · exact .refl s
    · split
      · exact (s.sharedHit_onlyRead a).trans (Dev.cacheCore_onlyRead ..)
      · dsimp only
        split
        · exact hwalk
        · exact hwalk.trans ((Dev.cacheLeaf_onlyRead ..).trans (Dev.cacheCore_onlyRead ..))

theorem Dev.crossTo_onlyRead (a : Agent) (pa : Nat) : s.OnlyRead (s.crossTo a pa) := by
  obtain ⟨x, y, hframe⟩ := s.cross_frame a.requester a.die (stackDie (s.place pa).stack)
  rw [Dev.crossTo, hframe]
  exact .of_eq rfl rfl

end Translation

end Sys2Proof.Machine

/-! The Coulter and deliveries between cores (R165, R166, R172 to R175, R181 to R184). -/

namespace Sys2Proof.Machine

/-! ### What a core asks for ahead (R165, R166, R170) -/

section Ahead
variable (s : Dev)

/-- The device as the Coulter looks at an entry: a row count taken from a predicted length is noted in the entry. -/
def Dev.predicting (s : Dev) (c : CoreId) (e : WEntry) (predicted : Bool) (rows : Nat) : Dev :=
  if predicted then s.modEntry c e fun w => { w with pfPredicted := some rows } else s

/-- A core as its Coulter has asked for sectors of an entry: how far the entry has come, and the sectors in flight. -/
def Core.asksAhead (x : Core) (e : WEntry) (rows lines : Nat) (es : List PfSector) (ids : Nat) : Core :=
  { x with window := x.window.map fun w => if sameEntry w e then { w with pfRows := rows, pfLines := lines } else w
           pf := x.pf ++ es
           pfNext := x.pfNext + ids }

/-- An entry of the window is still there, and has come as far as the Coulter has asked. -/
theorem Core.asksAhead_entry {x : Core} {e : WEntry} (h : (e.stream, e.index) ∈ x.names) (rows lines : Nat)
    (es : List PfSector) (ids : Nat) :
    ∃ w ∈ (x.asksAhead e rows lines es ids).window, sameEntry w e = true ∧ w.pfRows = rows ∧ w.pfLines = lines := by
  obtain ⟨w, hw, hsame⟩ := Core.exists_sameEntry h
  exact ⟨{ w with pfRows := rows, pfLines := lines }, List.mem_map.2 ⟨w, hw, if_pos hsame⟩, hsame, rfl, rfl⟩

theorem Dev.modEntry_core (c : CoreId) (e : WEntry) (f : WEntry → WEntry) :
    (s.modEntry c e f).core c
      = { s.core c with window := (s.core c).window.map fun w => if sameEntry w e then f w else w } := by
  rw [Dev.modEntry, Dev.core_modCore, if_pos rfl]

theorem Dev.predicting_names (c : CoreId) (e : WEntry) (p : Bool) (rows : Nat) :
    (s.predicting c e p rows).names = s.names := by
  unfold Dev.predicting
  split
  · exact s.modEntry_names c e fun _ => rfl
  · rfl

/-- A prediction changes the window of its core alone. -/
theorem Dev.predicting_core (c : CoreId) (e : WEntry) (p : Bool) (rows : Nat) :
    ∃ l, (s.predicting c e p rows).core c = { s.core c with window := l } := by
  unfold Dev.predicting
  split
  · exact ⟨_, s.modEntry_core ..⟩
  · exact ⟨_, rfl⟩

theorem Dev.predicting_regs (c : CoreId) (e : WEntry) (p : Bool) (rows : Nat) :
    (s.predicting c e p rows).regs = s.regs := by
  unfold Dev.predicting
  split <;> rfl

theorem Dev.predicting_onlyRead (c : CoreId) (e : WEntry) (p : Bool) (rows : Nat) :
    s.OnlyRead (s.predicting c e p rows) := by
  unfold Dev.predicting
  split <;> exact .of_eq rfl rfl

theorem Dev.predicting_freeSlots (c : CoreId) (e : WEntry) (p : Bool) (rows : Nat) :
    (s.predicting c e p rows).freeSlots c = s.freeSlots c := by
  obtain ⟨l, hcore⟩ := s.predicting_core c e p rows
  simp only [Dev.freeSlots, Dev.reg, s.predicting_regs, hcore, Core.usedSlots]

@[simp] theorem Dev.crossAhead_cores (a : Agent) (c : CoreId) (pa request : Nat) :
    (s.crossAhead a c pa request).cores = s.cores := by
  unfold Dev.crossAhead
  dsimp only
  split <;> simp

theorem Dev.crossAhead_onlyRead (a : Agent) (c : CoreId) (pa request : Nat) : s.OnlyRead (s.crossAhead a c pa request) := by
  unfold Dev.crossAhead
  dsimp only
  split
  · exact (s.crossTo_onlyRead a pa).trans (.of_eq rfl rfl)
  · exact s.crossTo_onlyRead a pa

@[simp] theorem Dev.aheadSector_cores (a : Agent) (c : CoreId) (e : WEntry) (j q slot : Nat) :
    (s.aheadSector a c e j q slot).2.cores = s.cores := by
  unfold Dev.aheadSector
  dsimp only
  split <;> simp

theorem Dev.aheadSector_onlyRead (a : Agent) (c : CoreId) (e : WEntry) (j q slot : Nat) :
    s.OnlyRead (s.aheadSector a c e j q slot).2 := by
  have hxlate := s.xlate_onlyRead a ((cpyOf e.desc).rowVa j + 32 * q) false
  unfold Dev.aheadSector
  dsimp only
  split
  · exact hxlate
  · exact hxlate
  · exact hxlate.trans (Dev.crossAhead_onlyRead ..)
  · exact hxlate

@[simp] theorem Dev.aheadLines_cores (a : Agent) (c : CoreId) (e : WEntry) (j line : Nat) (slots : List Nat) :
    (s.aheadLines a c e j line slots).2.cores = s.cores := by
  induction slots generalizing s line with
  | nil => rfl
  | cons slot rest ih => simp [Dev.aheadLines, ih]

theorem Dev.aheadLines_onlyRead (a : Agent) (c : CoreId) (e : WEntry) (j line : Nat) (slots : List Nat) :
    s.OnlyRead (s.aheadLines a c e j line slots).2 := by
  induction slots generalizing s line with
  | nil => exact .refl s
  | cons slot rest ih =>
    exact (s.aheadSector_onlyRead ..).trans ((Dev.aheadSector_onlyRead ..).trans (ih ..))

/-- The sectors of an entry are asked for: the entry has come so far, and the bytes count but for a silent replay. -/
def Dev.enterAhead (s : Dev) (c : CoreId) (h : HoldId) (e : WEntry) (rows lines : Nat) (es : List PfSector)
    (ids : Nat) : Dev :=
  let d := (s.modEntry c e fun w => { w with pfRows := rows, pfLines := lines }).modCore c fun y =>
    { y with pf := y.pf ++ es, pfNext := y.pfNext + ids }
  if e.replay then d else d.count (some h) (ctrReg c 0x10) (32 * (es.filter (·.asked)).length)

theorem Dev.enterAhead_core (c : CoreId) (h : HoldId) (e : WEntry) (rows lines : Nat) (es : List PfSector) (ids : Nat) :
    (s.enterAhead c h e rows lines es ids).core c = (s.core c).asksAhead e rows lines es ids := by
  have hentered : ((s.modEntry c e fun w => { w with pfRows := rows, pfLines := lines }).modCore c fun y =>
      { y with pf := y.pf ++ es, pfNext := y.pfNext + ids }).core c = (s.core c).asksAhead e rows lines es ids := by
    rw [Dev.core_modCore, if_pos rfl, Dev.modEntry_core]
    rfl
  unfold Dev.enterAhead
  dsimp only
  split
  · exact hentered
  · exact (Dev.core_congr (Dev.count_cores ..) c).trans hentered

theorem Dev.enterAhead_onlyRead (c : CoreId) (h : HoldId) (e : WEntry) (rows lines : Nat) (es : List PfSector) (ids : Nat) :
    s.OnlyRead (s.enterAhead c h e rows lines es ids) := by
  unfold Dev.enterAhead
  dsimp only
  split <;> exact .of_eq rfl rfl

end Ahead

section LoadRow
variable {s : Dev} {c : CoreId} {e : WEntry} {h : HoldId} {shift : Nat} {a : Agent} {slots : List Nat}
  (hload : (cpyOf e.desc).opcode = 0) (ha : (cpyOf e.desc).dataAgent ((s.core c).agent c h e) = a)
  (hslots : (s.freeSlots c).take ((cpyOf e.desc).rowLines - e.pfLines) = slots)
  (hplain : ∀ z ∈ chunks ((cpyOf e.desc).rowVa (shift + e.pfRows) + 64 * e.pfLines) (64 * slots.length),
    s.xlateWaits a z.1 = false)
include hload ha hslots hplain

/-- The Coulter asks for the lines of a LOAD's row for which entries are free: the entry has come to its next row, or to
the line after the last one asked for. -/
theorem Dev.fetchAhead_of_load :
    let last := (cpyOf e.desc).rowLines ≤ e.pfLines + slots.length
    let es := s.aheadLines a c e (shift + e.pfRows) e.pfLines slots
    s.fetchAhead c h e shift
      = es.2.enterAhead c h e (if last then e.pfRows + 1 else e.pfRows) (if last then 0 else e.pfLines + slots.length) es.1
          (2 * (e.pfLines + slots.length)) := by
  have hrow : (cpyOf e.desc).aheadRow c a s shift e.pfRows = (.row (shift + e.pfRows), s) := by
    simp only [Cpy.aheadRow, hload, if_true]
  have hgoes : ¬ (chunks ((cpyOf e.desc).rowVa (shift + e.pfRows) + 64 * e.pfLines) (64 * slots.length)).any
      (fun p => s.xlateWaits a p.1) = true := by simpa using fun x y hz => hplain (x, y) hz
  intro last es
  unfold Dev.fetchAhead
  dsimp only
  rw [ha, hrow]
  dsimp only
  rw [hslots, if_neg hgoes]
  by_cases hlast : last
  · rw [if_pos hlast, if_pos hlast, if_pos hlast]
    rfl
  · rw [if_neg hlast, if_neg hlast, if_neg hlast]
    rfl

/-- The core as a LOAD's row has been asked for; memory was at most read, by the translation. -/
theorem Dev.fetchAhead_load_core :
    let last := (cpyOf e.desc).rowLines ≤ e.pfLines + slots.length
    (s.fetchAhead c h e shift).core c
        = (s.core c).asksAhead e (if last then e.pfRows + 1 else e.pfRows) (if last then 0 else e.pfLines + slots.length)
            (s.aheadLines a c e (shift + e.pfRows) e.pfLines slots).1 (2 * (e.pfLines + slots.length))
      ∧ s.OnlyRead (s.fetchAhead c h e shift) := by
  intro last
  rw [Dev.fetchAhead_of_load hload ha hslots hplain]
  exact ⟨by rw [Dev.enterAhead_core, Dev.core_congr (Dev.aheadLines_cores ..)],
    (s.aheadLines_onlyRead ..).trans (Dev.enterAhead_onlyRead ..)⟩

end LoadRow

/-- COULTER_PREFETCH asks for sectors of a served entry that is not held behind a fence, while the prefetch area and the
bytes outstanding have room and rows are left to ask for (R165, R166, R168, R172). -/
theorem Dev.prefetch_of_row {s : Dev} {c : CoreId} {slot : Nat} {e : WEntry} {h : HoldId} {shift : Nat}
    (hentry : (s.core c).window[slot]? = some e) (hhold : s.holdingOfCore c = some h) (hruns : s.coreRuns c = true)
    (hserved : ((s.core c).served.any fun w => sameEntry w e) = true)
    (hopen : (cpyOf e.desc).stable = true ∨ (s.core c).fencedOff e = false)
    (hshift : (s.core c).foreseenShift (s.holding h) c e (cpyOf e.desc) = some shift)
    (hroom : (s.core c).outstanding < 0x1000000) (hepoch : (s.core c).epochHeld = false)
    (harea : s.reg (ctrReg c 8) ≠ 0) (hfree : s.freeSlots c ≠ []) :
    let k := cpyOf e.desc
    let ahead := (s.core c).foreseen (s.holding h) e k.lreg
    let rows := validCount k.rows (k.off + shift) ahead.1
    e.pfRows < rows → s.prefetch c slot = (s.predicting c e ahead.2 rows).fetchAhead c h e shift := by
  intro k ahead rows hrow
  have hgoes : (!k.stable && (s.core c).fencedOff e) = false := by
    rcases hopen with hstable | hnone
    · simp [k, hstable]
    · simp [hnone]
  unfold Dev.prefetch
  simp only [hentry, hhold, hruns, hserved, hgoes, harea, hshift, hepoch, hfree, Nat.not_le.2 hroom, Nat.not_le.2 hrow,
    k, ahead, rows, Bool.not_true, Bool.or_false, Bool.false_eq_true, if_false, decide_false]
  rfl

/-- COULTER_PREFETCH of a LOAD's row adds the sectors of its lines to those in flight, moves the entry on, and leaves the
operand store as it was. -/
theorem Dev.prefetch_of_load {s : Dev} {c : CoreId} {slot : Nat} {e : WEntry} {h : HoldId} {shift : Nat} {p : Bool} {n : Nat}
    (hentry : (s.core c).window[slot]? = some e) (hload : (cpyOf e.desc).opcode = 0)
    (hasks : s.prefetch c slot = (s.predicting c e p n).fetchAhead c h e shift) :
    let d := s.predicting c e p n
    let k := cpyOf e.desc
    let a := k.dataAgent ((s.core c).agent c h e)
    let slots := (s.freeSlots c).take (k.rowLines - e.pfLines)
    let upTo := e.pfLines + slots.length
    (∀ z ∈ chunks (k.rowVa (shift + e.pfRows) + 64 * e.pfLines) (64 * slots.length), d.xlateWaits a z.1 = false) →
      ((s.prefetch c slot).core c).pf = (s.core c).pf ++ (d.aheadLines a c e (shift + e.pfRows) e.pfLines slots).1
        ∧ (∃ w ∈ ((s.prefetch c slot).core c).window, sameEntry w e = true
            ∧ (k.rowLines ≤ upTo → w.pfRows = e.pfRows + 1 ∧ w.pfLines = 0)
            ∧ (upTo < k.rowLines → w.pfRows = e.pfRows ∧ w.pfLines = upTo))
        ∧ ((s.prefetch c slot).core c).os = (s.core c).os ∧ s.OnlyRead (s.prefetch c slot) := by
  intro d k a slots upTo hplain
  obtain ⟨l, hcore⟩ : ∃ l, d.core c = { s.core c with window := l } := s.predicting_core c e p n
  have hname : (e.stream, e.index) ∈ (d.core c).names := by
    have hnames : (d.core c).names = (s.core c).names := congrFun (s.predicting_names c e p n) c
    rw [hnames]
    exact List.mem_map.2 ⟨e, List.mem_of_getElem? hentry, rfl⟩
  obtain ⟨hasked, hread⟩ := Dev.fetchAhead_load_core (s := d) (a := a) (slots := slots) hload rfl
    (congrArg (List.take _) (s.predicting_freeSlots ..)) hplain
  rw [hasks, hasked]
  refine ⟨by rw [hcore]; rfl, ?_, by rw [hcore]; rfl, (s.predicting_onlyRead ..).trans hread⟩
  obtain ⟨w, hw, hsame, hrows, hlines⟩ := Core.asksAhead_entry hname _ _ _ _
  refine ⟨w, hw, hsame, fun hlast => ?_, fun hmore => ?_⟩
  · exact ⟨hrows.trans (if_pos hlast), hlines.trans (if_pos hlast)⟩
  · exact ⟨hrows.trans (if_neg (Nat.not_le.2 hmore)), hlines.trans (if_neg (Nat.not_le.2 hmore))⟩

/-! ### What comes back (R172 to R175, R181) -/

section Return
variable (s : Dev)

@[simp] theorem Core.returned_pf (x : Core) (f : List PfSector → List PfSector) : (x.returned f).pf = f x.pf := rfl
@[simp] theorem Core.returned_os (x : Core) (f : List PfSector → List PfSector) : (x.returned f).os = x.os := rfl

@[simp] theorem Dev.comesBack_cores (c : CoreId) (p : PfSector) : (s.comesBack c p).cores = s.cores :=
  (Dev.lcSlots_cores ..).trans rfl

theorem Dev.comesBack_onlyRead (c : CoreId) (p : PfSector) : s.OnlyRead (s.comesBack c p) :=
  have hback : s.OnlyRead (s.crossBack c p.id) := .of_eq rfl rfl
  hback.trans (Dev.lcSlots_onlyRead ..)

@[simp] theorem Dev.landSector_cores (h : HoldId) (p : PfSector) : (s.landSector h p).2.cores = s.cores := by
  unfold Dev.landSector
  dsimp only
  split_ifs <;> simp

theorem Dev.landSector_onlyRead (h : HoldId) (p : PfSector) : s.OnlyRead (s.landSector h p).2 := by
  have hread := s.readSector1_onlyRead (p.pa / 32) (.holding h)
  unfold Dev.landSector
  dsimp only
  split_ifs
  · exact .refl s
  · exact hread
  · exact hread

/-- A sector that has landed is the sector that was asked for, at the same address. -/
theorem Dev.landSector_va (h : HoldId) (p : PfSector) : (s.landSector h p).1.va = p.va := by
  unfold Dev.landSector
  dsimp only
  split_ifs <;> rfl

/-- The descriptors of a core that leads no multicast forward nothing (R181). -/
theorem Dev.forwardSector_of_noGroup {s : Dev} {c : CoreId} (h : HoldId) (p : PfSector) (bytes : List PByte)
    (hnone : ∀ w ∈ (s.core c).window, (cpyOf w.desc).group = 0) : s.forwardSector h c p bytes = s := by
  unfold Dev.forwardSector
  dsimp only
  split
  · rfl
  · next e hfind => simp [hnone e (List.mem_of_find?_eq_some hfind)]

/-- A block is not checked while one of its sectors has not landed (R230). -/
theorem Dev.aheadVerdict_of_missing {s : Dev} {c : CoreId} (h : HoldId) (p : PfSector) {i : Nat} (hi : i < 128)
    (hmissing : ∀ q ∈ (s.core c).pf, q.va % 4096 / 32 = i → q.landed = none) : s.aheadVerdict c h p = s := by
  have hpart : ((List.range 128).all fun i => ((s.core c).pf.filter p.sameBlock).any fun q =>
      q.va % 4096 / 32 == i && q.landed.isSome) = false := by
    refine List.all_eq_false.2 ⟨i, List.mem_range.2 hi, ?_⟩
    simp only [List.any_eq_true, Bool.and_eq_true, beq_iff_eq, not_exists, not_and]
    intro q hq hplace
    simp [hmissing q (List.mem_filter.1 hq).1 hplace]
  unfold Dev.aheadVerdict
  simp only [hpart, Bool.not_false, Bool.or_true, if_true]

/-- The sector of a request whose entry was freed is dropped as it comes back (R172). -/
theorem Dev.prefetchReturn_of_freed {s : Dev} {c : CoreId} {id : Nat} {p : PfSector} {h : HoldId}
    (hp : ((s.core c).pf.find? fun q => q.id == id && q.inFlight) = some p) (hhold : s.holdingOfCore c = some h)
    (hserved : s.readHeld p.pa 32 = false) (hfreed : p.freed = true) :
    s.prefetchReturn c id
      = ((s.comesBack c p).landSector h p).2.modCore c fun y => y.returned fun l => l.filter fun q => q.id != id := by
  unfold Dev.prefetchReturn
  simp only [hp, hhold, hserved, hfreed, Bool.false_eq_true, if_false, if_true]

/-- The device as the sector of a request has come back into its entry's record. -/
def Dev.backIn (s : Dev) (c : CoreId) (id : Nat) (h : HoldId) (p : PfSector) : Dev :=
  ((s.comesBack c p).landSector h p).2.modCore c fun y => y.returned fun l => l.map fun q =>
    if q.id = id then ((s.comesBack c p).landSector h p).1 else q

/-- A request that comes back drops from those in flight where its entry was freed, and no entry is filled (R172). -/
theorem Dev.prefetchReturn_freed_core {s : Dev} {c : CoreId} {id : Nat} {p : PfSector} {h : HoldId}
    (hp : ((s.core c).pf.find? fun q => q.id == id && q.inFlight) = some p) (hhold : s.holdingOfCore c = some h)
    (hserved : s.readHeld p.pa 32 = false) (hfreed : p.freed = true) :
    ((s.prefetchReturn c id).core c).pf = (s.core c).pf.filter (fun q => q.id != id)
      ∧ ((s.prefetchReturn c id).core c).os = (s.core c).os ∧ s.OnlyRead (s.prefetchReturn c id) := by
  have hcore : ((s.comesBack c p).landSector h p).2.core c = s.core c := Dev.core_congr (by simp) c
  have hread := (s.comesBack_onlyRead c p).trans (Dev.landSector_onlyRead _ h p)
  rw [Dev.prefetchReturn_of_freed hp hhold hserved hfreed, Dev.core_modCore, if_pos rfl, hcore]
  exact ⟨rfl, rfl, hread.trans (.of_eq rfl rfl)⟩

theorem Dev.backIn_core (c : CoreId) (id : Nat) (h : HoldId) (p : PfSector) :
    (s.backIn c id h p).core c = (s.core c).returned fun l => l.map fun q =>
      if q.id = id then ((s.comesBack c p).landSector h p).1 else q := by
  rw [Dev.backIn, Dev.core_modCore, if_pos rfl, Dev.core_congr (s := s) (by simp)]

/-- A sector that was missing from its block before another one came back is missing still. -/
theorem Dev.backIn_missing {s : Dev} {c : CoreId} {id : Nat} {p : PfSector} {h : HoldId} {i : Nat}
    (hp : ((s.core c).pf.find? fun q => q.id == id && q.inFlight) = some p)
    (hmissing : ∀ q ∈ (s.core c).pf, q.va % 4096 / 32 = i → q.id ≠ id ∧ q.landed = none) :
    ∀ q ∈ ((s.backIn c id h p).core c).pf, q.va % 4096 / 32 = i → q.landed = none := by
  rw [Dev.backIn_core, Core.returned_pf]
  intro q hq hplace
  obtain ⟨z, hz, rfl⟩ := List.mem_map.1 hq
  have hid : p.id = id := by
    have hfound := List.find?_some hp
    simp only [Bool.and_eq_true, beq_iff_eq] at hfound
    exact hfound.1
  by_cases hzid : z.id = id
  · rw [if_pos hzid, Dev.landSector_va] at hplace
    exact absurd hid (hmissing p (List.mem_of_find?_eq_some hp) hplace).1
  · rw [if_neg hzid] at hplace ⊢
    exact (hmissing z hz hplace).2

section Kept
variable {s : Dev} {c : CoreId} {id : Nat} {p : PfSector} {h : HoldId}
  (hp : ((s.core c).pf.find? fun q => q.id == id && q.inFlight) = some p) (hhold : s.holdingOfCore c = some h)
  (hserved : s.readHeld p.pa 32 = false) (hkept : p.freed = false)
include hp hhold hserved hkept

/-- A sector that carries a fault or poison lands nowhere (R174, R175). -/
theorem Dev.prefetchReturn_of_deferred (hlanded : ((s.comesBack c p).landSector h p).1.landed = none) :
    s.prefetchReturn c id = s.backIn c id h p := by
  unfold Dev.prefetchReturn
  simp only [hp, hhold, hserved, hkept, hlanded, Bool.false_eq_true, if_false]
  rfl

/-- What lands fills its sector of the entry; without a multicast group no member receives it, and a block of which a
sector is missing is not checked yet (R166, R181, R230). -/
theorem Dev.prefetchReturn_of_landed {bytes : List PByte}
    (hlanded : ((s.comesBack c p).landSector h p).1.landed = some bytes)
    (hnone : ∀ w ∈ (s.core c).window, (cpyOf w.desc).group = 0) {i : Nat} (hi : i < 128)
    (hmissing : ∀ q ∈ (s.core c).pf, q.va % 4096 / 32 = i → q.id ≠ id ∧ q.landed = none) :
    s.prefetchReturn c id = (s.backIn c id h p).modCore c fun y => y.fillEntry p.slot p.osByte bytes := by
  have hreturn : s.prefetchReturn c id =
      (((s.backIn c id h p).modCore c fun y => y.fillEntry p.slot p.osByte bytes).forwardSector h c
        ((s.comesBack c p).landSector h p).1 bytes).aheadVerdict c h ((s.comesBack c p).landSector h p).1 := by
    unfold Dev.prefetchReturn
    simp only [hp, hhold, hserved, hkept, hlanded, Bool.false_eq_true, if_false]
    rfl
  have hfilled : ((s.backIn c id h p).modCore c fun y => y.fillEntry p.slot p.osByte bytes).core c
      = ((s.backIn c id h p).core c).fillEntry p.slot p.osByte bytes := by rw [Dev.core_modCore, if_pos rfl]
  rw [hreturn, Dev.forwardSector_of_noGroup _ _ _ (by rw [hfilled, Dev.backIn_core]; exact hnone),
    Dev.aheadVerdict_of_missing _ _ hi]
  rw [hfilled]
  exact Dev.backIn_missing hp hmissing

/-- The entry's record is what came back; the operand store changes where a sector lands, and only there. -/
theorem Dev.prefetchReturn_kept_core (hnone : ∀ w ∈ (s.core c).window, (cpyOf w.desc).group = 0)
    (hmissing : ∃ i < 128, ∀ q ∈ (s.core c).pf, q.va % 4096 / 32 = i → q.id ≠ id ∧ q.landed = none) :
    let back := ((s.comesBack c p).landSector h p).1
    ((s.prefetchReturn c id).core c).pf = (s.core c).pf.map (fun q => if q.id = id then back else q)
      ∧ (back.landed = none → ((s.prefetchReturn c id).core c).os = (s.core c).os)
      ∧ ∀ bytes, back.landed = some bytes →
          ((s.prefetchReturn c id).core c).os = ((s.core c).fillEntry p.slot p.osByte bytes).os := by
  obtain ⟨i, hi, hmissing⟩ := hmissing
  intro back
  cases hlanded : back.landed with
  | none =>
    rw [Dev.prefetchReturn_of_deferred hp hhold hserved hkept hlanded, Dev.backIn_core]
    simp [back]
  | some bytes =>
    rw [Dev.prefetchReturn_of_landed hp hhold hserved hkept hlanded hnone hi hmissing, Dev.core_modCore, if_pos rfl,
      Dev.backIn_core]
    simp [back, Core.fillEntry, Core.osWrite]

end Kept

end Return

/-! ### Deliveries (R181 to R184) -/

section Deliveries
variable (s : Dev)

/-- A core as a piece of a transfer has come to it: one more is delivered, and its lines stand in these entries. -/
def Core.delivers (x : Core) (t : Transfer) (es : List (Nat × Nat × BitVec 8)) : Core :=
  { x with inbox := x.inbox.map fun q =>
      if q.ring == t.ring && q.group == t.group && q.number == t.number
      then { q with delivered := q.delivered + 1, entries := es } else q }

@[simp] theorem Dev.cross_cores (requester here goal : Nat) : (s.cross requester here goal).cores = s.cores := by
  obtain ⟨x, y, hframe⟩ := s.cross_frame requester here goal
  rw [hframe]

theorem Dev.cross_beyond (requester here goal : Nat) :
    (s.cross requester here goal).mem = s.mem ∧ (s.cross requester here goal).regs = s.regs
      ∧ (s.cross requester here goal).ctrs = s.ctrs := by
  obtain ⟨x, y, hframe⟩ := s.cross_frame requester here goal
  rw [hframe]
  exact ⟨rfl, rfl, rfl⟩

/-- A transfer that has left is no longer retained at its sender, which is all that changes. -/
theorem Dev.releaseRetained_core (t : Transfer) (c : CoreId) :
    ∃ l, (s.releaseRetained t).core c = { s.core c with retained := l } := by
  unfold Dev.releaseRetained
  split
  · rw [Dev.core_modCore]
    split
    · next hc => exact ⟨_, by rw [hc]⟩
    · exact ⟨_, rfl⟩
  · exact ⟨_, rfl⟩

theorem Dev.releaseRetained_frame (t : Transfer) : ∃ x, s.releaseRetained t = { s with cores := x } := by
  unfold Dev.releaseRetained
  split <;> exact ⟨_, rfl⟩

/-- The next piece of a transfer: its place at the sender and its bytes. -/
def Transfer.piece (t : Transfer) : Nat × List PByte := nthD t.lines t.delivered (0, [])

/-- A piece fills the entry of its line where one stands, goes straight to a receive that has started where none does, and
takes a free entry else. -/
theorem Dev.landPiece_eq (c : CoreId) (t : Transfer) :
    ∃ (put : Core → Core) (es : _),
      s.landPiece c t
          = (s.cross t.sender.val (t.sender.val / 8) (c.val / 8)).modCore c (fun y => (put y).delivers t es)
        ∧ (∀ y, (put y).inbox = y.inbox ∧ (put y).window = y.window)
        ∧ (∀ en, (t.entries.find? fun q => q.1 == t.nextLine) = some en →
            es = t.entries ∧ put = fun y => y.fillEntry en.2.1 (if t.ring then 0 else t.piece.1) t.piece.2)
        ∧ ((t.entries.find? fun q => q.1 == t.nextLine) = none → (s.core c).awaits t = true →
            es = t.entries ∧ put = id) := by
  unfold Dev.landPiece
  dsimp only
  cases hentry : t.entries.find? fun q => q.1 == t.nextLine with
  | some en =>
    have hany : (t.entries.any fun q => q.1 == t.nextLine) = true :=
      List.any_eq_true.2 (List.find?_isSome.1 (Option.isSome_of_eq_some hentry))
    refine ⟨fun y => y.fillEntry en.2.1 (if t.ring then 0 else t.piece.1) t.piece.2, t.entries, ?_,
      fun y => ⟨rfl, rfl⟩, fun _ h => ⟨rfl, by cases h; rfl⟩, fun h => nomatch h⟩
    simp only [hany, if_true]
    rfl
  | none =>
    have hany : (t.entries.any fun q => q.1 == t.nextLine) = false :=
      List.any_eq_false.2 (List.find?_eq_none.1 hentry)
    dsimp only
    cases hslot : if (s.core c).awaits t || (s.core c).epochHeld then none else (s.freeSlots c).head? with
    | none => exact ⟨id, t.entries, rfl, fun y => ⟨rfl, rfl⟩, by rintro _ ⟨⟩, fun _ _ => ⟨rfl, rfl⟩⟩
    | some l =>
      refine ⟨fun y => y.fillEntry l (if t.ring then 0 else t.piece.1) t.piece.2,
        t.entries ++ [(t.nextLine, l, (s.core c).epoch)], ?_, fun y => ⟨rfl, rfl⟩, by rintro _ ⟨⟩,
        fun _ hawaits => ?_⟩
      · simp only [hany, Bool.false_eq_true, if_false]
        rfl
      · simp [hawaits] at hslot

/-- A delivery brings the earliest transfer of its kind that can go on one piece further. -/
theorem Dev.deliver_of_deliverable {s : Dev} {c : CoreId} {ring : Bool} {x : Transfer} (hruns : s.coreRuns c = true)
    (hx : ((s.core c).inbox.find? fun t => t.ring == ring && s.deliverable c t) = some x) :
    s.deliver c ring
      = if x.delivered + 1 == x.lines.length then (s.landPiece c x).releaseRetained x else s.landPiece c x := by
  unfold Dev.deliver
  simp only [hx, hruns, Bool.not_true, Bool.false_eq_true, if_false]

/-- What a delivery makes of its core, and what it leaves beyond the cores. -/
theorem Dev.deliver_core {s : Dev} {c : CoreId} {ring : Bool} {x : Transfer} (hruns : s.coreRuns c = true)
    (hx : ((s.core c).inbox.find? fun t => t.ring == ring && s.deliverable c t) = some x) :
    ∃ es, ((s.deliver c ring).core c).inbox = ((s.core c).delivers x es).inbox
      ∧ (∀ en, (x.entries.find? fun q => q.1 == x.nextLine) = some en → es = x.entries
          ∧ ((s.deliver c ring).core c).os
            = ((s.core c).fillEntry en.2.1 (if x.ring then 0 else x.piece.1) x.piece.2).os)
      ∧ ((x.entries.find? fun q => q.1 == x.nextLine) = none → (s.core c).awaits x = true →
          es = x.entries ∧ ((s.deliver c ring).core c).os = (s.core c).os)
      ∧ ((s.deliver c ring).core c).window = (s.core c).window
      ∧ (s.deliver c ring).mem = s.mem ∧ (s.deliver c ring).regs = s.regs ∧ (s.deliver c ring).ctrs = s.ctrs := by
  obtain ⟨put, es, hland, hput, hentry, hawaits⟩ := s.landPiece_eq c x
  obtain ⟨hmem, hregs, hctrs⟩ := s.cross_beyond x.sender.val (x.sender.val / 8) (c.val / 8)
  have hcore : (s.landPiece c x).core c = (put (s.core c)).delivers x es := by
    rw [hland, Dev.core_modCore, if_pos rfl, Dev.core_congr (s.cross_cores ..)]
  obtain ⟨l, y, hdone, hframe⟩ : ∃ l y, (s.deliver c ring).core c = { (s.landPiece c x).core c with retained := l }
      ∧ s.deliver c ring = { s.landPiece c x with cores := y } := by
    rw [Dev.deliver_of_deliverable hruns hx]
    split
    · obtain ⟨l, hl⟩ := (s.landPiece c x).releaseRetained_core x c
      obtain ⟨y, hy⟩ := (s.landPiece c x).releaseRetained_frame x
      exact ⟨l, y, hl, hy⟩
    · exact ⟨_, _, rfl, rfl⟩
  obtain ⟨hinbox, hwindow⟩ := hput (s.core c)
  refine ⟨es, ?_, fun en hen => ?_, fun hno haw => ?_, ?_, ?_, ?_, ?_⟩
  · rw [hdone, hcore]
    simp only [Core.delivers, hinbox]
  · obtain ⟨hes, rfl⟩ := hentry en hen
    exact ⟨hes, by rw [hdone, hcore]; rfl⟩
  · obtain ⟨hes, rfl⟩ := hawaits hno haw
    exact ⟨hes, by rw [hdone, hcore]; rfl⟩
  · rw [hdone, hcore]
    exact hwindow
  · rw [hframe, hland]
    exact hmem
  · rw [hframe, hland]
    exact hregs
  · rw [hframe, hland]
    exact hctrs

end Deliveries

/-- The two deliveries run in the scope of memory, on a core that has its clock. -/
theorem exec_delivery {c : CoreId} {ring : Bool} {i : Instr}
    (hi : (ring, i) ∈ [(false, Instr.mcastDelivery c), (true, .ringTransferDelivery c)]) (s : State) :
    exec i s = work s (s.dev.memScope (s.dev.deliver c ring)) := by
  simp only [List.mem_cons, List.not_mem_nil, Prod.mk.injEq, or_false] at hi
  rcases hi with ⟨rfl, rfl⟩ | ⟨rfl, rfl⟩ <;> rfl

/-- Settles O17: asking ahead, a sector's return and a delivery each change the one core's entries and its operand store as
the statement says, and read memory at most, so that without a stored error no byte of it changes. -/
theorem rowsAreFetchedAheadAndDelivered : Obligations.RowsAreFetchedAheadAndDelivered := by
  unfold Obligations.RowsAreFetchedAheadAndDelivered
  refine ⟨⟨?_, ?_⟩, ?_⟩
  · intro s c slot e h shift hentry hhold hruns hserved hload hopen hshift hroom hepoch harea hfree k ahead rows d a slots
      upTo row hrow hplain
    have hasks := Dev.prefetch_of_row hentry hhold hruns hserved hopen hshift hroom hepoch harea hfree hrow
    obtain ⟨hpf, hwindow, hos, hread⟩ := Dev.prefetch_of_load hentry hload hasks hplain
    have hcore := Dev.core_congr (Dev.memScope_cores s.dev (s.dev.prefetch c slot.val)) c
    refine ⟨_, work_clocked s _ (Dev.clocked_of_coreRuns hruns), rfl, ?_⟩
    dsimp only
    rw [hcore]
    exact ⟨hpf, hwindow, hos, hread.mem, rfl⟩
  · intro s c id p h hp hhold hclocked hserved back
    have hcore := Dev.core_congr (Dev.memScope_cores s.dev (s.dev.prefetchReturn c id)) c
    refine ⟨fun hfreed => ⟨_, work_clocked s _ hclocked, rfl, ?_⟩,
      fun hkept hnone hmissing => ⟨_, work_clocked s _ hclocked, rfl, ?_⟩⟩
    · obtain ⟨hpf, hos, hread⟩ := Dev.prefetchReturn_freed_core hp hhold hserved hfreed
      dsimp only
      rw [hcore]
      exact ⟨hpf, hos, hread.mem⟩
    · dsimp only
      rw [hcore]
      exact Dev.prefetchReturn_kept_core hp hhold hserved hkept hnone hmissing
  · intro s c ring i x hi hruns hx piece
    have hcore := Dev.core_congr (Dev.memScope_cores s.dev (s.dev.deliver c ring)) c
    obtain ⟨es, hdelivered⟩ := Dev.deliver_core hruns hx
    refine ⟨_, es, (exec_delivery hi s).trans (work_clocked s _ (Dev.clocked_of_coreRuns hruns)), rfl, ?_⟩
    dsimp only
    rw [hcore]
    exact hdelivered

end Sys2Proof.Machine

/-! What accesses to memory leave alone (R228 to R253, R383, R395): the widest projection of a device that translation, the
controllers and the egress hold keep. Whatever reads none of their own state follows from it. -/

namespace Sys2Proof.Machine

/-! ### What accesses to memory leave alone -/

/-- What a holding sends to its buddy, however far its running generation has been read (R404). -/
def MirrorSend.unread (m : MirrorSend) : MirrorSend := { m with toRead := [], taken := [] }

/-- A holding without its totals (R243, R529), and however far its mirror generation has been read. -/
def Holding.kernel (x : Holding) : Holding := { x with totals := {}, mirrorSend := x.mirrorSend.map MirrorSend.unread }

/-- A device without what accesses to memory change, and the kernels of its holdings. -/
def Dev.standing (s : Dev) : Dev × (HoldId → Holding) :=
  ({ s with
      regs := [], ctrs := [], shadow := [], mem := [], secPoison := [], ecc := [], tags := [], memWaits := [], reissues := []
      xlat := [], egress := [], crossTx := [], crossRx := [], pend := [], outbox := [], hostTag := 0, hostReads := []
      holdings := [], free := 0 },
   fun h => (s.holding h).kernel)

theorem Dev.kernel_of_standing {s t : Dev} (h : t.standing = s.standing) (k : HoldId) :
    (t.holding k).kernel = (s.holding k).kernel := congrFun (congrArg Prod.snd h) k

theorem Dev.modHolding_standing (s : Dev) (h : HoldId) {f : Holding → Holding}
    (hf : (f (s.holding h)).kernel = (s.holding h).kernel) : (s.modHolding h f).standing = s.standing := by
  refine Prod.ext rfl (funext fun k => ?_)
  change ((s.modHolding h f).holding k).kernel = (s.holding k).kernel
  rw [Dev.holding_modHolding]
  split
  next hk => rw [hk, hf]
  next => rfl

/-- To read on in a running generation does not touch the kernel. -/
theorem Holding.kernel_readOn {x y : Holding} {m : MirrorSend} (hx : x.kernel = y.kernel) (hm : y.mirrorSend = some m)
    (blocks : List (Nat × Nat)) (taken : List (Nat × List PByte)) :
    ({ x with mirrorSend := some { m with toRead := blocks, taken := taken } } : Holding).kernel = x.kernel := by
  have hsend : x.mirrorSend.map MirrorSend.unread = some m.unread := by
    simpa [Holding.kernel, hm] using congrArg Holding.mirrorSend hx
  simp only [Holding.kernel, hsend]
  rfl

/-! ### Counters, events and faults (R43, R243, R250, R268) -/

section Counts
variable (s : Dev)

@[simp] theorem Dev.count_standing (h : Option HoldId) (a n : Nat) : (s.count h a n).standing = s.standing := by
  cases h with
  | none => rfl
  | some h => exact Dev.modHolding_standing { s with ctrs := _, shadow := _ } h rfl

@[simp] theorem Dev.countFree_standing (h : Option HoldId) (a : Nat) :
    (s.countFree h a).standing = s.standing := s.count_standing h a _

@[simp] theorem Dev.setReg_standing (a : Nat) (v : Word32) : (s.setReg a v).standing = s.standing := rfl
@[simp] theorem Dev.event_standing (a : Nat) (x : Word32) : (s.event a x).standing = s.standing := rfl
@[simp] theorem Dev.emit_standing (e : Emit) : (s.emit e).standing = s.standing := rfl
@[simp] theorem Dev.setTag_standing (b : Nat) (t : Tag) : (s.setTag b t).standing = s.standing := rfl

@[simp] theorem Dev.metPoison_standing (h : Option HoldId) (n : Nat) :
    (s.metPoison h n).standing = s.standing := by
  cases h with
  | none => rfl
  | some h => exact s.modHolding_standing h rfl

@[simp] theorem Dev.runFault_standing (c : CoreId) (h : Option HoldId) (i : Word32) (k : Status) :
    (s.runFault c h i k).standing = s.standing := by
  cases h with
  | none => rfl
  | some h => exact Dev.modHolding_standing ((s.setReg _ _).event _ _) h rfl

end Counts

/-! ### The controllers (R228 to R238) -/

section Controllers
variable (s : Dev)

@[simp] theorem Dev.countMem_standing (k : StackId) (o : Owner) (off n : Nat) :
    (s.countMem k o off n).standing = s.standing := s.count_standing ..

@[simp] theorem Dev.tagRead_standing (k : StackId) (o : Owner) : (s.tagRead k o).standing = s.standing :=
  s.countFree_standing ..

@[simp] theorem Dev.lcSlots_standing (k : StackId) (cls : MemClass) : (s.lcSlots k cls).standing = s.standing := by
  unfold Dev.lcSlots
  split
  · exact s.countFree_standing ..
  · rfl

@[simp] theorem Dev.offlineAccess_standing (k : StackId) (o : Owner) :
    (s.offlineAccess k o).standing = s.standing := by
  unfold Dev.offlineAccess
  split
  · rfl
  · exact s.countMem_standing ..

/-- What memory holds, and which sectors are poisoned, commits Gotre to nothing. -/
theorem Dev.stored_standing (m : List Host.Cell) (p : Tab Bool) :
    ({ s with mem := m, secPoison := p } : Dev).standing = s.standing := rfl

@[simp] theorem Dev.eccRead_standing (k : StackId) (o : Owner) (sec : Nat) (e : EccOutcome) :
    (s.eccRead k o sec e).standing = s.standing := by
  cases e with
  | clean => rfl
  | corrected => exact s.countMem_standing ..
  | miscorrected x => exact (Dev.countMem_standing ..).trans (s.stored_standing _ _)
  | uncorrectable =>
    dsimp only [Dev.eccRead]
    exact (Dev.stored_standing _ _ _).trans (s.countMem_standing k o 0x50 1)

@[simp] theorem Dev.meetEcc_standing (k : StackId) (o : Owner) (sec : Nat) :
    (s.meetEcc k o sec).standing = s.standing := by
  unfold Dev.meetEcc
  split
  · rfl
  · exact Dev.eccRead_standing ..

@[simp] theorem Dev.meetAll_standing (k : StackId) (o : Owner) (secs : List Nat) :
    (s.meetAll k o secs).standing = s.standing :=
  foldl_preserves Dev.standing (fun d x => d.meetEcc_standing k o x) s secs

@[simp] theorem Dev.readSector1_standing (sec : Nat) (o : Owner) :
    (s.readSector1 sec o).2.standing = s.standing := by
  unfold Dev.readSector1
  dsimp only
  split_ifs <;> simp

@[simp] theorem Dev.readSector_standing (sec : Nat) (o : Owner) : (s.readSector sec o).2.standing = s.standing := by
  unfold Dev.readSector
  dsimp only
  split <;> simp

@[simp] theorem Dev.readSectors_standing (o : Owner) (secs : List Nat) :
    (s.readSectors o secs).2.standing = s.standing := by
  induction secs generalizing s with
  | nil => rfl
  | cons x xs ih => exact (ih _).trans (s.readSector_standing x o)

@[simp] theorem Dev.readBlock_standing (b : Nat) (o : Owner) : (s.readBlock b o).2.2.standing = s.standing := by
  unfold Dev.readBlock Dev.verdict
  dsimp only
  split_ifs <;> simp

@[simp] theorem Dev.freshBlock_standing (b : Nat) (whole : Bool) :
    (s.freshBlock b whole).standing = s.standing := by
  cases whole <;> rfl

@[simp] theorem Dev.putBytes_standing (pa : Nat) (data : List (Option PByte)) (e : BitVec 16) :
    (s.putBytes pa data e).standing = s.standing := rfl

@[simp] theorem Dev.storeBlock_standing (pa : Nat) (data : List (Option PByte)) (o : Owner) (e : BitVec 16)
    (pending : Bool) : (s.storeBlock pa data o e pending).standing = s.standing := by
  unfold Dev.storeBlock
  dsimp only
  split_ifs <;> simp

@[simp] theorem Dev.writeBlock_standing (pa : Nat) (data : List (Option PByte)) (o : Owner) (e : BitVec 16)
    (pending : Bool) : (s.writeBlock pa data o e pending).standing = s.standing := by
  unfold Dev.writeBlock
  dsimp only
  split_ifs <;> simp

@[simp] theorem Dev.clearTag_standing (b : Nat) (secs : List Nat) (kind : Clearance) :
    (s.clearTag b secs kind).standing = s.standing := by
  cases kind <;> rfl

@[simp] theorem Dev.scrubTag_standing (b : Nat) (k : StackId) : (s.scrubTag b k).standing = s.standing := by
  unfold Dev.scrubTag
  dsimp only
  split_ifs <;> simp

@[simp] theorem Dev.scrubRead_standing (b : Nat) : (s.scrubRead b).standing = s.standing := by
  unfold Dev.scrubRead
  dsimp only
  split <;> simp

/-- A generation's reads before a write change how far it has come alone (R404). -/
@[simp] theorem Dev.mirrorFirst_standing (b : Nat) : (s.mirrorFirst b).standing = s.standing := by
  refine foldl_preserves Dev.standing (fun d h => ?_) s _
  dsimp only
  split
  · rfl
  next m hm =>
    split
    · rfl
    · have hread := d.readBlock_standing b (.holding h)
      rw [Dev.countFree_standing,
        Dev.modHolding_standing _ h (Holding.kernel_readOn (Dev.kernel_of_standing hread h) hm _ _), hread]

@[simp] theorem Dev.perform_standing (r : MemReq) : (s.perform r).standing = s.standing := by
  unfold Dev.perform
  cases r with
  | read sec whole o cls wait => dsimp only; split <;> simp
  | write pa o e cls data pending => simp
  | clear b secs o e kind => dsimp only; split <;> simp
  | scrub b => simp

@[simp] theorem Dev.noteFullPending_standing (r : MemReq) (why : WaitFor) :
    (s.noteFullPending r why).standing = s.standing := by
  unfold Dev.noteFullPending
  split
  · exact s.countMem_standing ..
  · rfl

@[simp] theorem Dev.addWait_standing (r : MemReq) (why : WaitFor) (fails : Bool) :
    (s.addWait r why fails).standing = s.standing := Dev.noteFullPending_standing ..

@[simp] theorem Dev.request_standing (r : MemReq) : (s.request r).standing = s.standing := by
  unfold Dev.request
  split <;> simp

@[simp] theorem Dev.releaseFrom_standing (kept ws : List MemWait) :
    (s.releaseFrom kept ws).standing = s.standing := by
  induction ws generalizing s kept with
  | nil => rfl
  | cons w ws ih =>
    unfold Dev.releaseFrom
    split
    · exact ih ..
    · split
      · split <;> simp [ih]
      · rw [ih]
        split <;> simp

@[simp] theorem Dev.releaseTimes_standing (n : Nat) : (s.releaseTimes n).standing = s.standing := by
  induction n generalizing s with
  | zero => rfl
  | succ n ih =>
    unfold Dev.releaseTimes
    dsimp only
    split <;> simp [ih]

@[simp] theorem Dev.releasePoisoned_standing (r : Dev) (b : Nat) :
    (s.releasePoisoned r b).standing = r.standing := by
  unfold Dev.releasePoisoned
  split
  · exact r.releaseTimes_standing _
  · rfl

end Controllers

/-! ### Translation (R246 to R251, R268) -/

section Translation
variable (s : Dev)

@[simp] theorem Dev.cacheLeaf_standing (n : CacheName) (h : HoldId) (level va : Nat) (e : Word64) :
    (s.cacheLeaf n h level va e).standing = s.standing := by
  obtain ⟨x, k, hframe⟩ := s.cacheLeaf_frame n h level va e
  rw [hframe]
  rfl

@[simp] theorem Dev.cacheCore_standing (a : Agent) (va level : Nat) (e : Word64) :
    (s.cacheCore a va level e).standing = s.standing := by
  obtain ⟨x, k, hframe⟩ := s.cacheCore_frame a va level e
  rw [hframe]
  rfl

@[simp] theorem Dev.readEntry_standing (cls : MemClass) (pa : Nat) :
    (s.readEntry cls pa).2.standing = s.standing := by
  simp [Dev.readEntry]

@[simp] theorem Dev.walkEntry_standing (h : HoldId) (walker : Option Nat) (cls : MemClass) (level table va : Nat) :
    (s.walkEntry h walker cls level table va).2.standing = s.standing := by
  unfold Dev.walkEntry
  split
  · rfl
  · dsimp only
    split
    · dsimp only
      split <;> simp
    · simp

@[simp] theorem Dev.walkFrom_standing (h : HoldId) (walker : Option Nat) (cls : MemClass) (va level table : Nat) :
    (s.walkFrom h walker cls va level table).2.standing = s.standing := by
  induction level generalizing s table with
  | zero => exact s.walkEntry_standing ..
  | succ level ih =>
    unfold Dev.walkFrom
    dsimp only
    split
    · simp
    · simp [ih]

@[simp] theorem Dev.walk_standing (h : HoldId) (walker : Option Nat) (cls : MemClass) (va : Nat) :
    (s.walk h walker cls va).2.standing = s.standing := by
  unfold Dev.walk
  split <;> simp

@[simp] theorem Dev.sharedHit_standing (a : Agent) : (s.sharedHit a).standing = s.standing := by
  unfold Dev.sharedHit
  split <;> simp

@[simp] theorem Dev.xlate_standing (a : Agent) (va : Nat) (write : Bool) :
    (s.xlate a va write).2.standing = s.standing := by
  unfold Dev.xlate
  split
  · rfl
  · split
    · rfl
    · split
      · simp
      · dsimp only
        split <;> simp

@[simp] theorem Dev.accessFault_standing (a : Agent) (va : Nat) (write : Bool) (kind : Nat) :
    (s.accessFault a va write kind).standing = s.standing := by
  have hrecord : (s.xltFault a va write kind).standing = s.standing := by
    unfold Dev.xltFault
    dsimp only
    split_ifs <;> simp
  unfold Dev.accessFault
  dsimp only
  split <;> simp [hrecord]

end Translation

/-! ### Reads and writes of holding memory (R237, R248, R253, R383, R411) -/

section Access
variable (s : Dev)

@[simp] theorem Dev.crossTo_standing (a : Agent) (pa : Nat) : (s.crossTo a pa).standing = s.standing := by
  obtain ⟨x, y, hframe⟩ := s.cross_frame a.requester a.die (stackDie (s.place pa).stack)
  rw [Dev.crossTo, hframe]
  rfl

@[simp] theorem Dev.dropReissue_standing (pa : Nat) : (s.dropReissue pa).standing = s.standing := rfl

@[simp] theorem Dev.freeBytes_standing (n : Nat) : (s.freeBytes n).2.standing = s.standing := by
  induction n generalizing s with
  | zero => rfl
  | succ n ih => exact ih _

@[simp] theorem Dev.unitRead_standing (a : Agent) (pa n : Nat) :
    (s.unitRead a pa n).2.standing = s.standing := by
  unfold Dev.unitRead
  dsimp only
  split_ifs <;> simp

@[simp] theorem Dev.endEgress_standing (i : EgressItem) : (s.endEgress i).standing = s.standing := by
  unfold Dev.endEgress
  split <;> simp

@[simp] theorem Dev.drainEgress_standing (l : List EgressItem) : (s.drainEgress l).standing = s.standing := by
  induction l generalizing s with
  | nil => rfl
  | cons i l ih =>
    unfold Dev.drainEgress
    split
    · rfl
    · exact (ih _).trans (s.endEgress_standing i)

@[simp] theorem Dev.egressWrite_standing (i : EgressItem) : (s.egressWrite i).standing = s.standing := by
  unfold Dev.egressWrite
  split
  · exact Dev.drainEgress_standing ..
  · dsimp only
    refine (Dev.drainEgress_standing ..).trans (Eq.trans ?_ (s.countFree_standing (some i.holding) (regAt ctl 0x17008)))
    refine foldl_preserves Dev.standing (fun d q => ?_) (s.countFree _ _) _
    split <;> simp [Dev.heldCycles]

@[simp] theorem Dev.unitWrite_standing (q : MemReq) : (s.unitWrite q).standing = s.standing := by
  unfold Dev.unitWrite
  dsimp only
  split_ifs <;> simp

/-- So do the pending writes that a core remembers until their clearance (R383). -/
theorem Dev.pend_standing (p : List PendWrite) : ({ s with pend := p } : Dev).standing = s.standing := rfl

@[simp] theorem Dev.writeChunk_standing (a : Agent) (pending : Bool) (va : Nat) (data : List PByte) :
    (s.writeChunk a pending va data).standing = s.standing := by
  unfold Dev.writeChunk
  dsimp only
  split
  · simp
  · simp
  next pa nospec _ =>
    have hwrite : ∀ q, (((s.xlate a va true).2.crossTo a pa).unitWrite q).standing = s.standing := by simp
    split
    · exact (Dev.pend_standing ..).trans (hwrite _)
    · exact hwrite _

@[simp] theorem Dev.writeVa_standing (a : Agent) (pending : Bool) (va : Nat) (data : List PByte) :
    (s.writeVa a pending va data).standing = s.standing := by
  unfold Dev.writeVa
  generalize chunks va data.length = l
  induction l generalizing s data with
  | nil => rfl
  | cons p l ih => exact (ih ..).trans (s.writeChunk_standing ..)

end Access

end Sys2Proof.Machine

/-! The fences of a stream (R194, R201, R209, R211, R212): what a fence that is ready does, and what its end changes. -/

namespace Sys2Proof.Machine

section Fences
variable {s : Dev} {c : CoreId} {st : Fin 2} {op : Nat} {e : WEntry} {front : Bool} {h : HoldId} {g : Stage}

/-! ### A fence that is ready (R194, R211) -/

/-- A fence that is ready runs. -/
theorem Dev.fence_of_fenceReady (ready : s.fenceReady c st op e front h g) (f : HoldId → Stage → WEntry → Bool → Dev) :
    s.fence c st op f = f h g e front := by
  obtain ⟨hat, hhold, hstage, hruns, hsuspends⟩ := ready
  simp [Dev.fence, hat, hhold, hstage, hruns, hsuspends]

theorem Dev.clocked_of_fenceReady (ready : s.fenceReady c st op e front h g) : s.clocked = true := by
  obtain ⟨-, -, -, hruns, -⟩ := ready
  exact Dev.clocked_of_coreRuns hruns

theorem Dev.memFence_of_fenceReady (ready : s.fenceReady c st 2 e front h g) :
    s.memFence c st = if e.replay || (front && !s.writesHeld h) then s.completeAt c e else s :=
  Dev.fence_of_fenceReady ready _

theorem Dev.eventWait_of_fenceReady (ready : s.fenceReady c st 4 e front h g) :
    s.eventWait c st =
      if e.replay || decide ((fenOf e.desc).value ≤ (Tab.get 0 (s.holding h).events (fenOf e.desc).event).toNat) then
        s.completeAt c e
      else s :=
  Dev.fence_of_fenceReady ready _

/-- A REST whose gradient tiles have gone home completes at the front, once no write is held. -/
theorem Dev.restFence_of_fenceReady (ready : s.fenceReady c st 1 e true h g) (hmark : e.mark ≠ 0) :
    s.restFence c st = if s.writesHeld h then s else s.completeAt c e := by
  unfold Dev.restFence
  rw [Dev.fence_of_fenceReady ready]
  simp [hmark]

/-! ### The end of a fence (R103) -/

theorem Dev.completeAt_core (s : Dev) (c k : CoreId) (e : WEntry) :
    (s.completeAt c e).core k = if k = c then (s.core c).completeEntry e else s.core k := Dev.core_modCore ..

/-- A fence that completes changes the window of its core alone. -/
theorem Dev.completeAt_coreScope (s : Dev) (c : CoreId) (e : WEntry) :
    ((s.coreScope (s.completeAt c e)).core c).window = ((s.core c).completeEntry e).window
      ∧ s.sameBeyondCore (s.coreScope (s.completeAt c e)) c :=
  ⟨congrArg Core.window ((s.completeAt_core c c e).trans (if_pos rfl)),
    Dev.sameBeyondCore_coreScope fun k hk => (s.completeAt_core c k e).trans (if_neg hk)⟩

end Fences

/-! ### The commands that only wait -/

section Commands
variable {s : State} {c : CoreId} {st : Fin 2} {op : Nat} {e : WEntry} {front : Bool} {h : HoldId} {g : Stage} {i : Instr}
  {d : Dev}

/-- A command that completes its fence answers the device in which the fence is complete. -/
theorem exec_fence_completes (hexec : exec i s = work s (s.dev.coreScope d)) (hd : d = s.dev.completeAt c e)
    (ready : s.dev.fenceReady c st op e front h g) :
    ∃ t, exec i s = .next t ∧ t.pending = s.pending ∧ (t.dev.core c).window = ((s.dev.core c).completeEntry e).window
      ∧ s.dev.sameBeyondCore t.dev c := by
  rw [work_clocked s _ (Dev.clocked_of_fenceReady ready), hd] at hexec
  exact ⟨_, hexec, rfl, s.dev.completeAt_coreScope c e⟩

/-- A command whose fence must wait changes nothing. -/
theorem exec_fence_waits (hexec : exec i s = work s (s.dev.coreScope d)) (hd : d = s.dev)
    (ready : s.dev.fenceReady c st op e front h g) : exec i s = .next s := by
  rw [hexec, work_clocked s _ (Dev.clocked_of_fenceReady ready), hd]
  rfl

end Commands

/-- Settles O14: each of these fences ends in the completion of its entry or leaves the device as it is. -/
theorem fencesCompleteOnTheirCondition : Obligations.FencesCompleteOnTheirCondition := by
  unfold Obligations.FencesCompleteOnTheirCondition
  intro s c st e front h g
  refine ⟨fun ready hcond => ?_, fun ready hreplay hwait => ?_, fun ready hreached => ?_, fun ready hreplay hshort => ?_,
    fun ready hfront hmark hheld => ?_⟩
  · refine exec_fence_completes rfl ((Dev.memFence_of_fenceReady ready).trans (if_pos ?_)) ready
    simpa using hcond
  · refine exec_fence_waits rfl ((Dev.memFence_of_fenceReady ready).trans (if_neg ?_)) ready
    obtain hback | hheld := hwait <;> simp [*]
  · refine exec_fence_completes rfl ((Dev.eventWait_of_fenceReady ready).trans (if_pos ?_)) ready
    rw [decide_eq_true hreached, Bool.or_true]
  · refine exec_fence_waits rfl ((Dev.eventWait_of_fenceReady ready).trans (if_neg ?_)) ready
    rw [hreplay, decide_eq_false (Nat.not_le.2 hshort)]
    decide
  · subst hfront
    have hends := Dev.restFence_of_fenceReady ready hmark
    rw [hheld] at hends
    refine exec_fence_completes (d := s.dev.restFence c st) ?_ hends ready
    exact congrArg (work s) (by rw [hends]; rfl)

end Sys2Proof.Machine

/-! EVENT_SIGNAL and STEP (R201, R212), and what recording an entry leaves of a holding. -/

namespace Sys2Proof.Machine

/-! ### What the close of a step leaves alone -/

/-- A holding without its stages, its records and what accesses change of it. -/
def Holding.body (x : Holding) : Holding :=
  { x.kernel with stages := [], rowGroups := [], records := [], recordSeq := 0 }

/-- The jobs of Gotre, and a holding but for its stages and its records. -/
def Dev.program (s : Dev) (h : HoldId) : List Job × Holding := (s.gotre.jobs, (s.holding h).body)

theorem Dev.program_of_standing {s t : Dev} (hst : t.standing = s.standing) (h : HoldId) : t.program h = s.program h := by
  have hgotre : t.gotre = s.gotre := congrArg (fun p => p.1.gotre) hst
  have hkernel := Dev.kernel_of_standing hst h
  simp only [Dev.program, Holding.body, hgotre, hkernel]

theorem Dev.program_congr {s t : Dev} (hjobs : t.gotre.jobs = s.gotre.jobs) (hholdings : t.holdings = s.holdings)
    (h : HoldId) : t.program h = s.program h := by
  simp only [Dev.program, hjobs, Dev.holding_congr hholdings]

theorem Dev.modHolding_program (s : Dev) (h : HoldId) {f : Holding → Holding}
    (hf : (f (s.holding h)).body = (s.holding h).body) : (s.modHolding h f).program h = s.program h := by
  simp only [Dev.program, Dev.holding_modHolding, if_true, hf]
  rfl

/-! ### Accesses -/

section
variable (s : Dev)

@[simp] theorem Dev.runEgress_standing : s.runEgress.standing = s.standing := s.drainEgress_standing _

@[simp] theorem Dev.settleEgress_standing (mine : EgressItem → Bool) (kind : Clearance) :
    (s.settleEgress mine kind).standing = s.standing := by
  unfold Dev.settleEgress
  extract_lets hit s1
  have h1 : s1.standing = s.standing :=
    foldl_preserves Dev.standing (f := fun d i => d.heldCycles i.holding) (fun d i => d.countFree_standing ..) s hit
  split
  · rfl
  · exact (Dev.runEgress_standing _).trans h1

@[simp] theorem Dev.journalWrite_standing : s.journalWrite.standing = s.standing := by
  refine foldl_preserves Dev.standing (fun d t => ?_) s _
  dsimp only
  split
  · rfl
  · simp only [Dev.countFree_standing]
    rfl

end

/-! ### Recording -/

theorem Holding.retireRecorded_of_noTally (x : Holding) {e : WEntry} (htally : isFence e [5, 6] = false) :
    x.retireRecorded e = x := by
  simp [Holding.retireRecorded, htally]

theorem Dev.recordFront_program (s : Dev) (c : CoreId) (h : HoldId) {e : WEntry} (htally : isFence e [5, 6] = false) :
    (s.recordFront c h e).program h = s.program h := by
  unfold Dev.recordFront
  extract_lets s0 s1
  have h1 : s1.program h = s.program h := Dev.program_of_standing (s.settleEgress_standing ..) h
  cases (s.holding h).stageOf c e.stream with
  | none => exact h1
  | some g =>
    have hstage : ∀ f, (s1.modHolding h fun x => (x.retireRecorded e).modStage g.dfn.stage f).program h = s.program h :=
      fun f => (s1.modHolding_program h (by rw [Holding.retireRecorded_of_noTally _ htally]; rfl)).trans h1
    dsimp only
    split
    · split
      · exact (Dev.program_of_standing (Dev.count_standing ..) h).trans (hstage _)
      · exact hstage _
    · exact (Dev.program_of_standing (Dev.journalWrite_standing _) h).trans (hstage _)

/-! ### EVENT_SIGNAL and STEP -/

section
variable {s : Dev} {c : CoreId} {st : Fin 2} {op : Nat} {e : WEntry} {front : Bool} {h : HoldId} {g : Stage}

theorem Core.fenceAt_entry {x : Core} (hat : x.fenceAt st op = some (e, front)) :
    e ∈ x.window ∧ e.stream = st ∧ isFence e [op] = true := by
  simp only [Core.fenceAt, Option.map_eq_some_iff, Prod.mk.injEq] at hat
  obtain ⟨w, hw, rfl, -⟩ := hat
  have hprops := List.find?_some hw
  simp only [Bool.and_eq_true, beq_iff_eq] at hprops
  obtain ⟨⟨hstream, -⟩, hfence⟩ := hprops
  exact ⟨List.mem_of_find?_eq_some hw, hstream, hfence⟩

/-- A fence of one operation takes and retires no tile, if the operation is neither. -/
theorem isFence_tally_of_op (hfence : isFence e [op] = true) (hop : op ∉ [5, 6]) : isFence e [5, 6] = false := by
  simp only [isFence, Bool.and_eq_true, List.contains_eq_mem, List.mem_singleton, decide_eq_true_eq] at hfence
  simp [isFence, hfence.2, hop]

/-- An event counter goes up by one. -/
def Holding.signal (x : Holding) (n : Nat) : Holding := { x with events := Tab.modify 0 x.events n (· + 1) }

theorem Holding.signal_same (x : Holding) (n : Nat) : Tab.get 0 (x.signal n).events n = Tab.get 0 x.events n + 1 :=
  Laws.Tab.get_modify_same 0 x.events n (· + 1)

theorem Holding.signal_ne (x : Holding) {n k : Nat} (hk : k ≠ n) : Tab.get 0 (x.signal n).events k = Tab.get 0 x.events k :=
  Laws.Tab.get_modify_ne 0 x.events (· + 1) hk

theorem Dev.eventSignal_of_fenceReady (ready : s.fenceReady c st 3 e true h g) (hreplay : e.replay = false)
    (hheld : s.writesHeld h = false) :
    s.eventSignal c st = (s.modHolding h fun x => x.signal (fenOf e.desc).event).recordFront c h e := by
  unfold Dev.eventSignal
  rw [Dev.fence_of_fenceReady ready]
  simp only [hreplay, hheld, Bool.not_true, Bool.or_self, Bool.false_eq_true, if_false]
  rfl

/-! ### The stage of a stream -/

theorem Holding.mem_of_stageOf {x : Holding} (hstage : x.stageOf c st = some g) : g ∈ x.stages :=
  List.mem_of_find?_eq_some hstage

theorem Holding.mem_modStage {x : Holding} (hg : g ∈ x.stages) (f : Stage → Stage) :
    f g ∈ (x.modStage g.dfn.stage f).stages := List.mem_map.2 ⟨g, hg, if_pos rfl⟩

/-- A stage as its stream reaches its STEP fence (R201). -/
def Stage.reachStep (g : Stage) (index : Word32) : Stage :=
  { g with atStep := true, slots := [], lastRest := index, restSlots := [] }

/-- A holding in which the tiles of some slots are retired. -/
def Holding.retireSlots (x : Holding) (slots : List TakeSlot) : Holding :=
  slots.foldl (fun y t => match t.tile with | some n => y.retireTile t.counter n t.issue | none => y) x

theorem Holding.retireSlots_stages (x : Holding) (slots : List TakeSlot) : (x.retireSlots slots).stages = x.stages := by
  refine foldl_preserves Holding.stages (fun y t => ?_) x slots
  split
  · rfl
  · rfl

/-- No gradient tile to write: the gradient home is up to date at once (R194). -/
theorem Dev.writeHome_of_clean (hclean : (s.core c).gradDirty = []) (h : HoldId) (e : WEntry) (d : StageDef) :
    ∃ x, s.writeHome c h e d = some { s with cores := x } := by
  simp only [Dev.writeHome, hclean, List.filter_nil, List.foldl_nil, Bool.false_eq_true, if_false, if_true]
  exact ⟨_, rfl⟩

/-- A stream with no gradient tile to write reaches its STEP fence. -/
theorem Dev.stepFence_of_clean (ready : s.fenceReady c st 0 e true h g) (hheld : s.writesHeld h = false)
    (hbefore : g.atStep = false) (hclean : (s.core c).gradDirty = []) :
    ∃ x, s.stepFence c st = ({ s with cores := x } : Dev).modHolding h fun y =>
      (y.retireSlots g.slots).modStage g.dfn.stage fun t => t.reachStep e.index := by
  unfold Dev.stepFence
  rw [Dev.fence_of_fenceReady ready]
  obtain ⟨x, hx⟩ := Dev.writeHome_of_clean hclean h e g.dfn
  have hkept : ∀ y, ({ s with cores := y } : Dev).writesHeld h = false := fun _ => hheld
  simp only [hheld, hbefore, hx, Option.map_some, Bool.not_true, Bool.or_self, Bool.false_eq_true, if_false]
  by_cases hmark : e.mark = 0
  · simp only [hmark, if_true]
    exact ⟨_, if_neg (ne_true_of_eq_false (hkept _))⟩
  · simp only [hmark, if_false]
    exact ⟨s.cores, if_neg (ne_true_of_eq_false (hkept _))⟩

end

/-- Settles O15: recording leaves the events as the signal made them, and a clean stream goes to its STEP fence at once. -/
theorem signalsAddOneAndStepEmptiesTheSlots : Obligations.SignalsAddOneAndStepEmptiesTheSlots := by
  unfold Obligations.SignalsAddOneAndStepEmptiesTheSlots
  refine ⟨fun s c st e h g ready hreplay hheld => ?_, fun s c st e h g ready hheld hbefore hclean => ?_⟩
  · have ⟨hat, _, hstage, _, _⟩ := ready
    obtain ⟨-, hstream, hfence⟩ := Core.fenceAt_entry hat
    let d := s.dev.modHolding h fun x => x.signal (fenOf e.desc).event
    have hd : d.holding h = (s.dev.holding h).signal (fenOf e.desc).event :=
      (Dev.holding_modHolding ..).trans (if_pos rfl)
    have hevents : ((d.recordFront c h e).holding h).events = ((s.dev.holding h).signal (fenOf e.desc).event).events := by
      rw [← hd]
      exact congrArg (fun p => p.2.events) (d.recordFront_program c h (isFence_tally_of_op hfence (by decide)))
    have hqueue := d.recordFront_queue (c := c) (h := h) (e := e) (g := g) (by rw [hstream, hd]; exact hstage)
    refine ⟨_, work_clocked s _ (Dev.clocked_of_fenceReady ready), rfl, ?_⟩
    rw [Dev.eventSignal_of_fenceReady ready hreplay hheld]
    refine ⟨?_, fun n hn => ?_, ?_, d.recordFront_mem c h e, d.recordFront_tags c h e⟩
    · exact (congrArg (Tab.get 0 · _) hevents).trans (Holding.signal_same ..)
    · exact (congrArg (Tab.get 0 · n) hevents).trans (Holding.signal_ne _ hn)
    · exact (congrArg Queue.recorded hqueue).trans (by rw [hreplay]; rfl)
  · have ⟨_, _, hstage, _, _⟩ := ready
    obtain ⟨x, hx⟩ := Dev.stepFence_of_clean ready hheld hbefore hclean
    have hstages : ((s.dev.stepFence c st).holding h).stages
        = ((s.dev.holding h).modStage g.dfn.stage fun t => t.reachStep e.index).stages := by
      rw [hx, Dev.holding_modHolding, if_pos rfl, Holding.modStage, Holding.retireSlots_stages]
      rfl
    refine ⟨_, work_clocked s _ (Dev.clocked_of_fenceReady ready), rfl, ?_⟩
    refine ⟨⟨g.reachStep e.index, ?_, rfl, rfl, rfl⟩, ?_, ?_, rfl⟩
    · exact hstages ▸ Holding.mem_modStage (Holding.mem_of_stageOf hstage) _
    · exact (congrArg List.length hstages).trans (List.length_map ..)
    · exact (Dev.memScope_mem ..).trans (by rw [hx]; rfl)
end Sys2Proof.Machine

/-! Takes, retirements, mappings and claims of tiles (R197 to R203, R207). -/

namespace Sys2Proof.Machine

/-! ### Counters and stages of a holding -/

theorem Holding.number_of_counter {x : Holding} {n : Nat} {k : Counter} (hk : x.counter n = some k) : k.number = n := by
  simpa using List.find?_some hk

/-- A change that leaves a counter its number is what the counter of that number becomes. -/
theorem Holding.counter_modCounter (x : Holding) (n : Nat) {f : Counter → Counter} (hf : ∀ k, k.number = n → (f k).number = n) :
    (x.modCounter n f).counter n = (x.counter n).map f := by
  have hnumber : ((fun k : Counter => k.number == n) ∘ fun k => if k.number = n then f k else k)
      = fun k : Counter => k.number == n := by
    funext k
    by_cases hk : k.number = n <;> simp [hk, hf]
  simp only [Holding.counter, Holding.modCounter, List.find?_map, hnumber]
  refine Option.map_congr fun k hk => if_pos ?_
  simpa using List.find?_some hk

theorem Holding.counter_putCounter {x : Holding} {n : Nat} {k q : Counter} (hk : x.counter n = some k) (hq : q.number = n) :
    (x.modCounter n fun _ => q).counter n = some q := by
  rw [x.counter_modCounter n fun _ _ => hq, hk]
  rfl

theorem Holding.counter_modStage (x : Holding) (m n : Nat) (f : Stage → Stage) :
    (x.modStage m f).counter n = x.counter n := rfl

/-- Counting leaves the counters of Tally as they are. -/
theorem Dev.counter_count (s : Dev) (o : Option HoldId) (a n : Nat) (h : HoldId) (number : Nat) :
    ((s.count o a n).holding h).counter number = (s.holding h).counter number :=
  (congrArg (·.counter number) (Dev.kernel_of_standing (s.count_standing o a n) h) :)

/-! ### Entries that a fence completes -/

section
variable {s : Dev} {c : CoreId} {st : Fin 2} {op : Nat} {e : WEntry} {front : Bool} {h : HoldId} {g : Stage}

/-- Completion answers an entry that its core's window lists. -/
theorem Dev.completed_of_names {t : Dev} (hname : (e.stream, e.index) ∈ t.names c) : (t.completeAt c e).completed c e := by
  obtain ⟨w, hw, hsame⟩ := Core.exists_sameEntry hname
  refine ⟨{ w with phase := .completed }, ?_, hsame, rfl⟩
  rw [Dev.completeAt_core, if_pos rfl]
  exact List.mem_map.2 ⟨w, hw, if_pos hsame⟩

theorem Dev.names_of_fenceReady (ready : s.fenceReady c st op e front h g) : (e.stream, e.index) ∈ s.names c := by
  obtain ⟨hat, -, -, -, -⟩ := ready
  exact List.mem_map.2 ⟨e, (Core.fenceAt_entry hat).1, rfl⟩

/-- An entry remembers the tile that its stream held before it, and is complete. -/
def Dev.remembers (s : Dev) (c : CoreId) (e : WEntry) (old : Option TakeSlot) : Dev :=
  (s.modEntry c e fun w => { w with tile := some (old.bind (·.tile)), mark := (old.map (·.issue)).getD 0 }).completeAt c e

theorem Dev.remembers_completed {t : Dev} (old : Option TakeSlot) (hcores : t.cores = s.cores)
    (ready : s.fenceReady c st op e front h g) : (t.remembers c e old).completed c e := by
  have hnames : (t.modEntry c e fun w =>
      { w with tile := some (old.bind (·.tile)), mark := (old.map (·.issue)).getD 0 }).names = s.names :=
    (t.modEntry_names c e (by intro; rfl)).trans (Dev.names_congr hcores)
  exact Dev.completed_of_names (hnames ▸ Dev.names_of_fenceReady ready)

theorem Dev.remembers_window (t : Dev) (c : CoreId) (e : WEntry) (old : Option TakeSlot) :
    ((t.remembers c e old).core c).window.length = (t.core c).window.length := by
  rw [Dev.remembers, Dev.completeAt_core, if_pos rfl, Dev.modEntry_core]
  simp [Core.completeEntry]

theorem Dev.remembers_core_ne (t : Dev) (e : WEntry) (old : Option TakeSlot) {k : CoreId} (hk : k ≠ c) :
    (t.remembers c e old).core k = t.core k := by
  rw [Dev.remembers, Dev.completeAt_core, if_neg hk, Dev.modEntry, Dev.core_modCore, if_neg hk]

/-! ### Takes (R197, R198) -/

theorem Counter.pick_of_noReissue {k : Counter} (hnone : k.reissue = []) :
    k.pick = if k.next < k.limit then (some (k.next, 0), { k with next := k.next + 1 }) else (none, k) := by
  simp [Counter.pick, hnone]

/-- The slot of a stream as a take has answered. -/
def takenSlot (n : Nat) (p : Option (Nat × Nat)) : TakeSlot :=
  { counter := n, tile := p.map (·.1), issue := (p.map (·.2)).getD 0 }

/-- A counter as one of its tiles has gone to a core. -/
def Counter.gives (k : Counter) (c : CoreId) : Option (Nat × Nat) → Counter
  | some t => { k with recs := k.recs ++ [{ tile := t.1, issue := t.2, core := c, retired := false }] }
  | none => k

theorem Counter.gives_next (k : Counter) (c : CoreId) (p : Option (Nat × Nat)) :
    (k.gives c p).next = k.next ∧ (k.gives c p).limit = k.limit ∧ (k.gives c p).number = k.number := by
  cases p <;> exact ⟨rfl, rfl, rfl⟩

/-- A holding as a take has been answered and logged. -/
def Holding.logTake (x : Holding) (n stage : Nat) (c : CoreId) (index : Word32) (p : Option (Nat × Nat) × Counter) : Holding :=
  (x.modCounter n fun _ => p.2.gives c p.1).modStage stage fun t =>
    { t with takeLog := t.takeLog ++ [(index, n, (takenSlot n p.1).tile, (takenSlot n p.1).issue)] }

/-- What a take counts at its die, and the crossing of its request. -/
def Dev.countTake (s : Dev) (c : CoreId) (h : HoldId) (die : Nat) (none : Bool) : Dev :=
  let s2 := (s.cross c.val (c.val / 8) die).count (some h) (tlyReg die 0x08) 1
  if none then s2.count (some h) (tlyReg die 0x10) 1 else s2

theorem Dev.countTake_standing (t : Dev) (c : CoreId) (h : HoldId) (die : Nat) (none : Bool) :
    (t.countTake c h die none).standing = t.standing := by
  have hcross : (t.cross c.val (c.val / 8) die).standing = t.standing := by
    obtain ⟨x, y, hframe⟩ := t.cross_frame c.val (c.val / 8) die
    rw [hframe]
    rfl
  unfold Dev.countTake
  cases none <;> simp [hcross]

theorem Dev.countTake_beyond (t : Dev) (c : CoreId) (h : HoldId) (die : Nat) (none : Bool) :
    (t.countTake c h die none).cores = t.cores ∧ (t.countTake c h die none).mem = t.mem := by
  obtain ⟨x, y, hframe⟩ := t.cross_frame c.val (c.val / 8) die
  unfold Dev.countTake
  rw [hframe]
  cases none <;> exact ⟨rfl, rfl⟩

theorem Dev.holding_countTake (t : Dev) (c : CoreId) (h : HoldId) (die : Nat) (none : Bool) :
    ((t.countTake c h die none).holding h).counters = (t.holding h).counters
      ∧ ((t.countTake c h die none).holding h).stages = (t.holding h).stages := by
  have hkernel := Dev.kernel_of_standing (t.countTake_standing c h die none) h
  exact ⟨(congrArg Holding.counters hkernel :), (congrArg Holding.stages hkernel :)⟩

/-- A device as a take has been answered: the counter gives, the die counts, and the stream holds the slot. -/
def Dev.answerTake (s : Dev) (c : CoreId) (h : HoldId) (n : Nat) (g : Stage) (index : Word32) (die : Nat)
    (p : Option (Nat × Nat) × Counter) : Dev :=
  ((s.modHolding h fun y => y.logTake n g.dfn.stage c index p).countTake c h die p.1.isNone).modHolding h fun y =>
    y.modStage g.dfn.stage fun t => { t with slots := (g.putSlot (takenSlot n p.1)).getD g.slots }

theorem Dev.answerTake_beyond (c : CoreId) (h : HoldId) (n : Nat) (g : Stage) (index : Word32) (die : Nat)
    (p : Option (Nat × Nat) × Counter) :
    (s.answerTake c h n g index die p).cores = s.cores ∧ (s.answerTake c h n g index die p).mem = s.mem :=
  Dev.countTake_beyond ..

theorem Dev.answerTake_counter {n : Nat} {k : Counter} (hk : (s.holding h).counter n = some k) (c : CoreId) (g : Stage)
    (index : Word32) (die : Nat) {p : Option (Nat × Nat) × Counter} (hp : p.2.number = n) :
    ((s.answerTake c h n g index die p).holding h).counter n = some (p.2.gives c p.1) := by
  have hgive : (p.2.gives c p.1).number = n := (p.2.gives_next c p.1).2.2.trans hp
  rw [Dev.answerTake, Dev.holding_modHolding, if_pos rfl, Holding.counter_modStage, Holding.counter,
    (Dev.holding_countTake ..).1, Dev.holding_modHolding, if_pos rfl]
  exact Holding.counter_putCounter hk hgive

theorem Dev.answerTake_stage (hg : g ∈ (s.holding h).stages) (c : CoreId) (n : Nat) (index : Word32) (die : Nat)
    (p : Option (Nat × Nat) × Counter) :
    ∃ u ∈ ((s.answerTake c h n g index die p).holding h).stages, u.dfn = g.dfn
      ∧ u.takeLog = g.takeLog ++ [(index, n, (takenSlot n p.1).tile, (takenSlot n p.1).issue)] := by
  let logged : Stage := { g with takeLog := g.takeLog ++ [(index, n, (takenSlot n p.1).tile, (takenSlot n p.1).issue)] }
  have hlogged : logged ∈ (((s.modHolding h fun y => y.logTake n g.dfn.stage c index p).countTake c h die
      p.1.isNone).holding h).stages := by
    rw [(Dev.holding_countTake ..).2, Dev.holding_modHolding, if_pos rfl]
    exact Holding.mem_modStage (x := (s.holding h).modCounter n _) hg _
  rw [Dev.answerTake, Dev.holding_modHolding, if_pos rfl]
  exact ⟨_, Holding.mem_modStage hlogged _, rfl, rfl⟩

/-- A take that is served goes to the slot of its stream. -/
theorem Dev.tallyTake_of_fresh {k : Counter} (ready : s.fenceReady c st 5 e front h g) (hreplay : e.replay = false)
    (hk : (s.holding h).counter (fenOf e.desc).counter = some k) (hcopy : k.copying = false)
    (hput : (g.putSlot { counter := (fenOf e.desc).counter, tile := none, issue := 0 }).isSome = true)
    (hopen : k.openTiles.length < 256) :
    s.tallyTake c st = (s.answerTake c h (fenOf e.desc).counter g e.index (s.tallyDie k) k.pick).remembers c e
      (g.slot (fenOf e.desc).counter) := by
  unfold Dev.tallyTake
  rw [Dev.fence_of_fenceReady ready]
  have hroom : ¬(k.reissue = [] ∧ k.next < k.limit ∧ 256 ≤ k.openTiles.length) := fun ⟨_, _, hfull⟩ => by omega
  have hslot : (g.putSlot { counter := (fenOf e.desc).counter, tile := none, issue := 0 }).isNone = false := by
    simpa using hput
  simp only [hk, hreplay, hcopy, hslot, hroom, Bool.false_eq_true, if_false]
  rfl

/-! ### Retirements and mappings (R201, R207) -/

theorem Dev.tallyRetire_of_fenceReady (ready : s.fenceReady c st 6 e front h g) :
    s.tallyRetire c st = (s.modHolding h fun y => y.modStage g.dfn.stage fun t =>
      { t with slots := t.slots.filter fun q => q.counter ≠ (fenOf e.desc).counter }).remembers c e
        (g.slot (fenOf e.desc).counter) :=
  Dev.fence_of_fenceReady ready _

theorem Dev.gradMap_of_fenceReady (ready : s.fenceReady c st 7 e front h g) :
    s.gradMap c st = (s.modCore c fun x => x.mapGrad (fenOf e.desc) g.dfn).completeAt c e :=
  Dev.fence_of_fenceReady ready _

theorem Core.mapGrad_window (x : Core) (f : Fen) (d : StageDef) : (x.mapGrad f d).window = x.window := by
  unfold Core.mapGrad
  split <;> rfl

/-! ### Claims (R203) -/

/-- The first request for a tile gets it. -/
theorem Counter.claim_of_free {k : Counter} {tile issue : Nat} (hask : k.refused.contains (tile, issue) = false)
    (hfree : k.claims.find? (·.tile == tile) = none) (c : CoreId) :
    k.claim tile issue c = ({ k with claims := k.claims ++ [{ tile := tile, issue := issue, core := c }] }, false) := by
  simp only [Counter.claim, hask, hfree, Bool.false_eq_true, if_false]

/-- Another issue's request for a tile whose holder stands is refused. -/
theorem Counter.claim_of_held {k : Counter} {tile issue : Nat} {q : Claim} (hask : k.refused.contains (tile, issue) = false)
    (hheld : k.claims.find? (·.tile == tile) = some q) (hissue : q.issue ≠ issue) (hlost : q.lost = false) (c : CoreId) :
    k.claim tile issue c = ({ k with refused := k.refused ++ [(tile, issue)] }, true) := by
  simp only [Counter.claim, hask, hheld, hissue, hlost, false_and, Bool.false_and, Bool.false_eq_true, if_false]

theorem Counter.claim_number (k : Counter) (tile issue : Nat) (c : CoreId) :
    (k.claim tile issue c).1.number = k.number := by
  unfold Counter.claim
  split
  · rfl
  · split
    · rfl
    · dsimp only
      split_ifs <;> rfl

/-- A device as a counter has answered a claim. -/
def Dev.putClaim (s : Dev) (c : CoreId) (h : HoldId) (n die : Nat) (q : Counter) : Dev :=
  (s.cross c.val (c.val / 8) die).modHolding h fun y => y.modCounter n fun _ => q

theorem Dev.putClaim_counter {n : Nat} {k q : Counter} (hk : (s.holding h).counter n = some k) (hq : q.number = n) (die : Nat) :
    ((s.putClaim c h n die q).holding h).counter n = some q := by
  obtain ⟨x, y, hframe⟩ := s.cross_frame c.val (c.val / 8) die
  rw [Dev.putClaim, Dev.holding_modHolding, if_pos rfl, hframe]
  exact Holding.counter_putCounter hk hq

theorem Dev.putClaim_beyond (c : CoreId) (h : HoldId) (n die : Nat) (q : Counter) :
    (s.putClaim c h n die q).ctrs = s.ctrs ∧ s.sameBeyondCore (s.memScope (s.putClaim c h n die q)) c := by
  obtain ⟨x, y, hframe⟩ := s.cross_frame c.val (c.val / 8) die
  rw [Dev.putClaim, hframe]
  exact ⟨rfl, rfl, rfl, rfl, rfl, rfl, rfl, rfl, rfl, rfl, rfl, rfl, rfl, rfl, rfl, fun _ _ => rfl⟩

/-- A claim that a running descriptor asks for, and that need not wait, is answered by the counter. -/
theorem Dev.tallyClaim_of_asks {n tile : Nat} {sl : TakeSlot} {k : Counter} (hhold : s.holdingOfCore c = some h)
    (hslot : ((s.holding h).stageOf c st).bind (·.slot n) = some sl) (hk : (s.holding h).counter n = some k)
    (htile : sl.tile = some tile) (hruns : s.coreRuns c = true) (hmem : e ∈ (s.core c).window) (hstream : e.stream = st)
    (hphase : e.phase = .started) (hreplay : e.replay = false) (htally : tallyOf e.desc = n)
    (hwaits : (s.holding h).mayWrite c e = .waitClaim) (hholder : s.claimWaits h k tile = false) :
    s.tallyClaim c st n =
      if (k.claim tile sl.issue c).2 then
        ((s.putClaim c h n (s.tallyDie k) (k.claim tile sl.issue c).1).count (some h) (tlyReg (s.tallyDie k) 0x20) 1).event
          (regAt (s.tallyDie k) 0x120) 8
      else s.putClaim c h n (s.tallyDie k) (k.claim tile sl.issue c).1 := by
  have hasks : ((s.core c).window.any fun e =>
      e.stream == st && e.phase == .started && !e.replay && tallyOf e.desc == n && (s.holding h).mayWrite c e == .waitClaim)
      = true := List.any_eq_true.2 ⟨e, hmem, by simp [hstream, hphase, hreplay, htally, hwaits]⟩
  unfold Dev.tallyClaim
  simp only [hhold, hslot, hk, htile, hasks, hruns, hholder, Bool.not_true, Bool.or_self, Bool.false_eq_true, if_false]
  rfl

end

/-! ### The commands of Tally -/

section
variable {s : State} {c : CoreId} {st : Fin 2} {e : WEntry} {front : Bool} {h : HoldId} {g : Stage}

theorem exec_tallyTake_fresh {k : Counter} (ready : s.dev.fenceReady c st 5 e front h g) (hreplay : e.replay = false)
    (hk : (s.dev.holding h).counter (fenOf e.desc).counter = some k) (hcopy : k.copying = false) (hnone : k.reissue = [])
    (hput : (g.putSlot { counter := (fenOf e.desc).counter, tile := none, issue := 0 }).isSome = true)
    (hopen : k.openTiles.length < 256) :
    ∃ t, exec (.tallyTake c st) s = .next t ∧ t.pending = s.pending
      ∧ (t.dev.core c).window.length = (s.dev.core c).window.length
      ∧ t.dev.completed c e
      ∧ (∃ q, (t.dev.holding h).counter (fenOf e.desc).counter = some q ∧ q.limit = k.limit
          ∧ q.next = (if k.next < k.limit then k.next + 1 else k.next))
      ∧ (∃ u ∈ (t.dev.holding h).stages, u.dfn = g.dfn
          ∧ u.takeLog = g.takeLog ++ [(e.index, (fenOf e.desc).counter, if k.next < k.limit then some k.next else none, 0)])
      ∧ t.dev.mem = s.dev.mem ∧ t.dev.queues = s.dev.queues := by
  have ⟨_, _, hstage, _, _⟩ := ready
  have hpick := Counter.pick_of_noReissue hnone
  have hnumber : k.pick.2.number = (fenOf e.desc).counter := by
    rw [hpick]
    split
    · exact (Holding.number_of_counter hk :)
    · exact Holding.number_of_counter hk
  obtain ⟨hcores, hmem⟩ := s.dev.answerTake_beyond c h (fenOf e.desc).counter g e.index (s.dev.tallyDie k) k.pick
  obtain ⟨u, hu, hdfn, hlog⟩ := Dev.answerTake_stage (Holding.mem_of_stageOf hstage) c (fenOf e.desc).counter e.index
    (s.dev.tallyDie k) k.pick
  refine ⟨_, work_clocked s _ (Dev.clocked_of_fenceReady ready), rfl, ?_⟩
  rw [Dev.tallyTake_of_fresh ready hreplay hk hcopy hput hopen]
  refine ⟨?_, Dev.remembers_completed _ hcores ready,
    ⟨_, Dev.answerTake_counter hk c g e.index (s.dev.tallyDie k) hnumber, ?_⟩, ⟨u, hu, hdfn, hlog.trans ?_⟩, hmem, rfl⟩
  · exact (Dev.remembers_window ..).trans (congrArg (·.window.length) (Dev.core_congr hcores c))
  · rw [(Counter.gives_next ..).1, (Counter.gives_next ..).2.1, hpick]
    split <;> exact ⟨rfl, rfl⟩
  · rw [hpick]
    split <;> rfl

theorem exec_tallyRetire (ready : s.dev.fenceReady c st 6 e front h g) :
    ∃ t, exec (.tallyRetire c st) s = .next t ∧ t.pending = s.pending ∧ t.dev.completed c e
      ∧ (∃ u ∈ (t.dev.holding h).stages, u.dfn = g.dfn
          ∧ u.slots = g.slots.filter (fun q => q.counter ≠ (fenOf e.desc).counter))
      ∧ s.dev.sameBeyondCore t.dev c := by
  have ⟨_, _, hstage, _, _⟩ := ready
  refine ⟨_, work_clocked s _ (Dev.clocked_of_fenceReady ready), rfl, ?_⟩
  rw [Dev.tallyRetire_of_fenceReady ready]
  let freed := fun t : Stage => { t with slots := t.slots.filter fun q => q.counter ≠ (fenOf e.desc).counter }
  have hstages : freed g ∈ ((s.dev.modHolding h fun y => y.modStage g.dfn.stage freed).holding h).stages := by
    rw [Dev.holding_modHolding, if_pos rfl]
    exact Holding.mem_modStage (Holding.mem_of_stageOf hstage) _
  have hcomplete : ((s.dev.modHolding h fun y => y.modStage g.dfn.stage freed).remembers c e
      (g.slot (fenOf e.desc).counter)).completed c e := Dev.remembers_completed (s := s.dev) _ rfl ready
  exact ⟨hcomplete, ⟨freed g, hstages, rfl, rfl⟩,
    Dev.sameBeyondCore_coreScope fun k hk => Dev.remembers_core_ne _ e _ hk⟩

theorem exec_gradMap (ready : s.dev.fenceReady c st 7 e front h g) :
    ∃ t, exec (.gradMap c st) s = .next t ∧ t.pending = s.pending
      ∧ (t.dev.core c).window = ((s.dev.core c).completeEntry e).window
      ∧ (t.dev.core c).gradMap = ((s.dev.core c).mapGrad (fenOf e.desc) g.dfn).gradMap
      ∧ s.dev.sameBeyondCore t.dev c := by
  have hcore : (s.dev.gradMap c st).core c = ((s.dev.core c).mapGrad (fenOf e.desc) g.dfn).completeEntry e := by
    rw [Dev.gradMap_of_fenceReady ready, Dev.completeAt_core, if_pos rfl, Dev.core_modCore, if_pos rfl]
  refine ⟨_, work_clocked s _ (Dev.clocked_of_fenceReady ready), rfl, ?_, (congrArg Core.gradMap hcore :),
    Dev.sameBeyondCore_coreScope fun k hk => ?_⟩
  · refine (congrArg Core.window hcore).trans ?_
    simp only [Core.completeEntry, Core.mapGrad_window]
  · rw [Dev.gradMap_of_fenceReady ready, Dev.completeAt_core, if_neg hk, Dev.core_modCore, if_neg hk]

end

/-- Settles O16: each command changes its counter, the stage of its stream and its entry, and counts. -/
theorem tilesAreTakenClaimedAndRetired : Obligations.TilesAreTakenClaimedAndRetired := by
  unfold Obligations.TilesAreTakenClaimedAndRetired
  refine ⟨fun s c st e front h g k ready hreplay hk hcopy hnone hput hopen =>
      exec_tallyTake_fresh ready hreplay hk hcopy hnone hput hopen,
    fun s c st e front h g => ⟨exec_tallyRetire, exec_gradMap⟩,
    fun s c st n h sl k tile e hhold hslot hk htile hruns hmem hstream hphase hreplay htally hwaits hask =>
      ⟨fun hfree => ?_, fun q hheld hissue hlost => ?_⟩⟩
  all_goals
    have hclocked := Dev.clocked_of_coreRuns hruns
    have hnumber := (k.claim_number tile sl.issue c).trans (Holding.number_of_counter hk)
    obtain ⟨hctrs, hbeyond⟩ := s.dev.putClaim_beyond c h n.val (s.dev.tallyDie k) (k.claim tile sl.issue c).1
    have hcounter := Dev.putClaim_counter (c := c) hk hnumber (s.dev.tallyDie k)
    refine ⟨_, work_clocked s _ hclocked, rfl, ?_⟩
  · have hgrant := Counter.claim_of_free hask hfree c
    rw [Dev.tallyClaim_of_asks hhold hslot hk htile hruns hmem hstream hphase hreplay htally hwaits
      (by simp [Dev.claimWaits, hfree])]
    rw [hgrant] at hcounter hctrs hbeyond ⊢
    exact ⟨⟨_, hcounter, rfl, rfl⟩, hctrs, hbeyond⟩
  · have hrefuse := Counter.claim_of_held hask hheld hissue hlost c
    rw [Dev.tallyClaim_of_asks hhold hslot hk htile hruns hmem hstream hphase hreplay htally hwaits
      (by simp [Dev.claimWaits, hheld, hlost])]
    rw [hrefuse] at hcounter hctrs ⊢
    simp only [if_true]
    have hcounted := (Dev.counter_count _ (some h) (tlyReg (s.dev.tallyDie k) 0x20) 1 h n.val).trans hcounter
    refine ⟨⟨_, hcounted, rfl, rfl⟩, ?_⟩
    exact (Dev.ctr_count _ (some h) ..).trans ((if_pos rfl).trans (congrArg (fun l => addStop64 (Tab.get 0 l _) 1) hctrs))

end Sys2Proof.Machine

/-! The mirror of a counter (R197) and the Headland gate (R393). -/

namespace Sys2Proof.Machine

/-! ### A counter's mirror -/

/-- A counter whose mirror is complete. -/
def Counter.copied (k : Counter) : Counter := { k with copying := false }

/-- A change of one counter that keeps its number leaves the others. -/
theorem Holding.counter_modCounter_ne (x : Holding) {n m : Nat} (hm : m ≠ n) {f : Counter → Counter}
    (hf : ∀ k, (f k).number = k.number) : (x.modCounter n f).counter m = x.counter m := by
  have hnumber : ((fun k : Counter => k.number == m) ∘ fun k => if k.number = n then f k else k)
      = fun k : Counter => k.number == m := by
    funext k
    by_cases hk : k.number = n <;> simp [hk, hf]
  simp only [Holding.counter, Holding.modCounter, List.find?_map, hnumber]
  refine (Option.map_congr fun k hk => if_neg ?_).trans Option.map_id'
  have hkm : k.number = m := by simpa using List.find?_some hk
  exact fun hn => hm (hkm.symm.trans hn)

/-! ### What the ports leave alone (R305 to R312) -/

section Ports
variable (s : Dev) (dst : BitVec 16) (vc : Fin 4)

/-- A device without what the sending of flits changes. -/
def Dev.unsent (s : Dev) : Dev := { s with ports := [], seqTx := [], ctrs := [], shadow := [], outbox := [] }

@[simp] theorem Dev.drainPort_unsent (p : PortId) (n : Nat) : (s.drainPort p n).unsent = s.unsent := by
  induction n generalizing s with
  | zero => rfl
  | succ n ih =>
    unfold Dev.drainPort
    split
    · split
      · exact ih _
      · rfl
    · split
      · rfl
      · exact ih _

@[simp] theorem Dev.toPort_unsent (p : PortId) (is : List PortItem) : (s.toPort p is).unsent = s.unsent := by
  unfold Dev.toPort Dev.drain
  split
  · rfl
  · exact Dev.drainPort_unsent ..

@[simp] theorem Dev.chooseRoute_unsent : (s.chooseRoute dst).2.unsent = s.unsent := by
  unfold Dev.chooseRoute
  split
  · rfl
  · dsimp only
    split_ifs <;> rfl

@[simp] theorem Dev.sendHeld_unsent (f : Held) : (s.sendHeld dst vc f).2.2.unsent = s.unsent := by
  unfold Dev.sendHeld
  extract_lets c
  have hchosen : c.2.unsent = s.unsent := by
    simp only [c]
    split
    · rfl
    · exact s.chooseRoute_unsent dst
  split
  · exact hchosen
  · exact (Dev.toPort_unsent ..).trans hchosen

@[simp] theorem Dev.sendAll_unsent (fs : List Held) : (s.sendAll dst vc fs).2.2.unsent = s.unsent := by
  induction fs generalizing s with
  | nil => rfl
  | cons f rest ih => exact (ih _).trans (s.sendHeld_unsent dst vc f)

@[simp] theorem Dev.numberMsg_unsent (o : Owner) (m : OutMsg) : (s.numberMsg dst vc o m).unsent = s.unsent :=
  s.sendAll_unsent dst vc _

end Ports

/-! ### The Headland gate -/

section Gate
variable {s : Dev}

/-- What the gate keeps as it opens waited in it before; beyond the gate and the ports nothing changes. -/
theorem Dev.releaseGate_unsent (s : Dev) (l kept : List GateItem) :
    ∃ k ⊆ kept ++ l, (s.releaseGate l kept).unsent = { s.unsent with gate := k } := by
  induction l generalizing s kept with
  | nil => exact ⟨kept, by simp, rfl⟩
  | cons g rest ih =>
    unfold Dev.releaseGate
    split
    · obtain ⟨k, hk, hrest⟩ := ih (s.numberMsg g.dst g.vc g.owner g.msg) kept
      rw [Dev.numberMsg_unsent] at hrest
      exact ⟨k, List.Subset.trans hk (by simp), hrest⟩
    · obtain ⟨k, hk, hrest⟩ := ih s (kept ++ [g])
      exact ⟨k, by simpa using hk, hrest⟩

/-- The gate and what it stands beside: memory, its tags and the cores. -/
def Dev.beside (s : Dev) : List GateItem × List Host.Cell × Tab (Option Tag) × Tab Core := (s.gate, s.mem, s.tags, s.cores)

/-- The gate's items as a notice of a block has come to a port. -/
def noticed (gate : List GateItem) (p : PortId) (b : Nat) (bad : Bool) : List GateItem :=
  gate.map fun g => if g.port = p then g.notice b bad else g

theorem mem_noticed {gate : List GateItem} {p : PortId} {b : Nat} {bad : Bool} {g : GateItem}
    (hg : g ∈ noticed gate p b bad) :
    (g.port = p → ∀ x ∈ g.blocks, x.1 ≠ b) ∧ (g.port ≠ p → g ∈ gate) := by
  obtain ⟨k, hk, rfl⟩ := List.mem_map.1 hg
  split
  next hp => exact ⟨fun _ x hx => by simpa using (List.mem_filter.1 hx).2, fun hne => absurd hp hne⟩
  next hp => exact ⟨fun heq => absurd heq hp, fun _ => hk⟩

/-- A notice that something waits for marks what waits, and opens the gate. -/
theorem Dev.checkedNotice_of_clear {p : PortId} {b : Nat} (hclear : s.blockClear b = true)
    (hwaits : ∃ g ∈ s.gate, g.port = p ∧ ∃ x ∈ g.blocks, x.1 = b) :
    ∃ d : Dev, s.checkedNotice p b = d.runGate
      ∧ d.beside = (noticed s.gate p b (s.tag b).poison, s.mem, s.tags, s.cores) := by
  have hhit : (s.gate.filter fun g => g.port == p && g.blocks.any fun x => x.1 == b).isEmpty = false := by
    obtain ⟨g, hg, hp, x, hx, hb⟩ := hwaits
    have hany : (g.blocks.any fun x => x.1 == b) = true := List.any_eq_true.2 ⟨x, hx, by simp [hb]⟩
    exact List.isEmpty_eq_false_iff_exists_mem.2 ⟨g, List.mem_filter.2 ⟨hg, by simp [hp, hany]⟩⟩
  unfold Dev.checkedNotice
  extract_lets hit bad s1 s2
  rw [if_neg (by simp [hclear, hit, hhit])]
  refine ⟨_, rfl, ?_⟩
  change s2.beside = s1.beside
  simp only [s2]
  split
  · exact foldl_preserves Dev.beside (f := fun d g => d.count (ownerHolding g.owner) (hdlReg p 0x20) 1) (fun _ _ => rfl) s1 hit
  · rfl

/-- What the gate keeps waited in it before, and memory, its tags and the cores stand. -/
theorem Dev.runGate_beside (d : Dev) :
    d.runGate.gate ⊆ d.gate ∧ d.runGate.mem = d.mem ∧ d.runGate.tags = d.tags ∧ d.runGate.cores = d.cores := by
  obtain ⟨k, hk, hrest⟩ := d.releaseGate_unsent d.gate []
  have hgate : d.runGate.gate = k := congrArg Dev.gate hrest
  exact ⟨fun _ hg => hk (hgate ▸ hg), (congrArg Dev.mem hrest :), (congrArg Dev.tags hrest :),
    (congrArg Dev.cores hrest :)⟩

theorem Dev.checkedNotice_of_notClear {b : Nat} (hclear : s.blockClear b = false) (p : PortId) :
    s.checkedNotice p b = s := by
  simp only [Dev.checkedNotice, hclear, Bool.not_false, Bool.true_or, if_true]

end Gate

/-- Settles O35: the mirror changes one counter, and the gate keeps of a noticed block's waiters only those of other blocks. -/
theorem mirrorsCopyAndTheGateOpens : Obligations.MirrorsCopyAndTheGateOpens := by
  unfold Obligations.MirrorsCopyAndTheGateOpens
  refine ⟨fun s h n k hclocked hk => ?_, fun s p b hclocked => ⟨fun hclear hwaits => ?_, fun hclear => ?_⟩⟩
  · have hcopied : (s.dev.mirrorCopied h n.val).holding h
        = (s.dev.holding h).modCounter n.val Counter.copied :=
      (Dev.holding_modHolding ..).trans (if_pos rfl)
    refine ⟨_, work_clocked s _ hclocked, rfl, ?_, fun m hm => ?_, (congrArg Holding.stages hcopied :), rfl, rfl⟩
    · refine (congrArg (·.counter n.val) hcopied).trans ?_
      exact (Holding.counter_modCounter _ _ (f := Counter.copied) fun _ hnumber => hnumber).trans (congrArg (Option.map _) hk)
    · exact (congrArg (·.counter m) hcopied).trans (Holding.counter_modCounter_ne _ hm (f := Counter.copied) fun _ => rfl)
  · obtain ⟨d, hd, hbeside⟩ := Dev.checkedNotice_of_clear hclear hwaits
    obtain ⟨hgate, hmem, htags, hcores⟩ := d.runGate_beside
    have hwaiting : d.gate = noticed s.dev.gate p b (s.dev.tag b).poison := congrArg (·.1) hbeside
    have hkept : ∀ g ∈ d.runGate.gate, g ∈ noticed s.dev.gate p b (s.dev.tag b).poison :=
      fun g hg => hwaiting ▸ hgate hg
    refine ⟨_, work_clocked s _ hclocked, rfl, ?_⟩
    rw [hd]
    exact ⟨fun g hg => (mem_noticed (hkept g hg)).1, fun g hg => (mem_noticed (hkept g hg)).2,
      hmem.trans (congrArg (·.2.1) hbeside), htags.trans (congrArg (·.2.2.1) hbeside),
      hcores.trans (congrArg (·.2.2.2) hbeside)⟩
  · refine (work_clocked s _ hclocked).trans ?_
    rw [Dev.checkedNotice_of_notClear hclear]
    rfl

end Sys2Proof.Machine

/-! The STEP boundary (R201, R212, R447): how it closes a step, how the tables that wait come into force, and how it
opens the next step. -/

namespace Sys2Proof.Machine

/-! ### A holding that runs -/

/-- The jobs of Gotre, and the kernel of a holding. -/
def Dev.running (s : Dev) (h : HoldId) : List Job × Holding := (s.gotre.jobs, (s.holding h).kernel)

theorem Dev.running_of_standing {s t : Dev} (hst : t.standing = s.standing) (h : HoldId) : t.running h = s.running h := by
  have hgotre : t.gotre = s.gotre := congrArg (fun p => p.1.gotre) hst
  simp only [Dev.running, hgotre, Dev.kernel_of_standing hst h]

theorem Dev.running_congr {s t : Dev} (hjobs : t.gotre.jobs = s.gotre.jobs) (hholdings : t.holdings = s.holdings)
    (h : HoldId) : t.running h = s.running h := by
  simp only [Dev.running, hjobs, Dev.holding_congr hholdings]

/-! ### How a step closes (R201, R293, R377) -/

section
variable (s : Dev) (h : HoldId) (advance : Bool)

@[simp] theorem Dev.writeStepCounts_standing : (s.writeStepCounts h).standing = s.standing :=
  foldl_preserves Dev.standing (fun d _ => d.writeVa_standing ..) s _

@[simp] theorem Dev.writeNorms_standing : (s.writeNorms h).standing = s.standing := by
  unfold Dev.writeNorms
  dsimp only
  split
  · rfl
  · exact s.writeVa_standing ..

theorem Dev.writeRecord_program (ended : Bool) (status : Status) :
    (s.writeRecord h ended status).program h = s.program h :=
  (s.takeFree.2.modHolding_program h rfl).trans (Dev.program_congr rfl rfl h)

/-- The fences that end a step take no tile: recording them changes only stages and records. -/
theorem Dev.completeFences_program : (s.completeFences h).program h = s.program h := by
  refine foldl_preserves (fun d : Dev => d.program h) (fun d g => ?_) s _
  split
  · rfl
  · extract_lets st
    split
    next hat =>
      obtain ⟨-, -, hfence⟩ := Core.fenceAt_entry hat
      exact (Dev.recordFront_program _ _ h (isFence_tally_of_op hfence (by decide))).trans (Dev.program_congr rfl rfl h)
    next => rfl

/-- A holding in another step. -/
def Holding.toStep (x : Holding) (n : Word32) : Holding := { x with step := n }

/-- A device as the step of a holding has closed: the writes and the record, the number, the fences. -/
def Dev.closeStep : Dev :=
  let s0 := s.settleEgress (fun i => decide (256 ≤ i.agent) && i.holding == h) .pass
  let s1 := ((s0.writeStepCounts h).writeNorms h).writeRecord h false .ok
  (if advance then s1.modHolding h fun x => x.toStep (x.step + 1) else s1).completeFences h

/-- The step that a boundary opens. -/
def Holding.nextStep (x : Holding) (advance : Bool) : Word32 := if advance then x.step + 1 else x.step

theorem Dev.closeStep_program :
    (s.closeStep h advance).program h
      = (s.gotre.jobs, (s.holding h).body.toStep ((s.holding h).nextStep advance)) := by
  unfold Dev.closeStep
  extract_lets s0 s1
  have h1 : s1.program h = s.program h := by
    refine (Dev.writeRecord_program _ h false .ok).trans (Dev.program_of_standing ?_ h)
    rw [Dev.writeNorms_standing, Dev.writeStepCounts_standing]
    exact s.settleEgress_standing ..
  rw [Dev.completeFences_program]
  clear_value s1
  cases advance with
  | false => exact h1
  | true =>
    have hmoved : (s1.modHolding h fun x => x.toStep (x.step + 1)).program h
        = (s1.gotre.jobs, (s1.holding h).body.toStep ((s1.holding h).body.step + 1)) := by
      simp only [Dev.program, Dev.holding_modHolding, if_true]
      rfl
    exact hmoved.trans (congrArg (fun p : List Job × Holding => (p.1, p.2.toStep (p.2.step + 1))) h1)

/-! ### How the tables come into force (R447) -/

/-- A core that was away may take stages again. -/
def Dev.bringBack (c : CoreId) : Dev := s.modCore c fun y => { y with away := false }

/-- A holding as its next step opens, with the link dies that are lost to it. -/
def Holding.opens (x : Holding) (advance : Bool) (lost : List Nat) : Holding := { x.openStep advance with lostLinks := lost }

/-- A device as the tables that wait have come into force: the rows of the batches that end are dropped, and cores that
were away may take stages again. -/
def Dev.enterTables : Dev :=
  let lost := (List.range 8).filter fun j => (s.die (48 + j)).fenced
  let old := (s.holding h).batches.filter fun b => !(advance && (s.holding h).ofStep b.tag)
  let s3 := (old.foldl (fun d b => d.dropWaiting h b) s).modHolding h fun x =>
    x.ahead.opens advance lost
  (s3.holding h).coreIds.foldl Dev.bringBack s3

/-- A stage table that waits takes the place of the old one. -/
def Dev.replaceStages : Option (List StageDef × List (Nat × List Nat)) → Dev
  | some (ds, rows) => s.placeStages h ds rows
  | none => s

/-- The update entries of the step that opens, its frozen chunks, and its registers. -/
def Dev.openBooks : Dev :=
  ((s.openEntries h).countFrozen h).applySlots ((s.holding h).coreIds.flatMap stepRegs)

/-- A device under the tables of the step that opens. -/
def Dev.openTables : Dev :=
  (((s.holding h).expelled.foldl (fun d m => d.drillLost h m none) (s.enterTables h advance)).replaceStages h
    (s.holding h).nextStages).openBooks h

/-- A boundary without poison closes the step, brings the tables into force and opens the next step. -/
theorem Dev.boundary_of_clean (hclean : (s.holding h).poisonUsed = false) :
    s.boundary h advance =
      if advance then ((((s.closeStep h advance).openTables h advance).openVote h).startMirror h)
      else (s.closeStep h advance).openTables h advance := by
  unfold Dev.boundary
  simp only [hclean, Bool.not_false, if_true]
  rfl

@[simp] theorem Dev.dropWaiting_standing (b : Batch) : (s.dropWaiting h b).standing = s.standing :=
  foldl_preserves Dev.standing (fun d _ => d.count_standing ..) s _

theorem Dev.enterTables_holding :
    ∃ (y : Holding) (lost : List Nat), y.kernel = (s.holding h).kernel
      ∧ (s.enterTables h advance).holding h = y.ahead.opens advance lost
      ∧ (s.enterTables h advance).gotre = s.gotre := by
  unfold Dev.enterTables
  extract_lets lost old s3
  have hdrop : (old.foldl (fun d b => d.dropWaiting h b) s).standing = s.standing :=
    foldl_preserves Dev.standing (fun d b => d.dropWaiting_standing h b) s old
  have hcores : ∀ l : List CoreId, (l.foldl Dev.bringBack s3).holdings = s3.holdings
      ∧ (l.foldl Dev.bringBack s3).gotre = s3.gotre := fun l =>
    ⟨foldl_preserves Dev.holdings (f := Dev.bringBack) (fun _ _ => rfl) s3 l,
      foldl_preserves Dev.gotre (f := Dev.bringBack) (fun _ _ => rfl) s3 l⟩
  refine ⟨_, lost, Dev.kernel_of_standing hdrop h, ?_, (hcores _).2.trans (congrArg (fun p => p.1.gotre) hdrop)⟩
  rw [Dev.holding_congr (hcores _).1, Dev.holding_modHolding, if_pos rfl]

/-! ### How the next step opens (R363, R364, R463) -/

theorem Dev.countFrozen_standing : (s.countFrozen h).standing = s.standing := by
  refine foldl_preserves Dev.standing (fun d j => ?_) s _
  dsimp only
  split
  · rfl
  · exact d.count_standing ..

theorem Dev.applySlots_running (as : List Nat) : (s.applySlots as).running h = s.running h := by
  refine foldl_preserves (fun d : Dev => d.running h) (fun d a => ?_) s _
  dsimp only
  split
  · exact Dev.running_congr rfl rfl h
  · rfl

/-- A holding with its update entries changed. -/
def Holding.mapEntries (x : Holding) (f : Nat × Option UpdateEntry → Nat × Option UpdateEntry) : Holding :=
  { x with entries := x.entries.map f }

theorem Holding.kernel_mapEntries (x : Holding) (f : Nat × Option UpdateEntry → Nat × Option UpdateEntry) :
    (x.mapEntries f).kernel = x.kernel.mapEntries f := rfl

theorem Dev.openEntries_running :
    ∃ f, (s.openEntries h).running h = (s.gotre.jobs, (s.holding h).kernel.mapEntries f) := by
  refine ⟨fun p => (p.1, p.2.map (s.holding h).openEntry), ?_⟩
  unfold Dev.openEntries
  extract_lets s1 n
  have h1 : s1.running h = (s.gotre.jobs, (s.holding h).kernel.mapEntries fun p =>
      (p.1, p.2.map (s.holding h).openEntry)) := by
    simp only [Dev.running, s1, Dev.holding_modHolding, if_true]
    rfl
  split
  · split
    · exact h1
    · exact (Dev.running_of_standing (s1.count_standing ..) h).trans h1
  · exact h1

/-- The opening changes the update entries alone of what runs. -/
theorem Dev.openBooks_running :
    ∃ f, (s.openBooks h).running h = (s.gotre.jobs, (s.holding h).kernel.mapEntries f) := by
  obtain ⟨f, hf⟩ := s.openEntries_running h
  exact ⟨f, (Dev.applySlots_running _ h _).trans ((Dev.running_of_standing (Dev.countFrozen_standing _ h) h).trans hf)⟩

/-! ### A boundary at which no table waits -/

theorem Holding.body_of_kernel {x y : Holding} (hxy : x.kernel = y.kernel) : x.body = y.body := by
  simp only [Holding.body, hxy]

/-- The holding that enters the tables is that of the step's end, in the step that opens. -/
theorem Dev.closed_enterTables :
    ∃ (y : Holding) (lost : List Nat), y.body = (s.holding h).body.toStep ((s.holding h).nextStep advance)
      ∧ ((s.closeStep h advance).enterTables h advance).holding h = y.ahead.opens advance lost
      ∧ ((s.closeStep h advance).enterTables h advance).gotre.jobs = s.gotre.jobs := by
  obtain ⟨y, lost, hkernel, hopens, hgotre⟩ := (s.closeStep h advance).enterTables_holding h advance
  have hclosed := s.closeStep_program h advance
  exact ⟨y, lost, (Holding.body_of_kernel hkernel).trans (congrArg Prod.snd hclosed), hopens,
    (congrArg Gotre.jobs hgotre).trans (congrArg Prod.fst hclosed)⟩

/-- What a boundary gives a holding whose tables stay as they were. -/
theorem Holding.opens_fields {x y z : Holding} {lost : List Nat} {f : Nat × Option UpdateEntry → Nat × Option UpdateEntry}
    {advance : Bool} (hz : z.kernel = ((y.opens advance lost).mapEntries f).kernel)
    (hy : y.body = x.body.toStep (x.nextStep advance)) :
    z.step = x.nextStep advance ∧ z.events = [] ∧ z.trailers = [] ∧ z.norms = [] ∧ z.state = x.state ∧ z.digest = x.digest
      ∧ z.mirrorSend.map MirrorSend.unread = x.mirrorSend.map MirrorSend.unread
      ∧ z.reduces = (x.reduces.filter fun q => q.ahead != 0).map (fun q => { q with ahead := q.ahead - 1 })
      ∧ z.batches = y.batches.filter (fun b => advance && z.ofStep b.tag)
      ∧ ∀ g ∈ z.stages, g.atStep = false ∧ g.slots = [] := by
  have hstep : y.step = x.nextStep advance := (congrArg Holding.step hy :)
  have hreduces : y.reduces = x.reduces := (congrArg Holding.reduces hy :)
  have hstate : y.state = x.state := (congrArg Holding.state hy :)
  have hdigest : y.digest = x.digest := (congrArg Holding.digest hy :)
  have hmirror : y.mirrorSend.map MirrorSend.unread = x.mirrorSend.map MirrorSend.unread := (congrArg Holding.mirrorSend hy :)
  have hzstep : z.step = y.step := (congrArg Holding.step hz :)
  have hzbatches : z.batches = y.batches.filter fun b => advance && y.ofStep b.tag := (congrArg Holding.batches hz :)
  have hzreduces : z.reduces = (y.reduces.filter fun q => q.ahead != 0).map fun q => { q with ahead := q.ahead - 1 } :=
    (congrArg Holding.reduces hz :)
  have hzmirror : z.mirrorSend.map MirrorSend.unread = y.mirrorSend.map MirrorSend.unread :=
    (congrArg Holding.mirrorSend hz :)
  have hzstages : z.stages = (y.opens advance lost).stages := (congrArg Holding.stages hz :)
  refine ⟨hzstep.trans hstep, (congrArg Holding.events hz :), (congrArg Holding.trailers hz :), (congrArg Holding.norms hz :),
    (congrArg Holding.state hz :).trans hstate, (congrArg Holding.digest hz :).trans hdigest, hzmirror.trans hmirror,
    hreduces ▸ hzreduces, ?_, fun g hg => ?_⟩
  · simpa only [Holding.ofStep, hzstep] using hzbatches
  · obtain ⟨k, -, rfl⟩ := List.mem_map.1 (hzstages ▸ hg)
    exact ⟨rfl, rfl⟩

variable {s h}

theorem Dev.closeStep_waiting : ((s.closeStep h advance).holding h).waiting = (s.holding h).waiting :=
  (congrArg (fun p => p.2.waiting) (s.closeStep_program h advance) :)

/-- Without tables that wait the holding opens the next step under those it has. -/
theorem Dev.openTables_kernel (hnone : (s.holding h).waiting = []) :
    ∃ (y : Holding) (lost : List Nat) (f : _), y.body = (s.holding h).body.toStep ((s.holding h).nextStep advance)
      ∧ (((s.closeStep h advance).openTables h advance).holding h).kernel = ((y.opens advance lost).mapEntries f).kernel := by
  obtain ⟨y, lost, hbody, hopens, -⟩ := s.closed_enterTables h advance
  have hclosed : ((s.closeStep h advance).holding h).waiting = [] := (Dev.closeStep_waiting advance).trans hnone
  have hwaiting : y.waiting = [] := (congrArg Holding.waiting hbody :).trans hnone
  have hahead : y.ahead = y := by simp [Holding.ahead, hwaiting]
  obtain ⟨f, hbooks⟩ := ((s.closeStep h advance).enterTables h advance).openBooks_running h
  rw [hopens, hahead] at hbooks
  have hopen : (s.closeStep h advance).openTables h advance
      = ((s.closeStep h advance).enterTables h advance).openBooks h := by
    simp only [Dev.openTables, Holding.expelled, Holding.nextStages, hclosed, List.flatMap_nil, List.foldl_nil,
      List.filterMap_nil, List.getLast?_nil, Dev.replaceStages]
  have hkernel := congrArg Prod.snd hbooks
  rw [← hopen] at hkernel
  exact ⟨y, lost, f, hbody, hkernel.trans (Holding.kernel_mapEntries _ f).symm⟩

theorem Dev.openVote_of_never (hnever : (s.holding h).digest.every = 0) : s.openVote h = s := by
  unfold Dev.openVote
  dsimp only
  split
  · rfl
  · simp [hnever]

theorem Dev.startMirror_of_none (hnone : (s.holding h).mirrorSend = none) : s.startMirror h = s := by
  simp only [Dev.startMirror, hnone]

end

theorem Dev.lifeScope_self (s : Dev) : s.lifeScope s = s := by
  rfl

/-- Settles O27: without poison, waiting tables, digests and mirrors the boundary closes the step and opens the next. -/
theorem boundariesOpenTheNextStep : Obligations.BoundariesOpenTheNextStep := by
  unfold Obligations.BoundariesOpenTheNextStep
  refine fun s h hclocked => ⟨fun hready hclean hwaiting hnever hnone => ?_, fun hnot => ?_⟩
  · obtain ⟨y, lost, f, hbody, hkernel⟩ := Dev.openTables_kernel true hwaiting
    have hboundary := Dev.boundary_of_clean s.dev h true hclean
    rw [if_pos rfl] at hboundary
    generalize (s.dev.closeStep h true).openTables h true = d at hkernel hboundary
    obtain ⟨hstep, hevents, htrailers, hnorms, hstate, hdigest, hmirror, hreduces, hbatches, hstages⟩ :=
      Holding.opens_fields hkernel hbody
    have hevery : (d.holding h).digest.every = 0 := (congrArg DigestPolicy.every hdigest).trans hnever
    have hsend : (d.holding h).mirrorSend = none := by simpa [hnone] using hmirror
    have hheld : s.dev.digestHeld h = false := by simp [Dev.digestHeld, hnever]
    rw [Dev.openVote_of_never hevery, Dev.startMirror_of_none hsend] at hboundary
    have hreached : s.dev.stepBoundary h = d := by
      rw [Dev.stepBoundary, if_pos (by rw [hready, hheld]; rfl), hboundary]
    refine ⟨_, work_clocked s _ hclocked, rfl, ?_⟩
    rw [hreached]
    refine ⟨hstep, hevents, hreduces, fun b hb => ?_, htrailers, hnorms, hstages, hstate, rfl, rfl, rfl⟩
    have hmine := (List.mem_filter.1 (hbatches ▸ hb)).2
    rw [Bool.true_and, Holding.ofStep, beq_iff_eq] at hmine
    exact hmine
  · refine (work_clocked s _ hclocked).trans ?_
    have hstays : s.dev.stepBoundary h = s.dev := if_neg (by rcases hnot with h | h <;> simp [h])
    rw [hstays]
    change Host.Outcome.next { s with dev := s.dev.lifeScope s.dev } = _
    rw [Dev.lifeScope_self]

end Sys2Proof.Machine

/-! Table commands that are accepted (R190, R269, R284, R335, R337, R361, R398): their writes wait for the boundary. -/

namespace Sys2Proof.Machine

/-! ### The end of an accepted table command -/

section Accepting
variable {s : State} {d r : Dev} {n op : Nat} {j : Job} {h : HoldId} {ws : List TableWrite} {i : Instr}

/-- A holding with writes behind those that were accepted before. -/
def Holding.accepts (x : Holding) (ws : List TableWrite) : Holding := { x with waiting := x.waiting ++ ws }

/-- A table command that accepts its writes is answered; the tables in force and memory are as they were. -/
theorem exec_accepts (ready : s.dev.jobReady n op j) (hd : d.gotre = s.dev.gotre)
    (hexec : exec i s = done s (s.dev.lifeScope r)) (hr : r = (d.acceptWrites h n ws).passTurn j) :
    ∃ t, exec i s = .next t ∧ t.pending = s.pending ∧ d.tableAccepted t.dev h j ws ∧ t.dev.mem = d.mem := by
  obtain ⟨g, hend, hanswer⟩ := Dev.finishJob_passTurn ready (d := d.modHolding h fun x => x.accepts ws) hd .ok 0
  have hdev := hr.trans hend
  have hholdings : r.holdings = (d.modHolding h fun x => x.accepts ws).holdings := (congrArg Dev.holdings hdev :)
  have hholding : (s.dev.lifeScope r).holding h = (d.holding h).accepts ws := by
    rw [Dev.holding_congr (Dev.lifeScope_holdings ..), Dev.holding_congr hholdings, Dev.holding_modHolding, if_pos rfl]
  refine ⟨_, hexec, rfl, ⟨hanswer _ ((Dev.lifeScope_gotre ..).trans (congrArg Dev.gotre hdev :)), ?_⟩,
    (Dev.lifeScope_mem ..).trans (congrArg Dev.mem hdev :)⟩
  simp only [hholding, Holding.accepts, and_self]

/-- So is one that has read a list. -/
theorem exec_accepts_of_list {va len : Nat} {bs : List PByte} (ready : s.dev.jobReady n op j)
    (list : s.dev.listReady h va len bs d) (hexec : exec i s = done s (s.dev.lifeScope r))
    (hr : r = (d.acceptWrites h n ws).passTurn j) :
    ∃ t, exec i s = .next t ∧ t.pending = s.pending ∧ d.tableAccepted t.dev h j ws := by
  obtain ⟨-, hread, -⟩ := list
  obtain ⟨hgotre, -, -⟩ := Dev.commitments_eq_iff.1 (Dev.readList_commitments hread)
  obtain ⟨t, ht, hpending, haccepted, -⟩ := exec_accepts ready hgotre hexec hr
  exact ⟨t, ht, hpending, haccepted⟩

/-- A command of a holding whose turn has come runs its body. -/
theorem Dev.runHolding_of_jobReady {s : Dev} (ready : s.jobReady n op j) (hop : (paramBits op).isSome = true)
    (hold : j.holding? = some h) (body : Job → HoldId → Dev) : s.runHolding n op body = (body j h).passTurn j := by
  simp only [Dev.runHolding, Dev.runJob_of_jobReady ready hop, hold]

end Accepting

section Commands
variable {s : State} {n : Nat} {j : Job} {h : HoldId} {blk : BlockRead} {b : Block}

/-! ### Stage tables (R190) -/

/-- No stage is parked: an accepted table moves none before the boundary (R193). -/
theorem Dev.unpark_of_running {s : Dev} (hrun : ∀ g ∈ (s.holding h).stages, g.runsOn.isSome = true) (ds : List StageDef) :
    s.unpark h ds = s := by
  have hnone : ∀ d : StageDef, (s.holding h).stages.find? (fun g => g.dfn.stage == d.stage && g.runsOn.isNone) = none := by
    refine fun d => List.find?_eq_none.2 fun g hg => ?_
    have hsome := hrun g hg
    cases hcore : g.runsOn with
    | none => simp [hcore] at hsome
    | some c => simp
  unfold Dev.unpark
  induction ds with
  | nil => rfl
  | cons d ds ih => simpa only [List.foldl_cons, hnone] using ih

theorem exec_stageTableSet (hold : j.holding? = some h) (ready : s.dev.jobReady n 0x0041 j)
    (hblk : j.block ⟨0, 17, 5⟩ blk = .ok b)
    (hgood : s.dev.stagesBad h (b.list1.map stageOfWords) (b.list2.map rowGroupOf) = false)
    (hmapped : ∀ g ∈ b.list1.map stageOfWords, s.dev.mappedRw h g.logVa 4096 = true
      ∧ (0 < g.gradCount → s.dev.mappedRw h g.gradHome (g.gradCount * 65536) = true))
    (hrun : ∀ g ∈ (s.dev.holding h).stages, g.runsOn.isSome = true) :
    ∃ t, exec (.stageTableSet n blk) s = .next t ∧ t.pending = s.pending
      ∧ s.dev.tableAccepted t.dev h j [.stages (b.list1.map stageOfWords) (b.list2.map rowGroupOf)] ∧ t.dev.mem = s.dev.mem := by
  have hallowed : ((b.list1.map stageOfWords).any fun g => !s.dev.mappedRw h g.logVa 4096
      || (decide (0 < g.gradCount) && !s.dev.mappedRw h g.gradHome (g.gradCount * 65536))) = false := by
    refine List.any_eq_false.2 fun g hg => ?_
    obtain ⟨hlog, hgrad⟩ := hmapped g hg
    by_cases hcount : 0 < g.gradCount
    · simp [hlog, hgrad hcount]
    · simp [hlog, hcount]
  refine exec_accepts ready (i := .stageTableSet n blk) rfl rfl ?_
  unfold Dev.stageTableSet
  rw [Dev.runBlock_of_jobReady ready rfl hold hblk]
  simp only [hgood, hallowed, Dev.unpark_of_running hrun, Bool.false_eq_true, if_false]

/-! ### Collective groups and policies (R335, R337) -/

theorem exec_collectiveGroupCreate {bs : List PByte} {d : Dev} (hold : j.holding? = some h) (ready : s.dev.jobReady n 0x0050 j)
    (hleast : 2 ≤ j.param 24 8) (hmost : j.param 24 8 ≤ 65536)
    (list : s.dev.listReady h (j.param 76 25) (2 * j.param 24 8) bs d) (honce : repeats (numbersOf 2 bs) = false)
    (hself : (numbersOf 2 bs).contains s.dev.number.toNat = true)
    (hroom : (((s.dev.holding h).ahead.collectives.filter fun k => k.1 != j.param 7 0).map fun k =>
      ((k.2.map (·.members.length)).getD 0)).sum + j.param 24 8 ≤ 131072) :
    ∃ t, exec (.collectiveGroupCreate n) s = .next t ∧ t.pending = s.pending
      ∧ d.tableAccepted t.dev h j [.collective (j.param 7 0) ((numbersOf 2 bs).map (BitVec.ofNat 16))] := by
  refine exec_accepts_of_list ready list (i := .collectiveGroupCreate n) rfl ?_
  unfold Dev.collectiveCreate
  rw [Dev.runHolding_of_jobReady ready rfl hold]
  simp only [Nat.not_lt.2 hleast, Nat.not_lt.2 hmost, Nat.not_lt.2 hroom, honce, hself, Dev.withList_of_listReady list,
    decide_false, Bool.not_true, Bool.or_self, Bool.false_eq_true, if_false]

theorem Dev.finishPolicy_of_allowed {s : Dev} {p : Policy} {k : Collective} (hallowed : s.policyDenied h p k = false)
    (n r : Nat) : s.finishPolicy h n r p k = s.acceptWrites h n [.policy r p] := by
  simp only [Dev.finishPolicy, hallowed, Bool.false_eq_true, if_false]

theorem exec_reductionPolicySet {k : Collective} (hold : j.holding? = some h) (ready : s.dev.jobReady n 0x0051 j)
    (hblk : j.block ⟨15, 0, 0⟩ blk = .ok b)
    (hk : Tab.get none (s.dev.holding h).ahead.collectives (wd b.fixed 0) = some k) (hgood : policyBad b.fixed k = false)
    (hanchor : wd b.fixed 5 = 0) (hallowed : s.dev.policyDenied h (policyOf b.fixed) k = false) :
    ∃ t, exec (.reductionPolicySet n blk) s = .next t ∧ t.pending = s.pending
      ∧ s.dev.tableAccepted t.dev h j [.policy (wd b.fixed 1) (policyOf b.fixed)] ∧ t.dev.mem = s.dev.mem := by
  have hplain : (policyOf b.fixed).anchor = false := by simp [policyOf, hanchor]
  refine exec_accepts ready (i := .reductionPolicySet n blk) rfl rfl ?_
  unfold Dev.policySet
  rw [Dev.runBlock_of_jobReady ready rfl hold hblk]
  simp only [hk, hgood, hplain, Dev.finishPolicy_of_allowed hallowed, Bool.not_false, Bool.false_eq_true, if_false, if_true]

theorem exec_reductionPolicySet_anchored {k : Collective} {bs : List PByte} {d : Dev} (hold : j.holding? = some h)
    (ready : s.dev.jobReady n 0x0051 j) (hblk : j.block ⟨15, 0, 0⟩ blk = .ok b)
    (hk : Tab.get none (s.dev.holding h).ahead.collectives (wd b.fixed 0) = some k) (hgood : policyBad b.fixed k = false)
    (hanchor : wd b.fixed 5 = 1) (list : s.dev.listReady h (wd b.fixed 7) (2 * wd b.fixed 6) bs d)
    (hmembers : ∀ a ∈ numbersOf 2 bs, a < k.members.length)
    (hrising : ∀ q ∈ (numbersOf 2 bs).zip ((numbersOf 2 bs).drop 1), q.1 < q.2)
    (hallowed : d.policyDenied h { policyOf b.fixed with anchors := numbersOf 2 bs } k = false) :
    ∃ t, exec (.reductionPolicySet n blk) s = .next t ∧ t.pending = s.pending
      ∧ d.tableAccepted t.dev h j [.policy (wd b.fixed 1) { policyOf b.fixed with anchors := numbersOf 2 bs }] := by
  have hlisted : (!(policyOf b.fixed).anchor) = false := by simp [policyOf, hanchor]
  have hin : ((numbersOf 2 bs).any fun a => decide (k.members.length ≤ a)) = false := by
    simpa using hmembers
  have hsorted : (((numbersOf 2 bs).zip ((numbersOf 2 bs).drop 1)).any fun q => decide (q.2 ≤ q.1)) = false :=
    List.any_eq_false.2 fun q hq => by simpa using hrising q hq
  refine exec_accepts_of_list ready list (i := .reductionPolicySet n blk) rfl ?_
  unfold Dev.policySet
  rw [Dev.runBlock_of_jobReady ready rfl hold hblk]
  simp only [hk, hgood, hlisted, Dev.withList_of_listReady list, hin, hsorted, Bool.or_self, Bool.false_eq_true, if_false]
  exact congrArg (·.passTurn j) (Dev.finishPolicy_of_allowed hallowed n (wd b.fixed 1))

/-! ### Experts and capacities (R269, R284) -/

/-- The layer that EXPERT_TABLE_SET enters, from its words and the bytes of its list. -/
def layerOf (w : List Nat) (bs : List PByte) : Layer :=
  { overflow := wd w 2, rowSectors := wd w 3, ansSectors := wd w 4, experts := (numbersOf 8 bs).map expertOf }

/-- The experts of a layer's list that have their home at a device. -/
def homesIn (device : BitVec 16) (bs : List PByte) : List Nat :=
  (((numbersOf 8 bs).map expertOf).filter fun e => e.home == device).map (·.global.toNat)

/-- What the list and the home queues of a layer must satisfy beside the queues of the other layers (R269). -/
structure ExpertsFit (device : BitVec 16) (bs : List PByte) (qs others : List HomeQueue) : Prop where
  short : ∀ v ∈ numbersOf 8 bs, v < 2 ^ 32
  experts : repeats (((numbersOf 8 bs).map expertOf).map (·.global.toNat)) = false
  queues : repeats (qs.map (·.queue)) = false
  globals : repeats (qs.map (·.global.toNat)) = false
  apart : ∀ o ∈ others, ∀ q ∈ qs, q.queue ≠ o.queue ∧ q.global ≠ o.global
  home : ∀ q ∈ qs, (homesIn device bs).contains q.global.toNat = true
  all : qs.length = (homesIn device bs).length

/-- The check of the command finds such lists in order. -/
theorem ExpertsFit.check {device : BitVec 16} {bs : List PByte} {qs others : List HomeQueue}
    (fit : ExpertsFit device bs qs others) :
    ((numbersOf 8 bs).any (fun v => decide (2 ^ 32 ≤ v)) || repeats (((numbersOf 8 bs).map expertOf).map (·.global.toNat))
      || repeats (qs.map (·.queue)) || repeats (qs.map (·.global.toNat))
      || others.any (fun o => qs.any fun q => q.queue == o.queue || q.global == o.global)
      || qs.any (fun q => !(homesIn device bs).contains q.global.toNat) || qs.length != (homesIn device bs).length) = false := by
  obtain ⟨hshort, hexperts, hqueues, hglobals, hapart, hhome, hall⟩ := fit
  have hwords : (numbersOf 8 bs).any (fun v => decide (2 ^ 32 ≤ v)) = false :=
    List.any_eq_false.2 fun v hv => by simpa using hshort v hv
  have hdistinct : others.any (fun o => qs.any fun q => q.queue == o.queue || q.global == o.global) = false :=
    List.any_eq_false.2 fun o ho => ne_true_of_eq_false (List.any_eq_false.2 fun q hq => by simpa using hapart o ho q hq)
  have hhomes : qs.any (fun q => !(homesIn device bs).contains q.global.toNat) = false :=
    List.any_eq_false.2 fun q hq => ne_true_of_eq_false (congrArg not (hhome q hq))
  simp only [hwords, hexperts, hqueues, hglobals, hdistinct, hhomes, hall, bne_self_eq_false, Bool.or_self]

theorem exec_expertTableSet {bs : List PByte} {d : Dev} (hold : j.holding? = some h) (ready : s.dev.jobReady n 0x0060 j)
    (hblk : j.block ⟨7, 8, 0⟩ blk = .ok b) (hgood : expertsBad b.fixed b.list1 = false)
    (list : s.dev.listReady h (wd b.fixed 5) (8 * wd b.fixed 1) bs d)
    (fit : ExpertsFit s.dev.number bs (b.list1.map (homeQueueOf (wd b.fixed 0)))
      ((s.dev.holding h).ahead.queues.filter fun q => q.layer != wd b.fixed 0))
    (hroom : (allHoldings.map fun k =>
      if k = h then ((s.dev.holding h).ahead.queues.filter fun q => q.layer != wd b.fixed 0).length
        + (b.list1.map (homeQueueOf (wd b.fixed 0))).length
      else (s.dev.holding k).ahead.queues.length).sum ≤ 4096)
    (hallowed : ∀ q ∈ b.list1.map (homeQueueOf (wd b.fixed 0)),
      s.dev.queueDenied h (wd b.fixed 3 * 32) (wd b.fixed 6) q = false) :
    ∃ t, exec (.expertTableSet n blk) s = .next t ∧ t.pending = s.pending
      ∧ d.tableAccepted t.dev h j [.experts (wd b.fixed 0) (layerOf b.fixed bs)
          (b.list1.map (homeQueueOf (wd b.fixed 0))) (wd b.fixed 6)] := by
  have hdenied : (b.list1.map (homeQueueOf (wd b.fixed 0))).any (s.dev.queueDenied h (wd b.fixed 3 * 32) (wd b.fixed 6)) = false :=
    List.any_eq_false.2 fun q hq => ne_true_of_eq_false (hallowed q hq)
  have hcheck := fit.check
  simp only [homesIn] at hcheck
  refine exec_accepts_of_list ready list (i := .expertTableSet n blk) rfl ?_
  unfold Dev.expertTableSet
  rw [Dev.runBlock_of_jobReady ready rfl hold hblk]
  simp only [hgood, Dev.withList_of_listReady list, hcheck, Nat.not_lt.2 hroom, hdenied, Bool.false_eq_true, if_false]
  rfl

theorem exec_capacitySet {bs : List PByte} {d : Dev} (hold : j.holding? = some h) (ready : s.dev.jobReady n 0x0061 j)
    (hsome : j.param 24 12 ≠ 0) (hmost : j.param 24 12 ≤ 4096)
    (list : s.dev.listReady h (j.param 76 25) (4 * j.param 24 12) bs d)
    (hfits : ∀ e ∈ (numbersOf 4 bs).zip (List.range (j.param 24 12)), ∃ q,
      ((s.dev.holding h).ahead.queues.find? fun q => q.queue == j.param 11 0 + e.2) = some q
        ∧ e.1 % 65536 ≤ q.queueRows ∧ e.1 / 65536 ≤ q.spillRows) :
    ∃ t, exec (.capacitySet n) s = .next t ∧ t.pending = s.pending
      ∧ d.tableAccepted t.dev h j (((numbersOf 4 bs).zip (List.range (j.param 24 12))).map fun e =>
          .capacity (j.param 11 0 + e.2) (e.1 % 65536) (e.1 / 65536)) := by
  have hgood : (((numbersOf 4 bs).zip (List.range (j.param 24 12))).all fun e =>
      (((s.dev.holding h).ahead.queues.find? fun q => q.queue == j.param 11 0 + e.2).any fun q =>
        decide (e.1 % 65536 ≤ q.queueRows) && decide (e.1 / 65536 ≤ q.spillRows))) = true := by
    refine List.all_eq_true.2 fun e he => ?_
    obtain ⟨q, hq, hrows, hspill⟩ := hfits e he
    simp [hq, hrows, hspill]
  refine exec_accepts_of_list ready list (i := .capacitySet n) rfl ?_
  unfold Dev.capacitySet
  rw [Dev.runHolding_of_jobReady ready rfl hold]
  simp only [hsome, Nat.not_lt.2 hmost, Dev.withList_of_listReady list, hgood, decide_false, Bool.not_true, Bool.or_self,
    Bool.false_eq_true, if_false]

/-! ### The update table (R361) -/

/-- The write that UPDATE_TABLE_SET forms. -/
def updateWrite (b : Block) : TableWrite :=
  .update (if wd b.fixed 0 = 0 then none else some (wd b.fixed 0))
    (b.list1.map fun r => (wd r 0, if wd r 1 == 1 then some (entryOf r) else none)) (b.list2.map fun r => (wd r 0, hyperOf r))

theorem exec_updateTableSet (hold : j.holding? = some h) (ready : s.dev.jobReady n 0x0063 j)
    (hblk : j.block ⟨1, 22, 8⟩ blk = .ok b) (hnorm : wd b.fixed 0 < 2 ^ 52)
    (hrecords : ∀ r ∈ b.list1, updateBad (s.dev.holding h).ahead r = false)
    (hapart : entriesOverlap ((s.dev.holding h).ahead.applyWrite (updateWrite b)).entries = false)
    (hhypers : ∀ r ∈ b.list2, wd r 0 ≤ 63 ∧ words32 r [1, 2, 3, 4, 5, 6, 7] = true)
    (hallowed : ∀ e ∈ b.list1.map fun r => (wd r 0, if wd r 1 == 1 then some (entryOf r) else none),
      ∀ v, e.2 = some v → s.dev.entryDenied h v = false)
    (hmapped : wd b.fixed 0 ≠ 0 → s.dev.mapped h (wd b.fixed 0) 8192 true = true) :
    ∃ t, exec (.updateTableSet n blk) s = .next t ∧ t.pending = s.pending
      ∧ s.dev.tableAccepted t.dev h j [updateWrite b] ∧ t.dev.mem = s.dev.mem := by
  have hentries : b.list1.any (updateBad (s.dev.holding h).ahead) = false :=
    List.any_eq_false.2 fun r hr => ne_true_of_eq_false (hrecords r hr)
  have hwords : (b.list2.any fun r => decide (63 < wd r 0) || !words32 r [1, 2, 3, 4, 5, 6, 7]) = false := by
    refine List.any_eq_false.2 fun r hr => ?_
    obtain ⟨hnumber, hshort⟩ := hhypers r hr
    simp [hshort, Nat.not_lt.2 hnumber]
  have hspans : ((b.list1.map fun r => (wd r 0, if wd r 1 == 1 then some (entryOf r) else none)).any fun e =>
      e.2.any (s.dev.entryDenied h)) = false := by
    refine List.any_eq_false.2 fun e he => ?_
    cases hv : e.2 with
    | none => simp
    | some v => simp [hallowed e he v hv]
  have harea : (wd b.fixed 0 != 0 && !s.dev.mapped h (wd b.fixed 0) 8192 true) = false := by
    by_cases hzero : wd b.fixed 0 = 0
    · simp [hzero]
    · simp [hmapped hzero]
  refine exec_accepts ready (i := .updateTableSet n blk) rfl rfl ?_
  unfold Dev.updateTableSet
  rw [Dev.runBlock_of_jobReady ready rfl hold hblk]
  simp only [updateWrite] at hapart
  simp only [Nat.not_le.2 hnorm, hentries, hapart, hwords, hspans, harea, decide_false, Bool.or_self, Bool.false_eq_true,
    if_false]
  rfl

/-! ### The digest policy (R398) -/

/-- The digest policy of a command, from its words and the bytes of its list. -/
def digestPolicyOf (w : List Nat) (bs : List PByte) : DigestPolicy :=
  { group := wd w 0, every := wd w 1, window := wd w 2, reportOnly := wd w 3 == 1
    ranges := (cutWords 2 (wd w 4) (numbersOf 8 bs)).map digestRange }

theorem exec_digestPolicySet {bs : List PByte} {d : Dev} (hold : j.holding? = some h) (ready : s.dev.jobReady n 0x00D0 j)
    (hblk : j.block ⟨6, 0, 0⟩ blk = .ok b) (hgroup : wd b.fixed 0 ≤ 255)
    (hvoters : (Tab.get none (s.dev.holding h).collectives (wd b.fixed 0)).isSome = true) (hevery : wd b.fixed 1 ≤ 65535)
    (hwindow : wd b.fixed 2 ≠ 0) (hticks : wd b.fixed 2 < 2 ^ 32) (hflag : wd b.fixed 3 ≤ 1) (hcount : wd b.fixed 4 ≤ 256)
    (hlist : wd b.fixed 5 < 2 ^ 52) (list : s.dev.listReady h (wd b.fixed 5) (16 * wd b.fixed 4) bs d)
    (hranges : ∀ r ∈ (cutWords 2 (wd b.fixed 4) (numbersOf 8 bs)).map digestRange,
      r.2.2 % 4096 = 0 ∧ r.2.2 < 2 ^ 52 ∧ s.dev.mapped h r.2.2 (4096 * r.2.1) false = true) :
    ∃ t, exec (.digestPolicySet n blk) s = .next t ∧ t.pending = s.pending
      ∧ d.tableAccepted t.dev h j [.digest (digestPolicyOf b.fixed bs)] := by
  have hwords : (decide (255 < wd b.fixed 0) || (Tab.get none (s.dev.holding h).collectives (wd b.fixed 0)).isNone
      || decide (65535 < wd b.fixed 1) || wd b.fixed 2 == 0 || !words32 b.fixed [2] || decide (1 < wd b.fixed 3)
      || decide (256 < wd b.fixed 4) || !addresses b.fixed [5]) = false := by
    have hshort : words32 b.fixed [2] = true := by simpa [words32] using hticks
    have haddress : addresses b.fixed [5] = true := by simpa [addresses] using hlist
    simp [hshort, haddress, hgroup, hevery, hwindow, hflag, hcount, hvoters]
  have haligned : (((cutWords 2 (wd b.fixed 4) (numbersOf 8 bs)).map digestRange).any fun r =>
      r.2.2 % 4096 != 0 || decide (2 ^ 52 ≤ r.2.2)) = false := by
    refine List.any_eq_false.2 fun r hr => ?_
    obtain ⟨halign, hbelow, -⟩ := hranges r hr
    simpa [halign] using hbelow
  have hspans : (((cutWords 2 (wd b.fixed 4) (numbersOf 8 bs)).map digestRange).any fun r =>
      !s.dev.mapped h r.2.2 (4096 * r.2.1) false) = false := by
    refine List.any_eq_false.2 fun r hr => ?_
    obtain ⟨-, -, hmapped⟩ := hranges r hr
    simp [hmapped]
  refine exec_accepts_of_list ready list (i := .digestPolicySet n blk) rfl ?_
  unfold Dev.digestPolicySet
  rw [Dev.runBlock_of_jobReady ready rfl hold hblk]
  simp only [hwords, Dev.withList_of_listReady list, haligned, hspans, Bool.false_eq_true, if_false]
  rfl

end Commands

end Sys2Proof.Machine

/-! The placing of stages (R190 to R194) and the boundary at which any tables wait (R447). -/

namespace Sys2Proof.Machine

/-! ### What the placing of stages leaves alone -/

section Placing
variable (s : Dev) (h : HoldId)

@[simp] theorem Dev.readOutChunk_standing (a : Agent) (va n : Nat) :
    (s.readOutChunk a va n).2.standing = s.standing := by
  unfold Dev.readOutChunk
  dsimp only
  split
  · simp
  · exact (Dev.freeBytes_standing _ n).trans (s.xlate_standing ..)
  · simp

@[simp] theorem Dev.readOut_standing (a : Agent) (va n : Nat) : (s.readOut a va n).2.standing = s.standing := by
  unfold Dev.readOut
  generalize chunks va n = l
  induction l generalizing s with
  | nil => rfl
  | cons p l ih => exact (ih _).trans (s.readOutChunk_standing ..)

theorem Dev.modCore_program (c : CoreId) (f : Core → Core) (h : HoldId) : (s.modCore c f).program h = s.program h := rfl

theorem Dev.loadHome_program (k : HoldId) (c : CoreId) (d : StageDef) : (s.loadHome k c d).program h = s.program h :=
  foldl_preserves (fun t : Dev => t.program h)
    (fun t _ => (Dev.modCore_program ..).trans (Dev.program_of_standing (t.readOut_standing ..) h)) s _

theorem Dev.bringHome_program (c : CoreId) (d : StageDef) : (s.bringHome h c d).program h = s.program h := by
  unfold Dev.bringHome
  extract_lets a late
  refine (Dev.modHolding_program _ h rfl).trans ?_
  split
  · rfl
  · exact s.loadHome_program h h c d

theorem Dev.countSquash_standing (o : Option HoldId) (c : CoreId) (bytes bad : Nat) :
    (s.countSquash o c bytes bad).standing = s.standing := by
  unfold Dev.countSquash
  dsimp only
  split_ifs <;> simp

theorem Dev.squash_program (o : Option HoldId) (c : CoreId) (drop : PfSector → Bool) :
    (s.squash o c drop).program h = s.program h := by
  unfold Dev.squash
  dsimp only
  split
  · rfl
  · exact Dev.program_of_standing (Dev.countSquash_standing (s.modCore c _) o c _ _) h

theorem Dev.leaveStage_program (k : HoldId) (o : Stage) : (s.leaveStage k o).program h = s.program h := by
  unfold Dev.leaveStage
  split
  · rfl
  · exact (Dev.modCore_program ..).trans (s.squash_program h ..)

theorem Dev.bindQueues_program (k : HoldId) : (s.bindQueues k).program h = s.program h := by
  refine foldl_preserves (fun t : Dev => t.program h) (fun t n => ?_) s _
  exact Dev.program_congr rfl rfl h

theorem Gotre.post_jobs (g : Gotre) (e : Completion) : (g.post e).jobs = g.jobs := by
  unfold Gotre.post
  split <;> rfl

theorem Dev.stageParked_program (k : HoldId) (stage : Nat) : (s.stageParked k stage).program h = s.program h := by
  refine Dev.program_congr (s := s) (t := s.stageParked k stage) ?_ rfl h
  exact (Gotre.post_jobs ..).trans (Gotre.post_jobs ..)

/-- A new table changes stages, queues and cores. -/
theorem Dev.placeStages_program (ds : List StageDef) (rows : List (Nat × List Nat)) :
    (s.placeStages h ds rows).program h = s.program h := by
  unfold Dev.placeStages
  extract_lets x gs s0 s1
  have h0 : s0.program h = s.program h :=
    foldl_preserves (fun t : Dev => t.program h) (fun t o => t.leaveStage_program h h o) s _
  have h1 : s1.program h = s0.program h := (Dev.bindQueues_program _ h h).trans (s0.modHolding_program h rfl)
  refine (foldl_preserves (fun t : Dev => t.program h) (fun t g => ?_) s1 gs).trans (h1.trans h0)
  split
  · exact t.stageParked_program h h _
  · split
    · rfl
    · exact t.bringHome_program h _ g.dfn

theorem Dev.replaceStages_program (o : Option (List StageDef × List (Nat × List Nat))) :
    (s.replaceStages h o).program h = s.program h := by
  cases o with
  | none => rfl
  | some p => exact s.placeStages_program h p.1 p.2

end Placing

/-! ### What waiting writes leave alone (R447) -/

/-- What no table write changes of a holding, and a boundary keeps or begins anew. -/
def Holding.course (x : Holding) : Word32 × List Counter × List CoreGroup × List ReduceRec :=
  (x.step, x.counters, x.groups, x.reduces)

theorem Holding.applyWrite_course (x : Holding) (w : TableWrite) : (x.applyWrite w).course = x.course := by
  cases w with
  | dead g is =>
    dsimp only [Holding.applyWrite]
    split <;> rfl
  | _ => rfl

theorem Holding.ahead_course (x : Holding) : x.ahead.course = x.course :=
  foldl_preserves Holding.course Holding.applyWrite_course x x.waiting

theorem Holding.body_mapEntries (x : Holding) (f : Nat × Option UpdateEntry → Nat × Option UpdateEntry) :
    (x.mapEntries f).body = x.body.mapEntries f := rfl

/-! ### A boundary that keeps the step's number -/

/-- Without batches no partner's loss cancels any (R290). -/
theorem Dev.drillLost_of_none {s : Dev} {h : HoldId} (hnone : (s.holding h).batches = []) (dev : BitVec 16)
    (owner : Option HoldId) : s.drillLost h dev owner = s := by
  simp [Dev.drillLost, hnone]

/-- What a boundary gives a holding that loads a program, whatever tables wait. -/
theorem Dev.boundary_program {s : Dev} {h : HoldId} (hclean : (s.holding h).poisonUsed = false) :
    ∃ (y : Holding) (lost : List Nat) (f : _), y.body = (s.holding h).body
      ∧ (s.boundary h false).gotre.jobs = s.gotre.jobs
      ∧ ((s.boundary h false).holding h).body = (y.ahead.opens false lost).body.mapEntries f := by
  obtain ⟨y, lost, hbody, hopens, hjobs⟩ := s.closed_enterTables h false
  generalize htables : (s.closeStep h false).enterTables h false = t at hopens hjobs
  have hbatches : (t.holding h).batches = [] := by
    rw [hopens]
    exact List.filter_false _
  have hlost : ((s.closeStep h false).holding h).expelled.foldl (fun d m => d.drillLost h m none) t = t :=
    List.foldl_fixed' (fun m => Dev.drillLost_of_none hbatches m none) _
  have hboundary : s.boundary h false
      = (t.replaceStages h ((s.closeStep h false).holding h).nextStages).openBooks h := by
    rw [Dev.boundary_of_clean s h false hclean]
    simp only [Dev.openTables, htables, hlost, Bool.false_eq_true, if_false]
  rw [hboundary]
  generalize hplaced : t.replaceStages h ((s.closeStep h false).holding h).nextStages = u
  have hprogram : u.program h = t.program h := hplaced ▸ t.replaceStages_program h _
  obtain ⟨f, hbooks⟩ := u.openBooks_running h
  refine ⟨y, lost, f, hbody, ?_, ?_⟩
  · exact (congrArg Prod.fst hbooks :).trans ((congrArg Prod.fst hprogram :).trans hjobs)
  · have hbody : (u.holding h).body = (y.ahead.opens false lost).body := hopens ▸ congrArg Prod.snd hprogram
    have hopened : ((u.openBooks h).holding h).body = ((u.holding h).mapEntries f).body :=
      Holding.body_of_kernel (congrArg Prod.snd hbooks)
    rw [hopened, Holding.body_mapEntries, hbody]

end Sys2Proof.Machine

/-! PROGRAM_LOAD (R110, R166, R180, R197, R431, R447). -/

namespace Sys2Proof.Machine

/-! ### What a program loads -/

/-- Placing counters takes free values alone. -/
theorem Dev.placeCounters_frame (s : Dev) (dies : List Nat) (use : Nat → Nat) (want : List (Nat × Nat × Nat)) :
    ∃ f, (s.placeCounters dies use want).2 = { s with free := f } := by
  induction want generalizing s use with
  | nil => exact ⟨s.free, rfl⟩
  | cons w rest ih =>
    obtain ⟨num, limit, rg⟩ := w
    unfold Dev.placeCounters
    dsimp only
    split
    · exact ih s.takeFree.2 _
    · exact ⟨s.free + 1, rfl⟩

theorem Dev.loadRecord_frame (s : Dev) (r : List Nat) :
    ((s.loadAreas [r]).holdings, (s.loadAreas [r]).gotre) = (s.holdings, s.gotre) := by
  refine foldl_preserves (fun e : Dev => (e.holdings, e.gotre)) (fun e p => ?_) s _
  rfl

theorem Dev.loadAreas_frame (s : Dev) (rs : List (List Nat)) :
    (s.loadAreas rs).holdings = s.holdings ∧ (s.loadAreas rs).gotre = s.gotre := by
  have hkept : ((s.loadAreas rs).holdings, (s.loadAreas rs).gotre) = (s.holdings, s.gotre) :=
    foldl_preserves (fun d : Dev => (d.holdings, d.gotre)) (fun d r => d.loadRecord_frame r) s rs
  exact Prod.mk.inj hkept

/-- The counters that a program asks for, and the groups that it forms. -/
def Block.tallies (b : Block) : List (Nat × Nat × Nat) :=
  (b.list2.filter fun r => wd r 0 == 0).map fun r => (wd r 1, wd r 2, wd r 3)
def Block.coreGroups (b : Block) : List CoreGroup :=
  (b.list2.filter fun r => wd r 0 != 0).map fun r =>
    { number := wd r 1, ring := wd r 0 == 2, cores := (memberBytes r).take (wd r 2) }

/-- A holding as a program has loaded: its update tables and its digest policy are gone. -/
def Holding.loads (x : Holding) (b : Block) (ks : List Counter) : Holding :=
  { x with
    entries := [], hypers := [], digest := {}, counters := ks, groups := b.coreGroups
    queues := x.queues.map fun q => { q with capacity := q.queueRows, spillCapacity := 0 }
    step := BitVec.ofNat 32 (wd b.fixed 0) }

/-- A core as a program loads: no transfer is under way, and it stands within the groups. -/
def Dev.clearCore (s : Dev) (c : CoreId) : Dev :=
  ((s.core c).inbox.foldl Dev.releaseRetained s).modCore c fun y =>
    { y with sent := [], received := [], inbox := [], outside := false }

theorem Dev.clearCore_frame (s : Dev) (c : CoreId) :
    (s.clearCore c).holdings = s.holdings ∧ (s.clearCore c).gotre = s.gotre := by
  have hkept : ∀ d : Dev, ∀ t, ((d.releaseRetained t).holdings, (d.releaseRetained t).gotre) = (d.holdings, d.gotre) := by
    intro d t
    obtain ⟨x, hframe⟩ := d.releaseRetained_frame t
    rw [hframe]
  exact Prod.mk.inj (foldl_preserves (fun d : Dev => (d.holdings, d.gotre)) hkept s (s.core c).inbox)

/-- A device as the program of a holding has loaded, before its boundary. -/
def Dev.loaded (s : Dev) (h : HoldId) (cores : List CoreId) (b : Block) (ks : List Counter) : Dev :=
  cores.foldl Dev.clearCore ((s.modHolding h fun y => y.loads b ks).loadAreas b.list1)

theorem Dev.loaded_frame (s : Dev) (h : HoldId) (cores : List CoreId) (b : Block) (ks : List Counter) :
    (s.loaded h cores b ks).holding h = (s.holding h).loads b ks ∧ (s.loaded h cores b ks).gotre = s.gotre := by
  obtain ⟨hholdings, hgotre⟩ := (s.modHolding h fun y => y.loads b ks).loadAreas_frame b.list1
  have hcores : ∀ d : Dev, (cores.foldl Dev.clearCore d).holdings = d.holdings ∧ (cores.foldl Dev.clearCore d).gotre = d.gotre :=
    fun d => ⟨foldl_preserves Dev.holdings (fun e c => (e.clearCore_frame c).1) d cores,
      foldl_preserves Dev.gotre (fun e c => (e.clearCore_frame c).2) d cores⟩
  refine ⟨?_, (hcores _).2.trans hgotre⟩
  rw [Dev.loaded, Dev.holding_congr ((hcores _).1.trans hholdings), Dev.holding_modHolding, if_pos rfl]

/-! ### The end of its job (R426) -/

/-- A command that ends leaves no job of its number that goes on. -/
theorem Dev.finishJob_ends (d : Dev) (n : Nat) (st : Status) (result : BitVec 128) {k : Job}
    (hk : (d.finishJob n st result).job n = some k) : k.phase = .done := by
  unfold Dev.finishJob at hk
  cases hjob : d.job n with
  | none => simp [hjob] at hk
  | some j =>
    simp only [hjob] at hk
    split_ifs at hk with hdone hdiscard
    · rw [hjob] at hk
      exact Option.some.inj hk ▸ hdone
    · have hfound : k.number = n := by simpa using List.find?_some hk
      have hkept : k.number ≠ n := by simpa using List.of_mem_filter (List.mem_of_find?_eq_some hk)
      exact absurd hfound hkept
    · exact Gotre.setPhase_find? hk

/-- A command that its function has not given up is answered as it ends. -/
theorem Dev.finishJob_answers {d : Dev} {n : Nat} {j : Job} (hjob : d.job n = some j) (hnum : j.number = n)
    (hphase : j.phase = .accepted) (hdiscard : j.discard = false) (st : Status) (result : BitVec 128) :
    (d.finishJob n st result).answered j st result := by
  refine ⟨?_, fun k hk => d.finishJob_ends n st result (hnum ▸ hk)⟩
  simp [Dev.finishJob, hjob, hphase, hdiscard]

theorem Dev.finishJob_holdings (d : Dev) (n : Nat) (st : Status) (result : BitVec 128) :
    (d.finishJob n st result).holdings = d.holdings := by
  unfold Dev.finishJob
  split
  · split_ifs <;> rfl
  · rfl

/-- What Gotre's next state takes from a command that has passed the turn on. -/
theorem Dev.lifeScope_passTurn (s d : Dev) (j : Job) :
    (s.lifeScope (d.passTurn j)).gotre.jobs = d.gotre.jobs
      ∧ (s.lifeScope (d.passTurn j)).gotre.waiting = d.gotre.waiting
      ∧ (s.lifeScope (d.passTurn j)).holdings = d.holdings := by
  obtain ⟨f, hturn⟩ := d.passTurn_frame j
  rw [hturn]
  exact ⟨(congrArg Gotre.jobs (Dev.lifeScope_gotre s _) :), (congrArg Gotre.waiting (Dev.lifeScope_gotre s _) :),
    Dev.lifeScope_holdings ..⟩

theorem Dev.answered_congr {s t : Dev} {j : Job} {st : Status} {result : BitVec 128} (hjobs : t.gotre.jobs = s.gotre.jobs)
    (hwaiting : t.gotre.waiting = s.gotre.waiting) (hs : s.answered j st result) : t.answered j st result := by
  obtain ⟨hposted, hdone⟩ := hs
  refine ⟨hwaiting ▸ hposted, fun k hk => hdone k ?_⟩
  rwa [Dev.job, hjobs] at hk

/-! ### What a program finds at its boundary -/

/-- The opening of a step keeps its number, the groups and the hyperparameters. -/
theorem Holding.opens_keeps {w z : Holding} {lost : List Nat} {f : Nat × Option UpdateEntry → Nat × Option UpdateEntry}
    (hz : z.body = (w.opens false lost).body.mapEntries f) :
    z.step = w.step ∧ z.groups = w.groups ∧ z.hypers = w.hypers := by
  have hkept := congrArg (fun p : Holding => (p.step, p.groups, p.hypers)) hz
  simpa only [Holding.body, Holding.kernel, Holding.mapEntries, Holding.opens, Holding.openStep, Prod.mk.injEq] using hkept

/-- A holding that has loaded a program and opened its step. -/
theorem Holding.loads_fields {x y z : Holding} {b : Block} {ks : List Counter} {lost : List Nat}
    {f : Nat × Option UpdateEntry → Nat × Option UpdateEntry} (hy : y.body = (x.loads b ks).body)
    (hz : z.body = (y.ahead.opens false lost).body.mapEntries f) :
    z.step = BitVec.ofNat 32 (wd b.fixed 0) ∧ z.counters = ks.map Counter.clear ∧ z.groups = b.coreGroups ∧ z.events = []
      ∧ z.batches = [] ∧ z.reduces = (x.reduces.filter fun q => q.ahead != 0).map (fun q => { q with ahead := q.ahead - 1 })
      ∧ (x.waiting = [] → z.entries = [] ∧ z.hypers = []) := by
  have hcourse := y.ahead_course
  generalize hw : y.ahead = w at hcourse hz
  obtain ⟨hzstep, hzgroups, hzhypers⟩ := Holding.opens_keeps hz
  have hstep : w.step = y.step := (congrArg (·.1) hcourse :)
  have hcounters : w.counters = y.counters := (congrArg (·.2.1) hcourse :)
  have hgroups : w.groups = y.groups := (congrArg (·.2.2.1) hcourse :)
  have hreduces : w.reduces = y.reduces := (congrArg (·.2.2.2) hcourse :)
  have hzcounters : z.counters = w.counters.map Counter.clear := (congrArg Holding.counters hz :)
  have hzreduces : z.reduces = (w.reduces.filter fun q => q.ahead != 0).map fun q => { q with ahead := q.ahead - 1 } :=
    (congrArg Holding.reduces hz :)
  have hzbatches : z.batches = w.batches.filter fun _ => false := (congrArg Holding.batches hz :)
  have hloaded : y.step = BitVec.ofNat 32 (wd b.fixed 0) := (congrArg Holding.step hy :)
  have hplaced : y.counters = ks := (congrArg Holding.counters hy :)
  have hformed : y.groups = b.coreGroups := (congrArg Holding.groups hy :)
  have hrunning : y.reduces = x.reduces := (congrArg Holding.reduces hy :)
  refine ⟨hzstep.trans (hstep.trans hloaded), ?_, hzgroups.trans (hgroups.trans hformed), (congrArg Holding.events hz :),
    hzbatches.trans (List.filter_false _), ?_, fun hnone => ?_⟩
  · rw [hzcounters, hcounters, hplaced]
  · rw [hzreduces, hreduces, hrunning]
  · have hwaiting : y.waiting = [] := (congrArg Holding.waiting hy :).trans hnone
    have hahead : w = y := by simp [← hw, Holding.ahead, hwaiting]
    have hentries : y.entries = [] := (congrArg Holding.entries hy :)
    have hhypers : y.hypers = [] := (congrArg Holding.hypers hy :)
    rw [hahead] at hz
    have hzentries : z.entries = y.entries.map f := (congrArg Holding.entries hz :)
    exact ⟨hzentries.trans (congrArg (List.map f) hentries), hzhypers.trans ((congrArg Holding.hypers hahead).trans hhypers)⟩

/-! ### The command -/

/-- The queues of a holding have recorded what they have accepted. -/
def Dev.idleQueues (s : Dev) (h : HoldId) : Prop := ∀ q ∈ s.queuesOf h, (s.queue q).accepted = (s.queue q).recorded

theorem Dev.idleQueues_check {s : Dev} {h : HoldId} (hidle : s.idleQueues h) :
    ((s.queuesOf h).any fun q => (s.queue q).accepted != (s.queue q).recorded) = false :=
  List.any_eq_false.2 fun q hq => by simpa using hidle q hq

/-- The dies on which a holding's counters may stand. -/
def Dev.tallyDies (s : Dev) (h : HoldId) : List Nat :=
  (dedup ((s.holding h).cores.map (· / 8))).filter fun k => !(s.die k).fenced

section
variable {s : State} {n : Nat} {j : Job} {h : HoldId} {blk : BlockRead} {b : Block}
  (hold : j.holding? = some h) (ready : s.dev.jobReady n 0x0040 j) (hblk : j.block ⟨1, 5, 8⟩ blk = .ok b)
include hold ready hblk

/-- A program that is in order loads once its counters have found a place, and its boundary ends the command. -/
theorem Dev.programLoad_of_placed {ks : List Counter} {d : Dev} (hidle : s.dev.idleQueues h)
    (hgood : (s.dev.holding h).loadBad b = false)
    (hplace : s.dev.placeCounters (s.dev.tallyDies h) (s.dev.tallyUse h) b.tallies = (some ks, d)) :
    s.dev.programLoad n blk
      = (((d.loaded h (s.dev.holding h).coreIds b ks).boundary h false).finishJob n .ok 0).passTurn j := by
  simp only [Dev.tallyDies, Block.tallies] at hplace
  unfold Dev.programLoad
  rw [Dev.runBlock_of_jobReady ready rfl hold hblk]
  simp only [Dev.idleQueues_check hidle, hgood, hplace, Bool.false_eq_true, if_false]
  rfl

/-- Counters that find no place end the command (R197). -/
theorem Dev.programLoad_of_unplaced {d : Dev} (hidle : s.dev.idleQueues h) (hgood : (s.dev.holding h).loadBad b = false)
    (hplace : s.dev.placeCounters (s.dev.tallyDies h) (s.dev.tallyUse h) b.tallies = (none, d)) :
    s.dev.programLoad n blk = (d.finishJob n .noResource 0).passTurn j := by
  simp only [Dev.tallyDies, Block.tallies] at hplace
  unfold Dev.programLoad
  rw [Dev.runBlock_of_jobReady ready rfl hold hblk]
  simp only [Dev.idleQueues_check hidle, hgood, hplace, Bool.false_eq_true, if_false]

/-- So the command of a program that is in order ends in any case. -/
theorem exec_programLoad_ends (hidle : s.dev.idleQueues h) (hgood : (s.dev.holding h).loadBad b = false) :
    ∃ t, exec (.programLoad n blk) s = .next t ∧ t.pending = s.pending ∧ ∀ k, t.dev.job n = some k → k.phase = .done := by
  obtain ⟨d, st, hload⟩ : ∃ d st, s.dev.programLoad n blk = (Dev.finishJob d n st 0).passTurn j := by
    cases hplace : s.dev.placeCounters (s.dev.tallyDies h) (s.dev.tallyUse h) b.tallies with
    | mk ks d =>
      cases ks with
      | none => exact ⟨_, _, Dev.programLoad_of_unplaced hold ready hblk hidle hgood hplace⟩
      | some ks => exact ⟨_, _, Dev.programLoad_of_placed hold ready hblk hidle hgood hplace⟩
  obtain ⟨hjobs, -, -⟩ := s.dev.lifeScope_passTurn (d.finishJob n st 0) j
  rw [← hload] at hjobs
  refine ⟨_, rfl, rfl, fun k hk => d.finishJob_ends n st 0 (k := k) ?_⟩
  rw [Dev.job, ← hjobs]
  exact hk

theorem Dev.programLoad_of_busy (hbusy : ∃ q ∈ s.dev.queuesOf h, (s.dev.queue q).accepted ≠ (s.dev.queue q).recorded) :
    s.dev.programLoad n blk = (s.dev.finishJob n .wrongState 0).passTurn j := by
  obtain ⟨q, hq, hopen⟩ := hbusy
  have hany : ((s.dev.queuesOf h).any fun q => (s.dev.queue q).accepted != (s.dev.queue q).recorded) = true :=
    List.any_eq_true.2 ⟨q, hq, by simpa using hopen⟩
  unfold Dev.programLoad
  rw [Dev.runBlock_of_jobReady ready rfl hold hblk]
  simp only [hany, if_true]

theorem Dev.programLoad_of_bad (hidle : s.dev.idleQueues h) (hbad : (s.dev.holding h).loadBad b = true) :
    s.dev.programLoad n blk = (s.dev.finishJob n .badParameter 0).passTurn j := by
  unfold Dev.programLoad
  rw [Dev.runBlock_of_jobReady ready rfl hold hblk]
  simp only [Dev.idleQueues_check hidle, hbad, Bool.false_eq_true, if_false, if_true]

omit hold hblk in
/-- A program that is refused leaves every holding as it was. -/
theorem exec_programLoad_refused {st : Status} (hload : s.dev.programLoad n blk = (s.dev.finishJob n st 0).passTurn j) :
    ∃ t, exec (.programLoad n blk) s = .next t ∧ t.pending = s.pending ∧ t.dev.answered j st 0
      ∧ t.dev.holdings = s.dev.holdings := by
  obtain ⟨hanswer, -⟩ := Dev.lifeScope_finish ready rfl st 0
  obtain ⟨-, -, hholdings⟩ := s.dev.lifeScope_passTurn (s.dev.finishJob n st 0) j
  rw [← hload] at hanswer hholdings
  exact ⟨_, rfl, rfl, hanswer, hholdings.trans (Dev.finishJob_holdings ..)⟩

/-- A program that has loaded stands in the step that it names, with its counters and groups, and the step's state at its
start; the update table is what the waiting writes make of an empty one. -/
theorem exec_programLoad_placed {ks : List Counter} {d : Dev} (hidle : s.dev.idleQueues h)
    (hgood : (s.dev.holding h).loadBad b = false) (hclean : (s.dev.holding h).poisonUsed = false)
    (hplace : s.dev.placeCounters (s.dev.tallyDies h) (s.dev.tallyUse h) b.tallies = (some ks, d)) :
    ∃ t, exec (.programLoad n blk) s = .next t ∧ t.pending = s.pending ∧ t.dev.answered j .ok 0
      ∧ (t.dev.holding h).step = BitVec.ofNat 32 (wd b.fixed 0)
      ∧ (t.dev.holding h).counters = ks.map Counter.clear
      ∧ (t.dev.holding h).groups = b.coreGroups
      ∧ (t.dev.holding h).events = [] ∧ (t.dev.holding h).batches = []
      ∧ (t.dev.holding h).reduces = ((s.dev.holding h).reduces.filter fun q => q.ahead != 0).map
          (fun q => { q with ahead := q.ahead - 1 })
      ∧ ((s.dev.holding h).waiting = [] → (t.dev.holding h).entries = [] ∧ (t.dev.holding h).hypers = []) := by
  have ⟨hjob, hnum, _, hphase, hdiscard, _⟩ := ready
  obtain ⟨free, hfree⟩ := s.dev.placeCounters_frame (s.dev.tallyDies h) (s.dev.tallyUse h) b.tallies
  rw [hplace] at hfree
  change d = { s.dev with free := free } at hfree
  obtain ⟨hloaded, hgotre⟩ := d.loaded_frame h (s.dev.holding h).coreIds b ks
  have hload := Dev.programLoad_of_placed hold ready hblk hidle hgood hplace
  generalize d.loaded h (s.dev.holding h).coreIds b ks = e at hloaded hgotre hload
  have hfrom : (e.holding h) = (s.dev.holding h).loads b ks := hloaded.trans (by rw [hfree]; rfl)
  have hkept : e.gotre = s.dev.gotre := hgotre.trans (congrArg Dev.gotre hfree :)
  obtain ⟨y, lost, f, hbody, hjobs, hopens⟩ := Dev.boundary_program (s := e) (h := h) (by rw [hfrom]; exact hclean)
  rw [hfrom] at hbody
  have hstays : (e.boundary h false).job n = some j := by
    rw [Dev.job, hjobs, hkept]
    exact hjob
  obtain ⟨hendJobs, hendWaiting, hendHoldings⟩ := s.dev.lifeScope_passTurn ((e.boundary h false).finishJob n .ok 0) j
  rw [← hload] at hendJobs hendWaiting hendHoldings
  refine ⟨_, rfl, rfl, Dev.answered_congr hendJobs hendWaiting (Dev.finishJob_answers hstays hnum hphase hdiscard .ok 0), ?_⟩
  have hend := Dev.holding_congr (hendHoldings.trans (Dev.finishJob_holdings ..)) h
  exact Holding.loads_fields hbody ((congrArg Holding.body hend).trans hopens)

end

/-- Settles O48: accepted commands add their writes to those that wait; a program loads through the boundary. -/
theorem tableCommandsWaitForTheBoundary : Obligations.TableCommandsWaitForTheBoundary := by
  unfold Obligations.TableCommandsWaitForTheBoundary
  intro s n j h blk b hold x w
  refine ⟨fun ready hblk => ⟨fun hbusy => ?_, fun hidle hgood => ?_, fun hidle hbad => ?_,
    fun ks d hidle hgood hclean hplace => ?_⟩, ?_, ?_, ?_, ?_, ?_, ?_, ?_, ?_⟩
  · refine exec_programLoad_refused ready ?_
    exact Dev.programLoad_of_busy hold ready hblk hbusy
  · exact exec_programLoad_ends hold ready hblk hidle hgood
  · refine exec_programLoad_refused ready ?_
    exact Dev.programLoad_of_bad hold ready hblk hidle hbad
  · exact exec_programLoad_placed hold ready hblk hidle hgood hclean hplace
  · intro ready hblk gs rows hgood hmapped hrun
    exact exec_stageTableSet hold ready hblk hgood hmapped hrun
  · intro bs d ready group count ms hleast hmost list honce hself hroom
    exact exec_collectiveGroupCreate hold ready hleast hmost list honce hself hroom
  · intro k ready hblk hk hgood hanchor hallowed
    exact exec_reductionPolicySet hold ready hblk hk hgood hanchor hallowed
  · intro k bs d ready hblk hk hgood hanchor list as p hmembers hrising hallowed
    exact exec_reductionPolicySet_anchored hold ready hblk hk hgood hanchor list hmembers hrising hallowed
  · intro bs d ready hblk hgood list es qs others home hshort hexperts hqueues hglobals hapart hhome hall hroom hallowed
    exact exec_expertTableSet hold ready hblk hgood list ⟨hshort, hexperts, hqueues, hglobals, hapart, hhome, hall⟩ hroom hallowed
  · intro bs d ready first count es hsome hmost list hfits
    exact exec_capacitySet hold ready hsome hmost list hfits
  · intro ready hblk es ss u hnorm hrecords hapart hhypers hallowed hmapped
    exact exec_updateTableSet hold ready hblk hnorm hrecords hapart hhypers hallowed hmapped
  · intro bs d ready hblk hgroup hvoters hevery hwindow hticks hflag hcount hlist list rs hranges
    exact exec_digestPolicySet hold ready hblk hgroup hvoters hevery hwindow hticks hflag hcount hlist list hranges

end Sys2Proof.Machine

/-! The registers at reset (R242, R329, R331, R333, R492, R534, R557), and where commands stop (R219). -/

namespace Sys2Proof.Machine

/-- A key that a table does not list reads as its default. -/
theorem Tab.get_of_unlisted {α : Type} (d : α) {t : Tab α} {k : Nat} (h : ∀ p ∈ t, p.1 ≠ k) : Tab.get d t k = d := by
  induction t with
  | nil => rfl
  | cons p t ih =>
    rw [Tab.get, if_neg (h p List.mem_cons_self), ih fun q hq => h q (List.mem_cons_of_mem p hq)]

/-- Settles O60: each listed register by evaluation, every other one by the default of its table. -/
theorem resetLeavesTheRegistersAtTheirValues : Obligations.ResetLeavesTheRegistersAtTheirValues := by
  unfold Obligations.ResetLeavesTheRegistersAtTheirValues
  exact ⟨rfl, by decide, by decide, by decide, by decide, by decide, by decide, by decide,
    fun _ ha => Tab.get_of_unlisted 0 ha, fun _ => rfl⟩

/-! ### The two tiers (R219) -/

theorem memExists_iff (pa : Nat) :
    memExists pa = true ↔ pa < 0x18000000000 ∨ (0x20000000000 ≤ pa ∧ pa < 0x2C000000000) := by
  simp only [memExists, Bool.or_eq_true, Bool.and_eq_true, decide_eq_true_eq]
  exact Iff.rfl

theorem atAddress_of_exists {pa : Nat} (h : memExists pa = true) (s : State) (d : Dev) :
    atAddress pa s d = memWork s (s.dev.ctrlScope d) := if_pos h

theorem atAddress_of_absent {pa : Nat} (h : memExists pa ≠ true) (s : State) (d : Dev) :
    atAddress pa s d = .fault (.noSuchAddress pa) := if_neg h

/-- What a command at an address can answer: a next state, or the fault of an address of neither tier. -/
theorem atAddress_answers (pa : Nat) (s : State) (d : Dev) :
    (∃ t, atAddress pa s d = .next t) ∨ (atAddress pa s d = .fault (.noSuchAddress pa)
      ∧ ¬ (pa < 0x18000000000 ∨ (0x20000000000 ≤ pa ∧ pa < 0x2C000000000))) := by
  by_cases h : memExists pa = true
  · exact .inl ⟨_, atAddress_of_exists h s d⟩
  · exact .inr ⟨atAddress_of_absent h s d, fun hin => h ((memExists_iff pa).2 hin)⟩

/-- Settles O3: but for the four commands at an address, every arm of the dispatch answers a next state. -/
theorem onlyAbsentAddressesStop : Obligations.OnlyAbsentAddressesStop := by
  unfold Obligations.OnlyAbsentAddressesStop
  refine ⟨fun c s => ?_, fun s a habsent => ?_⟩
  · cases c with
    | memRead k w o cl wt ec p =>
      exact (atAddress_answers (k * 32) s _).imp id fun ⟨hstop, hout⟩ => ⟨_, hstop, hout, .inl ⟨k, w, o, cl, wt, ec, p, rfl, rfl⟩⟩
    | memWrite a o e cl d pd p =>
      exact (atAddress_answers a s _).imp id fun ⟨hstop, hout⟩ => ⟨_, hstop, hout, .inr (.inl ⟨o, e, cl, d, pd, p, rfl⟩)⟩
    | clearance b l o e k =>
      exact (atAddress_answers (b * 4096) s _).imp id fun ⟨hstop, hout⟩ =>
        ⟨_, hstop, hout, .inr (.inr (.inl ⟨b, l, o, e, k, rfl, rfl⟩))⟩
    | scrubBlock b ec n =>
      exact (atAddress_answers (b * 4096) s _).imp id fun ⟨hstop, hout⟩ =>
        ⟨_, hstop, hout, .inr (.inr (.inr ⟨b, ec, n, rfl, rfl⟩))⟩
    | _ => exact .inl ⟨_, rfl⟩
  · have hgone : memExists a ≠ true := fun h => by
      have htiers := (memExists_iff a).1 h
      omega
    exact ⟨fun _ _ _ _ _ _ => atAddress_of_absent hgone s _, fun _ _ _ _ _ _ _ hk => hk ▸ atAddress_of_absent (hk ▸ hgone) s _,
      fun _ _ _ _ _ hb => hb ▸ atAddress_of_absent (hb ▸ hgone) s _, fun _ _ _ hb => hb ▸ atAddress_of_absent (hb ▸ hgone) s _⟩

end Sys2Proof.Machine

/-! What serving a request can do (R225 to R236): it leaves the waiting requests and the parity counters alone, and keeps
memory in its canonical form. -/

namespace Sys2Proof.Machine

/-! ### The counters of the controllers (R242) -/

/-- Every block of a controller's registers begins at a multiple of 256. -/
theorem stackReg_mod (k : StackId) (off : Nat) : stackReg k off % 256 = off % 256 := by
  unfold stackReg regAt
  split <;> omega

theorem stackReg_ne (j k : StackId) {a b : Nat} (h : a % 256 ≠ b % 256) : stackReg j a ≠ stackReg k b := fun he =>
  h (by rw [← stackReg_mod j a, he, stackReg_mod])

/-! ### Devices between which requests have been served -/

/-- No request waits that did not, none has failed its parity or been issued again, and memory is still canonical. -/
structure Dev.Attends (s t : Dev) : Prop where
  waits : t.memWaits = s.memWaits
  reissues (k : StackId) : t.ctr (stackReg k 0x38) = s.ctr (stackReg k 0x38)
  failures (k : StackId) : t.ctr (stackReg k 0x40) = s.ctr (stackReg k 0x40)
  canonical : Memory.wf s.mem = true → Memory.wf t.mem = true

/-- The counters that serving a request touches: neither NMC_PARITY_REISSUE nor NMC_PARITY_FAIL of any stack (R242). -/
abbrev servedCounter (a : Nat) : Prop := a % 256 ≠ 0x38 ∧ a % 256 ≠ 0x40

theorem servedCounter_stackReg (k : StackId) {off : Nat} (h : servedCounter off) : servedCounter (stackReg k off) := by
  unfold servedCounter
  rwa [stackReg_mod]

theorem Dev.Attends.of_eq {s t : Dev} (hwaits : t.memWaits = s.memWaits) (hctrs : t.ctrs = s.ctrs) (hmem : t.mem = s.mem) :
    s.Attends t where
  waits := hwaits
  reissues _ := congrArg (Tab.get 0 · _) hctrs
  failures _ := congrArg (Tab.get 0 · _) hctrs
  canonical h := hmem ▸ h

theorem Dev.Attends.refl (s : Dev) : s.Attends s := .of_eq rfl rfl rfl

theorem Dev.Attends.trans {s t u : Dev} (hst : s.Attends t) (htu : t.Attends u) : s.Attends u where
  waits := htu.waits.trans hst.waits
  reissues k := (htu.reissues k).trans (hst.reissues k)
  failures k := (htu.failures k).trans (hst.failures k)
  canonical h := htu.canonical (hst.canonical h)

theorem Dev.Attends.foldl {α : Type} {f : Dev → α → Dev} (h : ∀ (d : Dev) x, d.Attends (f d x)) (s : Dev) (l : List α) :
    s.Attends (l.foldl f s) :=
  List.foldlRecOn l f (motive := s.Attends) (.refl s) fun d hd x _ => hd.trans (h d x)

section Attending
variable (s : Dev)

/-! ### Counters and errors (R223, R226, R231, R235) -/

theorem Dev.count_attends (h : Option HoldId) {a : Nat} (n : Nat) (ha : servedCounter a) : s.Attends (s.count h a n) where
  waits := rfl
  reissues k := by
    have hmod := stackReg_mod k 0x38
    rw [Dev.ctr_count, if_neg fun he => ha.1 (by rw [← he, hmod])]
  failures k := by
    have hmod := stackReg_mod k 0x40
    rw [Dev.ctr_count, if_neg fun he => ha.2 (by rw [← he, hmod])]
  canonical := id

theorem Dev.countMem_attends (k : StackId) (o : Owner) {off : Nat} (n : Nat) (hoff : servedCounter off) :
    s.Attends (s.countMem k o off n) := s.count_attends _ n (servedCounter_stackReg k hoff)

theorem Dev.countFree_attends (h : Option HoldId) {a : Nat} (ha : servedCounter a) : s.Attends (s.countFree h a) :=
  (s.count_attends h _ ha).trans (.of_eq rfl rfl rfl)

theorem Dev.event_attends (a : Nat) (x : Word32) : s.Attends (s.event a x) := .of_eq rfl rfl rfl
theorem Dev.setTag_attends (b : Nat) (t : Tag) : s.Attends (s.setTag b t) := .of_eq rfl rfl rfl
theorem Dev.emit_attends (e : Emit) : s.Attends (s.emit e) := .of_eq rfl rfl rfl
theorem Dev.modHolding_attends (h : HoldId) (f : Holding → Holding) : s.Attends (s.modHolding h f) := .of_eq rfl rfl rfl

theorem Dev.tagRead_attends (k : StackId) (o : Owner) : s.Attends (s.tagRead k o) :=
  s.countFree_attends _ (servedCounter_stackReg k (by decide))

theorem Dev.lcSlots_attends (k : StackId) (cls : MemClass) : s.Attends (s.lcSlots k cls) := by
  unfold Dev.lcSlots
  split
  · exact s.countFree_attends none (servedCounter_stackReg k (by decide))
  · exact .refl s

theorem Dev.offlineAccess_attends (k : StackId) (o : Owner) : s.Attends (s.offlineAccess k o) := by
  unfold Dev.offlineAccess
  split
  · exact .refl s
  · exact s.countMem_attends k o 1 (by decide)

theorem Dev.metPoison_attends (h : Option HoldId) (n : Nat) : s.Attends (s.metPoison h n) := by
  cases h <;> exact .of_eq rfl rfl rfl

theorem Dev.setMem_attends {m : List Host.Cell} (h : Memory.wf s.mem = true → Memory.wf m = true) :
    s.Attends { s with mem := m } where
  waits := rfl
  reissues _ := rfl
  failures _ := rfl
  canonical := h

theorem Dev.eccRead_attends (k : StackId) (o : Owner) (sec : Nat) (e : EccOutcome) : s.Attends (s.eccRead k o sec e) := by
  cases e with
  | clean => exact .refl s
  | corrected => exact s.countMem_attends k o 1 (by decide)
  | miscorrected x =>
    exact (s.setMem_attends (Laws.Tab.wf_setList 0 _ s.mem _)).trans (Dev.countMem_attends _ k o (off := 0x48) 1 (by decide))
  | uncorrectable => exact (s.countMem_attends k o (off := 0x50) 1 (by decide)).trans (.of_eq rfl rfl rfl)

theorem Dev.meetEcc_attends (k : StackId) (o : Owner) (sec : Nat) : s.Attends (s.meetEcc k o sec) := by
  unfold Dev.meetEcc
  split
  · exact .refl s
  · have hmet : s.Attends { s with ecc := Tab.set .clean s.ecc sec .clean } := .of_eq rfl rfl rfl
    exact hmet.trans (Dev.eccRead_attends ..)

theorem Dev.meetAll_attends (k : StackId) (o : Owner) (secs : List Nat) : s.Attends (s.meetAll k o secs) :=
  .foldl (fun d x => d.meetEcc_attends k o x) s secs

/-! ### Reads (R230, R231) -/

theorem Dev.readSector1_attends (sec : Nat) (o : Owner) : s.Attends (s.readSector1 sec o).2 := by
  have htag := s.tagRead_attends (s.place (sec * 32)).stack o
  unfold Dev.readSector1
  dsimp only
  split_ifs
  · exact s.offlineAccess_attends ..
  · exact (htag.trans (Dev.countMem_attends _ _ o (off := 0x68) 1 (by decide))).trans (Dev.event_attends ..)
  · exact htag
  · exact (htag.trans (Dev.countMem_attends _ _ o (off := 0x70) 1 (by decide))).trans (Dev.event_attends ..)
  · exact (htag.trans (Dev.meetEcc_attends ..)).trans (Dev.countMem_attends _ _ o 1 (by decide))

theorem Dev.readSector_attends (sec : Nat) (o : Owner) : s.Attends (s.readSector sec o).2 := by
  have hread := s.readSector1_attends sec o
  unfold Dev.readSector
  dsimp only
  split
  · exact hread.trans (Dev.metPoison_attends ..)
  · exact hread

theorem Dev.readSectors_attends (o : Owner) (secs : List Nat) : s.Attends (s.readSectors o secs).2 := by
  induction secs generalizing s with
  | nil => exact .refl s
  | cons x xs ih => exact (s.readSector_attends x o).trans (ih _)

theorem Dev.verdict_attends (b : Nat) (o : Owner) (data : List PByte) : s.Attends (s.verdict b o data).2 := by
  unfold Dev.verdict
  dsimp only
  split
  · have htag : s.Attends (s.setTag b { s.tag b with poison := true }) := .of_eq rfl rfl rfl
    exact (htag.trans (Dev.countMem_attends _ _ o (off := 0x60) 1 (by decide))).trans (Dev.event_attends ..)
  · exact .refl s

theorem Dev.readBlock_attends (b : Nat) (o : Owner) : s.Attends (s.readBlock b o).2.2 := by
  have hread := s.readSectors_attends o (blockSectors b)
  unfold Dev.readBlock
  generalize s.readSectors o (blockSectors b) = r at hread ⊢
  dsimp only
  split
  · exact (hread.trans (Dev.verdict_attends ..)).trans (Dev.metPoison_attends ..)
  · exact hread

/-! ### Writes (R217, R230, R231, R404) -/

theorem Dev.freshBlock_attends (b : Nat) (whole : Bool) : s.Attends (s.freshBlock b whole) where
  waits := by cases whole <;> rfl
  reissues _ := by cases whole <;> rfl
  failures _ := by cases whole <;> rfl
  canonical := s.freshBlock_mem_wf b whole

theorem Dev.putBytes_attends (pa : Nat) (data : List (Option PByte)) (e : BitVec 16) : s.Attends (s.putBytes pa data e) where
  waits := rfl
  reissues _ := rfl
  failures _ := rfl
  canonical := s.putBytes_mem_wf pa data e

theorem Dev.storeBlock_attends (pa : Nat) (data : List (Option PByte)) (o : Owner) (e : BitVec 16) (pending : Bool) :
    s.Attends (s.storeBlock pa data o e pending) := by
  unfold Dev.storeBlock
  extract_lets b k whole fresh s1 rmw s2 s3 s4 s5
  have h1 : s.Attends s1 := by
    unfold s1
    split
    · exact s.freshBlock_attends ..
    · exact .refl s
  have h2 : s.Attends s2 := h1.trans ((s1.meetAll_attends ..).trans (Dev.putBytes_attends ..))
  have h3 : s.Attends s3 := by
    unfold s3
    split
    · exact h2.trans (s2.setTag_attends ..)
    · exact h2
  have h4 : s.Attends s4 := h3.trans (s3.countMem_attends k o _ (by decide))
  have h5 : s.Attends s5 := by
    unfold s5
    split
    · exact h4
    · exact h4.trans (s4.countMem_attends k o _ (by decide))
  split
  · exact h5.trans (s5.countMem_attends k o _ (by decide))
  · exact h5

theorem Dev.writeBlock_attends (pa : Nat) (data : List (Option PByte)) (o : Owner) (e : BitVec 16) (pending : Bool) :
    s.Attends (s.writeBlock pa data o e pending) := by
  have htag := s.tagRead_attends (s.place pa).stack o
  unfold Dev.writeBlock
  dsimp only
  split_ifs
  · exact s.offlineAccess_attends ..
  · exact s.countMem_attends _ o 1 (by decide)
  · exact (htag.trans (Dev.countMem_attends _ _ o (off := 0x68) 1 (by decide))).trans (Dev.event_attends ..)
  · exact htag
  · exact htag.trans (Dev.storeBlock_attends ..)

theorem Dev.mirrorFirst_attends (b : Nat) : s.Attends (s.mirrorFirst b) := by
  refine .foldl (fun d h => ?_) s allHoldings
  dsimp only
  split
  · exact .refl d
  · split
    · exact .refl d
    · have hread := d.readBlock_attends b (.holding h)
      exact hread.trans ((Dev.modHolding_attends ..).trans (Dev.countFree_attends _ _ (a := regAt ctl 0x16028) (by decide)))

/-! ### Clearances, scrub, and any request (R225, R232, R236) -/

theorem Dev.clearTag_attends (b : Nat) (secs : List Nat) (kind : Clearance) : s.Attends (s.clearTag b secs kind) := by
  cases kind <;> exact .of_eq rfl rfl rfl

theorem Dev.scrubTag_attends (b : Nat) (k : StackId) : s.Attends (s.scrubTag b k) := by
  unfold Dev.scrubTag
  dsimp only
  split_ifs
  · exact .refl s
  · exact ((s.setTag_attends ..).trans (Dev.countMem_attends _ k .device (off := 0x60) 1 (by decide))).trans (Dev.event_attends ..)
  · exact s.setTag_attends ..
  · exact .refl s

theorem Dev.scrubRead_attends (b : Nat) : s.Attends (s.scrubRead b) := by
  unfold Dev.scrubRead
  dsimp only
  split
  · exact .refl s
  · exact (((s.tagRead_attends ..).trans (Dev.meetAll_attends ..)).trans (Dev.countMem_attends _ _ .device 128 (by decide))).trans
      (Dev.scrubTag_attends ..)

theorem Dev.perform_attends (r : MemReq) : s.Attends (s.perform r) := by
  have hslots := s.lcSlots_attends (s.place r.address).stack r.cls
  unfold Dev.perform
  cases r with
  | read sec whole o cls wait =>
    dsimp only
    split
    · exact (hslots.trans (Dev.readBlock_attends ..)).trans (Dev.emit_attends ..)
    · exact (hslots.trans (Dev.readSector_attends ..)).trans (Dev.emit_attends ..)
  | write pa o e cls data pending => exact (hslots.trans (Dev.mirrorFirst_attends ..)).trans (Dev.writeBlock_attends ..)
  | clear b secs o e kind =>
    dsimp only
    split
    · exact .refl s
    · exact (s.tagRead_attends ..).trans (Dev.clearTag_attends ..)
  | scrub b => exact s.scrubRead_attends b

end Attending

end Sys2Proof.Machine

/-! The controllers keep memory canonical (R219, R231), whatever waits, fails its parity or is lost. -/

namespace Sys2Proof.Machine

/-! ### Requests and their order (R228, R232, R238) -/

section Requests
variable (s : Dev)

@[simp] theorem Dev.noteFullPending_mem (r : MemReq) (why : WaitFor) : (s.noteFullPending r why).mem = s.mem := by
  unfold Dev.noteFullPending
  split <;> rfl

@[simp] theorem Dev.addWait_mem (r : MemReq) (why : WaitFor) (fails : Bool) : (s.addWait r why fails).mem = s.mem :=
  Dev.noteFullPending_mem ..

theorem Dev.request_canonical (r : MemReq) (h : Memory.wf s.mem = true) : Memory.wf (s.request r).mem = true := by
  unfold Dev.request
  split
  · rwa [Dev.addWait_mem]
  · exact (s.perform_attends r).canonical h

theorem Dev.releaseFrom_canonical (kept ws : List MemWait) (h : Memory.wf s.mem = true) :
    Memory.wf (s.releaseFrom kept ws).mem = true := by
  induction ws generalizing s kept with
  | nil => exact h
  | cons w ws ih =>
    unfold Dev.releaseFrom
    split
    · exact ih _ _ h
    · split
      · split
        · exact ih _ _ h
        · exact ih _ _ ((s.perform_attends w.req).canonical h)
      · refine ih _ _ ?_
        split
        · exact h
        · rwa [Dev.noteFullPending_mem]

theorem Dev.releaseTimes_canonical (n : Nat) (h : Memory.wf s.mem = true) : Memory.wf (s.releaseTimes n).mem = true := by
  induction n generalizing s with
  | zero => exact h
  | succ n ih =>
    have hpass := s.releaseFrom_canonical [] s.memWaits h
    unfold Dev.releaseTimes
    dsimp only
    split
    · exact hpass
    · exact ih _ hpass

theorem Dev.release_canonical (h : Memory.wf s.mem = true) : Memory.wf s.release.mem = true := s.releaseTimes_canonical _ h

theorem Dev.releasePoisoned_canonical {r : Dev} (b : Nat) (h : Memory.wf r.mem = true) :
    Memory.wf (s.releasePoisoned r b).mem = true := by
  unfold Dev.releasePoisoned
  split
  · exact r.release_canonical h
  · exact h

theorem Dev.submit_canonical (r : MemReq) (h : Memory.wf s.mem = true) : Memory.wf (s.submit r).mem = true :=
  s.releasePoisoned_canonical _ (s.request_canonical r h)

end Requests

/-! ### Parity (R237, R238) -/

section Parity
variable (s : Dev)

/-- A channel that is to be retrained is told to its stack, its event register and the scheduler of maintenance. -/
theorem Dev.wantRetrain_frame (k : StackId) (ch : Fin 32) :
    ∃ x r v, s.wantRetrain k ch = { s with stackTab := x, regs := r, service := v } := by
  unfold Dev.wantRetrain
  dsimp only
  split <;> exact ⟨_, _, _, rfl⟩

theorem Dev.parityFailed_frame (k : StackId) (ch : Fin 32) :
    ∃ x r v, s.parityFailed k ch = { s with stackTab := x, regs := r, service := v } := by
  unfold Dev.parityFailed
  dsimp only
  split
  · exact Dev.wantRetrain_frame ..
  · exact ⟨_, _, _, rfl⟩

@[simp] theorem Dev.wantRetrain_mem (k : StackId) (ch : Fin 32) : (s.wantRetrain k ch).mem = s.mem := by
  obtain ⟨_, _, _, hframe⟩ := s.wantRetrain_frame k ch
  rw [hframe]

@[simp] theorem Dev.parityFailed_mem (k : StackId) (ch : Fin 32) : (s.parityFailed k ch).mem = s.mem := by
  obtain ⟨_, _, _, hframe⟩ := s.parityFailed_frame k ch
  rw [hframe]

@[simp] theorem Dev.parityExhausted_mem (k : StackId) (ch : Fin 32) : (s.parityExhausted k ch).mem = s.mem :=
  Dev.wantRetrain_mem ..

theorem Dev.tryRequest_canonical (r : MemReq) (fails : Bool) (h : Memory.wf s.mem = true) :
    Memory.wf (s.tryRequest r fails).mem = true := by
  unfold Dev.tryRequest
  dsimp only
  split
  · split <;> simpa using h
  · exact s.submit_canonical r h

/-- A request whose reissues are exhausted, told to the stack and the channel of its address (R237). -/
def Dev.tellFailure (r : MemReq) : Dev :=
  s.parityExhausted (s.place r.address).stack (Fin.ofNat 32 (s.place r.address).channel)

theorem Dev.exhausted_sector (sec : Nat) (o : Owner) (cls : MemClass) (wait : Bool) :
    s.exhausted (.read sec false o cls wait)
      = ((s.tellFailure (.read sec false o cls wait)).metPoison (ownerHolding o) 1).emit
          (.readData (poisonedBytes (sec * 32) 32) true) := rfl

/-- The sectors of a block before the failing one, and those behind it, as a read of the block takes them. -/
def Dev.readAround (s : Dev) (sec : Nat) (o : Owner) : List SecRead × List SecRead × Dev :=
  let x := s.readSectors o ((blockSectors (sec / 128)).take (sec % 128))
  let y := x.2.readSectors o ((blockSectors (sec / 128)).drop (sec % 128 + 1))
  (x.1, y.1, y.2)

theorem Dev.exhausted_block (sec : Nat) (o : Owner) (cls : MemClass) (wait : Bool) :
    s.exhausted (.read sec true o cls wait)
      = let x := (s.tellFailure (.read sec true o cls wait)).readAround sec o
        (x.2.2.metPoison (ownerHolding o) 1).emit (.readData
          (x.1.flatMap (·.data) ++ poisonedBytes (sec * 32) 32 ++ x.2.1.flatMap (·.data)) ((x.1 ++ x.2.1).all (·.checked))) := rfl

theorem Dev.exhausted_write (pa : Nat) (o : Owner) (e : BitVec 16) (cls : MemClass) (data : List (Option PByte))
    (pending : Bool) :
    let d := s.tellFailure (.write pa o e cls data pending)
    s.exhausted (.write pa o e cls data pending) = d.setTag (pa / 4096) { d.tag (pa / 4096) with poison := true } := rfl

theorem Dev.readAround_attends (sec : Nat) (o : Owner) : s.Attends (s.readAround sec o).2.2 :=
  (s.readSectors_attends o _).trans (Dev.readSectors_attends _ o _)

/-- What becomes of a request once its failure has been told. -/
theorem Dev.exhausted_attends (r : MemReq) : (s.tellFailure r).Attends (s.exhausted r) := by
  cases r with
  | read sec whole o cls wait =>
    cases whole with
    | false =>
      rw [Dev.exhausted_sector]
      exact (Dev.metPoison_attends ..).trans (Dev.emit_attends ..)
    | true =>
      rw [Dev.exhausted_block]
      exact (Dev.readAround_attends ..).trans ((Dev.metPoison_attends ..).trans (Dev.emit_attends ..))
  | write pa o e cls data pending => exact Dev.setTag_attends ..
  | clear b secs o e kind => exact .refl _
  | scrub b => exact .refl _

theorem Dev.exhausted_canonical (r : MemReq) (h : Memory.wf s.mem = true) : Memory.wf (s.exhausted r).mem = true :=
  (s.exhausted_attends r).canonical (by rwa [Dev.tellFailure, Dev.parityExhausted_mem])

@[simp] theorem Dev.unitReissue_mem (k : StackId) (ch : Fin 32) (passes : Bool) : (s.unitReissue k ch passes).mem = s.mem := by
  have hfailed : ∀ n : Nat, (if n = 0 then s.parityFailed k ch else s).mem = s.mem := fun n => by
    split
    · exact s.parityFailed_mem k ch
    · rfl
  unfold Dev.unitReissue
  dsimp only
  split
  · rfl
  · split
    · exact (Dev.parityExhausted_mem ..).trans (hfailed _)
    · exact hfailed _

theorem Dev.parityReissue_canonical (k : StackId) (ch : Fin 32) (passes : Bool) (h : Memory.wf s.mem = true) :
    Memory.wf (s.parityReissue k ch passes).mem = true := by
  have h1 : ∀ fails : Bool, Memory.wf (if fails then s.parityFailed k ch else s).mem = true := fun fails => by
    split
    · rwa [Dev.parityFailed_mem]
    · exact h
  unfold Dev.parityReissue
  dsimp only
  split
  · rwa [Dev.unitReissue_mem]
  next before w rest _ =>
    split
    · split
      · exact Dev.release_canonical _ ((Dev.perform_attends _ _).canonical (h1 w.fails))
      · exact h1 w.fails
    · split
      · exact Dev.release_canonical _ (Dev.exhausted_canonical _ _ (h1 w.fails))
      · exact h1 w.fails

end Parity

/-! ### Clearances, scrub and heat (R232, R236, R239, R240) -/

section Heat
variable (s : Dev)

theorem Dev.clearance_canonical (b : Nat) (secs : List Nat) (o : Owner) (e : BitVec 16) (kind : Clearance)
    (h : Memory.wf s.mem = true) : Memory.wf (s.clearance b secs o e kind).mem = true := by
  unfold Dev.clearance Dev.clear
  split
  · exact h
  · exact Dev.release_canonical _ (Dev.request_canonical _ _ h)

theorem Dev.scrubBlock_canonical (b : Nat) (ecc : List (Nat × EccOutcome)) (onDie : Nat) (h : Memory.wf s.mem = true) :
    Memory.wf (s.scrubBlock b ecc onDie).mem = true := by
  have hsubmit : Memory.wf ((s.giveErrors b ecc).submit (.scrub b)).mem = true := Dev.submit_canonical _ _ h
  unfold Dev.scrubBlock
  dsimp only
  split
  · exact h
  · split
    · exact hsubmit
    · exact (Dev.countMem_attends _ _ .device _ (by decide)).canonical hsubmit

@[simp] theorem Dev.stackHot_mem (k : StackId) (t : BitVec 8) : (s.stackHot k t).mem = s.mem := by
  unfold Dev.stackHot
  dsimp only
  split_ifs <;> rfl

@[simp] theorem Dev.throttleLift_mem (k : StackId) : (s.throttleLift k).mem = s.mem := by
  unfold Dev.throttleLift
  dsimp only
  split <;> rfl

/-- To answer what a lost stack has queued touches counters, totals and the outbox. -/
theorem Dev.flushStack_frame (k : StackId) :
    ∃ c y z o, s.flushStack k = { s with
      memWaits := s.memWaits.filter fun w => !((s.place w.req.address).stack == k)
      ctrs := c, shadow := y, holdings := z, outbox := o } := by
  refine List.foldlRecOn _ _ (motive := fun d : Dev => ∃ c y z o, d = { s with
      memWaits := s.memWaits.filter fun w => !((s.place w.req.address).stack == k)
      ctrs := c, shadow := y, holdings := z, outbox := o }) ⟨s.ctrs, s.shadow, s.holdings, s.outbox, rfl⟩ fun d hd w _ => ?_
  obtain ⟨c, y, z, o, rfl⟩ := hd
  split
  next sec whole owner cls wait _ =>
    cases owner <;> exact ⟨_, _, _, _, rfl⟩
  · unfold Dev.offlineAccess
    split <;> exact ⟨_, _, _, _, rfl⟩
  · exact ⟨_, _, _, _, rfl⟩

/-- A map of the listed values that leaves the one at a key alone. -/
theorem Tab.get_map {α : Type} (d : α) (t : Tab α) {f : Nat × α → Nat × α} (hkey : ∀ p, (f p).1 = p.1) {k : Nat}
    (hk : ∀ p, p.1 = k → f p = p) : Tab.get d (t.map f) k = Tab.get d t k := by
  induction t with
  | nil => rfl
  | cons p t ih =>
    by_cases hp : p.1 = k
    · rw [List.map_cons, hk p hp, Tab.get, Tab.get, if_pos hp, if_pos hp]
    · rw [List.map_cons, Tab.get, Tab.get, if_neg hp, if_neg (hkey p ▸ hp), ih]

/-- A lost stack changes the regions, the journal's copies, and the tags of region 0 of its tier alone (R221). -/
theorem Dev.loseStack_frame (k : StackId) :
    ∃ x g y, s.loseStack k = { s with tags := x, regions := g, gotre := y }
      ∧ ∀ b, regionBlocks ≤ b → (b < farBase / 4096 ∨ farBase / 4096 + regionBlocks ≤ b) →
          Tab.get none x b = Tab.get none s.tags b := by
  unfold Dev.loseStack
  extract_lets t n live mask size all kept put first s0 s1 spans
  obtain ⟨g1, h1⟩ : ∃ g, s1 = { s0 with regions := g } :=
    List.foldlRecOn _ _ (motive := fun d : Dev => ∃ g, d = { s0 with regions := g }) ⟨s.regions, rfl⟩ fun d hd r _ => by
      obtain ⟨g, rfl⟩ := hd
      dsimp only
      split <;> exact ⟨_, rfl⟩
  have hfar : ∀ b, regionBlocks ≤ b → (b < farBase / 4096 ∨ farBase / 4096 + regionBlocks ≤ b) →
      ¬ (first ≤ b ∧ b < first + regionBlocks) := fun b hnear hfar => by
    have hfirst : first = 0 ∨ first = farBase / 4096 := by
      simp only [first, tierBase]
      split <;> simp
    omega
  refine List.foldlRecOn _ _ (motive := fun a : Nat × Dev => ∃ x g y, a.2 = { s with tags := x, regions := g, gotre := y }
      ∧ ∀ b, regionBlocks ≤ b → (b < farBase / 4096 ∨ farBase / 4096 + regionBlocks ≤ b) →
          Tab.get none x b = Tab.get none s.tags b) ⟨s0.tags, g1, s1.gotre.loseCopy t, by rw [h1], fun b hnear hout => ?_⟩
    fun a ha r _ => ?_
  · refine Tab.get_map none s.tags (fun p => ?_) fun p hp => if_neg fun hin => hfar b hnear hout (hp ▸ ⟨hin.1, hin.2.1⟩)
    split <;> rfl
  · obtain ⟨x, g, y, ha, hx⟩ := ha
    exact ⟨x, _, y, by dsimp only [put]; rw [ha], hx⟩

/-- The end of activities is told to the service and to Gotre. -/
theorem Dev.endActivity_frame (n : Nat) (st : ActState) (status : Status) :
    ∃ v y, s.endActivity n st status = { s with service := v, gotre := y } := by
  unfold Dev.endActivity Dev.finishJob
  split
  · exact ⟨_, _, rfl⟩
  · dsimp only
    split_ifs
    · exact ⟨_, _, rfl⟩
    · split
      · split
        · split_ifs <;> exact ⟨_, _, rfl⟩
        · exact ⟨_, _, rfl⟩
      · exact ⟨_, _, rfl⟩

/-- A stack as it goes offline in its heat, with its event (R240). -/
def Dev.goOffline (s : Dev) (k : StackId) (t : BitVec 8) : Dev :=
  ((s.modStack k fun x => { x with temp := t }).modStack k fun x =>
    { x with offline := true, retraining := false, channelsLeft := [] }).event (memEvent k) 0x10

/-- Its requests are answered, its regions are lost and its retraining ends: memory and what the stack shows stand (R240). -/
theorem Dev.stackCritical_frame {k : StackId} {t : BitVec 8} (hot : 105 ≤ t.toNat) (hon : (s.stack k).offline = false) :
    ∃ c y z o x g w v, s.stackCritical k t = { s.goOffline k t with
        memWaits := s.memWaits.filter fun w => !((s.place w.req.address).stack == k)
        ctrs := c, shadow := y, holdings := z, outbox := o, tags := x, regions := g, gotre := w, service := v }
      ∧ ∀ b, regionBlocks ≤ b → (b < farBase / 4096 ∨ farBase / 4096 + regionBlocks ≤ b) →
          Tab.get none x b = Tab.get none s.tags b := by
  obtain ⟨c, y, z, o, hflush⟩ := (s.goOffline k t).flushStack_frame k
  obtain ⟨x, g, w, hlose, htags⟩ := ((s.goOffline k t).flushStack k).loseStack_frame k
  rw [hflush] at htags
  have hstays : (decide (t.toNat < 105) || (s.stack k).offline) = false := by simp [hon, hot]
  unfold Dev.stackCritical
  extract_lets s1 s2 s3
  rw [if_neg (by simp [hstays])]
  have h3 : s3 = ((s.goOffline k t).flushStack k).loseStack k := rfl
  obtain ⟨w', v, hend⟩ : ∃ w v, s3.service.activities.foldl (fun d a =>
      if a.open && a.activity == 1 && a.resource == stackResource k then d.endActivity a.number .failed .fenced else d) s3
        = { s3 with gotre := w, service := v } :=
    List.foldlRecOn _ _ (motive := fun d : Dev => ∃ w v, d = { s3 with gotre := w, service := v })
      ⟨s3.gotre, s3.service, rfl⟩ fun d hd a _ => by
        obtain ⟨w, v, rfl⟩ := hd
        split
        · obtain ⟨v', w', hframe⟩ := Dev.endActivity_frame { s3 with gotre := w, service := v } a.number .failed .fenced
          exact ⟨w', v', hframe⟩
        · exact ⟨w, v, rfl⟩
  refine ⟨c, y, z, o, x, g, w', v, ?_, htags⟩
  rw [hend, h3, hlose, hflush]
  rfl

@[simp] theorem Dev.stackCritical_mem (k : StackId) (t : BitVec 8) : (s.stackCritical k t).mem = s.mem := by
  by_cases hcold : (decide (t.toNat < 105) || (s.stack k).offline) = true
  · unfold Dev.stackCritical
    dsimp only
    rw [if_pos hcold]
    rfl
  · obtain ⟨hot, hon⟩ : 105 ≤ t.toNat ∧ (s.stack k).offline = false := by simpa using hcold
    obtain ⟨_, _, _, _, _, _, _, _, hframe, _⟩ := s.stackCritical_frame hot hon
    rw [hframe]
    rfl

end Heat

/-! ### The commands -/

theorem memWork_canonical {s t : State} {d : Dev} (hrun : memWork s (s.dev.ctrlScope d) = .next t)
    (hmem : Memory.wf s.dev.mem = true) (hd : Memory.wf d.mem = true) : Memory.wf t.dev.mem = true := by
  cases hrun
  dsimp only
  split
  · exact hd
  · exact hmem

theorem work_canonical {s t : State} {d : Dev} (hrun : work s (s.dev.ctrlScope d) = .next t)
    (hmem : Memory.wf s.dev.mem = true) (hd : d.mem = s.dev.mem) : Memory.wf t.dev.mem = true := by
  cases hrun
  dsimp only
  split
  · exact hd ▸ hmem
  · exact hmem

theorem atAddress_canonical {pa : Nat} {s t : State} {d : Dev} (hrun : atAddress pa s d = .next t)
    (hmem : Memory.wf s.dev.mem = true) (hd : Memory.wf d.mem = true) : Memory.wf t.dev.mem = true := by
  by_cases h : memExists pa = true
  · rw [atAddress_of_exists h] at hrun
    exact memWork_canonical hrun hmem hd
  · rw [atAddress_of_absent h] at hrun
    cases hrun

/-- Settles O33: the bytes of a write, the zeros of a block begun anew and a write-back of error correction keep the form, and
the controllers write memory by nothing else. -/
theorem controllersKeepMemoryCanonical : Obligations.ControllersKeepMemoryCanonical := by
  unfold Obligations.ControllersKeepMemoryCanonical
  intro s t c hc hmem hrun
  obtain ⟨sec, w, o, cl, wt, ec, p, rfl⟩ | ⟨a, o, e, cl, d, pd, p, rfl⟩ | ⟨b, l, o, e, kind, rfl⟩ | ⟨b, ec, n, rfl⟩
    | ⟨k, ch, p, rfl⟩ | ⟨k, v, rfl⟩ | ⟨k, rfl⟩ | ⟨k, v, rfl⟩ := hc
  · exact atAddress_canonical hrun hmem (Dev.tryRequest_canonical _ _ p hmem)
  · exact atAddress_canonical hrun hmem (Dev.tryRequest_canonical _ _ p hmem)
  · exact atAddress_canonical hrun hmem (s.dev.clearance_canonical b l o e kind hmem)
  · exact atAddress_canonical hrun hmem (s.dev.scrubBlock_canonical b ec n hmem)
  · exact memWork_canonical hrun hmem (s.dev.parityReissue_canonical k ch p hmem)
  · exact work_canonical hrun hmem (s.dev.stackHot_mem k v)
  · exact work_canonical hrun hmem (s.dev.throttleLift_mem k)
  · exact work_canonical hrun hmem (s.dev.stackCritical_mem k v)

end Sys2Proof.Machine

/-! What a read answers and what it leaves alone (R222, R229 to R231, R235). -/

namespace Sys2Proof.Machine

/-! ### Devices that differ in counters and events alone -/

/-- A device without its counters, events, totals and free values. -/
def Dev.unmetered (s : Dev) : Dev × (HoldId → Holding) :=
  ({ s with regs := [], ctrs := [], shadow := [], holdings := [], free := 0 }, fun h => { s.holding h with totals := {} })

section Unmetered
variable {s t : Dev} (h : t.unmetered = s.unmetered)
include h

theorem Dev.mem_congr : t.mem = s.mem := congrArg (·.1.mem) h
theorem Dev.tags_congr : t.tags = s.tags := congrArg (·.1.tags) h
theorem Dev.secPoison_congr : t.secPoison = s.secPoison := congrArg (·.1.secPoison) h
theorem Dev.ecc_congr : t.ecc = s.ecc := congrArg (·.1.ecc) h
theorem Dev.pend_congr : t.pend = s.pend := congrArg (·.1.pend) h
theorem Dev.outbox_congr : t.outbox = s.outbox := congrArg (·.1.outbox) h
theorem Dev.cores_congr : t.cores = s.cores := congrArg (·.1.cores) h
theorem Dev.tag_congr (b : Nat) : t.tag b = s.tag b := congrArg (·.1.tag b) h
theorem Dev.place_congr (pa : Nat) : t.place pa = s.place pa := congrArg (·.1.place pa) h
theorem Dev.stackLost_congr (k : StackId) : t.stackLost k = s.stackLost k := congrArg (·.1.stackLost k) h
theorem Dev.stored_congr (pa n : Nat) : t.stored pa n = s.stored pa n := congrArg (·.1.stored pa n) h

theorem Dev.staleEpoch_congr (o : Owner) (e : BitVec 16) : t.staleEpoch o e = s.staleEpoch o e := by
  cases o with
  | holding k => exact congrArg (fun x => (x.2 k).epoch != e) h
  | device => rfl
  | unassigned => rfl

end Unmetered

section Metering
variable (s : Dev)

theorem Dev.modTotals_unmetered (h : HoldId) (f : StepTotals → StepTotals) :
    (s.modHolding h fun x => { x with totals := f x.totals }).unmetered = s.unmetered := by
  refine Prod.ext rfl (funext fun k => ?_)
  simp only [Dev.unmetered, Dev.holding_modHolding]
  split
  next hk => rw [hk]
  next => rfl

@[simp] theorem Dev.count_unmetered (h : Option HoldId) (a n : Nat) : (s.count h a n).unmetered = s.unmetered := by
  cases h with
  | none => rfl
  | some h => exact Dev.modTotals_unmetered { s with ctrs := _, shadow := _ } h fun x => x.add a n

@[simp] theorem Dev.countFree_unmetered (h : Option HoldId) (a : Nat) : (s.countFree h a).unmetered = s.unmetered :=
  s.count_unmetered h a _

@[simp] theorem Dev.event_unmetered (a : Nat) (x : Word32) : (s.event a x).unmetered = s.unmetered := rfl

@[simp] theorem Dev.countMem_unmetered (k : StackId) (o : Owner) (off n : Nat) :
    (s.countMem k o off n).unmetered = s.unmetered := s.count_unmetered ..

@[simp] theorem Dev.tagRead_unmetered (k : StackId) (o : Owner) : (s.tagRead k o).unmetered = s.unmetered :=
  s.countFree_unmetered ..

@[simp] theorem Dev.lcSlots_unmetered (k : StackId) (cls : MemClass) : (s.lcSlots k cls).unmetered = s.unmetered := by
  unfold Dev.lcSlots
  split
  · exact s.countFree_unmetered ..
  · rfl

@[simp] theorem Dev.offlineAccess_unmetered (k : StackId) (o : Owner) : (s.offlineAccess k o).unmetered = s.unmetered := by
  unfold Dev.offlineAccess
  split
  · rfl
  · exact s.countMem_unmetered ..

@[simp] theorem Dev.metPoison_unmetered (h : Option HoldId) (n : Nat) : (s.metPoison h n).unmetered = s.unmetered := by
  cases h with
  | none => rfl
  | some h => exact s.modTotals_unmetered h fun x =>
      { x with totals := Tab.modify 0 x.totals poisonKey (fun v => min (v + n) 0xFFFFFFFF) }

/-! ### Counters and events (R223, R226, R242, R457) -/

theorem Dev.ctr_countMem (k : StackId) (o : Owner) (off n : Nat) :
    (s.countMem k o off n).ctr (stackReg k off) = addStop64 (s.ctr (stackReg k off)) n := by
  rw [Dev.countMem, Dev.ctr_count, if_pos rfl]

theorem Dev.ctr_countMem_ne (j k : StackId) (o : Owner) {off a : Nat} (n : Nat) (h : a % 256 ≠ off % 256) :
    (s.countMem j o off n).ctr (stackReg k a) = s.ctr (stackReg k a) := by
  rw [Dev.countMem, Dev.ctr_count, if_neg (stackReg_ne k j h)]

theorem Dev.ctr_tagRead_ne (j k : StackId) (o : Owner) {a : Nat} (h : a % 256 ≠ 0x20) :
    (s.tagRead j o).ctr (stackReg k a) = s.ctr (stackReg k a) := s.ctr_countMem_ne j k o _ h

theorem Dev.ctr_lcSlots_ne (j k : StackId) (cls : MemClass) {a : Nat} (h : a % 256 ≠ 0x98) :
    (s.lcSlots j cls).ctr (stackReg k a) = s.ctr (stackReg k a) := by
  unfold Dev.lcSlots
  split
  · exact s.ctr_countMem_ne j k .device _ h
  · rfl

@[simp] theorem Dev.lcSlots_regs (k : StackId) (cls : MemClass) : (s.lcSlots k cls).regs = s.regs := by
  unfold Dev.lcSlots
  split <;> rfl

/-- A request that its tag denies is counted and told (R231). -/
def Dev.deny (k : StackId) (o : Owner) (off : Nat) (x : Word32) : Dev :=
  ((s.tagRead k o).countMem k o off 1).event (memEvent k) x

theorem Dev.ctr_deny (k : StackId) (o : Owner) {off : Nat} (x : Word32) (h : off % 256 ≠ 0x20) :
    (s.deny k o off x).ctr (stackReg k off) = addStop64 (s.ctr (stackReg k off)) 1 :=
  (Dev.ctr_countMem _ k o off 1).trans (by rw [s.ctr_tagRead_ne k k o h])

theorem Dev.reg_deny (k : StackId) (o : Owner) (off : Nat) (x : Word32) :
    (s.deny k o off x).reg (memEvent k) = s.reg (memEvent k) ||| x :=
  (Dev.reg_event ..).trans (if_pos rfl)

/-! ### One sector (R231, R235) -/

theorem Dev.meetEcc_clean {sec : Nat} (h : Tab.get .clean s.ecc sec = .clean) (k : StackId) (o : Owner) :
    s.meetEcc k o sec = s := by
  simp [Dev.meetEcc, h]

theorem Dev.meetAll_clean {secs : List Nat} (h : ∀ x ∈ secs, Tab.get .clean s.ecc x = .clean) (k : StackId) (o : Owner) :
    s.meetAll k o secs = s := by
  induction secs with
  | nil => rfl
  | cons x xs ih =>
    change (s.meetEcc k o x).meetAll k o xs = s
    rw [s.meetEcc_clean (h x List.mem_cons_self), ih fun y hy => h y (List.mem_cons_of_mem x hy)]

variable {s} {sec : Nat} {o : Owner}

theorem Dev.readSector1_of_lost (hlost : s.stackLost (s.place (sec * 32)).stack = true) :
    s.readSector1 sec o = (⟨poisonedBytes (sec * 32) 32, true, false⟩, s.offlineAccess (s.place (sec * 32)).stack o) := by
  simp [Dev.readSector1, hlost]

section OnLine
variable (hon : s.stackLost (s.place (sec * 32)).stack = false)
include hon

theorem Dev.readSector1_of_foreign (howner : (s.tag (sec / 128)).owner ≠ o) :
    s.readSector1 sec o = (⟨poisonedBytes (sec * 32) 32, true, false⟩,
      s.deny (s.place (sec * 32)).stack o 0x68 0x40) := by
  simp [Dev.readSector1, hon, howner, Dev.deny]

variable (howner : (s.tag (sec / 128)).owner = o)
include howner

theorem Dev.readSector1_of_zero (hzero : (s.tag (sec / 128)).zero = true) :
    s.readSector1 sec o = (⟨zeroBytes 32, true, false⟩, s.tagRead (s.place (sec * 32)).stack o) := by
  simp [Dev.readSector1, hon, howner, hzero]

variable (hzero : (s.tag (sec / 128)).zero = false)
include hzero

theorem Dev.readSector1_of_stale (hstale : s.staleEpoch o (s.tag (sec / 128)).epoch = true) :
    s.readSector1 sec o = (⟨poisonedBytes (sec * 32) 32, true, false⟩,
      s.deny (s.place (sec * 32)).stack o 0x70 0x80) := by
  simp [Dev.readSector1, hon, howner, hzero, hstale, Dev.deny]

/-- Stored data comes as it stands, poisoned with its block or its sector. -/
theorem Dev.readSector1_of_stored (hfresh : s.staleEpoch o (s.tag (sec / 128)).epoch = false)
    (hclean : Tab.get .clean s.ecc sec = .clean) :
    s.readSector1 sec o = (⟨(s.stored (sec * 32) 32).map fun v =>
        ⟨v, (s.tag (sec / 128)).poison || Tab.get false s.secPoison sec⟩, (s.tag (sec / 128)).checked, true⟩,
      (s.tagRead (s.place (sec * 32)).stack o).countMem (s.place (sec * 32)).stack o 0x10 1) := by
  have hmet := (s.tagRead (s.place (sec * 32)).stack o).meetEcc_clean hclean (s.place (sec * 32)).stack o
  simp only [Dev.readSector1, hon, howner, hzero, hfresh, hmet, bne_self_eq_false, Bool.false_eq_true, if_false]
  rfl

end OnLine

theorem Dev.readSector1_unmetered (hclean : Tab.get .clean s.ecc sec = .clean) (o : Owner) :
    (s.readSector1 sec o).2.unmetered = s.unmetered := by
  by_cases hon : s.stackLost (s.place (sec * 32)).stack = true
  · simp [Dev.readSector1_of_lost hon]
  rw [Bool.not_eq_true] at hon
  by_cases howner : (s.tag (sec / 128)).owner = o
  · by_cases hzero : (s.tag (sec / 128)).zero = true
    · simp [Dev.readSector1_of_zero hon howner hzero]
    rw [Bool.not_eq_true] at hzero
    by_cases hfresh : s.staleEpoch o (s.tag (sec / 128)).epoch = true
    · simp [Dev.readSector1_of_stale hon howner hzero hfresh, Dev.deny]
    · rw [Bool.not_eq_true] at hfresh
      simp [Dev.readSector1_of_stored hon howner hzero hfresh hclean]
  · simp [Dev.readSector1_of_foreign hon howner, Dev.deny]

variable (s sec o) in
@[simp] theorem Dev.readSector_fst : (s.readSector sec o).1 = (s.readSector1 sec o).1 := by
  unfold Dev.readSector
  dsimp only
  split <;> rfl

section Totals
variable (s sec o)

/-- The holding's total of poisoned sectors is no register (R243). -/
theorem Dev.metPoison_frame (h : Option HoldId) (n : Nat) : ∃ z, s.metPoison h n = { s with holdings := z } := by
  cases h <;> exact ⟨_, rfl⟩

theorem Dev.readSector_frame : ∃ z, (s.readSector sec o).2 = { (s.readSector1 sec o).2 with holdings := z } := by
  unfold Dev.readSector
  dsimp only
  split
  · exact Dev.metPoison_frame ..
  · exact ⟨_, rfl⟩

theorem Dev.readSector_ctr (a : Nat) : (s.readSector sec o).2.ctr a = (s.readSector1 sec o).2.ctr a := by
  obtain ⟨z, hframe⟩ := s.readSector_frame sec o
  rw [hframe]
  rfl

theorem Dev.readSector_reg (a : Nat) : (s.readSector sec o).2.reg a = (s.readSector1 sec o).2.reg a := by
  obtain ⟨z, hframe⟩ := s.readSector_frame sec o
  rw [hframe]
  rfl

end Totals

/-- A read that the tag denies, and the counter and the event that tell of it. -/
theorem Dev.readSector_denied {d : SecRead} {k : StackId} {off : Nat} {x : Word32}
    (hdenied : s.readSector1 sec o = (d, s.deny k o off x)) (hoff : off % 256 ≠ 0x20) :
    (s.readSector sec o).2.ctr (stackReg k off) = addStop64 (s.ctr (stackReg k off)) 1
      ∧ (s.readSector sec o).2.reg (memEvent k) = s.reg (memEvent k) ||| x := by
  rw [Dev.readSector_ctr, Dev.readSector_reg, hdenied]
  exact ⟨s.ctr_deny k o x hoff, s.reg_deny k o off x⟩

theorem Dev.readSector_unmetered (hclean : Tab.get .clean s.ecc sec = .clean) (o : Owner) :
    (s.readSector sec o).2.unmetered = s.unmetered := by
  rw [← Dev.readSector1_unmetered hclean o]
  unfold Dev.readSector
  dsimp only
  split
  · exact Dev.metPoison_unmetered ..
  · rfl

/-! ### A whole block (R222, R230) -/

/-- A sector whose stored data a read answers, without error or poison. -/
structure Dev.Readable (s : Dev) (o : Owner) (sec : Nat) : Prop where
  online : s.stackLost (s.place (sec * 32)).stack = false
  owner : (s.tag (sec / 128)).owner = o
  valid : (s.tag (sec / 128)).zero = false
  fresh : s.staleEpoch o (s.tag (sec / 128)).epoch = false
  sound : (s.tag (sec / 128)).poison = false
  unmarked : Tab.get false s.secPoison sec = false
  clean : Tab.get .clean s.ecc sec = .clean

theorem Dev.Readable.congr {s t : Dev} (h : t.unmetered = s.unmetered) {o : Owner} {sec : Nat} (hs : s.Readable o sec) :
    t.Readable o sec where
  online := by rw [Dev.place_congr h, Dev.stackLost_congr h, hs.online]
  owner := by rw [Dev.tag_congr h, hs.owner]
  valid := by rw [Dev.tag_congr h, hs.valid]
  fresh := by rw [Dev.tag_congr h, Dev.staleEpoch_congr h, hs.fresh]
  sound := by rw [Dev.tag_congr h, hs.sound]
  unmarked := by rw [Dev.secPoison_congr h, hs.unmarked]
  clean := by rw [Dev.ecc_congr h, hs.clean]

/-- The answer to a readable sector. -/
def Dev.sectorAnswer (s : Dev) (sec : Nat) : SecRead :=
  ⟨(s.stored (sec * 32) 32).map fun v => ⟨v, false⟩, (s.tag (sec / 128)).checked, true⟩

theorem Dev.sectorAnswer_congr {s t : Dev} (h : t.unmetered = s.unmetered) : t.sectorAnswer = s.sectorAnswer := by
  funext sec
  rw [Dev.sectorAnswer, Dev.stored_congr h, Dev.tag_congr h]
  rfl

theorem Dev.readSector_of_readable (hs : s.Readable o sec) : (s.readSector sec o).1 = s.sectorAnswer sec := by
  rw [Dev.readSector_fst, Dev.readSector1_of_stored hs.online hs.owner hs.valid hs.fresh hs.clean, hs.sound, hs.unmarked]
  rfl

theorem Dev.readSectors_of_readable {secs : List Nat} (hs : ∀ x ∈ secs, s.Readable o x) :
    (s.readSectors o secs).1 = secs.map s.sectorAnswer ∧ (s.readSectors o secs).2.unmetered = s.unmetered := by
  induction secs generalizing s with
  | nil => exact ⟨rfl, rfl⟩
  | cons x xs ih =>
    have hx := hs x List.mem_cons_self
    have hread := Dev.readSector_unmetered hx.clean o
    obtain ⟨hrest, hmeter⟩ := ih fun y hy => (hs y (List.mem_cons_of_mem x hy)).congr hread
    refine ⟨?_, hmeter.trans hread⟩
    rw [Dev.readSectors, hrest, Dev.readSector_of_readable hx, Dev.sectorAnswer_congr hread]
    rfl

theorem Dev.stored_add (s : Dev) (pa m n : Nat) : s.stored pa (m + n) = s.stored pa m ++ s.stored (pa + m) n := by
  simp [Dev.stored, Tab.getList, List.range_add, Nat.add_assoc]

theorem blockSectors_stored (s : Dev) (b : Nat) :
    (blockSectors b).flatMap (fun x => s.stored (x * 32) 32) = s.stored (b * 4096) 4096 := by
  suffices hsome : ∀ n, (List.range n).flatMap (fun i => s.stored ((b * 128 + i) * 32) 32) = s.stored (b * 4096) (n * 32) by
    rw [blockSectors, List.flatMap_map]
    exact hsome 128
  intro n
  induction n with
  | zero => rfl
  | succ n ih =>
    rw [List.range_succ, List.flatMap_append, ih, Nat.succ_mul, s.stored_add, List.flatMap_singleton]
    congr 2
    omega

theorem mem_blockSectors {b x : Nat} : x ∈ blockSectors b ↔ ∃ j < 128, x = b * 128 + j := by
  simp [blockSectors, eq_comm]

/-- The verdict on stored data without poison: the CRC of the tag, where one is maintained. -/
theorem Dev.verdict_of_sound {b : Nat} (hsound : (s.tag b).poison = false) (hcrc : (s.tag b).crcOff = false) (o : Owner)
    (l : List Byte) : s.verdict b o (l.map fun v => ⟨v, false⟩) =
      if crc32c l != (s.tag b).crc then (true, ((s.setTag b { s.tag b with poison := true }).countMem
        (s.place (b * 4096)).stack o 0x60 1).event (memEvent (s.place (b * 4096)).stack) 2) else (false, s) := by
  simp [Dev.verdict, hsound, hcrc, Function.comp_def]

theorem Tag.with_poison {t : Tag} {p : Bool} (h : t.poison = p) : { t with poison := p } = t := by
  subst h
  rfl

theorem Dev.readBlock_of_readable {b : Nat} (hs : ∀ j < 128, s.Readable o (b * 128 + j)) (hcrc : (s.tag b).crcOff = false) :
    (s.readBlock b o).1 = (s.stored (b * 4096) 4096).map (fun v => ⟨v, crc32c (s.stored (b * 4096) 4096) != (s.tag b).crc⟩)
    ∧ (s.readBlock b o).2.1 = (s.tag b).checked
    ∧ (s.readBlock b o).2.2.tag b = { s.tag b with poison := crc32c (s.stored (b * 4096) 4096) != (s.tag b).crc }
    ∧ (s.readBlock b o).2.2.outbox = s.outbox ∧ (s.readBlock b o).2.2.mem = s.mem := by
  obtain ⟨hreads, hmeter⟩ := Dev.readSectors_of_readable fun x hx => by
    obtain ⟨j, hj, rfl⟩ := mem_blockSectors.1 hx
    exact hs j hj
  have hdiv : ∀ x ∈ blockSectors b, x / 128 = b := fun x hx => by
    obtain ⟨j, hj, rfl⟩ := mem_blockSectors.1 hx
    omega
  have hdata : (s.readSectors o (blockSectors b)).1.flatMap (·.data) = (s.stored (b * 4096) 4096).map fun v => ⟨v, false⟩ := by
    rw [hreads, List.flatMap_map, ← blockSectors_stored, List.map_flatMap]
    rfl
  have hchecked : (s.readSectors o (blockSectors b)).1.all (·.checked) = (s.tag b).checked := by
    rw [hreads, List.all_map, Bool.eq_iff_iff, List.all_eq_true]
    refine ⟨fun h => ?_, fun h x hx => ?_⟩
    · have hfirst := h (b * 128) (mem_blockSectors.2 ⟨0, by omega, rfl⟩)
      rwa [Function.comp_apply, Dev.sectorAnswer, Nat.mul_div_cancel b (by omega)] at hfirst
    · rwa [Function.comp_apply, Dev.sectorAnswer, hdiv x hx]
  have hstored : (s.readSectors o (blockSectors b)).1.all (·.stored) = true := by
    simp [hreads, Dev.sectorAnswer]
  unfold Dev.readBlock
  generalize s.readSectors o (blockSectors b) = r at hdata hchecked hstored hmeter
  have htag := Dev.tag_congr hmeter b
  have hsound : (s.tag b).poison = false := by
    have hfirst := (hs 0 (by omega)).sound
    rwa [hdiv _ (mem_blockSectors.2 ⟨0, by omega, rfl⟩)] at hfirst
  dsimp only
  rw [hdata, Dev.verdict_of_sound (htag ▸ hsound) (htag ▸ hcrc), htag, hchecked, hstored]
  cases hbad : crc32c (s.stored (b * 4096) 4096) != (s.tag b).crc with
  | false =>
    simp only [Bool.false_eq_true, if_false, Bool.and_false, true_and]
    exact ⟨htag.trans (Tag.with_poison hsound).symm, Dev.outbox_congr hmeter, Dev.mem_congr hmeter⟩
  | true =>
    have hset : ((((r.2.setTag b { s.tag b with poison := true }).countMem (r.2.place (b * 4096)).stack o 0x60 1).event
        (memEvent (r.2.place (b * 4096)).stack) 2).metPoison (ownerHolding o) 128).unmetered
          = (r.2.setTag b { s.tag b with poison := true }).unmetered := by simp
    simp only [if_true, Bool.and_self, true_and]
    refine ⟨?_, (Dev.tag_congr hset b).trans ?_, (Dev.outbox_congr hset).trans (Dev.outbox_congr hmeter :),
      (Dev.mem_congr hset).trans (Dev.mem_congr hmeter :)⟩
    · simp [PByte.flag]
    · rw [Dev.tag_setTag, if_pos rfl]

end Metering

/-! ### Requests that are served as they come (R228, R232, R238) -/

section Ready
variable {s : Dev}

/-- Where nothing waits there is nothing to release. -/
theorem Dev.release_of_idle (hidle : s.memWaits = []) : s.release = s := by
  simp [Dev.release, hidle, Dev.releaseTimes]

theorem Dev.releasePoisoned_of_idle {r : Dev} (hidle : r.memWaits = []) (b : Nat) : s.releasePoisoned r b = r := by
  unfold Dev.releasePoisoned
  split
  · exact Dev.release_of_idle hidle
  · rfl

variable (hidle : s.memWaits = [])
include hidle

theorem Dev.request_of_ready {r : MemReq} (hready : s.queuesFor [] r = none) : s.request r = s.perform r := by
  simp [Dev.request, hidle, hready]

theorem Dev.submit_of_ready {r : MemReq} (hready : s.queuesFor [] r = none) : s.submit r = s.perform r := by
  rw [Dev.submit, Dev.request_of_ready hidle hready,
    Dev.releasePoisoned_of_idle ((s.perform_attends r).waits.trans hidle)]

omit hidle

theorem Dev.queuesFor_read {sec : Nat} {whole : Bool} {o : Owner} {cls : MemClass} {wait : Bool}
    (hcalm : s.quiesced (sec * 32) = false) (hcheck : (wait && s.mustWait (sec / 128) o) = false) :
    s.queuesFor [] (.read sec whole o cls wait) = none := by
  simp [Dev.queuesFor, MemReq.address, hcalm, hcheck]

theorem Dev.memRead_of_ready (hidle : s.memWaits = []) {sec : Nat} {whole : Bool} {o : Owner} {cls : MemClass} {wait : Bool}
    (hcalm : s.quiesced (sec * 32) = false) (hcheck : (wait && s.mustWait (sec / 128) o) = false) :
    s.memRead sec whole o cls wait [] false = s.perform (.read sec whole o cls wait) :=
  Dev.submit_of_ready hidle (Dev.queuesFor_read hcalm hcheck)

end Ready

/-- A command at an address that exists, under controllers that run. -/
theorem atAddress_next {pa : Nat} {s : State} (hin : memExists pa = true) (hup : s.dev.memoryUp = true) (d : Dev) :
    atAddress pa s d = .next { s with dev := s.dev.ctrlScope d } := by
  rw [atAddress_of_exists hin, memWork, if_pos hup]

theorem Dev.perform_sector (s : Dev) (sec : Nat) (o : Owner) (cls : MemClass) (wait : Bool) :
    s.perform (.read sec false o cls wait) = ((s.lcSlots (s.place (sec * 32)).stack cls).readSector sec o).2.emit
      (.readData ((s.lcSlots (s.place (sec * 32)).stack cls).readSector1 sec o).1.data
        ((s.lcSlots (s.place (sec * 32)).stack cls).readSector1 sec o).1.checked) := by
  rw [← Dev.readSector_fst]
  rfl

theorem Dev.perform_block (s : Dev) (sec : Nat) (o : Owner) (cls : MemClass) (wait : Bool) :
    s.perform (.read sec true o cls wait) = ((s.lcSlots (s.place (sec * 32)).stack cls).readBlock (sec / 128) o).2.2.emit
      (.readData ((s.lcSlots (s.place (sec * 32)).stack cls).readBlock (sec / 128) o).1
        ((s.lcSlots (s.place (sec * 32)).stack cls).readBlock (sec / 128) o).2.1) := rfl

theorem exec_memRead_of_ready {s : State} {sec : Nat} (whole : Bool) (o : Owner) (cls : MemClass) {wait : Bool}
    (hup : s.dev.memoryUp = true) (hin : memExists (sec * 32) = true) (hidle : s.dev.memWaits = [])
    (hcalm : s.dev.quiesced (sec * 32) = false) (hcheck : (wait && s.dev.mustWait (sec / 128) o) = false) :
    exec (.memRead sec whole o cls wait [] false) s
      = .next { s with dev := s.dev.ctrlScope (s.dev.perform (.read sec whole o cls wait)) } := by
  rw [← Dev.memRead_of_ready hidle hcalm hcheck]
  exact atAddress_next hin hup _

/-- Settles O28: a sector by the stack, the tag and the epoch in turn; a block by its 128 sectors and the verdict on them. -/
theorem readsAnswerByTagEpochAndCrc : Obligations.ReadsAnswerByTagEpochAndCrc := by
  unfold Obligations.ReadsAnswerByTagEpochAndCrc
  refine ⟨?_, ?_⟩
  · intro s sec o cls wait hup hin hidle hcalm hcheck hclean k g
    have hrun := exec_memRead_of_ready false o cls hup hin hidle hcalm hcheck
    rw [Dev.perform_sector] at hrun
    have hslots := s.dev.lcSlots_unmetered k cls
    have hctr : ∀ a, a % 256 ≠ 0x98 → (s.dev.lcSlots k cls).ctr (stackReg k a) = s.dev.ctr (stackReg k a) := fun a =>
      s.dev.ctr_lcSlots_ne k k cls
    have hreg : ∀ a, (s.dev.lcSlots k cls).reg a = s.dev.reg a := fun a => congrArg (Tab.get 0 · a) (s.dev.lcSlots_regs k cls)
    generalize s.dev.lcSlots k cls = d at hrun hslots hctr hreg
    have hk : (d.place (sec * 32)).stack = k := congrArg Place.stack (Dev.place_congr hslots _)
    have hg : d.tag (sec / 128) = g := Dev.tag_congr hslots _
    have hdown : d.stackLost k = s.dev.stackLost k := Dev.stackLost_congr hslots k
    have hepoch : d.staleEpoch o g.epoch = s.dev.staleEpoch o g.epoch := Dev.staleEpoch_congr hslots o _
    rw [← Dev.ecc_congr hslots] at hclean
    have hall := (Dev.readSector_unmetered hclean o).trans hslots
    refine ⟨_, (d.readSector1 sec o).1.data, (d.readSector1 sec o).1.checked, hrun, rfl, congrArg (· ++ _) (Dev.outbox_congr hall),
      (Dev.mem_congr hall :), (Dev.tags_congr hall :), (Dev.secPoison_congr hall :), (Dev.cores_congr hall :), fun hlost => ?_,
      fun hon howner => ?_, fun hon howner => ⟨fun hzero => ?_, fun hzero hstale => ?_, fun hzero hfresh => ?_⟩⟩
    · rw [Dev.readSector1_of_lost (by rwa [hk, hdown])]
      exact ⟨rfl, rfl⟩
    · have hone := Dev.readSector1_of_foreign (o := o) (hk ▸ hdown.trans hon) (by rwa [hg])
      rw [hk] at hone
      obtain ⟨hcount, hevent⟩ := Dev.readSector_denied hone (by decide)
      rw [hone]
      exact ⟨rfl, rfl, hcount.trans (by rw [hctr _ (by decide)]), hevent.trans (by rw [hreg])⟩
    · rw [Dev.readSector1_of_zero (hk ▸ hdown.trans hon) (by rwa [hg]) (by rwa [hg])]
      exact ⟨rfl, rfl⟩
    · have hone := Dev.readSector1_of_stale (o := o) (hk ▸ hdown.trans hon) (by rwa [hg]) (by rwa [hg]) (by rwa [hg, hepoch])
      rw [hk] at hone
      obtain ⟨hcount, hevent⟩ := Dev.readSector_denied hone (by decide)
      rw [hone]
      exact ⟨rfl, rfl, hcount.trans (by rw [hctr _ (by decide)]), hevent.trans (by rw [hreg])⟩
    · rw [Dev.readSector1_of_stored (hk ▸ hdown.trans hon) (by rwa [hg]) (by rwa [hg]) (by rwa [hg, hepoch]) hclean, hg,
        Dev.secPoison_congr hslots, Dev.stored_congr hslots]
      exact ⟨rfl, rfl⟩
  · intro s b o cls wait hup hin hidle hcalm hcheck hclean _ hon g howner hvalid hfresh hsound hcrc hmarks stored bad
    have hsec : b * 128 * 32 = b * 4096 := by omega
    have hblock : b * 128 / 128 = b := by omega
    have hrun := exec_memRead_of_ready true o cls hup (hsec ▸ hin) hidle (hsec ▸ hcalm) (by rwa [hblock])
    rw [Dev.perform_block] at hrun
    have hslots := s.dev.lcSlots_unmetered (s.dev.place (b * 128 * 32)).stack cls
    generalize s.dev.lcSlots (s.dev.place (b * 128 * 32)).stack cls = d at hrun hslots
    rw [hblock] at hrun
    have hs : ∀ j < 128, s.dev.Readable o (b * 128 + j) := fun j hj => by
      have hj : (b * 128 + j) / 128 = b := by omega
      exact { online := hon j ‹_›, owner := by rwa [hj], valid := by rwa [hj], fresh := by rwa [hj], sound := by rwa [hj]
              unmarked := hmarks j ‹_›, clean := hclean j ‹_› }
    obtain ⟨hdata, hchecked, htag, hout, hmem⟩ := Dev.readBlock_of_readable (s := d)
      (fun j hj => (hs j hj).congr hslots) (by rwa [Dev.tag_congr hslots])
    rw [Dev.stored_congr hslots, Dev.tag_congr hslots] at hdata
    rw [Dev.tag_congr hslots] at hchecked
    rw [Dev.stored_congr hslots, Dev.tag_congr hslots] at htag
    rw [hdata, hchecked] at hrun
    exact ⟨_, hrun, rfl, congrArg (· ++ _) (hout.trans (Dev.outbox_congr hslots)), htag, hmem.trans (Dev.mem_congr hslots)⟩

end Sys2Proof.Machine

/-! What a write stores (R217, R229 to R231): its unmasked bytes, over a block that it may have begun anew. -/

namespace Sys2Proof.Machine

/-! ### The bytes of a write (R217) -/

/-- The byte that a masked list from an address on holds for an address. -/
def byteAt {α : Type} (k : Nat) (vs : List (Option α)) (j : Nat) : Option α := if k ≤ j then nthD vs (j - k) none else none

theorem byteAt_map {α β : Type} (f : α → β) (k : Nat) (vs : List (Option α)) (j : Nat) :
    byteAt k (vs.map fun b => b.map f) j = (byteAt k vs j).map f := by
  unfold byteAt nthD
  split
  · cases h : vs[j - k]? <;> simp [h]
  · rfl

theorem Tab.get_setSome {α : Type} [DecidableEq α] (d : α) (vs : List (Option α)) (t : Tab α) (k j : Nat) :
    Tab.get d (Tab.setSome d t k vs) j = (byteAt k vs j).getD (Tab.get d t j) := by
  induction vs generalizing t k with
  | nil => simp [Tab.setSome, byteAt, nthD]
  | cons v vs ih =>
    have hrest : Tab.setSome d t k (v :: vs) = Tab.setSome d (v.elim t (Tab.set d t k)) (k + 1) vs := by cases v <;> rfl
    rw [hrest, ih]
    obtain hlt | rfl | hgt := Nat.lt_trichotomy j k
    · have hne : j ≠ k := by omega
      cases v <;> simp [byteAt, Laws.Tab.get_set, hne, show ¬ k + 1 ≤ j by omega, show ¬ k ≤ j by omega]
    · cases v <;> simp [byteAt, nthD]
    · have hne : j ≠ k := by omega
      have hpos : j - k = (j - (k + 1)) + 1 := by omega
      cases v <;> simp [byteAt, nthD, Laws.Tab.get_set, hne, hpos, show k + 1 ≤ j by omega, show k ≤ j by omega]

/-- A write of a whole block has a byte for every address of the block. -/
theorem byteAt_of_wholeBlock {pa a : Nat} {data : List (Option PByte)} (hwhole : wholeBlock pa data = true)
    (ha : a / 4096 = pa / 4096) : byteAt pa data a ≠ none := by
  simp only [wholeBlock, Bool.and_eq_true, decide_eq_true_eq, List.all_eq_true] at hwhole
  obtain ⟨⟨haligned, hlen⟩, hall⟩ := hwhole
  have hlow : pa ≤ a := by omega
  have hin : a - pa < data.length := by omega
  have hsome := hall _ (List.getElem_mem hin)
  rw [byteAt, if_pos hlow, nthD, List.getElem?_eq_getElem hin]
  simpa [Option.isSome_iff_ne_none] using hsome

/-- A write within a block puts bytes into sectors of that block. -/
theorem mem_writtenSectors {pa x : Nat} {data : List (Option PByte)} (hfits : pa % 4096 + data.length ≤ 4096)
    (hx : x ∈ writtenSectors pa data) : ∃ j < 128, x = pa / 4096 * 128 + j := by
  have hspan := (List.mem_filter.1 hx).1
  unfold sectorsOf at hspan
  split at hspan
  · cases hspan
  · obtain ⟨i, hi, rfl⟩ := List.mem_map.1 hspan
    rw [List.mem_range] at hi
    exact ⟨pa / 32 + i - pa / 4096 * 128, by omega, by omega⟩

theorem Tag.stale_iff (g : Tag) (o : Owner) (e : BitVec 16) :
    g.stale o e = true ↔ g.zero = true ∨ (o ≠ .device ∧ o ≠ .unassigned ∧ g.epoch ≠ e) := by
  cases o <;> simp [Tag.stale, ownerHolding]

/-! ### The block that a write finds (R231) -/

/-- The tag of a block that begins anew (R231). -/
def Tag.begun (g : Tag) : Tag :=
  { g with zero := false, poison := false, crcOff := false, pending := 0, checked := true
           crc := crc32c (List.replicate 4096 0) }

section Fresh
variable (s : Dev) (b : Nat) (whole : Bool)

theorem Dev.freshBlock_mem (a : Nat) :
    Tab.get 0 (s.freshBlock b whole).mem a = if whole = false ∧ a / 4096 = b then 0 else Tab.get 0 s.mem a := by
  cases whole with
  | true => exact (if_neg fun h => Bool.noConfusion h.1).symm
  | false =>
    have hmem : (s.freshBlock b false).mem = Tab.clearRange s.mem (b * 4096) (b * 4096 + 4096) := rfl
    rw [hmem, Laws.Tab.get_clearRange]
    congr 1
    simp only [true_and, eq_iff_iff]
    omega

theorem Dev.freshBlock_tag (q : Nat) : (s.freshBlock b whole).tag q = if q = b then (s.tag b).begun else s.tag q := by
  cases whole <;> exact Dev.tag_setTag _ b q _

theorem Dev.freshBlock_ecc {x : Nat} (h : Tab.get .clean s.ecc x = .clean) :
    Tab.get .clean (s.freshBlock b whole).ecc x = .clean := by
  have hecc : (s.freshBlock b whole).ecc = Tab.clearRange s.ecc (b * 128) (b * 128 + 128) := by cases whole <;> rfl
  rw [hecc, Laws.Tab.get_clearRange, h, ite_self]

end Fresh

/-- The block as a write finds it: begun anew where its data does not count. -/
def Dev.foundBy (s : Dev) (pa : Nat) (data : List (Option PByte)) (o : Owner) (e : BitVec 16) : Dev :=
  if (s.tag (pa / 4096)).stale o e then s.freshBlock (pa / 4096) (wholeBlock pa data) else s

section Found
variable (s : Dev) (pa : Nat) (data : List (Option PByte)) (o : Owner) (e : BitVec 16)

theorem Dev.foundBy_mem (a : Nat) : Tab.get 0 (s.foundBy pa data o e).mem a =
    if (s.tag (pa / 4096)).stale o e = true ∧ wholeBlock pa data = false ∧ a / 4096 = pa / 4096 then 0
    else Tab.get 0 s.mem a := by
  unfold Dev.foundBy
  split
  next hstale => simp only [Dev.freshBlock_mem, hstale, true_and]
  next hcounts => simp [hcounts]

theorem Dev.foundBy_tag_ne {q : Nat} (h : q ≠ pa / 4096) : (s.foundBy pa data o e).tag q = s.tag q := by
  unfold Dev.foundBy
  split
  · exact (s.freshBlock_tag ..).trans (if_neg h)
  · rfl

theorem Dev.foundBy_owner : ((s.foundBy pa data o e).tag (pa / 4096)).owner = (s.tag (pa / 4096)).owner := by
  unfold Dev.foundBy
  split
  · rw [s.freshBlock_tag, if_pos rfl]
    rfl
  · rfl

@[simp] theorem Dev.foundBy_outbox : (s.foundBy pa data o e).outbox = s.outbox := by
  unfold Dev.foundBy
  split
  · cases wholeBlock pa data <;> rfl
  · rfl

theorem Dev.foundBy_ecc {x : Nat} (h : Tab.get .clean s.ecc x = .clean) :
    Tab.get .clean (s.foundBy pa data o e).ecc x = .clean := by
  unfold Dev.foundBy
  split
  · exact s.freshBlock_ecc _ _ h
  · exact h

/-! ### The bytes, the tag and the pending count (R229, R230, R232) -/

theorem Dev.putBytes_mem (a : Nat) :
    Tab.get 0 (s.putBytes pa data e).mem a = ((byteAt pa data a).map (·.val)).getD (Tab.get 0 s.mem a) := by
  rw [← byteAt_map, ← Tab.get_setSome]
  rfl

theorem Dev.putBytes_tag_ne {q : Nat} (h : q ≠ pa / 4096) : (s.putBytes pa data e).tag q = s.tag q :=
  (Dev.tag_setTag ..).trans (if_neg h)

theorem Dev.putBytes_tag : ((s.putBytes pa data e).tag (pa / 4096)).owner = (s.tag (pa / 4096)).owner
    ∧ ((s.putBytes pa data e).tag (pa / 4096)).epoch = e := by
  have htag : (s.putBytes pa data e).tag (pa / 4096) = _ := (Dev.tag_setTag ..).trans (if_pos rfl)
  rw [htag]
  dsimp only
  split <;> exact ⟨rfl, rfl⟩

/-- One more write of the block awaits its clearance, if it is pending. -/
def Dev.pendAt (b : Nat) (pending : Bool) : Dev := if pending then s.setTag b (s.tag b).pend else s

theorem Dev.pendAt_mem (b : Nat) (pending : Bool) : (s.pendAt b pending).mem = s.mem := by
  cases pending <;> rfl

theorem Dev.pendAt_outbox (b : Nat) (pending : Bool) : (s.pendAt b pending).outbox = s.outbox := by
  cases pending <;> rfl

theorem Dev.pendAt_tag_ne {b q : Nat} (pending : Bool) (h : q ≠ b) : (s.pendAt b pending).tag q = s.tag q := by
  unfold Dev.pendAt
  split
  · exact (Dev.tag_setTag ..).trans (if_neg h)
  · rfl

theorem Dev.pendAt_tag (b : Nat) (pending : Bool) :
    (s.pendAt b pending).tag b = if pending then (s.tag b).pend else s.tag b := by
  unfold Dev.pendAt
  split
  · exact (Dev.tag_setTag ..).trans (if_pos rfl)
  · rfl

/-! ### A write that is accepted (R230, R231) -/

/-- Where no sector of the block stands in error, a write puts its bytes into the block that it finds. -/
theorem Dev.storeBlock_unmetered (pending : Bool) (hfits : pa % 4096 + data.length ≤ 4096)
    (hclean : ∀ j < 128, Tab.get .clean s.ecc (pa / 4096 * 128 + j) = .clean) :
    (s.storeBlock pa data o e pending).unmetered =
      (((s.foundBy pa data o e).putBytes pa data (if (ownerHolding o).isSome then e else 0)).pendAt
        (pa / 4096) pending).unmetered := by
  have hmerge : ∀ x ∈ (s.foundBy pa data o e).mergeReads pa data, Tab.get .clean (s.foundBy pa data o e).ecc x = .clean :=
    fun x hx => by
      unfold Dev.mergeReads at hx
      dsimp only at hx
      split at hx
      · cases hx
      · obtain ⟨j, hj, rfl⟩ := mem_writtenSectors hfits (List.mem_filter.1 hx).1
        exact s.foundBy_ecc _ _ _ _ (hclean j hj)
  have hmet := (s.foundBy pa data o e).meetAll_clean hmerge (s.place pa).stack o
  unfold Dev.storeBlock
  extract_lets b k whole fresh s1 rmw s2 s3 s4 s5
  have h2 : s2 = (s.foundBy pa data o e).putBytes pa data (if (ownerHolding o).isSome then e else 0) :=
    congrArg (fun d : Dev => d.putBytes pa data (if (ownerHolding o).isSome then e else 0)) hmet
  have h3 : s3 = ((s.foundBy pa data o e).putBytes pa data (if (ownerHolding o).isSome then e else 0)).pendAt b pending := by
    rw [← h2]
    rfl
  have h5 : s5.unmetered = s3.unmetered := by
    unfold s5
    split
    · exact s3.countMem_unmetered ..
    · exact (s4.countMem_unmetered ..).trans (s3.countMem_unmetered ..)
  rw [← h3, ← h5]
  split
  · exact s5.countMem_unmetered ..
  · rfl

/-- What an accepted write leaves: its bytes over what stood there, or over the zeros of a block begun anew; its owner and its
epoch on the block's tag; every other tag, and what has left the module. -/
theorem Dev.storeBlock_effect (pending : Bool) (hfits : pa % 4096 + data.length ≤ 4096)
    (hclean : ∀ j < 128, Tab.get .clean s.ecc (pa / 4096 * 128 + j) = .clean) :
    (∀ a, Tab.get 0 (s.storeBlock pa data o e pending).mem a = ((byteAt pa data a).map (·.val)).getD
        (if a / 4096 = pa / 4096 ∧ (s.tag (pa / 4096)).stale o e = true then 0 else Tab.get 0 s.mem a))
    ∧ ((s.storeBlock pa data o e pending).tag (pa / 4096)).owner = (s.tag (pa / 4096)).owner
    ∧ ((s.storeBlock pa data o e pending).tag (pa / 4096)).epoch = (if (ownerHolding o).isSome then e else 0)
    ∧ (pending = true → ((s.storeBlock pa data o e pending).tag (pa / 4096)).checked = false)
    ∧ (∀ q, q ≠ pa / 4096 → (s.storeBlock pa data o e pending).tag q = s.tag q)
    ∧ (s.storeBlock pa data o e pending).outbox = s.outbox := by
  have hstore := s.storeBlock_unmetered pa data o e pending hfits hclean
  generalize hepoch : (if (ownerHolding o).isSome then e else 0) = e' at hstore
  obtain ⟨howner, hput⟩ := (s.foundBy pa data o e).putBytes_tag pa data e'
  rw [Dev.foundBy_owner] at howner
  refine ⟨fun a => ?_, ?_, ?_, fun hpending => ?_, fun q hq => ?_, ?_⟩
  · rw [Dev.mem_congr hstore, Dev.pendAt_mem, Dev.putBytes_mem, Dev.foundBy_mem]
    by_cases hbyte : byteAt pa data a = none
    · have hpart : a / 4096 = pa / 4096 → wholeBlock pa data = false := fun ha =>
        Bool.eq_false_iff.2 fun hwhole => byteAt_of_wholeBlock hwhole ha hbyte
      rw [hbyte]
      exact if_congr (by tauto) rfl rfl
    · obtain ⟨v, hv⟩ := Option.ne_none_iff_exists'.1 hbyte
      rw [hv]
      rfl
  · rw [Dev.tag_congr hstore, Dev.pendAt_tag]
    split <;> exact howner
  · rw [Dev.tag_congr hstore, Dev.pendAt_tag]
    split <;> exact hput
  · rw [Dev.tag_congr hstore, Dev.pendAt_tag, if_pos hpending]
    rfl
  · rw [Dev.tag_congr hstore, Dev.pendAt_tag_ne _ _ hq, Dev.putBytes_tag_ne _ _ _ _ hq, Dev.foundBy_tag_ne _ _ _ _ _ hq]
  · rw [Dev.outbox_congr hstore, Dev.pendAt_outbox]
    exact s.foundBy_outbox pa data o e

/-! ### A write at its controller (R228, R231, R404) -/

theorem Dev.writeBlock_of_refused (pending : Bool)
    (h : s.stackLost (s.place pa).stack = true ∨ s.staleEpoch o e = true ∨ (s.tag (pa / 4096)).owner ≠ o) :
    (s.writeBlock pa data o e pending).unmetered = s.unmetered := by
  unfold Dev.writeBlock
  dsimp only
  split_ifs with hlost hstale howner hempty
  · exact s.offlineAccess_unmetered ..
  · exact s.countMem_unmetered ..
  · simp
  · simp
  · exact absurd h (by simpa [hlost, hstale] using howner)

variable {s pa data o e} in
theorem Dev.writeBlock_of_accepted (pending : Bool) (hon : s.stackLost (s.place pa).stack = false)
    (hfresh : s.staleEpoch o e = false) (howner : (s.tag (pa / 4096)).owner = o) (hsome : ∃ b ∈ data, b ≠ none) :
    s.writeBlock pa data o e pending = (s.tagRead (s.place pa).stack o).storeBlock pa data o e pending := by
  have hbytes : data.all (·.isNone) = false := by
    obtain ⟨b, hb, hne⟩ := hsome
    exact List.all_eq_false.2 ⟨b, hb, by simpa using hne⟩
  simp [Dev.writeBlock, hon, hfresh, howner, hbytes]

end Found

/-- No running mirror generation waits to read a block (R404). -/
def Dev.mirrorApart (s : Dev) (b : Nat) : Prop :=
  ∀ (h : HoldId) (m : MirrorSend), (s.holding h).mirrorSend = some m → ∀ q ∈ m.toRead, q.2 ≠ b

theorem Dev.mirrorFirst_of_apart {s : Dev} {b : Nat} (hapart : s.mirrorApart b) : s.mirrorFirst b = s :=
  List.foldlRecOn allHoldings _ (motive := fun d => d = s) rfl fun d hd h _ => by
    subst hd
    dsimp only
    split
    · rfl
    next m hm =>
      have hnone : m.toRead.filter (fun q => q.2 == b) = [] :=
        List.filter_eq_nil_iff.2 fun q hq => by simpa using hapart h m hm q hq
      rw [hnone]
      rfl

theorem Dev.queuesFor_write {s : Dev} {pa : Nat} {o : Owner} {e : BitVec 16} {cls : MemClass} {data : List (Option PByte)}
    {pending : Bool} (hcalm : s.quiesced pa = false) (hroom : (pending && s.pendingFull pa o e) = false) :
    s.queuesFor [] (.write pa o e cls data pending) = none := by
  simp [Dev.queuesFor, MemReq.address, hcalm, hroom]

theorem exec_memWrite_of_ready {s : State} {pa : Nat} {o : Owner} {e : BitVec 16} (cls : MemClass)
    (data : List (Option PByte)) {pending : Bool} (hup : s.dev.memoryUp = true) (hin : memExists pa = true)
    (hidle : s.dev.memWaits = []) (hcalm : s.dev.quiesced pa = false) (hroom : (pending && s.dev.pendingFull pa o e) = false)
    (hapart : s.dev.mirrorApart (pa / 4096)) :
    exec (.memWrite pa o e cls data pending false) s = .next { s with
      dev := s.dev.ctrlScope ((s.dev.lcSlots (s.dev.place pa).stack cls).writeBlock pa data o e pending) } := by
  have hserved : s.dev.memWrite pa o e cls data pending false = s.dev.perform (.write pa o e cls data pending) :=
    Dev.submit_of_ready hidle (Dev.queuesFor_write hcalm hroom)
  have hholdings : ∀ h, (s.dev.lcSlots (s.dev.place pa).stack cls).holding h = s.dev.holding h := fun h => by
    unfold Dev.lcSlots
    split <;> rfl
  have hfirst : (s.dev.lcSlots (s.dev.place pa).stack cls).mirrorFirst (pa / 4096) = s.dev.lcSlots (s.dev.place pa).stack cls :=
    Dev.mirrorFirst_of_apart fun h m hm => hapart h m (hholdings h ▸ hm)
  have hperform : s.dev.perform (.write pa o e cls data pending)
      = ((s.dev.lcSlots (s.dev.place pa).stack cls).mirrorFirst (pa / 4096)).writeBlock pa data o e pending := rfl
  rw [← hfirst, ← hperform, ← hserved]
  exact atAddress_next hin hup _

/-- Settles O29: an accepted write by what `storeBlock` leaves, a refused one by the counters alone that it touches. -/
theorem writesStoreTheirBytesAlone : Obligations.WritesStoreTheirBytesAlone := by
  unfold Obligations.WritesStoreTheirBytesAlone
  intro s pa o e cls data pending hup hin hidle hcalm hroom hapart k g begun
  have hrun := exec_memWrite_of_ready cls data hup hin hidle hcalm hroom hapart
  have hslots := s.dev.lcSlots_unmetered (s.dev.place pa).stack cls
  generalize s.dev.lcSlots (s.dev.place pa).stack cls = d at hrun hslots
  have hdown : d.stackLost (d.place pa).stack = s.dev.stackLost k := by
    rw [Dev.place_congr hslots, Dev.stackLost_congr hslots]
  have hepoch := Dev.staleEpoch_congr hslots o e
  have htag := Dev.tag_congr hslots
  refine ⟨fun hon hfresh howner hsome hfits hclean => ?_, fun hrefused => ?_⟩
  · rw [Dev.writeBlock_of_accepted pending (hdown.trans hon) (hepoch.trans hfresh) ((htag _).symm ▸ howner) hsome] at hrun
    have hread := (d.tagRead_unmetered (d.place pa).stack o).trans hslots
    generalize d.tagRead (d.place pa).stack o = r at hrun hread
    obtain ⟨hmem, htagOwner, htagEpoch, hchecked, hothers, hout⟩ := r.storeBlock_effect pa data o e pending hfits
      (by rwa [Dev.ecc_congr hread])
    rw [Dev.tag_congr hread] at hmem htagOwner
    refine ⟨_, hrun, rfl, fun a => (hmem a).trans ?_, htagOwner.trans howner, htagEpoch.trans ?_, hchecked,
      fun q hq => (hothers q hq).trans (Dev.tag_congr hread q), hout.trans (Dev.outbox_congr hread), ?_⟩
    · change _ = (match byteAt pa data a with | some b => b.val | none => _)
      cases byteAt pa data a with
      | some b => rfl
      | none => exact if_congr (and_congr_right' (Tag.stale_iff ..)) rfl (by rw [Dev.mem_congr hread])
    · cases o <;> rfl
    · exact (r.storeBlock_cores pa data o e pending).trans (Dev.cores_congr hread)
  · have hkept := (d.writeBlock_of_refused pa data o e pending (by rwa [hdown, hepoch, htag])).trans hslots
    exact ⟨_, hrun, rfl, (Dev.mem_congr hkept :), (Dev.tags_congr hkept :), (Dev.secPoison_congr hkept :)⟩

end Sys2Proof.Machine

/-! Clearances and scrub (R222, R232, R236, R383 to R385). -/

namespace Sys2Proof.Machine

section Clearances
variable (s : Dev) (b : Nat) (secs : List Nat)

/-! ### What a clearance makes of its block (R232, R383) -/

theorem get_foldl_mark (p : Tab Bool) (x : Nat) :
    Tab.get false (secs.foldl (fun sp y => Tab.set false sp y true) p) x = (Tab.get false p x || secs.contains x) := by
  induction secs generalizing p with
  | nil => simp
  | cons y ys ih =>
    rw [List.foldl_cons, ih, Laws.Tab.get_set, List.contains_cons]
    by_cases hxy : x = y
    · simp [hxy]
    · rw [if_neg hxy, beq_eq_false_iff_ne.2 hxy, Bool.false_or]

theorem Dev.clearTag_tag (kind : Clearance) :
    let n : Fin 16 := Fin.ofNat 16 ((s.tag b).pending.val - 1)
    (s.clearTag b secs kind).tag b = { s.tag b with
      pending := n, checked := decide (n = 0), poison := (s.tag b).poison || kind == .fail
      crcOff := (s.tag b).crcOff || kind == .withdraw } := by
  intro n
  have hset : ∀ t, (s.setTag b t).tag b = t := fun t => (Dev.tag_setTag ..).trans (if_pos rfl)
  cases kind with
  | pass => exact (hset _).trans (by simp [n])
  | fail => exact (hset _).trans (by simp [n])
  | withdraw => exact (hset _).trans (by simp [n])

theorem Dev.clearTag_secPoison (kind : Clearance) (x : Nat) : Tab.get false (s.clearTag b secs kind).secPoison x
    = (Tab.get false s.secPoison x || (kind == .withdraw && secs.contains x)) := by
  cases kind with
  | pass => exact (Bool.or_false _).symm
  | fail => exact (Bool.or_false _).symm
  | withdraw => exact get_foldl_mark secs s.secPoison x

theorem Dev.clearTag_mem (kind : Clearance) : (s.clearTag b secs kind).mem = s.mem := by cases kind <;> rfl

theorem Dev.clearTag_pend (kind : Clearance) : (s.clearTag b secs kind).pend = s.pend := by cases kind <;> rfl

/-! ### A clearance at its controller (R383, R386, R440) -/

variable {s b secs} {o : Owner} {e : BitVec 16} {kind : Clearance}

/-- A device in which the write that a clearance settles is pending no more. -/
def Dev.unpended (s : Dev) (b : Nat) (secs : List Nat) : Dev := { s with pend := s.pend.eraseP (s.clears b secs) }

/-- Where no decision holds its write, a clearance takes the write from those that are pending and comes to its controller. -/
theorem Dev.clearance_of_decided
    (hdecided : (s.pend.any fun p => p.block == b && p.sectors == secs) = true → s.pend.any (s.clears b secs) = true) :
    s.clearance b secs o e kind = (s.unpended b secs).clear b secs o e kind := by
  unfold Dev.clearance
  refine if_neg fun hheld => ?_
  rw [Bool.and_eq_true] at hheld
  rw [hdecided hheld.1] at hheld
  exact Bool.noConfusion hheld.2

variable (hidle : s.memWaits = [])
include hidle

theorem Dev.clear_of_current (hfresh : s.staleEpoch o e = false) (hon : s.stackLost (s.place (b * 4096)).stack = false)
    (hcalm : s.quiesced (b * 4096) = false) :
    s.clear b secs o e kind = (s.tagRead (s.place (b * 4096)).stack o).clearTag b secs kind := by
  have hready : s.queuesFor [] (.clear b secs o e kind) = none := by simp [Dev.queuesFor, MemReq.address, hcalm]
  have hperform : s.perform (.clear b secs o e kind) = (s.tagRead (s.place (b * 4096)).stack o).clearTag b secs kind := by
    simp [Dev.perform, MemReq.address, hfresh, hon]
  rw [Dev.clear, Dev.request_of_ready hidle hready,
    Dev.release_of_idle ((s.perform_attends (.clear b secs o e kind)).waits.trans hidle), hperform]

omit hidle in
/-- A request that its quiesced channel holds goes on waiting there. -/
theorem Dev.release_of_quiesced {r : MemReq} {fails : Bool} (hwaits : s.memWaits = [⟨r, .quiesced, fails⟩])
    (hheld : s.queuesFor [] r = some .quiesced) : s.release = s := by
  have hpass : s.releaseFrom [] s.memWaits = s := by
    simp only [hwaits, Dev.releaseFrom, hheld, if_true, List.nil_append]
    rw [← hwaits]
  simp [Dev.release, Dev.releaseTimes, hwaits ▸ hpass, hwaits]

/-- A clearance of another epoch changes nothing; one to a quiesced channel waits there first. -/
theorem Dev.clear_of_stale (hstale : s.staleEpoch o e = true) :
    ∃ ws, s.clear b secs o e kind = { s with memWaits := ws } := by
  have hperform : s.perform (.clear b secs o e kind) = s := by simp [Dev.perform, hstale]
  cases hready : s.queuesFor [] (.clear b secs o e kind) with
  | none =>
    rw [Dev.clear, Dev.request_of_ready hidle hready, hperform, Dev.release_of_idle hidle]
    exact ⟨s.memWaits, rfl⟩
  | some why =>
    have hwhy : why = .quiesced := by
      unfold Dev.queuesFor at hready
      split at hready
      · exact absurd ‹_› Bool.false_ne_true
      · split at hready
        · exact (Option.some.inj hready).symm
        · cases hready
    subst hwhy
    have hreq : s.request (.clear b secs o e kind) = { s with memWaits := [⟨.clear b secs o e kind, .quiesced, false⟩] } := by
      simp only [Dev.request, hidle, hready, Dev.addWait, if_true]
      rfl
    have hstays := Dev.release_of_quiesced
      (s := { s with memWaits := [⟨.clear b secs o e kind, .quiesced, false⟩] }) rfl hready
    exact ⟨_, (congrArg Dev.release hreq).trans hstays⟩

end Clearances

/-! ### Scrub (R222, R236) -/

section Scrub
variable (s : Dev) (b : Nat) (k : StackId)

/-- The tag of a block after scrub: a mismatch of its CRC poisons it, and a CRC that was off is set where no sector is
poisoned. -/
theorem Dev.scrubTag_tag :
    let g := s.tag b
    let marked := (List.range 128).any fun i => Tab.get false s.secPoison (b * 128 + i)
    let crc := crc32c (s.stored (b * 4096) 4096)
    (s.scrubTag b k).tag b = if g.zero then g
      else if !g.poison && !g.crcOff && !marked && crc != g.crc then { g with poison := true }
      else if g.crcOff && !marked then { g with crcOff := false, crc := crc } else g := by
  have hmarked : (blockSectors b).any (fun x => Tab.get false s.secPoison x)
      = (List.range 128).any fun i => Tab.get false s.secPoison (b * 128 + i) := List.any_map
  have hset : ∀ t, (s.setTag b t).tag b = t := fun t => (Dev.tag_setTag ..).trans (if_pos rfl)
  unfold Dev.scrubTag
  dsimp only
  rw [hmarked]
  split_ifs
  · rfl
  · exact hset _
  · exact hset _
  · rfl

theorem Dev.scrubTag_mem : (s.scrubTag b k).mem = s.mem := by
  unfold Dev.scrubTag
  dsimp only
  split_ifs <;> rfl

/-- Scrub's comparison counts its mismatches alone. -/
theorem Dev.scrubTag_ctr {off : Nat} (h : off % 256 ≠ 0x60) :
    (s.scrubTag b k).ctr (stackReg k off) = s.ctr (stackReg k off) := by
  unfold Dev.scrubTag
  dsimp only
  split_ifs
  · rfl
  · exact Dev.ctr_countMem_ne _ k k .device 1 h
  · rfl
  · rfl

variable {s b}

theorem Dev.queuesFor_scrub (hcalm : s.quiesced (b * 4096) = false) : s.queuesFor [] (.scrub b) = none := by
  simp [Dev.queuesFor, MemReq.address, hcalm]

theorem Dev.scrubRead_of_clean (hon : s.stackLost (s.place (b * 4096)).stack = false)
    (hclean : ∀ j < 128, Tab.get .clean s.ecc (b * 128 + j) = .clean) :
    s.scrubRead b = ((s.tagRead (s.place (b * 4096)).stack .device).countMem (s.place (b * 4096)).stack .device 0x10 128).scrubTag
      b (s.place (b * 4096)).stack := by
  have hmet := (s.tagRead (s.place (b * 4096)).stack .device).meetAll_clean (secs := blockSectors b) (fun x hx => by
    obtain ⟨j, hj, rfl⟩ := mem_blockSectors.1 hx
    exact hclean j hj) (s.place (b * 4096)).stack .device
  unfold Dev.scrubRead
  dsimp only
  rw [hmet, if_neg (by simp [hon])]

/-- A scrub that comes as its stack runs and nothing holds it. -/
theorem Dev.scrubBlock_of_ready (onDie : Nat) (hon : s.stackLost (s.place (b * 4096)).stack = false)
    (hrest : s.power.transition = false)
    (hperiod : (s.reg (stackReg (s.place (b * 4096)).stack 0x0C)).setWidth 8 ≠ (0 : BitVec 8)) (hidle : s.memWaits = [])
    (hcalm : s.quiesced (b * 4096) = false) :
    s.scrubBlock b [] onDie = if onDie = 0 then s.scrubRead b
      else (s.scrubRead b).countMem (s.place (b * 4096)).stack .device 0x58 onDie := by
  have hserved : s.submit (.scrub b) = s.scrubRead b := Dev.submit_of_ready hidle (Dev.queuesFor_scrub hcalm)
  rw [← hserved]
  exact if_neg (by simpa [hon, hrest] using hperiod)

theorem Dev.scrubBlock_of_stopped (onDie : Nat) (hstops : s.stackLost (s.place (b * 4096)).stack = true
    ∨ s.power.transition = true ∨ (s.reg (stackReg (s.place (b * 4096)).stack 0x0C)).setWidth 8 = (0 : BitVec 8)) :
    s.scrubBlock b [] onDie = s := if_pos (by simpa [or_assoc] using hstops)

/-- What scrub leaves of a block without errors: its tag as compared, and the count of the sectors that it read. -/
theorem Dev.scrubBlock_effect (onDie : Nat) (hon : s.stackLost (s.place (b * 4096)).stack = false)
    (hclean : ∀ j < 128, Tab.get .clean s.ecc (b * 128 + j) = .clean) :
    let k := (s.place (b * 4096)).stack
    let t := if onDie = 0 then s.scrubRead b else (s.scrubRead b).countMem k .device 0x58 onDie
    t.tag b = (s.scrubTag b k).tag b ∧ t.ctr (stackReg k 0x10) = addStop64 (s.ctr (stackReg k 0x10)) 128 ∧ t.mem = s.mem
      ∧ t.cores = s.cores := by
  intro k t
  have hread := ((s.tagRead k .device).countMem_unmetered k .device 0x10 128).trans (s.tagRead_unmetered k .device)
  have hscrub : s.scrubRead b = _ := Dev.scrubRead_of_clean hon hclean
  have hmeter : t.unmetered = (s.scrubRead b).unmetered := by
    unfold t
    split
    · rfl
    · exact Dev.countMem_unmetered ..
  have hctr : t.ctr (stackReg k 0x10) = (s.scrubRead b).ctr (stackReg k 0x10) := by
    unfold t
    split
    · rfl
    · exact Dev.ctr_countMem_ne _ k k .device onDie (by decide)
  refine ⟨?_, ?_, ?_, (Dev.cores_congr hmeter).trans (s.scrubRead_cores b)⟩
  · rw [Dev.tag_congr hmeter, hscrub, Dev.scrubTag_tag, Dev.scrubTag_tag, Dev.tag_congr hread, Dev.secPoison_congr hread,
      Dev.stored_congr hread]
  · rw [hctr, hscrub, Dev.scrubTag_ctr _ _ _ (by decide), Dev.ctr_countMem, Dev.ctr_tagRead_ne _ _ _ _ (by decide)]
  · rw [Dev.mem_congr hmeter, hscrub, Dev.scrubTag_mem, Dev.mem_congr hread]

end Scrub

/-- Settles O30: a clearance by what it makes of its block's tag and sectors, scrub by its comparison. -/
theorem clearancesSettleAndScrubCompares : Obligations.ClearancesSettleAndScrubCompares := by
  unfold Obligations.ClearancesSettleAndScrubCompares
  refine ⟨fun s b secs o e kind hup hin hidle hdecided => ?_, fun s b onDie hup hin => ?_⟩
  · have hrun : exec (.clearance b secs o e kind) s = _ := atAddress_next hin hup _
    rw [Dev.clearance_of_decided hdecided] at hrun
    constructor
    · intro hfresh hon hcalm g n
      rw [Dev.clear_of_current (s := s.dev.unpended b secs) hidle hfresh hon hcalm] at hrun
      have hread := (s.dev.unpended b secs).tagRead_unmetered ((s.dev.unpended b secs).place (b * 4096)).stack o
      refine ⟨_, hrun, rfl, (Dev.clearTag_tag _ b secs kind).trans ?_, fun x => (Dev.clearTag_secPoison _ b secs kind x).trans ?_,
        (Dev.clearTag_pend ..).trans (Dev.pend_congr hread), (Dev.clearTag_mem ..).trans (Dev.mem_congr hread :)⟩
      · rw [Dev.tag_congr hread]
        rfl
      · rw [Dev.secPoison_congr hread]
        rfl
    · intro hstale
      obtain ⟨ws, hclear⟩ := Dev.clear_of_stale (s := s.dev.unpended b secs) (b := b) (secs := secs) (kind := kind) hidle hstale
      rw [hclear] at hrun
      exact ⟨_, hrun, rfl, rfl, rfl, rfl⟩
  · intro k g crc marked
    have hrun : exec (.scrubBlock b [] onDie) s = _ := atAddress_next hin hup _
    constructor
    · intro hon hrest hperiod hidle hcalm hclean
      obtain ⟨htag, hctr, hmem, hcores⟩ := Dev.scrubBlock_effect onDie hon hclean
      rw [Dev.scrubBlock_of_ready onDie hon hrest hperiod hidle hcalm] at hrun
      exact ⟨_, hrun, rfl, htag.trans (s.dev.scrubTag_tag b k), hctr, hmem, hcores⟩
    · intro hstops
      rw [Dev.scrubBlock_of_stopped onDie hstops] at hrun
      exact hrun

end Sys2Proof.Machine

/-! Reissues after parity failures, and stacks in heat (R237 to R240). -/

namespace Sys2Proof.Machine

/-! ### A failure of parity does not hold or free a request (R231, R232, R238) -/

section Order

theorem Dev.queuesFor_congr {s t : Dev} (hplace : t.place = s.place) (hcalm : t.quiesced = s.quiesced)
    (hlost : t.stackLost = s.stackLost) (htag : t.tag = s.tag) (hepoch : t.staleEpoch = s.staleEpoch) :
    t.queuesFor = s.queuesFor := by
  funext ahead r
  simp only [Dev.queuesFor, Dev.mustWait, Dev.pendingFull, hplace, hcalm, hlost, htag, hepoch]
  cases r <;> rfl

variable (s : Dev)

/-- A change of a stack that tells of its failures alone. -/
theorem Dev.modStack_queuesFor (k : StackId) {f : Stack → Stack}
    (hf : ∀ x, (f x).offline = x.offline ∧ (f x).fenced = x.fenced ∧ (f x).retraining = x.retraining ∧ (f x).channel = x.channel) :
    (s.modStack k f).queuesFor = s.queuesFor := by
  have hstack : ∀ j, ((s.modStack k f).stack j).offline = (s.stack j).offline
      ∧ ((s.modStack k f).stack j).fenced = (s.stack j).fenced
      ∧ ((s.modStack k f).stack j).retraining = (s.stack j).retraining
      ∧ ((s.modStack k f).stack j).channel = (s.stack j).channel := fun j => by
    rw [Dev.stack_modStack]
    split
    next hj => exact hj ▸ hf _
    next => exact ⟨rfl, rfl, rfl, rfl⟩
  have hplace : (s.modStack k f).place = s.place := rfl
  refine Dev.queuesFor_congr hplace (funext fun pa => ?_) (funext fun j => ?_) rfl rfl
  · obtain ⟨_, _, hretraining, hchannel⟩ := hstack (s.place pa).stack
    simp only [Dev.quiesced, hplace, hretraining, hchannel]
  · obtain ⟨hoffline, hfenced, _, _⟩ := hstack j
    simp only [Dev.stackLost, hoffline, hfenced]
    rfl

theorem Dev.wantRetrain_queuesFor (k : StackId) (ch : Fin 32) : (s.wantRetrain k ch).queuesFor = s.queuesFor := by
  have hmarked := s.modStack_queuesFor k (f := fun x => { x with retrainPending := true, faulty := some ch })
    fun _ => ⟨rfl, rfl, rfl, rfl⟩
  unfold Dev.wantRetrain
  dsimp only
  split
  · rfl
  · exact hmarked

theorem Dev.parityFailed_queuesFor (k : StackId) (ch : Fin 32) : (s.parityFailed k ch).queuesFor = s.queuesFor := by
  have hrecorded := fun l => s.modStack_queuesFor k (f := fun x => { x with parityTimes := l }) fun _ => ⟨rfl, rfl, rfl, rfl⟩
  unfold Dev.parityFailed
  dsimp only
  split
  · exact (Dev.wantRetrain_queuesFor ..).trans (hrecorded _)
  · exact hrecorded _

end Order

/-! ### The reissue of a request (R237) -/

section Reissue
variable (s : Dev)

/-- The device as a waiting request of a channel is issued again. -/
def Dev.issueAgain (k : StackId) (ch : Fin 32) (w : MemWait) : Dev :=
  (if w.fails then s.parityFailed k ch else s).countMem k .device 0x38 1

/-- The same, where the request leaves no other waiting. -/
def Dev.reissueLast (k : StackId) (ch : Fin 32) (w : MemWait) : Dev := { s.issueAgain k ch w with memWaits := [] }

theorem Dev.issueAgain_frame (k : StackId) (ch : Fin 32) (w : MemWait) :
    ∃ x r v y, s.issueAgain k ch w = { s with
      stackTab := x, regs := r, service := v
      ctrs := Tab.set 0 s.ctrs (stackReg k 0x38) (addStop64 (s.ctr (stackReg k 0x38)) 1), shadow := y } := by
  unfold Dev.issueAgain
  split
  · obtain ⟨x, r, v, hframe⟩ := s.parityFailed_frame k ch
    rw [hframe]
    exact ⟨x, r, v, _, rfl⟩
  · exact ⟨s.stackTab, s.regs, s.service, _, rfl⟩

theorem Dev.issueAgain_queuesFor (k : StackId) (ch : Fin 32) (w : MemWait) :
    (s.issueAgain k ch w).queuesFor = s.queuesFor := by
  unfold Dev.issueAgain
  split
  · exact s.parityFailed_queuesFor k ch
  · rfl

theorem splitParity_of_front {mine : MemWait → Bool} {w : MemWait} {rest : List MemWait} (h : mine w = true) :
    splitParity mine (w :: rest) = some ([], w, rest) := by
  rw [splitParity, if_pos h]

variable {s} {k : StackId} {ch : Fin 32} {w : MemWait} {n : Nat} {rest : List MemWait}
  (hwaits : s.memWaits = w :: rest) (hwhy : w.why = .parity n) (hstack : (s.place w.req.address).stack = k)
  (hchannel : (s.place w.req.address).channel = ch.val)
include hwaits hwhy hstack hchannel

/-- The oldest waiting request, where it waits for its reissue on the channel. -/
theorem Dev.parityReissue_of_front (passes : Bool) : s.parityReissue k ch passes =
    if passes then
      match (s.issueAgain k ch w).queuesFor [] w.req with
      | none => (({ s.issueAgain k ch w with memWaits := rest } : Dev).perform w.req).release
      | some why => { s.issueAgain k ch w with memWaits := { w with why := why, fails := false } :: rest }
    else if 4 ≤ n + 1 then (({ s.issueAgain k ch w with memWaits := rest } : Dev).exhausted w.req).release
    else { s.issueAgain k ch w with memWaits := { w with why := .parity (n + 1), fails := false } :: rest } := by
  unfold Dev.parityReissue
  extract_lets mine
  have hmine : mine w = true := by simp [mine, hstack, hchannel, hwhy]
  rw [hwaits, splitParity_of_front hmine]
  simp only [hwhy]
  rfl

theorem Dev.parityReissue_of_failed (hn : n < 3) : s.parityReissue k ch false =
    { s.issueAgain k ch w with memWaits := { w with why := .parity (n + 1), fails := false } :: rest } := by
  rw [Dev.parityReissue_of_front hwaits hwhy hstack hchannel, if_neg Bool.false_ne_true, if_neg (by omega)]

end Reissue

/-! ### A request whose reissues are exhausted (R237) -/

section Reads
variable (s : Dev)

/-! Reads answer nobody themselves, and give 32 bytes of each sector (R222, R230). -/

@[simp] theorem Dev.offlineAccess_outbox (k : StackId) (o : Owner) : (s.offlineAccess k o).outbox = s.outbox := by
  unfold Dev.offlineAccess
  split <;> rfl

@[simp] theorem Dev.eccRead_outbox (k : StackId) (o : Owner) (sec : Nat) (e : EccOutcome) :
    (s.eccRead k o sec e).outbox = s.outbox := by
  cases e <;> rfl

@[simp] theorem Dev.meetEcc_outbox (k : StackId) (o : Owner) (sec : Nat) : (s.meetEcc k o sec).outbox = s.outbox := by
  unfold Dev.meetEcc
  split
  · rfl
  · exact Dev.eccRead_outbox ..

@[simp] theorem Dev.readSector_outbox (sec : Nat) (o : Owner) : (s.readSector sec o).2.outbox = s.outbox := by
  have hread : (s.readSector1 sec o).2.outbox = s.outbox := by
    unfold Dev.readSector1
    dsimp only
    split_ifs
    · exact s.offlineAccess_outbox ..
    · rfl
    · rfl
    · rfl
    · exact Dev.meetEcc_outbox ..
  obtain ⟨z, hframe⟩ := s.readSector_frame sec o
  rw [hframe, ← hread]

theorem Dev.readSector_length (sec : Nat) (o : Owner) : (s.readSector sec o).1.data.length = 32 := by
  rw [Dev.readSector_fst]
  unfold Dev.readSector1
  dsimp only
  split_ifs <;> simp [poisonedBytes, zeroBytes, Dev.stored, Tab.getList]

theorem Dev.readSector_onlyRead (sec : Nat) (o : Owner) : s.OnlyRead (s.readSector sec o).2 := by
  obtain ⟨z, hframe⟩ := s.readSector_frame sec o
  rw [hframe]
  exact (s.readSector1_onlyRead sec o).trans (.of_eq rfl rfl)

variable (o : Owner) (secs : List Nat)

@[simp] theorem Dev.readSectors_outbox : (s.readSectors o secs).2.outbox = s.outbox := by
  induction secs generalizing s with
  | nil => rfl
  | cons x xs ih => rw [Dev.readSectors, ih, Dev.readSector_outbox]

theorem Dev.readSectors_length : ((s.readSectors o secs).1.flatMap (·.data)).length = 32 * secs.length := by
  induction secs generalizing s with
  | nil => rfl
  | cons x xs ih =>
    rw [Dev.readSectors, List.flatMap_cons, List.length_append, ih, Dev.readSector_length, List.length_cons]
    omega

theorem Dev.readSectors_onlyRead : s.OnlyRead (s.readSectors o secs).2 := by
  induction secs generalizing s with
  | nil => exact .refl s
  | cons x xs ih => exact (s.readSector_onlyRead x o).trans (ih _)

end Reads

section Exhausted
variable (s : Dev)

theorem Dev.tellFailure_frame (r : MemReq) : ∃ x v g y, s.tellFailure r = { s with
    stackTab := x, service := v, regs := g, shadow := y
    ctrs := Tab.set 0 s.ctrs (stackReg (s.place r.address).stack 0x40)
      (addStop64 (s.ctr (stackReg (s.place r.address).stack 0x40)) 1) } := by
  obtain ⟨x, g, v, hframe⟩ := ((s.countMem (s.place r.address).stack .device 0x40 1).event
    (memEvent (s.place r.address).stack) 4).wantRetrain_frame (s.place r.address).stack (Fin.ofNat 32 (s.place r.address).channel)
  exact ⟨x, v, g, _, hframe⟩

theorem Dev.wantRetrain_pending (k : StackId) (ch : Fin 32) : ((s.wantRetrain k ch).stack k).retrainPending = true := by
  have hmarked := s.stack_modStack k k fun x => { x with retrainPending := true, faulty := some ch }
  rw [if_pos rfl] at hmarked
  unfold Dev.wantRetrain
  dsimp only
  split
  next hpending => exact hpending
  next => exact congrArg (·.retrainPending) hmarked

theorem Dev.tellFailure_pending (r : MemReq) :
    ((s.tellFailure r).stack (s.place r.address).stack).retrainPending = true := Dev.wantRetrain_pending ..

theorem Dev.exhausted_standing (r : MemReq) : (s.exhausted r).standing = (s.tellFailure r).standing := by
  cases r with
  | read sec whole o cls wait =>
    cases whole with
    | false => rw [Dev.exhausted_sector, Dev.emit_standing, Dev.metPoison_standing]
    | true => simp [Dev.exhausted_block, Dev.readAround]
  | write pa o e cls data pending => rfl
  | clear b secs o e kind => rfl
  | scrub b => rfl

theorem Dev.exhausted_onlyRead (r : MemReq) : (s.tellFailure r).OnlyRead (s.exhausted r) := by
  cases r with
  | read sec whole o cls wait =>
    have hmet := fun (d : Dev) => d.metPoison_frame (ownerHolding o) 1
    cases whole with
    | false =>
      obtain ⟨z, hmet⟩ := hmet (s.tellFailure (.read sec false o cls wait))
      rw [Dev.exhausted_sector, hmet]
      exact .of_eq rfl rfl
    | true =>
      obtain ⟨z, hmet⟩ := hmet ((s.tellFailure (.read sec true o cls wait)).readAround sec o).2.2
      rw [Dev.exhausted_block]
      dsimp only
      rw [hmet]
      exact ((Dev.readSectors_onlyRead ..).trans (Dev.readSectors_onlyRead ..)).trans (.of_eq rfl rfl)
  | write pa o e cls data pending => exact .of_eq rfl rfl
  | clear b secs o e kind => exact .refl _
  | scrub b => exact .refl _

@[simp] theorem Dev.metPoison_outbox (h : Option HoldId) (n : Nat) : (s.metPoison h n).outbox = s.outbox := by
  obtain ⟨_, hmet⟩ := s.metPoison_frame h n
  rw [hmet]

@[simp] theorem Dev.tellFailure_outbox (r : MemReq) : (s.tellFailure r).outbox = s.outbox := by
  obtain ⟨_, _, _, _, hframe⟩ := s.tellFailure_frame r
  rw [hframe]

theorem poisonedBytes_poison {a n i : Nat} (h : i < n) : ∃ b, (poisonedBytes a n)[i]? = some b ∧ b.poison = true := by
  simp [poisonedBytes, h]

theorem Dev.exhausted_sector_outbox (sec : Nat) (o : Owner) (cls : MemClass) (wait : Bool) :
    (s.exhausted (.read sec false o cls wait)).outbox = s.outbox ++ [.readData (poisonedBytes (sec * 32) 32) true] := by
  rw [Dev.exhausted_sector, Dev.emit, Dev.metPoison_outbox, Dev.tellFailure_outbox]

theorem getElem?_between {α : Type} {x y z : List α} {n i : Nat} (hx : x.length = n) (hi : i < y.length) :
    (x ++ y ++ z)[n + i]? = y[i]? := by
  rw [List.append_assoc, List.getElem?_append_right (by omega), List.getElem?_append_left (by omega), hx,
    Nat.add_sub_cancel_left]

/-- The bytes of a block before its failing sector, and those behind it. -/
theorem Dev.readAround_lengths (sec : Nat) (o : Owner) :
    ((s.readAround sec o).1.flatMap (·.data)).length = sec % 128 * 32
      ∧ ((s.readAround sec o).2.1.flatMap (·.data)).length = (127 - sec % 128) * 32 := by
  have hblock : (blockSectors (sec / 128)).length = 128 := by simp [blockSectors]
  constructor <;> rw [Dev.readAround, Dev.readSectors_length]
  · rw [List.length_take, hblock]
    omega
  · rw [List.length_drop, hblock]
    omega

@[simp] theorem Dev.readAround_outbox (sec : Nat) (o : Owner) : (s.readAround sec o).2.2.outbox = s.outbox := by
  rw [Dev.readAround, Dev.readSectors_outbox, Dev.readSectors_outbox]

/-- A block's read answers 4,096 bytes with its failing sector poisoned. -/
theorem Dev.exhausted_block_outbox (sec : Nat) (o : Owner) (cls : MemClass) (wait : Bool) : ∃ data checked,
    (s.exhausted (.read sec true o cls wait)).outbox = s.outbox ++ [.readData data checked] ∧ data.length = 4096
      ∧ ∀ i < 32, ∃ b, data[sec % 128 * 32 + i]? = some b ∧ b.poison = true := by
  obtain ⟨hbefore, hbehind⟩ := (s.tellFailure (.read sec true o cls wait)).readAround_lengths sec o
  have hfailing : (poisonedBytes (sec * 32) 32).length = 32 := by simp [poisonedBytes]
  rw [Dev.exhausted_block]
  refine ⟨_, _, by rw [Dev.emit, Dev.metPoison_outbox, Dev.readAround_outbox, Dev.tellFailure_outbox], ?_, fun i hi => ?_⟩
  · rw [List.length_append, List.length_append, hbefore, hbehind, hfailing]
    omega
  · rw [getElem?_between hbefore (by rwa [hfailing])]
    exact poisonedBytes_poison hi

theorem Dev.exhausted_write_poison (pa : Nat) (o : Owner) (e : BitVec 16) (cls : MemClass) (data : List (Option PByte))
    (pending : Bool) : ((s.exhausted (.write pa o e cls data pending)).tag (pa / 4096)).poison = true := by
  rw [Dev.exhausted_write, Dev.tag_setTag, if_pos rfl]

theorem Dev.exhausted_memWaits (r : MemReq) : (s.exhausted r).memWaits = s.memWaits := by
  obtain ⟨_, _, _, _, hframe⟩ := s.tellFailure_frame r
  rw [(s.exhausted_attends r).waits, hframe]

theorem Dev.exhausted_failures (r : MemReq) : (s.exhausted r).ctr (stackReg (s.place r.address).stack 0x40)
    = addStop64 (s.ctr (stackReg (s.place r.address).stack 0x40)) 1 := by
  obtain ⟨_, _, _, _, hframe⟩ := s.tellFailure_frame r
  rw [(s.exhausted_attends r).failures, hframe]
  exact Laws.Tab.get_set_same ..

theorem Dev.exhausted_pending (r : MemReq) : ((s.exhausted r).stack (s.place r.address).stack).retrainPending = true := by
  have hshown : (s.exhausted r).stack = (s.tellFailure r).stack := congrArg (·.1.stack) (s.exhausted_standing r)
  rw [hshown, Dev.tellFailure_pending]

theorem Dev.exhausted_mem (r : MemReq) (hclean : s.ecc = []) : (s.exhausted r).mem = s.mem := by
  obtain ⟨_, _, _, _, hframe⟩ := s.tellFailure_frame r
  rw [(s.exhausted_onlyRead r).mem (by rw [hframe, hclean]), hframe]

end Exhausted

/-! ### The last request that waits -/

section Last
variable (s : Dev) (k : StackId) (ch : Fin 32) (w : MemWait)

theorem Dev.reissueLast_frame : ∃ x r v y, s.reissueLast k ch w = { s with
    stackTab := x, regs := r, service := v, memWaits := []
    ctrs := Tab.set 0 s.ctrs (stackReg k 0x38) (addStop64 (s.ctr (stackReg k 0x38)) 1), shadow := y } := by
  obtain ⟨x, r, v, y, hframe⟩ := s.issueAgain_frame k ch w
  rw [Dev.reissueLast, hframe]
  exact ⟨x, r, v, y, rfl⟩

@[simp] theorem Dev.reissueLast_place : (s.reissueLast k ch w).place = s.place := by
  obtain ⟨_, _, _, _, hframe⟩ := s.reissueLast_frame k ch w
  rw [hframe]
  rfl

theorem Dev.reissueLast_reissues :
    (s.reissueLast k ch w).ctr (stackReg k 0x38) = addStop64 (s.ctr (stackReg k 0x38)) 1 := by
  obtain ⟨_, _, _, _, hframe⟩ := s.reissueLast_frame k ch w
  rw [hframe]
  exact Laws.Tab.get_set_same ..

@[simp] theorem Dev.reissueLast_failures : (s.reissueLast k ch w).ctr (stackReg k 0x40) = s.ctr (stackReg k 0x40) := by
  obtain ⟨_, _, _, _, hframe⟩ := s.reissueLast_frame k ch w
  rw [hframe]
  exact Laws.Tab.get_set_ne 0 s.ctrs _ (stackReg_ne k k (by decide))

@[simp] theorem Dev.reissueLast_cores : (s.reissueLast k ch w).cores = s.cores := by
  obtain ⟨_, _, _, _, hframe⟩ := s.reissueLast_frame k ch w
  rw [hframe]

@[simp] theorem Dev.reissueLast_ecc : (s.reissueLast k ch w).ecc = s.ecc := by
  obtain ⟨_, _, _, _, hframe⟩ := s.reissueLast_frame k ch w
  rw [hframe]

@[simp] theorem Dev.reissueLast_mem : (s.reissueLast k ch w).mem = s.mem := by
  obtain ⟨_, _, _, _, hframe⟩ := s.reissueLast_frame k ch w
  rw [hframe]

@[simp] theorem Dev.reissueLast_outbox : (s.reissueLast k ch w).outbox = s.outbox := by
  obtain ⟨_, _, _, _, hframe⟩ := s.reissueLast_frame k ch w
  rw [hframe]

variable {s k ch w} {n : Nat} (hlast : s.memWaits = [w]) (hwhy : w.why = .parity n)
  (hstack : (s.place w.req.address).stack = k) (hchannel : (s.place w.req.address).channel = ch.val)
include hlast hwhy hstack hchannel

theorem Dev.parityReissue_of_passed (hfree : s.queuesFor [] w.req = none) :
    s.parityReissue k ch true = (s.reissueLast k ch w).perform w.req := by
  rw [Dev.parityReissue_of_front hlast hwhy hstack hchannel, if_pos rfl, Dev.issueAgain_queuesFor, hfree]
  exact Dev.release_of_idle (Dev.perform_attends _ w.req).waits

theorem Dev.parityReissue_of_exhausted (hn : 3 ≤ n) :
    s.parityReissue k ch false = (s.reissueLast k ch w).exhausted w.req := by
  rw [Dev.parityReissue_of_front hlast hwhy hstack hchannel, if_neg Bool.false_ne_true, if_pos (by omega)]
  exact Dev.release_of_idle (Dev.exhausted_memWaits _ w.req)

end Last

/-! ### The commands -/

theorem exec_parityReissue_next {s : State} (hup : s.dev.memoryUp = true) (k : StackId) (ch : Fin 32) (passes : Bool) :
    exec (.parityReissue k ch passes) s
      = .next { s with dev := s.dev.ctrlScope (s.dev.parityReissue k ch passes) } := by
  change memWork s _ = _
  rw [memWork, if_pos hup]

section Reissues
variable {s : State} {k : StackId} {ch : Fin 32} {w : MemWait} {n : Nat} {rest : List MemWait}
  (hup : s.dev.memoryUp = true) (hwaits : s.dev.memWaits = w :: rest) (hwhy : w.why = .parity n)
  (hstack : (s.dev.place w.req.address).stack = k) (hchannel : (s.dev.place w.req.address).channel = ch.val)
include hup hwaits hwhy hstack hchannel

theorem exec_parityReissue_passed (hlast : rest = []) (hfree : s.dev.queuesFor [] w.req = none) :
    ∃ t, exec (.parityReissue k ch true) s = .next t ∧ t.pending = s.pending ∧ t.dev.memWaits = []
      ∧ t.dev.ctr (stackReg k 0x38) = addStop64 (s.dev.ctr (stackReg k 0x38)) 1 ∧ t.dev.cores = s.dev.cores := by
  subst hlast
  have hserved := (s.dev.reissueLast k ch w).perform_attends w.req
  refine ⟨_, exec_parityReissue_next hup k ch true, rfl, ?_⟩
  rw [Dev.parityReissue_of_passed hwaits hwhy hstack hchannel hfree]
  exact ⟨hserved.waits, (hserved.reissues k).trans (Dev.reissueLast_reissues ..),
    (Dev.ctrlScope_cores ..).trans ((Dev.perform_cores ..).trans (Dev.reissueLast_cores ..))⟩

theorem exec_parityReissue_failed (hn : n < 3) :
    ∃ t, exec (.parityReissue k ch false) s = .next t ∧ t.pending = s.pending
      ∧ t.dev.memWaits.head? = some { w with why := .parity (n + 1), fails := false }
      ∧ t.dev.ctr (stackReg k 0x38) = addStop64 (s.dev.ctr (stackReg k 0x38)) 1
      ∧ t.dev.mem = s.dev.mem ∧ t.dev.tags = s.dev.tags ∧ t.dev.outbox = s.dev.outbox := by
  obtain ⟨x, r, v, y, hframe⟩ := s.dev.issueAgain_frame k ch w
  refine ⟨_, exec_parityReissue_next hup k ch false, rfl, ?_⟩
  rw [Dev.parityReissue_of_failed hwaits hwhy hstack hchannel hn, hframe]
  exact ⟨rfl, Laws.Tab.get_set_same .., rfl, rfl, rfl⟩

theorem exec_parityReissue_exhausted (hn : 3 ≤ n) (hlast : rest = []) :
    ∃ t, exec (.parityReissue k ch false) s = .next t ∧ t.pending = s.pending ∧ t.dev.memWaits = []
      ∧ t.dev.ctr (stackReg k 0x40) = addStop64 (s.dev.ctr (stackReg k 0x40)) 1
      ∧ (t.dev.stack k).retrainPending = true ∧ (s.dev.ecc = [] → t.dev.mem = s.dev.mem)
      ∧ (∀ sec o cl wt, w.req = .read sec false o cl wt → t.dev.outbox = s.dev.outbox ++
          [.readData (poisonedBytes (sec * 32) 32) true])
      ∧ (∀ sec o cl wt, w.req = .read sec true o cl wt → ∃ data checked, t.dev.outbox = s.dev.outbox ++
          [.readData data checked] ∧ data.length = 4096
          ∧ ∀ i < 32, ∃ b, data[sec % 128 * 32 + i]? = some b ∧ b.poison = true)
      ∧ (∀ pa o e cl d q, w.req = .write pa o e cl d q → (t.dev.tag (pa / 4096)).poison = true) := by
  subst hlast
  refine ⟨_, exec_parityReissue_next hup k ch false, rfl, ?_⟩
  rw [Dev.parityReissue_of_exhausted hwaits hwhy hstack hchannel hn]
  have hplace : ((s.dev.reissueLast k ch w).place w.req.address).stack = k := by rw [Dev.reissueLast_place, hstack]
  have hfailures := (s.dev.reissueLast k ch w).exhausted_failures w.req
  have hpending := (s.dev.reissueLast k ch w).exhausted_pending w.req
  rw [hplace] at hfailures hpending
  refine ⟨Dev.exhausted_memWaits .., hfailures.trans (by rw [Dev.reissueLast_failures]), hpending, fun hclean => ?_,
    fun sec o cl wt hr => ?_, fun sec o cl wt hr => ?_, fun pa o e cl d q hr => ?_⟩
  · exact (Dev.exhausted_mem _ w.req (by rw [Dev.reissueLast_ecc, hclean])).trans (Dev.reissueLast_mem ..)
  · rw [hr, Dev.ctrlScope_outbox, Dev.exhausted_sector_outbox, Dev.reissueLast_outbox]
  · rw [hr, Dev.ctrlScope_outbox, ← s.dev.reissueLast_outbox k ch w]
    exact Dev.exhausted_block_outbox ..
  · rw [hr]
    exact Dev.exhausted_write_poison ..

end Reissues

/-! ### Heat (R239, R240) -/

section Heat

theorem Dev.stackHot_stack (s : Dev) (k j : StackId) (temp : BitVec 8) : (s.stackHot k temp).stack j =
    if j = k then { s.stack k with temp := temp, throttled := (s.stack k).throttled || decide (95 ≤ temp.toNat) }
    else s.stack j := by
  have hwarm := s.stack_modStack k j fun x => { x with temp := temp }
  have hthrottled := (s.modStack k fun x => { x with temp := temp }).stack_modStack k j fun x => { x with throttled := true }
  rw [s.stack_modStack k k, hwarm, if_pos rfl] at hthrottled
  unfold Dev.stackHot
  dsimp only
  by_cases hlow : temp.toNat < 95
  · rw [if_pos hlow, hwarm, decide_eq_false (by omega), Bool.or_false]
  · rw [if_neg hlow, decide_eq_true (by omega), Bool.or_true]
    split
    · exact hthrottled.trans (by split <;> rfl)
    · exact hthrottled.trans (by split <;> rfl)

/-- A stack that begins to throttle tells of it. -/
theorem Dev.stackHot_event (s : Dev) {k : StackId} {temp : BitVec 8} (hot : 95 ≤ temp.toNat)
    (hcool : (s.stack k).throttled = false) : (s.stackHot k temp).reg (memEvent k) = s.reg (memEvent k) ||| 8 := by
  unfold Dev.stackHot
  dsimp only
  rw [if_neg (by omega), hcool, if_neg Bool.false_ne_true, Dev.reg_event, if_pos rfl]
  rfl

theorem Dev.throttleLift_stack (s : Dev) {k : StackId} (h : (s.stack k).throttled = true) : (s.throttleLift k).stack k =
    { s.stack k with throttled := false, temp := BitVec.ofNat 8 (s.takeFree.1.toNat % 90) } := by
  have hlifted := s.takeFree.2.stack_modStack k k fun x =>
    { x with throttled := false, temp := BitVec.ofNat 8 (s.takeFree.1.toNat % 90) }
  rw [if_pos rfl] at hlifted
  rw [Dev.throttleLift, h]
  exact hlifted

@[simp] theorem Dev.throttleLift_regs (s : Dev) (k : StackId) : (s.throttleLift k).regs = s.regs := by
  unfold Dev.throttleLift
  dsimp only
  split <;> rfl

theorem Dev.goOffline_stack (s : Dev) (k : StackId) (temp : BitVec 8) : (s.goOffline k temp).stack k =
    { s.stack k with temp := temp, offline := true, retraining := false, channelsLeft := [] } := by
  have hwarm := s.stack_modStack k k fun x => { x with temp := temp }
  have hoffline := (s.modStack k fun x => { x with temp := temp }).stack_modStack k k fun x =>
    { x with offline := true, retraining := false, channelsLeft := [] }
  rw [hwarm, if_pos rfl, if_pos rfl] at hoffline
  exact hoffline

theorem Dev.goOffline_event (s : Dev) (k : StackId) (temp : BitVec 8) :
    (s.goOffline k temp).reg (memEvent k) = s.reg (memEvent k) ||| 0x10 :=
  (Dev.reg_event ..).trans (if_pos rfl)

variable {s : State} (k : StackId) (temp : BitVec 8) (hclocked : s.dev.clocked = true)
include hclocked

theorem exec_stackOverTemperature :
    ∃ t, exec (.stackOverTemperature k temp) s = .next t ∧ t.pending = s.pending
      ∧ t.dev.stack k = { s.dev.stack k with temp := temp
                                             throttled := (s.dev.stack k).throttled || decide (95 ≤ temp.toNat) }
      ∧ (95 ≤ temp.toNat → (s.dev.stack k).throttled = false →
          t.dev.reg (memEvent k) = s.dev.reg (memEvent k) ||| 8)
      ∧ t.dev.mem = s.dev.mem ∧ ∀ j, j ≠ k → t.dev.stack j = s.dev.stack j := by
  have hstack := fun j => s.dev.stackHot_stack k j temp
  refine ⟨_, work_clocked _ _ hclocked, rfl, (hstack k).trans (if_pos rfl), s.dev.stackHot_event, ?_,
    fun j hj => (hstack j).trans (if_neg hj)⟩
  exact s.dev.stackHot_mem k temp

theorem exec_throttleLift (hthrottled : (s.dev.stack k).throttled = true) :
    ∃ t, exec (.throttleLift k) s = .next t ∧ t.pending = s.pending
      ∧ (t.dev.stack k).throttled = false ∧ (t.dev.stack k).temp.toNat < 90
      ∧ t.dev.mem = s.dev.mem ∧ t.dev.regs = s.dev.regs := by
  have hlifted := s.dev.throttleLift_stack hthrottled
  refine ⟨_, work_clocked _ _ hclocked, rfl, congrArg (·.throttled) hlifted, ?_, s.dev.throttleLift_mem k,
    s.dev.throttleLift_regs k⟩
  have hcool : ((s.dev.throttleLift k).stack k).temp.toNat < 90 := by
    rw [hlifted, BitVec.toNat_ofNat]
    omega
  exact hcool

theorem exec_stackCritical (hot : 105 ≤ temp.toNat) (hon : (s.dev.stack k).offline = false) :
    ∃ t, exec (.stackCritical k temp) s = .next t ∧ t.pending = s.pending
      ∧ (t.dev.stack k).offline = true ∧ (t.dev.stack k).retraining = false ∧ (t.dev.stack k).temp = temp
      ∧ t.dev.reg (memEvent k) = s.dev.reg (memEvent k) ||| 0x10
      ∧ t.dev.memWaits = s.dev.memWaits.filter (fun w => !((s.dev.place w.req.address).stack == k))
      ∧ t.dev.mem = s.dev.mem
      ∧ ∀ b, regionBlocks ≤ b → (b < farBase / 4096 ∨ farBase / 4096 + regionBlocks ≤ b) →
          Tab.get none t.dev.tags b = Tab.get none s.dev.tags b := by
  obtain ⟨c, y, z, o, x, g, v, u, hframe, htags⟩ := s.dev.stackCritical_frame hot hon
  have hoffline := s.dev.goOffline_stack k temp
  refine ⟨_, work_clocked _ _ hclocked, rfl, ?_⟩
  rw [hframe]
  exact ⟨congrArg (·.offline) hoffline, congrArg (·.retraining) hoffline, congrArg (·.temp) hoffline,
    s.dev.goOffline_event k temp, rfl, rfl, htags⟩

end Heat

/-- Settles O31: a reissue is answered, told to the channel or exhausted; heat changes the stack, its event and its counter. -/
theorem stacksReissueThrottleAndGoOffline : Obligations.StacksReissueThrottleAndGoOffline := by
  unfold Obligations.StacksReissueThrottleAndGoOffline
  refine ⟨fun s k ch passes w n rest hup hwaits hwhy hstack hchannel => ⟨?_, ?_, ?_⟩, fun s k temp hclocked => ⟨?_, ?_, ?_⟩⟩
  · rintro rfl hlast hfree
    exact exec_parityReissue_passed hup hwaits hwhy hstack hchannel hlast hfree
  · rintro rfl hn
    exact exec_parityReissue_failed hup hwaits hwhy hstack hchannel hn
  · rintro rfl hn hlast
    exact exec_parityReissue_exhausted hup hwaits hwhy hstack hchannel hn hlast
  · exact exec_stackOverTemperature k temp hclocked
  · exact exec_throttleLift k hclocked
  · exact exec_stackCritical k temp hclocked

end Sys2Proof.Machine

/-! A transform batch of several members (R258 to R262): its phases leave the issue windows alone, so that every member
completes as the batch ends. -/

namespace Sys2Proof.Machine

/-! ### The members of a batch -/

/-- Completion of several entries marks every entry that bears one of their names. -/
theorem Core.foldl_completeEntry_window (x : Core) (ms : List WEntry) :
    (ms.foldl Core.completeEntry x).window
      = x.window.map fun w => if ms.any (sameEntry w) then { w with phase := .completed } else w := by
  induction ms generalizing x with
  | nil => simp
  | cons m ms ih =>
    rw [List.foldl_cons, ih]
    simp only [Core.completeEntry, List.map_map]
    refine List.map_congr_left fun w _ => ?_
    by_cases hw : sameEntry w m = true
    · simp [hw]
    · simp [hw]

/-- An entry whose name stands in the window is completed with the others. -/
theorem Core.completed_of_names {x : Core} {ms : List WEntry} {m : WEntry} (hm : m ∈ ms)
    (hname : (m.stream, m.index) ∈ x.names) :
    ∃ w ∈ (ms.foldl Core.completeEntry x).window, sameEntry w m = true ∧ w.phase = .completed := by
  obtain ⟨w, hw, hsame⟩ := Core.exists_sameEntry hname
  refine ⟨{ w with phase := .completed }, ?_, hsame, rfl⟩
  rw [Core.foldl_completeEntry_window]
  exact List.mem_map.2 ⟨w, hw, if_pos (List.any_eq_true.2 ⟨m, hm, hsame⟩)⟩

/-- The members of a ready batch stand in the window. -/
theorem Core.mem_window_of_readyBatch {x : Core} {ms : List WEntry} {m : WEntry} (hready : x.readyBatch = some ms)
    (hm : m ∈ ms) : m ∈ x.window := by
  simp only [Core.readyBatch, Option.bind_eq_some_iff] at hready
  obtain ⟨e, -, hmembers⟩ := hready
  split at hmembers
  · cases hmembers
  · obtain ⟨l, hl, hall⟩ := Option.bind_eq_some_iff.1 hmembers
    split at hall
    · cases hall
      obtain ⟨i, -, hi⟩ := Option.map_eq_some_iff.1 hl
      rw [← hi] at hm
      exact (List.mem_filter.1 ((List.dropWhile_suffix _).mem (List.mem_of_mem_take hm))).1
    · cases hall

/-! ### The phases of a batch (R260) -/

@[simp] theorem Dev.replaying_cores (s : Dev) (c : CoreId) (h : HoldId) (r : Dev) : (s.replaying c h r).cores = r.cores :=
  s.replayed_cores c h r

/-- A phase that leaves the issue windows alone for one member leaves them alone for the batch. -/
theorem Dev.batchRun_names {f : Xfm → Option XPlan → Agent → Bool → Run → Run}
    (hf : ∀ x p a send r, (f x p a send r).dev.names = r.dev.names) (s : Dev) (c : CoreId) (h : HoldId) (last : Bool)
    (ms : List WEntry) : (s.batchRun c h last f ms).dev.names = s.names := by
  refine foldl_preserves (fun r : Run => r.dev.names) (fun r e => ?_) { dev := s } ms
  dsimp only
  split
  · split
    · exact (Dev.names_congr (Dev.replayed_cores ..)).trans (hf ..)
    · exact (Dev.names_congr (Dev.replaying_cores ..)).trans (hf ..)
  · exact hf ..

theorem Xfm.phaseTwo_names (c : CoreId) (x : Xfm) (p : Option XPlan) (a : Agent) (send : Bool) (r : Run) :
    (x.phaseTwo c p a send r).dev.names = r.dev.names := by
  cases p with
  | none => exact Xfm.closeEmpty_names ..
  | some p => exact (Xfm.close_names ..).trans (Xfm.validPhase_names ..)

/-- A batch whose pad elements have been written. -/
def Dev.batchPadded (s : Dev) (c : CoreId) (h : HoldId) (ms : List WEntry) : Dev :=
  (s.batchRun c h false (Xfm.phaseOne c) ms).dev.modCore c fun y => { y with batch := ms.map (·.index), batchPhase := 1 }

/-- The run of a batch's valid elements. -/
def Dev.batchValidRun (s : Dev) (c : CoreId) (h : HoldId) (ms : List WEntry) : Run :=
  (s.modCore c fun y => { y with batchPhase := 2 }).batchRun c h true (Xfm.phaseTwo c) ms

/-- A batch whose valid elements have been written: its members are complete. -/
def Dev.batchEnded (s : Dev) (c : CoreId) (h : HoldId) (ms : List WEntry) : Dev :=
  ((s.batchValidRun c h ms).dev.stalls (some h) c 3).modCore c fun y =>
    { ms.foldl Core.completeEntry y with batch := [], batchPhase := 0, hostBuf := [] }

theorem Dev.batchPadded_core (s : Dev) (c : CoreId) (h : HoldId) (ms : List WEntry) :
    ((s.batchPadded c h ms).core c).batch = ms.map (·.index) ∧ ((s.batchPadded c h ms).core c).batchPhase = 1 := by
  rw [Dev.batchPadded, Dev.core_modCore, if_pos rfl]
  exact ⟨rfl, rfl⟩

theorem Dev.batchEnded_core (s : Dev) (c : CoreId) (h : HoldId) (ms : List WEntry) :
    (s.batchEnded c h ms).core c = { ms.foldl Core.completeEntry ((s.batchValidRun c h ms).dev.core c) with
      batch := [], batchPhase := 0, hostBuf := [] } := by
  rw [Dev.batchEnded, Dev.core_modCore, if_pos rfl, Dev.core_congr (Dev.stalls_cores ..)]

/-- The valid elements of a batch leave every issue window alone. -/
theorem Dev.batchValidRun_names (s : Dev) (c : CoreId) (h : HoldId) (ms : List WEntry) :
    (s.batchValidRun c h ms).dev.names = s.names :=
  (Dev.batchRun_names (Xfm.phaseTwo_names c) ..).trans (s.modCore_names c fun _ => rfl)

/-- Every member of a ready batch is complete at its end. -/
theorem Dev.batchEnded_completed {s : Dev} {c : CoreId} {ms : List WEntry} {m : WEntry}
    (hready : (s.core c).readyBatch = some ms) (hm : m ∈ ms) (h : HoldId) : (s.batchEnded c h ms).completed c m := by
  rw [Dev.completed, Dev.batchEnded_core]
  refine Core.completed_of_names hm ?_
  rw [← Dev.names, Dev.batchValidRun_names]
  exact List.mem_map.2 ⟨m, Core.mem_window_of_readyBatch hready hm, rfl⟩

/-! ### The commands -/

section Batch
variable {s : State} {c : CoreId} {h : HoldId} {ms : List WEntry} (hready : (s.dev.core c).readyBatch = some ms)
  (hhold : s.dev.holdingOfCore c = some h) (hruns : s.dev.coreRuns c = true)
include hready hhold hruns

/-- The pad elements of every member are written as the batch starts (R259, R260). -/
theorem exec_transformBatchStart (hidle : (s.dev.core c).batch = []) (hheld : s.dev.batchHeld c h ms = false)
    (hwait : (s.dev.batchRun c h false (Xfm.phaseOne c) ms).wait = false)
    (hneed : (s.dev.batchRun c h false (Xfm.phaseOne c) ms).need = []) :
    exec (.transformBatchStart c) s = .next { s with dev := s.dev.memScope (s.dev.batchPadded c h ms) } := by
  have hstart : s.dev.batchStart c = s.dev.batchPadded c h ms := by
    simp [Dev.batchStart, hready, hhold, hruns, hidle, hheld, Dev.batchEnd, hwait, hneed, Dev.batchPadded]
  rw [← hstart]
  exact work_clocked s _ (Dev.clocked_of_coreRuns hruns)

/-- The valid elements of every member are written as the batch ends, once no pad write waits at its controller (R260). -/
theorem exec_transformValidPhase (hbusy : (s.dev.core c).batch ≠ []) (hwritten : s.dev.writesWaiting c = false)
    (hwait : (s.dev.batchValidRun c h ms).wait = false) (hneed : (s.dev.batchValidRun c h ms).need = []) :
    exec (.transformValidPhase c) s = .next { s with dev := s.dev.memScope (s.dev.batchEnded c h ms) } := by
  have hvalid : s.dev.batchValid c = s.dev.batchEnded c h ms := by
    unfold Dev.batchValidRun at hwait hneed
    simp [Dev.batchValid, hready, hhold, hruns, hbusy, hwritten, Dev.batchEnd, hwait, hneed, Dev.batchEnded,
      Dev.batchValidRun]
  rw [← hvalid]
  exact work_clocked s _ (Dev.clocked_of_coreRuns hruns)

end Batch

/-- Settles O18: the pads leave the batch under way in its first phase; the valid elements leave every window's names, so that
each member stands there and completes. -/
theorem transformBatchesRunInTwoPhases : Obligations.TransformBatchesRunInTwoPhases := by
  unfold Obligations.TransformBatchesRunInTwoPhases
  intro s c h ms hready hhold hruns
  refine ⟨fun hidle hheld hrun => ?_, fun hbusy hwritten hrun => ?_⟩
  · obtain ⟨hwait, hneed⟩ := hrun
    obtain ⟨hbatch, hphase⟩ := s.dev.batchPadded_core c h ms
    exact ⟨_, exec_transformBatchStart hready hhold hruns hidle hheld hwait hneed, rfl, hbatch, hphase, rfl, rfl⟩
  · obtain ⟨hwait, hneed⟩ := hrun
    have hcore := s.dev.batchEnded_core c h ms
    exact ⟨_, exec_transformValidPhase hready hhold hruns hbusy hwritten hwait hneed, rfl, congrArg Core.batch hcore,
      congrArg Core.batchPhase hcore, fun m hm => Dev.batchEnded_completed hready hm h, rfl, rfl⟩

end Sys2Proof.Machine

/-! The owners of the blocks and the translation caches (R229 to R233, R249): reads and writes at the controllers change tags,
but never whose a block is, nor what a cache translates. -/

namespace Sys2Proof.Machine

/-! ### Changes of tags that leave the owner -/

/-- The owner of every block, and the entries of the translation caches. -/
def Dev.rights (s : Dev) : (Nat → Owner) × List CachedLeaf := (fun b => (s.tag b).owner, s.xlat)

theorem Dev.rights_congr {s t : Dev} (htags : t.tags = s.tags) (hxlat : t.xlat = s.xlat) : t.rights = s.rights :=
  Prod.ext (funext (Dev.tag_owner_congr htags)) hxlat

theorem Dev.setTag_rights {s : Dev} {b : Nat} {t : Tag} (h : t.owner = (s.tag b).owner) :
    (s.setTag b t).rights = s.rights := by
  refine Prod.ext (funext fun q => ?_) rfl
  dsimp only [Dev.rights]
  rw [Dev.tag_setTag]
  split
  next hq => rw [hq, h]
  next => rfl

section Rights
variable (s : Dev)

@[simp] theorem Dev.count_rights (h : Option HoldId) (a n : Nat) : (s.count h a n).rights = s.rights :=
  Dev.rights_congr rfl rfl
@[simp] theorem Dev.countFree_rights (h : Option HoldId) (a : Nat) : (s.countFree h a).rights = s.rights :=
  Dev.rights_congr rfl rfl
@[simp] theorem Dev.countMem_rights (k : StackId) (o : Owner) (off n : Nat) : (s.countMem k o off n).rights = s.rights :=
  Dev.rights_congr rfl rfl
@[simp] theorem Dev.tagRead_rights (k : StackId) (o : Owner) : (s.tagRead k o).rights = s.rights := Dev.rights_congr rfl rfl
@[simp] theorem Dev.event_rights (a : Nat) (x : Word32) : (s.event a x).rights = s.rights := Dev.rights_congr rfl rfl
@[simp] theorem Dev.modHolding_rights (h : HoldId) (f : Holding → Holding) : (s.modHolding h f).rights = s.rights :=
  Dev.rights_congr rfl rfl

@[simp] theorem Dev.lcSlots_rights (k : StackId) (cls : MemClass) : (s.lcSlots k cls).rights = s.rights := by
  unfold Dev.lcSlots
  split <;> simp

@[simp] theorem Dev.offlineAccess_rights (k : StackId) (o : Owner) : (s.offlineAccess k o).rights = s.rights := by
  unfold Dev.offlineAccess
  split <;> simp

@[simp] theorem Dev.metPoison_rights (h : Option HoldId) (n : Nat) : (s.metPoison h n).rights = s.rights := by
  cases h <;> exact Dev.rights_congr rfl rfl

/-! ### Reads (R230, R231, R235) -/

@[simp] theorem Dev.eccRead_rights (k : StackId) (o : Owner) (sec : Nat) (e : EccOutcome) :
    (s.eccRead k o sec e).rights = s.rights := by
  cases e with
  | clean => rfl
  | corrected => exact s.countMem_rights ..
  | miscorrected x => exact Dev.rights_congr rfl rfl
  | uncorrectable =>
    have htold : ((s.countMem k o 0x50 1).event (memEvent k) 1).rights = s.rights := Dev.rights_congr rfl rfl
    rw [← htold, ← Dev.setTag_rights (b := sec / 128) (s := (s.countMem k o 0x50 1).event (memEvent k) 1)
      (t := { ((s.countMem k o 0x50 1).event (memEvent k) 1).tag (sec / 128) with crcOff := true }) rfl]
    exact Dev.rights_congr rfl rfl

@[simp] theorem Dev.meetEcc_rights (k : StackId) (o : Owner) (sec : Nat) : (s.meetEcc k o sec).rights = s.rights := by
  unfold Dev.meetEcc
  split
  · rfl
  · exact (Dev.eccRead_rights ..).trans (Dev.rights_congr rfl rfl)

@[simp] theorem Dev.meetAll_rights (k : StackId) (o : Owner) (secs : List Nat) : (s.meetAll k o secs).rights = s.rights :=
  foldl_preserves Dev.rights (fun d x => d.meetEcc_rights k o x) s secs

@[simp] theorem Dev.readSector1_rights (sec : Nat) (o : Owner) : (s.readSector1 sec o).2.rights = s.rights := by
  unfold Dev.readSector1
  dsimp only
  split_ifs <;> simp

@[simp] theorem Dev.readSector_rights (sec : Nat) (o : Owner) : (s.readSector sec o).2.rights = s.rights := by
  unfold Dev.readSector
  dsimp only
  split <;> simp

@[simp] theorem Dev.readSectors_rights (o : Owner) (secs : List Nat) : (s.readSectors o secs).2.rights = s.rights := by
  induction secs generalizing s with
  | nil => rfl
  | cons x xs ih => exact (ih _).trans (s.readSector_rights x o)

@[simp] theorem Dev.verdict_rights (b : Nat) (o : Owner) (data : List PByte) : (s.verdict b o data).2.rights = s.rights := by
  unfold Dev.verdict
  dsimp only
  split
  · simp [Dev.setTag_rights]
  · rfl

@[simp] theorem Dev.readBlock_rights (b : Nat) (o : Owner) : (s.readBlock b o).2.2.rights = s.rights := by
  unfold Dev.readBlock
  dsimp only
  split <;> simp

/-! ### Writes (R217, R230 to R232, R404) -/

@[simp] theorem Dev.freshBlock_rights (b : Nat) (whole : Bool) : (s.freshBlock b whole).rights = s.rights := by
  cases whole <;> exact (Dev.rights_congr (s := s.setTag b (s.tag b).begun) rfl rfl).trans (Dev.setTag_rights rfl)

@[simp] theorem Dev.putBytes_rights (pa : Nat) (data : List (Option PByte)) (e : BitVec 16) :
    (s.putBytes pa data e).rights = s.rights := by
  refine (Dev.rights_congr (s := s.setTag (pa / 4096) _) rfl rfl).trans (Dev.setTag_rights ?_)
  dsimp only
  split <;> rfl

@[simp] theorem Dev.storeBlock_rights (pa : Nat) (data : List (Option PByte)) (o : Owner) (e : BitVec 16) (pending : Bool) :
    (s.storeBlock pa data o e pending).rights = s.rights := by
  have hpend : ∀ (d : Dev) (b : Nat), (d.setTag b (d.tag b).pend).rights = d.rights := fun d b => Dev.setTag_rights rfl
  unfold Dev.storeBlock
  dsimp only
  split_ifs <;> simp [hpend]

@[simp] theorem Dev.writeBlock_rights (pa : Nat) (data : List (Option PByte)) (o : Owner) (e : BitVec 16) (pending : Bool) :
    (s.writeBlock pa data o e pending).rights = s.rights := by
  unfold Dev.writeBlock
  dsimp only
  split_ifs <;> simp

@[simp] theorem Dev.mirrorFirst_rights (b : Nat) : (s.mirrorFirst b).rights = s.rights := by
  refine foldl_preserves Dev.rights (fun d h => ?_) s _
  dsimp only
  split
  · rfl
  · split <;> simp

/-- A write that is served changes no owner, and no cache. -/
@[simp] theorem Dev.perform_write_rights (pa : Nat) (o : Owner) (e : BitVec 16) (cls : MemClass)
    (data : List (Option PByte)) (pending : Bool) : (s.perform (.write pa o e cls data pending)).rights = s.rights := by
  simp [Dev.perform]

/-- Nor does the request of one, whether it is served or waits. -/
@[simp] theorem Dev.request_write_rights (pa : Nat) (o : Owner) (e : BitVec 16) (cls : MemClass)
    (data : List (Option PByte)) (pending : Bool) : (s.request (.write pa o e cls data pending)).rights = s.rights := by
  unfold Dev.request
  split
  · unfold Dev.addWait Dev.noteFullPending
    split <;> exact Dev.rights_congr rfl rfl
  · simp

/-- The writes queued for some sectors, once they are done, have changed no owner, and no cache (R228). -/
@[simp] theorem Dev.served_rights (secs : List Nat) : (s.served secs).rights = s.rights := by
  refine List.foldlRecOn _ _ (motive := fun d : Dev => d.rights = s.rights) rfl fun d hd w hw => ?_
  have hwrite := (Bool.and_eq_true_iff.1 (List.mem_filter.1 hw).2).1
  cases hreq : w.req with
  | write pa o e cls data pending => rw [Dev.perform_write_rights, hd]
  | read | clear | scrub => simp [hreq, MemReq.isWrite] at hwrite

@[simp] theorem Dev.served_standing (secs : List Nat) : (s.served secs).standing = s.standing :=
  foldl_preserves Dev.standing (fun d (w : MemWait) => d.perform_standing w.req) s _

end Rights

end Sys2Proof.Machine

/-! A walk through the page tables (R246 to R250, R268): what it touches beside memory, and its fault record. -/

namespace Sys2Proof.Machine

/-! ### The caches (R249) -/

/-- The entries of one translation cache. -/
def Dev.cacheOf (s : Dev) (n : CacheName) : List CachedLeaf := s.xlat.filter fun q => q.cache == n

/-- A leaf that goes into a cache stands there under its address. -/
theorem Dev.cacheLeaf_mem (s : Dev) (n : CacheName) (h : HoldId) (level va : Nat) (e : Word64) :
    ∃ q ∈ (s.cacheLeaf n h level va e).xlat, q.cache = n ∧ q.holding = h ∧ q.level = level ∧ q.key = pageKey level va := by
  have hnew : ∀ l : List CachedLeaf, ∃ q ∈ l ++ [(⟨n, h, level, pageKey level va, e⟩ : CachedLeaf)],
      q.cache = n ∧ q.holding = h ∧ q.level = level ∧ q.key = pageKey level va :=
    fun l => ⟨_, List.mem_append_right l (List.mem_singleton_self _), rfl, rfl, rfl, rfl⟩
  unfold Dev.cacheLeaf
  dsimp only
  split
  next held =>
    simp only [Dev.cached, Option.isSome_map, List.find?_isSome] at held
    obtain ⟨q, hq, hkey⟩ := held
    exact ⟨q, hq, by simpa [and_assoc] using hkey⟩
  next => split <;> exact hnew _

/-- The entry that gives way to it leaves the other caches as they were. -/
theorem filter_cache_without {l : List CachedLeaf} {v : CachedLeaf} {m : CacheName} (h : v.cache ≠ m) :
    (l.filter fun z => z != v).filter (fun q => q.cache == m) = l.filter fun q => q.cache == m := by
  rw [List.filter_filter]
  refine List.filter_congr fun q _ => ?_
  by_cases hq : q = v
  · simp [hq, h]
  · simp [hq]

theorem Dev.cacheLeaf_cacheOf (s : Dev) {m n : CacheName} (hm : m ≠ n) (h : HoldId) (level va : Nat) (e : Word64) :
    (s.cacheLeaf n h level va e).cacheOf m = s.cacheOf m := by
  unfold Dev.cacheLeaf
  dsimp only
  split
  · rfl
  · split
    · simp [Dev.cacheOf, Ne.symm hm]
    · simp only [Dev.cacheOf, List.filter_append]
      split
      next v hv =>
        have hmine : v.cache = n := by simpa using (List.mem_filter.1 (List.mem_of_getElem? hv)).2
        rw [filter_cache_without (hmine ▸ Ne.symm hm)]
        simp [Ne.symm hm]
      next => simp [Ne.symm hm]

/-! ### What a walk touches beside memory -/

/-- Devices between which tables were read for a holding's translation: no shared cache has changed, no register but the
events of the controllers, and no counter but those of reads. -/
structure Dev.Walks (s t : Dev) : Prop where
  shared (d : Nat) : t.cacheOf (.shared d) = s.cacheOf (.shared d)
  regs (a : Nat) (h : ∀ k, a ≠ memEvent k) : t.reg a = s.reg a
  ctr (a : Nat) (h : a % 256 = 0x18) : t.ctr a = s.ctr a

theorem Dev.Walks.of_eq {s t : Dev} (hxlat : t.xlat = s.xlat) (hregs : t.regs = s.regs) (hctrs : t.ctrs = s.ctrs) :
    s.Walks t where
  shared _ := congrArg (List.filter _) hxlat
  regs _ _ := congrArg (Tab.get 0 · _) hregs
  ctr _ _ := congrArg (Tab.get 0 · _) hctrs

theorem Dev.Walks.refl (s : Dev) : s.Walks s := .of_eq rfl rfl rfl

theorem Dev.Walks.trans {s t u : Dev} (hst : s.Walks t) (htu : t.Walks u) : s.Walks u where
  shared d := (htu.shared d).trans (hst.shared d)
  regs a h := (htu.regs a h).trans (hst.regs a h)
  ctr a h := (htu.ctr a h).trans (hst.ctr a h)

section Walk
variable (s : Dev)

theorem Dev.countMem_walks (k : StackId) (o : Owner) {off : Nat} (n : Nat) (hoff : off % 256 ≠ 0x18) :
    s.Walks (s.countMem k o off n) where
  shared _ := rfl
  regs _ _ := rfl
  ctr a ha := by
    refine (Dev.ctr_count ..).trans (if_neg fun he => hoff ?_)
    rw [← stackReg_mod k, ← he, ha]

theorem Dev.countFree_walks (k : StackId) (o : Owner) {off : Nat} (hoff : off % 256 ≠ 0x18) :
    s.Walks (s.countFree (ownerHolding o) (stackReg k off)) :=
  (s.countMem_walks k o _ hoff).trans (.of_eq rfl rfl rfl)

theorem Dev.event_walks (k : StackId) (x : Word32) : s.Walks (s.event (memEvent k) x) where
  shared _ := rfl
  regs a ha := by rw [Dev.reg_event, if_neg (ha k)]
  ctr _ _ := rfl

theorem Dev.tagRead_walks (k : StackId) (o : Owner) : s.Walks (s.tagRead k o) := s.countFree_walks k o (by decide)

theorem Dev.lcSlots_walks (k : StackId) (cls : MemClass) : s.Walks (s.lcSlots k cls) := by
  unfold Dev.lcSlots
  split
  · exact s.countFree_walks k .device (by decide)
  · exact .refl s

theorem Dev.offlineAccess_walks (k : StackId) (o : Owner) : s.Walks (s.offlineAccess k o) := by
  unfold Dev.offlineAccess
  split
  · exact .refl s
  · exact s.countMem_walks k o 1 (by decide)

theorem Dev.eccRead_walks (k : StackId) (o : Owner) (sec : Nat) (e : EccOutcome) : s.Walks (s.eccRead k o sec e) := by
  cases e with
  | clean => exact .refl s
  | corrected => exact s.countMem_walks k o 1 (by decide)
  | miscorrected x =>
    have hstored : ∀ m : List Host.Cell, s.Walks { s with mem := m } := fun _ => .of_eq rfl rfl rfl
    exact (hstored _).trans (Dev.countMem_walks _ k o (off := 0x48) 1 (by decide))
  | uncorrectable =>
    exact ((s.countMem_walks k o (off := 0x50) 1 (by decide)).trans (Dev.event_walks _ k 1)).trans (.of_eq rfl rfl rfl)

theorem Dev.meetEcc_walks (k : StackId) (o : Owner) (sec : Nat) : s.Walks (s.meetEcc k o sec) := by
  unfold Dev.meetEcc
  split
  · exact .refl s
  · have hmet : s.Walks { s with ecc := Tab.set .clean s.ecc sec .clean } := .of_eq rfl rfl rfl
    exact hmet.trans (Dev.eccRead_walks ..)

theorem Dev.deny_walks (k : StackId) (o : Owner) {off : Nat} (x : Word32) (hoff : off % 256 ≠ 0x18) :
    s.Walks (s.deny k o off x) :=
  ((s.tagRead_walks k o).trans (Dev.countMem_walks _ k o 1 hoff)).trans (Dev.event_walks ..)

theorem Dev.readSector1_walks (sec : Nat) (o : Owner) : s.Walks (s.readSector1 sec o).2 := by
  have htag := s.tagRead_walks (s.place (sec * 32)).stack o
  unfold Dev.readSector1
  dsimp only
  split_ifs
  · exact s.offlineAccess_walks ..
  · exact s.deny_walks _ o 0x40 (off := 0x68) (by decide)
  · exact htag
  · exact s.deny_walks _ o 0x80 (off := 0x70) (by decide)
  · exact (htag.trans (Dev.meetEcc_walks ..)).trans (Dev.countMem_walks _ _ o 1 (by decide))

theorem Dev.readEntry_walks (cls : MemClass) (pa : Nat) : s.Walks (s.readEntry cls pa).2 :=
  (s.lcSlots_walks ..).trans (Dev.readSector1_walks ..)

/-- A cache that is not shared is filled. -/
theorem Dev.cacheLeaf_walks {n : CacheName} (hn : ∀ d, n ≠ .shared d) (h : HoldId) (level va : Nat) (e : Word64) :
    s.Walks (s.cacheLeaf n h level va e) := by
  have hothers := fun d => s.cacheLeaf_cacheOf (hn d).symm h level va e
  obtain ⟨x, k, hframe⟩ := s.cacheLeaf_frame n h level va e
  rw [hframe] at hothers ⊢
  exact ⟨hothers, fun _ _ => rfl, fun _ _ => rfl⟩

theorem Dev.cacheCore_walks (a : Agent) (va level : Nat) (e : Word64) : s.Walks (s.cacheCore a va level e) := by
  unfold Dev.cacheCore
  split
  · exact s.cacheLeaf_walks (fun _ => CacheName.noConfusion) ..
  · exact .refl s

theorem Dev.walkEntry_walks (h : HoldId) (walker : Option Nat) (cls : MemClass) (level table va : Nat) :
    s.Walks (s.walkEntry h walker cls level table va).2 := by
  have hread := s.readEntry_walks cls (pteAddr level table va)
  unfold Dev.walkEntry
  split
  · exact .refl s
  · dsimp only
    split
    · dsimp only
      split
      · exact hread.trans (Dev.cacheLeaf_walks _ (fun _ => CacheName.noConfusion) ..)
      · exact hread
    · exact hread

theorem Dev.walkFrom_walks (h : HoldId) (walker : Option Nat) (cls : MemClass) (va level table : Nat) :
    s.Walks (s.walkFrom h walker cls va level table).2 := by
  induction level generalizing s table with
  | zero => exact s.walkEntry_walks ..
  | succ level ih =>
    have hentry := s.walkEntry_walks h walker cls (level + 1) table va
    unfold Dev.walkFrom
    dsimp only
    split
    · exact hentry
    · exact hentry.trans (ih ..)

theorem Dev.walk_walks (h : HoldId) (walker : Option Nat) (cls : MemClass) (va : Nat) :
    s.Walks (s.walk h walker cls va).2 := by
  unfold Dev.walk
  split
  · exact .refl s
  · exact s.walkFrom_walks ..

end Walk

/-! ### A walk that finds its leaf tells of nothing (R231, R250) -/

/-- A device block's sector whose read no tag denies. -/
def Dev.grants (s : Dev) (sec : Nat) : Prop :=
  s.stackLost (s.place (sec * 32)).stack = true ∨ (s.tag (sec / 128)).owner = .device

theorem Dev.grants_congr {s t : Dev} (hst : t.standing = s.standing) (hrights : t.rights = s.rights) (sec : Nat) :
    t.grants sec ↔ s.grants sec := by
  have hplace : t.place (sec * 32) = s.place (sec * 32) := congrArg (·.1.place (sec * 32)) hst
  have hlost : t.stackLost (s.place (sec * 32)).stack = s.stackLost (s.place (sec * 32)).stack :=
    congrArg (·.1.stackLost (s.place (sec * 32)).stack) hst
  have howner : (t.tag (sec / 128)).owner = (s.tag (sec / 128)).owner := congrArg (·.1 (sec / 128)) hrights
  rw [Dev.grants, Dev.grants, hplace, hlost, howner]

/-- A granted read of a sector without an error raises no event. -/
theorem Dev.readSector1_regs {s : Dev} {sec : Nat} (hgrants : s.grants sec) (hclean : s.ecc = []) :
    (s.readSector1 sec .device).2.regs = s.regs := by
  by_cases hon : s.stackLost (s.place (sec * 32)).stack = true
  · rw [Dev.readSector1_of_lost hon]
    unfold Dev.offlineAccess
    split <;> rfl
  have howner : (s.tag (sec / 128)).owner = .device := hgrants.resolve_left hon
  rw [Bool.not_eq_true] at hon
  by_cases hzero : (s.tag (sec / 128)).zero = true
  · rw [Dev.readSector1_of_zero hon howner hzero]
    rfl
  · rw [Bool.not_eq_true] at hzero
    rw [Dev.readSector1_of_stored hon howner hzero rfl (by rw [hclean]; rfl)]
    rfl

/-- A read that the tag denies answers poison. -/
theorem Dev.readSector1_data {s : Dev} {sec : Nat} (hdenied : ¬ s.grants sec) :
    (s.readSector1 sec .device).1.data = poisonedBytes (sec * 32) 32 := by
  simp only [Dev.grants, not_or, Bool.not_eq_true] at hdenied
  rw [Dev.readSector1_of_foreign hdenied.1 hdenied.2]

/-- An entry read from poisoned bytes is none. -/
theorem any_poison_entry (sec pa : Nat) :
    (((poisonedBytes (sec * 32) 32).drop (pa % 32)).take 8).any (·.poison) = true := by
  obtain ⟨b, hb, hpoison⟩ := poisonedBytes_poison (a := sec * 32) (Nat.mod_lt pa (by decide : 32 > 0))
  refine List.any_eq_true.2 ⟨b, List.mem_of_getElem? (i := 0) ?_, hpoison⟩
  rw [List.getElem?_take_of_lt (by decide), List.getElem?_drop, Nat.add_zero, hb]

/-- An entry that comes without poison has raised no event. -/
theorem Dev.readEntry_regs {s : Dev} {cls : MemClass} {pa : Nat} {e : Word64} (hclean : s.ecc = [])
    (hentry : (s.readEntry cls pa).1 = some e) : (s.readEntry cls pa).2.regs = s.regs := by
  have hgrants : s.grants (pa / 32) := by
    by_contra hdenied
    have hslots := mt (Dev.grants_congr (s.lcSlots_standing (s.place pa).stack cls)
      (s.lcSlots_rights (s.place pa).stack cls) (pa / 32)).1 hdenied
    have hserved := mt (Dev.grants_congr (s.served_standing [pa / 32]) (s.served_rights [pa / 32]) (pa / 32)).1 hdenied
    simp only [Dev.readEntry, Dev.readSector1_data hslots, Dev.readSector1_data hserved, ite_self, any_poison_entry,
      if_true, reduceCtorEq] at hentry
  have hslots := (Dev.grants_congr (s.lcSlots_standing (s.place pa).stack cls)
    (s.lcSlots_rights (s.place pa).stack cls) (pa / 32)).2 hgrants
  have hecc : (s.lcSlots (s.place pa).stack cls).ecc = [] := (s.lcSlots_onlyRead ..).clean hclean
  exact (Dev.readSector1_regs hslots hecc).trans (s.lcSlots_regs ..)

theorem Dev.cacheLeaf_regs (s : Dev) (n : CacheName) (h : HoldId) (level va : Nat) (e : Word64) :
    (s.cacheLeaf n h level va e).regs = s.regs := by
  obtain ⟨x, k, hframe⟩ := s.cacheLeaf_frame n h level va e
  rw [hframe]

theorem Dev.walkEntry_regs {s : Dev} {h : HoldId} {walker : Option Nat} {cls : MemClass} {level table va : Nat} {e : Word64}
    (hclean : s.ecc = []) (hentry : (s.walkEntry h walker cls level table va).1 = some e) :
    (s.walkEntry h walker cls level table va).2.regs = s.regs := by
  unfold Dev.walkEntry at hentry ⊢
  split at hentry
  · rfl
  · dsimp only at hentry ⊢
    split at hentry
    next x d hread _ =>
      have hregs := Dev.readEntry_regs hclean hread
      dsimp only
      split
      · exact (Dev.cacheLeaf_regs ..).trans hregs
      · exact hregs
    next => exact Dev.readEntry_regs hclean hentry

/-- What is said without an entry is a fault. -/
theorem entrySays_none (level : Nat) : entrySays level none = some (.fault 2) := rfl

theorem Dev.walkFrom_regs {s : Dev} {h : HoldId} {walker : Option Nat} {cls : MemClass} {va level table l : Nat} {e : Word64}
    (hclean : s.ecc = []) (hleaf : (s.walkFrom h walker cls va level table).1 = .leaf l e) :
    (s.walkFrom h walker cls va level table).2.regs = s.regs := by
  induction level generalizing s table with
  | zero =>
    unfold Dev.walkFrom at hleaf ⊢
    cases hentry : (s.walkEntry h walker cls 0 table va).1 with
    | none => simp [hentry, entrySays_none] at hleaf
    | some x => exact Dev.walkEntry_regs hclean hentry
  | succ level ih =>
    unfold Dev.walkFrom at hleaf ⊢
    cases hentry : (s.walkEntry h walker cls (level + 1) table va).1 with
    | none => simp [hentry, entrySays_none] at hleaf
    | some x =>
      have hregs := Dev.walkEntry_regs hclean hentry
      have hecc := (s.walkEntry_onlyRead h walker cls (level + 1) table va).clean hclean
      dsimp only at hleaf ⊢
      split at hleaf
      · exact hregs
      · exact (ih hecc hleaf).trans hregs

theorem Dev.walk_regs {s : Dev} {h : HoldId} {walker : Option Nat} {cls : MemClass} {va l : Nat} {e : Word64}
    (hclean : s.ecc = []) (hleaf : (s.walk h walker cls va).1 = .leaf l e) : (s.walk h walker cls va).2.regs = s.regs := by
  unfold Dev.walk at hleaf ⊢
  split at hleaf
  · rfl
  · exact Dev.walkFrom_regs hclean hleaf

/-! ### The fault record (R250, R268) -/

/-- XLT_FAULT_INFO of a first fault. -/
def faultInfo (kind : Nat) (write : Bool) (h : HoldId) (core : Option CoreId) : Word32 :=
  BitVec.ofNat 32 (0x80000000 + kind * 0x10000000 + (if write then 0x8000000 else 0) + h.val * 0x1000000
    + (match core with | some c => c.val | none => 0xFF) * 0x10000)

theorem Dev.runFault_frame (s : Dev) (c : CoreId) (h : Option HoldId) (i : Word32) (k : Status) :
    ∃ r z, s.runFault c h i k = { s with regs := r, holdings := z } := by
  cases h <;> exact ⟨_, _, rfl⟩

/-- A faulting access changes registers, counters and totals alone. -/
theorem Dev.accessFault_frame (s : Dev) (a : Agent) (va : Nat) (write : Bool) (kind : Nat) :
    ∃ r c x z, s.accessFault a va write kind = { s with regs := r, ctrs := c, shadow := x, holdings := z } := by
  have hrecord : ∃ r c x z, s.xltFault a va write kind = { s with regs := r, ctrs := c, shadow := x, holdings := z } := by
    unfold Dev.xltFault
    dsimp only
    split_ifs <;> exact ⟨_, _, _, _, rfl⟩
  obtain ⟨r, c, x, z, hrecord⟩ := hrecord
  unfold Dev.accessFault
  rw [hrecord]
  dsimp only
  split
  next k _ =>
    obtain ⟨r', z', hfault⟩ := Dev.runFault_frame { s with regs := r, ctrs := c, shadow := x, holdings := z } k
      (some a.holding) a.index .notPermitted
    exact ⟨r', c, x, z', hfault⟩
  next => exact ⟨r, c, x, z, rfl⟩

/-- The record of a die lies behind the registers of its cores. -/
theorem xltReg_ne_core (die off : Nat) (c : CoreId) (hoff : off < 0x100) :
    xltReg die off ≠ seqReg c 4 ∧ xltReg die off ≠ coreEvent c := by
  unfold xltReg seqReg coreReg coreEvent regAt
  omega

theorem xltReg_ne_memEvent (die off : Nat) (hoff : off < 0x100) (k : StackId) : xltReg die off ≠ memEvent k := by
  unfold xltReg memEvent regAt
  split <;> omega

/-- A fault of a core's stream leaves the records of the dies alone. -/
theorem Dev.runFault_reg (s : Dev) (c : CoreId) (h : Option HoldId) (i : Word32) (k : Status) (die off : Nat)
    (hoff : off < 0x100) : (s.runFault c h i k).reg (xltReg die off) = s.reg (xltReg die off) := by
  obtain ⟨hseq, hevent⟩ := xltReg_ne_core die off c hoff
  have hregs : ∀ v : Word32, ((s.setReg (seqReg c 4) v).event (coreEvent c) evRunFault).reg (xltReg die off)
      = s.reg (xltReg die off) := fun v => by
    rw [Dev.reg_event, if_neg hevent, Dev.reg_setReg, if_neg hseq]
  cases h <;> exact hregs _

/-- A fault that finds the record of its die empty is recorded. -/
theorem Dev.accessFault_record {s : Dev} {a : Agent} (hempty : (s.reg (xltReg a.die 0)).getLsbD 31 = false) (va : Nat)
    (write : Bool) (kind : Nat) :
    let t := s.accessFault a va write kind
    t.reg (xltReg a.die 0) = faultInfo kind write a.holding a.core
      ∧ t.reg (xltReg a.die 4) = BitVec.ofNat 32 va
      ∧ t.reg (xltReg a.die 8) = BitVec.ofNat 32 (va / 0x100000000 % 0x100000) := by
  have hrecord : s.xltFault a va write kind = (((s.count (some a.holding)
      (xltReg a.die (if 3 ≤ kind then 0x28 else 0x20)) 1).setReg (xltReg a.die 0)
        (faultInfo kind write a.holding a.core)).setReg (xltReg a.die 4) (BitVec.ofNat 32 va)).setReg (xltReg a.die 8)
          (BitVec.ofNat 32 (va / 0x100000000 % 0x100000)) := by
    have hinfo : ((s.count (some a.holding) (xltReg a.die (if 3 ≤ kind then 0x28 else 0x20)) 1).reg
      (xltReg a.die 0)).getLsbD 31 = false := hempty
    unfold Dev.xltFault
    dsimp only
    rw [hinfo]
    rfl
  have hreg : ∀ off < 0x100, (s.accessFault a va write kind).reg (xltReg a.die off)
      = (s.xltFault a va write kind).reg (xltReg a.die off) := fun off hoff => by
    unfold Dev.accessFault
    dsimp only
    split
    · exact Dev.runFault_reg _ _ _ _ _ _ _ hoff
    · rfl
  have hne : ∀ x y : Nat, x ≠ y → xltReg a.die x ≠ xltReg a.die y := fun x y hxy => by
    unfold xltReg regAt
    omega
  intro t
  simp only [t, hreg _ (show 0 < 0x100 by decide), hreg _ (show 4 < 0x100 by decide), hreg _ (show 8 < 0x100 by decide),
    hrecord, Dev.reg_setReg, hne 0 4 (by decide), hne 0 8 (by decide), hne 4 8 (by decide), if_true, if_false, and_self]

/-! ### The end of a walk (R249, R250) -/

/-- The agent for which a walk was made. -/
def Dev.walkAgent (s : Dev) (die : Nat) (h : HoldId) (core : Option CoreId) : Agent :=
  { die := die, core := core, holding := h
    index := (core.bind fun c => ((s.core c).window.find? fun e => e.phase == .started).map (·.index)).getD 0 }

/-- A finished walk of a die, which its counter has counted. -/
def Dev.walked (s : Dev) (die : Nat) (h : HoldId) (va : Nat) : Walked × Dev :=
  (s.count (some h) (xltReg die 0x18) 1).walk h (some die) .ordinary va

/-- A finished walk whose leaf has gone into the caches. -/
def Dev.walkCached (s : Dev) (die : Nat) (h : HoldId) (va : Nat) (core : Option CoreId) (level : Nat) (e : Word64) : Dev :=
  ((s.walked die h va).2.cacheLeaf (.shared die) h level va e).cacheCore (s.walkAgent die h core) va level e

section Walked
variable (s : Dev) (die : Nat) (h : HoldId) (va : Nat) (core : Option CoreId) (level : Nat) (e : Word64)

theorem Dev.walked_onlyRead : s.OnlyRead (s.walked die h va).2 := by
  have hcount : s.OnlyRead (s.count (some h) (xltReg die 0x18) 1) := .of_eq rfl rfl
  exact hcount.trans (Dev.walk_onlyRead ..)

theorem Dev.walked_walks : (s.count (some h) (xltReg die 0x18) 1).Walks (s.walked die h va).2 := Dev.walk_walks ..

theorem Dev.walkCached_onlyRead : s.OnlyRead (s.walkCached die h va core level e) :=
  (s.walked_onlyRead die h va).trans ((Dev.cacheLeaf_onlyRead ..).trans (Dev.cacheCore_onlyRead ..))

theorem Dev.walkCached_regs : (s.walkCached die h va core level e).regs = (s.walked die h va).2.regs := by
  obtain ⟨x, k, hframe⟩ := Dev.cacheCore_frame ((s.walked die h va).2.cacheLeaf (.shared die) h level va e)
    (s.walkAgent die h core) va level e
  rw [Dev.walkCached, hframe]
  exact Dev.cacheLeaf_regs ..

/-- The die's cache holds the leaf. -/
theorem Dev.walkCached_xlat : ∃ q ∈ (s.walkCached die h va core level e).xlat,
    q.cache = .shared die ∧ q.holding = h ∧ q.level = level ∧ q.key = pageKey level va := by
  obtain ⟨q, hq, hcache, hkey⟩ := (s.walked die h va).2.cacheLeaf_mem (.shared die) h level va e
  have hheld : q ∈ ((s.walked die h va).2.cacheLeaf (.shared die) h level va e).cacheOf (.shared die) :=
    List.mem_filter.2 ⟨hq, by simpa using hcache⟩
  rw [← (Dev.cacheCore_walks _ (s.walkAgent die h core) va level e).shared die] at hheld
  exact ⟨q, (List.mem_filter.1 hheld).1, hcache, hkey⟩

/-- The walk has been counted, once (R268). -/
theorem Dev.walkCached_ctr : (s.walkCached die h va core level e).ctr (xltReg die 0x18)
    = addStop64 (s.ctr (xltReg die 0x18)) 1 := by
  have hmod : xltReg die 0x18 % 256 = 0x18 := by
    unfold xltReg regAt
    omega
  have hleaf : ((s.walked die h va).2.cacheLeaf (.shared die) h level va e).ctr (xltReg die 0x18)
      = (s.walked die h va).2.ctr (xltReg die 0x18) := by
    obtain ⟨x, k, hframe⟩ := (s.walked die h va).2.cacheLeaf_frame (.shared die) h level va e
    rw [hframe]
    rfl
  rw [Dev.walkCached, (Dev.cacheCore_walks ..).ctr _ hmod, hleaf, (s.walked_walks die h va).ctr _ hmod, Dev.ctr_count,
    if_pos rfl]

/-- The record of the die stands as it was before the walk. -/
theorem Dev.walked_reg {off : Nat} (hoff : off < 0x100) :
    (s.walked die h va).2.reg (xltReg die off) = s.reg (xltReg die off) :=
  (s.walked_walks die h va).regs _ (xltReg_ne_memEvent die off hoff)

end Walked

section Done
variable {s : Dev} {die : Nat} {h : HoldId} {va : Nat} {core : Option CoreId}
  (hwaits : s.xlateWaits { die := die, core := core, holding := h } va = false) (write : Bool)
include hwaits

/-- A walk whose reading of a table has come back poisoned is a fault of KIND 2. -/
theorem Dev.pageWalkDone_of_poison : s.pageWalkDone die h va write core true
    = (s.count (some h) (xltReg die 0x18) 1).accessFault (s.walkAgent die h core) va write 2 :=
  if_neg (Bool.eq_false_iff.1 hwaits)

theorem Dev.pageWalkDone_of_fault {kind : Nat} (hwalk : (s.walked die h va).1 = .fault kind) :
    s.pageWalkDone die h va write core false
      = (s.walked die h va).2.accessFault (s.walkAgent die h core) va write kind := by
  refine (if_neg (Bool.eq_false_iff.1 hwaits)).trans ?_
  simp only [Dev.walked] at hwalk
  simp only [hwalk, Bool.false_eq_true, if_false]
  rfl

variable {level : Nat} {e : Word64} (hwalk : (s.walked die h va).1 = .leaf level e)
include hwalk

/-- A leaf that the access may not use is cached all the same. -/
theorem Dev.pageWalkDone_of_refused {kind : Nat} (hrefused : leafXlate level e va write = .fault kind) :
    s.pageWalkDone die h va write core false
      = (s.walkCached die h va core level e).accessFault (s.walkAgent die h core) va write kind := by
  refine (if_neg (Bool.eq_false_iff.1 hwaits)).trans ?_
  simp only [Dev.walked] at hwalk
  simp only [hwalk, hrefused, Bool.false_eq_true, if_false]
  rfl

theorem Dev.pageWalkDone_of_allowed (hallowed : ∀ n, leafXlate level e va write ≠ .fault n) :
    s.pageWalkDone die h va write core false = s.walkCached die h va core level e := by
  refine (if_neg (Bool.eq_false_iff.1 hwaits)).trans ?_
  simp only [Dev.walked] at hwalk
  cases haccess : leafXlate level e va write with
  | fault kind => exact absurd haccess (hallowed kind)
  | mem | host =>
    simp only [hwalk, haccess, Bool.false_eq_true, if_false]
    rfl

end Done

/-- The faults of a finished walk: what it leaves when its access is refused. -/
theorem Dev.pageWalkDone_faults {s : Dev} {die : Nat} {h : HoldId} {va kind : Nat} {core : Option CoreId} {write bad : Bool}
    (hwaits : s.xlateWaits { die := die, core := core, holding := h } va = false)
    (hfault : if bad then kind = 2 else (s.walked die h va).1 = .fault kind
      ∨ ∃ level e, (s.walked die h va).1 = .leaf level e ∧ leafXlate level e va write = .fault kind) :
    ∃ d, s.pageWalkDone die h va write core bad = d.accessFault (s.walkAgent die h core) va write kind
      ∧ d.reg (xltReg die 0) = s.reg (xltReg die 0) ∧ (bad = true → d.xlat = s.xlat)
      ∧ ((s.walked die h va).1 = .fault kind → d.cacheOf (.shared die) = s.cacheOf (.shared die)) ∧ s.OnlyRead d := by
  cases bad with
  | true =>
    rw [if_pos rfl] at hfault
    subst hfault
    exact ⟨_, Dev.pageWalkDone_of_poison hwaits write, rfl, fun _ => rfl, fun _ => rfl, .of_eq rfl rfl⟩
  | false =>
    rw [if_neg Bool.false_ne_true] at hfault
    rcases hfault with hwalk | ⟨level, e, hwalk, hrefused⟩
    · exact ⟨_, Dev.pageWalkDone_of_fault hwaits write hwalk, s.walked_reg die h va (by decide), Bool.noConfusion,
        fun _ => (s.walked_walks die h va).shared die, s.walked_onlyRead die h va⟩
    · refine ⟨_, Dev.pageWalkDone_of_refused hwaits write hwalk hrefused, ?_, Bool.noConfusion, fun hother => ?_,
        s.walkCached_onlyRead die h va core level e⟩
      · rw [Dev.reg, s.walkCached_regs]
        exact s.walked_reg die h va (by decide)
      · rw [hwalk] at hother
        cases hother

/-- A finished walk takes effect where memory has its clock. -/
theorem exec_pageWalkDone {s : State} (hup : s.dev.memoryUp = true) (die : DieId) (h : HoldId) (va : BitVec 52) (write : Bool)
    (core : Option CoreId) (bad : Bool) : exec (.pageWalkDone die h va write core bad) s =
      .next { s with dev := s.dev.ctrlScope (s.dev.pageWalkDone die.val h va.toNat write core bad) } := by
  change memWork _ _ = _
  rw [memWork, if_pos hup]

/-- Settles O32: a walk that finds its leaf reads granted entries alone, and so raises no event; a fault finds the record of
its die as it was before the walk. -/
theorem walksFillTheCacheOrFault : Obligations.WalksFillTheCacheOrFault := by
  unfold Obligations.WalksFillTheCacheOrFault
  intro s die h va write core bad hup hwaits walked
  refine ⟨fun level e hgood hwalk hallowed => ?_, fun kind hfault hempty => ?_⟩
  · subst hgood
    have hdone := Dev.pageWalkDone_of_allowed hwaits write hwalk hallowed
    refine ⟨_, exec_pageWalkDone hup .., rfl, ?_⟩
    rw [hdone]
    refine ⟨s.dev.walkCached_xlat .., s.dev.walkCached_ctr .., fun hclean => ⟨?_, ?_⟩⟩
    · exact (s.dev.walkCached_regs ..).trans (Dev.walk_regs hclean hwalk)
    · exact (s.dev.walkCached_onlyRead ..).mem hclean
  · obtain ⟨d, hdone, hreg, hxlat, hshared, hread⟩ := Dev.pageWalkDone_faults hwaits hfault
    obtain ⟨hinfo, hlo, hhi⟩ := Dev.accessFault_record (a := s.dev.walkAgent die.val h core) (hreg ▸ hempty) va.toNat write
      kind
    obtain ⟨r, c, x, z, hframe⟩ := d.accessFault_frame (s.dev.walkAgent die.val h core) va.toNat write kind
    refine ⟨_, exec_pageWalkDone hup .., rfl, ?_⟩
    rw [hdone]
    refine ⟨hinfo, hlo, hhi, ?_⟩
    rw [hframe]
    exact ⟨hxlat, hshared, hread.mem⟩

end Sys2Proof.Machine

/-! Changes of the page tables (R221, R233, R246, R251): what they leave alone, the pages that leave and those that enter. -/

namespace Sys2Proof.Machine

/-! ### What changes of the page tables leave alone -/

/-- Gotre, the translation caches, and of every holding the epoch and the translation generation. -/
def Dev.beyondTables (s : Dev) : Gotre × List CachedLeaf × (HoldId → BitVec 16 × Nat) :=
  (s.gotre, s.xlat, fun h => ((s.holding h).epoch, (s.holding h).generation))

theorem Dev.beyondTables_eq_iff {s t : Dev} : t.beyondTables = s.beyondTables ↔ t.gotre = s.gotre ∧ t.xlat = s.xlat
    ∧ ∀ h, (t.holding h).epoch = (s.holding h).epoch ∧ (t.holding h).generation = (s.holding h).generation := by
  simp only [Dev.beyondTables, Prod.mk.injEq, funext_iff]

theorem Dev.beyondTables_congr {s t : Dev} (hgotre : t.gotre = s.gotre) (hxlat : t.xlat = s.xlat)
    (hholdings : t.holdings = s.holdings) : t.beyondTables = s.beyondTables :=
  Dev.beyondTables_eq_iff.2 ⟨hgotre, hxlat, fun h => by rw [Dev.holding_congr hholdings]; exact ⟨rfl, rfl⟩⟩

/-- A change of a holding that leaves its epoch and its generation. -/
theorem Dev.modHolding_beyondTables (s : Dev) (h : HoldId) {f : Holding → Holding} (hepoch : ∀ x, (f x).epoch = x.epoch)
    (hgeneration : ∀ x, (f x).generation = x.generation) : (s.modHolding h f).beyondTables = s.beyondTables := by
  refine Dev.beyondTables_eq_iff.2 ⟨rfl, rfl, fun k => ?_⟩
  rw [Dev.holding_modHolding]
  split
  next hk => rw [hk, hepoch, hgeneration]; exact ⟨rfl, rfl⟩
  next => exact ⟨rfl, rfl⟩

section Tables
variable (s : Dev)

@[simp] theorem Dev.putEntry_beyondTables (pa : Nat) (e : Word64) : (s.putEntry pa e).beyondTables = s.beyondTables := by
  have hst : (s.putEntry pa e).standing = s.standing := s.request_standing ..
  have hrights : (s.putEntry pa e).rights = s.rights := s.request_write_rights ..
  refine Dev.beyondTables_eq_iff.2 ⟨congrArg (·.1.gotre) hst, congrArg Prod.snd hrights, fun h => ?_⟩
  have hkernel := Dev.kernel_of_standing hst h
  exact ⟨(congrArg Holding.epoch hkernel :), (congrArg Holding.generation hkernel :)⟩

@[simp] theorem Dev.freeTables_beyondTables (h : HoldId) (ts : List Nat) :
    (s.freeTables h ts).beyondTables = s.beyondTables := s.modHolding_beyondTables h (fun _ => rfl) fun _ => rfl

variable {s} {h : HoldId} {t : Nat × Dev}

theorem Dev.newTable_beyondTables {level : Nat} (ht : s.newTable h level = some t) : t.2.beyondTables = s.beyondTables := by
  obtain ⟨b, -, rfl⟩ := Option.map_eq_some_iff.1 ht
  refine (Dev.modHolding_beyondTables _ h (by intro; rfl) (by intro; rfl)).trans ?_
  exact foldl_preserves Dev.beyondTables (f := fun (d : Dev) i => d.setTag (b + i) { owner := .device })
    (fun d i => Dev.beyondTables_congr rfl rfl rfl) s _

theorem Dev.rootTable_beyondTables (ht : s.rootTable h = some t) : t.2.beyondTables = s.beyondTables := by
  unfold Dev.rootTable at ht
  split at ht
  · cases ht
    rfl
  · obtain ⟨r, hr, rfl⟩ := Option.map_eq_some_iff.1 ht
    exact (Dev.modHolding_beyondTables _ h (by intro; rfl) (by intro; rfl)).trans (Dev.newTable_beyondTables hr)

theorem Dev.reachTable_beyondTables {va goal level table : Nat} (ht : s.reachTable h va goal level table = some t) :
    t.2.beyondTables = s.beyondTables := by
  induction level generalizing s table with
  | zero =>
    unfold Dev.reachTable at ht
    split at ht <;> cases ht
    rfl
  | succ level ih =>
    unfold Dev.reachTable at ht
    dsimp only at ht
    split at ht
    · cases ht
      rfl
    · split at ht
      · cases ht
      · split at ht
        · split at ht
          · cases ht
          · exact ih ht
        · obtain ⟨r, hr, hrest⟩ := Option.bind_eq_some_iff.1 ht
          exact (ih hrest).trans ((Dev.putEntry_beyondTables ..).trans (Dev.newTable_beyondTables hr))

theorem Dev.putLeaf_beyondTables {level va : Nat} {e : Word64} {d : Dev} (hd : s.putLeaf h level va e = some d) :
    d.beyondTables = s.beyondTables := by
  obtain ⟨r, hr, hleaf⟩ := Option.bind_eq_some_iff.1 hd
  obtain ⟨t, ht, rfl⟩ := Option.map_eq_some_iff.1 hleaf
  rw [Dev.putEntry_beyondTables, Dev.freeTables_beyondTables, Dev.reachTable_beyondTables ht, Dev.rootTable_beyondTables hr]

theorem Dev.addPages_beyondTables {level target va : Nat} {read write nospec : Bool} {fs : List Nat} {d : Dev}
    (hd : s.addPages h level target read write nospec va fs = some d) : d.beyondTables = s.beyondTables := by
  induction fs generalizing s va with
  | nil =>
    cases hd
    rfl
  | cons f fs ih =>
    obtain ⟨r, hr, hrest⟩ := Option.bind_eq_some_iff.1 hd
    exact (ih hrest).trans (Dev.putLeaf_beyondTables hr)

variable (s h)

@[simp] theorem Dev.clearEntry_beyondTables (p : Page) : (s.clearEntry h p).beyondTables = s.beyondTables := by
  unfold Dev.clearEntry
  split
  · exact s.putEntry_beyondTables ..
  · rfl

end Tables

/-! ### Pages that leave the table (R233, R251) -/

/-- The blocks of pages in the tiers. -/
def tierBlocks (ps : List Page) : List Nat :=
  (ps.filter fun p => decide (pteTarget p.entry < 2)).flatMap fun p =>
    (List.range (p.size / 4096)).map fun i => pteFrame p.entry + i

theorem mem_tierBlocks {ps : List Page} {p : Page} {i : Nat} (hp : p ∈ ps) (htier : pteTarget p.entry < 2)
    (hi : i < p.size / 4096) : pteFrame p.entry + i ∈ tierBlocks ps :=
  List.mem_flatMap.2 ⟨p, List.mem_filter.2 ⟨hp, by simpa using htier⟩, List.mem_map.2 ⟨i, List.mem_range.2 hi, rfl⟩⟩

/-- Pages leave the table by their entries, and their blocks by their tags. -/
theorem Dev.dropPages_eq (s : Dev) (h : HoldId) (ps : List Page) :
    s.dropPages h ps = (ps.foldl (fun d p => d.clearEntry h p) s).unmapBlocks (tierBlocks ps) := by
  simp only [Dev.dropPages, Dev.unmapBlocks, tierBlocks, List.foldl_flatMap, List.foldl_map]

theorem Dev.unmapBlocks_frame (s : Dev) (bs : List Nat) : ∃ x, s.unmapBlocks bs = { s with tags := x } :=
  s.foldl_setTag_frame (fun d b => unmappedTag (d.tag b)) bs

theorem Dev.dropPages_mem (s : Dev) (h : HoldId) (ps : List Page) :
    (s.dropPages h ps).mem = (ps.foldl (fun d p => d.clearEntry h p) s).mem := by
  rw [Dev.dropPages_eq]
  obtain ⟨x, hx⟩ := Dev.unmapBlocks_frame (ps.foldl (fun d p => d.clearEntry h p) s) (tierBlocks ps)
  rw [hx]

@[simp] theorem Dev.dropPages_beyondTables (s : Dev) (h : HoldId) (ps : List Page) :
    (s.dropPages h ps).beyondTables = s.beyondTables := by
  rw [Dev.dropPages_eq]
  obtain ⟨x, hx⟩ := Dev.unmapBlocks_frame (ps.foldl (fun d p => d.clearEntry h p) s) (tierBlocks ps)
  rw [hx]
  exact (Dev.beyondTables_congr rfl rfl rfl).trans
    (foldl_preserves Dev.beyondTables (fun d p => d.clearEntry_beyondTables h p) s ps)

/-- The blocks of pages that left the table have no owner. -/
theorem Dev.dropPages_owner (s : Dev) (h : HoldId) {ps : List Page} {p : Page} {i : Nat} (hp : p ∈ ps)
    (htier : pteTarget p.entry < 2) (hi : i < p.size / 4096) :
    ((s.dropPages h ps).tag (pteFrame p.entry + i)).owner = .unassigned := by
  rw [Dev.dropPages_eq]
  exact Dev.unmapBlocks_owner _ _ _ (.inl (mem_tierBlocks hp htier hi))

/-! ### Pages that enter the table (R221, R233) -/

/-- A frame is picked by a free value, and nothing else changes. -/
theorem Dev.pickFrames_frame (s : Dev) (x : Holding) (t size n : Nat) (used : List (Nat × Nat)) :
    ∃ k, (s.pickFrames x t size n used).2 = { s with free := k } := by
  induction n generalizing s used with
  | zero => exact ⟨s.free, rfl⟩
  | succ n ih =>
    unfold Dev.pickFrames
    dsimp only
    split
    · exact ⟨_, rfl⟩
    next f _ =>
      obtain ⟨k, hk⟩ := ih { s with free := s.free + 1 } ((f, size) :: used)
      exact ⟨k, hk⟩

/-- The blocks of frames of a size. -/
def frameBlocks (size : Nat) (fs : List Nat) : List Nat := fs.flatMap fun f => (List.range size).map fun i => f + i

/-- The tags of the blocks of frames, written for a mapping. -/
def Dev.tagFrames (s : Dev) (h : HoldId) (size : Nat) (fs : List Nat) : Dev := fs.foldl (fun d f => d.tagBlocks h f size) s

theorem Dev.tagFrames_eq (s : Dev) (h : HoldId) (size : Nat) (fs : List Nat) : s.tagFrames h size fs =
    (frameBlocks size fs).foldl (fun d b => d.setTag b { owner := .holding h, epoch := (s.holding h).epoch }) s := by
  induction fs generalizing s with
  | nil => rfl
  | cons f fs ih =>
    have hfirst : s.tagBlocks h f size = ((List.range size).map fun i => f + i).foldl
        (fun d b => d.setTag b { owner := .holding h, epoch := (s.holding h).epoch }) s := by
      rw [Dev.tagBlocks, List.foldl_map]
    obtain ⟨x, hx⟩ := s.foldl_setTag_frame (fun _ _ => { owner := .holding h, epoch := (s.holding h).epoch })
      ((List.range size).map fun i => f + i)
    have hepoch : ((s.tagBlocks h f size).holding h).epoch = (s.holding h).epoch := by
      rw [hfirst, hx]
      rfl
    change (s.tagBlocks h f size).tagFrames h size fs = _
    rw [ih, hepoch, hfirst]
    exact List.foldl_append.symm

theorem Dev.tagFrames_frame (s : Dev) (h : HoldId) (size : Nat) (fs : List Nat) :
    ∃ x, s.tagFrames h size fs = { s with tags := x } := by
  rw [Dev.tagFrames_eq]
  exact s.foldl_setTag_frame (fun _ _ => { owner := .holding h, epoch := (s.holding h).epoch }) _

/-- A tag that is written into several blocks is read from each. -/
theorem Dev.tag_foldl_setTag (s : Dev) (v : Tag) {bs : List Nat} {q : Nat} (hq : q ∈ bs ∨ s.tag q = v) :
    (bs.foldl (fun d b => d.setTag b v) s).tag q = v := by
  induction bs generalizing s with
  | nil => exact hq.resolve_left List.not_mem_nil
  | cons b bs ih =>
    refine ih (s.setTag b v) ?_
    rw [Dev.tag_setTag]
    by_cases hb : q = b
    · exact .inr (if_pos hb)
    · simpa [hb] using hq

theorem Dev.tagFrames_tag (s : Dev) (h : HoldId) {size f i : Nat} {fs : List Nat} (hf : f ∈ fs) (hi : i < size) :
    (s.tagFrames h size fs).tag (f + i) = { owner := .holding h, epoch := (s.holding h).epoch } := by
  rw [Dev.tagFrames_eq]
  refine s.tag_foldl_setTag _ (.inl ?_)
  exact List.mem_flatMap.2 ⟨f, hf, List.mem_map.2 ⟨i, List.mem_range.2 hi, rfl⟩⟩

end Sys2Proof.Machine

/-! MAP_MEMORY and UNMAP_MEMORY (R246, R247, R251): the checks, and the ends of the commands. -/

namespace Sys2Proof.Machine

/-! ### The ends of the mapping commands (R246, R251) -/

/-- A command of the life of functions that ends in a device which has not touched its job: it is answered, and its holdings,
tags, memory, caches and queues are that device's. -/
theorem exec_finishes {s : State} {d r : Dev} {n op : Nat} {j : Job} {i : Instr} {st : Status} {result : BitVec 128}
    (ready : s.dev.jobReady n op j) (hd : d.gotre = s.dev.gotre) (hexec : exec i s = done s (s.dev.lifeScope r))
    (hr : r = (d.finishJob n st result).passTurn j) :
    ∃ t, exec i s = .next t ∧ t.pending = s.pending ∧ t.dev.answered j st result
      ∧ t.dev.holdings = d.holdings ∧ t.dev.tags = d.tags ∧ t.dev.mem = d.mem ∧ t.dev.xlat = d.xlat
      ∧ t.dev.queues = d.queues := by
  obtain ⟨g, hend, hanswer⟩ := Dev.finishJob_passTurn ready hd st result
  rw [hr, hend, done_next] at hexec
  exact ⟨_, hexec, rfl, hanswer _ (Dev.lifeScope_gotre ..), rfl, rfl, rfl, rfl, rfl⟩

/-- The epoch of a block's tag does not depend on where the regions lie. -/
theorem Dev.tag_epoch_congr {s t : Dev} (h : t.tags = s.tags) (q : Nat) : (t.tag q).epoch = (s.tag q).epoch := by
  have hplain : ∀ d : Dev, (d.plainTag q).epoch = (bootTag q).epoch := fun d => by
    unfold Dev.plainTag
    split <;> rfl
  simp only [Dev.tag, h]
  cases Tab.get none s.tags q with
  | none => exact (hplain t).trans (hplain s).symm
  | some v => rfl

/-- The pages of a holding that a span touches. -/
def Dev.pagesIn (s : Dev) (h : HoldId) (va n : Nat) : List Page := (s.pageList h).filter fun p => p.touches va n

/-- The words of a MAP_MEMORY that pass its checks. -/
structure Job.MapFits (j : Job) : Prop where
  level : j.param 159 158 < 3
  target : j.param 161 160 < 3
  bytes : j.param 157 116 ≠ 0
  va : j.param 51 0 % pageBytes (j.param 159 158) = 0
  whole : j.param 157 116 % pageBytes (j.param 159 158) = 0
  top : j.param 51 0 + j.param 157 116 ≤ 2 ^ 52
  host : j.param 161 160 = 2 →
    j.param 115 52 % pageBytes (j.param 159 158) = 0 ∧ j.param 115 52 + j.param 157 116 ≤ 2 ^ 64

/-- The host frames of a MAP_MEMORY. -/
def Job.hostFrames (j : Job) : List Nat :=
  (List.range (j.param 157 116 / pageBytes (j.param 159 158))).map fun i =>
    j.param 115 52 / 4096 + i * (pageBytes (j.param 159 158) / 4096)

/-- The frames that a MAP_MEMORY maps: host frames as it names them, or free frames of a tier. -/
def Dev.mapFrames (s : Dev) (h : HoldId) (j : Job) : Option (List Nat) × Dev :=
  if j.param 161 160 = 2 then (some j.hostFrames, s)
  else s.pickFrames (s.holding h) (j.param 161 160) (pageBytes (j.param 159 158) / 4096)
    (j.param 157 116 / pageBytes (j.param 159 158)) (s.framesUsed h)

/-- The pages of a MAP_MEMORY enter the table. -/
def Dev.enterPages (d : Dev) (h : HoldId) (j : Job) (fs : List Nat) : Option Dev :=
  d.addPages h (j.param 159 158) (j.param 161 160) (decide (j.param 162 162 = 1)) (decide (j.param 163 163 = 1))
    (decide (j.param 164 164 = 1)) (j.param 51 0) fs

/-- The tags of the frames of tier pages are written. -/
def Dev.tagMapped (d : Dev) (h : HoldId) (j : Job) (fs : List Nat) : Dev :=
  if j.param 161 160 = 2 then d else d.tagFrames h (pageBytes (j.param 159 158) / 4096) fs

/-- A mapping that takes no page's place: the generation advances where tables have gone. -/
def Dev.mapEnd (e d : Dev) (h : HoldId) (j : Job) (fs : List Nat) : Dev :=
  if (e.holding h).tables.any fun t => !(d.holding h).tables.contains t then (d.tagMapped h j fs).nextGeneration h
  else d.tagMapped h j fs

/-- The checks of a MAP_MEMORY on its words and on the pages whose place it takes. -/
def Job.mapBad (j : Job) (old : List Page) : Bool :=
  j.param 159 158 = 3 || j.param 161 160 = 3 || j.param 157 116 = 0 || j.param 51 0 % pageBytes (j.param 159 158) != 0
    || j.param 157 116 % pageBytes (j.param 159 158) != 0 || decide (2 ^ 52 < j.param 51 0 + j.param 157 116)
    || (j.param 161 160 = 2 && (j.param 115 52 % pageBytes (j.param 159 158) != 0
      || decide (2 ^ 64 < j.param 115 52 + j.param 157 116)))
    || (!(decide (j.param 165 165 = 1)) && !old.isEmpty)
    || (j.param 165 165 = 1 && old.any fun p => !p.inside (j.param 51 0) (j.param 157 116))

/-- Words that fit pass, where pages whose place they take are replaced whole. -/
theorem Job.MapFits.mapBad_eq_false {j : Job} (fits : j.MapFits) {old : List Page}
    (hold : old = [] ∨ j.param 165 165 = 1 ∧ ∀ p ∈ old, p.inside (j.param 51 0) (j.param 157 116) = true) :
    j.mapBad old = false := by
  obtain ⟨hlevel, htarget, hbytes, hva, hwhole, htop, hhost⟩ := fits
  have hwords : j.param 159 158 ≠ 3 ∧ j.param 161 160 ≠ 3 ∧ ¬ 2 ^ 52 < j.param 51 0 + j.param 157 116 := by omega
  have hreach : (decide (j.param 161 160 = 2) && (j.param 115 52 % pageBytes (j.param 159 158) != 0
      || decide (2 ^ 64 < j.param 115 52 + j.param 157 116))) = false := by
    by_cases htier : j.param 161 160 = 2
    · obtain ⟨hpage, htop⟩ := hhost htier
      simpa [hpage] using fun _ => htop
    · simp [htier]
  have hpages : ((!(decide (j.param 165 165 = 1)) && !old.isEmpty) = false)
      ∧ (decide (j.param 165 165 = 1) && old.any fun p => !p.inside (j.param 51 0) (j.param 157 116)) = false := by
    rcases hold with rfl | ⟨hreplace, hinside⟩
    · simp
    · simpa [hreplace] using hinside
  simp only [Job.mapBad, hwords, hbytes, hva, hwhole, hreach, hpages, decide_false, bne_self_eq_false, Bool.or_self]

section Map
variable {s : Dev} {n : Nat} {j : Job} {h : HoldId} (hold : j.holding? = some h) (ready : s.jobReady n 0x0030 j)
  (hsweep : (s.holding h).sweep = false) (hstill : s.tablesQuiet h = false) (fits : j.MapFits) {e d : Dev} {fs : List Nat}
  (hframes : s.mapFrames h j = (some fs, e))
include hold ready hsweep hstill fits hframes

/-- A mapping where none stands. -/
theorem Dev.mapMemory_of_fresh (hnone : s.pagesIn h (j.param 51 0) (j.param 157 116) = [])
    (henter : e.enterPages h j fs = some d) :
    s.mapMemory n = ((e.mapEnd d h j fs).finishJob n .ok 0).passTurn j := by
  have hbad := fits.mapBad_eq_false (.inl hnone)
  unfold Dev.mapMemory
  rw [Dev.runHolding_of_jobReady ready rfl hold]
  unfold Dev.pagesIn at hnone hbad
  unfold Job.mapBad at hbad
  unfold Dev.mapFrames Job.hostFrames at hframes
  unfold Dev.enterPages at henter
  simp only [hsweep, hstill, hbad, Bool.or_self, Bool.false_eq_true, if_false]
  simp only [hnone, hframes, henter, List.isEmpty_nil, Bool.not_true, Bool.false_and, Bool.false_eq_true, if_true, if_false]
  rfl

/-- A mapping in the place of pages that it covers whole, once no translation of the holding is under way. -/
theorem Dev.mapMemory_of_replaced (hsome : s.pagesIn h (j.param 51 0) (j.param 157 116) ≠ []) (hreplace : j.param 165 165 = 1)
    (hinside : ∀ p ∈ s.pagesIn h (j.param 51 0) (j.param 157 116), p.inside (j.param 51 0) (j.param 157 116) = true)
    (hquiet : s.quiet h = true)
    (henter : ((e.dropPages h (s.pagesIn h (j.param 51 0) (j.param 157 116))).nextGeneration h).enterPages h j fs = some d) :
    s.mapMemory n = ((d.tagMapped h j fs).rebuildRegions.finishJob n .ok 0).passTurn j := by
  have hbad := fits.mapBad_eq_false (.inr ⟨hreplace, hinside⟩)
  have hnonempty : (s.pagesIn h (j.param 51 0) (j.param 157 116)).isEmpty = false := by simpa using hsome
  unfold Dev.mapMemory
  rw [Dev.runHolding_of_jobReady ready rfl hold]
  unfold Dev.pagesIn at hnonempty hbad henter
  unfold Job.mapBad at hbad
  unfold Dev.mapFrames Job.hostFrames at hframes
  unfold Dev.enterPages at henter
  simp only [hsweep, hstill, hbad, Bool.or_self, Bool.false_eq_true, if_false]
  simp only [hnonempty, hquiet, hframes, henter, Bool.not_true, Bool.and_false, Bool.false_eq_true, if_false]
  rfl

end Map

/-! ### The next generation of a holding's translations (R251) -/

/-- A holding whose translations are of the next generation. -/
def Holding.renewed (x : Holding) : Holding := { x with generation := x.generation + 1 }

section Generation
variable (s : Dev) (h : HoldId)

theorem Dev.nextGeneration_holding : (s.nextGeneration h).holding h = (s.holding h).renewed :=
  (s.holding_modHolding h h Holding.renewed).trans (if_pos rfl)

/-- No cache translates for the holding any more. -/
theorem Dev.nextGeneration_xlat {q : CachedLeaf} (hq : q ∈ (s.nextGeneration h).xlat) : q.holding ≠ h := by
  simpa using (List.mem_filter.1 hq).2

theorem Dev.tagMapped_frame (j : Job) (fs : List Nat) : ∃ x, s.tagMapped h j fs = { s with tags := x } := by
  unfold Dev.tagMapped
  split
  · exact ⟨s.tags, rfl⟩
  · exact s.tagFrames_frame ..

/-- A mapping that takes no page's place leaves the tables, their memory and the tags as the entering of its pages did. -/
theorem Dev.mapEnd_frame (e d : Dev) (j : Job) (fs : List Nat) :
    (e.mapEnd d h j fs).gotre = d.gotre ∧ (e.mapEnd d h j fs).mem = d.mem
      ∧ (e.mapEnd d h j fs).tags = (d.tagMapped h j fs).tags
      ∧ ((e.mapEnd d h j fs).holding h).root = (d.holding h).root
      ∧ ((e.mapEnd d h j fs).holding h).tables = (d.holding h).tables := by
  obtain ⟨x, hx⟩ := d.tagMapped_frame h j fs
  unfold Dev.mapEnd
  split
  · rw [Dev.nextGeneration_holding, hx]
    exact ⟨rfl, rfl, rfl, rfl, rfl⟩
  · rw [hx]
    exact ⟨rfl, rfl, rfl, rfl, rfl⟩

end Generation

/-- The frames of a mapping are found beside the tables. -/
theorem Dev.mapFrames_beyondTables {s e : Dev} {h : HoldId} {j : Job} {fs : List Nat}
    (hframes : s.mapFrames h j = (some fs, e)) : e.beyondTables = s.beyondTables := by
  have he : e = (s.mapFrames h j).2 := by rw [hframes]
  rw [he, Dev.mapFrames]
  split
  · rfl
  · obtain ⟨k, hk⟩ := s.pickFrames_frame (s.holding h) (j.param 161 160) (pageBytes (j.param 159 158) / 4096)
      (j.param 157 116 / pageBytes (j.param 159 158)) (s.framesUsed h)
    rw [hk]
    rfl

theorem Dev.rebuildRegions_fields (s : Dev) : s.rebuildRegions.gotre = s.gotre ∧ s.rebuildRegions.mem = s.mem
    ∧ s.rebuildRegions.xlat = s.xlat ∧ s.rebuildRegions.holdings = s.holdings := by
  obtain ⟨x, hx⟩ := s.rebuildRegions_frame
  rw [hx]
  exact ⟨rfl, rfl, rfl, rfl⟩

/-! ### MAP_MEMORY (R246, R247, R251) -/

section Map
variable {s : State} {n : Nat} {j : Job} {h : HoldId} (hold : j.holding? = some h) (ready : s.dev.jobReady n 0x0030 j)
  (hsweep : (s.dev.holding h).sweep = false) (hstill : s.dev.tablesQuiet h = false) (fits : j.MapFits) {e d : Dev}
  {fs : List Nat} (hframes : s.dev.mapFrames h j = (some fs, e))
include hold ready hsweep hstill fits hframes

/-- A mapping where none stands: its pages have entered the table, and the blocks of tier pages are the holding's. -/
theorem exec_mapMemory_fresh (hnone : s.dev.pagesIn h (j.param 51 0) (j.param 157 116) = [])
    (henter : e.enterPages h j fs = some d) :
    ∃ t, exec (.mapMemory n) s = .next t ∧ t.pending = s.pending ∧ t.dev.answered j .ok 0
      ∧ (t.dev.holding h).root = (d.holding h).root ∧ (t.dev.holding h).tables = (d.holding h).tables
      ∧ t.dev.tags = (d.tagMapped h j fs).tags ∧ t.dev.mem = d.mem := by
  obtain ⟨hkept, hmem, htags, hroot, htables⟩ := e.mapEnd_frame h d j fs
  have hgotre := (Dev.beyondTables_eq_iff.1 ((Dev.addPages_beyondTables henter).trans (Dev.mapFrames_beyondTables hframes))).1
  obtain ⟨t, hexec, hpending, hanswer, hholdings', htags', hmem', -, -⟩ := exec_finishes (i := .mapMemory n) ready
    (hkept.trans hgotre) rfl (Dev.mapMemory_of_fresh hold ready hsweep hstill fits hframes hnone henter)
  refine ⟨t, hexec, hpending, hanswer, ?_, ?_, htags'.trans htags, hmem'.trans hmem⟩
  · rw [Dev.holding_congr hholdings', hroot]
  · rw [Dev.holding_congr hholdings', htables]

/-- A mapping of host pages in the place of others: a new generation of the holding's translations begins. -/
theorem exec_mapMemory_replaced (htarget : j.param 161 160 = 2)
    (hsome : s.dev.pagesIn h (j.param 51 0) (j.param 157 116) ≠ []) (hreplace : j.param 165 165 = 1)
    (hinside : ∀ p ∈ s.dev.pagesIn h (j.param 51 0) (j.param 157 116), p.inside (j.param 51 0) (j.param 157 116) = true)
    (hquiet : s.dev.quiet h = true)
    (henter : ((e.dropPages h (s.dev.pagesIn h (j.param 51 0) (j.param 157 116))).nextGeneration h).enterPages h j fs
      = some d) :
    ∃ t, exec (.mapMemory n) s = .next t ∧ t.pending = s.pending ∧ t.dev.answered j .ok 0
      ∧ (t.dev.holding h).root = (d.holding h).root ∧ (t.dev.holding h).tables = (d.holding h).tables
      ∧ (∀ q ∈ t.dev.xlat, q.holding ≠ h) ∧ (t.dev.holding h).generation = (s.dev.holding h).generation + 1
      ∧ t.dev.mem = d.mem := by
  have hdropped : (e.dropPages h (s.dev.pagesIn h (j.param 51 0) (j.param 157 116))).beyondTables = s.dev.beyondTables :=
    (Dev.dropPages_beyondTables ..).trans (Dev.mapFrames_beyondTables hframes)
  obtain ⟨hgotre, -, hholding⟩ := Dev.beyondTables_eq_iff.1 hdropped
  obtain ⟨hgotre', hxlat, hrenewed⟩ := Dev.beyondTables_eq_iff.1 (Dev.addPages_beyondTables henter)
  have hend := Dev.mapMemory_of_replaced hold ready hsweep hstill fits hframes hsome hreplace hinside hquiet henter
  rw [show d.tagMapped h j fs = d from if_pos htarget] at hend
  obtain ⟨hkept, hmem, hcaches, hregions⟩ := d.rebuildRegions_fields
  obtain ⟨t, hexec, hpending, hanswer, hholdings', -, hmem', hxlat', -⟩ := exec_finishes (i := .mapMemory n) ready
    (hkept.trans (hgotre'.trans hgotre)) rfl hend
  have hh : t.dev.holding h = d.holding h := Dev.holding_congr (hholdings'.trans hregions) h
  refine ⟨t, hexec, hpending, hanswer, by rw [hh], by rw [hh], fun q hq => ?_, ?_, hmem'.trans hmem⟩
  · rw [hxlat', hcaches, hxlat] at hq
    exact Dev.nextGeneration_xlat _ h hq
  · rw [hh, (hrenewed h).2, Dev.nextGeneration_holding, ← (hholding h).2]
    rfl

end Map

/-! ### UNMAP_MEMORY (R233, R251) -/

/-- A span that whole pages make up leaves the table, and a new generation of the holding's translations begins. -/
theorem exec_unmapMemory {s : State} {n : Nat} {j : Job} {h : HoldId} (hold : j.holding? = some h)
    (ready : s.dev.jobReady n 0x0031 j) (hstill : s.dev.tablesQuiet h = false) (hbytes : j.param 93 52 ≠ 0)
    (hinside : ∀ p ∈ s.dev.pagesIn h (j.param 51 0) (j.param 93 52), p.inside (j.param 51 0) (j.param 93 52) = true)
    (hwhole : ((s.dev.pagesIn h (j.param 51 0) (j.param 93 52)).map (·.size)).sum = j.param 93 52)
    (hquiet : s.dev.quiet h = true) :
    let old := s.dev.pagesIn h (j.param 51 0) (j.param 93 52)
    ∃ t, exec (.unmapMemory n) s = .next t ∧ t.pending = s.pending ∧ t.dev.answered j .ok 0
      ∧ t.dev.mem = (s.dev.dropPages h old).mem ∧ t.dev.tags = (s.dev.dropPages h old).tags
      ∧ (∀ q ∈ t.dev.xlat, q.holding ≠ h) ∧ (t.dev.holding h).generation = (s.dev.holding h).generation + 1 := by
  intro old
  have hunmap : s.dev.unmapMemory n
      = (((s.dev.dropPages h old).nextGeneration h).rebuildRegions.finishJob n .ok 0).passTurn j := by
    have hcovers : (old.all (fun p => p.inside (j.param 51 0) (j.param 93 52))
        && decide ((old.map (·.size)).sum = j.param 93 52)) = true := by
      simpa [hwhole, old] using hinside
    unfold Dev.unmapMemory
    rw [Dev.runHolding_of_jobReady ready rfl hold]
    unfold old Dev.pagesIn at hcovers
    simp only [hstill, hbytes, hcovers, hquiet, Bool.false_eq_true, Bool.not_true, Bool.or_self, decide_false, if_false]
    rfl
  obtain ⟨hgotre, -, hholding⟩ := Dev.beyondTables_eq_iff.1 (s.dev.dropPages_beyondTables h old)
  obtain ⟨hkept, hmem, hcaches, hregions⟩ := ((s.dev.dropPages h old).nextGeneration h).rebuildRegions_fields
  have htags := ((s.dev.dropPages h old).nextGeneration h).rebuildRegions_tags
  obtain ⟨t, hexec, hpending, hanswer, hholdings', htags', hmem', hxlat', -⟩ := exec_finishes (i := .unmapMemory n) ready
    (hkept.trans hgotre) rfl hunmap
  refine ⟨t, hexec, hpending, hanswer, hmem'.trans hmem, htags'.trans htags, fun q hq => ?_, ?_⟩
  · rw [hxlat', hcaches] at hq
    exact Dev.nextGeneration_xlat _ h hq
  · rw [Dev.holding_congr (hholdings'.trans hregions), Dev.nextGeneration_holding, ← (hholding h).2]
    rfl

end Sys2Proof.Machine

/-! QUEUE_CREATE and QUEUE_DESTROY (R438, R442, R444), and the commands of mappings and queues together. -/

namespace Sys2Proof.Machine

/-! ### Queues (R442, R444) -/

/-- What a circle yields passes the test. -/
theorem findFrom_some {ok : Nat → Bool} {n start k i : Nat} (hn : 0 < n) (hi : findFrom ok n start k = some i) :
    i < n ∧ ok i = true := by
  induction k with
  | zero => cases hi
  | succ k ih =>
    unfold findFrom at hi
    dsimp only at hi
    split at hi
    next hok =>
      cases hi
      exact ⟨Nat.mod_lt _ hn, hok⟩
    next => exact ih hi

/-- A circle that yields nothing has been gone round in vain. -/
theorem findFrom_none {ok : Nat → Bool} {n start k : Nat} (hnone : findFrom ok n start k = none) {m : Nat} (hm : m < k) :
    ok ((start + (n - 1 - m)) % n) = false := by
  induction k with
  | zero => cases hm
  | succ k ih =>
    unfold findFrom at hnone
    dsimp only at hnone
    split at hnone
    next => cases hnone
    next hok =>
      obtain rfl | hlt := Nat.lt_succ_iff_lt_or_eq.1 hm |>.symm
      · simpa using hok
      · exact ih hnone hlt

/-- Every number of a circle lies at some distance behind its start. -/
theorem exists_step_of_lt {n q : Nat} (start : Nat) (hq : q < n) : ∃ m < n, (start + m) % n = q := by
  have hr : start % n < n := Nat.mod_lt _ (by omega)
  by_cases hle : start % n ≤ q
  · refine ⟨q - start % n, by omega, ?_⟩
    rw [← Nat.mod_add_mod, Nat.add_sub_cancel' hle, Nat.mod_eq_of_lt hq]
  · refine ⟨q + n - start % n, by omega, ?_⟩
    rw [← Nat.mod_add_mod, Nat.add_sub_cancel' (by omega), Nat.add_mod_right, Nat.mod_eq_of_lt hq]

/-- A circle in which some number passes the test yields one that does. -/
theorem findFrom_of_exists {ok : Nat → Bool} {n q : Nat} (start : Nat) (hq : q < n) (hok : ok q = true) :
    ∃ k < n, findFrom ok n start n = some k ∧ ok k = true := by
  cases hfound : findFrom ok n start n with
  | none =>
    obtain ⟨m, hm, hstep⟩ := exists_step_of_lt start hq
    have hmiss := findFrom_none hfound (m := n - 1 - m) (by omega)
    rw [show n - 1 - (n - 1 - m) = m by omega, hstep, hok] at hmiss
    cases hmiss
  | some k =>
    obtain ⟨hk, hpass⟩ := findFrom_some (by omega) hfound
    exact ⟨k, hk, rfl, hpass⟩

/-- A free queue is found where there is one. -/
theorem Dev.pickQueue_of_free {s : Dev} (hfree : ∃ q < 65536, (s.queue q).state = .free) :
    ∃ k < 65536, (s.queue k).state = .free ∧ s.pickQueue = (some k, { s with free := s.free + 1 }) := by
  obtain ⟨q, hq, hstate⟩ := hfree
  obtain ⟨k, hk, hfound, hpass⟩ := findFrom_of_exists (ok := fun q => (s.queue q).state == .free)
    (s.takeFree.1.toNat % queueCount) hq (by simp [hstate])
  exact ⟨k, hk, by simpa using hpass, Prod.ext hfound rfl⟩

/-- The queue that a QUEUE_CREATE makes. -/
def Job.newQueue (j : Job) (h : HoldId) : Queue :=
  { state := .ready, holding := some h, ringVa := j.param 51 0, headVa := j.param 103 52, tailVa := j.param 155 104
    log2 := j.param 160 156, tailSrc := decide (j.param 161 161 = 1) }

/-- The words of a QUEUE_CREATE that pass its checks. -/
structure Job.QueueFits (j : Job) : Prop where
  low : 6 ≤ j.param 160 156
  high : j.param 160 156 ≤ 20
  ring : j.param 51 0 % 4096 = 0
  head : j.param 103 52 % 8 = 0
  tail : j.param 161 161 = 1 → j.param 155 104 % 4 = 0

/-- A holding may have one more queue: within its limit, with its polled ones among 256, and at addresses that it maps. -/
structure Dev.QueueAdmits (s : Dev) (h : HoldId) (j : Job) : Prop where
  limit : (s.queuesOf h).length < (s.holding h).queueLimit
  polled : j.param 161 161 = 1 → (s.queues.filter fun q => q.2.state != .free && q.2.tailSrc).length < 256
  ring : s.mapped h (j.param 51 0) (64 * 2 ^ j.param 160 156) false = true
  head : s.mapped h (j.param 103 52) 8 true = true
  tail : j.param 161 161 = 1 → s.mapped h (j.param 155 104) 4 false = true

theorem and_decide_eq_false {p : Prop} [Decidable p] {b : Bool} (h : p → b = false) : (decide p && b) = false := by
  by_cases hp : p
  · simp [h hp]
  · simp [hp]

/-- QUEUE_CREATE takes a free number and makes its queue READY. -/
theorem exec_queueCreate {s : State} {n : Nat} {j : Job} {h : HoldId} (hold : j.holding? = some h)
    (ready : s.dev.jobReady n 0x0020 j) (fits : j.QueueFits) (admits : s.dev.QueueAdmits h j)
    (hfree : ∃ q < 65536, (s.dev.queue q).state = .free) :
    ∃ t k, exec (.queueCreate n) s = .next t ∧ t.pending = s.pending ∧ k < 65536 ∧ (s.dev.queue k).state = .free
      ∧ t.dev.answered j .ok (resultOf k 0 0 0) ∧ t.dev.queue k = j.newQueue h
      ∧ (∀ q, q ≠ k → t.dev.queue q = s.dev.queue q) ∧ t.dev.mem = s.dev.mem := by
  obtain ⟨k, hk, hstate, hpick⟩ := Dev.pickQueue_of_free hfree
  obtain ⟨hlow, hhigh, hring, hhead, htail⟩ := fits
  obtain ⟨hlimit, hpolled, hringVa, hheadVa, htailVa⟩ := admits
  let d : Dev := ({ s.dev with free := s.dev.free + 1 } : Dev).modQueue k fun _ => j.newQueue h
  have hcreate : s.dev.queueCreate n = (d.finishJob n .ok (resultOf k 0 0 0)).passTurn j := by
    have hlimit' : ¬ (s.dev.holding h).queueLimit ≤ (s.dev.queuesOf h).length := by omega
    have hsize : ¬ j.param 160 156 < 6 ∧ ¬ 20 < j.param 160 156 := by omega
    have htail' : (decide (j.param 161 161 = 1) && j.param 155 104 % 4 != 0) = false :=
      and_decide_eq_false fun hsrc => by simp [htail hsrc]
    have hpolled' : (decide (j.param 161 161 = 1)
        && decide (256 ≤ (s.dev.queues.filter fun q => q.2.state != .free && q.2.tailSrc).length)) = false :=
      and_decide_eq_false fun hsrc => by simpa using hpolled hsrc
    have htailVa' : (decide (j.param 161 161 = 1) && !s.dev.mapped h (j.param 155 104) 4 false) = false :=
      and_decide_eq_false fun hsrc => by simp [htailVa hsrc]
    unfold Dev.queueCreate
    rw [Dev.runHolding_of_jobReady ready rfl hold]
    simp only [hsize, hring, hhead, htail', hlimit', hpolled', hringVa, hheadVa, htailVa', hpick, decide_false,
      bne_self_eq_false, Bool.not_true, Bool.or_self, Bool.false_eq_true, if_false]
    rfl
  obtain ⟨t, hexec, hpending, hanswer, -, -, hmem, -, hqueues⟩ := exec_finishes (i := .queueCreate n) (d := d) ready rfl rfl
    hcreate
  have hqueue : ∀ q, t.dev.queue q = if q = k then j.newQueue h else s.dev.queue q := fun q => by
    rw [Dev.queue, hqueues]
    exact Dev.queue_modQueue { s.dev with free := s.dev.free + 1 } k q _
  exact ⟨t, k, hexec, hpending, hk, hstate, hanswer, by rw [hqueue, if_pos rfl], fun q hq => by rw [hqueue, if_neg hq], hmem⟩

/-! ### QUEUE_DESTROY (R444) -/

section Destroy
variable {s : State} {n : Nat} {j : Job} {h : HoldId} (hold : j.holding? = some h) (ready : s.dev.jobReady n 0x0021 j)
  (hlive : (s.dev.queue (j.param 15 0)).state ≠ .free) (howner : (s.dev.queue (j.param 15 0)).holding = some h)

/-- The FREE head of a queue is written to memory, and leaves the queues and Gotre alone. -/
theorem Dev.headFree_fields {s d : Dev} {q : Nat} {h : HoldId} (hd : s.headFree q h = some d) :
    d.gotre = s.gotre ∧ d.queues = s.queues := by
  simp only [Dev.headFree] at hd
  split at hd
  · cases hd
  · cases hd
    have hst := s.writeVa_standing (ctlAgent h) false (s.queue q).headVa
      ((leBytes 8 (0#13 ++ (QueueState.free.code ++ ((s.holding h).epoch ++ (s.queue q).recorded)) : Word64).toNat).map
        fun b => ⟨b, false⟩)
    exact ⟨congrArg (·.1.gotre) hst, congrArg (·.1.queues) hst⟩

/-- A command that has changed nothing is still to be served: the turn does not pass. -/
theorem Dev.passTurn_of_jobReady {s : Dev} {n op : Nat} {j : Job} (ready : s.jobReady n op j) : s.passTurn j = s := by
  obtain ⟨hjob, rfl, -, hphase, -⟩ := ready
  simp [Dev.passTurn, hjob, hphase]

include hold ready hlive howner

/-- A queue that a stage names is not destroyed. -/
theorem exec_queueDestroy_named {g : Nat} (hnamed : (s.dev.holding h).stageNaming (j.param 15 0) = some g) :
    ∃ t, exec (.queueDestroy n) s = .next t ∧ t.pending = s.pending ∧ t.dev.answered j .busyConflict (resultOf g 0 0 0)
      ∧ t.dev.queues = s.dev.queues := by
  have hdestroy : s.dev.queueDestroy n = (s.dev.finishJob n .busyConflict (resultOf g 0 0 0)).passTurn j := by
    unfold Dev.queueDestroy
    rw [Dev.runHolding_of_jobReady ready rfl hold]
    simp [hlive, howner, hnamed]
  obtain ⟨t, hexec, hpending, hanswer, -, -, -, -, hqueues⟩ := exec_finishes (i := .queueDestroy n) ready rfl rfl hdestroy
  exact ⟨t, hexec, hpending, hanswer, hqueues⟩

variable (hunnamed : (s.dev.holding h).stageNaming (j.param 15 0) = none)
include hunnamed

/-- A head that must wait keeps its queue. -/
theorem exec_queueDestroy_waits (hwaits : s.dev.headFree (j.param 15 0) h = none) : exec (.queueDestroy n) s = .next s := by
  have hdestroy : s.dev.queueDestroy n = s.dev := by
    unfold Dev.queueDestroy
    rw [Dev.runHolding_of_jobReady ready rfl hold]
    simp [hlive, howner, hunnamed, hwaits, Dev.passTurn_of_jobReady ready]
  change done s (s.dev.lifeScope (s.dev.queueDestroy n)) = _
  rw [hdestroy, Dev.lifeScope_self, done_next]

/-- A queue is FREE once its FREE head has been written. -/
theorem exec_queueDestroy_freed {d : Dev} (hhead : s.dev.headFree (j.param 15 0) h = some d) :
    ∃ t, exec (.queueDestroy n) s = .next t ∧ t.pending = s.pending ∧ t.dev.answered j .ok 0
      ∧ (t.dev.queue (j.param 15 0)).state = .free
      ∧ (∀ k, k ≠ j.param 15 0 → t.dev.queue k = s.dev.queue k) ∧ t.dev.mem = d.mem := by
  obtain ⟨hgotre, hqueues⟩ := Dev.headFree_fields hhead
  have hdestroy : s.dev.queueDestroy n
      = (({ d with queues := Tab.set {} d.queues (j.param 15 0) {} } : Dev).finishJob n .ok 0).passTurn j := by
    unfold Dev.queueDestroy
    rw [Dev.runHolding_of_jobReady ready rfl hold]
    simp [hlive, howner, hunnamed, hhead]
  obtain ⟨t, hexec, hpending, hanswer, -, -, hmem, -, htab⟩ := exec_finishes (i := .queueDestroy n)
    (d := { d with queues := Tab.set {} d.queues (j.param 15 0) {} }) ready hgotre rfl hdestroy
  have hqueue : ∀ k, t.dev.queue k = if k = j.param 15 0 then {} else s.dev.queue k := fun k => by
    rw [Dev.queue, htab, Laws.Tab.get_set, hqueues]
    rfl
  refine ⟨t, hexec, hpending, hanswer, ?_, fun k hk => by rw [hqueue, if_neg hk], hmem⟩
  rw [hqueue, if_pos rfl]

end Destroy

/-- A span that no page touches holds none. -/
theorem Dev.pagesIn_of_untouched {s : Dev} {h : HoldId} {va n : Nat}
    (huntouched : ∀ p ∈ s.pageList h, p.touches va n = false) :
    s.pagesIn h va n = [] :=
  List.filter_eq_nil_iff.2 fun p hp => by simp [huntouched p hp]

/-- Settles O47: requests to memory leave Gotre, the caches, epochs and generations as they were, so that each command ends
answered in what the entries and tags written make of the device. -/
theorem mappingsAndQueuesAreCommanded : Obligations.MappingsAndQueuesAreCommanded := by
  unfold Obligations.MappingsAndQueuesAreCommanded
  intro s n j h hold x
  refine ⟨fun ready hsweep hstill => ?_, fun ready hstill => ?_, fun ready => ?_, fun ready => ?_⟩
  · intro va host bytes level target size enter hosts hlevel htarget hbytes hva hwhole htop
    refine ⟨?_, ?_, ?_⟩
    · intro d hhost huntouched hpage hend henter
      have fits : j.MapFits := ⟨hlevel, htarget, hbytes, hva, hwhole, htop, fun _ => ⟨hpage, hend⟩⟩
      have hframes : s.dev.mapFrames h j = (some j.hostFrames, s.dev) := if_pos hhost
      obtain ⟨t, hexec, hpending, hanswer, hroot, htables, htags, hmem⟩ := exec_mapMemory_fresh hold ready hsweep hstill fits
        hframes (Dev.pagesIn_of_untouched huntouched) henter
      exact ⟨t, hexec, hpending, hanswer, hroot, htables, htags.trans (congrArg Dev.tags (if_pos hhost)), hmem⟩
    · intro d old hhost hpage hend hsome hreplace hinside hquiet henter
      have fits : j.MapFits := ⟨hlevel, htarget, hbytes, hva, hwhole, htop, fun _ => ⟨hpage, hend⟩⟩
      have hframes : s.dev.mapFrames h j = (some j.hostFrames, s.dev) := if_pos hhost
      exact exec_mapMemory_replaced hold ready hsweep hstill fits hframes hhost hsome hreplace hinside hquiet henter
    · intro fs d d' htier huntouched hpick henter
      have fits : j.MapFits := ⟨hlevel, htarget, hbytes, hva, hwhole, htop, fun hhost => absurd hhost htier⟩
      have hframes : s.dev.mapFrames h j = (some fs, d) := (if_neg htier).trans hpick
      obtain ⟨t, hexec, hpending, hanswer, hroot, htables, htags, hmem⟩ := exec_mapMemory_fresh hold ready hsweep hstill fits
        hframes (Dev.pagesIn_of_untouched huntouched) henter
      obtain ⟨-, -, hholding⟩ := Dev.beyondTables_eq_iff.1
        ((Dev.addPages_beyondTables henter).trans (Dev.mapFrames_beyondTables hframes))
      have htagged : t.dev.tags = (d'.tagFrames h (size / 4096) fs).tags := htags.trans (congrArg Dev.tags (if_neg htier))
      refine ⟨t, hexec, hpending, hanswer, hroot, htables, fun f hf i hi => ?_, hmem⟩
      rw [Dev.tag_owner_congr htagged, Dev.tag_epoch_congr htagged, d'.tagFrames_tag h hf hi]
      exact ⟨rfl, (hholding h).1⟩
  · intro va bytes old hbytes hinside hwhole hquiet
    obtain ⟨t, hexec, hpending, hanswer, hmem, htags, hxlat, hgeneration⟩ := exec_unmapMemory hold ready hstill hbytes hinside
      hwhole hquiet
    refine ⟨t, hexec, hpending, hanswer, hmem.trans (s.dev.dropPages_mem h old), fun p hp htier i hi => ?_, hxlat,
      hgeneration⟩
    rw [Dev.tag_owner_congr htags]
    exact s.dev.dropPages_owner h hp htier hi
  · intro ring head tail log2 src hlow hhigh hring hhead htail hlimit hpolled hringVa hheadVa htailVa hfree
    have hsrc : j.param 161 161 = 1 → src = true := fun h1 => decide_eq_true h1
    exact exec_queueCreate hold ready ⟨hlow, hhigh, hring, hhead, fun h1 => htail (hsrc h1)⟩
      ⟨hlimit, fun h1 => hpolled (hsrc h1), hringVa, hheadVa, fun h1 => htailVa (hsrc h1)⟩ hfree
  · intro q hlive howner
    exact ⟨fun d hunnamed hhead => exec_queueDestroy_freed hold ready hlive howner hunnamed hhead,
      fun hunnamed hwaits => exec_queueDestroy_waits hold ready hlive howner hunnamed hwaits,
      fun g hnamed => exec_queueDestroy_named hold ready hlive howner hnamed⟩

end Sys2Proof.Machine

/-! The Drill's work beside the cores (R278 to R288): messages leave through the gate and the ports, rows go to memory, and
neither touches a core. -/

namespace Sys2Proof.Machine

/-! ### What sending leaves alone (R302 to R312, R393) -/

section Send
variable (s : Dev) (dst : BitVec 16) (vc : Fin 4) (o : Owner) (m : OutMsg)

/-- The cores, the requests that wait at the controllers, device time, and the kernels of the holdings. -/
def Dev.apartFromSends (s : Dev) : Tab Core × List MemWait × Word64 × (HoldId → Holding) :=
  (s.cores, s.memWaits, s.dt, fun h => (s.holding h).kernel)

theorem Dev.apartFromSends_eq_iff {s t : Dev} : t.apartFromSends = s.apartFromSends ↔
    t.cores = s.cores ∧ t.memWaits = s.memWaits ∧ t.dt = s.dt ∧ ∀ h, (t.holding h).kernel = (s.holding h).kernel := by
  simp only [Dev.apartFromSends, Prod.mk.injEq, funext_iff]

theorem Dev.count_apart (h : Option HoldId) (a n : Nat) : (s.count h a n).apartFromSends = s.apartFromSends :=
  Dev.apartFromSends_eq_iff.2 ⟨rfl, rfl, rfl, Dev.kernel_of_standing (s.count_standing h a n)⟩

theorem Dev.event_apart (a : Nat) (x : Word32) : (s.event a x).apartFromSends = s.apartFromSends := rfl

theorem Dev.noteFull_apart (h : Option HoldId) (p : PortId) : (s.noteFull h p).apartFromSends = s.apartFromSends := by
  unfold Dev.noteFull
  split
  · exact (s.event (regAt (linkDie p) 0x104) 4).count_apart h (hdlReg p 0x18) _
  · rfl

theorem Dev.runGate_apart : s.runGate.apartFromSends = s.apartFromSends := by
  obtain ⟨k, -, hrest⟩ := s.releaseGate_unsent s.gate []
  exact (congrArg Dev.apartFromSends hrest :)

theorem Dev.sendFrom_apart (p : PortId) (blocks : List (Nat × Nat × Nat)) :
    (s.sendFrom p dst vc o m blocks).apartFromSends = s.apartFromSends := by
  unfold Dev.sendFrom
  extract_lets held h s1 bad s2
  have h1 : s1.apartFromSends = s.apartFromSends := by
    simp only [s1]
    split
    · rfl
    · exact s.count_apart ..
  have h2 : s2.apartFromSends = s1.apartFromSends := by
    simp only [s2]
    split
    · rfl
    · exact s1.count_apart ..
  rw [Dev.runGate_apart, Dev.noteFull_apart]
  exact h2.trans h1

theorem Dev.send_apart : (s.send dst vc o m).apartFromSends = s.apartFromSends := s.sendFrom_apart ..

@[simp] theorem Dev.sendFrom_cores (p : PortId) (blocks : List (Nat × Nat × Nat)) :
    (s.sendFrom p dst vc o m blocks).cores = s.cores :=
  (Dev.apartFromSends_eq_iff.1 (s.sendFrom_apart dst vc o m p blocks)).1

end Send

/-! ### Cancelling (R288, R291) -/

section Cancel
variable (s : Dev) (h : HoldId)

theorem Dev.countDrill_apart (die off n : Nat) : (s.countDrill h die off n).apartFromSends = s.apartFromSends := by
  unfold Dev.countDrill
  split
  · rfl
  · exact s.count_apart ..

theorem Dev.dropWaiting_apart (b : Batch) : (s.dropWaiting h b).apartFromSends = s.apartFromSends :=
  foldl_preserves Dev.apartFromSends (fun d _ => d.count_apart ..) s _

theorem Dev.tellCancel_apart (tag : Word32) (cause : CancelCause) (group : Option Nat) :
    (s.tellCancel h tag cause group).apartFromSends = s.apartFromSends :=
  foldl_preserves Dev.apartFromSends (fun d _ => d.send_apart ..) s _

theorem Dev.missed_apart : (s.missed h).apartFromSends = s.apartFromSends :=
  ((s.countDrill h (s.coordinator h) 0x48 1).event_apart _ 2).trans (s.countDrill_apart ..)

@[simp] theorem Dev.modBatch_mem (tag : Word32) (f : Batch → Batch) : (s.modBatch h tag f).mem = s.mem := rfl
@[simp] theorem Dev.modBatch_cores (tag : Word32) (f : Batch → Batch) : (s.modBatch h tag f).cores = s.cores := rfl

@[simp] theorem Dev.countDrill_cores (die off n : Nat) : (s.countDrill h die off n).cores = s.cores :=
  (Dev.apartFromSends_eq_iff.1 (s.countDrill_apart h die off n)).1

/-- The freeing of tags and buffers works on the holding alone. -/
theorem Dev.freeTags_frame : ∃ x, s.freeTags h = { s with holdings := x } := by
  unfold Dev.freeTags
  split <;> exact ⟨_, rfl⟩

/-- A batch whose tag has retired with its cause (step 1 of R288). -/
def Batch.retired (b : Batch) (cause : CancelCause) : Batch := { b with live := false, cause := some cause, waiting := [] }

/-- A cancelled tag is freed last. Before that the notices and the counts leave everything beside the links alone, and of a
live batch its holding keeps that its tag has retired. -/
theorem Dev.cancelBatch_eq_freeTags (tag : Word32) (cause : CancelCause) (group : Option Nat) :
    ∃ d : Dev, s.cancelBatch h tag cause group = d.freeTags h ∧ d.cores = s.cores ∧ d.memWaits = s.memWaits ∧ d.dt = s.dt
      ∧ ∀ b, (s.holding h).batch tag = some b → b.live = true →
        (d.holding h).kernel = ((s.holding h).kernel).modBatch tag fun q => q.retired cause := by
  unfold Dev.cancelBatch
  extract_lets x new b s1 s2 s3
  split
  next hdead =>
    refine ⟨s, rfl, rfl, rfl, rfl, fun z hz hlive => ?_⟩
    simp [b, x, hz, hlive] at hdead
  next =>
    have h2 : s2.apartFromSends = s1.apartFromSends := s1.tellCancel_apart ..
    have h3 : s3.apartFromSends = s2.apartFromSends := by
      simp only [s3]
      split
      · rfl
      · exact foldl_preserves Dev.apartFromSends
          (fun d k => ((d.countDrill h k 0x40 1).event_apart ..).trans (d.countDrill_apart ..)) s2 _
    obtain ⟨hcores, hwaits, hdt, hkernel⟩ := Dev.apartFromSends_eq_iff.1 (h3.trans h2)
    obtain ⟨hcores0, hwaits0, hdt0, hkernel0⟩ := Dev.apartFromSends_eq_iff.1 (s.dropWaiting_apart h b)
    refine ⟨s3, rfl, hcores.trans hcores0, hwaits.trans hwaits0, hdt.trans hdt0, fun z hz _ => ?_⟩
    have hsome : ((s.dropWaiting h b).holding h).batch tag = some z :=
      (congrArg (·.batch tag) (hkernel0 h) :).trans hz
    rw [hkernel, Dev.holding_modHolding, if_pos rfl]
    simp only [hsome, Option.isNone_some]
    exact (congrArg (·.modBatch tag fun q => q.retired cause) (hkernel0 h) :)

@[simp] theorem Dev.cancelBatch_cores (tag : Word32) (cause : CancelCause) (group : Option Nat) :
    (s.cancelBatch h tag cause group).cores = s.cores := by
  obtain ⟨d, hd, hcores, -⟩ := s.cancelBatch_eq_freeTags h tag cause group
  obtain ⟨x, hx⟩ := d.freeTags_frame h
  rw [hd, hx, hcores]

theorem Dev.cancelBatch_dt (tag : Word32) (cause : CancelCause) (group : Option Nat) :
    (s.cancelBatch h tag cause group).dt = s.dt := by
  obtain ⟨d, hd, -, -, hdt, -⟩ := s.cancelBatch_eq_freeTags h tag cause group
  obtain ⟨x, hx⟩ := d.freeTags_frame h
  rw [hd, hx, hdt]

end Cancel

/-! ### Rows and answers (R278, R279, R282, R285) -/

section Rows
variable (s : Dev) (h : HoldId)

@[simp] theorem Dev.writeVa_cores (a : Agent) (pending : Bool) (va : Nat) (data : List PByte) :
    (s.writeVa a pending va data).cores = s.cores := s.writeChunks_cores ..

@[simp] theorem Dev.readHost_cores (addr n : Nat) : (s.readHost addr n).2.cores = s.cores := Dev.freeBytes_cores ..

@[simp] theorem Dev.readOut_cores (a : Agent) (va n : Nat) : (s.readOut a va n).2.cores = s.cores := by
  have hchunk : ∀ (d : Dev) (p : Nat × Nat), (d.readOutChunk a p.1 p.2).2.cores = d.cores := fun d p => by
    unfold Dev.readOutChunk
    dsimp only
    split <;> simp
  unfold Dev.readOut
  generalize chunks va n = l
  induction l generalizing s with
  | nil => rfl
  | cons p l ih => exact (ih _).trans (hchunk s p)

@[simp] theorem Dev.writeReturn_cores (p : PortId) (b : Batch) (token choice : Nat) (row : List PByte) :
    (s.writeReturn p h b token choice row).cores = s.cores := by
  unfold Dev.writeReturn
  split
  · rfl
  · split <;> simp

@[simp] theorem Dev.landToken_cores (p : PortId) (q : HomeQueue) (l : Layer) (m : TokenMsg) :
    (s.landToken p h q l m).cores = s.cores := by
  simp [Dev.landToken]

@[simp] theorem Dev.tokenRow_cores (p : PortId) (m : TokenMsg) : (s.tokenRow p h m).cores = s.cores := by
  unfold Dev.tokenRow
  dsimp only
  split
  · simp
  · split
    · simp
    · split
      · simp
      · split
        · rfl
        · split <;> simp

@[simp] theorem Dev.answer_cores (p : PortId) (m : AnswerMsg) : (s.answer p h m).cores = s.cores := by
  unfold Dev.answer
  split
  · simp
  · split <;> simp

@[simp] theorem Dev.sendToken_cores (b : Batch) (l : Layer) (c : RoutedChoice) (round : Fin 2) (slot : Nat) :
    (s.sendToken h b l c round slot).cores = s.cores := by
  unfold Dev.sendToken
  split
  · rfl
  · dsimp only
    split_ifs <;> simp

@[simp] theorem Dev.payRow_cores (tag : Word32) (l : Layer) (c : RoutedChoice) : (s.payRow h tag l c).cores = s.cores := by
  unfold Dev.payRow
  split <;> simp

@[simp] theorem Dev.sendAnswer_cores (a : Agent) (b : Batch) (l : Layer) (q : HomeQueue) (z : SlotRec) (va : Nat) :
    (s.sendAnswer a h b l q z va).cores = s.cores := by
  unfold Dev.sendAnswer
  dsimp only [Dev.modHolding_cores]
  split <;> simp

end Rows

end Sys2Proof.Machine

/-! The Drill's descriptors (R272 to R295): a unit that serves several at once runs the earliest that need not wait, and a run
that ends leaves its entry in the window, where it completes. -/

namespace Sys2Proof.Machine

/-! ### The earliest descriptor that need not wait (R277, R292) -/

theorem Core.startedAll_of_running {x : Core} {cls : Nat} {ops : List Nat} {e : WEntry} (h : x.running cls ops = some e) :
    ∃ rest, x.startedAll cls ops = e :: rest := by
  simp only [Core.running, Core.started, Option.bind_eq_some_iff] at h
  obtain ⟨w, hw, he⟩ := h
  split at he
  next => cases he
  next hfree =>
    cases he
    obtain ⟨hstarted, front, back, hwindow, hfront⟩ := List.find?_eq_some_iff_append.1 hw
    refine ⟨back.filter fun w => w.phase == .started && classOf w.desc == cls && ops.contains (opcodeOf w.desc)
      && !x.suspends w, ?_⟩
    have hnone : (front.filter fun w => w.phase == .started && classOf w.desc == cls && ops.contains (opcodeOf w.desc)
        && !x.suspends w) = [] :=
      List.filter_eq_nil_iff.2 fun w hw hpick => by
        have hother := hfront w hw
        simp_all
    rw [Core.startedAll, hwindow, List.filter_append, hnone, List.nil_append, List.filter_cons_of_pos]
    simp only [hstarted, hfree, Bool.not_false, Bool.and_true]

section Run
variable {s : Dev} {c : CoreId} {cls : Nat} {ops : List Nat} {e : WEntry} {h : HoldId}
  {body : Agent → WEntry → Run → Option (Run × Bool)}

theorem Dev.runAny_of_runEnds (ready : s.unitReady c cls ops e h)
    (ends : runEnds (body ((s.core c).agent c h e) e { dev := s })) :
    ∃ q, body ((s.core c).agent c h e) e { dev := s } = some (q, true)
      ∧ s.runAny c cls ops body = s.finish c h e q.dev := by
  obtain ⟨hrun, hhold, hcore⟩ := ready
  obtain ⟨q, hbody, hwait, hneed⟩ := ends
  obtain ⟨rest, hall⟩ := Core.startedAll_of_running hrun
  exact ⟨q, hbody, by simp [Dev.runAny, hhold, hcore, hall, hbody, hwait, hneed]⟩

theorem Dev.runAny_of_waits (hhold : s.holdingOfCore c = some h)
    (hwaits : ∀ w ∈ (s.core c).startedAll cls ops, body ((s.core c).agent c h w) w { dev := s } = none) :
    s.runAny c cls ops body = s := by
  have hnone : ((s.core c).startedAll cls ops).findSome? (fun w =>
      (body ((s.core c).agent c h w) w { dev := s }).map fun r => (w, r)) = none :=
    List.findSome?_eq_none_iff.2 fun w hw => by rw [hwaits w hw, Option.map_none]
  simp only [Dev.runAny, hhold, hnone, ite_self]

end Run

/-! ### What a run that ends leaves of the windows -/

section Bodies
variable {c : CoreId} {a : Agent} {e : WEntry} {r q : Run}

@[simp] theorem Core.writeRecords_window (x : Core) (d : Drl) (valid : Nat) (cs : List RoutedChoice) :
    (x.writeRecords d valid cs).window = x.window :=
  foldl_preserves Core.window (fun _ _ => Core.osWrite_window ..) x _

/-- The routing records go into the core's operand store alone (R274). -/
theorem Dev.writeRecords_names (s : Dev) (d : Drl) (valid : Nat) (cs : List RoutedChoice) :
    (s.modCore c fun y => y.writeRecords d valid cs).names = s.names :=
  s.modCore_names c fun y => y.writeRecords_window d valid cs

theorem Dev.runFault_names (s : Dev) (o : Option HoldId) (i : Word32) (k : Status) :
    (s.runFault c o i k).names = s.names := Dev.names_congr (s.runFault_cores ..)

theorem routeCancelled_names (h : HoldId) (d : Drl) (x : Holding) (st : Status) :
    (routeCancelled c h e d x st r).dev.names = r.dev.names :=
  (Dev.runFault_names ..).trans (r.dev.writeRecords_names ..)

theorem routeBody_names (hq : routeBody c a e r = some (q, true)) : q.dev.names = r.dev.names := by
  unfold routeBody at hq
  extract_lets d h x tag v queue mark at hq
  split at hq
  · cases hq
  · split at hq <;> cases hq
  next l b _ _ =>
    extract_lets own joined cancelled cs owed s1 at hq
    have hpaid : s1.names = r.dev.names :=
      Dev.names_congr (foldl_preserves Dev.cores (fun d c => d.payRow_cores ..) r.dev owed)
    split_ifs at hq <;> cases hq
    · exact (Dev.runFault_names ..).trans (r.dev.writeRecords_names ..)
    · exact (Dev.names_congr rfl).trans (routeCancelled_names h d x (if e.mark = 0 then .aborted else b.causeOf))
    · exact routeCancelled_names h d x _
    · exact (s1.writeRecords_names ..).trans hpaid

theorem Dev.writeCounts_names (s : Dev) (h : HoldId) (d : Drl) (near spill : Nat) :
    (s.writeCounts c h e d near spill).names = s.names := by
  unfold Dev.writeCounts
  extract_lets line s1 s2 s3
  have h1 : s1.names = s.names := s.modCore_names c fun y => y.osWrite_window (d.recAddr * lineBytes) line
  have h2 : s2.names = s1.names := by
    simp only [s2]
    split
    · rfl
    · exact s1.setLen_names ..
  have h3 : s3.names = s2.names := by
    simp only [s3]
    split
    · rfl
    · exact s2.setLen_names ..
  exact (Dev.names_congr rfl).trans (h3.trans (h2.trans h1))

theorem expertWaitBody_names (hq : expertWaitBody c a e r = some q) : q.dev.names = r.dev.names := by
  unfold expertWaitBody at hq
  extract_lets d h x at hq
  split at hq
  · cases hq
  · split at hq
    · cases hq
      exact (Dev.runFault_names ..).trans (r.dev.writeCounts_names ..)
    · obtain ⟨p, -, heq⟩ := Option.map_eq_some_iff.1 hq
      cases heq
      exact r.dev.writeCounts_names ..

theorem returnBody_names (hq : returnBody c a e r = some (q, true)) : q.dev.names = r.dev.names := by
  unfold returnBody at hq
  extract_lets d h x at hq
  split at hq
  · cases hq
  next b _ =>
    split at hq
    · cases hq
      exact Dev.runFault_names ..
    · extract_lets mine zs at hq
      split at hq
      · split at hq <;> cases hq
        rfl
      · split at hq
        next =>
          extract_lets s1 left s2 s3 at hq
          have hsent : s1.cores = r.dev.cores := by
            refine foldl_preserves Dev.cores (fun d p => ?_) r.dev zs
            split
            · rfl
            · simp
          split at hq
          · cases hq
          · obtain ⟨rfl, -⟩ := Prod.mk.inj (Option.some.inj hq)
            have hmark : s3.names = s2.names := s2.modEntry_names c e (f := fun w => { w with mark := 1 }) fun _ => rfl
            exact hmark.trans (Dev.names_congr hsent)
        · cases hq
          rfl

theorem retWaitBody_names (hq : retWaitBody c a e r = some q) : q.dev.names = r.dev.names := by
  unfold retWaitBody at hq
  extract_lets d h x at hq
  split at hq
  · cases hq
  next b _ =>
    split at hq
    · extract_lets answers n s1 at hq
      cases hq
      exact (Dev.runFault_names ..).trans
        (Dev.names_congr (foldl_preserves Dev.cores (fun d z => d.writeReturn_cores ..) r.dev answers))
    · split at hq <;> cases hq
      rfl

theorem cancelBody_names {ends : Bool} (hq : cancelBody c a e r = some (q, ends)) : q.dev.names = r.dev.names := by
  unfold cancelBody at hq
  cases hq
  exact Dev.names_congr (Dev.cancelBatch_cores ..)

end Bodies

/-! ### The commands -/

/-- What the scopes of the Drill's descriptors have in common: they take the cores from the run, and leave queues, Gotre,
stacks and dies. -/
structure RunsBesideQueues (scope : Dev → Dev → Dev) : Prop where
  self : ∀ s, scope s s = s
  cores : ∀ s r, (scope s r).cores = r.cores
  queues : ∀ s r, (scope s r).queues = s.queues
  gotre : ∀ s r, (scope s r).gotre = s.gotre
  stackTab : ∀ s r, (scope s r).stackTab = s.stackTab
  dies : ∀ s r, (scope s r).dies = s.dies

theorem Dev.netScope_besideQueues : RunsBesideQueues Dev.netScope :=
  ⟨fun _ => rfl, fun _ _ => rfl, fun _ _ => rfl, fun _ _ => rfl, fun _ _ => rfl, fun _ _ => rfl⟩

theorem Dev.memScope_besideQueues : RunsBesideQueues Dev.memScope :=
  ⟨fun _ => rfl, fun _ _ => rfl, fun _ _ => rfl, fun _ _ => rfl, fun _ _ => rfl, fun _ _ => rfl⟩

theorem Dev.coreScope_besideQueues : RunsBesideQueues Dev.coreScope :=
  ⟨fun _ => rfl, fun _ _ => rfl, fun _ _ => rfl, fun _ _ => rfl, fun _ _ => rfl, fun _ _ => rfl⟩

/-- The descriptor commands of the Drill, with the operation and the body that each runs. -/
def drillCommands (c : CoreId) : List (Nat × Instr × (Agent → WEntry → Run → Option (Run × Bool))) :=
  [(0, .route c, routeBody c), (2, .ret c, returnBody c), (4, .cancel c, cancelBody c),
    (1, .expertWait c, fun a e r => (expertWaitBody c a e r).map fun q => (q, true)),
    (3, .retWait c, fun a e r => (retWaitBody c a e r).map fun q => (q, true))]

/-- A command of the Drill runs its body beside the queues; at the body's end every issue window lists what it listed. -/
theorem exec_drill_command {c : CoreId} {op : Nat} {i : Instr} {body : Agent → WEntry → Run → Option (Run × Bool)}
    (h : (op, i, body) ∈ drillCommands c) :
    (∃ scope, RunsBesideQueues scope ∧ ∀ s, exec i s = work s (scope s.dev (s.dev.runAny c 5 [op] body)))
      ∧ ∀ a e r q, body a e r = some (q, true) → q.dev.names = r.dev.names := by
  simp only [drillCommands, List.mem_cons, List.not_mem_nil, Prod.mk.injEq, or_false] at h
  rcases h with h | h | h | h | h <;> obtain ⟨rfl, rfl, rfl⟩ := h
  · exact ⟨⟨_, Dev.netScope_besideQueues, fun _ => rfl⟩, fun _ _ _ _ => routeBody_names⟩
  · exact ⟨⟨_, Dev.netScope_besideQueues, fun _ => rfl⟩, fun _ _ _ _ => returnBody_names⟩
  · exact ⟨⟨_, Dev.netScope_besideQueues, fun _ => rfl⟩, fun _ _ _ _ => cancelBody_names⟩
  · exact ⟨⟨_, Dev.coreScope_besideQueues, fun _ => rfl⟩,
      fun _ _ _ _ => names_of_map_some fun _ => expertWaitBody_names⟩
  · exact ⟨⟨_, Dev.memScope_besideQueues, fun _ => rfl⟩, fun _ _ _ _ => names_of_map_some fun _ => retWaitBody_names⟩

/-- The earliest descriptor completes at the end of a run that leaves the names in the window of its core. -/
theorem Dev.runAny_completes {s : Dev} {c : CoreId} {cls : Nat} {ops : List Nat} {e : WEntry} {h : HoldId}
    {body : Agent → WEntry → Run → Option (Run × Bool)} (ready : s.unitReady c cls ops e h)
    (ends : runEnds (body ((s.core c).agent c h e) e { dev := s }))
    (keeps : ∀ a e r q, body a e r = some (q, true) → q.dev.names = r.dev.names) :
    (s.runAny c cls ops body).completed c e := by
  obtain ⟨q, hbody, hrun⟩ := Dev.runAny_of_runEnds ready ends
  have hname : (e.stream, e.index) ∈ q.dev.names c := by
    rw [keeps _ _ _ _ hbody]
    exact Core.name_mem_of_running ready.1
  rw [hrun]
  exact Dev.finish_completed hname

/-! ### The counts of an EXPERT_WAIT (R281) -/

/-- A buffer of a live batch that is final gives the wait its counts. -/
theorem expertWaitBody_of_final {c : CoreId} {a : Agent} {e : WEntry} {r : Run} {b : Batch} {near spill : Nat}
    (hbatch : (r.dev.holding a.holding).batch (tagOf (r.dev.holding a.holding) (drlOf e.desc).batch) = some b)
    (hlive : b.live = true)
    (hfinal : (r.dev.holding a.holding).queueFinal b (drlOf e.desc).queue = some (near, spill)) :
    expertWaitBody c a e r
      = some { r with dev := r.dev.writeCounts c a.holding e (drlOf e.desc) near spill } := by
  simp [expertWaitBody, hbatch, hlive, hfinal]

/-- A near count without a spill register goes into its length register, clamped (R104). -/
theorem Dev.writeCounts_lregs (s : Dev) (c : CoreId) (h : HoldId) (e : WEntry) {d : Drl} (hnear : d.cntLreg ≠ 0)
    (hspill : d.lreg = 0) (near spill : Nat) :
    Tab.get 0 ((s.writeCounts c h e d near spill).core c).lregs d.cntLreg = min near lenMax := by
  simp only [Dev.writeCounts, hnear, hspill, if_true, if_false, Dev.logLens]
  rw [Dev.core_congr (Dev.modHolding_cores ..), Dev.core_congr (Dev.setLen_cores ..), Dev.core_setCore, if_pos rfl]
  exact (Laws.Tab.get_set ..).trans (if_pos rfl)

/-- Settles O19: whatever a run of the Drill does to memory, messages and batches, its entry still stands in its window when
the run ends, and completes there; a wait whose buffer is final has written its count by then. -/
theorem drillDescriptorsRunToCompletion : Obligations.DrillDescriptorsRunToCompletion := by
  unfold Obligations.DrillDescriptorsRunToCompletion
  refine ⟨fun s c e h op i body hi ready => ?_, fun s c e h b near spill ready _ hbatch hlive hfinal hnear hspill => ?_⟩
  · obtain ⟨⟨scope, hscope, hexec⟩, keeps⟩ := exec_drill_command hi
    have ⟨_, hhold, hruns⟩ := ready
    have hnext := fun d => work_clocked s d (Dev.clocked_of_coreRuns hruns)
    refine ⟨fun ends => ?_, fun hwaits => ?_⟩
    · refine ⟨_, (hexec s).trans (hnext _), rfl, ?_, hscope.queues .., hscope.gotre ..,
        hscope.stackTab .., hscope.dies ..⟩
      rw [Dev.completed, Dev.core_congr (hscope.cores ..)]
      exact Dev.runAny_completes ready ends keeps
    · rw [hexec, Dev.runAny_of_waits hhold hwaits, hscope.self, hnext]
  · have hbody := expertWaitBody_of_final (c := c) (a := (s.dev.core c).agent c h e) (r := { dev := s.dev })
      hbatch hlive hfinal
    have ends : runEnds ((expertWaitBody c ((s.dev.core c).agent c h e) e { dev := s.dev }).map fun q => (q, true)) :=
      ⟨_, congrArg (Option.map fun q => (q, true)) hbody, rfl, rfl⟩
    refine ⟨_, work_clocked s _ (Dev.clocked_of_coreRuns ready.2.2), rfl, ?_, ?_, rfl⟩
    · obtain ⟨q, hq, hrun⟩ := Dev.runAny_of_runEnds
        (body := fun a e r => (expertWaitBody c a e r).map fun q => (q, true)) ready ends
      rw [hbody] at hq
      cases hq
      rw [Dev.core_congr (Dev.coreScope_cores ..), hrun, Dev.finish_core, if_pos rfl]
      exact s.dev.writeCounts_lregs c h e hnear hspill near spill
    · rw [Dev.completed, Dev.core_congr (Dev.coreScope_cores ..)]
      exact Dev.runAny_completes ready ends fun _ _ _ _ => names_of_map_some fun _ => expertWaitBody_names

end Sys2Proof.Machine

/-! Batches of the Drill (R276 to R289): what a change makes of a batch, how cancelled tags and released buffers end, and how
counts, placements, token rows and answers enter. -/

namespace Sys2Proof.Machine

/-! ### Commands of the Drill and of the link dies (R315, R482) -/

theorem drillWork_up {s : State} (hup : s.dev.drillUp = true) (d : Dev) : drillWork s d = .next { s with dev := d } := by
  simp only [drillWork, hup, if_true]

theorem memWork_up {s : State} (hup : s.dev.memoryUp = true) (d : Dev) : memWork s d = .next { s with dev := d } := by
  simp only [memWork, hup, if_true]

/-! What a message of a current sender does is done; one of a stale sender changes nothing (R315). -/

section Senders
variable {s : State} {f : Sender} (scope : Dev → Dev → Dev) (r : Dev)

theorem drillWork_current (hup : s.dev.drillUp = true) (hcurrent : s.dev.staleSender f = false) :
    drillWork s (scope s.dev (s.dev.unlessStale f r)) = .next { s with dev := scope s.dev r } := by
  rw [drillWork_up hup, Dev.unlessStale, if_neg (by simp [hcurrent])]

theorem memWork_current (hup : s.dev.memoryUp = true) (hcurrent : s.dev.staleSender f = false) :
    memWork s (scope s.dev (s.dev.unlessStale f r)) = .next { s with dev := scope s.dev r } := by
  rw [memWork_up hup, Dev.unlessStale, if_neg (by simp [hcurrent])]

variable {scope}

theorem drillWork_stale (hscope : RunsBesideQueues scope) (hstale : s.dev.staleSender f = true) :
    drillWork s (scope s.dev (s.dev.unlessStale f r)) = .next s := by
  rw [Dev.unlessStale, if_pos hstale, hscope.self, drillWork, ite_self]

theorem memWork_stale (hscope : RunsBesideQueues scope) (hstale : s.dev.staleSender f = true) :
    memWork s (scope s.dev (s.dev.unlessStale f r)) = .next s := by
  rw [Dev.unlessStale, if_pos hstale, hscope.self, memWork, ite_self]

end Senders

/-! ### Batches by their tags (R276) -/

section Tags
variable {x : Holding} {tag : Word32} {b : Batch}

theorem Holding.tag_of_batch (hb : x.batch tag = some b) : b.tag = tag := by
  simpa using List.find?_some hb

/-- A change of every batch that keeps the tags is what becomes of the batch of a tag. -/
theorem find?_tag_map (l : List Batch) (tag : Word32) {f : Batch → Batch} (hf : ∀ b, (f b).tag = b.tag) :
    (l.map f).find? (fun b => b.tag == tag) = (l.find? fun b => b.tag == tag).map f := by
  have htags : ((fun b : Batch => b.tag == tag) ∘ f) = fun b : Batch => b.tag == tag := funext fun b => by
    simp only [Function.comp, hf]
  rw [List.find?_map, htags]

theorem Holding.batch_modBatch (hb : x.batch tag = some b) {f : Batch → Batch} (hf : ∀ b, (f b).tag = b.tag) :
    (x.modBatch tag f).batch tag = some (f b) := by
  have hkeeps : ∀ q : Batch, (if q.tag = tag then f q else q).tag = q.tag := fun q => by split <;> simp [hf]
  have hfind : x.batches.find? (fun q => q.tag == tag) = some b := hb
  rw [Holding.batch, Holding.modBatch, find?_tag_map _ _ hkeeps, hfind, Option.map_some, if_pos (Holding.tag_of_batch hb)]

theorem Holding.batch_append (hnone : x.batch b.tag = none) :
    ({ x with batches := x.batches ++ [b] } : Holding).batch b.tag = some b := by
  have hfind : x.batches.find? (fun q => q.tag == b.tag) = none := hnone
  simp [Holding.batch, List.find?_append, hfind]

theorem Dev.holding_modBatch (s : Dev) (h : HoldId) (tag : Word32) (f : Batch → Batch) :
    (s.modBatch h tag f).holding h = (s.holding h).modBatch tag f :=
  (s.holding_modHolding ..).trans (if_pos rfl)

/-- Batches stand in a holding's kernel. -/
theorem Holding.batch_of_kernel {y : Holding} (hk : y.kernel = x.kernel) (tag : Word32) : y.batch tag = x.batch tag :=
  (congrArg (·.batch tag) hk :)

end Tags

/-! ### Tags and buffers that become free (R280, R288) -/

section Free
variable {s : Dev} {h : HoldId} {tag : Word32} {b : Batch}

/-- A holding whose retired tags have left the table. -/
def Holding.freed (x : Holding) : Holding :=
  { x with batches := x.batches.map fun b => if b.live then b else { b with entry := false } }

theorem Holding.batch_freed {x : Holding} (hb : x.batch tag = some b) :
    x.freed.batch tag = some (if b.live then b else { b with entry := false }) := by
  have hfind : x.batches.find? (fun q => q.tag == tag) = some b := hb
  rw [Holding.batch, Holding.freed, find?_tag_map _ _ fun q => by split <;> rfl, hfind, Option.map_some]

theorem Dev.freeTags_of_held (hheld : s.writesHeld h = true) : s.freeTags h = s := if_pos hheld

theorem Dev.freeTags_of_free (hfree : s.writesHeld h = false) :
    s.freeTags h = s.modHolding h fun x => x.freed.releaseBuffers := if_neg (by simp [hfree])

/-- The freeing of tags leaves a retired batch retired. -/
theorem Dev.freeTags_retired (hb : (s.holding h).batch tag = some b) (hdead : b.live = false) :
    ∃ z, ((s.freeTags h).holding h).batch tag = some z ∧ z.live = false ∧ z.cause = b.cause := by
  cases hheld : s.writesHeld h with
  | true => exact ⟨b, by rwa [Dev.freeTags_of_held hheld], hdead, rfl⟩
  | false =>
    refine ⟨{ b with entry := false }, ?_, hdead, rfl⟩
    rw [Dev.freeTags_of_free hheld, Dev.holding_modHolding, if_pos rfl]
    exact (Holding.batch_freed hb).trans (congrArg some (if_neg (by simp [hdead])))

/-- A tag that has left the table needs no buffer. -/
theorem Holding.needsBuffer_of_left {x : Holding} (hb : x.batch tag = some b) (hleft : b.entry = false) (queue : Nat) :
    x.needsBuffer queue tag = false := by
  simp [Holding.needsBuffer, hb, hleft]

/-- Once no write of its holding is on its way, a retired tag keeps no buffer. -/
theorem Dev.freeTags_buffers (hfree : s.writesHeld h = false) (hb : (s.holding h).batch tag = some b)
    (hdead : b.live = false) : ∀ q ∈ ((s.freeTags h).holding h).queues, ∀ z ∈ q.held, z.2 ≠ tag := by
  rw [Dev.freeTags_of_free hfree, Dev.holding_modHolding, if_pos rfl]
  intro q hq z hz htag
  obtain ⟨old, -, rfl⟩ := List.mem_map.1 hq
  have hneeds := (List.mem_filter.1 hz).2
  rw [htag, Holding.needsBuffer_of_left (Holding.batch_freed hb) (by simp [hdead])] at hneeds
  cases hneeds

/-- A live tag that is cancelled retires with its cause (R288). -/
theorem Dev.cancelBatch_retires (hb : (s.holding h).batch tag = some b) (hlive : b.live = true) (cause : CancelCause)
    (group : Option Nat) :
    (∃ z, ((s.cancelBatch h tag cause group).holding h).batch tag = some z ∧ z.live = false ∧ z.cause = some cause)
      ∧ (s.writesHeld h = false →
          ∀ q ∈ ((s.cancelBatch h tag cause group).holding h).queues, ∀ z ∈ q.held, z.2 ≠ tag) := by
  obtain ⟨d, hd, -, hwaits, -, hkernel⟩ := s.cancelBatch_eq_freeTags h tag cause group
  have hretired : (d.holding h).batch tag = some (b.retired cause) :=
    (congrArg (·.batch tag) (hkernel b hb hlive) :).trans
      (Holding.batch_modBatch (f := fun q => q.retired cause) hb fun _ => rfl)
  have hheld : d.writesHeld h = s.writesHeld h := by rw [Dev.writesHeld, hwaits, Dev.writesHeld]
  rw [hd]
  exact ⟨Dev.freeTags_retired hretired rfl, fun hfree => Dev.freeTags_buffers (hheld.trans hfree) hretired rfl⟩

/-- The release looks at batches and their tables alone, so that a second one finds nothing more. -/
theorem Holding.releaseBuffers_releaseBuffers (x : Holding) : x.releaseBuffers.releaseBuffers = x.releaseBuffers := by
  have hneeds : ∀ n t, x.releaseBuffers.needsBuffer n t = x.needsBuffer n t := fun _ _ => rfl
  unfold Holding.releaseBuffers at hneeds ⊢
  simp only [hneeds, List.map_map, Function.comp_def, List.filter_filter, Bool.and_self]

/-- A holding's batches once its retired tags are free, as far as no write is on its way. -/
def Dev.settledTags (s : Dev) (h : HoldId) : Holding := if s.writesHeld h then s.holding h else (s.holding h).freed

theorem Dev.freeTags_released (s : Dev) (h : HoldId) :
    ((s.freeTags h).modHolding h Holding.releaseBuffers).holding h = (s.settledTags h).releaseBuffers := by
  rw [Dev.holding_modHolding, if_pos rfl, Dev.settledTags]
  cases hheld : s.writesHeld h with
  | true => rw [Dev.freeTags_of_held hheld, if_pos rfl]
  | false =>
    rw [Dev.freeTags_of_free hheld, Dev.holding_modHolding, if_pos rfl, Holding.releaseBuffers_releaseBuffers]
    rfl

/-- Where no token row waits, DRILL_BUFFER_RELEASE frees tags and buffers and does no more (R280). -/
theorem Dev.bufferRelease_of_noneWaiting (hnone : ∀ b ∈ (s.holding h).batches, b.waiting = []) (queue buffer : Nat) :
    s.bufferRelease h queue buffer = (s.freeTags h).modHolding h Holding.releaseBuffers := by
  have hwaiting : ∀ b ∈ (((s.freeTags h).modHolding h Holding.releaseBuffers).holding h).batches, b.waiting = [] := by
    rw [Dev.freeTags_released]
    change ∀ b ∈ (s.settledTags h).batches, b.waiting = []
    unfold Dev.settledTags
    split
    · exact hnone
    · intro b hb
      obtain ⟨old, hold, rfl⟩ := List.mem_map.1 hb
      split <;> exact hnone old hold
  unfold Dev.bufferRelease
  extract_lets s1 x
  split
  · rfl
  next q _ =>
    extract_lets mine
    have hfind : (x.batches.find? fun b => b.live && b.waiting.any mine) = none :=
      List.find?_eq_none.2 fun b hb => by simp [hwaiting b hb]
    rw [hfind]

end Free

/-! ### The deadlines (R289) -/

theorem Dev.advanceTo_frame (s : Dev) (t : Word64) : ∃ dt, s.advanceTo t = { s with dt := dt } := by
  unfold Dev.advanceTo
  split <;> exact ⟨_, rfl⟩

/-- A home that still lacks counts as its deadline passes cancels the batch. -/
theorem Dev.drillDeadline_of_missing {s : Dev} {h : HoldId} {tag : Word32} {b : Batch} {d : Word64}
    (hb : (s.holding h).batch tag = some b) (hlive : b.live = true) (hhome : b.homeDeadline = some d)
    (hsource : b.deadline = none) (hmissing : (s.holding h).allCounted b ((s.holding h).lastRound b) = false) :
    s.drillDeadline h tag = ((s.advanceTo d).cancelBatch h tag .timeout b.group).missed h := by
  simp [Dev.drillDeadline, hb, hlive, hhome, hsource, hmissing, Option.filter]

/-- Settles O22: a cancelled tag is freed as the last step of its cancelling, and a release that finds no waiting row only
frees tags and buffers. -/
theorem tagsRetireAndBuffersAreReleased : Obligations.TagsRetireAndBuffersAreReleased := by
  unfold Obligations.TagsRetireAndBuffersAreReleased
  refine ⟨fun s h tag b hup hb hlive => ⟨fun cause => ?_, fun d hhome hsource hmissing => ?_⟩,
    fun s h queue buffer hup hnone => ?_⟩
  · obtain ⟨hretired, hbuffers⟩ := Dev.cancelBatch_retires hb hlive cause none
    exact ⟨_, drillWork_up hup _, rfl, hretired, hbuffers, Dev.cancelBatch_cores .., rfl⟩
  · obtain ⟨dt, hadvance⟩ := s.dev.advanceTo_frame d
    have hbatch : ((s.dev.advanceTo d).holding h).batch tag = some b := by rw [hadvance]; exact hb
    obtain ⟨⟨z, hz, hretired⟩, -⟩ := Dev.cancelBatch_retires hbatch hlive .timeout b.group
    have hrun := Dev.drillDeadline_of_missing hb hlive hhome hsource hmissing
    obtain ⟨hcores, -, hdt, hkernel⟩ := Dev.apartFromSends_eq_iff.1
      (((s.dev.advanceTo d).cancelBatch h tag .timeout b.group).missed_apart h)
    rw [← hrun] at hcores hdt hkernel
    refine ⟨_, drillWork_up hup _, rfl, ⟨z, (Holding.batch_of_kernel (hkernel h) tag).trans hz, hretired⟩,
      hdt.trans (Dev.cancelBatch_dt ..), ?_⟩
    exact (hcores.trans (Dev.cancelBatch_cores ..)).trans (by rw [hadvance])
  · intro x y
    have hrun := Dev.bufferRelease_of_noneWaiting hnone queue.val buffer.val
    have hholding : (s.dev.bufferRelease h queue.val buffer.val).holding h = y.releaseBuffers := by
      rw [hrun]
      exact s.dev.freeTags_released h
    obtain ⟨holdings, hfree⟩ := s.dev.freeTags_frame h
    rw [hfree] at hrun
    have hqueues : y.queues = x.queues := by
      simp only [y]
      split <;> rfl
    refine ⟨_, drillWork_up hup _, rfl, (congrArg Holding.queues hholding :).trans ?_, (congrArg Holding.batches hholding :),
      (congrArg Dev.mem hrun :), (congrArg Dev.cores hrun :), (congrArg Dev.outbox hrun :)⟩
    rw [← hqueues]
    rfl

/-! ### Token rows (R271, R279, R291) -/

section Tokens
variable {s : Dev} {h : HoldId} (p : PortId)

theorem Dev.tokenRow_of_free {m : TokenMsg} {b : Batch} {q : HomeQueue} {l : Layer}
    (hb : (s.holding h).batch m.tag = some b) (hlive : b.live = true) (hq : (s.holding h).queueFor m.expert = some q)
    (hl : (s.holding h).layer q.layer = some l)
    (hfree : (q.held.any fun z => z.1 == q.bufferOf (m.tag.toNat % 65536) && z.2 != m.tag) = false) :
    s.tokenRow p h m = s.landToken p h q l m := by
  simp [Dev.tokenRow, hb, hlive, hq, hl, hfree]

theorem Dev.tokenRow_of_dead {m : TokenMsg}
    (hdead : (s.holding h).batch m.tag = none ∨ ∃ b, (s.holding h).batch m.tag = some b ∧ b.live = false) :
    s.tokenRow p h m = s.count (some h) (drlReg (linkDie p) 0x70) 1 := by
  rcases hdead with hnone | ⟨b, hb, hdead⟩
  · simp [Dev.tokenRow, hnone]
  · simp [Dev.tokenRow, hb, hdead]

/-- A batch in which a token row has taken its slot of a queue (R279). -/
def Batch.landed (b : Batch) (queue : Nat) (m : TokenMsg) : Batch :=
  { b with slots := b.slots ++ [{ queue := queue, slot := m.slot, origin := originWord m, returned := false }] }

/-- The row and its origin record go to memory; the batch notes the slot, and nothing leaves by a port. -/
theorem Dev.landToken_lands {m : TokenMsg} {b : Batch} (hb : (s.holding h).batch m.tag = some b) (q : HomeQueue) (l : Layer) :
    ((s.landToken p h q l m).holding h).batch m.tag = some (b.landed q.queue m)
      ∧ (s.landToken p h q l m).ports = s.ports := by
  unfold Dev.landToken
  extract_lets a u s1 s2
  have hstanding : s2.standing = s.standing := (s1.writeVa_standing ..).trans (s.writeVa_standing ..)
  refine ⟨?_, (congrArg (·.1.ports) hstanding :)⟩
  rw [Dev.holding_modHolding, if_pos rfl]
  exact Holding.batch_modBatch (f := fun b => b.landed q.queue m)
    ((Holding.batch_of_kernel (Dev.kernel_of_standing hstanding h) m.tag).trans hb) fun _ => rfl

end Tokens

/-! ### Answers (R285, R291) -/

@[simp] theorem Dev.writeReturn_standing (s : Dev) (p : PortId) (h : HoldId) (b : Batch) (token choice : Nat)
    (row : List PByte) : (s.writeReturn p h b token choice row).standing = s.standing := by
  unfold Dev.writeReturn
  split
  · rfl
  · split <;> simp

section Answers
variable {s : Dev} {h : HoldId} (p : PortId)

/-- A batch whose choice an answer has marked. -/
def Batch.answeredBy (b : Batch) (m : AnswerMsg) : Batch :=
  { b with choices := b.choices.map fun q =>
      if q.token = m.token.toNat ∧ q.choice = m.choice.val then { q with answered := true } else q }

theorem Dev.answer_of_live {m : AnswerMsg} {b : Batch} (hb : (s.holding h).batch m.tag = some b) (hlive : b.live = true) :
    ((s.answer p h m).holding h).batch m.tag = some (b.answeredBy m) := by
  have hanswer : s.answer p h m = (s.writeReturn p h b m.token.toNat m.choice.val m.row).modBatch h m.tag
      fun c => c.answeredBy m := by
    simp [Dev.answer, hb, hlive, Batch.answeredBy]
  rw [hanswer, Dev.holding_modBatch]
  have hkernel := Dev.kernel_of_standing (s.writeReturn_standing p h b m.token.toNat m.choice.val m.row) h
  exact Holding.batch_modBatch ((Holding.batch_of_kernel hkernel m.tag).trans hb) fun _ => rfl

theorem Dev.answer_of_dead {m : AnswerMsg}
    (hdead : (s.holding h).batch m.tag = none ∨ ∃ b, (s.holding h).batch m.tag = some b ∧ b.live = false) :
    s.answer p h m = s.count (some h) (drlReg (linkDie p) 0x68) 1 := by
  rcases hdead with hnone | ⟨b, hb, hdead⟩
  · simp [Dev.answer, hnone]
  · simp [Dev.answer, hb, hdead]

end Answers

theorem Dev.ctr_count_same (s : Dev) (o : Option HoldId) (a n : Nat) : (s.count o a n).ctr a = addStop64 (s.ctr a) n :=
  (s.ctr_count ..).trans (if_pos rfl)

/-- Settles O21: rows and answers write memory beside the batches, and what is dropped is counted and no more. -/
theorem tokensAndAnswersLandOrAreDropped : Obligations.TokensAndAnswersLandOrAreDropped := by
  unfold Obligations.TokensAndAnswersLandOrAreDropped
  refine ⟨fun s p h m hup hcurrent => ?_, fun s p h m hup hcurrent => ?_,
    fun s p h m q => ⟨memWork_stale _ Dev.netScope_besideQueues, memWork_stale _ Dev.memScope_besideQueues⟩⟩
  · have hexec : exec (.tokenRow p h m) s = .next { s with dev := s.dev.netScope (s.dev.tokenRow p h m) } :=
      memWork_current Dev.netScope _ hup hcurrent
    refine ⟨fun b q l hb hlive hq hl hfree => ?_, fun hdead => ?_⟩
    · rw [Dev.tokenRow_of_free p hb hlive hq hl hfree] at hexec
      obtain ⟨hbatch, hports⟩ := Dev.landToken_lands p hb q l
      exact ⟨_, hexec, rfl, ⟨_, hbatch, rfl⟩, rfl, hports⟩
    · rw [Dev.tokenRow_of_dead p hdead] at hexec
      exact ⟨_, hexec, rfl, s.dev.ctr_count_same (some h) _ 1, rfl, rfl, rfl⟩
  · have hexec : exec (.answer p h m) s = .next { s with dev := s.dev.memScope (s.dev.answer p h m) } :=
      memWork_current Dev.memScope _ hup hcurrent
    refine ⟨fun b hb hlive => ?_, fun hdead => ?_⟩
    · exact ⟨_, hexec, rfl, ⟨_, Dev.answer_of_live p hb hlive, rfl⟩, rfl, rfl⟩
    · rw [Dev.answer_of_dead p hdead] at hexec
      exact ⟨_, hexec, rfl, s.dev.ctr_count_same (some h) _ 1, rfl, rfl, rfl⟩

end Sys2Proof.Machine

/-! Counts and placements (R278, R282, R289): the first count of a batch opens it, a reply without places is noted once, and
what is dead, repeated or stale changes nothing. -/

namespace Sys2Proof.Machine

/-! ### Counts at the home (R278, R289) -/

section Counting
variable {s : Dev} {h : HoldId} {m : CountMsg} {other : BitVec 16}

/-- A batch that has taken a count message, with its deadline at the home. -/
def Batch.counted (b : Batch) (m : CountMsg) (deadline : Word64) : Batch :=
  { b with counts := b.counts ++ [m], homeDeadline := some deadline, group := some (b.group.getD m.group) }

/-- The batch that a first count message opens. -/
def firstBatch (m : CountMsg) (deadline : Word64) : Batch := (newBatch m.tag m.layer 0 (some m.group)).counted m deadline

/-- The home's deadline runs from the first count message (R289). -/
def Dev.homeDeadline (s : Dev) (m : CountMsg) : Word64 := s.dt + BitVec.ofNat 64 (m.deadline.toNat * 64)

/-- The holding's batches with one that a count message has opened. -/
def Dev.opened (s : Dev) (h : HoldId) (m : CountMsg) : Dev :=
  (s.modHolding h fun y => { y with batches := y.batches ++ [newBatch m.tag m.layer 0 (some m.group)] }).modBatch h m.tag
    fun c => c.counted m (s.homeDeadline m)

theorem Dev.opened_frame (s : Dev) (h : HoldId) (m : CountMsg) : ∃ x, s.opened h m = { s with holdings := x } := ⟨_, rfl⟩

theorem Dev.opened_batch (hnone : (s.holding h).batch m.tag = none) :
    ((s.opened h m).holding h).batch m.tag = some (firstBatch m (s.homeDeadline m)) := by
  rw [Dev.opened, Dev.holding_modBatch, Dev.holding_modHolding, if_pos rfl]
  exact Holding.batch_modBatch (Holding.batch_append (b := newBatch m.tag m.layer 0 (some m.group)) hnone) fun _ => rfl

theorem Dev.opened_collectives : ((s.opened h m).holding h).collectives = (s.holding h).collectives := by
  rw [Dev.opened, Dev.holding_modBatch, Dev.holding_modHolding, if_pos rfl]
  rfl

/-- One message does not count for a second member of its group. -/
theorem Dev.opened_notAllCounted (hother : other ∈ (s.holding h).membersOf (some m.group)) (hne : other ≠ m.src)
    (deadline : Word64) (round : Fin 2) :
    ((s.opened h m).holding h).allCounted (firstBatch m deadline) round = false := by
  have hmembers : ((s.opened h m).holding h).membersOf (some m.group) = (s.holding h).membersOf (some m.group) := by
    rw [Holding.membersOf, Dev.opened_collectives, Holding.membersOf]
  have hsrc : (m.src == other) = false := by simpa using hne.symm
  rw [Holding.allCounted, List.all_eq_false]
  refine ⟨other, hmembers ▸ hother, ?_⟩
  simp [firstBatch, Batch.counted, newBatch, hsrc]

/-- A first count message of a group with other members opens its batch, and nothing is placed yet. -/
theorem Dev.countMessage_of_first (hnone : (s.holding h).batch m.tag = none) (hroom : (s.holding h).tagsFull = false)
    (hqueues : ∀ p ∈ m.counts, ((s.holding h).queues.any fun q => q.global == p.1 && q.layer == m.layer) = true)
    (hother : other ∈ (s.holding h).membersOf (some m.group)) (hne : other ≠ m.src) :
    s.countMessage h m = s.opened h m := by
  have hknown : (m.counts.any fun p => !((s.holding h).queues.any fun q => q.global == p.1 && q.layer == m.layer)) = false :=
    List.any_eq_false.2 fun p hp => by simp only [hqueues p hp, Bool.not_true, Bool.false_eq_true, not_false_iff]
  have htake : s.takeCount h m = ([], s.opened h m) := by
    unfold Dev.takeCount
    extract_lets x known s1 b deadline s2 y
    have hfirst : known = none := hnone
    have hopened : s2 = s.opened h m := by
      simp only [s2, s1, deadline, b, hfirst, Option.isNone_none, if_true]
      rfl
    have hbatch : y.batch m.tag = some (firstBatch m (s.homeDeadline m)) := by
      simp only [y, hopened]
      exact Dev.opened_batch hnone
    have hwaits : y.allCounted (firstBatch m (s.homeDeadline m)) m.round = false := by
      simp only [y, hopened]
      exact Dev.opened_notAllCounted hother hne ..
    rw [if_neg (by simp [hfirst]), if_neg (by simp [x, hroom]),
      if_neg (by simp only [x, hknown, Bool.false_eq_true, not_false_iff]), if_neg (by simp [b, hfirst, newBatch])]
    simp only [hbatch, hwaits, Bool.false_eq_true, if_false, hopened]
  rw [Dev.countMessage, htake]
  rfl

end Counting

/-! ### Placement replies at the source (R278, R282) -/

section Placing
variable {s : Dev} {h : HoldId} {m : PlacementMsg} {b : Batch} {l : Layer}

theorem Dev.placementReply_of_noted (hb : (s.holding h).batch m.tag = some b) (hl : (s.holding h).layer b.layer = some l)
    (hnoted : b.live = false ∨ b.replies.contains (m.home, m.round) = true) : s.placementReply h m = s := by
  have hskip : (!b.live || b.replies.contains (m.home, m.round) || (b.deadline.any fun t => reached s.dt t)) = true := by
    rcases hnoted with hdead | hrepeated
    · rw [hdead, Bool.not_false, Bool.true_or, Bool.true_or]
    · rw [hrepeated, Bool.or_true, Bool.true_or]
  simp only [Dev.placementReply, replyBound, Dev.takeReplies, hb, hl, hskip, if_true]

/-- A batch that has noted a home's reply of a round. -/
def Batch.noted (b : Batch) (m : PlacementMsg) : Batch := { b with replies := b.replies ++ [(m.home, m.round)] }

theorem Dev.noted_batch (hb : (s.holding h).batch m.tag = some b) :
    ((s.modBatch h m.tag fun c => c.noted m).holding h).batch m.tag = some (b.noted m) := by
  rw [Dev.holding_modBatch]
  exact Holding.batch_modBatch (f := fun c => c.noted m) hb fun _ => rfl

/-- A timely reply without places of a layer without a second round is noted, and no more. -/
theorem Dev.placementReply_of_noPlaces (hb : (s.holding h).batch m.tag = some b)
    (hl : (s.holding h).layer b.layer = some l) (hlive : b.live = true)
    (hnew : b.replies.contains (m.home, m.round) = false) (htimely : ∀ d, b.deadline = some d → reached s.dt d = false)
    (hrounds : l.overflow ≠ 1) (hplaces : m.places = []) :
    s.placementReply h m = s.modBatch h m.tag fun c => c.noted m := by
  have hopen : (b.deadline.any fun t => reached s.dt t) = false := by
    cases hd : b.deadline with
    | none => rfl
    | some d => simpa using htimely d hd
  have htaken : (!b.live || b.replies.contains (m.home, m.round) || (b.deadline.any fun t => reached s.dt t)) = false := by
    rw [hlive, hnew, hopen]
    rfl
  have hbatch := Dev.noted_batch hb
  unfold Batch.noted at hbatch ⊢
  simp only [Dev.placementReply, replyBound, Dev.takeReplies, hb, hl, htaken, hplaces, List.foldl_nil, hbatch, hrounds,
    Bool.false_eq_true, false_and, and_false, if_false]

end Placing

/-- Settles O20: the first message of a group with other members can place nothing, so that it only opens its batch; a reply
without places is only noted. -/
theorem countsAndPlacementsAreTakenOnce : Obligations.CountsAndPlacementsAreTakenOnce := by
  unfold Obligations.CountsAndPlacementsAreTakenOnce
  refine ⟨fun s h m other hup hcurrent hnone hroom hqueues hother hne => ?_,
    fun s h m b l hup hcurrent hb hl => ?_,
    fun s h m q => ⟨drillWork_stale _ Dev.netScope_besideQueues, drillWork_stale _ Dev.netScope_besideQueues⟩⟩
  · have hexec : exec (.countMessage h m) s = .next { s with dev := s.dev.netScope (s.dev.countMessage h m) } :=
      drillWork_current Dev.netScope _ hup hcurrent
    rw [Dev.countMessage_of_first hnone hroom hqueues hother hne] at hexec
    have hdeadline : (firstBatch m (s.dev.homeDeadline m)).homeDeadline
        = some (s.dev.dt + BitVec.ofNat 64 (m.deadline.toNat * 64)) := by
      rw [firstBatch, Batch.counted, Dev.homeDeadline]
    obtain ⟨x, hframe⟩ := s.dev.opened_frame h m
    exact ⟨_, hexec, rfl, ⟨_, Dev.opened_batch hnone, rfl, rfl, hdeadline⟩, (congrArg Dev.mem hframe :),
      Dev.netScope_queues .., (congrArg Dev.outbox hframe :), (congrArg Dev.cores hframe :)⟩
  · have hexec : exec (.placementReply h m) s = .next { s with dev := s.dev.netScope (s.dev.placementReply h m) } :=
      drillWork_current Dev.netScope _ hup hcurrent
    refine ⟨fun hlive hnew htimely hrounds hplaces => ?_, fun hnoted => ?_⟩
    · rw [Dev.placementReply_of_noPlaces hb hl hlive hnew htimely hrounds hplaces] at hexec
      exact ⟨_, hexec, rfl, ⟨_, Dev.noted_batch hb, rfl, rfl⟩, (s.dev.modBatch_mem h m.tag _ :),
        (s.dev.modBatch_cores h m.tag _ :)⟩
    · rw [hexec, Dev.placementReply_of_noted hb hl hnoted, Dev.netScope_besideQueues.self]

end Sys2Proof.Machine

/-! The ports as flits leave by them (R302 to R318): whatever is sent, forwarded, acknowledged or credited, a port keeps its
state, its peer and its place in what it receives, and the device everything beside its ports and their counters. -/

namespace Sys2Proof.Machine

/-! ### The counters of the ports (R329) -/

theorem klxReg_inj {p q : PortId} {a b : Nat} (ha : a < 0x1000) (hb : b < 0x1000) :
    klxReg p a = klxReg q b ↔ p = q ∧ a = b := by
  simp only [klxReg, regAt, linkDie, Fin.ext_iff]
  omega

theorem Dev.ctr_countKlx_ne (s : Dev) (h : Option HoldId) (p q : PortId) {a b : Nat} (n : Nat)
    (hab : a < 0x1000 ∧ b < 0x1000 ∧ a ≠ b) : (s.count h (klxReg p a) n).ctr (klxReg q b) = s.ctr (klxReg q b) :=
  (s.ctr_count ..).trans (if_neg fun he => hab.2.2 ((klxReg_inj hab.2.1 hab.1).1 he).2.symm)

@[simp] theorem addStop64_zero (v : Word64) : addStop64 v 0 = v := by
  refine BitVec.eq_of_toNat_eq ?_
  have hv := v.isLt
  simp only [addStop64, Nat.add_zero, BitVec.toNat_ofNat]
  omega

/-- Flits sent, those that went round, and those without a route: the counters that flits on their way change. -/
def sendCounters : List Nat := [0x08, 0x60, 0x68, 0x70]

/-! ### What flits on their way leave alone -/

/-- A port without what the sending and the acknowledging of flits change. -/
def Port.standing (q : Port) : Port :=
  { q with
    nextLseq := 0, replay := [], oldestReplays := 0, replayTimes := [], credits := [], owed := [], queue := [], kept := []
    turn := 0, sinceCtl := 0, passNext := [] }

/-- Flits leave: the ports change but for their standing, and with them their counters and what has left the module. -/
structure Dev.Sends (s t : Dev) : Prop where
  unsent : t.unsent = s.unsent
  seqTx : t.seqTx = s.seqTx
  standing : ∀ p, (t.port p).standing = (s.port p).standing
  ctr : ∀ (p : PortId) {off : Nat}, off < 0x1000 ∧ off ∉ sendCounters → t.ctr (klxReg p off) = s.ctr (klxReg p off)

theorem Dev.Sends.refl (s : Dev) : s.Sends s := ⟨rfl, rfl, fun _ => rfl, fun _ _ _ => rfl⟩

theorem Dev.Sends.trans {s t u : Dev} (h : s.Sends t) (k : t.Sends u) : s.Sends u where
  unsent := k.unsent.trans h.unsent
  seqTx := k.seqTx.trans h.seqTx
  standing p := (k.standing p).trans (h.standing p)
  ctr p _ hoff := (k.ctr p hoff).trans (h.ctr p hoff)

section
variable {s t : Dev} (h : s.Sends t)
include h

theorem Dev.Sends.dt : t.dt = s.dt := (congrArg Dev.dt h.unsent :)
theorem Dev.Sends.mem : t.mem = s.mem := (congrArg Dev.mem h.unsent :)
theorem Dev.Sends.cores : t.cores = s.cores := (congrArg Dev.cores h.unsent :)
theorem Dev.Sends.dies : t.dies = s.dies := (congrArg Dev.dies h.unsent :)
theorem Dev.Sends.seqRx : t.seqRx = s.seqRx := (congrArg Dev.seqRx h.unsent :)
theorem Dev.Sends.time : t.time = s.time := (congrArg Dev.time h.unsent :)

end

theorem Dev.Sends.usable {s t : Dev} (h : s.Sends t) (p : PortId) : t.usable p = s.usable p := by
  have hstate : (t.port p).state = (s.port p).state := (congrArg Port.state (h.standing p) :)
  simp only [Dev.usable, Dev.die, hstate, h.dies]

section Flits
variable (s : Dev) (p : PortId) (dst : BitVec 16) (vc : Fin 4)

theorem Dev.modPort_standing {f : Port → Port} (hf : ∀ q, (f q).standing = q.standing) (k : PortId) :
    ((s.modPort p f).port k).standing = (s.port k).standing := by
  rw [Dev.port_modPort]
  split
  next hk => rw [hf, hk]
  next => rfl

theorem Dev.modPort_sends {f : Port → Port} (hf : ∀ q, (f q).standing = q.standing) : s.Sends (s.modPort p f) :=
  ⟨rfl, rfl, s.modPort_standing p hf, fun _ _ _ => rfl⟩

/-- A change of a port that keeps its standing may go before. -/
theorem Dev.Sends.of_modPort {s t : Dev} {p : PortId} {f : Port → Port} (h : (s.modPort p f).Sends t)
    (hf : ∀ q, (f q).standing = q.standing) : s.Sends t := (s.modPort_sends p hf).trans h

theorem Dev.countSent_sends {off : Nat} (hoff : off ∈ sendCounters) (n : Nat) : s.Sends (s.count none (klxReg p off) n) where
  unsent := rfl
  seqTx := rfl
  standing _ := rfl
  ctr q k hk := s.ctr_countKlx_ne none p q n
    ⟨(by decide : ∀ a ∈ sendCounters, a < 0x1000) off hoff, hk.1, fun he => hk.2 (he ▸ hoff)⟩

theorem Dev.emit_sends (e : Emit) : s.Sends (s.emit e) := ⟨rfl, rfl, fun _ => rfl, fun _ _ _ => rfl⟩

theorem Dev.sendFlit_sends (i : PortItem) : s.Sends (s.sendFlit p i) :=
  .of_modPort ((Dev.countSent_sends _ p (off := 0x08) (by decide) 1).trans (Dev.emit_sends ..)) fun _ => rfl

theorem Dev.drainPort_sends (n : Nat) : s.Sends (s.drainPort p n) := by
  induction n generalizing s with
  | zero => exact .refl s
  | succ n ih =>
    unfold Dev.drainPort
    split
    · split
      · exact .of_modPort ((Dev.sendFlit_sends ..).trans (ih _)) fun _ => rfl
      · exact .refl s
    · split
      · exact .refl s
      · exact .of_modPort ((Dev.sendFlit_sends ..).trans (ih _)) fun _ => rfl

theorem Dev.drain_sends : s.Sends (s.drain p) := by
  unfold Dev.drain
  split
  · exact .refl s
  · exact s.drainPort_sends p _

theorem Dev.toPort_sends (is : List PortItem) : s.Sends (s.toPort p is) :=
  .of_modPort (Dev.drain_sends _ p) fun _ => rfl

theorem Dev.sendPlain_sends (w : Wire) : s.Sends (s.sendPlain dst vc w) := by
  unfold Dev.sendPlain
  split
  · exact .refl s
  · exact s.toPort_sends ..

theorem Dev.chooseRoute_sends : s.Sends (s.chooseRoute dst).2 := by
  unfold Dev.chooseRoute
  split
  · exact .refl s
  next r _ =>
    extract_lets home s1
    have h1 : s.Sends s1 := by
      simp only [s1]
      split
      · exact s.countSent_sends home (by decide) 1
      · exact .refl s
    dsimp only
    split
    · exact h1.trans (s1.countSent_sends home (by decide) 1)
    · exact h1

theorem Dev.sendHeld_sends (f : Held) : s.Sends (s.sendHeld dst vc f).2.2 := by
  unfold Dev.sendHeld
  extract_lets c
  have hchosen : s.Sends c.2 := by
    simp only [c]
    split
    · exact .refl s
    · exact s.chooseRoute_sends dst
  split
  · exact hchosen
  · exact hchosen.trans (Dev.toPort_sends ..)

theorem Dev.sendAll_sends (fs : List Held) : s.Sends (s.sendAll dst vc fs).2.2 := by
  induction fs generalizing s with
  | nil => exact .refl s
  | cons f rest ih => exact (s.sendHeld_sends dst vc f).trans (ih _)

end Flits

/-! ### Acknowledgements, credits and forwarding (R306, R309, R310, R317) -/

section Reception
variable (s : Dev) (p : PortId)

theorem Dev.takeLack_sends (lack : BitVec 12) : s.Sends (s.takeLack p lack) := by
  unfold Dev.takeLack
  extract_lets q kept
  split
  · exact .refl s
  · exact .of_modPort (Dev.drain_sends _ p) fun _ => rfl

theorem Dev.takeCredits_sends (vc cls n : Nat) : s.Sends (s.takeCredits p vc cls n) := by
  unfold Dev.takeCredits
  split
  · exact .refl s
  · exact .of_modPort (Dev.drain_sends _ p) fun _ => rfl

theorem Dev.sendIdle_sends (vc cls n : Nat) : s.Sends (s.sendIdle p vc cls n) := by
  unfold Dev.sendIdle
  split
  · exact .refl s
  · exact s.emit_sends _

theorem Dev.freeBuffer_sends (vc : Fin 4) (cls : Fin 2) : s.Sends (s.freeBuffer p vc cls) := by
  unfold Dev.freeBuffer
  extract_lets k n
  split
  · exact .of_modPort (Dev.sendIdle_sends ..) fun _ => rfl
  · exact .of_modPort (Dev.sendIdle_sends ..) fun _ => rfl

theorem Dev.forwardFlit_sends (f : Flit) : s.Sends (s.forwardFlit p f) := by
  unfold Dev.forwardFlit
  extract_lets hop
  cases hop with
  | some q => exact s.toPort_sends ..
  | none =>
    cases hport : s.fabricPort f.dst with
    | some q => simpa only [hport] using s.toPort_sends q _
    | none => simpa only [hport] using s.countSent_sends p (off := 0x70) (by decide) 1

end Reception

end Sys2Proof.Machine

/-! Messages as they pass the gate and the ports (R311, R316, R393), and the states that ports take (R325, R329). -/

namespace Sys2Proof.Machine

/-! ### What messages leave alone -/

/-- A device without what messages change as they are numbered, wait at the gate and leave. -/
def Dev.untold (s : Dev) : Dev := { s.unsent with gate := [], holdings := [], regs := [], free := 0 }

/-- Messages are sent: beside the ports, the numbers and the gate they change counters and events. -/
structure Dev.Tells (s t : Dev) : Prop where
  untold : t.untold = s.untold
  standing : ∀ p, (t.port p).standing = (s.port p).standing

theorem Dev.Tells.refl (s : Dev) : s.Tells s := ⟨rfl, fun _ => rfl⟩

theorem Dev.Tells.trans {s t u : Dev} (h : s.Tells t) (k : t.Tells u) : s.Tells u :=
  ⟨k.untold.trans h.untold, fun p => (k.standing p).trans (h.standing p)⟩

section
variable {s t : Dev} (h : s.Tells t)
include h

theorem Dev.Tells.dt : t.dt = s.dt := (congrArg Dev.dt h.untold :)
theorem Dev.Tells.mem : t.mem = s.mem := (congrArg Dev.mem h.untold :)
theorem Dev.Tells.cores : t.cores = s.cores := (congrArg Dev.cores h.untold :)
theorem Dev.Tells.seqRx : t.seqRx = s.seqRx := (congrArg Dev.seqRx h.untold :)
theorem Dev.Tells.epochs : t.epochs = s.epochs := (congrArg Dev.epochs h.untold :)
theorem Dev.Tells.linkSent : t.linkSent = s.linkSent := (congrArg Dev.linkSent h.untold :)

end

/-- Whatever leaves the ports alone and changes no more than counters, events and holdings. -/
theorem Dev.Tells.of_eq {s t : Dev} (hrest : t.untold = s.untold) (hports : t.ports = s.ports) : s.Tells t :=
  ⟨hrest, fun _ => by simp only [Dev.port, hports]⟩

/-- What leaves the ports alone and changes no more than that may go before. -/
theorem Dev.Tells.of_frame {s d t : Dev} (h : d.Tells t) (hrest : d.untold = s.untold) (hports : d.ports = s.ports) :
    s.Tells t := (Dev.Tells.of_eq hrest hports).trans h

theorem Dev.Sends.tells {s t : Dev} (h : s.Sends t) : s.Tells t := ⟨(congrArg Dev.untold h.unsent :), h.standing⟩

theorem Dev.Tells.foldl {α : Type} {f : Dev → α → Dev} (hf : ∀ (d : Dev) a, d.Tells (f d a)) (s : Dev) (l : List α) :
    s.Tells (l.foldl f s) :=
  List.foldlRecOn l f (motive := s.Tells) (.refl s) fun _ hd a _ => hd.trans (hf _ a)

section Messages
variable (s : Dev) (dst : BitVec 16) (vc : Fin 4) (o : Owner) (m : OutMsg)

theorem Dev.count_tells (h : Option HoldId) (a n : Nat) : s.Tells (s.count h a n) := .of_eq rfl rfl

theorem Dev.event_tells (a : Nat) (x : Word32) : s.Tells (s.event a x) := .of_eq rfl rfl

theorem Dev.numberMsg_tells : s.Tells (s.numberMsg dst vc o m) :=
  (s.sendAll_sends dst vc _).tells.trans (.of_eq rfl rfl)

theorem Dev.releaseGate_tells (l kept : List GateItem) : s.Tells (s.releaseGate l kept) := by
  induction l generalizing s kept with
  | nil => exact .of_eq rfl rfl
  | cons g rest ih =>
    unfold Dev.releaseGate
    split
    · exact (s.numberMsg_tells ..).trans (ih _ kept)
    · exact ih s _

theorem Dev.runGate_tells : s.Tells s.runGate := s.releaseGate_tells ..

theorem Dev.noteFull_tells (h : Option HoldId) (p : PortId) : s.Tells (s.noteFull h p) := by
  unfold Dev.noteFull
  split
  · exact .of_eq rfl rfl
  · exact .refl s

theorem Dev.sendFrom_tells (p : PortId) (blocks : List (Nat × Nat × Nat)) :
    s.Tells (s.sendFrom p dst vc o m blocks) := by
  unfold Dev.sendFrom
  extract_lets held h s1 bad s2
  have h1 : s.Tells s1 := by
    simp only [s1]
    split
    · exact .refl s
    · exact s.count_tells ..
  have h2 : s1.Tells s2 := by
    simp only [s2]
    split
    · exact .refl s1
    · exact s1.count_tells ..
  exact (h1.trans h2).trans (.of_frame ((Dev.noteFull_tells _ h p).trans (Dev.runGate_tells _)) rfl rfl)

theorem Dev.send_tells : s.Tells (s.send dst vc o m) := s.sendFrom_tells ..

/-- A message of the device itself counts for no holding. -/
theorem Dev.send_device_holdings : (s.send dst vc .device m).holdings = s.holdings := by
  have hfull : ∀ (d : Dev) (p : PortId), (d.noteFull none p).holdings = d.holdings := fun d p => by
    unfold Dev.noteFull
    split <;> rfl
  unfold Dev.send Dev.sendFrom
  simp only [List.filter_nil, List.length_nil, if_true, ownerHolding]
  obtain ⟨k, -, hgate⟩ := Dev.releaseGate_unsent (({ s with gate := _ } : Dev).noteFull none (s.homeOf dst)) _ []
  exact (congrArg Dev.holdings hgate :).trans (hfull _ _)

end Messages

/-! ### Link state, and the states of a port (R316, R325, R329) -/

section PortStates
variable (s : Dev) (p : PortId)

theorem Dev.tellLinks_tells (hvalid : s.numberValid = true) :
    ({ s with linkSent := s.ownLinks } : Dev).Tells s.tellLinks := by
  unfold Dev.tellLinks
  rw [if_neg (by simp [hvalid])]
  exact .foldl (fun d n => d.send_tells ..) _ _

theorem Dev.linksMoved_tells : ∃ bits, ({ s with linkSent := bits } : Dev).Tells s.linksMoved := by
  unfold Dev.linksMoved
  split
  · exact ⟨s.linkSent, .refl s⟩
  · cases hvalid : s.numberValid with
    | true => exact ⟨_, s.tellLinks_tells hvalid⟩
    | false => exact ⟨s.linkSent, by simpa [Dev.tellLinks, hvalid] using Dev.Tells.refl s⟩

/-- A port takes a state; that the device tells its pod of it changes neither memory nor the standing of a port. -/
theorem Dev.setPortState_tells (st : PortState) (f : Port → Port) :
    ∃ bits, ({ s.modPort p fun q => { f q with state := st } with linkSent := bits } : Dev).Tells (s.setPortState p st f) := by
  unfold Dev.setPortState
  extract_lets s1
  split
  · exact ⟨s.linkSent, .refl s1⟩
  · obtain ⟨bits, hmoved⟩ := (s1.event (linkEvent p) (stateEvents st)).linksMoved_tells
    exact ⟨bits, hmoved.of_frame rfl rfl⟩

theorem Dev.setPortState_standing (st : PortState) (f : Port → Port) :
    ((s.setPortState p st f).port p).standing = ({ f (s.port p) with state := st } : Port).standing := by
  obtain ⟨bits, htells⟩ := s.setPortState_tells p st f
  have hport := s.port_modPort p p fun q => { f q with state := st }
  rw [if_pos rfl] at hport
  exact (htells.standing p).trans (congrArg Port.standing hport)

theorem Dev.setPortState_state (st : PortState) (f : Port → Port) : ((s.setPortState p st f).port p).state = st :=
  (congrArg Port.state (s.setPortState_standing p st f) :)

theorem Dev.setPortState_mem (st : PortState) (f : Port → Port) : (s.setPortState p st f).mem = s.mem := by
  obtain ⟨bits, htells⟩ := s.setPortState_tells p st f
  exact htells.mem

theorem Dev.retrain_state : ((s.retrain p).port p).state = .training := s.setPortState_state p ..

theorem Dev.retrain_mem : (s.retrain p).mem = s.mem := s.setPortState_mem p ..

end PortStates

end Sys2Proof.Machine

/-! Flits as a port takes them (R305 to R307): what a damaged one, one in sequence and a NAK make of the port. -/

namespace Sys2Proof.Machine

/-! ### What the links may change -/

section Scope
variable (s r : Dev)

@[simp] theorem Dev.linkScope_ctr (a : Nat) : (s.linkScope r).ctr a = r.ctr a := by
  simp only [Dev.ctr, Dev.linkScope_ctrs]

@[simp] theorem Dev.linkScope_port (p : PortId) : (s.linkScope r).port p = r.port p := by
  simp only [Dev.port, Dev.linkScope_ports]

theorem Dev.linkScope_self : s.linkScope s = s := by
  cases s
  rfl

end Scope

section Reception
variable (s : Dev) (p : PortId)

/-! ### A damaged flit (R306) -/

/-- What the error correction of a codeword counts: the symbols that it corrected, or that it failed. -/
def Dev.fecCounted (fecGood : Bool) (n : Nat) : Dev :=
  if fecGood then (if n = 0 then s else s.count none (klxReg p 0x18) n) else s.count none (klxReg p 0x20) 1

/-- A discarded flit is counted. -/
def Dev.discarded : Dev := s.count none (klxReg p 0x28) 1

theorem Dev.ctr_fecCounted (fecGood : Bool) (n : Nat) {off : Nat} (hoff : off < 0x1000 ∧ off ≠ 0x18 ∧ off ≠ 0x20) :
    (s.fecCounted p fecGood n).ctr (klxReg p off) = s.ctr (klxReg p off) := by
  unfold Dev.fecCounted
  split_ifs
  · rfl
  · exact s.ctr_countKlx_ne none p p n ⟨by decide, hoff.1, hoff.2.1.symm⟩
  · exact s.ctr_countKlx_ne none p p 1 ⟨by decide, hoff.1, hoff.2.2.symm⟩

theorem Dev.fecCounted_frame (fecGood : Bool) (n : Nat) :
    ∃ c x, s.fecCounted p fecGood n = { s with ctrs := c, shadow := x } := by
  unfold Dev.fecCounted
  split_ifs <;> exact ⟨_, _, rfl⟩

/-- Beside the counters the counting of a codeword and of its discarded flit changes nothing. -/
theorem Dev.discarded_fecCounted (fecGood : Bool) (n : Nat) :
    ∃ c x, (s.fecCounted p fecGood n).discarded p = { s with ctrs := c, shadow := x }
      ∧ Tab.get 0 c (klxReg p 0x28) = addStop64 (s.ctr (klxReg p 0x28)) 1
      ∧ Tab.get 0 c (klxReg p 0x08) = s.ctr (klxReg p 0x08) := by
  obtain ⟨c, x, hframe⟩ := s.fecCounted_frame p fecGood n
  refine ⟨((s.fecCounted p fecGood n).discarded p).ctrs, ((s.fecCounted p fecGood n).discarded p).shadow, ?_, ?_, ?_⟩
  · rw [Dev.discarded, hframe]
    rfl
  · exact (Dev.ctr_count_same _ none ..).trans (by rw [s.ctr_fecCounted p fecGood n (by decide)])
  · exact (Dev.ctr_countKlx_ne _ none p p 1 (by decide)).trans (s.ctr_fecCounted p fecGood n (by decide))

/-- From the first discarded flit on the port discards until the sequence resumes. -/
def Port.discards (q : Port) : Port := { q with discarding := true }

/-- The NAK of a port (R306). -/
def Dev.sendNak : Dev := (s.count none (klxReg p 0x08) 1).emit (.flit p (s.linkFlit p 1 0 0 0))

/-- A link flit tells the device's number, the port's peer, and the place in the sequence that it has taken. -/
theorem Dev.linkFlit_congr {s t : Dev} {p : PortId} (hregs : t.regs = s.regs) (hpeer : (t.port p).peer = (s.port p).peer)
    (hexpect : (t.port p).expect = (s.port p).expect) (type : BitVec 4) (vc cls n : Nat) :
    t.linkFlit p type vc cls n = s.linkFlit p type vc cls n := by
  simp only [Dev.linkFlit, Dev.number, Dev.reg, hregs, hpeer, hexpect]

theorem Dev.receiveFlit_of_damaged {f : Flit} {fecGood : Bool} (n : Nat) (hu : s.usable p = true)
    (hsurvey : s.fullSurvey = false) (hbad : (fecGood && f.good) = false) :
    s.receiveFlit p f fecGood n =
      if (s.port p).discarding then (s.fecCounted p fecGood n).discarded p
      else if s.survey.frozen then ((s.fecCounted p fecGood n).discarded p).modPort p Port.discards
      else (((s.fecCounted p fecGood n).discarded p).modPort p Port.discards).sendNak p := by
  have hdamaged : (!fecGood || !f.good) = true := by rw [← Bool.not_and, hbad, Bool.not_false]
  unfold Dev.receiveFlit
  extract_lets q s1
  rw [if_neg (by simp [hu, hsurvey]), if_pos hdamaged]
  rfl

/-- A damaged flit is discarded and counted; the first one in a row makes the port discard and, but under a Survey, ask once. -/
theorem Dev.receiveFlit_damaged {f : Flit} {fecGood : Bool} (n : Nat) (hu : s.usable p = true)
    (hsurvey : s.fullSurvey = false) (hbad : (fecGood && f.good) = false) :
    let t := s.receiveFlit p f fecGood n
    let silent := (s.port p).discarding || s.survey.frozen
    t.ctr (klxReg p 0x28) = addStop64 (s.ctr (klxReg p 0x28)) 1 ∧ (t.port p).discarding = true
      ∧ (t.port p).expect = (s.port p).expect
      ∧ t.outbox = s.outbox ++ (if silent then [] else [.flit p (s.linkFlit p 1 0 0 0)])
      ∧ t.ctr (klxReg p 0x08) = addStop64 (s.ctr (klxReg p 0x08)) (if silent then 0 else 1)
      ∧ t.seqRx = s.seqRx ∧ t.mem = s.mem := by
  obtain ⟨c, x, hcounted, hdiscarded, hsent⟩ := s.discarded_fecCounted p fecGood n
  have hport : (({ s with ctrs := c, shadow := x } : Dev).modPort p Port.discards).port p = (s.port p).discards :=
    (Dev.port_modPort ..).trans (if_pos rfl)
  dsimp only
  rw [s.receiveFlit_of_damaged p n hu hsurvey hbad, hcounted]
  cases hdiscarding : (s.port p).discarding with
  | true => exact ⟨hdiscarded, hdiscarding, rfl, (List.append_nil _).symm, hsent.trans (addStop64_zero _).symm, rfl, rfl⟩
  | false =>
    cases hfrozen : s.survey.frozen with
    | true =>
      exact ⟨hdiscarded, (congrArg Port.discarding hport :), (congrArg Port.expect hport :), (List.append_nil _).symm,
        hsent.trans (addStop64_zero _).symm, rfl, rfl⟩
    | false =>
      have hnak := Dev.linkFlit_congr (s := s) (t := ({ s with ctrs := c, shadow := x } : Dev).modPort p Port.discards) (p := p)
        rfl (congrArg Port.peer hport :) (congrArg Port.expect hport :) 1 0 0 0
      exact ⟨(Dev.ctr_countKlx_ne _ none p p 1 (by decide)).trans hdiscarded, (congrArg Port.discarding hport :),
        (congrArg Port.expect hport :), congrArg (fun f => s.outbox ++ [Emit.flit p f]) hnak,
        (Dev.ctr_count_same _ none ..).trans (congrArg (addStop64 · 1) hsent), rfl, rfl⟩

/-! ### A flit in sequence (R305, R306, R309) -/

/-- The port has taken a flit in sequence. -/
def Dev.inSequence : Dev :=
  (s.modPort p fun q => { q with expect := q.expect + 1, discarding := false }).count none (klxReg p 0x10) 1

/-- Beside the place in the sequence an accepted flit changes only what flits on their way do. -/
theorem Dev.acceptFlit_sends {f : Flit} (htype : f.type < 8) : (s.inSequence p).Sends (s.acceptFlit p f) := by
  unfold Dev.acceptFlit
  extract_lets s1 s2 s3
  have h2 : s1.Sends s2 := (s1.takeLack_sends p f.lack).trans (Dev.takeCredits_sends ..)
  have h3 : s2.Sends s3 := by
    simp only [s3, if_neg (Nat.not_le.2 htype)]
    split
    · exact s2.forwardFlit_sends p f
    · exact .refl s2
  exact (h2.trans h3).trans (Dev.freeBuffer_sends ..)

/-- A good flit in sequence moves the port's place in the sequence on, and is counted. -/
theorem Dev.receiveFlit_next {f : Flit} (n : Nat) (hu : s.usable p = true) (hsurvey : s.fullSurvey = false)
    (hgood : f.good = true) (hlow : 2 ≤ f.type) (hhigh : f.type < 8) (hnext : f.lseq = (s.port p).expect) :
    let t := s.receiveFlit p f true n
    (t.port p).expect = (s.port p).expect + 1 ∧ (t.port p).discarding = false
      ∧ t.ctr (klxReg p 0x10) = addStop64 (s.ctr (klxReg p 0x10)) 1 ∧ t.seqRx = s.seqRx ∧ t.mem = s.mem := by
  have haccepted : s.receiveFlit p f true n = (s.fecCounted p true n).acceptFlit p f := by
    unfold Dev.receiveFlit
    extract_lets q s1
    rw [if_neg (by simp [hu, hsurvey]), if_neg (by simp [hgood]), if_neg (Nat.not_lt.2 hlow), if_pos hnext]
    rfl
  intro t
  obtain ⟨c, x, hframe⟩ := s.fecCounted_frame p true n
  have hsends : ((s.fecCounted p true n).inSequence p).Sends t := by
    simp only [t, haccepted]
    exact Dev.acceptFlit_sends _ p hhigh
  have hport : ((s.fecCounted p true n).inSequence p).port p
      = { s.port p with expect := (s.port p).expect + 1, discarding := false } := by
    rw [hframe]
    exact (Dev.port_modPort s p p fun q => { q with expect := q.expect + 1, discarding := false }).trans (if_pos rfl)
  have hstanding := (hsends.standing p).trans (congrArg Port.standing hport)
  have hctr : ((s.fecCounted p true n).inSequence p).ctr (klxReg p 0x10) = addStop64 (s.ctr (klxReg p 0x10)) 1 :=
    (Dev.ctr_count_same _ none ..).trans (congrArg (addStop64 · 1) (s.ctr_fecCounted p true n (by decide)))
  have hrest : ((s.fecCounted p true n).inSequence p).seqRx = s.seqRx ∧ ((s.fecCounted p true n).inSequence p).mem = s.mem := by
    rw [hframe]
    exact ⟨rfl, rfl⟩
  exact ⟨(congrArg Port.expect hstanding :), (congrArg Port.discarding hstanding :), (hsends.ctr p (by decide)).trans hctr,
    hsends.seqRx.trans hrest.1, hsends.mem.trans hrest.2⟩

/-! ### A NAK (R307) -/

/-- A port with one more replay at a moment. -/
def Port.replayed (q : Port) (now : Word64) : Port :=
  { q with oldestReplays := q.oldestReplays + 1, replayTimes := recentReplays now q.replayTimes ++ [now] }

/-- Every flit that is not yet acknowledged leaves again. -/
def Dev.sendAgain (now : Word64) : Dev :=
  let again := (s.port p).replay
  (((s.count none (klxReg p 0x30) again.length).count none (klxReg p 0x08) again.length).emits
    (again.map fun e => .flit p (s.formFlit p e.1 e.2))).modPort p fun q => q.replayed now

theorem Dev.sendAgain_port (now : Word64) : (s.sendAgain p now).port p = (s.port p).replayed now :=
  (Dev.port_modPort ..).trans (if_pos rfl)

theorem Dev.sendAgain_replay (now : Word64) : ((s.sendAgain p now).port p).replay = (s.port p).replay := by
  rw [Dev.sendAgain_port]
  rfl

theorem Dev.ctr_sendAgain_sent (now : Word64) :
    (s.sendAgain p now).ctr (klxReg p 0x08) = addStop64 (s.ctr (klxReg p 0x08)) (s.port p).replay.length :=
  (Dev.ctr_count_same _ none ..).trans (by rw [s.ctr_countKlx_ne none p p _ (by decide)])

theorem Dev.ctr_sendAgain_replayed (now : Word64) :
    (s.sendAgain p now).ctr (klxReg p 0x30) = addStop64 (s.ctr (klxReg p 0x30)) (s.port p).replay.length :=
  (Dev.ctr_countKlx_ne _ none p p _ (by decide)).trans (s.ctr_count_same ..)

/-- A NAK that leaves flits to send again: they go, and a port that replays too often trains. -/
theorem Dev.replayFrom_of_replay {lack : BitVec 12} (hu : (s.port p).state.usable = true)
    (hagain : ((s.takeLack p lack).port p).replay ≠ []) (hfrozen : s.survey.frozen = false) :
    let s1 := s.takeLack p lack
    s.replayFrom p lack =
      if 8 ≤ (s1.port p).oldestReplays + 1 ∨ 64 ≤ (recentReplays s.dt (s1.port p).replayTimes).length + 1 then
        (s1.sendAgain p s.dt).retrain p
      else s1.sendAgain p s.dt := by
  intro s1
  have hsome : (s1.port p).replay.isEmpty = false := List.isEmpty_eq_false_iff.2 hagain
  have hport : (s1.sendAgain p s.dt).port p = (s1.port p).replayed s.dt := s1.sendAgain_port p s.dt
  have hrun : s.replayFrom p lack =
      let t := s1.sendAgain p s.dt
      if 8 ≤ (t.port p).oldestReplays || decide (64 ≤ (t.port p).replayTimes.length) then t.retrain p else t := by
    unfold Dev.replayFrom
    rw [if_neg (by simp only [hu, hfrozen, hsome, s1]; decide)]
    rfl
  simp only [hrun, hport, Port.replayed, List.length_append, List.length_singleton, Bool.or_eq_true, decide_eq_true_eq]

end Reception

/-- Settles O37: a damaged flit changes its port's discarding and counters alone; an accepted one moves the sequence on, and
what follows it leaves the standing of every port; a NAK sends again what its LACK leaves. -/
theorem linksReplayWhatIsDamaged : Obligations.LinksReplayWhatIsDamaged := by
  unfold Obligations.LinksReplayWhatIsDamaged
  intro s p hclocked hu hsurvey
  refine ⟨fun f fecGood n hbad => ⟨_, work_clocked s _ hclocked, rfl, s.dev.receiveFlit_damaged p n hu hsurvey hbad⟩,
    fun f n hgood hlow hhigh hnext _ =>
      ⟨_, work_clocked s _ hclocked, rfl, s.dev.receiveFlit_next p n hu hsurvey hgood hlow hhigh hnext⟩, ?_⟩
  intro lack s1 again replays hagain hfrozen
  have hexec : exec (.nak p lack) s = .next { s with dev := s.dev.linkScope (s.dev.replayFrom p lack) } :=
    work_clocked s _ hclocked
  have hrun := s.dev.replayFrom_of_replay p (Bool.and_eq_true_iff.1 hu).1 hagain hfrozen
  refine ⟨fun ⟨hfew, hrecent⟩ => ?_, fun hmany => ?_⟩
  · rw [hrun, if_neg (by simp only [replays, s1] at hfew hrecent; omega)] at hexec
    refine ⟨_, hexec, rfl, ?_⟩
    simp only [Dev.linkScope_outbox, Dev.linkScope_ctr, Dev.linkScope_port, Dev.linkScope_seqTx]
    exact ⟨rfl, s1.ctr_sendAgain_sent p s.dev.dt, s1.ctr_sendAgain_replayed p s.dev.dt, s1.sendAgain_replay p s.dev.dt, rfl⟩
  · rw [hrun, if_pos hmany] at hexec
    exact ⟨_, hexec, rfl, (congrArg Port.state (Dev.linkScope_port ..)).trans (Dev.retrain_state ..)⟩

end Sys2Proof.Machine

/-! The sequence home (R311 to R314): flits that are taken in order, and those that are kept until they are acknowledged. -/

namespace Sys2Proof.Machine

/-! ### Held flits that go again (R312 to R314) -/

section Resend
variable (s : Dev) (dst : BitVec 16) (vc : Fin 4)

/-- A held flit keeps its number and notes the moment of its sending. -/
theorem Dev.sendHeld_kept (f : Held) :
    (s.sendHeld dst vc f).1.eseq = f.eseq ∧ (s.sendHeld dst vc f).1.sentAt = s.dt := by
  unfold Dev.sendHeld
  extract_lets c
  split <;> exact ⟨rfl, rfl⟩

theorem Dev.sendHeld_of_usable {f : Held} {r : Route} (hr : f.route = some r) (hu : s.usable r.port = true) :
    (s.sendHeld dst vc f).2.1 = true := by
  simp [Dev.sendHeld, hr, Dev.hop, hu]

theorem Dev.sendAll_eseq (fs : List Held) : (s.sendAll dst vc fs).1.map (·.eseq) = fs.map (·.eseq) := by
  induction fs generalizing s with
  | nil => rfl
  | cons f rest ih => simp only [Dev.sendAll, List.map_cons, ih, (s.sendHeld_kept dst vc f).1]

theorem Dev.sendAll_sentAt (fs : List Held) : ∀ f ∈ (s.sendAll dst vc fs).1, f.sentAt = s.dt := by
  induction fs generalizing s with
  | nil => exact fun _ hf => absurd hf List.not_mem_nil
  | cons f rest ih =>
    intro g hg
    rcases List.mem_cons.1 hg with rfl | hg
    · exact (s.sendHeld_kept dst vc f).2
    · exact (ih _ g hg).trans (s.sendHeld_sends dst vc f).dt

theorem Dev.sendAll_sent_le (fs : List Held) : (s.sendAll dst vc fs).2.1 ≤ fs.length := by
  induction fs generalizing s with
  | nil => exact le_rfl
  | cons f rest ih =>
    have hrest := ih (s.sendHeld dst vc f).2.2
    have hone := (s.sendHeld dst vc f).2.1.toNat_le
    simp only [Dev.sendAll, List.length_cons]
    omega

theorem Dev.sendAll_sent_of_usable (fs : List Held) (h : ∀ f ∈ fs, ∃ r, f.route = some r ∧ s.usable r.port = true) :
    (s.sendAll dst vc fs).2.1 = fs.length := by
  induction fs generalizing s with
  | nil => rfl
  | cons f rest ih =>
    obtain ⟨r, hr, hu⟩ := h f List.mem_cons_self
    have hrest := ih (s.sendHeld dst vc f).2.2 fun g hg => by
      obtain ⟨q, hq, huq⟩ := h g (List.mem_cons_of_mem _ hg)
      exact ⟨q, hq, ((s.sendHeld_sends dst vc f).usable _).trans huq⟩
    simp only [Dev.sendAll, hrest, s.sendHeld_of_usable dst vc hr hu, Bool.toNat_true, List.length_cons]
    omega

variable (again : Held → Bool)

/-- A resend changes, beside the ports and what is held, the count of the flits that go again. -/
theorem Dev.resend_tells : s.Tells (s.resend dst vc again) := .trans (s.sendAll_sends dst vc _).tells (.of_eq rfl rfl)

theorem Dev.resend_seqTx (j : Nat) :
    Tab.get {} (s.resend dst vc again).seqTx j =
      if j = seqKey dst vc then
        let y := Tab.get {} s.seqTx (seqKey dst vc)
        { y with held := (y.held.filter fun f => !again f) ++ (s.sendAll dst vc (y.held.filter again)).1 }
      else Tab.get {} s.seqTx j := by
  refine (Laws.Tab.get_set ..).trans ?_
  rw [(s.sendAll_sends dst vc _).seqTx]

theorem Dev.ctr_resend_ne (q : PortId) {off : Nat} (hoff : off < 0x1000 ∧ off ∉ sendCounters) (hne : off ≠ 0x40) :
    (s.resend dst vc again).ctr (klxReg q off) = s.ctr (klxReg q off) :=
  (Dev.ctr_countKlx_ne _ none _ q _ ⟨by decide, hoff.1, hne.symm⟩).trans ((s.sendAll_sends dst vc _).ctr q hoff)

theorem Dev.ctr_resend :
    (s.resend dst vc again).ctr (klxReg (s.homeOf dst) 0x40)
      = addStop64 (s.ctr (klxReg (s.homeOf dst) 0x40))
          (s.sendAll dst vc ((Tab.get {} s.seqTx (seqKey dst vc)).held.filter again)).2.1 :=
  (Dev.ctr_count_same _ none ..).trans (congrArg (addStop64 · _) ((s.sendAll_sends dst vc _).ctr _ (by decide)))

end Resend

/-- A device holds for a destination and channel what another does, and would send it the same way. -/
structure Dev.HoldsAs (s d : Dev) (dst : BitVec 16) (vc : Fin 4) : Prop where
  next : (Tab.get {} d.seqTx (seqKey dst vc)).next = (Tab.get {} s.seqTx (seqKey dst vc)).next
  held : (Tab.get {} d.seqTx (seqKey dst vc)).held = (Tab.get {} s.seqTx (seqKey dst vc)).held
  others : ∀ j, j ≠ seqKey dst vc → Tab.get {} d.seqTx j = Tab.get {} s.seqTx j
  ports : d.ports = s.ports
  dies : d.dies = s.dies
  ctr : d.ctr (klxReg (s.homeOf dst) 0x40) = s.ctr (klxReg (s.homeOf dst) 0x40)

theorem Dev.HoldsAs.refl (s : Dev) (dst : BitVec 16) (vc : Fin 4) : s.HoldsAs s dst vc := ⟨rfl, rfl, fun _ _ => rfl, rfl, rfl, rfl⟩

/-- What such a device resends has been sent again. -/
theorem Dev.HoldsAs.resent {s d : Dev} {dst : BitVec 16} {vc : Fin 4} (h : s.HoldsAs d dst vc) (again : Held → Bool) :
    s.resent (d.resend dst vc again) dst vc again := by
  have hhome : d.homeOf dst = s.homeOf dst := by
    unfold Dev.homeOf Dev.die
    rw [h.dies]
  have hu : ∀ p, d.usable p = s.usable p := fun p => by simp only [Dev.usable, Dev.port, Dev.die, h.ports, h.dies]
  have hkept := (d.resend_seqTx dst vc again (seqKey dst vc)).trans (if_pos rfl)
  have hctr := d.ctr_resend dst vc again
  have hdt : (d.resend dst vc again).dt = d.dt := (d.resend_tells dst vc again).dt
  simp only [h.held] at hkept hctr
  rw [hhome, h.ctr] at hctr
  simp only [Dev.resent, hkept, hdt]
  refine ⟨h.next, ?_, List.take_left, ?_, ⟨_, d.sendAll_sent_le dst vc _, hctr, fun hall => ?_⟩, fun j hj => ?_⟩
  · rw [List.map_append, List.map_append, d.sendAll_eseq]
  · rw [List.drop_left]
    exact d.sendAll_sentAt dst vc _
  · refine d.sendAll_sent_of_usable dst vc _ fun f hf => ?_
    obtain ⟨r, hr, hur⟩ := hall f hf
    exact ⟨r, hr, (hu _).trans hur⟩
  · exact (d.resend_seqTx dst vc again j).trans ((if_neg hj).trans (h.others j hj))

/-! ### The sender's timers (R313, R314) -/

section Timers
variable (s : Dev) (dst : BitVec 16) (vc : Fin 4)

theorem Dev.sinceOldest_of_held {t : SeqTx} {f : Held} {rest : List Held} (h : t.held = f :: rest) (ticks : Nat) :
    s.sinceOldest t ticks = s.advanceTo (f.sentAt + BitVec.ofNat 64 ticks) := by
  unfold Dev.sinceOldest
  rw [h]

theorem Dev.sinceOldest_frame (t : SeqTx) (ticks : Nat) : ∃ dt, s.sinceOldest t ticks = { s with dt := dt } := by
  unfold Dev.sinceOldest
  split
  · exact ⟨s.dt, rfl⟩
  · exact s.advanceTo_frame _

/-- One more timeout in a row of what a destination and channel hold; the 64th marks it unreachable (R313, R314). -/
def SeqTx.timedOut (t : SeqTx) : SeqTx :=
  { t with timeouts := t.timeouts + 1, unreachable := decide (64 ≤ t.timeouts + 1) }

/-- The device as a timeout is noted: device time has gone on, and an unreachable destination has been counted and reported. -/
def Dev.timedOut : Dev :=
  let k := seqKey dst vc
  let t := Tab.get {} s.seqTx k
  let s0 := s.sinceOldest t retryTicks
  let s1 : Dev := { s0 with seqTx := Tab.set {} s0.seqTx k t.timedOut }
  let home := s.homeOf dst
  if decide (64 ≤ t.timeouts + 1) then ((s1.count none (klxReg home 0x88) 1).event (linkEvent home) 4).unreachableEvent dst vc else s1

theorem Dev.retryTimeout_of_idle
    (h : (Tab.get {} s.seqTx (seqKey dst vc)).held = [] ∨ (Tab.get {} s.seqTx (seqKey dst vc)).unreachable = true) :
    s.retryTimeout dst vc = s := by
  have hidle : ((Tab.get {} s.seqTx (seqKey dst vc)).held.isEmpty || (Tab.get {} s.seqTx (seqKey dst vc)).unreachable) = true := by
    rcases h with h | h
    · rw [h, List.isEmpty_nil, Bool.true_or]
    · rw [h, Bool.or_true]
  unfold Dev.retryTimeout
  exact if_pos hidle

theorem Dev.retryTimeout_of_held (hheld : (Tab.get {} s.seqTx (seqKey dst vc)).held ≠ [])
    (hreachable : (Tab.get {} s.seqTx (seqKey dst vc)).unreachable = false) :
    s.retryTimeout dst vc = (s.timedOut dst vc).resend dst vc fun _ => true := by
  have hbusy : ¬ ((Tab.get {} s.seqTx (seqKey dst vc)).held.isEmpty || (Tab.get {} s.seqTx (seqKey dst vc)).unreachable) = true := by
    rw [hreachable, Bool.or_false, List.isEmpty_iff]
    exact hheld
  unfold Dev.retryTimeout
  exact if_neg hbusy

/-- What the noting of a timeout changes. -/
theorem Dev.timedOut_frame :
    ∃ dt r c x g, s.timedOut dst vc =
      { s with dt := dt, regs := r, ctrs := c, shadow := x, gotre := g
               seqTx := Tab.set {} s.seqTx (seqKey dst vc) (Tab.get {} s.seqTx (seqKey dst vc)).timedOut } := by
  unfold Dev.timedOut
  extract_lets k t s0 s1 home
  obtain ⟨dt, h0⟩ := s.sinceOldest_frame t retryTicks
  have h1 : s1 = { s with dt := dt, seqTx := Tab.set {} s.seqTx k t.timedOut } := by simp only [s1, s0, h0]
  split
  · exact ⟨dt, _, _, _, _, by rw [h1]; rfl⟩
  · exact ⟨dt, _, _, _, _, h1⟩

theorem Dev.timedOut_dt : (s.timedOut dst vc).dt = (s.sinceOldest (Tab.get {} s.seqTx (seqKey dst vc)) retryTicks).dt := by
  unfold Dev.timedOut
  dsimp only
  split <;> rfl

theorem Dev.ctr_timedOut :
    (s.timedOut dst vc).ctr (klxReg (s.homeOf dst) 0x88) =
      if 64 ≤ (Tab.get {} s.seqTx (seqKey dst vc)).timeouts + 1 then addStop64 (s.ctr (klxReg (s.homeOf dst) 0x88)) 1
      else s.ctr (klxReg (s.homeOf dst) 0x88) := by
  obtain ⟨dt, h0⟩ := s.sinceOldest_frame (Tab.get {} s.seqTx (seqKey dst vc)) retryTicks
  unfold Dev.timedOut
  simp only [h0, decide_eq_true_eq]
  split
  · exact Dev.ctr_count_same _ none ..
  · rfl

theorem Dev.ctr_timedOut_ne (q : PortId) {off : Nat} (hoff : off < 0x1000 ∧ off ≠ 0x88) :
    (s.timedOut dst vc).ctr (klxReg q off) = s.ctr (klxReg q off) := by
  obtain ⟨dt, h0⟩ := s.sinceOldest_frame (Tab.get {} s.seqTx (seqKey dst vc)) retryTicks
  unfold Dev.timedOut
  simp only [h0, decide_eq_true_eq]
  split
  · exact Dev.ctr_countKlx_ne _ none _ q 1 ⟨by decide, hoff.1, hoff.2.symm⟩
  · rfl

theorem Dev.timedOut_holdsAs : s.HoldsAs (s.timedOut dst vc) dst vc := by
  obtain ⟨dt, r, c, x, g, hframe⟩ := s.timedOut_frame dst vc
  have hctr := s.ctr_timedOut_ne dst vc (s.homeOf dst) (off := 0x40) (by decide)
  rw [hframe] at hctr ⊢
  have hkept : Tab.get {} (Tab.set {} s.seqTx (seqKey dst vc) (Tab.get {} s.seqTx (seqKey dst vc)).timedOut) (seqKey dst vc)
      = (Tab.get {} s.seqTx (seqKey dst vc)).timedOut := Laws.Tab.get_set_same ..
  exact ⟨(congrArg SeqTx.next hkept :), (congrArg SeqTx.held hkept :), fun j hj => Laws.Tab.get_set_ne _ _ _ hj, rfl, rfl, hctr⟩

/-- Memory, the cores and what comes in stand through a timeout. -/
theorem Dev.retryTimeout_leaves :
    (s.retryTimeout dst vc).mem = s.mem ∧ (s.retryTimeout dst vc).cores = s.cores
      ∧ (s.retryTimeout dst vc).seqRx = s.seqRx := by
  by_cases hidle : (Tab.get {} s.seqTx (seqKey dst vc)).held = [] ∨ (Tab.get {} s.seqTx (seqKey dst vc)).unreachable = true
  · rw [s.retryTimeout_of_idle dst vc hidle]
    exact ⟨rfl, rfl, rfl⟩
  · obtain ⟨hheld, hreachable⟩ := not_or.1 hidle
    have htells := (s.timedOut dst vc).resend_tells dst vc fun _ => true
    obtain ⟨dt, r, c, x, g, hframe⟩ := s.timedOut_frame dst vc
    rw [s.retryTimeout_of_held dst vc hheld (Bool.eq_false_iff.2 hreachable), htells.mem, htells.cores, htells.seqRx, hframe]
    exact ⟨rfl, rfl, rfl⟩

theorem Dev.unreachableResend_of_unreachable (h : (Tab.get {} s.seqTx (seqKey dst vc)).unreachable = true) :
    s.unreachableResend dst vc = (s.sinceOldest (Tab.get {} s.seqTx (seqKey dst vc)) msTicks).resend dst vc fun _ => true := by
  unfold Dev.unreachableResend
  exact if_pos h

theorem Dev.unreachableResend_leaves :
    (s.unreachableResend dst vc).mem = s.mem ∧ (s.unreachableResend dst vc).cores = s.cores
      ∧ (s.unreachableResend dst vc).seqRx = s.seqRx := by
  by_cases h : (Tab.get {} s.seqTx (seqKey dst vc)).unreachable = true
  · obtain ⟨dt, hdt⟩ := s.sinceOldest_frame (Tab.get {} s.seqTx (seqKey dst vc)) msTicks
    have htells := ({ s with dt := dt } : Dev).resend_tells dst vc fun _ => true
    rw [s.unreachableResend_of_unreachable dst vc h, hdt]
    exact ⟨htells.mem, htells.cores, htells.seqRx⟩
  · have hsame : s.unreachableResend dst vc = s := by
      unfold Dev.unreachableResend
      exact if_neg h
    rw [hsame]
    exact ⟨rfl, rfl, rfl⟩

theorem Dev.sinceOldest_holdsAs (t : SeqTx) (ticks : Nat) : s.HoldsAs (s.sinceOldest t ticks) dst vc := by
  obtain ⟨dt, hdt⟩ := s.sinceOldest_frame t ticks
  rw [hdt]
  exact ⟨rfl, rfl, fun _ _ => rfl, rfl, rfl, rfl⟩

/-- What a noted timeout makes of its destination, as it goes again. -/
theorem Dev.resend_timedOut (h : (Tab.get {} s.seqTx (seqKey dst vc)).held ≠ [])
    (hreachable : (Tab.get {} s.seqTx (seqKey dst vc)).unreachable = false) :
    let y := Tab.get {} s.seqTx (seqKey dst vc)
    let t := s.retryTimeout dst vc
    s.resent t dst vc (fun _ => true) ∧ t.dt = (s.sinceOldest y retryTicks).dt
      ∧ (Tab.get {} t.seqTx (seqKey dst vc)).timeouts = y.timeouts + 1
      ∧ (Tab.get {} t.seqTx (seqKey dst vc)).unreachable = decide (64 ≤ y.timeouts + 1)
      ∧ t.ctr (klxReg (s.homeOf dst) 0x88)
        = (if 64 ≤ y.timeouts + 1 then addStop64 (s.ctr (klxReg (s.homeOf dst) 0x88)) 1
           else s.ctr (klxReg (s.homeOf dst) 0x88)) := by
  intro y t
  have hrun : t = (s.timedOut dst vc).resend dst vc fun _ => true := s.retryTimeout_of_held dst vc h hreachable
  have hnoted : Tab.get {} (s.timedOut dst vc).seqTx (seqKey dst vc) = y.timedOut := by
    obtain ⟨dt, r, c, x, g, hframe⟩ := s.timedOut_frame dst vc
    rw [hframe]
    exact Laws.Tab.get_set_same ..
  have hkept := ((s.timedOut dst vc).resend_seqTx dst vc (fun _ => true) (seqKey dst vc)).trans (if_pos rfl)
  simp only [hnoted] at hkept
  rw [hrun]
  exact ⟨(s.timedOut_holdsAs dst vc).resent _, (Dev.resend_tells ..).dt.trans (s.timedOut_dt dst vc),
    congrArg SeqTx.timeouts hkept, congrArg SeqTx.unreachable hkept,
    (Dev.ctr_resend_ne _ dst vc _ _ (by decide) (by decide)).trans (s.ctr_timedOut dst vc)⟩

/-- To an unreachable destination everything held goes again, and it stays unreachable. -/
theorem Dev.resend_unreachable (h : (Tab.get {} s.seqTx (seqKey dst vc)).unreachable = true) :
    let y := Tab.get {} s.seqTx (seqKey dst vc)
    let t := s.unreachableResend dst vc
    s.resent t dst vc (fun _ => true) ∧ t.dt = (s.sinceOldest y msTicks).dt
      ∧ (Tab.get {} t.seqTx (seqKey dst vc)).timeouts = y.timeouts
      ∧ (Tab.get {} t.seqTx (seqKey dst vc)).unreachable = true := by
  intro y t
  have hrun : t = (s.sinceOldest y msTicks).resend dst vc fun _ => true := s.unreachableResend_of_unreachable dst vc h
  have hsame : Tab.get {} (s.sinceOldest y msTicks).seqTx (seqKey dst vc) = y := by
    obtain ⟨dt, hdt⟩ := s.sinceOldest_frame y msTicks
    rw [hdt]
  have hkept := ((s.sinceOldest y msTicks).resend_seqTx dst vc (fun _ => true) (seqKey dst vc)).trans (if_pos rfl)
  rw [hsame] at hkept
  rw [hrun]
  exact ⟨(s.sinceOldest_holdsAs dst vc y msTicks).resent _, (Dev.resend_tells ..).dt, (congrArg SeqTx.timeouts hkept :),
    (congrArg SeqTx.unreachable hkept :).trans h⟩

end Timers

/-! ### Delivery (R311, R313, R315) -/

/-- Memory, the cores and what the device holds to be acknowledged. -/
def Dev.keeps (s : Dev) : List Host.Cell × Tab Core × Tab SeqTx := (s.mem, s.cores, s.seqTx)

theorem Dev.keeps_eq_iff {s t : Dev} : t.keeps = s.keeps ↔ t.mem = s.mem ∧ t.cores = s.cores ∧ t.seqTx = s.seqTx := by
  simp only [Dev.keeps, Prod.mk.injEq]

theorem Dev.Sends.keeps {s t : Dev} (h : s.Sends t) : t.keeps = s.keeps :=
  Dev.keeps_eq_iff.2 ⟨h.mem, h.cores, h.seqTx⟩

section Delivery
variable (s : Dev)

/-- A source and channel whose flits are all acknowledged. -/
def SeqRx.acknowledged (x : SeqRx) : SeqRx := { x with unacked := 0, firstUnacked := none }

theorem Dev.sendAck_sends (src : BitVec 16) (vc : Fin 4) :
    ({ s with seqRx := Tab.set {} s.seqRx (seqKey src vc) (Tab.get {} s.seqRx (seqKey src vc)).acknowledged } : Dev).Sends
      (s.sendAck src vc) := Dev.sendPlain_sends ..

theorem Dev.sendAck_seqRx (src : BitVec 16) (vc : Fin 4) :
    Tab.get {} (s.sendAck src vc).seqRx (seqKey src vc) = (Tab.get {} s.seqRx (seqKey src vc)).acknowledged := by
  rw [(s.sendAck_sends src vc).seqRx]
  exact Laws.Tab.get_set_same ..

theorem Dev.sendAck_keeps (src : BitVec 16) (vc : Fin 4) : (s.sendAck src vc).keeps = s.keeps :=
  (s.sendAck_sends src vc).keeps

/-- A source and channel that have delivered one more flit. -/
def SeqRx.delivered (x : SeqRx) (now : Word64) : SeqRx :=
  { expected := x.expected + 1, unacked := x.unacked + 1, firstUnacked := some (x.firstUnacked.getD now) }

/-- The device as it takes a flit in order: a flit of an older epoch is counted, and any other tells its epoch. -/
def Dev.delivered (f : Flit) : Dev :=
  let k := seqKey f.src f.vc
  let home := s.homeOf f.src
  let s1 : Dev := { s with seqRx := Tab.set {} s.seqRx k ((Tab.get {} s.seqRx k).delivered s.dt) }
  if 8 ≤ f.owner then s1
  else if s.staleFlit f then
    (s1.count (some (Fin.ofNat 8 f.owner)) (klxReg home 0x58) 1).event (linkEvent home) 0x40
  else s1.learnEpoch f.src f.owner f.epoch

theorem Dev.delivered_keeps (f : Flit) : (s.delivered f).keeps = s.keeps := by
  unfold Dev.delivered
  dsimp only
  split_ifs <;> rfl

theorem Dev.delivered_seqRx (f : Flit) :
    Tab.get {} (s.delivered f).seqRx (seqKey f.src f.vc) = (Tab.get {} s.seqRx (seqKey f.src f.vc)).delivered s.dt := by
  have hset : (s.delivered f).seqRx
      = Tab.set {} s.seqRx (seqKey f.src f.vc) ((Tab.get {} s.seqRx (seqKey f.src f.vc)).delivered s.dt) := by
    unfold Dev.delivered
    dsimp only
    split_ifs <;> rfl
  rw [hset]
  exact Laws.Tab.get_set_same ..

/-- A flit that the sequence home checks: numbered, and for this device. -/
def Dev.numberedHere (f : Flit) : Prop := 2 ≤ f.type ∧ f.type ≤ 4 ∧ f.dst = s.number

/-- The check of R311 by the distance of a flit's number from the expected one. -/
theorem Dev.deliverFlit_of_here {f : Flit} (hf : s.numberedHere f) :
    let x := Tab.get {} s.seqRx (seqKey f.src f.vc)
    let d := (f.eseq - x.expected).toNat
    s.deliverFlit f =
      if 0x80000000 ≤ d then s.count none (klxReg (s.homeOf f.src) 0x48) 1
      else if d ≠ 0 then
        (s.count none (klxReg (s.homeOf f.src) 0x50) 1).sendPlain f.src f.vc (.want f.src f.vc x.expected)
      else if 64 ≤ x.unacked + 1 then (s.delivered f).sendAck f.src f.vc else s.delivered f := by
  obtain ⟨hlow, hhigh, hdst⟩ := hf
  have hhere : ¬ ((decide (f.type < 2) || decide (4 < f.type) || f.dst != s.number) = true) := by
    simp only [hdst, bne_self_eq_false, Bool.or_false, Bool.or_eq_true, decide_eq_true_eq]
    omega
  unfold Dev.deliverFlit
  exact if_neg hhere

theorem Dev.deliverFlit_of_elsewhere {f : Flit} (hf : ¬ s.numberedHere f) : s.deliverFlit f = s := by
  have hnot : (decide (f.type < 2) || decide (4 < f.type) || f.dst != s.number) = true := by
    simp only [Dev.numberedHere, not_and_or, not_le] at hf
    simpa [or_assoc] using hf
  unfold Dev.deliverFlit
  exact if_pos hnot

theorem Dev.deliverFlit_keeps (f : Flit) : (s.deliverFlit f).keeps = s.keeps := by
  by_cases hf : s.numberedHere f
  · rw [s.deliverFlit_of_here hf]
    split_ifs
    · rfl
    · exact (Dev.sendPlain_sends ..).keeps
    · exact (Dev.sendAck_keeps ..).trans (s.delivered_keeps f)
    · exact s.delivered_keeps f
  · rw [s.deliverFlit_of_elsewhere hf]

theorem Dev.deliverFlit_of_expected {f : Flit} (hf : s.numberedHere f)
    (heq : f.eseq = (Tab.get {} s.seqRx (seqKey f.src f.vc)).expected) :
    (Tab.get {} (s.deliverFlit f).seqRx (seqKey f.src f.vc)).expected = f.eseq + 1 := by
  rw [s.deliverFlit_of_here hf]
  simp only [← heq, sub_self]
  rw [if_neg (by decide), if_neg (by decide)]
  split_ifs
  · rw [Dev.sendAck_seqRx, Dev.delivered_seqRx, heq]
    rfl
  · rw [Dev.delivered_seqRx, heq]
    rfl

/-- A flit that the home has delivered before is counted, and not acknowledged again. -/
theorem Dev.deliverFlit_of_earlier {f : Flit} (hf : s.numberedHere f)
    (hearlier : 0x80000000 ≤ (f.eseq - (Tab.get {} s.seqRx (seqKey f.src f.vc)).expected).toNat) :
    s.deliverFlit f = s.count none (klxReg (s.homeOf f.src) 0x48) 1 :=
  (s.deliverFlit_of_here hf).trans (if_pos hearlier)

/-- Before a flit that comes too early the home asks for the one that it expects. -/
theorem Dev.deliverFlit_of_later {f : Flit} (hf : s.numberedHere f)
    (hlater : 0 < (f.eseq - (Tab.get {} s.seqRx (seqKey f.src f.vc)).expected).toNat)
    (hnear : (f.eseq - (Tab.get {} s.seqRx (seqKey f.src f.vc)).expected).toNat < 0x80000000) :
    (s.count none (klxReg (s.homeOf f.src) 0x50) 1).Sends (s.deliverFlit f) := by
  have hrun := s.deliverFlit_of_here hf
  dsimp only at hrun
  rw [if_neg (Nat.not_le.2 hnear), if_pos hlater.ne'] at hrun
  rw [hrun]
  exact Dev.sendPlain_sends ..

theorem Dev.ackTimer_of_unacked {src : BitVec 16} {vc : Fin 4} {start : Word64}
    (h : (Tab.get {} s.seqRx (seqKey src vc)).firstUnacked = some start) :
    s.ackTimer src vc = (s.advanceTo (start + BitVec.ofNat 64 ackTicks)).sendAck src vc := by
  simp only [Dev.ackTimer, h]

/-- What has come in since the last acknowledgement is acknowledged, 2 µs after the first of it. -/
theorem Dev.ackTimer_acknowledges {src : BitVec 16} {vc : Fin 4} {start : Word64}
    (h : (Tab.get {} s.seqRx (seqKey src vc)).firstUnacked = some start) :
    Tab.get {} (s.ackTimer src vc).seqRx (seqKey src vc) = (Tab.get {} s.seqRx (seqKey src vc)).acknowledged
      ∧ (s.ackTimer src vc).dt = (s.advanceTo (start + BitVec.ofNat 64 ackTicks)).dt := by
  obtain ⟨dt, hdt⟩ := s.advanceTo_frame (start + BitVec.ofNat 64 ackTicks)
  rw [s.ackTimer_of_unacked h, hdt]
  exact ⟨Dev.sendAck_seqRx { s with dt := dt } src vc, (Dev.sendAck_sends { s with dt := dt } src vc).dt⟩

theorem Dev.ackTimer_keeps (src : BitVec 16) (vc : Fin 4) : (s.ackTimer src vc).keeps = s.keeps := by
  unfold Dev.ackTimer
  split
  next start _ =>
    obtain ⟨dt, hdt⟩ := s.advanceTo_frame (start + BitVec.ofNat 64 ackTicks)
    rw [Dev.sendAck_keeps, hdt]
    rfl
  · rfl

end Delivery

/-! ### Acknowledgements (R311, R312, R404) -/

section Acknowledgements
variable (s : Dev)

/-- What a destination and channel hold once flits up to a number are acknowledged. -/
def SeqTx.acknowledged (t : SeqTx) (upto : Word32) : SeqTx :=
  let kept := t.held.filter fun f => !seqLe f.eseq upto
  { t with held := kept, timeouts := if decide (kept.length < t.held.length) then 0 else t.timeouts, unreachable := false }

/-- The device with a destination's flits acknowledged. -/
def Dev.heldAcknowledged (dst : BitVec 16) (vc : Fin 4) (upto : Word32) : Dev :=
  { s with seqTx := Tab.set {} s.seqTx (seqKey dst vc) ((Tab.get {} s.seqTx (seqKey dst vc)).acknowledged upto) }

theorem Dev.takeAck_eq (dst : BitVec 16) (vc : Fin 4) (upto : Word32) :
    s.takeAck dst vc upto = allHoldings.foldl (fun d h => d.mirrorDone h) (s.heldAcknowledged dst vc upto).runGate := rfl

theorem Dev.mirrorDone_tells (h : HoldId) : s.Tells (s.mirrorDone h) := by
  unfold Dev.mirrorDone
  split
  · exact .refl s
  next m _ =>
    extract_lets held s1
    split_ifs
    · exact .refl s
    · exact .of_frame (Dev.send_tells _ m.buddy 0 .device _) rfl rfl

theorem Dev.takeAck_tells (dst : BitVec 16) (vc : Fin 4) (upto : Word32) : s.Tells (s.takeAck dst vc upto) :=
  .of_frame ((Dev.runGate_tells (s.heldAcknowledged dst vc upto)).trans (.foldl (fun d h => d.mirrorDone_tells h) _ _)) rfl rfl

variable {s}

theorem Dev.mirrorDone_of_still {h : HoldId} (hstill : ∀ m, (s.holding h).mirrorSend = some m → m.running = false) :
    s.mirrorDone h = s := by
  unfold Dev.mirrorDone
  split
  · rfl
  next m hm => simp [hstill m hm]

/-- An acknowledgement for which no message waits and no generation runs does no more than let go of what it covers. -/
theorem Dev.takeAck_of_still (dst : BitVec 16) (vc : Fin 4) (upto : Word32) (hgate : s.gate = [])
    (hstill : ∀ (h : HoldId) (m : MirrorSend), (s.holding h).mirrorSend = some m → m.running = false) :
    s.takeAck dst vc upto = { s.heldAcknowledged dst vc upto with gate := [] } := by
  have hrun : (s.heldAcknowledged dst vc upto).runGate = { s.heldAcknowledged dst vc upto with gate := [] } := by
    have hnone : (s.heldAcknowledged dst vc upto).gate = [] := hgate
    unfold Dev.runGate
    rw [hnone]
    rfl
  rw [Dev.takeAck_eq, hrun]
  refine List.foldlRecOn allHoldings _ (motive := fun d => d = { s.heldAcknowledged dst vc upto with gate := [] }) rfl
    fun d hd h _ => ?_
  rw [hd]
  exact Dev.mirrorDone_of_still (s := { s.heldAcknowledged dst vc upto with gate := [] }) (hstill h)

end Acknowledgements

/-- The answer of a command of the links on a clocked device. -/
theorem linkWork_clocked {s : State} (h : s.dev.clocked = true) (r : Dev) :
    work s (s.dev.linkScope r) = .next { s with dev := s.dev.linkScope r } := work_clocked s _ h

theorem Dev.resent_linkScope {s t : Dev} {dst : BitVec 16} {vc : Fin 4} {again : Held → Bool}
    (h : s.resent t dst vc again) (d : Dev) : s.resent (d.linkScope t) dst vc again := by
  simpa only [Dev.resent, Dev.linkScope_seqTx, Dev.linkScope_dt, Dev.linkScope_ctr] using h

/-- Settles O38: a flit is checked by its distance from the expected number; whatever is held goes again with its number, and
its counters and the other destinations stand. -/
theorem endToEndDeliversInOrder : Obligations.EndToEndDeliversInOrder := by
  unfold Obligations.EndToEndDeliversInOrder
  refine ⟨fun s p f hup => ?_, fun s dev vc upto hup => ?_, fun s dev vc from' hup => ?_, fun s dev vc hup => ?_,
    fun s dev vc hup => ?_, fun s dev vc hup => ?_, fun s dev vc hup => ?_⟩
  · refine ⟨_, linkWork_clocked hup _, rfl, ?_⟩
    simpa only [Dev.linkScope_mem, Dev.linkScope_cores, Dev.linkScope_seqTx]
      using Dev.keeps_eq_iff.1 (s.dev.deliverFlit_keeps f)
  · have htells := s.dev.takeAck_tells dev vc upto
    refine ⟨_, linkWork_clocked hup _, rfl, ?_⟩
    simp only [Dev.linkScope_mem, Dev.linkScope_cores, Dev.linkScope_seqRx, Dev.linkScope_dt]
    exact ⟨htells.mem, htells.cores, htells.seqRx, htells.dt⟩
  · have htells := s.dev.resend_tells dev vc fun f => seqLe from' f.eseq
    refine ⟨_, linkWork_clocked hup _, rfl, ?_⟩
    simp only [Dev.linkScope_mem, Dev.linkScope_cores, Dev.linkScope_seqRx, Dev.linkScope_dt]
    exact ⟨htells.mem, htells.cores, htells.seqRx, htells.dt⟩
  · refine ⟨_, linkWork_clocked hup _, rfl, ?_⟩
    simpa only [Dev.linkScope_mem, Dev.linkScope_cores, Dev.linkScope_seqTx]
      using Dev.keeps_eq_iff.1 (s.dev.ackTimer_keeps dev vc)
  · refine ⟨_, linkWork_clocked hup _, rfl, ?_⟩
    simpa only [Dev.linkScope_mem, Dev.linkScope_cores, Dev.linkScope_seqRx] using s.dev.retryTimeout_leaves dev vc
  · refine ⟨_, linkWork_clocked hup _, rfl, ?_⟩
    simpa only [Dev.linkScope_mem, Dev.linkScope_cores, Dev.linkScope_seqRx] using s.dev.unreachableResend_leaves dev vc
  · intro k x y home
    refine ⟨fun p f hsrc hvc hlow hhigh hdst => ?_, fun upto hgate hstill => ?_, fun from' => ?_, fun start hstart => ?_,
      fun f rest hheld => ⟨fun hreachable => ?_, fun hunreachable => ⟨?_, ?_⟩⟩⟩
    · subst hsrc hvc
      have hhere : s.dev.numberedHere f := ⟨hlow, hhigh, hdst⟩
      refine ⟨fun heq => ⟨_, linkWork_clocked hup _, ?_⟩, fun hearlier => ⟨_, linkWork_clocked hup _, ?_⟩,
        fun hlater hnear => ⟨_, linkWork_clocked hup _, ?_⟩⟩
      · simp only [Dev.linkScope_seqRx]
        exact (s.dev.deliverFlit_of_expected hhere heq).trans (congrArg (· + 1) heq)
      · simp only [Dev.linkScope_seqRx, Dev.linkScope_ctr, Dev.linkScope_ports, s.dev.deliverFlit_of_earlier hhere hearlier]
        exact ⟨rfl, s.dev.ctr_count_same .., rfl⟩
      · have hsends := s.dev.deliverFlit_of_later hhere hlater hnear
        simp only [Dev.linkScope_seqRx, Dev.linkScope_ctr]
        exact ⟨hsends.seqRx, (hsends.ctr _ (by decide)).trans (s.dev.ctr_count_same ..)⟩
    · refine ⟨_, linkWork_clocked hup _, ?_⟩
      simp only [Dev.linkScope_seqTx, Dev.linkScope_ports, Dev.linkScope_outbox, Dev.takeAck_of_still dev vc upto hgate hstill]
      refine ⟨(Laws.Tab.get_set_same ..).trans ?_, rfl, rfl⟩
      simp only [SeqTx.acknowledged, decide_eq_true_eq]
      rfl
    · exact ⟨_, linkWork_clocked hup _, Dev.resent_linkScope ((Dev.HoldsAs.refl s.dev dev vc).resent _) _⟩
    · refine ⟨_, linkWork_clocked hup _, ?_⟩
      simp only [Dev.linkScope_seqRx, Dev.linkScope_dt]
      exact s.dev.ackTimer_acknowledges hstart
    · obtain ⟨hresent, hdt, hrest⟩ := s.dev.resend_timedOut dev vc (hheld ▸ List.cons_ne_nil f rest) hreachable
      refine ⟨_, linkWork_clocked hup _, Dev.resent_linkScope hresent _, ?_⟩
      simp only [Dev.linkScope_seqTx, Dev.linkScope_dt, Dev.linkScope_ctr]
      exact ⟨hdt.trans (congrArg Dev.dt (Dev.sinceOldest_of_held s.dev hheld _)), hrest⟩
    · have hidle := s.dev.retryTimeout_of_idle dev vc (.inr hunreachable)
      have hexec : exec (.e2eRetryTimeout dev vc) s = .next { s with dev := s.dev.linkScope (s.dev.retryTimeout dev vc) } :=
        linkWork_clocked hup _
      rwa [hidle, Dev.linkScope_self] at hexec
    · obtain ⟨hresent, hdt, hrest⟩ := s.dev.resend_unreachable dev vc hunreachable
      refine ⟨_, linkWork_clocked hup _, Dev.resent_linkScope hresent _, ?_⟩
      simp only [Dev.linkScope_seqTx, Dev.linkScope_dt]
      exact ⟨hdt.trans (congrArg Dev.dt (Dev.sinceOldest_of_held s.dev hheld _)), hrest⟩

end Sys2Proof.Machine

/-! The training of ports, and how they leave service (R298, R325 to R327, R542, R543). -/

namespace Sys2Proof.Machine

section Training
variable (s : Dev) (p : PortId)

/-! ### An attempt (R325, R329) -/

/-- The state of a port after an attempt of its has failed, and the number of failures in a row. -/
def failedState (failures : Nat) : PortState := if 3 ≤ failures + 1 then .failed else .down

theorem Dev.attempt_port : (s.attempt p).port p = { s.port p with attempts := (s.port p).attempts + 1 } := by
  unfold Dev.attempt
  extract_lets q s1
  have hport : s1.port p = s.port p := by
    simp only [s1]
    split <;> rfl
  rw [Dev.port_modPort, if_pos rfl, hport]

theorem Dev.attempt_mem : (s.attempt p).mem = s.mem := by
  unfold Dev.attempt
  dsimp only
  split <;> rfl

/-- The peer that a port must find depends on the device's number alone, which no event of a link die is part of. -/
theorem Dev.attempt_rightPeer (peer : BitVec 16) (peerPort : Fin 8) (fabric : Bool) :
    (s.attempt p).rightPeer p peer peerPort fabric = s.rightPeer p peer peerPort fabric := by
  have hne : klxReg 0 0x300 ≠ linkEvent p := by
    simp only [klxReg, linkEvent, regAt, linkDie]
    omega
  have hreg : (s.attempt p).reg (klxReg 0 0x300) = s.reg (klxReg 0 0x300) := by
    unfold Dev.attempt
    dsimp only
    split
    · rfl
    · exact (Dev.reg_event ..).trans (if_neg hne)
  simp only [Dev.rightPeer, Dev.number, hreg]

/-! ### A failed attempt -/

theorem Dev.trainFails_port (h : (s.port p).state ≠ .surveyed) :
    ((s.trainFails p).port p).state = failedState (s.port p).failures
      ∧ ((s.trainFails p).port p).failures = min ((s.port p).failures + 1) 3 := by
  have hstate : ((s.port p).state == .surveyed) = false := by simpa using h
  unfold Dev.trainFails failedState
  dsimp only
  rw [hstate, if_neg Bool.false_ne_true]
  split
  next hthird =>
    have hmin : 3 = min ((s.port p).failures + 1) 3 := (min_eq_right hthird).symm
    exact ⟨s.setPortState_state p .., (congrArg Port.failures (s.setPortState_standing p ..) :).trans hmin⟩
  next hfew =>
    have hmin : (s.port p).failures + 1 = min ((s.port p).failures + 1) 3 := by omega
    exact ⟨s.setPortState_state p .., (congrArg Port.failures (s.setPortState_standing p ..) :).trans hmin⟩

theorem Dev.trainFails_mem : (s.trainFails p).mem = s.mem := by
  unfold Dev.trainFails
  dsimp only
  split_ifs
  · rfl
  · exact s.setPortState_mem p ..
  · exact s.setPortState_mem p ..

/-! ### A port comes up (R308, R326, R327) -/

theorem Dev.bringUp_of_right (st : PortState) (half : Bool) {peer : BitVec 16} {peerPort : Fin 8} {fabric : Bool}
    (h : s.rightPeer p peer peerPort fabric = true) :
    ((s.bringUp p st half peer peerPort fabric).port p).standing
        = ({ (s.port p).start half peer peerPort fabric with state := st } : Port).standing
      ∧ (s.bringUp p st half peer peerPort fabric).mem = s.mem := by
  unfold Dev.bringUp
  rw [if_pos h]
  have hsends := (s.setPortState p st fun q => q.start half peer peerPort fabric).drain_sends p
  exact ⟨(hsends.standing p).trans (s.setPortState_standing p ..), hsends.mem.trans (s.setPortState_mem p ..)⟩

theorem Dev.bringUp_of_wrong (st : PortState) (half : Bool) {peer : BitVec 16} {peerPort : Fin 8} {fabric : Bool}
    (h : s.rightPeer p peer peerPort fabric = false) :
    ((s.bringUp p st half peer peerPort fabric).port p).state = .miscabled
      ∧ (s.bringUp p st half peer peerPort fabric).mem = s.mem := by
  unfold Dev.bringUp
  rw [if_neg (Bool.eq_false_iff.1 h)]
  exact ⟨s.setPortState_state p .., s.setPortState_mem p ..⟩

/-- What the lanes leave of a link of which at least one half is healthy (R327). -/
theorem laneOutcome_of_half {low high : BitVec 8} (h : low = 0 ∨ high = 0) :
    laneOutcome (high ++ low) = some (if low = 0 ∧ high = 0 then .up else .degraded, decide (low ≠ 0)) := by
  unfold laneOutcome
  simp only [BitVec.extractLsb'_append_eq_right, BitVec.extractLsb'_append_eq_left]
  by_cases hboth : low = 0 ∧ high = 0
  · rw [if_pos hboth, if_pos hboth, decide_eq_false (not_not.2 hboth.1)]
  · rw [if_neg hboth, if_neg hboth]
    rcases h with hlow | hhigh
    · have hhigh : high ≠ 0 := fun he => hboth ⟨hlow, he⟩
      rw [if_neg hhigh, if_pos hlow, decide_eq_false (not_not.2 hlow)]
    · have hlow : low ≠ 0 := fun he => hboth ⟨he, hhigh⟩
      rw [if_pos hhigh, decide_eq_true hlow]

theorem laneOutcome_of_neither {low high : BitVec 8} (hlow : low ≠ 0) (hhigh : high ≠ 0) :
    laneOutcome (high ++ low) = none := by
  unfold laneOutcome
  simp only [BitVec.extractLsb'_append_eq_right, BitVec.extractLsb'_append_eq_left]
  rw [if_neg (fun h => hlow h.1), if_neg hhigh, if_neg hlow]

/-! ### Training and its outcomes (R298, R325) -/

/-- A port that trains, or waits for its first attempt. -/
def Port.ready (q : Port) : Prop := q.state = .training ∨ (q.state = .down ∧ q.failures = 0)

theorem Port.ready.unsurveyed {q : Port} (h : q.ready) : q.state ≠ .surveyed := by
  rcases h with h | ⟨h, -⟩ <;> rw [h] <;> decide

variable {s p} in
/-- A port that is ready and may train takes the outcome of its attempt. -/
theorem Dev.train_of_ready (hmay : s.mayTrain p = true) (hready : (s.port p).ready) :
    s.train p .noPeer = s.setPortState p .down (fun x => { x.drop with failures := 0 })
      ∧ (∀ step, s.train p (.failed step) = (s.attempt p).trainFails p)
      ∧ ∀ failed peer peerPort fabric, s.train p (.lanes failed peer peerPort fabric) =
          match laneOutcome failed with
          | some x => (s.attempt p).bringUp p x.1 x.2 peer peerPort fabric
          | none => (s.attempt p).trainFails p := by
  have hfree : ¬ ((s.port p).state == .recal && (s.port p).reeq && (s.port p).back != .failed && s.mayTrain p) = true := by
    have hrecal : ((s.port p).state == .recal) = false := by
      rcases hready with h | ⟨h, -⟩ <;> rw [h] <;> decide
    rw [hrecal]
    exact Bool.false_ne_true
  have hwaits : ¬ (!s.mayTrain p || !((s.port p).state == .training || (s.port p).state == .surveyed
      || (s.port p).state == .miscabled || ((s.port p).state == .down && (s.port p).failures == 0))) = true := by
    rcases hready with h | ⟨h, hnone⟩
    · simp [hmay, h]
    · simp [hmay, h, hnone]
  have hsurveyed : ¬ ((s.port p).state == .surveyed) = true := by simpa using hready.unsurveyed
  unfold Dev.train
  exact ⟨(if_neg hfree).trans ((if_neg hwaits).trans (if_neg hsurveyed)), fun _ => (if_neg hfree).trans (if_neg hwaits),
    fun _ _ _ _ => (if_neg hfree).trans (if_neg hwaits)⟩

/-! ### Out of service (R325, R542, R543) -/

theorem Dev.trainAgain_of_failed (hmay : s.mayTrain p = true) (hdown : (s.port p).state = .down)
    (hfailed : (s.port p).failures ≠ 0) : s.trainAgain p = s.setPortState p .training id := by
  unfold Dev.trainAgain
  exact if_pos (by simp [hmay, hdown, hfailed])

theorem Dev.lossOfLock_of_usable (h : (s.port p).state.usable = true) : s.lossOfLock p = s.retrain p := by
  unfold Dev.lossOfLock
  exact if_pos h

theorem Dev.setCable_in : s.setCable p true = s.modPort p fun q => { q with cable := true } := rfl

/-- A change of a port before it goes down. -/
theorem Dev.goesDown (g f : Port → Port) :
    (((s.modPort p g).setPortState p .down f).port p).standing = ({ f (g (s.port p)) with state := .down } : Port).standing
      ∧ ((s.modPort p g).setPortState p .down f).mem = s.mem := by
  have hport := s.port_modPort p p g
  rw [if_pos rfl] at hport
  exact ⟨hport ▸ Dev.setPortState_standing .., Dev.setPortState_mem ..⟩

theorem Dev.setCable_out (hdisabled : (s.port p).state ≠ .disabled) (hfailed : (s.port p).state ≠ .failed) :
    s.setCable p false = (s.modPort p fun q => { q with cable := false }).setPortState p .down
      fun q => { q.drop with failures := 0 } := by
  have hserved : ¬ (false || (s.port p).state == .disabled || (s.port p).state == .failed) = true := by
    simp [hdisabled, hfailed]
  unfold Dev.setCable
  exact if_neg hserved

theorem Dev.overcurrent_of_served (hdisabled : (s.port p).state ≠ .disabled) (hfailed : (s.port p).state ≠ .failed) :
    s.overcurrent p = (s.modPort p fun q => { q with powerCut := true }).setPortState p .down fun q => q.drop := by
  have hserved : ¬ ((s.port p).state == .disabled || (s.port p).state == .failed) = true := by
    simp [hdisabled, hfailed]
  unfold Dev.overcurrent
  exact if_neg hserved

/-! ### The outcomes of an attempt -/

/-- A failed attempt at a port that is ready. -/
theorem Dev.attempt_fails (hready : (s.port p).ready) :
    (((s.attempt p).trainFails p).port p).state = failedState (s.port p).failures
      ∧ (((s.attempt p).trainFails p).port p).failures = min ((s.port p).failures + 1) 3
      ∧ ((s.attempt p).trainFails p).mem = s.mem := by
  have hport := s.attempt_port p
  have hstate : ((s.attempt p).port p).state = (s.port p).state := (congrArg Port.state hport :)
  have hfailures : ((s.attempt p).port p).failures = (s.port p).failures := (congrArg Port.failures hport :)
  obtain ⟨hfails, hcount⟩ := (s.attempt p).trainFails_port p (hstate ▸ hready.unsurveyed)
  rw [hfailures] at hfails hcount
  exact ⟨hfails, hcount, ((s.attempt p).trainFails_mem p).trans (s.attempt_mem p)⟩

/-- An attempt with a healthy half of the lanes, at a port with the peer that it must find. -/
theorem Dev.attempt_bringsUp (st : PortState) (half : Bool) {peer : BitVec 16} {peerPort : Fin 8} {fabric : Bool}
    (hright : s.rightPeer p peer peerPort fabric = true) :
    let t := (s.attempt p).bringUp p st half peer peerPort fabric
    (t.port p).state = st ∧ (t.port p).half = half ∧ (t.port p).peer = peer ∧ (t.port p).expect = 0
      ∧ (t.port p).failures = 0 ∧ t.mem = s.mem := by
  obtain ⟨hport, hmem⟩ := (s.attempt p).bringUp_of_right p st half ((s.attempt_rightPeer p ..).trans hright)
  exact ⟨(congrArg Port.state hport :), (congrArg Port.half hport :), (congrArg Port.peer hport :),
    (congrArg Port.expect hport :), (congrArg Port.failures hport :), hmem.trans (s.attempt_mem p)⟩

/-- An attempt at a port with another peer. -/
theorem Dev.attempt_miscabled (st : PortState) (half : Bool) {peer : BitVec 16} {peerPort : Fin 8} {fabric : Bool}
    (hwrong : s.rightPeer p peer peerPort fabric = false) :
    (((s.attempt p).bringUp p st half peer peerPort fabric).port p).state = .miscabled
      ∧ ((s.attempt p).bringUp p st half peer peerPort fabric).mem = s.mem := by
  obtain ⟨hport, hmem⟩ := (s.attempt p).bringUp_of_wrong p st half ((s.attempt_rightPeer p ..).trans hwrong)
  exact ⟨hport, hmem.trans (s.attempt_mem p)⟩

end Training

/-- Settles O40: the lanes and the peer decide the outcome of an attempt; every change of a port's state keeps memory, and the
link state that it sends to the pod changes no port's standing. -/
theorem portsTrainAndLeaveService : Obligations.PortsTrainAndLeaveService := by
  unfold Obligations.PortsTrainAndLeaveService
  intro s p q
  refine ⟨fun hup hmay => ⟨fun hready => ?_, fun hdown hfailed => ⟨_, linkWork_clocked hup _, rfl, ?_⟩⟩,
    fun hup husable => ⟨_, linkWork_clocked hup _, rfl, ?_⟩, ⟨_, done_next .., rfl, ?_⟩,
    fun hdisabled hfailed => ⟨⟨_, done_next .., rfl, ?_⟩, ⟨_, done_next .., rfl, ?_⟩⟩⟩
  · obtain ⟨hnoPeer, hfails, hlanes⟩ := Dev.train_of_ready hmay hready
    refine ⟨fun low high peer peerPort fabric => ⟨fun hhalf hright => ⟨_, linkWork_clocked hup _, rfl, ?_⟩,
      fun hhalf hwrong => ⟨_, linkWork_clocked hup _, rfl, ?_⟩,
      fun hlow hhigh => ⟨_, linkWork_clocked hup _, rfl, ?_⟩⟩,
      ⟨_, linkWork_clocked hup _, rfl, ?_⟩, fun step => ⟨_, linkWork_clocked hup _, rfl, ?_⟩⟩ <;>
      simp only [Dev.linkScope_port, Dev.linkScope_mem]
    · simp only [hlanes, laneOutcome_of_half hhalf]
      exact s.dev.attempt_bringsUp p _ _ hright
    · simp only [hlanes, laneOutcome_of_half hhalf]
      exact s.dev.attempt_miscabled p _ _ hwrong
    · simp only [hlanes, laneOutcome_of_neither hlow hhigh]
      exact s.dev.attempt_fails p hready
    · rw [hnoPeer]
      have hport := s.dev.setPortState_standing p .down fun x => { x.drop with failures := 0 }
      exact ⟨(congrArg Port.state hport :), (congrArg Port.failures hport :), s.dev.setPortState_mem p ..⟩
    · rw [hfails]
      exact s.dev.attempt_fails p hready
  · simp only [Dev.linkScope_port, Dev.linkScope_mem, s.dev.trainAgain_of_failed p hmay hdown hfailed]
    exact ⟨s.dev.setPortState_state p .., s.dev.setPortState_mem p ..⟩
  · simp only [Dev.linkScope_port, Dev.linkScope_mem, s.dev.lossOfLock_of_usable p husable]
    exact ⟨s.dev.retrain_state p, s.dev.retrain_mem p⟩
  · simp only [Dev.linkScope_port, Dev.linkScope_mem, Dev.setCable_in, Dev.port_modPort, if_true]
    exact ⟨trivial, rfl, rfl⟩
  · simp only [Dev.linkScope_port, Dev.linkScope_mem, s.dev.setCable_out p hdisabled hfailed]
    obtain ⟨hport, hmem⟩ := s.dev.goesDown p (fun q => { q with cable := false }) fun q => { q.drop with failures := 0 }
    exact ⟨(congrArg Port.cable hport :), (congrArg Port.state hport :), hmem⟩
  · simp only [Dev.linkScope_port, Dev.linkScope_mem, s.dev.overcurrent_of_served p hdisabled hfailed]
    obtain ⟨hport, hmem⟩ := s.dev.goesDown p (fun q => { q with powerCut := true }) Port.drop
    exact ⟨(congrArg Port.powerCut hport :), (congrArg Port.state hport :), hmem⟩

end Sys2Proof.Machine

/-! WRITE and MESSAGE (R305, R315, R316, R391, R404), and the transfer of device time (R322 to R324). -/

namespace Sys2Proof.Machine

/-! ### WRITE (R305, R391) -/

section Write
variable {s t : Dev}

theorem Dev.ports_of_standing (h : t.standing = s.standing) : t.ports = s.ports := (congrArg (·.1.ports) h :)
theorem Dev.queues_of_standing (h : t.standing = s.standing) : t.queues = s.queues := (congrArg (·.1.queues) h :)
theorem Dev.rxWrites_of_standing (h : t.standing = s.standing) : t.rxWrites = s.rxWrites := (congrArg (·.1.rxWrites) h :)

variable (p : PortId) {f : Flit}

/-- What a message's flits have brought before one of them. -/
def Dev.broughtBefore (s : Dev) (f : Flit) : List PByte := if f.first then [] else Tab.get [] s.rxWrites (seqKey f.src f.vc)

/-- The device with what it has gathered of a message. -/
def Dev.gathering (s : Dev) (f : Flit) (data : List PByte) : Dev :=
  { s with rxWrites := Tab.set [] s.rxWrites (seqKey f.src f.vc) data }

/-- A WRITE flit for this device of a sender that is not stale. -/
def Dev.takesWrite (s : Dev) (f : Flit) : Prop := f.type = 2 ∧ f.dst = s.number ∧ s.staleFlit f = false

theorem Dev.takesWrite.not_refused (h : s.takesWrite f) : ¬ (f.type != 2 || f.dst != s.number || s.staleFlit f) = true := by
  obtain ⟨htype, hdst, hstale⟩ := h
  simp [htype, hdst, hstale]

theorem Dev.takeWrite_of_more (h : s.takesWrite f) (hmore : f.last = false) :
    s.takeWrite p f = s.gathering f (s.broughtBefore f ++ f.data) := by
  unfold Dev.takeWrite
  exact (if_neg h.not_refused).trans (if_pos (by simp [hmore]))

theorem Dev.takeWrite_of_last (h : s.takesWrite f) (hlast : f.last = true)
    (hpart : ¬ ((s.broughtBefore f ++ f.data).length = 4096 ∧ f.sectors = 2)) :
    s.takeWrite p f =
      (s.gathering f []).writeTarget p f (f.addr - (s.broughtBefore f).length) (s.broughtBefore f ++ f.data) := by
  have hwhole : ¬ (!f.last) = true := by simp [hlast]
  unfold Dev.takeWrite
  exact (if_neg h.not_refused).trans ((if_neg hwhole).trans (if_neg hpart))

/-- Beside mirrors, a message to a holding's memory is a write through its translation. -/
theorem Dev.writeTarget_of_holding {h : HoldId} (howner : f.owner = h.val) (hserve : s.serveAt f.src.toNat = none)
    (addr : Nat) (data : List PByte) : s.writeTarget p f addr data = s.writeVa (linkAgent p h) false addr data := by
  have hholding : ¬ 8 ≤ f.owner := by omega
  have hid : (Fin.ofNat 8 f.owner : HoldId) = h := Fin.ext (by simp [howner])
  simp only [Dev.writeTarget, hserve, Dev.writeOwner, if_neg hholding, hid]

end Write

/-! ### MESSAGE (R315, R316, R320, R404) -/

section Messages
variable (s : Dev) (p : PortId) {from' : Sender}

theorem Dev.takeMessage_stale (m : GotreMsg) (h : s.staleSender from' = true) : s.takeMessage p from' m = s := by
  unfold Dev.takeMessage
  exact if_pos h

variable (h : s.staleSender from' = false)
include h

theorem Dev.takeMessage_linkState (pos : Fin 64) (bits : BitVec 6) :
    s.takeMessage p from' (.linkState pos bits) = { s with linkState := Tab.set 0 s.linkState pos.val bits } := by
  unfold Dev.takeMessage
  exact if_neg (Bool.eq_false_iff.1 h)

theorem Dev.takeMessage_abortFence (origin : BitVec 16) (k : HoldId) (e : BitVec 16) :
    s.takeMessage p from' (.abortFence origin k e) = s.takeNotice (some p) origin k e := by
  unfold Dev.takeMessage
  exact if_neg (Bool.eq_false_iff.1 h)

/-- The slot that the next complete generation of a buddy takes. -/
def MirrorServe.nextSlot (v : MirrorServe) : Fin 2 := match v.complete with | some (0, _) => 1 | _ => 0

/-- A mirror with a complete generation of a step in its next slot, and the CRCs of its ranges. -/
def MirrorServe.completed (v : MirrorServe) (s : Dev) (step : Word32) (ranges : List Nat) : MirrorServe :=
  { v with complete := some (v.nextSlot, step)
           crcs := s.rangeCrcs (farBase / 4096 + v.firstRegion * regionBlocks
             + v.nextSlot.val * (v.regions * regionBlocks / 2)) ranges }

theorem Dev.takeMessage_mirrorComplete {v : MirrorServe} (hserve : s.serveAt from'.device.toNat = some v) (step : Word32)
    (ranges : List Nat) :
    s.takeMessage p from' (.mirrorComplete from'.device step ranges) =
      { s with serves := Tab.set none s.serves from'.device.toNat (some (v.completed s step ranges)) } := by
  unfold Dev.takeMessage
  rw [if_neg (Bool.eq_false_iff.1 h)]
  simp only [hserve, bne_self_eq_false, Bool.false_eq_true, if_false]
  rfl

end Messages

/-! ### Abort notices (R290, R315, R320) -/

section Notices
variable (s : Dev) (h : HoldId)

theorem Dev.freeTags_tells : s.Tells (s.freeTags h) := by
  unfold Dev.freeTags
  split
  · exact .refl s
  · exact .of_eq rfl rfl

theorem Dev.countDrill_tells (die off n : Nat) : s.Tells (s.countDrill h die off n) := by
  unfold Dev.countDrill
  split
  · exact .refl s
  · exact s.count_tells ..

theorem Dev.cancelBatch_tells (tag : Word32) (cause : CancelCause) (group : Option Nat) :
    s.Tells (s.cancelBatch h tag cause group) := by
  unfold Dev.cancelBatch
  extract_lets x new b s1 s2 s3
  split
  · exact s.freeTags_tells h
  · have h1 : s.Tells s1 := (Dev.Tells.foldl (fun d m => d.count_tells ..) s b.waiting).trans (.of_eq rfl rfl)
    have h2 : s1.Tells s2 := .foldl (fun d m => d.send_tells ..) _ _
    have h3 : s2.Tells s3 := by
      simp only [s3]
      split
      · exact .refl s2
      · exact .foldl (fun d k => (d.countDrill_tells h k 0x40 1).trans (Dev.event_tells ..)) _ _
    exact ((h1.trans h2).trans h3).trans (s3.freeTags_tells h)

theorem Dev.drillLost_tells (dev : BitVec 16) (owner : Option HoldId) : s.Tells (s.drillLost h dev owner) :=
  .foldl (fun d _ => d.cancelBatch_tells ..) _ _

/-- A notice that this device has not passed on teaches its epoch, goes on by the sideband, and reaches the Drills. -/
theorem Dev.takeNotice_tells (from' : Option PortId) {origin e : BitVec 16} (hother : origin ≠ s.number) (hepoch : e ≠ 0)
    (hnew : Tab.get 0 s.notices (epochKey origin h.val) = 0)
    (hnewer : s.knownEpoch origin h.val = 0 ∨ epochOlder e (s.knownEpoch origin h.val) = false) :
    ({ s with notices := Tab.set 0 s.notices (epochKey origin h.val) e
              epochs := Tab.set 0 s.epochs (epochKey origin h.val) e } : Dev).Tells (s.takeNotice from' origin h e) := by
  have hpass : ¬ (decide (origin = s.number) || decide (Tab.get 0 s.notices (epochKey origin h.val) = e)
      || (Tab.get 0 s.notices (epochKey origin h.val) != 0 && epochOlder e (Tab.get 0 s.notices (epochKey origin h.val)))) = true := by
    rw [hnew]
    simpa [hother] using hepoch.symm
  have hlearn : ¬ (s.knownEpoch origin h.val != 0 && epochOlder e (s.knownEpoch origin h.val)) = true := by
    rcases hnewer with hzero | holder
    · simp [hzero]
    · simp [holder]
  unfold Dev.takeNotice
  extract_lets known passed s0 s1 s2
  rw [if_neg hpass]
  have h1 : s1 = { s with notices := Tab.set 0 s.notices (epochKey origin h.val) e
                          epochs := Tab.set 0 s.epochs (epochKey origin h.val) e } := if_neg hlearn
  have h2 : s1.Tells s2 := .of_eq rfl rfl
  exact h1 ▸ h2.trans (.foldl (fun d k => d.drillLost_tells ..) _ _)

/-- The link state that the device sends counts for no holding. -/
theorem Dev.tellLinks_holdings : s.tellLinks.holdings = s.holdings := by
  unfold Dev.tellLinks
  split
  · rfl
  · exact foldl_preserves Dev.holdings (fun d n => d.send_device_holdings ..) _ _

end Notices

/-! ### A question of a child (R323) -/

section Question
variable (s : Dev) (p : PortId)

/-- A flit is formed of the device's number, the port's peer and the place in the sequence, which sending leaves alone. -/
theorem Dev.formFlit_of_sends {s t : Dev} (h : s.Sends t) (p : PortId) (lseq : BitVec 12) (i : PortItem) :
    t.formFlit p lseq i = s.formFlit p lseq i := by
  have hregs : t.regs = s.regs := (congrArg Dev.regs h.unsent :)
  have hpeer : (t.port p).peer = (s.port p).peer := (congrArg Port.peer (h.standing p) :)
  have hexpect : (t.port p).expect = (s.port p).expect := (congrArg Port.expect (h.standing p) :)
  simp only [Dev.formFlit, Dev.number, Dev.reg, hregs, hpeer, hexpect]

theorem Dev.sendFlit_queue (i : PortItem) : ((s.sendFlit p i).port p).queue = (s.port p).queue := by
  have hport := s.port_modPort p p fun x =>
    { x with nextLseq := x.nextLseq + 1, replay := x.replay ++ [(x.nextLseq, i)]
             credits := Tab.modify 0 x.credits (chanKey i.vc i.cls) (· - 1) }
  rw [if_pos rfl] at hport
  exact (congrArg Port.queue hport :)

theorem Dev.sendFlit_outbox (i : PortItem) :
    (s.sendFlit p i).outbox = s.outbox ++ [.flit p (s.formFlit p (s.port p).nextLseq i)] := rfl

theorem mem_dropFirst {α : Type} [DecidableEq α] {x : α} (y : α) {l : List α} (h : x ∈ l) : x = y ∨ x ∈ dropFirst y l := by
  induction l with
  | nil => exact absurd h List.not_mem_nil
  | cons z l ih =>
    unfold dropFirst
    split
    next hyz => exact (List.mem_cons.1 h).imp_left (·.trans hyz.symm)
    next => exact (List.mem_cons.1 h).elim (fun hz => .inr (hz ▸ List.mem_cons_self)) fun hl => (ih hl).imp_right (List.mem_cons_of_mem _)

/-- A flit that a device has given to a port waits there, or has left by it. -/
def Dev.waitsOrLeft (s t : Dev) (p : PortId) (i : PortItem) : Prop :=
  i ∈ (t.port p).queue ∨ ∃ lseq, Emit.flit p (s.formFlit p lseq i) ∈ t.outbox

variable {s p} {s0 : Dev} {i : PortItem}

theorem Dev.waitsOrLeft.sendFlit (h : s0.waitsOrLeft s p i) (j : PortItem) : s0.waitsOrLeft (s.sendFlit p j) p i :=
  h.imp (fun hwaits => (s.sendFlit_queue p j).symm ▸ hwaits) fun ⟨lseq, hleft⟩ =>
    ⟨lseq, s.sendFlit_outbox p j ▸ List.mem_append_left _ hleft⟩

theorem Dev.waitsOrLeft.modPort (h : s0.waitsOrLeft s p i) {f : Port → Port} (hqueue : ∀ q, (f q).queue = q.queue) :
    s0.waitsOrLeft (s.modPort p f) p i := by
  have hport := s.port_modPort p p f
  rw [if_pos rfl] at hport
  exact h.imp_left fun hwaits => by rwa [hport, hqueue]

/-- A flit taken from the queue leaves. -/
theorem Dev.waitsOrLeft.take (h : s0.waitsOrLeft s p i) (hsends : s0.Sends s) {j : PortItem} {f : Port → Port}
    (hf : ∀ q, (f q).standing = q.standing) (hqueue : ∀ q, (f q).queue = dropFirst j q.queue) :
    s0.waitsOrLeft ((s.modPort p f).sendFlit p j) p i := by
  have hport := s.port_modPort p p f
  rw [if_pos rfl] at hport
  rcases h with hwaits | ⟨lseq, hleft⟩
  · rcases mem_dropFirst j hwaits with rfl | hstays
    · refine .inr ⟨((s.modPort p f).port p).nextLseq, ?_⟩
      rw [← Dev.formFlit_of_sends (hsends.trans (s.modPort_sends p hf)), Dev.sendFlit_outbox]
      exact List.mem_append_right _ List.mem_cons_self
    · refine Dev.waitsOrLeft.sendFlit (.inl ?_) j
      rwa [hport, hqueue]
  · exact Dev.waitsOrLeft.sendFlit (s := s.modPort p f) (.inr ⟨lseq, hleft⟩) j

theorem Dev.waitsOrLeft.drainPort (h : s0.waitsOrLeft s p i) (hsends : s0.Sends s) (n : Nat) :
    s0.waitsOrLeft (s.drainPort p n) p i := by
  induction n generalizing s with
  | zero => exact h
  | succ n ih =>
    unfold Dev.drainPort
    split
    next j rest _ =>
      split
      · refine ih (.sendFlit ?_ j) (hsends.trans (.of_modPort (Dev.sendFlit_sends ..) fun _ => rfl))
        exact h.modPort fun _ => rfl
      · exact h
    next =>
      split
      · exact h
      next j _ =>
        exact ih (h.take hsends (fun _ => rfl) fun _ => rfl)
          (hsends.trans (.of_modPort (Dev.sendFlit_sends ..) fun _ => rfl))

/-- A flit given to a port waits there or leaves. -/
theorem Dev.toPort_waitsOrLeft (s : Dev) (p : PortId) (i : PortItem) : s.waitsOrLeft (s.toPort p [i]) p i := by
  have hsends : s.Sends (s.modPort p fun x => { x with queue := x.queue ++ [i] }) := s.modPort_sends p fun _ => rfl
  have hport := s.port_modPort p p fun x => { x with queue := x.queue ++ [i] }
  rw [if_pos rfl] at hport
  have hwaits : s.waitsOrLeft (s.modPort p fun x => { x with queue := x.queue ++ [i] }) p i :=
    .inl (by rw [hport]; exact List.mem_append_right _ List.mem_cons_self)
  unfold Dev.toPort Dev.drain
  split
  · exact hwaits
  · exact hwaits.drainPort hsends _

end Question

/-! ### Exchanges and stamps (R322 to R324) -/

section Time
variable (s : Dev)

/-- The synchronisation as an exchange begins: one that is still open has been missed. -/
def TimeSync.exchange (x : TimeSync) : TimeSync :=
  let missed := if x.exchanging then x.missed + 1 else x.missed
  { x with exchanging := true, missed := missed, state := if 16 ≤ missed then 0 else x.state
           good := if 16 ≤ missed then 0 else x.good }

theorem Dev.timeExchange_sends (hmaster : s.isMaster = false)
    (hparent : ((s.reg (klxReg 0 0x304)).setWidth 4 : BitVec 4).toNat < 8) :
    ({ s with time := s.time.exchange } : Dev).Sends s.timeExchange := by
  have hchild : ¬ (s.isMaster || decide (8 ≤ ((s.reg (klxReg 0 0x304)).setWidth 4 : BitVec 4).toNat)) = true := by
    simpa [hmaster] using hparent
  unfold Dev.timeExchange
  extract_lets parent missed t p
  rw [if_neg hchild]
  exact Dev.toPort_sends ..

/-- The offset that the four stamps give, from the sum of their differences: half an odd sum goes up or down (R323). -/
def Dev.offsetOf (sum : Int) : Int := halfDown sum + (if sum % 2 ≠ 0 ∧ s.takeFree.1.getLsbD 0 then 1 else 0)

theorem Dev.two_mul_offsetOf (sum : Int) :
    2 * s.offsetOf sum = sum ∨ 2 * s.offsetOf sum = sum - 1 ∨ 2 * s.offsetOf sum = sum + 1 := by
  unfold Dev.offsetOf halfDown
  split
  · omega
  · omega

/-- The synchronisation as an answer has come with an offset. -/
def TimeSync.answered (x : TimeSync) (off : Int) : TimeSync := { x with exchanging := false, missed := 0, offset := off }

/-- Some holding is enabled. -/
def Dev.anyEnabled : Bool := allHoldings.any fun h => (s.holding h).state == .enabled

theorem Dev.anyEnabled_iff : s.anyEnabled = true ↔ ∃ h : HoldId, (s.holding h).state = .enabled := by
  simp [Dev.anyEnabled, allHoldings]

/-- The device as its time is stepped by an offset. -/
def Dev.stepped (off : Int) : Dev :=
  ({ s.takeFree.2 with
      dt := s.dt + BitVec.ofInt 64 (off / 16), time := { s.time.answered off with slew := 0, good := 0, state := 1 } } :
    Dev).count none (klxReg 0 0x318) 1

/-- The synchronisation as an answer has come whose offset is slewed: four good exchanges lock it, and an offset above four
ticks loses the lock. -/
def TimeSync.slewed (x : TimeSync) (off : Int) : TimeSync :=
  let good := if off.natAbs ≤ 16 then min (x.good + 1) 4 else 0
  { x.answered off with
    slew := off.tdiv 16, good := good
    state := if 4 ≤ good then 2 else if x.state == 2 && !(x.state == 2 && decide (64 < off.natAbs)) then 2 else 1 }

/-- The loss of a lock is counted and shown. -/
def Dev.lostLock : Dev := (s.count none (klxReg 0 0x310) 1).event (linkEvent 0) 0x80

variable {s}

/-- An offset of more than 2^20 ticks with no holding enabled steps the time (R323). -/
theorem Dev.takeTime_steps {t1 t2 t3 t4 : Int} (hmaster : s.isMaster = false) (hopen : s.time.exchanging = true)
    (hfar : 16777216 < (s.offsetOf ((t2 - t1) - (t4 - t3))).natAbs) (hnone : s.anyEnabled = false) :
    let off := s.offsetOf ((t2 - t1) - (t4 - t3))
    let t := s.takeTime t1 t2 t3 t4
    t.time = { s.time.answered off with slew := 0, good := 0, state := 1 } ∧ t.dt = s.dt + BitVec.ofInt 64 (off / 16)
      ∧ t.ctr (klxReg 0 0x318) = addStop64 (s.ctr (klxReg 0 0x318)) 1
      ∧ t.ctr (klxReg 0 0x310) = addStop64 (s.ctr (klxReg 0 0x310)) (if s.time.state = 2 then 1 else 0)
      ∧ t.mem = s.mem := by
  intro off t
  have hfree : ¬ (s.isMaster || !s.time.exchanging) = true := by simp [hmaster, hopen]
  have hstep : (decide (16777216 < off.natAbs) && !s.anyEnabled) = true := by simp [hnone, off, hfar]
  have hrun : t = if s.time.state == 2 then (s.stepped off).lostLock else s.stepped off := by
    simp only [t]
    unfold Dev.takeTime
    exact (if_neg hfree).trans (if_pos hstep)
  have hsteps : (s.stepped off).ctr (klxReg 0 0x318) = addStop64 (s.ctr (klxReg 0 0x318)) 1 := Dev.ctr_count_same _ none ..
  have hlosses : (s.stepped off).ctr (klxReg 0 0x310) = s.ctr (klxReg 0 0x310) := Dev.ctr_countKlx_ne _ none 0 0 1 (by decide)
  rw [hrun]
  by_cases hlocked : s.time.state = 2
  · rw [if_pos (beq_iff_eq.2 hlocked), if_pos hlocked]
    exact ⟨rfl, rfl, (Dev.ctr_countKlx_ne _ none 0 0 1 (by decide)).trans hsteps,
      (Dev.ctr_count_same _ none ..).trans (congrArg (addStop64 · 1) hlosses), rfl⟩
  · rw [if_neg (mt beq_iff_eq.1 hlocked), if_neg hlocked, addStop64_zero]
    exact ⟨rfl, rfl, hsteps, hlosses, rfl⟩

/-- Any other offset is slewed, a sixteenth of it at a time (R323). -/
theorem Dev.takeTime_slews {t1 t2 t3 t4 : Int} (hmaster : s.isMaster = false) (hopen : s.time.exchanging = true)
    (hnear : (s.offsetOf ((t2 - t1) - (t4 - t3))).natAbs ≤ 16777216 ∨ s.anyEnabled = true) :
    let off := s.offsetOf ((t2 - t1) - (t4 - t3))
    let t := s.takeTime t1 t2 t3 t4
    t.time = s.time.slewed off ∧ t.dt = s.dt ∧ t.mem = s.mem := by
  intro off t
  have hfree : ¬ (s.isMaster || !s.time.exchanging) = true := by simp [hmaster, hopen]
  have hslew : ¬ (decide (16777216 < off.natAbs) && !s.anyEnabled) = true := by
    rcases hnear with h | h
    · simp [off, Nat.not_lt.2 h]
    · simp [h]
  have hrun : t = if s.time.state == 2 && decide (64 < off.natAbs)
      then ({ s.takeFree.2 with time := s.time.slewed off } : Dev).lostLock
      else { s.takeFree.2 with time := s.time.slewed off } := by
    simp only [t]
    unfold Dev.takeTime
    exact (if_neg hfree).trans (if_neg hslew)
  rw [hrun]
  split
  · exact ⟨rfl, rfl, rfl⟩
  · exact ⟨rfl, rfl, rfl⟩

end Time

/-- What an answer does, in one: the stamps give the offset, and the enabled holdings decide between a step and a slew. -/
theorem Dev.takeTime_follows {s : Dev} {t1 t2 t3 t4 : Int} (hmaster : s.isMaster = false) (hopen : s.time.exchanging = true) :
    let sum := (t2 - t1) - (t4 - t3)
    let t := s.takeTime t1 t2 t3 t4
    t.time.exchanging = false ∧ t.time.missed = 0
      ∧ (2 * t.time.offset = sum ∨ 2 * t.time.offset = sum - 1 ∨ 2 * t.time.offset = sum + 1)
      ∧ ((∀ h : HoldId, (s.holding h).state ≠ .enabled) → 16777216 < t.time.offset.natAbs →
          t.dt = s.dt + BitVec.ofInt 64 (t.time.offset / 16) ∧ t.time.slew = 0 ∧ t.time.state = 1
          ∧ t.ctr (klxReg 0 0x318) = addStop64 (s.ctr (klxReg 0 0x318)) 1
          ∧ t.ctr (klxReg 0 0x310) = addStop64 (s.ctr (klxReg 0 0x310)) (if s.time.state = 2 then 1 else 0))
      ∧ ((∃ h : HoldId, (s.holding h).state = .enabled) ∨ t.time.offset.natAbs ≤ 16777216 →
          t.dt = s.dt ∧ t.time.slew = t.time.offset.tdiv 16)
      ∧ t.mem = s.mem := by
  intro sum t
  have hhalf := s.two_mul_offsetOf sum
  by_cases hstep : 16777216 < (s.offsetOf sum).natAbs ∧ s.anyEnabled = false
  · obtain ⟨hfar, hnone⟩ := hstep
    obtain ⟨htime, hdt, hsteps, hlosses, hmem⟩ := Dev.takeTime_steps hmaster hopen hfar hnone
    have hoff : t.time.offset = s.offsetOf sum := (congrArg TimeSync.offset htime :)
    have hslew : t.time.slew = 0 := (congrArg TimeSync.slew htime :)
    have hstate : t.time.state = 1 := (congrArg TimeSync.state htime :)
    refine ⟨(congrArg TimeSync.exchanging htime :), (congrArg TimeSync.missed htime :), hoff ▸ hhalf,
      fun _ _ => ⟨hoff ▸ hdt, hslew, hstate, hsteps, hlosses⟩, fun hnear => ?_, hmem⟩
    rcases hnear with hany | hnear
    · exact absurd (s.anyEnabled_iff.2 hany) (Bool.eq_false_iff.1 hnone)
    · exact absurd hfar (Nat.not_lt.2 (hoff ▸ hnear))
  · have hnear : (s.offsetOf sum).natAbs ≤ 16777216 ∨ s.anyEnabled = true := by
      simpa only [not_and_or, Nat.not_lt, Bool.not_eq_false] using hstep
    obtain ⟨htime, hdt, hmem⟩ := Dev.takeTime_slews hmaster hopen hnear
    have hoff : t.time.offset = s.offsetOf sum := (congrArg TimeSync.offset htime :)
    have hslew : t.time.slew = (s.offsetOf sum).tdiv 16 := (congrArg TimeSync.slew htime :)
    refine ⟨(congrArg TimeSync.exchanging htime :), (congrArg TimeSync.missed htime :), hoff ▸ hhalf,
      fun hnone hfar => ?_, fun _ => ⟨hdt, hoff ▸ hslew⟩, hmem⟩
    rcases hnear with hnear | hany
    · exact absurd (hoff ▸ hfar) (Nat.not_lt.2 hnear)
    · obtain ⟨k, hk⟩ := s.anyEnabled_iff.1 hany
      exact absurd hk (hnone k)

/-- Settles O39: a sender that is not stale reaches the table that its message names; what is sent in turn changes ports,
numbers, counters and events alone. -/
theorem messagesArriveAndTimeFollows : Obligations.MessagesArriveAndTimeFollows := by
  unfold Obligations.MessagesArriveAndTimeFollows
  refine ⟨fun s p hup => ⟨fun f htype hdst hfresh => ?_, fun src pos bits hfresh => ⟨_, linkWork_clocked hup _, rfl, ?_⟩,
      fun src step ranges v hserve hfresh => ⟨_, linkWork_clocked hup _, rfl, ?_⟩, fun src m hstale => ?_,
      fun src origin h e hother hepoch hfresh hnew hnewer => ⟨_, linkWork_clocked hup _, rfl, ?_⟩,
      fun hvalid => ⟨_, linkWork_clocked hup _, rfl, ?_⟩⟩,
    fun s hup hmaster => ⟨fun hparent => ⟨_, linkWork_clocked hup _, rfl, ?_⟩,
      fun t1 t2 t3 t4 hopen => ⟨_, linkWork_clocked hup _, rfl, ?_⟩⟩,
    fun s p t1 t2 t3 hup husable => ⟨_, linkWork_clocked hup _, rfl, ?_⟩⟩
  · have htakes : s.dev.takesWrite f := ⟨htype, hdst, hfresh⟩
    refine ⟨fun hmore => ⟨_, linkWork_clocked hup _, rfl, ?_⟩,
      fun h hlast howner hserve hpart => ⟨_, linkWork_clocked hup _, rfl, ?_⟩⟩ <;>
      simp only [Dev.linkScope_mem, Dev.linkScope_rxWrites, Dev.linkScope_tags, Dev.linkScope_queues, Dev.linkScope_ports]
    · rw [Dev.takeWrite_of_more p htakes hmore]
      exact ⟨Laws.Tab.get_set_same .., rfl, rfl⟩
    · rw [Dev.takeWrite_of_last p htakes hlast hpart, Dev.writeTarget_of_holding (s := s.dev.gathering f []) p howner hserve]
      have hstands := (s.dev.gathering f []).writeVa_standing (linkAgent p h) false (f.addr - (s.dev.broughtBefore f).length)
        (s.dev.broughtBefore f ++ f.data)
      exact ⟨(congrArg (Tab.get [] · _) (Dev.rxWrites_of_standing hstands)).trans (Laws.Tab.get_set_same ..), rfl,
        (Dev.queues_of_standing hstands :), (Dev.ports_of_standing hstands :)⟩
  · simp only [Dev.linkScope_linkState, Dev.linkScope_mem, Dev.linkScope_holdings, s.dev.takeMessage_linkState p hfresh]
    exact ⟨fun i => Laws.Tab.get_set .., trivial, trivial⟩
  · simp only [Dev.linkScope_serves, Dev.linkScope_mem, s.dev.takeMessage_mirrorComplete p hfresh hserve]
    exact ⟨Laws.Tab.get_set_same .., trivial⟩
  · have hexec : exec (.message p src m) s = .next { s with dev := s.dev.linkScope (s.dev.takeMessage p src m) } :=
      linkWork_clocked hup _
    rwa [s.dev.takeMessage_stale p m hstale, Dev.linkScope_self] at hexec
  · have htells := s.dev.takeNotice_tells h (some p) hother hepoch hnew hnewer
    simp only [Dev.knownEpoch, Dev.linkScope_epochs, Dev.linkScope_mem, s.dev.takeMessage_abortFence p hfresh]
    exact ⟨(congrArg (Tab.get 0 · _) htells.epochs).trans (Laws.Tab.get_set_same ..), htells.mem⟩
  · have htells := s.dev.tellLinks_tells hvalid
    simp only [Dev.linkScope_linkSent, Dev.linkScope_mem, Dev.linkScope_holdings]
    exact ⟨htells.linkSent, htells.mem, s.dev.tellLinks_holdings⟩
  · have hsends := s.dev.timeExchange_sends hmaster hparent
    simp only [Dev.linkScope_time, Dev.linkScope_dt, Dev.linkScope_mem, hsends.time]
    exact ⟨rfl, rfl, rfl, hsends.dt, hsends.mem⟩
  · simp only [Dev.linkScope_time, Dev.linkScope_dt, Dev.linkScope_mem, Dev.linkScope_ctr]
    exact Dev.takeTime_follows hmaster hopen
  · have hanswers : s.dev.answerTime p t1 t2 t3 = s.dev.toPort p [s.dev.timeItem p (.timeAnswer t1 t2 t3)] := if_pos husable
    have hsends := s.dev.toPort_sends p [s.dev.timeItem p (.timeAnswer t1 t2 t3)]
    simp only [Dev.linkScope_time, Dev.linkScope_dt, Dev.linkScope_mem, Dev.linkScope_port, Dev.linkScope_outbox, hanswers]
    exact ⟨hsends.time, hsends.dt, s.dev.toPort_waitsOrLeft p _, hsends.mem⟩

end Sys2Proof.Machine

/-! The windows of a reduction at its owner (R344 to R350): where a chunk stands in its window and a window in its holding,
and what the closing of a chunk makes of its blocks. -/

namespace Sys2Proof.Machine

/-! ### Chunks of a window (R345, R348) -/

section Chunks
variable (w : RedWindow) (c : Nat)

theorem find?_insertChunk (k : RedChunk) (l : List RedChunk) :
    (insertChunk k l).find? (fun q => q.chunk == c) = if k.chunk = c then some k else l.find? fun q => q.chunk == c := by
  induction l with
  | nil => by_cases hk : k.chunk = c <;> simp [insertChunk, hk]
  | cons a t ih =>
    unfold insertChunk
    split
    next hbefore => by_cases hk : k.chunk = c <;> simp [hk]
    next =>
      split
      next hsame => by_cases hk : k.chunk = c <;> simp [hk, ← hsame]
      next hother =>
        by_cases ha : a.chunk = c
        · simp [ha, ha ▸ hother]
        · simp [ha, ih]

@[simp] theorem RedWindow.chunk_chunk : (w.chunk c).chunk = c := by
  unfold RedWindow.chunk
  cases hfind : w.chunks.find? fun k => k.chunk == c with
  | none => rfl
  | some k => simpa using List.find?_some hfind

theorem RedWindow.chunk_setChunk (k : RedChunk) : (w.setChunk k).chunk c = if k.chunk = c then k else w.chunk c := by
  simp only [RedWindow.chunk, RedWindow.setChunk, find?_insertChunk]
  split <;> rfl

/-- A chunk that is put back under its own number takes its place, and the other chunks stand. -/
theorem RedWindow.chunk_setChunk_of {k : RedChunk} (hk : k.chunk = c) (d : Nat) :
    (w.setChunk k).chunk d = if c = d then k else w.chunk d := by
  rw [RedWindow.chunk_setChunk, hk]

/-- Which phases of a window have closed, and the DATA messages that each of its chunks has accepted (R346, R348). -/
def RedWindow.taken : (Bool × Bool) × (Nat → List (Nat × Nat)) :=
  ((w.scaleClosed, w.dataClosed), fun c => (w.chunk c).accepted)

/-- A chunk put back with what it had accepted changes nothing of that. -/
theorem RedWindow.setChunk_taken {k : RedChunk} (hk : k.chunk = c) (hacc : k.accepted = (w.chunk c).accepted) :
    (w.setChunk k).taken = w.taken := by
  refine Prod.ext rfl (funext fun d => ?_)
  change ((w.setChunk k).chunk d).accepted = (w.chunk d).accepted
  rw [w.chunk_setChunk_of c hk]
  split
  next hd => rw [hacc, hd]
  next => rfl

/-- To mark the blocks that are complete is to accept nothing more. -/
theorem RedWindow.finish_taken : (w.finish c).taken = w.taken := by
  unfold RedWindow.finish
  extract_lets k
  split
  · rfl
  · exact w.setChunk_taken c (w.chunk_chunk c) rfl

end Chunks

/-! ### Chunks that are closed (R350) -/

section Closing

theorem RedWindow.chunkFinal_iff {w : RedWindow} {c : Nat} :
    w.chunkFinal c = true ↔ ∀ b < w.policy.blocksIn c, (Tab.get {} (w.chunk c).blocks b).final = true := by
  simp [RedWindow.chunkFinal]

/-- A block in the list is final after the fold, and a final one stays so. -/
theorem foldl_final (l : List Nat) (t : Tab RedBlock) {b : Nat} (h : b ∈ l ∨ (Tab.get {} t b).final = true) :
    (Tab.get {} (l.foldl (fun t b => Tab.modify {} t b fun q => { q with final := true }) t) b).final = true := by
  induction l generalizing t with
  | nil => simpa using h
  | cons a l ih =>
    refine ih _ ?_
    by_cases hb : b = a
    · right
      rw [hb, Laws.Tab.get_modify_same]
    · rw [Laws.Tab.get_modify_ne _ _ _ hb]
      simpa [hb] using h

/-- A chunk answered, with its first n blocks final. -/
def RedChunk.closed (k : RedChunk) (n : Nat) : RedChunk :=
  { k with
    replied := true
    blocks := (List.range n).foldl (fun t b => Tab.modify {} t b fun q => { q with final := true }) k.blocks }

variable {w : RedWindow} {c : Nat}

theorem RedWindow.closeChunk_chunk (w : RedWindow) (d c : Nat) :
    (w.closeChunk d).chunk c = if d = c then (w.chunk d).closed (w.policy.blocksIn d) else w.chunk c :=
  w.chunk_setChunk_of d (k := (w.chunk d).closed (w.policy.blocksIn d)) (w.chunk_chunk d) c

theorem RedWindow.closeChunk_final (w : RedWindow) (c : Nat) : (w.closeChunk c).chunkFinal c = true := by
  refine RedWindow.chunkFinal_iff.2 fun b hb => ?_
  rw [RedWindow.closeChunk_chunk, if_pos rfl]
  exact foldl_final _ _ (.inl (List.mem_range.2 hb))

theorem RedWindow.closeChunk_keeps_final (h : w.chunkFinal c = true) (d : Nat) : (w.closeChunk d).chunkFinal c = true := by
  refine RedWindow.chunkFinal_iff.2 fun b hb => ?_
  have hfinal := RedWindow.chunkFinal_iff.1 h b hb
  rw [RedWindow.closeChunk_chunk]
  split
  next hd => exact foldl_final _ _ (.inr (hd ▸ hfinal))
  next => exact hfinal

/-- Every chunk that a deadline closes is final in the end. -/
theorem RedWindow.closeChunks_final (w : RedWindow) {cs : List Nat} (hc : c ∈ cs) :
    (cs.foldl (fun v c => v.closeChunk c) w).chunkFinal c = true := by
  have hkeeps : ∀ (l : List Nat) (v : RedWindow), v.chunkFinal c = true →
      (l.foldl (fun v c => v.closeChunk c) v).chunkFinal c = true := fun l v hv =>
    List.foldlRecOn l _ (motive := fun v : RedWindow => v.chunkFinal c = true) hv
      fun _ h d _ => RedWindow.closeChunk_keeps_final h d
  obtain ⟨front, back, rfl⟩ := List.append_of_mem hc
  rw [List.foldl_append, List.foldl_cons]
  exact hkeeps back _ (RedWindow.closeChunk_final _ c)

end Closing

/-! ### Windows of a holding (R344, R348) -/

theorem Holding.window_of_mem {x : Holding} {p : PortId} {g r i : Nat} {w : RedWindow} (h : (i, w) ∈ x.windowsOf p g r) :
    x.windows[i]? = some w := by
  simp only [Holding.windowsOf, List.mem_filterMap, List.mem_range, Option.bind_eq_some_iff] at h
  obtain ⟨j, -, v, hv, hserves⟩ := h
  split at hserves <;> cases hserves
  exact hv

theorem Dev.setWindow_cores (s : Dev) (h : HoldId) (i : Nat) (w : RedWindow) : (s.setWindow h i w).cores = s.cores := rfl
theorem Dev.setWindow_dt (s : Dev) (h : HoldId) (i : Nat) (w : RedWindow) : (s.setWindow h i w).dt = s.dt := rfl

theorem Dev.window_setWindow {s : Dev} {h : HoldId} {i : Nat} {w : RedWindow} (hw : s.window h i = some w) (v : RedWindow) :
    (s.setWindow h i v).window h i = some v := by
  have hlt : i < (s.holding h).windows.length := (List.getElem?_eq_some_iff.1 hw).1
  rw [Dev.window, Dev.setWindow, Dev.holding_modHolding, if_pos rfl]
  exact List.getElem?_set_self hlt

/-- Windows stand in a holding's kernel. -/
theorem Dev.window_of_kernel {s t : Dev} {h : HoldId} (hk : (t.holding h).kernel = (s.holding h).kernel) (i : Nat) :
    t.window h i = s.window h i := (congrArg (fun x : Holding => x.windows[i]?) hk :)

/-! ### Windows that change in their places -/

/-- A place that is set to something of the same image changes no image. -/
theorem map_set_of_eq {α β : Type} (g : α → β) {l : List α} {i : Nat} {a b : α} (ha : l[i]? = some a) (hg : g b = g a) :
    (l.set i b).map g = l.map g := by
  obtain ⟨hlt, rfl⟩ := List.getElem?_eq_some_iff.1 ha
  have hlt' : i < (l.map g).length := by simpa using hlt
  rw [List.map_set, hg, ← List.getElem_map g (h := hlt'), List.set_getElem_self]

theorem map_mapIdx_of_eq {α β : Type} (g : α → β) {f : Nat → α → α} (hf : ∀ j a, g (f j a) = g a) (l : List α) :
    (l.mapIdx f).map g = l.map g :=
  List.ext_getElem? fun j => by simp [Function.comp_def, hf]

/-- A list rebuilt by its places is the list with each place changed. -/
theorem filterMap_range_getElem? {α β : Type} (g : Nat → α → β) (l : List α) :
    ((List.range l.length).filterMap fun j => l[j]?.map (g j)) = l.mapIdx g := by
  induction l using List.reverseRecOn with
  | nil => rfl
  | append_singleton l a ih =>
    rw [List.length_append, List.length_singleton, List.range_succ, List.filterMap_append, List.mapIdx_concat, ← ih]
    congr 1
    · refine List.filterMap_congr fun j hj => ?_
      rw [List.getElem?_append_left (List.mem_range.1 hj)]
    · simp

end Sys2Proof.Machine

/-! The work of a reduction at a link die (R342 to R348, R357): summing, answering and contributing leave every core and device
time alone, and each window in its place with the phases that it had. -/

namespace Sys2Proof.Machine

/-! ### Relations between the devices before and after -/

/-- Which phases of a holding's windows have closed, window by window. -/
def Holding.phases (x : Holding) : List (Bool × Bool) := x.windows.map fun w => w.taken.1

/-- Where no window opens, the phases extend themselves. -/
theorem Holding.phases_self (x : Holding) : x.phases <+: x.phases := ⟨[], List.append_nil _⟩

/-- A reduction goes on: windows may open behind those that stand. -/
structure Dev.Reduces (s t : Dev) : Prop where
  cores : t.cores = s.cores
  dt : t.dt = s.dt
  phases : ∀ h, (s.holding h).phases <+: (t.holding h).phases

/-- The same where no record of a REDUCE changes. -/
structure Dev.Sums (s t : Dev) : Prop extends Dev.Reduces s t where
  reduces : ∀ h, (t.holding h).reduces = (s.holding h).reduces

theorem Dev.Reduces.refl (s : Dev) : s.Reduces s := ⟨rfl, rfl, fun h => (s.holding h).phases_self⟩

theorem Dev.Reduces.trans {s t u : Dev} (h : s.Reduces t) (k : t.Reduces u) : s.Reduces u :=
  ⟨k.cores.trans h.cores, k.dt.trans h.dt, fun j => (h.phases j).trans (k.phases j)⟩

theorem Dev.Reduces.foldl {α : Type} {f : Dev → α → Dev} (hf : ∀ (d : Dev) a, d.Reduces (f d a)) (s : Dev) (l : List α) :
    s.Reduces (l.foldl f s) :=
  List.foldlRecOn l f (motive := s.Reduces) (.refl s) fun _ hd a _ => hd.trans (hf _ a)

/-- A window keeps its place and its phases. -/
theorem Dev.Reduces.window {s t : Dev} (hr : s.Reduces t) {h : HoldId} {i : Nat} {w : RedWindow} (hw : s.window h i = some w) :
    ∃ v, t.window h i = some v ∧ v.scaleClosed = w.scaleClosed ∧ v.dataClosed = w.dataClosed := by
  have hphase : (t.holding h).phases[i]? = some w.taken.1 := by
    obtain ⟨opened, hopened⟩ := hr.phases h
    have hold : (s.holding h).phases[i]? = some w.taken.1 := (List.getElem?_map ..).trans (congrArg (Option.map _) hw)
    rw [← hopened, List.getElem?_append_left (List.getElem?_eq_some_iff.1 hold).1, hold]
  obtain ⟨v, hv, heq⟩ := Option.map_eq_some_iff.1 ((List.getElem?_map ..).symm.trans hphase)
  exact ⟨v, hv, (Prod.mk.inj heq).1, (Prod.mk.inj heq).2⟩

theorem Dev.Sums.refl (s : Dev) : s.Sums s := ⟨.refl s, fun _ => rfl⟩

theorem Dev.Sums.trans {s t u : Dev} (h : s.Sums t) (k : t.Sums u) : s.Sums u :=
  ⟨h.toReduces.trans k.toReduces, fun j => (k.reduces j).trans (h.reduces j)⟩

theorem Dev.Sums.foldl {α : Type} {f : Dev → α → Dev} (hf : ∀ (d : Dev) a, d.Sums (f d a)) (s : Dev) (l : List α) :
    s.Sums (l.foldl f s) :=
  List.foldlRecOn l f (motive := s.Sums) (.refl s) fun _ hd a _ => hd.trans (hf _ a)

/-- What keeps the kernels of the holdings keeps windows and records. -/
theorem Dev.Sums.of_kernel {s t : Dev} (hcores : t.cores = s.cores) (hdt : t.dt = s.dt)
    (hkernel : ∀ h, (t.holding h).kernel = (s.holding h).kernel) : s.Sums t where
  cores := hcores
  dt := hdt
  phases h := by
    have hphases : (t.holding h).phases = (s.holding h).phases := (congrArg Holding.phases (hkernel h) :)
    rw [hphases]
  reduces h := (congrArg Holding.reduces (hkernel h) :)

theorem Dev.Sums.of_standing {s t : Dev} (h : t.standing = s.standing) : s.Sums t :=
  .of_kernel (congrArg (·.1.cores) h :) (congrArg (·.1.dt) h :) (Dev.kernel_of_standing h)

section Steps
variable (s : Dev) (p : PortId) (h : HoldId)

/-- A change of one holding, by what it makes of windows and records. -/
theorem Dev.modHolding_reduces {f : Holding → Holding} (hf : (s.holding h).phases <+: (f (s.holding h)).phases) :
    s.Reduces (s.modHolding h f) := by
  refine ⟨rfl, rfl, fun k => ?_⟩
  rw [Dev.holding_modHolding]
  split
  next hk => exact hk ▸ hf
  next => exact (s.holding k).phases_self

theorem Dev.modHolding_sums {f : Holding → Holding} (hf : (s.holding h).phases <+: (f (s.holding h)).phases)
    (hr : (f (s.holding h)).reduces = (s.holding h).reduces) : s.Sums (s.modHolding h f) := by
  refine ⟨s.modHolding_reduces h hf, fun k => ?_⟩
  rw [Dev.holding_modHolding]
  split
  next hk => rw [hr, hk]
  next => rfl

theorem Dev.modReduce_reduces (q : ReduceRec) (f : ReduceRec → ReduceRec) : s.Reduces (s.modReduce h q f) :=
  s.modHolding_reduces h (Holding.phases_self _)

/-- A window that is put back with its phases. -/
theorem Dev.setWindow_sums {i : Nat} {w v : RedWindow} (hw : s.window h i = some w) (hv : v.taken.1 = w.taken.1) :
    s.Sums (s.setWindow h i v) := by
  refine s.modHolding_sums h ?_ rfl
  rw [Holding.phases, Holding.phases, map_set_of_eq (fun w : RedWindow => w.taken.1) hw hv]

theorem Dev.count_sums (o : Option HoldId) (a n : Nat) : s.Sums (s.count o a n) := .of_standing (s.count_standing ..)

theorem Dev.misroute_sums (n : Nat) : s.Sums (s.misroute p h n) := s.count_sums ..

/-- What a reduction counts late goes into the totals of its step record (R350, R531). -/
theorem Dev.modRed_standing (g r : Nat) (f : ReduceSum → ReduceSum) :
    (s.modHolding h fun x => x.modRed g r f).standing = s.standing := s.modHolding_standing h rfl

theorem Dev.redLate_standing (g r : Nat) : (s.redLate p h g r).standing = s.standing :=
  (Dev.modRed_standing ..).trans ((Dev.event_standing ..).trans (s.count_standing (some h) (redReg p 0x10) 1))

theorem Dev.redScaleLate_standing (g r : Nat) : (s.redScaleLate p h g r).standing = s.standing :=
  (Dev.modRed_standing ..).trans (s.count_standing (some h) (redReg p 0x18) 1)

theorem Dev.redMiss_standing (g r : Nat) : (s.redMiss p h g r).standing = s.standing :=
  (Dev.modRed_standing ..).trans ((Dev.event_standing ..).trans (s.count_standing (some h) (redReg p 0x40) 1))

theorem Dev.redLate_sums (g r : Nat) : s.Sums (s.redLate p h g r) := .of_standing (s.redLate_standing ..)

theorem Dev.redScaleLate_sums (g r : Nat) : s.Sums (s.redScaleLate p h g r) := .of_standing (s.redScaleLate_standing ..)

theorem Dev.openWindow_sums (g r : Nat) (pol : Policy) (k : Collective) : s.Sums (s.openWindow p h g r pol k).2 :=
  s.modHolding_sums h ⟨_, (List.map_append ..).symm⟩ rfl

theorem Dev.sendFrom_sums (dst : BitVec 16) (vc : Fin 4) (o : Owner) (m : OutMsg) (blocks : List (Nat × Nat × Nat)) :
    s.Sums (s.sendFrom p dst vc o m blocks) :=
  have ⟨hcores, _, hdt, hkernel⟩ := Dev.apartFromSends_eq_iff.1 (s.sendFrom_apart dst vc o m p blocks)
  .of_kernel hcores hdt hkernel

end Steps

/-! ### Accepting DATA (R343, R346, R354) -/

section Data
variable (s : Dev) (p : PortId) (h : HoldId)

/-- A block that is added changes its window and memory, and neither phases nor what is accepted. -/
theorem Dev.addBlock_cases (i c slot b : Nat) (bytes : List Byte) :
    s.addBlock p h i c slot b bytes = s ∨ ∃ w v, s.window h i = some w ∧ v.taken = w.taken
      ∧ (s.addBlock p h i c slot b bytes).standing = (s.setWindow h i v).standing := by
  unfold Dev.addBlock
  split
  next w hdr hw _ =>
    right
    extract_lets k q pol at'
    have htaken : ∀ t, (w.setChunk { k with blocks := t }).taken = w.taken := fun t =>
      w.setChunk_taken c (w.chunk_chunk c) rfl
    split
    · exact ⟨w, _, hw, htaken _, Dev.writeVa_standing ..⟩
    · split
      · exact ⟨w, _, hw, htaken _, (Dev.count_standing ..).trans (Dev.writeVa_standing ..)⟩
      · exact ⟨w, _, hw, htaken _, rfl⟩
  next => exact .inl rfl

theorem Dev.addBlock_sums (i c slot b : Nat) (bytes : List Byte) : s.Sums (s.addBlock p h i c slot b bytes) := by
  obtain hsame | ⟨w, v, hw, htaken, hstanding⟩ := s.addBlock_cases p h i c slot b bytes
  · rw [hsame]
    exact .refl s
  · exact (s.setWindow_sums h hw (congrArg Prod.fst htaken)).trans (.of_standing hstanding)

theorem Dev.dataWindow_sums (c : ChunkRef) (pol : Policy) (k : Collective) (slot msg : Nat) :
    s.Sums (s.dataWindow p h c pol k slot msg).2 := by
  unfold Dev.dataWindow
  extract_lets ws wants
  split
  · exact .refl s
  · split
    · exact s.openWindow_sums ..
    · exact .refl s

/-- A window whose chunk has accepted one more message, and has its complete blocks marked (R346). -/
def RedWindow.accept (v : RedWindow) (c slot msg load : Nat) : RedWindow :=
  { (v.modChunk c fun z => { z with accepted := z.accepted ++ [(slot, msg)] }).finish c with added := v.added + load }

theorem RedWindow.accept_phase (v : RedWindow) (c slot msg load : Nat) : (v.accept c slot msg load).taken.1 = v.taken.1 :=
  (congrArg Prod.fst (RedWindow.finish_taken ..) :)

/-- A holding once the window in place i has accepted a message. -/
def Holding.accept (x : Holding) (i c slot msg load : Nat) : Holding :=
  { x with windows := (List.range x.windows.length).filterMap fun j =>
      (x.windows[j]?).map fun v => if j = i then v.accept c slot msg load else v }

theorem Holding.accept_windows (x : Holding) (i c slot msg load : Nat) :
    (x.accept i c slot msg load).windows = x.windows.mapIdx fun j v => if j = i then v.accept c slot msg load else v :=
  filterMap_range_getElem? (fun j (v : RedWindow) => if j = i then v.accept c slot msg load else v) x.windows

theorem Holding.accept_phases (x : Holding) (i c slot msg load : Nat) : (x.accept i c slot msg load).phases = x.phases := by
  rw [Holding.phases, Holding.accept_windows]
  refine map_mapIdx_of_eq (fun w : RedWindow => w.taken.1) (fun j v => ?_) x.windows
  split
  · exact v.accept_phase ..
  · rfl

/-- DATA that the owner takes: its blocks are added and counted, and its window notes the message. -/
def Dev.acceptData (s : Dev) (p : PortId) (h : HoldId) (pol : Policy) (c slot msg i : Nat) (w : RedWindow) (bytes : List Byte) :
    Dev :=
  let bs := messageBlocks pol c msg bytes
  let load := adderLoad pol bs.length
  (((bs.foldl (fun d b => d.addBlock p h i c slot b.1 b.2) s).count (some h) (redReg p 0x08) 1).count (some h) (redReg p 0x50)
    (addCycles (w.added + load) - addCycles w.added)).modHolding h fun y => y.accept i c slot msg load

theorem Dev.acceptData_sums (pol : Policy) (c slot msg i : Nat) (w : RedWindow) (bytes : List Byte) :
    s.Sums (s.acceptData p h pol c slot msg i w bytes) := by
  unfold Dev.acceptData
  extract_lets bs load
  have hadds : s.Sums (bs.foldl (fun d b => d.addBlock p h i c slot b.1 b.2) s) := .foldl (fun d b => d.addBlock_sums ..) s bs
  refine ((hadds.trans (Dev.count_sums ..)).trans (Dev.count_sums ..)).trans (Dev.modHolding_sums _ h ?_ rfl)
  rw [Holding.accept_phases]

theorem Dev.takeData_sums (c : ChunkRef) (src : BitVec 16) (msg : Nat) (bytes : List Byte) :
    s.Sums (s.takeData p h c src msg bytes) := by
  unfold Dev.takeData
  extract_lets g r
  split
  · exact .refl s
  · split
    · exact s.misroute_sums ..
    next pol k slot _ =>
      extract_lets bs x
      have hx : s.Sums x.2 := s.dataWindow_sums ..
      split
      · exact hx.trans (Dev.count_sums ..)
      · split
        · exact hx.trans (Dev.redLate_sums ..)
        next i w _ =>
          extract_lets ch
          split
          · exact hx.trans (Dev.redLate_sums ..)
          · split
            · exact hx.trans (Dev.count_sums ..)
            · exact hx.trans (Dev.acceptData_sums ..)

end Data

/-! ### What a contributor sends (R342, R345, R357) -/

section Contributor
variable (s : Dev) (p : PortId) (h : HoldId) (q : ReduceRec)

theorem Dev.readSource_sums (pol : Policy) (c : Nat) : s.Sums (s.readSource p h q pol c).2.2 :=
  .of_standing (s.readOut_standing ..)

theorem Dev.sendData_sums (c : Nat) (sexp : List Byte) : s.Sums (s.sendData h q c sexp) := by
  unfold Dev.sendData
  extract_lets x
  split
  next pol k p _ _ _ =>
    split
    · exact .refl s
    · split
      · exact .refl s
      · extract_lets r ms s1 ref
        have hread : s.Sums r.2.2 := s.readSource_sums ..
        have h1 : r.2.2.Sums s1 := by
          simp only [s1]
          split
          · exact .refl _
          · exact Dev.count_sums ..
        refine (hread.trans h1).trans (.foldl (fun d i => ?_) s1 _)
        dsimp only
        split
        · exact d.takeData_sums ..
        · exact d.sendFrom_sums ..
  next => exact .refl s

theorem Dev.sendOrOwe_reduces (c : Nat) (sexp : List Byte) : s.Reduces (s.sendOrOwe h q c sexp) := by
  unfold Dev.sendOrOwe
  split
  · exact s.modReduce_reduces ..
  · exact (s.sendData_sums ..).toReduces

theorem Dev.takeReply_reduces (c : ChunkRef) (src : BitVec 16) (admits : Bool) (sexp : List Byte) :
    s.Reduces (s.takeReply p h c src admits sexp) := by
  unfold Dev.takeReply
  extract_lets x g r
  split
  · exact (s.misroute_sums ..).toReduces
  · split
    · exact .refl s
    · split
      · exact .refl s
      · extract_lets s1
        have h1 : s.Reduces s1 := s.modReduce_reduces ..
        split
        · exact h1.trans (s1.sendOrOwe_reduces ..)
        · exact h1

end Contributor

/-! ### What an owner answers (R345, R348) -/

section Owner
variable (s : Dev) (p : PortId) (h : HoldId)

theorem Dev.sendReply_reduces (c : ChunkRef) (dst : BitVec 16) (admits : Bool) (sexp : List Byte) :
    s.Reduces (s.sendReply p h c dst admits sexp) := by
  unfold Dev.sendReply
  split
  · exact s.takeReply_reduces ..
  · exact (s.sendFrom_sums ..).toReduces

/-- An answered chunk keeps the phases of its window. -/
theorem Dev.answerChunk_reduces (i c : Nat) : s.Reduces (s.answerChunk p h i c) := by
  unfold Dev.answerChunk
  split
  · exact .refl s
  next w hw =>
    extract_lets k slots sexp w1 ref
    have hw1 : w1.taken.1 = w.taken.1 := (congrArg Prod.fst (RedWindow.finish_taken ..) :)
    exact (s.setWindow_sums h hw hw1).toReduces.trans (.foldl (fun d z => d.sendReply_reduces ..) _ slots)

theorem Dev.scaleWindow_sums (c : ChunkRef) (pol : Policy) (k : Collective) (slot : Nat) :
    s.Sums (s.scaleWindow p h c pol k slot).2 := by
  unfold Dev.scaleWindow
  split
  · split
    · exact s.openWindow_sums ..
    · exact .refl s
  · exact s.openWindow_sums ..

theorem Dev.takeScale_reduces (c : ChunkRef) (src : BitVec 16) (bytes : List Byte) :
    s.Reduces (s.takeScale p h c src bytes) := by
  unfold Dev.takeScale
  split
  · exact .refl s
  · split
    · exact (s.misroute_sums ..).toReduces
    next pol k slot _ =>
      split
      · exact (s.misroute_sums ..).toReduces
      · extract_lets x
        have hx : s.Reduces x.2 := (s.scaleWindow_sums ..).toReduces
        split
        · exact hx
        next w hw =>
          extract_lets ch ch1
          have hput : ∀ k, x.2.Reduces (x.2.setWindow h x.1 (w.setChunk k)) := fun k =>
            (x.2.setWindow_sums h hw (v := w.setChunk k) rfl).toReduces
          split
          · exact ((hx.trans (hput ch1)).trans (Dev.redScaleLate_sums ..).toReduces).trans (Dev.sendReply_reduces ..)
          · split
            · exact (hx.trans (hput _)).trans (Dev.answerChunk_reduces ..)
            · exact hx.trans (hput _)

end Owner

/-! ### REDUCE (R357, R376) -/

section Reduce
variable (s : Dev) (h : HoldId) (q : ReduceRec)

theorem Dev.sendChunk_reduces (c : Nat) : s.Reduces (s.sendChunk h q c) := by
  unfold Dev.sendChunk
  extract_lets x
  split
  next pol k p' _ _ _ =>
    split
    · exact .refl s
    · split
      · exact (s.sendData_sums ..).toReduces
      · split
        · exact .refl s
        · extract_lets r bytes
          have hread : s.Reduces r.2.2 := (s.readSource_sums ..).toReduces
          split
          · exact hread.trans (Dev.takeScale_reduces ..)
          · exact hread.trans (Dev.sendFrom_sums ..).toReduces
  next => exact .refl s

theorem Dev.startChunk_reduces (c : Nat) : s.Reduces (s.startChunk h q c) := by
  unfold Dev.startChunk
  split
  · exact s.modReduce_reduces ..
  · exact s.sendChunk_reduces ..

theorem Dev.payOwed_reduces : s.Reduces (s.payOwed h q) := by
  refine .foldl (fun d o => ?_) s q.owed
  split
  · exact .refl d
  · extract_lets d1
    have h1 : d.Reduces d1 := d.modReduce_reduces ..
    split
    · exact h1.trans (d1.sendData_sums ..).toReduces
    · exact h1.trans (d1.sendChunk_reduces ..)

/-- A run of a REDUCE leaves every core alone. -/
theorem reduceBody_cores {c : CoreId} {a : Agent} {e : WEntry} {r x : Run} {ends : Bool}
    (hx : reduceBody c a e r = some (x, ends)) : x.dev.cores = r.dev.cores := by
  unfold reduceBody at hx
  extract_lets h s y queue mine at hx
  split at hx
  · cases hx
  next q _ =>
    split_ifs at hx
    · cases hx
      rfl
    · extract_lets d ends' at hx
      split_ifs at hx
      obtain ⟨rfl, -⟩ := Prod.mk.inj (Option.some.inj hx)
      exact (s.payOwed_reduces h q).cores
    · cases hx
      exact Dev.runFault_cores ..
    · extract_lets s1 s2 done at hx
      obtain ⟨rfl, -⟩ := Prod.mk.inj (Option.some.inj hx)
      exact (Dev.Reduces.foldl (fun d i => d.startChunk_reduces ..) s1 _).cores

theorem Dev.takeTrailer_cores (p : PortId) (g r : Nat) (src : BitVec 16) (recs : List TrailerRec) :
    (s.takeTrailer p h g r src recs).cores = s.cores := by
  unfold Dev.takeTrailer
  extract_lets x key
  split_ifs <;> rfl

theorem Dev.sendTrailer_cores (p : PortId) (w : RedWindow) : (s.sendTrailer p h w).cores = s.cores := by
  unfold Dev.sendTrailer
  extract_lets x g r
  split
  · rfl
  · exact (Dev.takeTrailer_cores ..).trans (foldl_preserves Dev.cores (fun d m => d.sendFrom_cores ..) s _)

theorem Dev.emptyTrailers_cores : (s.emptyTrailers h).cores = s.cores := by
  refine foldl_preserves Dev.cores (fun d q => ?_) s (s.holding h).reduces
  dsimp only
  split
  · split
    · exact d.sendTrailer_cores ..
    · rfl
  · rfl

end Reduce

end Sys2Proof.Machine

/-! Counters as messages leave (R317, R329, R393, R415): a counter that stands neither for sent flits nor for the gate keeps
its value, the counters of the reduction units among them. -/

namespace Sys2Proof.Machine

theorem klxReg_ne_redReg {off k : Nat} (hoff : off ∈ sendCounters) (hk : k < 0x1000) (p q : PortId) :
    redReg p k ≠ klxReg q off := by
  have hlt : off < 0x1000 := (by decide : ∀ a ∈ sendCounters, a < 0x1000) off hoff
  simp only [redReg, klxReg, regAt, linkDie]
  omega

theorem hdlReg_ne_redReg {k : Nat} (hk : k < 0x1000) (p q : PortId) : redReg p k ≠ hdlReg q 0x18 := by
  simp only [redReg, hdlReg, regAt, linkDie]
  omega

section Counters
variable (s : Dev) (p : PortId) (dst : BitVec 16) (vc : Fin 4) {a : Nat}

theorem Dev.ctr_count_ne (o : Option HoldId) {b : Nat} (hab : a ≠ b) (n : Nat) : (s.count o b n).ctr a = s.ctr a :=
  (s.ctr_count ..).trans (if_neg hab)

section Ports
variable (ha : ∀ off ∈ sendCounters, ∀ q, a ≠ klxReg q off)
include ha

theorem Dev.sendFlit_ctr (i : PortItem) : (s.sendFlit p i).ctr a = s.ctr a :=
  Dev.ctr_count_ne _ none (ha 0x08 (by decide) p) 1

theorem Dev.drainPort_ctr (n : Nat) : (s.drainPort p n).ctr a = s.ctr a := by
  induction n generalizing s with
  | zero => rfl
  | succ n ih =>
    unfold Dev.drainPort
    split
    · split
      · exact (ih _).trans (Dev.sendFlit_ctr _ p ha _)
      · rfl
    · split
      · rfl
      · exact (ih _).trans (Dev.sendFlit_ctr _ p ha _)

theorem Dev.toPort_ctr (is : List PortItem) : (s.toPort p is).ctr a = s.ctr a := by
  unfold Dev.toPort Dev.drain
  split
  · rfl
  · exact Dev.drainPort_ctr _ p ha _

theorem Dev.chooseRoute_ctr : (s.chooseRoute dst).2.ctr a = s.ctr a := by
  unfold Dev.chooseRoute
  split
  · rfl
  next r _ =>
    extract_lets home s1
    have h1 : s1.ctr a = s.ctr a := by
      simp only [s1]
      split
      · exact s.ctr_count_ne none (ha 0x60 (by decide) home) 1
      · rfl
    dsimp only
    split
    · exact (s1.ctr_count_ne none (ha 0x68 (by decide) home) 1).trans h1
    · exact h1

theorem Dev.sendHeld_ctr (f : Held) : (s.sendHeld dst vc f).2.2.ctr a = s.ctr a := by
  unfold Dev.sendHeld
  extract_lets c
  have hchosen : c.2.ctr a = s.ctr a := by
    simp only [c]
    split
    · rfl
    · exact s.chooseRoute_ctr dst ha
  split
  · exact hchosen
  · exact (Dev.toPort_ctr _ _ ha _).trans hchosen

theorem Dev.sendAll_ctr (fs : List Held) : (s.sendAll dst vc fs).2.2.ctr a = s.ctr a := by
  induction fs generalizing s with
  | nil => rfl
  | cons f rest ih => exact (ih _).trans (s.sendHeld_ctr dst vc ha f)

theorem Dev.releaseGate_ctr (l kept : List GateItem) : (s.releaseGate l kept).ctr a = s.ctr a := by
  induction l generalizing s kept with
  | nil => rfl
  | cons g rest ih =>
    unfold Dev.releaseGate
    split
    · exact (ih _ kept).trans (s.sendAll_ctr g.dst g.vc ha _)
    · exact ih s _

/-- A message whose payload no block holds counts flits, and at a full gate the cycles of the wait (R394). -/
theorem Dev.sendFrom_ctr (hgate : ∀ q, a ≠ hdlReg q 0x18) (o : Owner) (m : OutMsg) :
    (s.sendFrom p dst vc o m []).ctr a = s.ctr a := by
  have hfull : ∀ d : Dev, (d.noteFull (ownerHolding o) p).ctr a = d.ctr a := fun d => by
    unfold Dev.noteFull
    split
    · exact Dev.ctr_count_ne _ (ownerHolding o) (hgate p) _
    · rfl
  exact (Dev.releaseGate_ctr _ ha _ _).trans (hfull _)

end Ports

/-- The counters of the reduction units stand as messages without blocks leave. -/
theorem Dev.sendFrom_redCtr {k : Nat} (hk : k < 0x1000) (q : PortId) (o : Owner) (m : OutMsg) :
    (s.sendFrom p dst vc o m []).ctr (redReg q k) = s.ctr (redReg q k) :=
  s.sendFrom_ctr p dst vc (fun _ hoff r => klxReg_ne_redReg hoff hk q r) (hdlReg_ne_redReg hk q) o m

end Counters

end Sys2Proof.Machine

/-! The commands that bring messages to the link dies (R315, R482), and gathers and trailers as they arrive (R347, R351, R376,
R377). -/

namespace Sys2Proof.Machine

/-! ### Commands that bring messages (R315, R482) -/

section Senders
variable {s : State} {f : Sender} {scope : Dev → Dev → Dev}

theorem work_self (s : State) : work s s.dev = .next s := by rw [work_next, ite_self]

theorem work_same (hscope : RunsBesideQueues scope) : work s (scope s.dev s.dev) = .next s := by
  rw [hscope.self, work_self]

theorem work_current (scope : Dev → Dev → Dev) (hup : s.dev.clocked = true) (hcurrent : s.dev.staleSender f = false) (r : Dev) :
    work s (scope s.dev (s.dev.unlessStale f r)) = .next { s with dev := scope s.dev r } := by
  rw [work_clocked s _ hup, Dev.unlessStale, if_neg (by simp [hcurrent])]

/-- A message that changes nothing, or one of a stale sender, leaves the state as it is. -/
theorem work_unlessStale_same (hscope : RunsBesideQueues scope) {r : Dev} (hsame : s.dev.staleSender f = true ∨ r = s.dev) :
    work s (scope s.dev (s.dev.unlessStale f r)) = .next s := by
  have hkept : s.dev.unlessStale f r = s.dev := by
    rcases hsame with hstale | hsame
    · exact if_pos hstale
    · rw [hsame, Dev.unlessStale, ite_self]
  rw [hkept, work_same hscope]

end Senders

/-! ### Records of REDUCEs (R347, R357) -/

@[simp] theorem sameReduce_self (q : ReduceRec) : sameReduce q q = true := by simp [sameReduce]

/-- A record that is changed stands in its holding, as the change makes it. -/
theorem Dev.mem_modReduce {s : Dev} {h : HoldId} {q z : ReduceRec} (hz : z ∈ (s.holding h).reduces)
    (hsame : sameReduce z q = true) (f : ReduceRec → ReduceRec) : f z ∈ ((s.modReduce h q f).holding h).reduces := by
  rw [Dev.modReduce, Dev.holding_modHolding, if_pos rfl]
  exact List.mem_map.2 ⟨z, hz, if_pos hsame⟩

/-! ### Gathers (R347, R351) -/

/-- The gathered bytes of a chunk. -/
def Policy.gatherBytes (pol : Policy) (c : Nat) : Nat := pol.valuesIn c * pol.gatherSize

/-- The pieces of a chunk that a REDUCE holds once one more has come, each with its offset. -/
def ReduceRec.piecesWith (q : ReduceRec) (c off : Nat) (bytes : List PByte) : List (Nat × List PByte) :=
  (q.pieces.filter fun t => t.1 == c).map (·.2) ++ [(off, bytes)]

/-- Where a chunk's gathered values go. -/
def ReduceRec.gatherVa (q : ReduceRec) (pol : Policy) (c : Nat) : Nat :=
  q.dstVa + (c - q.first) * chunkValues * pol.gatherSize

@[simp] theorem Dev.writePieces_standing (s : Dev) (a : Agent) (va : Nat) (ps : List (Nat × List PByte)) :
    (s.writePieces a va ps).standing = s.standing :=
  foldl_preserves Dev.standing (fun d _ => d.writeVa_standing ..) s ps

section Gather
variable {s : Dev} (p : PortId) {h : HoldId} {g r c : Nat} (off : Nat) (bytes : List PByte) {pol : Policy} {q : ReduceRec}
  (hpol : (s.holding h).policy g r = some pol) (hkept : (s.holding h).dropped.contains (polKey g r, c) = false)
include hpol hkept

theorem Dev.takeGather_of_unclaimed (hnone : ((s.holding h).reduces.find? fun q => q.covers g r c) = none) :
    s.takeGather p h g r c off bytes
      = (s.count (some h) (redReg p 0x58) 1).modHolding h fun y => { y with dropped := y.dropped ++ [(polKey g r, c)] } := by
  simp only [Dev.takeGather, hpol, hkept, hnone, Bool.false_eq_true, if_false]

variable (hfound : ((s.holding h).reduces.find? fun q => q.covers g r c) = some q)
include hfound

theorem Dev.takeGather_of_late (hlate : (q.missed.contains c || q.waitOver c) = true) :
    s.takeGather p h g r c off bytes = s.redMiss p h g r := by
  simp only [Dev.takeGather, hpol, hkept, hfound, hlate, Bool.false_eq_true, if_false, if_true]

variable (htimely : (q.missed.contains c || q.waitOver c) = false)
include htimely

theorem Dev.takeGather_of_repeated
    (hrepeated : (q.gathered.contains c || q.pieces.any fun t => t.1 == c && t.2.1 == off) = true) :
    s.takeGather p h g r c off bytes = s := by
  simp only [Dev.takeGather, hpol, hkept, hfound, htimely, hrepeated, Bool.false_eq_true, if_false, if_true]

variable (hnew : (q.gathered.contains c || q.pieces.any fun t => t.1 == c && t.2.1 == off) = false)
include hnew

/-- A piece that leaves its chunk incomplete is kept. -/
theorem Dev.takeGather_of_incomplete
    (hless : ((q.piecesWith c off (bytes.take (pol.gatherBytes c - off))).map fun t => t.2.length).sum < pol.gatherBytes c) :
    s.takeGather p h g r c off bytes = s.modReduce h q fun z =>
      { z with pieces := z.pieces ++ [(c, off, bytes.take (pol.gatherBytes c - off))] } := by
  simp only [Dev.takeGather, hpol, hkept, hfound, htimely, hnew, Bool.false_eq_true, if_false]
  exact if_neg (Nat.not_le.2 hless)

/-- The piece that completes its chunk: the chunk goes to its destination, and its pieces are gone. -/
theorem Dev.takeGather_of_whole
    (hwhole : pol.gatherBytes c ≤ ((q.piecesWith c off (bytes.take (pol.gatherBytes c - off))).map fun t => t.2.length).sum) :
    s.takeGather p h g r c off bytes = (s.writePieces (redAgent p h q) (q.gatherVa pol c)
      (q.piecesWith c off (bytes.take (pol.gatherBytes c - off)))).modReduce h q fun z =>
        { z with pieces := z.pieces.filter fun t => t.1 != c, gathered := z.gathered ++ [c] } := by
  simp only [Dev.takeGather, hpol, hkept, hfound, htimely, hnew, Bool.false_eq_true, if_false]
  exact if_pos hwhole

end Gather

/-! ### Trailers (R376, R377) -/

section Trailer
variable {s : Dev} (p : PortId) {h : HoldId} {g r : Nat} {src : BitVec 16}
  (hpol : ((s.holding h).policy g r).isSome = true)
  (hopen : (((s.holding h).reduces.any fun q => q.group == g && q.reduction == r) && (s.holding h).waitsDone g r) = false)
include hpol hopen

theorem Dev.takeTrailer_of_repeated (hrepeated : (s.holding h).trailers.contains (polKey g r, src) = true)
    (recs : List TrailerRec) : s.takeTrailer p h g r src recs = s := by
  simp only [Dev.takeTrailer, Option.isNone_eq_false_iff.2 hpol, hopen, hrepeated, Bool.false_eq_true, if_false, if_true]

/-- A layer's norm with the sums of a trailer. -/
def NormAcc.trailed (a : NormAcc) (q : TrailerRec) : NormAcc :=
  { a with wsq := a.wsq + q.wsq, gsq := a.gsq + q.gsq, usq := a.usq + q.usq, wnf := a.wnf || q.wnf
           trailers := a.trailers + 1 }

/-- A holding that has taken an owner's trailer of one layer. -/
def Holding.trailed (x : Holding) (key : Nat) (src : BitVec 16) (q : TrailerRec) : Holding :=
  { x with trailers := x.trailers ++ [(key, src)]
           norms := Tab.modify {} x.norms q.layer.val fun a => a.trailed q }

theorem Dev.takeTrailer_of_new (hnew : (s.holding h).trailers.contains (polKey g r, src) = false) (q : TrailerRec) :
    s.takeTrailer p h g r src [q] = s.modHolding h fun y => y.trailed (polKey g r) src q := by
  simp only [Dev.takeTrailer, Option.isNone_eq_false_iff.2 hpol, hopen, hnew, Bool.false_eq_true, if_false]
  rfl

end Trailer

/-- Settles O25: each piece is dropped, missed, repeated, kept or the last of its chunk, and a record stands as the piece
changes it; a trailer changes its holding alone. -/
theorem gathersAndTrailersAreTakenOnce : Obligations.GathersAndTrailersAreTakenOnce := by
  unfold Obligations.GathersAndTrailersAreTakenOnce
  refine ⟨fun s p h c src index skip bytes pol hup hcurrent hpol hkept => ?_,
    fun s p h g r src q hup hcurrent hpol hopen => ⟨fun hnew => ?_, fun hrepeated => ?_⟩⟩
  · intro found off size
    have hexec : exec (.gatherFlit p h c src index skip bytes) s = .next
        { s with dev := s.dev.memScope (s.dev.takeGather p h c.group.val c.reduction.val c.chunk off bytes) } :=
      work_current Dev.memScope hup hcurrent _
    refine ⟨fun q hfound htimely => ⟨fun hrepeated => ?_, fun hnew => ⟨fun hless => ?_, fun hwhole => ?_⟩⟩,
      fun q hfound hlate => ?_, fun hnone => ?_⟩
    · exact work_unlessStale_same Dev.memScope_besideQueues
        (.inr (Dev.takeGather_of_repeated p off bytes hpol hkept hfound htimely hrepeated))
    · rw [Dev.takeGather_of_incomplete p off bytes hpol hkept hfound htimely hnew hless] at hexec
      exact ⟨_, hexec, rfl, ⟨_, Dev.mem_modReduce (List.mem_of_find?_eq_some hfound) (sameReduce_self q) _,
        sameReduce_self q, rfl, rfl⟩, Dev.memScope_mem .., Dev.memScope_cores .., Dev.memScope_queues .., Dev.memScope_ports ..⟩
    · rw [Dev.takeGather_of_whole p off bytes hpol hkept hfound htimely hnew hwhole] at hexec
      have hwrites := Dev.Sums.of_standing (s.dev.writePieces_standing (redAgent p h q) (q.gatherVa pol c.chunk)
        (q.piecesWith c.chunk off (bytes.take (pol.gatherBytes c.chunk - off))))
      have hq : q ∈ (s.dev.holding h).reduces := List.mem_of_find?_eq_some hfound
      rw [← hwrites.reduces h] at hq
      exact ⟨_, hexec, rfl, ⟨_, Dev.mem_modReduce hq (sameReduce_self q) _, sameReduce_self q, rfl, rfl⟩,
        hwrites.cores, rfl, rfl⟩
    · rw [Dev.takeGather_of_late p off bytes hpol hkept hfound hlate] at hexec
      exact ⟨_, hexec, rfl, s.dev.ctr_count_same (some h) _ 1, rfl⟩
    · rw [Dev.takeGather_of_unclaimed p off bytes hpol hkept hnone] at hexec
      refine ⟨_, hexec, rfl, s.dev.ctr_count_same (some h) _ 1, ?_, rfl⟩
      have hdropped := (s.dev.count (some h) (redReg p 0x58) 1).holding_modHolding h h fun y =>
        { y with dropped := y.dropped ++ [(polKey c.group.val c.reduction.val, c.chunk)] }
      rw [if_pos rfl] at hdropped
      refine (congrArg Holding.dropped hdropped :).trans ?_
      exact congrArg (· ++ _) (congrArg Holding.dropped (Dev.kernel_of_standing (s.dev.count_standing ..) h) :)
  · have hexec : exec (.normTrailer p h g r src [q]) s = .next
        { s with dev := s.dev.coreScope (s.dev.takeTrailer p h g.val r.val src.device [q]) } :=
      work_current Dev.coreScope hup hcurrent _
    rw [Dev.takeTrailer_of_new p hpol hopen hnew] at hexec
    have htrailed := s.dev.holding_modHolding h h fun y => y.trailed (polKey g.val r.val) src.device q
    rw [if_pos rfl] at htrailed
    refine ⟨_, hexec, rfl, (congrArg Holding.trailers htrailed :), ?_, rfl, rfl, rfl⟩
    exact (congrArg (fun x : Holding => Tab.get {} x.norms q.layer.val) htrailed :).trans
      (Laws.Tab.get_modify_same {} (s.dev.holding h).norms q.layer.val fun a => a.trailed q)
  · exact work_unlessStale_same Dev.coreScope_besideQueues (.inr (Dev.takeTrailer_of_repeated p hpol hopen hrepeated [q]))

end Sys2Proof.Machine

/-! SCALE, REPLY and DATA as they arrive (R344 to R349, R354). -/

namespace Sys2Proof.Machine

/-! ### SCALE at the owner (R345, R348) -/

section Scale
variable {s : Dev} {p : PortId} {h : HoldId} {c : ChunkRef} {src : BitVec 16}

theorem Dev.takeScale_of_outOfStep (hout : s.outOfStep p h c.group.val src = true) (bytes : List Byte) :
    s.takeScale p h c src bytes = s := if_pos hout

theorem Dev.takeScale_of_foreign (hstep : s.outOfStep p h c.group.val src = false) (hforeign : s.ownedHere p h c src = none) (bytes : List Byte) :
    s.takeScale p h c src bytes = s.misroute p h 1 := by
  simp only [Dev.takeScale, hstep, hforeign, Bool.false_eq_true, if_false]

end Scale

/-- What a REPLY says of a chunk: the agreed exponents, or the largest so far. -/
def RedChunk.answerBytes (k : RedChunk) : List Byte := if k.replied then k.sexp else maxBytes (k.scales.map (·.2))

/-- A SCALE of a slot that the newest window has not seen for the chunk goes into that window. -/
theorem Dev.scaleWindow_of_newest {s : Dev} {p : PortId} {h : HoldId} {c : ChunkRef} {slot i : Nat} {w : RedWindow}
    (hnewest : ((s.holding h).windowsOf p c.group.val c.reduction.val).getLast? = some (i, w))
    (hnew : (w.chunk c.chunk).seen.contains slot = false) (pol : Policy) (k : Collective) :
    s.scaleWindow p h c pol k slot = (i, s) ∧ s.window h i = some w := by
  refine ⟨?_, Holding.window_of_mem (List.mem_of_getLast? hnewest)⟩
  simp only [Dev.scaleWindow, hnewest, hnew, Bool.false_eq_true, if_false]

section OwnedScale
variable {s : Dev} {p : PortId} {h : HoldId} {c : ChunkRef} {src : BitVec 16}
  (hstep : s.outOfStep p h c.group.val src = false) {pol : Policy} {k : Collective} {slot i : Nat} {w : RedWindow}
  (howned : s.ownedHere p h c src = some (pol, k, slot)) (hwire : pol.fp32Wire = false)
  (hnewest : ((s.holding h).windowsOf p c.group.val c.reduction.val).getLast? = some (i, w))
  (hnew : (w.chunk c.chunk).seen.contains slot = false) (bytes : List Byte)
include hstep howned hwire hnewest hnew

/-- A SCALE of a slot that the newest window has not seen, while its scale phase is open and other members are missing. -/
theorem Dev.takeScale_of_timely
    (hopen : (w.scaleClosed || w.dataClosed || (w.chunk c.chunk).replied || reached s.dt w.scaleEnd) = false)
    (hmissing : ∃ j ∈ k.live, j ≠ slot ∧ ∀ z ∈ (w.chunk c.chunk).scales, z.1 ≠ j) :
    s.takeScale p h c src bytes = s.setWindow h i (w.setChunk { w.chunk c.chunk with
      seen := (w.chunk c.chunk).seen ++ [slot], scales := (w.chunk c.chunk).scales ++ [(slot, bytes)] }) := by
  obtain ⟨hplace, hwindow⟩ := Dev.scaleWindow_of_newest hnewest hnew pol k
  have hincomplete : (k.live.all fun j => ((w.chunk c.chunk).scales ++ [(slot, bytes)]).any fun z => z.1 == j) = false := by
    obtain ⟨j, hj, hslot, hscales⟩ := hmissing
    refine List.all_eq_false.2 ⟨j, hj, ?_⟩
    rw [Bool.not_eq_true, List.any_eq_false]
    intro z hz
    rcases List.mem_append.1 hz with hold | hlast
    · simpa using hscales z hold
    · rw [List.mem_singleton.1 hlast]
      simpa using hslot.symm
  simp only [Dev.takeScale, hstep, howned, hwire, hplace, hwindow, hopen, hincomplete, Bool.false_eq_true, if_false]

/-- A SCALE after the phase is noted, counted and refused. -/
theorem Dev.takeScale_of_late
    (hlate : (w.scaleClosed || w.dataClosed || (w.chunk c.chunk).replied || reached s.dt w.scaleEnd) = true) :
    s.takeScale p h c src bytes
      = ((s.setWindow h i (w.setChunk { w.chunk c.chunk with seen := (w.chunk c.chunk).seen ++ [slot] })).redScaleLate p h
          c.group.val c.reduction.val).sendReply p h c src false (w.chunk c.chunk).answerBytes := by
  obtain ⟨hplace, hwindow⟩ := Dev.scaleWindow_of_newest hnewest hnew pol k
  simp only [Dev.takeScale, hstep, howned, hwire, hplace, hwindow, hlate, Bool.false_eq_true, if_false, if_true]
  rfl

end OwnedScale

/-- A refusal of another device's SCALE: the window stands as it was put, the refusal is counted, and beside the links
nothing changes. -/
theorem Dev.refuse_other {s : Dev} (p : PortId) {h : HoldId} (c : ChunkRef) {dst : BitVec 16} (hother : dst ≠ s.number)
    (sexp : List Byte) {i : Nat} {v w : RedWindow} (hw : s.window h i = some w) :
    let t := ((s.setWindow h i v).redScaleLate p h c.group.val c.reduction.val).sendReply p h c dst false sexp
    t.window h i = some v ∧ t.ctr (redReg p 0x18) = addStop64 (s.ctr (redReg p 0x18)) 1 ∧ t.mem = s.mem ∧ t.cores = s.cores := by
  intro t
  let d := (s.setWindow h i v).redScaleLate p h c.group.val c.reduction.val
  have ht : t = d.sendFrom p dst 1 (.holding h) (.reply h c false sexp) [] := if_neg hother
  obtain ⟨hcores, -, -, hkernel⟩ := Dev.apartFromSends_eq_iff.1 (d.sendFrom_apart dst 1 (.holding h) (.reply h c false sexp) p [])
  have hput : d.window h i = some v :=
    (Dev.window_of_kernel (Dev.kernel_of_standing (Dev.redScaleLate_standing ..) h) i).trans (Dev.window_setWindow hw v)
  rw [ht]
  refine ⟨(Dev.window_of_kernel (hkernel h) i).trans hput, ?_, (d.sendFrom_tells ..).mem, hcores⟩
  rw [d.sendFrom_redCtr p dst 1 (by decide)]
  exact (s.setWindow h i v).ctr_count_same (some h) _ 1

/-! ### REPLY at the contributor (R345, R347) -/

section Reply
variable {s : Dev} (p : PortId) {h : HoldId} {c : ChunkRef} {src : BitVec 16} (admits : Bool) (sexp : List Byte)

theorem Dev.takeReply_of_unknown (hnone : (s.holding h).policy c.group.val c.reduction.val = none) :
    s.takeReply p h c src admits sexp = s.misroute p h 1 := by
  simp only [Dev.takeReply, hnone, Option.isNone_none, if_true]

theorem Dev.takeReply_of_unasked (hsome : (s.holding h).policy c.group.val c.reduction.val ≠ none)
    (hnone : ((s.holding h).reduces.find? fun q => q.started && q.covers c.group.val c.reduction.val c.chunk
      && !(q.replied.any fun z => z.1 == c.chunk)) = none) : s.takeReply p h c src admits sexp = s := by
  simp only [Dev.takeReply, Option.isNone_eq_false_iff.2 (Option.isSome_iff_ne_none.2 hsome), hnone, Bool.false_eq_true,
    if_false]

/-- The record of a REDUCE that has noted the answer for a chunk. -/
def ReduceRec.answered (z : ReduceRec) (c : Nat) (admits : Bool) : ReduceRec := { z with replied := z.replied ++ [(c, admits)] }

/-- The first REPLY of a chunk's owner is noted; one that admits brings on the chunk's data. -/
theorem Dev.takeReply_of_first {q : ReduceRec} {pol : Policy} {k : Collective}
    (hfound : ((s.holding h).reduces.find? fun q => q.started && q.covers c.group.val c.reduction.val c.chunk
      && !(q.replied.any fun z => z.1 == c.chunk)) = some q)
    (hpol : (s.holding h).policy c.group.val c.reduction.val = some pol)
    (hmembers : (s.holding h).members? c.group.val = some k) (howner : pol.owner k c.chunk = some src) :
    s.takeReply p h c src admits sexp
      = if admits then (s.modReduce h q fun z => z.answered c.chunk admits).sendOrOwe h q c.chunk sexp
        else s.modReduce h q fun z => z.answered c.chunk admits := by
  simp only [Dev.takeReply, hpol, hmembers, hfound, howner, Option.isNone_some, Option.bind_some, ne_eq, not_true_eq_false,
    Bool.false_eq_true, if_false]
  rfl

/-- What a contributor sends or owes of a chunk does not touch what it has been answered. -/
theorem Dev.sendOrOwe_replied {q z : ReduceRec} (hz : z ∈ (s.holding h).reduces) (hsame : sameReduce z q = true) (c : Nat) :
    ∃ y ∈ ((s.sendOrOwe h q c sexp).holding h).reduces, sameReduce y q = true ∧ y.replied = z.replied := by
  unfold Dev.sendOrOwe
  split
  · exact ⟨_, Dev.mem_modReduce hz hsame _, hsame, rfl⟩
  · rw [(s.sendData_sums h q c sexp).reduces h]
    exact ⟨z, hz, hsame, rfl⟩

end Reply

/-! ### DATA at the owner (R343, R346, R349, R354) -/

section Data
variable {s : Dev} {p : PortId} {h : HoldId} {c : ChunkRef} {src : BitVec 16} {msg : Nat} {bytes : List Byte}

theorem Dev.takeData_of_outOfStep (hout : s.outOfStep p h c.group.val src = true) (msg : Nat) (bytes : List Byte) :
    s.takeData p h c src msg bytes = s := if_pos hout

/-- To note a message is to append it to what its chunk had accepted. -/
theorem RedWindow.accept_accepted (v : RedWindow) (c slot msg load : Nat) :
    ((v.accept c slot msg load).chunk c).accepted = (v.chunk c).accepted ++ [(slot, msg)] := by
  have hfinish : ((v.accept c slot msg load).chunk c).accepted
      = ((v.modChunk c fun z => { z with accepted := z.accepted ++ [(slot, msg)] }).chunk c).accepted :=
    congrFun (congrArg Prod.snd (RedWindow.finish_taken ..)) c
  rw [hfinish, RedWindow.modChunk, v.chunk_setChunk_of c (k := { v.chunk c with accepted := (v.chunk c).accepted ++ [(slot, msg)] })
    (v.chunk_chunk c), if_pos rfl]

/-- What the windows of a holding have taken. -/
def Dev.takings (s : Dev) (h : HoldId) : List ((Bool × Bool) × (Nat → List (Nat × Nat))) :=
  (s.holding h).windows.map RedWindow.taken

theorem Dev.addBlock_takings (s : Dev) (p : PortId) (h k : HoldId) (i c slot b : Nat) (bytes : List Byte) :
    (s.addBlock p h i c slot b bytes).takings k = s.takings k := by
  obtain hsame | ⟨w, v, hw, htaken, hstanding⟩ := s.addBlock_cases p h i c slot b bytes
  · rw [hsame]
  · refine (congrArg (fun x : Holding => x.windows.map RedWindow.taken) (Dev.kernel_of_standing hstanding k) :).trans ?_
    rw [Dev.setWindow, Dev.holding_modHolding]
    split
    next hk => exact (map_set_of_eq _ hw htaken).trans (hk ▸ rfl)
    next => rfl

/-- The window of an accepted message has it noted after those before, and no window opens or goes. -/
theorem Dev.acceptData_window (s : Dev) (p : PortId) (h : HoldId) (pol : Policy) (c slot msg i : Nat) (u : RedWindow)
    (bytes : List Byte) {w : RedWindow} (hw : s.window h i = some w) :
    let t := s.acceptData p h pol c slot msg i u bytes
    (∃ v, t.window h i = some v ∧ (v.chunk c).accepted = (w.chunk c).accepted ++ [(slot, msg)])
      ∧ (t.holding h).windows.length = (s.holding h).windows.length := by
  intro t
  let bs := messageBlocks pol c msg bytes
  let load := adderLoad pol bs.length
  let d := bs.foldl (fun d b => d.addBlock p h i c slot b.1 b.2) s
  have hadded : d.takings h = s.takings h := foldl_preserves (fun d => d.takings h) (fun d b => d.addBlock_takings ..) s bs
  have ht : (t.holding h).windows = (d.holding h).windows.mapIdx fun j v => if j = i then v.accept c slot msg load else v := by
    have hcounts : ∀ n m, ((d.count (some h) (redReg p 0x08) n).count (some h) (redReg p 0x50) m).standing = d.standing :=
      fun n m => (Dev.count_standing ..).trans (d.count_standing ..)
    simp only [t, Dev.acceptData, Dev.holding_modHolding, if_true, Holding.accept_windows]
    exact (congrArg (fun x : Holding => x.windows.mapIdx fun j v => if j = i then v.accept c slot msg load else v)
      (Dev.kernel_of_standing (hcounts _ _) h) :)
  have hlength : (d.holding h).windows.length = (s.holding h).windows.length := by
    simpa [Dev.takings] using congrArg List.length hadded
  obtain ⟨v, hv, htaken⟩ : ∃ v, (d.holding h).windows[i]? = some v ∧ v.taken = w.taken := by
    have hplace : (d.takings h)[i]? = some w.taken := by
      rw [hadded, Dev.takings, List.getElem?_map]
      exact congrArg (Option.map _) hw
    exact Option.map_eq_some_iff.1 ((List.getElem?_map ..).symm.trans hplace)
  refine ⟨⟨v.accept c slot msg load, ?_, ?_⟩, ?_⟩
  · rw [Dev.window, ht, List.getElem?_mapIdx, hv, Option.map_some, if_pos rfl]
  · have haccepted : (v.chunk c).accepted = (w.chunk c).accepted := congrFun (congrArg Prod.snd htaken) c
    rw [RedWindow.accept_accepted, haccepted]
  · rw [ht, List.length_mapIdx, hlength]

variable (hstep : s.outOfStep p h c.group.val src = false)
include hstep

theorem Dev.takeData_of_foreign (hforeign : s.ownedHere p h c src = none) :
    s.takeData p h c src msg bytes = s.misroute p h
      (if ((s.holding h).policy c.group.val c.reduction.val).any (·.fp32Wire) then 2 else 3) := by
  simp only [Dev.takeData, hstep, hforeign, Bool.false_eq_true, if_false]

variable {pol : Policy} {k : Collective} {slot : Nat} (howned : s.ownedHere p h c src = some (pol, k, slot))
include howned

/-- A message beyond its chunk, or with a block whose header fails its check, is counted (R349). -/
theorem Dev.takeData_of_damaged
    (hdamaged : pol.messagesIn c.chunk ≤ msg ∨ ∃ b ∈ messageBlocks pol c.chunk msg bytes, headerOf b.2 = none) :
    s.takeData p h c src msg bytes = (s.dataWindow p h c pol k slot msg).2.count (some h) (redReg p 0x20) 1 := by
  have hskip : pol.messagesIn c.chunk ≤ msg
      ∨ ((messageBlocks pol c.chunk msg bytes).any fun b => (headerOf b.2).isNone) = true := by
    simpa only [List.any_eq_true, Option.isNone_iff_eq_none] using hdamaged
  simp only [Dev.takeData, hstep, howned, Bool.false_eq_true, if_false, if_pos hskip]

/-- A new message of an admitted slot in an open data phase is accepted. -/
theorem Dev.takeData_of_new {i : Nat} {w : RedWindow} (hmsg : msg < pol.messagesIn c.chunk)
    (hheaders : ∀ b ∈ messageBlocks pol c.chunk msg bytes, headerOf b.2 ≠ none)
    (hplace : s.dataWindow p h c pol k slot msg = (some i, s)) (hw : s.window h i = some w) (hopen : w.dataClosed = false)
    (htimely : reached s.dt w.dataEnd = false) (hadmitted : (pol.fp32Wire || (w.chunk c.chunk).admitted.contains slot) = true)
    (hnew : (w.chunk c.chunk).accepted.contains (slot, msg) = false) :
    s.takeData p h c src msg bytes = s.acceptData p h pol c.chunk slot msg i w bytes := by
  have hwhole : ¬(pol.messagesIn c.chunk ≤ msg
      ∨ ((messageBlocks pol c.chunk msg bytes).any fun b => (headerOf b.2).isNone) = true) := by
    simpa only [List.any_eq_true, Option.isNone_iff_eq_none, not_or, not_exists, not_and, Nat.not_le] using ⟨hmsg, hheaders⟩
  simp only [Dev.takeData, hstep, howned, hplace, hw, hopen, htimely, hadmitted, hnew, if_neg hwhole, Option.bind_some,
    Option.map_some, Bool.not_true, Bool.or_self, Bool.false_eq_true, if_false]
  rfl

end Data

/-- A count beside the holdings' totals leaves windows and records of REDUCEs. -/
theorem Dev.misroute_holding (s : Dev) (p : PortId) (h k : HoldId) (n : Nat) :
    ((s.misroute p h n).holding k).windows = (s.holding k).windows
      ∧ ((s.misroute p h n).holding k).reduces = (s.holding k).reduces := by
  have hkernel := Dev.kernel_of_standing (s.count_standing (some h) (redReg p 0x28) n) k
  exact ⟨(congrArg Holding.windows hkernel :), (congrArg Holding.reduces hkernel :)⟩

/-- The window that a DATA message belongs to is looked for, or opened, in the holdings alone. -/
theorem Dev.dataWindow_frame (s : Dev) (p : PortId) (h : HoldId) (c : ChunkRef) (pol : Policy) (k : Collective)
    (slot msg : Nat) : ∃ x, (s.dataWindow p h c pol k slot msg).2 = { s with holdings := x } := by
  unfold Dev.dataWindow
  extract_lets ws wants
  split
  · exact ⟨_, rfl⟩
  · split <;> exact ⟨_, rfl⟩

theorem Dev.memScope_holding (s r : Dev) (h : HoldId) : (s.memScope r).holding h = r.holding h := rfl
theorem Dev.memScope_ctr (s r : Dev) (a : Nat) : (s.memScope r).ctr a = r.ctr a := rfl
theorem Dev.netScope_window (s r : Dev) (h : HoldId) (i : Nat) : (s.netScope r).window h i = r.window h i := rfl
theorem Dev.netScope_ctr (s r : Dev) (a : Nat) : (s.netScope r).ctr a = r.ctr a := rfl

/-- Settles O24: a message of the step reaches its window or is counted; beside windows, records and the links nothing
changes. -/
theorem scalesRepliesAndDataAreTakenOnce : Obligations.ScalesRepliesAndDataAreTakenOnce := by
  unfold Obligations.ScalesRepliesAndDataAreTakenOnce
  refine ⟨fun s p h c src bytes hup hcurrent hstep => ?_, fun s p h c src admits sexp hup hcurrent => ?_,
    fun s p h c src msg bytes hup hcurrent hstep => ?_, fun s p h c src hunheard => ?_⟩
  · have hexec : exec (.scale p h c src bytes) s = .next
        { s with dev := s.dev.netScope (s.dev.takeScale p h c src.device bytes) } :=
      work_current Dev.netScope hup hcurrent _
    refine ⟨fun hforeign => ?_, fun pol k slot i w howned hwire hnewest hnew => ⟨fun hopen hmissing => ?_, fun hlate hother => ?_⟩⟩
    · rw [Dev.takeScale_of_foreign hstep hforeign] at hexec
      exact ⟨_, hexec, rfl, s.dev.ctr_count_same (some h) _ 1, (s.dev.misroute_holding p h h 1).1, rfl, rfl⟩
    · rw [Dev.takeScale_of_timely hstep howned hwire hnewest hnew bytes hopen hmissing] at hexec
      have hw := (Dev.scaleWindow_of_newest hnewest hnew pol k).2
      refine ⟨_, hexec, rfl, ?_, ?_, ?_, ?_⟩
      · exact (Dev.netScope_window ..).trans (Dev.window_setWindow hw _)
      · exact Dev.netScope_mem ..
      · exact Dev.netScope_ctrs ..
      · exact Dev.netScope_cores ..
    · rw [Dev.takeScale_of_late hstep howned hwire hnewest hnew bytes hlate] at hexec
      have hw := (Dev.scaleWindow_of_newest hnewest hnew pol k).2
      obtain ⟨hput, hctr, hmem, hcores⟩ := Dev.refuse_other p c hother (w.chunk c.chunk).answerBytes hw
        (v := w.setChunk { w.chunk c.chunk with seen := (w.chunk c.chunk).seen ++ [slot] })
      exact ⟨_, hexec, rfl, (Dev.netScope_window ..).trans hput, (Dev.netScope_ctr ..).trans hctr,
        (Dev.netScope_mem ..).trans hmem, (Dev.netScope_cores ..).trans hcores⟩
  · have hexec : exec (.reply p h c src admits sexp) s = .next
        { s with dev := s.dev.netScope (s.dev.takeReply p h c src.device admits sexp) } :=
      work_current Dev.netScope hup hcurrent _
    refine ⟨fun q pol k hfound hpol hmembers howner => ?_, fun hnone => ?_, fun hsome hnone => ?_⟩
    · have hq : q ∈ (s.dev.holding h).reduces := List.mem_of_find?_eq_some hfound
      have hnoted := Dev.mem_modReduce hq (sameReduce_self q) fun z => z.answered c.chunk admits
      have hcores := (s.dev.takeReply_reduces p h c src.device admits sexp).cores
      rw [Dev.takeReply_of_first p admits sexp hfound hpol hmembers howner] at hexec hcores
      refine ⟨_, hexec, rfl, ?_, fun hrefused => ?_, hcores, rfl⟩
      · cases admits with
        | false => exact ⟨_, hnoted, sameReduce_self q, rfl⟩
        | true => exact Dev.sendOrOwe_replied sexp hnoted (sameReduce_self q) c.chunk
      · simp only [hrefused, Bool.false_eq_true, if_false]
        exact ⟨Dev.netScope_gate .., Dev.netScope_ports .., Dev.netScope_mem ..⟩
    · rw [Dev.takeReply_of_unknown p admits sexp hnone] at hexec
      exact ⟨_, hexec, rfl, s.dev.ctr_count_same (some h) _ 1, fun k => (s.dev.misroute_holding p h k 1).2, rfl, rfl, rfl⟩
    · exact work_unlessStale_same Dev.netScope_besideQueues
        (.inr (Dev.takeReply_of_unasked p admits sexp hsome (List.find?_eq_none.2 fun q hq => Bool.eq_false_iff.1 (hnone q hq))))
  · have hexec : exec (.dataMessage p h c src msg bytes) s = .next
        { s with dev := s.dev.memScope (s.dev.takeData p h c src.device msg bytes) } :=
      work_current Dev.memScope hup hcurrent _
    refine ⟨fun hforeign => ?_, fun pol k slot howned => ⟨fun hdamaged => ?_,
      fun hmsg hheaders i w hplace hw hopen htimely hadmitted hnew => ?_⟩⟩
    · rw [Dev.takeData_of_foreign hstep hforeign] at hexec
      exact ⟨_, hexec, rfl, s.dev.ctr_count_same (some h) _ _, (s.dev.misroute_holding p h h _).1, rfl⟩
    · rw [Dev.takeData_of_damaged hstep howned hdamaged] at hexec
      obtain ⟨x, hframe⟩ := s.dev.dataWindow_frame p h c pol k slot msg
      have hctr := (s.dev.dataWindow p h c pol k slot msg).2.ctr_count_same (some h) (redReg p 0x20) 1
      have hkernel := Dev.kernel_of_standing
        ((s.dev.dataWindow p h c pol k slot msg).2.count_standing (some h) (redReg p 0x20) 1) h
      have hmem := (congrArg Dev.mem hframe :)
      have hbefore : (s.dev.dataWindow p h c pol k slot msg).2.ctr (redReg p 0x20) = s.dev.ctr (redReg p 0x20) := by
        rw [hframe]
        rfl
      rw [hbefore] at hctr
      have hwindows := (congrArg Holding.windows hkernel :)
      exact ⟨_, hexec, rfl, (Dev.memScope_ctr ..).trans hctr, (congrArg Holding.windows (Dev.memScope_holding ..)).trans hwindows,
        (Dev.memScope_mem ..).trans hmem⟩
    · have hcores := (s.dev.takeData_sums p h c src.device msg bytes).cores
      rw [Dev.takeData_of_new hstep howned hmsg hheaders hplace hw hopen htimely hadmitted hnew] at hexec hcores
      obtain ⟨hnoted, hlength⟩ := s.dev.acceptData_window p h pol c.chunk slot msg i w bytes hw
      exact ⟨_, hexec, rfl, hnoted, hlength, hcores⟩
  · refine ⟨fun bytes => work_unlessStale_same Dev.netScope_besideQueues ?_,
      fun msg bytes => work_unlessStale_same Dev.memScope_besideQueues ?_⟩
    · exact hunheard.imp_right fun hout => Dev.takeScale_of_outOfStep hout bytes
    · exact hunheard.imp_right fun hout => Dev.takeData_of_outOfStep hout msg bytes

end Sys2Proof.Machine

/-! REDUCE and GATHER_WAIT (R347, R351, R357), and the deadlines of a reduction's windows (R345, R348, R350). -/

namespace Sys2Proof.Machine

/-! ### The moment of a deadline (R476) -/

theorem Dev.advanceTo_cores (s : Dev) (t : Word64) : (s.advanceTo t).cores = s.cores := by
  obtain ⟨dt, hadvance⟩ := s.advanceTo_frame t
  rw [hadvance]

theorem Dev.advanceTo_window (s : Dev) (t : Word64) (h : HoldId) (i : Nat) : (s.advanceTo t).window h i = s.window h i := by
  obtain ⟨dt, hadvance⟩ := s.advanceTo_frame t
  rw [hadvance]
  rfl

/-! ### The end of a descriptor that no consumer runs (R177, R188) -/

theorem Core.class_of_running {x : Core} {cls : Nat} {ops : List Nat} {e : WEntry} (h : x.running cls ops = some e) :
    classOf e.desc = cls := by
  simp only [Core.running, Core.started, Option.bind_eq_some_iff] at h
  obtain ⟨w, hw, he⟩ := h
  have hpick := List.find?_some hw
  simp only [Bool.and_eq_true, beq_iff_eq] at hpick
  split at he <;> cases he
  exact hpick.1.2

/-- An entry with its unit's host bytes gone completes, and no stall is counted. -/
theorem Dev.finish_of_noConsumer {e : WEntry} (hreplay : e.replay = false) (hunit : unitOf (classOf e.desc) = none)
    (s : Dev) (c : CoreId) (h : HoldId) (r : Dev) :
    s.finish c h e r = r.modCore c fun x => { x.completeEntry e with hostBuf := [] } := by
  simp only [Dev.finish, hreplay, hunit, Bool.false_eq_true, if_false]

/-- Completion is read from the cores alone. -/
theorem Dev.completed_of_cores {s t : Dev} (hcores : t.cores = s.cores) {c : CoreId} {e : WEntry} (hdone : s.completed c e) :
    t.completed c e := by
  rwa [Dev.completed, Dev.core_congr hcores]

/-- A body that must wait leaves the device as it is. -/
theorem Dev.runUnit_of_waits {s : Dev} {c : CoreId} {cls : Nat} {ops : List Nat} {e : WEntry} {h : HoldId}
    {body : Agent → WEntry → Run → Option Run} (ready : s.unitReady c cls ops e h)
    (hbody : body ((s.core c).agent c h e) e { dev := s } = none) : s.runUnit c cls ops body = s := by
  obtain ⟨hrun, hhold, hcore⟩ := ready
  simp [Dev.runUnit, Dev.runPhased, hrun, hhold, hcore, hbody]

/-- A run of a unit that leaves the cores alone ends with its entry completed, and with every other core as it was. -/
theorem Dev.runUnit_leavesCores {s r : Dev} {c : CoreId} {cls : Nat} {ops : List Nat} {e : WEntry} {h : HoldId}
    {body : Agent → WEntry → Run → Option Run} (ready : s.unitReady c cls ops e h)
    (hbody : body ((s.core c).agent c h e) e { dev := s } = some { dev := r }) (hcores : r.cores = s.cores)
    (hreplay : e.replay = false) (hunit : unitOf cls = none) :
    s.runUnit c cls ops body = r.modCore c (fun x => { x.completeEntry e with hostBuf := [] })
      ∧ (s.runUnit c cls ops body).completed c e ∧ ∀ k : CoreId, k ≠ c → (s.runUnit c cls ops body).core k = s.core k := by
  have hrun := Dev.runUnit_of_ready ready hbody rfl rfl
  have hname : (e.stream, e.index) ∈ r.names c := by
    rw [Dev.names_congr hcores]
    exact Core.name_mem_of_running ready.1
  rw [hrun]
  refine ⟨Dev.finish_of_noConsumer hreplay ?_ s c h r, Dev.finish_completed hname, fun k hk => ?_⟩
  · rw [Core.class_of_running ready.1, hunit]
  · rw [Dev.finish_core, if_neg hk, Dev.core_congr hcores]

/-! ### GATHER_WAIT (R347, R351) -/

section Wait
variable (c : CoreId) {a : Agent} {e : WEntry} {s : Dev}

/-- Every chunk that a GATHER_WAIT names has been gathered. -/
def Dev.allGathered (s : Dev) (h : HoldId) (e : WEntry) : Bool :=
  (List.range (collOf e.desc).chunks).all fun i =>
    (s.holding h).chunkGathered (collOf e.desc).group (collOf e.desc).reduction ((collOf e.desc).first + i)

/-- A GATHER_WAIT over its chunks completes at its holding. -/
def Dev.endWait (s : Dev) (h : HoldId) (k : Coll) : Dev :=
  s.modHolding h fun y => y.endWait k.group k.reduction k.first k.chunks

theorem gatherWaitBody_of_gathered (hall : s.allGathered a.holding e = true) :
    gatherWaitBody c a e { dev := s } = some { dev := s.endWait a.holding (collOf e.desc) } := if_pos hall

theorem gatherWaitBody_of_missing (hall : s.allGathered a.holding e = false) :
    gatherWaitBody c a e { dev := s } = none := if_neg (by rw [Dev.allGathered] at hall; simp [hall])

/-- A window that expires with chunks missing counts them, and ends the wait with TIMEOUT. -/
theorem expiryBody_of_missing {pol : Policy} (hall : s.allGathered a.holding e = false)
    (hpol : (s.holding a.holding).policy (collOf e.desc).group (collOf e.desc).reduction = some pol) :
    ∃ d : Dev, expiryBody c a e { dev := s } = some { dev := d.runFault c (some a.holding) e.index .timeout }
      ∧ d.cores = s.cores ∧ d.dt = (s.advanceTo (e.startTime + BitVec.ofNat 64 pol.gatherWindow)).dt := by
  unfold expiryBody
  extract_lets k h x missing
  have hpol' : x.policy k.group k.reduction = some pol := hpol
  simp only [hpol']
  have hmissing : missing ≠ [] := by
    obtain ⟨i, hi, hgathered⟩ := List.all_eq_false.1 hall
    refine List.ne_nil_of_mem (a := k.first + i) (List.mem_filter.2 ⟨List.mem_map.2 ⟨i, hi, rfl⟩, ?_⟩)
    simpa using hgathered
  let s0 := s.advanceTo (e.startTime + BitVec.ofNat 64 pol.gatherWindow)
  have hcounts := Dev.Sums.foldl (fun d i => .of_standing (d.redMiss_standing ((x.rankPort i).getD 0) h k.group k.reduction))
    s0 missing
  exact ⟨_, if_neg hmissing, hcounts.cores.trans (s.advanceTo_cores _), hcounts.dt⟩

end Wait

/-- SEQ_FAULT of a core takes the fault of its stream (R102). -/
theorem Dev.runFault_fault (s : Dev) (c : CoreId) (h : Option HoldId) (i : Word32) (k : Status) :
    (s.runFault c h i k).reg (seqReg c 4) = 0x80000000 ||| ((i &&& 0x7FFF) <<< 16) ||| k.code.setWidth 32 := by
  have hne : seqReg c 4 ≠ coreEvent c := by
    unfold seqReg coreReg coreEvent regAt
    omega
  have hreg : ∀ v, ((s.setReg (seqReg c 4) v).event (coreEvent c) evRunFault).reg (seqReg c 4) = v := fun v => by
    rw [Dev.reg_event, if_neg hne, Dev.reg_setReg, if_pos rfl]
  cases h <;> exact hreg _

/-! ### The deadlines (R345, R348, R350) -/

section Deadlines
variable {s : Dev} (p : PortId) {h : HoldId} {g r i : Nat} {w : RedWindow}

theorem Dev.scaleDeadline_of_none
    (hclosed : ∀ q ∈ (s.holding h).windowsOf p g r, q.2.dataClosed = true) : s.scaleDeadline p h g r = s := by
  have hnone : (((s.holding h).windowsOf p g r).find? fun q => !q.2.scaleClosed && !q.2.dataClosed) = none :=
    List.find?_eq_none.2 fun q hq => by simp [hclosed q hq]
  rw [Dev.scaleDeadline, hnone]

theorem Dev.dataDeadline_of_none
    (hclosed : ∀ q ∈ (s.holding h).windowsOf p g r, q.2.dataClosed = true) : s.dataDeadline p h g r = s := by
  have hnone : (((s.holding h).windowsOf p g r).find? fun q => !q.2.dataClosed) = none :=
    List.find?_eq_none.2 fun q hq => by simp [hclosed q hq]
  rw [Dev.dataDeadline, hnone]

/-- At its scale deadline a window's scale phase closes; the answers to its chunks leave its data phase open. -/
theorem Dev.scaleDeadline_of_open
    (hfind : (((s.holding h).windowsOf p g r).find? fun q => !q.2.scaleClosed && !q.2.dataClosed) = some (i, w)) :
    (∃ v, (s.scaleDeadline p h g r).window h i = some v ∧ v.scaleClosed = true ∧ v.dataClosed = false)
      ∧ (s.scaleDeadline p h g r).dt = (s.advanceTo w.scaleEnd).dt ∧ (s.scaleDeadline p h g r).cores = s.cores := by
  have hw : s.window h i = some w := Holding.window_of_mem (List.mem_of_find?_eq_some hfind)
  have hopen : w.dataClosed = false := by
    have hpick := List.find?_some hfind
    simp only [Bool.and_eq_true, Bool.not_eq_true'] at hpick
    exact hpick.2
  let s1 := (s.advanceTo w.scaleEnd).setWindow h i { w with scaleClosed := true }
  have hput : s1.window h i = some { w with scaleClosed := true } :=
    Dev.window_setWindow ((s.advanceTo_window ..).trans hw) _
  have hanswers : s1.Reduces (s.scaleDeadline p h g r) := by
    rw [Dev.scaleDeadline, hfind]
    exact .foldl (fun d k => d.answerChunk_reduces ..) s1 _
  obtain ⟨v, hv, hscale, hdata⟩ := hanswers.window hput
  exact ⟨⟨v, hv, hscale, hdata.trans hopen⟩, hanswers.dt.trans (Dev.setWindow_dt ..),
    hanswers.cores.trans ((Dev.setWindow_cores ..).trans (s.advanceTo_cores _))⟩

/-- At its data deadline a window closes, with every block of the die's chunks final. -/
theorem Dev.dataDeadline_of_open
    (hfind : (((s.holding h).windowsOf p g r).find? fun q => !q.2.dataClosed) = some (i, w)) :
    (∃ v, (s.dataDeadline p h g r).window h i = some v ∧ v.scaleClosed = true ∧ v.dataClosed = true
        ∧ ∀ ch ∈ s.dieChunks p h w, ∀ b < w.policy.blocksIn ch, (Tab.get {} (v.chunk ch).blocks b).final = true)
      ∧ (s.dataDeadline p h g r).dt = (s.advanceTo w.dataEnd).dt ∧ (s.dataDeadline p h g r).cores = s.cores := by
  have hw : s.window h i = some w := Holding.window_of_mem (List.mem_of_find?_eq_some hfind)
  let closed := (s.dieChunks p h w).foldl (fun v c => v.closeChunk c) w
  let w1 := { closed with scaleClosed := true, dataClosed := true }
  let s1 := (s.advanceTo w.dataEnd).setWindow h i w1
  have hput : s1.window h i = some w1 := Dev.window_setWindow ((s.advanceTo_window ..).trans hw) _
  have hwrites : (s.dataDeadline p h g r).standing = s1.standing := by
    rw [Dev.dataDeadline, hfind]
    exact (Dev.writeVa_standing ..).trans (Dev.modRed_standing ..)
  have hpolicy : closed.policy = w.policy := foldl_preserves RedWindow.policy (f := fun v c => v.closeChunk c) (fun _ _ => rfl) w _
  have hsums := Dev.Sums.of_standing hwrites
  refine ⟨⟨w1, (Dev.window_of_kernel (Dev.kernel_of_standing hwrites h) i).trans hput, rfl, rfl, fun ch hch b hb => ?_⟩,
    hsums.dt.trans (Dev.setWindow_dt ..), hsums.cores.trans ((Dev.setWindow_cores ..).trans (s.advanceTo_cores _))⟩
  have hfinal : closed.chunkFinal ch = true := w.closeChunks_final hch
  exact RedWindow.chunkFinal_iff.1 hfinal b (hpolicy ▸ hb)

end Deadlines

/-! ### The commands -/

/-- A REDUCE that ends completes; trailers that are owed without a gather leave behind it (R376). -/
theorem Dev.reduce_completes {s : Dev} {c : CoreId} {e : WEntry} {h : HoldId} (ready : s.unitReady c 6 [0] e h)
    (ends : runEnds (reduceBody c ((s.core c).agent c h e) e { dev := s })) :
    (s.netScope (allHoldings.foldl Dev.emptyTrailers (s.runPhased c 6 [0] (reduceBody c)))).completed c e := by
  obtain ⟨q, hbody, hrun⟩ := Dev.runPhased_of_runEnds ready ends
  have hname : (e.stream, e.index) ∈ q.dev.names c := by
    rw [Dev.names_congr (reduceBody_cores hbody)]
    exact Core.name_mem_of_running ready.1
  have hcores := foldl_preserves Dev.cores (fun d h => d.emptyTrailers_cores h) (s.runPhased c 6 [0] (reduceBody c)) allHoldings
  rw [hrun] at hcores ⊢
  exact Dev.completed_of_cores ((Dev.netScope_cores ..).trans hcores) (Dev.finish_completed hname)

/-- A register of its own is read from the registers alone. -/
theorem Dev.reg_of_regs {s t : Dev} (hregs : t.regs = s.regs) (a : Nat) : t.reg a = s.reg a := by
  simp only [Dev.reg, hregs]

/-- An expiry goes on in what its run leaves of the core, at its moment. -/
theorem exec_gatherWindowExpiry {s : State} (c : CoreId) (hup : s.dev.clocked = true) :
    ∃ t, exec (.gatherWindowExpiry c) s = .next t ∧ t.pending = s.pending
      ∧ t.dev.cores = (s.dev.runUnit c 6 [1] (expiryBody c)).cores
      ∧ t.dev.regs = (s.dev.runUnit c 6 [1] (expiryBody c)).regs ∧ t.dev.dt = (s.dev.runUnit c 6 [1] (expiryBody c)).dt
      ∧ t.dev.mem = s.dev.mem ∧ t.dev.queues = s.dev.queues :=
  ⟨_, work_clocked s _ hup, rfl, Dev.coreScope_cores s.dev _, Dev.coreScope_regs s.dev _, rfl, rfl, rfl⟩

section GatherWait
variable {s : State} {c : CoreId} {e : WEntry} {h : HoldId} (ready : s.dev.unitReady c 6 [1] e h)
include ready

theorem exec_gatherWait_of_missing (hall : s.dev.allGathered h e = false) : exec (.gatherWait c) s = .next s := by
  have hwaits : s.dev.runUnit c 6 [1] (gatherWaitBody c) = s.dev :=
    Dev.runUnit_of_waits ready (gatherWaitBody_of_missing c hall)
  change work s (s.dev.coreScope _) = .next s
  rw [hwaits, work_same Dev.coreScope_besideQueues]

variable (hreplay : e.replay = false)
include hreplay

theorem exec_gatherWait_of_gathered (hall : s.dev.allGathered h e = true) :
    ∃ t, exec (.gatherWait c) s = .next t ∧ t.pending = s.pending ∧ t.dev.completed c e
      ∧ t.dev.holding h = (s.dev.endWait h (collOf e.desc)).holding h ∧ s.dev.sameBeyondCore t.dev c := by
  obtain ⟨hrun, hdone, hothers⟩ := Dev.runUnit_leavesCores (r := s.dev.endWait h (collOf e.desc)) ready
    (gatherWaitBody_of_gathered c hall) rfl hreplay rfl
  refine ⟨_, work_clocked s _ (Dev.clocked_of_coreRuns ready.2.2), rfl, ?_, ?_, Dev.sameBeyondCore_coreScope hothers⟩
  · exact Dev.completed_of_cores (Dev.coreScope_cores ..) hdone
  · rw [hrun]
    rfl

theorem exec_gatherWindowExpiry_of_missing {pol : Policy} (hall : s.dev.allGathered h e = false)
    (hpol : (s.dev.holding h).policy (collOf e.desc).group (collOf e.desc).reduction = some pol) :
    ∃ t, exec (.gatherWindowExpiry c) s = .next t ∧ t.pending = s.pending ∧ t.dev.completed c e
      ∧ t.dev.reg (seqReg c 4) = 0x80000000 ||| ((e.index &&& 0x7FFF) <<< 16) ||| Status.timeout.code.setWidth 32
      ∧ t.dev.dt = (s.dev.advanceTo (e.startTime + BitVec.ofNat 64 pol.gatherWindow)).dt
      ∧ t.dev.mem = s.dev.mem ∧ t.dev.queues = s.dev.queues := by
  obtain ⟨d, hbody, hcores, hdt⟩ := expiryBody_of_missing c (a := (s.dev.core c).agent c h e) hall hpol
  obtain ⟨hrun, hdone, -⟩ := Dev.runUnit_leavesCores ready hbody ((d.runFault_cores ..).trans hcores) hreplay rfl
  obtain ⟨t, hexec, hpend, htcores, htregs, htdt, hrest⟩ :=
    exec_gatherWindowExpiry c (Dev.clocked_of_coreRuns ready.2.2)
  have hregs := htregs.trans ((congrArg Dev.regs hrun).trans (Dev.modCore_regs ..))
  have hfaultDt : (d.runFault c (some h) e.index .timeout).dt = d.dt :=
    (congrArg (·.1.dt) (d.runFault_standing c (some h) e.index .timeout) :)
  exact ⟨t, hexec, hpend, Dev.completed_of_cores htcores hdone,
    (Dev.reg_of_regs hregs _).trans (d.runFault_fault c (some h) e.index .timeout),
    htdt.trans ((congrArg Dev.dt hrun).trans ((Dev.modCore_dt ..).trans (hfaultDt.trans hdt))), hrest⟩

end GatherWait

/-- Without an open window a deadline command leaves the state as it is. -/
theorem exec_deadline_of_none {s : State} (p : PortId) (h : HoldId) (g r : Fin 256)
    (hclosed : ∀ q ∈ (s.dev.holding h).windowsOf p g.val r.val, q.2.dataClosed = true) :
    exec (.scaleDeadline p h g r) s = .next s ∧ exec (.dataDeadline p h g r) s = .next s := by
  have hscale : ({ s.dev.netScope (s.dev.scaleDeadline p h g.val r.val) with
      dt := (s.dev.scaleDeadline p h g.val r.val).dt } : Dev) = s.dev := by
    rw [Dev.scaleDeadline_of_none p hclosed, Dev.netScope_besideQueues.self]
  have hdata : ({ s.dev.memScope (s.dev.dataDeadline p h g.val r.val) with
      dt := (s.dev.dataDeadline p h g.val r.val).dt } : Dev) = s.dev := by
    rw [Dev.dataDeadline_of_none p hclosed, Dev.memScope_besideQueues.self]
  exact ⟨(congrArg (work s) hscale).trans (work_self s), (congrArg (work s) hdata).trans (work_self s)⟩

section DeadlineCommands
variable {s : State} (hup : s.dev.clocked = true) (p : PortId) (h : HoldId) (g r : Fin 256)
include hup

/-- A deadline command goes on in what its deadline leaves, at its moment. -/
theorem exec_scaleDeadline :
    ∃ t, exec (.scaleDeadline p h g r) s = .next t ∧ t.pending = s.pending
      ∧ t.dev.holdings = (s.dev.scaleDeadline p h g.val r.val).holdings ∧ t.dev.dt = (s.dev.scaleDeadline p h g.val r.val).dt
      ∧ t.dev.cores = (s.dev.scaleDeadline p h g.val r.val).cores :=
  ⟨_, work_clocked s _ hup, rfl, Dev.netScope_holdings s.dev _, rfl, Dev.netScope_cores s.dev _⟩

theorem exec_dataDeadline :
    ∃ t, exec (.dataDeadline p h g r) s = .next t ∧ t.pending = s.pending
      ∧ t.dev.holdings = (s.dev.dataDeadline p h g.val r.val).holdings ∧ t.dev.dt = (s.dev.dataDeadline p h g.val r.val).dt
      ∧ t.dev.cores = (s.dev.dataDeadline p h g.val r.val).cores :=
  ⟨_, work_clocked s _ hup, rfl, Dev.memScope_holdings s.dev _, rfl, Dev.memScope_cores s.dev _⟩

end DeadlineCommands

/-- Windows are read from the holdings alone. -/
theorem Dev.window_of_holdings {s t : Dev} (hholdings : t.holdings = s.holdings) (h : HoldId) (i : Nat) :
    t.window h i = s.window h i := by
  simp only [Dev.window, Dev.holding, hholdings]

/-- Settles O23: a REDUCE's work and a wait leave the cores alone until their entry completes; a deadline closes its window,
and what it answers leaves every window's phases. -/
theorem reductionsRunAndTheirPhasesClose : Obligations.ReductionsRunAndTheirPhasesClose := by
  unfold Obligations.ReductionsRunAndTheirPhasesClose
  refine ⟨fun s c e h => ⟨fun ready ends => ?_, ?_⟩, fun s p h g r hup => ⟨fun i w hfind => ?_, fun i w hfind => ?_,
    exec_deadline_of_none p h g r⟩⟩
  · exact ⟨_, work_clocked s _ (Dev.clocked_of_coreRuns ready.2.2), rfl, Dev.reduce_completes ready ends,
      Dev.netScope_queues .., Dev.netScope_gotre .., Dev.netScope_stackTab ..⟩
  · intro k got ready
    refine ⟨fun hgot hreplay => ?_, exec_gatherWait_of_missing ready, fun pol hgot hreplay hpol =>
      exec_gatherWindowExpiry_of_missing ready hreplay hgot hpol⟩
    obtain ⟨t, hexec, hpend, hdone, hholding, hsame⟩ := exec_gatherWait_of_gathered ready hreplay hgot
    have hends := s.dev.holding_modHolding h h fun y => y.endWait k.group k.reduction k.first k.chunks
    rw [if_pos rfl] at hends
    exact ⟨t, hexec, hpend, hdone, (congrArg Holding.reduces (hholding.trans hends) :), hsame⟩
  · obtain ⟨hphases, hdt, hcores⟩ := Dev.scaleDeadline_of_open p hfind
    obtain ⟨t, hexec, hpend, hholdings, ht, hsame⟩ := exec_scaleDeadline hup p h g r
    rw [← Dev.window_of_holdings hholdings] at hphases
    exact ⟨t, hexec, hpend, hphases, ht.trans hdt, hsame.trans hcores⟩
  · obtain ⟨hphases, hdt, hcores⟩ := Dev.dataDeadline_of_open p hfind
    obtain ⟨t, hexec, hpend, hholdings, ht, hsame⟩ := exec_dataDeadline hup p h g r
    rw [← Dev.window_of_holdings hholdings] at hphases
    exact ⟨t, hexec, hpend, hphases, ht.trans hdt, hsame.trans hcores⟩

end Sys2Proof.Machine

/-! The commands and the queue of those behind them; the limiter's invariant at reset (R478 to R481). -/

namespace Sys2Proof.Machine

/-- Settles O1: the step's own arm for a queue that is not empty. -/
theorem stepRunsTheFrontCommand : Obligations.StepRunsTheFrontCommand := by
  unfold Obligations.StepRunsTheFrontCommand
  intro c cs d
  rfl

/-- A command at an address that has a next state leaves the queue of pending commands as it was. -/
theorem atAddress_pending {pa : Nat} {s t : State} {d : Dev} (hrun : atAddress pa s d = .next t) : t.pending = s.pending := by
  by_cases h : memExists pa = true
  · rw [atAddress_of_exists h] at hrun
    cases hrun
    rfl
  · rw [atAddress_of_absent h] at hrun
    cases hrun

/-- Settles O2: every arm of the dispatch replaces the device alone; the four commands at an address may also stop. -/
theorem commandsLeaveTheQueueAlone : Obligations.CommandsLeaveTheQueueAlone := by
  unfold Obligations.CommandsLeaveTheQueueAlone
  intro c s t hrun
  cases c with
  | memRead => exact atAddress_pending hrun
  | memWrite => exact atAddress_pending hrun
  | clearance => exact atAddress_pending hrun
  | scrubBlock => exact atAddress_pending hrun
  | _ =>
    cases hrun
    rfl

/-- Settles O5: at reset the limit is 3,000 W, no edge is swallowed and save memory holds no image. -/
theorem limiterIsLegalAtReset : Obligations.LimiterIsLegalAtReset := by
  unfold Obligations.LimiterIsLegalAtReset
  refine ⟨by decide, by decide, by decide, by decide, by decide, fun im him => ?_⟩
  cases him

end Sys2Proof.Machine

/-! What only the keeper's own work changes (R478 to R494): the clocks and power, save memory and the pins. Whatever the
units, Gotre, the links, a fence and an abort do leaves them alone. -/

namespace Sys2Proof.Machine

/-! ### The keeper's part of a device -/

/-- Power, save memory and the pins. -/
def Dev.supply (s : Dev) : Power × Option SavedImage × Pins := (s.power, s.saved, s.pins)

section Parts
variable {s t : Dev} (h : t.supply = s.supply)
include h

theorem Dev.power_of_supply : t.power = s.power := congrArg Prod.fst h
theorem Dev.saved_of_supply : t.saved = s.saved := congrArg (fun x => x.2.1) h
theorem Dev.pins_of_supply : t.pins = s.pins := congrArg (fun x => x.2.2) h

end Parts

/-- What accesses to memory leave alone holds the keeper's part. -/
theorem Dev.supply_of_standing {s t : Dev} (h : t.standing = s.standing) : t.supply = s.supply :=
  congrArg (fun x : Dev × (HoldId → Holding) => x.1.supply) h

/-- So does what messages leave alone. -/
theorem Dev.Tells.supply {s t : Dev} (h : s.Tells t) : t.supply = s.supply := (congrArg Dev.supply h.untold :)

theorem foldl_supply {α : Type} {f : Dev → α → Dev} (h : ∀ d a, (f d a).supply = d.supply) (s : Dev) (l : List α) :
    (l.foldl f s).supply = s.supply := foldl_preserves Dev.supply h s l

/-! ### The shared updates -/

section Updates
variable (s : Dev)

@[simp] theorem Dev.setReg_supply (a : Nat) (v : Word32) : (s.setReg a v).supply = s.supply := rfl
@[simp] theorem Dev.event_supply (a : Nat) (b : Word32) : (s.event a b).supply = s.supply := rfl
@[simp] theorem Dev.accessEvent_supply (d : Nat) (b : Word32) : (s.accessEvent d b).supply = s.supply := rfl
@[simp] theorem Dev.count_supply (h : Option HoldId) (a n : Nat) : (s.count h a n).supply = s.supply := rfl
@[simp] theorem Dev.countFree_supply (h : Option HoldId) (a : Nat) : (s.countFree h a).supply = s.supply := rfl
@[simp] theorem Dev.modHolding_supply (h : HoldId) (f : Holding → Holding) : (s.modHolding h f).supply = s.supply := rfl
@[simp] theorem Dev.modCore_supply (c : CoreId) (f : Core → Core) : (s.modCore c f).supply = s.supply := rfl
@[simp] theorem Dev.modDie_supply (d : Nat) (f : Die → Die) : (s.modDie d f).supply = s.supply := rfl
@[simp] theorem Dev.emits_supply (es : List Emit) : (s.emits es).supply = s.supply := rfl
@[simp] theorem Dev.setGuard_supply (d : Nat) (p : Path) (on : Bool) : (s.setGuard d p on).supply = s.supply := rfl
@[simp] theorem Dev.unitFenced_supply (die : Nat) (core : Option CoreId) (cause : FenceCause) :
    (s.unitFenced die core cause).supply = s.supply := rfl
@[simp] theorem Dev.gotreRestarted_supply (n : Nat) : (s.gotreRestarted n).supply = s.supply := rfl
@[simp] theorem Dev.resetRegisters_supply (covers keeps : Nat → Bool) : (s.resetRegisters covers keeps).supply = s.supply := rfl
@[simp] theorem Dev.resetCause_supply (cause kind : Nat) : (s.resetCause cause kind).supply = s.supply := rfl
@[simp] theorem Dev.resetCore_supply (c : CoreId) : (s.resetCore c).supply = s.supply := rfl
@[simp] theorem Dev.countReason_supply (r : Nat) : (s.countReason r).supply = s.supply := rfl

@[simp] theorem Dev.finishJob_supply (n : Nat) (st : Status) (result : BitVec 128) : (s.finishJob n st result).supply = s.supply := by
  unfold Dev.finishJob
  split
  · split
    · rfl
    · split <;> rfl
  · rfl

@[simp] theorem Dev.passTurn_supply (j : Job) : (s.passTurn j).supply = s.supply := by
  unfold Dev.passTurn
  split <;> rfl

@[simp] theorem Dev.setFunc_supply (h : HoldId) (f : Holding → Holding) : (s.setFunc h f).supply = s.supply := by
  unfold Dev.setFunc
  dsimp only
  split <;> rfl

@[simp] theorem Dev.setUp_supply (up : Bool) : (s.setUp up).supply = s.supply := by
  unfold Dev.setUp
  split <;> rfl

theorem Dev.endActivity_supply (n : Nat) (st : ActState) (status : Status) : (s.endActivity n st status).supply = s.supply := by
  unfold Dev.endActivity
  split
  · rfl
  · split
    · rfl
    · dsimp only
      split
      · exact Dev.finishJob_supply ..
      · rfl

end Updates

/-! ### Messages, ports and clearances (R253, R309 to R317, R383, R393) -/

section Messages
variable (s : Dev)

@[simp] theorem Dev.send_supply (dst : BitVec 16) (vc : Fin 4) (o : Owner) (m : OutMsg) : (s.send dst vc o m).supply = s.supply :=
  (s.send_tells dst vc o m).supply
@[simp] theorem Dev.drain_supply (p : PortId) : (s.drain p).supply = s.supply := (s.drain_sends p).tells.supply
@[simp] theorem Dev.settleEgress_supply (mine : EgressItem → Bool) (kind : Clearance) :
    (s.settleEgress mine kind).supply = s.supply := Dev.supply_of_standing (s.settleEgress_standing mine kind)
@[simp] theorem Dev.perform_supply (r : MemReq) : (s.perform r).supply = s.supply := Dev.supply_of_standing (s.perform_standing r)

@[simp] theorem Dev.setPortState_supply (p : PortId) (st : PortState) (f : Port → Port) : (s.setPortState p st f).supply = s.supply := by
  obtain ⟨bits, htells⟩ := s.setPortState_tells p st f
  exact htells.supply

@[simp] theorem Dev.restartPort_supply (p : PortId) : (s.restartPort p).supply = s.supply := by
  unfold Dev.restartPort
  dsimp only
  split
  · rfl
  · rfl
  · rfl
  · exact s.setPortState_supply ..

@[simp] theorem Dev.restartPorts_supply : s.restartPorts.supply = s.supply := foldl_supply (fun d p => d.restartPort_supply p) _ _

@[simp] theorem Dev.klxCtrlDone_supply (p : PortId) : (s.klxCtrlDone p).supply = s.supply := by
  unfold Dev.klxCtrlDone
  dsimp only
  split
  · split
    · split <;> exact Dev.setPortState_supply ..
    · rfl
  · exact s.setPortState_supply ..

@[simp] theorem Dev.disablePort_supply (p : PortId) : (s.disablePort p).supply = s.supply := s.setPortState_supply ..

theorem Dev.cross_supply (requester here goal : Nat) : (s.cross requester here goal).supply = s.supply := by
  unfold Dev.cross
  split <;> rfl

/-- A clearance at its controller, with what goes on after it. -/
theorem Dev.clear_supply (b : Nat) (secs : List Nat) (o : Owner) (e : BitVec 16) (kind : Clearance) :
    (s.clear b secs o e kind).supply = s.supply :=
  Dev.supply_of_standing ((Dev.releaseTimes_standing _ _).trans (s.request_standing _))

theorem Dev.settleOne_supply (p : PendWrite) (kind : Clearance) : (s.settleOne p kind).supply = s.supply := by
  refine (Dev.clear_supply ..).trans ((Dev.cross_supply ..).trans ?_)
  cases kind with
  | withdraw => rfl
  | pass => rfl
  | fail =>
    dsimp only
    split <;> rfl

@[simp] theorem Dev.settlePend_supply (agent : Nat) : (s.settlePend agent).supply = s.supply :=
  (Dev.settleEgress_supply ..).trans (foldl_supply (fun d _ => d.settleOne_supply ..) _ _)

end Messages

/-! ### What an abort does (R439, R440) -/

section Aborts
variable (s : Dev)

@[simp] theorem Dev.releaseHelper_supply (c : CoreId) : (s.releaseHelper c).supply = s.supply := by
  unfold Dev.releaseHelper
  split <;> rfl

theorem Dev.countSquash_supply (h : Option HoldId) (c : CoreId) (bytes bad : Nat) :
    (s.countSquash h c bytes bad).supply = s.supply := Dev.supply_of_standing (s.countSquash_standing h c bytes bad)

theorem Dev.squash_supply (h : Option HoldId) (c : CoreId) (drop : PfSector → Bool) : (s.squash h c drop).supply = s.supply := by
  unfold Dev.squash
  dsimp only
  split
  · rfl
  · exact Dev.countSquash_supply ..

theorem Dev.releaseRetained_supply (t : Transfer) : (s.releaseRetained t).supply = s.supply := by
  unfold Dev.releaseRetained
  split <;> rfl

@[simp] theorem Dev.squashAll_supply (h : Option HoldId) (c : CoreId) : (s.squashAll h c).supply = s.supply := by
  refine (foldl_supply (fun d t => d.releaseRetained_supply t) _ _).trans ((Dev.modCore_supply ..).trans ?_)
  split
  · exact s.squash_supply ..
  · refine (Dev.countSquash_supply ..).trans ?_
    split <;> exact s.squash_supply ..

@[simp] theorem Dev.abortNotice_supply (h : HoldId) (e : BitVec 16) : (s.abortNotice h e).supply = s.supply :=
  (foldl_supply (fun d _ => d.send_supply ..) _ _).trans (s.emits_supply _)

@[simp] theorem Dev.beginAbort_supply (h : HoldId) (st : Status) : (s.beginAbort h st).supply = s.supply := by
  unfold Dev.beginAbort
  extract_lets e g s1 gate pend stale dbg s2 s3
  have hstart : s2.supply = s.supply := s.setFunc_supply ..
  have hnotice : s3.supply = s2.supply :=
    (Dev.settleEgress_supply ..).trans ((Dev.abortNotice_supply ..).trans (foldl_supply (fun d a => d.count_supply ..) _ _))
  refine (foldl_supply (fun d c => ?_) _ _).trans (hnotice.trans hstart)
  exact (Dev.squashAll_supply _ (some h) c).trans (d.releaseHelper_supply c)

@[simp] theorem Dev.abortHolding_supply (h : HoldId) : (s.abortHolding h).supply = s.supply := by
  unfold Dev.abortHolding
  split
  · exact s.beginAbort_supply ..
  · exact s.beginAbort_supply ..
  · exact s.beginAbort_supply ..
  · rfl

@[simp] theorem Dev.endHolding_supply (h : HoldId) (cause : Status) : (s.endHolding h cause).supply = s.supply := by
  unfold Dev.endHolding
  split
  · exact Dev.beginAbort_supply ..
  · exact Dev.beginAbort_supply ..
  · exact Dev.beginAbort_supply ..
  · rfl

theorem Dev.abortWrite_supply (f : FnId) (h : HoldId) (v : Word32) : (s.abortWrite f h v).supply = s.supply := by
  unfold Dev.abortWrite
  split
  · rfl
  · split
    · rfl
    · exact s.abortHolding_supply h

end Aborts

/-! ### What a fence does (R19 to R21, R192 to R197) -/

section Fences
variable (s : Dev)

theorem Dev.loadHome_supply (h : HoldId) (c : CoreId) (g : StageDef) : (s.loadHome h c g).supply = s.supply := by
  unfold Dev.loadHome
  extract_lets a
  refine foldl_supply (fun d i => ?_) s _
  exact (Dev.modCore_supply ..).trans (Dev.supply_of_standing (d.readOut_standing ..))

theorem Dev.bringHome_supply (h : HoldId) (c : CoreId) (g : StageDef) : (s.bringHome h c g).supply = s.supply := by
  refine (Dev.modHolding_supply ..).trans ?_
  split
  · rfl
  · exact s.loadHome_supply ..

theorem Dev.passStage_supply (h : HoldId) (g : Stage) : (s.passStage h g).supply = s.supply := by
  unfold Dev.passStage
  dsimp only
  split
  · exact Dev.bringHome_supply ..
  · rfl

theorem Dev.passStages_supply (h : HoldId) (c : CoreId) : (s.passStages h c).supply = s.supply := by
  refine foldl_supply (fun d g => ?_) _ _
  split
  · exact d.passStage_supply ..
  · rfl

theorem Dev.reissueTiles_supply (h : HoldId) (c : CoreId) : (s.reissueTiles h c).supply = s.supply := by
  refine foldl_supply (fun d k => ?_) _ _
  dsimp only
  split <;> rfl

theorem Dev.noteFence_supply (h : HoldId) : (s.noteFence h).supply = s.supply := rfl

theorem Dev.noteFenceAll_supply : s.noteFenceAll.supply = s.supply := foldl_supply (fun d h => d.noteFence_supply h) _ _

theorem Dev.endReadmits_supply (u : UnitName) (cause : FenceCause) : (s.endReadmits u cause).supply = s.supply := by
  unfold Dev.endReadmits
  split
  · rfl
  · exact foldl_supply (fun d a => d.endActivity_supply ..) _ _

theorem Dev.fenceCore_supply (c : CoreId) (cause : FenceCause) : (s.fenceCore c cause).supply = s.supply := by
  unfold Dev.fenceCore
  split
  · rfl
  · extract_lets h s1 s2 s3 s4
    have hsettled : s1.supply = s.supply := (Dev.settlePend_supply ..).trans (s.releaseHelper_supply c)
    have hsquashed : s2.supply = s1.supply := (Dev.modCore_supply ..).trans (s1.squashAll_supply h c)
    have hnote : (((s3.setReg (chkReg c 0) (cause.code.setWidth 32)).event (coreEvent c) evFenced).unitFenced (c.val / 8)
        (some c) cause).supply = s3.supply :=
      (Dev.unitFenced_supply ..).trans ((Dev.event_supply ..).trans (s3.setReg_supply ..))
    have hreads : s3.supply = s2.supply := rfl
    have hstop : s4.supply = s.supply :=
      (Dev.endReadmits_supply ..).trans (hnote.trans (hreads.trans (hsquashed.trans hsettled)))
    clear_value s4 h
    split
    · exact hstop
    next h' _ =>
      extract_lets s5
      have hpass : s5.supply = s.supply := (Dev.passStages_supply ..).trans ((Dev.reissueTiles_supply ..).trans hstop)
      split
      · exact hpass
      · exact (s5.endHolding_supply ..).trans hpass

theorem Dev.moveCounters_supply (d : Nat) : (s.moveCounters d).supply = s.supply := by
  refine foldl_supply (fun e h => ?_) _ _
  refine (foldl_supply (fun f k => ?_) _ _).trans (e.modHolding_supply ..)
  split
  · split <;> rfl
  · rfl

theorem Dev.fenceCompute_supply (d : Nat) (cause : FenceCause) : (s.fenceCompute d cause).supply = s.supply := by
  refine (foldl_supply (fun e b => (e.cancelBatch_tells ..).supply) _ _).trans ?_
  refine (foldl_supply (fun e c => e.fenceCore_supply ..) _ _).trans ((Dev.moveCounters_supply ..).trans ?_)
  exact foldl_supply (fun e h => e.noteFence_supply h) _ _

theorem Dev.loseStack_supply (k : StackId) : (s.loseStack k).supply = s.supply := by
  unfold Dev.loseStack
  extract_lets t n live mask size all kept put first s0 s1 spans
  have hmarked : s1.supply = s.supply := by
    refine foldl_supply (fun d r => ?_) s0 all
    dsimp only
    split <;> rfl
  exact List.foldlRecOn _ _ (motive := fun a : Nat × Dev => a.2.supply = s.supply) hmarked fun a ha r _ => ha

theorem Dev.flushStack_supply (k : StackId) : (s.flushStack k).supply = s.supply := by
  refine foldl_supply (fun d w => ?_) _ _
  split
  · exact Dev.supply_of_standing (d.metPoison_standing ..)
  · exact Dev.supply_of_standing (d.offlineAccess_standing ..)
  · rfl

theorem Dev.fenceMemoryDie_supply (d : Nat) (cause : FenceCause) : (s.fenceMemoryDie d cause).supply = s.supply :=
  (foldl_supply (fun _ k => (Dev.loseStack_supply _ k).trans (Dev.flushStack_supply _ k)) _ _).trans
    (Dev.noteFenceAll_supply _)

theorem Dev.moveGate_supply (p : PortId) : (s.moveGate p).supply = s.supply := (Dev.runGate_tells _).supply

theorem Dev.resendHome_supply (p : PortId) : (s.resendHome p).supply = s.supply :=
  foldl_supply (fun d _ => (d.resend_tells ..).supply) _ _

theorem Dev.fenceLink_supply (p : PortId) (cause : FenceCause) : (s.fenceLink p cause).supply = s.supply := by
  refine (Dev.resendHome_supply ..).trans ((Dev.moveGate_supply ..).trans ((Dev.settlePend_supply ..).trans ?_))
  refine (foldl_supply (fun e h => e.modHolding_supply ..) _ _).trans ((Dev.disablePort_supply ..).trans ?_)
  exact Dev.noteFenceAll_supply _

theorem Dev.resendCrossing_supply : s.resendCrossing.supply = s.supply := by
  refine foldl_supply (fun d q => ?_) _ _
  unfold Dev.crossAgain
  dsimp only
  split <;> rfl

theorem Dev.fenceSpine_supply (d : Nat) (cause : FenceCause) : (s.fenceSpine d cause).supply = s.supply :=
  (Dev.resendCrossing_supply _).trans (Dev.noteFenceAll_supply _)

@[simp] theorem Dev.fenceDie_supply (d : Nat) (cause : FenceCause) : (s.fenceDie d cause).supply = s.supply := by
  unfold Dev.fenceDie
  split
  · rfl
  · refine (Dev.endReadmits_supply ..).trans ?_
    split
    · exact s.fenceCompute_supply ..
    · exact s.fenceMemoryDie_supply ..
    · exact s.fenceLink_supply ..
    · exact s.fenceMemoryDie_supply ..
    · exact s.fenceSpine_supply ..
    · rfl

theorem Dev.fenceStackAlone_supply (k : StackId) (cause : FenceCause) : (s.fenceStackAlone k cause).supply = s.supply := by
  refine (Dev.noteFenceAll_supply _).trans ((Dev.unitFenced_supply ..).trans ?_)
  unfold Dev.fenceStack
  split
  · rfl
  · exact (Dev.loseStack_supply ..).trans (Dev.flushStack_supply ..)

theorem Dev.fencePort_supply (p : PortId) (cause : FenceCause) : (s.fencePort p cause).supply = s.supply :=
  (Dev.disablePort_supply ..).trans (Dev.noteFenceAll_supply _)

@[simp] theorem Dev.fenceUnit_supply (res : BitVec 16) : (s.fenceUnit res).supply = s.supply := by
  unfold Dev.fenceUnit
  dsimp only
  split
  · exact s.fenceCore_supply ..
  · exact s.fenceDie_supply ..
  · split
    · rfl
    · exact s.fenceStackAlone_supply ..
  · split
    · rfl
    · exact s.fencePort_supply ..

@[simp] theorem Dev.fenceNow_supply (k : Nat) : (s.fenceNow k).supply = s.supply := by
  unfold Dev.fenceNow
  split
  · rfl
  · split
    · rfl
    · exact s.fenceUnit_supply _

end Fences

/-! ### What a Survey does (R521 to R526) -/

section Surveys
variable (s : Dev)

@[simp] theorem Dev.enterTest_supply (ds : List Nat) : (s.enterTest ds).supply = s.supply := by
  unfold Dev.enterTest
  split
  · exact foldl_supply (fun d n => d.modDie_supply ..) _ _
  · rfl

theorem Dev.freeze_supply (scope : Option Nat) (cause : Fin 8) (origin n : BitVec 16) :
    (s.freeze scope cause origin n).supply = s.supply := by
  unfold Dev.freeze
  dsimp only
  split
  · exact Dev.enterTest_supply ..
  · exact Dev.enterTest_supply ..

@[simp] theorem Dev.surveyTrigger_supply (scope : Option Nat) (cause : Fin 8) (slot : Option (BitVec 16 × BitVec 16)) :
    (s.surveyTrigger scope cause slot).supply = s.supply := by
  unfold Dev.surveyTrigger
  dsimp only
  split
  · rfl
  · split
    · rfl
    · split
      · exact s.freeze_supply ..
      · exact Dev.freeze_supply ..

@[simp] theorem Dev.endSurvey_supply : s.endSurvey.supply = s.supply := foldl_supply (fun d _ => d.modDie_supply ..) _ _

theorem Dev.resumeDie_supply : s.resumeDie.supply = s.supply :=
  (Dev.restartPorts_supply _).trans (foldl_supply (fun d k => d.fenceNow_supply k) _ _)

@[simp] theorem Dev.surveyCommand_supply (v : Word32) : (s.surveyCommand v).supply = s.supply := by
  unfold Dev.surveyCommand
  dsimp only
  split
  · split
    · rfl
    · exact s.surveyTrigger_supply ..
  · split
    · rfl
    · split
      · rfl
      · exact s.surveyTrigger_supply ..
  · split
    · rfl
    · exact s.resumeDie_supply
  · rfl

@[simp] theorem Dev.runWaiting_supply : s.runWaiting.supply = s.supply := foldl_supply (fun d v => d.surveyCommand_supply v) _ _

end Surveys

end Sys2Proof.Machine

/-! What registers, mailboxes, doorbells, resets and power states do with the keeper's part of a device. -/

namespace Sys2Proof.Machine

section Parts
variable {s t u : Dev}

theorem Dev.supply_ite {c : Prop} [Decidable c] (ht : t.supply = s.supply) (hu : u.supply = s.supply) :
    (if c then t else u).supply = s.supply := by
  split
  · exact ht
  · exact hu

end Parts

/-! ### Registers (R452 to R470) -/

section Registers
variable (s : Dev)

theorem Dev.guardFail_supply (d : Nat) (b : Word32) : (s.guardFail d b).supply = s.supply :=
  (Dev.setReg_supply ..).trans (s.accessEvent_supply ..)

theorem Dev.writeGuard_supply (d : Nat) (p : Path) (v : Word32) : (s.writeGuard d p v).supply = s.supply :=
  Dev.supply_ite (s.setGuard_supply d p true) ((Dev.guardFail_supply _ d evKeyWrong).trans (s.setGuard_supply d p false))

theorem Dev.writeAlias_supply (d w : Nat) (v : Word32) : (s.writeAlias d w v).supply = s.supply := by
  fun_cases Dev.writeAlias
  · exact s.accessEvent_supply ..
  · exact s.setReg_supply ..
  · rfl

theorem Dev.writeEvents_supply (d off : Nat) (i : RegInfo) (held : Bool) (v : Word32) :
    (s.writeEvents d off i held v).supply = s.supply := by
  unfold Dev.writeEvents
  extract_lets s1 changed
  have hmissing : s1.supply = s.supply := by
    unfold s1
    split <;> rfl
  split
  · exact hmissing
  · exact hmissing

@[simp] theorem Dev.writePlain_supply (d off : Nat) (i : RegInfo) (held : Bool) (v : Word32) :
    (s.writePlain d off i held v).supply = s.supply := by
  unfold Dev.writePlain
  extract_lets m s1
  have hevents : s1.supply = s.supply := s.writeEvents_supply ..
  split
  · unfold Dev.place'
    extract_lets a
    split
    · exact hevents
    · exact hevents
  · exact hevents

@[simp] theorem Dev.writeReserved_supply (d off : Nat) (i : RegInfo) (held : Bool) (v : Word32) :
    (s.writeReserved d off i held v).supply = s.supply := by
  unfold Dev.writeReserved
  extract_lets a s1
  have hevents : s1.supply = s.supply := s.writeEvents_supply ..
  split
  · exact hevents
  · exact hevents

theorem Dev.resetDie_supply (d : Nat) : (s.resetDie d).supply = s.supply := by
  unfold Dev.resetDie
  extract_lets covers s1 s2
  split
  · exact foldl_supply (fun e c => e.modCore_supply ..) s2 _
  · rfl

end Registers

/-! ### Mailboxes and doorbells (R420 to R426, R443) -/

section Boxes
variable (s : Dev)

theorem Dev.repairJournal_supply : s.repairJournal.supply = s.supply := by
  unfold Dev.repairJournal
  extract_lets lost
  split <;> rfl

@[simp] theorem Dev.journalWrite_supply : s.journalWrite.supply = s.supply := Dev.supply_of_standing s.journalWrite_standing

theorem Dev.closeBox_supply (f : FnId) (m : MbId) : (s.closeBox f m).supply = s.supply := by
  unfold Dev.closeBox
  extract_lets busy
  split <;> rfl

theorem Dev.writeTail_supply (f : FnId) (m : MbId) (t : Word32) : (s.writeTail f m t).supply = s.supply := by
  unfold Dev.writeTail
  extract_lets b d
  split <;> rfl

theorem Dev.writeHead_supply (f : FnId) (m : MbId) (v : Word32) : (s.writeHead f m v).supply = s.supply := by
  unfold Dev.writeHead
  extract_lets b
  split
  · rfl
  · split <;> rfl

theorem Dev.writeCfg_supply (f : FnId) (m : MbId) (v : Word32) : (s.writeCfg f m v).supply = s.supply := by
  unfold Dev.writeCfg
  extract_lets b b1 b2
  split
  · rfl
  · split
    · split
      · rfl
      · exact Dev.closeBox_supply ..
    · rfl

theorem Dev.writeBase_supply (f : FnId) (m : MbId) (cpl high : Bool) (v : Word32) : (s.writeBase f m cpl high v).supply = s.supply := by
  unfold Dev.writeBase
  split <;> rfl

theorem Dev.writeBox_supply (f : FnId) (m : MbId) (o : Nat) (v : Word32) : (s.writeBox f m o v).supply = s.supply := by
  unfold Dev.writeBox
  split
  · exact s.writeBase_supply ..
  · exact s.writeBase_supply ..
  · exact s.writeBase_supply ..
  · exact s.writeBase_supply ..
  · exact s.writeCfg_supply ..
  · exact s.writeTail_supply ..
  · exact s.writeHead_supply ..
  · rfl

theorem Dev.writeKey_supply (f : FnId) (i : Nat) (v : Word32) : (s.writeKey f i v).supply = s.supply := by
  unfold Dev.writeKey
  split <;> rfl

theorem Dev.clearDone_supply (h : HoldId) (v : Word32) : (s.clearDone h v).supply = s.supply := by
  unfold Dev.clearDone
  split
  · exact s.setFunc_supply ..
  · rfl

theorem Dev.writeWindow_supply (f : FnId) (o : Nat) (v : Word32) : (s.writeWindow f o v).supply = s.supply := by
  unfold Dev.writeWindow
  split
  · exact s.abortWrite_supply ..
  · split
    · rfl
    · exact s.clearDone_supply ..
  · split
    · rfl
    · split
      · exact s.writeBox_supply ..
      · split
        · exact s.writeKey_supply ..
        · split <;> rfl

theorem Dev.resumeQueue_supply (h : HoldId) (q : Nat) (skip : Bool) : (s.resumeQueue h q skip).supply = s.supply :=
  foldl_supply (fun d _ => d.setReg_supply ..) _ _

theorem Dev.takeTail_supply (q : Nat) (t : Word32) : (s.takeTail q t).supply = s.supply := by
  unfold Dev.takeTail
  extract_lets x
  split
  · rfl
  · exact (Dev.journalWrite_supply _).trans s.repairJournal_supply

theorem Dev.doorbell_supply (f : FnId) (q : Nat) (w : Word64) : (s.doorbell f q w).supply = s.supply := by
  unfold Dev.doorbell
  extract_lets x
  split
  · rfl
  split
  · rfl
  split
  · rfl
  split
  · rfl
  split
  · rfl
  split
  · split
    · exact s.resumeQueue_supply ..
    · rfl
  split
  · rfl
  · exact s.takeTail_supply ..

/-- No write of BAR2 reaches the keeper. -/
theorem Dev.writeBar2_supply (f : FnId) (off : Nat) (v : Word32) (enables : BitVec 4) :
    (s.writeBar2 f off v enables).supply = s.supply := by
  unfold Dev.writeBar2
  extract_lets base mine
  split
  · split <;> rfl
  split
  · exact s.writeWindow_supply ..
  split
  · rfl
  split
  · split
    · exact s.doorbell_supply ..
    · rfl
  · rfl

theorem Dev.postCompletion_supply (f : FnId) (m : MbId) : (s.postCompletion f m).supply = s.supply := by
  unfold Dev.postCompletion
  extract_lets b
  split
  · rfl
  · split
    · rfl
    split
    · rfl
    · exact (Dev.journalWrite_supply _).trans (Dev.closeBox_supply ..)

@[simp] theorem Dev.postBox_supply (n : Nat) : (s.postBox n).supply = s.supply := by
  unfold Dev.postBox
  split
  · rfl
  · exact foldl_supply (fun d _ => d.postCompletion_supply ..) _ _

end Boxes

/-! ### What resets and power states do beside the keeper (R449, R484 to R487) -/

section Resets
variable (s : Dev)

theorem Dev.runLatched_supply : s.runLatched.supply = s.supply := foldl_supply (fun d h => d.abortHolding_supply h) _ _

theorem Dev.fallowLoss_supply : s.fallowLoss.supply = s.supply := by
  unfold Dev.fallowLoss
  extract_lets keeps s1 was s2
  have hlost : s2.supply = s1.supply := by simp only [s2, Dev.supply]
  exact (foldl_supply (fun d h => d.modHolding_supply ..) s2 allHoldings).trans (hlost.trans (s.resetRegisters_supply ..))

/-- Reports settled one after another, whichever units are asked. -/
theorem foldl_settlePend_supply (s : Dev) (unit : Nat → Nat) (l : List Nat) :
    (l.foldl (fun (d : Dev) n => d.settlePend (unit n)) s).supply = s.supply :=
  foldl_supply (fun d n => d.settlePend_supply (unit n)) s l

@[simp] theorem Dev.settleAll_supply : s.settleAll.supply = s.supply := by
  unfold Dev.settleAll
  extract_lets cores
  have hcores : cores.supply = s.supply := foldl_settlePend_supply s id (List.range 256)
  exact (foldl_settlePend_supply cores (256 + ·) (List.range 8)).trans hcores

theorem Dev.emptyQueues_supply : s.emptyQueues.supply = s.supply := by
  refine foldl_supply (fun d w => ?_) _ _
  split
  · rfl
  · exact d.perform_supply _

@[simp] theorem Dev.serveQueues_supply : s.serveQueues.supply = s.supply := foldl_supply (fun d _ => d.perform_supply _) _ _

theorem Dev.resumeStage_supply (h : HoldId) (g : Stage) : (s.resumeStage h g).supply = s.supply := by
  unfold Dev.resumeStage
  extract_lets n s1
  split
  · exact Dev.bringHome_supply ..
  · rfl

theorem Dev.resumeStreams_supply : s.resumeStreams.supply = s.supply := by
  unfold Dev.resumeStreams
  extract_lets s1 s2
  have hwarm : s1.supply = s.supply := by
    unfold s1
    refine foldl_supply (fun d c => ?_) _ _
    exact (Dev.modCore_supply ..).trans (d.squashAll_supply ..)
  have hcleared : s2.supply = s1.supply := by simp only [s2, Dev.supply]
  refine (foldl_supply (fun d h => ?_) s2 allHoldings).trans (hcleared.trans hwarm)
  exact foldl_supply (fun e g => e.resumeStage_supply h g) _ _

theorem Dev.trainPorts_supply : s.trainPorts.supply = s.supply := by
  refine foldl_supply (fun d p => ?_) _ _
  extract_lets d1
  split
  · exact d1.klxCtrlDone_supply p
  · exact d1.restartPort_supply p

theorem Dev.lowPorts_supply (on : Bool) : (s.lowPorts on).supply = s.supply := by
  refine foldl_supply (fun d p => ?_) _ _
  extract_lets d1
  split
  · rfl
  · exact d1.drain_supply p

theorem Dev.wakePorts_supply : s.wakePorts.supply = s.supply := by
  refine foldl_supply (fun d p => ?_) _ _
  extract_lets d1
  split
  · exact d1.setPortState_supply ..
  · rfl

theorem Dev.downPort_supply (p : PortId) : (s.downPort p).supply = s.supply := by
  unfold Dev.downPort
  extract_lets st
  split <;> rfl

theorem Dev.downPorts_supply : s.downPorts.supply = s.supply :=
  (foldl_supply (fun d p => d.downPort_supply p) _ _).trans (foldl_supply (fun d _ => d.send_supply ..) _ _)

theorem Dev.upPorts_supply : s.upPorts.supply = s.supply := by
  refine foldl_supply (fun d p => ?_) _ _
  split
  · exact d.setPortState_supply ..
  · rfl

theorem Dev.markFlash_supply (verified : List (Fin 8)) : (s.markFlash verified).supply = s.supply := by
  unfold Dev.markFlash
  exact foldl_supply (fun _ _ => by rfl) s _

/-- Restoring an image takes the limit and the ratio from it. -/
theorem Dev.restore_supply (im : SavedImage) :
    (s.restore im).supply = ({ s.power with limit := im.limit, ratio := im.ratio }, s.saved, s.pins) := by
  unfold Dev.restore
  dsimp only
  refine (foldl_supply (fun d h => ?_) _ _).trans ((foldl_supply (fun d k => ?_) _ _).trans
    ((foldl_supply (fun d n => ?_) _ _).trans (foldl_supply (fun d c => ?_) _ _)))
  · exact d.modHolding_supply ..
  · rfl
  · exact d.modDie_supply ..
  · exact d.modCore_supply ..

end Resets

/-! ### A tick of device time (R404, R476) -/

theorem Dev.idle_supply (s : Dev) : s.idle.supply = s.supply := by
  unfold Dev.idle
  split
  · rfl
  split
  · rfl
  split <;> rfl

theorem Dev.mirrorNext_supply (s : Dev) (h : HoldId) : (s.mirrorNext h).supply = s.supply := by
  unfold Dev.mirrorNext
  split
  · rfl
  extract_lets p put
  have hput : ∀ d n i bytes b, (put d n i bytes b).supply = d.supply := fun d n i bytes b =>
    (Dev.sendFrom_tells ..).supply.trans (d.modHolding_supply ..)
  split
  · rfl
  split
  · exact hput ..
  · split
    · rfl
    · exact (hput ..).trans (Dev.supply_of_standing (s.unitRead_standing ..))
  · rfl

theorem Dev.tick_supply (s : Dev) : s.tick.supply = s.supply := by
  unfold Dev.tick
  extract_lets s1
  split
  · exact (foldl_supply Dev.mirrorNext_supply s1 _).trans s.idle_supply
  · exact s.idle_supply

end Sys2Proof.Machine

/-! What every step does with the limiter (R478 to R481): the limit and the swallow ratio of the clocks, its counts, and those of
the image in save memory (R489). -/

namespace Sys2Proof.Machine

/-! ### What the limiter stands on -/

/-- The limit, the ratio and the two counts that the limiter keeps, with save memory. -/
def Dev.limits (s : Dev) : (Nat × Nat × Nat × Nat) × Option SavedImage :=
  ((s.power.limit, s.power.ratio, s.power.underSamples, s.power.floorMs), s.saved)

section Limits
variable {s t : Dev}

theorem Dev.limits_of_supply (h : t.supply = s.supply) : t.limits = s.limits := by
  rw [Dev.limits, Dev.power_of_supply h, Dev.saved_of_supply h, Dev.limits]

theorem Dev.limiterLegal_of_limits (h : t.limits = s.limits) (hs : s.limiterLegal) : t.limiterLegal := by
  simp only [Dev.limits, Prod.mk.injEq] at h
  obtain ⟨⟨hlimit, hratio, hunder, hfloor⟩, hsaved⟩ := h
  simpa only [Dev.limiterLegal, hlimit, hratio, hunder, hfloor, hsaved] using hs

theorem Dev.limiterLegal_of_supply (h : t.supply = s.supply) (hs : s.limiterLegal) : t.limiterLegal :=
  Dev.limiterLegal_of_limits (Dev.limits_of_supply h) hs

/-- A legal limiter stays legal where the image goes away. -/
theorem Dev.limiterLegal_of_unsaved (h : t.limits = (s.limits.1, none)) (hs : s.limiterLegal) : t.limiterLegal := by
  obtain ⟨hlow, hhigh, hratio, hunder, hfloor, _⟩ := hs
  refine Dev.limiterLegal_of_limits (s := { s with saved := none }) h ⟨hlow, hhigh, hratio, hunder, hfloor, fun im him => ?_⟩
  cases him

/-- The fields of the limiter that a command gives anew, under an image that stays. -/
theorem Dev.limiterLegal_of_saved (hs : s.limiterLegal) (hsaved : t.saved = s.saved) (hlow : 1500 ≤ t.power.limit)
    (hhigh : t.power.limit ≤ 3300) (hratio : t.power.ratio ≤ 48) (hunder : t.power.underSamples < 100)
    (hfloor : t.power.floorMs < 10) : t.limiterLegal := by
  obtain ⟨_, _, _, _, _, himage⟩ := hs
  refine ⟨hlow, hhigh, hratio, hunder, hfloor, ?_⟩
  rw [hsaved]
  exact himage

/-- A command that may change the keeper's powers alone keeps the image. -/
theorem Dev.limiterLegal_of_power {r : Dev} (hs : s.limiterLegal) (hr : r.limiterLegal) (hpower : t.power = r.power)
    (hsaved : t.saved = s.saved) : t.limiterLegal := by
  obtain ⟨hlow, hhigh, hratio, hunder, hfloor, _⟩ := hr
  rw [← hpower] at hlow hhigh hratio hunder hfloor
  exact Dev.limiterLegal_of_saved hs hsaved hlow hhigh hratio hunder hfloor

/-- A device whose limiter stands as at reset, with no image. -/
theorem Dev.limiterLegal_of_reset (h : t.limits = ((3000, 0, 0, 0), none)) : t.limiterLegal := by
  simp only [Dev.limits, Prod.mk.injEq] at h
  obtain ⟨⟨hlimit, hratio, hunder, hfloor⟩, hsaved⟩ := h
  refine ⟨by omega, by omega, by omega, by omega, by omega, fun im him => ?_⟩
  rw [hsaved] at him
  cases him

end Limits

/-! ### Resets (R448, R449, R553 to R557) -/

section Resets
variable {s : Dev}

theorem Dev.startWarm_limits (s : Dev) (cause : Nat) : (s.startWarm cause).limits = s.limits := by
  unfold Dev.startWarm
  extract_lets s1 was
  have hstarted : s1.limits = s.limits := Dev.limits_of_supply ((Dev.resetCause_supply ..).trans (s.setUp_supply false))
  clear_value s1
  split
  · rfl
  · exact hstarted

theorem Dev.startCold_limits (s : Dev) (cause : Nat) : (s.startCold cause).limits = ((3000, 0, 0, 0), none) := rfl

theorem Dev.startCold_legal (s : Dev) (cause : Nat) : (s.startCold cause).limiterLegal :=
  Dev.limiterLegal_of_reset (s.startCold_limits cause)

/-- An image that is legal leaves a legal limiter behind it. -/
theorem Dev.restore_legal (hs : s.limiterLegal) {im : SavedImage} (him : 1500 ≤ im.limit ∧ im.limit ≤ 3300 ∧ im.ratio ≤ 48) :
    (s.restore im).limiterLegal := by
  have hparts := s.restore_supply im
  generalize s.restore im = t at hparts ⊢
  simp only [Dev.supply, Prod.mk.injEq] at hparts
  obtain ⟨hpower, hsaved, _⟩ := hparts
  obtain ⟨_, _, _, hunder, hfloor, _⟩ := id hs
  obtain ⟨hlow, hhigh, hratio⟩ := him
  refine Dev.limiterLegal_of_saved hs hsaved ?_ ?_ ?_ ?_ ?_
  · exact hlow.trans_eq (congrArg Power.limit hpower).symm
  · exact (congrArg Power.limit hpower).trans_le hhigh
  · exact (congrArg Power.ratio hpower).trans_le hratio
  · exact (congrArg Power.underSamples hpower).trans_lt hunder
  · exact (congrArg Power.floorMs hpower).trans_lt hfloor

theorem Dev.leaveFallow_legal (hs : s.limiterLegal) : s.leaveFallow.limiterLegal := by
  unfold Dev.leaveFallow
  extract_lets s1 s2
  have hlost : s1.limiterLegal := Dev.limiterLegal_of_supply s.fallowLoss_supply hs
  have hback : s2.limiterLegal := by
    unfold s2
    clear_value s1
    split
    next im him => exact Dev.restore_legal hlost (hs.2.2.2.2.2 im him)
    next => exact hlost
  exact Dev.limiterLegal_of_unsaved (s := s2) rfl hback

theorem Dev.endTransition_limits (s : Dev) : s.endTransition.limits = s.limits := by
  unfold Dev.endTransition
  extract_lets w s1
  have hended : s1.limits = s.limits := rfl
  clear_value s1
  split
  · exact hended
  · exact (Dev.limits_of_supply (Dev.finishJob_supply ..)).trans hended

/-- What a warm reset empties holds nothing of the limiter. -/
theorem Dev.swept_limits (s : Dev) : ({ s with
    guards := [], time := {}, linkState := [], linkSent := 0, xlat := [], pins := { s.pins with resetting := 0 } } : Dev).limits
      = s.limits := rfl

theorem Dev.warmReset_legal (hs : s.limiterLegal) : s.warmReset.limiterLegal := by
  fun_cases Dev.warmReset
  · exact hs
  rename_i s3 s4 s5 s6 s7 s8 s9 up
  have h3 : s3.limiterLegal :=
    Dev.limiterLegal_of_supply ((Dev.runLatched_supply _).trans (Dev.supply_ite s.endSurvey_supply rfl)) hs
  have h4 : s4.limiterLegal := by
    unfold s4
    split
    · exact Dev.leaveFallow_legal h3
    · exact h3
  have h5 : s5.limiterLegal := Dev.limiterLegal_of_limits ((Dev.limits_of_supply ((Dev.resumeStreams_supply _).trans
    ((Dev.emptyQueues_supply _).trans (Dev.settleAll_supply _)))).trans s4.endTransition_limits) h4
  have h6 : s6.limiterLegal := Dev.limiterLegal_of_supply (s5.resetRegisters_supply ..) h5
  have h7 : s7.limiterLegal := Dev.limiterLegal_of_limits (s := s6) s6.swept_limits h6
  have h8 : s8.limiterLegal := Dev.limiterLegal_of_supply s7.trainPorts_supply h7
  clear_value s8
  have h9 : s9.limiterLegal :=
    Dev.limiterLegal_of_supply (foldl_supply (fun d k => d.fenceNow_supply k) s8 s.survey.fences) h8
  clear_value s9
  exact Dev.limiterLegal_of_supply ((Dev.runWaiting_supply _).trans
    (Dev.supply_ite ((Dev.gotreRestarted_supply ..).trans (s9.setUp_supply true)) rfl)) h9

theorem Dev.hotReset_limits (s : Dev) : s.hotReset.limits = s.limits := by
  unfold Dev.hotReset
  split
  · exact (Dev.startWarm_limits _ 4).trans rfl
  · rfl

theorem Dev.perstLow_legal (hs : s.limiterLegal) : s.perstLow.limiterLegal := by
  unfold Dev.perstLow
  extract_lets was s1
  split
  · exact s1.startCold_legal 2
  · exact Dev.limiterLegal_of_limits (s := s) rfl hs

theorem Dev.sampleClkMode_limits (s : Dev) : s.sampleClkMode.limits = s.limits := rfl

theorem Dev.perstHigh_limits (s : Dev) : s.perstHigh.limits = s.limits := by
  unfold Dev.perstHigh
  split
  · rfl
  · dsimp only
    split <;> rfl

theorem Dev.boot_limits (s : Dev) (verified : List (Fin 8)) : (s.boot verified).limits = s.limits := by
  unfold Dev.boot
  split
  · rfl
  extract_lets s1 s2 trained
  have hmarked : s1.limits = s.limits := Dev.limits_of_supply (s.markFlash_supply verified)
  clear_value s1
  split
  · exact (Dev.limits_of_supply (Dev.setUp_supply ..)).trans hmarked
  · exact hmarked

theorem Dev.powerUp_legal (hs : s.limiterLegal) : s.powerUp.limiterLegal := by
  unfold Dev.powerUp
  split
  · exact hs
  extract_lets s1 was s2
  have hup : s2.limits = ((3000, 0, 0, 0), none) := rfl
  split
  · exact Dev.limiterLegal_of_reset (s2.sampleClkMode_limits.trans hup)
  · exact Dev.limiterLegal_of_reset hup

theorem Dev.powerLoss_legal (s : Dev) : s.powerLoss.limiterLegal := Dev.limiterLegal_of_reset rfl

theorem Dev.dieHot_limits (s : Dev) (d temp : Nat) : (s.dieHot d temp).limits = s.limits := by
  unfold Dev.dieHot
  split
  · rfl
  · dsimp only
    split <;> rfl

theorem Dev.dieCool_limits (s : Dev) : s.dieCool.limits = s.limits := by
  unfold Dev.dieCool
  split <;> rfl

theorem Dev.trip_legal (hs : s.limiterLegal) (r : ThermalReport) : (s.trip r).limiterLegal := by
  unfold Dev.trip
  split
  · exact hs
  extract_lets at' s0
  split
  · exact Dev.limiterLegal_of_limits (s := s) rfl hs
  · exact Dev.limiterLegal_of_reset rfl

theorem Dev.coolAgain_legal (hs : s.limiterLegal) (hottest inlet : Nat) : (s.coolAgain hottest inlet).limiterLegal := by
  unfold Dev.coolAgain
  extract_lets c was s0 held s1
  clear_value s1
  split
  · exact hs
  split
  · exact Dev.limiterLegal_of_limits (Dev.sampleClkMode_limits _) (s1.startCold_legal 2)
  · exact s1.startCold_legal _

end Resets

/-! ### Register writes (R452 to R470, R534, R555, R556) -/

section Writes
variable {s : Dev}

theorem Dev.keeperIgnores_supply (s : Dev) : s.keeperIgnores.supply = s.supply := s.accessEvent_supply ..

theorem Dev.unitReset_supply (s : Dev) (kind : Nat) {f : Dev → Dev} (hf : (f s).supply = s.supply) :
    (s.unitReset kind f).supply = s.supply :=
  Dev.supply_ite rfl ((Dev.resetCause_supply ..).trans hf)

theorem Dev.resetCommand_legal (hs : s.limiterLegal) (v : Word32) : (s.resetCommand v).limiterLegal := by
  fun_cases Dev.resetCommand
  · exact Dev.limiterLegal_of_supply (s.unitReset_supply 1 (s.resetCore_supply _)) hs
  · exact Dev.limiterLegal_of_supply s.keeperIgnores_supply hs
  · exact Dev.limiterLegal_of_supply (s.unitReset_supply 2 (s.resetDie_supply _)) hs
  · exact Dev.limiterLegal_of_supply s.keeperIgnores_supply hs
  · exact Dev.limiterLegal_of_limits (s.startWarm_limits _) hs
  · exact s.startCold_legal 3
  · exact hs

theorem Dev.writeRegister_legal (hs : s.limiterLegal) (d w : Nat) (i : RegInfo) (held : Bool) (v : Word32) :
    (s.writeRegister d w i held v).limiterLegal := by
  have hplain := Dev.limiterLegal_of_supply (s.writePlain_supply d w i held v) hs
  have hreserved := Dev.limiterLegal_of_supply (s.writeReserved_supply d w i held v) hs
  fun_cases Dev.writeRegister
  · exact hplain
  · exact Dev.limiterLegal_of_supply (Dev.klxCtrlDone_supply ..) hplain
  · exact hplain
  · exact hreserved
  · exact hplain
  · exact Dev.limiterLegal_of_supply (Dev.accessEvent_supply ..) hreserved
  · exact Dev.limiterLegal_of_supply (Dev.surveyCommand_supply ..) hreserved
  · exact Dev.resetCommand_legal hreserved v
  · exact hplain

theorem Dev.writeBar0_legal (hs : s.limiterLegal) (p : Path) (off : Nat) (v : Word32) (enables : BitVec 4) :
    (s.writeBar0 p off v enables).limiterLegal := by
  have hused : ∀ d : Nat, (s.setGuard d p false).limiterLegal := fun d =>
    Dev.limiterLegal_of_supply (s.setGuard_supply d p false) hs
  fun_cases Dev.writeBar0
  · exact hs
  · exact Dev.limiterLegal_of_supply (Dev.accessEvent_supply ..) (hused _)
  · exact Dev.limiterLegal_of_supply (Dev.writeGuard_supply ..) (hused _)
  · exact Dev.limiterLegal_of_supply (Dev.writeAlias_supply ..) (hused _)
  · exact Dev.limiterLegal_of_supply (Dev.accessEvent_supply ..) (hused _)
  · exact Dev.writeRegister_legal (hused _) ..

theorem Dev.writeAny_legal (hs : s.limiterLegal) (p : Path) (bar2 : Option FnId) (off : Nat) (v : Word32) (enables : BitVec 4) :
    (s.writeAny p bar2 off v enables).limiterLegal := by
  cases bar2 with
  | none => exact Dev.writeBar0_legal hs ..
  | some f => exact Dev.limiterLegal_of_supply (s.writeBar2_supply ..) hs

end Writes

/-! ### The limiter's own commands (R478 to R481) -/

section Limiter
variable {s : Dev}

/-- A command of a mailbox keeps the limiter legal where its own work does. -/
theorem Dev.runJob_legal (hs : s.limiterLegal) (n op : Nat) {body : Job → Dev} (hbody : ∀ j, (body j).limiterLegal) :
    (s.runJob n op body).limiterLegal := by
  have hrefused : ∀ (st : Status) (j : Job), ((s.finishJob n st 0).passTurn j).limiterLegal := fun st j =>
    Dev.limiterLegal_of_supply ((Dev.passTurn_supply ..).trans (s.finishJob_supply ..)) hs
  unfold Dev.runJob
  split
  · exact hs
  split
  · exact hs
  split
  · exact hrefused ..
  split
  · exact hrefused ..
  split
  · exact hs
  split
  · exact hs
  split
  · exact hrefused ..
  · exact Dev.limiterLegal_of_supply (Dev.passTurn_supply ..) (hbody _)

theorem Dev.powerLimitSet_legal (hs : s.limiterLegal) (n : Nat) : (s.powerLimitSet n).limiterLegal := by
  refine Dev.runJob_legal hs n _ fun j => ?_
  extract_lets w
  split
  · exact Dev.limiterLegal_of_supply (s.finishJob_supply ..) hs
  next hin =>
    simp only [Bool.or_eq_true, decide_eq_true_eq] at hin
    obtain ⟨_, _, hratio, hunder, hfloor, _⟩ := id hs
    refine Dev.limiterLegal_of_supply (Dev.finishJob_supply ..) (Dev.limiterLegal_of_saved hs rfl ?_ ?_ hratio hunder hfloor)
    · show 1500 ≤ w
      omega
    · show w ≤ 3300
      omega

theorem Dev.countSwallows_supply (s : Dev) : s.countSwallows.supply = s.supply := by
  unfold Dev.countSwallows
  refine foldl_supply (fun d n => ?_) s droopDies
  exact Dev.supply_ite (d.countFree_supply ..) rfl

theorem Dev.noteSample_supply (s : Dev) (watts : Nat) : (s.noteSample watts).supply = s.supply :=
  foldl_supply (fun d _ => d.modHolding_supply ..) s s.openHoldings

/-- The samples below 3,200 W never count to 100: at the hundredth the swallow ends. -/
theorem Dev.overSample_legal (hs : s.limiterLegal) (watts : Nat) : (s.overSample watts).limiterLegal := by
  obtain ⟨hlow, hhigh, hratio, hunder, hfloor, _⟩ := id hs
  unfold Dev.overSample
  split
  · extract_lets was s1
    have hover : s1.limiterLegal := Dev.limiterLegal_of_saved hs rfl hlow hhigh hratio (by show 0 < 100; omega) hfloor
    split
    · exact hover
    · exact Dev.limiterLegal_of_supply (s1.count_supply ..) hover
  split
  · exact hs
  · extract_lets k
    refine Dev.limiterLegal_of_saved hs rfl hlow hhigh hratio ?_ hfloor
    show (if k < 100 then k else 0) < 100
    split
    · assumption
    · omega

/-- The ratio rises to 48 at most. -/
theorem Dev.raiseRatio_legal (hs : s.limiterLegal) (mean : Nat) : (s.raiseRatio mean).limiterLegal := by
  obtain ⟨hlow, hhigh, _, hunder, hfloor, _⟩ := id hs
  unfold Dev.raiseRatio
  split
  · exact hs
  next hbelow =>
    simp only [Bool.or_eq_true, decide_eq_true_eq, not_or, not_le] at hbelow
    obtain ⟨_, hbelow⟩ := hbelow
    extract_lets v
    refine Dev.limiterLegal_of_saved hs rfl hlow hhigh ?_ hunder hfloor
    show s.power.ratio + 1 + v.1.toNat % (48 - s.power.ratio) ≤ 48
    have hrise := Nat.mod_lt v.1.toNat (show 0 < 48 - s.power.ratio by omega)
    omega

theorem Dev.powerSample_legal (hs : s.limiterLegal) (watts mean : Nat) : (s.powerSample watts mean).limiterLegal := by
  unfold Dev.powerSample
  extract_lets was s1 s2
  have hread : s1.limiterLegal := Dev.limiterLegal_of_limits (s := s) rfl hs
  clear_value s1
  split
  · exact hs
  have hcounted : s2.limiterLegal := Dev.limiterLegal_of_supply (Dev.supply_ite (s1.count_supply ..) rfl) hread
  have hswallowed := Dev.limiterLegal_of_supply (Dev.supply_ite (c := s.clocked = true) s2.countSwallows_supply rfl) hcounted
  exact Dev.limiterLegal_of_supply (Dev.noteSample_supply ..) (Dev.raiseRatio_legal (Dev.overSample_legal hswallowed watts) mean)

theorem Dev.limiterStep_legal (hs : s.limiterLegal) (mean : Nat) : (s.limiterStep mean).limiterLegal := by
  obtain ⟨hlow, hhigh, hratio, hunder, hfloor, _⟩ := id hs
  unfold Dev.limiterStep
  extract_lets w
  have hzero : ({ s with power := { w with floorMs := 0 } } : Dev).limiterLegal :=
    Dev.limiterLegal_of_saved hs rfl hlow hhigh hratio hunder (by show 0 < 10; omega)
  split
  · exact hs
  split
  · refine Dev.limiterLegal_of_saved hs rfl hlow hhigh ?_ hunder (by show 0 < 10; omega)
    show s.power.ratio - 1 ≤ 48
    omega
  split
  · split
    next hnext => exact Dev.limiterLegal_of_saved hs rfl hlow hhigh hratio hunder hnext
    next => exact Dev.limiterLegal_of_supply (Dev.count_supply ..) hzero
  · exact hzero

theorem Dev.pllUnlock_limits (s : Dev) : s.pllUnlock.limits = s.limits := by
  unfold Dev.pllUnlock
  extract_lets w again s1 s2 was
  have hnoted : s2.limits = s.limits := rfl
  clear_value s2
  split
  · rfl
  split
  · exact (Dev.limits_of_supply (Dev.setUp_supply ..)).trans hnoted
  · exact hnoted

theorem Dev.pllRelock_limits (s : Dev) : s.pllRelock.limits = s.limits := by
  unfold Dev.pllRelock
  split
  · rfl
  · exact (Dev.startWarm_limits _ 5).trans rfl

end Limiter

/-! ### Power states (R482 to R491) -/

section PowerStates
variable {s : Dev}

theorem Dev.entryFails_limits (s : Dev) (v : Word32) (off : Nat) : (s.entryFails v off).limits = s.limits := rfl

theorem Dev.beginEntry_limits (s : Dev) (n : Nat) (t : PowerState) : (s.beginEntry n t).limits = s.limits := by
  unfold Dev.beginEntry
  extract_lets was s1
  have hbegun : s1.limits = s.limits := rfl
  clear_value s1
  exact (Dev.limits_of_supply (Dev.supply_ite (s1.lowPorts_supply true) s1.downPorts_supply)).trans hbegun

theorem Dev.refuseEntry_limits (s : Dev) (n : Nat) (t : PowerState) (rs : List Refuser) :
    (s.refuseEntry n t rs).limits = s.limits := by
  unfold Dev.refuseEntry
  extract_lets s1 v
  have hcounted : s1.supply = s.supply := foldl_supply (fun d r => d.countReason_supply _) s rs
  exact (Dev.limits_of_supply (Dev.finishJob_supply ..)).trans ((s1.entryFails_limits ..).trans (Dev.limits_of_supply hcounted))

theorem Dev.enterState_limits (s : Dev) (n : Nat) (t : PowerState) : (s.enterState n t).limits = s.limits := by
  unfold Dev.enterState
  extract_lets rs
  split
  · exact s.refuseEntry_limits ..
  split
  · exact (Dev.limits_of_supply (Dev.finishJob_supply ..)).trans rfl
  · exact s.beginEntry_limits ..

theorem Dev.abortEntry_limits (s : Dev) (reason detail : Nat) : (s.abortEntry reason detail).limits = s.limits := by
  unfold Dev.abortEntry
  extract_lets w v s1 was s2 s3
  have hended : s2.limits = s.limits := rfl
  have hports : s3.limits = s2.limits := Dev.limits_of_supply (Dev.supply_ite (s2.lowPorts_supply false) s2.upPorts_supply)
  clear_value s3
  refine (Dev.limits_of_supply (Dev.runWaiting_supply _)).trans (Eq.trans ?_ (hports.trans hended))
  split
  · exact Dev.limits_of_supply (Dev.finishJob_supply ..)
  · rfl

/-- The image that an entry saves holds the limit and the ratio in force. -/
theorem Dev.commitEntry_legal (hs : s.limiterLegal) (n : Nat) : (s.commitEntry n).limiterLegal := by
  unfold Dev.commitEntry
  extract_lets t off s0 s1 s2 w
  have h0 : s0.limiterLegal := Dev.limiterLegal_of_supply (Dev.supply_ite s.serveQueues_supply rfl) hs
  have hsaved : ({ s0 with saved := some s0.image } : Dev).limiterLegal := by
    obtain ⟨hlow, hhigh, hratio, hunder, hfloor, _⟩ := h0
    refine ⟨hlow, hhigh, hratio, hunder, hfloor, fun im him => ?_⟩
    cases him
    exact ⟨hlow, hhigh, hratio⟩
  have h1 : s1.limiterLegal := Dev.limiterLegal_of_supply (Dev.finishJob_supply ..) hsaved
  have h2 : s2.limiterLegal := Dev.limiterLegal_of_supply (Dev.supply_ite (s1.postBox_supply n) rfl) h1
  exact Dev.limiterLegal_of_supply (Dev.runWaiting_supply _) (Dev.limiterLegal_of_limits (s := s2) rfl h2)

theorem Dev.powerStateSet_legal (hs : s.limiterLegal) (k : PowerCmd) : (s.powerStateSet k).limiterLegal := by
  have hends : ∀ (n : Nat) (st : Status), (s.finishJob n st 0).limiterLegal := fun n st =>
    Dev.limiterLegal_of_supply (s.finishJob_supply n st 0) hs
  unfold Dev.powerStateSet
  extract_lets n
  split
  · split
    · exact hs
    split
    · exact Dev.limiterLegal_of_limits (s.abortEntry_limits ..) hs
    · exact Dev.commitEntry_legal hs n
  · refine Dev.runJob_legal hs n _ fun j => ?_
    split
    · exact hends ..
    split
    · exact hends ..
    split
    · split
      · exact hends ..
      · exact Dev.limiterLegal_of_limits (s.enterState_limits ..) hs
    split
    · exact Dev.limiterLegal_of_limits (s := s) rfl hs
    · exact hends ..

theorem Dev.wake_limits (s : Dev) (src : WakeSource) : (s.wake src).limits = s.limits := by
  unfold Dev.wake
  extract_lets w
  split
  · rfl
  split
  · split
    · exact s.abortEntry_limits ..
    · rfl
  split <;> rfl

theorem Dev.reachRun_limits (s : Dev) : s.reachRun.limits = (s.limits.1, none) := by
  unfold Dev.reachRun
  extract_lets w up s1
  have hup : s1.limits = (s.limits.1, none) := rfl
  clear_value s1
  refine (Dev.limits_of_supply (Dev.runWaiting_supply _)).trans (Eq.trans ?_ hup)
  split
  · exact Dev.limits_of_supply (Dev.finishJob_supply ..)
  · rfl

theorem Dev.reachRun_legal (hs : s.limiterLegal) : s.reachRun.limiterLegal :=
  Dev.limiterLegal_of_unsaved s.reachRun_limits hs

theorem Dev.badRestore_legal (s : Dev) : s.badRestore.limiterLegal :=
  Dev.limiterLegal_of_supply (Dev.count_supply ..) (s.startCold_legal 8)

theorem Dev.leaveOff_legal (hs : s.limiterLegal) : s.leaveOff.limiterLegal := by
  unfold Dev.leaveOff
  have hcold := s.startCold_legal 7
  generalize s.startCold 7 = s1 at hcold
  dsimp only
  split
  next im him =>
    have hback := Dev.restore_legal hcold (hs.2.2.2.2.2 im him)
    generalize s1.restore im = s2 at hback
    exact Dev.limiterLegal_of_limits (s := s2) rfl hback
  next => exact hcold

theorem Dev.powerStateExit_legal (hs : s.limiterLegal) (good : Bool) : (s.powerStateExit good).limiterLegal := by
  unfold Dev.powerStateExit
  extract_lets w s1
  split
  · exact hs
  split
  · exact hs
  · exact Dev.reachRun_legal hs
  · split
    · exact s.badRestore_legal
    · refine Dev.limiterLegal_of_supply (Dev.wakePorts_supply _) (Dev.reachRun_legal ?_)
      split
      next im him => exact Dev.restore_legal hs (hs.2.2.2.2.2 im him)
      next => exact hs
  · split
    · exact s.badRestore_legal
    · have hrun : s1.limiterLegal := Dev.limiterLegal_of_supply ((Dev.trainPorts_supply _).trans (Dev.resumeStreams_supply _))
        (Dev.reachRun_legal (Dev.leaveFallow_legal hs))
      clear_value s1
      exact Dev.limiterLegal_of_supply (Dev.supply_ite (s1.gotreRestarted_supply _) rfl) hrun
  · split
    · exact Dev.leaveOff_legal hs
    · exact s.badRestore_legal

end PowerStates

/-! ### Every step -/

section Steps
variable {s t : State}

theorem atAddress_legal {pa : Nat} {d : Dev} (hrun : atAddress pa s d = .next t) (hs : s.dev.limiterLegal) :
    t.dev.limiterLegal := by
  by_cases h : memExists pa = true
  · rw [atAddress_of_exists h] at hrun
    cases hrun
    dsimp only
    split
    · exact hs
    · exact hs
  · rw [atAddress_of_absent h] at hrun
    cases hrun

/-- Every command keeps the limiter legal: those that reach the keeper by their own rules, the others because the limit, the
ratio, the counts and save memory stand outside what they may change. -/
theorem exec_legal {c : Instr} (hrun : exec c s = .next t) (hs : s.dev.limiterLegal) : t.dev.limiterLegal := by
  cases c with
  | memRead => exact atAddress_legal hrun hs
  | memWrite => exact atAddress_legal hrun hs
  | clearance => exact atAddress_legal hrun hs
  | scrubBlock => exact atAddress_legal hrun hs
  | powerLimitSet n => cases hrun; exact Dev.limiterLegal_of_power hs (Dev.powerLimitSet_legal hs n) rfl (Dev.gotreScope_saved s.dev (s.dev.powerLimitSet n))
  | powerStateSet k => cases hrun; exact Dev.powerStateSet_legal hs k
  | wake src => cases hrun; exact Dev.limiterLegal_of_limits (s.dev.wake_limits src) hs
  | powerStateExit good => cases hrun; exact Dev.powerStateExit_legal hs good
  | powerSample watts mean => cases hrun; exact Dev.limiterLegal_of_power hs (Dev.powerSample_legal hs watts mean) (Dev.limitScope_power ..) (Dev.limitScope_saved ..)
  | limiterStep mean => cases hrun; exact Dev.limiterLegal_of_power hs (Dev.limiterStep_legal hs mean) (Dev.limitScope_power ..) (Dev.limitScope_saved ..)
  | pllUnlock => cases hrun; exact Dev.limiterLegal_of_limits s.dev.pllUnlock_limits hs
  | pllRelock => cases hrun; exact Dev.limiterLegal_of_limits s.dev.pllRelock_limits hs
  | registerWrite => cases hrun; exact Dev.writeAny_legal hs ..
  | bitAliasWrite => cases hrun; exact Dev.writeBar0_legal hs ..
  | surveyFull => cases hrun; exact Dev.writeBar0_legal hs ..
  | surveyDie => cases hrun; exact Dev.writeBar0_legal hs ..
  | surveyResume => cases hrun; exact Dev.writeBar0_legal hs ..
  | kprResetCore => cases hrun; exact Dev.writeBar0_legal hs ..
  | kprResetDie => cases hrun; exact Dev.writeBar0_legal hs ..
  | kprResetWarm => cases hrun; exact Dev.writeBar0_legal hs ..
  | kprResetCold => cases hrun; exact Dev.writeBar0_legal hs ..
  | hotReset => cases hrun; exact Dev.limiterLegal_of_limits s.dev.hotReset_limits hs
  | warmReset => cases hrun; exact Dev.warmReset_legal hs
  | perstAssert => cases hrun; exact Dev.perstLow_legal hs
  | perstRelease => cases hrun; exact Dev.limiterLegal_of_limits s.dev.perstHigh_limits hs
  | coldResetBoot verified => cases hrun; exact Dev.limiterLegal_of_limits (s.dev.boot_limits verified) hs
  | powerUp => cases hrun; exact Dev.powerUp_legal hs
  | inputPowerLoss => cases hrun; exact s.dev.powerLoss_legal
  | dieTempLimit d temp => cases hrun; exact Dev.limiterLegal_of_limits (s.dev.dieHot_limits d.val temp) hs
  | dieLimitRelease => cases hrun; exact Dev.limiterLegal_of_limits s.dev.dieCool_limits hs
  | thermalTrip r => cases hrun; exact Dev.trip_legal hs r
  | thermalRelease hottest inlet => cases hrun; exact Dev.coolAgain_legal hs hottest inlet
  | _ =>
    cases hrun
    exact Dev.limiterLegal_of_limits (by simp [Dev.limits, Dev.vector, Dev.windrow, apply_ite Dev.power, apply_ite Dev.saved]) hs

end Steps

/-- Settles O4: an empty queue ticks device time, and any other runs its front command. -/
theorem everyStepKeepsTheLimiterLegal : Obligations.EveryStepKeepsTheLimiterLegal := by
  unfold Obligations.EveryStepKeepsTheLimiterLegal
  intro s t hs hstep
  unfold step at hstep
  split at hstep
  · cases hstep
    exact Dev.limiterLegal_of_supply s.dev.tick_supply hs
  · exact exec_legal hstep hs

end Sys2Proof.Machine

/-! Heat: the temperature limit and the trips (R553). -/

namespace Sys2Proof.Machine

section Heat
variable (s : Dev)

/-- The hottest reading and the limit in force, before the excursion is counted. -/
def Dev.heated (s : Dev) (temp : Nat) : Dev :=
  let c := s.pins.coolant
  { s with pins := { s.pins with coolant := (c.1, c.2.1, max c.2.2 (min temp 255)) }, power := { s.power with dieLimit := true } }

theorem Dev.dieHot_of_hot {d temp : Nat} (hup : s.clocked = true) (hdie : droopDies.contains d = true) (hhot : 100 ≤ temp) :
    s.dieHot d temp
      = if s.power.dieLimit then s.heated temp else (s.heated temp).count none (regAt kpr 0x1D010) 1 := by
  rw [Dev.dieHot, if_neg (by simp only [hup, hdie, decide_eq_false (not_lt.mpr hhot)]; decide)]
  rfl

theorem Dev.dieHot_of_cool {d temp : Nat} (hcool : temp < 100) : s.dieHot d temp = s := by
  rw [Dev.dieHot, if_pos (by simp [hcool])]

/-- The device as the keeper holds it after a trip, the excursion counted. -/
def Dev.tripped (s : Dev) : Dev :=
  ({ s with pins := { s.pins with thermTrip := true, pwrOk := false, heldHot := true } } : Dev).count none (regAt kpr 0x1D018) 1

theorem Dev.tripped_trips : s.tripped.ctr (regAt kpr 0x1D018) = addStop64 (s.ctr (regAt kpr 0x1D018)) 1 :=
  Dev.ctr_count_same _ none _ _

/-- A trip is a cold reset but for what save memory keeps. -/
theorem Dev.trip_of_trips {r : ThermalReport} (hpower : s.pins.inputPower = true) (hfree : s.pins.heldHot = false)
    (htrips : ThermalReport.trips r = true) :
    let s0 : Dev := { s with pins := { s.pins with coolant := (min r.inlet 255, min r.outlet 255, min r.die 255) } }
    s.trip r = (s0.blank.keepSaved s0).tripped := by
  rw [Dev.trip, if_neg (by simp [hpower])]
  exact if_neg (by simp [hfree, htrips])

/-- A report that trips nothing is noted. -/
theorem Dev.trip_of_cool {r : ThermalReport} (hpower : s.pins.inputPower = true) (htrips : ThermalReport.trips r = false) :
    s.trip r = { s with pins := { s.pins with coolant := (min r.inlet 255, min r.outlet 255, min r.die 255) } } := by
  rw [Dev.trip, if_neg (by simp [hpower])]
  exact if_pos (by simp [htrips])

theorem trips_iff (r : ThermalReport) :
    ThermalReport.trips r = true ↔ 115 ≤ r.die ∨ r.inletLong = true ∨ 65 < r.outlet := by
  simp only [ThermalReport.trips, Bool.or_eq_true, decide_eq_true_eq, or_assoc]

theorem Dev.keepSaved_trips (old : Dev) : (s.keepSaved old).ctr (regAt kpr 0x1D018) = old.ctr (regAt kpr 0x1D018) :=
  Laws.Tab.get_set_same ..

theorem Dev.startCold_reg_cause (cause : Nat) : (s.startCold cause).reg (regAt kpr 0x1D004) = word (cause * 16 + 4) :=
  Laws.Tab.get_set_same ..

/-- A device that is not cool enough stays held. -/
theorem Dev.coolAgain_of_hot {hottest inlet : Nat} (hhot : 85 ≤ hottest ∨ 35 < inlet) : s.coolAgain hottest inlet = s := by
  rw [Dev.coolAgain]
  exact if_pos (by simpa [or_assoc] using Or.inr hhot)

/-- A cool device starts again, where no release of PERST# waits. -/
theorem Dev.coolAgain_of_cool {hottest inlet : Nat} (hheld : s.pins.heldHot = true) (hdie : hottest < 85) (hinlet : inlet ≤ 35)
    (hrelease : s.pins.releaseWaits = false) (hperst : s.pins.perst = false) :
    s.coolAgain hottest inlet = ({ s with pins := { s.pins with
      coolant := (min inlet 255, s.pins.coolant.2.1, min hottest 255), heldHot := false, pwrOk := true } } : Dev).startCold 9 := by
  rw [Dev.coolAgain]
  simp only [hheld, hrelease, hperst, decide_eq_false (not_le.mpr hdie), decide_eq_false (not_lt.mpr hinlet), Bool.not_true,
    Bool.or_self, Bool.false_eq_true, if_false]

end Heat

/-- Settles O59: at 100 °C the limit comes into force and is counted where it was not; a report trips at its bounds alone; a
held device starts again below both of its own. -/
theorem heatLimitsAndTrips : Obligations.HeatLimitsAndTrips := by
  unfold Obligations.HeatLimitsAndTrips
  intro s
  refine ⟨fun d temp hup hdie => ⟨fun hhot => ?_, fun hcool => ?_⟩, fun hlimit => ?_, fun r hpower hfree =>
    ⟨fun htrips => ?_, fun hdie hinlet houtlet => ?_⟩, fun hottest inlet hheld =>
    ⟨fun hdie hinlet hrelease hperst => ?_, fun hhot => ?_⟩⟩
  · have hdev := s.dev.dieHot_of_hot hup hdie hhot
    refine ⟨{ s with dev := s.dev.dieHot d.val temp }, rfl, rfl, ?_⟩
    dsimp only
    rw [hdev]
    cases hwas : s.dev.power.dieLimit with
    | true => exact ⟨rfl, rfl, rfl, rfl⟩
    | false => exact ⟨rfl, Dev.ctr_count_same _ none _ _, rfl, rfl⟩
  · exact congrArg (done s) (s.dev.dieHot_of_cool hcool)
  · refine ⟨{ s with dev := s.dev.dieCool }, rfl, rfl, ?_⟩
    rw [Dev.dieCool, if_neg (by simp [hlimit])]
    exact ⟨rfl, rfl, rfl, rfl⟩
  · have hdev := s.dev.trip_of_trips hpower hfree ((trips_iff r).2 htrips)
    refine ⟨{ s with dev := s.dev.trip r }, rfl, rfl, ?_⟩
    dsimp only at hdev ⊢
    rw [hdev]
    exact ⟨rfl, rfl, rfl, (Dev.tripped_trips _).trans (congrArg (addStop64 · 1) (Dev.keepSaved_trips ..)), rfl, rfl⟩
  · have hcool : ThermalReport.trips r = false := by
      rw [Bool.eq_false_iff, ne_eq, trips_iff r]
      simp [hinlet, hdie, houtlet]
    refine ⟨{ s with dev := s.dev.trip r }, rfl, rfl, ?_⟩
    dsimp only
    rw [s.dev.trip_of_cool hpower hcool]
    exact ⟨rfl, rfl, hfree, rfl⟩
  · refine ⟨{ s with dev := s.dev.coolAgain hottest inlet }, rfl, rfl, ?_⟩
    dsimp only
    rw [s.dev.coolAgain_of_cool hheld hdie hinlet hrelease hperst]
    exact ⟨rfl, rfl, rfl, Dev.startCold_reg_cause ..⟩
  · exact congrArg (done s) (s.dev.coolAgain_of_hot hhot)

end Sys2Proof.Machine

/-! The limiter, droop and the root PLL (R472, R473, R478 to R481). -/

namespace Sys2Proof.Machine

/-! ### A power sample (R479 to R481) -/

section Samples
variable (s : Dev)

theorem ctr_of_ctrs {s t : Dev} (h : t.ctrs = s.ctrs) (a : Nat) : t.ctr a = s.ctr a := congrArg (Tab.get 0 · a) h

/-- The keeper's counters are not those of the swallowed edges. -/
theorem kprReg_ne_swallowReg {off : Nat} (hoff : off ≠ 0x19018) (hbound : off < 0x40000) (d : Nat) :
    regAt kpr off ≠ regAt d 0x19018 := by
  simp only [regAt, kpr]
  omega

theorem Dev.countFree_ctr_ne (o : Option HoldId) {a b : Nat} (hab : a ≠ b) : (s.countFree o b).ctr a = s.ctr a :=
  s.ctr_count_ne o hab _

theorem Dev.countSwallows_ctr {off : Nat} (hoff : off ≠ 0x19018) (hbound : off < 0x40000) :
    s.countSwallows.ctr (regAt kpr off) = s.ctr (regAt kpr off) := by
  unfold Dev.countSwallows
  refine foldl_preserves (Dev.ctr · (regAt kpr off)) (fun d n => ?_) s droopDies
  split
  · exact d.countFree_ctr_ne none (kprReg_ne_swallowReg hoff hbound n)
  · rfl

theorem Dev.noteSample_ctrs (watts : Nat) : (s.noteSample watts).ctrs = s.ctrs :=
  foldl_preserves Dev.ctrs (fun d _ => d.modHolding_ctrs ..) s s.openHoldings

/-- The sample read, the time under a ratio counted, and the edges that the dies swallow. -/
def Dev.sampled (s : Dev) (mean : Nat) : Dev :=
  let s1 : Dev := { s with power := { s.power with inputW := min mean 65535 } }
  let s2 := if 0 < s.power.ratio then s1.count none (regAt kpr 0x1A008) 10 else s1
  if s.clocked then s2.countSwallows else s2

theorem Dev.powerSample_of_up (watts mean : Nat) (hup : s.keeperUp = true) :
    s.powerSample watts mean = (((s.sampled mean).overSample watts).raiseRatio mean).noteSample watts := by
  rw [Dev.powerSample, if_neg (by simp [hup])]
  rfl

theorem Dev.powerSample_of_down (watts mean : Nat) (hdown : s.keeperUp = false) : s.powerSample watts mean = s := by
  rw [Dev.powerSample, if_pos (by simp [hdown])]

theorem Dev.sampled_power (mean : Nat) : (s.sampled mean).power = { s.power with inputW := min mean 65535 } := by
  unfold Dev.sampled
  extract_lets was s1 s2
  have hcounted : s2.supply = s1.supply := Dev.supply_ite (s1.count_supply ..) rfl
  exact Dev.power_of_supply (s := s1) ((Dev.supply_ite s2.countSwallows_supply rfl).trans hcounted)

theorem Dev.sampled_ctr {off : Nat} (hoff : off ≠ 0x19018) (hbound : off < 0x40000) (mean : Nat) :
    (s.sampled mean).ctr (regAt kpr off)
      = if off = 0x1A008 ∧ 0 < s.power.ratio then addStop64 (s.ctr (regAt kpr off)) 10 else s.ctr (regAt kpr off) := by
  unfold Dev.sampled
  extract_lets was s1 s2
  have hcounted : s2.ctr (regAt kpr off)
      = if off = 0x1A008 ∧ 0 < s.power.ratio then addStop64 (s.ctr (regAt kpr off)) 10 else s.ctr (regAt kpr off) := by
    unfold s2
    by_cases hratio : 0 < s.power.ratio
    · rw [if_pos hratio]
      by_cases hsame : off = 0x1A008
      · rw [hsame, if_pos ⟨rfl, hratio⟩]
        exact s1.ctr_count_same none _ _
      · rw [if_neg (fun h => hsame h.1)]
        exact s1.ctr_count_ne none (by simp only [regAt]; omega) _
    · rw [if_neg hratio, if_neg (fun h => hratio h.2)]
      rfl
  clear_value s2
  split
  · exact (s2.countSwallows_ctr hoff hbound).trans hcounted
  · exact hcounted

theorem Dev.overSample_over {watts : Nat} (hover : 3300 < watts) :
    (s.overSample watts).power = { s.power with overdrawn := true, underSamples := 0 } := by
  rw [Dev.overSample, if_pos hover]
  dsimp only
  split <;> rfl

theorem Dev.overSample_ctr_over {watts : Nat} (hover : 3300 < watts) (hoff : s.power.overdrawn = false) :
    (s.overSample watts).ctr (regAt kpr 0x1A018) = addStop64 (s.ctr (regAt kpr 0x1A018)) 1 := by
  simp only [Dev.overSample, if_pos hover, hoff, Bool.false_eq_true, if_false]
  exact Dev.ctr_count_same _ none _ _

/-- The swallow that is on counts no further crossing. -/
theorem Dev.overSample_ctr_on (watts : Nat) (hon : s.power.overdrawn = true) (a : Nat) :
    (s.overSample watts).ctr a = s.ctr a := by
  simp only [Dev.overSample, hon, if_true, Bool.not_true, Bool.false_eq_true, if_false]
  split <;> rfl

theorem Dev.overSample_off {watts : Nat} (hunder : watts ≤ 3300) (hoff : s.power.overdrawn = false) : s.overSample watts = s := by
  rw [Dev.overSample, if_neg (by omega), if_pos (by simp [hoff])]

/-- Under a swallow, a sample from 3,200 W on begins the count anew, and the hundredth below it ends the swallow. -/
theorem Dev.overSample_on {watts : Nat} (hunder : watts ≤ 3300) (hon : s.power.overdrawn = true) :
    let k := if watts < 3200 then s.power.underSamples + 1 else 0
    (s.overSample watts).power = { s.power with overdrawn := decide (k < 100), underSamples := if k < 100 then k else 0 } := by
  intro k
  rw [Dev.overSample, if_neg (show ¬ 3300 < watts by omega), if_neg (by simp [hon])]

/-- Only the crossing of 3,300 W is counted. -/
theorem Dev.overSample_ctr_ne (watts : Nat) {a : Nat} (ha : a ≠ regAt kpr 0x1A018) : (s.overSample watts).ctr a = s.ctr a := by
  cases hon : s.power.overdrawn with
  | true => exact s.overSample_ctr_on watts hon a
  | false =>
    by_cases hover : 3300 < watts
    · simp only [Dev.overSample, if_pos hover, hon, Bool.false_eq_true, if_false]
      exact Dev.ctr_count_ne _ none ha _
    · rw [s.overSample_off (by omega) hon]

/-- The swallow of excess power leaves the limit, the ratio and the reading. -/
theorem Dev.overSample_keeps (watts : Nat) : (s.overSample watts).power.limit = s.power.limit
    ∧ (s.overSample watts).power.ratio = s.power.ratio ∧ (s.overSample watts).power.inputW = s.power.inputW := by
  unfold Dev.overSample
  split
  · dsimp only
    split <;> exact ⟨rfl, rfl, rfl⟩
  split <;> exact ⟨rfl, rfl, rfl⟩

theorem Dev.raiseRatio_below {mean : Nat} (hbelow : mean ≤ s.power.limit) : s.raiseRatio mean = s := by
  rw [Dev.raiseRatio, if_pos (by simp [hbelow])]

/-- The ratio as a sample may raise it: everything else stands. -/
theorem Dev.raiseRatio_spec (mean : Nat) : ∃ n, (s.raiseRatio mean).power = { s.power with ratio := n } ∧ s.power.ratio ≤ n
    ∧ (s.power.limit < mean → s.power.ratio < 48 → s.power.ratio < n ∧ n ≤ 48)
    ∧ (s.raiseRatio mean).ctrs = s.ctrs := by
  by_cases hrises : s.power.limit < mean ∧ s.power.ratio < 48
  · obtain ⟨habove, hroom⟩ := hrises
    have hrise := Nat.mod_lt s.takeFree.1.toNat (show 0 < 48 - s.power.ratio by omega)
    rw [Dev.raiseRatio, if_neg (by simp; omega)]
    exact ⟨_, rfl, by omega, fun _ _ => by omega, rfl⟩
  · rw [Dev.raiseRatio, if_pos (by simp; omega)]
    exact ⟨_, rfl, le_rfl, fun habove hroom => absurd ⟨habove, hroom⟩ hrises, rfl⟩

end Samples

/-! ### Droop (R473, R492) -/

section Droops
variable (s : Dev)

theorem Dev.droopOf_setDroop_same (d : Nat) (r : Fin 3) : (s.setDroop d r).droopOf d = { ratio := r } := Laws.Tab.get_set_same ..

theorem Dev.droopOf_setDroop_ne {d k : Nat} (h : k ≠ d) (r : Fin 3) : (s.setDroop d r).droopOf k = s.droopOf k :=
  Laws.Tab.get_set_ne _ _ _ h

end Droops

/-! ### Gotre's readiness as a loss of lock ends it (R472, R416) -/

/-- Readiness changes with its interrupts, and nothing else does. -/
theorem Dev.setUp_eq (s : Dev) (up : Bool) : ∃ sent, s.setUp up = { s with gotre := { s.gotre with up := up }, outbox := sent } := by
  unfold Dev.setUp
  split
  next hsame =>
    subst hsame
    exact ⟨s.outbox, rfl⟩
  next => exact ⟨_, rfl⟩

/-! ### The sample as a whole, and the obligation -/

section Whole
variable (s : Dev)

/-- A sample changes the keeper's power as the swallow of excess power does, and may raise the ratio. -/
theorem Dev.powerSample_spec (watts mean : Nat) (hup : s.keeperUp = true) :
    ∃ n, (s.powerSample watts mean).power = { ((s.sampled mean).overSample watts).power with ratio := n } ∧ s.power.ratio ≤ n
      ∧ (mean ≤ s.power.limit → n = s.power.ratio)
      ∧ (s.power.limit < mean → s.power.ratio < 48 → s.power.ratio < n ∧ n ≤ 48)
      ∧ (s.powerSample watts mean).ctrs = ((s.sampled mean).overSample watts).ctrs := by
  obtain ⟨hlimit, hratio, _⟩ := (s.sampled mean).overSample_keeps watts
  rw [s.sampled_power] at hlimit hratio
  obtain ⟨n, hpower, hrises, hin, hctrs⟩ := ((s.sampled mean).overSample watts).raiseRatio_spec mean
  rw [s.powerSample_of_up watts mean hup]
  refine ⟨n, (Dev.power_of_supply (Dev.noteSample_supply ..)).trans hpower, ?_, fun hbelow => ?_, fun habove hroom => ?_,
    (Dev.noteSample_ctrs ..).trans hctrs⟩
  · rwa [hratio] at hrises
  · rw [Dev.raiseRatio_below _ (hbelow.trans_eq hlimit.symm)] at hpower
    exact (congrArg Power.ratio hpower).symm.trans hratio
  · rw [hlimit, hratio] at hin
    exact hin habove hroom

end Whole

/-- An excess draw makes every die swallow. -/
theorem Dev.swallows_of_overdrawn {s : Dev} (h : s.power.overdrawn = true) (d : Nat) : s.swallows d = true := by
  simp [Dev.swallows, h]

/-- What a sample of a running keeper does. -/
theorem exec_powerSample (s : State) (watts mean : Nat) (hup : s.dev.keeperUp = true) :
    ∃ t, exec (.powerSample watts mean) s = .next t ∧ t.pending = s.pending
      ∧ t.dev.power.inputW = min mean 65535 ∧ t.dev.power.limit = s.dev.power.limit
      ∧ s.dev.power.ratio ≤ t.dev.power.ratio
      ∧ (mean ≤ s.dev.power.limit → t.dev.power.ratio = s.dev.power.ratio)
      ∧ (s.dev.power.limit < mean → s.dev.power.ratio < 48 → s.dev.power.ratio < t.dev.power.ratio ∧ t.dev.power.ratio ≤ 48)
      ∧ t.dev.ctr (regAt kpr 0x1A008)
          = (if 0 < s.dev.power.ratio then addStop64 (s.dev.ctr (regAt kpr 0x1A008)) 10 else s.dev.ctr (regAt kpr 0x1A008))
      ∧ (3300 < watts → t.dev.power.overdrawn = true)
      ∧ (s.dev.power.overdrawn = false → watts ≤ 3300 → t.dev.power.overdrawn = false)
      ∧ (s.dev.power.overdrawn = false → 3300 < watts →
          t.dev.ctr (regAt kpr 0x1A018) = addStop64 (s.dev.ctr (regAt kpr 0x1A018)) 1)
      ∧ (s.dev.power.overdrawn = true → t.dev.ctr (regAt kpr 0x1A018) = s.dev.ctr (regAt kpr 0x1A018))
      ∧ (s.dev.power.overdrawn = true → watts < 3200 → t.dev.power.overdrawn = decide (s.dev.power.underSamples + 1 < 100)
          ∧ t.dev.power.underSamples = (if s.dev.power.underSamples + 1 < 100 then s.dev.power.underSamples + 1 else 0))
      ∧ (s.dev.power.overdrawn = true → 3200 ≤ watts → t.dev.power.overdrawn = true ∧ t.dev.power.underSamples = 0)
      ∧ (t.dev.power.overdrawn = true → ∀ d, t.dev.swallows d = true)
      ∧ t.dev.mem = s.dev.mem ∧ t.dev.regs = s.dev.regs ∧ t.dev.cores = s.dev.cores := by
  obtain ⟨n, hpower, hrises, hbelow, habove, hctrs⟩ := s.dev.powerSample_spec watts mean hup
  have hread := s.dev.sampled_power mean
  have hcrossings : (s.dev.sampled mean).ctr (regAt kpr 0x1A018) = s.dev.ctr (regAt kpr 0x1A018) := by
    rw [s.dev.sampled_ctr (by decide) (by decide), if_neg (fun h => absurd h.1 (by decide))]
  have htime : (s.dev.sampled mean).ctr (regAt kpr 0x1A008)
      = if 0 < s.dev.power.ratio then addStop64 (s.dev.ctr (regAt kpr 0x1A008)) 10 else s.dev.ctr (regAt kpr 0x1A008) := by
    rw [s.dev.sampled_ctr (by decide) (by decide)]
    simp only [true_and]
  generalize s.dev.sampled mean = u at hpower hctrs hread hcrossings htime
  have hoverdrawn : u.power.overdrawn = s.dev.power.overdrawn := by rw [hread]
  have hsamples : u.power.underSamples = s.dev.power.underSamples := by rw [hread]
  obtain ⟨hlimit, _, hinput⟩ := u.overSample_keeps watts
  rw [hread] at hlimit hinput
  refine ⟨{ s with dev := s.dev.limitScope (s.dev.powerSample watts mean) }, rfl, rfl, ?_⟩
  have hkept : (s.dev.limitScope (s.dev.powerSample watts mean)).power = { (u.overSample watts).power with ratio := n } :=
    (Dev.limitScope_power ..).trans hpower
  have hcounted : ∀ a, (s.dev.limitScope (s.dev.powerSample watts mean)).ctr a = (u.overSample watts).ctr a := fun a =>
    (ctr_of_ctrs (Dev.limitScope_ctrs ..) a).trans (ctr_of_ctrs hctrs a)
  dsimp only
  rw [hkept]
  refine ⟨hinput, hlimit, hrises, hbelow, habove, ?_, fun hover => ?_, fun hoff hunder => ?_, fun hoff hover => ?_,
    fun hon => ?_, fun hon hlow => ?_, fun hon hhigh => ?_, fun hdrawn d => ?_, rfl, rfl, rfl⟩
  · rw [hcounted, u.overSample_ctr_ne watts (by decide), htime]
  · rw [u.overSample_over hover]
  · rw [u.overSample_off hunder (hoverdrawn.trans hoff)]
    exact hoverdrawn.trans hoff
  · rw [hcounted, u.overSample_ctr_over hover (hoverdrawn.trans hoff), hcrossings]
  · rw [hcounted, u.overSample_ctr_on watts (hoverdrawn.trans hon), hcrossings]
  · rw [u.overSample_on (by omega) (hoverdrawn.trans hon)]
    simp only [if_pos hlow, hsamples, and_self]
  · by_cases hover : 3300 < watts
    · rw [u.overSample_over hover]
      exact ⟨rfl, rfl⟩
    · rw [u.overSample_on (by omega) (hoverdrawn.trans hon)]
      simp only [if_neg (show ¬ watts < 3200 by omega)]
      exact ⟨by decide, by decide⟩
  · exact Dev.swallows_of_overdrawn (by rw [hkept]; exact hdrawn) d

section Steps
variable {s : Dev} {mean : Nat}

/-! A step of the limiter: below 97 % of the limit the ratio falls; at 48 above the limit the floor counts to 10 ms (R480). -/

theorem Dev.limiterStep_of_down (hdown : s.keeperUp = false) : s.limiterStep mean = s := by
  rw [Dev.limiterStep]
  exact if_pos (by simp [hdown])

theorem Dev.limiterStep_of_low (hup : s.keeperUp = true) (hlow : mean * 100 < 97 * s.power.limit) :
    s.limiterStep mean = { s with power := { s.power with ratio := s.power.ratio - 1, floorMs := 0 } } := by
  rw [Dev.limiterStep]
  exact (if_neg (by simp [hup])).trans (if_pos hlow)

theorem Dev.limiterStep_of_floor (hup : s.keeperUp = true) (hratio : s.power.ratio = 48) (habove : s.power.limit < mean)
    (hms : s.power.floorMs + 1 < 10) : s.limiterStep mean = { s with power := { s.power with floorMs := s.power.floorMs + 1 } } := by
  rw [Dev.limiterStep]
  exact (if_neg (by simp [hup])).trans ((if_neg (by omega)).trans ((if_pos (by simp [hratio, habove])).trans (if_pos hms)))

theorem Dev.limiterStep_of_tenth (hup : s.keeperUp = true) (hratio : s.power.ratio = 48) (habove : s.power.limit < mean)
    (hms : 10 ≤ s.power.floorMs + 1) :
    s.limiterStep mean = ({ s with power := { s.power with floorMs := 0 } } : Dev).count none (regAt kpr 0x1A010) 1 := by
  rw [Dev.limiterStep]
  exact (if_neg (by simp [hup])).trans ((if_neg (by omega)).trans ((if_pos (by simp [hratio, habove])).trans
    (if_neg (by omega))))

theorem Dev.limiterStep_of_neither (hup : s.keeperUp = true) (hhigh : 97 * s.power.limit ≤ mean * 100)
    (hfloor : s.power.ratio ≠ 48 ∨ mean ≤ s.power.limit) :
    s.limiterStep mean = { s with power := { s.power with floorMs := 0 } } := by
  rw [Dev.limiterStep]
  exact (if_neg (by simp [hup])).trans ((if_neg (by omega)).trans (if_neg (by simp; omega)))

/-! A droop: the deeper ratio from the second threshold on, the lighter one from the first (R473). -/

variable {d sag : Nat}

theorem Dev.droopThreshold_of_deep (hdie : droopDies.contains d = true) (hreach : s.unreachable d = false)
    (hdeep : ((s.reg (regAt d 0x19000)).extractLsb' 8 8).toNat ≤ sag) :
    s.droopThreshold d sag = (s.setDroop d 2).count none (regAt d 0x19010) 1 := by
  rw [Dev.droopThreshold]
  exact (if_neg (by simp only [hdie, hreach]; decide)).trans (if_pos hdeep)

theorem Dev.droopThreshold_of_light (hdie : droopDies.contains d = true) (hreach : s.unreachable d = false)
    (hlight : ((s.reg (regAt d 0x19000)).extractLsb' 0 8).toNat ≤ sag)
    (hbelow : sag < ((s.reg (regAt d 0x19000)).extractLsb' 8 8).toNat) :
    s.droopThreshold d sag
      = (if (s.droopOf d).ratio = 0 then s.setDroop d 1 else s).count none (regAt d 0x19008) 1 := by
  rw [Dev.droopThreshold]
  exact (if_neg (by simp only [hdie, hreach]; decide)).trans ((if_neg (not_le.mpr hbelow)).trans (if_pos hlight))

theorem Dev.droopThreshold_of_none (hnone : sag < ((s.reg (regAt d 0x19000)).extractLsb' 0 8).toNat
    ∧ sag < ((s.reg (regAt d 0x19000)).extractLsb' 8 8).toNat) : s.droopThreshold d sag = s := by
  rw [Dev.droopThreshold]
  split
  · rfl
  · exact (if_neg (not_le.mpr hnone.2)).trans (if_neg (not_le.mpr hnone.1))

theorem Dev.droopRelease_of_drooped (hdie : droopDies.contains d = true) (hreach : s.unreachable d = false)
    (hnow : (s.droopOf d).ratio ≠ 0) : s.droopRelease d = (s.setDroop d 0).countFree none (regAt d 0x19018) :=
  if_pos (by simp only [hdie, hreach, bne_iff_ne.2 hnow]; decide)

theorem Dev.droopRelease_of_full (hnow : (s.droopOf d).ratio = 0) : s.droopRelease d = s := if_neg (by simp [hnow])

/-- A die without droop sensors, or out of reach, does not droop. -/
theorem Dev.droops_of_out (hout : droopDies.contains d = false ∨ s.unreachable d = true) :
    s.droopThreshold d sag = s ∧ s.droopRelease d = s := by
  constructor
  · exact if_pos (by rcases hout with h | h <;> simp only [h, Bool.not_false, Bool.true_or, Bool.or_true])
  · exact if_neg (by rcases hout with h | h <;> simp only [h, Bool.not_true, Bool.false_and, Bool.and_false, Bool.false_eq_true, not_false_eq_true])

end Steps

section Locks
variable (s : Dev)

/-- The holdover of R472, counted. -/
def Dev.heldOver (s : Dev) : Dev :=
  ({ s with power := { s.power with pllLock := false, holdover := true, lastUnlock := some s.dt } } : Dev).count none
    (regAt kpr 0x19010) 1

/-- The end of service of R472. -/
def Dev.serviceEnded (s : Dev) : Dev :=
  ({ s with gotre := { s.gotre with stopped := true, deviceState := .ended } } : Dev).setUp false

/-- A loss of lock within 1 s of the last one. -/
def Dev.unlocksAgain (s : Dev) : Bool := s.power.lastUnlock.any fun t => decide ((s.dt - t).toNat < oneSecond)

theorem Dev.pllUnlock_of_locked (hpower : s.pins.inputPower = true) (hlock : s.power.pllLock = true)
    (hfallow : s.power.state ≠ .fallow) (hoff : s.power.state ≠ .off) :
    s.pllUnlock = if s.unlocksAgain then s.heldOver.serviceEnded else s.heldOver := by
  rw [Dev.pllUnlock]
  exact if_neg (by simp [hpower, hlock, hfallow, hoff])

theorem Dev.pllUnlock_of_out (hout : s.pins.inputPower = false ∨ s.power.pllLock = false) : s.pllUnlock = s := by
  rw [Dev.pllUnlock]
  exact if_pos (by rcases hout with h | h <;> simp [h])

theorem Dev.serviceEnded_spec : s.serviceEnded.power = s.power ∧ s.serviceEnded.ctrs = s.ctrs ∧ s.serviceEnded.mem = s.mem
    ∧ s.serviceEnded.regs = s.regs ∧ s.serviceEnded.gotre.deviceState = .ended ∧ s.serviceEnded.gotre.up = false := by
  obtain ⟨sent, hended⟩ := ({ s with gotre := { s.gotre with stopped := true, deviceState := .ended } } : Dev).setUp_eq false
  rw [Dev.serviceEnded, hended]
  exact ⟨rfl, rfl, rfl, rfl, rfl, rfl⟩

/-- A warm reset that starts: Gotre is down, and the keeper holds its cause. -/
theorem Dev.startWarm_spec (cause : Nat) (hpower : s.pins.inputPower = true) (hfree : s.pins.resetting.val < 3)
    (hoff : s.power.state ≠ .off) (hheld : s.pins.heldHot = false) :
    (s.startWarm cause).power = s.power ∧ (s.startWarm cause).pins = { s.pins with resetting := 3 }
      ∧ (s.startWarm cause).reg (regAt kpr 0x1D004) = word (cause * 16 + 3) ∧ (s.startWarm cause).gotre.up = false
      ∧ (s.startWarm cause).mem = s.mem := by
  obtain ⟨sent, hdown⟩ := s.setUp_eq false
  rw [Dev.startWarm, if_neg (by simp [hpower, hfree, hoff, hheld]), hdown]
  exact ⟨rfl, rfl, Laws.Tab.get_set_same .., rfl, rfl⟩

theorem Dev.pllRelock_of_unlocked (hlock : s.power.pllLock = false) (hended : s.gotre.deviceState ≠ .ended)
    (hpower : s.pins.inputPower = true) (hfallow : s.power.state ≠ .fallow) (hoff : s.power.state ≠ .off) :
    s.pllRelock = ({ s with power := { s.power with pllLock := true, holdover := false } } : Dev).startWarm 5 := by
  rw [Dev.pllRelock, if_neg (by simp [hlock, hended, hpower, hfallow, hoff])]

theorem Dev.pllRelock_of_out (hout : s.power.pllLock = true ∨ s.gotre.deviceState = .ended) : s.pllRelock = s := by
  rw [Dev.pllRelock]
  exact if_pos (by rcases hout with h | h <;> simp [h])

end Locks

theorem unlocksAgain_iff (s : Dev) :
    s.unlocksAgain = true ↔ ∃ a, s.power.lastUnlock = some a ∧ (s.dt - a).toNat < 940000000 := by
  simp only [Dev.unlocksAgain, Option.any_eq_true, oneSecond]
  exact exists_congr fun a => and_congr_right fun _ => decide_eq_true_iff

/-- Settles O51: each command by what its own state operation answers. -/
theorem theLimiterAndDroopSlowTheClocks : Obligations.TheLimiterAndDroopSlowTheClocks := by
  unfold Obligations.TheLimiterAndDroopSlowTheClocks
  dsimp only
  refine ⟨⟨fun s watts mean => ⟨exec_powerSample s watts mean, fun hdown => ?_⟩, fun s mean =>
    ⟨fun hup => ⟨fun hlow => ?_, fun hratio habove hms => ?_, fun hratio habove hms => ?_, fun hhigh hfloor => ?_⟩,
      fun hdown => ?_⟩⟩, fun s d sag => ⟨fun hup hdie hreach => ⟨fun hdeep => ?_, fun hlight hbelow => ?_,
      fun hl1 hl2 => ?_, fun hnow => ?_, fun hnow => ?_⟩, fun hout => ?_⟩, fun s =>
    ⟨fun hpower hlock hfallow hoff => ?_, fun hout => ?_⟩, fun s =>
    ⟨fun hlock hended hpower hfallow hoff hfree hheld => ?_, fun hout => ?_⟩⟩
  · exact congrArg (fun r => done s (s.dev.limitScope r)) (s.dev.powerSample_of_down watts mean hdown)
  · refine ⟨{ s with dev := s.dev.limitScope (s.dev.limiterStep mean) }, rfl, rfl, ?_⟩
    rw [Dev.limiterStep_of_low hup hlow]
    exact ⟨rfl, rfl, rfl, rfl, rfl⟩
  · refine ⟨{ s with dev := s.dev.limitScope (s.dev.limiterStep mean) }, rfl, rfl, ?_⟩
    rw [Dev.limiterStep_of_floor hup hratio habove hms]
    exact ⟨rfl, rfl, rfl, rfl, rfl⟩
  · refine ⟨{ s with dev := s.dev.limitScope (s.dev.limiterStep mean) }, rfl, rfl, ?_⟩
    rw [Dev.limiterStep_of_tenth hup hratio habove hms]
    exact ⟨rfl, Dev.ctr_count_same _ none _ _, fun a ha => Dev.ctr_count_ne _ none ha 1, rfl, rfl, rfl⟩
  · refine ⟨{ s with dev := s.dev.limitScope (s.dev.limiterStep mean) }, rfl, rfl, ?_⟩
    rw [Dev.limiterStep_of_neither hup hhigh hfloor]
    exact ⟨rfl, rfl, rfl, rfl, rfl⟩
  · exact congrArg (fun r => done s (s.dev.limitScope r)) (Dev.limiterStep_of_down hdown)
  · refine ⟨_, work_clocked s _ hup, rfl, ?_⟩
    rw [Dev.droopThreshold_of_deep hdie hreach hdeep]
    exact ⟨congrArg Droop.ratio (s.dev.droopOf_setDroop_same d.val 2), Dev.ctr_count_same _ none _ _,
      fun k hk => s.dev.droopOf_setDroop_ne hk 2, rfl, rfl, rfl⟩
  · refine ⟨_, work_clocked s _ hup, rfl, ?_⟩
    rw [Dev.droopThreshold_of_light hdie hreach hlight hbelow]
    by_cases hnow : (s.dev.droopOf d.val).ratio = 0
    · rw [if_pos hnow, if_pos hnow]
      exact ⟨congrArg Droop.ratio (s.dev.droopOf_setDroop_same d.val 1), Dev.ctr_count_same _ none _ _,
        fun k hk => s.dev.droopOf_setDroop_ne hk 1, rfl, rfl, rfl⟩
    · rw [if_neg hnow, if_neg hnow]
      exact ⟨rfl, Dev.ctr_count_same _ none _ _, fun k _ => rfl, rfl, rfl, rfl⟩
  · refine (congrArg (fun r => work s (s.dev.droopScope r)) (Dev.droopThreshold_of_none ⟨hl1, hl2⟩)).trans ?_
    exact work_self s
  · refine ⟨_, work_clocked s _ hup, rfl, ?_⟩
    rw [Dev.droopRelease_of_drooped hdie hreach hnow]
    exact ⟨congrArg Droop.ratio (s.dev.droopOf_setDroop_same d.val 0), fun k hk => s.dev.droopOf_setDroop_ne hk 0, rfl, rfl, rfl⟩
  · refine (congrArg (fun r => work s (s.dev.droopScope r)) (Dev.droopRelease_of_full hnow)).trans ?_
    exact work_self s
  · rcases hout with hdown | hout
    · exact ⟨by rw [show exec (.droopThreshold d sag) s = _ from work_next ..]; simp [hdown],
        by rw [show exec (.droopRelease d) s = _ from work_next ..]; simp [hdown]⟩
    · obtain ⟨hthreshold, hrelease⟩ := Dev.droops_of_out (sag := sag) hout
      exact ⟨(congrArg (fun r => work s (s.dev.droopScope r)) hthreshold).trans (work_self s),
        (congrArg (fun r => work s (s.dev.droopScope r)) hrelease).trans (work_self s)⟩
  · refine ⟨{ s with dev := s.dev.pllUnlock }, rfl, rfl, ?_⟩
    rw [s.dev.pllUnlock_of_locked hpower hlock hfallow hoff]
    have hcount : s.dev.heldOver.ctr (regAt kpr 0x19010) = addStop64 (s.dev.ctr (regAt kpr 0x19010)) 1 :=
      Dev.ctr_count_same _ none _ _
    cases hagain : s.dev.unlocksAgain with
    | true =>
      obtain ⟨hkept, hctrs, hmem, hregs, hstate, hdown⟩ := s.dev.heldOver.serviceEnded_spec
      obtain ⟨a, hlast, hsoon⟩ := (unlocksAgain_iff _).1 hagain
      refine ⟨hkept, (ctr_of_ctrs hctrs _).trans hcount, fun _ _ _ => ⟨hstate, hdown⟩, fun hlate => ?_, hmem, hregs⟩
      exact absurd (hlate a hlast) (by omega)
    | false =>
      refine ⟨rfl, hcount, fun a hlast hsoon => ?_, fun _ => rfl, rfl, rfl⟩
      exact absurd ((unlocksAgain_iff _).2 ⟨a, hlast, hsoon⟩) (by simp [hagain])
  · exact congrArg (done s) (s.dev.pllUnlock_of_out hout)
  · refine ⟨{ s with dev := s.dev.pllRelock }, rfl, rfl, ?_⟩
    rw [s.dev.pllRelock_of_unlocked hlock hended hpower hfallow hoff]
    obtain ⟨hkept, hpins, hcause, hdown, hmem⟩ := Dev.startWarm_spec
      { s.dev with power := { s.dev.power with pllLock := true, holdover := false } } 5 hpower hfree hoff hheld
    exact ⟨hkept, congrArg Pins.resetting hpins, hcause, hdown, hmem⟩
  · exact congrArg (done s) (s.dev.pllRelock_of_out hout)

end Sys2Proof.Machine

/-! Power states: entries, aborts, wakes and exits (R478, R482 to R491, R493). -/

namespace Sys2Proof.Machine

/-! ### What ends a command of Gotre, and a Survey's waiting triggers -/

section Ends
variable (s : Dev)

/-- The end of a command changes Gotre alone. -/
theorem Dev.finishJob_frame (n : Nat) (st : Status) (result : BitVec 128) : ∃ g, s.finishJob n st result = { s with gotre := g } := by
  unfold Dev.finishJob
  split
  · split
    · exact ⟨s.gotre, rfl⟩
    · split <;> exact ⟨_, rfl⟩
  · exact ⟨s.gotre, rfl⟩

/-- Where no trigger waited, none runs. -/
theorem Dev.runWaiting_of_none {s : Dev} (hnone : s.survey.waiting = []) : s.runWaiting = s := by
  have hsame : ({ s.survey with waiting := [] } : Survey) = s.survey := by rw [← hnone]
  simp only [Dev.runWaiting, hnone, hsame, List.foldl_nil]

end Ends

/-! ### Ports as they change their state (R309, R317) -/

section Ports
variable (s : Dev) (p : PortId)

theorem Dev.Tells.survey {s t : Dev} (h : s.Tells t) : t.survey = s.survey := (congrArg Dev.survey h.untold :)

theorem Dev.survey_of_standing {s t : Dev} (h : t.standing = s.standing) : t.survey = s.survey :=
  (congrArg (fun x : Dev × (HoldId → Holding) => x.1.survey) h :)

theorem kprReg_ne_klxReg {a off : Nat} (ha : a < 0x40000) (hoff : off ∈ sendCounters) (q : PortId) :
    regAt kpr a ≠ klxReg q off := by
  have hlt : off < 0x1000 := (by decide : ∀ a ∈ sendCounters, a < 0x1000) off hoff
  simp only [klxReg, regAt, linkDie, kpr]
  omega

theorem kprReg_ne_hdlReg {a : Nat} (ha : a < 0x40000) (q : PortId) : regAt kpr a ≠ hdlReg q 0x18 := by
  simp only [hdlReg, regAt, linkDie, kpr]
  omega

/-- The keeper's counters stand as messages leave. -/
theorem Dev.send_kprCtr {a : Nat} (ha : a < 0x40000) (dst : BitVec 16) (vc : Fin 4) (o : Owner) (m : OutMsg) :
    (s.send dst vc o m).ctr (regAt kpr a) = s.ctr (regAt kpr a) :=
  s.sendFrom_ctr _ dst vc (fun _ hoff q => kprReg_ne_klxReg ha hoff q) (kprReg_ne_hdlReg ha) o m

theorem Dev.drain_kprCtr {a : Nat} (ha : a < 0x40000) : (s.drain p).ctr (regAt kpr a) = s.ctr (regAt kpr a) := by
  unfold Dev.drain
  split
  · rfl
  · exact s.drainPort_ctr p (fun _ hoff q => kprReg_ne_klxReg ha hoff q) _

theorem Dev.tellLinks_kprCtr {a : Nat} (ha : a < 0x40000) : s.tellLinks.ctr (regAt kpr a) = s.ctr (regAt kpr a) := by
  unfold Dev.tellLinks
  split
  · rfl
  · exact foldl_preserves (Dev.ctr · (regAt kpr a)) (fun d n => d.send_kprCtr ha ..) { s with linkSent := s.ownLinks } _

theorem Dev.setPortState_kprCtr {a : Nat} (ha : a < 0x40000) (st : PortState) (f : Port → Port) :
    (s.setPortState p st f).ctr (regAt kpr a) = s.ctr (regAt kpr a) := by
  unfold Dev.setPortState
  extract_lets s1
  split
  · rfl
  · unfold Dev.linksMoved
    split
    · rfl
    · exact Dev.tellLinks_kprCtr _ ha

theorem Dev.setPortState_survey (st : PortState) (f : Port → Port) : (s.setPortState p st f).survey = s.survey := by
  obtain ⟨bits, htells⟩ := s.setPortState_tells p st f
  exact htells.survey

/-- The other ports stand as one changes its state. -/
theorem Dev.setPortState_standing_ne (st : PortState) (f : Port → Port) {q : PortId} (hq : q ≠ p) :
    ((s.setPortState p st f).port q).standing = (s.port q).standing := by
  obtain ⟨bits, htells⟩ := s.setPortState_tells p st f
  have hport := s.port_modPort p q fun x => { f x with state := st }
  rw [if_neg hq] at hport
  exact (htells.standing q).trans (congrArg Port.standing hport)

end Ports

/-! ### What the ports do as a power state is entered or left -/

section LowPorts
variable (s : Dev)

/-- The parts of a device that an abort of an entry leaves: a counter of the keeper, what waits in a Survey, memory. -/
theorem Dev.lowPorts_kprCtr {a : Nat} (ha : a < 0x40000) (on : Bool) :
    (s.lowPorts on).ctr (regAt kpr a) = s.ctr (regAt kpr a) := by
  refine foldl_preserves (Dev.ctr · (regAt kpr a)) (fun d p => ?_) s allPorts
  dsimp only
  split
  · rfl
  · exact Dev.drain_kprCtr _ p ha

theorem Dev.lowPorts_survey (on : Bool) : (s.lowPorts on).survey = s.survey := by
  refine foldl_preserves Dev.survey (fun d p => ?_) s allPorts
  dsimp only
  split
  · rfl
  · exact (Dev.drain_sends _ p).tells.survey

theorem Dev.upPorts_kprCtr {a : Nat} (ha : a < 0x40000) : s.upPorts.ctr (regAt kpr a) = s.ctr (regAt kpr a) := by
  refine foldl_preserves (Dev.ctr · (regAt kpr a)) (fun d p => ?_) s allPorts
  split
  · exact d.setPortState_kprCtr p ha ..
  · rfl

theorem Dev.upPorts_survey : s.upPorts.survey = s.survey := by
  refine foldl_preserves Dev.survey (fun d p => ?_) s allPorts
  split
  · exact d.setPortState_survey p ..
  · rfl

/-- A fold over distinct ports whose step changes one port's standing leaves each of them changed once. -/
theorem foldl_port_standing {f : Dev → PortId → Dev} {g : Port → Port}
    (hself : ∀ d p, ((f d p).port p).standing = g ((d.port p).standing))
    (hother : ∀ d p q, q ≠ p → ((f d p).port q).standing = (d.port q).standing) {l : List PortId} (hl : l.Nodup) (s : Dev)
    (p : PortId) : ((l.foldl f s).port p).standing = if p ∈ l then g ((s.port p).standing) else (s.port p).standing := by
  induction l generalizing s with
  | nil => rfl
  | cons q rest ih =>
    obtain ⟨hq, hrest⟩ := List.nodup_cons.1 hl
    rw [List.foldl_cons, ih hrest]
    by_cases hpq : p = q
    · subst hpq
      rw [if_neg hq, if_pos (by simp), hself]
    · rw [hother s q p hpq]
      simp only [List.mem_cons, hpq, false_or]

end LowPorts

/-- A port as it wakes: out of the low-power mode, and training where it was usable. -/
def Port.woken (q : Port) : Port := { q with lowPower := false, state := if q.state.usable then .training else q.state }

theorem Dev.wakePorts_standing (s : Dev) (p : PortId) : (s.wakePorts.port p).standing = (s.port p).standing.woken := by
  unfold Dev.wakePorts
  rw [foldl_port_standing (g := Port.woken) (fun d p => ?_) (fun d p q hq => ?_) (l := allPorts) (List.nodup_finRange 8) s p,
    if_pos (show p ∈ allPorts from List.mem_finRange p)]
  · extract_lets d1
    have hlow : d1.port p = { d.port p with lowPower := false } := (d.port_modPort p p _).trans (if_pos rfl)
    have hstate : (d1.port p).state = (d.port p).state := by rw [hlow]
    rw [hstate]
    split
    next husable =>
      rw [Dev.setPortState_standing, hlow, Port.woken, if_pos (show (d.port p).standing.state.usable = true from husable)]
      rfl
    next husable =>
      rw [hlow, Port.woken, if_neg (show ¬ (d.port p).standing.state.usable = true from husable)]
      rfl
  · extract_lets d1
    have hkept : d1.port q = d.port q := (d.port_modPort p q _).trans (if_neg hq)
    split
    · rw [Dev.setPortState_standing_ne _ _ _ _ hq, hkept]
    · rw [hkept]

theorem Dev.wakePorts_mem (s : Dev) : s.wakePorts.mem = s.mem := by
  refine foldl_preserves Dev.mem (fun d p => ?_) s allPorts
  dsimp only
  split
  · exact Dev.setPortState_mem ..
  · rfl

theorem Dev.restore_mem (s : Dev) (im : SavedImage) : (s.restore im).mem = s.mem := by
  unfold Dev.restore
  dsimp only
  refine (foldl_preserves Dev.mem (fun d h => ?_) _ _).trans ((foldl_preserves Dev.mem (fun d k => ?_) _ _).trans
    ((foldl_preserves Dev.mem (fun d n => ?_) _ _).trans (foldl_preserves Dev.mem (fun d c => ?_) _ _)))
  · exact d.modHolding_mem ..
  · rfl
  · exact d.modDie_mem ..
  · exact d.modCore_mem ..

theorem Dev.restore_ports (s : Dev) (im : SavedImage) : (s.restore im).ports = s.ports := by
  unfold Dev.restore
  dsimp only
  refine (foldl_preserves Dev.ports (fun d h => ?_) _ _).trans ((foldl_preserves Dev.ports (fun d k => ?_) _ _).trans
    ((foldl_preserves Dev.ports (fun d n => ?_) _ _).trans (foldl_preserves Dev.ports (fun d c => ?_) _ _)))
  · exact d.modHolding_ports ..
  · rfl
  · exact d.modDie_ports ..
  · exact d.modCore_ports ..

theorem Dev.restore_survey (s : Dev) (im : SavedImage) : (s.restore im).survey = s.survey := by
  unfold Dev.restore
  dsimp only
  refine (foldl_preserves Dev.survey (fun d h => ?_) _ _).trans ((foldl_preserves Dev.survey (fun d k => ?_) _ _).trans
    ((foldl_preserves Dev.survey (fun d n => ?_) _ _).trans (foldl_preserves Dev.survey (fun d c => ?_) _ _)))
  · exact d.modHolding_survey ..
  · rfl
  · exact d.modDie_survey ..
  · exact d.modCore_survey ..

/-! ### Entries and exits -/

section Entries
variable {s : Dev}

/-- RUN with nothing waiting for it: Gotre tells the waking command, and no image is left. -/
theorem Dev.reachRun_frame (hnone : s.survey.waiting = []) : ∃ g, s.reachRun = { s with
    saved := none, gotre := g, power := { s.power with
      state := .run, target := .run, transition := false, job := none, holdover := false, pllLock := true } } := by
  unfold Dev.reachRun
  extract_lets w up s1
  rw [Dev.runWaiting_of_none]
  · split
    · obtain ⟨g, hg⟩ := s1.finishJob_frame _ .ok 0
      exact ⟨g, hg⟩
    · exact ⟨s.gotre, rfl⟩
  · split
    · obtain ⟨g, hg⟩ := s1.finishJob_frame _ .ok 0
      rw [hg]
      exact hnone
    · exact hnone

/-- An aborted entry leaves RUN in force: it is noted and counted, and save memory keeps what it held. -/
theorem Dev.abortEntry_spec (hrun : s.power.state = .run) (hnone : s.survey.waiting = []) (reason detail : Nat) :
    (s.abortEntry reason detail).power.state = .run ∧ (s.abortEntry reason detail).power.target = .run
      ∧ (s.abortEntry reason detail).power.transition = false ∧ (s.abortEntry reason detail).saved = s.saved
      ∧ (s.abortEntry reason detail).power.logNext = s.power.logNext + 1
      ∧ (s.abortEntry reason detail).ctr (regAt kpr 0x1A028) = addStop64 (s.ctr (regAt kpr 0x1A028)) 1 := by
  unfold Dev.abortEntry
  extract_lets w v s1 was s2 s3
  have hpower : s2.power = { (s.power.record v) with transition := false, target := .run, job := none } := rfl
  have hsaved : s2.saved = s.saved := rfl
  have hwaiting : s2.survey = s.survey := rfl
  have hcount : s2.ctr (regAt kpr 0x1A028) = addStop64 (s.ctr (regAt kpr 0x1A028)) 1 := Dev.ctr_count_same _ none _ _
  clear_value s2
  have hsupply : s3.supply = s2.supply := Dev.supply_ite (s2.lowPorts_supply false) s2.upPorts_supply
  have hsurvey : s3.survey = s2.survey := by
    unfold s3
    split
    · exact s2.lowPorts_survey false
    · exact s2.upPorts_survey
  have hctr : s3.ctr (regAt kpr 0x1A028) = s2.ctr (regAt kpr 0x1A028) := by
    unfold s3
    split
    · exact s2.lowPorts_kprCtr (by decide) false
    · exact s2.upPorts_kprCtr (by decide)
  clear_value s3
  have hthere := (Dev.power_of_supply hsupply).trans hpower
  have hends : ∀ d : Dev, (∃ g, d = { s3 with gotre := g }) → d.runWaiting.power.state = .run ∧ d.runWaiting.power.target = .run
      ∧ d.runWaiting.power.transition = false ∧ d.runWaiting.saved = s.saved
      ∧ d.runWaiting.power.logNext = s.power.logNext + 1
      ∧ d.runWaiting.ctr (regAt kpr 0x1A028) = addStop64 (s.ctr (regAt kpr 0x1A028)) 1 := by
    rintro d ⟨g, rfl⟩
    rw [Dev.runWaiting_of_none (by simp only [hsurvey, hwaiting, hnone])]
    simp only [hthere]
    exact ⟨hrun, trivial, trivial, (Dev.saved_of_supply hsupply).trans hsaved, rfl, hctr.trans hcount⟩
  split
  · exact hends _ (s3.finishJob_frame _ .aborted 0)
  · exact hends _ ⟨s3.gotre, rfl⟩

end Entries

/-! ### The point of commitment (R484, R486) -/

section Commits
variable {s : Dev}

/-- What an entry is committed on: an image in save memory, Gotre's word of the end, and no request behind it. -/
theorem Dev.postCompletion_keeps (f : FnId) (m : MbId) :
    (s.postCompletion f m).memWaits = s.memWaits ∧ (s.postCompletion f m).survey = s.survey := by
  have hjournal : ∀ d : Dev, d.journalWrite.memWaits = d.memWaits := fun d =>
    foldl_preserves Dev.memWaits (fun e t => by dsimp only; split <;> rfl) d _
  have hkept : ∀ d : Dev, d.journalWrite.survey = d.survey := fun d =>
    Dev.survey_of_standing d.journalWrite_standing
  have hclosed : ∀ d : Dev, (d.closeBox f m).memWaits = d.memWaits ∧ (d.closeBox f m).survey = d.survey := fun d => by
    unfold Dev.closeBox
    dsimp only
    split <;> exact ⟨rfl, rfl⟩
  unfold Dev.postCompletion
  extract_lets b
  split
  · exact ⟨rfl, rfl⟩
  split
  · exact ⟨rfl, rfl⟩
  split
  · exact ⟨rfl, rfl⟩
  · exact ⟨(hjournal _).trans (hclosed _).1, (hkept _).trans (hclosed _).2⟩

theorem Dev.postBox_keeps (n : Nat) : (s.postBox n).memWaits = s.memWaits ∧ (s.postBox n).survey = s.survey := by
  unfold Dev.postBox
  split
  · exact ⟨rfl, rfl⟩
  next j _ =>
    exact ⟨foldl_preserves Dev.memWaits (fun d _ => d.postCompletion_keeps (f := j.fn) (m := j.mb) |>.1) s _,
      foldl_preserves Dev.survey (fun d _ => d.postCompletion_keeps (f := j.fn) (m := j.mb) |>.2) s _⟩

theorem Dev.serveQueues_memWaits : s.serveQueues.memWaits = [] :=
  (Dev.Attends.foldl (fun d (w : MemWait) => d.perform_attends w.req) { s with memWaits := [], reissues := [] } s.memWaits).waits

theorem Dev.serveQueues_survey : s.serveQueues.survey = s.survey :=
  foldl_preserves Dev.survey (fun d (w : MemWait) => Dev.survey_of_standing (d.perform_standing w.req))
    { s with memWaits := [], reissues := [] } s.memWaits

/-- The device of which the image is taken. -/
def Dev.imaged (s : Dev) : Dev := if s.power.target = .fallow ∨ s.power.target = .off then s.serveQueues else s

theorem Dev.commitEntry_spec (n : Nat) (hnone : s.survey.waiting = []) :
    (s.commitEntry n).power.state = s.power.target ∧ (s.commitEntry n).power.transition = false
      ∧ (s.commitEntry n).saved = some s.imaged.image
      ∧ (s.power.target = .fallow ∨ s.power.target = .off → (s.commitEntry n).memWaits = []) := by
  unfold Dev.commitEntry
  extract_lets t off s0 s1 s2 w
  have hoff : off = true ↔ s.power.target = .fallow ∨ s.power.target = .off := by simp [off, t]
  have himaged : s0 = s.imaged := by
    simp only [s0, Dev.imaged, hoff]
  have h0 : s0.survey = s.survey := by
    unfold s0
    split
    · exact Dev.serveQueues_survey
    · rfl
  have hwaits0 : off = true → s0.memWaits = [] := fun h => by
    simp only [s0, if_pos h]
    exact Dev.serveQueues_memWaits
  clear_value s0
  obtain ⟨g, hg⟩ := ({ s0 with saved := some s0.image } : Dev).finishJob_frame n .ok 0
  have hsaved1 : s1.saved = some s0.image := (congrArg Dev.saved hg :)
  have hsurvey1 : s1.survey = s0.survey := (congrArg Dev.survey hg :)
  have hwaits1 : s1.memWaits = s0.memWaits := (congrArg Dev.memWaits hg :)
  clear_value s1
  have hsaved2 : s2.saved = s1.saved := Dev.saved_of_supply (Dev.supply_ite (s1.postBox_supply n) rfl)
  have hkept2 : s2.memWaits = s1.memWaits ∧ s2.survey = s1.survey := by
    unfold s2
    split
    · exact s1.postBox_keeps n
    · exact ⟨rfl, rfl⟩
  clear_value s2
  rw [Dev.runWaiting_of_none (by simp only [hkept2.2, hsurvey1, h0, hnone])]
  exact ⟨rfl, rfl, (hsaved2.trans hsaved1).trans (by rw [himaged]), fun h =>
    hkept2.1.trans (hwaits1.trans (hwaits0 (hoff.2 h)))⟩

end Commits

/-! ### POWER_STATE_SET (R484, R491) -/

section Sets
variable {s : Dev} {n : Nat} {j : Job}

/-- Whether the transition begins or is committed follows from the transition in progress. -/
theorem Dev.powerStateSet_entering (hthere : s.power.transition = true) (hrun : s.power.state = .run)
    (hjob : s.power.job = some n) (hup : s.gotreRuns = true) (fails : Option Nat) :
    s.powerStateSet { job := n, saveFails := fails } = fails.elim (s.commitEntry n) (s.abortEntry 11) := by
  have hentering : s.entering n = true := by simp [Dev.entering, hthere, hrun, hjob]
  rw [Dev.powerStateSet]
  refine (if_pos hentering).trans ((if_neg (by simp [hup])).trans ?_)
  cases fails <;> rfl

/-- What a target state asks of a command whose turn has come, in a device that stays in RUN. -/
def Dev.powerTarget (s : Dev) (n : Nat) : Option PowerState → Dev
  | none => s.finishJob n .badParameter 0
  | some t => if t == .run then s.finishJob n .ok 0 else s.enterState n t

theorem Dev.powerStateSet_of_jobReady (ready : s.jobReady n 0x00A0 j) :
    s.powerStateSet { job := n } = (s.powerTarget n (powerOf (j.param 2 0))).passTurn j := by
  obtain ⟨-, -, -, -, -, -, -, -, -, hrun, hstays, -⟩ := id ready
  have hentering : s.entering n = false := by simp [Dev.entering, hstays]
  rw [Dev.powerStateSet]
  refine (if_neg (by simp [hentering])).trans ((Dev.runJob_of_jobReady ready rfl _).trans ?_)
  refine congrArg (Dev.passTurn · j) ?_
  cases powerOf (j.param 2 0) with
  | none => rfl
  | some t => simp only [Dev.powerTarget, hstays, hrun, Bool.false_eq_true, if_false, beq_self_eq_true, if_true]

theorem Dev.enterState_of_free {t : PowerState} (hfree : (targetReasons t).flatMap s.refusers = []) (hidle : t ≠ .idle) :
    s.enterState n t = s.beginEntry n t := by
  simp [Dev.enterState, hfree, hidle]

theorem Dev.enterState_idle (hfree : (targetReasons .idle).flatMap s.refusers = []) : s.enterState n .idle
    = ({ s with power := { s.power with state := .idle, target := .idle } } : Dev).finishJob n .ok 0 := by
  simp [Dev.enterState, hfree]

theorem Dev.enterState_of_refused {t : PowerState} (hrefused : (targetReasons t).flatMap s.refusers ≠ []) :
    s.enterState n t = s.refuseEntry n t ((targetReasons t).flatMap s.refusers) := by
  simp [Dev.enterState, hrefused]

theorem Dev.beginEntry_power (t : PowerState) :
    (s.beginEntry n t).power = { s.power with transition := true, target := t, job := some n } := by
  unfold Dev.beginEntry
  extract_lets was s1
  have hbegun : s1.power = { s.power with transition := true, target := t, job := some n } := rfl
  clear_value s1
  exact (Dev.power_of_supply (Dev.supply_ite (s1.lowPorts_supply true) s1.downPorts_supply)).trans hbegun

/-- A refused entry is noted and counted, and Gotre tells its command. -/
theorem Dev.refuseEntry_spec (t : PowerState) (rs : List Refuser) :
    (∃ v, (s.refuseEntry n t rs).power = s.power.record v)
      ∧ (s.refuseEntry n t rs).ctr (regAt kpr 0x1A020) = addStop64 (s.ctr (regAt kpr 0x1A020)) 1
      ∧ (s.refuseEntry n t rs).mem = s.mem := by
  unfold Dev.refuseEntry
  extract_lets s1 v
  have hsupply : s1.supply = s.supply := foldl_supply (fun d r => d.countReason_supply _) s rs
  have hctrs : s1.ctrs = s.ctrs := foldl_preserves Dev.ctrs (fun d (r : Refuser) => (d.setReg_ctrs _ _ : (d.countReason r.2.1).ctrs = d.ctrs)) s rs
  have hmem : s1.mem = s.mem := foldl_preserves Dev.mem (fun d (r : Refuser) => (d.setReg_mem _ _ : (d.countReason r.2.1).mem = d.mem)) s rs
  clear_value s1
  obtain ⟨g, hg⟩ := (s1.entryFails v 0x1A020).finishJob_frame n .wrongState (v.setWidth 128)
  rw [hg]
  refine ⟨⟨v, congrArg (Power.record · v) (Dev.power_of_supply hsupply)⟩, ?_, hmem⟩
  exact (Dev.ctr_count_same { s1 with power := s1.power.record v } none _ _).trans (congrArg (addStop64 · 1) (ctr_of_ctrs hctrs _))

end Sets

/-! ### POWER_STATE_EXIT (R485, R486, R490) -/

section Exits
variable {s : Dev}

theorem Dev.powerStateExit_idle (hthere : s.power.transition = true) (hidle : s.power.state = .idle) (good : Bool) :
    s.powerStateExit good = s.reachRun := by
  simp [Dev.powerStateExit, hthere, hidle]

/-- The device as the image of a light sleep leaves it. -/
def Dev.imageRestored (s : Dev) : Dev := s.saved.elim s s.restore

theorem Dev.powerStateExit_sleep (hthere : s.power.transition = true) (hsleep : s.power.state = .sleep) :
    s.powerStateExit true = s.imageRestored.reachRun.wakePorts := by
  simp only [Dev.powerStateExit, hthere, hsleep, Bool.not_true, Bool.false_eq_true, if_false]
  refine congrArg (fun d : Dev => d.reachRun.wakePorts) ?_
  unfold Dev.imageRestored
  generalize s.restore = back
  cases s.saved <;> rfl

theorem Dev.powerStateExit_bad (hthere : s.power.transition = true)
    (hstate : s.power.state = .sleep ∨ s.power.state = .fallow ∨ s.power.state = .off) : s.powerStateExit false = s.badRestore := by
  rcases hstate with h | h | h <;> simp [Dev.powerStateExit, hthere, h]

theorem Dev.imageRestored_keeps : s.imageRestored.mem = s.mem ∧ s.imageRestored.ports = s.ports
    ∧ s.imageRestored.survey = s.survey := by
  unfold Dev.imageRestored
  cases s.saved with
  | none => exact ⟨rfl, rfl, rfl⟩
  | some im =>
    simp only [Option.elim_some]
    exact ⟨s.restore_mem im, s.restore_ports im, s.restore_survey im⟩

/-- Out of a light sleep the device runs, and the ports that were usable train again. -/
theorem Dev.reachRun_wakePorts (hnone : s.survey.waiting = []) :
    s.reachRun.wakePorts.power.state = .run ∧ s.reachRun.wakePorts.power.transition = false
      ∧ s.reachRun.wakePorts.saved = none ∧ s.reachRun.wakePorts.mem = s.mem
      ∧ ∀ p : PortId, (s.reachRun.wakePorts.port p).lowPower = false
          ∧ (s.reachRun.wakePorts.port p).state = (if (s.port p).state.usable then .training else (s.port p).state) := by
  obtain ⟨g, hg⟩ := Dev.reachRun_frame hnone
  obtain ⟨r, hr⟩ : ∃ r, r = s.reachRun := ⟨_, rfl⟩
  rw [← hr] at hg ⊢
  have hpower := Dev.power_of_supply r.wakePorts_supply
  have hsaved := Dev.saved_of_supply r.wakePorts_supply
  have hports : ∀ p, r.port p = s.port p := fun p => by rw [hg]; rfl
  refine ⟨?_, ?_, ?_, r.wakePorts_mem.trans ?_, fun p => ?_⟩
  · rw [hpower, hg]
  · rw [hpower, hg]
  · rw [hsaved, hg]
  · rw [hg]
  · have hwoken := r.wakePorts_standing p
    rw [hports p] at hwoken
    generalize r.wakePorts.port p = q at hwoken ⊢
    generalize s.port p = q0 at hwoken ⊢
    exact ⟨(congrArg Port.lowPower hwoken :), (congrArg Port.state hwoken :)⟩

theorem Dev.badRestore_spec : s.badRestore.pins.resetting = 4 ∧ s.badRestore.reg (regAt kpr 0x1D004) = 0x84
    ∧ s.badRestore.mem = [] ∧ s.badRestore.saved = none ∧ s.badRestore.ctr (regAt kpr 0x1A030) = 1
    ∧ ∀ h : HoldId, (s.badRestore.holding h).state = .closed := by
  have hcause : s.badRestore.reg (regAt kpr 0x1D004) = word (8 * 16 + 4) :=
    (Dev.reg_of_regs ((s.startCold 8).count_regs none _ _) _).trans (s.startCold_reg_cause 8)
  refine ⟨rfl, hcause.trans (by decide), rfl, rfl, ?_, fun h => rfl⟩
  have hzero : (s.startCold 8).ctr (regAt kpr 0x1A030) = 0 := Laws.Tab.get_set_ne 0 _ _ (by decide)
  exact ((s.startCold 8).ctr_count_same none _ _).trans (by rw [hzero]; decide)

end Exits

/-! ### WAKE (R483) -/

section Wakes
variable {s : Dev} {src : WakeSource} (hpower : s.pins.inputPower = true) (hfree : s.pins.resetting = 0)
  (hpin : src ≠ .pin ∨ s.pins.perst = false)
include hpower hfree hpin

theorem Dev.wake_heard : s.wake src =
    if s.power.transition then (if s.power.state == .run then s.abortEntry 10 (wakeDetail src) else s)
    else if wakes s.power.state src then s.beginExit none else s := by
  rw [Dev.wake]
  exact if_neg (by rcases hpin with h | h <;> simp [hpower, hfree, h])

end Wakes

/-- What a command whose turn has come does in RUN: it ends there, enters IDLE, begins an entry or is refused one. -/
theorem powerStateSet_ready (s : State) (n : Nat) (j : Job) (ready : s.dev.jobReady n 0x00A0 j) :
    (j.param 2 0 = 0 →
      ∃ t, exec (.powerStateSet { job := n }) s = .next t ∧ t.pending = s.pending ∧ t.dev.answered j .ok 0
        ∧ t.dev.power = s.dev.power)
    ∧ (j.param 2 0 = 1 → ([1, 8, 9].flatMap s.dev.refusers) = [] →
      ∃ t, exec (.powerStateSet { job := n }) s = .next t ∧ t.pending = s.pending ∧ t.dev.answered j .ok 0
        ∧ t.dev.power.state = .idle ∧ t.dev.mem = s.dev.mem ∧ t.dev.regs = s.dev.regs)
    ∧ (∀ st, powerOf (j.param 2 0) = some st → st ≠ .run → st ≠ .idle → (targetReasons st).flatMap s.dev.refusers = [] →
      ∃ t, exec (.powerStateSet { job := n }) s = .next t ∧ t.pending = s.pending
        ∧ t.dev.power.transition = true ∧ t.dev.power.target = st ∧ t.dev.power.job = some n ∧ t.dev.power.state = .run)
    ∧ (∀ st, powerOf (j.param 2 0) = some st → st ≠ .run → (targetReasons st).flatMap s.dev.refusers ≠ [] →
      ∃ t, exec (.powerStateSet { job := n }) s = .next t ∧ t.pending = s.pending ∧ t.dev.power.state = .run
        ∧ t.dev.power.transition = false ∧ t.dev.ctr (regAt kpr 0x1A020) = addStop64 (s.dev.ctr (regAt kpr 0x1A020)) 1
        ∧ t.dev.power.logNext = s.dev.power.logNext + 1 ∧ t.dev.mem = s.dev.mem)
    ∧ (5 ≤ j.param 2 0 →
      ∃ t, exec (.powerStateSet { job := n }) s = .next t ∧ t.pending = s.pending ∧ t.dev.answered j .badParameter 0
        ∧ t.dev.power = s.dev.power) := by
  have hset := Dev.powerStateSet_of_jobReady ready
  obtain ⟨-, -, -, -, -, -, -, -, -, hrun, hstays, -⟩ := id ready
  refine ⟨fun hzero => ?_, fun hone hfree => ?_, fun st hst hleaves hidle hfree => ?_, fun st hst hleaves hrefused => ?_,
    fun hbeyond => ?_⟩
  · obtain ⟨g, hg, hanswer⟩ := Dev.finishJob_passTurn (d := s.dev) ready rfl .ok 0
    refine ⟨_, rfl, rfl, ?_⟩
    rw [hset, hzero, show s.dev.powerTarget n (powerOf 0) = s.dev.finishJob n .ok 0 from rfl, hg]
    exact ⟨hanswer _ rfl, rfl⟩
  · obtain ⟨g, hg, hanswer⟩ := Dev.finishJob_passTurn
      (d := { s.dev with power := { s.dev.power with state := .idle, target := .idle } }) ready rfl .ok 0
    refine ⟨_, rfl, rfl, ?_⟩
    rw [hset, hone, show s.dev.powerTarget n (powerOf 1) = s.dev.enterState n .idle from rfl, Dev.enterState_idle hfree, hg]
    exact ⟨hanswer _ rfl, rfl, rfl, rfl⟩
  · have htarget : s.dev.powerTarget n (some st) = s.dev.enterState n st := if_neg (by simpa using hleaves)
    obtain ⟨f, hf⟩ := (s.dev.beginEntry n st).passTurn_frame j
    have hpower := s.dev.beginEntry_power (n := n) st
    refine ⟨_, rfl, rfl, ?_⟩
    rw [hset, hst, htarget, Dev.enterState_of_free hfree hidle, hf]
    simp only [hpower]
    exact ⟨trivial, trivial, trivial, hrun⟩
  · have htarget : s.dev.powerTarget n (some st) = s.dev.enterState n st := if_neg (by simpa using hleaves)
    obtain ⟨⟨v, hpower⟩, hctr, hmem⟩ := s.dev.refuseEntry_spec (n := n) st ((targetReasons st).flatMap s.dev.refusers)
    obtain ⟨f, hf⟩ := (s.dev.refuseEntry n st ((targetReasons st).flatMap s.dev.refusers)).passTurn_frame j
    refine ⟨_, rfl, rfl, ?_⟩
    rw [hset, hst, htarget, Dev.enterState_of_refused hrefused, hf]
    simp only [hpower]
    exact ⟨hrun, hstays, hctr, rfl, hmem⟩
  · have hnone : powerOf (j.param 2 0) = none := List.getElem?_eq_none hbeyond
    obtain ⟨g, hg, hanswer⟩ := Dev.finishJob_passTurn (d := s.dev) ready rfl .badParameter 0
    refine ⟨_, rfl, rfl, ?_⟩
    rw [hset, hnone, show s.dev.powerTarget n none = s.dev.finishJob n .badParameter 0 from rfl, hg]
    exact ⟨hanswer _ rfl, rfl⟩

/-- Settles O50: a limit in its bounds is taken; an entry begins, is refused, committed or aborted; a wake or an exit ends it. -/
theorem powerStatesAreEnteredAndLeft : Obligations.PowerStatesAreEnteredAndLeft := by
  unfold Obligations.PowerStatesAreEnteredAndLeft
  refine ⟨fun s n j ready => ⟨fun hlow hhigh => ?_, fun hout => ?_⟩, fun s n j ready => ?_,
    fun s n hthere hrun hjob hup hnone => ⟨?_, fun part => ?_⟩, fun s src hpower hfree hpin =>
      ⟨fun hstays hwakes => ?_, fun hstays hsleeps => ?_, fun hthere hrun hnone => ?_⟩,
    fun s hthere => ⟨fun hidle hnone => ?_, fun hsleep hnone => ?_, fun hstate => ?_⟩⟩
  · obtain ⟨g, hg, hanswer⟩ := Dev.finishJob_passTurn (d := { s.dev with power := { s.dev.power with limit := j.param 15 0 } })
      ready rfl .ok 0
    have hset : s.dev.powerLimitSet n = { s.dev with power := { s.dev.power with limit := j.param 15 0 }, gotre := g } := by
      rw [Dev.powerLimitSet, Dev.runJob_of_jobReady ready rfl]
      refine Eq.trans (congrArg (Dev.passTurn · j) (if_neg ?_)) hg
      simp only [Bool.or_eq_true, decide_eq_true_eq]
      omega
    refine ⟨_, rfl, rfl, ?_⟩
    rw [hset]
    exact ⟨hanswer _ rfl, rfl, rfl, rfl⟩
  · obtain ⟨g, hg, hanswer⟩ := Dev.finishJob_passTurn (d := s.dev) ready rfl .badParameter 0
    have hset : s.dev.powerLimitSet n = { s.dev with gotre := g } := by
      rw [Dev.powerLimitSet, Dev.runJob_of_jobReady ready rfl]
      refine Eq.trans (congrArg (Dev.passTurn · j) (if_pos ?_)) hg
      simp only [Bool.or_eq_true, decide_eq_true_eq]
      omega
    refine ⟨_, rfl, rfl, ?_⟩
    rw [hset]
    exact ⟨hanswer _ rfl, rfl⟩
  · exact powerStateSet_ready s n j ready
  · refine ⟨_, rfl, rfl, ?_⟩
    rw [Dev.powerStateSet_entering hthere hrun hjob hup none]
    exact s.dev.commitEntry_spec n hnone
  · refine ⟨_, rfl, rfl, ?_⟩
    rw [Dev.powerStateSet_entering hthere hrun hjob hup (some part)]
    exact s.dev.abortEntry_spec hrun hnone 11 part
  · refine ⟨_, rfl, rfl, ?_⟩
    rw [Dev.wake_heard hpower hfree hpin, if_neg (by simp [hstays]), if_pos hwakes]
    exact ⟨rfl, rfl, rfl, rfl⟩
  · refine congrArg (done s) ?_
    rw [Dev.wake_heard hpower hfree hpin, if_neg (by simp [hstays]), if_neg (by simp [hsleeps])]
  · obtain ⟨hstate, htarget, hended, -, hlog, -⟩ := s.dev.abortEntry_spec hrun hnone 10 (wakeDetail src)
    refine ⟨_, rfl, rfl, ?_⟩
    rw [Dev.wake_heard hpower hfree hpin, if_pos hthere, if_pos (by simp [hrun])]
    exact ⟨hended, htarget, hstate, hlog⟩
  · obtain ⟨g, hg⟩ := Dev.reachRun_frame hnone
    refine ⟨_, rfl, rfl, ?_⟩
    rw [Dev.powerStateExit_idle hthere hidle, hg]
    exact ⟨rfl, rfl, rfl, rfl, rfl, rfl⟩
  · obtain ⟨hmem, hports, hsurvey⟩ := s.dev.imageRestored_keeps
    refine ⟨_, rfl, rfl, ?_⟩
    rw [Dev.powerStateExit_sleep hthere hsleep]
    obtain ⟨hstate, hended, hsaved, hkept, hwoken⟩ := Dev.reachRun_wakePorts (s := s.dev.imageRestored) (by rw [hsurvey, hnone])
    have hport : ∀ p, s.dev.imageRestored.port p = s.dev.port p := fun p => by rw [Dev.port, hports, Dev.port]
    simp only [hport] at hwoken
    rw [hmem] at hkept
    generalize s.dev.imageRestored.reachRun.wakePorts = t at hstate hended hsaved hkept hwoken ⊢
    exact ⟨hstate, hended, hsaved, hkept, hwoken⟩
  · refine ⟨_, rfl, rfl, ?_⟩
    rw [Dev.powerStateExit_bad hthere hstate]
    exact s.dev.badRestore_spec

end Sys2Proof.Machine

/-! Maintenance as it is commanded (R501, R502, R505, R509). -/

namespace Sys2Proof.Machine

/-! ### Activities and jobs by their numbers -/

section Numbers
variable (s : Dev)

/-- A change that leaves the numbers changes the entry that a number finds. -/
theorem find?_map_of_same {α β : Type} [DecidableEq β] (num : α → β) {f : α → α} (hf : ∀ a, num (f a) = num a) (n : β) (l : List α) :
    (l.map fun a => if num a = n then f a else a).find? (fun a => num a == n) = (l.find? fun a => num a == n).map f := by
  induction l with
  | nil => rfl
  | cons a rest ih =>
    by_cases h : num a = n
    · simp [h, hf]
    · simp [h, ih]

/-- One of another number is found as it was. -/
theorem find?_map_of_ne {α β : Type} [DecidableEq β] (num : α → β) {f : α → α} (hf : ∀ a, num (f a) = num a) {m n : β} (hmn : m ≠ n)
    (l : List α) :
    (l.map fun a => if num a = m then f a else a).find? (fun a => num a == n) = l.find? fun a => num a == n := by
  induction l with
  | nil => rfl
  | cons a rest ih =>
    by_cases h : num a = m
    · simp [h, hf, hmn, ih]
    · simp only [List.map_cons, if_neg h, List.find?_cons, ih]

theorem Dev.activity_modActivity (n : Nat) {f : Activity → Activity} (hf : ∀ a, (f a).number = a.number) :
    (s.modActivity n f).activity n = (s.activity n).map f :=
  find?_map_of_same Activity.number hf n s.service.activities

theorem Dev.activity_congr {s t : Dev} (h : t.service = s.service) (n : Nat) : t.activity n = s.activity n := by
  simp only [Dev.activity, h]

theorem Dev.activity_modActivity_of {s t : Dev} {n : Nat} {f : Activity → Activity} (hf : ∀ a, (f a).number = a.number)
    (h : t.service = (s.modActivity n f).service) : t.activity n = (s.activity n).map f :=
  (Dev.activity_congr h n).trans (s.activity_modActivity n hf)

theorem Dev.activity_number {s : Dev} {n : Nat} {a : Activity} (h : s.activity n = some a) : a.number = n := by
  simpa using List.find?_some h

theorem Dev.job_finishJob_ne {m n : Nat} (hmn : m ≠ n) (st : Status) (result : BitVec 128) :
    (s.finishJob m st result).job n = s.job n := by
  unfold Dev.finishJob
  split
  · split
    · rfl
    · split
      · simp only [Dev.job, List.find?_filter]
        refine congrArg (List.find? · s.gotre.jobs) (funext fun j => ?_)
        by_cases h : j.number = n
        · simp [h, Ne.symm hmn]
        · simp [h]
      · exact find?_map_of_ne Job.number (f := fun j => { j with phase := .done }) (fun _ => rfl) hmn s.gotre.jobs
  · rfl

theorem Dev.job_finishJobs_ne {n : Nat} {ns : List Nat} (hns : n ∉ ns) (st : Status) :
    (s.finishJobs ns st).job n = s.job n := by
  induction ns generalizing s with
  | nil => rfl
  | cons m rest ih =>
    rw [List.mem_cons, not_or] at hns
    obtain ⟨hm, hrest⟩ := hns
    exact (ih _ hrest).trans (s.job_finishJob_ne (Ne.symm hm) st 0)

theorem Dev.finishJobs_frame (ns : List Nat) (st : Status) : ∃ g, s.finishJobs ns st = { s with gotre := g } := by
  induction ns generalizing s with
  | nil => exact ⟨s.gotre, rfl⟩
  | cons m rest ih =>
    obtain ⟨g, hg⟩ := s.finishJob_frame m st 0
    obtain ⟨g', hg'⟩ := ih (s.finishJob m st 0)
    exact ⟨g', hg'.trans (by rw [hg])⟩

end Numbers

/-! ### The end of an activity (R502) -/

section Stops
variable {s : Dev} {k : Nat} {a : Activity}

theorem Dev.endActivity_of_open (ha : s.activity k = some a) (hopen : a.open = true) (st : ActState) (status : Status) :
    s.endActivity k st status
      = (s.modActivity k fun q => { q with state := st, status := status }).finishJobs a.job.toList status := by
  simp only [Dev.endActivity, ha, hopen, Bool.not_true, Bool.false_eq_true, if_false]
  cases a.job <;> rfl

/-- An activity that stops is cancelled, and Gotre tells its own command and those that waited for it. -/
theorem Dev.stopActivity_spec (ha : s.activity k = some a) (hopen : a.open = true) :
    (s.stopActivity k).service = (s.modActivity k fun q => { q with state := .cancelled, status := .aborted }).service
      ∧ ∀ n, a.job ≠ some n → n ∉ a.cancels → (s.stopActivity k).job n = s.job n := by
  simp only [Dev.stopActivity, ha, Dev.endActivity_of_open ha hopen]
  obtain ⟨d, hd⟩ : ∃ d, d = s.modActivity k fun q => { q with state := .cancelled, status := .aborted } := ⟨_, rfl⟩
  have hjobs : ∀ n, d.job n = s.job n := fun n => by rw [hd]; rfl
  rw [← hd]
  obtain ⟨g, hg⟩ := d.finishJobs_frame a.job.toList .aborted
  obtain ⟨g', hg'⟩ := (d.finishJobs a.job.toList .aborted).finishJobs_frame a.cancels .ok
  refine ⟨by rw [hg', hg], fun n hjob hcancels => ?_⟩
  rw [← hjobs]
  refine (Dev.job_finishJobs_ne _ hcancels .ok).trans (Dev.job_finishJobs_ne _ ?_ .aborted)
  simpa [eq_comm] using hjob

end Stops

/-! ### MAINT_START, MAINT_STATUS and MAINT_CANCEL -/

section Commands
variable {s : Dev} {n : Nat} {j : Job}

/-- A command that goes on is told of in an interim completion, and its job waits for the end. -/
theorem Dev.interimJob_passTurn {op : Nat} {d : Dev} (ready : s.jobReady n op j) (hd : d.gotre = s.gotre) (result : BitVec 128) :
    ∃ g, (d.interimJob n result).passTurn j = { d with gotre := g } ∧ j.completion false .acceptedPending result ∈ g.waiting := by
  obtain ⟨hjob, -, -, hphase, hdiscard, -⟩ := ready
  obtain ⟨f, hturn⟩ := (d.interimJob n result).passTurn_frame j
  have hinterim : d.interimJob n result = { d with gotre := { (d.gotre.setPhase n .interim) with
      waiting := d.gotre.waiting ++ [j.completion false .acceptedPending result] } } := by
    simp [Dev.interimJob, Dev.job_congr hd, hjob, hphase, hdiscard]
  rw [hturn, hinterim]
  exact ⟨_, rfl, List.mem_append_right _ (List.mem_singleton_self _)⟩

/-- An accepted command ends in a device that has kept its job: it is answered. -/
theorem Dev.finishJob_passTurn_of_job {d : Dev} (hjob : d.job n = some j) (hnum : j.number = n) (hphase : j.phase = .accepted)
    (hdiscard : j.discard = false) (st : Status) (result : BitVec 128) :
    ∃ g, (d.finishJob n st result).passTurn j = { d with gotre := g } ∧ ∀ t : Dev, t.gotre = g → t.answered j st result := by
  have hanswer := Dev.finishJob_answers hjob hnum hphase hdiscard st result
  obtain ⟨g, hg⟩ := d.finishJob_frame n st result
  obtain ⟨f, hturn⟩ := (d.finishJob n st result).passTurn_frame j
  rw [hg] at hanswer
  rw [hturn, hg]
  exact ⟨_, rfl, fun t ht => by simp only [Dev.answered, Dev.job, ht]; exact hanswer⟩

/-- The activity of a MAINT_START that nothing stands against. -/
def Dev.maintEntered (s : Dev) (n : Nat) (j : Job) : Dev :=
  let v := s.service.enter (BitVec.ofNat 16 (j.param 15 0)) (BitVec.ofNat 16 (j.param 31 16)) (word (j.param 63 32)) .running (some n)
  { s with service := v }

/-- What MAINT_START answers, once its turn has come. -/
theorem Dev.maintStart_of_jobReady (ready : s.jobReady n 0x0070 j) :
    s.maintStart n = (if maintBad (j.param 15 0) (BitVec.ofNat 16 (j.param 31 16)) (j.param 63 32) then
        s.finishJob n .badParameter 0
      else if s.maintWrong (j.param 15 0) (BitVec.ofNat 16 (j.param 31 16)) then s.finishJob n .wrongState 0
      else (s.service.holder (BitVec.ofNat 16 (j.param 15 0)) (BitVec.ofNat 16 (j.param 31 16))).elim
        ((s.maintEntered n j).interimJob n (BitVec.ofNat 128 s.service.nextActivity))
        fun a => (s.countGotre 0x38 1).finishJob n .busyConflict a.asHolder).passTurn j := by
  rw [Dev.maintStart, Dev.runJob_of_jobReady ready rfl]
  dsimp only
  cases s.service.holder (BitVec.ofNat 16 (j.param 15 0)) (BitVec.ofNat 16 (j.param 31 16)) <;> rfl

theorem Dev.maintStatus_of_jobReady (ready : s.jobReady n 0x0071 j) :
    s.maintStatus n = ((s.service.recent.find? fun a => a.number == j.param 31 0).elim (s.finishJob n .badParameter 0)
      fun a => s.finishJob n .ok a.report).passTurn j := by
  rw [Dev.maintStatus, Dev.runJob_of_jobReady ready rfl]
  cases s.service.recent.find? fun a => a.number == j.param 31 0 <;> rfl

theorem Dev.maintCancel_of_jobReady (ready : s.jobReady n 0x0072 j) {a : Activity} (ha : s.activity (j.param 31 0) = some a) :
    s.maintCancel n = (if !a.open || !s.cancellable a then s.finishJob n .wrongState 0
      else if s.stopsLater a then (s.keepRunning n).modActivity a.number fun q => { q with cancels := q.cancels ++ [n] }
      else (s.stopActivity a.number).finishJob n .ok 0).passTurn j := by
  rw [Dev.maintCancel, Dev.runJob_of_jobReady ready rfl]
  simp only [ha]

end Commands

/-- MAINT_START: bad parameters, a wrong state and a conflict end it; else the activity runs, and Gotre tells its number. -/
theorem exec_maintStart (s : State) (n : Nat) (j : Job) (ready : s.dev.jobReady n 0x0070 j) :
    let act := j.param 15 0
    let res : BitVec 16 := BitVec.ofNat 16 (j.param 31 16)
    let arg := j.param 63 32
    (maintBad act res arg = true →
      ∃ t, exec (.maintStart n) s = .next t ∧ t.pending = s.pending ∧ t.dev.answered j .badParameter 0
        ∧ t.dev.service = s.dev.service)
    ∧ (maintBad act res arg = false → s.dev.maintWrong act res = true →
      ∃ t, exec (.maintStart n) s = .next t ∧ t.pending = s.pending ∧ t.dev.answered j .wrongState 0
        ∧ t.dev.service = s.dev.service)
    ∧ (∀ a, maintBad act res arg = false → s.dev.maintWrong act res = false →
        s.dev.service.holder (BitVec.ofNat 16 act) res = some a →
      ∃ t, exec (.maintStart n) s = .next t ∧ t.pending = s.pending ∧ t.dev.answered j .busyConflict a.asHolder
        ∧ t.dev.service = s.dev.service)
    ∧ (maintBad act res arg = false → s.dev.maintWrong act res = false →
        s.dev.service.holder (BitVec.ofNat 16 act) res = none →
      ∃ t, exec (.maintStart n) s = .next t ∧ t.pending = s.pending
        ∧ t.dev.service.activities = s.dev.service.activities ++
            [{ number := s.dev.service.nextActivity, activity := BitVec.ofNat 16 act, resource := res, arg := BitVec.ofNat 32 arg
               state := .running, status := .ok, progress := 0, job := some n, cancels := [] }]
        ∧ t.dev.service.nextActivity = s.dev.service.nextActivity + 1
        ∧ j.completion false .acceptedPending (BitVec.ofNat 128 s.dev.service.nextActivity) ∈ t.dev.gotre.waiting
        ∧ t.dev.mem = s.dev.mem ∧ t.dev.ports = s.dev.ports ∧ t.dev.stackTab = s.dev.stackTab) := by
  have hset := Dev.maintStart_of_jobReady ready
  intro act res arg
  refine ⟨fun hbad => ?_, fun hgood hwrong => ?_, fun a hgood hright hholder => ?_, fun hgood hright hfree => ?_⟩
  · rw [if_pos hbad] at hset
    obtain ⟨g, hg, hanswer⟩ := Dev.finishJob_passTurn (d := s.dev) ready rfl .badParameter 0
    refine ⟨_, rfl, rfl, ?_⟩
    rw [hset, hg]
    exact ⟨hanswer _ (Dev.serviceScope_gotre ..), Dev.serviceScope_service ..⟩
  · rw [if_neg (by simp [act, res, arg, hgood]), if_pos hwrong] at hset
    obtain ⟨g, hg, hanswer⟩ := Dev.finishJob_passTurn (d := s.dev) ready rfl .wrongState 0
    refine ⟨_, rfl, rfl, ?_⟩
    rw [hset, hg]
    exact ⟨hanswer _ (Dev.serviceScope_gotre ..), Dev.serviceScope_service ..⟩
  · rw [if_neg (Bool.eq_false_iff.1 hgood), if_neg (Bool.eq_false_iff.1 hright), hholder] at hset
    obtain ⟨g, hg, hanswer⟩ := Dev.finishJob_passTurn (d := s.dev.countGotre 0x38 1) ready rfl .busyConflict a.asHolder
    refine ⟨_, rfl, rfl, ?_⟩
    rw [hset, Option.elim_some, hg]
    exact ⟨hanswer _ (Dev.serviceScope_gotre ..), Dev.serviceScope_service ..⟩
  · rw [if_neg (Bool.eq_false_iff.1 hgood), if_neg (Bool.eq_false_iff.1 hright), hfree] at hset
    obtain ⟨g, hg, htold⟩ := Dev.interimJob_passTurn (d := s.dev.maintEntered n j) ready rfl
      (BitVec.ofNat 128 s.dev.service.nextActivity)
    refine ⟨_, rfl, rfl, ?_⟩
    rw [hset, Option.elim_none, hg]
    refine ⟨?_, ?_, ?_, Dev.serviceScope_mem .., Dev.serviceScope_ports .., Dev.serviceScope_stackTab ..⟩
    · rw [Dev.serviceScope_service]
      rfl
    · rw [Dev.serviceScope_service]
      rfl
    · rw [Dev.serviceScope_gotre]
      exact htold

/-- MAINT_CANCEL: an activity stops at once or at its next boundary; one past cancelling is a wrong state. -/
theorem exec_maintCancel (s : State) (n : Nat) (j : Job) (ready : s.dev.jobReady n 0x0072 j) (a : Activity)
    (ha : s.dev.activity (j.param 31 0) = some a) :
    (a.open = true → s.dev.cancellable a = true → s.dev.stopsLater a = false → a.job ≠ some n → n ∉ a.cancels →
      ∃ t, exec (.maintCancel n) s = .next t ∧ t.pending = s.pending ∧ t.dev.answered j .ok 0
        ∧ (∃ b, t.dev.activity (j.param 31 0) = some b ∧ b.state = .cancelled ∧ b.status = .aborted)
        ∧ t.dev.ports = s.dev.ports ∧ t.dev.stackTab = s.dev.stackTab)
    ∧ (a.open = true → s.dev.cancellable a = true → s.dev.stopsLater a = true →
      ∃ t, exec (.maintCancel n) s = .next t ∧ t.pending = s.pending
        ∧ (∃ b, t.dev.activity (j.param 31 0) = some b ∧ b.state = a.state ∧ b.cancels = a.cancels ++ [n]))
    ∧ (a.open = false ∨ s.dev.cancellable a = false →
      ∃ t, exec (.maintCancel n) s = .next t ∧ t.pending = s.pending ∧ t.dev.answered j .wrongState 0
        ∧ t.dev.service = s.dev.service) := by
  have hset := Dev.maintCancel_of_jobReady ready ha
  have hnum := Dev.activity_number ha
  obtain ⟨hjob, hjnum, -, hphase, hdiscard, -⟩ := id ready
  rw [hnum] at hset
  refine ⟨fun hopen hcan hnow howner hfree => ?_, fun hopen hcan hlater => ?_, fun hpast => ?_⟩
  · rw [if_neg (by simp [hopen, hcan]), if_neg (by simp [hnow])] at hset
    obtain ⟨hservice, hkept⟩ := Dev.stopActivity_spec ha hopen
    generalize s.dev.stopActivity (j.param 31 0) = d at hset hservice hkept
    obtain ⟨g', hg, hanswer⟩ := Dev.finishJob_passTurn_of_job ((hkept n howner hfree).trans hjob) hjnum hphase hdiscard .ok 0
    refine ⟨_, rfl, rfl, ?_⟩
    rw [hset, hg]
    refine ⟨hanswer _ (Dev.serviceScope_gotre ..), ⟨{ a with state := .cancelled, status := .aborted }, ?_, rfl, rfl⟩,
      Dev.serviceScope_ports .., Dev.serviceScope_stackTab ..⟩
    have hmap := Dev.activity_modActivity_of (s := s.dev) (f := fun q => { q with state := .cancelled, status := .aborted }) (fun _ => rfl) hservice
    rw [ha, Option.map_some] at hmap
    exact (Dev.activity_congr (Dev.serviceScope_service ..) _).trans hmap
  · rw [if_neg (by simp [hopen, hcan]), if_pos hlater] at hset
    have hservice : ((s.dev.keepRunning n).modActivity (j.param 31 0) fun q => { q with cancels := q.cancels ++ [n] }).service
      = (s.dev.modActivity (j.param 31 0) fun q => { q with cancels := q.cancels ++ [n] }).service := rfl
    generalize (s.dev.keepRunning n).modActivity (j.param 31 0) (fun q => { q with cancels := q.cancels ++ [n] }) = d
      at hset hservice
    obtain ⟨f, hturn⟩ := d.passTurn_frame j
    refine ⟨_, rfl, rfl, ?_⟩
    rw [hset, hturn]
    refine ⟨{ a with cancels := a.cancels ++ [n] }, ?_, rfl, rfl⟩
    have hmap := Dev.activity_modActivity_of (s := s.dev) (f := fun q => { q with cancels := q.cancels ++ [n] }) (fun _ => rfl) hservice
    rw [ha, Option.map_some] at hmap
    exact (Dev.activity_congr (Dev.serviceScope_service ..) _).trans hmap
  · rw [if_pos (by rcases hpast with h | h <;> simp [h])] at hset
    obtain ⟨g, hg, hanswer⟩ := Dev.finishJob_passTurn (d := s.dev) ready rfl .wrongState 0
    refine ⟨_, rfl, rfl, ?_⟩
    rw [hset, hg]
    exact ⟨hanswer _ (Dev.serviceScope_gotre ..), Dev.serviceScope_service ..⟩

/-- Settles O52: each command once its turn has come. -/
theorem maintenanceIsCommanded : Obligations.MaintenanceIsCommanded := by
  unfold Obligations.MaintenanceIsCommanded
  intro s n j
  refine ⟨exec_maintStart s n j, fun ready => ⟨fun a ha => ?_, fun hnone => ?_⟩, fun ready => ⟨fun a ha => ?_, fun a ha => ?_,
    fun a ha => ?_⟩⟩
  · obtain ⟨g, hg, hanswer⟩ := Dev.finishJob_passTurn (d := s.dev) ready rfl .ok a.report
    refine ⟨_, rfl, rfl, ?_⟩
    rw [Dev.maintStatus_of_jobReady ready, ha, Option.elim_some, hg]
    exact ⟨hanswer _ (Dev.gotreScope_gotre ..), Dev.gotreScope_service .., Dev.gotreScope_regs ..⟩
  · obtain ⟨g, hg, hanswer⟩ := Dev.finishJob_passTurn (d := s.dev) ready rfl .badParameter 0
    refine ⟨_, rfl, rfl, ?_⟩
    rw [Dev.maintStatus_of_jobReady ready, hnone, Option.elim_none, hg]
    exact ⟨hanswer _ (Dev.gotreScope_gotre ..), Dev.gotreScope_service .., Dev.gotreScope_regs ..⟩
  · exact (exec_maintCancel s n j ready a ha).1
  · exact (exec_maintCancel s n j ready a ha).2.1
  · exact (exec_maintCancel s n j ready a ha).2.2

end Sys2Proof.Machine

/-! The queries and their reports (R433 to R435, R511 to R513, R533). -/

namespace Sys2Proof.Machine

/-- What leaves for a command's output block: what the block holds of the bytes. -/
def Job.sent (j : Job) (bytes : List Byte) : List Emit :=
  if j.blockAddr = 0 ∨ bytes.take (8 * j.blockWords) = [] then [] else [.output j.blockAddr (bytes.take (8 * j.blockWords))]

section Reports
variable {s : State} {n op : Nat} {j : Job}

/-- A report of a command whose turn has come, from a device that differs in its free values alone. -/
theorem exec_reports {i : Instr} {r : Dev} {k : Nat} {bytes : List Byte} (ready : s.dev.jobReady n op j)
    (hexec : exec i s = done s (s.dev.gotreScope r))
    (hr : r = (({ s.dev with free := k } : Dev).finishOutput j bytes).passTurn j) :
    ∃ t, exec i s = .next t ∧ t.pending = s.pending ∧ s.dev.reported t.dev j bytes := by
  have hnum : j.number = n := ready.2.1
  have hleaves : ({ s.dev with free := k } : Dev).finishOutput j bytes
      = ({ s.dev with free := k, outbox := s.dev.outbox ++ j.sent bytes } : Dev).finishJob n .ok
        (if j.blockWords < ceilDiv bytes.length 8 then BitVec.ofNat 128 (ceilDiv bytes.length 8) else 0) := by
    unfold Dev.finishOutput Job.sent
    simp only [hnum, Bool.or_eq_true, decide_eq_true_eq, List.isEmpty_iff]
    by_cases hcut : j.blockAddr = 0 ∨ bytes.take (8 * j.blockWords) = []
    · simp only [if_pos hcut, List.append_nil]
    · simp only [if_neg hcut]
      rfl
  obtain ⟨g, hg, hanswer⟩ := Dev.finishJob_passTurn
    (d := { s.dev with free := k, outbox := s.dev.outbox ++ j.sent bytes }) ready rfl .ok
    (if j.blockWords < ceilDiv bytes.length 8 then BitVec.ofNat 128 (ceilDiv bytes.length 8) else 0)
  rw [hleaves, hg] at hr
  refine ⟨_, hexec, rfl, ?_⟩
  rw [hr]
  exact ⟨hanswer _ (Dev.gotreScope_gotre ..), Dev.gotreScope_outbox .., Dev.gotreScope_mem .., Dev.gotreScope_holdings ..,
    Dev.gotreScope_queues .., Dev.gotreScope_regs ..⟩

/-- A query that ends without a report sends nothing. -/
theorem exec_reports_nothing {i : Instr} {r : Dev} {st : Status} (ready : s.dev.jobReady n op j)
    (hexec : exec i s = done s (s.dev.gotreScope r)) (hr : r = (s.dev.finishJob n st 0).passTurn j) :
    ∃ t, exec i s = .next t ∧ t.pending = s.pending ∧ t.dev.answered j st 0 ∧ t.dev.outbox = s.dev.outbox := by
  obtain ⟨g, hg, hanswer⟩ := Dev.finishJob_passTurn (d := s.dev) ready rfl st 0
  rw [hg] at hr
  refine ⟨_, hexec, rfl, ?_⟩
  rw [hr]
  exact ⟨hanswer _ (Dev.gotreScope_gotre ..), Dev.gotreScope_outbox ..⟩

/-- A query with an output block that is aligned runs its own part. -/
theorem Dev.runOutput_of_jobReady (ready : s.dev.jobReady n op j) (hop : (paramBits op).isSome = true)
    (halign : j.blockAddr.setWidth 6 = (0 : BitVec 6)) (f : Job → Dev) : s.dev.runOutput n op f = (f j).passTurn j := by
  rw [Dev.runOutput, Dev.runJob_of_jobReady ready hop, if_neg (by simp [halign])]

end Reports

section Telemetry
variable {s : State} {n : Nat} {j : Job} (ready : s.dev.jobReady n 0x00C0 j)
  (halign : j.blockAddr.setWidth 6 = (0 : BitVec 6))
include ready halign

/-- What TELEMETRY_READ answers once its turn has come. -/
theorem Dev.telemetryRead_of_jobReady : s.dev.telemetryRead n = (if 8 ≤ j.param 7 0 then s.dev.finishJob n .badParameter 0
    else if !seesHolding j.fn (Fin.ofNat 8 (j.param 7 0)) then s.dev.finishJob n .notPermitted 0
    else ((s.dev.holding (Fin.ofNat 8 (j.param 7 0))).recordFor (j.param 39 8)).elim (s.dev.finishJob n .badParameter 0)
      fun r => s.dev.finishOutput j r.bytes).passTurn j := by
  rw [Dev.telemetryRead, Dev.runOutput_of_jobReady ready rfl halign]
  dsimp only
  cases (s.dev.holding (Fin.ofNat 8 (j.param 7 0))).recordFor (j.param 39 8) <;> rfl

end Telemetry

/-- Settles O45: each report leaves as the model forms it. -/
theorem queriesAnswerWithTheirReports : Obligations.QueriesAnswerWithTheirReports := by
  unfold Obligations.QueriesAnswerWithTheirReports
  intro s n j halign
  refine ⟨fun ready => exec_reports (k := s.dev.free) ready rfl ?_, fun ready => exec_reports (k := s.dev.free + 1) ready rfl ?_,
    fun ready => exec_reports (k := s.dev.free) ready rfl ?_, fun ready => exec_reports (k := s.dev.free) ready rfl ?_,
    fun r ready hsource hsees hrecord => exec_reports (k := s.dev.free) ready rfl ?_, fun h ready hsource hsees =>
    exec_reports_nothing ready rfl ?_, fun ready hnone => exec_reports_nothing ready rfl ?_⟩
  · exact Dev.runOutput_of_jobReady ready rfl halign _
  · exact Dev.runOutput_of_jobReady ready rfl halign _
  · exact Dev.runOutput_of_jobReady ready rfl halign _
  · exact Dev.runOutput_of_jobReady ready rfl halign _
  · rw [Dev.telemetryRead_of_jobReady ready halign, if_neg (by omega), if_neg (by rw [hsees]; decide), hrecord, Option.elim_some]
  · have hown : (Fin.ofNat 8 (j.param 7 0) : HoldId) = h := by rw [hsource]; exact Fin.ofNat_val_eq_self h
    rw [Dev.telemetryRead_of_jobReady ready halign, if_neg (by omega), hown, if_pos (by simp [hsees])]
  · rw [Dev.telemetryRead_of_jobReady ready halign]
    by_cases hsource : 8 ≤ j.param 7 0
    · rw [if_pos hsource]
    · obtain ⟨hsees, hrecord⟩ := hnone.resolve_left hsource
      rw [if_neg hsource, if_neg (by rw [hsees]; decide), hrecord, Option.elim_none]

end Sys2Proof.Machine

/-! The queue managers: doorbells, tail polling and head reports (R443 to R446). -/

namespace Sys2Proof.Machine

/-! ### What a doorbell says -/

section Words
variable (t : Word32)

/-- A tail alone asks for neither SKIP nor RETRY. -/
theorem tailWord_skip : (t.setWidth 64).getLsbD 63 = false := by simp
theorem tailWord_retry : (t.setWidth 64).getLsbD 62 = false := by simp

theorem tailWord_reserved : ((t.setWidth 64).extractLsb' 32 30).toNat = 0 := by
  have ht := t.isLt
  simp only [BitVec.extractLsb'_toNat, BitVec.toNat_setWidth, Nat.shiftRight_eq_div_pow]
  omega

theorem tailWord_tail : (t.setWidth 64).setWidth 32 = t := by
  rw [BitVec.setWidth_setWidth_of_le t (by decide), BitVec.setWidth_eq]

end Words

/-! ### Registers of the control die -/

section Control
variable (s : Dev)

theorem ctlReg_ne_stackReg {a b : Nat} (hb : b < 0x100) (k : StackId) (ha : a < 0x40000) : regAt ctl a ≠ stackReg k b := by
  simp only [regAt, ctl, stackReg, stackDie]
  split <;> omega

/-- The journal's writes count at the controllers alone. -/
theorem Dev.journalWrite_ctlCtr {a : Nat} (ha : a < 0x40000) : s.journalWrite.ctr (regAt ctl a) = s.ctr (regAt ctl a) := by
  refine foldl_preserves (Dev.ctr · (regAt ctl a)) (fun d t => ?_) s _
  dsimp only
  split
  · rfl
  · exact (Dev.countFree_ctr_ne _ none (ctlReg_ne_stackReg (by decide) _ ha)).trans
      ((Dev.countFree_ctr_ne _ none (ctlReg_ne_stackReg (by decide) _ ha)).trans
        (Dev.countFree_ctr_ne _ none (ctlReg_ne_stackReg (by decide) _ ha)))

theorem Dev.journalWrite_keeps : s.journalWrite.cores = s.cores ∧ s.journalWrite.queues = s.queues
    ∧ s.journalWrite.mem = s.mem := by
  obtain ⟨hcores, hqueues, hmem, -⟩ := Dev.still_eq_iff.1 s.journalWrite_still
  exact ⟨hcores, hqueues, hmem⟩

/-- A repair of the journal leaves cores, queues, memory and the doorbell counters. -/
theorem Dev.repairJournal_keeps : s.repairJournal.cores = s.cores ∧ s.repairJournal.queues = s.queues
    ∧ s.repairJournal.mem = s.mem := by
  unfold Dev.repairJournal
  dsimp only
  split <;> exact ⟨rfl, rfl, rfl⟩

theorem Dev.repairJournal_ctr {a : Nat} (ha : a ≠ regAt ctl 0x16038) : s.repairJournal.ctr a = s.ctr a := by
  unfold Dev.repairJournal
  dsimp only
  split
  · rfl
  · exact Dev.ctr_count_ne _ none ha _

theorem Dev.dbBad_spec : s.dbBad.queues = s.queues ∧ s.dbBad.mem = s.mem
    ∧ s.dbBad.ctr (regAt ctl 0x18020) = addStop64 (s.ctr (regAt ctl 0x18020)) 1 :=
  ⟨rfl, rfl, Dev.ctr_count_same _ none _ _⟩

end Control

/-! ### A tail taken, and a halted queue resumed -/

section Tails
variable (s : Dev) (q : Nat)

theorem Dev.queue_congr {s t : Dev} (h : t.queues = s.queues) (q : Nat) : t.queue q = s.queue q := by
  simp only [Dev.queue, h]

/-- A tail within the ring is accepted, and its doorbell counted. -/
theorem Dev.takeTail_of_fits {t : Word32} (hahead : (t - (s.queue q).accepted).toNat < 0x80000000)
    (hroom : (t - (s.queue q).recorded).toNat ≤ 2 ^ (s.queue q).log2) :
    (s.takeTail q t).queue q = { s.queue q with accepted := t }
      ∧ (s.takeTail q t).ctr (regAt ctl 0x18018) = addStop64 (s.ctr (regAt ctl 0x18018)) 1
      ∧ (s.takeTail q t).cores = s.cores ∧ (s.takeTail q t).mem = s.mem := by
  rw [Dev.takeTail]
  dsimp only
  rw [if_neg (by simp only [Bool.or_eq_true, decide_eq_true_eq, not_or, not_le, not_lt]; exact ⟨hahead, hroom⟩)]
  obtain ⟨hcores, hqueues, hmem⟩ := s.repairJournal_keeps
  have hctr := s.repairJournal_ctr (a := regAt ctl 0x18018) (by decide)
  generalize s.repairJournal = d at hcores hqueues hmem hctr ⊢
  obtain ⟨hcores', hqueues', hmem'⟩ :=
    ((d.modQueue q fun y => { y with accepted := t }).countGotre 0x18 1).journalWrite_keeps
  refine ⟨?_, ?_, hcores'.trans hcores, hmem'.trans hmem⟩
  · rw [Dev.queue_congr hqueues', ← Dev.queue_congr hqueues]
    exact (Dev.queue_congr (s := d.modQueue q fun y => { y with accepted := t }) rfl q).trans
      ((d.queue_modQueue q q _).trans (if_pos rfl))
  · rw [Dev.journalWrite_ctlCtr _ (by decide), ← hctr]
    exact Dev.ctr_count_same _ none _ _

theorem Dev.takeTail_of_beyond {t : Word32} (hbeyond : 0x80000000 ≤ (t - (s.queue q).accepted).toNat
    ∨ 2 ^ (s.queue q).log2 < (t - (s.queue q).recorded).toNat) : s.takeTail q t = s.dbBad := by
  rw [Dev.takeTail]
  exact if_pos (by simpa using hbeyond)

theorem Dev.clearFault_keeps (h : HoldId) : (s.clearFault h q).queues = s.queues ∧ (s.clearFault h q).cores = s.cores
    ∧ (s.clearFault h q).mem = s.mem :=
  ⟨foldl_preserves Dev.queues (fun d _ => d.setReg_queues ..) s _, foldl_preserves Dev.cores (fun d _ => d.setReg_cores ..) s _,
    foldl_preserves Dev.mem (fun d _ => d.setReg_mem ..) s _⟩

/-- A halted queue goes on, past the refused descriptor or with it once more. -/
theorem Dev.resumeQueue_spec (h : HoldId) (skip : Bool) :
    (s.resumeQueue h q skip).queue q = { s.queue q with
        state := if (s.holding h).bindsQueue q then QueueState.bound else .ready
        skip := if skip then some (s.queue q).refused else none }
      ∧ (s.resumeQueue h q skip).cores = s.cores ∧ (s.resumeQueue h q skip).mem = s.mem := by
  unfold Dev.resumeQueue
  extract_lets st
  obtain ⟨hqueues, hcores, hmem⟩ :=
    (s.modQueue q fun x => { x with state := st, skip := if skip then some x.refused else none }).clearFault_keeps q h
  exact ⟨(Dev.queue_congr hqueues q).trans ((s.queue_modQueue q q _).trans (if_pos rfl)), hcores, hmem⟩

end Tails

section Doorbells
variable {s : Dev} {q : Nat} {h : HoldId} (hheld : (s.queue q).holding = some h) (hlive : (s.queue q).state ≠ .free)
  (hcut : s.hostCut = false) (henabled : (s.holding h).state = .enabled)
include hheld hlive hcut henabled

/-- A doorbell of the queue's own function, in a word without reserved bits. -/
theorem Dev.doorbell_of_owner {w : Word64} (hreserved : (w.extractLsb' 32 30).toNat = 0)
    (hone : w.getLsbD 63 = false ∨ w.getLsbD 62 = false) :
    s.doorbell (vfOf h) q w = if w.getLsbD 63 || w.getLsbD 62 then
        (if (s.queue q).state == .halted then s.resumeQueue h q (w.getLsbD 63) else s.dbBad)
      else if (s.queue q).tailSrc then s.dbBad else s.takeTail q (w.setWidth 32) := by
  simp only [Dev.doorbell, hheld, hcut, henabled, Bool.false_eq_true, if_false]
  rw [if_neg (by simp [hlive]), if_neg (by simp), if_neg]
  rw [hreserved]
  rcases hone with hskip | hretry
  · simp only [hskip, Bool.false_and, bne_self_eq_false, Bool.or_false, Bool.false_eq_true, not_false_eq_true]
  · simp only [hretry, Bool.and_false, bne_self_eq_false, Bool.or_false, Bool.false_eq_true, not_false_eq_true]

theorem Dev.doorbell_tail (hown : (s.queue q).tailSrc = false) (t : Word32) :
    s.doorbell (vfOf h) q (t.setWidth 64) = s.takeTail q t := by
  rw [Dev.doorbell_of_owner hheld hlive hcut henabled (tailWord_reserved t) (.inl (tailWord_skip t)),
    if_neg (by rw [tailWord_skip, tailWord_retry]; decide), if_neg (by simp [hown]), tailWord_tail]

theorem Dev.doorbell_skip (hhalted : (s.queue q).state = .halted) :
    s.doorbell (vfOf h) q 0x8000000000000000 = s.resumeQueue h q true := by
  rw [Dev.doorbell_of_owner hheld hlive hcut henabled (by decide) (.inr (by decide)), if_pos (by decide), if_pos (by simp [hhalted])]
  rfl

theorem Dev.doorbell_retry (hhalted : (s.queue q).state = .halted) :
    s.doorbell (vfOf h) q 0x4000000000000000 = s.resumeQueue h q false := by
  rw [Dev.doorbell_of_owner hheld hlive hcut henabled (by decide) (.inl (by decide)), if_pos (by decide), if_pos (by simp [hhalted])]
  rfl

end Doorbells

/-! ### The queue managers' reads and writes -/

section Reads
variable (r : Run)

theorem Run.hostBytes_standing (a : Agent) (addr n : Nat) : (r.hostBytes a addr n).2.dev.standing = r.dev.standing := by
  unfold Run.hostBytes
  split
  · exact Dev.freeBytes_standing ..
  · rfl

theorem Run.readChunk_standing (a : Agent) (va n : Nat) : (r.readChunk a va n).2.dev.standing = r.dev.standing := by
  unfold Run.readChunk
  split
  · rfl
  · dsimp only
    split
    · exact (Dev.accessFault_standing ..).trans (Dev.xlate_standing ..)
    · exact (Run.hostBytes_standing ..).trans (Dev.xlate_standing ..)
    · split
      · rfl
      · exact (Dev.unitRead_standing ..).trans (Dev.xlate_standing ..)

/-- A read of holding memory leaves what accesses leave. -/
theorem Run.read_standing (a : Agent) (va n : Nat) : (r.read a va n).2.dev.standing = r.dev.standing := by
  unfold Run.read
  generalize chunks va n = l
  induction l generalizing r with
  | nil => rfl
  | cons p l ih => exact (ih _).trans (r.readChunk_standing ..)

end Reads

section Managers
variable {s : Dev} {q : Nat} {h : HoldId} (hheld : (s.queue q).holding = some h) (hlive : (s.queue q).state ≠ .free)
  (hup : s.clocked = true)
include hheld hlive hup

theorem Dev.tailPoll_of_read (hsrc : (s.queue q).tailSrc = true) (henabled : (s.holding h).state = .enabled)
    {x : List PByte × Run} (hread : ({ dev := s } : Run).read { ctlAgent h with cls := .latency } (s.queue q).tailVa 4 = x)
    (hready : x.2.wait = false) (hclean : (joinBytes x.1).poison = false) :
    s.tailPoll q = x.2.dev.takeTail q (BitVec.ofNat 32 (joinBytes x.1).bits) := by
  subst hread
  simp only [Dev.tailPoll, hheld]
  rw [if_neg (by simp [hlive, hsrc, hup, henabled]), if_neg (by simp only [hready]; decide), if_neg (by simp only [hclean]; decide)]

theorem Dev.headReport_of_news (hnews : (s.queue q).unreported ≠ 0 ∨ s.headWord q h ≠ (s.queue q).reported)
    (hready : s.writeWaits (ctlAgent h) (s.queue q).headVa 8 = false) :
    s.headReport q = (s.modQueue q fun y => { y with unreported := 0, reported := s.headWord q h }).writeVa (ctlAgent h) false
      (s.queue q).headVa ((leBytes 8 (s.headWord q h).toNat).map fun b => ⟨b, false⟩) := by
  simp only [Dev.headReport, hheld]
  rw [if_neg, if_neg (by simp [hready])]
  simp only [hup, Bool.not_true, Bool.or_false, Bool.or_eq_true, beq_iff_eq, hlive, false_or, Bool.and_eq_true]
  rintro ⟨hnone, hsame⟩
  exact hnews.elim (fun hsome => hsome hnone) fun hother => hother hsame

end Managers

/-- Settles O43: each write of a doorbell and each turn of a queue manager by what it does. -/
theorem queuesTakeTailsAndReportHeads : Obligations.QueuesTakeTailsAndReportHeads := by
  unfold Obligations.QueuesTakeTailsAndReportHeads
  intro s q h
  dsimp only
  intro hheld hlive
  refine ⟨fun hcut henabled => ⟨fun tail hown => ⟨fun hahead hroom => ?_, fun hbeyond => ?_⟩, fun f offset bytes => ?_,
    fun hhalted => ⟨?_, ?_⟩⟩, fun hup hsrc henabled hready hclean hahead hroom => ?_, fun hup hnews hready => ?_⟩
  · obtain ⟨hqueue, hctr, hcores, hmem⟩ := s.dev.takeTail_of_fits q.toNat hahead hroom
    refine ⟨{ s with dev := s.dev.gotreScope (s.dev.doorbell (vfOf h) q.toNat (tail.setWidth 64)) }, rfl, rfl, ?_⟩
    rw [Dev.doorbell_tail hheld hlive hcut henabled hown]
    exact ⟨(Dev.queue_congr (Dev.gotreScope_queues ..) _).trans hqueue, (ctr_of_ctrs (Dev.gotreScope_ctrs ..) _).trans hctr,
      (Dev.gotreScope_cores ..).trans hcores, (Dev.gotreScope_mem ..).trans hmem⟩
  · obtain ⟨hqueues, _, hctr⟩ := s.dev.dbBad_spec
    refine ⟨{ s with dev := s.dev.gotreScope (s.dev.doorbell (vfOf h) q.toNat (tail.setWidth 64)) }, rfl, rfl, ?_⟩
    rw [Dev.doorbell_tail hheld hlive hcut henabled hown, s.dev.takeTail_of_beyond q.toNat hbeyond]
    exact ⟨(Dev.gotreScope_queues ..).trans hqueues, (ctr_of_ctrs (Dev.gotreScope_ctrs ..) _).trans hctr⟩
  · obtain ⟨hqueues, hmem, hctr⟩ := s.dev.dbBad_spec
    have hmisfit : s.dev.doorbellWrite f q.toNat (.misfit offset bytes) = s.dev.dbBad := if_neg (by simp [hcut])
    refine ⟨{ s with dev := s.dev.gotreScope (s.dev.doorbellWrite f q.toNat (.misfit offset bytes)) }, rfl, rfl, ?_⟩
    rw [hmisfit]
    exact ⟨(Dev.gotreScope_queues ..).trans hqueues, (Dev.gotreScope_mem ..).trans hmem,
      (ctr_of_ctrs (Dev.gotreScope_ctrs ..) _).trans hctr⟩
  · obtain ⟨hqueue, hcores, hmem⟩ := s.dev.resumeQueue_spec q.toNat h true
    refine ⟨_, rfl, rfl, ?_⟩
    rw [Dev.doorbell_skip hheld hlive hcut henabled hhalted]
    exact ⟨(Dev.queue_congr (Dev.gotreScope_queues ..) _).trans hqueue, (Dev.gotreScope_cores ..).trans hcores,
      (Dev.gotreScope_mem ..).trans hmem⟩
  · obtain ⟨hqueue, hcores, hmem⟩ := s.dev.resumeQueue_spec q.toNat h false
    refine ⟨_, rfl, rfl, ?_⟩
    rw [Dev.doorbell_retry hheld hlive hcut henabled hhalted]
    exact ⟨(Dev.queue_congr (Dev.gotreScope_queues ..) _).trans hqueue, (Dev.gotreScope_cores ..).trans hcores,
      (Dev.gotreScope_mem ..).trans hmem⟩
  · have hstands := ({ dev := s.dev } : Run).read_standing { ctlAgent h with cls := .latency } (s.dev.queue q.toNat).tailVa 4
    have hkept := ({ dev := s.dev } : Run).read_cores { ctlAgent h with cls := .latency } (s.dev.queue q.toNat).tailVa 4
    have hpoll := Dev.tailPoll_of_read hheld hlive hup hsrc henabled rfl hready hclean
    generalize ({ dev := s.dev } : Run).read { ctlAgent h with cls := .latency } (s.dev.queue q.toNat).tailVa 4 = x
      at hstands hkept hpoll hahead hroom ⊢
    have hqueue := Dev.queue_congr (Dev.queues_of_standing hstands) q.toNat
    obtain ⟨htaken, _, hcores, _⟩ := x.2.dev.takeTail_of_fits q.toNat (by rw [hqueue]; exact hahead) (by rw [hqueue]; exact hroom)
    refine ⟨_, rfl, rfl, ?_⟩
    rw [hpoll]
    exact ⟨(Dev.queue_congr (Dev.gotreScope_queues ..) _).trans (htaken.trans (by rw [hqueue])),
      (Dev.gotreScope_cores ..).trans (hcores.trans hkept)⟩
  · have hreport := Dev.headReport_of_news hheld hlive hup hnews hready
    have hstands := (s.dev.modQueue q.toNat fun y => { y with unreported := 0, reported := s.dev.headWord q.toNat h }).writeVa_standing
      (ctlAgent h) false (s.dev.queue q.toNat).headVa ((leBytes 8 (s.dev.headWord q.toNat h).toNat).map fun b => ⟨b, false⟩)
    refine ⟨_, rfl, rfl, ?_⟩
    rw [hreport]
    refine ⟨(Dev.queue_congr (Dev.gotreScope_queues ..) _).trans ?_, Dev.gotreScope_mem .., (Dev.gotreScope_cores ..).trans ?_⟩
    · rw [Dev.queue_congr (Dev.queues_of_standing hstands)]
      exact (s.dev.queue_modQueue _ _ _).trans (if_pos rfl)
    · exact Dev.writeVa_cores ..

end Sys2Proof.Machine

/-! The watchdog and the mailboxes (R416, R418, R421 to R426). -/

namespace Sys2Proof.Machine

/-! ### The watchdog -/

section Watchdog
variable (s : Dev)

/-- The restarts of Gotre within the last 10 s, with one now. -/
def Dev.recentRestarts : List Word64 :=
  (s.gotre.restarts ++ [s.dt]).filter fun t => decide ((s.dt - t).toNat < tenSeconds)

/-- Gotre as it restarts. -/
def Dev.restarting : Gotre :=
  { s.gotre with up := false, restarts := s.recentRestarts, restartCount := s.gotre.restartCount + 1 }

/-- An expiry as it is counted, before it is known whether it is the last. -/
def Dev.expired : Dev :=
  let down := (s.setUp false).event (regAt kpr 0x100) 1
  (({ down with gotre := { down.gotre with restarts := s.recentRestarts, restartCount := down.gotre.restartCount + 1 } }
    : Dev).countGotre 0 1).event ctlEvent 1

theorem Dev.expired_spec : s.expired.gotre = s.restarting
    ∧ s.expired.reg (regAt kpr 0x100) = s.reg (regAt kpr 0x100) ||| 1
    ∧ s.expired.ctr (regAt ctl 0x18000) = addStop64 (s.ctr (regAt ctl 0x18000)) 1
    ∧ s.expired.cores = s.cores ∧ s.expired.queues = s.queues ∧ s.expired.mem = s.mem := by
  obtain ⟨sent, hdown⟩ := s.setUp_eq false
  unfold Dev.expired
  rw [hdown]
  refine ⟨rfl, ?_, Dev.ctr_count_same _ none _ _, rfl, rfl, rfl⟩
  exact (Dev.reg_event ..).trans ((if_neg (by decide)).trans ((Dev.reg_event ..).trans (if_pos rfl)))

theorem Dev.watchdog_of_running (hruns : s.gotreRuns = true) (hstopped : s.gotre.stopped = false)
    (hready : s.gotre.deviceState = .ready) :
    s.watchdog = if 3 ≤ s.recentRestarts.length then
        { s.expired with gotre := { s.expired.gotre with stopped := true, deviceState := .ended } }
      else allHoldings.foldl
        (fun d h => d.modHolding h fun x => { x with totals := { x.totals with restarted := true } }) s.expired := by
  rw [Dev.watchdog, if_neg (by simp [hruns, hstopped, hready])]
  by_cases hthird : 3 ≤ s.recentRestarts.length
  · rw [if_pos hthird]
    exact if_pos (decide_eq_true hthird)
  · rw [if_neg hthird]
    exact if_neg (mt of_decide_eq_true hthird)

/-- An expiry restarts Gotre; the third within 10 s stops it. -/
theorem Dev.watchdog_spec (hruns : s.gotreRuns = true) (hstopped : s.gotre.stopped = false)
    (hready : s.gotre.deviceState = .ready) :
    s.watchdog.gotre = { s.restarting with
        stopped := decide (3 ≤ s.recentRestarts.length)
        deviceState := if 3 ≤ s.recentRestarts.length then .ended else .ready }
      ∧ s.watchdog.reg (regAt kpr 0x100) = s.reg (regAt kpr 0x100) ||| 1
      ∧ s.watchdog.ctr (regAt ctl 0x18000) = addStop64 (s.ctr (regAt ctl 0x18000)) 1
      ∧ s.watchdog.cores = s.cores ∧ s.watchdog.queues = s.queues ∧ s.watchdog.mem = s.mem := by
  obtain ⟨hgotre, hreg, hctr, hcores, hqueues, hmem⟩ := s.expired_spec
  rw [Dev.watchdog_of_running s hruns hstopped hready]
  generalize s.expired = d at *
  by_cases hthird : 3 ≤ s.recentRestarts.length
  · rw [if_pos hthird, decide_eq_true hthird, if_pos hthird, hgotre]
    exact ⟨rfl, hreg, hctr, hcores, hqueues, hmem⟩
  · rw [if_neg hthird, decide_eq_false hthird, if_neg hthird]
    have hkept {β : Type} (g : Dev → β) (hg : ∀ (d : Dev) t, g { d with holdings := t } = g d) :
        g (allHoldings.foldl (fun d h => d.modHolding h fun x => { x with totals := { x.totals with restarted := true } }) d)
          = g d := foldl_preserves g (fun d _ => hg d _) d _
    refine ⟨(hkept Dev.gotre fun _ _ => rfl).trans (hgotre.trans ?_),
      (hkept (Dev.reg · _) fun _ _ => rfl).trans hreg, (hkept (Dev.ctr · _) fun _ _ => rfl).trans hctr,
      (hkept Dev.cores fun _ _ => rfl).trans hcores, (hkept Dev.queues fun _ _ => rfl).trans hqueues,
      (hkept Dev.mem fun _ _ => rfl).trans hmem⟩
    unfold Dev.restarting
    rw [← hstopped, ← hready]

theorem Gotre.post_up (g : Gotre) (e : Completion) : (g.post e).up = g.up := by
  unfold Gotre.post
  split <;> rfl

/-- A restart that is complete serves again, with what it held. -/
theorem Dev.restarted_spec (hdown : s.gotre.up = false) (hup : s.clocked = true) (hstopped : s.gotre.stopped = false)
    (hready : s.gotre.deviceState = .ready) (hgood : s.copyGood = true) :
    s.restarted.gotre.up = true ∧ s.restarted.gotre.jobs = s.gotre.jobs ∧ s.restarted.cores = s.cores
      ∧ s.restarted.queues = s.queues ∧ s.restarted.mem = s.mem := by
  obtain ⟨sent, hraised⟩ := s.setUp_eq true
  rw [Dev.restarted, if_neg (by simp [hdown, hup, hstopped, hready, hgood]), hraised]
  refine ⟨?_, ?_, rfl, rfl, rfl⟩
  · exact Gotre.post_up ..
  · exact Gotre.post_jobs ..

theorem Dev.gotreScope_self : s.gotreScope s = s := rfl

end Watchdog

/-! ### The registers of a mailbox -/

section Boxes
variable (s : Dev) (f : FnId) (m : MbId)

theorem Dev.box_congr {s t : Dev} (h : t.boxes = s.boxes) (f : FnId) (m : MbId) : t.box f m = s.box f m := by
  simp only [Dev.box, h]

theorem Dev.box_modBox (g : Mailbox → Mailbox) : (s.modBox f m g).box f m = g (s.box f m) := Laws.Tab.get_modify_same ..

section Writes
variable (v : Word32)

theorem Dev.writeTail_of_fits (hcut : s.hostCut = false) (hroom : (v - (s.box f m).acceptSeq).toNat ≤ ringSize (s.box f m).cmdLog2)
    (hahead : (v - (s.box f m).acceptSeq).toNat < 0x80000000) :
    s.writeTail f m v = s.modBox f m fun x => { x with cmdTail := v } := by
  rw [Dev.writeTail]
  exact if_neg (by rw [hcut, decide_eq_false (not_lt.2 hroom), decide_eq_false (not_le.2 hahead)]; decide)

theorem Dev.writeTail_of_beyond (hbeyond : ringSize (s.box f m).cmdLog2 < (v - (s.box f m).acceptSeq).toNat) :
    s.writeTail f m v = s := by
  rw [Dev.writeTail]
  exact if_pos (by rw [decide_eq_true hbeyond, Bool.or_true, Bool.true_or])

theorem Dev.writeHead_of_fits (hcut : s.hostCut = false)
    (hroom : (v - (s.box f m).cplHead).toNat ≤ ((s.box f m).cplNext - (s.box f m).cplHead).toNat) :
    s.writeHead f m v = s.modBox f m fun x => { x with cplHead := v, cplFull := x.cplFull && v == (s.box f m).cplHead } := by
  rw [Dev.writeHead]
  rw [if_neg (by simp [hcut]), if_pos hroom]

theorem Dev.writeHead_of_beyond (hcut : s.hostCut = false)
    (hbeyond : ((s.box f m).cplNext - (s.box f m).cplHead).toNat < (v - (s.box f m).cplHead).toNat) :
    s.writeHead f m v = s.dbBad := by
  rw [Dev.writeHead]
  rw [if_neg (by simp [hcut]), if_neg (by omega)]

theorem Dev.writeCfg_of_disabled (hcut : s.hostCut = false) (hoff : (s.box f m).enable = false) :
    s.writeCfg f m v = s.modBox f m fun _ =>
      let b1 := { s.box f m with cmdLog2 := v.extractLsb' 0 5, cplLog2 := v.extractLsb' 8 5 }
      if !v.getLsbD 31 then b1
      else if b1.cfgGood then { b1 with enable := true, cfgBad := false, ringFault := false } else { b1 with cfgBad := true } := by
  rw [Dev.writeCfg]
  rw [if_neg (by simp [hcut]), if_neg (by simp [hoff])]

/-- A mailbox with commands on their way closes when they have completed. -/
theorem Dev.closeBox_of_busy {j : Job} (hj : j ∈ s.gotre.jobs) (hown : j.fn = f ∧ j.mb = m) : s.closeBox f m = s := by
  have hbusy : (s.gotre.jobs.any fun j => j.fn == f && j.mb == m) = true :=
    List.any_eq_true.2 ⟨j, hj, by simp [hown]⟩
  rw [Dev.closeBox]
  rw [hbusy]
  exact if_neg (by simp)

theorem Dev.closeBox_of_open (hopen : (s.box f m).closing = false) : s.closeBox f m = s := by
  rw [Dev.closeBox]
  rw [hopen]
  exact if_neg (by simp)

theorem Dev.writeCfg_closes (hcut : s.hostCut = false) (hon : (s.box f m).enable = true) (hclear : v.getLsbD 31 = false)
    {j : Job} (hj : j ∈ s.gotre.jobs) (hown : j.fn = f ∧ j.mb = m) :
    s.writeCfg f m v = s.modBox f m fun x => { x with enable := false, closing := true } := by
  rw [Dev.writeCfg]
  rw [if_neg (by simp [hcut]), if_pos hon, if_neg (by rw [hclear]; decide)]
  exact Dev.closeBox_of_busy _ f m hj hown

end Writes

/-! ### Acceptance and completion -/

theorem Dev.repairJournal_frame : s.repairJournal.gotre.jobs = s.gotre.jobs ∧ s.repairJournal.gotre.nextJob = s.gotre.nextJob
    ∧ s.repairJournal.boxes = s.boxes ∧ s.repairJournal.outbox = s.outbox ∧ s.repairJournal.holdings = s.holdings := by
  unfold Dev.repairJournal
  dsimp only
  split <;> exact ⟨rfl, rfl, rfl, rfl, rfl⟩

section Accept
variable {s} {f} {m} (hserved : s.boxServed f m = true) (hon : (s.box f m).enable = true) (hopen : (s.box f m).closing = false)
  (hgood : (s.box f m).ringFault = false) (hmore : (s.box f m).acceptSeq ≠ (s.box f m).cmdTail)
  (hroom : s.gotre.jobs.length < journalRoom)
include hserved hon hopen hgood hmore hroom

theorem Dev.acceptCommand_bad :
    s.acceptCommand f m .bad = (s.askSlot (s.box f m)).modBox f m fun x => { x with ringFault := true } := by
  rw [Dev.acceptCommand]
  dsimp only
  rw [if_neg (by simp [hserved, hon, hopen, hgood, hmore]), if_neg (by omega)]

/-- The command in the slot, as Gotre takes it up. -/
def Dev.accepted (s : Dev) (f : FnId) (m : MbId) (w : Word512) : Job :=
  { number := s.gotre.nextJob, fn := f, mb := m, seq := (s.box f m).acceptSeq, words := w, phase := .accepted
    exempt := false, discard := false }

theorem Dev.acceptCommand_data (w : Word512) :
    (s.acceptCommand f m (.data w)).gotre.jobs = s.gotre.jobs ++ [s.accepted f m w]
      ∧ (s.acceptCommand f m (.data w)).gotre.nextJob = s.gotre.nextJob + 1
      ∧ (s.acceptCommand f m (.data w)).box f m = { s.box f m with acceptSeq := (s.box f m).acceptSeq + 1 }
      ∧ (s.acceptCommand f m (.data w)).ctr (regAt ctl 0x18008) = addStop64 (s.ctr (regAt ctl 0x18008)) 1
      ∧ (s.acceptCommand f m (.data w)).outbox = s.outbox ++ [.hostRead s.hostTag
          ((s.box f m).slotAt (s.box f m).acceptSeq).toNat 64]
      ∧ (s.acceptCommand f m (.data w)).holdings = s.holdings ∧ (s.acceptCommand f m (.data w)).mem = s.mem := by
  rw [Dev.acceptCommand]
  dsimp only
  rw [if_neg (by simp [hserved, hon, hopen, hgood, hmore]), if_neg (by omega)]
  obtain ⟨hjobs, hnext, hboxes, houtbox, hholdings⟩ := (s.askSlot (s.box f m)).repairJournal_frame
  obtain ⟨_, _, hmem⟩ := (s.askSlot (s.box f m)).repairJournal_keeps
  have hctr := (s.askSlot (s.box f m)).repairJournal_ctr (a := regAt ctl 0x18008) (by decide)
  have hbox := Dev.box_congr hboxes f m
  generalize (s.askSlot (s.box f m)).repairJournal = d at hjobs hnext hboxes houtbox hholdings hmem hctr hbox ⊢
  refine ⟨?_, congrArg (· + 1) hnext, ?_, ?_, houtbox, hholdings, hmem⟩
  · change d.gotre.jobs ++ [_] = _
    rw [hjobs, hnext]
    rfl
  · exact (Dev.box_modBox d f m fun b => { b with acceptSeq := b.acceptSeq + 1 }).trans (by rw [hbox]; rfl)
  · exact (Dev.ctr_count_same _ none _ _).trans (congrArg (addStop64 · 1) hctr)

end Accept

section Post
variable {s} {f} {m} {c : Completion} (hnext : s.nextCompletion f m = some c) (hserved : s.boxServed f m = true)
include hnext hserved

theorem Dev.postCompletion_full
    (hfull : ringSize (s.box f m).cplLog2 ≤ ((s.box f m).cplNext - (s.box f m).cplHead).toNat) :
    s.postCompletion f m = s.modBox f m fun x => { x with cplFull := true } := by
  simp only [Dev.postCompletion, hnext]
  rw [if_neg (by simp [hserved]), if_pos hfull]

theorem Dev.postCompletion_room
    (hroom : ((s.box f m).cplNext - (s.box f m).cplHead).toNat < ringSize (s.box f m).cplLog2)
    (hopen : (s.box f m).closing = false) :
    (s.postCompletion f m).box f m = { s.box f m with cplNext := (s.box f m).cplNext + 1, cplFull := false }
      ∧ (s.postCompletion f m).gotre.waiting = dropFirst c s.gotre.waiting
      ∧ (s.postCompletion f m).outbox = s.outbox ++
          [.completion ((s.box f m).cplBase
              + BitVec.ofNat 64 ((s.box f m).cplNext.toNat % ringSize (s.box f m).cplLog2 * 32))
            (c.entry (decide ((s.box f m).cplNext.toNat / ringSize (s.box f m).cplLog2 % 2 = 0))), .msix f m.val]
      ∧ (s.postCompletion f m).mem = s.mem := by
  simp only [Dev.postCompletion, hnext]
  rw [if_neg (by simp [hserved]), if_neg (by omega)]
  generalize hposted : ((Dev.modBox _ f m _).emits _ : Dev) = d
  have hbox : d.box f m = { s.box f m with cplNext := (s.box f m).cplNext + 1, cplFull := false } := by
    rw [← hposted]
    exact Dev.box_modBox _ f m fun x => { x with cplNext := x.cplNext + 1, cplFull := false }
  rw [Dev.closeBox_of_open d f m (by rw [hbox]; exact hopen)]
  obtain ⟨_, _, hmem⟩ := d.journalWrite_keeps
  have hstands := d.journalWrite_standing
  refine ⟨(Dev.box_congr (congrArg (·.1.boxes) hstands) f m).trans hbox, ?_, ?_, hmem.trans ?_⟩
  · exact (congrArg (·.1.gotre.waiting) hstands :).trans (by rw [← hposted]; rfl)
  · exact d.journalWrite_outbox.trans (by rw [← hposted]; rfl)
  · rw [← hposted]
    rfl

end Post

end Boxes

/-- Settles O42: the watchdog by its expiries, and a mailbox by its registers, acceptances and completions. -/
theorem mailboxesServeAndTheWatchdogRestarts : Obligations.MailboxesServeAndTheWatchdogRestarts := by
  unfold Obligations.MailboxesServeAndTheWatchdogRestarts
  refine ⟨fun s hstopped hready => ?_, fun s f m => ?_⟩
  · refine ⟨fun hruns => ?_, fun hdown hup hgood => ?_, fun hbad => ?_⟩
    · obtain ⟨hgotre, hreg, hctr, hcores, hqueues, hmem⟩ := s.dev.watchdog_spec hruns hstopped hready
      refine ⟨{ s with dev := s.dev.gotreScope s.dev.watchdog }, rfl, rfl, ?_⟩
      dsimp only
      rw [Dev.gotreScope_gotre, hgotre]
      exact ⟨rfl, rfl, rfl, (Dev.reg_of_regs (Dev.gotreScope_regs ..) _).trans hreg, rfl, rfl, rfl,
        (ctr_of_ctrs (Dev.gotreScope_ctrs ..) _).trans hctr, (Dev.gotreScope_cores ..).trans hcores,
        (Dev.gotreScope_queues ..).trans hqueues, (Dev.gotreScope_mem ..).trans hmem⟩
    · obtain ⟨hserves, hjobs, hcores, hqueues, hmem⟩ := s.dev.restarted_spec hdown hup hstopped hready hgood
      refine ⟨{ s with dev := s.dev.gotreScope s.dev.restarted }, rfl, rfl, ?_⟩
      dsimp only
      rw [Dev.gotreScope_gotre]
      exact ⟨hserves, hjobs, (Dev.gotreScope_cores ..).trans hcores, (Dev.gotreScope_queues ..).trans hqueues,
        (Dev.gotreScope_mem ..).trans hmem⟩
    · have hsame : s.dev.restarted = s.dev := if_pos (by simp [hbad])
      change Host.Outcome.next { s with dev := s.dev.gotreScope s.dev.restarted } = _
      rw [hsame, Dev.gotreScope_self]
  · dsimp only
    refine ⟨fun hcut => fun v => ⟨fun hroom hahead => ?_, fun hbeyond => ?_, fun hroom => ?_, fun hbeyond => ?_, fun hoff => ?_,
      fun hon hclear ⟨j, hj, hown⟩ => ?_⟩, fun hserved hon hopen hgood hmore hroom => ⟨fun w => ?_, ?_⟩,
      fun c hnext hserved => ⟨fun hroom hopen => ?_, fun hfull => ?_⟩⟩
    · refine ⟨{ s with dev := s.dev.gotreScope (s.dev.writeTail f m v) }, rfl, rfl, ?_⟩
      rw [Dev.writeTail_of_fits _ _ _ _ hcut hroom hahead]
      exact ⟨(Dev.box_congr (Dev.gotreScope_boxes ..) f m).trans (Dev.box_modBox ..), Dev.gotreScope_gotre ..⟩
    · change Host.Outcome.next { s with dev := s.dev.gotreScope (s.dev.writeTail f m v) } = _
      rw [Dev.writeTail_of_beyond _ _ _ _ hbeyond, Dev.gotreScope_self]
    · refine ⟨{ s with dev := s.dev.gotreScope (s.dev.writeHead f m v) }, rfl, rfl, ?_⟩
      rw [Dev.writeHead_of_fits _ _ _ _ hcut hroom]
      exact ⟨(Dev.box_congr (Dev.gotreScope_boxes ..) f m).trans (Dev.box_modBox ..), Dev.gotreScope_gotre ..⟩
    · refine ⟨{ s with dev := s.dev.gotreScope (s.dev.writeHead f m v) }, rfl, rfl, ?_⟩
      rw [Dev.writeHead_of_beyond _ _ _ _ hcut hbeyond]
      exact ⟨Dev.gotreScope_boxes .., (ctr_of_ctrs (Dev.gotreScope_ctrs ..) _).trans (Dev.ctr_count_same _ none _ _)⟩
    · refine ⟨{ s with dev := s.dev.gotreScope (s.dev.writeCfg f m v) }, rfl, rfl, ?_⟩
      rw [Dev.writeCfg_of_disabled _ _ _ _ hcut hoff]
      refine ⟨Dev.gotreScope_gotre .., (Dev.box_congr (Dev.gotreScope_boxes ..) f m).trans ((Dev.box_modBox ..).trans ?_)⟩
      cases v.getLsbD 31 <;> rfl
    · refine ⟨{ s with dev := s.dev.gotreScope (s.dev.writeCfg f m v) }, rfl, rfl, ?_⟩
      rw [Dev.writeCfg_closes _ _ _ _ hcut hon hclear hj hown]
      exact ⟨(Dev.box_congr (Dev.gotreScope_boxes ..) f m).trans (Dev.box_modBox ..), Dev.gotreScope_gotre ..⟩
    · obtain ⟨hjobs, hnumber, hbox, hctr, houtbox, hholdings, hmem⟩ :=
        Dev.acceptCommand_data hserved hon hopen hgood hmore hroom w
      refine ⟨{ s with dev := s.dev.gotreScope (s.dev.acceptCommand f m (.data w)) }, rfl, rfl, ?_⟩
      dsimp only
      rw [Dev.gotreScope_gotre, Dev.gotreScope_outbox, Dev.gotreScope_holdings, Dev.gotreScope_mem]
      exact ⟨hjobs, hnumber, (Dev.box_congr (Dev.gotreScope_boxes ..) f m).trans hbox,
        (ctr_of_ctrs (Dev.gotreScope_ctrs ..) _).trans hctr, houtbox, hholdings, hmem⟩
    · refine ⟨{ s with dev := s.dev.gotreScope (s.dev.acceptCommand f m .bad) }, rfl, rfl, ?_⟩
      rw [Dev.acceptCommand_bad hserved hon hopen hgood hmore hroom]
      exact ⟨(Dev.box_congr (Dev.gotreScope_boxes ..) f m).trans (Dev.box_modBox ..), Dev.gotreScope_gotre ..⟩
    · obtain ⟨hbox, hwaiting, houtbox, hmem⟩ := Dev.postCompletion_room hnext hserved hroom hopen
      refine ⟨{ s with dev := s.dev.gotreScope (s.dev.postCompletion f m) }, rfl, rfl, ?_⟩
      dsimp only
      rw [Dev.gotreScope_gotre, Dev.gotreScope_outbox, Dev.gotreScope_mem]
      exact ⟨(Dev.box_congr (Dev.gotreScope_boxes ..) f m).trans hbox, hwaiting, houtbox, hmem⟩
    · refine ⟨{ s with dev := s.dev.gotreScope (s.dev.postCompletion f m) }, rfl, rfl, ?_⟩
      rw [Dev.postCompletion_full hnext hserved hfull]
      exact ⟨(Dev.box_congr (Dev.gotreScope_boxes ..) f m).trans (Dev.box_modBox ..), Dev.gotreScope_gotre ..,
        Dev.gotreScope_outbox ..⟩

end Sys2Proof.Machine

/-! Register reads, and the writes that reach no field (R80, R453, R460 to R462, R468, R493). -/

namespace Sys2Proof.Machine

/-! ### What a read answers and clears -/

section Reads
variable {s : Dev} {off : Nat} (hreach : s.unreachable (dieOf off) = false)
include hreach

theorem Dev.readBar0_of_register {i : RegInfo} (hw : windowOf off < 0x20000)
    (hinfo : regInfo (dieOf off) (windowOf off) = some i) :
    s.readBar0 off = (s.regValue (dieOf off) (windowOf off) i, s.afterRead (dieOf off) (windowOf off) i) := by
  simp only [Dev.readBar0]
  rw [if_neg (by rw [hreach]; decide), if_neg (not_le.2 hw), hinfo]

theorem Dev.readBar0_of_none (hw : windowOf off < 0x20000) (hnone : regInfo (dieOf off) (windowOf off) = none) :
    s.readBar0 off = (0, s.accessEvent (dieOf off) evBadOffset) := by
  simp only [Dev.readBar0]
  rw [if_neg (by rw [hreach]; decide), if_neg (not_le.2 hw), hnone]

theorem Dev.readBar0_of_noAlias (hw : 0x20000 ≤ windowOf off)
    (hnone : regInfo (dieOf off) (aliasReg (windowOf off)) = none) :
    s.readBar0 off = (0, s.accessEvent (dieOf off) evBadOffset) := by
  simp only [Dev.readBar0]
  rw [if_neg (by rw [hreach]; decide), if_pos hw, hnone]

end Reads

section After
variable (s : Dev) (d w : Nat) {i : RegInfo}

/-- A read clears the RC bits of a plain register and nothing else. -/
theorem Dev.afterRead_plain (hkind : i.kind = .plain) :
    (s.afterRead d w i).reg (regAt d w) = s.reg (regAt d w) &&& ~~~i.rc
      ∧ (∀ k, k ≠ regAt d w → (s.afterRead d w i).reg k = s.reg k) ∧ (s.afterRead d w i).ctrs = s.ctrs
      ∧ (s.afterRead d w i).guards = s.guards ∧ (s.afterRead d w i).outbox = s.outbox := by
  simp only [Dev.afterRead, hkind]
  split
  next hnone => exact ⟨by rw [hnone]; exact BitVec.and_allOnes.symm, fun _ _ => rfl, rfl, rfl, rfl⟩
  next =>
    exact ⟨(s.reg_setReg ..).trans (if_pos rfl), fun k hk => (s.reg_setReg ..).trans (if_neg hk), rfl, rfl, rfl⟩

/-- A read of a counter's low word latches its high word and clears it. -/
theorem Dev.afterRead_low (hkind : i.kind = .low) :
    s.afterRead d w i = { s with ctrHi := Tab.set 0 s.ctrHi (regAt d w) ((s.ctr (regAt d w)).extractLsb' 32 32)
                                 ctrs := Tab.set 0 s.ctrs (regAt d w) 0 } := by
  simp only [Dev.afterRead, hkind]

end After

section Time
variable (s : Dev)

theorem timeInfo : regInfo kpr 0x19008 = some { kind := .status, ro := allOnes32 } := rfl

theorem Dev.timeValue : s.regValue kpr 0x19008 { kind := .status, ro := allOnes32 } = s.dt.setWidth 32 := by
  have hstatus : s.statusValue kpr 0x19008 = s.dt.setWidth 32 := by
    change BitVec.ofNat 32 (s.dt.toNat % 2 ^ 32) = _
    apply BitVec.eq_of_toNat_eq
    simp
  have hreserved : ({ kind := .status, ro := allOnes32 } : RegInfo).reserved = 0 := by decide
  simp only [Dev.regValue, Dev.fieldValue, Dev.reservedValue, hreserved, hstatus]
  exact (congrArg₂ (· ||| ·) BitVec.and_allOnes BitVec.and_zero).trans BitVec.or_zero

theorem Dev.readBar0_time (hreach : s.unreachable kpr = false) :
    s.readBar0 (regAt kpr 0x19008) = (s.dt.setWidth 32,
      { s with ctrHi := Tab.set 0 s.ctrHi (regAt kpr 0x19008) (s.dt.extractLsb' 32 32) }) := by
  have hd : dieOf (regAt kpr 0x19008) = kpr := by decide
  have hw : windowOf (regAt kpr 0x19008) = 0x19008 := by decide
  rw [Dev.readBar0_of_register (by rw [hd]; exact hreach) (by rw [hw]; decide) (by rw [hd, hw]; exact timeInfo), hd, hw,
    Dev.timeValue]
  rfl

end Time

/-! ### Writes as they reach a register -/

section Writes
variable {s : Dev} {p : Path} {off : Nat} (hup : s.pathUp p = true) (hreach : s.unreachable (dieOf off) = false) (v : Word32)
include hup hreach

/-- A write uses up the path's key, and ends there when it is not of a whole word. -/
theorem Dev.writeBar0_partial {enables : BitVec 4} (hpart : enables ≠ 0xF) :
    s.writeBar0 p off v enables = (s.setGuard (dieOf off) p false).accessEvent (dieOf off) evPartial := by
  simp only [Dev.writeBar0]
  rw [if_neg (by rw [hup, hreach]; decide), if_pos (bne_iff_ne.2 hpart)]

theorem Dev.writeBar0_alias (hw : 0x20000 ≤ windowOf off) :
    s.writeBar0 p off v 0xF = (s.setGuard (dieOf off) p false).writeAlias (dieOf off) (windowOf off) v := by
  simp only [Dev.writeBar0]
  rw [if_neg (by rw [hup, hreach]; decide), if_neg (by decide), if_neg (by omega), if_pos hw]

section Direct
variable (hw : windowOf off < 0x20000) (hkey : windowOf off ≠ 8)
include hw hkey

theorem Dev.writeBar0_of_none (hnone : regInfo (dieOf off) (windowOf off) = none) :
    s.writeBar0 p off v 0xF = (s.setGuard (dieOf off) p false).accessEvent (dieOf off) evBadOffset := by
  simp only [Dev.writeBar0]
  rw [if_neg (by rw [hup, hreach]; decide), if_neg (by decide), if_neg hkey, if_neg (not_le.2 hw), hnone]

theorem Dev.writeBar0_of_register {i : RegInfo} (hinfo : regInfo (dieOf off) (windowOf off) = some i) :
    s.writeBar0 p off v 0xF
      = (s.setGuard (dieOf off) p false).writeRegister (dieOf off) (windowOf off) i (s.guard (dieOf off) p) v := by
  simp only [Dev.writeBar0]
  rw [if_neg (by rw [hup, hreach]; decide), if_neg (by decide), if_neg hkey, if_neg (not_le.2 hw), hinfo]

end Direct

end Writes

section Fields
variable (s : Dev) (d w : Nat) {i : RegInfo} (held : Bool) (v : Word32)

theorem Dev.writeRegister_of_plain (hrwk : i.rwk = 0) : s.writeRegister d w i held v = s.writePlain d w i held v := by
  rw [Dev.writeRegister]
  exact if_pos (by simp [hrwk])

theorem Dev.writeRegister_of_noKey : s.writeRegister d w i false v = s.writePlain d w i false v := by
  rw [Dev.writeRegister]
  exact if_pos (by simp)

/-- A write that takes no field leaves its events alone. -/
theorem Dev.writePlain_of_noField (hrw : i.rw = 0) (hrwk : held = false ∨ i.rwk = 0) (htest : (s.die d).testMode = false) :
    s.writePlain d w i held v = s.writeEvents d w i held v := by
  have htake : (i.rw != 0 || (held && i.rwk != 0) || (s.die d).testMode) = false := by
    rcases hrwk with hkey | hnone
    · simp [hrw, hkey, htest]
    · simp [hrw, hnone, htest]
  simp only [Dev.writePlain, htake, Bool.false_and, Bool.false_eq_true, if_false]

theorem Dev.writeEvents_of_noKeyed (hrwk : i.rwk = 0) (hsame : v &&& i.reserved = s.reservedValue d w i) :
    s.writeEvents d w i held v = s := by
  simp only [Dev.writeEvents, hrwk, hsame, bne_self_eq_false, Bool.false_and, Bool.false_eq_true, if_false]

theorem Dev.reg_accessEvent (b : Word32) (k : Nat) :
    (s.accessEvent d b).reg k = if k = regEvent d then s.reg (regEvent d) ||| b else s.reg k := s.reg_event ..

end Fields

/-- Settles O56: each read by what its register answers and clears, and the writes that no field takes. -/
theorem readsClearWhatTheyRead : Obligations.ReadsClearWhatTheyRead := by
  unfold Obligations.ReadsClearWhatTheyRead
  intro s p off
  dsimp only
  intro hreach
  refine ⟨fun i hw hinfo hkind => ?_, fun i hw hinfo hkind => ?_, fun hw hnone => ?_,
    fun v hup => ⟨fun hw hkey hnone => ?_, fun i hw hkey hinfo hrw hrwk htest hsame => ?_⟩, fun hw hnone => ?_, fun hkeeper => ?_⟩
  · obtain ⟨hread, hother, hctrs, hguards, houtbox⟩ := s.dev.afterRead_plain (dieOf off.toNat) (windowOf off.toNat) hkind
    refine ⟨{ s with dev := s.dev.regScope (s.dev.readRegister p none off.toNat) }, rfl, rfl, ?_⟩
    dsimp only [Dev.readRegister]
    rw [Dev.readBar0_of_register hreach hw hinfo]
    exact ⟨congrArg (· ++ _) houtbox, hread, hother, hctrs, hguards⟩
  · refine ⟨{ s with dev := s.dev.regScope (s.dev.readRegister p none off.toNat) }, rfl, rfl, ?_⟩
    dsimp only [Dev.readRegister]
    rw [Dev.readBar0_of_register hreach hw hinfo, Dev.afterRead_low _ _ _ hkind]
    exact ⟨rfl, Laws.Tab.get_set_same .., Laws.Tab.get_set_same .., fun k hk => Laws.Tab.get_set_ne _ _ _ hk, rfl⟩
  · refine ⟨{ s with dev := s.dev.regScope (s.dev.readRegister p none off.toNat) }, rfl, rfl, ?_⟩
    dsimp only [Dev.readRegister]
    rw [Dev.readBar0_of_noAlias hreach hw hnone]
    exact ⟨rfl, (Dev.reg_accessEvent ..).trans (if_pos rfl), fun k hk => (Dev.reg_accessEvent ..).trans (if_neg hk), rfl⟩
  · refine ⟨{ s with dev := s.dev.writeBar0 p off.toNat v 0xF }, rfl, rfl, ?_⟩
    dsimp only
    rw [Dev.writeBar0_of_none hup hreach v hw hkey hnone]
    exact ⟨(Dev.reg_accessEvent ..).trans (if_pos rfl), fun k hk => (Dev.reg_accessEvent ..).trans (if_neg hk), rfl, rfl⟩
  · refine ⟨{ s with dev := s.dev.writeBar0 p off.toNat v 0xF }, rfl, rfl, ?_⟩
    dsimp only
    rw [Dev.writeBar0_of_register hup hreach v hw hkey hinfo, Dev.writeRegister_of_plain _ _ _ _ _ hrwk,
      Dev.writePlain_of_noField (s.dev.setGuard (dieOf off.toNat) p false) _ _ _ v hrw (.inr hrwk) htest,
      Dev.writeEvents_of_noKeyed (s.dev.setGuard (dieOf off.toNat) p false) _ _ _ v hrwk hsame]
    exact ⟨rfl, rfl, rfl⟩
  · refine ⟨{ s with dev := s.dev.regScope (s.dev.readRegister p none off.toNat) }, rfl, rfl, ?_⟩
    dsimp only [Dev.readRegister]
    rw [Dev.readBar0_of_none hreach hw hnone]
    exact ⟨rfl, (Dev.reg_accessEvent ..).trans (if_pos rfl), fun k hk => (Dev.reg_accessEvent ..).trans (if_neg hk), rfl⟩
  · refine ⟨{ s with dev := s.dev.regScope (s.dev.readRegister p none (regAt kpr 0x19008)) }, rfl, rfl, ?_⟩
    dsimp only [Dev.readRegister]
    rw [Dev.readBar0_time _ hkeeper]
    exact ⟨rfl, Laws.Tab.get_set_same .., rfl, rfl⟩

end Sys2Proof.Machine

/-! Register writes under the key guard (R330, R331, R452, R460, R463, R464, R467 to R470, R492, R515). -/

namespace Sys2Proof.Machine

/-! ### Offsets of registers -/

theorem dieOf_regAt {w : Nat} (hw : w < 0x40000) (d : Nat) : dieOf (regAt d w) = d := by
  simp only [dieOf, regAt]
  omega

theorem windowOf_regAt {w : Nat} (hw : w < 0x40000) (hword : w % 4 = 0) (d : Nat) : windowOf (regAt d w) = w := by
  simp only [windowOf, regAt]
  omega

theorem regAt_ne_of_window {w k : Nat} (hne : w ≠ k) (d : Nat) : regAt d w ≠ regAt d k := by
  simp only [regAt]
  omega

/-! ### The masks of a register's fields -/

/-- Words are equal when they are bit by bit. -/
theorem word_ext {x y : Word32} (h : ∀ n, x.getLsbD n = y.getLsbD n) : x = y := BitVec.eq_of_getLsbD_eq fun n _ => h n

theorem BitVec.setWidth_of_masked {n : Nat} {x y m : Word32} (hm : m.setWidth n = BitVec.allOnes n) (h : x &&& m = y &&& m) :
    x.setWidth n = y.setWidth n := by
  have hcut := congrArg (BitVec.setWidth n) h
  rwa [BitVec.setWidth_and, BitVec.setWidth_and, hm, BitVec.and_allOnes, BitVec.and_allOnes] at hcut

theorem or_and_mask (x m : Word32) : (x ||| m) &&& m = m := by
  refine word_ext fun n => ?_
  simp only [BitVec.getLsbD_and, BitVec.getLsbD_or]
  cases m.getLsbD n <;> simp

theorem or_or_and_mask (x m y : Word32) : (x ||| m ||| y) &&& m = m := by
  refine word_ext fun n => ?_
  simp only [BitVec.getLsbD_and, BitVec.getLsbD_or]
  cases m.getLsbD n <;> simp

section Masks
variable (i : RegInfo) (old v x : Word32)

/-- What a write under the key may change. -/
def RegInfo.keyed (i : RegInfo) : Word32 := i.rw ||| i.rwk

theorem RegInfo.reserved_getLsbD {n : Nat} (hn : n < 32) : i.reserved.getLsbD n
    = !(i.ro.getLsbD n || i.rw.getLsbD n || i.rwk.getLsbD n || i.rc.getLsbD n || i.wo.getLsbD n) := by
  simp [RegInfo.reserved, hn]

/-- The RW fields of a register as a write takes them. -/
theorem RegInfo.merge_rw : (old &&& ~~~(i.rw ||| i.reserved)) ||| (v &&& i.rw) ||| (old &&& i.reserved)
    = (old &&& ~~~i.rw) ||| (v &&& i.rw) := by
  refine BitVec.eq_of_getLsbD_eq fun n hn => ?_
  simp only [BitVec.getLsbD_and, BitVec.getLsbD_or, BitVec.getLsbD_not, RegInfo.reserved_getLsbD i hn, hn, decide_true, Bool.true_and]
  rw [show (i.ro.getLsbD n || i.rw.getLsbD n || i.rwk.getLsbD n || i.rc.getLsbD n || i.wo.getLsbD n)
    = (i.rw.getLsbD n || (i.ro.getLsbD n || i.rwk.getLsbD n || i.rc.getLsbD n || i.wo.getLsbD n)) by ac_rfl]
  generalize (i.ro.getLsbD n || i.rwk.getLsbD n || i.rc.getLsbD n || i.wo.getLsbD n) = others
  cases i.rw.getLsbD n <;> cases old.getLsbD n <;> cases others <;> simp

/-- The fields under the key take the written word, whatever becomes of the reserved bits. -/
theorem RegInfo.merge_keyed :
    ((old &&& ~~~(i.keyed ||| i.reserved)) ||| (v &&& i.keyed) ||| (x &&& i.reserved)) &&& i.keyed = v &&& i.keyed := by
  refine BitVec.eq_of_getLsbD_eq fun n hn => ?_
  simp only [RegInfo.keyed, BitVec.getLsbD_and, BitVec.getLsbD_or, BitVec.getLsbD_not, RegInfo.reserved_getLsbD i hn, hn,
    decide_true, Bool.true_and]
  cases i.rw.getLsbD n <;> cases i.rwk.getLsbD n <;> simp

theorem RegInfo.reserved_keyed : ((old &&& ~~~i.reserved) ||| (x &&& i.reserved)) &&& i.keyed = old &&& i.keyed := by
  refine BitVec.eq_of_getLsbD_eq fun n hn => ?_
  simp only [RegInfo.keyed, BitVec.getLsbD_and, BitVec.getLsbD_or, BitVec.getLsbD_not, RegInfo.reserved_getLsbD i hn, hn,
    decide_true, Bool.true_and]
  cases i.rw.getLsbD n <;> cases i.rwk.getLsbD n <;> simp

end Masks

/-! ### What a write of a plain register does -/

section Plain
variable (s : Dev) (d w : Nat) (i : RegInfo) (held : Bool) (v : Word32)

theorem Dev.guardFail_reg (b : Word32) : (s.guardFail d b).reg (regAt d 0x18) = addStop32 (s.reg (regAt d 0x18)) 1
    ∧ (s.guardFail d b).reg (regEvent d) = s.reg (regEvent d) ||| b
    ∧ (∀ k, k ≠ regAt d 0x18 → k ≠ regEvent d → (s.guardFail d b).reg k = s.reg k) := by
  have hne : regEvent d ≠ regAt d 0x18 := regAt_ne_of_window (by decide) d
  refine ⟨(Dev.reg_setReg ..).trans (if_pos rfl), ?_, fun k hk hevent => ?_⟩
  · exact (Dev.reg_setReg ..).trans ((if_neg hne).trans ((Dev.reg_accessEvent ..).trans (if_pos rfl)))
  · exact (Dev.reg_setReg ..).trans ((if_neg hk).trans ((Dev.reg_accessEvent ..).trans (if_neg hevent)))

theorem Dev.writeEvents_eq : ∃ regs, s.writeEvents d w i held v = { s with regs := regs } := by
  unfold Dev.writeEvents
  extract_lets s1 changed
  have hfail : ∃ regs, s1 = { s with regs := regs } := by
    unfold s1
    split
    · exact ⟨_, rfl⟩
    · exact ⟨s.regs, rfl⟩
  obtain ⟨regs, hs1⟩ := hfail
  rw [hs1]
  split
  · exact ⟨_, rfl⟩
  · exact ⟨regs, rfl⟩

/-- With the key, or without keyed fields, a write tells of changed reserved bits alone. -/
theorem Dev.writeEvents_reg (hkey : held = true ∨ i.rwk = 0) {k : Nat} (hk : k ≠ regEvent d) :
    (s.writeEvents d w i held v).reg k = s.reg k := by
  have hheld : (i.rwk != 0 && !held) = false := by
    rcases hkey with hheld | hnone
    · simp [hheld]
    · simp [hnone]
  unfold Dev.writeEvents
  dsimp only
  rw [hheld, if_neg Bool.false_ne_true]
  split
  · exact (Dev.reg_accessEvent ..).trans (if_neg hk)
  · rfl

/-- Without the key a write of keyed fields is counted and told. -/
theorem Dev.writeEvents_missing (hkeyed : i.rwk ≠ 0) :
    (s.writeEvents d w i false v).reg (regAt d 0x18) = addStop32 (s.reg (regAt d 0x18)) 1
      ∧ (s.writeEvents d w i false v).reg (regEvent d) &&& 4 = 4
      ∧ (∀ k, k ≠ regAt d 0x18 → k ≠ regEvent d → (s.writeEvents d w i false v).reg k = s.reg k) := by
  have hmissing : (i.rwk != 0 && !false) = true := by rw [bne_iff_ne.2 hkeyed]; decide
  have hne : regAt d 0x18 ≠ regEvent d := regAt_ne_of_window (by decide) d
  obtain ⟨hcount, htold, hother⟩ := s.guardFail_reg d evKeyMissing
  unfold Dev.writeEvents
  dsimp only
  rw [hmissing, if_pos rfl]
  split
  · refine ⟨(Dev.reg_accessEvent ..).trans ((if_neg hne).trans hcount), ?_,
      fun k hk hevent => (Dev.reg_accessEvent ..).trans ((if_neg hevent).trans (hother k hk hevent))⟩
    rw [Dev.reg_accessEvent, if_pos rfl, htold]
    exact or_or_and_mask _ 4 _
  · refine ⟨hcount, ?_, hother⟩
    rw [htold]
    exact or_and_mask _ 4

/-- A write that takes fields places the merged word, after its events. -/
theorem Dev.writePlain_of_fields (htakes : i.rw ≠ 0 ∨ (held = true ∧ i.rwk ≠ 0)) (hplain : i.kind = .plain) :
    s.writePlain d w i held v = (s.writeEvents d w i held v).place' d w i (s.mergeWrite d w i held v) := by
  have htake : (i.rw != 0 || (held && i.rwk != 0)) = true := by
    rcases htakes with hrw | ⟨hheld, hrwk⟩
    · rw [bne_iff_ne.2 hrw, Bool.true_or]
    · rw [bne_iff_ne.2 hrwk, hheld, Bool.true_and, Bool.or_true]
  simp only [Dev.writePlain]
  rw [if_pos]
  rw [htake, hplain]
  rfl

/-- A word placed at once, or with no owner to wait for. -/
theorem Dev.place'_of_now (hnow : i.apply ≠ .step ∨ s.slotOwner d w = false) :
    s.place' d w i v = ({ s with slots := Tab.set none s.slots (regAt d w) none } : Dev).setReg (regAt d w) v := by
  simp only [Dev.place']
  refine if_neg ?_
  rcases hnow with hnow | hfree
  · simp [hnow]
  · simp [hfree]

theorem Dev.place'_of_step (hstep : i.apply = .step) (howned : s.slotOwner d w = true) :
    s.place' d w i v = { s with slots := Tab.set none s.slots (regAt d w) (some v) } := by
  simp only [Dev.place']
  exact if_pos (by simp [hstep, howned])

theorem Dev.mergeWrite_rw (hnone : i.rwk = 0) (htest : (s.die d).testMode = false) :
    s.mergeWrite d w i held v = (s.reg (regAt d w) &&& ~~~i.rw) ||| (v &&& i.rw) := by
  have hzero : (if held = true then i.rwk else 0) = 0 := by
    rw [hnone]
    exact ite_self _
  have htake : i.rw ||| 0 = i.rw := BitVec.or_zero
  simp only [Dev.mergeWrite, hzero, htest, htake, Bool.false_eq_true, if_false]
  exact i.merge_rw (s.reg (regAt d w)) v

theorem Dev.mergeWrite_keyed : s.mergeWrite d w i true v &&& i.keyed = v &&& i.keyed := by
  simp only [Dev.mergeWrite, if_true]
  have hreserved : ∃ x, (if (s.die d).testMode = true then (v ^^^ Config.reservedBits (regAt d w)) &&& i.reserved
      else s.reg (regAt d w) &&& i.reserved) = x &&& i.reserved := by
    split
    · exact ⟨_, rfl⟩
    · exact ⟨_, rfl⟩
  obtain ⟨x, hx⟩ := hreserved
  rw [hx]
  exact i.merge_keyed (s.reg (regAt d w)) v x

/-- A keyed write of a plain register takes its fields and leaves the rest of the device. -/
theorem Dev.writePlain_keyed (hplain : i.kind = .plain) (hrwk : i.rwk ≠ 0) (hnow : i.apply ≠ .step) :
    (s.writePlain d w i true v).reg (regAt d w) &&& i.keyed = v &&& i.keyed
      ∧ ∃ regs slots, s.writePlain d w i true v = { s with regs := regs, slots := slots } := by
  obtain ⟨regs, hevents⟩ := s.writeEvents_eq d w i true v
  rw [Dev.writePlain_of_fields _ _ _ _ _ _ (.inr ⟨rfl, hrwk⟩) hplain, Dev.place'_of_now _ _ _ _ _ (.inl hnow), hevents]
  refine ⟨?_, _, _, rfl⟩
  rw [Dev.reg_setReg, if_pos rfl]
  exact s.mergeWrite_keyed d w i v

/-- A write that leaves the fields stands for its events and its reserved bits. -/
theorem Dev.writeReserved_keyed (hne : regAt d w ≠ regEvent d) :
    (s.writeReserved d w i true v).reg (regAt d w) &&& i.keyed = s.reg (regAt d w) &&& i.keyed
      ∧ ∃ regs, s.writeReserved d w i true v = { s with regs := regs } := by
  have hreg := s.writeEvents_reg d w i true v (.inl rfl) hne
  obtain ⟨regs, hevents⟩ := s.writeEvents_eq d w i true v
  simp only [Dev.writeReserved]
  rw [hevents] at hreg ⊢
  split
  · refine ⟨?_, _, rfl⟩
    rw [Dev.reg_setReg, if_pos rfl]
    exact i.reserved_keyed (s.reg (regAt d w)) _
  · exact ⟨congrArg (· &&& i.keyed) hreg, regs, rfl⟩

theorem Dev.writeRegister_of_key {i : RegInfo} (hrwk : i.rwk ≠ 0) {r : Dev}
    (hrest : (if dieKind d = 2 ∧ w = 0x13004 then (s.writePlain d w i true v).klxCtrlDone (Fin.ofNat 8 (d - 48))
      else if regAt d w = klxReg 0 0x300 then
        (if s.portsIdle then s.writePlain d w i true v else s.writeReserved d w i true v)
      else if w = 0x19000 ∧ droopDies.contains d then
        if droopGood v then s.writePlain d w i true v else (s.writeReserved d w i true v).accessEvent d evPartial
      else if regAt d w = regAt kpr 0x1C004 then (s.writeReserved d w i true v).surveyCommand v
      else if regAt d w = regAt kpr 0x1D000 then (s.writeReserved d w i true v).resetCommand v
      else s.writePlain d w i true v) = r) : s.writeRegister d w i true v = r := by
  rw [Dev.writeRegister, if_neg (by simpa using hrwk)]
  exact hrest

end Plain

/-! ### Registers as messages leave -/

section Sends
variable (s : Dev) (p : PortId) (dst : BitVec 16) (vc : Fin 4)

theorem Dev.drainPort_regs (n : Nat) : (s.drainPort p n).regs = s.regs := by
  induction n generalizing s with
  | zero => rfl
  | succ n ih =>
    unfold Dev.drainPort
    split
    · split
      · exact ih _
      · rfl
    · split
      · rfl
      · exact ih _

theorem Dev.toPort_regs (is : List PortItem) : (s.toPort p is).regs = s.regs := by
  unfold Dev.toPort Dev.drain
  split
  · rfl
  · exact Dev.drainPort_regs ..

theorem Dev.chooseRoute_regs : (s.chooseRoute dst).2.regs = s.regs := by
  unfold Dev.chooseRoute
  split
  · rfl
  · extract_lets home s1
    have hcounted : s1.regs = s.regs := by
      unfold s1
      split <;> rfl
    dsimp only
    split <;> exact hcounted

theorem Dev.sendHeld_regs (f : Held) : (s.sendHeld dst vc f).2.2.regs = s.regs := by
  unfold Dev.sendHeld
  extract_lets c
  have hchosen : c.2.regs = s.regs := by
    unfold c
    split
    · rfl
    · exact s.chooseRoute_regs dst
  split
  · exact hchosen
  · exact (Dev.toPort_regs ..).trans hchosen

theorem Dev.sendAll_regs (fs : List Held) : (s.sendAll dst vc fs).2.2.regs = s.regs := by
  induction fs generalizing s with
  | nil => rfl
  | cons f rest ih => exact (ih _).trans (s.sendHeld_regs dst vc f)

theorem Dev.releaseGate_regs (l kept : List GateItem) : (s.releaseGate l kept).regs = s.regs := by
  induction l generalizing s kept with
  | nil => rfl
  | cons g rest ih =>
    unfold Dev.releaseGate
    split
    · exact (ih _ kept).trans (s.sendAll_regs g.dst g.vc _)
    · exact ih s _

/-- A message that leaves touches no register but a full gate's event. -/
theorem Dev.send_reg {k : Nat} (hk : ∀ q, k ≠ regAt (linkDie q) 0x104) (o : Owner) (m : OutMsg) :
    (s.send dst vc o m).reg k = s.reg k := by
  have hfull : ∀ d : Dev, (d.noteFull (ownerHolding o) (s.homeOf dst)).reg k = d.reg k := fun d => by
    unfold Dev.noteFull
    split
    · exact (d.reg_event ..).trans (if_neg (hk _))
    · rfl
  exact (Dev.reg_of_regs (Dev.releaseGate_regs ..) k).trans (hfull _)

theorem Dev.tellLinks_reg {k : Nat} (hk : ∀ q, k ≠ regAt (linkDie q) 0x104) : s.tellLinks.reg k = s.reg k := by
  unfold Dev.tellLinks
  split
  · rfl
  · exact foldl_preserves (Dev.reg · k) (fun d n => d.send_reg n 0 hk ..) { s with linkSent := s.ownLinks } _

/-- A port's new state touches the events of its die alone. -/
theorem Dev.setPortState_reg {k : Nat} (hk : ∀ q, k ≠ regAt (linkDie q) 0x104) (hown : k ≠ linkEvent p) (st : PortState)
    (f : Port → Port) : (s.setPortState p st f).reg k = s.reg k := by
  have htold : ∀ d : Dev, (d.event (linkEvent p) (stateEvents st)).reg k = d.reg k := fun d =>
    (d.reg_event ..).trans (if_neg hown)
  unfold Dev.setPortState
  extract_lets s1
  split
  · rfl
  · unfold Dev.linksMoved
    split
    · exact htold s1
    · exact (Dev.tellLinks_reg _ hk).trans (htold s1)

end Sends

section Ports
variable (s : Dev) (p : PortId)

theorem Dev.setPortState_guards (st : PortState) (f : Port → Port) : (s.setPortState p st f).guards = s.guards := by
  obtain ⟨bits, htells⟩ := s.setPortState_tells p st f
  exact (congrArg Dev.guards htells.untold :)

/-- What KLX_CTRL does beyond its word: the port is disabled, or may train again. -/
theorem Dev.klxCtrlDone_spec : (s.klxCtrlDone p).reg (klxReg p 4) = s.reg (klxReg p 4) ∧ (s.klxCtrlDone p).guards = s.guards
    ∧ (s.klxCtrlDone p).mem = s.mem
    ∧ ((s.reg (klxReg p 4)).getLsbD 0 = false → ((s.klxCtrlDone p).port p).state = .disabled) := by
  have hfull : ∀ q, klxReg p 4 ≠ regAt (linkDie q) 0x104 := fun q => by
    simp only [klxReg, regAt, linkDie]
    omega
  have hown : klxReg p 4 ≠ linkEvent p := by
    simp only [klxReg, linkEvent, regAt, linkDie]
    omega
  have hmoved : ∀ (d : Dev) st f, (d.setPortState p st f).reg (klxReg p 4) = d.reg (klxReg p 4)
      ∧ (d.setPortState p st f).guards = d.guards ∧ (d.setPortState p st f).mem = d.mem := fun d st f =>
    ⟨d.setPortState_reg p hfull hown st f, d.setPortState_guards p st f, d.setPortState_mem p st f⟩
  unfold Dev.klxCtrlDone
  extract_lets on s1
  split
  next hon =>
    have hoff : ¬(s.reg (klxReg p 4)).getLsbD 0 = false := by
      rw [show (s.reg (klxReg p 4)).getLsbD 0 = true from hon]
      decide
    split
    · split
      · obtain ⟨hreg, hguards, hmem⟩ := hmoved s1 .failed id
        exact ⟨hreg, hguards, hmem, fun h => absurd h hoff⟩
      · obtain ⟨hreg, hguards, hmem⟩ := hmoved s1 .down fun q => { q with failures := 0 }
        exact ⟨hreg, hguards, hmem, fun h => absurd h hoff⟩
    · exact ⟨rfl, rfl, rfl, fun h => absurd h hoff⟩
  next =>
    obtain ⟨hreg, hguards, hmem⟩ := hmoved s .disabled fun q => { q.drop with failures := if 3 ≤ q.failures then 3 else 0 }
    exact ⟨hreg, hguards, hmem, fun _ => s.setPortState_state p ..⟩

end Ports

/-! ### Keyed registers whose writes act -/

theorem Dev.guard_setGuard (s : Dev) (d : Nat) (p : Path) (on : Bool) : (s.setGuard d p on).guard d p = on :=
  Laws.Tab.get_set_same ..

theorem linkDie_kind : ∀ port : PortId, dieKind (linkDie port) = 2 := by decide

theorem linkDie_port : ∀ port : PortId, (Fin.ofNat 8 (linkDie port - 48) : PortId) = port := by decide

/-- KLX_CTRL, KLX_DEVICE_NUM and CLK_DROOP_CFG. -/
def klxCtrlInfo : RegInfo := { kind := .plain, rwk := 1 }
def klxNumberInfo : RegInfo := { kind := .plain, rwk := 0x1FFFF }
def droopCfgInfo : RegInfo := { kind := .plain, rwk := 0xFFFF }

theorem regInfo_klxCtrl : ∀ port : PortId, regInfo (linkDie port) 0x13004 = some klxCtrlInfo := by decide

theorem regInfo_klxNumber : regInfo 48 0x13300 = some klxNumberInfo := by decide

theorem regInfo_droopCfg : ∀ d ∈ droopDies, regInfo d 0x19000 = some droopCfgInfo := by decide

/-- The droop registers lie apart from those of the links and the keeper. -/
theorem droopCfg_apart : ∀ d ∈ droopDies, regAt d 0x19000 ≠ klxReg 0 0x300 := by decide

section Keyed
variable {s : Dev} {p : Path} (hup : s.pathUp p = true)
include hup

/-- A keyed write that has reached its register, with the key used up. -/
theorem Dev.writeBar0_of_key {d w : Nat} {i : RegInfo} (hreach : s.unreachable d = false) (hheld : s.guard d p = true)
    (hw : w < 0x20000) (hword : w % 4 = 0) (hkey : w ≠ 8) (hinfo : regInfo d w = some i) (v : Word32) :
    s.writeBar0 p (regAt d w) v 0xF = (s.setGuard d p false).writeRegister d w i true v := by
  have hd := dieOf_regAt (by omega : w < 0x40000) d
  have hwin := windowOf_regAt (by omega : w < 0x40000) hword d
  rw [Dev.writeBar0_of_register hup (by rw [hd]; exact hreach) v (by rw [hwin]; exact hw) (by rw [hwin]; exact hkey)
    (by rw [hd, hwin]; exact hinfo), hd, hwin, hheld]

theorem Dev.klxCtrlWrite_spec (port : PortId) (hreach : s.unreachable (linkDie port) = false)
    (hheld : s.guard (linkDie port) p = true) (v : Word32) :
    ∃ r, s.writeBar0 p (klxReg port 4) v 0xF = r ∧ (r.reg (klxReg port 4)).getLsbD 0 = v.getLsbD 0
      ∧ r.guard (linkDie port) p = false ∧ (v.getLsbD 0 = false → (r.port port).state = .disabled) ∧ r.mem = s.mem := by
  have hwrite := (Dev.writeBar0_of_key hup hreach hheld (by decide) (by decide) (by decide) (regInfo_klxCtrl port) v).trans
    (Dev.writeRegister_of_key _ _ _ _ (by decide) (by rw [if_pos ⟨linkDie_kind port, rfl⟩, linkDie_port]))
  obtain ⟨hfields, regs, slots, hplain⟩ :=
    (s.setGuard (linkDie port) p false).writePlain_keyed (linkDie port) 0x13004 klxCtrlInfo v rfl (by decide) (by decide)
  generalize (s.setGuard (linkDie port) p false).writePlain (linkDie port) 0x13004 klxCtrlInfo true v = d at hwrite hfields hplain
  have hbit : (d.reg (klxReg port 4)).getLsbD 0 = v.getLsbD 0 := by
    have hone : ((d.reg (klxReg port 4)).setWidth 1).getLsbD 0 = (v.setWidth 1).getLsbD 0 :=
      congrArg (BitVec.getLsbD · 0) (BitVec.setWidth_of_masked (by decide) hfields)
    simpa only [BitVec.getLsbD_setWidth, Nat.zero_lt_one, decide_true, Bool.true_and] using hone
  obtain ⟨hreg, hguards, hmem, hstate⟩ := d.klxCtrlDone_spec port
  refine ⟨_, hwrite, by rw [hreg]; exact hbit, ?_, fun hclear => hstate (hbit.trans hclear), hmem.trans (by rw [hplain]; rfl)⟩
  refine (congrArg (Tab.get false · _) hguards).trans ?_
  rw [hplain]
  exact s.guard_setGuard _ p false

theorem Dev.klxDeviceNumWrite_spec (hreach : s.unreachable 48 = false) (hheld : s.guard 48 p = true) (v : Word32) :
    ∃ r, s.writeBar0 p (klxReg 0 0x300) v 0xF = r ∧ r.guard 48 p = false
      ∧ (r.reg (klxReg 0 0x300)).setWidth 17
        = (if s.portsIdle then v.setWidth 17 else (s.reg (klxReg 0 0x300)).setWidth 17 : BitVec 17) := by
  have hwrite := (Dev.writeBar0_of_key hup hreach hheld (by decide) (by decide) (by decide) regInfo_klxNumber v).trans
    (Dev.writeRegister_of_key _ _ _ _ (by decide) (by rw [if_neg (by decide), if_pos (by decide)]))
  have hsame : (s.setGuard 48 p false).portsIdle = s.portsIdle := rfl
  rw [hsame] at hwrite
  refine ⟨_, hwrite, ?_⟩
  cases hidle : s.portsIdle with
  | true =>
    obtain ⟨hfields, regs, slots, hplain⟩ :=
      (s.setGuard 48 p false).writePlain_keyed 48 0x13300 klxNumberInfo v rfl (by decide) (by decide)
    rw [if_pos rfl]
    refine ⟨?_, BitVec.setWidth_of_masked (by decide) hfields⟩
    rw [hplain]
    exact s.guard_setGuard _ p false
  | false =>
    obtain ⟨hfields, regs, hplain⟩ := (s.setGuard 48 p false).writeReserved_keyed 48 0x13300 klxNumberInfo v (by decide)
    rw [if_neg Bool.false_ne_true]
    refine ⟨?_, BitVec.setWidth_of_masked (by decide) hfields⟩
    rw [hplain]
    exact s.guard_setGuard _ p false

theorem Dev.clkDroopCfgWrite_spec {d : Nat} (hreach : s.unreachable d = false) (hdroop : droopDies.contains d = true)
    (hheld : s.guard d p = true) (v : Word32) :
    ∃ r, s.writeBar0 p (regAt d 0x19000) v 0xF = r ∧ r.guard d p = false
      ∧ (r.reg (regAt d 0x19000)).setWidth 16
        = (if droopGood v then v.setWidth 16 else (s.reg (regAt d 0x19000)).setWidth 16 : BitVec 16) := by
  have hd : d ∈ droopDies := List.contains_iff_mem.1 hdroop
  have hwrite := (Dev.writeBar0_of_key hup hreach hheld (by decide) (by decide) (by decide) (regInfo_droopCfg d hd) v).trans
    (Dev.writeRegister_of_key _ _ _ _ (by decide)
      (by rw [if_neg (fun h => absurd h.2 (by decide)), if_neg (droopCfg_apart d hd), if_pos ⟨rfl, hdroop⟩]))
  refine ⟨_, hwrite, ?_⟩
  cases hgood : droopGood v with
  | true =>
    obtain ⟨hfields, regs, slots, hplain⟩ :=
      (s.setGuard d p false).writePlain_keyed d 0x19000 droopCfgInfo v rfl (by decide) (by decide)
    rw [if_pos rfl]
    refine ⟨?_, BitVec.setWidth_of_masked (by decide) hfields⟩
    rw [hplain]
    exact s.guard_setGuard _ p false
  | false =>
    have hne : regAt d 0x19000 ≠ regEvent d := regAt_ne_of_window (by decide) d
    obtain ⟨hfields, regs, hplain⟩ := (s.setGuard d p false).writeReserved_keyed d 0x19000 droopCfgInfo v hne
    rw [if_neg Bool.false_ne_true]
    refine ⟨?_, ?_⟩
    · rw [hplain]
      exact s.guard_setGuard _ p false
    · rw [Dev.reg_accessEvent, if_neg hne]
      exact BitVec.setWidth_of_masked (by decide) hfields

end Keyed

/-! ### Plain fields, aliases and the owner's key -/

section Plain
variable {s : Dev} {p : Path} {off : Nat} (hup : s.pathUp p = true) (hreach : s.unreachable (dieOf off) = false) (v : Word32)
include hup hreach

/-- A write whose RW fields need no key, and what it makes of the fields. -/
theorem Dev.writeBar0_of_fields {i : RegInfo} (htest : (s.die (dieOf off)).testMode = false) (hw : windowOf off < 0x20000)
    (hinfo : regInfo (dieOf off) (windowOf off) = some i) (hkind : i.kind = .plain) (hrw : i.rw ≠ 0) (hrwk : i.rwk = 0)
    (hkey : windowOf off ≠ 8) :
    ∃ regs, (∀ k, k ≠ regEvent (dieOf off) → ({ s with regs := regs } : Dev).reg k = s.reg k)
      ∧ s.writeBar0 p off v 0xF = ({ s.setGuard (dieOf off) p false with regs := regs } : Dev).place' (dieOf off) (windowOf off) i
          ((s.reg (regAt (dieOf off) (windowOf off)) &&& ~~~i.rw) ||| (v &&& i.rw)) := by
  have hother := fun k => (s.setGuard (dieOf off) p false).writeEvents_reg (dieOf off) (windowOf off) i
    (s.guard (dieOf off) p) v (.inr hrwk) (k := k)
  have hmerged := (s.setGuard (dieOf off) p false).mergeWrite_rw (dieOf off) (windowOf off) i (s.guard (dieOf off) p) v hrwk htest
  obtain ⟨regs, hevents⟩ := (s.setGuard (dieOf off) p false).writeEvents_eq (dieOf off) (windowOf off) i (s.guard (dieOf off) p) v
  refine ⟨regs, fun k hk => ?_, ?_⟩
  · have hsame := hother k hk
    rw [hevents] at hsame
    exact hsame
  · rw [Dev.writeBar0_of_register hup hreach v hw hkey hinfo, Dev.writeRegister_of_plain _ _ _ _ _ hrwk,
      Dev.writePlain_of_fields _ _ _ _ _ _ (.inl hrw) hkind, hevents, hmerged]
    rfl

/-- A word of RW fields taken at once. -/
theorem Dev.writeBar0_now {i : RegInfo} (htest : (s.die (dieOf off)).testMode = false) (hw : windowOf off < 0x20000)
    (hinfo : regInfo (dieOf off) (windowOf off) = some i) (hkind : i.kind = .plain) (hrw : i.rw ≠ 0) (hrwk : i.rwk = 0)
    (hkey : windowOf off ≠ 8) (hnow : i.apply ≠ .step ∨ s.slotOwner (dieOf off) (windowOf off) = false) :
    ∃ r, s.writeBar0 p off v 0xF = r
      ∧ r.reg (regAt (dieOf off) (windowOf off))
        = ((s.reg (regAt (dieOf off) (windowOf off)) &&& ~~~i.rw) ||| (v &&& i.rw))
      ∧ r.slots = Tab.set none s.slots (regAt (dieOf off) (windowOf off)) none ∧ r.guard (dieOf off) p = false
      ∧ (∀ k, k ≠ regAt (dieOf off) (windowOf off) → k ≠ regEvent (dieOf off) → r.reg k = s.reg k) ∧ r.mem = s.mem := by
  obtain ⟨regs, hother, hwrite⟩ := Dev.writeBar0_of_fields hup hreach v htest hw hinfo hkind hrw hrwk hkey
  refine ⟨_, hwrite.trans (Dev.place'_of_now _ _ _ _ _ hnow), (Dev.reg_setReg ..).trans (if_pos rfl), rfl,
    s.guard_setGuard _ p false, fun k hk hevent => (Dev.reg_setReg ..).trans ((if_neg hk).trans (hother k hevent)), rfl⟩

theorem Dev.writeBar0_step {i : RegInfo} (htest : (s.die (dieOf off)).testMode = false) (hw : windowOf off < 0x20000)
    (hinfo : regInfo (dieOf off) (windowOf off) = some i) (hkind : i.kind = .plain) (hrw : i.rw ≠ 0) (hrwk : i.rwk = 0)
    (hkey : windowOf off ≠ 8) (hstep : i.apply = .step) (howned : s.slotOwner (dieOf off) (windowOf off) = true) :
    ∃ r, s.writeBar0 p off v 0xF = r
      ∧ r.reg (regAt (dieOf off) (windowOf off)) = s.reg (regAt (dieOf off) (windowOf off))
      ∧ Tab.get none r.slots (regAt (dieOf off) (windowOf off))
        = some ((s.reg (regAt (dieOf off) (windowOf off)) &&& ~~~i.rw) ||| (v &&& i.rw)) ∧ r.mem = s.mem := by
  have hne : regAt (dieOf off) (windowOf off) ≠ regEvent (dieOf off) := by
    refine regAt_ne_of_window (fun hevent => hrw ?_) _
    rw [hevent] at hinfo
    cases hinfo
    rfl
  obtain ⟨regs, hother, hwrite⟩ := Dev.writeBar0_of_fields hup hreach v htest hw hinfo hkind hrw hrwk hkey
  exact ⟨_, hwrite.trans (Dev.place'_of_step _ _ _ _ _ hstep howned), hother _ hne, Laws.Tab.get_set_same .., rfl⟩

end Plain

theorem twoPow_ne_zero {n : Nat} (hn : n < 32) : BitVec.twoPow 32 n ≠ 0 := fun hzero => by
  have hbit := congrArg (BitVec.getLsbD · n) hzero
  simp [hn] at hbit

/-- A 1 written to the register that clears an RC bit clears it; nothing else does anything. -/
theorem Dev.writeAlias_of_info (s : Dev) (d w : Nat) (v : Word32) {i : RegInfo} (hinfo : regInfo d (aliasReg w) = some i) :
    s.writeAlias d w v = if v.getLsbD 0 && (i.rc &&& BitVec.twoPow 32 (aliasBit w)) != 0 then
        s.setReg (regAt d (aliasReg w)) (s.reg (regAt d (aliasReg w)) &&& ~~~BitVec.twoPow 32 (aliasBit w))
      else s := by
  rw [BitVec.twoPow_eq]
  fun_cases Dev.writeAlias
  case case1 hnone => exact absurd (hnone.symm.trans hinfo) nofun
  case case2 hsome _ hbit =>
    cases hsome.symm.trans hinfo
    rw [if_pos hbit]
  case case3 hsome _ hbit =>
    cases hsome.symm.trans hinfo
    rw [if_neg hbit]

theorem Dev.writeAlias_reg (s : Dev) (d w : Nat) (v : Word32) {i : RegInfo} (hinfo : regInfo d (aliasReg w) = some i)
    (hbit : aliasBit w < 32) : ∃ regs, s.writeAlias d w v = { s with regs := regs }
      ∧ ({ s with regs := regs } : Dev).reg (regAt d (aliasReg w)) = s.reg (regAt d (aliasReg w))
          &&& ~~~(if v.getLsbD 0 then i.rc &&& BitVec.twoPow 32 (aliasBit w) else 0)
      ∧ (∀ k, k ≠ regAt d (aliasReg w) → ({ s with regs := regs } : Dev).reg k = s.reg k) := by
  rw [Dev.writeAlias_of_info s d w v hinfo]
  generalize aliasReg w = w', aliasBit w = n at *
  cases v.getLsbD 0 with
  | false =>
    refine ⟨s.regs, if_neg Bool.false_ne_true, ?_, fun _ _ => rfl⟩
    rw [if_neg Bool.false_ne_true]
    exact BitVec.and_allOnes.symm
  | true =>
    rw [if_pos rfl, Bool.true_and, BitVec.and_twoPow]
    cases i.rc.getLsbD n with
    | false =>
      rw [if_neg Bool.false_ne_true]
      exact ⟨s.regs, if_neg (by decide), BitVec.and_allOnes.symm, fun _ _ => rfl⟩
    | true =>
      rw [if_pos rfl, if_pos (bne_iff_ne.2 (twoPow_ne_zero hbit))]
      exact ⟨_, rfl, (Dev.reg_setReg ..).trans (if_pos rfl), fun k hk => (Dev.reg_setReg ..).trans (if_neg hk)⟩

theorem aliasBit_lt (w : Nat) : aliasBit w < 32 := by
  simp only [aliasBit]
  omega

section LinkScope
variable (s r : Dev)

theorem Dev.linkWriteScope_port (p : PortId) : (s.linkWriteScope r).port p = r.port p := s.linkScope_port r p
theorem Dev.linkWriteScope_guard (d : Nat) (p : Path) : (s.linkWriteScope r).guard d p = r.guard d p := rfl

end LinkScope

/-- A pod route is a word of RW fields, taken at once. -/
theorem regInfo_podRoute : ∀ i : Fin 64, regInfo 48 (0x13400 + 4 * i.val) = some { kind := .plain, rw := allOnes32, apply := .flit } := by
  decide

theorem Dev.podRouteWrite_spec {s : Dev} {p : Path} (hup : s.pathUp p = true) (hreach : s.unreachable 48 = false)
    (htest : (s.die 48).testMode = false) (i : Fin 64) (v : Word32) :
    ∃ r, s.writeBar0 p (klxReg 0 (0x400 + 4 * i.val)) v 0xF = r ∧ r.reg (klxReg 0 (0x400 + 4 * i.val)) = v
      ∧ (∀ k, k ≠ klxReg 0 (0x400 + 4 * i.val) → r.reg k = s.reg k) := by
  have hoff : klxReg 0 (0x400 + 4 * i.val) = regAt 48 (0x13400 + 4 * i.val) := by
    simp only [klxReg, linkDie, regAt]
    omega
  rw [hoff]
  have hd := dieOf_regAt (by omega : 0x13400 + 4 * i.val < 0x40000) 48
  have hw := windowOf_regAt (by omega : 0x13400 + 4 * i.val < 0x40000) (by omega) 48
  have hwrite := Dev.writeBar0_of_register hup (by rw [hd]; exact hreach) v (by rw [hw]; omega) (by rw [hw]; omega)
    (by rw [hd, hw]; exact regInfo_podRoute i)
  rw [hd, hw] at hwrite
  generalize hd2 : s.setGuard 48 p false = d at hwrite
  have hnone : ({ kind := .plain, rw := allOnes32, apply := .flit } : RegInfo).reserved = 0 := by decide
  have hevents := d.writeEvents_of_noKeyed 48 (0x13400 + 4 * i.val) (i := { kind := .plain, rw := allOnes32, apply := .flit })
    (s.guard 48 p) v rfl
    (by simp only [Dev.reservedValue, hnone]; exact BitVec.and_zero.trans BitVec.and_zero.symm)
  rw [Dev.writeRegister_of_plain _ _ _ _ _ rfl, Dev.writePlain_of_fields _ _ _ _ _ _ (.inl (by decide)) rfl, hevents,
    Dev.place'_of_now _ _ _ _ _ (.inl (by decide)), Dev.mergeWrite_rw _ _ _ _ _ _ rfl (by rw [← hd2]; exact htest)] at hwrite
  have hall : ∀ x : Word32, (x &&& ~~~allOnes32) ||| (v &&& allOnes32) = v := fun x => by
    rw [show ~~~allOnes32 = 0#32 by decide, show allOnes32 = BitVec.allOnes 32 by decide, BitVec.and_zero, BitVec.zero_or,
      BitVec.and_allOnes]
  refine ⟨_, hwrite, (Dev.reg_setReg ..).trans ((if_pos rfl).trans (hall _)), fun k hk => (Dev.reg_setReg ..).trans ((if_neg hk).trans ?_)⟩
  rw [← hd2]
  rfl

theorem vfOf_val : ∀ h : HoldId, (vfOf h).val = h.val + 1 := by decide

theorem holdingOfFn_vfOf : ∀ h : HoldId, holdingOfFn (vfOf h) = some h := by decide

theorem vfOf_ne_zero : ∀ h : HoldId, vfOf h ≠ 0 := by decide

section OwnerKey
variable (h : HoldId) (k : Fin 8)

theorem abortTarget_of_key : abortTarget (vfOf h) (0x300 + 4 * k.val) = none := by
  rw [abortTarget, if_neg (by omega), if_neg (fun hpf => vfOf_ne_zero h hpf.1)]

theorem statusTarget_of_key : statusTarget (vfOf h) (0x300 + 4 * k.val) = none := by
  rw [statusTarget, if_neg (by omega), if_neg (fun hpf => vfOf_ne_zero h hpf.1)]

variable (s : Dev) (v : Word32) (hcut : s.hostCut = false)
include hcut

theorem Dev.writeWindow_key : s.writeWindow (vfOf h) (0x300 + 4 * k.val) v = s.modHolding h fun x =>
    if x.state == .disabled && !x.keyLocked then { x with ownerKey := x.ownerKey.set k.val v } else x := by
  have hword : (0x300 + 4 * k.val - 0x300) / 4 = k.val := by omega
  simp only [Dev.writeWindow, abortTarget_of_key, statusTarget_of_key]
  rw [if_neg (by rw [hcut]; decide), if_neg (by omega), if_pos (by omega), hword]
  simp only [Dev.writeKey, holdingOfFn_vfOf]

/-- A word of a holding's owner key, at its offset in its function's window. -/
theorem Dev.writeBar2_key {off : Nat} (hoff : off = (vfOf h).val * 0x10000 + 0x300 + 4 * k.val) :
    s.writeBar2 (vfOf h) off v 0xF = s.modHolding h fun x =>
      if x.state == .disabled && !x.keyLocked then { x with ownerKey := x.ownerKey.set k.val v } else x := by
  have hword : (off - (vfOf h).val * 0x10000) / 4 * 4 = 0x300 + 4 * k.val := by omega
  have hmine : (decide ((vfOf h).val * 0x10000 ≤ off) && decide (off < (vfOf h).val * 0x10000 + 0x10000)) = true := by
    rw [Bool.and_eq_true, decide_eq_true_eq, decide_eq_true_eq]
    omega
  simp only [Dev.writeBar2]
  rw [if_neg (by decide), if_pos hmine, hword]
  exact s.writeWindow_key h k v hcut

end OwnerKey

/-- Settles O57: the guard by what a key makes of it, and each write by the fields it takes. -/
theorem writesTakeTheirFieldsUnderTheKey : Obligations.WritesTakeTheirFieldsUnderTheKey := by
  unfold Obligations.WritesTakeTheirFieldsUnderTheKey
  refine ⟨⟨fun s p d v hreach => ⟨fun hkey => ?_, fun hwrong => ?_, ?_⟩, fun s p off v i => ?_, fun s p port v hup hreach hheld => ?_,
    fun s p v hup hreach hheld => ?_, fun s p d v hup hreach hdroop hheld => ?_⟩, fun s p off v i => ?_,
    fun s p i v hup hreach htest => ?_, fun s p h k v hcut => ?_⟩
  · refine ⟨{ s with dev := s.dev.regScope (s.dev.guardUnlock p d.val v) }, rfl, rfl, ?_⟩
    rw [Dev.guardUnlock, if_neg (by rw [hreach]; decide), Dev.writeGuard, if_pos hkey]
    exact ⟨s.dev.guard_setGuard _ p true, rfl⟩
  · refine ⟨{ s with dev := s.dev.regScope (s.dev.guardUnlock p d.val v) }, rfl, rfl, ?_⟩
    rw [Dev.guardUnlock, if_neg (by rw [hreach]; decide), Dev.writeGuard, if_neg hwrong]
    obtain ⟨hcount, htold, _⟩ := (s.dev.setGuard d.val p false).guardFail_reg d.val evKeyWrong
    exact ⟨s.dev.guard_setGuard _ p false, hcount, htold⟩
  · exact ⟨{ s with dev := s.dev.regScope (s.dev.guardTimeout p d.val) }, rfl, rfl, s.dev.guard_setGuard _ p false, rfl, rfl⟩
  · dsimp only
    intro hup hlatched hreach htest hw hkey hinfo hrw hrwk
    obtain ⟨hcount, htold, hother⟩ := (s.dev.setGuard (dieOf off.toNat) p false).writeEvents_missing (dieOf off.toNat)
      (windowOf off.toNat) i v hrwk
    obtain ⟨regs, hevents⟩ := (s.dev.setGuard (dieOf off.toNat) p false).writeEvents_eq (dieOf off.toNat)
      (windowOf off.toNat) i false v
    refine ⟨{ s with dev := s.dev.writeBar0 p off.toNat v 0xF }, rfl, rfl, ?_⟩
    dsimp only
    rw [Dev.writeBar0_of_register hup hreach v hw hkey hinfo, hlatched, Dev.writeRegister_of_noKey,
      Dev.writePlain_of_noField (s.dev.setGuard (dieOf off.toNat) p false) _ _ _ _ hrw (.inl rfl) htest]
    rw [hevents] at hcount htold hother ⊢
    exact ⟨hcount, htold, hother, rfl, rfl, rfl, rfl⟩
  · obtain ⟨r, hwrite, hbit, hguard, hstate, hmem⟩ := Dev.klxCtrlWrite_spec hup port hreach hheld v
    refine ⟨{ s with dev := s.dev.linkWriteScope (s.dev.writeBar0 p (klxReg port 4) v 0xF) }, rfl, rfl, ?_⟩
    rw [hwrite]
    dsimp only
    rw [Dev.reg_of_regs (Dev.linkWriteScope_regs ..), Dev.linkWriteScope_guard, Dev.linkWriteScope_port, Dev.linkWriteScope_mem]
    exact ⟨hbit, hguard, hstate, hmem⟩
  · obtain ⟨r, hwrite, hguard, hfields⟩ := Dev.klxDeviceNumWrite_spec hup hreach hheld v
    refine ⟨{ s with dev := s.dev.regScope (s.dev.writeBar0 p (klxReg 0 0x300) v 0xF) }, rfl, rfl, ?_⟩
    rw [hwrite]
    exact ⟨hguard, hfields⟩
  · obtain ⟨r, hwrite, hguard, hfields⟩ := Dev.clkDroopCfgWrite_spec hup hreach hdroop hheld v
    refine ⟨{ s with dev := s.dev.regScope (s.dev.writeBar0 p (regAt d.val 0x19000) v 0xF) }, rfl, rfl, ?_⟩
    rw [hwrite]
    exact ⟨hguard, hfields⟩
  · dsimp only
    intro hup hreach htest
    refine ⟨fun hw hkey hinfo hkind hrw hrwk => ⟨fun hnow => ?_, fun hstep howned => ?_⟩, fun en hpart => ?_, fun hw hinfo => ?_⟩
    · obtain ⟨r, hwrite, hspec⟩ := Dev.writeBar0_now hup hreach v htest hw hinfo hkind hrw hrwk hkey hnow
      refine ⟨{ s with dev := s.dev.writeBar0 p off.toNat v 0xF }, rfl, rfl, ?_⟩
      rw [hwrite]
      exact hspec
    · obtain ⟨r, hwrite, hspec⟩ := Dev.writeBar0_step hup hreach v htest hw hinfo hkind hrw hrwk hkey hstep howned
      refine ⟨{ s with dev := s.dev.writeBar0 p off.toNat v 0xF }, rfl, rfl, ?_⟩
      rw [hwrite]
      exact hspec
    · refine ⟨{ s with dev := s.dev.writeBar0 p off.toNat v en }, rfl, rfl, ?_⟩
      dsimp only
      rw [Dev.writeBar0_partial hup hreach v hpart]
      exact ⟨s.dev.guard_setGuard _ p false, (Dev.reg_accessEvent ..).trans (if_pos rfl),
        fun k hk => (Dev.reg_accessEvent ..).trans (if_neg hk), rfl, rfl⟩
    · obtain ⟨regs, hwrite, hreg, hother⟩ := (s.dev.setGuard (dieOf off.toNat) p false).writeAlias_reg (dieOf off.toNat)
        (windowOf off.toNat) v hinfo (aliasBit_lt _)
      rw [BitVec.twoPow_eq] at hreg
      refine ⟨{ s with dev := s.dev.writeBar0 p off.toNat v 0xF }, rfl, rfl, ?_⟩
      dsimp only
      rw [Dev.writeBar0_alias hup hreach v hw, hwrite]
      exact ⟨s.dev.guard_setGuard _ p false, hreg, hother, rfl⟩
  · obtain ⟨r, hwrite, hreg, hother⟩ := Dev.podRouteWrite_spec hup hreach htest i v
    refine ⟨{ s with dev := s.dev.regScope (s.dev.writeBar0 p (klxReg 0 (0x400 + 4 * i.val)) v 0xF) }, rfl, rfl, ?_⟩
    rw [hwrite]
    exact ⟨hreg, hother⟩
  · dsimp only
    refine ⟨{ s with dev := s.dev.writeBar2 (vfOf h) (BitVec.ofNat 24 ((vfOf h).val * 0x10000 + 0x300 + 4 * k.val)).toNat v 0xF },
      rfl, rfl, ?_⟩
    have hoff : (BitVec.ofNat 24 ((vfOf h).val * 0x10000 + 0x300 + 4 * k.val)).toNat = (vfOf h).val * 0x10000 + 0x300 + 4 * k.val := by
      rw [BitVec.toNat_ofNat, vfOf_val]
      omega
    rw [Dev.writeBar2_key h k s.dev v hcut hoff]
    refine ⟨?_, rfl, rfl⟩
    dsimp only
    rw [Dev.holding_modHolding, if_pos rfl]
    split <;> rfl

end Sys2Proof.Machine

/-! The host's apertures (R252, R253, R438, R551). -/

namespace Sys2Proof.Machine

theorem Dev.memScope_self (s : Dev) : s.memScope s = s := rfl

/-! ### BAR4 -/

section Bar4
variable {s : Dev} {f : FnId} {h : HoldId} (hfn : holdingOfFn f = some h)
include hfn

theorem Dev.bar4Read_of_outside {va n : Nat} (hout : s.inBar4 va n = false) : s.bar4Read f va n = s := by
  simp only [Dev.bar4Read, hfn]
  exact if_pos (by rw [hout]; decide)

theorem Dev.bar4Read_of_unserved {va n : Nat} (hin : s.inBar4 va n = true) (hserves : (s.holding h).servesBar4 = false) :
    s.bar4Read f va n = s.emit (.bar4Status f .unsupported) := by
  simp only [Dev.bar4Read, hfn]
  rw [if_neg (by rw [hin]; decide), if_pos (by rw [hserves]; decide)]

/-- A read of a served holding's memory answers with its bytes, or aborts. -/
theorem Dev.bar4Read_of_served {va n : Nat} (hin : s.inBar4 va n = true) (hserves : (s.holding h).servesBar4 = true)
    {x : List PByte × Run} (hread : ({ dev := s } : Run).read (ctlAgent h) va n = x) (hready : x.2.wait = false) :
    s.bar4Read f va n = x.2.dev.emit (if x.2.faulted then .bar4Status f .abort else .bar4Data f x.1) := by
  simp only [Dev.bar4Read, hfn, hread]
  rw [if_neg (by rw [hin]; decide), if_neg (by rw [hserves]; decide), if_neg (by rw [hready]; decide)]
  cases x.2.faulted <;> rfl

theorem Dev.bar4Write_of_served {va : Nat} {data : List PByte} (hserves : (s.holding h).servesBar4 = true)
    (hin : s.inBar4 va data.length = true) : s.bar4Write f va data = s.writeVa (ctlAgent h) false va data := by
  simp only [Dev.bar4Write, hfn]
  exact if_pos (by rw [hserves, hin]; decide)

theorem Dev.bar4Write_of_unserved {va : Nat} {data : List PByte}
    (hout : (s.holding h).servesBar4 = false ∨ s.inBar4 va data.length = false) : s.bar4Write f va data = s := by
  simp only [Dev.bar4Write, hfn]
  refine if_neg ?_
  rcases hout with hserves | hin
  · simp [hserves]
  · simp [hin]

end Bar4

/-! ### Completions of outbound reads -/

section HostReads
variable (s : Dev)

/-- The bytes that a core's buffer of host data then holds. -/
theorem Dev.landHost_hostBuf (c : CoreId) (addr : Nat) {data : List PByte} {i : Nat} (hi : i < data.length) :
    Tab.get none ((s.landHost c addr data).core c).hostBuf (addr + i) = data[i]? := by
  rw [Dev.landHost, Dev.core_modCore, if_pos rfl]
  dsimp only
  rw [Laws.Tab.get_setList, dif_pos ⟨by omega, by rw [List.length_map]; omega⟩]
  simp [hi]

theorem flatMap_eq_filter {α : Type} [DecidableEq α] (r : α) (l : List α) :
    (l.flatMap fun q => if q = r then [] else [q]) = l.filter fun q => q != r := by
  induction l with
  | nil => rfl
  | cons q l ih =>
    by_cases hq : q = r
    · simp [hq, ih]
    · simp [hq, ih]

/-- A completion with all the data that its read still waits for. -/
theorem Dev.hostCompletion_whole {tag : Nat} {r : HostRead} (hread : (s.hostReads.find? fun q => q.tag == tag) = some r)
    {data : List PByte} (hwhole : data.length = r.bytes) :
    s.hostCompletion tag .ok data
      = ({ s with hostReads := s.hostReads.filter fun q => q != r } : Dev).landHost r.core r.addr data := by
  have hgot : data.take r.bytes = data := List.take_of_length_le (by omega)
  have hrest : r.bytes - data.length = 0 := by omega
  simp only [Dev.hostCompletion, hread, hgot, hrest, if_true]
  rw [flatMap_eq_filter]

theorem Dev.hostCompletion_failed {tag : Nat} {r : HostRead} (hread : (s.hostReads.find? fun q => q.tag == tag) = some r)
    {st : CplStatus} (hst : st ≠ .ok) (data : List PByte) : s.hostCompletion tag st data = s.failHost r := by
  simp only [Dev.hostCompletion, hread]

theorem Dev.hostTimeout_failed {tag : Nat} {r : HostRead} (hread : (s.hostReads.find? fun q => q.tag == tag) = some r) :
    s.hostTimeout tag = s.failHost r := by
  simp only [Dev.hostTimeout, hread]

/-- A failed read lands poisoned, and is counted. -/
theorem Dev.failHost_spec (r : HostRead) :
    (s.failHost r).hostReads = s.hostReads.filter (fun q => q != r)
      ∧ (∀ i < r.bytes, (Tab.get none ((s.failHost r).core r.core).hostBuf (r.addr + i)).map (·.poison) = some true)
      ∧ (s.failHost r).ctr (regAt ctl 0x17010) = addStop64 (s.ctr (regAt ctl 0x17010)) 1 ∧ (s.failHost r).mem = s.mem := by
  refine ⟨rfl, fun i hi => ?_, Dev.ctr_count_same _ none _ _, rfl⟩
  have hlands := ({ s with hostReads := s.hostReads.filter fun q => q != r } : Dev).landHost_hostBuf r.core r.addr
    (data := poisonedBytes r.addr r.bytes) (i := i) (by simpa [poisonedBytes] using hi)
  obtain ⟨b, hb, hpoison⟩ := poisonedBytes_poison (a := r.addr) hi
  rw [hb] at hlands
  exact (congrArg (Option.map (·.poison)) hlands).trans (congrArg some hpoison)

end HostReads

/-- Settles O41: each access of BAR4 by whether its holding is served, and each completion by its status. -/
theorem hostAperturesReachHoldingMemory : Obligations.HostAperturesReachHoldingMemory := by
  unfold Obligations.HostAperturesReachHoldingMemory
  intro s hup
  have hwork : ∀ r : Dev, work s (s.dev.memScope r) = .next { s with dev := s.dev.memScope r } := fun r => work_clocked s _ hup
  refine ⟨fun f va n => ⟨fun hcase => ?_, fun h hfn hout => ?_, fun h hfn hserves hin => ?_⟩,
    fun f va data h hfn => ⟨fun hserves hin => ?_, fun hout => ?_⟩, fun tag r hread => ⟨fun data hwhole => ?_, fun i hi => ?_⟩⟩
  · have hread : s.dev.bar4Read f va.toNat n = s.dev.emit (.bar4Status f .unsupported) := by
      rcases hcase with hnone | ⟨h, hfn, hserves, hin⟩
      · simp only [Dev.bar4Read, hnone]
      · exact Dev.bar4Read_of_unserved hfn hin hserves
    refine ⟨_, hwork (s.dev.bar4Read f va.toNat n), rfl, ?_⟩
    rw [hread]
    exact ⟨Dev.memScope_outbox .., Dev.memScope_mem ..⟩
  · change work s (s.dev.memScope (s.dev.bar4Read f va.toNat n)) = _
    rw [Dev.bar4Read_of_outside hfn hout, Dev.memScope_self, work_self]
  · dsimp only
    intro hready
    have hread := Dev.bar4Read_of_served hfn hin hserves rfl hready
    generalize ({ dev := s.dev } : Run).read (ctlAgent h) va.toNat n = x at hread ⊢
    refine ⟨_, hwork (s.dev.bar4Read f va.toNat n), rfl, ?_⟩
    rw [hread]
    exact ⟨Dev.memScope_outbox .., Dev.memScope_queues ..⟩
  · refine ⟨_, hwork (s.dev.bar4Write f va.toNat data), rfl, ?_⟩
    rw [Dev.bar4Write_of_served hfn hserves hin]
    exact ⟨Dev.memScope_mem .., Dev.memScope_queues ..⟩
  · change work s (s.dev.memScope (s.dev.bar4Write f va.toNat data)) = _
    rw [Dev.bar4Write_of_unserved hfn hout, Dev.memScope_self, work_self]
  · refine ⟨_, hwork (s.dev.hostCompletion tag .ok data), rfl, ?_⟩
    rw [Dev.hostCompletion_whole _ hread hwhole]
    exact ⟨Dev.memScope_hostReads .., fun j hj => Dev.landHost_hostBuf _ r.core r.addr (by omega), Dev.memScope_mem ..,
      Dev.memScope_ctrs ..⟩
  · have hends : ∃ d, exec i s = work s (s.dev.memScope d) ∧ d = s.dev.failHost r := by
      rcases hi with rfl | ⟨st, data, hst, rfl⟩
      · exact ⟨_, rfl, s.dev.hostTimeout_failed hread⟩
      · exact ⟨_, rfl, s.dev.hostCompletion_failed hread hst data⟩
    obtain ⟨d, hexec, hd⟩ := hends
    obtain ⟨hreads, hpoison, hctr, hmem⟩ := s.dev.failHost_spec r
    rw [← hd] at hreads hpoison hctr hmem
    exact ⟨_, hexec.trans (hwork d), rfl, (Dev.memScope_hostReads ..).trans hreads, hpoison,
      (ctr_of_ctrs (Dev.memScope_ctrs ..) _).trans hctr, (Dev.memScope_mem ..).trans hmem⟩

end Sys2Proof.Machine

/-! What an abort leaves of a device (R320, R439 to R441, R466). -/

namespace Sys2Proof.Machine

/-! ### What notices and the clearing of cores stand beside -/

/-- A device without what notices, cleared cores and the egress hold change, with the kernels of its holdings. -/
def Dev.besideAbort (s : Dev) : Dev × (HoldId → Holding) :=
  ({ s.untold with cores := [], egress := [], hostReads := [], slots := [] }, fun k => (s.holding k).kernel)

section Beside
variable {s t : Dev}

theorem Dev.besideAbort_of (hrest : t.untold = s.untold) (hkernel : ∀ k, (t.holding k).kernel = (s.holding k).kernel) :
    t.besideAbort = s.besideAbort :=
  Prod.ext (congrArg (fun d : Dev => { d with cores := [], egress := [], hostReads := [], slots := [] }) hrest) (funext hkernel)

theorem Dev.besideAbort_of_tells (htells : s.Tells t) (hkernel : ∀ k, (t.holding k).kernel = (s.holding k).kernel) :
    t.besideAbort = s.besideAbort := Dev.besideAbort_of htells.untold hkernel

variable (h : t.besideAbort = s.besideAbort)
include h

theorem Dev.kernel_of_besideAbort (k : HoldId) : (t.holding k).kernel = (s.holding k).kernel := congrFun (congrArg Prod.snd h) k
theorem Dev.dt_of_besideAbort : t.dt = s.dt := (congrArg (·.1.dt) h :)
theorem Dev.mem_of_besideAbort : t.mem = s.mem := (congrArg (·.1.mem) h :)
theorem Dev.tags_of_besideAbort : t.tags = s.tags := (congrArg (·.1.tags) h :)
theorem Dev.queues_of_besideAbort : t.queues = s.queues := (congrArg (·.1.queues) h :)
theorem Dev.boxes_of_besideAbort : t.boxes = s.boxes := (congrArg (·.1.boxes) h :)
theorem Dev.gotre_of_besideAbort : t.gotre = s.gotre := (congrArg (·.1.gotre) h :)
theorem Dev.pend_of_besideAbort : t.pend = s.pend := (congrArg (·.1.pend) h :)

end Beside

/-- The same of what changes neither the links nor the gates. -/
def Dev.besideClear (s : Dev) : Dev × (HoldId → Holding) :=
  ({ s with
      regs := [], ctrs := [], shadow := [], outbox := [], free := 0, holdings := [], cores := [], egress := [], hostReads := []
      slots := [] }, fun k => (s.holding k).kernel)

theorem Dev.besideClear_of {s t : Dev} (hrest : t.besideClear.1 = s.besideClear.1)
    (hkernel : ∀ k, (t.holding k).kernel = (s.holding k).kernel) : t.besideClear = s.besideClear :=
  Prod.ext hrest (funext hkernel)

theorem Dev.besideAbort_of_clear {s t : Dev} (h : t.besideClear = s.besideClear) : t.besideAbort = s.besideAbort :=
  Prod.ext (congrArg (fun x => { x.1.untold with cores := [], egress := [], hostReads := [], slots := [] }) h :)
    (funext fun k => congrFun (congrArg Prod.snd h) k)

theorem Dev.gate_of_besideClear {s t : Dev} (h : t.besideClear = s.besideClear) : t.gate = s.gate := (congrArg (·.1.gate) h :)

section Steps
variable (s : Dev)

theorem Dev.count_besideClear (o : Option HoldId) (a n : Nat) : (s.count o a n).besideClear = s.besideClear :=
  Dev.besideClear_of rfl (Dev.kernel_of_standing (s.count_standing o a n))

theorem Dev.countFree_besideClear (o : Option HoldId) (a : Nat) : (s.countFree o a).besideClear = s.besideClear :=
  Dev.besideClear_of rfl (Dev.kernel_of_standing (s.countFree_standing o a))

theorem Dev.drainEgress_besideClear (l : List EgressItem) : (s.drainEgress l).besideClear = s.besideClear := by
  induction l generalizing s with
  | nil => rfl
  | cons i l ih =>
    unfold Dev.drainEgress
    split
    · rfl
    · refine (ih _).trans ?_
      unfold Dev.endEgress
      split
      · exact s.count_besideClear ..
      · rfl

theorem Dev.settleEgress_besideClear (mine : EgressItem → Bool) (kind : Clearance) :
    (s.settleEgress mine kind).besideClear = s.besideClear := by
  unfold Dev.settleEgress
  extract_lets hit s1
  have hcounted : s1.besideClear = s.besideClear :=
    foldl_preserves Dev.besideClear (f := fun d i => d.heldCycles i.holding) (fun d i => d.countFree_besideClear ..) s hit
  split
  · rfl
  · exact (Dev.drainEgress_besideClear _ _).trans hcounted

theorem Dev.countSquash_besideClear (o : Option HoldId) (c : CoreId) (bytes bad : Nat) :
    (s.countSquash o c bytes bad).besideClear = s.besideClear := by
  unfold Dev.countSquash
  extract_lets s1
  have hbytes : s1.besideClear = s.besideClear := by
    unfold s1
    split
    · rfl
    · exact s.count_besideClear ..
  split
  · exact hbytes
  · exact (s1.count_besideClear ..).trans hbytes

theorem Dev.squash_besideClear (o : Option HoldId) (c : CoreId) (drop : PfSector → Bool) :
    (s.squash o c drop).besideClear = s.besideClear := by
  unfold Dev.squash
  extract_lets mine gone
  split
  · rfl
  · exact Dev.countSquash_besideClear ..

theorem Dev.releaseRetained_besideClear (t : Transfer) : (s.releaseRetained t).besideClear = s.besideClear := by
  unfold Dev.releaseRetained
  split <;> rfl

theorem Dev.squashAll_besideClear (o : Option HoldId) (c : CoreId) : (s.squashAll o c).besideClear = s.besideClear := by
  unfold Dev.squashAll
  extract_lets boxes came s1 s2
  have hsquashed : s1.besideClear = s.besideClear := s.squash_besideClear ..
  have hepoch : ∀ p : Prop, [Decidable p] → (if p then s1.modCore c Core.nextEpoch else s1).besideClear = s1.besideClear := by
    intro p _
    split <;> rfl
  have hcounted : s2.besideClear = s1.besideClear := by
    unfold s2
    split
    · rfl
    · exact (Dev.countSquash_besideClear ..).trans (hepoch _)
  exact (foldl_preserves Dev.besideClear (fun d t => d.releaseRetained_besideClear t)
    (s2.modCore c fun x => { x with inbox := [] }) boxes).trans (hcounted.trans hsquashed)

theorem Dev.releaseHelper_besideClear (c : CoreId) : (s.releaseHelper c).besideClear = s.besideClear := by
  unfold Dev.releaseHelper
  split <;> rfl

theorem Dev.send_besideAbort (dst : BitVec 16) (vc : Fin 4) (o : Owner) (m : OutMsg) :
    (s.send dst vc o m).besideAbort = s.besideAbort := by
  obtain ⟨-, -, -, hkernel⟩ := Dev.apartFromSends_eq_iff.1 (s.send_apart dst vc o m)
  exact Dev.besideAbort_of_tells (s.send_tells dst vc o m) hkernel

theorem Dev.abortNotice_besideAbort (h : HoldId) (e : BitVec 16) : (s.abortNotice h e).besideAbort = s.besideAbort := by
  unfold Dev.abortNotice
  extract_lets s1 away
  have hslots : s1.besideAbort = s.besideAbort := rfl
  exact (foldl_preserves Dev.besideAbort (fun d n => d.send_besideAbort ..) s1 away).trans hslots

end Steps

/-! ### The start of an abort -/

section Functions
variable (s : Dev) (h : HoldId)

/-- A function's change tells its host, and nothing else. -/
theorem Dev.setFunc_frame (f : Holding → Holding) :
    ∃ sent, s.setFunc h f = { s.setHolding h (f (s.holding h)) with outbox := sent } := by
  unfold Dev.setFunc
  extract_lets x y moved s1
  split
  · exact ⟨_, rfl⟩
  · exact ⟨s.outbox, rfl⟩

theorem Dev.holding_setFunc (f : Holding → Holding) (k : HoldId) :
    (s.setFunc h f).holding k = if k = h then f (s.holding h) else s.holding k := by
  obtain ⟨sent, hset⟩ := s.setFunc_frame h f
  rw [hset]
  exact Dev.holding_setHolding ..

/-- A holding as its abort begins. -/
def Dev.abortedHolding (s : Dev) (h : HoldId) (st : Status) (x : Holding) : Holding :=
  { x.discardStep with
    state := .aborting, epoch := nextEpoch (s.holding h).epoch, drainEnd := none
    settled := x.settled ++ x.disables.map (fun n => (n, st)) ++ (s.gotre.abortJobs h).2, disables := [] }

/-- The device as the abort begins, before its notices and the clearing of its cores. -/
def Dev.abortStart (s : Dev) (h : HoldId) (st : Status) : Dev :=
  let s1 := s.setFunc h (s.abortedHolding h st)
  { s1 with
    gotre := (s.gotre.abortJobs h).1
    gate := s1.gate.filter fun i => i.owner != Owner.holding h
    pend := s1.pend.filter fun p => p.owner != Owner.holding h
    service := s1.service.dropGrants h }

/-- The cores that are cleared, after the notices. -/
def Dev.abortCore (d : Dev) (h : HoldId) (c : CoreId) : Dev :=
  let d1 := ((d.releaseHelper c).squashAll (some h) c).modCore c Core.abort
  { d1.setReg (seqReg c 4) 0 with
    hostReads := d1.hostReads.filter fun r => r.core != c
    slots := (stepRegs c).foldl (fun t a => Tab.set none t a none) d1.slots }

/-- The counts of dropped tokens, and the notices. -/
def Dev.abortTold (s : Dev) (h : HoldId) (st : Status) : Dev :=
  let stale := ((s.holding h).batches.flatMap (·.waiting)).map fun m => drlReg (linkDie (homePort m.src)) 0x70
  ((stale.foldl (fun d a => d.count (some h) a 1) ((s.abortStart h st).event (regAt kpr 0x100) 2)).abortNotice h
    (nextEpoch (s.holding h).epoch)).settleEgress (fun i => i.holding == h) .pass

theorem Dev.beginAbort_eq (st : Status) : s.beginAbort h st
    = ((s.abortTold h st).holding h).coreIds.foldl (fun d c => d.abortCore h c) (s.abortTold h st) := rfl

theorem Dev.abortCore_besideClear (c : CoreId) : (s.abortCore h c).besideClear = s.besideClear := by
  have hcleared : (s.abortCore h c).besideClear = ((s.releaseHelper c).squashAll (some h) c).besideClear := rfl
  exact hcleared.trans ((Dev.squashAll_besideClear ..).trans (s.releaseHelper_besideClear c))

theorem Dev.abortCores_besideClear (l : List CoreId) : (l.foldl (fun d c => d.abortCore h c) s).besideClear = s.besideClear :=
  foldl_preserves Dev.besideClear (fun d c => d.abortCore_besideClear h c) s l

/-- Beside notices and cleared cores an abort leaves what its start made. -/
theorem Dev.beginAbort_besideAbort (st : Status) : (s.beginAbort h st).besideAbort = (s.abortStart h st).besideAbort := by
  have htold : (s.abortTold h st).besideAbort = (s.abortStart h st).besideAbort := by
    unfold Dev.abortTold
    extract_lets stale
    exact (Dev.besideAbort_of_clear (Dev.settleEgress_besideClear ..)).trans ((Dev.abortNotice_besideAbort ..).trans
      (foldl_preserves Dev.besideAbort (fun d a => Dev.besideAbort_of_clear (d.count_besideClear ..))
        ((s.abortStart h st).event (regAt kpr 0x100) 2) stale))
  rw [s.beginAbort_eq h st]
  exact (Dev.besideAbort_of_clear (Dev.abortCores_besideClear ..)).trans htold

/-- What the notices put into the gates is the device's own. -/
theorem Dev.send_device_gate (dst : BitVec 16) (vc : Fin 4) (m : OutMsg) {g : GateItem} (hg : g ∈ (s.send dst vc .device m).gate) :
    g ∈ s.gate ∨ g.owner = .device := by
  unfold Dev.send Dev.sendFrom at hg
  simp only [List.filter_nil, List.length_nil, if_true, ownerHolding] at hg
  have hfull : ∀ (d : Dev) (p : PortId), (d.noteFull none p).gate = d.gate := fun d p => by
    unfold Dev.noteFull
    split <;> rfl
  obtain ⟨k, hk, hgate⟩ := Dev.releaseGate_unsent (({ s with gate := _ } : Dev).noteFull none (s.homeOf dst)) _ []
  have hmem := hk ((congrArg Dev.gate hgate :) ▸ hg)
  rw [hfull] at hmem
  simp only [List.nil_append, List.mem_append, List.mem_singleton] at hmem
  exact hmem.imp id fun hown => by rw [hown]

theorem Dev.abortNotice_gate (e : BitVec 16) {g : GateItem} (hg : g ∈ (s.abortNotice h e).gate) : g ∈ s.gate ∨ g.owner = .device := by
  unfold Dev.abortNotice at hg
  dsimp only at hg
  generalize ((s.holding h).partners.filter fun d => podOf d != podOf s.number) = away at hg
  revert hg
  refine List.foldlRecOn (motive := fun d : Dev => g ∈ d.gate → g ∈ s.gate ∨ g.owner = .device) away _ Or.inl ?_
  intro d hd n _ hg
  exact (d.send_device_gate n 0 _ hg).elim hd Or.inr

/-- No message of an aborted holding waits at a gate. -/
theorem Dev.beginAbort_gate (st : Status) : ∀ g ∈ (s.beginAbort h st).gate, g.owner ≠ .holding h := by
  intro g hg
  rw [s.beginAbort_eq h st, Dev.gate_of_besideClear (Dev.abortCores_besideClear ..)] at hg
  unfold Dev.abortTold at hg
  dsimp only at hg
  rw [Dev.gate_of_besideClear (Dev.settleEgress_besideClear ..)] at hg
  rcases Dev.abortNotice_gate _ h _ hg with hkept | hown
  · rw [foldl_preserves Dev.gate (f := fun d a => d.count (some h) a 1) (fun d a => rfl) ((s.abortStart h st).event (regAt kpr 0x100) 2) _]
      at hkept
    have hkept : g ∈ (s.setFunc h (s.abortedHolding h st)).gate.filter fun i => i.owner != Owner.holding h := hkept
    exact bne_iff_ne.1 (List.mem_filter.1 hkept).2
  · rw [hown]
    nofun

/-- An abort as the rest of the device sees it. -/
theorem Dev.beginAbort_spec (st : Status) : ((s.beginAbort h st).holding h).kernel = (s.abortedHolding h st (s.holding h)).kernel
    ∧ (s.beginAbort h st).dt = s.dt ∧ (s.beginAbort h st).mem = s.mem ∧ (s.beginAbort h st).tags = s.tags
    ∧ (s.beginAbort h st).queues = s.queues ∧ (s.beginAbort h st).boxes = s.boxes
    ∧ (s.beginAbort h st).gotre = (s.gotre.abortJobs h).1 ∧ (∀ p ∈ (s.beginAbort h st).pend, p.owner ≠ .holding h) := by
  have hbeside := s.beginAbort_besideAbort h st
  obtain ⟨sent, hset⟩ := s.setFunc_frame h (s.abortedHolding h st)
  refine ⟨(Dev.kernel_of_besideAbort hbeside h).trans (congrArg Holding.kernel ?_), (Dev.dt_of_besideAbort hbeside).trans ?_,
    (Dev.mem_of_besideAbort hbeside).trans ?_, (Dev.tags_of_besideAbort hbeside).trans ?_,
    (Dev.queues_of_besideAbort hbeside).trans ?_, (Dev.boxes_of_besideAbort hbeside).trans ?_,
    Dev.gotre_of_besideAbort hbeside, fun p hp => ?_⟩
  · exact (s.holding_setFunc h _ h).trans (if_pos rfl)
  · exact (congrArg Dev.dt hset :)
  · exact (congrArg Dev.mem hset :)
  · exact (congrArg Dev.tags hset :)
  · exact (congrArg Dev.queues hset :)
  · exact (congrArg Dev.boxes hset :)
  · rw [Dev.pend_of_besideAbort hbeside] at hp
    have hp : p ∈ (s.setFunc h (s.abortedHolding h st)).pend.filter fun p => p.owner != Owner.holding h := hp
    exact bne_iff_ne.1 (List.mem_filter.1 hp).2

/-- A field of the aborted holding that accesses to memory leave alone. -/
theorem Dev.beginAbort_field (st : Status) {β : Type} (field : Holding → β) (hfield : ∀ x, field x.kernel = field x) :
    field ((s.beginAbort h st).holding h) = field (s.abortedHolding h st (s.holding h)) := by
  obtain ⟨hkernel, -⟩ := s.beginAbort_spec h st
  rw [← hfield, hkernel, hfield]

end Functions

end Sys2Proof.Machine

/-! The vote over digests (R400, R401). -/

namespace Sys2Proof.Machine

/-! ### What leaves votes and time alone -/

/-- Device time and the votes of the holdings. -/
def Dev.ballots (s : Dev) : Word64 × (HoldId → Option Vote) := (s.dt, fun k => (s.holding k).vote)

section Ballots
variable (s : Dev) (h : HoldId)

theorem Dev.ballots_of_kernel {s t : Dev} (hdt : t.dt = s.dt) (hkernel : ∀ k, (t.holding k).kernel = (s.holding k).kernel) :
    t.ballots = s.ballots := Prod.ext hdt (funext fun k => (congrArg Holding.vote (hkernel k) :))

theorem Dev.ballots_of_apart {s t : Dev} (h : t.apartFromSends = s.apartFromSends) : t.ballots = s.ballots := by
  obtain ⟨-, -, hdt, hkernel⟩ := Dev.apartFromSends_eq_iff.1 h
  exact Dev.ballots_of_kernel hdt hkernel

theorem Dev.modHolding_ballots {f : Holding → Holding} (hvote : (f (s.holding h)).vote = (s.holding h).vote) :
    (s.modHolding h f).ballots = s.ballots := by
  refine Prod.ext rfl (funext fun k => ?_)
  change ((s.modHolding h f).holding k).vote = _
  rw [Dev.holding_modHolding]
  split
  next hk =>
    subst hk
    exact hvote
  next => rfl

theorem Dev.freeTags_ballots : (s.freeTags h).ballots = s.ballots := by
  unfold Dev.freeTags
  split
  · rfl
  · exact s.modHolding_ballots h rfl

theorem Dev.cancelBatch_ballots (tag : Word32) (cause : CancelCause) (group : Option Nat) :
    (s.cancelBatch h tag cause group).ballots = s.ballots := by
  unfold Dev.cancelBatch
  extract_lets x new b s1 s2 s3
  split
  · exact s.freeTags_ballots h
  · have hretired : s1.ballots = s.ballots := by
      refine (Dev.modHolding_ballots _ h ?_).trans (Dev.ballots_of_apart (s.dropWaiting_apart h b))
      dsimp only
      split <;> rfl
    have htold : s2.ballots = s1.ballots := Dev.ballots_of_apart (s1.tellCancel_apart ..)
    have hcounted : s3.ballots = s2.ballots := by
      unfold s3
      split
      · rfl
      · exact foldl_preserves Dev.ballots (fun d k => Dev.ballots_of_apart
          (((d.countDrill h k 0x40 1).event_apart ..).trans (d.countDrill_apart ..))) s2 _
    exact (s3.freeTags_ballots h).trans (hcounted.trans (htold.trans hretired))

theorem Dev.drillLost_ballots (dev : BitVec 16) (owner : Option HoldId) : (s.drillLost h dev owner).ballots = s.ballots := by
  unfold Dev.drillLost
  exact foldl_preserves Dev.ballots (fun d b => d.cancelBatch_ballots ..) s _

/-- A device at whose holding no vote stands open, at a time. -/
def Dev.unvoted (s : Dev) (h : HoldId) (dt : Word64) : Prop := s.dt = dt ∧ (s.holding h).vote = none

theorem Dev.unvoted_congr {s t : Dev} {h : HoldId} {dt : Word64} (hsame : t.ballots = s.ballots) (hs : s.unvoted h dt) :
    t.unvoted h dt :=
  ⟨(congrArg Prod.fst hsame).trans hs.1, (congrFun (congrArg Prod.snd hsame) h).trans hs.2⟩

theorem Dev.abortHolding_unvoted {dt : Word64} (hs : s.unvoted h dt) : (s.abortHolding h).unvoted h dt := by
  have habort : ∀ st, (s.beginAbort h st).unvoted h dt := fun st => by
    obtain ⟨-, hdt, -⟩ := s.beginAbort_spec h st
    exact ⟨hdt.trans hs.1, s.beginAbort_field h st Holding.vote fun _ => rfl⟩
  unfold Dev.abortHolding
  split
  · exact habort _
  · exact habort _
  · exact habort _
  · exact hs

/-- The vote ends. -/
def Dev.endVote (s : Dev) (h : HoldId) : Dev := s.modHolding h fun y => { y with vote := none }

/-- The step of the vote that ends. -/
def Holding.voteStep (x : Holding) : Word32 := (x.vote.map (·.step)).getD x.step

/-- A holding rolled back: it is counted, told and held. -/
def Dev.rolledBack (s : Dev) (h : HoldId) : Dev :=
  ((((s.endVote h).count (some h) (regAt ctl 0x16018) 1).event (regAt ctl 0x100) 16).rollbackEvent h
    (s.holding h).voteStep).modHolding h fun y => { y with rollback := true, totals := { y.totals with rollback := true } }

/-- An expulsion as it is counted and told. -/
def Dev.expelled (s : Dev) (h : HoldId) : Dev :=
  ((s.endVote h).count (some h) (regAt ctl 0x16010) 1).event (regAt ctl 0x100) 8

/-- The expelled members' slots are dead from the next boundary on, and the batches that wait for them end. -/
def Dev.expelMembers (s : Dev) (h : HoldId) (odd : List Nat) (k : Collective) : Dev :=
  (odd.filterMap fun i => k.members[i]?).foldl (fun d m => d.drillLost h m none)
    ((s.expelled h).modHolding h fun y => { y with waiting := y.waiting ++ [.dead (s.holding h).digest.group odd] })

theorem Dev.actOn_clean : s.actOn h .clean = s.endVote h := rfl
theorem Dev.actOn_rollback : s.actOn h .rollback = s.rolledBack h := rfl

theorem Dev.actOn_expel (odd : List Nat) : s.actOn h (.expel odd)
    = (Tab.get none (s.holding h).collectives (s.holding h).digest.group).elim (s.expelled h) fun k =>
        if odd.any (fun i => k.members[i]? == some s.number) then (s.expelled h).abortHolding h else s.expelMembers h odd k := by
  simp only [Dev.actOn]
  cases Tab.get none (s.holding h).collectives (s.holding h).digest.group <;> rfl

theorem Dev.holding_endVote : (s.endVote h).holding h = { s.holding h with vote := none } :=
  (s.holding_modHolding ..).trans (if_pos rfl)

/-- Acting on a verdict ends the vote and takes no time. -/
theorem Dev.actOn_unvoted (v : Verdict) : (s.actOn h v).unvoted h s.dt := by
  have hended : (s.endVote h).unvoted h s.dt := ⟨rfl, congrArg Holding.vote (s.holding_endVote h)⟩
  cases v with
  | clean => exact hended
  | rollback =>
    have hcounted := Dev.ballots_of_apart ((s.endVote h).count_apart (some h) (regAt ctl 0x16018) 1)
    rw [s.actOn_rollback h]
    exact Dev.unvoted_congr ((Dev.modHolding_ballots _ h rfl).trans hcounted) hended
  | expel odd =>
    have hcounted : (s.expelled h).unvoted h s.dt :=
      Dev.unvoted_congr (Dev.ballots_of_apart ((s.endVote h).count_apart (some h) (regAt ctl 0x16010) 1)) hended
    rw [s.actOn_expel h odd]
    cases Tab.get none (s.holding h).collectives (s.holding h).digest.group with
    | none => exact hcounted
    | some k =>
      rw [Option.elim_some]
      split
      · exact Dev.abortHolding_unvoted _ h hcounted
      · refine Dev.unvoted_congr ?_ hcounted
        exact (foldl_preserves Dev.ballots (fun d m => d.drillLost_ballots ..) _ _).trans (Dev.modHolding_ballots _ h rfl)

/-- The coordinator's decision ends the vote and takes no time. -/
theorem Dev.decideVote_unvoted {v : Vote} {k : Collective} (hvote : (s.holding h).vote = some v) (hvoters : s.voters h = some k) :
    (s.decideVote h).unvoted h s.dt := by
  simp only [Dev.decideVote, hvote, hvoters]
  refine (?_ : ∀ d : Dev, d.dt = s.dt → (d.actOn h _).unvoted h s.dt) _ ?_
  · intro d hdt
    exact hdt ▸ d.actOn_unvoted h _
  · refine (foldl_preserves Dev.dt (fun d m => (d.send_tells ..).dt) _ _).trans ?_
    split <;> rfl

end Ballots

/-! ### Records and verdicts -/

section Votes
variable {s : Dev} {h : HoldId}

/-- A member's record that decides nothing yet is kept. -/
theorem Dev.takeDigest_of_news {r : DigestRec} {k : Collective} (hvoters : s.voters h = some k)
    (hlive : k.liveDevices.contains r.src = true) (hnone : (s.holding h).vote = none)
    (hstep : seqLe r.step (s.holding h).step = false)
    (hnew : ((s.holding h).digests.any fun q => q.src == r.src && q.step == r.step) = false) :
    s.takeDigest h r = s.modHolding h fun x => { x with digests := x.digests ++ [r] } := by
  have hopen : (s.modHolding h fun x => { x with digests := x.digests ++ [r] }).voteFull h = false := by
    have hvote : ((s.modHolding h fun x => { x with digests := x.digests ++ [r] }).holding h).vote = none := by
      rw [Dev.holding_modHolding, if_pos rfl]
      exact hnone
    simp only [Dev.voteFull, hvote]
  simp only [Dev.takeDigest, hvoters, hnone]
  rw [if_neg (by rw [hlive, hstep, hnew]; decide), if_neg (by rw [hopen, Bool.and_false]; decide)]

theorem Dev.takeVerdict_of_open {v : Vote} (hvote : (s.holding h).vote = some v) (verdict : Verdict) :
    s.takeVerdict h verdict = s.actOn h verdict := by
  rw [Dev.takeVerdict]
  exact if_pos (by rw [hvote]; rfl)

/-- The end of the coordinator's window decides the vote at its time. -/
theorem Dev.digestWindow_of_coordinator {v : Vote} (hvote : (s.holding h).vote = some v) (hown : s.coordinates h = true) :
    (s.digestWindow h).unvoted h (s.advanceTo (v.ownTime + BitVec.ofNat 64 (s.holding h).digest.window)).dt := by
  obtain ⟨k, hvoters, -⟩ := (Option.any_eq_true _ _).1 hown
  simp only [Dev.digestWindow, hvote]
  rw [if_pos hown]
  obtain ⟨t, ht⟩ := s.advanceTo_frame (v.ownTime + BitVec.ofNat 64 (s.holding h).digest.window)
  rw [ht]
  exact Dev.decideVote_unvoted { s with dt := t } h hvote hvoters

theorem Dev.rolledBack_spec (s : Dev) (h : HoldId) :
    ((s.rolledBack h).holding h).vote = none ∧ ((s.rolledBack h).holding h).rollback = true
      ∧ (s.rolledBack h).ctr (regAt ctl 0x16018) = addStop64 (s.ctr (regAt ctl 0x16018)) 1
      ∧ (s.rolledBack h).reg (regAt ctl 0x100) = s.reg (regAt ctl 0x100) ||| 0x10
      ∧ ((s.rolledBack h).holding h).state = (s.holding h).state ∧ (s.rolledBack h).mem = s.mem := by
  have hkernel := Dev.kernel_of_standing ((s.endVote h).count_standing (some h) (regAt ctl 0x16018) 1) h
  have hfields : ((((s.endVote h).count (some h) (regAt ctl 0x16018) 1).holding h).vote = none)
      ∧ ((((s.endVote h).count (some h) (regAt ctl 0x16018) 1).holding h).state = (s.holding h).state) := by
    rw [s.holding_endVote h] at hkernel
    exact ⟨(congrArg Holding.vote hkernel :), (congrArg Holding.state hkernel :)⟩
  have hholding : (s.rolledBack h).holding h = { ((s.endVote h).count (some h) (regAt ctl 0x16018) 1).holding h with
      rollback := true
      totals := { (((s.endVote h).count (some h) (regAt ctl 0x16018) 1).holding h).totals with rollback := true } } :=
    (Dev.holding_modHolding ..).trans (if_pos rfl)
  rw [hholding]
  exact ⟨hfields.1, rfl, Dev.ctr_count_same _ (some h) _ _, (Dev.reg_event ..).trans (if_pos rfl), hfields.2, rfl⟩

/-- An expulsion of others, while no batch waits for them. -/
theorem Dev.expelMembers_spec (s : Dev) (h : HoldId) (odd : List Nat) (k : Collective) (hidle : (s.holding h).batches = []) :
    ((s.expelMembers h odd k).holding h).vote = none
      ∧ ((s.expelMembers h odd k).holding h).waiting = (s.holding h).waiting ++ [.dead (s.holding h).digest.group odd]
      ∧ (s.expelMembers h odd k).ctr (regAt ctl 0x16010) = addStop64 (s.ctr (regAt ctl 0x16010)) 1
      ∧ (s.expelMembers h odd k).mem = s.mem := by
  have hkernel := Dev.kernel_of_standing ((s.endVote h).count_standing (some h) (regAt ctl 0x16010) 1) h
  have hfields : ((s.expelled h).holding h).vote = none ∧ ((s.expelled h).holding h).waiting = (s.holding h).waiting
      ∧ ((s.expelled h).holding h).batches = [] := by
    rw [s.holding_endVote h] at hkernel
    exact ⟨(congrArg Holding.vote hkernel :), (congrArg Holding.waiting hkernel :), (congrArg Holding.batches hkernel :).trans hidle⟩
  obtain ⟨hvote, hwaiting, hbatches⟩ := hfields
  have hholding : ((s.expelled h).modHolding h fun y =>
      { y with waiting := y.waiting ++ [.dead (s.holding h).digest.group odd] }).holding h
        = { (s.expelled h).holding h with
            waiting := ((s.expelled h).holding h).waiting ++ [.dead (s.holding h).digest.group odd] } :=
    (Dev.holding_modHolding ..).trans (if_pos rfl)
  have hnone : ∀ l : List (BitVec 16), l.foldl (fun d m => d.drillLost h m none) ((s.expelled h).modHolding h fun y =>
      { y with waiting := y.waiting ++ [.dead (s.holding h).digest.group odd] }) = (s.expelled h).modHolding h fun y =>
      { y with waiting := y.waiting ++ [.dead (s.holding h).digest.group odd] } := fun l => by
    induction l with
    | nil => rfl
    | cons m l ih =>
      rw [List.foldl_cons, Dev.drillLost_of_none (by rw [hholding]; exact hbatches)]
      exact ih
  rw [Dev.expelMembers, hnone, hholding, hwaiting]
  exact ⟨hvote, rfl, Dev.ctr_count_same _ (some h) _ _, rfl⟩

end Votes

/-- Settles O36: a record, the window's end and each verdict by what they make of the vote. -/
theorem digestsAreVotedOn : Obligations.DigestsAreVotedOn := by
  unfold Obligations.DigestsAreVotedOn
  refine ⟨fun s h hup => ⟨fun r k hvoters hlive hnone hstep hnew => ?_, fun v hvote hown => ?_⟩, fun s h v hup hvote => ⟨?_, ?_,
    fun odd k hgroup hothers hidle => ?_, ?_⟩⟩
  · refine ⟨_, work_clocked s (s.dev.lifeScope (s.dev.takeDigest h r)) hup, rfl, ?_⟩
    have hholding := Dev.holding_congr (s.dev.lifeScope_holdings (s.dev.takeDigest h r)) h
    rw [Dev.takeDigest_of_news hvoters hlive hnone hstep hnew] at hholding ⊢
    rw [Dev.holding_modHolding, if_pos rfl] at hholding
    dsimp only
    rw [hholding]
    exact ⟨rfl, hnone, Dev.lifeScope_mem .., Dev.lifeScope_gotre ..⟩
  · obtain ⟨hdt, hended⟩ := Dev.digestWindow_of_coordinator hvote hown
    refine ⟨_, work_clocked s (s.dev.lifeScope (s.dev.digestWindow h)) hup, rfl, ?_⟩
    exact ⟨(congrArg Holding.vote (Dev.holding_congr (Dev.lifeScope_holdings ..) h)).trans hended,
      (Dev.lifeScope_dt ..).trans hdt, Dev.lifeScope_power .., Dev.lifeScope_dies ..⟩
  · refine ⟨_, work_clocked s (s.dev.lifeScope (s.dev.takeVerdict h .clean)) hup, rfl, ?_⟩
    rw [Dev.takeVerdict_of_open hvote, s.dev.actOn_clean h]
    exact ⟨(Dev.holding_congr (Dev.lifeScope_holdings ..) h).trans (s.dev.holding_endVote h), Dev.lifeScope_gotre ..,
      Dev.lifeScope_mem .., Dev.lifeScope_ctrs ..⟩
  · obtain ⟨hended, hheld, hctr, hreg, hstate, hmem⟩ := s.dev.rolledBack_spec h
    refine ⟨_, work_clocked s (s.dev.lifeScope (s.dev.takeVerdict h .rollback)) hup, rfl, ?_⟩
    rw [Dev.takeVerdict_of_open hvote, s.dev.actOn_rollback h]
    dsimp only
    rw [Dev.holding_congr (Dev.lifeScope_holdings ..) h]
    exact ⟨hended, hheld, (ctr_of_ctrs (Dev.lifeScope_ctrs ..) _).trans hctr, (Dev.reg_of_regs (Dev.lifeScope_regs ..) _).trans hreg,
      hstate, (Dev.lifeScope_mem ..).trans hmem⟩
  · obtain ⟨hended, hwaiting, hctr, hmem⟩ := s.dev.expelMembers_spec h odd k hidle
    refine ⟨_, work_clocked s (s.dev.lifeScope (s.dev.takeVerdict h (.expel odd))) hup, rfl, ?_⟩
    rw [Dev.takeVerdict_of_open hvote, s.dev.actOn_expel h odd, hgroup, Option.elim_some, if_neg (by rw [hothers]; decide)]
    dsimp only
    rw [Dev.holding_congr (Dev.lifeScope_holdings ..) h]
    exact ⟨hended, hwaiting, (ctr_of_ctrs (Dev.lifeScope_ctrs ..) _).trans hctr, (Dev.lifeScope_mem ..).trans hmem⟩
  · obtain ⟨t, ht⟩ := s.dev.advanceTo_frame (v.ownTime + BitVec.ofNat 64 (2 * (s.dev.holding h).digest.window))
    have htimeout : s.dev.verdictTimeout h = ({ s.dev with dt := t } : Dev).rolledBack h := by
      simp only [Dev.verdictTimeout, hvote, ht]
      rfl
    obtain ⟨hended, hheld, -, -, -, hmem⟩ := ({ s.dev with dt := t } : Dev).rolledBack_spec h
    refine ⟨_, work_clocked s (s.dev.lifeScope (s.dev.verdictTimeout h)) hup, rfl, ?_⟩
    rw [htimeout, ht]
    dsimp only
    rw [Dev.holding_congr (Dev.lifeScope_holdings ..) h]
    exact ⟨hended, hheld, (Dev.lifeScope_dt ..).trans rfl, (Dev.lifeScope_mem ..).trans hmem⟩

end Sys2Proof.Machine

/-! The life of a function: its shut-down, its abort, and the resets of its mailboxes (R437 to R441, R549). -/

namespace Sys2Proof.Machine

/-! ### Queues of a holding as they change together -/

section Queues
variable (s : Dev)

theorem Dev.foldl_modQueue_frame (f : Nat → Queue → Queue) (l : List Nat) :
    ∃ x, l.foldl (fun d n => d.modQueue n (f n)) s = { s with queues := x } :=
  List.foldlRecOn l _ (motive := fun d : Dev => ∃ x, d = { s with queues := x }) ⟨s.queues, rfl⟩ fun _ hd n _ => by
    obtain ⟨x, rfl⟩ := hd
    exact ⟨_, rfl⟩

theorem Dev.modQueues_frame (h : HoldId) (f : Nat → Queue → Queue) : ∃ x, s.modQueues h f = { s with queues := x } :=
  s.foldl_modQueue_frame f _

theorem Dev.foldl_modQueue_ne {f : Nat → Queue → Queue} {l : List Nat} {n : Nat} (hn : n ∉ l) :
    (l.foldl (fun d n => d.modQueue n (f n)) s).queue n = s.queue n := by
  induction l generalizing s with
  | nil => rfl
  | cons m l ih =>
    rw [List.mem_cons, not_or] at hn
    obtain ⟨hm, hl⟩ := hn
    exact (ih _ hl).trans ((s.queue_modQueue ..).trans (if_neg hm))

/-- Each queue of the list has changed, and a further change keeps what the first made. -/
theorem Dev.foldl_modQueue_mem {f : Nat → Queue → Queue} {n : Nat} {before after : Queue → Prop}
    (hstep : ∀ x, before x → after (f n x)) (hkeep : ∀ x, after x → before x) {l : List Nat} (hn : n ∈ l)
    (hs : before (s.queue n)) : after ((l.foldl (fun d n => d.modQueue n (f n)) s).queue n) := by
  induction l generalizing s with
  | nil => exact absurd hn List.not_mem_nil
  | cons m l ih =>
    rw [List.foldl_cons]
    have hqueue := s.queue_modQueue m n (f m)
    by_cases hm : n = m
    · subst hm
      rw [if_pos rfl] at hqueue
      have hafter : after ((s.modQueue n (f n)).queue n) := hqueue ▸ hstep _ hs
      by_cases hl : n ∈ l
      · exact ih _ hl (hkeep _ hafter)
      · rw [Dev.foldl_modQueue_ne _ hl]
        exact hafter
    · rw [if_neg hm] at hqueue
      exact ih _ ((List.mem_cons.1 hn).resolve_left hm) (hqueue ▸ hs)

end Queues

/-! ### Enabling, and a pending enable (R437) -/

section Enabling
variable (s : Dev) (h : HoldId)

/-- A holding as its function is enabled. -/
def Holding.enabledNow (x : Holding) : Holding :=
  { x with state := .enabled, pendingEnable := false, enableJobs := [], keyLocked := true }

theorem Dev.enable_spec : ∃ sent queues g, s.enable h
    = { s.setHolding h (s.holding h).enabledNow with outbox := sent, queues := queues, gotre := g } := by
  obtain ⟨sent, hset⟩ := s.setFunc_frame h Holding.enabledNow
  have henable : s.enable h = ((s.setFunc h Holding.enabledNow).modQueues h (s.holding h).wakeQueue).finishJobs
      (s.holding h).enableJobs .ok := rfl
  obtain ⟨queues, hqueues⟩ := (s.setFunc h Holding.enabledNow).modQueues_frame h (s.holding h).wakeQueue
  obtain ⟨g, hjobs⟩ := ((s.setFunc h Holding.enabledNow).modQueues h (s.holding h).wakeQueue).finishJobs_frame
    (s.holding h).enableJobs .ok
  refine ⟨sent, queues, g, ?_⟩
  rw [henable, hjobs, hqueues, hset]

theorem Dev.holding_enable : (s.enable h).holding h = (s.holding h).enabledNow := by
  obtain ⟨sent, queues, g, henable⟩ := s.enable_spec h
  rw [henable]
  exact (s.holding_setHolding h h _).trans (if_pos rfl)

theorem Dev.settle_of_none (hnone : (s.holding h).pendingEnable = false) : s.settle h = s := by
  rw [Dev.settle]
  exact if_neg (by rw [hnone, Bool.and_false, Bool.false_and]; decide)

theorem Dev.settle_mem : (s.settle h).mem = s.mem := by
  unfold Dev.settle
  dsimp only
  split
  · obtain ⟨sent, queues, g, henable⟩ := s.enable_spec h
    rw [henable]
    rfl
  · rfl

/-- A disabled function with a pending enable is enabled, once no sweep runs. -/
theorem Dev.settle_holding (hdisabled : (s.holding h).state = .disabled) :
    (s.settle h).holding h = if (s.holding h).pendingEnable && !(s.holding h).sweep then (s.holding h).enabledNow else s.holding h := by
  rw [Dev.settle, hdisabled, beq_self_eq_true, Bool.true_and]
  split
  · exact s.holding_enable h
  · rfl

end Enabling

/-! ### The end of a shut-down, and its drain (R438) -/

/-- A holding as its shut-down has ended. -/
def Holding.shutDown (x : Holding) : Holding := { x with state := .disabled, drainEnd := none, disables := [] }

section ShutDown
variable {s : Dev} {h : HoldId} (hstate : (s.holding h).state = .shuttingDown)
include hstate

theorem Dev.shutdown_spec (hqueues : s.queuesBusy h = false) (hflits : s.flitsOut h = false) (hboxes : s.boxBusy h = false)
    (hearly : ∀ d, (s.holding h).drainEnd = some d → reached s.dt d = false) :
    ((s.shutdown h).holding h).state
        = (if (s.holding h).pendingEnable && !(s.holding h).sweep then .enabled else .disabled)
      ∧ ((s.shutdown h).holding h).disables = [] ∧ ((s.shutdown h).holding h).epoch = (s.holding h).epoch
      ∧ (s.shutdown h).mem = s.mem := by
  have hopen : s.shutdown h = (((s.setFunc h Holding.shutDown).modQueues h fun _ q =>
      if q.state == .bound then { q with state := .ready } else q).finishJobs (s.holding h).disables .ok).settle h := by
    rw [Dev.shutdown]
    refine if_neg ?_
    rw [hstate, hqueues, hflits, hboxes]
    cases hdrain : (s.holding h).drainEnd with
    | none => exact Bool.false_ne_true
    | some d =>
      dsimp only
      rw [hearly d hdrain]
      exact Bool.false_ne_true
  obtain ⟨sent, hset⟩ := s.setFunc_frame h Holding.shutDown
  obtain ⟨queues, hready⟩ := (s.setFunc h Holding.shutDown).modQueues_frame h fun _ q =>
    if q.state == .bound then { q with state := .ready } else q
  obtain ⟨g, hjobs⟩ := Dev.finishJobs_frame ((s.setFunc h Holding.shutDown).modQueues h fun _ q =>
    if q.state == .bound then { q with state := .ready } else q) (s.holding h).disables .ok
  rw [hready, hset] at hjobs
  have hholding : (({ s.setHolding h (s.holding h).shutDown with outbox := sent, queues := queues, gotre := g } : Dev).holding h)
      = (s.holding h).shutDown := (s.holding_setHolding h h _).trans (if_pos rfl)
  have hsettled := Dev.settle_holding { s.setHolding h (s.holding h).shutDown with outbox := sent, queues := queues, gotre := g } h
    (congrArg Holding.state hholding)
  rw [hopen, hready, hset, hjobs, hsettled, hholding, Dev.settle_mem]
  refine ⟨?_, ?_, ?_, rfl⟩
  · exact apply_ite Holding.state ..
  · exact (apply_ite Holding.disables ..).trans (ite_self _)
  · exact (apply_ite Holding.epoch ..).trans (ite_self _)

theorem Dev.drainTimeout_of_drain {d : Word64} (hdrain : (s.holding h).drainEnd = some d) :
    s.drainTimeout h = (s.advanceTo d).beginAbort h .timeout := by
  simp only [Dev.drainTimeout, hstate, hdrain]

end ShutDown

/-! ### Aborts (R437, R439, R441) -/

section Aborts
variable {s : Dev} {h : HoldId}

theorem Dev.abortHolding_of_open (hopen : (s.holding h).state = .disabled ∨ (s.holding h).state = .enabled
    ∨ (s.holding h).state = .shuttingDown) : s.abortHolding h = s.beginAbort h .aborted := by
  unfold Dev.abortHolding
  rcases hopen with hstate | hstate | hstate <;> rw [hstate]

theorem Dev.abortWrite_of_epoch {f : FnId} (hown : f = 0 ∨ f = vfOf h) (hup : s.pcieUp = true) (hfull : s.fullSurvey = false)
    (hlives : s.gotre.deviceState ≠ .ended) : s.abortWrite f h ((s.holding h).epoch.setWidth 32) = s.abortHolding h := by
  have hallowed : abortAllowed f h = true := by
    rw [abortAllowed]
    rcases hown with rfl | rfl
    · rfl
    · rw [beq_self_eq_true, Bool.or_true]
  rw [Dev.abortWrite, if_neg (by simp [hallowed, hup, hlives]), if_neg (by rw [hfull]; decide)]

theorem Dev.abortWrite_of_other {f : FnId} {v : Word32} (hv : v ≠ (s.holding h).epoch.setWidth 32) : s.abortWrite f h v = s := by
  rw [Dev.abortWrite]
  exact if_pos (by rw [bne_iff_ne.2 hv]; simp)

/-- A step's record joins its holding's records, with a free value. -/
theorem Dev.writeRecord_frame (s : Dev) (h : HoldId) (ended : Bool) (st : Status) : ∃ recs seq totals free,
    s.writeRecord h ended st = ({ s with free := free } : Dev).setHolding h
      { s.holding h with records := recs, recordSeq := seq, totals := totals } := ⟨_, _, _, _, rfl⟩

theorem Dev.holdingEnded_frame (s : Dev) (h : HoldId) (cause : Status) (epoch : BitVec 16) :
    ∃ g, s.holdingEnded h cause epoch = { s with gotre := g } := ⟨_, rfl⟩

theorem Dev.finishAll_frame (s : Dev) (l : List (Nat × Status)) :
    ∃ g, l.foldl (fun d p => d.finishJob p.1 p.2 0) s = { s with gotre := g } :=
  List.foldlRecOn l _ (motive := fun d : Dev => ∃ g, d = { s with gotre := g }) ⟨s.gotre, rfl⟩ fun _ hd p _ => by
    obtain ⟨g, rfl⟩ := hd
    exact Dev.finishJob_frame { s with gotre := g } p.1 p.2 0

/-- A holding as its abort has ended. -/
def Dev.abortEnded (s : Dev) (y : Holding) : Holding :=
  { y with state := .disabled, abortDone := true, ending := .ok, settled := [], poisonUsed := false
           sweep := y.sweep || y.epoch == 1
           stages := y.stages.map fun g => g.discard (s.queue g.dfn.queue).accepted }

/-- The end of an abort, where no enable waits for it. -/
theorem Dev.endAbort_spec (hstate : (s.holding h).state = .aborting) (hnone : (s.holding h).pendingEnable = false) :
    ((s.endAbort h).holding h).state = .disabled ∧ ((s.endAbort h).holding h).abortDone = true
      ∧ ((s.endAbort h).holding h).epoch = (s.holding h).epoch
      ∧ (∀ n ∈ s.queuesOf h, ((s.endAbort h).queue n).state = .fenced) ∧ (s.endAbort h).mem = s.mem := by
  obtain ⟨sent, hset⟩ := (s.modQueues h fun _ q => { q with state := .fenced }).setFunc_frame h s.abortEnded
  obtain ⟨queues, hfenced⟩ := s.modQueues_frame h fun _ q => { q with state := .fenced }
  have hqueue : ∀ n ∈ s.queuesOf h, ((s.modQueues h fun _ q => { q with state := .fenced }).queue n).state = .fenced := fun n hn =>
    s.foldl_modQueue_mem (before := fun _ => True) (after := fun q => q.state = .fenced) (fun _ _ => rfl) (fun _ _ => trivial) hn
      trivial
  have hopen : s.endAbort h = (((s.holding h).settled.foldl (fun d p => d.finishJob p.1 p.2 0)
      (((s.modQueues h fun _ q => { q with state := .fenced }).setFunc h s.abortEnded).writeRecord h true
        (if (s.holding h).ending = .ok then Status.aborted else (s.holding h).ending))).holdingEnded h
        (if (s.holding h).ending = .ok then Status.aborted else (s.holding h).ending) (s.holding h).epoch).settle h := by
    rw [Dev.endAbort]
    exact if_neg (by rw [hstate]; decide)
  generalize (if (s.holding h).ending = .ok then Status.aborted else (s.holding h).ending) = cause at hopen
  rw [hfenced] at hset hopen hqueue
  rw [hset] at hopen
  have hended : (({ ({ s with queues := queues } : Dev).setHolding h (s.abortEnded (s.holding h)) with outbox := sent } : Dev).holding h)
      = s.abortEnded (s.holding h) := (Dev.holding_setHolding ..).trans (if_pos rfl)
  have hmem : ({ ({ s with queues := queues } : Dev).setHolding h (s.abortEnded (s.holding h)) with outbox := sent } : Dev).mem
      = s.mem := rfl
  have hkept : ∀ n, ({ ({ s with queues := queues } : Dev).setHolding h (s.abortEnded (s.holding h)) with outbox := sent } : Dev).queue n
      = ({ s with queues := queues } : Dev).queue n := fun _ => rfl
  rw [show (({ s with queues := queues } : Dev).holding h) = s.holding h from rfl] at hopen
  generalize ({ ({ s with queues := queues } : Dev).setHolding h (s.abortEnded (s.holding h)) with outbox := sent } : Dev) = d
    at hopen hended hmem hkept
  obtain ⟨recs, seq, totals, free, hrecord⟩ := d.writeRecord_frame h true cause
  obtain ⟨g, hjobs⟩ := (d.writeRecord h true cause).finishAll_frame (s.holding h).settled
  obtain ⟨g', htold⟩ := ((s.holding h).settled.foldl (fun d p => d.finishJob p.1 p.2 0) (d.writeRecord h true cause)).holdingEnded_frame
    h cause (s.holding h).epoch
  have hholding : ((((s.holding h).settled.foldl (fun d p => d.finishJob p.1 p.2 0) (d.writeRecord h true cause)).holdingEnded h cause
      (s.holding h).epoch).holding h) = { s.abortEnded (s.holding h) with records := recs, recordSeq := seq, totals := totals } := by
    rw [htold, hjobs, hrecord, ← hended]
    exact (Dev.holding_setHolding ..).trans (if_pos rfl)
  rw [hopen, Dev.settle_of_none _ h ((congrArg Holding.pendingEnable hholding).trans hnone), hholding]
  refine ⟨rfl, rfl, rfl, fun n hn => ?_, ?_⟩
  · rw [htold, hjobs, hrecord]
    exact (congrArg Queue.state (hkept n)).trans (hqueue n hn)
  · rw [htold, hjobs, hrecord]
    exact hmem

/-- Blocks whose tags carry no epoch. -/
def Dev.zeroEpochs (s : Dev) (bs : List Nat) : Dev := bs.foldl (fun d b => d.setTag b { d.tag b with epoch := 0 }) s

theorem Dev.zeroEpochs_epoch (s : Dev) {bs : List Nat} {b : Nat} (hb : b ∈ bs ∨ (s.tag b).epoch = 0) :
    ((s.zeroEpochs bs).tag b).epoch = 0 := by
  induction bs generalizing s with
  | nil => exact hb.resolve_left List.not_mem_nil
  | cons c bs ih =>
    refine ih (s.setTag c { s.tag c with epoch := 0 }) ?_
    rw [Dev.tag_setTag]
    by_cases hc : b = c
    · exact .inr (by rw [if_pos hc])
    · simpa [hc] using hb

theorem Tab.mem_of_get {α : Type} {d v : α} {t : Tab α} {k : Nat} (hget : Tab.get d t k = v) (hv : v ≠ d) : (k, v) ∈ t := by
  induction t with
  | nil => exact absurd hget.symm hv
  | cons p t ih =>
    obtain ⟨j, w⟩ := p
    rw [Tab.get] at hget
    split at hget
    next hj =>
      rw [← hj, hget]
      exact List.mem_cons_self
    next => exact List.mem_cons_of_mem _ (ih hget)

/-- The end of a sweep: no block of the holding carries an epoch. -/
theorem Dev.sweepDone_spec (hsweep : (s.holding h).sweep = true) (hstate : (s.holding h).state ≠ .aborting)
    (hnone : (s.holding h).pendingEnable = false) :
    ((s.sweepDone h).holding h).sweep = false
      ∧ (∀ b g, Tab.get none s.tags b = some g → g.owner = .holding h → ((s.sweepDone h).tag b).epoch = 0)
      ∧ (s.sweepDone h).mem = s.mem := by
  have htags : ∀ l : List (Nat × Option Tag), (l.foldl (fun d p => d.setTag p.1 { d.tag p.1 with epoch := 0 }) s)
      = s.zeroEpochs (l.map (·.1)) := fun l => by
    rw [Dev.zeroEpochs, List.foldl_map]
  have hopen : s.sweepDone h = ((s.zeroEpochs ((s.tags.filter fun p => (p.2.map (·.owner)) == some (.holding h)).map (·.1))).setFunc h
      fun y => { y with sweep := false }).settle h := by
    rw [← htags, Dev.sweepDone]
    exact if_neg (by simp [hsweep, hstate])
  have hzero : ∀ b g, Tab.get none s.tags b = some g → g.owner = .holding h →
      b ∈ (s.tags.filter fun p => (p.2.map (·.owner)) == some (.holding h)).map (·.1) := fun b g hb hown =>
    List.mem_map.2 ⟨(b, some g), List.mem_filter.2 ⟨Tab.mem_of_get hb nofun, by simp [hown]⟩, rfl⟩
  generalize (s.tags.filter fun p => (p.2.map (·.owner)) == some (.holding h)).map (·.1) = bs at hopen hzero
  obtain ⟨x, hx⟩ := s.foldl_setTag_frame (fun d b => { d.tag b with epoch := 0 }) bs
  have hx' : s.zeroEpochs bs = { s with tags := x } := hx
  have hset : ∃ sent, (s.zeroEpochs bs).setFunc h (fun y => { y with sweep := false })
      = { (s.zeroEpochs bs).setHolding h { s.holding h with sweep := false } with outbox := sent } := by
    obtain ⟨sent, hset⟩ := (s.zeroEpochs bs).setFunc_frame h fun y => { y with sweep := false }
    exact ⟨sent, by rw [hset, show (s.zeroEpochs bs).holding h = s.holding h by rw [hx']; rfl]⟩
  obtain ⟨sent, hset⟩ := hset
  have hholding : (({ (s.zeroEpochs bs).setHolding h { s.holding h with sweep := false } with outbox := sent } : Dev).holding h)
      = { s.holding h with sweep := false } := (Dev.holding_setHolding ..).trans (if_pos rfl)
  rw [hopen, hset, Dev.settle_of_none _ h ((congrArg Holding.pendingEnable hholding).trans hnone), hholding]
  refine ⟨rfl, fun b g hb hown => ?_, ?_⟩
  · exact s.zeroEpochs_epoch (.inl (hzero b g hb hown))
  · change (s.zeroEpochs bs).mem = s.mem
    rw [hx']

end Aborts

/-! ### Function-level resets (R549) -/

section Resets
variable (s : Dev)

theorem Tab.get_foldl_reset {α : Type} [DecidableEq α] (d : α) {l : List Nat} {t : Tab α} {k : Nat} (hk : k ∈ l ∨ Tab.get d t k = d) :
    Tab.get d (l.foldl (fun t j => Tab.set d t j d) t) k = d := by
  induction l generalizing t with
  | nil => exact hk.resolve_left List.not_mem_nil
  | cons j l ih =>
    refine ih ?_
    rw [Laws.Tab.get_set]
    by_cases hj : k = j
    · exact .inr (if_pos hj)
    · rw [if_neg hj]
      exact hk.imp_left fun hmem => (List.mem_cons.1 hmem).resolve_left hj

/-- The mailboxes of a function as they come out of reset. -/
theorem Dev.clearBoxes_spec (f : FnId) :
    (∀ m, (s.clearBoxes f).box f m = {}) ∧ (∀ j ∈ (s.clearBoxes f).gotre.jobs, j.fn = f → j.discard = true)
      ∧ (s.clearBoxes f).holdings = s.holdings ∧ (s.clearBoxes f).mem = s.mem := by
  refine ⟨fun m => ?_, fun j hj hown => ?_, rfl, rfl⟩
  · have hkeys : (s.clearBoxes f).boxes = ((List.range 4).map fun m => f.val * 4 + m).foldl (fun t j => Tab.set {} t j {}) s.boxes := by
      rw [List.foldl_map]
      rfl
    rw [Dev.box, hkeys]
    exact Tab.get_foldl_reset _ (.inl (List.mem_map.2 ⟨m.val, List.mem_range.2 m.isLt, rfl⟩))
  · obtain ⟨k, -, hk⟩ := List.mem_map.1 hj
    split at hk
    next => rw [← hk]
    next hother =>
      rw [hk] at hother
      exact absurd (beq_iff_eq.2 hown) hother

end Resets

/-- Settles O44: each end of a function's service, and each reset, by the holding and the mailboxes that it leaves. -/
theorem functionsShutDownAndAbort : Obligations.FunctionsShutDownAndAbort := by
  unfold Obligations.FunctionsShutDownAndAbort
  intro s h
  dsimp only
  have hheld : ∀ r : Dev, (s.dev.lifeScope r).holding h = r.holding h := fun r => Dev.holding_congr (Dev.lifeScope_holdings ..) h
  refine ⟨fun hup hstate hqueues hflits hboxes hearly => ?_, fun d hup hstate hdrain => ?_, fun f hown hup hfull hlives =>
    ⟨fun hopen => ?_, fun v hv => ?_⟩, fun hup hstate hnone => ?_, fun hup hsweep hstate hnone => ?_, fun hup => ⟨fun hfull hopen => ?_, ?_⟩⟩
  · obtain ⟨hend, hdisables, hepoch, hmem⟩ := Dev.shutdown_spec hstate hqueues hflits hboxes hearly
    refine ⟨_, work_clocked s (s.dev.lifeScope (s.dev.shutdown h)) hup, rfl, ?_⟩
    dsimp only
    rw [hheld, Dev.lifeScope_mem]
    exact ⟨hend, hdisables, hepoch, hmem⟩
  · obtain ⟨t, ht⟩ := s.dev.advanceTo_frame d
    obtain ⟨-, hdt, hmem, -⟩ := (s.dev.advanceTo d).beginAbort_spec h .timeout
    refine ⟨_, work_clocked s (s.dev.lifeScope (s.dev.drainTimeout h)) hup, rfl, ?_⟩
    dsimp only
    rw [hheld, Dev.lifeScope_mem, Dev.lifeScope_dt, Dev.drainTimeout_of_drain hstate hdrain, hdt, hmem]
    refine ⟨Dev.beginAbort_field _ h _ Holding.state fun _ => rfl, (Dev.beginAbort_field _ h _ Holding.epoch fun _ => rfl).trans ?_, rfl, ?_⟩
    · rw [ht]
      rfl
    · rw [ht]
  · obtain ⟨-, -, hmem, htags, -, -, -, hpend⟩ := s.dev.beginAbort_spec h .aborted
    refine ⟨{ s with dev := s.dev.lifeScope (s.dev.abortWrite f h ((s.dev.holding h).epoch.setWidth 32)) }, rfl, rfl, ?_⟩
    dsimp only
    rw [hheld, Dev.lifeScope_mem, Dev.lifeScope_tags, Dev.lifeScope_gate, Dev.lifeScope_pend,
      Dev.abortWrite_of_epoch hown hup hfull hlives, Dev.abortHolding_of_open hopen]
    exact ⟨Dev.beginAbort_field _ h _ Holding.state fun _ => rfl, Dev.beginAbort_field _ h _ Holding.epoch fun _ => rfl, Dev.beginAbort_field _ h _ Holding.events fun _ => rfl,
      Dev.beginAbort_field _ h _ Holding.batches fun _ => rfl, s.dev.beginAbort_gate h .aborted, hpend, hmem, htags⟩
  · change Host.Outcome.next { s with dev := s.dev.lifeScope (s.dev.abortWrite f h v) } = _
    rw [Dev.abortWrite_of_other hv, Dev.lifeScope_self]
  · obtain ⟨hend, hdone, hepoch, hqueues, hmem⟩ := Dev.endAbort_spec hstate hnone
    refine ⟨_, work_clocked s (s.dev.lifeScope (s.dev.endAbort h)) hup, rfl, ?_⟩
    dsimp only
    rw [hheld, Dev.lifeScope_mem]
    exact ⟨hend, hdone, hepoch, fun n hn => by rw [Dev.queue_congr (Dev.lifeScope_queues ..)]; exact hqueues n hn, hmem⟩
  · obtain ⟨hend, htags, hmem⟩ := Dev.sweepDone_spec hsweep hstate hnone
    refine ⟨_, work_clocked s (s.dev.lifeScope (s.dev.sweepDone h)) hup, rfl, ?_⟩
    dsimp only
    rw [hheld, Dev.lifeScope_mem]
    refine ⟨hend, fun b g hb hown => ?_, hmem⟩
    rw [Dev.tag_epoch_congr (Dev.lifeScope_tags ..)]
    exact htags b g hb hown
  · obtain ⟨hcleared, -, hholdings, -⟩ := s.dev.clearBoxes_spec (vfOf h)
    have hsame := Dev.holding_congr hholdings h
    have hflr : s.dev.flr h = (s.dev.clearBoxes (vfOf h)).beginAbort h .aborted := by
      rw [Dev.flr, if_neg (by rw [hup]; decide), if_neg (by rw [hfull]; decide),
        Dev.abortHolding_of_open (by rw [hsame]; exact hopen)]
    obtain ⟨-, -, hmem, -, -, hboxes, -⟩ := (s.dev.clearBoxes (vfOf h)).beginAbort_spec h .aborted
    refine ⟨{ s with dev := s.dev.lifeScope (s.dev.flr h) }, rfl, rfl, ?_⟩
    dsimp only
    rw [hheld, Dev.lifeScope_mem, hflr]
    exact ⟨fun m => by rw [Dev.box_congr (Dev.lifeScope_boxes ..), Dev.box_congr hboxes]; exact hcleared m,
      Dev.beginAbort_field _ h _ Holding.state fun _ => rfl, Dev.beginAbort_field _ h _ Holding.epoch fun _ => rfl, hmem⟩
  · obtain ⟨hcleared, hjobs, hholdings, hmem⟩ := s.dev.clearBoxes_spec 0
    refine ⟨{ s with dev := s.dev.lifeScope s.dev.pfReset }, rfl, rfl, ?_⟩
    dsimp only
    rw [Dev.pfReset, if_pos hup, Dev.lifeScope_gotre, Dev.lifeScope_holdings, Dev.lifeScope_mem]
    exact ⟨fun m => by rw [Dev.box_congr (Dev.lifeScope_boxes ..)]; exact hcleared m, hjobs, hholdings, hmem⟩

end Sys2Proof.Machine

/-! Holdings as they open and close, and the commands of their functions (R12, R219, R433, R436 to R441, R445). -/

namespace Sys2Proof.Machine

/-! ### What a pool gives -/

theorem mem_insertSorted {x y : Nat} {l : List Nat} : y ∈ insertSorted x l ↔ y = x ∨ y ∈ l := by
  induction l with
  | nil => simp [insertSorted]
  | cons z l ih =>
    rw [insertSorted]
    split
    · simp
    · split
      next hsame =>
        subst hsame
        simp
      next =>
        rw [List.mem_cons, ih, List.mem_cons]
        tauto

theorem length_insertSorted {x : Nat} {l : List Nat} (hx : x ∉ l) : (insertSorted x l).length = l.length + 1 := by
  induction l with
  | nil => rfl
  | cons z l ih =>
    rw [List.mem_cons, not_or] at hx
    rw [insertSorted]
    split
    · rfl
    · rw [if_neg hx.1, List.length_cons, ih hx.2, List.length_cons]

/-- A pool gives as many of its members as are asked for. -/
theorem Dev.pick_spec (s : Dev) {n : Nat} {l : List Nat} (hnodup : l.Nodup) (hn : n ≤ l.length) :
    (s.pick n l).1.length = n ∧ (∀ r ∈ (s.pick n l).1, r ∈ l) ∧ ∃ free, (s.pick n l).2 = { s with free := free } := by
  induction n generalizing s l with
  | zero => exact ⟨rfl, fun r hr => absurd hr List.not_mem_nil, s.free, rfl⟩
  | succ n ih =>
    have hpos : 0 < l.length := by omega
    rw [Dev.pick, if_neg (by simp [List.isEmpty_iff, List.ne_nil_of_length_pos hpos])]
    extract_lets v x r
    have hx : x ∈ l := by
      have hlt : v.1.toNat % l.length < l.length := Nat.mod_lt _ hpos
      have hget : x = l[v.1.toNat % l.length] := by
        simp only [x, nthD, List.getElem?_eq_getElem hlt, Option.getD_some]
      rw [hget]
      exact List.getElem_mem hlt
    have hrest : (l.filter fun y => y != x) = l.erase x := (hnodup.erase_eq_filter x).symm
    obtain ⟨hlength, hmem, free, hfree⟩ := ih v.2 (hnodup.filter fun y => y != x) (by
      rw [hrest, List.length_erase_of_mem hx]
      omega)
    have hnew : x ∉ r.1 := fun hin => by simpa using (List.mem_filter.1 (hmem x hin)).2
    refine ⟨(length_insertSorted hnew).trans (congrArg (· + 1) hlength), fun y hy => ?_, free, hfree⟩
    rcases mem_insertSorted.1 hy with rfl | hy
    · exact hx
    · exact (List.mem_filter.1 (hmem y hy)).1

theorem Dev.freeRegions_nodup (s : Dev) (t : Nat) : (s.freeRegions t).Nodup := List.nodup_range.filter _

/-! ### HOLDING_OPEN (R12, R433) -/

/-- The cores that a command opens its holding over. -/
def Job.openCores (j : Job) : List Nat := (List.range 256).filter fun c => j.words.getLsbD (192 + c)

/-- A holding as it opens, with its regions. -/
def Dev.openedHolding (s : Dev) (j : Job) (near far : List Nat) (x : Holding) : Holding :=
  { state := .disabled, epoch := x.epoch, abortDone := x.abortDone, sweep := x.sweep, cores := j.openCores
    nearRegions := near, farRegions := far, queueLimit := j.param 293 277, generation := x.generation
    totals := { base := s.shadow } }

/-- A device whose cores begin to serve. -/
def Dev.startCores (s : Dev) (cores : List Nat) : Dev :=
  cores.foldl (fun d c => d.modCore (Fin.ofNat 256 c) fun y => { y with away := false, outside := false }) s

theorem Dev.startCores_frame (s : Dev) (l : List Nat) : ∃ x, s.startCores l = { s with cores := x } :=
  List.foldlRecOn l _ (motive := fun d : Dev => ∃ x, d = { s with cores := x }) ⟨s.cores, rfl⟩ fun _ hd _ _ => by
    obtain ⟨x, rfl⟩ := hd
    exact ⟨_, rfl⟩

section Open
variable {s : State} {n : Nat} {j : Job} {h : HoldId} (hold : j.holding? = some h) (ready : s.dev.jobReady n 0x0010 j)
  (hclosed : (s.dev.holding h).state = .closed)
  (hcores : ∀ c < 256, j.words.getLsbD (192 + c) = true → s.dev.coreFree (Fin.ofNat 256 c) = true)
  (hnear : j.param 266 256 ≤ (s.dev.freeRegions 0).length) (hfar : j.param 276 267 ≤ (s.dev.freeRegions 1).length)
  (hqueues : (allHoldings.map fun k => if (s.dev.holding k).state == .closed then 0 else (s.dev.holding k).queueLimit).sum
    + j.param 293 277 ≤ 65536)
include hold ready hclosed hcores hnear hfar hqueues

/-- A holding opens over free units: it has what was asked for. -/
theorem exec_holdingOpen : ∃ near far, near.length = j.param 266 256 ∧ far.length = j.param 276 267
    ∧ (∀ r ∈ near, r ∈ s.dev.freeRegions 0) ∧ (∀ r ∈ far, r ∈ s.dev.freeRegions 1)
    ∧ ∃ t, exec (.holdingOpen n) s = .next t ∧ t.pending = s.pending ∧ t.dev.answered j .ok 0
      ∧ t.dev.holding h = s.dev.openedHolding j near far (s.dev.holding h)
      ∧ t.dev.mem = s.dev.mem ∧ t.dev.tags = s.dev.tags := by
  obtain ⟨hnearLen, hnearMem, free, hfree⟩ := s.dev.pick_spec (s.dev.freeRegions_nodup 0) hnear
  obtain ⟨hfarLen, hfarMem, free', hfree'⟩ := ({ s.dev with free := free } : Dev).pick_spec (s.dev.freeRegions_nodup 1) hfar
  refine ⟨_, _, hnearLen, hfarLen, hnearMem, hfarMem, ?_⟩
  have hunits : ((List.range 256).filter fun c => j.words.getLsbD (192 + c)).any (fun c => !s.dev.coreFree (Fin.ofNat 256 c)) = false := by
    rw [List.any_eq_false]
    intro c hc
    obtain ⟨hrange, hbit⟩ := List.mem_filter.1 hc
    rw [hcores c (List.mem_range.1 hrange) hbit]
    decide
  have hopen : s.dev.holdingOpen n = ((((({ s.dev with free := free } : Dev).pick (j.param 276 267) (s.dev.freeRegions 1)).2.setFunc h
      (s.dev.openedHolding j (s.dev.pick (j.param 266 256) (s.dev.freeRegions 0)).1
        (({ s.dev with free := free } : Dev).pick (j.param 276 267) (s.dev.freeRegions 1)).1)).startCores j.openCores).finishJob n
      .ok 0).passTurn j := by
    unfold Dev.holdingOpen
    rw [Dev.runHolding_of_jobReady ready rfl hold]
    dsimp only
    rw [hfree, if_neg (by rw [hclosed]; decide), if_neg (by
      rw [hunits, decide_eq_false (not_lt.2 hnear), decide_eq_false (not_lt.2 hfar), queueCount, decide_eq_false (not_lt.2 hqueues)]
      decide)]
    rfl
  rw [hfree'] at hopen
  obtain ⟨sent, hset⟩ := ({ s.dev with free := free' } : Dev).setFunc_frame h
    (s.dev.openedHolding j (s.dev.pick (j.param 266 256) (s.dev.freeRegions 0)).1
      (({ s.dev with free := free } : Dev).pick (j.param 276 267) (s.dev.freeRegions 1)).1)
  generalize (s.dev.pick (j.param 266 256) (s.dev.freeRegions 0)).1 = near at hopen hset ⊢
  generalize (({ s.dev with free := free } : Dev).pick (j.param 276 267) (s.dev.freeRegions 1)).1 = far at hopen hset ⊢
  rw [hset] at hopen
  obtain ⟨d, hd⟩ : ∃ d, d = ({ ({ s.dev with free := free' } : Dev).setHolding h (s.dev.openedHolding j near far (s.dev.holding h)) with
    outbox := sent } : Dev) := ⟨_, rfl⟩
  have hopen : s.dev.holdingOpen n = ((d.startCores j.openCores).finishJob n .ok 0).passTurn j := by
    rw [hd]
    exact hopen
  obtain ⟨cores, hstarted⟩ := d.startCores_frame j.openCores
  obtain ⟨t, hexec, hpending, hanswer, hholdings, htags, hmem, -⟩ := exec_finishes (i := .holdingOpen n) ready
    (by rw [hstarted, hd]; rfl) rfl hopen
  rw [hstarted, hd] at hholdings htags hmem
  exact ⟨t, hexec, hpending, hanswer, (Dev.holding_congr hholdings h).trans ((Dev.holding_setHolding ..).trans (if_pos rfl)), hmem, htags⟩

end Open

/-! ### HOLDING_CLOSE (R436, R445) -/

section Close
variable (s : Dev) (h : HoldId)

theorem Dev.headFree_standing {q : Nat} {d : Dev} (hd : s.headFree q h = some d) : d.standing = s.standing := by
  unfold Dev.headFree at hd
  dsimp only at hd
  split at hd
  · exact absurd hd nofun
  · cases hd
    exact Dev.writeVa_standing ..

theorem Dev.headsFree_standing {d : Dev} (hd : s.headsFree h = some d) : d.standing = s.standing := by
  unfold Dev.headsFree at hd
  generalize s.queuesOf h = l at hd
  revert d
  refine List.foldlRecOn (motive := fun o : Option Dev => ∀ {d : Dev}, o = some d → d.standing = s.standing) l _ ?_ ?_
  · rintro d ⟨⟩
    rfl
  · intro o ho q _ d hd
    obtain ⟨c, rfl, hc⟩ := Option.bind_eq_some_iff.1 hd
    exact (c.headFree_standing h hc).trans (ho rfl)

/-- A block that is not among those unmapped keeps its owner. -/
theorem Dev.unmapBlocks_keeps (bs : List Nat) (b : Nat) :
    ((s.unmapBlocks bs).tag b).owner = .unassigned ∨ ((s.unmapBlocks bs).tag b).owner = (s.tag b).owner := by
  by_cases hb : b ∈ bs
  · exact .inl (s.unmapBlocks_owner bs b (.inl hb))
  · right
    induction bs generalizing s with
    | nil => rfl
    | cons c bs ih =>
      rw [List.mem_cons, not_or] at hb
      refine (ih (s.setTag c (unmappedTag (s.tag c))) hb.2).trans ?_
      rw [Dev.tag_setTag, if_neg hb.1]

theorem Dev.releaseBlocks_eq : s.releaseBlocks h
    = s.unmapBlocks ((s.tags.filter fun p => (p.2.map (·.owner)) == some (.holding h)).map (·.1)) := by
  rw [Dev.unmapBlocks, List.foldl_map]
  rfl

theorem Dev.releaseBlocks_frame : ∃ x, s.releaseBlocks h = { s with tags := x } := by
  rw [s.releaseBlocks_eq h]
  exact s.foldl_setTag_frame (fun d b => unmappedTag (d.tag b)) _

/-- No block of a holding that has closed is its own. -/
theorem Dev.releaseBlocks_owner (b : Nat) : ((s.releaseBlocks h).tag b).owner ≠ .holding h := by
  rw [s.releaseBlocks_eq h]
  intro hown
  have hboot : (s.plainTag b).owner ≠ .holding h := by
    unfold Dev.plainTag bootTag
    split <;> split <;> nofun
  rcases s.unmapBlocks_keeps ((s.tags.filter fun p => (p.2.map (·.owner)) == some (.holding h)).map (·.1)) b with hnone | hsame
  · exact absurd (hnone.symm.trans hown) nofun
  · rw [hown] at hsame
    cases hget : Tab.get none s.tags b with
    | none =>
      rw [Dev.tag, hget] at hsame
      exact hboot hsame.symm
    | some g =>
      rw [Dev.tag, hget] at hsame
      have hmine : b ∈ (s.tags.filter fun p => (p.2.map (·.owner)) == some (.holding h)).map (·.1) :=
        List.mem_map.2 ⟨(b, some g), List.mem_filter.2 ⟨Tab.mem_of_get hget nofun, by simpa using hsame.symm⟩, rfl⟩
      exact absurd ((s.unmapBlocks_owner _ b (.inl hmine)).symm.trans hown) nofun

/-- A holding that has closed, with its next epoch. -/
def Holding.closed (x : Holding) : Holding :=
  { state := .closed, epoch := nextEpoch x.epoch, abortDone := x.abortDone, sweep := nextEpoch x.epoch == 1
    generation := x.generation + 1 }

/-- The device without the holding's blocks, translations, queues and grants. -/
def Dev.released (s : Dev) (h : HoldId) (queues : List Nat) : Dev :=
  let s1 := (s.releaseBlocks h).dropCached h
  { s1 with queues := queues.foldl (fun t q => Tab.set {} t q {}) s1.queues, service := s1.service.dropGrants h }

end Close

section CloseCommand
variable {s : State} {n : Nat} {j : Job} {h : HoldId} (hold : j.holding? = some h) (ready : s.dev.jobReady n 0x0011 j)
  (hdisabled : (s.dev.holding h).state = .disabled)
include hold ready hdisabled

theorem exec_holdingClose_waits (hwaits : s.dev.headsFree h = none) : exec (.holdingClose n) s = .next s := by
  have hclose : s.dev.holdingClose n = s.dev := by
    unfold Dev.holdingClose
    rw [Dev.runHolding_of_jobReady ready rfl hold]
    dsimp only
    rw [hdisabled, hwaits]
    exact Dev.passTurn_of_jobReady ready
  change Host.Outcome.next { s with dev := s.dev.lifeScope (s.dev.holdingClose n) } = _
  rw [hclose, Dev.lifeScope_self]

/-- A holding closes once the heads of its queues have been told: its queues are free, and no block is its own. -/
theorem exec_holdingClose {d : Dev} (hheads : s.dev.headsFree h = some d) :
    ∃ t, exec (.holdingClose n) s = .next t ∧ t.pending = s.pending ∧ t.dev.answered j .ok 0
      ∧ (t.dev.holding h).state = .closed ∧ (t.dev.holding h).epoch = nextEpoch (s.dev.holding h).epoch
      ∧ (∀ q ∈ s.dev.queuesOf h, (t.dev.queue q).state = .free) ∧ (∀ b, (t.dev.tag b).owner ≠ .holding h)
      ∧ t.dev.mem = d.mem := by
  have hclose : s.dev.holdingClose n = ((((d.released h (s.dev.queuesOf h)).setFunc h fun _ =>
      (s.dev.holding h).closed).rebuildRegions).finishJob n .ok 0).passTurn j := by
    unfold Dev.holdingClose
    rw [Dev.runHolding_of_jobReady ready rfl hold]
    dsimp only
    rw [if_neg (by rw [hdisabled]; decide), hheads]
    rfl
  have hstands := s.dev.headsFree_standing h hheads
  have howner := d.releaseBlocks_owner h
  have hfreed : ∀ q ∈ s.dev.queuesOf h, ((d.released h (s.dev.queuesOf h)).queue q) = {} := fun q hq =>
    Tab.get_foldl_reset ({} : Queue) (.inl hq)
  obtain ⟨tags, htags⟩ := d.releaseBlocks_frame h
  obtain ⟨sent, hset⟩ := (d.released h (s.dev.queuesOf h)).setFunc_frame h fun _ => (s.dev.holding h).closed
  obtain ⟨regions, hregions⟩ := ((d.released h (s.dev.queuesOf h)).setFunc h fun _ => (s.dev.holding h).closed).rebuildRegions_frame
  have hgotre : (d.released h (s.dev.queuesOf h)).gotre = s.dev.gotre := by
    rw [Dev.released, htags]
    exact (congrArg (·.1.gotre) hstands :)
  have hmem : (d.released h (s.dev.queuesOf h)).mem = d.mem := by
    rw [Dev.released, htags]
    rfl
  have htagged : (d.released h (s.dev.queuesOf h)).tags = (d.releaseBlocks h).tags := rfl
  generalize d.released h (s.dev.queuesOf h) = r at hclose hfreed hset hregions hgotre hmem htagged
  obtain ⟨t, hexec, hpending, hanswer, hholdings, htags', hmem', -, hqueues⟩ := exec_finishes (i := .holdingClose n) ready
    (by rw [hregions, hset]; exact hgotre) rfl hclose
  rw [hregions, hset] at hholdings htags' hmem' hqueues
  have hholding : t.dev.holding h = (s.dev.holding h).closed :=
    (Dev.holding_congr hholdings h).trans ((Dev.holding_setHolding ..).trans (if_pos rfl))
  refine ⟨t, hexec, hpending, hanswer, by rw [hholding]; rfl, by rw [hholding]; rfl, fun q hq => ?_, fun b => ?_, hmem'.trans hmem⟩
  · rw [Dev.queue_congr (s := r) hqueues, hfreed q hq]
  · rw [Dev.tag_owner_congr (htags'.trans htagged)]
    exact howner b

end CloseCommand

/-! ### Enable, disable and abort by command (R437, R438) -/

section Answers
variable {s : Dev} {j : Job} {st : Status} {result : BitVec 128}

/-- A command that is answered stays so as others finish. -/
theorem Dev.answered_finishJob (hs : s.answered j st result) (m : Nat) (st' : Status) (result' : BitVec 128) :
    (s.finishJob m st' result').answered j st result := by
  obtain ⟨hposted, hdone⟩ := hs
  refine ⟨?_, fun k hk => ?_⟩
  · unfold Dev.finishJob
    split
    · split_ifs
      · exact hposted
      · exact hposted
      · exact List.mem_append_left _ hposted
    · exact hposted
  · by_cases hm : m = j.number
    · subst hm
      exact s.finishJob_ends _ st' result' hk
    · rw [Dev.job_finishJob_ne _ hm] at hk
      exact hdone k hk

/-- A command among those that finish is answered. -/
theorem Dev.finishJobs_answers {n : Nat} (hjob : s.job n = some j) (hnum : j.number = n) (hphase : j.phase = .accepted)
    (hdiscard : j.discard = false) {ns : List Nat} (hn : n ∈ ns) (st : Status) : (s.finishJobs ns st).answered j st 0 := by
  have hkeeps : ∀ (l : List Nat) (d : Dev), d.answered j st 0 → (d.finishJobs l st).answered j st 0 := fun l => by
    induction l with
    | nil => exact fun d hd => hd
    | cons m l ih => exact fun d hd => ih _ (Dev.answered_finishJob hd m st 0)
  induction ns generalizing s with
  | nil => exact absurd hn List.not_mem_nil
  | cons m ns ih =>
    by_cases hm : m = n
    · subst hm
      exact hkeeps ns _ (Dev.finishJob_answers hjob hnum hphase hdiscard st 0)
    · exact ih ((s.job_finishJob_ne hm st 0).trans hjob) ((List.mem_cons.1 hn).resolve_left (Ne.symm hm))

end Answers

section Enables
variable (s : Dev) (h : HoldId)

/-- A holding that a command asks to enable. -/
def Dev.asked (s : Dev) (h : HoldId) (n : Nat) : Dev := s.modHolding h fun y => { y with enableJobs := y.enableJobs ++ [n] }

theorem Dev.enable_eq : s.enable h = ((s.setFunc h Holding.enabledNow).modQueues h (s.holding h).wakeQueue).finishJobs
    (s.holding h).enableJobs .ok := rfl

/-- The commands that wait for a function to be enabled are answered. -/
theorem Dev.enable_answers {n : Nat} {j : Job} (hjob : s.job n = some j) (hnum : j.number = n) (hphase : j.phase = .accepted)
    (hdiscard : j.discard = false) (hn : n ∈ (s.holding h).enableJobs) : (s.enable h).answered j .ok 0 := by
  obtain ⟨sent, hset⟩ := s.setFunc_frame h Holding.enabledNow
  obtain ⟨queues, hqueues⟩ := (s.setFunc h Holding.enabledNow).modQueues_frame h (s.holding h).wakeQueue
  rw [s.enable_eq h]
  refine Dev.finishJobs_answers ?_ hnum hphase hdiscard hn .ok
  rw [hqueues, hset]
  exact hjob

/-- A READY queue of a function that is enabled is BOUND to its Expert stage, if it has one. -/
theorem Dev.enable_queue (q : Nat) (hq : q ∈ s.queuesOf h) (hready : (s.queue q).state = .ready) :
    ((s.enable h).queue q).state = if (s.holding h).bindsQueue q then .bound else .ready := by
  obtain ⟨sent, hset⟩ := s.setFunc_frame h Holding.enabledNow
  obtain ⟨g, hjobs⟩ := ((s.setFunc h Holding.enabledNow).modQueues h (s.holding h).wakeQueue).finishJobs_frame
    (s.holding h).enableJobs .ok
  have hwakes : ∀ x : Queue, x.state = .ready ∨ x.state = (if (s.holding h).bindsQueue q then .bound else .ready) →
      ((s.holding h).wakeQueue q x).state = if (s.holding h).bindsQueue q then .bound else .ready := by
    rintro x (hx | hx)
    · rw [Holding.wakeQueue, hx]
    · unfold Holding.wakeQueue
      split_ifs at hx ⊢
      · rw [hx]
        exact hx
      · rw [hx]
  rw [s.enable_eq h, hjobs]
  refine Dev.foldl_modQueue_mem (s := s.setFunc h Holding.enabledNow) (before := fun x => x.state = .ready
    ∨ x.state = if (s.holding h).bindsQueue q then .bound else .ready) (after := fun x => x.state
    = if (s.holding h).bindsQueue q then .bound else .ready) hwakes (fun _ hx => .inr hx) ?_ (.inl ?_)
  · rw [hset]
    exact hq
  · rw [hset]
    exact hready

/-- A command that its function's shut-down leaves to be answered. -/
theorem Dev.job_keepAccepted {n : Nat} {j : Job} (hjob : s.job n = some j) : ∃ k, (s.keepAccepted h).job n = some k := by
  have hkept : (s.keepAccepted h).job n = (s.job n).map fun j => if j.fn == vfOf h && j.phase == .accepted then { j with exempt := true }
      else j := by
    refine List.find?_map.trans ?_
    congr 2
    funext j
    dsimp only [Function.comp]
    split <;> rfl
  exact ⟨_, hkept.trans (congrArg _ hjob)⟩

theorem Dev.job_keepRunning {n : Nat} {j : Job} (hjob : s.job n = some j) :
    (s.keepRunning n).job n = some { j with phase := .running } :=
  (find?_map_of_same Job.number (f := fun j => { j with phase := .running }) (fun _ => rfl) n s.gotre.jobs).trans (congrArg _ hjob)

/-- A holding that shuts down until its drain ends, for the command that disabled it. -/
def Holding.shutting (x : Holding) (drain : Word64) (n : Nat) : Holding :=
  { x with state := .shuttingDown, drainEnd := some drain, disables := [n] }

/-- When the drain ends that a command asks for. -/
def Dev.drainAt (s : Dev) (j : Job) : Word64 :=
  s.dt + BitVec.ofNat 64 ((if j.param 13 0 = 0 then 100 else j.param 13 0) * msTicks)

end Enables

section FunctionCommands
variable {s : State} {n : Nat} {j : Job} {h : HoldId} (hold : j.holding? = some h)
include hold

theorem exec_functionEnable (ready : s.dev.jobReady n 0x0012 j) (hstate : (s.dev.holding h).state = .disabled)
    (hsweep : (s.dev.holding h).sweep = false) :
    ∃ t, exec (.functionEnable n) s = .next t ∧ t.pending = s.pending ∧ t.dev.answered j .ok 0
      ∧ t.dev.holding h = (s.dev.holding h).enabledNow
      ∧ (∀ q ∈ s.dev.queuesOf h, (s.dev.queue q).state = .ready →
          (t.dev.queue q).state = if (s.dev.holding h).bindsQueue q then .bound else .ready)
      ∧ t.dev.mem = s.dev.mem ∧ t.dev.tags = s.dev.tags := by
  have henable : s.dev.functionEnable n = ((s.dev.asked h n).enable h).passTurn j := by
    unfold Dev.functionEnable
    rw [Dev.runHolding_of_jobReady ready rfl hold]
    dsimp only
    rw [hstate]
    dsimp only
    rw [if_neg (by rw [hsweep]; decide)]
    rfl
  have hasked : (s.dev.asked h n).holding h = { s.dev.holding h with enableJobs := (s.dev.holding h).enableJobs ++ [n] } :=
    (s.dev.holding_modHolding h h fun y => { y with enableJobs := y.enableJobs ++ [n] }).trans (if_pos rfl)
  have hjobs : n ∈ ((s.dev.asked h n).holding h).enableJobs := by
    rw [hasked]
    exact List.mem_append_right _ (List.mem_singleton_self n)
  obtain ⟨hjob, hnum, -, hphase, hdiscard, -⟩ := ready
  have hanswer := (s.dev.asked h n).enable_answers h hjob hnum hphase hdiscard hjobs
  have hqueue := (s.dev.asked h n).enable_queue h
  have hholding := (s.dev.asked h n).holding_enable h
  obtain ⟨sent, queues, g, hframe⟩ := (s.dev.asked h n).enable_spec h
  have hmem : ((s.dev.asked h n).enable h).mem = s.dev.mem := by
    rw [hframe]
    rfl
  have htags : ((s.dev.asked h n).enable h).tags = s.dev.tags := by
    rw [hframe]
    rfl
  rw [hasked] at hholding hqueue
  generalize (s.dev.asked h n).enable h = d at henable hanswer hqueue hholding hmem htags
  obtain ⟨f, hturn⟩ := d.passTurn_frame j
  refine ⟨{ s with dev := s.dev.lifeScope (s.dev.functionEnable n) }, rfl, rfl, ?_⟩
  dsimp only
  rw [Dev.holding_congr (Dev.lifeScope_holdings ..) h, Dev.lifeScope_mem, Dev.lifeScope_tags, henable, hturn]
  refine ⟨Dev.answered_congr (by rw [Dev.lifeScope_gotre]) (by rw [Dev.lifeScope_gotre]) hanswer, hholding, fun q hq hwas => ?_, hmem, htags⟩
  rw [Dev.queue_congr (Dev.lifeScope_queues ..)]
  exact hqueue q hq hwas

theorem exec_functionDisable (ready : s.dev.jobReady n 0x0013 j) (hstate : (s.dev.holding h).state = .enabled) :
    ∃ t, exec (.functionDisable n) s = .next t ∧ t.pending = s.pending
      ∧ (t.dev.holding h).state = .shuttingDown ∧ (t.dev.holding h).disables = [n]
      ∧ (t.dev.holding h).drainEnd
          = some (s.dev.dt + BitVec.ofNat 64 ((if j.param 13 0 = 0 then 100 else j.param 13 0) * 940000))
      ∧ (∃ k, t.dev.job n = some k ∧ k.phase = .running) ∧ (t.dev.holding h).epoch = (s.dev.holding h).epoch
      ∧ t.dev.mem = s.dev.mem ∧ t.dev.queues = s.dev.queues := by
  obtain ⟨sent, hset⟩ := s.dev.setFunc_frame h fun y => y.shutting (s.dev.drainAt j) n
  have hdisable : s.dev.functionDisable n = ((((s.dev.setFunc h fun y => y.shutting (s.dev.drainAt j) n).keepAccepted h).keepRunning
      n).passTurn j) := by
    unfold Dev.functionDisable
    rw [Dev.runHolding_of_jobReady ready rfl hold]
    dsimp only
    rw [hstate]
    rfl
  obtain ⟨k, hkept⟩ := (s.dev.setFunc h fun y => y.shutting (s.dev.drainAt j) n).job_keepAccepted h (n := n) (j := j) (by
    rw [hset]
    exact ready.1)
  have hruns := Dev.job_keepRunning _ hkept
  obtain ⟨g, hkeeps⟩ : ∃ g, (((s.dev.setFunc h fun y => y.shutting (s.dev.drainAt j) n).keepAccepted h).keepRunning n)
      = { s.dev.setFunc h fun y => y.shutting (s.dev.drainAt j) n with gotre := g } := ⟨_, rfl⟩
  rw [hkeeps, hset] at hdisable hruns
  obtain ⟨f, hturn⟩ := ({ s.dev.setHolding h ((s.dev.holding h).shutting (s.dev.drainAt j) n) with outbox := sent, gotre := g }
    : Dev).passTurn_frame j
  rw [hturn] at hdisable
  have hholding : (s.dev.lifeScope (s.dev.functionDisable n)).holding h = (s.dev.holding h).shutting (s.dev.drainAt j) n := by
    rw [Dev.holding_congr (Dev.lifeScope_holdings ..) h, hdisable]
    exact (Dev.holding_setHolding ..).trans (if_pos rfl)
  refine ⟨{ s with dev := s.dev.lifeScope (s.dev.functionDisable n) }, rfl, rfl, ?_⟩
  dsimp only
  rw [hholding, Dev.lifeScope_mem, Dev.lifeScope_queues, Dev.job_congr (Dev.lifeScope_gotre ..), hdisable]
  exact ⟨rfl, rfl, rfl, ⟨_, hruns, rfl⟩, rfl, rfl, rfl⟩

theorem exec_functionAbort (ready : s.dev.jobReady n 0x0014 j) (hopen : (s.dev.holding h).state = .disabled
    ∨ (s.dev.holding h).state = .enabled ∨ (s.dev.holding h).state = .shuttingDown) :
    ∃ t, exec (.functionAbort n) s = .next t ∧ t.pending = s.pending
      ∧ (t.dev.holding h).state = .aborting ∧ (t.dev.holding h).epoch = nextEpoch (s.dev.holding h).epoch
      ∧ (n, Status.ok) ∈ (t.dev.holding h).settled ∧ t.dev.mem = s.dev.mem ∧ t.dev.tags = s.dev.tags := by
  have habort : s.dev.functionAbort n = ((((s.dev.beginAbort h .aborted).modHolding h fun y =>
      { y with settled := y.settled ++ [(n, .ok)] }).keepRunning n).passTurn j) := by
    unfold Dev.functionAbort
    rw [Dev.runHolding_of_jobReady ready rfl hold]
    dsimp only
    rw [Dev.abortHolding_of_open hopen]
  obtain ⟨-, -, hmem, htags, -⟩ := s.dev.beginAbort_spec h .aborted
  have hstate := s.dev.beginAbort_field h .aborted Holding.state fun _ => rfl
  have hepoch := s.dev.beginAbort_field h .aborted Holding.epoch fun _ => rfl
  generalize s.dev.beginAbort h .aborted = d at habort hmem htags hstate hepoch
  obtain ⟨f, hturn⟩ := ((d.modHolding h fun y => { y with settled := y.settled ++ [(n, .ok)] }).keepRunning n).passTurn_frame j
  have hholding : ((s.dev.lifeScope (s.dev.functionAbort n)).holding h)
      = { d.holding h with settled := (d.holding h).settled ++ [(n, .ok)] } := by
    rw [Dev.holding_congr (Dev.lifeScope_holdings ..) h, habort, hturn]
    exact (d.holding_modHolding h h fun y => { y with settled := y.settled ++ [(n, .ok)] }).trans (if_pos rfl)
  refine ⟨{ s with dev := s.dev.lifeScope (s.dev.functionAbort n) }, rfl, rfl, ?_⟩
  dsimp only
  rw [hholding, Dev.lifeScope_mem, Dev.lifeScope_tags, habort, hturn]
  exact ⟨hstate, hepoch, List.mem_append_right _ (List.mem_singleton_self _), hmem, htags⟩

end FunctionCommands

/-- Settles O46, clause by clause: what opening takes from the free units (`exec_holdingOpen`), what closing gives back
(`exec_holdingClose`), and what the commands of a function do to its state. -/
theorem holdingsOpenCloseAndChangeState : Obligations.HoldingsOpenCloseAndChangeState := by
  unfold Obligations.HoldingsOpenCloseAndChangeState
  intro s n j h hold
  refine ⟨fun ready hclosed hcores hnear hfar hqueues => ?_, fun ready hdisabled => ⟨fun d hheads =>
    exec_holdingClose hold ready hdisabled hheads, exec_holdingClose_waits hold ready hdisabled⟩, fun ready hstate hsweep => ?_,
    exec_functionDisable hold, exec_functionAbort hold⟩
  · obtain ⟨near, far, hnearLen, hfarLen, hnearMem, hfarMem, t, hexec, hpending, hanswer, hholding, hmem, htags⟩ :=
      exec_holdingOpen hold ready hclosed hcores hnear hfar hqueues
    refine ⟨t, hexec, hpending, hanswer, ?_⟩
    rw [hholding]
    exact ⟨rfl, rfl, rfl, rfl, hnearLen, hfarLen, hnearMem, hfarMem, hmem, htags⟩
  · obtain ⟨t, hexec, hpending, hanswer, hholding, hqueues, hmem, htags⟩ := exec_functionEnable hold ready hstate hsweep
    refine ⟨t, hexec, hpending, hanswer, ?_⟩
    rw [hholding]
    exact ⟨rfl, rfl, rfl, hqueues, hmem, htags⟩

end Sys2Proof.Machine

/-! Fences and the decision of a checker's disagreement (R19 to R21, R381, R382, R385 to R387, R414). -/

namespace Sys2Proof.Machine

theorem Dev.die_congr {s t : Dev} (h : t.dies = s.dies) (d : Nat) : t.die d = s.die d := by simp only [Dev.die, h]
theorem Dev.fenceScope_self (s : Dev) : s.fenceScope s = s := by
  cases s
  rfl

/-! ### What is fenced, beside everything that a fence does -/

/-- The cores that are fenced, and the dies. -/
def Dev.fences (s : Dev) : (CoreId → Bool) × Tab Die := (fun c => (s.core c).fenced, s.dies)

section Parts
variable {s t : Dev}

theorem Dev.fences_of (hcores : t.cores = s.cores) (hdies : t.dies = s.dies) : t.fences = s.fences := by
  simp only [Dev.fences, Dev.core, hcores, hdies]

theorem Dev.fences_of_standing (h : t.standing = s.standing) : t.fences = s.fences :=
  Dev.fences_of (congrArg (·.1.cores) h :) (congrArg (·.1.dies) h :)

theorem Dev.Tells.fences (h : s.Tells t) : t.fences = s.fences :=
  Dev.fences_of (congrArg Dev.cores h.untold :) (congrArg Dev.dies h.untold :)

theorem Dev.fenced_of_fences (h : t.fences = s.fences) (c : CoreId) : (t.core c).fenced = (s.core c).fenced :=
  congrFun (congrArg Prod.fst h) c

theorem Dev.dies_of_fences (h : t.fences = s.fences) : t.dies = s.dies := congrArg Prod.snd h

theorem foldl_fences {α : Type} {f : Dev → α → Dev} (h : ∀ d a, (f d a).fences = d.fences) (s : Dev) (l : List α) :
    (l.foldl f s).fences = s.fences := foldl_preserves Dev.fences h s l

/-- A core changes, and stays fenced or not as it was. -/
theorem Dev.modCore_fences (s : Dev) (c : CoreId) {f : Core → Core} (hf : ∀ x, (f x).fenced = x.fenced) :
    (s.modCore c f).fences = s.fences := by
  refine Prod.ext (funext fun k => ?_) rfl
  change ((s.modCore c f).core k).fenced = (s.core k).fenced
  rw [Dev.core_modCore]
  split
  next hk => rw [hf, hk]
  next => rfl

end Parts

theorem Dev.count_fences (s : Dev) (h : Option HoldId) (a n : Nat) : (s.count h a n).fences = s.fences := rfl
theorem Dev.modHolding_fences (s : Dev) (h : HoldId) (f : Holding → Holding) : (s.modHolding h f).fences = s.fences := rfl
theorem Dev.event_fences (s : Dev) (a : Nat) (b : Word32) : (s.event a b).fences = s.fences := rfl

/-! ### What a core's fence and its holding's abort leave alone -/

section Aborts
variable (s : Dev)

theorem Dev.finishJob_fences (n : Nat) (st : Status) (result : BitVec 128) : (s.finishJob n st result).fences = s.fences := by
  obtain ⟨g, hg⟩ := s.finishJob_frame n st result
  rw [hg]
  rfl

theorem Dev.endActivity_fences (n : Nat) (st : ActState) (status : Status) : (s.endActivity n st status).fences = s.fences := by
  unfold Dev.endActivity
  split
  · rfl
  · split
    · rfl
    · dsimp only
      split
      · exact Dev.finishJob_fences ..
      · rfl

theorem Dev.endReadmits_fences (u : UnitName) (cause : FenceCause) : (s.endReadmits u cause).fences = s.fences := by
  unfold Dev.endReadmits
  split
  · rfl
  · exact foldl_fences (fun d a => d.endActivity_fences ..) _ _

theorem Dev.releaseHelper_fences (c : CoreId) : (s.releaseHelper c).fences = s.fences := by
  unfold Dev.releaseHelper
  split
  · exact s.modCore_fences _ fun _ => rfl
  · rfl

theorem Dev.countSquash_fences (h : Option HoldId) (c : CoreId) (bytes bad : Nat) :
    (s.countSquash h c bytes bad).fences = s.fences := Dev.fences_of_standing (s.countSquash_standing h c bytes bad)

theorem Dev.squash_fences (h : Option HoldId) (c : CoreId) (drop : PfSector → Bool) : (s.squash h c drop).fences = s.fences := by
  unfold Dev.squash
  dsimp only
  split
  · rfl
  · exact (Dev.countSquash_fences ..).trans (s.modCore_fences c fun _ => rfl)

theorem Dev.releaseRetained_fences (t : Transfer) : (s.releaseRetained t).fences = s.fences := by
  unfold Dev.releaseRetained
  split
  · exact s.modCore_fences _ fun _ => rfl
  · rfl

theorem Dev.squashAll_fences (h : Option HoldId) (c : CoreId) : (s.squashAll h c).fences = s.fences := by
  unfold Dev.squashAll
  extract_lets boxes came s1 s2
  refine (foldl_fences (fun d t => d.releaseRetained_fences t) _ _).trans ((Dev.modCore_fences (f := fun x => { x with inbox := [] }) s2 c fun _ => rfl).trans ?_)
  unfold s2
  split
  · exact s.squash_fences ..
  · refine (Dev.countSquash_fences ..).trans ?_
    split
    · exact (Dev.modCore_fences (f := Core.nextEpoch) s1 c fun _ => rfl).trans (s.squash_fences ..)
    · exact s.squash_fences ..

theorem Dev.setFunc_fences (h : HoldId) (f : Holding → Holding) : (s.setFunc h f).fences = s.fences := by
  obtain ⟨sent, hset⟩ := s.setFunc_frame h f
  rw [hset]
  rfl

theorem Dev.abortNotice_fences (h : HoldId) (e : BitVec 16) : (s.abortNotice h e).fences = s.fences :=
  foldl_fences (fun d _ => (d.send_tells ..).fences) _ _

theorem Dev.settleEgress_fences (mine : EgressItem → Bool) (kind : Clearance) : (s.settleEgress mine kind).fences = s.fences :=
  Dev.fences_of_standing (s.settleEgress_standing mine kind)

theorem Dev.beginAbort_fences (h : HoldId) (st : Status) : (s.beginAbort h st).fences = s.fences := by
  unfold Dev.beginAbort
  extract_lets e g s1 gate pend stale dbg s2 s3
  have hstart : s2.fences = s.fences := s.setFunc_fences ..
  have hnotice : s3.fences = s2.fences :=
    (Dev.settleEgress_fences ..).trans ((Dev.abortNotice_fences ..).trans (foldl_fences (fun d a => d.count_fences ..) _ _))
  refine (foldl_fences (fun d c => ?_) _ _).trans (hnotice.trans hstart)
  exact (Dev.modCore_fences _ c (f := Core.abort) fun _ => rfl).trans ((Dev.squashAll_fences _ (some h) c).trans
    (d.releaseHelper_fences c))

theorem Dev.endHolding_fences (h : HoldId) (cause : Status) : (s.endHolding h cause).fences = s.fences := by
  unfold Dev.endHolding
  split
  · exact Dev.beginAbort_fences ..
  · exact Dev.beginAbort_fences ..
  · exact Dev.beginAbort_fences ..
  · rfl

theorem Core.setWords_fenced (x : Core) (p i : Nat) (ws : List PWord) : (x.setWords p i ws).fenced = x.fenced := by
  unfold Core.setWords
  split_ifs <;> rfl

/-- A tile that a core loads for its inherited stage. -/
theorem Dev.loadTile_fences (c : CoreId) (p tile : Nat) (ws : List PWord) :
    (s.modCore c fun x => { x.setWords p 0 ws with gradDirty := (x.setWords p 0 ws).gradDirty.filter (· != tile) }).fences
      = s.fences :=
  s.modCore_fences c fun x => x.setWords_fenced p 0 ws

theorem Dev.loadHome_fences (h : HoldId) (c : CoreId) (g : StageDef) : (s.loadHome h c g).fences = s.fences := by
  unfold Dev.loadHome
  extract_lets a
  refine foldl_fences (fun d i => ?_) s _
  exact (Dev.loadTile_fences _ c (16 + g.gradFirst + i) (g.gradFirst + i) _).trans (Dev.fences_of_standing (d.readOut_standing ..))

theorem Dev.bringHome_fences (h : HoldId) (c : CoreId) (g : StageDef) : (s.bringHome h c g).fences = s.fences := by
  unfold Dev.bringHome
  extract_lets a late
  refine (Dev.modHolding_fences ..).trans ?_
  split
  · rfl
  · exact s.loadHome_fences ..

theorem Dev.passStage_fences (h : HoldId) (g : Stage) : (s.passStage h g).fences = s.fences := by
  unfold Dev.passStage
  dsimp only
  split
  · exact (Dev.event_fences ..).trans ((Dev.count_fences ..).trans ((Dev.bringHome_fences ..).trans (s.modHolding_fences ..)))
  · rfl

theorem Dev.passStages_fences (h : HoldId) (c : CoreId) : (s.passStages h c).fences = s.fences := by
  refine foldl_fences (fun d g => ?_) _ _
  split
  · exact d.passStage_fences ..
  · rfl

theorem Dev.reissueTiles_fences (h : HoldId) (c : CoreId) : (s.reissueTiles h c).fences = s.fences := by
  refine foldl_fences (fun d k => ?_) _ _
  dsimp only
  split <;> rfl

end Aborts

/-! ### Pending writes as they are settled (R383, R385) -/

section Settling
variable (s : Dev)

theorem Dev.clear_standing (b : Nat) (secs : List Nat) (o : Owner) (e : BitVec 16) (kind : Clearance) :
    (s.clear b secs o e kind).standing = s.standing := (Dev.releaseTimes_standing _ _).trans (s.request_standing _)

theorem Dev.cross_standing (requester here goal : Nat) : (s.cross requester here goal).standing = s.standing := by
  unfold Dev.cross
  split <;> rfl

theorem Dev.settleOne_fences (p : PendWrite) (kind : Clearance) : (s.settleOne p kind).fences = s.fences := by
  refine (Dev.fences_of_standing ((Dev.clear_standing ..).trans (Dev.cross_standing ..))).trans ?_
  cases kind with
  | withdraw => rfl
  | pass => rfl
  | fail =>
    dsimp only
    split <;> rfl

theorem Dev.settlePend_fences (agent : Nat) : (s.settlePend agent).fences = s.fences :=
  (Dev.settleEgress_fences ..).trans (foldl_fences (fun d _ => d.settleOne_fences ..) _ _)

theorem Dev.settleDecided_fences (c : CoreId) (x : UnitPart) (kind : Clearance) : (s.settleDecided c x kind).fences = s.fences :=
  (Dev.settleEgress_fences ..).trans (foldl_fences (fun d _ => d.settleOne_fences ..) _ _)

/-- A fenced core is fenced, and the others and the dies stay as they were. -/
theorem Dev.fenceCore_spec (c : CoreId) (cause : FenceCause) : ((s.fenceCore c cause).core c).fenced = true
    ∧ (s.fenceCore c cause).dies = s.dies := by
  unfold Dev.fenceCore
  split
  next hfenced => exact ⟨hfenced, rfl⟩
  · extract_lets h s1 s2 s3 s4
    have hsettled : (s1.squashAll h c).fences = s.fences :=
      (Dev.squashAll_fences ..).trans ((Dev.settlePend_fences ..).trans (s.releaseHelper_fences c))
    have hnoted : s4.fences = s2.fences := Dev.endReadmits_fences ..
    have hstop : (s2.core c).fenced = true := by
      rw [show s2 = (s1.squashAll h c).modCore c Core.fence from rfl, Dev.core_modCore, if_pos rfl]
      rfl
    have hdies : s2.dies = s.dies := (Dev.dies_of_fences hsettled :)
    have hends : ∀ d : Dev, d.fences = s4.fences → (d.core c).fenced = true ∧ d.dies = s.dies := fun d hd =>
      ⟨(Dev.fenced_of_fences (hd.trans hnoted) c).trans hstop, (Dev.dies_of_fences (hd.trans hnoted)).trans hdies⟩
    clear_value s4 h
    split
    · exact hends _ rfl
    next h' _ =>
      extract_lets s5
      have hpass : s5.fences = s4.fences := (Dev.passStages_fences ..).trans (Dev.reissueTiles_fences ..)
      split
      · exact hends _ hpass
      · exact hends _ ((s5.endHolding_fences ..).trans hpass)

theorem Dev.endFenced_fenced (c : CoreId) (x : UnitPart) (kind : Clearance) (cause : FenceCause) :
    ((s.endFenced c x kind cause).core c).fenced = true := (Dev.fenceCore_spec _ c cause).1

end Settling

/-! ### Dies as they are fenced (R21) -/

section Dies
variable (s : Dev)

theorem Dev.noteFenceAll_dies : s.noteFenceAll.dies = s.dies := 
  foldl_preserves Dev.dies (f := Dev.noteFence) (fun _ _ => rfl) s _

/-- A die that is marked stays so while the rest of its fence is done. -/
theorem Dev.modDie_fenced {d : Nat} {t : Dev} (h : t.dies = (s.modDie d fun x => { x with fenced := true }).dies) :
    (t.die d).fenced = true := by
  have hdie : t.die d = (s.modDie d fun x => { x with fenced := true }).die d := Dev.die_congr h d
  rw [hdie, Dev.die_modDie, if_pos rfl]

theorem Dev.moveCounters_dies (d : Nat) : (s.moveCounters d).dies = s.dies := by
  refine foldl_preserves Dev.dies (fun e h => ?_) s _
  refine (foldl_preserves Dev.dies (fun f k => ?_) _ _).trans (b := (e.modHolding h _).dies) rfl
  split
  · split <;> rfl
  · rfl

theorem Dev.fenceCompute_fenced (d : Nat) (cause : FenceCause) : ((s.fenceCompute d cause).die d).fenced = true := by
  refine s.modDie_fenced ((foldl_preserves Dev.dies (fun e b => Dev.dies_of_fences (e.cancelBatch_tells ..).fences) _ _).trans ?_)
  refine (foldl_preserves Dev.dies (fun e c => (e.fenceCore_spec c .die).2) _ _).trans ((Dev.moveCounters_dies ..).trans ?_)
  exact foldl_preserves Dev.dies (f := Dev.noteFence) (fun _ _ => rfl) _ _

theorem Dev.disablePort_dies (p : PortId) : (s.disablePort p).dies = s.dies := by
  obtain ⟨bits, htells⟩ := s.setPortState_tells p .disabled fun q => { q.drop with failures := 0 }
  exact Dev.dies_of_fences htells.fences

theorem Dev.moveGate_dies (p : PortId) : (s.moveGate p).dies = s.dies := Dev.dies_of_fences (Dev.runGate_tells _).fences

theorem Dev.resendHome_dies (p : PortId) : (s.resendHome p).dies = s.dies :=
  foldl_preserves Dev.dies (fun d _ => Dev.dies_of_fences (d.resend_tells ..).fences) _ _

theorem Dev.fenceLink_fenced (p : PortId) (cause : FenceCause) : ((s.fenceLink p cause).die (linkDie p)).fenced = true := by
  refine s.modDie_fenced ?_
  unfold Dev.fenceLink
  extract_lets d s1 s2 s3
  refine (Dev.resendHome_dies ..).trans ((Dev.moveGate_dies ..).trans ((Dev.dies_of_fences (s3.settlePend_fences _)).trans ?_))
  refine (foldl_preserves Dev.dies (f := fun (e : Dev) h => e.modHolding h fun x => x.loseLink p) (fun _ _ => rfl) _ _).trans
    ((Dev.disablePort_dies ..).trans ?_)
  exact Dev.noteFenceAll_dies _

theorem Dev.fenceDie_fenced_of {d : Nat} {cause : FenceCause} {r : Dev}
    (hr : s.fenceDie d cause = r.endReadmits (.die d) cause) (hfenced : (r.die d).fenced = true) :
    ((s.fenceDie d cause).die d).fenced = true := by
  have hdies : (s.fenceDie d cause).dies = r.dies := by
    rw [hr]
    exact Dev.dies_of_fences (Dev.endReadmits_fences ..)
  exact (congrArg Die.fenced (Dev.die_congr hdies d)).trans hfenced

end Dies

/-! ### Which counters memory and the egress hold touch (R225 to R238, R395) -/

/-- The counters of the compute dies. -/
def Dev.coreCtrs (s : Dev) (a : Nat) : Word64 := if a < regAt 32 0 then s.ctr a else 0

theorem Dev.ctr_of_coreCtrs {s t : Dev} (h : t.coreCtrs = s.coreCtrs) {a : Nat} (ha : a < regAt 32 0) : t.ctr a = s.ctr a := by
  have hat := congrFun h a
  rwa [Dev.coreCtrs, Dev.coreCtrs, if_pos ha, if_pos ha] at hat

theorem stackReg_ge (k : StackId) (off : Nat) : regAt 32 0 ≤ stackReg k off := by
  simp only [regAt, stackReg, stackDie]
  split <;> omega

section Controllers
variable (s : Dev)

theorem Dev.count_coreCtrs (h : Option HoldId) {b : Nat} (hb : regAt 32 0 ≤ b) (n : Nat) : (s.count h b n).coreCtrs = s.coreCtrs := by
  funext a
  simp only [Dev.coreCtrs]
  split
  next ha => exact Dev.ctr_count_ne s h (by omega) n
  next => rfl

theorem Dev.countFree_coreCtrs (h : Option HoldId) {b : Nat} (hb : regAt 32 0 ≤ b) : (s.countFree h b).coreCtrs = s.coreCtrs :=
  Dev.count_coreCtrs _ h hb _

@[simp] theorem Dev.event_coreCtrs (a : Nat) (b : Word32) : (s.event a b).coreCtrs = s.coreCtrs := rfl
@[simp] theorem Dev.emit_coreCtrs (e : Emit) : (s.emit e).coreCtrs = s.coreCtrs := rfl
@[simp] theorem Dev.setTag_coreCtrs (b : Nat) (t : Tag) : (s.setTag b t).coreCtrs = s.coreCtrs := rfl
@[simp] theorem Dev.modHolding_coreCtrs (h : HoldId) (f : Holding → Holding) : (s.modHolding h f).coreCtrs = s.coreCtrs := rfl

@[simp] theorem Dev.metPoison_coreCtrs (h : Option HoldId) (n : Nat) : (s.metPoison h n).coreCtrs = s.coreCtrs := by
  cases h <;> rfl

@[simp] theorem Dev.countMem_coreCtrs (k : StackId) (o : Owner) (off n : Nat) : (s.countMem k o off n).coreCtrs = s.coreCtrs :=
  s.count_coreCtrs _ (stackReg_ge k off) n

@[simp] theorem Dev.tagRead_coreCtrs (k : StackId) (o : Owner) : (s.tagRead k o).coreCtrs = s.coreCtrs :=
  s.countFree_coreCtrs _ (stackReg_ge k _)

@[simp] theorem Dev.lcSlots_coreCtrs (k : StackId) (cls : MemClass) : (s.lcSlots k cls).coreCtrs = s.coreCtrs := by
  unfold Dev.lcSlots
  split
  · exact s.countFree_coreCtrs _ (stackReg_ge k _)
  · rfl

@[simp] theorem Dev.offlineAccess_coreCtrs (k : StackId) (o : Owner) : (s.offlineAccess k o).coreCtrs = s.coreCtrs := by
  unfold Dev.offlineAccess
  split
  · rfl
  · exact s.countMem_coreCtrs ..

theorem Dev.stored_coreCtrs (m : List Host.Cell) (p : Tab Bool) : ({ s with mem := m, secPoison := p } : Dev).coreCtrs = s.coreCtrs := rfl

@[simp] theorem Dev.eccRead_coreCtrs (k : StackId) (o : Owner) (sec : Nat) (e : EccOutcome) :
    (s.eccRead k o sec e).coreCtrs = s.coreCtrs := by
  cases e with
  | clean => rfl
  | corrected => exact s.countMem_coreCtrs ..
  | miscorrected x => exact (Dev.countMem_coreCtrs ..).trans (s.stored_coreCtrs _ _)
  | uncorrectable =>
    dsimp only [Dev.eccRead]
    exact (Dev.stored_coreCtrs _ _ _).trans (s.countMem_coreCtrs k o 0x50 1)

@[simp] theorem Dev.meetEcc_coreCtrs (k : StackId) (o : Owner) (sec : Nat) : (s.meetEcc k o sec).coreCtrs = s.coreCtrs := by
  unfold Dev.meetEcc
  split
  · rfl
  · exact Dev.eccRead_coreCtrs ..

@[simp] theorem Dev.meetAll_coreCtrs (k : StackId) (o : Owner) (secs : List Nat) : (s.meetAll k o secs).coreCtrs = s.coreCtrs :=
  foldl_preserves Dev.coreCtrs (fun d x => d.meetEcc_coreCtrs k o x) s secs

@[simp] theorem Dev.readSector1_coreCtrs (sec : Nat) (o : Owner) : (s.readSector1 sec o).2.coreCtrs = s.coreCtrs := by
  unfold Dev.readSector1
  dsimp only
  split_ifs <;> simp

@[simp] theorem Dev.readSector_coreCtrs (sec : Nat) (o : Owner) : (s.readSector sec o).2.coreCtrs = s.coreCtrs := by
  unfold Dev.readSector
  dsimp only
  split <;> simp

@[simp] theorem Dev.readSectors_coreCtrs (o : Owner) (secs : List Nat) : (s.readSectors o secs).2.coreCtrs = s.coreCtrs := by
  induction secs generalizing s with
  | nil => rfl
  | cons x xs ih => exact (ih _).trans (s.readSector_coreCtrs x o)

@[simp] theorem Dev.readBlock_coreCtrs (b : Nat) (o : Owner) : (s.readBlock b o).2.2.coreCtrs = s.coreCtrs := by
  unfold Dev.readBlock Dev.verdict
  dsimp only
  split_ifs <;> simp

@[simp] theorem Dev.freshBlock_coreCtrs (b : Nat) (whole : Bool) : (s.freshBlock b whole).coreCtrs = s.coreCtrs := by
  cases whole <;> rfl

@[simp] theorem Dev.putBytes_coreCtrs (pa : Nat) (data : List (Option PByte)) (e : BitVec 16) :
    (s.putBytes pa data e).coreCtrs = s.coreCtrs := rfl

@[simp] theorem Dev.storeBlock_coreCtrs (pa : Nat) (data : List (Option PByte)) (o : Owner) (e : BitVec 16) (pending : Bool) :
    (s.storeBlock pa data o e pending).coreCtrs = s.coreCtrs := by
  unfold Dev.storeBlock
  dsimp only
  split_ifs <;> simp

@[simp] theorem Dev.writeBlock_coreCtrs (pa : Nat) (data : List (Option PByte)) (o : Owner) (e : BitVec 16) (pending : Bool) :
    (s.writeBlock pa data o e pending).coreCtrs = s.coreCtrs := by
  unfold Dev.writeBlock
  dsimp only
  split_ifs <;> simp

@[simp] theorem Dev.clearTag_coreCtrs (b : Nat) (secs : List Nat) (kind : Clearance) :
    (s.clearTag b secs kind).coreCtrs = s.coreCtrs := by
  cases kind <;> rfl

@[simp] theorem Dev.scrubTag_coreCtrs (b : Nat) (k : StackId) : (s.scrubTag b k).coreCtrs = s.coreCtrs := by
  unfold Dev.scrubTag
  dsimp only
  split_ifs <;> simp

@[simp] theorem Dev.scrubRead_coreCtrs (b : Nat) : (s.scrubRead b).coreCtrs = s.coreCtrs := by
  unfold Dev.scrubRead
  dsimp only
  split <;> simp

theorem ctlReg_ge (off : Nat) : regAt 32 0 ≤ regAt ctl off := by
  simp only [regAt, ctl]
  omega

@[simp] theorem Dev.mirrorFirst_coreCtrs (b : Nat) : (s.mirrorFirst b).coreCtrs = s.coreCtrs := by
  refine foldl_preserves Dev.coreCtrs (fun d h => ?_) s _
  dsimp only
  split
  · rfl
  · split
    · rfl
    · rw [Dev.countFree_coreCtrs _ _ (ctlReg_ge _), Dev.modHolding_coreCtrs, Dev.readBlock_coreCtrs]

@[simp] theorem Dev.perform_coreCtrs (r : MemReq) : (s.perform r).coreCtrs = s.coreCtrs := by
  unfold Dev.perform
  cases r with
  | read sec whole o cls wait => dsimp only; split <;> simp
  | write pa o e cls data pending => simp
  | clear b secs o e kind => dsimp only; split <;> simp
  | scrub b => simp

@[simp] theorem Dev.noteFullPending_coreCtrs (r : MemReq) (why : WaitFor) : (s.noteFullPending r why).coreCtrs = s.coreCtrs := by
  unfold Dev.noteFullPending
  split
  · exact s.countMem_coreCtrs ..
  · rfl

theorem Dev.request_coreCtrs (r : MemReq) : (s.request r).coreCtrs = s.coreCtrs := by
  unfold Dev.request
  split
  · exact Dev.noteFullPending_coreCtrs ..
  · exact s.perform_coreCtrs r

theorem Dev.releaseFrom_coreCtrs (kept ws : List MemWait) : (s.releaseFrom kept ws).coreCtrs = s.coreCtrs := by
  induction ws generalizing s kept with
  | nil => rfl
  | cons w ws ih =>
    unfold Dev.releaseFrom
    split
    · exact ih ..
    · split
      · split <;> simp [ih]
      · rw [ih]
        split <;> simp

theorem Dev.releaseTimes_coreCtrs (n : Nat) : (s.releaseTimes n).coreCtrs = s.coreCtrs := by
  induction n generalizing s with
  | zero => rfl
  | succ n ih =>
    unfold Dev.releaseTimes
    dsimp only
    split
    · exact s.releaseFrom_coreCtrs ..
    · exact (ih _).trans (s.releaseFrom_coreCtrs ..)

theorem Dev.clear_coreCtrs (b : Nat) (secs : List Nat) (o : Owner) (e : BitVec 16) (kind : Clearance) :
    (s.clear b secs o e kind).coreCtrs = s.coreCtrs := (Dev.releaseTimes_coreCtrs _ _).trans (s.request_coreCtrs _)

theorem Dev.drainEgress_coreCtrs (l : List EgressItem) : (s.drainEgress l).coreCtrs = s.coreCtrs := by
  induction l generalizing s with
  | nil => rfl
  | cons i l ih =>
    unfold Dev.drainEgress
    split
    · rfl
    · refine (ih _).trans ?_
      unfold Dev.endEgress
      split
      · exact s.count_coreCtrs _ (ctlReg_ge _) 1
      · rfl

theorem Dev.settleEgress_coreCtrs (mine : EgressItem → Bool) (kind : Clearance) :
    (s.settleEgress mine kind).coreCtrs = s.coreCtrs := by
  unfold Dev.settleEgress
  extract_lets hit s1
  have hcycles : s1.coreCtrs = s.coreCtrs :=
    foldl_preserves Dev.coreCtrs (f := fun d i => d.heldCycles i.holding) (fun d i => d.countFree_coreCtrs _ (ctlReg_ge _)) s hit
  split
  · rfl
  · exact (Dev.drainEgress_coreCtrs _ _).trans hcycles

/-- The outputs of a decision unit that passed are counted nowhere. -/
theorem Dev.settlePassed_coreCtrs (c : CoreId) (x : UnitPart) : (s.settleDecided c x .pass).coreCtrs = s.coreCtrs := by
  refine (Dev.settleEgress_coreCtrs ..).trans (foldl_preserves Dev.coreCtrs (fun d p => ?_) _ _)
  refine (Dev.clear_coreCtrs ..).trans ?_
  unfold Dev.cross
  dsimp only
  split <;> rfl

theorem Dev.settlePassed_standing (c : CoreId) (x : UnitPart) :
    (s.settleDecided c x .pass).cores = s.cores ∧ (s.settleDecided c x .pass).dies = s.dies := by
  have hcores : (s.settleDecided c x .pass).cores = s.cores := by
    refine (congrArg (·.1.cores) (Dev.settleEgress_standing ..) :).trans (foldl_preserves Dev.cores (fun d p => ?_) _ _)
    exact (congrArg (·.1.cores) ((Dev.clear_standing ..).trans (Dev.cross_standing ..)) :)
  exact ⟨hcores, Dev.dies_of_fences (s.settleDecided_fences c x .pass)⟩

end Controllers

/-! ### CHECKER_DISAGREEMENT and NEIGHBOUR_RECOMPUTE (R72, R381, R382, R386, R387) -/

section Registers
variable (c n : CoreId)

theorem chkReg_lt {a : Nat} (ha : a < 0x80) : chkReg c a < regAt 32 0 := by
  have hc := c.isLt
  simp only [chkReg, coreReg, regAt]
  omega

theorem chkReg_ne_plgReg {a : Nat} (ha : a < 0x80) : chkReg c a ≠ plgReg n 0x38 := by
  simp only [chkReg, plgReg, coreReg, regAt]
  omega

theorem chkReg_ne_stallReg {a u : Nat} (ha : a < 0x80) (hu : u < 4) : chkReg c a ≠ stallReg n u 8 := by
  simp only [chkReg, stallReg, coreReg, regAt]
  omega

theorem chkReg_ne_of_ne {a b : Nat} (hab : a ≠ b) : chkReg c a ≠ chkReg c b := by
  simp only [chkReg, coreReg, regAt]
  omega

end Registers

section Counting
variable (s : Dev) (c : CoreId) (u : CoreUnit)

/-- The tables that counting a disagreement leaves alone. -/
def Dev.besideCounts (s : Dev) : (Tab Core × Tab Queue × List Host.Cell × Tab (Option Tag)) × Tab Die := (s.still, s.dies)

theorem Dev.countDisagreement_beside : (s.countDisagreement c u).besideCounts = s.besideCounts := by
  cases u <;> rfl

theorem Dev.countDisagreement_count : (s.countDisagreement c u).ctr (chkReg c 0x08) = addStop64 (s.ctr (chkReg c 0x08)) 1 := by
  have hfirst := s.ctr_count_same (s.holdingOfCore c) (chkReg c 0x08) 1
  cases u with
  | plough => exact (Dev.ctr_count_ne _ _ (chkReg_ne_plgReg c c (by decide)) _).trans hfirst
  | vector => exact hfirst
  | windrow => exact hfirst
  | copy => exact hfirst
  | sequencer => exact hfirst

theorem Dev.countDisagreement_ctr {a : Nat} (ha : a < 0x80) (hne : a ≠ 0x08) :
    (s.countDisagreement c u).ctr (chkReg c a) = s.ctr (chkReg c a) := by
  have hfirst := Dev.ctr_count_ne s (s.holdingOfCore c) (chkReg_ne_of_ne c hne) 1
  cases u with
  | plough => exact (Dev.ctr_count_ne _ _ (chkReg_ne_plgReg c c ha) _).trans hfirst
  | vector => exact hfirst
  | windrow => exact hfirst
  | copy => exact hfirst
  | sequencer => exact hfirst

theorem Dev.checkWaits_beside (n : CoreId) : (s.checkWaits n).besideCounts = s.besideCounts :=
  foldl_preserves Dev.besideCounts (f := fun d u => d.countFree (s.holdingOfCore n) (stallReg n u Dev.checkWaits.checkCause))
    (fun _ _ => rfl) s _

theorem Dev.checkWaits_ctr (n : CoreId) {a : Nat} (ha : a < 0x80) : (s.checkWaits n).ctr (chkReg c a) = s.ctr (chkReg c a) :=
  List.foldlRecOn _ _ (motive := fun d : Dev => d.ctr (chkReg c a) = s.ctr (chkReg c a)) rfl fun _ hd _ hu =>
    (Dev.countFree_ctr_ne _ _ (chkReg_ne_stallReg c n ha (List.mem_range.1 hu))).trans hd

theorem Dev.passBefore_beside (x : UnitPart) : (s.passBefore c u x).besideCounts = s.besideCounts :=
  Prod.ext (Dev.settleEgress_still ..) (congrArg (·.1.dies) (Dev.settleEgress_standing ..) :)

theorem Dev.passBefore_ctr (x : UnitPart) {a : Nat} (ha : a < 0x80) : (s.passBefore c u x).ctr (chkReg c a) = s.ctr (chkReg c a) := by
  have hkeeps : (s.passBefore c u x).coreCtrs = s.coreCtrs := Dev.settleEgress_coreCtrs ..
  exact Dev.ctr_of_coreCtrs hkeeps (chkReg_lt c ha)

/-- A device that has counted a disagreement, before the unit's replay. -/
def Dev.disagreed (s : Dev) (c : CoreId) (u : CoreUnit) (x : UnitPart) : Dev :=
  ((s.takeFree.2.passBefore c u x).countDisagreement c u).checkWaits c

theorem Dev.disagreed_beside (x : UnitPart) : (s.disagreed c u x).besideCounts = s.besideCounts :=
  (Dev.checkWaits_beside ..).trans ((Dev.countDisagreement_beside ..).trans (Dev.passBefore_beside ..))

theorem Dev.disagreed_count (x : UnitPart) :
    (s.disagreed c u x).ctr (chkReg c 0x08) = addStop64 (s.ctr (chkReg c 0x08)) 1 := by
  rw [Dev.disagreed, Dev.checkWaits_ctr _ c c (by decide), Dev.countDisagreement_count, Dev.passBefore_ctr _ c u x (by decide)]
  rfl

theorem Dev.disagreed_ctr (x : UnitPart) {a : Nat} (ha : a < 0x80) (hne : a ≠ 0x08) :
    (s.disagreed c u x).ctr (chkReg c a) = s.ctr (chkReg c a) := by
  rw [Dev.disagreed, Dev.checkWaits_ctr _ c c ha, Dev.countDisagreement_ctr _ c u ha hne, Dev.passBefore_ctr _ c u x ha]
  rfl

end Counting

section Disagreement
variable {s : State} {c : CoreId} {u : CoreUnit} {x : UnitPart} (hsuspect : s.dev.suspect c u = some x)
  (hruns : s.dev.coreRuns c = true) (hdecision : (s.dev.core c).decision = none)
include hsuspect hruns hdecision

theorem Dev.disagreement_eq (passes : Bool) : s.dev.disagreement c u passes
    = if passes then ((s.dev.disagreed c u x).count (s.dev.holdingOfCore c) (chkReg c 0x10) 1).settleDecided c x .pass
      else (s.dev.nextLive c).elim (((s.dev.disagreed c u x).countDisagreement c u).endFenced c x .fail .unresolved) fun n =>
        (((s.dev.disagreed c u x).countDisagreement c u).modCore c fun y => { y with
          decision := some { unit := u, neighbour := n, stream := x.1, index := x.2.1, part := x.2.2 } }).modCore n fun y =>
            { y with helping := true } := by
  unfold Dev.disagreement
  rw [hsuspect]
  dsimp only
  rw [if_neg (by rw [hruns, hdecision]; decide)]
  cases s.dev.nextLive c <;> rfl

/-- A replay that passes is counted, and its outputs are cleared. -/
theorem exec_checkerDisagreement_passes : ∃ t, exec (.checkerDisagreement c u true) s = .next t ∧ t.pending = s.pending
    ∧ t.dev.ctr (chkReg c 0x08) = addStop64 (s.dev.ctr (chkReg c 0x08)) 1
    ∧ t.dev.ctr (chkReg c 0x10) = addStop64 (s.dev.ctr (chkReg c 0x10)) 1
    ∧ t.dev.cores = s.dev.cores ∧ t.dev.dies = s.dev.dies := by
  refine ⟨_, work_clocked s (s.dev.fenceScope (s.dev.disagreement c u true)) (Dev.clocked_of_coreRuns hruns), rfl, ?_⟩
  have hsettled := Dev.settlePassed_coreCtrs ((s.dev.disagreed c u x).count (s.dev.holdingOfCore c) (chkReg c 0x10) 1) c x
  obtain ⟨hcores, hdies⟩ := Dev.settlePassed_standing ((s.dev.disagreed c u x).count (s.dev.holdingOfCore c) (chkReg c 0x10) 1) c x
  have hbeside := s.dev.disagreed_beside c u x
  obtain ⟨hsame, -⟩ := Dev.still_eq_iff.1 (congrArg Prod.fst hbeside)
  have hcount := s.dev.disagreed_count c u x
  have hreplays := s.dev.disagreed_ctr c u x (a := 0x10) (by decide) (by decide)
  rw [Dev.disagreement_eq hsuspect hruns hdecision, if_pos rfl]
  dsimp only
  rw [ctr_of_ctrs (Dev.fenceScope_ctrs ..), ctr_of_ctrs (Dev.fenceScope_ctrs ..), Dev.fenceScope_cores, Dev.fenceScope_dies,
    Dev.ctr_of_coreCtrs hsettled (chkReg_lt c (by decide)), Dev.ctr_of_coreCtrs hsettled (chkReg_lt c (by decide)), hcores, hdies,
    Dev.ctr_count_ne _ _ (chkReg_ne_of_ne c (by decide)), Dev.ctr_count_same, hcount, hreplays]
  exact ⟨rfl, rfl, hsame, congrArg Prod.snd hbeside⟩

/-- A replay that fails is a second disagreement, which the next live core of the die decides. -/
theorem exec_checkerDisagreement_asks {n : CoreId} (hnext : s.dev.nextLive c = some n) :
    ∃ t, exec (.checkerDisagreement c u false) s = .next t ∧ t.pending = s.pending
      ∧ t.dev.ctr (chkReg c 0x08) = addStop64 (addStop64 (s.dev.ctr (chkReg c 0x08)) 1) 1
      ∧ (t.dev.core c).decision = some { unit := u, neighbour := n, stream := x.1, index := x.2.1, part := x.2.2 }
      ∧ (t.dev.core n).helping = true
      ∧ (∀ k : CoreId, k ≠ c → k ≠ n → t.dev.core k = s.dev.core k)
      ∧ t.dev.mem = s.dev.mem ∧ t.dev.tags = s.dev.tags ∧ t.dev.dies = s.dev.dies := by
  refine ⟨_, work_clocked s (s.dev.fenceScope (s.dev.disagreement c u false)) (Dev.clocked_of_coreRuns hruns), rfl, ?_⟩
  have hbeside : ((s.dev.disagreed c u x).countDisagreement c u).besideCounts = s.dev.besideCounts :=
    (Dev.countDisagreement_beside ..).trans (s.dev.disagreed_beside c u x)
  obtain ⟨hcores, -, hmem, htags⟩ := Dev.still_eq_iff.1 (congrArg Prod.fst hbeside)
  have hdies := congrArg Prod.snd hbeside
  have hcount : ((s.dev.disagreed c u x).countDisagreement c u).ctr (chkReg c 0x08)
      = addStop64 (addStop64 (s.dev.ctr (chkReg c 0x08)) 1) 1 := by
    rw [Dev.countDisagreement_count, Dev.disagreed_count]
  rw [Dev.disagreement_eq hsuspect hruns hdecision, if_neg Bool.false_ne_true, hnext]
  dsimp only [Option.elim]
  generalize (s.dev.disagreed c u x).countDisagreement c u = d at hcores hmem htags hdies hcount
  have hcore : ∀ k, (s.dev.fenceScope ((d.modCore c fun y => { y with
      decision := some { unit := u, neighbour := n, stream := x.1, index := x.2.1, part := x.2.2 } }).modCore n fun y =>
        { y with helping := true })).core k = ((d.modCore c fun y => { y with
      decision := some { unit := u, neighbour := n, stream := x.1, index := x.2.1, part := x.2.2 } }).modCore n fun y =>
        { y with helping := true }).core k := fun k => Dev.core_congr (Dev.fenceScope_cores ..) k
  refine ⟨(ctr_of_ctrs (Dev.fenceScope_ctrs ..) _).trans hcount, ?_, ?_, fun k hc hn => ?_,
    (Dev.fenceScope_mem ..).trans hmem, (Dev.fenceScope_tags ..).trans htags, (Dev.fenceScope_dies ..).trans hdies⟩
  · rw [hcore, Dev.core_modCore]
    split
    next hsame =>
      rw [← hsame, Dev.core_modCore, if_pos rfl]
    next =>
      rw [Dev.core_modCore, if_pos rfl]
  · rw [hcore, Dev.core_modCore, if_pos rfl]
  · rw [hcore, Dev.core_modCore, if_neg hn, Dev.core_modCore, if_neg hc]
    exact Dev.core_congr hcores k

/-- With no other live core in the die the core is fenced. -/
theorem exec_checkerDisagreement_fences (hnone : s.dev.nextLive c = none) :
    ∃ t, exec (.checkerDisagreement c u false) s = .next t ∧ t.pending = s.pending ∧ (t.dev.core c).fenced = true := by
  refine ⟨_, work_clocked s (s.dev.fenceScope (s.dev.disagreement c u false)) (Dev.clocked_of_coreRuns hruns), rfl, ?_⟩
  rw [Dev.disagreement_eq hsuspect hruns hdecision, if_neg Bool.false_ne_true, hnone]
  exact (congrArg Core.fenced (Dev.core_congr (Dev.fenceScope_cores ..) c)).trans (Dev.endFenced_fenced ..)

end Disagreement

/-- Every outcome of the neighbour's recomputation fences the core. -/
theorem exec_neighbourRecompute {s : State} {c : CoreId} (r : Recompute) (hup : s.dev.clocked = true) {z : Decision}
    (hdecision : (s.dev.core c).decision = some z) :
    ∃ t, exec (.neighbourRecompute c r) s = .next t ∧ t.pending = s.pending ∧ (t.dev.core c).fenced = true := by
  refine ⟨_, work_clocked s (s.dev.fenceScope (s.dev.recompute c r)) hup, rfl, ?_⟩
  refine (congrArg Core.fenced (Dev.core_congr (Dev.fenceScope_cores ..) c)).trans (?_ : ((s.dev.recompute c r).core c).fenced = true)
  unfold Dev.recompute
  rw [hdecision]
  dsimp only
  split
  · exact Dev.endFenced_fenced ..
  · split <;> exact Dev.endFenced_fenced ..

theorem exec_neighbourRecompute_of_none {s : State} {c : CoreId} (r : Recompute) (hnone : (s.dev.core c).decision = none) :
    exec (.neighbourRecompute c r) s = .next s := by
  have hsame : s.dev.recompute c r = s.dev := by
    unfold Dev.recompute
    rw [hnone]
  change work s (s.dev.fenceScope (s.dev.recompute c r)) = _
  rw [hsame, Dev.fenceScope_self, work_self]

/-! ### LINK_CHECK_FAIL (R388, R414) -/

section LinkCheck
variable {s : State} {d : DieId} (hup : s.dev.clocked = true) (hopen : (s.dev.die d.val).fenced = false)
  (hsurvey : (s.dev.die d.val).survey = false)
include hup hopen hsurvey

/-- A link die's check that is clean when it is repeated is counted. -/
theorem exec_linkCheckFail_clean {p : PortId} (hd : d.val = linkDie p) :
    ∃ t, exec (.linkCheckFail d true) s = .next t ∧ t.pending = s.pending
      ∧ t.dev.ctr (lchkReg p 0x10) = addStop64 (s.dev.ctr (lchkReg p 0x10)) 1
      ∧ t.dev.ctr (lchkReg p 0x08) = addStop64 (s.dev.ctr (lchkReg p 0x08)) 1
      ∧ t.dev.reg (ldieEvent p) = s.dev.reg (ldieEvent p) ||| 0x20
      ∧ t.dev.dies = s.dev.dies ∧ t.dev.mem = s.dev.mem := by
  have hcheck : s.dev.linkCheck d.val true = ((s.dev.count none (lchkReg p 0x10) 1).count none (lchkReg p 0x08) 1).event
      (ldieEvent p) 0x20 := by
    unfold Dev.linkCheck
    rw [if_neg (by rw [hopen, hsurvey]; decide), hd, linkDie_kind, linkDie_port]
    rfl
  have hne : lchkReg p 0x10 ≠ lchkReg p 0x08 := by
    simp only [lchkReg, regAt]
    omega
  refine ⟨_, work_clocked s (s.dev.fenceScope (s.dev.linkCheck d.val true)) hup, rfl, ?_⟩
  dsimp only
  rw [hcheck, ctr_of_ctrs (Dev.fenceScope_ctrs ..), ctr_of_ctrs (Dev.fenceScope_ctrs ..), Dev.reg_of_regs (Dev.fenceScope_regs ..),
    Dev.fenceScope_dies, Dev.fenceScope_mem, ctr_of_ctrs (Dev.event_ctrs ..), ctr_of_ctrs (Dev.event_ctrs ..)]
  refine ⟨?_, ?_, ?_, rfl, rfl⟩
  · exact (Dev.ctr_count_ne _ none hne 1).trans (Dev.ctr_count_same ..)
  · exact (Dev.ctr_count_same _ none ..).trans (congrArg (addStop64 · 1) (Dev.ctr_count_ne _ none hne.symm 1))
  · exact (Dev.reg_event ..).trans (if_pos rfl)

theorem exec_linkCheckFail_link {p : PortId} (hd : d.val = linkDie p) :
    ∃ t, exec (.linkCheckFail d false) s = .next t ∧ t.pending = s.pending ∧ (t.dev.die d.val).fenced = true := by
  have hkind := linkDie_kind p
  have hport := linkDie_port p
  have hcheck : s.dev.linkCheck d.val false = (s.dev.count none (lchkReg p 0x10) 2).fenceDie d.val .linkArith := by
    unfold Dev.linkCheck
    rw [if_neg (by rw [hopen, hsurvey]; decide), hd, hkind, hport]
    rfl
  refine ⟨_, work_clocked s (s.dev.fenceScope (s.dev.linkCheck d.val false)) hup, rfl, ?_⟩
  rw [hcheck]
  refine (congrArg Die.fenced (Dev.die_congr (Dev.fenceScope_dies ..) d.val)).trans ?_
  refine Dev.fenceDie_fenced_of (d := d.val) (r := (s.dev.count none (lchkReg p 0x10) 2).fenceLink p .linkArith) _ ?_ ?_
  · unfold Dev.fenceDie
    rw [if_neg (show ¬ ((s.dev.count none (lchkReg p 0x10) 2).die d.val).fenced = true from ne_true_of_eq_false hopen), hd, hkind, hport]
    rfl
  · rw [hd]
    exact Dev.fenceLink_fenced ..

omit hup in
theorem exec_linkCheckFail_compute_clean (hkind : dieKind d.val = 0) : exec (.linkCheckFail d true) s = .next s := by
  have hsame : s.dev.linkCheck d.val true = s.dev := by
    unfold Dev.linkCheck
    rw [if_neg (by rw [hopen, hsurvey]; decide), hkind]
    rfl
  change work s (s.dev.fenceScope (s.dev.linkCheck d.val true)) = _
  rw [hsame, Dev.fenceScope_self, work_self]

theorem exec_linkCheckFail_compute (hkind : dieKind d.val = 0) :
    ∃ t, exec (.linkCheckFail d false) s = .next t ∧ t.pending = s.pending ∧ (t.dev.die d.val).fenced = true := by
  have hcheck : s.dev.linkCheck d.val false = s.dev.fenceDie d.val .dieArith := by
    unfold Dev.linkCheck
    rw [if_neg (by rw [hopen, hsurvey]; decide), hkind]
    rfl
  refine ⟨_, work_clocked s (s.dev.fenceScope (s.dev.linkCheck d.val false)) hup, rfl, ?_⟩
  rw [hcheck]
  refine (congrArg Die.fenced (Dev.die_congr (Dev.fenceScope_dies ..) d.val)).trans ?_
  refine Dev.fenceDie_fenced_of (d := d.val) (r := s.dev.fenceCompute d.val .dieArith) _ ?_ (s.dev.fenceCompute_fenced ..)
  unfold Dev.fenceDie
  rw [if_neg (ne_true_of_eq_false hopen), hkind]
  rfl

end LinkCheck

/-- Settles O34, outcome by outcome of a checker's disagreement, of the neighbour's recomputation and of a die's own check; a
core's fence keeps it fenced whatever its holding's abort does after it (`Dev.fenceCore_spec`). -/
theorem disagreementsAreDecided : Obligations.DisagreementsAreDecided := by
  unfold Obligations.DisagreementsAreDecided
  refine ⟨fun s c u x hsuspect hruns hdecision => ⟨exec_checkerDisagreement_passes hsuspect hruns hdecision,
    fun n hnext => exec_checkerDisagreement_asks hsuspect hruns hdecision hnext,
    exec_checkerDisagreement_fences hsuspect hruns hdecision⟩,
    fun s c r hup => ⟨fun z hz => exec_neighbourRecompute r hup hz, exec_neighbourRecompute_of_none r⟩,
    fun s p d hd hup hopen hsurvey => ⟨exec_linkCheckFail_clean hup hopen hsurvey hd, exec_linkCheckFail_link hup hopen hsurvey hd⟩,
    fun s d hkind hup hopen hsurvey => ⟨exec_linkCheckFail_compute_clean hopen hsurvey hkind,
      exec_linkCheckFail_compute hup hopen hsurvey hkind⟩⟩

end Sys2Proof.Machine

/-! Maintenance of a port (R298, R328): what the statement about the activities asks of a port without a cable. -/

namespace Sys2Proof.Machine

/-- A LANE_RECAL that runs on port 0. -/
def uncabledRecal : Activity :=
  { number := 1, activity := 2, resource := 0x3000, arg := 0, state := .running, status := .ok, progress := 0, job := none, cancels := [] }

/-- A device in service whose port 0 is UP with no cable, and whose LANE_RECAL runs on it. -/
def uncabled : State :=
  { pending := []
    dev := { gotre := { up := true, deviceState := .ready }, ports := [(0, { state := .up, cable := false })]
             service := { activities := [uncabledRecal] } } }

theorem uncabled_clocked : uncabled.dev.clocked = true := by decide

/-- The activity's work on a port with no cable is done at once. -/
theorem recal_uncabled : uncabled.dev.recal 0 2 = uncabled.dev.modActivity 1 fun q => { q with progress := 1 } := by rfl

/-- So the port stays UP. -/
theorem exec_laneRecal_uncabled {t : State} (h : exec (.laneRecal 0) uncabled = .next t) : (t.dev.port 0).state = .up := by
  have hwork : exec (.laneRecal 0) uncabled
      = .next { uncabled with dev := uncabled.dev.maintScope (uncabled.dev.recal 0 2) } :=
    work_clocked uncabled _ uncabled_clocked
  rw [recal_uncabled, h] at hwork
  cases hwork
  rfl

/-- Refutes O53: its clause on LANE_RECAL and PORT_REEQ asks a port that is UP for RECAL, and does not ask for its cable. In
`uncabled` port 0 is UP with no cable: the activity's work is done at once, and the port stays UP. -/
theorem not_activitiesFenceReadmitAndDoTheirWork : ¬ Obligations.ActivitiesFenceReadmitAndDoTheirWork := by
  unfold Obligations.ActivitiesFenceReadmitAndDoTheirWork
  rintro ⟨⟨-, -, hports, -⟩, -⟩
  obtain ⟨t, hexec, -, hrecal, -⟩ := hports uncabled 0 uncabledRecal 2 (.laneRecal 0) (by simp) uncabled_clocked (by rfl) (by rfl) (by rfl)
  rw [exec_laneRecal_uncabled hexec] at hrecal
  exact absurd hrecal (by decide)

end Sys2Proof.Machine

/-! The Survey: its triggers, the freeze and its end, and read-out (R319 to R321, R519 to R527). -/

namespace Sys2Proof.Machine

/-! ### A write of a keyed command register of the keeper -/

/-- A device whose keeper has taken a keyed write at a path. -/
def Dev.keyTaken (s : Dev) (p : Path) (regs : Tab Word32) : Dev := { s.setGuard kpr p false with regs := regs }

theorem Dev.keyTaken_guard (s : Dev) (p : Path) (regs : Tab Word32) : (s.keyTaken p regs).guard kpr p = false :=
  s.guard_setGuard kpr p false

section Commands
variable {s : Dev} {p : Path} (hup : s.pathUp p = true) (hreach : s.unreachable kpr = false) (hheld : s.guard kpr p = true)
  (v : Word32)
include hup hreach hheld

/-- A keyed write of SVY_CMD uses the key up and runs the command. -/
theorem Dev.surveyWrite : ∃ regs, s.writeBar0 p (regAt kpr 0x1C004) v 0xF
    = (s.keyTaken p regs).surveyCommand v := by
  obtain ⟨i, hinfo, hrwk⟩ : ∃ i, regInfo kpr 0x1C004 = some i ∧ i.rwk ≠ 0 := ⟨_, rfl, by decide⟩
  obtain ⟨-, regs, hregs⟩ := (s.setGuard kpr p false).writeReserved_keyed (d := kpr) (w := 0x1C004) (i := i) (v := v) (by decide)
  refine ⟨regs, ?_⟩
  rw [Dev.writeBar0_of_key hup hreach hheld (by decide) (by decide) (by decide) hinfo]
  refine Dev.writeRegister_of_key (i := i) (hrwk := hrwk) _ _ _ _ (Eq.trans ?_ (congrArg (Dev.surveyCommand · v) hregs))
  rw [if_neg (by decide), if_neg (by decide), if_neg (by decide), if_pos rfl]

/-- A keyed write of KPR_RESET uses the key up and runs the reset. -/
theorem Dev.resetWrite : ∃ regs, s.writeBar0 p (regAt kpr 0x1D000) v 0xF
    = (s.keyTaken p regs).resetCommand v := by
  obtain ⟨i, hinfo, hrwk⟩ : ∃ i, regInfo kpr 0x1D000 = some i ∧ i.rwk ≠ 0 := ⟨_, rfl, by decide⟩
  obtain ⟨-, regs, hregs⟩ := (s.setGuard kpr p false).writeReserved_keyed (d := kpr) (w := 0x1D000) (i := i) (v := v) (by decide)
  refine ⟨regs, ?_⟩
  rw [Dev.writeBar0_of_key hup hreach hheld (by decide) (by decide) (by decide) hinfo]
  refine Dev.writeRegister_of_key (i := i) (hrwk := hrwk) _ _ _ _ (Eq.trans ?_ (congrArg (Dev.resetCommand · v) hregs))
  rw [if_neg (by decide), if_neg (by decide), if_neg (by decide), if_neg (by decide), if_pos rfl]

end Commands

/-! ### Triggers (R520 to R523) -/

section Triggers
variable (s : Dev) (scope : Option Nat) (cause : Fin 8)

/-- The survey as a freeze begins. -/
def Dev.freezing (s : Dev) (scope : Option Nat) (cause : Fin 8) (n : BitVec 16) : Survey :=
  { s.survey with frozen := true, dieScope := scope.isSome, die := Fin.ofNat 64 (scope.getD 0), cause := cause, number := n
                  freezeDt := s.dt }

theorem Dev.enterTest_frame (ds : List Nat) : ∃ dies, s.enterTest ds = { s with dies := dies }
    ∧ ∀ k, (Tab.get {} dies k).survey = (s.die k).survey := by
  unfold Dev.enterTest
  split
  · refine List.foldlRecOn _ _ (motive := fun d : Dev => ∃ dies, d = { s with dies := dies }
      ∧ ∀ k, (Tab.get ({} : Die) dies k).survey = (s.die k).survey) ⟨s.dies, rfl, fun _ => rfl⟩ ?_
    rintro d ⟨dies, rfl, hkeeps⟩ n -
    refine ⟨_, rfl, fun k => ?_⟩
    have hdie := Dev.die_modDie { s with dies := dies } n k fun x => { x with testMode := true }
    refine (congrArg Die.survey hdie).trans ?_
    split
    next hk =>
      rw [hk]
      exact hkeeps n
    · exact hkeeps k
  · exact ⟨s.dies, rfl, fun _ => rfl⟩

theorem Dev.freeze_frame (origin n : BitVec 16) : ∃ out dies, s.freeze scope cause origin n
      = { s with survey := s.freezing scope cause n, outbox := out, dies := dies }
    ∧ ∀ d, scope = some d → (Tab.get {} dies d).survey = true := by
  cases scope with
  | none =>
    obtain ⟨dies, htest, -⟩ := (({ s with survey := s.freezing none cause n } : Dev).emits (freezeSlots origin true n)).enterTest_frame
      (List.range 64)
    exact ⟨_, dies, htest, fun d hd => absurd hd nofun⟩
  | some d =>
    obtain ⟨dies, htest, hkeeps⟩ := ((({ s with survey := s.freezing (some d) cause n } : Dev).emits
      (freezeSlots origin false n)).modDie d fun x => { x with survey := true }).enterTest_frame [d]
    refine ⟨_, dies, htest, fun k hk => ?_⟩
    cases hk
    rw [hkeeps d, Dev.die_modDie, if_pos rfl]

section Live
variable (hpower : s.pins.inputPower = true) (hfallow : s.power.state ≠ .fallow) (hoff : s.power.state ≠ .off)
include hpower hfallow hoff

theorem Dev.surveyTrigger_live :
    (!s.pins.inputPower || s.power.state == .fallow || s.power.state == .off) = false := by
  rw [hpower, beq_eq_false_iff_ne.2 hfallow, beq_eq_false_iff_ne.2 hoff]
  rfl

/-- A trigger freezes what is not frozen, and widens a Survey of a die. -/
theorem Dev.surveyTrigger_frame (slot : Option (BitVec 16 × BitVec 16))
    (hopen : s.survey.frozen = false ∨ (s.survey.dieScope = true ∧ scope = none)) :
    ∃ n free out dies, s.surveyTrigger scope cause slot
        = { s with survey := s.freezing scope cause n, free := free, outbox := out, dies := dies }
      ∧ (∀ x, slot = some x → n = x.2) ∧ ∀ d, scope = some d → (Tab.get {} dies d).survey = true := by
  have hfires : (s.survey.frozen && !(s.survey.dieScope && scope.isNone)) = false := by
    rcases hopen with hopen | ⟨hdie, rfl⟩
    · rw [hopen, Bool.false_and]
    · rw [hdie]
      exact Bool.and_false _
  unfold Dev.surveyTrigger
  dsimp only
  rw [if_neg (by rw [s.surveyTrigger_live hpower hfallow hoff]; decide), if_neg (by rw [hfires]; decide)]
  cases slot with
  | none =>
    obtain ⟨out, dies, hfreeze, hdies⟩ := s.takeFree.2.freeze_frame scope cause s.number (s.takeFree.1.setWidth 16)
    exact ⟨_, _, out, dies, hfreeze, fun x hx => absurd hx nofun, hdies⟩
  | some x =>
    obtain ⟨out, dies, hfreeze, hdies⟩ := s.freeze_frame scope cause x.1 x.2
    exact ⟨_, s.free, out, dies, hfreeze, fun y hy => by cases hy; rfl, hdies⟩

/-- A trigger within a Survey is counted. -/
theorem Dev.surveyTrigger_counts (slot : Option (BitVec 16 × BitVec 16)) (hfrozen : s.survey.frozen = true)
    (hkeeps : (s.survey.dieScope && scope.isNone) = false) :
    s.surveyTrigger scope cause slot = s.count none (regAt kpr 0x1C018) 1 := by
  unfold Dev.surveyTrigger
  dsimp only
  rw [if_neg (by rw [s.surveyTrigger_live hpower hfallow hoff]; decide), if_pos (by rw [hfrozen, hkeeps]; rfl)]

end Live

theorem Dev.surveyTrigger_dead (slot : Option (BitVec 16 × BitVec 16)) (hdead : s.power.state = .fallow ∨ s.power.state = .off) :
    s.surveyTrigger scope cause slot = s := by
  unfold Dev.surveyTrigger
  dsimp only
  rw [if_pos]
  rcases hdead with h | h <;> rw [h] <;> simp

end Triggers

/-! ### SVY_CMD (R519, R525, R526) -/

section Command
variable (s : Dev) {v : Word32}

theorem Dev.surveyCommand_full (hv : v.extractLsb' 0 2 = 1#2) (hnow : s.power.transition = false) :
    s.surveyCommand v = s.surveyTrigger none 1 none := by
  unfold Dev.surveyCommand
  rw [hv]
  exact if_neg (ne_true_of_eq_false hnow)

theorem Dev.surveyCommand_die (hv : v.extractLsb' 0 2 = 2#2) (hkind : dieKind (v.extractLsb' 8 6).toNat = 0)
    (hnow : s.power.transition = false) : s.surveyCommand v = s.surveyTrigger (some (v.extractLsb' 8 6).toNat) 1 none := by
  unfold Dev.surveyCommand
  rw [hv]
  exact (if_neg (not_not.2 hkind)).trans (if_neg (ne_true_of_eq_false hnow))

/-- A trigger waits for the end of a transition. -/
theorem Dev.surveyCommand_waits (hv : v.extractLsb' 0 2 = 1#2 ∨ v.extractLsb' 0 2 = 2#2)
    (hkind : dieKind (v.extractLsb' 8 6).toNat = 0) (hlater : s.power.transition = true) :
    s.surveyCommand v = { s with survey := { s.survey with waiting := s.survey.waiting ++ [v] } } := by
  unfold Dev.surveyCommand
  rcases hv with hv | hv
  · rw [hv]
    exact if_pos hlater
  · rw [hv]
    exact (if_neg (not_not.2 hkind)).trans (if_pos hlater)

theorem Dev.surveyCommand_resume (hv : v.extractLsb' 0 2 = 3#2) (hkind : dieKind (v.extractLsb' 8 6).toNat = 0)
    (hfrozen : s.survey.frozen = true) (hdie : s.survey.dieScope = true) : s.surveyCommand v = s.resumeDie := by
  unfold Dev.surveyCommand
  rw [hv]
  exact if_neg (by rw [decide_eq_false (not_not.2 hkind), hfrozen, hdie]; decide)

end Command

/-! ### The end of a Survey of a die (R525, R526) -/

section Resume
variable (s : Dev)

theorem Dev.restartPort_keeps (p : PortId) :
    (s.restartPort p).survey = s.survey ∧ (s.restartPort p).dies = s.dies ∧ (s.restartPort p).mem = s.mem
      ∧ (s.restartPort p).guards = s.guards := by
  unfold Dev.restartPort
  dsimp only
  split
  · exact ⟨rfl, rfl, rfl, rfl⟩
  · exact ⟨rfl, rfl, rfl, rfl⟩
  · exact ⟨rfl, rfl, rfl, rfl⟩
  · refine ⟨?_, ?_, s.setPortState_mem p .., s.setPortState_guards p ..⟩
    all_goals obtain ⟨bits, htells⟩ := s.setPortState_tells p .training fun q => { q.drop with
      attempts := 0, failures := 0, oldestReplays := 0, replayTimes := [], lastSideband := .none }
    · exact htells.survey
    · exact Dev.dies_of_fences htells.fences

/-- What the ports' new start leaves alone. -/
def Dev.besidePorts (s : Dev) : Survey × Tab Die × List Host.Cell × Tab Bool := (s.survey, s.dies, s.mem, s.guards)

theorem Dev.restartPorts_beside : s.restartPorts.besidePorts = s.besidePorts := by
  refine foldl_preserves Dev.besidePorts (fun d p => ?_) s _
  obtain ⟨hsurvey, hdies, hmem, hguards⟩ := d.restartPort_keeps p
  rw [Dev.besidePorts, hsurvey, hdies, hmem, hguards]
  rfl

/-- The die of a Survey that ends is neither frozen nor in test mode. -/
theorem Dev.resumeDie_spec (hfences : s.survey.fences = []) :
    s.resumeDie.survey = { s.survey with frozen := false, fences := [] }
      ∧ (s.resumeDie.die s.survey.die.val).survey = false ∧ (s.resumeDie.die s.survey.die.val).testMode = false
      ∧ s.resumeDie.mem = s.mem ∧ s.resumeDie.guards = s.guards := by
  have hresume : s.resumeDie = (({ s with survey := { s.survey with frozen := false, fences := [] } } : Dev).modDie s.survey.die.val
      fun x => { x with survey := false, testMode := false }).restartPorts := by
    unfold Dev.resumeDie
    rw [hfences]
    rfl
  have hbeside := (({ s with survey := { s.survey with frozen := false, fences := [] } } : Dev).modDie s.survey.die.val
      fun x => { x with survey := false, testMode := false }).restartPorts_beside
  rw [← hresume, Dev.besidePorts, Dev.besidePorts, Prod.mk.injEq, Prod.mk.injEq, Prod.mk.injEq] at hbeside
  obtain ⟨hsurvey, hdies, hmem, hguards⟩ := hbeside
  have hdie := (Dev.die_congr hdies s.survey.die.val).trans ((Dev.die_modDie ..).trans (if_pos rfl))
  exact ⟨hsurvey, by rw [hdie], by rw [hdie], hmem, hguards⟩

end Resume

/-! ### The commands of a Survey -/

section Arm
variable {s : State} {n : Nat} {j : Job} (ready : s.dev.jobReady n 0x00B0 j)
include ready

theorem exec_surveyArm {d : Dev} {st : Status} (hd : d.gotre = s.dev.gotre)
    (harm : s.dev.surveyArm n = (d.finishJob n st 0).passTurn j) :
    ∃ t, exec (.surveyArm n) s = .next t ∧ t.pending = s.pending ∧ t.dev.answered j st 0 ∧ t.dev.survey = d.survey := by
  obtain ⟨g, hend, hanswer⟩ := Dev.finishJob_passTurn ready hd st 0
  refine ⟨{ s with dev := s.dev.lifeScope (s.dev.surveyArm n) }, rfl, rfl, ?_⟩
  dsimp only
  rw [harm, hend]
  exact ⟨hanswer _ (Dev.lifeScope_gotre ..), Dev.lifeScope_survey ..⟩

theorem exec_surveyArm_good {g : Option Trigger} (htrigger : triggerOf j = .ok g) :
    ∃ t, exec (.surveyArm n) s = .next t ∧ t.pending = s.pending ∧ t.dev.answered j .ok 0
      ∧ t.dev.survey = { s.dev.survey with armed := g } := by
  refine exec_surveyArm (d := { s.dev with survey := { s.dev.survey with armed := g } }) ready rfl ?_
  unfold Dev.surveyArm
  rw [Dev.runJob_of_jobReady ready rfl]
  dsimp only
  rw [htrigger]

theorem exec_surveyArm_bad (htrigger : triggerOf j = .error ()) :
    ∃ t, exec (.surveyArm n) s = .next t ∧ t.pending = s.pending ∧ t.dev.answered j .badParameter 0
      ∧ t.dev.survey = s.dev.survey := by
  refine exec_surveyArm (d := s.dev) ready rfl ?_
  unfold Dev.surveyArm
  rw [Dev.runJob_of_jobReady ready rfl]
  dsimp only
  rw [htrigger]

end Arm

section Writes
variable {s : State} {p : Path} {v : Word32} (hup : s.dev.pathUp p = true) (hreach : s.dev.unreachable kpr = false)
  (hheld : s.dev.guard kpr p = true)
include hup hreach hheld

section Now
variable (hnow : s.dev.power.transition = false) (hpower : s.dev.pins.inputPower = true)
  (hfallow : s.dev.power.state ≠ .fallow) (hoff : s.dev.power.state ≠ .off)
include hnow hpower hfallow hoff

/-- A FULL Survey begins by its register. -/
theorem exec_surveyFull (hopen : s.dev.survey.frozen = false) (hv : v.extractLsb' 0 2 = 1#2) :
    ∃ t, exec (.surveyFull p v) s = .next t ∧ t.pending = s.pending ∧ t.dev.survey.frozen = true ∧ t.dev.surveyOut = false
      ∧ t.dev.survey.dieScope = false ∧ t.dev.survey.cause = 1 ∧ t.dev.survey.freezeDt = s.dev.dt
      ∧ t.dev.guard kpr p = false ∧ t.dev.mem = s.dev.mem ∧ t.dev.cores = s.dev.cores ∧ t.dev.holdings = s.dev.holdings := by
  obtain ⟨regs, hwrite⟩ := Dev.surveyWrite hup hreach hheld v
  obtain ⟨n, free, out, dies, hfreeze, -, -⟩ := (s.dev.keyTaken p regs).surveyTrigger_frame none 1
    hpower hfallow hoff none (.inl hopen)
  have hfrozen := hwrite.trans (((s.dev.keyTaken p regs).surveyCommand_full hv hnow).trans hfreeze)
  refine ⟨{ s with dev := s.dev.writeBar0 p (regAt kpr 0x1C004) v 0xF }, rfl, rfl, ?_⟩
  dsimp only
  rw [hfrozen]
  exact ⟨rfl, rfl, rfl, rfl, rfl, s.dev.keyTaken_guard p regs, rfl, rfl, rfl⟩

theorem exec_surveyDie (hopen : s.dev.survey.frozen = false) (hv : v.extractLsb' 0 2 = 2#2)
    (hkind : dieKind (v.extractLsb' 8 6).toNat = 0) :
    ∃ t, exec (.surveyDie p v) s = .next t ∧ t.pending = s.pending ∧ t.dev.survey.frozen = true
      ∧ t.dev.survey.dieScope = true ∧ t.dev.survey.die.val = (v.extractLsb' 8 6).toNat ∧ t.dev.survey.cause = 1
      ∧ (t.dev.die (v.extractLsb' 8 6).toNat).survey = true
      ∧ t.dev.guard kpr p = false ∧ t.dev.mem = s.dev.mem ∧ t.dev.cores = s.dev.cores := by
  obtain ⟨regs, hwrite⟩ := Dev.surveyWrite hup hreach hheld v
  obtain ⟨n, free, out, dies, hfreeze, -, hdies⟩ := (s.dev.keyTaken p regs).surveyTrigger_frame
    (some (v.extractLsb' 8 6).toNat) 1 hpower hfallow hoff none (.inl hopen)
  have hfrozen := hwrite.trans (((s.dev.keyTaken p regs).surveyCommand_die hv hkind hnow).trans hfreeze)
  refine ⟨{ s with dev := s.dev.writeBar0 p (regAt kpr 0x1C004) v 0xF }, rfl, rfl, ?_⟩
  dsimp only
  rw [hfrozen]
  exact ⟨rfl, rfl, Nat.mod_eq_of_lt (v.extractLsb' 8 6).isLt, rfl, hdies _ rfl, s.dev.keyTaken_guard p regs, rfl, rfl⟩

end Now

theorem exec_surveyResume (hfrozen : s.dev.survey.frozen = true) (hdie : s.dev.survey.dieScope = true)
    (hfences : s.dev.survey.fences = []) (hv : v.extractLsb' 0 2 = 3#2) (hkind : dieKind (v.extractLsb' 8 6).toNat = 0) :
    ∃ t, exec (.surveyResume p v) s = .next t ∧ t.pending = s.pending ∧ t.dev.survey.frozen = false ∧ t.dev.surveyOut = true
      ∧ (t.dev.die s.dev.survey.die.val).survey = false ∧ (t.dev.die s.dev.survey.die.val).testMode = false
      ∧ t.dev.guard kpr p = false ∧ t.dev.mem = s.dev.mem := by
  obtain ⟨regs, hwrite⟩ := Dev.surveyWrite hup hreach hheld v
  obtain ⟨hsurvey, hend, htest, hmem, hguards⟩ := (s.dev.keyTaken p regs).resumeDie_spec hfences
  rw [← hwrite.trans ((s.dev.keyTaken p regs).surveyCommand_resume hv hkind hfrozen hdie)] at hsurvey hend htest hmem hguards
  refine ⟨{ s with dev := s.dev.writeBar0 p (regAt kpr 0x1C004) v 0xF }, rfl, rfl, congrArg Survey.frozen hsurvey,
    congrArg (fun x : Survey => !x.frozen) hsurvey, hend, htest, ?_, hmem⟩
  exact (congrArg (fun t : Tab Bool => Tab.get false t _) hguards).trans (s.dev.keyTaken_guard p regs)

variable (hkind : dieKind (v.extractLsb' 8 6).toNat = 0)
include hkind

theorem exec_surveyFull_waits (hlater : s.dev.power.transition = true) (hv : v.extractLsb' 0 2 = 1#2 ∨ v.extractLsb' 0 2 = 2#2) :
    ∃ t, exec (.surveyFull p v) s = .next t ∧ t.pending = s.pending
      ∧ t.dev.survey = { s.dev.survey with waiting := s.dev.survey.waiting ++ [v] } := by
  obtain ⟨regs, hwrite⟩ := Dev.surveyWrite hup hreach hheld v
  refine ⟨{ s with dev := s.dev.writeBar0 p (regAt kpr 0x1C004) v 0xF }, rfl, rfl, ?_⟩
  dsimp only
  rw [hwrite.trans ((s.dev.keyTaken p regs).surveyCommand_waits hv hkind hlater)]
  rfl

theorem exec_surveyDie_counts (hnow : s.dev.power.transition = false) (hpower : s.dev.pins.inputPower = true)
    (hfallow : s.dev.power.state ≠ .fallow) (hoff : s.dev.power.state ≠ .off) (hfrozen : s.dev.survey.frozen = true)
    (hv : v.extractLsb' 0 2 = 2#2) :
    ∃ t, exec (.surveyDie p v) s = .next t ∧ t.pending = s.pending ∧ t.dev.survey = s.dev.survey
      ∧ t.dev.ctr (regAt kpr 0x1C018) = addStop64 (s.dev.ctr (regAt kpr 0x1C018)) 1 := by
  obtain ⟨regs, hwrite⟩ := Dev.surveyWrite hup hreach hheld v
  have hcounts := hwrite.trans (((s.dev.keyTaken p regs).surveyCommand_die hv hkind hnow).trans
    ((s.dev.keyTaken p regs).surveyTrigger_counts _ 1 hpower hfallow hoff none hfrozen (Bool.and_false _)))
  refine ⟨{ s with dev := s.dev.writeBar0 p (regAt kpr 0x1C004) v 0xF }, rfl, rfl, ?_⟩
  dsimp only
  rw [hcounts]
  exact ⟨rfl, Dev.ctr_count_same _ none ..⟩

end Writes

/-- A path that is up has a keeper that is powered, in a state other than OFF. -/
theorem Dev.state_ne_off_of_pathUp {s : Dev} {p : Path} (hup : s.pathUp p = true) : s.power.state ≠ .off := by
  intro hoff
  cases p with
  | host => simp [Dev.pathUp, Dev.pcieUp, hoff] at hup
  | mgmt => simp [Dev.pathUp, Dev.managed, hoff] at hup
  | gotre => simp [Dev.pathUp, Dev.gotreRuns, Dev.clocked, hoff] at hup

theorem Dev.powered_of_reachable {s : Dev} (hreach : s.unreachable kpr = false) : s.pins.inputPower = true := by
  simpa [Dev.unreachable] using hreach

theorem Dev.port_congr {s t : Dev} (h : t.ports = s.ports) (p : PortId) : t.port p = s.port p := by simp only [Dev.port, h]

/-! ### Triggers other than a register (R319 to R321, R519, R520, R523) -/

theorem Dev.surveyScope_self (s : Dev) : s.surveyScope s = s := by
  cases s
  rfl

section Pins
variable {s : State}

/-- SURVEY_IN without its enable changes nothing. -/
theorem exec_surveyIn_off (hoff : (s.dev.reg (regAt kpr 0x1C000)).getLsbD 1 = false) : exec .surveyIn s = .next s := by
  have hsame : s.dev.surveyPin = s.dev := if_neg (ne_true_of_eq_false hoff)
  change Host.Outcome.next { s with dev := s.dev.surveyScope s.dev.surveyPin } = _
  rw [hsame, Dev.surveyScope_self]

section Enabled
variable (hon : (s.dev.reg (regAt kpr 0x1C000)).getLsbD 1 = true)
include hon

theorem Dev.surveyPin_on : s.dev.surveyPin = s.dev.surveyTrigger none 2 none := if_pos hon

theorem exec_surveyIn_dead (hdead : s.dev.power.state = .fallow ∨ s.dev.power.state = .off) : exec .surveyIn s = .next s := by
  have hsame : s.dev.surveyPin = s.dev := (Dev.surveyPin_on hon).trans (s.dev.surveyTrigger_dead none 2 none hdead)
  change Host.Outcome.next { s with dev := s.dev.surveyScope s.dev.surveyPin } = _
  rw [hsame, Dev.surveyScope_self]

variable (hpower : s.dev.pins.inputPower = true) (hfallow : s.dev.power.state ≠ .fallow) (hoff : s.dev.power.state ≠ .off)
include hpower hfallow hoff

/-- SURVEY_IN freezes the device, or widens a Survey of a die. -/
theorem exec_surveyIn (hopen : s.dev.survey.frozen = false ∨ s.dev.survey.dieScope = true) :
    ∃ t, exec .surveyIn s = .next t ∧ t.pending = s.pending ∧ t.dev.survey.frozen = true
      ∧ t.dev.survey.dieScope = false ∧ t.dev.survey.cause = 2 ∧ t.dev.mem = s.dev.mem ∧ t.dev.cores = s.dev.cores := by
  obtain ⟨n, free, out, dies, hfreeze, -, -⟩ := s.dev.surveyTrigger_frame none 2 hpower hfallow hoff none
    (hopen.imp_right fun hdie => ⟨hdie, rfl⟩)
  refine ⟨{ s with dev := s.dev.surveyScope s.dev.surveyPin }, rfl, rfl, ?_⟩
  dsimp only
  rw [Dev.surveyScope_survey, Dev.surveyScope_mem, Dev.surveyScope_cores, Dev.surveyPin_on hon, hfreeze]
  exact ⟨rfl, rfl, rfl, rfl, rfl⟩

theorem exec_surveyIn_counts (hfrozen : s.dev.survey.frozen = true) (hfull : s.dev.survey.dieScope = false) :
    ∃ t, exec .surveyIn s = .next t ∧ t.pending = s.pending ∧ t.dev.survey = s.dev.survey
      ∧ t.dev.ctr (regAt kpr 0x1C018) = addStop64 (s.dev.ctr (regAt kpr 0x1C018)) 1 := by
  have hcounts := (Dev.surveyPin_on hon).trans (s.dev.surveyTrigger_counts none 2 hpower hfallow hoff none hfrozen (by rw [hfull]; rfl))
  refine ⟨{ s with dev := s.dev.surveyScope s.dev.surveyPin }, rfl, rfl, ?_⟩
  dsimp only
  rw [Dev.surveyScope_survey, ctr_of_ctrs (Dev.surveyScope_ctrs ..), hcounts]
  exact ⟨rfl, Dev.ctr_count_same ..⟩

end Enabled

variable (hpower : s.dev.pins.inputPower = true) (hfallow : s.dev.power.state ≠ .fallow) (hoff : s.dev.power.state ≠ .off)
  (hopen : s.dev.survey.frozen = false)
include hpower hfallow hoff hopen

/-- The armed event freezes its scope, and stays armed unless it is armed once. -/
theorem exec_surveyEventTrigger {g : Trigger} (harmed : s.dev.survey.armed = some g)
    (hset : (s.dev.reg (regAt g.die.val g.offset)).getLsbD g.bit = true) :
    ∃ t, exec .surveyEventTrigger s = .next t ∧ t.pending = s.pending ∧ t.dev.survey.frozen = true
      ∧ t.dev.survey.dieScope = !g.full ∧ t.dev.survey.cause = 4
      ∧ t.dev.survey.armed = (if g.once then none else some g) ∧ t.dev.mem = s.dev.mem ∧ t.dev.cores = s.dev.cores := by
  obtain ⟨n, free, out, dies, hfreeze, -, -⟩ := s.dev.surveyTrigger_frame (if g.full then none else some g.die.val) 4 hpower hfallow hoff
    none (.inl hopen)
  have hevent : s.dev.surveyEvent = if g.once then { s.dev with
        survey := { s.dev.freezing (if g.full then none else some g.die.val) 4 n with armed := none }, free := free, outbox := out
        dies := dies }
      else { s.dev with survey := s.dev.freezing (if g.full then none else some g.die.val) 4 n, free := free, outbox := out, dies := dies } := by
    unfold Dev.surveyEvent
    rw [harmed]
    dsimp only
    rw [if_neg (by rw [hset]; decide), hfreeze, hopen, Bool.not_false, Bool.true_or, Bool.and_true]
  have hscope : (if g.full then none else some g.die.val).isSome = !g.full := by cases g.full <;> rfl
  refine ⟨{ s with dev := s.dev.surveyScope s.dev.surveyEvent }, rfl, rfl, ?_⟩
  dsimp only
  rw [Dev.surveyScope_survey, Dev.surveyScope_mem, Dev.surveyScope_cores, hevent]
  cases g.once with
  | true => exact ⟨rfl, hscope, rfl, rfl, rfl, rfl⟩
  | false => exact ⟨rfl, hscope, rfl, harmed, rfl, rfl⟩

end Pins

section Sideband
variable {s : State} {p : PortId} (hp : p.val < 6) (hlanes : (s.dev.port p).hasLanes = true)
include hp hlanes

theorem Dev.sidebandSlot_carried : (decide (6 ≤ p.val) || !(s.dev.port p).hasLanes) = false := by
  rw [decide_eq_false (by omega), hlanes]
  rfl

/-- A repeat of a port's last message is ignored. -/
theorem exec_sidebandSlot_repeat {m : SidebandMsg} (hm : m = (s.dev.port p).lastSideband) :
    exec (.sidebandSlot p (slotCrc m) m) s = .next s := by
  have hsame : s.dev.sidebandSlot p (slotCrc m) m = s.dev := by
    unfold Dev.sidebandSlot
    rw [if_neg (by rw [Dev.sidebandSlot_carried hp hlanes]; decide), if_neg (by simp), if_pos hm]
  change Host.Outcome.next { s with dev := s.dev.surveyScope (s.dev.sidebandSlot p (slotCrc m) m) } = _
  rw [hsame, Dev.surveyScope_self]

/-- A slot whose check fails is counted. -/
theorem exec_sidebandSlot_bad {m : SidebandMsg} {crc : Word32} (hup : s.dev.clocked = true) (hcrc : crc ≠ slotCrc m) :
    ∃ t, exec (.sidebandSlot p crc m) s = .next t ∧ t.pending = s.pending
      ∧ t.dev.ctr (klxReg p 0x80) = addStop64 (s.dev.ctr (klxReg p 0x80)) 1
      ∧ t.dev.reg (linkEvent p) = s.dev.reg (linkEvent p) ||| 0x20
      ∧ t.dev.ports = s.dev.ports ∧ t.dev.survey = s.dev.survey := by
  have hslot : s.dev.sidebandSlot p crc m = (s.dev.count none (klxReg p 0x80) 1).event (linkEvent p) 0x20 := by
    unfold Dev.sidebandSlot
    rw [if_neg (by rw [Dev.sidebandSlot_carried hp hlanes]; decide), if_pos (bne_iff_ne.2 hcrc), if_pos hup]
  refine ⟨{ s with dev := s.dev.surveyScope (s.dev.sidebandSlot p crc m) }, rfl, rfl, ?_⟩
  dsimp only
  rw [ctr_of_ctrs (Dev.surveyScope_ctrs ..), Dev.reg_of_regs (Dev.surveyScope_regs ..), Dev.surveyScope_ports, Dev.surveyScope_survey,
    hslot, ctr_of_ctrs (Dev.event_ctrs ..)]
  exact ⟨Dev.ctr_count_same .., (Dev.reg_event ..).trans (if_pos rfl), rfl, rfl⟩

/-- The device once a FULL freeze has come in at a port, before it is followed. -/
def Dev.surveyed (s : Dev) (p : PortId) (m : SidebandMsg) : Dev :=
  let s1 := s.modPort p fun q => { q with lastSideband := m }
  if s1.clocked then s1.setPortState p .surveyed id else s1

omit hp hlanes in
theorem Dev.surveyed_spec (s : Dev) (p : PortId) (m : SidebandMsg) :
    (s.surveyed p m).supply = s.supply ∧ (s.surveyed p m).survey = s.survey ∧ (s.surveyed p m).mem = s.mem
      ∧ (s.clocked = true → ((s.surveyed p m).port p).state = .surveyed) ∧ ((s.surveyed p m).port p).lastSideband = m := by
  have hport : (s.modPort p fun q => { q with lastSideband := m }).port p = { s.port p with lastSideband := m } :=
    (Dev.port_modPort ..).trans (if_pos rfl)
  unfold Dev.surveyed
  dsimp only
  split
  next hup =>
    have hsupply := (s.modPort p fun q => { q with lastSideband := m }).setPortState_supply p .surveyed id
    obtain ⟨bits, htells⟩ := (s.modPort p fun q => { q with lastSideband := m }).setPortState_tells p .surveyed id
    have hstanding := (s.modPort p fun q => { q with lastSideband := m }).setPortState_standing p .surveyed id
    have hlast := congrArg Port.lastSideband hstanding
    exact ⟨hsupply, htells.survey, htells.mem, fun _ => Dev.setPortState_state .., hlast.trans (congrArg Port.lastSideband hport)⟩
  next hdown =>
    exact ⟨rfl, rfl, rfl, fun hup => absurd hup hdown, by rw [hport]⟩

/-- A FULL freeze that comes in at a port is followed while FOLLOW is 1. -/
theorem exec_sidebandSlot_freeze {origin n : BitVec 16} (hpower : s.dev.pins.inputPower = true)
    (hfallow : s.dev.power.state ≠ .fallow) (hoff : s.dev.power.state ≠ .off) (hopen : s.dev.survey.frozen = false)
    (hnew : (s.dev.port p).lastSideband ≠ .freeze origin true n) (hfollow : (s.dev.reg (regAt kpr 0x1C000)).getLsbD 0 = true) :
    ∃ t, exec (.sidebandSlot p (slotCrc (.freeze origin true n)) (.freeze origin true n)) s = .next t ∧ t.pending = s.pending
      ∧ t.dev.survey.frozen = true ∧ t.dev.survey.dieScope = false ∧ t.dev.survey.cause = 3 ∧ t.dev.survey.number = n
      ∧ (s.dev.clocked = true → (t.dev.port p).state = .surveyed)
      ∧ (t.dev.port p).lastSideband = .freeze origin true n ∧ t.dev.mem = s.dev.mem := by
  have hslot : s.dev.sidebandSlot p (slotCrc (.freeze origin true n)) (.freeze origin true n)
      = if true && (s.dev.reg (regAt kpr 0x1C000)).getLsbD 0 then
          (s.dev.surveyed p (.freeze origin true n)).surveyTrigger none 3 (some (origin, n))
        else s.dev.surveyed p (.freeze origin true n) := by
    unfold Dev.sidebandSlot
    rw [if_neg (by rw [Dev.sidebandSlot_carried hp hlanes]; decide), if_neg (by simp), if_neg (Ne.symm hnew)]
    rfl
  obtain ⟨hsupply, hsurvey, hmem, hstate, hlast⟩ := s.dev.surveyed_spec p (.freeze origin true n)
  generalize s.dev.surveyed p (.freeze origin true n) = d at hslot hsupply hsurvey hmem hstate hlast
  obtain ⟨number, free, out, dies, hfreeze, hnumber, -⟩ := d.surveyTrigger_frame none 3
    (by rw [Dev.pins_of_supply hsupply]; exact hpower) (by rw [Dev.power_of_supply hsupply]; exact hfallow)
    (by rw [Dev.power_of_supply hsupply]; exact hoff) (some (origin, n)) (.inl (by rw [hsurvey]; exact hopen))
  rw [Bool.true_and, if_pos hfollow, hfreeze] at hslot
  refine ⟨{ s with dev := s.dev.surveyScope (s.dev.sidebandSlot p (slotCrc (.freeze origin true n)) (.freeze origin true n)) }, rfl, rfl, ?_⟩
  dsimp only
  rw [Dev.surveyScope_survey, Dev.surveyScope_mem, Dev.port_congr (Dev.surveyScope_ports ..), hslot]
  exact ⟨rfl, rfl, rfl, hnumber _ rfl, hstate, hlast, hmem⟩

end Sideband

/-! ### Read-out (R514, R527) -/

section Scan
variable (s : State) (d : DieId) (g : ScanSegment) (i : Nat)

theorem Dev.scanElement_spec (s : Dev) (d : Nat) (g : ScanSegment) (i : Nat) :
    (s.scanElement d g i).2.pins = s.pins ∧ (s.scanElement d g i).2.outbox = s.outbox := by
  have hfree : ∀ n (s : Dev), (s.freeBytes n).2.pins = s.pins ∧ (s.freeBytes n).2.outbox = s.outbox := fun n => by
    induction n with
    | zero => exact fun s => ⟨rfl, rfl⟩
    | succ n ih => exact fun s => ih s.takeFree.2
  unfold Dev.scanElement
  cases g with
  | buffers =>
    dsimp only
    split
    · exact ⟨rfl, rfl⟩
    · exact hfree 64 s
  | registers => exact ⟨rfl, rfl⟩
  | operandStore => exact ⟨rfl, rfl⟩
  | accumulators => exact ⟨rfl, rfl⟩
  | gradientBuffer => exact ⟨rfl, rfl⟩
  | vectorRegisters => exact ⟨rfl, rfl⟩

/-- The device whose test logic stands at a read-out instruction. -/
def Dev.scanning (s : Dev) (d : Nat) (g : ScanSegment) : Dev := { s with pins := { s.pins with jtag := d * 8 + segmentCode g } }

/-- A frozen die's element leaves. -/
theorem exec_scanRead (hfrozen : s.dev.frozenDie d.val = true) :
    ∃ t, exec (.scanRead d g i) s = .next t ∧ t.pending = s.pending
      ∧ t.dev.outbox = s.dev.outbox ++ [.scan ((s.dev.scanning d.val g).scanElement d.val g i).1]
      ∧ t.dev.pins = (s.dev.scanning d.val g).pins
      ∧ t.dev.regs = s.dev.regs ∧ t.dev.ctrs = s.dev.ctrs ∧ t.dev.cores = s.dev.cores ∧ t.dev.mem = s.dev.mem := by
  have hread : s.dev.scanRead d.val g i = ((s.dev.scanning d.val g).scanElement d.val g i).2.emit
      (.scan ((s.dev.scanning d.val g).scanElement d.val g i).1) := if_pos hfrozen
  obtain ⟨hpins, hout⟩ := (s.dev.scanning d.val g).scanElement_spec d.val g i
  refine ⟨{ s with dev := s.dev.scanScope (s.dev.scanRead d.val g i) }, rfl, rfl, ?_⟩
  dsimp only
  rw [Dev.scanScope_outbox, Dev.scanScope_pins, hread]
  exact ⟨congrArg (· ++ _) hout, hpins, rfl, rfl, rfl, rfl⟩

theorem exec_scanRead_running (hrunning : s.dev.frozenDie d.val = false) :
    exec (.scanRead d g i) s = .next { s with dev := s.dev.scanning d.val g } := by
  have hread : s.dev.scanRead d.val g i = s.dev.scanning d.val g := if_neg (ne_true_of_eq_false hrunning)
  change Host.Outcome.next { s with dev := s.dev.scanScope (s.dev.scanRead d.val g i) } = _
  rw [hread]
  rfl

end Scan

/-- Settles O55: what a trigger does is said once (`Dev.surveyTrigger_frame`), and each of the register, the pin, the event and the
sideband brings one. -/
theorem surveysFreezeReadOutAndResume : Obligations.SurveysFreezeReadOutAndResume := by
  unfold Obligations.SurveysFreezeReadOutAndResume
  refine ⟨⟨fun s n j ready => ⟨fun g => exec_surveyArm_good ready, exec_surveyArm_bad ready⟩,
    fun s p v hup hreach hheld hnow hpower hfallow hoff => ⟨fun hopen hv =>
        exec_surveyFull hup hreach hheld hnow hpower hfallow hoff hopen hv,
      fun hopen hv hkind => exec_surveyDie hup hreach hheld hnow hpower hfallow hoff hopen hv hkind,
      fun hfrozen hdie hfences hv hkind => exec_surveyResume hup hreach hheld hfrozen hdie hfences hv hkind⟩,
    fun s hpower hfallow hoff hopen => ⟨fun hon => exec_surveyIn hon hpower hfallow hoff (.inl hopen), exec_surveyIn_off,
      fun g harmed hset => exec_surveyEventTrigger hpower hfallow hoff hopen harmed hset,
      fun p origin n hp hlanes hnew hfollow => exec_sidebandSlot_freeze hp hlanes hpower hfallow hoff hopen hnew hfollow⟩,
    fun s hpower hon => ⟨exec_surveyIn_dead hon, fun hfallow hoff hfrozen => ⟨fun hdie => ?_,
      exec_surveyIn_counts hon hpower hfallow hoff hfrozen⟩⟩,
    fun s p v hup hreach hheld hkind hfallow => ⟨exec_surveyFull_waits hup hreach hheld hkind, fun hnow hfrozen hv =>
      exec_surveyDie_counts hup hreach hheld hkind hnow (Dev.powered_of_reachable hreach) hfallow (Dev.state_ne_off_of_pathUp hup)
        hfrozen hv⟩,
    fun s p m hp hlanes => ⟨exec_sidebandSlot_repeat hp hlanes, fun crc => exec_sidebandSlot_bad hp hlanes⟩⟩,
    fun s => ⟨fun d g i => ⟨exec_scanRead s d g i, exec_scanRead_running s d g i⟩, rfl⟩⟩
  obtain ⟨t, hexec, hpending, hfroze, hscope, hcause, -, -⟩ := exec_surveyIn hon hpower hfallow hoff (.inr hdie)
  exact ⟨t, hexec, hpending, hfroze, hscope, hcause⟩

end Sys2Proof.Machine

/-! Resets, from their start to service (R410, R448, R449, R499, R549, R553 to R557). -/

namespace Sys2Proof.Machine

/-! ### Requests that wait at the controllers, as memory is read (R232, R238) -/

section Reads
variable (s : Dev)

@[simp] theorem Dev.readEntry_memWaits (cls : MemClass) (pa : Nat) : (s.readEntry cls pa).2.memWaits = s.memWaits := by
  unfold Dev.readEntry
  exact ((s.lcSlots_attends ..).trans (Dev.readSector1_attends ..)).waits

@[simp] theorem Dev.cacheLeaf_memWaits (n : CacheName) (h : HoldId) (level va : Nat) (e : Word64) :
    (s.cacheLeaf n h level va e).memWaits = s.memWaits := by
  obtain ⟨x, k, hframe⟩ := s.cacheLeaf_frame n h level va e
  rw [hframe]

@[simp] theorem Dev.cacheCore_memWaits (a : Agent) (va level : Nat) (e : Word64) :
    (s.cacheCore a va level e).memWaits = s.memWaits := by
  obtain ⟨x, k, hframe⟩ := s.cacheCore_frame a va level e
  rw [hframe]

@[simp] theorem Dev.walkEntry_memWaits (h : HoldId) (walker : Option Nat) (cls : MemClass) (level table va : Nat) :
    (s.walkEntry h walker cls level table va).2.memWaits = s.memWaits := by
  unfold Dev.walkEntry
  split
  · rfl
  · dsimp only
    split
    · dsimp only
      split <;> simp
    · simp

@[simp] theorem Dev.walkFrom_memWaits (h : HoldId) (walker : Option Nat) (cls : MemClass) (va level table : Nat) :
    (s.walkFrom h walker cls va level table).2.memWaits = s.memWaits := by
  induction level generalizing s table with
  | zero => exact s.walkEntry_memWaits ..
  | succ level ih =>
    unfold Dev.walkFrom
    dsimp only
    split
    · simp
    · simp [ih]

@[simp] theorem Dev.walk_memWaits (h : HoldId) (walker : Option Nat) (cls : MemClass) (va : Nat) :
    (s.walk h walker cls va).2.memWaits = s.memWaits := by
  unfold Dev.walk
  split <;> simp

@[simp] theorem Dev.sharedHit_memWaits (a : Agent) : (s.sharedHit a).memWaits = s.memWaits := by
  unfold Dev.sharedHit
  split <;> simp

theorem Dev.xlate_memWaits (a : Agent) (va : Nat) (write : Bool) : (s.xlate a va write).2.memWaits = s.memWaits := by
  unfold Dev.xlate
  split
  · rfl
  · split
    · rfl
    · split
      · simp
      · dsimp only
        split <;> simp

@[simp] theorem Dev.xltFault_memWaits (a : Agent) (va : Nat) (write : Bool) (kind : Nat) :
    (s.xltFault a va write kind).memWaits = s.memWaits := by
  unfold Dev.xltFault
  dsimp only
  split_ifs <;> simp

theorem Dev.runFault_memWaits (c : CoreId) (h : Option HoldId) (i : Word32) (k : Status) :
    (s.runFault c h i k).memWaits = s.memWaits := by
  cases h <;> rfl

theorem Dev.accessFault_memWaits (a : Agent) (va : Nat) (write : Bool) (kind : Nat) :
    (s.accessFault a va write kind).memWaits = s.memWaits := by
  unfold Dev.accessFault
  dsimp only
  split
  · exact (Dev.runFault_memWaits ..).trans (s.xltFault_memWaits ..)
  · exact s.xltFault_memWaits ..

theorem Dev.freeBytes_memWaits (n : Nat) : (s.freeBytes n).2.memWaits = s.memWaits := by
  induction n generalizing s with
  | zero => rfl
  | succ n ih => exact ih _

/-- A unit's read leaves nothing waiting where nothing waits. -/
theorem Dev.unitRead_idle (a : Agent) (pa n : Nat) (hidle : s.memWaits = []) : (s.unitRead a pa n).2.memWaits = [] := by
  have hcross : (s.crossTo a pa).memWaits = s.memWaits := by
    obtain ⟨x, y, hframe⟩ := s.cross_frame a.requester a.die (stackDie (s.place pa).stack)
    rw [Dev.crossTo, hframe]
  unfold Dev.unitRead
  extract_lets o s1 block secs x m
  have hslots : s1.memWaits = [] := ((s.crossTo a pa).lcSlots_attends ..).waits.trans (hcross.trans hidle)
  have hread : x.2.memWaits = [] := by
    unfold x
    split
    · have hblock := (s1.readBlock_attends (pa / 4096) o).waits.trans hslots
      exact (congrArg Dev.memWaits (Dev.releasePoisoned_of_idle hblock _)).trans hblock
    · exact (s1.readSectors_attends o _).waits.trans hslots
  clear_value x
  split
  · exact hread
  · exact (Dev.metPoison_attends _ _ _).waits.trans hread

theorem Dev.readOut_idle (a : Agent) (va n : Nat) (hidle : s.memWaits = []) : (s.readOut a va n).2.memWaits = [] := by
  have hchunk : ∀ (d : Dev) (va n : Nat), d.memWaits = [] → (d.readOutChunk a va n).2.memWaits = [] := by
    intro d va n hd
    have hxlate := (d.xlate_memWaits a va false).trans hd
    unfold Dev.readOutChunk
    dsimp only
    split
    · exact (Dev.accessFault_memWaits ..).trans hxlate
    · exact (Dev.freeBytes_memWaits ..).trans hxlate
    · exact Dev.unitRead_idle _ a _ n hxlate
  unfold Dev.readOut
  generalize chunks va n = l
  induction l generalizing s with
  | nil => exact hidle
  | cons p l ih => exact ih _ (hchunk s _ _ hidle)

end Reads

/-! ### What a core's clearing leaves of its work (R385, R410) -/

/-- The windows and the length registers of the cores. -/
def Dev.works (s : Dev) (c : CoreId) : List WEntry × Tab Nat := ((s.core c).window, (s.core c).lregs)

theorem foldl_works {α : Type} {f : Dev → α → Dev} (h : ∀ d a, (f d a).works = d.works) (s : Dev) (l : List α) :
    (l.foldl f s).works = s.works := foldl_preserves Dev.works h s l

theorem Dev.works_of_standing {s t : Dev} (h : t.standing = s.standing) : t.works = s.works := by
  have hcores : t.cores = s.cores := (congrArg (·.1.cores) h :)
  funext c
  rw [Dev.works, Dev.works, Dev.core_congr hcores]

section Works
variable (s : Dev)

/-- A core changes, and keeps its window and its length registers. -/
theorem Dev.modCore_works (c : CoreId) {f : Core → Core} (hf : ∀ x, (f x).window = x.window ∧ (f x).lregs = x.lregs) :
    (s.modCore c f).works = s.works := by
  funext k
  unfold Dev.works
  rw [Dev.core_modCore]
  split
  next hk =>
    obtain ⟨hwindow, hlregs⟩ := hf (s.core c)
    rw [hwindow, hlregs, hk]
  next => rfl

theorem Dev.squash_works (h : Option HoldId) (c : CoreId) (drop : PfSector → Bool) : (s.squash h c drop).works = s.works := by
  unfold Dev.squash
  dsimp only
  split
  · rfl
  · exact (Dev.works_of_standing (Dev.countSquash_standing ..)).trans (s.modCore_works c fun _ => ⟨rfl, rfl⟩)

theorem Dev.releaseRetained_works (t : Transfer) : (s.releaseRetained t).works = s.works := by
  unfold Dev.releaseRetained
  split
  · exact s.modCore_works _ fun _ => ⟨rfl, rfl⟩
  · rfl

theorem Dev.squashAll_works (h : Option HoldId) (c : CoreId) : (s.squashAll h c).works = s.works := by
  unfold Dev.squashAll
  extract_lets boxes came s1 s2
  have hsquashed : s1.works = s.works := s.squash_works ..
  have hcounted : s2.works = s1.works := by
    unfold s2
    split
    · rfl
    · refine (Dev.works_of_standing (Dev.countSquash_standing ..)).trans ?_
      split
      · exact s1.modCore_works (f := Core.nextEpoch) c fun _ => ⟨rfl, rfl⟩
      · rfl
  exact (foldl_works (fun d t => d.releaseRetained_works t) _ boxes).trans
    ((s2.modCore_works (f := fun x => { x with inbox := [] }) c fun _ => ⟨rfl, rfl⟩).trans (hcounted.trans hsquashed))

theorem Core.setWords_works (x : Core) (p i : Nat) (ws : List PWord) :
    (x.setWords p i ws).window = x.window ∧ (x.setWords p i ws).lregs = x.lregs := by
  unfold Core.setWords
  split_ifs <;> exact ⟨rfl, rfl⟩

theorem Dev.loadTile_works (c : CoreId) (p tile : Nat) (ws : List PWord) :
    (s.modCore c fun x => { x.setWords p 0 ws with gradDirty := (x.setWords p 0 ws).gradDirty.filter (· != tile) }).works
      = s.works :=
  s.modCore_works c fun x => x.setWords_works p 0 ws

theorem Dev.loadHome_works (h : HoldId) (c : CoreId) (g : StageDef) : (s.loadHome h c g).works = s.works := by
  unfold Dev.loadHome
  extract_lets a
  refine foldl_works (fun d i => ?_) s _
  exact (Dev.loadTile_works _ c (16 + g.gradFirst + i) (g.gradFirst + i) _).trans (Dev.works_of_standing (d.readOut_standing ..))

theorem Dev.bringHome_works (h : HoldId) (c : CoreId) (g : StageDef) : (s.bringHome h c g).works = s.works := by
  unfold Dev.bringHome
  extract_lets a late
  refine Eq.trans (b := (if late then s else s.loadHome h c g).works) rfl ?_
  split
  · rfl
  · exact s.loadHome_works ..

end Works

/-! ### The streams as they resume (R410, R449) -/

section Resume
variable (s : Dev)

/-- What a fold over the members of a list does to each of them, while it leaves the others. -/
theorem foldl_each {α : Type} {f : Dev → α → Dev} {P : α → Dev → Prop} (hown : ∀ d a, P a (f d a))
    (hkeep : ∀ d a b, P b d → P b (f d a)) {l : List α} {a : α} (ha : a ∈ l) : P a (l.foldl f s) := by
  induction l generalizing s with
  | nil => exact absurd ha List.not_mem_nil
  | cons b l ih =>
    by_cases hin : a ∈ l
    · exact ih _ hin
    · obtain rfl : a = b := (List.mem_cons.1 ha).resolve_right hin
      exact List.foldlRecOn l f (motive := P a) (hown s a) fun d hd b _ => hkeep d b a hd

/-- What the resuming streams stand beside, once nothing waits at the controllers. -/
structure Dev.Rests (s t : Dev) : Prop where
  gotre : t.gotre = s.gotre
  survey : t.survey = s.survey
  supply : t.supply = s.supply
  idle : s.memWaits = [] → t.memWaits = []

theorem Dev.Rests.refl (s : Dev) : s.Rests s := ⟨rfl, rfl, rfl, id⟩

theorem Dev.Rests.trans {s t u : Dev} (hst : s.Rests t) (htu : t.Rests u) : s.Rests u where
  gotre := htu.gotre.trans hst.gotre
  survey := htu.survey.trans hst.survey
  supply := htu.supply.trans hst.supply
  idle h := htu.idle (hst.idle h)

theorem Dev.Rests.foldl {α : Type} {f : Dev → α → Dev} (h : ∀ (d : Dev) a, d.Rests (f d a)) (s : Dev) (l : List α) :
    s.Rests (l.foldl f s) :=
  List.foldlRecOn l f (motive := s.Rests) (.refl s) fun d hd a _ => hd.trans (h d a)

theorem Dev.squashAll_rests (o : Option HoldId) (c : CoreId) : s.Rests (s.squashAll o c) :=
  have hbeside := s.squashAll_besideClear o c
  ⟨(congrArg (·.1.gotre) hbeside :), (congrArg (·.1.survey) hbeside :), s.squashAll_supply o c,
    fun h => (congrArg (·.1.memWaits) hbeside :).trans h⟩

theorem Dev.modCore_rests (c : CoreId) (f : Core → Core) : s.Rests (s.modCore c f) := ⟨rfl, rfl, rfl, id⟩
theorem Dev.modHolding_rests (h : HoldId) (f : Holding → Holding) : s.Rests (s.modHolding h f) := ⟨rfl, rfl, rfl, id⟩

theorem Dev.loadTile_rests (c : CoreId) (p tile : Nat) (ws : List PWord) :
    s.Rests (s.modCore c fun x => { x.setWords p 0 ws with gradDirty := (x.setWords p 0 ws).gradDirty.filter (· != tile) }) :=
  s.modCore_rests c _

theorem Dev.readOut_rests (a : Agent) (va n : Nat) : s.Rests (s.readOut a va n).2 :=
  have hstands := s.readOut_standing a va n
  ⟨(congrArg (·.1.gotre) hstands :), (congrArg (·.1.survey) hstands :), Dev.supply_of_standing hstands, s.readOut_idle _ _ _⟩

theorem Dev.loadHome_rests (h : HoldId) (c : CoreId) (g : StageDef) : s.Rests (s.loadHome h c g) := by
  unfold Dev.loadHome
  extract_lets a
  refine .foldl (fun d i => ?_) s _
  exact (d.readOut_rests { a with core := none } _ _).trans (Dev.loadTile_rests _ c (16 + g.gradFirst + i) (g.gradFirst + i) _)

theorem Dev.resumeStage_rests (h : HoldId) (g : Stage) : s.Rests (s.resumeStage h g) := by
  unfold Dev.resumeStage
  extract_lets n s1
  have hstage : s.Rests s1 := s.modHolding_rests ..
  split
  next c _ =>
    unfold Dev.bringHome
    extract_lets a late
    refine hstage.trans (Dev.Rests.trans (t := if late then s1 else s1.loadHome h c g.dfn) ?_ (Dev.modHolding_rests ..))
    split
    · exact .refl s1
    · exact s1.loadHome_rests ..
  next => exact hstage

/-- The cores as they lose their work. -/
def Dev.warmCores (s : Dev) : Dev :=
  (List.finRange 256).foldl (fun (d : Dev) c => (d.squashAll (d.holdingOfCore c) c).modCore c Core.warm) s

theorem Dev.warmCores_rests : s.Rests s.warmCores := by
  unfold Dev.warmCores
  exact .foldl (fun d c => (d.squashAll_rests _ c).trans (Dev.modCore_rests ..)) s _

theorem Dev.warmCores_works (c : CoreId) : s.warmCores.works c = ([], []) := by
  refine foldl_each s (P := fun c d => d.works c = ([], [])) (fun d c => ?_) (fun d b k hk => ?_) (List.mem_finRange c)
  · rw [Dev.works, Dev.core_modCore, if_pos rfl]
    rfl
  · rw [Dev.works, Dev.core_modCore]
    split
    · rfl
    · rw [← hk, ← congrFun (d.squashAll_works (d.holdingOfCore b) b) k]
      rfl

theorem Dev.resumeStage_works (h : HoldId) (g : Stage) : (s.resumeStage h g).works = s.works := by
  unfold Dev.resumeStage
  extract_lets n s1
  split
  · exact s1.bringHome_works ..
  · rfl

/-- The resuming streams leave no core a window or a length register. -/
theorem Dev.resumeStreams_spec : s.Rests s.resumeStreams ∧ ∀ c, s.resumeStreams.works c = ([], []) := by
  unfold Dev.resumeStreams
  extract_lets s1 s2
  have hwarm : s.Rests s1 := s.warmCores_rests
  have hwork : ∀ c, s1.works c = ([], []) := s.warmCores_works
  clear_value s1
  have hclear : s1.Rests s2 := ⟨rfl, rfl, rfl, id⟩
  have hworks : s2.works = s1.works := rfl
  clear_value s2
  refine ⟨(hwarm.trans hclear).trans (.foldl (fun d h => .foldl (fun e g => e.resumeStage_rests h g) d _) s2 _), fun c => ?_⟩
  rw [foldl_works (fun d h => foldl_works (fun e g => e.resumeStage_works h g) d _) s2, hworks, hwork]

end Resume

end Sys2Proof.Machine

namespace Sys2Proof.Machine

/-! ### A warm reset as it completes (R448, R449, R555) -/

section Warm
variable (s : Dev)

/-- Gotre and the Survey, which no clearance at the controllers changes. -/
def Dev.officers (s : Dev) : Gotre × Survey := (s.gotre, s.survey)

theorem Dev.officers_of_standing {s t : Dev} (h : t.standing = s.standing) : t.officers = s.officers :=
  Prod.ext (congrArg (·.1.gotre) h :) (congrArg (·.1.survey) h :)

theorem Dev.gotre_of_officers {s t : Dev} (h : t.officers = s.officers) : t.gotre = s.gotre := (congrArg Prod.fst h :)
theorem Dev.survey_of_officers {s t : Dev} (h : t.officers = s.officers) : t.survey = s.survey := (congrArg Prod.snd h :)

theorem foldl_officers {α : Type} {f : Dev → α → Dev} (h : ∀ d a, (f d a).officers = d.officers) (s : Dev) (l : List α) :
    (l.foldl f s).officers = s.officers := foldl_preserves Dev.officers h s l

theorem Dev.settleOne_officers (p : PendWrite) (kind : Clearance) : (s.settleOne p kind).officers = s.officers := by
  refine (Dev.officers_of_standing ((Dev.clear_standing ..).trans (Dev.cross_standing ..))).trans ?_
  cases kind with
  | withdraw => rfl
  | pass => rfl
  | fail =>
    dsimp only
    split <;> rfl

theorem Dev.settlePend_officers (agent : Nat) : (s.settlePend agent).officers = s.officers :=
  (Dev.officers_of_standing (Dev.settleEgress_standing ..)).trans (foldl_officers (fun d _ => d.settleOne_officers ..) _ _)

theorem Dev.settleAll_officers : s.settleAll.officers = s.officers :=
  (foldl_officers (fun d _ => d.settlePend_officers _) _ _).trans (foldl_officers (fun d n => d.settlePend_officers n) s _)

theorem Dev.emptyQueues_officers : s.emptyQueues.officers = s.officers := by
  refine (foldl_officers (fun d w => ?_) _ _).trans rfl
  split
  · rfl
  · exact Dev.officers_of_standing (d.perform_standing w.req)

theorem Dev.emptyQueues_idle : s.emptyQueues.memWaits = [] := by
  refine (foldl_preserves Dev.memWaits (fun d w => ?_) _ _).trans rfl
  split
  · rfl
  · exact (d.perform_attends w.req).waits

/-- A transition that ends leaves the device in RUN, and Gotre as it was but for its commands. -/
theorem Dev.endTransition_spec : s.endTransition.power.transition = false ∧ s.endTransition.survey = s.survey
    ∧ s.endTransition.gotre.deviceState = s.gotre.deviceState ∧ s.endTransition.gotre.stopped = s.gotre.stopped := by
  unfold Dev.endTransition
  extract_lets w s1
  have hended : s1.power.transition = false ∧ s1.survey = s.survey ∧ s1.gotre = s.gotre := ⟨rfl, rfl, rfl⟩
  clear_value s1
  obtain ⟨htransition, hsurvey, hgotre⟩ := hended
  rw [← hsurvey, ← hgotre]
  split
  · exact ⟨htransition, rfl, rfl, rfl⟩
  · unfold Dev.finishJob
    split
    · split
      · exact ⟨htransition, rfl, rfl, rfl⟩
      · split <;> exact ⟨htransition, rfl, rfl, rfl⟩
    · exact ⟨htransition, rfl, rfl, rfl⟩

/-- What the ports' training leaves alone. -/
def Dev.besideTraining (s : Dev) : Dev := { s.untold with linkSent := 0 }

theorem Dev.setPortState_beside (p : PortId) (st : PortState) (f : Port → Port) :
    (s.setPortState p st f).besideTraining = s.besideTraining := by
  obtain ⟨bits, htells⟩ := s.setPortState_tells p st f
  rw [Dev.besideTraining, htells.untold]
  rfl

theorem Dev.klxCtrlDone_beside (p : PortId) : (s.klxCtrlDone p).besideTraining = s.besideTraining := by
  unfold Dev.klxCtrlDone
  dsimp only
  split
  · split
    · split <;> exact Dev.setPortState_beside ..
    · rfl
  · exact s.setPortState_beside ..

theorem Dev.restartPort_beside (p : PortId) : (s.restartPort p).besideTraining = s.besideTraining := by
  unfold Dev.restartPort
  dsimp only
  split
  · rfl
  · rfl
  · rfl
  · exact s.setPortState_beside ..

theorem Dev.trainPorts_beside : s.trainPorts.besideTraining = s.besideTraining := by
  refine foldl_preserves Dev.besideTraining (fun d p => ?_) s _
  extract_lets d1
  split
  · exact d1.klxCtrlDone_beside p
  · exact d1.restartPort_beside p

theorem Dev.keeps_of_besideTraining {s t : Dev} (h : t.besideTraining = s.besideTraining) :
    t.survey = s.survey ∧ t.pins = s.pins ∧ t.guards = s.guards ∧ t.slots = s.slots ∧ t.memWaits = s.memWaits
      ∧ t.cores = s.cores ∧ t.power = s.power ∧ t.gotre = s.gotre :=
  ⟨(congrArg Dev.survey h :), (congrArg Dev.pins h :), (congrArg Dev.guards h :), (congrArg Dev.slots h :),
    (congrArg Dev.memWaits h :), (congrArg Dev.cores h :), (congrArg Dev.power h :), (congrArg Dev.gotre h :)⟩

theorem Dev.resetRegisters_slots (keeps : Nat → Bool) : (s.resetRegisters (fun _ => true) keeps).slots = [] :=
  List.filter_eq_nil_iff.2 fun _ _ => Bool.false_ne_true

theorem Dev.works_of_cores {s t : Dev} (h : t.cores = s.cores) : t.works = s.works := by
  funext c
  rw [Dev.works, Dev.works, Dev.core_congr h]

/-- The device with neither guards nor its copies of the time, the links and the walks, and out of reset. -/
def Dev.outOfReset (s : Dev) : Dev :=
  { s with guards := [], time := {}, linkState := [], linkSent := 0, xlat := [], pins := { s.pins with resetting := 0 } }

theorem Dev.outOfReset_keeps : s.outOfReset.pins.resetting = 0 ∧ s.outOfReset.guards = [] ∧ s.outOfReset.slots = s.slots
    ∧ s.outOfReset.memWaits = s.memWaits ∧ s.outOfReset.cores = s.cores ∧ s.outOfReset.power = s.power
    ∧ s.outOfReset.survey = s.survey ∧ s.outOfReset.gotre = s.gotre := ⟨rfl, rfl, rfl, rfl, rfl, rfl, rfl, rfl⟩

theorem Dev.resetRegisters_keeps (covers keeps : Nat → Bool) : (s.resetRegisters covers keeps).memWaits = s.memWaits
    ∧ (s.resetRegisters covers keeps).cores = s.cores ∧ (s.resetRegisters covers keeps).power = s.power
    ∧ (s.resetRegisters covers keeps).survey = s.survey ∧ (s.resetRegisters covers keeps).gotre = s.gotre :=
  ⟨rfl, rfl, rfl, rfl, rfl⟩

/-- A device in RUN whose units have given up what waited. -/
def Dev.atRest (s : Dev) : Dev := s.endTransition.settleAll.emptyQueues

theorem Dev.atRest_spec : s.atRest.power.transition = false ∧ s.atRest.survey = s.survey ∧ s.atRest.memWaits = []
    ∧ s.atRest.gotre.deviceState = s.gotre.deviceState ∧ s.atRest.gotre.stopped = s.gotre.stopped := by
  obtain ⟨htransition, hsurvey, hready, hstopped⟩ := s.endTransition_spec
  unfold Dev.atRest
  generalize s.endTransition = d at *
  have hofficers : d.settleAll.emptyQueues.officers = d.officers :=
    (Dev.emptyQueues_officers _).trans (Dev.settleAll_officers _)
  have hpower : d.settleAll.emptyQueues.power = d.power :=
    Dev.power_of_supply ((Dev.emptyQueues_supply d.settleAll).trans (Dev.settleAll_supply d))
  rw [hpower, Dev.survey_of_officers hofficers, Dev.gotre_of_officers hofficers]
  exact ⟨htransition, hsurvey, Dev.emptyQueues_idle d.settleAll, hready, hstopped⟩

/-- The device of a warm reset, before its ports train and Gotre restarts. -/
def Dev.warmed (s : Dev) : Dev := (s.atRest.resumeStreams.resetRegisters (fun _ => true) warmKeeps).outOfReset

theorem Dev.warmed_spec : s.warmed.pins.resetting = 0 ∧ s.warmed.guards = [] ∧ s.warmed.slots = [] ∧ s.warmed.memWaits = []
    ∧ (∀ c, s.warmed.works c = ([], [])) ∧ s.warmed.power.transition = false ∧ s.warmed.survey = s.survey
    ∧ s.warmed.gotre.deviceState = s.gotre.deviceState ∧ s.warmed.gotre.stopped = s.gotre.stopped := by
  obtain ⟨htransition, hsurvey, hidle, hready, hstopped⟩ := s.atRest_spec
  unfold Dev.warmed
  generalize s.atRest = d at *
  obtain ⟨hrests, hworks⟩ := d.resumeStreams_spec
  generalize d.resumeStreams = e at *
  obtain ⟨kwaits, kcores, kpower, ksurvey, kgotre⟩ := e.resetRegisters_keeps (fun _ => true) warmKeeps
  have kslots := e.resetRegisters_slots warmKeeps
  generalize e.resetRegisters (fun _ => true) warmKeeps = r at *
  obtain ⟨rpins, rguards, rslots, rwaits, rcores, rpower, rsurvey, rgotre⟩ := r.outOfReset_keeps
  rw [Dev.works_of_cores (rcores.trans kcores), rwaits, kwaits, rpower, kpower, rsurvey, ksurvey, rgotre, kgotre, hrests.survey,
    hrests.gotre, Dev.power_of_supply hrests.supply]
  exact ⟨rpins, rguards, rslots.trans kslots, hrests.idle hidle, hworks, htransition, hsurvey, hready, hstopped⟩

/-- Gotre serves again after a warm reset where it was not stopped. -/
def Dev.serveAgain (s : Dev) : Dev :=
  (if s.gotre.deviceState == .ready && !s.gotre.stopped then (s.setUp true).gotreRestarted s.gotre.restartCount else s).runWaiting

theorem Dev.warmReset_eq : s.warmReset = if s.pins.resetting != 3 then s else
    (s.survey.fences.foldl (fun (d : Dev) k => d.fenceNow k) (Dev.warmed
      (if s.power.state == .fallow then (if s.survey.frozen then s.endSurvey else s).runLatched.leaveFallow
       else (if s.survey.frozen then s.endSurvey else s).runLatched)).trainPorts).serveAgain := by
  unfold Dev.warmReset Dev.serveAgain Dev.warmed Dev.outOfReset Dev.atRest
  with_reducible rfl

theorem Dev.warmReset_of_run (hreset : s.pins.resetting = 3) (hrun : s.power.state = .run) (hfrozen : s.survey.frozen = false)
    (hfences : s.survey.fences = []) (hlatched : s.survey.latched = []) : s.warmReset = s.warmed.trainPorts.serveAgain := by
  have hsurvey : ({ s.survey with latched := [], fences := [] } : Survey) = s.survey := by rw [← hfences, ← hlatched]
  have hrunLatched : s.runLatched = s := by simp only [Dev.runLatched, hlatched, hsurvey, List.foldl_nil]
  have hfallow : (s.power.state == .fallow) = false := by rw [hrun]; rfl
  rw [Dev.warmReset_eq, hreset, hfrozen, hfences, if_neg (by decide), if_neg Bool.false_ne_true, hrunLatched, hfallow,
    if_neg Bool.false_ne_true, List.foldl_nil]

theorem Dev.servedAgain_spec (n : Nat) : ∃ g sent, ((s.setUp true).gotreRestarted n) = { s with gotre := g, outbox := sent }
    ∧ g.up = true := by
  obtain ⟨sent, hup⟩ := s.setUp_eq true
  rw [hup]
  exact ⟨_, sent, rfl, Gotre.post_up ..⟩

theorem Dev.serveAgain_spec (hwaiting : s.survey.waiting = []) :
    (s.serveAgain.pins = s.pins ∧ s.serveAgain.guards = s.guards ∧ s.serveAgain.slots = s.slots
      ∧ s.serveAgain.memWaits = s.memWaits ∧ s.serveAgain.cores = s.cores ∧ s.serveAgain.power = s.power)
    ∧ (s.gotre.deviceState = .ready → s.gotre.stopped = false → s.serveAgain.gotre.up = true) := by
  obtain ⟨g, sent, hserved, hup⟩ := s.servedAgain_spec s.gotre.restartCount
  unfold Dev.serveAgain
  split
  next =>
    rw [hserved, Dev.runWaiting_of_none (s := { s with gotre := g, outbox := sent }) hwaiting]
    exact ⟨⟨rfl, rfl, rfl, rfl, rfl, rfl⟩, fun _ _ => hup⟩
  next hdown =>
    rw [Dev.runWaiting_of_none hwaiting]
    exact ⟨⟨rfl, rfl, rfl, rfl, rfl, rfl⟩, fun hready hstopped => absurd (by rw [hready, hstopped]; rfl) hdown⟩

theorem Dev.warmReset_spec (hreset : s.pins.resetting = 3) (hrun : s.power.state = .run) (hfrozen : s.survey.frozen = false)
    (hfences : s.survey.fences = []) (hlatched : s.survey.latched = []) (hwaiting : s.survey.waiting = []) :
    s.warmReset.pins.resetting = 0 ∧ s.warmReset.guards = [] ∧ s.warmReset.slots = [] ∧ s.warmReset.memWaits = []
      ∧ (∀ c, s.warmReset.works c = ([], [])) ∧ s.warmReset.power.transition = false
      ∧ (s.gotre.deviceState = .ready → s.gotre.stopped = false → s.warmReset.gotre.up = true) := by
  obtain ⟨hpins, hguards, hslots, hidle, hworks, htransition, hsurvey, hready, hstopped⟩ := s.warmed_spec
  obtain ⟨tsurvey, tpins, tguards, tslots, twaits, tcores, tpower, tgotre⟩ := Dev.keeps_of_besideTraining s.warmed.trainPorts_beside
  rw [s.warmReset_of_run hreset hrun hfrozen hfences hlatched]
  generalize s.warmed = d at *
  have hwaits : d.trainPorts.survey.waiting = [] := by
    rw [tsurvey, hsurvey, hwaiting]
  obtain ⟨⟨hpins', hguards', hslots', hidle', hcores', hpower'⟩, hserves⟩ := d.trainPorts.serveAgain_spec hwaits
  refine ⟨?_, ?_, ?_, ?_, fun c => ?_, ?_, fun h1 h2 => hserves ?_ ?_⟩
  · rw [hpins', tpins, hpins]
  · rw [hguards', tguards, hguards]
  · rw [hslots', tslots, hslots]
  · rw [hidle', twaits, hidle]
  · exact (congrFun (Dev.works_of_cores (hcores'.trans tcores)) c).trans (hworks c)
  · rw [hpower', tpower, htransition]
  · rw [tgotre, hready, h1]
  · rw [tgotre, hstopped, h2]

end Warm

end Sys2Proof.Machine

namespace Sys2Proof.Machine

/-! ### The keeper's reset register (R448, R499, R556) -/

section Command
variable (s : Dev)

theorem word_fields {k n : Nat} (hk : k < 8) (hn : n < 256) :
    ((word (n * 0x100 + k)).extractLsb' 0 3).toNat = k ∧ ((word (n * 0x100 + k)).extractLsb' 8 8).toNat = n := by
  simp only [word, BitVec.extractLsb'_toNat, BitVec.toNat_ofNat]
  omega

theorem Dev.resetCommand_core (c : CoreId) : s.resetCommand (word (c.val * 0x100 + 1))
    = if (s.core c).fenced then s.unitReset 1 fun d => d.resetCore c else s.keeperIgnores := by
  obtain ⟨hkind, hcore⟩ := word_fields (k := 1) (by decide) c.isLt
  have hof : Fin.ofNat 256 c.val = c := Fin.ext (Nat.mod_eq_of_lt c.isLt)
  unfold Dev.resetCommand
  rw [hkind, hcore]
  dsimp only
  rw [hof]
  rfl

theorem Dev.resetCommand_die (d : DieId) (hd : d.val < 62) : s.resetCommand (word (d.val * 0x100 + 2))
    = if s.readmittable (BitVec.ofNat 16 (0x1000 + d.val)) then s.unitReset 2 fun e => e.resetDie d.val
      else s.keeperIgnores := by
  obtain ⟨hkind, hdie⟩ := word_fields (k := 2) (n := d.val) (by decide) (hd.trans (by decide))
  unfold Dev.resetCommand
  rw [hkind, hdie]
  dsimp only
  rw [decide_eq_true hd, Bool.true_and]
  rfl

theorem Dev.resetCommand_warm : s.resetCommand 3 = s.startWarm (if s.fullSurvey then 6 else 3) := rfl
theorem Dev.resetCommand_cold : s.resetCommand 4 = s.startCold 3 := rfl

/-- A unit's reset is recorded with its kind. -/
theorem Dev.unitReset_of_running (kind : Nat) (f : Dev → Dev) (hrun : s.pins.resetting = 0) (hkind : 0 < kind) :
    s.unitReset kind f = (f s).resetCause 3 kind :=
  if_neg (by rw [hrun]; exact Nat.not_le.2 hkind)

theorem Dev.resetCause_reg (cause kind : Nat) : (s.resetCause cause kind).reg (regAt kpr 0x1D004) = word (cause * 16 + kind) :=
  Laws.Tab.get_set_same ..

theorem Dev.resetDie_keeps (d : Nat) : (s.resetDie d).dies = s.dies ∧ (s.resetDie d).mem = s.mem := by
  unfold Dev.resetDie
  extract_lets covers s1 s2
  have hreset : s2.dies = s.dies ∧ s2.mem = s.mem := ⟨rfl, rfl⟩
  clear_value s2
  split
  · exact ⟨(foldl_preserves Dev.dies (f := fun e c => e.modCore c Core.reset) (fun e c => rfl) s2 _).trans hreset.1,
      (foldl_preserves Dev.mem (f := fun e c => e.modCore c Core.reset) (fun e c => rfl) s2 _).trans hreset.2⟩
  · exact hreset

/-- A unit is fit to come back by what the device holds of its cores, its dies and its stacks. -/
theorem Dev.readmittable_die {s t : Dev} {n : Nat} (hn : n < 64) (hdies : t.dies = s.dies) (hstacks : t.stackTab = s.stackTab) :
    t.readmittable (BitVec.ofNat 16 (0x1000 + n)) = s.readmittable (BitVec.ofNat 16 (0x1000 + n)) := by
  have hkind : resKind (BitVec.ofNat 16 (0x1000 + n)) = 1 := by
    simp only [resKind, BitVec.toNat_ofNat]
    omega
  unfold Dev.readmittable
  rw [hkind]
  have haway : t.stackAway = s.stackAway := by
    funext k
    simp only [Dev.stackAway, Dev.stack, hstacks]
  simp only [Dev.die, hdies, haway]

end Command

section Keyed
variable {s : State} {p : Path} (hup : s.dev.pathUp p = true) (hreach : s.dev.unreachable kpr = false)
  (hheld : s.dev.guard kpr p = true)
include hup hreach hheld

/-- A fenced core is reset by command: its window is empty, and its operand store stays. -/
theorem exec_kprResetCore_fenced (hrun : s.dev.pins.resetting = 0) {c : CoreId} (hfenced : (s.dev.core c).fenced = true) :
    ∃ t, exec (.kprResetCore p c) s = .next t ∧ t.pending = s.pending ∧ t.dev.reg (regAt kpr 0x1D004) = 0x31
      ∧ (t.dev.core c).window = [] ∧ (t.dev.core c).lregs = [] ∧ (t.dev.core c).fenced = true
      ∧ (t.dev.core c).os = (s.dev.core c).os ∧ (∀ k, k ≠ c → t.dev.core k = s.dev.core k)
      ∧ t.dev.guard kpr p = false ∧ t.dev.mem = s.dev.mem := by
  obtain ⟨regs, hwrite⟩ := s.dev.resetWrite hup hreach hheld (v := word (c.val * 0x100 + 1))
  refine ⟨{ s with dev := s.dev.writeBar0 p (regAt kpr 0x1D000) (word (c.val * 0x100 + 1)) 0xF }, rfl, rfl, ?_⟩
  dsimp only
  have hguard := s.dev.keyTaken_guard p regs
  have hcores : (s.dev.keyTaken p regs).cores = s.dev.cores := rfl
  have hmem : (s.dev.keyTaken p regs).mem = s.dev.mem := rfl
  have hstill : (s.dev.keyTaken p regs).pins.resetting = 0 := hrun
  rw [hwrite, Dev.resetCommand_core]
  generalize s.dev.keyTaken p regs = d at *
  have hcore : ∀ k, d.core k = s.dev.core k := Dev.core_congr hcores
  rw [if_pos (by rw [hcore]; exact hfenced), d.unitReset_of_running 1 _ hstill (by decide)]
  have hreset : ∀ k, (d.resetCore c).core k = if k = c then Core.reset (d.core c) else d.core k := fun k =>
    Dev.core_modCore _ c k Core.reset
  have hkeeps : (d.resetCore c).guard kpr p = d.guard kpr p ∧ (d.resetCore c).mem = d.mem := ⟨rfl, rfl⟩
  generalize d.resetCore c = e at *
  refine ⟨e.resetCause_reg 3 1, ?_, ?_, ?_, ?_, fun k hk => ?_, hkeeps.1.trans hguard, hkeeps.2.trans hmem⟩
  · exact (congrArg Core.window (hreset c)).trans (congrArg Core.window (if_pos rfl))
  · exact (congrArg Core.lregs (hreset c)).trans (congrArg Core.lregs (if_pos rfl))
  · exact ((congrArg Core.fenced (hreset c)).trans (congrArg Core.fenced (if_pos rfl))).trans
      ((congrArg Core.fenced (hcore c)).trans hfenced)
  · have hos : (d.core c).reset.os = (d.core c).os := rfl
    exact ((congrArg Core.os (hreset c)).trans (congrArg Core.os (if_pos rfl))).trans (hos.trans (congrArg Core.os (hcore c)))
  · exact ((hreset k).trans (if_neg hk)).trans (hcore k)

theorem exec_kprResetCore_served {c : CoreId} (hserved : (s.dev.core c).fenced = false) :
    ∃ t, exec (.kprResetCore p c) s = .next t ∧ t.pending = s.pending ∧ t.dev.cores = s.dev.cores
      ∧ t.dev.reg (regEvent kpr) &&& 2 = 2 ∧ t.dev.guard kpr p = false := by
  obtain ⟨regs, hwrite⟩ := s.dev.resetWrite hup hreach hheld (v := word (c.val * 0x100 + 1))
  refine ⟨{ s with dev := s.dev.writeBar0 p (regAt kpr 0x1D000) (word (c.val * 0x100 + 1)) 0xF }, rfl, rfl, ?_⟩
  dsimp only
  have hguard := s.dev.keyTaken_guard p regs
  have hcores : (s.dev.keyTaken p regs).cores = s.dev.cores := rfl
  rw [hwrite, Dev.resetCommand_core]
  generalize s.dev.keyTaken p regs = d at *
  rw [if_neg (by rw [Dev.core_congr hcores, hserved]; exact Bool.false_ne_true)]
  refine ⟨hcores, ?_, hguard⟩
  have htold : d.keeperIgnores.reg (regEvent kpr) = d.reg (regEvent kpr) ||| 2 := (d.reg_accessEvent ..).trans (if_pos rfl)
  rw [htold]
  exact or_and_mask ..

theorem exec_kprResetDie_away (hrun : s.dev.pins.resetting = 0) {d : DieId} (hd : d.val < 62)
    (haway : s.dev.readmittable (BitVec.ofNat 16 (0x1000 + d.val)) = true) :
    ∃ t, exec (.kprResetDie p d) s = .next t ∧ t.pending = s.pending ∧ t.dev.reg (regAt kpr 0x1D004) = 0x32
      ∧ t.dev.dies = s.dev.dies ∧ t.dev.mem = s.dev.mem := by
  obtain ⟨regs, hwrite⟩ := s.dev.resetWrite hup hreach hheld (v := word (d.val * 0x100 + 2))
  refine ⟨{ s with dev := s.dev.writeBar0 p (regAt kpr 0x1D000) (word (d.val * 0x100 + 2)) 0xF }, rfl, rfl, ?_⟩
  dsimp only
  have hparts : (s.dev.keyTaken p regs).dies = s.dev.dies ∧ (s.dev.keyTaken p regs).stackTab = s.dev.stackTab
      ∧ (s.dev.keyTaken p regs).mem = s.dev.mem ∧ (s.dev.keyTaken p regs).pins = s.dev.pins := ⟨rfl, rfl, rfl, rfl⟩
  rw [hwrite, Dev.resetCommand_die _ d hd]
  generalize s.dev.keyTaken p regs = e at *
  obtain ⟨hdies, hstacks, hmem, hpins⟩ := hparts
  rw [Dev.readmittable_die (d.isLt) hdies hstacks, if_pos haway,
    e.unitReset_of_running 2 _ (by rw [hpins, hrun]) (by decide)]
  obtain ⟨kdies, kmem⟩ := e.resetDie_keeps d.val
  exact ⟨Dev.resetCause_reg _ 3 2, kdies.trans hdies, kmem.trans hmem⟩

theorem exec_kprResetWarm_spec (hrun : s.dev.pins.resetting = 0) (hsurvey : s.dev.fullSurvey = false)
    (hpower : s.dev.pins.inputPower = true) (hoff : s.dev.power.state ≠ .off) (hcool : s.dev.pins.heldHot = false) :
    ∃ t, exec (.kprResetWarm p) s = .next t ∧ t.pending = s.pending ∧ t.dev.pins.resetting = 3
      ∧ t.dev.reg (regAt kpr 0x1D004) = 0x33 ∧ t.dev.gotre.up = false ∧ t.dev.mem = s.dev.mem := by
  obtain ⟨regs, hwrite⟩ := s.dev.resetWrite hup hreach hheld (v := 3)
  refine ⟨{ s with dev := s.dev.writeBar0 p (regAt kpr 0x1D000) 3 0xF }, rfl, rfl, ?_⟩
  dsimp only
  have hparts : (s.dev.keyTaken p regs).pins = s.dev.pins ∧ (s.dev.keyTaken p regs).power = s.dev.power
      ∧ (s.dev.keyTaken p regs).mem = s.dev.mem ∧ (s.dev.keyTaken p regs).fullSurvey = s.dev.fullSurvey := ⟨rfl, rfl, rfl, rfl⟩
  rw [hwrite, Dev.resetCommand_warm]
  generalize s.dev.keyTaken p regs = e at *
  obtain ⟨hpins, hstate, hmem, hopen⟩ := hparts
  rw [hopen, if_neg (by rw [hsurvey]; exact Bool.false_ne_true)]
  obtain ⟨-, spins, scause, sdown, smem⟩ := e.startWarm_spec 3 (by rw [hpins, hpower])
    (by rw [hpins, hrun]; decide) (by rw [hstate]; exact hoff) (by rw [hpins, hcool])
  exact ⟨by rw [spins], scause, sdown, smem.trans hmem⟩

theorem exec_kprResetCold_spec :
    ∃ t, exec (.kprResetCold p) s = .next t ∧ t.pending = s.pending ∧ t.dev.pins.resetting = 4
      ∧ t.dev.reg (regAt kpr 0x1D004) = 0x34 ∧ t.dev.mem = [] ∧ t.dev.holdings = [] := by
  obtain ⟨regs, hwrite⟩ := s.dev.resetWrite hup hreach hheld (v := 4)
  refine ⟨{ s with dev := s.dev.writeBar0 p (regAt kpr 0x1D000) 4 0xF }, rfl, rfl, ?_⟩
  dsimp only
  rw [hwrite, Dev.resetCommand_cold]
  generalize s.dev.keyTaken p regs = e
  exact ⟨rfl, e.startCold_reg_cause 3, rfl, rfl⟩

end Keyed

/-! ### Resets from the host, from PERST# and from power (R549, R553 to R557) -/

section Starts
variable {s : State}

theorem exec_hotReset_spec (hup : s.dev.pcieUp = true) (hfree : s.dev.pins.resetting.val < 3) :
    ∃ t, exec .hotReset s = .next t ∧ t.pending = s.pending ∧ t.dev.pins.resetting = 3 ∧ t.dev.msix = []
      ∧ t.dev.reg (regAt kpr 0x1D004) = 0x43 ∧ t.dev.gotre.up = false ∧ t.dev.mem = s.dev.mem := by
  obtain ⟨⟨⟨hpower, hoff⟩, -⟩, hcool⟩ : ((s.dev.pins.inputPower = true ∧ s.dev.power.state ≠ .off)
      ∧ s.dev.pins.resetting.val < 4) ∧ s.dev.pins.heldHot = false := by
    simpa [Dev.pcieUp] using hup
  refine ⟨{ s with dev := s.dev.hotReset }, rfl, rfl, ?_⟩
  have hhot : s.dev.hotReset = ({ s.dev with msix := [], pins := { s.dev.pins with bar4 := (36, 36) } } : Dev).startWarm 4 :=
    if_pos hup
  dsimp only
  rw [hhot]
  have hmsix : ∀ (d : Dev) cause, (d.startWarm cause).msix = d.msix := fun d cause => by
    obtain ⟨sent, hdown⟩ := d.setUp_eq false
    unfold Dev.startWarm
    split
    · rfl
    · rw [hdown]
      rfl
  obtain ⟨-, spins, scause, sdown, smem⟩ :=
    ({ s.dev with msix := [], pins := { s.dev.pins with bar4 := (36, 36) } } : Dev).startWarm_spec 4 hpower hfree hoff hcool
  exact ⟨by rw [spins], hmsix _ 4, scause, sdown, smem⟩

theorem exec_warmReset_spec (hreset : s.dev.pins.resetting = 3) (hrun : s.dev.power.state = .run)
    (hfrozen : s.dev.survey.frozen = false) (hfences : s.dev.survey.fences = []) (hlatched : s.dev.survey.latched = [])
    (hwaiting : s.dev.survey.waiting = []) :
    ∃ t, exec .warmReset s = .next t ∧ t.pending = s.pending ∧ t.dev.pins.resetting = 0 ∧ t.dev.guards = []
      ∧ t.dev.slots = [] ∧ t.dev.memWaits = [] ∧ (∀ c : CoreId, (t.dev.core c).window = [] ∧ (t.dev.core c).lregs = [])
      ∧ t.dev.power.transition = false
      ∧ (s.dev.gotre.deviceState = .ready → s.dev.gotre.stopped = false → t.dev.gotre.up = true) := by
  obtain ⟨hpins, hguards, hslots, hidle, hworks, htransition, hserves⟩ :=
    s.dev.warmReset_spec hreset hrun hfrozen hfences hlatched hwaiting
  exact ⟨{ s with dev := s.dev.warmReset }, rfl, rfl, hpins, hguards, hslots, hidle, fun c => Prod.mk.inj (hworks c),
    htransition, hserves⟩

theorem exec_perstAssert_spec (hpower : s.dev.pins.inputPower = true) (hgood : s.dev.pins.pwrOk = true)
    (hcool : s.dev.pins.heldHot = false) :
    ∃ t, exec .perstAssert s = .next t ∧ t.pending = s.pending ∧ t.dev.pins.perst = true ∧ t.dev.pins.resetting = 4
      ∧ t.dev.reg (regAt kpr 0x1D004) = 0x24 ∧ t.dev.mem = [] ∧ t.dev.cores = [] := by
  refine ⟨{ s with dev := s.dev.perstLow }, rfl, rfl, ?_⟩
  have hlow : s.dev.perstLow
      = ({ s.dev with pins := { s.dev.pins with perst := true, releaseWaits := false } } : Dev).startCold 2 :=
    if_pos (by rw [hpower, hgood, hcool]; rfl)
  dsimp only
  rw [hlow]
  exact ⟨rfl, rfl, Dev.startCold_reg_cause _ 2, rfl, rfl⟩

theorem exec_perstRelease_starts (hperst : s.dev.pins.perst = true) (hcool : s.dev.pins.heldHot = false)
    (hgood : s.dev.pins.pwrOk = true) :
    ∃ t, exec .perstRelease s = .next t ∧ t.pending = s.pending ∧ t.dev.pins.perst = false
      ∧ t.dev.pins.releaseWaits = false ∧ t.dev.pins.resetting = s.dev.pins.resetting
      ∧ t.dev.regs = s.dev.regs ∧ t.dev.mem = s.dev.mem := by
  refine ⟨{ s with dev := s.dev.perstHigh }, rfl, rfl, ?_⟩
  have hhigh : s.dev.perstHigh = ({ s.dev with pins := { s.dev.pins with perst := false } } : Dev).sampleClkMode :=
    (if_neg (by rw [hperst]; decide)).trans (if_neg (by rw [hcool, hgood]; decide))
  dsimp only
  rw [hhigh]
  exact ⟨rfl, rfl, rfl, rfl, rfl⟩

theorem exec_perstRelease_waits (hperst : s.dev.pins.perst = true) (hhot : s.dev.pins.heldHot = true) :
    ∃ t, exec .perstRelease s = .next t ∧ t.pending = s.pending ∧ t.dev.pins.perst = false
      ∧ t.dev.pins.releaseWaits = true ∧ t.dev.regs = s.dev.regs := by
  refine ⟨{ s with dev := s.dev.perstHigh }, rfl, rfl, ?_⟩
  have hhigh : s.dev.perstHigh = { s.dev with pins := { s.dev.pins with perst := false, releaseWaits := true } } :=
    (if_neg (by rw [hperst]; decide)).trans (if_pos (by rw [hhot]; rfl))
  dsimp only
  rw [hhigh]
  exact ⟨rfl, rfl, rfl⟩

end Starts

/-! ### The boot after a cold reset -/

section Boot
variable {s : State} {verified : List (Fin 8)}

/-- What the boot finds of the images is told in the flash alone. -/
theorem Dev.markFlash_frame (d : Dev) (l : List (Fin 8)) : ∃ v, d.markFlash l = { d with service := v } := by
  unfold Dev.markFlash
  refine List.foldlRecOn _ _ (motive := fun e => ∃ v, e = { d with service := v }) ⟨d.service, rfl⟩ fun e he k _ => ?_
  obtain ⟨v, rfl⟩ := he
  exact ⟨_, rfl⟩

variable (hreset : s.dev.pins.resetting = 4) (hperst : s.dev.pins.perst = false) (hgood : s.dev.pins.pwrOk = true)
  (hpower : s.dev.pins.inputPower = true) (hcool : s.dev.pins.heldHot = false)
include hreset hperst hgood hpower hcool

theorem exec_coldResetBoot_whole (hwhole : (s.dev.markFlash verified).flashWhole = true) :
    ∃ t, exec (.coldResetBoot verified) s = .next t ∧ t.pending = s.pending ∧ t.dev.pins.resetting = 0
      ∧ t.dev.gotre.deviceState = .ready ∧ t.dev.gotre.up = true ∧ t.dev.service.active = t.dev.service.flash
      ∧ t.dev.regs = s.dev.regs ∧ t.dev.mem = s.dev.mem := by
  obtain ⟨v, hmarked⟩ := s.dev.markFlash_frame verified
  refine ⟨{ s with dev := s.dev.boot verified }, rfl, rfl, ?_⟩
  dsimp only
  rw [Dev.boot, if_neg (by rw [hreset, hperst, hgood, hpower, hcool]; decide), if_pos hwhole, hmarked]
  extract_lets s2 g w trained
  obtain ⟨sent, hup⟩ := ({ trained with gotre := { trained.gotre with deviceState := .ready } } : Dev).setUp_eq true
  rw [hup]
  exact ⟨rfl, rfl, rfl, rfl, rfl, rfl⟩

theorem exec_coldResetBoot_recovers (hbad : (s.dev.markFlash verified).flashWhole = false) :
    ∃ t, exec (.coldResetBoot verified) s = .next t ∧ t.pending = s.pending ∧ t.dev.pins.resetting = 0
      ∧ t.dev.gotre.deviceState = .recovery ∧ t.dev.gotre.up = s.dev.gotre.up ∧ t.dev.service.recovery = true
      ∧ t.dev.regs = s.dev.regs ∧ t.dev.mem = s.dev.mem := by
  obtain ⟨v, hmarked⟩ := s.dev.markFlash_frame verified
  refine ⟨{ s with dev := s.dev.boot verified }, rfl, rfl, ?_⟩
  dsimp only
  rw [Dev.boot, if_neg (by rw [hreset, hperst, hgood, hpower, hcool]; decide), if_neg (ne_true_of_eq_false hbad), hmarked]
  exact ⟨rfl, rfl, rfl, rfl, rfl, rfl⟩

end Boot

section Power
variable (s : State)

theorem exec_powerUp_spec (hdown : s.dev.pins.inputPower = false) :
    ∃ t, exec .powerUp s = .next t ∧ t.pending = s.pending ∧ t.dev.pins.inputPower = true ∧ t.dev.pins.resetting = 4
      ∧ t.dev.reg (regAt kpr 0x1D004) = 0x14 ∧ t.dev.mem = [] ∧ t.dev.ctrs = [] := by
  refine ⟨{ s with dev := s.dev.powerUp }, rfl, rfl, ?_⟩
  dsimp only
  have hcause := s.dev.blank.resetCause_reg 1 4
  rw [Dev.powerUp, if_neg (by rw [hdown]; exact Bool.false_ne_true)]
  dsimp only
  split <;> exact ⟨rfl, rfl, hcause, rfl, rfl⟩

theorem exec_inputPowerLoss_spec :
    ∃ t, exec .inputPowerLoss s = .next t ∧ t.pending = s.pending ∧ t.dev.pins.inputPower = false
      ∧ t.dev.mem = [] ∧ t.dev.cores = [] ∧ t.dev.regs = resetRegs ∧ t.dev.service.svnFloor = s.dev.service.svnFloor :=
  ⟨{ s with dev := s.dev.powerLoss }, rfl, rfl, rfl, rfl, rfl, rfl, rfl⟩

end Power

/-- Settles O58: the register's resets, the warm reset by its parts (`Dev.warmReset_eq`), and the resets of the pins and of power. -/
theorem resetsRunToService : Obligations.ResetsRunToService := by
  unfold Obligations.ResetsRunToService
  refine ⟨fun s p hup hreach hheld hrun => ⟨fun c => ⟨exec_kprResetCore_fenced hup hreach hheld hrun,
      exec_kprResetCore_served hup hreach hheld⟩, fun d => exec_kprResetDie_away hup hreach hheld hrun,
      exec_kprResetWarm_spec hup hreach hheld hrun, exec_kprResetCold_spec hup hreach hheld⟩,
    fun s => ⟨exec_hotReset_spec, exec_warmReset_spec, exec_perstAssert_spec, exec_perstRelease_starts, exec_perstRelease_waits,
      fun l hreset hperst hgood hpower hcool => ⟨exec_coldResetBoot_whole hreset hperst hgood hpower hcool,
        exec_coldResetBoot_recovers hreset hperst hgood hpower hcool⟩, exec_powerUp_spec s, exec_inputPowerLoss_spec s⟩⟩

end Sys2Proof.Machine

/-! Images and their activation, and what the keeper answers (R497 to R500, R512, R514 to R516, R545). -/

namespace Sys2Proof.Machine

/-! ### IMAGE_STAGE and IMAGE_ACTIVATE -/

section Stage
variable {s : Dev} {n : Nat} {j : Job}

/-- A command that has been told of in an interim completion ends: it is answered as an accepted one is. -/
theorem Dev.finishJob_interimJob (ready : s.jobReady n 0x0080 j) (v : Service) (st : Status) :
    ∃ g, (({ s.interimJob n 0 with service := v } : Dev).finishJob n st 0).passTurn j = { s with gotre := g, service := v }
      ∧ ∀ t : Dev, t.gotre = g → t.answered j st 0 := by
  obtain ⟨hjob, hnum, -, hphase, hdiscard, -⟩ := ready
  have hinterim : s.interimJob n 0 = { s with gotre := { (s.gotre.setPhase n .interim) with
      waiting := s.gotre.waiting ++ [j.completion false .acceptedPending 0] } } := by
    simp [Dev.interimJob, hjob, hphase, hdiscard]
  have hmap : (s.interimJob n 0).job n = some { j with phase := .interim } := by
    rw [hinterim]
    exact (find?_map_of_same Job.number (f := fun j => { j with phase := .interim }) (fun _ => rfl) n s.gotre.jobs).trans
      (congrArg _ hjob)
  obtain ⟨d, hd⟩ : ∃ d : Dev, d = { s.interimJob n 0 with service := v } := ⟨_, rfl⟩
  have hkept : d.job n = some { j with phase := .interim } := by rw [hd]; exact hmap
  obtain ⟨g₁, hg₁⟩ : ∃ g, d = { s with gotre := g, service := v } := by
    rw [hd, hinterim]
    exact ⟨_, rfl⟩
  have hposted : j.completion true st 0 ∈ (d.finishJob n st 0).gotre.waiting := by
    rw [Dev.finishJob, hkept]
    dsimp only
    rw [if_neg (by decide), if_neg (ne_true_of_eq_false hdiscard)]
    exact List.mem_append_right _ (List.mem_singleton_self _)
  have hends := fun k => d.finishJob_ends n st 0 (k := k)
  obtain ⟨g, hg⟩ := d.finishJob_frame n st 0
  obtain ⟨f, hturn⟩ := (d.finishJob n st 0).passTurn_frame j
  rw [← hd, hturn]
  rw [hg] at hposted hends ⊢
  rw [hg₁]
  refine ⟨_, rfl, fun t ht => ⟨by rw [ht]; exact hposted, fun k hk => hends k ?_⟩⟩
  simp only [Dev.job, ht] at hk
  rw [← hnum]
  exact hk

/-- IMAGE_STAGE of a kind that is not being activated: the block is checked and, where it verifies, staged. -/
theorem Dev.imageStage_of_jobReady (ready : s.jobReady n 0x0080 j) (hkind : kindGood (j.param 7 0) = true)
    (hfree : s.service.activation (j.param 7 0) = none) {blk : BlockRead} {l : List Byte} (hblock : j.rawBlock blk = .ok l) :
    s.imageStage n blk = (if s.service.verifies (j.param 7 0) l then
        (({ s.interimJob n 0 with service := s.service.stage (j.param 7 0) l } : Dev).finishJob n .ok 0).passTurn j
      else (({ s.interimJob n 0 with service := s.service } : Dev).finishJob n .badSignature 0).passTurn j) := by
  have hservice : (s.interimJob n 0).service = s.service := by
    unfold Dev.interimJob
    split
    · split <;> rfl
    · rfl
  obtain ⟨hjob, hnum, -, hphase, -⟩ := id ready
  unfold Dev.imageStage
  rw [hjob]
  dsimp only
  rw [if_neg (by simp [hphase]), Dev.runJob_of_jobReady ready rfl, if_pos hkind, hservice, hfree, if_neg (by simp), Dev.stageNow,
    hblock, hservice, hnum]
  dsimp only
  rw [← hservice]
  split <;> rfl

end Stage

theorem exec_imageStage (s : State) (n : Nat) (j : Job) (blk : BlockRead) (l : List Byte) (ready : s.dev.jobReady n 0x0080 j)
    (hkind : kindGood (j.param 7 0) = true) (hfree : s.dev.service.activation (j.param 7 0) = none)
    (hblock : j.rawBlock blk = .ok l) :
    (s.dev.service.verifies (j.param 7 0) l = true →
      ∃ t, exec (.imageStage n blk) s = .next t ∧ t.pending = s.pending ∧ t.dev.answered j .ok 0
        ∧ Tab.get none t.dev.service.staged (j.param 7 0) = some { header := l.take 256, body := l.drop 256, good := true }
        ∧ t.dev.service.flash = s.dev.service.flash ∧ t.dev.mem = s.dev.mem)
    ∧ (s.dev.service.verifies (j.param 7 0) l = false →
      ∃ t, exec (.imageStage n blk) s = .next t ∧ t.pending = s.pending ∧ t.dev.answered j .badSignature 0
        ∧ t.dev.service = s.dev.service) := by
  have hset := Dev.imageStage_of_jobReady ready hkind hfree hblock
  refine ⟨fun hgood => ?_, fun hbad => ?_⟩
  · obtain ⟨g, hg, hanswer⟩ := Dev.finishJob_interimJob ready (s.dev.service.stage (j.param 7 0) l) .ok
    rw [if_pos hgood, hg] at hset
    refine ⟨{ s with dev := s.dev.serviceScope (s.dev.imageStage n blk) }, rfl, rfl, ?_⟩
    dsimp only
    rw [Dev.serviceScope_service, Dev.serviceScope_mem, hset]
    exact ⟨hanswer _ (Dev.serviceScope_gotre ..), Laws.Tab.get_set_same .., rfl, rfl⟩
  · obtain ⟨g, hg, hanswer⟩ := Dev.finishJob_interimJob ready s.dev.service .badSignature
    rw [if_neg (ne_true_of_eq_false hbad), hg] at hset
    refine ⟨{ s with dev := s.dev.serviceScope (s.dev.imageStage n blk) }, rfl, rfl, ?_⟩
    dsimp only
    rw [Dev.serviceScope_service, hset]
    exact ⟨hanswer _ (Dev.serviceScope_gotre ..), rfl⟩

theorem Service.nextWrite_activities (v : Service) : v.nextWrite.activities = v.activities := by
  unfold Service.nextWrite
  split <;> rfl

theorem exec_imageActivate (s : State) (n : Nat) (j : Job) (ready : s.dev.jobReady n 0x0081 j)
    (hkind : kindGood (j.param 7 0) = true) :
    (s.dev.service.mayActivate (j.param 7 0) = true →
      ∃ t, exec (.imageActivate n) s = .next t ∧ t.pending = s.pending
        ∧ (∃ a ∈ t.dev.service.activities, a.number = s.dev.service.nextActivity ∧ a.job = some n
            ∧ a.activity = BitVec.ofNat 16 (0x100 + j.param 7 0))
        ∧ (∃ q, t.dev.job n = some q ∧ q.phase = .running) ∧ t.dev.mem = s.dev.mem)
    ∧ (s.dev.service.mayActivate (j.param 7 0) = false →
      ∃ t, exec (.imageActivate n) s = .next t ∧ t.pending = s.pending ∧ t.dev.answered j .wrongState 0
        ∧ t.dev.service = s.dev.service) := by
  have hset : s.dev.imageActivate n = (if !s.dev.service.mayActivate (j.param 7 0) then s.dev.finishJob n .wrongState 0
      else ({ s.dev with service := s.dev.service.activate (j.param 7 0) (some n) } : Dev).keepRunning n).passTurn j := by
    rw [Dev.imageActivate, Dev.runJob_of_jobReady ready rfl]
    dsimp only
    rw [if_neg (by simp [hkind])]
  refine ⟨fun hmay => ?_, fun hnot => ?_⟩
  · rw [if_neg (by simp [hmay])] at hset
    have hruns := Dev.job_keepRunning { s.dev with service := s.dev.service.activate (j.param 7 0) (some n) } ready.1
    obtain ⟨g, hkeeps⟩ : ∃ g, ({ s.dev with service := s.dev.service.activate (j.param 7 0) (some n) } : Dev).keepRunning n
      = { s.dev with service := s.dev.service.activate (j.param 7 0) (some n), gotre := g } := ⟨_, rfl⟩
    obtain ⟨f, hturn⟩ :=
      (({ s.dev with service := s.dev.service.activate (j.param 7 0) (some n) } : Dev).keepRunning n).passTurn_frame j
    rw [hkeeps] at hruns
    rw [hturn, hkeeps] at hset
    refine ⟨{ s with dev := s.dev.serviceScope (s.dev.imageActivate n) }, rfl, rfl, ?_⟩
    dsimp only
    rw [Dev.serviceScope_service, Dev.serviceScope_mem, Dev.job_congr (Dev.serviceScope_gotre ..), hset]
    refine ⟨?_, ⟨_, hruns, rfl⟩, rfl⟩
    rw [Service.activate, Service.nextWrite_activities]
    exact ⟨_, List.mem_append_right _ (List.mem_singleton_self _), rfl, rfl, rfl⟩
  · rw [if_pos (by simp [hnot])] at hset
    obtain ⟨g, hg, hanswer⟩ := Dev.finishJob_passTurn (d := s.dev) ready rfl .wrongState 0
    rw [hg] at hset
    refine ⟨{ s with dev := s.dev.serviceScope (s.dev.imageActivate n) }, rfl, rfl, ?_⟩
    dsimp only
    rw [Dev.serviceScope_service, hset]
    exact ⟨hanswer _ (Dev.serviceScope_gotre ..), rfl⟩

/-! ### FLASH_WRITE_DONE and ACTIVATION_UNIT_SWITCH -/

section Flash
variable {s : State} {k : Fin 8} {n : Nat} {a : Activity}

theorem Service.nextWrite_staged (v : Service) : v.nextWrite.staged = v.staged := by
  unfold Service.nextWrite
  split <;> rfl

/-- The write that ends empties the staging area, and leaves the activities. -/
theorem Dev.flashWritten_frame (d : Dev) (kind : Nat) (good : Bool) : ∃ v, d.flashWritten kind good = { d with service := v }
    ∧ Tab.get none v.staged kind = none ∧ v.activities = d.service.activities := by
  refine ⟨_, rfl, ?_, Service.nextWrite_activities _⟩
  rw [Service.nextWrite_staged]
  exact Laws.Tab.get_set_same ..

/-- An activation whose units are not all switched stays open. -/
theorem Dev.closeActivation_of_left {d : Dev} {kind : Nat} (hleft : d.unitsLeft kind ≠ []) : d.closeActivation kind = d := by
  unfold Dev.closeActivation
  split
  · rfl
  · refine if_neg ?_
    simp [hleft]

theorem exec_flashWriteDone_bad (hwriting : s.dev.service.writing = some (k, n)) (hruns : s.dev.gotreRuns = true)
    (ha : s.dev.activity n = some a) (hopen : a.open = true) :
    ∃ t, exec (.flashWriteDone k false) s = .next t ∧ t.pending = s.pending
      ∧ Tab.get none t.dev.service.staged k.val = none
      ∧ (∃ b, t.dev.activity n = some b ∧ b.state = .failed ∧ b.status = .badSignature)
      ∧ t.dev.mem = s.dev.mem := by
  obtain ⟨v, hwritten, hempty, hkept⟩ := s.dev.flashWritten_frame k.val false
  have hfound : (s.dev.flashWritten k.val false).activity n = some a := by
    rw [hwritten, ← ha]
    simp only [Dev.activity, hkept]
  have hset : s.dev.flashDone k.val false
      = ((s.dev.flashWritten k.val false).endActivity n .failed .badSignature).finishJobs a.cancels .ok := by
    rw [Dev.flashDone, hwriting]
    dsimp only
    rw [if_neg (by simp [hruns]), hfound]
    rfl
  rw [Dev.endActivity_of_open hfound hopen] at hset
  have hmap := (s.dev.flashWritten k.val false).activity_modActivity n
    (f := fun q => { q with state := .failed, status := .badSignature }) fun _ => rfl
  rw [hfound, Option.map_some] at hmap
  rw [hwritten] at hset hmap
  obtain ⟨d, hd⟩ : ∃ d : Dev, d = ({ s.dev with service := v } : Dev).modActivity n
      fun q => { q with state := .failed, status := .badSignature } := ⟨_, rfl⟩
  have hparts : d.service.staged = v.staged ∧ d.mem = s.dev.mem := by rw [hd]; exact ⟨rfl, rfl⟩
  rw [← hd] at hset hmap
  obtain ⟨g, hg⟩ := d.finishJobs_frame a.job.toList .badSignature
  obtain ⟨g', hg'⟩ := (d.finishJobs a.job.toList .badSignature).finishJobs_frame a.cancels .ok
  rw [hg', hg] at hset
  refine ⟨{ s with dev := s.dev.imageScope (s.dev.flashDone k.val false) }, rfl, rfl, ?_⟩
  dsimp only
  rw [Dev.activity_congr (Dev.imageScope_service ..), Dev.imageScope_service, Dev.imageScope_mem, hset]
  exact ⟨by rw [hparts.1, hempty], ⟨_, hmap, rfl, rfl⟩, hparts.2⟩

theorem exec_flashWriteDone_good (hwriting : s.dev.service.writing = some (k, n)) (hruns : s.dev.gotreRuns = true)
    (ha : s.dev.activity n = some a) {x : Image} (hcancels : a.cancels = []) (hrecovery : s.dev.inRecovery = false)
    (hstaged : Tab.get none s.dev.service.staged k.val = some x) (hqueue : s.dev.service.writeQueue = [])
    (hleft : s.dev.unitsLeft k.val ≠ []) :
    ∃ t, exec (.flashWriteDone k true) s = .next t ∧ t.pending = s.pending
      ∧ Tab.get none t.dev.service.flash k.val = some { x with good := true }
      ∧ Tab.get none t.dev.service.staged k.val = none ∧ t.dev.service.writing = none ∧ t.dev.mem = s.dev.mem := by
  have hwritten : s.dev.flashWritten k.val true = { s.dev with service := { s.dev.service with
      flash := Tab.set none s.dev.service.flash k.val (some { x with good := true })
      staged := Tab.set none s.dev.service.staged k.val none, writing := none } } := by
    rw [Dev.flashWritten, hstaged]
    dsimp only
    rw [Service.nextWrite, hqueue]
    rfl
  have hset : s.dev.flashDone k.val true = s.dev.flashWritten k.val true := by
    have hfound : (s.dev.flashWritten k.val true).activity n = some a := by
      rw [hwritten]
      exact ha
    have hopen : (s.dev.flashWritten k.val true).inRecovery = false := by
      rw [hwritten]
      exact hrecovery
    have hunits : (s.dev.flashWritten k.val true).unitsLeft k.val ≠ [] := by
      rw [hwritten]
      exact hleft
    rw [Dev.flashDone, hwriting]
    dsimp only
    rw [if_neg (by simp [hruns]), hfound]
    dsimp only
    rw [if_neg (by decide), hcancels, if_neg (by decide), hopen, if_neg Bool.false_ne_true, Dev.closeActivation_of_left hunits]
  refine ⟨{ s with dev := s.dev.imageScope (s.dev.flashDone k.val true) }, rfl, rfl, ?_⟩
  dsimp only
  rw [Dev.imageScope_service, Dev.imageScope_mem, hset, hwritten]
  exact ⟨Laws.Tab.get_set_same .., Laws.Tab.get_set_same .., rfl, rfl⟩

/-- A unit switches, and its activation goes on while another unit is left. -/
theorem exec_activationUnitSwitch {unit : Nat} (hkind : k.val ∉ [1, 5]) (ha : s.dev.service.activation k.val = some a)
    (hstate : a.state = .running) (hahead : s.dev.service.flashAhead a.number = false) (hruns : s.dev.gotreRuns = true)
    (hhead : (s.dev.unitsLeft k.val).head? = some unit) (hquiet : s.dev.quiescent k.val unit = true)
    (hmore : ∃ u, u ≠ unit ∧ u ∈ s.dev.unitsLeft k.val) :
    ∃ t, exec (.activationUnitSwitch k unit) s = .next t ∧ t.pending = s.pending
      ∧ t.dev.service.switched = s.dev.service.switched ++ [(k.val, unit)]
      ∧ t.dev.service.active = s.dev.service.active ∧ t.dev.mem = s.dev.mem ∧ t.dev.regs = s.dev.regs := by
  obtain ⟨u, hne, hu⟩ := hmore
  have hsame : s.dev.switchUnit k.val unit = s.dev := by
    unfold Dev.switchUnit
    split
    next h => exact absurd (by simp [h]) hkind
    next h => exact absurd (by simp [h]) hkind
    next => rfl
  obtain ⟨d, hd⟩ : ∃ d : Dev, d = ({ s.dev with service := { s.dev.service with
      switched := s.dev.service.switched ++ [(k.val, unit)] } } : Dev).modActivity a.number
        fun q => { q with progress := q.progress + 1 } := ⟨_, rfl⟩
  have hunits : d.imageUnits k.val = s.dev.imageUnits k.val := by rw [hd]; rfl
  have hparts : d.service.switched = s.dev.service.switched ++ [(k.val, unit)] ∧ d.service.active = s.dev.service.active
      ∧ d.mem = s.dev.mem ∧ d.regs = s.dev.regs := by rw [hd]; exact ⟨rfl, rfl, rfl, rfl⟩
  obtain ⟨hswitched, hrest⟩ := hparts
  have hleft : d.unitsLeft k.val ≠ [] := by
    refine List.ne_nil_of_mem (a := u) ?_
    rw [Dev.unitsLeft, List.mem_filter] at hu ⊢
    obtain ⟨hin, hnot⟩ := hu
    refine ⟨hunits ▸ hin, ?_⟩
    simpa [hswitched, hne] using hnot
  have hset : s.dev.unitSwitch k.val unit = d := by
    rw [Dev.unitSwitch, ha]
    dsimp only
    rw [if_neg (by simp [hstate, hahead, hruns, hhead, hquiet]), hsame]
    exact (congrArg (Dev.closeActivation · k.val) hd.symm).trans (Dev.closeActivation_of_left hleft)
  refine ⟨{ s with dev := s.dev.imageScope (s.dev.unitSwitch k.val unit) }, rfl, rfl, ?_⟩
  dsimp only
  rw [Dev.imageScope_service, Dev.imageScope_mem, Dev.imageScope_regs, hset]
  exact ⟨hswitched, hrest⟩

end Flash

/-! ### The keeper's own service -/

section Keeper
variable {s : State}

theorem exec_dbgAuth_good (hmanaged : s.dev.managed = true) {req : List Byte} (hgood : s.dev.grantGood req = true) :
    ∃ t, exec (.dbgAuth req) s = .next t ∧ t.pending = s.pending
      ∧ t.dev.service.grants = s.dev.service.grants ++ [grantOf req]
      ∧ t.dev.service.challenges = s.dev.service.challenges + 1 ∧ t.dev.ctrs = s.dev.ctrs ∧ t.dev.mem = s.dev.mem := by
  have hset : s.dev.dbgAuth req = { s.dev with service := { s.dev.service with
      challenges := s.dev.service.challenges + 1, grants := s.dev.service.grants ++ [grantOf req] } } := by
    simp only [Dev.dbgAuth, hmanaged, hgood, Bool.not_true, Bool.false_eq_true, if_false, if_true]
  refine ⟨{ s with dev := s.dev.keeperScope (s.dev.dbgAuth req) }, rfl, rfl, ?_⟩
  dsimp only
  rw [hset]
  exact ⟨rfl, rfl, rfl, rfl⟩

theorem exec_dbgAuth_bad (hmanaged : s.dev.managed = true) {req : List Byte} (hbad : s.dev.grantGood req = false) :
    ∃ t, exec (.dbgAuth req) s = .next t ∧ t.pending = s.pending
      ∧ t.dev.service.grants = s.dev.service.grants ∧ t.dev.service.challenges = s.dev.service.challenges + 1
      ∧ t.dev.ctr (regAt kpr 0x1B030) = addStop64 (s.dev.ctr (regAt kpr 0x1B030)) 1 := by
  have hset : s.dev.dbgAuth req = ({ s.dev with service := { s.dev.service with
      challenges := s.dev.service.challenges + 1 } } : Dev).count none (regAt kpr 0x1B030) 1 := by
    simp only [Dev.dbgAuth, hmanaged, hbad, Bool.not_true, Bool.false_eq_true, if_false]
  refine ⟨{ s with dev := s.dev.keeperScope (s.dev.dbgAuth req) }, rfl, rfl, ?_⟩
  dsimp only
  rw [hset]
  exact ⟨rfl, rfl, Dev.ctr_count_same _ none _ _⟩

theorem Dev.die_leaveTest (d : Dev) (hended : d.service.dbgTest = false) {n : Nat} (hn : n < 64) :
    (d.leaveTest.die n).testMode = false := by
  rw [Dev.leaveTest, if_neg (ne_true_of_eq_false hended)]
  refine foldl_each d (P := fun n e => (e.die n).testMode = false) (fun e n => ?_) (fun e b k hk => ?_) (List.mem_range.2 hn)
  · rw [Dev.die_modDie, if_pos rfl]
  · rw [Dev.die_modDie]
    split
    · rfl
    · exact hk

/-- What the end of test mode leaves alone. -/
theorem Dev.leaveTest_frame (d : Dev) : ∃ x, d.leaveTest = { d with dies := x } := by
  unfold Dev.leaveTest
  split
  · exact ⟨d.dies, rfl⟩
  · refine List.foldlRecOn _ _ (motive := fun e : Dev => ∃ x, e = { d with dies := x }) ⟨d.dies, rfl⟩ fun e he n _ => ?_
    obtain ⟨x, rfl⟩ := he
    exact ⟨_, rfl⟩

theorem exec_authorisationExpiry (hmanaged : s.dev.managed = true) {g : Grant} (hone : s.dev.service.grants = [g])
    (hahead : reached s.dev.dt g.expiry = false) :
    ∃ t, exec .authorisationExpiry s = .next t ∧ t.pending = s.pending ∧ t.dev.dt = g.expiry
      ∧ t.dev.service.grants = [] ∧ (∀ d < 64, (t.dev.die d).testMode = false) ∧ t.dev.mem = s.dev.mem := by
  obtain ⟨d, hd⟩ : ∃ d : Dev, d = { s.dev with dt := g.expiry, service := { s.dev.service with grants := [] } } := ⟨_, rfl⟩
  have hnow : reached g.expiry g.expiry = true := by simp [reached]
  have hset : s.dev.authExpiry = d.leaveTest := by
    rw [hd]
    simp only [Dev.authExpiry, hone, List.find?_cons, hahead, List.find?_nil, earliest, hmanaged, Bool.not_true,
      Bool.false_eq_true, if_false, List.filter_cons, hnow, List.filter_nil]
  have hended : d.service.dbgTest = false := by rw [hd]; rfl
  have hparts : d.dt = g.expiry ∧ d.service.grants = [] := by rw [hd]; exact ⟨rfl, rfl⟩
  have htest := fun n hn => d.die_leaveTest hended (n := n) hn
  obtain ⟨x, hx⟩ := d.leaveTest_frame
  refine ⟨{ s with dev := s.dev.keeperScope s.dev.authExpiry }, rfl, rfl, ?_⟩
  rw [hx] at htest hset
  dsimp only
  rw [hset]
  exact ⟨hparts.1, hparts.2, htest, rfl⟩

theorem exec_spdmRequest (hmanaged : s.dev.managed = true) (r : SpdmReq) :
    ∃ t, exec (.spdmRequest r) s = .next t ∧ t.pending = s.pending
      ∧ t.dev.outbox = s.dev.outbox ++ [.management (Config.spdmAnswer (s.dev.spdmBody r).1 (s.dev.spdmBody r).2)]
      ∧ t.dev.service = s.dev.service := by
  refine ⟨{ s with dev := s.dev.keeperScope (s.dev.spdm r) }, rfl, rfl, ?_⟩
  dsimp only
  rw [Dev.spdm, if_neg (by simp [hmanaged])]
  exact ⟨rfl, rfl⟩

theorem exec_pldmMonitor (hmanaged : s.dev.managed = true) :
    ∃ t v a, exec .pldmMonitor s = .next t ∧ t.pending = s.pending
      ∧ t.dev.outbox = s.dev.outbox ++ [.management (Config.pldmAnswer 0 (s.dev.sensors v a))]
      ∧ t.dev.service = s.dev.service := by
  refine ⟨{ s with dev := s.dev.keeperScope s.dev.pldmMonitor }, s.dev.takeFree.1.toNat % 65536,
    s.dev.takeFree.2.takeFree.1.toNat % 65536, rfl, rfl, ?_⟩
  dsimp only
  have hset : s.dev.pldmMonitor = s.dev.takeFree.2.takeFree.2.emit (.management (Config.pldmAnswer 0
      (s.dev.sensors (s.dev.takeFree.1.toNat % 65536) (s.dev.takeFree.2.takeFree.1.toNat % 65536)))) :=
    if_neg (by simp [hmanaged])
  have hkept : s.dev.takeFree.2.takeFree.2.outbox = s.dev.outbox ∧ s.dev.takeFree.2.takeFree.2.service = s.dev.service :=
    ⟨rfl, rfl⟩
  generalize s.dev.sensors _ _ = l at *
  generalize s.dev.takeFree.2.takeFree.2 = d at *
  rw [Dev.keeperScope_outbox, Dev.keeperScope_service, hset, ← hkept.1, ← hkept.2]
  exact ⟨rfl, rfl⟩

theorem exec_pldmFwUpdate_stage (hmanaged : s.dev.managed = true) {kind : BitVec 8} {ws : List Word64}
    (hruns : s.dev.gotreRuns = true) (hkind : kindGood kind.toNat = true) (hfree : s.dev.service.activation kind.toNat = none)
    (hgood : s.dev.service.verifies kind.toNat (blockBytes ws) = true) :
    ∃ t, exec (.pldmFwUpdate kind (some ws)) s = .next t ∧ t.pending = s.pending
      ∧ t.dev.service = s.dev.service.stage kind.toNat (blockBytes ws)
      ∧ t.dev.outbox = s.dev.outbox ++ [.management (Config.pldmAnswer 1 (le16 Status.ok.code.toNat))] := by
  refine ⟨{ s with dev := s.dev.keeperScope (s.dev.pldmUpdate kind.toNat (some ws)) }, rfl, rfl, ?_⟩
  dsimp only
  rw [Dev.pldmUpdate, if_neg (by simp [hmanaged]), if_neg (by simp [hruns]), if_neg (by simp [hkind])]
  rw [if_neg (by simp [hfree]), if_pos hgood]
  exact ⟨rfl, rfl⟩

theorem exec_pldmFwUpdate_activate (hmanaged : s.dev.managed = true) {kind : BitVec 8} (hruns : s.dev.gotreRuns = true)
    (hkind : kindGood kind.toNat = true) (hmay : s.dev.service.mayActivate kind.toNat = true) :
    ∃ t, exec (.pldmFwUpdate kind none) s = .next t ∧ t.pending = s.pending
      ∧ t.dev.service = s.dev.service.activate kind.toNat none := by
  refine ⟨{ s with dev := s.dev.keeperScope (s.dev.pldmUpdate kind.toNat none) }, rfl, rfl, ?_⟩
  dsimp only
  rw [Dev.pldmUpdate, if_neg (by simp [hmanaged]), if_neg (by simp [hruns]), if_neg (by simp [hkind])]
  rw [if_pos hmay]
  rfl

end Keeper

/-- Settles O54: the commands and the ends of their flash writes, and each request that the keeper answers. -/
theorem imagesActivateAndTheKeeperAnswers : Obligations.ImagesActivateAndTheKeeperAnswers := by
  unfold Obligations.ImagesActivateAndTheKeeperAnswers
  refine ⟨⟨exec_imageStage, exec_imageActivate, fun s k n a hwriting hruns ha hopen =>
      ⟨exec_flashWriteDone_bad hwriting hruns ha hopen, fun x _ hcancels hrecovery _ hstaged hqueue hleft =>
        exec_flashWriteDone_good hwriting hruns ha hcancels hrecovery hstaged hqueue hleft⟩,
      fun s k unit a hkind ha hstate hahead hruns hhead hquiet hmore =>
        exec_activationUnitSwitch hkind ha hstate hahead hruns hhead hquiet hmore⟩, fun s hpower hoff => ?_⟩
  have hmanaged : s.dev.managed = true := by simp [Dev.managed, hpower, hoff]
  exact ⟨fun req => exec_dbgAuth_good hmanaged, fun req => exec_dbgAuth_bad hmanaged,
    fun g => exec_authorisationExpiry hmanaged, exec_spdmRequest hmanaged, exec_pldmMonitor hmanaged,
    fun kind ws => exec_pldmFwUpdate_stage hmanaged, fun kind => exec_pldmFwUpdate_activate hmanaged⟩

end Sys2Proof.Machine

/-! The Harrow's blocks and its preconditioner homes (R364 to R372). -/

namespace Sys2Proof.Machine

/-! ### What the Harrow's work leaves alone -/

/-- A home without the mark that it has run. -/
def PrecondWait.unmarked (z : PrecondWait) : PrecondWait := { z with done := false }

/-- The cores, the windows of reductions and the homes. -/
def Dev.bench (s : Dev) : Tab Core × (HoldId → List RedWindow × List PrecondWait) :=
  (s.cores, fun h => ((s.holding h).windows, (s.holding h).precond))

/-- The cores, the windows and what the homes have gathered. -/
def Dev.shop (s : Dev) : Tab Core × (HoldId → List RedWindow × List PrecondWait) :=
  (s.cores, fun h => ((s.holding h).windows, (s.holding h).precond.map PrecondWait.unmarked))

/-- The cores and the windows. -/
def Dev.yard (s : Dev) : Tab Core × (HoldId → List RedWindow) := (s.cores, fun h => (s.holding h).windows)

section Parts
variable {s t : Dev}

theorem Dev.shop_of_bench (h : t.bench = s.bench) : t.shop = s.shop :=
  Prod.ext (congrArg Prod.fst h :) (funext fun k => (congrArg (fun x => ((x.2 k).1, (x.2 k).2.map PrecondWait.unmarked)) h :))

theorem Dev.yard_of_shop (h : t.shop = s.shop) : t.yard = s.yard :=
  Prod.ext (congrArg Prod.fst h :) (funext fun k => (congrArg (fun x => (x.2 k).1) h :))

theorem Dev.bench_of_kernel (hcores : t.cores = s.cores) (hkernel : ∀ h, (t.holding h).kernel = (s.holding h).kernel) :
    t.bench = s.bench :=
  Prod.ext hcores (funext fun k => (congrArg (fun x : Holding => (x.windows, x.precond)) (hkernel k) :))

theorem Dev.bench_of_standing (h : t.standing = s.standing) : t.bench = s.bench :=
  Dev.bench_of_kernel (congrArg (·.1.cores) h :) (Dev.kernel_of_standing h)

theorem Dev.precond_of_bench (h : t.bench = s.bench) (k : HoldId) : (t.holding k).precond = (s.holding k).precond :=
  (congrArg (fun x => (x.2 k).2) h :)

theorem Dev.cores_of_yard (h : t.yard = s.yard) : t.cores = s.cores := (congrArg Prod.fst h :)

theorem Dev.window_of_yard (h : t.yard = s.yard) (k : HoldId) (i : Nat) : t.window k i = s.window k i :=
  (congrArg (fun x => (x.2 k)[i]?) h :)

theorem Dev.bench_ite (q : Prop) [Decidable q] {d x y : Dev} (hx : x.bench = d.bench) (hy : y.bench = d.bench) :
    (if q then x else y).bench = d.bench := by
  split
  · exact hx
  · exact hy

end Parts

section Work
variable (s : Dev) (p : PortId) (h : HoldId)

theorem Dev.modHolding_bench {f : Holding → Holding}
    (hf : ∀ x, (f x).windows = x.windows ∧ (f x).precond = x.precond) : (s.modHolding h f).bench = s.bench := by
  refine Prod.ext rfl (funext fun k => ?_)
  obtain ⟨hwindows, hprecond⟩ := hf (s.holding h)
  simp only [Dev.bench, Dev.holding_modHolding]
  split
  next hk => rw [hwindows, hprecond, hk]
  next => rfl

theorem Dev.countNum_standing (o : Option HoldId) (a n : Nat) : (s.countNum o a n).standing = s.standing := by
  cases o with
  | none => rfl
  | some h => exact Dev.modHolding_standing { s with regs := _, shadow := _ } h rfl

theorem Dev.count_bench (o : Option HoldId) (a n : Nat) : (s.count o a n).bench = s.bench :=
  Dev.bench_of_standing (s.count_standing ..)

theorem Dev.countNum_bench (o : Option HoldId) (a n : Nat) : (s.countNum o a n).bench = s.bench :=
  Dev.bench_of_standing (s.countNum_standing ..)

theorem Dev.sendFrom_bench (dst : BitVec 16) (vc : Fin 4) (o : Owner) (m : OutMsg) (blocks : List (Nat × Nat × Nat)) :
    (s.sendFrom p dst vc o m blocks).bench = s.bench :=
  have ⟨hcores, _, _, hkernel⟩ := Dev.apartFromSends_eq_iff.1 (s.sendFrom_apart dst vc o m p blocks)
  Dev.bench_of_kernel hcores hkernel

theorem Dev.modReduce_bench (q : ReduceRec) (f : ReduceRec → ReduceRec) : (s.modReduce h q f).bench = s.bench :=
  s.modHolding_bench h fun _ => ⟨rfl, rfl⟩

theorem Dev.takeGather_bench (g r c off : Nat) (bytes : List PByte) : (s.takeGather p h g r c off bytes).bench = s.bench := by
  unfold Dev.takeGather
  extract_lets x key
  split
  · exact s.count_bench ..
  · split
    · rfl
    · split
      · refine Eq.trans (Dev.modHolding_bench _ h fun _ => ?_) (s.count_bench ..)
        exact ⟨rfl, rfl⟩
      · dsimp only
        split_ifs
        · exact Dev.bench_of_standing (s.redMiss_standing ..)
        · rfl
        · exact (Dev.modReduce_bench ..).trans (Dev.bench_of_standing (s.writePieces_standing ..))
        · exact s.modReduce_bench ..

theorem Dev.sendPiece_bench (w : RedWindow) (c off : Nat) (bytes : List PByte) : (s.sendPiece p h w c off bytes).bench = s.bench := by
  unfold Dev.sendPiece
  extract_lets dst
  refine foldl_preserves Dev.bench (fun d m => ?_) s dst
  split
  · exact d.takeGather_bench ..
  · exact d.sendFrom_bench ..

theorem Dev.countGather_bench (f : Fmt) (rs : List Rounded) : (s.countGather p h f rs).bench = s.bench := by
  unfold Dev.countGather
  extract_lets sat non s1
  have hsat : s1.bench = s.bench := by
    unfold s1
    split
    · rfl
    · exact s.countNum_bench ..
  split
  · exact hsat
  · exact (s1.countNum_bench ..).trans hsat

theorem Dev.gatherRow_bench (w : RedWindow) (first : Nat) (els : List Elem) : (s.gatherRow p h w first els).bench = s.bench := by
  unfold Dev.gatherRow
  extract_lets f size outs s1 per flitOf starts
  exact (foldl_preserves Dev.bench (fun d i => d.sendPiece_bench ..) s1 starts).trans (s.countGather_bench ..)

theorem Dev.takeTrailer_bench (g r : Nat) (src : BitVec 16) (recs : List TrailerRec) :
    (s.takeTrailer p h g r src recs).bench = s.bench := by
  unfold Dev.takeTrailer
  extract_lets x key
  split_ifs
  · exact s.count_bench ..
  · exact Dev.bench_of_standing (s.redMiss_standing ..)
  · rfl
  · exact s.modHolding_bench h fun _ => ⟨rfl, rfl⟩

theorem Dev.sendTrailer_bench (w : RedWindow) : (s.sendTrailer p h w).bench = s.bench := by
  unfold Dev.sendTrailer
  extract_lets x g r
  split
  · rfl
  · exact (Dev.takeTrailer_bench ..).trans (foldl_preserves Dev.bench (fun d m => d.sendFrom_bench ..) s _)

theorem Dev.skipBlock_bench (kind : BlockKind) : (s.skipBlock p h kind).bench = s.bench := by
  cases kind with
  | empty => rfl
  | poison => exact s.count_bench (some h) (hrwReg p 0x18) 1
  | nonfinite => exact s.count_bench (some h) (hrwReg p 0x20) 1
  | finite => rfl

theorem Dev.tallyElems_bench (key : Nat) (els : List Elem) : (s.tallyElems p h key els).bench = s.bench := by
  unfold Dev.tallyElems
  extract_lets n add sats s1 s2
  have hadd : ∀ (d : Dev) off k, (add d off k).bench = d.bench := fun d off k => by
    unfold add
    split
    · rfl
    · exact d.count_bench ..
  have hcounted : s1.bench = s.bench := (hadd ..).trans ((hadd ..).trans ((hadd ..).trans (hadd ..)))
  have hsats : s2.bench = s1.bench := by
    unfold s2
    split
    · rfl
    · exact s1.countNum_bench ..
  refine Eq.trans (s2.modHolding_bench h fun _ => ?_) (hsats.trans hcounted)
  exact ⟨rfl, rfl⟩

theorem Span.write_bench (q : Span) (a : Agent) (d : SpanData) (els : List Elem) : (q.write a d els s).bench = s.bench := by
  unfold Span.write
  extract_lets e ps st
  split
  · rfl
  · exact Dev.bench_of_standing ((Dev.writeVa_standing ..).trans (s.writeVa_standing ..))

end Work

/-! ### What the Harrow reads -/

section Reads
variable (a : Agent) (full : Bool) (r : Run)

theorem Span.read_standing (q : Span) : (q.read a full r).2.dev.standing = r.dev.standing := by
  unfold Span.read
  extract_lets e n x y z
  have hparams : x.2.dev.standing = r.dev.standing := r.read_standing ..
  have hstate : y.2.dev.standing = x.2.dev.standing := x.2.read_standing ..
  have hfreeze : z.2.dev.standing = y.2.dev.standing := y.2.read_standing ..
  split_ifs
  · exact hparams
  · exact hstate.trans hparams
  · exact hfreeze.trans (hstate.trans hparams)

theorem readRows_standing (e : UpdateEntry) (q : Nat) (l : List Nat) : (readRows e q a full l r).2.dev.standing = r.dev.standing := by
  induction l generalizing r with
  | nil => rfl
  | cons i l ih => exact (ih _).trans (Span.read_standing ..)

theorem readFactors_standing (e : UpdateEntry) (q : Nat) : (readFactors e q a r).2.dev.standing = r.dev.standing :=
  (Run.read_standing ..).trans ((Run.read_standing ..).trans ((Run.read_standing ..).trans (Run.read_standing ..)))

theorem readSpans_standing (gs : List Val) (l : List (Nat × Nat × Option (Nat × UpdateEntry))) (first : Nat) :
    (readSpans a full gs l first r).2.dev.standing = r.dev.standing := by
  induction l generalizing r with
  | nil => rfl
  | cons z l ih =>
    obtain ⟨i, n, o⟩ := z
    cases o with
    | none => exact ih r
    | some e =>
      unfold readSpans
      dsimp only
      split
      · exact ih r
      · exact (ih _).trans (Span.read_standing ..)

theorem Dev.blockValues_standing (s : Dev) (p : PortId) (h : HoldId) (w : RedWindow) (c b : Nat) :
    (s.blockValues p h w c b).2.standing = s.standing := by
  unfold Dev.blockValues
  extract_lets k q pol base
  split
  · rfl
  · rfl
  · rfl
  · split
    · exact List.foldlRecOn q.slots _ (motive := fun acc : List (List (Val × Bool)) × Dev => acc.2.standing = s.standing) rfl
        fun acc hacc j _ => (acc.2.readOut_standing ..).trans hacc
    · rfl

end Reads

/-! ### The homes as they run -/

section Homes
variable (s : Dev) (p : PortId) (h : HoldId)

/-- Homes change, and keep what they have gathered. -/
theorem Dev.modHolding_shop {f : Holding → Holding}
    (hf : ∀ x, (f x).windows = x.windows ∧ (f x).precond.map PrecondWait.unmarked = x.precond.map PrecondWait.unmarked) :
    (s.modHolding h f).shop = s.shop := by
  refine Prod.ext rfl (funext fun k => ?_)
  obtain ⟨hwindows, hprecond⟩ := hf (s.holding h)
  simp only [Dev.shop, Dev.holding_modHolding]
  split
  next hk => rw [hwindows, hprecond, hk]
  next => rfl

theorem Dev.markHome_shop (entry block : Nat) : (s.modHolding h fun y => { y with precond := y.precond.map fun v =>
    if v.entry = entry ∧ v.block = block then { v with done := true } else v }).shop = s.shop := by
  refine s.modHolding_shop h fun x => ⟨rfl, ?_⟩
  rw [List.map_map]
  refine List.map_congr_left fun v _ => ?_
  simp only [Function.comp_apply]
  split <;> rfl

theorem Dev.runHome_shop (w : RedWindow) (e : UpdateEntry) (z : PrecondWait) {t : Dev} (ht : s.runHome p h w e z = some t) :
    t.shop = s.shop := by
  unfold Dev.runHome at ht
  extract_lets a x kind0 gs full rows facs factorBad kind s1 s2 up els s4 s5 s6 s3 s7 s8 at ht
  have hread : facs.2.dev.bench = s.bench := by
    have hrows : rows.2.dev.standing = s.standing := readRows_standing ..
    refine Dev.bench_of_standing (Eq.trans ?_ hrows)
    unfold facs
    split
    · exact readFactors_standing ..
    · rfl
  clear_value facs
  split at ht
  · cases ht
  · have hfactors : s1.bench = s.bench := by
      unfold s1
      split
      · exact (Dev.count_bench ..).trans hread
      · exact hread
    have hskip : s2.bench = s.bench := (Dev.skipBlock_bench ..).trans hfactors
    have hwritten : s3.bench = s.bench := by
      unfold s3
      split
      · have hrows : s4.bench = s2.bench := foldl_preserves Dev.bench (fun d i => Span.write_bench ..) s2 _
        have hstats : s5.bench = s4.bench := Dev.bench_of_standing ((Dev.writeVa_standing ..).trans (Dev.writeVa_standing ..))
        have hsats : s6.bench = s5.bench := by
          unfold s6
          split
          · rfl
          · exact Dev.countNum_bench ..
        exact (Dev.count_bench ..).trans (hsats.trans (hstats.trans (hrows.trans hskip)))
      · exact hskip
    have htally : s7.bench = s.bench := (Dev.tallyElems_bench ..).trans hwritten
    have hmarked : s8.shop = s.shop := (s7.markHome_shop h z.entry z.block).trans (Dev.shop_of_bench htally)
    clear_value s8 els
    cases ht
    exact (Dev.shop_of_bench (foldl_preserves Dev.bench (fun d i => d.gatherRow_bench ..) s8 _)).trans hmarked

theorem Dev.runHomes_shop : (s.runHomes p h).shop = s.shop := by
  unfold Dev.runHomes
  extract_lets x
  refine foldl_preserves Dev.shop (fun d z => ?_) s x.precond
  split
  · rfl
  · split
    · rfl
    · split
      · rfl
      next e _ _ _ w _ =>
        split
        · rfl
        · split
          next d1 hrun => exact (Dev.shop_of_bench (d1.sendTrailer_bench ..)).trans (d.runHome_shop p h w e z hrun)
          next => rfl

/-- Values that come to a home leave the cores and the windows. -/
theorem Dev.takeForward_yard (entry block first : Nat) (vs : List (Option PWord)) :
    (s.takeForward p h entry block first vs).yard = s.yard := by
  refine Prod.ext rfl (funext fun k => ?_)
  simp only [Dev.takeForward, Dev.yard, Dev.holding_modHolding]
  split
  next hk => rw [hk]
  next => rfl

theorem Dev.forward_yard (w : RedWindow) (entry : Nat) (e : UpdateEntry) (rel : Nat) (vs : List (Option PWord)) :
    (s.forward p h w entry e rel vs).yard = s.yard := by
  unfold Dev.forward
  extract_lets starts stop
  refine foldl_preserves Dev.yard (fun d i => ?_) s starts
  extract_lets q part c
  split
  · rfl
  · split
    · exact d.takeForward_yard ..
    · exact Dev.yard_of_shop (Dev.shop_of_bench (d.sendFrom_bench ..))

end Homes

/-! ### A final block as it is taken (R365) -/

section Blocks
variable {s : Dev} {h : HoldId} {i c b : Nat}

/-- The cores stand, and the block is taken in its window. -/
structure Dev.Takes (s : Dev) (h : HoldId) (i c b : Nat) (t : Dev) : Prop where
  cores : t.cores = s.cores
  taken : ∃ v, t.window h i = some v ∧ (Tab.get {} (v.chunk c).blocks b).taken = true

theorem Dev.Takes.of_yard {t u : Dev} (ht : s.Takes h i c b t) (hu : u.yard = t.yard) : s.Takes h i c b u :=
  ⟨(Dev.cores_of_yard hu).trans ht.cores, by rw [Dev.window_of_yard hu]; exact ht.taken⟩

theorem Dev.Takes.of_bench {t u : Dev} (ht : s.Takes h i c b t) (hu : u.bench = t.bench) : s.Takes h i c b u :=
  ht.of_yard (Dev.yard_of_shop (Dev.shop_of_bench hu))

/-- The block that is taken. -/
theorem Dev.Takes.take {t : Dev} {w : RedWindow} (hw : s.window h i = some w) (ht : t.bench = s.bench) {k : RedChunk}
    (hk : k.chunk = c) (htaken : (Tab.get {} k.blocks b).taken = true) : s.Takes h i c b (t.setWindow h i (w.setChunk k)) := by
  have hyard := Dev.yard_of_shop (Dev.shop_of_bench ht)
  refine ⟨(Dev.setWindow_cores ..).trans (Dev.cores_of_yard hyard), _,
    Dev.window_setWindow ((Dev.window_of_yard hyard h i).trans hw) _, ?_⟩
  rw [w.chunk_setChunk_of c hk, if_pos rfl]
  exact htaken

theorem Dev.Takes.foldl {α : Type} {f : Dev → α → Dev} (hf : ∀ d a, s.Takes h i c b d → s.Takes h i c b (f d a)) {t : Dev}
    (ht : s.Takes h i c b t) (l : List α) : s.Takes h i c b (l.foldl f t) :=
  List.foldlRecOn l f (motive := s.Takes h i c b) ht fun d hd a _ => hf d a hd

/-- A chunk put back with its blocks as they were. -/
theorem Dev.Takes.setChunk {t : Dev} (ht : s.Takes h i c b t) {w : RedWindow} (hw : t.window h i = some w) {k : RedChunk}
    (hk : k.chunk = c) (hblocks : k.blocks = (w.chunk c).blocks) : s.Takes h i c b (t.setWindow h i (w.setChunk k)) := by
  obtain ⟨hcores, v, hv, htaken⟩ := ht
  obtain rfl : v = w := Option.some.inj (hv.symm.trans hw)
  refine ⟨hcores, _, Dev.window_setWindow hw _, ?_⟩
  rw [v.chunk_setChunk_of c hk, if_pos rfl, hblocks]
  exact htaken

theorem Dev.Takes.putOut {t : Dev} (ht : s.Takes h i c b t) (p : PortId) (first : Nat) (ws : List PWord) :
    s.Takes h i c b (t.putOut p h i c first ws) := by
  unfold Dev.putOut
  split
  · exact ht
  next w hw =>
    extract_lets f outs k k1
    exact (ht.setChunk hw (k := k1) (w.chunk_chunk c) rfl).of_bench (Dev.countGather_bench ..)

theorem Dev.Takes.sendFlits {t : Dev} (ht : s.Takes h i c b t) (p : PortId) (flits : List Nat) :
    s.Takes h i c b (t.sendFlits p h i c flits) := by
  unfold Dev.sendFlits
  refine ht.foldl (fun d f hd => ?_) flits
  split
  · exact hd
  next w hw =>
    extract_lets k per vs
    split
    · exact hd
    · exact (hd.setChunk hw (k := { k with sent := k.sent ++ [f] }) (w.chunk_chunk c) rfl).of_bench
        (foldl_preserves Dev.bench (fun d2 q => d2.sendPiece_bench ..) _ _)

/-- Free words change nothing but the free values that are left. -/
theorem plainWords_bench (kind : BlockKind) (gs : List Val) (d : Dev) : (plainWords kind gs d).2.bench = d.bench := by
  induction gs generalizing d with
  | nil => rfl
  | cons g gs ih =>
    refine (ih _).trans ?_
    cases kind <;> rfl

theorem Dev.harrowBlock_takes (p : PortId) (g r : Nat) {w : RedWindow}
    (hfind : (((s.holding h).windowsOf p g r).find? fun q =>
      (Tab.get {} (q.2.chunk c).blocks b).final && !(Tab.get {} (q.2.chunk c).blocks b).taken) = some (i, w))
    (hread : (readSpans (linkAgent p h) ((Tab.get {} (w.chunk c).blocks b).kind == .finite)
      (((s.blockValues p h w c b).1.map (·.1)).take (min 64 (w.policy.valuesIn c - b * 64)))
      ((s.holding h).spans g r (c * chunkValues + b * 64) (min 64 (w.policy.valuesIn c - b * 64))) (c * chunkValues + b * 64)
      { dev := (s.blockValues p h w c b).2 }).2.wait = false)
    (hstaged : s.stagingHeld p h w c b = false) : s.Takes h i c b (s.harrowBlock p h g r c b) := by
  have hwindow : s.window h i = some w := Holding.window_of_mem (List.mem_of_find?_eq_some hfind)
  unfold Dev.harrowBlock
  extract_lets x wanted a first
  split
  next hnone => exact absurd (hnone.symm.trans hfind) nofun
  next i' w' hsome =>
    obtain ⟨rfl, rfl⟩ : i' = i ∧ w' = w := Prod.mk.inj (Option.some.inj (hsome.symm.trans hfind))
    extract_lets k q kind n vals gs sats spans rd bad covered eff s1 s2 s3 s4 under s5 s6 s7 per s8
    have hgo : rd.2.wait = false := hread
    rw [if_neg (by rw [hgo, hstaged]; decide)]
    have hstands : rd.2.dev.bench = s.bench :=
      Dev.bench_of_standing ((readSpans_standing ..).trans (s.blockValues_standing ..))
    clear_value rd
    have hopened : s.Takes h i' c b s1 := Dev.Takes.take hwindow hstands (w'.chunk_chunk c)
      (congrArg RedBlock.taken (Laws.Tab.get_set_same ..))
    have hcounted : s4.bench = s1.bench := by
      have h2 : s2.bench = s1.bench := Dev.bench_ite _ (Dev.count_bench ..) rfl
      have h3 : s3.bench = s2.bench := Dev.bench_ite _ rfl (Dev.countNum_bench ..)
      have h4 : s4.bench = s3.bench := Dev.bench_ite _ (Dev.countNum_bench ..) rfl
      exact h4.trans (h3.trans h2)
    have hskipped : s5.bench = s4.bench := Dev.bench_ite _ (Dev.skipBlock_bench ..) rfl
    have hformed : s.Takes h i' c b s6 := by
      refine (hopened.of_bench (hskipped.trans hcounted)).foldl (fun d z hd => ?_) rd.1
      split
      · exact (hd.of_bench ((Dev.count_bench ..).trans (plainWords_bench ..))).putOut ..
      · exact (hd.of_bench ((Dev.tallyElems_bench ..).trans (Span.write_bench ..))).putOut ..
    have hforwarded : s7.yard = s6.yard := by
      refine foldl_preserves Dev.yard (fun d z => ?_) s6 spans
      split
      · split
        · rfl
        · exact d.forward_yard ..
      · rfl
    have hsent : s.Takes h i' c b s8 := (hformed.of_yard hforwarded).sendFlits ..
    exact (hsent.of_bench (s8.sendTrailer_bench ..)).of_yard (Dev.yard_of_shop (Dev.runHomes_shop ..))

end Blocks

/-! ### The commands (R365, R371) -/

theorem exec_harrowBlock {s : State} {p : PortId} {h : HoldId} {c : ChunkRef} {block i : Nat} {w : RedWindow}
    (hup : s.dev.clocked = true)
    (hfind : (((s.dev.holding h).windowsOf p c.group.val c.reduction.val).find? fun q =>
      (Tab.get {} (q.2.chunk c.chunk).blocks block).final && !(Tab.get {} (q.2.chunk c.chunk).blocks block).taken) = some (i, w))
    (hread : (s.dev.harrowReads p h c w block).wait = false) (hstaged : s.dev.stagingHeld p h w c.chunk block = false) :
    ∃ t, exec (.harrowBlock p h c block) s = .next t ∧ t.pending = s.pending
      ∧ (∃ v, t.dev.window h i = some v ∧ (Tab.get {} (v.chunk c.chunk).blocks block).taken = true)
      ∧ t.dev.cores = s.dev.cores ∧ t.dev.queues = s.dev.queues ∧ t.dev.gotre = s.dev.gotre := by
  obtain ⟨hcores, htaken⟩ := Dev.harrowBlock_takes p c.group.val c.reduction.val hfind hread hstaged
  refine ⟨_, work_clocked s (s.dev.netScope (s.dev.harrowBlock p h c.group.val c.reduction.val c.chunk block)) hup, rfl, ?_,
    (Dev.netScope_cores ..).trans hcores, Dev.netScope_queues .., Dev.netScope_gotre ..⟩
  simpa only [Dev.window, Dev.holding, Dev.netScope_holdings] using htaken

section Homes
variable {s : State} {p : PortId} {h : HoldId} {entry : Fin 4096} {block : Nat} 

/-- A home that has not run holds each forwarded value. -/
theorem Dev.takeForward_holds (d : Dev) (entry first : Nat) (vs : List (Option PWord))
    (hopen : ∀ z ∈ (d.holding h).precond, z.entry = entry → z.block = block → z.done = false) :
    ∃ z ∈ ((d.takeForward p h entry block first vs).holding h).precond, z.entry = entry ∧ z.block = block
      ∧ ∀ i < vs.length, (z.values.any fun u => u.1 == first + i) = true := by
  have hhome : ∃ z ∈ (if (d.holding h).precond.any fun z => z.entry == entry && z.block == block then (d.holding h).precond
      else (d.holding h).precond ++ [{ port := p, entry := entry, block := block, values := [], done := false }]),
      z.entry = entry ∧ z.block = block ∧ z.done = false := by
    split
    next hany =>
      obtain ⟨z, hz, hmatch⟩ := List.any_eq_true.1 hany
      obtain ⟨hentry, hblock⟩ : z.entry = entry ∧ z.block = block := by simpa using hmatch
      exact ⟨z, hz, hentry, hblock, hopen z hz hentry hblock⟩
    next => exact ⟨_, List.mem_append_right _ (List.mem_singleton_self _), rfl, rfl, rfl⟩
  obtain ⟨z, hz, hentry, hblock, hwaits⟩ := hhome
  rw [Dev.takeForward, Dev.holding_modHolding, if_pos rfl]
  refine ⟨_, List.mem_map.2 ⟨z, hz, rfl⟩, ?_⟩
  rw [if_pos ⟨hentry, hblock, hwaits⟩]
  refine ⟨hentry, hblock, fun i hi => ?_⟩
  by_cases hold : (z.values.any fun u => u.1 == first + i) = true
  · rw [List.any_append, hold, Bool.true_or]
  · rw [List.any_append, Bool.or_eq_true]
    refine .inr (List.any_eq_true.2 ⟨(first + i, nthD vs i none), List.mem_filter.2
      ⟨List.mem_map.2 ⟨i, List.mem_range.2 hi, rfl⟩, ?_⟩, beq_self_eq_true _⟩)
    rw [Bool.eq_false_iff.2 hold]
    rfl

theorem exec_precondForward (hup : s.dev.clocked = true) (first : Nat) (vs : List (Option PWord))
    (hopen : ∀ z ∈ (s.dev.holding h).precond, z.entry = entry.val → z.block = block → z.done = false) :
    ∃ t, exec (.precondForward p h entry block first vs) s = .next t ∧ t.pending = s.pending
      ∧ (∃ z ∈ (t.dev.holding h).precond, z.entry = entry.val ∧ z.block = block
          ∧ ∀ i < vs.length, (z.values.any fun u => u.1 == first + i) = true)
      ∧ t.dev.cores = s.dev.cores ∧ t.dev.queues = s.dev.queues := by
  have hheld := Dev.takeForward_holds (p := p) (block := block) s.dev entry.val first vs hopen
  have hcores := Dev.cores_of_yard (s.dev.takeForward_yard p h entry.val block first vs)
  have hran := (s.dev.takeForward p h entry.val block first vs).runHomes_shop p h
  refine ⟨_, work_clocked s (s.dev.netScope ((s.dev.takeForward p h entry.val block first vs).runHomes p h)) hup, rfl, ?_,
    (Dev.netScope_cores ..).trans ((Dev.cores_of_yard (Dev.yard_of_shop hran)).trans hcores), Dev.netScope_queues ..⟩
  dsimp only
  rw [Dev.holding_congr (Dev.netScope_holdings ..)]
  generalize s.dev.takeForward p h entry.val block first vs = d at *
  obtain ⟨z, hz, hentry, hblock, hvalues⟩ := hheld
  have hunmarked : ((d.runHomes p h).holding h).precond.map PrecondWait.unmarked
      = (d.holding h).precond.map PrecondWait.unmarked := (congrArg (fun x => (x.2 h).2) hran :)
  obtain ⟨y, hy, hsame⟩ := List.mem_map.1 (hunmarked ▸ List.mem_map_of_mem (f := PrecondWait.unmarked) hz)
  have hvalues' : y.values = z.values := (congrArg PrecondWait.values hsame :)
  refine ⟨y, hy, (congrArg PrecondWait.entry hsame :).trans hentry, (congrArg PrecondWait.block hsame :).trans hblock, ?_⟩
  rw [hvalues']
  exact hvalues

end Homes

/-! ### Forwards that stay away (R371) -/

section Deadline

theorem hrwReg_ne_klxReg {k off : Nat} (hk : k < 0x1000) (hoff : off ∈ sendCounters) (p q : PortId) : hrwReg p k ≠ klxReg q off := by
  have hlt : off < 0x1000 := (by decide : ∀ a ∈ sendCounters, a < 0x1000) off hoff
  simp only [hrwReg, klxReg, regAt, linkDie]
  omega

theorem hrwReg_ne_hdlReg {k : Nat} (hk : k < 0x1000) (p q : PortId) : hrwReg p k ≠ hdlReg q 0x18 := by
  simp only [hrwReg, hdlReg, regAt, linkDie]
  omega

theorem hrwReg_ne_redReg {j k : Nat} (hj : j < 0x1000) (hk : k < 0x1000) (p q : PortId) : hrwReg p k ≠ redReg q j := by
  simp only [hrwReg, redReg, regAt, linkDie]
  omega

variable (s : Dev) (p : PortId) (h : HoldId)

/-- The Harrow's counters stand as a trailer leaves, and so does device time. -/
theorem Dev.sendTrailer_keeps (w : RedWindow) {k : Nat} (hk : k < 0x1000) :
    (s.sendTrailer p h w).ctr (hrwReg p k) = s.ctr (hrwReg p k) ∧ (s.sendTrailer p h w).dt = s.dt := by
  have htaken : ∀ (d : Dev) g r src recs, (d.takeTrailer p h g r src recs).ctr (hrwReg p k) = d.ctr (hrwReg p k)
      ∧ (d.takeTrailer p h g r src recs).dt = d.dt := fun d g r src recs => by
    unfold Dev.takeTrailer
    extract_lets x key
    split_ifs
    · exact ⟨Dev.ctr_count_ne d (some h) (hrwReg_ne_redReg (by decide) hk p p) 1, rfl⟩
    · exact ⟨Dev.ctr_count_ne d (some h) (hrwReg_ne_redReg (by decide) hk p p) 1, rfl⟩
    · exact ⟨rfl, rfl⟩
    · exact ⟨rfl, rfl⟩
  unfold Dev.sendTrailer
  extract_lets x g r recs dst s1
  split
  · exact ⟨rfl, rfl⟩
  · have hctr : s1.ctr (hrwReg p k) = s.ctr (hrwReg p k) :=
      foldl_preserves (fun d : Dev => d.ctr (hrwReg p k)) (fun d m => d.sendFrom_ctr p m 1
        (fun _ hoff q => hrwReg_ne_klxReg hk hoff p q) (hrwReg_ne_hdlReg hk p) (.holding h) (.trailer h g r recs)) s dst
    have hdt : s1.dt = s.dt := foldl_preserves Dev.dt (fun d m =>
      (Dev.apartFromSends_eq_iff.1 (d.sendFrom_apart m 1 (.holding h) (.trailer h g r recs) p [])).2.2.1) s dst
    obtain ⟨tctr, tdt⟩ := htaken s1 g r s.number recs
    exact ⟨tctr.trans hctr, tdt.trans hdt⟩

/-- The home of a preconditioner block, as it stands or as it would begin. -/
def Holding.home (x : Holding) (p : PortId) (entry block : Nat) : PrecondWait :=
  (x.precond.find? fun v => v.entry == entry && v.block == block).getD
    { port := p, entry := entry, block := block, values := [], done := false }

theorem Holding.home_spec {x : Holding} {p : PortId} {entry block n : Nat} (hn : 0 < n)
    (hopen : ∀ z ∈ x.precond, z.entry = entry → z.block = block → z.done = false ∧ z.port = p ∧ z.values.length < n) :
    (x.home p entry block).entry = entry ∧ (x.home p entry block).block = block ∧ (x.home p entry block).done = false
      ∧ (x.home p entry block).port = p ∧ (x.home p entry block).values.length < n := by
  unfold Holding.home
  cases hfind : x.precond.find? fun v => v.entry == entry && v.block == block with
  | none => exact ⟨rfl, rfl, rfl, rfl, hn⟩
  | some z =>
    obtain ⟨hentry, hblock⟩ : z.entry = entry ∧ z.block = block := by simpa using List.find?_some hfind
    exact ⟨hentry, hblock, hopen z (List.mem_of_find?_eq_some hfind) hentry hblock⟩

end Deadline

theorem exec_forwardDeadline {s : State} {p : PortId} {h : HoldId} {entry : Fin 4096} {block : Nat}
    (hup : s.dev.clocked = true) (e : UpdateEntry) (i : Nat) (w : RedWindow)
    (hentry : Tab.get none (s.dev.holding h).entries entry.val = some e) (hrule : e.rule = 3) (hblock : block < e.blocks)
    (hwindow : ((s.dev.holding h).windowsOf p e.group e.reduction).head? = some (i, w))
    (hopen : ∀ z ∈ (s.dev.holding h).precond, z.entry = entry.val → z.block = block →
      z.done = false ∧ z.port = p ∧ z.values.length < e.br * e.bc) (hsize : 0 < e.br * e.bc) :
    ∃ t, exec (.forwardDeadline p h entry block) s = .next t ∧ t.pending = s.pending
      ∧ (∃ z ∈ (t.dev.holding h).precond, z.entry = entry.val ∧ z.block = block ∧ z.done = true)
      ∧ t.dev.ctr (hrwReg p 0x50) = addStop64 (s.dev.ctr (hrwReg p 0x50)) 1
      ∧ t.dev.dt = (s.dev.advanceTo (w.dataEnd + BitVec.ofNat 64 w.policy.dataWindow)).dt
      ∧ t.dev.cores = s.dev.cores ∧ t.dev.queues = s.dev.queues := by
  obtain ⟨zentry, zblock, zdone, zport, zlen⟩ := Holding.home_spec hsize hopen
  obtain ⟨d, hd⟩ : ∃ d, d = s.dev.advanceTo (w.dataEnd + BitVec.ofNat 64 w.policy.dataWindow) := ⟨_, rfl⟩
  obtain ⟨now, hnow⟩ := s.dev.advanceTo_frame (w.dataEnd + BitVec.ofNat 64 w.policy.dataWindow)
  rw [← hd] at hnow
  have hgo : ¬(((s.dev.holding h).home p entry.val block).done
      || decide (e.br * e.bc ≤ ((s.dev.holding h).home p entry.val block).values.length) || e.rule != 3
      || decide (e.blocks ≤ block) || ((s.dev.holding h).home p entry.val block).port != p) = true := by
    simp [zdone, hrule, zport, hblock, zlen]
  obtain ⟨u, hu⟩ : ∃ u, u = (d.count (some h) (hrwReg p 0x50) 1).modHolding h fun y =>
      { y with precond := (y.precond.filter fun v => v.entry != entry.val || v.block != block)
          ++ [{ (s.dev.holding h).home p entry.val block with done := true }] } := ⟨_, rfl⟩
  have hset : s.dev.forwardDeadline p h entry.val block = u.sendTrailer p h w := by
    rw [Dev.forwardDeadline, hentry]
    dsimp only
    rw [hwindow, hu, hd]
    exact if_neg hgo
  have hgiven : { (s.dev.holding h).home p entry.val block with done := true } ∈ (u.holding h).precond := by
    rw [hu, Dev.holding_modHolding, if_pos rfl]
    exact List.mem_append_right _ (List.mem_singleton_self _)
  have hcount : u.ctr (hrwReg p 0x50) = addStop64 (s.dev.ctr (hrwReg p 0x50)) 1 := by
    rw [hu]
    refine (Dev.ctr_count_same d (some h) _ 1).trans ?_
    rw [hnow]
    rfl
  have hkept : u.dt = d.dt ∧ u.cores = s.dev.cores := by
    rw [hu, hnow]
    exact ⟨rfl, rfl⟩
  have hbench := u.sendTrailer_bench p h w
  obtain ⟨tctr, tdt⟩ := u.sendTrailer_keeps p h w (k := 0x50) (by decide)
  refine ⟨_, work_clocked s { s.dev.netScope (s.dev.forwardDeadline p h entry.val block) with
    dt := (s.dev.forwardDeadline p h entry.val block).dt } hup, rfl, ?_⟩
  rw [hset]
  refine ⟨⟨{ (s.dev.holding h).home p entry.val block with done := true }, ?_, zentry, zblock, rfl⟩, tctr.trans hcount, (tdt.trans hkept.1).trans (congrArg Dev.dt hd),
    (Dev.cores_of_yard (Dev.yard_of_shop (Dev.shop_of_bench hbench))).trans hkept.2, rfl⟩
  exact (Dev.precond_of_bench hbench h).symm ▸ hgiven

/-- Settles O26: a block that is taken stays taken while its values leave, and a home keeps what it has gathered. -/
theorem theHarrowTakesAndForwardsBlocks : Obligations.TheHarrowTakesAndForwardsBlocks := by
  unfold Obligations.TheHarrowTakesAndForwardsBlocks
  exact ⟨fun s p h c block i w hup hfind hread hstaged => exec_harrowBlock hup hfind hread hstaged,
    fun s p h entry block hup => ⟨exec_precondForward hup, exec_forwardDeadline hup⟩⟩

end Sys2Proof.Machine
